-- ==== Sys2Proof/Word.lean ====
section
/-!
DEFINITION. The word types of the DX9: bytes, lane words and 64-bit words (00 R3 to R6), the 32 lane
words of one vector register, and finite maps held as lists of key and value pairs.
-/

namespace Sys2Proof

/-- A byte of memory (R4). -/
abbrev Byte := BitVec 8

/-- A lane word (R6). -/
abbrev Word := BitVec 32

/-- A register of the W and G classes (07 R189). -/
abbrev DWord := BitVec 64

/-- The 32 lane words of one V register, lane 0 first (R4). -/
abbrev Lanes := List Word

/-- A finite map: keys strictly rising. -/
abbrev SMap (α : Type) := List (Nat × α)

/-- The two instruction streams of a kernel variant (02 R30). -/
inductive Stream where
  | lane
  | uniform
deriving DecidableEq, Repr

end Sys2Proof
end

