-- ==== Sys2Proof/Config.lean ====
section
/-!
DEFINITION. What the spec leaves open as a value: constants without a body, so that no proof can
rest on a value of them (assumption log, entries 6 and 7).
-/

namespace Sys2Proof.Config

/-- The n-th free value drawn by the machine (log entry 6). -/
opaque freeWord : Nat → BitVec 64

/-- Byte o of the device state area as written by the n-th save (13 R302: its layout is not
architectural; log entry 6). -/
opaque deviceByte : Nat → Nat → BitVec 8

/-- A candidate for an elementary function (08 R209): the function's number and the operand's bits.
The result is the candidate moved into the error bound R209 states (log entry 7). -/
opaque elemCandidate : Nat → BitVec 64 → BitVec 64

/-- SHA-512 of a byte string (02 R60, 17 R387), which the spec names and does not define. -/
opaque sha512 : List (BitVec 8) → List (BitVec 8)

/-- Which of the eight public keys fused at manufacture a key identifier names, if any; and whether the fuses revoke a key
(17 R387). -/
opaque fusedKey : BitVec 64 → Option (Fin 8)
opaque revoked : Fin 8 → Bool

/-- Whether an Ed25519 signature of a digest by a fused key verifies (17 R387). -/
opaque ed25519Ok : Fin 8 → List (BitVec 8) → List (BitVec 8) → Bool

/-- A signature verifies: by a key that is known and not revoked (17 R387). -/
def signatureOk (key : BitVec 64) (digest sig : List (BitVec 8)) : Bool :=
  match fusedKey key with
  | some k => !revoked k && ed25519Ok k digest sig
  | none => false

/-- The firmware images with their key identifiers and signatures, which boot ROMs verify (17 R387, R389). -/
opaque firmwareImages : List (List (BitVec 8) × BitVec 64 × List (BitVec 8))

/-- Every firmware image verifies (17 R387). -/
def firmwareVerified : Bool := firmwareImages.all fun x => signatureOk x.2.1 (sha512 x.1) x.2.2

/-- By how much the count of a core differs from the module's, after each reset (01 R23). -/
opaque clkSkew : Nat → Nat → Nat

/-- The identity key's signature of a message (17 R387). -/
opaque identitySign : List (BitVec 8) → List (BitVec 8)

/-- The bytes of the fuse state (17 R387). -/
opaque fuseState : List (BitVec 8)

/-- The measured bytes: each firmware image, and the fuse state (17 R387). -/
def measuredImages : List (List (BitVec 8)) := firmwareImages.map (·.1) ++ [fuseState]

end Sys2Proof.Config
end

