-- ==== Sys2Proof/Syntax.lean ====
section
/-!
DEFINITION. The instructions and events of the DX9: one constructor per row of the opcode table.
A constructor of a 64-bit row carries the header fields of 02 R34 and the cue nibble (R35), then its
operands destination first; the 32-bit rows carry the DIST code of R38; the compact rows the two
registers of R39. The first 98 constructors are the events of the table, with what an event names.
-/

namespace Sys2Proof

/-- A source operand (02 R42, R43, R44): a register, a queue pop, a latch, a special code or the
immediate of R44. -/
inductive Src where
  | v (n : Nat)
  | q (n : Nat)
  | l (n : Nat)
  | zero
  | laneId
  | waveId
  | w (n : Nat)
  | g (n : Nat)
  | imm (x : BitVec 16)
deriving DecidableEq, Repr

/-- A destination operand (02 R42); p is the raw predicate number of an integer comparison in the
lane stream (08 R203). -/
inductive Dst where
  | v (n : Nat)
  | w (n : Nat)
  | g (n : Nat)
  | p (n : Nat)
deriving DecidableEq, Repr

/-- The control fields of the 64-bit word (02 R34) and the cue nibble of its slot (R35). -/
structure Hdr where
  wait : BitVec 12
  dist : BitVec 3
  pmode : BitVec 2
  preg : BitVec 3
  nw : Bool
  cue : BitVec 4
deriving DecidableEq, Repr

/-- The hint control byte (02 R47): cache field, home-die hint valid, home die. -/
structure Hint where
  cache : BitVec 2
  hdv : Bool
  hd : BitVec 4
deriving DecidableEq, Repr

/-- The scope control byte (02 R47): order and scope. -/
structure Scope where
  order : BitVec 2
  scope : BitVec 3
deriving DecidableEq, Repr

/-- Who issues instructions (12 R284): a split of a wave, or the sequencer, of the group at place g
(64 x core + group slot, 15 R356). -/
inductive Agent where
  | split (g w sp : Nat)
  | seq (g : Nat)
deriving DecidableEq, Repr

/-- A unit that firmware or the host can retire (16 R370). -/
inductive RetUnit where
  | core (n : Nat)
  | array (n : Nat)
  | cluster (n : Nat)
  | die (n : Nat)
  /-- the same in the other direction: firmware takes a die out of the retirement map (01 R19) -/
  | dieBack (n : Nat)
deriving DecidableEq, Repr

/-- The form of a transport instruction (05 R117). -/
inductive XForm where
  | gather
  | sum
  | max
  | mean
  | scadd
  | scmax
  | score
deriving DecidableEq, Repr

/-- A row that a request names (05 R114, R128): the lowest slot that names it and that slot's bag, which tag the reply,
the local row, and the folded contribution for the scatter forms or the query for the score form. -/
structure RemoteAsk where
  slot : Nat
  bag : Nat
  row : Nat
  words : List Word
deriving DecidableEq, Repr

/-- What one package asks of another (05 R113, R114): rows of one context; with first, only the outcome of its row, the
first slot's (R123). -/
structure RemoteReq where
  pkg : Nat
  tag : Nat
  reqId : Nat
  form : XForm
  etype : BitVec 8
  fmtw : BitVec 16
  base : DWord
  extents : List Nat
  strides : List Int
  rows : List RemoteAsk
  first : Bool
deriving DecidableEq, Repr

/-- One row of a reply: the slot and the bag that tag it, the outcome code of 05 R126 (0 valid) and the row's bytes. -/
structure RemoteRow where
  slot : Nat
  bag : Nat
  cause : Nat
  bytes : List Byte
deriving DecidableEq, Repr

/-- The system-space registers that have no event row of their own for a write (00 R8, 01 R19, R24,
03 R75, 16 R364, R366, 17 R378, R382 to R388). -/
inductive SysReg where
  | pkgLive
  | pkgFreq
  | pkgXinv
  | pkgFsvc
  | pkgCtxcmd
  | pkgFrz
  | xqStat (x : Nat)
  | xqHead (x : Nat)
  | pwrCap
  | pwrWin
  | pwrResp
  | pwrDraw
  | pwrStat
  | dlkPkgid
  | dlkStat (port : Nat)
  | dlkLanecnt (port : Nat)
  | dlkCtl (port : Nat)
deriving DecidableEq, Repr

/-- A request of the host to the module's memory (17 R377). -/
inductive HostAcc where
  | read (dpa len : Nat)
  | write (dpa : Nat) (bytes : List Byte)
  | sysRead (addr len : Nat)
  | sysWrite (addr : Nat) (bytes : List Byte)
  /-- a read of a register of BAR0, and of its event window (R382) -/
  | regRead (reg : SysReg)
  | eventRead (xdie ofs len : Nat)
  /-- the completion timeout of a host port is programmed, in ms -/
  | timeout (xdie ms : Nat)
deriving DecidableEq, Repr

/-- One constructor per row of the opcode table: the events, then the instructions of the streams, each in the
table's order. -/
inductive Instr where
  | waitExpiry (ag : Agent)
  | resultWriteback (ag : Agent)
  | issueSelect (core quarter : Nat)
  | sequencerPortIssue (core : Nat)
  | loadComplete (id : Nat) (mask : BitVec 32)
  | storePerformed (id lane : Nat)
  | atomicPerform (id : Nat)
  | tlbWalkComplete (id : Nat)
  | replayEntryReplay (core id : Nat)
  | uncorrectableError (ag : Agent)
  | transportFirstSlot (id slot : Nat)
  | transportRemoteRequest (req : RemoteReq)
  | rowEngineChunk (id slot : Nat)
  | transportReply (id pkg : Nat) (rows : List RemoteRow)
  | transportReplyTimeout (id pkg : Nat)
  | transportComplete (id : Nat)
  | xstatRecord (g w : Nat)
  | queryLoadComplete (id : Nat)
  | querySlotReload (q : Nat)
  | copyTranslated (id : Nat)
  | copyComplete (id : Nat)
  | dmaChunk (ch : Nat)
  | dmaComplete (ch : Nat)
  | hfetchComplete (id : Nat) (mask : BitVec 32)
  | fibldComplete (id : Nat) (mask : BitVec 32)
  | rowscanReadAhead (g : Nat)
  | rookQueueStart (g q : Nat)
  | rookQueueStop (g q : Nat)
  | rookEntryPush (g q : Nat)
  | matrixCommandComplete (g : Nat)
  | mswapTakeEffect (g : Nat)
  | barrierComplete (g : Nat)
  | mbarComplete (g k : Nat)
  | gridBarrierComplete (grid : Nat)
  | joinRelease (g w : Nat)
  | spawnComplete (id : Nat)
  | launchAnswer (id : Nat)
  | launchCellWrite (ctx : Nat) (bytes : List Byte) (seq : Option DWord)
  | launchCellPoll (ctx : Nat)
  | dispatchBatch (grid die k : Nat)
  | groupPlace (die : Nat)
  | dictionaryBankLoad (core bank : Nat)
  | instructionRowFill (core row : Nat)
  | dependencePoll (grid : Nat)
  | recordCountRead (grid : Nat)
  | commitPoint (g : Nat)
  | redundantThirdRun (g : Nat)
  | groupResume (die : Nat)
  | earlyCommit (g : Nat)
  | groupRetire (g : Nat)
  | gridRetire (grid : Nat)
  | taskRetry (grid index : Nat)
  | taskRestart (grid index : Nat)
  | timeSliceExpiry (core : Nat)
  | coalescerRecordClose (unit : Nat)
  | faultBufferRetry (unit : Nat)
  | xqFreeRecord (xdie : Nat)
  | freqChange (tgt : BitVec 8)
  | dieQuiesced (die : Nat)
  | pllRelocked
  | handshakeTimeout
  | xinvPage (ctx : BitVec 12) (va : BitVec 32) (rsv : BitVec 16)
  | xinvContext (ctx : BitVec 12) (va : BitVec 32) (rsv : BitVec 16)
  | xinvAll (va : BitVec 32) (rsv : BitVec 16)
  | xinvDone
  | fsvcService (ctx : BitVec 12) (va : BitVec 32) (rsv : BitVec 17)
  | fsvcFail (ctx : BitVec 12) (va : BitVec 32) (rsv : BitVec 17)
  | fsvcDone
  | ctxCreate (ctx : BitVec 12) (arg : BitVec 42) (rsv : BitVec 5)
  | ctxDrain (ctx : BitVec 12) (rsv : BitVec 5)
  | ctxDrainForced (ctx : BitVec 12) (rsv : BitVec 5)
  | ctxResume (ctx : BitVec 12) (arg : BitVec 42) (rsv : BitVec 5)
  | ctxDestroy (ctx : BitVec 12) (arg : BitVec 42) (rsv : BitVec 5)
  | ctxReleaseGrid (ctx : BitVec 12) (arg : BitVec 42) (rsv : BitVec 5)
  | drainComplete (ctx : Nat)
  | drainDeadline (ctx core : Nat)
  | freeze
  | thaw
  | stateReadout (die : Nat)
  | debugRelease (ag : Agent)
  | counterHalving
  | unitRetire (u : RetUnit)
  | powerSample (watts : BitVec 16)
  | flitReplay (port : Nat) (ok : Bool)
  | portRetrain (port : Nat)
  | portDown (port : Nat)
  | laneSpare (port lane : Nat)
  | laneSpareGo (port lane : Nat)
  | portHalfWidth (port : Nat)
  | laneCountWindow (port : Nat)
  | hostLinkDown (xdie : Nat)
  | hostMemoryAccess (acc : HostAcc)
  | moduleReset
  | registerWrite (reg : SysReg) (val : DWord)
  | hostLinkReturn (xdie : Nat) (cxl : Bool)
  | fabricRouteUpdate (pkg : Nat) (up : Bool) (port : Nat)
  | linkTrained (port : Nat)
  | spdmAttestation (nonce : DWord)
  | nop
  | dictionaryReference (dist : BitVec 3) (entry : BitVec 10)
  | addI32 (h : Hdr) (d : Dst) (a b : Src)
  | addI32W32 (dist : BitVec 2) (d : Dst) (a b : Src)
  | addI32C16 (d : Dst) (b : Src)
  | subI32 (h : Hdr) (d : Dst) (a b : Src)
  | subI32W32 (dist : BitVec 2) (d : Dst) (a b : Src)
  | subI32C16 (d : Dst) (b : Src)
  | addSatI32 (h : Hdr) (d : Dst) (a b : Src)
  | addSatI32W32 (dist : BitVec 2) (d : Dst) (a b : Src)
  | subSatI32 (h : Hdr) (d : Dst) (a b : Src)
  | subSatI32W32 (dist : BitVec 2) (d : Dst) (a b : Src)
  | addSatN32 (h : Hdr) (d : Dst) (a b : Src)
  | addSatN32W32 (dist : BitVec 2) (d : Dst) (a b : Src)
  | subSatN32 (h : Hdr) (d : Dst) (a b : Src)
  | subSatN32W32 (dist : BitVec 2) (d : Dst) (a b : Src)
  | addI16 (h : Hdr) (d : Dst) (a b : Src)
  | addI16W32 (dist : BitVec 2) (d : Dst) (a b : Src)
  | subI16 (h : Hdr) (d : Dst) (a b : Src)
  | subI16W32 (dist : BitVec 2) (d : Dst) (a b : Src)
  | mulI32 (h : Hdr) (d : Dst) (a b : Src)
  | mulI32W32 (dist : BitVec 2) (d : Dst) (a b : Src)
  | mulhiI32 (h : Hdr) (d : Dst) (a b : Src)
  | mulhiI32W32 (dist : BitVec 2) (d : Dst) (a b : Src)
  | mulhiN32 (h : Hdr) (d : Dst) (a b : Src)
  | mulhiN32W32 (dist : BitVec 2) (d : Dst) (a b : Src)
  | mulSatI32 (h : Hdr) (d : Dst) (a b : Src)
  | mulSatI32W32 (dist : BitVec 2) (d : Dst) (a b : Src)
  | mulI16 (h : Hdr) (d : Dst) (a b : Src)
  | mulI16W32 (dist : BitVec 2) (d : Dst) (a b : Src)
  | andB32 (h : Hdr) (d : Dst) (a b : Src)
  | andB32W32 (dist : BitVec 2) (d : Dst) (a b : Src)
  | andB32C16 (d : Dst) (b : Src)
  | orB32 (h : Hdr) (d : Dst) (a b : Src)
  | orB32W32 (dist : BitVec 2) (d : Dst) (a b : Src)
  | orB32C16 (d : Dst) (b : Src)
  | xorB32 (h : Hdr) (d : Dst) (a b : Src)
  | xorB32W32 (dist : BitVec 2) (d : Dst) (a b : Src)
  | xorB32C16 (d : Dst) (b : Src)
  | andnB32 (h : Hdr) (d : Dst) (a b : Src)
  | andnB32W32 (dist : BitVec 2) (d : Dst) (a b : Src)
  | ornB32 (h : Hdr) (d : Dst) (a b : Src)
  | ornB32W32 (dist : BitVec 2) (d : Dst) (a b : Src)
  | xnorB32 (h : Hdr) (d : Dst) (a b : Src)
  | xnorB32W32 (dist : BitVec 2) (d : Dst) (a b : Src)
  | shlB32 (h : Hdr) (d : Dst) (a b : Src)
  | shlB32W32 (dist : BitVec 2) (d : Dst) (a b : Src)
  | shlB32C16 (d : Dst) (b : Src)
  | shrN32 (h : Hdr) (d : Dst) (a b : Src)
  | shrN32W32 (dist : BitVec 2) (d : Dst) (a b : Src)
  | shrN32C16 (d : Dst) (b : Src)
  | shrI32 (h : Hdr) (d : Dst) (a b : Src)
  | shrI32W32 (dist : BitVec 2) (d : Dst) (a b : Src)
  | rotlB32 (h : Hdr) (d : Dst) (a b : Src)
  | rotlB32W32 (dist : BitVec 2) (d : Dst) (a b : Src)
  | rotrB32 (h : Hdr) (d : Dst) (a b : Src)
  | rotrB32W32 (dist : BitVec 2) (d : Dst) (a b : Src)
  | minI32 (h : Hdr) (d : Dst) (a b : Src)
  | minI32W32 (dist : BitVec 2) (d : Dst) (a b : Src)
  | minI32C16 (d : Dst) (b : Src)
  | maxI32 (h : Hdr) (d : Dst) (a b : Src)
  | maxI32W32 (dist : BitVec 2) (d : Dst) (a b : Src)
  | maxI32C16 (d : Dst) (b : Src)
  | minN32 (h : Hdr) (d : Dst) (a b : Src)
  | minN32W32 (dist : BitVec 2) (d : Dst) (a b : Src)
  | maxN32 (h : Hdr) (d : Dst) (a b : Src)
  | maxN32W32 (dist : BitVec 2) (d : Dst) (a b : Src)
  | adifI32 (h : Hdr) (d : Dst) (a b : Src)
  | adifI32W32 (dist : BitVec 2) (d : Dst) (a b : Src)
  | adifN32 (h : Hdr) (d : Dst) (a b : Src)
  | adifN32W32 (dist : BitVec 2) (d : Dst) (a b : Src)
  | bfextN32 (h : Hdr) (d : Dst) (a b : Src)
  | bfextN32W32 (dist : BitVec 2) (d : Dst) (a b : Src)
  | bfextI32 (h : Hdr) (d : Dst) (a b : Src)
  | bfextI32W32 (dist : BitVec 2) (d : Dst) (a b : Src)
  | bfinsB32 (h : Hdr) (d : Dst) (a b c : Src)
  | bfinsB32W32 (dist : BitVec 2) (d : Dst) (a b : Src)
  | popcB32 (h : Hdr) (d : Dst) (a : Src)
  | popcB32W32 (dist : BitVec 2) (d : Dst) (a : Src)
  | clzB32 (h : Hdr) (d : Dst) (a : Src)
  | clzB32W32 (dist : BitVec 2) (d : Dst) (a : Src)
  | brevB32 (h : Hdr) (d : Dst) (a : Src)
  | brevB32W32 (dist : BitVec 2) (d : Dst) (a : Src)
  | addI64 (h : Hdr) (d : Dst) (a b : Src)
  | addI64W32 (dist : BitVec 2) (d : Dst) (a b : Src)
  | subI64 (h : Hdr) (d : Dst) (a b : Src)
  | subI64W32 (dist : BitVec 2) (d : Dst) (a b : Src)
  | addF32 (h : Hdr) (rnd : BitVec 2) (d : Dst) (a b : Src)
  | addF32W32 (dist : BitVec 2) (rnd : BitVec 2) (d : Dst) (a b : Src)
  | addF32C16 (d : Dst) (b : Src)
  | subF32 (h : Hdr) (rnd : BitVec 2) (d : Dst) (a b : Src)
  | subF32W32 (dist : BitVec 2) (rnd : BitVec 2) (d : Dst) (a b : Src)
  | subF32C16 (d : Dst) (b : Src)
  | mulF32 (h : Hdr) (rnd : BitVec 2) (d : Dst) (a b : Src)
  | mulF32W32 (dist : BitVec 2) (rnd : BitVec 2) (d : Dst) (a b : Src)
  | mulF32C16 (d : Dst) (b : Src)
  | addF16 (h : Hdr) (rnd : BitVec 2) (d : Dst) (a b : Src)
  | addF16W32 (dist : BitVec 2) (rnd : BitVec 2) (d : Dst) (a b : Src)
  | subF16 (h : Hdr) (rnd : BitVec 2) (d : Dst) (a b : Src)
  | subF16W32 (dist : BitVec 2) (rnd : BitVec 2) (d : Dst) (a b : Src)
  | addBf16 (h : Hdr) (rnd : BitVec 2) (d : Dst) (a b : Src)
  | addBf16W32 (dist : BitVec 2) (rnd : BitVec 2) (d : Dst) (a b : Src)
  | subBf16 (h : Hdr) (rnd : BitVec 2) (d : Dst) (a b : Src)
  | subBf16W32 (dist : BitVec 2) (rnd : BitVec 2) (d : Dst) (a b : Src)
  | mulF16 (h : Hdr) (rnd : BitVec 2) (d : Dst) (a b : Src)
  | mulF16W32 (dist : BitVec 2) (rnd : BitVec 2) (d : Dst) (a b : Src)
  | mulBf16 (h : Hdr) (rnd : BitVec 2) (d : Dst) (a b : Src)
  | mulBf16W32 (dist : BitVec 2) (rnd : BitVec 2) (d : Dst) (a b : Src)
  | minF32 (h : Hdr) (d : Dst) (a b : Src)
  | minF32W32 (dist : BitVec 2) (d : Dst) (a b : Src)
  | minF32C16 (d : Dst) (b : Src)
  | maxF32 (h : Hdr) (d : Dst) (a b : Src)
  | maxF32W32 (dist : BitVec 2) (d : Dst) (a b : Src)
  | maxF32C16 (d : Dst) (b : Src)
  | minF16 (h : Hdr) (d : Dst) (a b : Src)
  | minF16W32 (dist : BitVec 2) (d : Dst) (a b : Src)
  | maxF16 (h : Hdr) (d : Dst) (a b : Src)
  | maxF16W32 (dist : BitVec 2) (d : Dst) (a b : Src)
  | minBf16 (h : Hdr) (d : Dst) (a b : Src)
  | minBf16W32 (dist : BitVec 2) (d : Dst) (a b : Src)
  | maxBf16 (h : Hdr) (d : Dst) (a b : Src)
  | maxBf16W32 (dist : BitVec 2) (d : Dst) (a b : Src)
  | minF64 (h : Hdr) (d : Dst) (a b : Src)
  | minF64W32 (dist : BitVec 2) (d : Dst) (a b : Src)
  | maxF64 (h : Hdr) (d : Dst) (a b : Src)
  | maxF64W32 (dist : BitVec 2) (d : Dst) (a b : Src)
  | addF64 (h : Hdr) (rnd : BitVec 2) (d : Dst) (a b : Src)
  | addF64W32 (dist : BitVec 2) (rnd : BitVec 2) (d : Dst) (a b : Src)
  | subF64 (h : Hdr) (rnd : BitVec 2) (d : Dst) (a b : Src)
  | subF64W32 (dist : BitVec 2) (rnd : BitVec 2) (d : Dst) (a b : Src)
  | mulF64 (h : Hdr) (rnd : BitVec 2) (d : Dst) (a b : Src)
  | mulF64W32 (dist : BitVec 2) (rnd : BitVec 2) (d : Dst) (a b : Src)
  | lxchSelB32 (h : Hdr) (d : Dst) (a b : Src)
  | lxchSelB32W32 (dist : BitVec 2) (d : Dst) (a b : Src)
  | lxchLoB32 (h : Hdr) (d : Dst) (a b : Src)
  | lxchLoB32W32 (dist : BitVec 2) (d : Dst) (a b : Src)
  | lxchHiB32 (h : Hdr) (d : Dst) (a b : Src)
  | lxchHiB32W32 (dist : BitVec 2) (d : Dst) (a b : Src)
  | lxchFlipB32 (h : Hdr) (d : Dst) (a b : Src)
  | lxchFlipB32W32 (dist : BitVec 2) (d : Dst) (a b : Src)
  | movB32 (h : Hdr) (d : Dst) (b : Src)
  | movB32W32 (dist : BitVec 2) (d : Dst) (b : Src)
  | movB32C16 (d : Dst) (b : Src)
  | movXaB32 (h : Hdr) (d : Dst) (a : Nat)
  | movXaB32W32 (dist : BitVec 2) (d : Dst) (a : Nat)
  | movXdB32 (h : Hdr) (d : Nat) (b : Src)
  | movXdB32W32 (dist : BitVec 2) (d : Nat) (b : Src)
  | movXadB32 (h : Hdr) (d a : Nat)
  | movXadB32W32 (dist : BitVec 2) (d a : Nat)
  | packB16 (h : Hdr) (d : Dst) (a b : Src)
  | packB16W32 (dist : BitVec 2) (d : Dst) (a b : Src)
  | fmaF32 (h : Hdr) (rnd : BitVec 2) (d : Dst) (a b c : Src)
  | fnmaF32 (h : Hdr) (rnd : BitVec 2) (d : Dst) (a b c : Src)
  | fmaF64 (h : Hdr) (rnd : BitVec 2) (d : Dst) (a b c : Src)
  | fnmaF64 (h : Hdr) (rnd : BitVec 2) (d : Dst) (a b c : Src)
  | fmaF16 (h : Hdr) (rnd : BitVec 2) (d : Dst) (a b c : Src)
  | fnmaF16 (h : Hdr) (rnd : BitVec 2) (d : Dst) (a b c : Src)
  | fmaBf16 (h : Hdr) (rnd : BitVec 2) (d : Dst) (a b c : Src)
  | fnmaBf16 (h : Hdr) (rnd : BitVec 2) (d : Dst) (a b c : Src)
  | madI32 (h : Hdr) (d : Dst) (a b c : Src)
  | madhiI32 (h : Hdr) (d : Dst) (a b c : Src)
  | madhiN32 (h : Hdr) (d : Dst) (a b c : Src)
  | madSatI32 (h : Hdr) (d : Dst) (a b c : Src)
  | dot4I8 (h : Hdr) (d : Dst) (a b c : Src)
  | dot4N8 (h : Hdr) (d : Dst) (a b c : Src)
  | dot2I16 (h : Hdr) (d : Dst) (a b c : Src)
  | rcpF32 (h : Hdr) (rnd : BitVec 2) (d : Dst) (a : Src)
  | rsqrtF32 (h : Hdr) (d : Dst) (a : Src)
  | sqrtF32 (h : Hdr) (rnd : BitVec 2) (d : Dst) (a : Src)
  | exp2F32 (h : Hdr) (d : Dst) (a : Src)
  | log2F32 (h : Hdr) (d : Dst) (a : Src)
  | sinF32 (h : Hdr) (d : Dst) (a : Src)
  | cosF32 (h : Hdr) (d : Dst) (a : Src)
  | rcpF64 (h : Hdr) (rnd : BitVec 2) (d : Dst) (a : Src)
  | rsqrtF64 (h : Hdr) (d : Dst) (a : Src)
  | sqrtF64 (h : Hdr) (rnd : BitVec 2) (d : Dst) (a : Src)
  | cmpEqB32 (h : Hdr) (d : Dst) (a b : Src)
  | cmpNeB32 (h : Hdr) (d : Dst) (a b : Src)
  | cmpLtI32 (h : Hdr) (d : Dst) (a b : Src)
  | cmpLeI32 (h : Hdr) (d : Dst) (a b : Src)
  | cmpLtN32 (h : Hdr) (d : Dst) (a b : Src)
  | cmpLeN32 (h : Hdr) (d : Dst) (a b : Src)
  | tstB32 (h : Hdr) (d : Dst) (a b : Src)
  | cmpEqF32 (h : Hdr) (p : BitVec 3) (a b : Src)
  | cmpNeF32 (h : Hdr) (p : BitVec 3) (a b : Src)
  | cmpLtF32 (h : Hdr) (p : BitVec 3) (a b : Src)
  | cmpLeF32 (h : Hdr) (p : BitVec 3) (a b : Src)
  | cmpGtF32 (h : Hdr) (p : BitVec 3) (a b : Src)
  | cmpGeF32 (h : Hdr) (p : BitVec 3) (a b : Src)
  | cmpUnF32 (h : Hdr) (p : BitVec 3) (a b : Src)
  | cmpOrdF32 (h : Hdr) (p : BitVec 3) (a b : Src)
  | cmpEqF64 (h : Hdr) (p : BitVec 3) (a b : Src)
  | cmpNeF64 (h : Hdr) (p : BitVec 3) (a b : Src)
  | cmpLtF64 (h : Hdr) (p : BitVec 3) (a b : Src)
  | cmpLeF64 (h : Hdr) (p : BitVec 3) (a b : Src)
  | cmpGtF64 (h : Hdr) (p : BitVec 3) (a b : Src)
  | cmpGeF64 (h : Hdr) (p : BitVec 3) (a b : Src)
  | cmpUnF64 (h : Hdr) (p : BitVec 3) (a b : Src)
  | cmpOrdF64 (h : Hdr) (p : BitVec 3) (a b : Src)
  | cvtF32F64 (h : Hdr) (rnd : BitVec 2) (d : Dst) (a : Src)
  | cvtF64F32 (h : Hdr) (rnd : BitVec 2) (d : Dst) (a : Src)
  | cvtF16F32 (h : Hdr) (rnd : BitVec 2) (d : Dst) (a b : Src)
  | cvtF32F16 (h : Hdr) (rnd : BitVec 2) (d : Dst) (a : Src) (hi : Bool)
  | cvtBf16F32 (h : Hdr) (rnd : BitVec 2) (d : Dst) (a b : Src)
  | cvtF32Bf16 (h : Hdr) (rnd : BitVec 2) (d : Dst) (a : Src) (hi : Bool)
  | cvtI32F32 (h : Hdr) (rnd : BitVec 2) (d : Dst) (a : Src)
  | cvtF32I32 (h : Hdr) (rnd : BitVec 2) (d : Dst) (a : Src)
  | cvtN32F32 (h : Hdr) (rnd : BitVec 2) (d : Dst) (a : Src)
  | cvtF32N32 (h : Hdr) (rnd : BitVec 2) (d : Dst) (a : Src)
  | cvtI64F64 (h : Hdr) (rnd : BitVec 2) (d : Dst) (a : Src)
  | cvtF64I64 (h : Hdr) (rnd : BitVec 2) (d : Dst) (a : Src)
  | cvtI32F64 (h : Hdr) (rnd : BitVec 2) (d : Dst) (a : Src)
  | cvtF64I32 (h : Hdr) (rnd : BitVec 2) (d : Dst) (a : Src)
  | cvtSatI8I32 (h : Hdr) (rnd : BitVec 2) (d : Dst) (a : Src)
  | cvtSatI16I32 (h : Hdr) (rnd : BitVec 2) (d : Dst) (a : Src)
  | cvtFfF32 (h : Hdr) (rnd : BitVec 2) (d : Dst) (a f : Src)
  | cvtF32Ff (h : Hdr) (rnd : BitVec 2) (d : Dst) (a f : Src)
  | cvtFfBf16 (h : Hdr) (rnd : BitVec 2) (d : Dst) (a f : Src)
  | cvtBf16Ff (h : Hdr) (rnd : BitVec 2) (d : Dst) (a f : Src)
  | packMx (h : Hdr) (d : Dst) (a f : Src)
  | unpackMx (h : Hdr) (rnd : BitVec 2) (d : Dst) (a f : Src)
  | lvoteAnd (h : Hdr) (p : BitVec 3) (q : BitVec 3)
  | lvoteOr (h : Hdr) (p : BitVec 3) (q : BitVec 3)
  | lvoteMask (h : Hdr) (d : Dst) (q : BitVec 3)
  | vredAddI32 (h : Hdr) (d : Dst) (a : Src)
  | vredMinI32 (h : Hdr) (d : Dst) (a : Src)
  | vredMaxI32 (h : Hdr) (d : Dst) (a : Src)
  | vredAddF32 (h : Hdr) (d : Dst) (a : Src)
  | vscanAddI32 (h : Hdr) (d : Dst) (a : Src)
  | vfilt (h : Hdr) (d : Dst) (a b c : Src)
  | vpermB32 (h : Hdr) (d : Dst) (a b : Src)
  | pand (h : Hdr) (p q r : BitVec 3)
  | por (h : Hdr) (p q r : BitVec 3)
  | pnot (h : Hdr) (p q : BitVec 3)
  | pmov (h : Hdr) (p : BitVec 3) (a : Src)
  | selB32 (h : Hdr) (d : Dst) (a b : Src) (q : BitVec 3)
  | pfrom (h : Hdr) (p : BitVec 3) (a : Src)
  | pto (h : Hdr) (d : Dst) (q : BitVec 3)
  | addIv32 (h : Hdr) (d : Dst) (a b : Src)
  | subIv32 (h : Hdr) (d : Dst) (a b : Src)
  | mulIv32 (h : Hdr) (d : Dst) (a b : Src)
  | divIv32 (h : Hdr) (d : Dst) (a b : Src)
  | sqrIv32 (h : Hdr) (d : Dst) (a : Src)
  | sqrtIv32 (h : Hdr) (d : Dst) (a : Src)
  | negIv32 (h : Hdr) (d : Dst) (a : Src)
  | fmaIv32 (h : Hdr) (d : Dst) (a b c : Src)
  | addIv64 (h : Hdr) (d : Dst) (a b : Src)
  | subIv64 (h : Hdr) (d : Dst) (a b : Src)
  | mulIv64 (h : Hdr) (d : Dst) (a b : Src)
  | divIv64 (h : Hdr) (d : Dst) (a b : Src)
  | sqrIv64 (h : Hdr) (d : Dst) (a : Src)
  | sqrtIv64 (h : Hdr) (d : Dst) (a : Src)
  | negIv64 (h : Hdr) (d : Dst) (a : Src)
  | fmaIv64 (h : Hdr) (d : Dst) (a b c : Src)
  | hullIv32 (h : Hdr) (d : Dst) (a b : Src)
  | isectIv32 (h : Hdr) (d : Dst) (a b : Src)
  | midIv32 (h : Hdr) (d : Dst) (a : Src)
  | widIv32 (h : Hdr) (d : Dst) (a : Src)
  | cmpLtIv32 (h : Hdr) (p : BitVec 3) (a b : Src)
  | cmpLeIv32 (h : Hdr) (p : BitVec 3) (a b : Src)
  | cmpEqIv32 (h : Hdr) (p : BitVec 3) (a b : Src)
  | bisectIv32 (h : Hdr) (d : Dst) (a : Src)
  | hullIv64 (h : Hdr) (d : Dst) (a b : Src)
  | isectIv64 (h : Hdr) (d : Dst) (a b : Src)
  | midIv64 (h : Hdr) (d : Dst) (a : Src)
  | widIv64 (h : Hdr) (d : Dst) (a : Src)
  | cmpLtIv64 (h : Hdr) (p : BitVec 3) (a b : Src)
  | cmpLeIv64 (h : Hdr) (p : BitVec 3) (a b : Src)
  | cmpEqIv64 (h : Hdr) (p : BitVec 3) (a b : Src)
  | bisectIv64 (h : Hdr) (d : Dst) (a : Src)
  | ivSpawn (h : Hdr) (d : Dst) (a : Src)
  | mkivIv32 (h : Hdr) (d : Dst) (a b : Src)
  | mkivIv64 (h : Hdr) (d : Dst) (a b : Src)
  | ldIv32 (h : Hdr) (d : Dst) (a : Src) (hint : Hint)
  | ldIv64 (h : Hdr) (d : Dst) (a : Src) (hint : Hint)
  | stIv32 (h : Hdr) (a b : Src) (hint : Hint)
  | stIv64 (h : Hdr) (a b : Src) (hint : Hint)
  | tcfg (h : Hdr) (t : BitVec 4) (a b c : Src)
  | tload (h : Hdr) (t : BitVec 4) (bv : Bool) (a b : Src) (bo : BitVec 4)
  | tstore (h : Hdr) (t : BitVec 4) (bv : Bool) (a b : Src) (bo : BitVec 4)
  | tzero (h : Hdr) (t : BitVec 4)
  | mwload (h : Hdr) (t : BitVec 4)
  | mwloadSm (h : Hdr) (t : BitVec 4) (b : Src)
  | mzero (h : Hdr) (acc : BitVec 6)
  | mflags (h : Hdr) (d : Dst) (clr : Bool)
  | mmacI8 (h : Hdr) (acc : BitVec 6) (t : BitVec 4) (rp cpn cpk : BitVec 2) (z : Bool) (c : Src)
  | mmacF8 (h : Hdr) (acc : BitVec 6) (t : BitVec 4) (rp cpn cpk : BitVec 2) (z : Bool) (c : Src)
  | mmacF4 (h : Hdr) (acc : BitVec 6) (t : BitVec 4) (rp cpn cpk : BitVec 2) (z : Bool) (c : Src)
  | mmacBf16 (h : Hdr) (acc : BitVec 6) (t : BitVec 4) (rp cpn cpk : BitVec 2) (z : Bool) (c : Src)
  | mmacF16 (h : Hdr) (acc : BitVec 6) (t : BitVec 4) (rp cpn cpk : BitVec 2) (z : Bool) (c : Src)
  | mmacX3 (h : Hdr) (acc : BitVec 6) (t : BitVec 4) (rp cpn cpk : BitVec 2) (z : Bool) (c : Src)
  | mmacMx (h : Hdr) (acc : BitVec 6) (t : BitVec 4) (rp cpn cpk : BitVec 2) (z : Bool) (c : Src)
  | mstore (h : Hdr) (t : BitVec 4) (acc : BitVec 6) (rp cp : BitVec 2)
  | mload (h : Hdr) (acc : BitVec 6) (t : BitVec 4) (rp cp : BitVec 2)
  | mcvt (h : Hdr) (acc src : BitVec 6) (rp cp : BitVec 2) (c : Src)
  | mpset (h : Hdr) (cnt col : Bool) (idx : BitVec 2) (a : Src)
  | marrive (h : Hdr) (bo : BitVec 4) (a : Src)
  | mswap (h : Hdr)
  | ldN8 (h : Hdr) (d : Dst) (a : Src) (hint : Hint)
  | ldI8 (h : Hdr) (d : Dst) (a : Src) (hint : Hint)
  | ldN16 (h : Hdr) (d : Dst) (a : Src) (hint : Hint)
  | ldI16 (h : Hdr) (d : Dst) (a : Src) (hint : Hint)
  | ldB32 (h : Hdr) (d : Dst) (a : Src) (hint : Hint)
  | ldB64 (h : Hdr) (d : Dst) (a : Src) (hint : Hint)
  | ldB128 (h : Hdr) (d : Dst) (a : Src) (hint : Hint)
  | stB8 (h : Hdr) (a b : Src) (hint : Hint)
  | stB16 (h : Hdr) (a b : Src) (hint : Hint)
  | stB32 (h : Hdr) (a b : Src) (hint : Hint)
  | stB64 (h : Hdr) (a b : Src) (hint : Hint)
  | stB128 (h : Hdr) (a b : Src) (hint : Hint)
  | ldsB32 (h : Hdr) (d : Dst) (a : Src)
  | ldsB64 (h : Hdr) (d : Dst) (a : Src)
  | stsB32 (h : Hdr) (a b : Src)
  | stsB64 (h : Hdr) (a b : Src)
  | ldlB32 (h : Hdr) (d : Dst) (a : Src)
  | ldlB64 (h : Hdr) (d : Dst) (a : Src)
  | stlB32 (h : Hdr) (a b : Src)
  | stlB64 (h : Hdr) (a b : Src)
  | atomAddI32 (h : Hdr) (d : Dst) (a b : Src) (sc : Scope)
  | atomMinI32 (h : Hdr) (d : Dst) (a b : Src) (sc : Scope)
  | atomMaxI32 (h : Hdr) (d : Dst) (a b : Src) (sc : Scope)
  | atomAndB32 (h : Hdr) (d : Dst) (a b : Src) (sc : Scope)
  | atomOrB32 (h : Hdr) (d : Dst) (a b : Src) (sc : Scope)
  | atomXorB32 (h : Hdr) (d : Dst) (a b : Src) (sc : Scope)
  | atomExchB32 (h : Hdr) (d : Dst) (a b : Src) (sc : Scope)
  | atomCasB32 (h : Hdr) (d : Dst) (a b : Src) (sc : Scope)
  | atomAddF32 (h : Hdr) (d : Dst) (a b : Src) (sc : Scope)
  | aredAddI32 (h : Hdr) (a b : Src) (sc : Scope)
  | aredAddF32 (h : Hdr) (a b : Src) (sc : Scope)
  | aredMinI32 (h : Hdr) (a b : Src) (sc : Scope)
  | aredMaxI32 (h : Hdr) (a b : Src) (sc : Scope)
  | aredAndB32 (h : Hdr) (a b : Src) (sc : Scope)
  | aredOrB32 (h : Hdr) (a b : Src) (sc : Scope)
  | aredXorB32 (h : Hdr) (a b : Src) (sc : Scope)
  | aredAddI64 (h : Hdr) (a b : Src) (sc : Scope)
  | ldrB32 (h : Hdr) (d : Dst) (a : Src) (sc : Scope)
  | stcB32 (h : Hdr) (d : Dst) (a b : Src) (sc : Scope)
  | fence (h : Hdr) (sc : Scope)
  | prefetch (h : Hdr) (a : Src) (hint : Hint)
  | cwback (h : Hdr) (a : Src) (hint : Hint)
  | cinval (h : Hdr) (a : Src) (hint : Hint)
  | xgather (h : Hdr) (bo cnt : BitVec 4) (a b : Src) (slot : BitVec 5) (mw : Bool)
  | xgatherSum (h : Hdr) (bo cnt : BitVec 4) (a b : Src) (slot : BitVec 5) (mw : Bool)
  | xgatherMax (h : Hdr) (bo cnt : BitVec 4) (a b : Src) (slot : BitVec 5) (mw : Bool)
  | xgatherMean (h : Hdr) (bo cnt : BitVec 4) (a b : Src) (slot : BitVec 5) (mw : Bool)
  | xscadd (h : Hdr) (bo cnt : BitVec 4) (a b : Src) (slot : BitVec 5) (mw : Bool)
  | xscmax (h : Hdr) (bo cnt : BitVec 4) (a b : Src) (slot : BitVec 5) (mw : Bool)
  | xscore (h : Hdr) (bo cnt : BitVec 4) (a b : Src) (slot : BitVec 5) (mw : Bool)
  | xqload (h : Hdr) (d : Dst) (a : Src) (slot : BitVec 5)
  | xqfree (h : Hdr) (a : Src)
  | xstat (h : Hdr) (d : Dst) (clr : Bool)
  | xmask (h : Hdr) (p : BitVec 3) (k : BitVec 4)
  | xwait (h : Hdr) (k : BitVec 2)
  | acopyIn (h : Hdr) (tag : BitVec 6) (a b : Src) (bo : BitVec 4) (bv : Bool) (ch : BitVec 2)
  | acopyOut (h : Hdr) (tag : BitVec 6) (a b : Src) (bo : BitVec 4) (bv : Bool) (ch : BitVec 2)
  | tagwaitAny (h : Hdr) (a : Src)
  | tagwaitAll (h : Hdr) (a : Src)
  | tagffr (h : Hdr) (d : Dst) (a : Src)
  | tagclr (h : Hdr) (a : Src)
  | hfetch (h : Hdr) (d : Dst) (a : Src) (slot : BitVec 5) (form : BitVec 2)
  | hfetchPf (h : Hdr) (a : Src) (slot : BitVec 5) (form : BitVec 2)
  | rowscan (h : Hdr) (ht : BitVec 5) (ind : Bool) (a b : Src) (hs : BitVec 5)
  | fibld (h : Hdr) (d : Dst) (a : Src) (slot : BitVec 5) (form : BitVec 2)
  | fibinv (h : Hdr) (slot : BitVec 5) (fc : Bool)
  | dmaCopy (h : Hdr) (d : Dst) (a b c : Src)
  | dmaFill (h : Hdr) (d : Dst) (a b c : Src)
  | dmaStat (h : Hdr) (d : Dst) (a : Src)
  | mdld (h : Hdr) (d : Dst) (a : Src) (slot : BitVec 5)
  | launch (h : Hdr) (d : Dst) (a : Src)
  | launchRec (h : Hdr) (d : Dst) (a : Src)
  | grow (h : Hdr) (d : Dst) (a : Src)
  | vpoint (h : Hdr) (k : BitVec 10)
  | exit (h : Hdr)
  | bar (h : Hdr) (s : Bool)
  | gbar (h : Hdr)
  | mbar (h : Hdr) (k : BitVec 4)
  | mjoin (h : Hdr) (k : BitVec 4)
  | mleave (h : Hdr) (k : BitVec 4)
  | dqpush (h : Hdr) (a : Src)
  | dqpop (h : Hdr) (d : Dst)
  | barinit (h : Hdr) (bo : BitVec 4) (a : Src)
  | barwait (h : Hdr) (bo : BitVec 4) (a : Src)
  | bararr (h : Hdr) (bo : BitVec 4)
  | br (h : Hdr) (ofs : BitVec 24)
  | brc (h : Hdr) (sense : Bool) (c : BitVec 6) (ofs : BitVec 24)
  | brdq (h : Hdr) (sense : Bool) (ofs : BitVec 24)
  | brzm (h : Hdr) (pm : BitVec 2) (p : BitVec 3) (ofs : BitVec 24)
  | split (h : Hdr) (p : BitVec 3) (t u : BitVec 12)
  | join (h : Hdr)
  | call (h : Hdr) (ofs : BitVec 24)
  | ret (h : Hdr)
  | jmpi (h : Hdr) (a : Src)
  | calli (h : Hdr) (a : Src)
  | emsave (h : Hdr) (d : Dst)
  | emrest (h : Hdr) (a : Src)
  | emand (h : Hdr) (pm : BitVec 2) (p : BitVec 3)
  | trap (h : Hdr) (k : BitVec 8)
  | rdst (h : Hdr) (d : Dst) (num : BitVec 8)
  | wrst (h : Hdr) (num : BitVec 8) (b : Src)
  | rdlfsr (h : Hdr) (d : Dst)
  | brk (h : Hdr) (k : BitVec 8)
  | rdclk (h : Hdr) (d : Dst)
  | waitImmediate (h : Hdr) (k : BitVec 16)
  | waitRegister (h : Hdr) (a : Src)
deriving DecidableEq, Repr

end Sys2Proof
end

