-- ==== Sys2Proof/Machine/State.lean ====
section
/-!
DEFINITION. The state of a DX9 module as plain data, and its state after reset. Pieces that the spec
gives to a package, a die, a cluster, a core, a group, a wave or a split are fields of the structure
of that name; INVENTORY.md names the rule of each. A finite map (SMap) holds no entry for what is at
its default.
-/

namespace Sys2Proof.Machine

/-- Why the machine stops. -/
inductive Fault where
  /-- Raised by the meaning of an instruction of a stream when no split or sequencer has been chosen
  to issue it (State.issuing is none, or names no resident agent). The step function never runs an
  instruction so; only a direct call of exec can. Safe. -/
  | noIssuer
deriving DecidableEq, Repr

/-- Why a step gives no next state. -/
inductive Refusal where
  /-- Raised by an arm of exec that has no meaning yet; every arm has one. Safe. -/
  | notModelled (mnemonic : String)
deriving DecidableEq, Repr

/-- One predicate register as two masks: the lanes that hold true and those that hold undecided
(08 R205). The code 0b11 is a lane in both masks, and is never held. -/
structure PVal where
  t : BitVec 32
  u : BitVec 32
deriving DecidableEq, Repr

/-- One register write of an instruction of fixed latency (15 R350). -/
inductive PWrite where
  /-- the lanes of mask of V register r -/
  | v (r : Nat) (mask : BitVec 32) (vals : Lanes)
  | w (r : Nat) (val : DWord)
  | p (r : Nat) (mask : BitVec 32) (val : PVal)
  | g (r : Nat) (val : DWord)
  /-- the lane results of a hold by split sp in clk clk entering latch k: those of mask; in the other lanes it takes what
  the backing register holds then, or 0 where there is none (07 R182) -/
  | latch (k sp clk : Nat) (mask : BitVec 32) (back : Option Nat) (vals : Lanes)
deriving DecidableEq, Repr

/-- What status register a result belongs to (04 R90, 09 R221). -/
inductive PClass where
  | plain
  | fp
  | interval
deriving DecidableEq, Repr

/-- A result on its way: written back in clk due, when its flag falls (15 R350, R352). -/
structure Pend where
  due : Nat
  cls : PClass
  writes : List PWrite
  flag : Option Nat
  fst : BitVec 5
  ivst : BitVec 6
deriving DecidableEq, Repr

/-- An entry of the reconvergence stack (14 R341). -/
inductive StackEnt where
  | deferred (pc : Nat) (ls em : BitVec 32) (depth : Nat)
  | waiter (pc : Nat) (ls em : BitVec 32) (depth : Nat)
deriving DecidableEq, Repr

/-- What a split or sequencer waits for after its instruction has issued. -/
inductive Blk where
  | none
  /-- until the clk given (15 R357) -/
  | wait (till : Nat) (flag : Option Nat)
  /-- at the join at pc (14 R342) -/
  | join (pc : Nat)
  /-- at a barrier, with the flag of its cue (13 R319) -/
  | bar (flag : Option Nat)
  | mbar (k : Nat) (flag : Option Nat)
  | gbar (flag : Option Nat)
  /-- at a commit point (13 R327) -/
  | vpoint
  /-- for the end of the translation of copy id (06 R143) -/
  | copy (id : Nat)
  /-- for the first slot of transport operation id (05 R123) -/
  | first (id : Nat)
  /-- for an answer of the dispatcher, or for the row engines to hold a query (R304, R132) -/
  | req (id : Nat)
  /-- for a write of rook.Qn.ctl to take effect (13 R314) -/
  | rook (q : Nat)
deriving DecidableEq, Repr

/-- A split (14 R334), with its backing registers (07 R183) and issue bookkeeping (15 R349). -/
structure Split where
  live : Bool
  pc : Nat
  ls : BitVec 32
  em : BitVec 32
  depth : Nat
  stack : List StackEnt
  blk : Blk
  /-- backing register of L0, L1, L2 -/
  back : List (Option Nat)
  /-- clk of the last issue, and the first clk of the next issue a transfer allows (14 R347) -/
  lastIssue : Option Nat
  readyAt : Nat
  /-- no instruction issued since the last commit point (11 R281) -/
  fresh : Bool
  /-- a guard: the split was turned away in this clk -/
  heldAt : Option Nat
  /-- the same, by a write for which its pool of versions has no room (12 R298) -/
  stallAt : Option Nat
deriving DecidableEq, Repr

/-- An operand latch (07 R182): its words, whose result they are and the clk in which that was held, who owns it, its
count, and whether the hold was made with NW = 1. -/
structure Latch where
  vals : Lanes
  resultOf : Option (Nat × Nat × Nat)
  heldIn : Nat
  owner : Option (Nat × Nat × Nat)
  count : Nat
  nwHold : Bool
  /-- read since the hold: a read ends the pin (R184) -/
  wasRead : Bool
deriving DecidableEq, Repr

/-- A quarter (07 R167, R180, R182; 15 R351, R354). -/
structure Quarter where
  latches : List Latch
  /-- first clk in which the lane pipeline is free (15 R351) -/
  pipeFree : Nat
  /-- clk in which each held operand collector is released -/
  collectors : List Nat
  /-- reserved bank columns: (clk, column, a write-back) -/
  reserved : List (Nat × Nat × Bool)
  lastIssue : Option Nat
deriving DecidableEq, Repr

/-- A wave (07 R189). -/
structure Wave where
  /-- exited or halted waves are not live -/
  live : Bool
  halted : Bool
  rb : Nat
  place : Nat
  v : SMap Lanes
  w : List DWord
  p : List PVal
  /-- lane-private bytes: key 32 x offset + lane -/
  lpriv : SMap Byte
  xi : BitVec 8
  fst : BitVec 5
  ivst : BitVec 32
  xstat : DWord
  vmask : BitVec 512
  lfsr : BitVec 32
  flags : List Nat
  hst : DWord
  /-- a sibling wave halted since the last barrier: the next barrier tells it (16 R368) -/
  abn : Option Nat
  loss : Nat
  promoted : Bool
  splits : List Split
  cur : Nat
  /-- instructions issued by the current split since it became current (14 R346) -/
  turn : Nat
  /-- instructions left in the window after an ldr -/
  ldrWin : Nat
  pend : List Pend
  /-- VA of the not-present fault the wave is parked on -/
  parked : Option Nat
  /-- the lane or slot of that fault (16 R365) -/
  parkAux : Nat
  /-- held by the debugger (16 R374) -/
  held : Bool
  /-- the latches saved while parked in a pin (07 R184) -/
  savedLatch : List (Nat × Latch)
  /-- a brk issued inside a pin takes effect when that ends (07 R184): its number -/
  brkDue : Option Nat
  /-- position in the decision queue and in each operand queue (07 R185, R187) -/
  dqPos : Nat
  qPos : List Nat
deriving DecidableEq, Repr

/-- A group sequencer (13 R312). -/
structure Seq where
  live : Bool
  halted : Bool
  g : List DWord
  pc : Nat
  flags : List Nat
  rstack : List Nat
  hst : DWord
  abn : Option Nat
  blk : Blk
  lastIssue : Option Nat
  readyAt : Nat
  fresh : Bool
  heldAt : Option Nat
  stallAt : Option Nat
  pend : List Pend
  parked : Option Nat
  parkAux : Nat
  held : Bool
deriving DecidableEq, Repr

/-- A layout record bound to a handle slot (03 R80). -/
structure Layout where
  rank : Nat
  etype : Nat
  strict : Bool
  verify : Bool
  writable : Bool
  fmtw : BitVec 16
  base : Nat
  extents : List Nat
  strides : List Int
  sideVa : Nat
  sideKind : Nat
  sideRows : Nat
  sideCols : Nat
  ptr64 : Bool
  sideBytes : Nat
  shardKind : Nat
  shardCount : Nat
  shardBlock : Nat
  shardVa : Nat
deriving DecidableEq, Repr

/-- A barrier object (13 R315). -/
structure Barrier where
  bytes : Nat
  arrivals : Nat
  expArrivals : Nat
  phase : Bool
  expBytes : Nat
  ofs : Nat
deriving DecidableEq, Repr

/-- An operand queue and its Rook registers (07 R185, 13 R313). -/
structure Queue where
  base : DWord
  step : DWord
  ctl : DWord
  bound : Bool
  cons : BitVec 32
  /-- entries held, oldest first, and how many have been freed -/
  entries : List Lanes
  freed : Nat
  /-- next entry of the program and their number; base and step as bound -/
  next : Nat
  total : Nat
  nin : Nat
  va : Nat
  outer : Int
  inner : Int
  /-- VA of a not-present page the program is stalled on -/
  stalled : Option Nat
  /-- a write of ctl that has not taken effect yet -/
  request : Option DWord
deriving DecidableEq, Repr

/-- A tile configuration (10 R240). -/
structure Tile where
  rows : Nat
  cols : Nat
  pitch : Nat
  base : Nat
  sh : Nat
  sp : Nat
  etype : Nat
  fmtw : BitVec 16
  colorg : Nat
  roworg : Nat
deriving DecidableEq, Repr

/-- An element on its way through the array (10 R239): an exact value m x 2^e, an infinity or a NaN;
neg is the sign, also of a zero. -/
inductive Ext where
  | fin (neg : Bool) (m : Nat) (e : Int)
  | inf (neg : Bool)
  | nan (signalling : Bool)
deriving DecidableEq, Repr

/-- A weight plane (10 R237): K, N, the element type with its format word, and the latched weights by
64k + n. -/
structure Plane where
  k : Nat
  n : Nat
  etype : Nat
  fmtw : BitVec 16
  weights : SMap Ext
deriving DecidableEq, Repr

/-- What an issued matrix command will see of a plane (10 R253). -/
structure PlaneInfo where
  k : Nat
  n : Nat
  etype : Nat
  fmtw : BitVec 16
deriving DecidableEq, Repr

/-- Where an access goes after translation: DRAM (03 R62), system space (R70), or an element of an MX
alias page (R84), with the home die, the frame, the page bytes, the MX type and the page offset. -/
inductive Tgt where
  | dram (a : Nat)
  | sys (a : Nat)
  | aliasAt (die frame page ty ofs : Nat)
deriving DecidableEq, Repr

/-- A matrix command with its snapshot (10 R242). -/
inductive MKind where
  /-- 16-byte units: (scratchpad offset, target) -/
  | tload (units : List (Nat × Tgt)) (bar : Option (Nat × Nat))
  /-- with, for a redundant group, what enters its signature: (partial, VA, scratchpad offset, bytes) -/
  | tstore (units : List (Nat × Tgt)) (bar : Option (Nat × Nat)) (sig : List (Nat × Nat × Nat × Nat))
  | tzero (t : Tile)
  /-- the sparsity words the tile uses: (word number, value), for VERIFY the flag -/
  | mwload (t : Tile) (sigma : Option Nat) (plane : Nat) (md : SMap DWord) (side : Option Layout)
  | mswap
  | mmac (fam : Nat) (acc : Nat) (t : Tile) (rp cpn cpk : DWord) (z : Bool) (plane : Nat)
      (sm : Option Nat) (setype : Nat) (sfmtw : BitVec 16) (md : SMap DWord) (side : Option Layout)
  | mzero (acc : Nat)
  | mstore (t : Tile) (acc : Nat) (rp cp : DWord)
  | mload (acc : Nat) (t : Tile) (rp cp : DWord)
  | mcvt (acc src : Nat) (rp cp : DWord) (f : Word)
  | marrive (bar credit : Nat)
  | mflags (d : Nat) (clr nw : Bool)
deriving DecidableEq, Repr

/-- A queued matrix command (10 R242), with the clk at which the engine's nominal times end it (R258). -/
structure MCmd where
  kind : MKind
  flag : Option Nat
  due : Nat
  /-- a pass whose effect is done, before a later pass on its tile that ended first -/
  ran : Bool
deriving DecidableEq, Repr

/-- Nominal times of a group's engine, as the issued commands leave them (10 R258): when the plane loader is
free, the last row has entered, the array takes a next row, the last swap took effect, the last move and every
command is done; and for each plane when it is loaded and when its last pass is done. -/
structure MTimes where
  loader : Nat
  rowsIn : Nat
  array : Nat
  swap : Nat
  move : Nat
  all : Nat
  ready : List Nat
  read : List Nat
deriving DecidableEq, Repr

/-- The atomic updates of 11 R273. -/
inductive AtomOp where
  | addI32 | minI32 | maxI32 | andB32 | orB32 | xorB32 | exchB32 | casB32 | addF32 | addI64
deriving DecidableEq, Repr

/-- A contribution held in a version until commit (05 R137, 11 R281). -/
inductive Contrib where
  | ared (op : AtomOp) (tgt : Tgt) (b : DWord)
  | row (max isInt : Bool) (place : List (Tgt × Nat)) (f : Word)
deriving DecidableEq, Repr

/-- One item of a live set (13 R326). -/
structure LiveItem where
  kind : Nat
  hofs : Nat
  first : Nat
  count : Nat
deriving DecidableEq, Repr

/-- An entry of a commit point table (02 R60): the point's number, its offset in each stream, and the
length of the word at each. -/
structure CPoint where
  num : Nat
  uOfs : Nat
  lOfs : Nat
  uLen : Nat
  lLen : Nat
deriving DecidableEq, Repr

/-- A variant descriptor (02 R59) and the stream offsets of its commit points. -/
structure Variant where
  rl : Nat
  waves : Nat
  acc : Nat
  spad : Nat
  lpriv : Nat
  dict : Nat
  uOfs : Nat
  uLen : Nat
  lOfs : Nat
  lLen : Nat
  cueOfs : Nat
  dictOfs : Nat
  cpOfs : Nat
  points : List CPoint
deriving DecidableEq, Repr

/-- A kernel object as the device has read it (02 R58 to R60). -/
structure KObj where
  va : Nat
  handoff : Nat
  variants : List Variant
  /-- the items of each commit point, in the order of the commit point table -/
  live : List (List LiveItem)
deriving DecidableEq, Repr

/-- A launch record (13 R300). -/
structure LRec where
  cls : Nat
  coop : Bool
  fuse : Bool
  dep : Bool
  isRec : Bool
  done : Bool
  mask : BitVec 16
  /-- the layout record VAs of the handle list, read with the record (R301) -/
  handles : List Nat
  kernel : Nat
  size : Nat
  limit : Nat
  items : Nat
  seed : Word
  param : DWord
  area : Nat
  slots : Nat
  depTarget : Nat
  depVa : Nat
  doneVa : Nat
  recVa : Nat
  recStride : Nat
  recCountVa : Nat
deriving DecidableEq, Repr

/-- What a save keeps of a wave (13 R327). -/
structure WaveSave where
  live : Bool
  p : List PVal
  em : BitVec 32
  xi : BitVec 8
  lfsr : BitVec 32
  fst : BitVec 5
  ivst : BitVec 32
  xstat : DWord
  vmask : BitVec 512
  dqPos : Nat
  qPos : List Nat
deriving DecidableEq, Repr

/-- The device state of a group at its last commit point (13 R302, R327). point none is the start
state of R310. -/
structure Ckpt where
  point : Option Nat
  ordinal : Nat
  seqLive : Bool
  waves : List WaveSave
  spst : BitVec 32
  mfl : BitVec 32
  ctb : DWord
  tiles : List Tile
  rp : List DWord
  cp : List DWord
  handles : List (Option Layout)
  bars : List (Option Barrier)
  msets : List (BitVec 32)
  queues : List Queue
  dq : List DWord
  dqFreed : Nat
  answers : List (Option Nat × List DWord)
  /-- the query slots owned: number, sub-slot, e and nq (05 R133) -/
  queries : List (Nat × Nat × Nat × Word)
  /-- the number of the save, which names the bytes of the device state area (R302) -/
  saveNo : Nat
  /-- the saved accumulator tiles, by 4096 x tile + 64m + n -/
  acc : SMap Word
deriving DecidableEq, Repr

/-- A fault record (16 R365). -/
structure FRec where
  cause : Nat
  flags : BitVec 8
  ctx : Nat
  core : Nat
  merged : Nat
  grid : Nat
  group : Nat
  ordinal : Nat
  pc : Nat
  uni : Bool
  va : Nat
  hasVa : Bool
  aux : Nat
  places : List Nat
deriving DecidableEq, Repr

/-- A group resident on a core (13). -/
structure Group where
  grid : Nat
  ctx : Nat
  index : Nat
  kobj : KObj
  varNo : Nat
  va : Variant
  slot : Nat
  sb : Nat
  /-- class now in force: 0 unversioned, 1 versioned, 2 redundant (13 R300) -/
  cls : Nat
  waves : List Wave
  seq : Seq
  spad : SMap Byte
  handles : List (Option Layout)
  bars : List (Option Barrier)
  msets : List (BitVec 32)
  /-- the open phase of bar: the S value of its first arrival (13 R320) -/
  barS : Option Bool
  /-- the open phase of each membership set: the members it waits for (13 R321) -/
  mphase : List (Option (BitVec 32))
  queues : List Queue
  dq : List DWord
  dqFreed : Nat
  pendTag : List Nat
  ctb : DWord
  spst : BitVec 32
  mfl : BitVec 32
  tiles : List Tile
  rp : List DWord
  cp : List DWord
  acc : SMap Word
  planes : List (Option Plane)
  active : Nat
  /-- the planes and the active plane as the issued commands leave them (10 R253) -/
  isPlanes : List (Option PlaneInfo)
  isActive : Nat
  mq : List MCmd
  mt : MTimes
  sched : List (Nat × Nat)
  scan : List (Nat × Nat × Nat × Option Nat)
  ordinal : Nat
  version : SMap Byte
  /-- contributions held for the commit, each with the number of the operation that made it, in issue
  order -/
  buf : List (Nat × Contrib)
  vopen : Nat
  /-- an early commit since the last commit point (12 R298) -/
  early : Bool
  sig : SMap DWord
  twin : Option Nat
  /-- recorded answers still to be given to this re-execution (11 R281) -/
  replayAns : List (Option Nat × List DWord)
  /-- the number of the commit point that agents have arrived at (13 R327) -/
  vp : Option Nat
  ckpt : Ckpt
  /-- an instruction has issued since the last commit point (16 R372) -/
  ran : Bool
  retried : Bool
  restarts : Nat
  age : Nat
  enteredAt : Nat
  /-- clk since which the variant above would have fitted (13 R328) -/
  fitSince : Option Nat
  /-- VA of a not-present page of its context slot (13 R302) -/
  slotWait : Option Nat
  /-- the third run of a redundant task: core and signatures of the two discarded copies (16 R369) -/
  sigs : List (Nat × SMap DWord)
  /-- a trap or restart whose report is not yet taken: the group waits halted (16 R366); true for a restart (R368) -/
  halting : Option (FRec × Bool)
deriving DecidableEq, Repr

/-- A group that has left its core and is to be placed again (13 R329, 16 R362, R363). -/
structure Cont where
  index : Nat
  slot : Nat
  varNo : Nat
  ckpt : Ckpt
  retried : Bool
  restarts : Nat
  /-- clusters it may not be placed on (16 R368, R369) -/
  avoid : List Nat
  /-- 0 free to be re-issued; held for a retry (1, R362) or restart event (2, R363); 3 waiting at a die (R306) -/
  hold : Nat
  /-- VA of a not-present page of its context slot (R302) -/
  wait : Option Nat
  /-- the signatures of the two discarded copies of a redundant task (16 R369) -/
  sigs : List (Nat × SMap DWord)
deriving DecidableEq, Repr

/-- The grid barrier of a cooperative grid (13 R322). -/
structure GBar where
  phase : Nat
  /-- a wave of the grid halted since the last phase (16 R368) -/
  abandoned : Option Nat
deriving DecidableEq, Repr

/-- A grid (13 R301, R306). -/
structure Grid where
  id : Nat
  ctx : Nat
  lrec : LRec
  kobj : KObj
  mask : BitVec 16
  count : Nat
  next : Nat
  /-- waits on its dependence object (R308) -/
  heldDep : Bool
  /-- waits to read its record count (R309) -/
  heldCount : Bool
  /-- waits for CMD 5 (17 R381) -/
  heldHost : Bool
  /-- clk of the last read of the dependence object or record count, and whether one is due (R308) -/
  lastPoll : Nat
  pollDue : Bool
  /-- the die to be served next (R306) -/
  turn : Nat
  /-- indices that came back from a die before they were placed (16 R371) -/
  returned : List Nat
  conts : List Cont
  usedSlots : List Nat
  /-- groups placed or handed out and not yet retired -/
  live : Nat
  gbar : GBar
deriving DecidableEq, Repr

/-- Life of a context (17 R378, 16 R371). -/
inductive CtxState where
  | running
  | draining (since : Nat)
  | drained
  | halted
deriving DecidableEq, Repr

/-- A context: its descriptor (17 R379) and what the device keeps for it. -/
structure Ctx where
  fw : Bool
  dbg : Bool
  sigreq : Bool
  policy : Nat
  duty : BitVec 8
  root : Nat
  cell : Nat
  slice : Nat
  deadline : Nat
  timeout : Nat
  pairs : Nat
  pairVa : Nat
  st : CtxState
  lastSeq : Option DWord
  nextGrid : Nat
  /-- clk of the last poll of the launch cell, and whether a service made one due (R380) -/
  lastPoll : Nat
  cellDue : Bool
deriving DecidableEq, Repr

/-- A translation held by a TLB: the context, the page's first VA, its size in address bits, and the
leaf entry of 03 R66. -/
structure TlbEnt where
  ctx : Nat
  va : Nat
  bits : Nat
  leaf : DWord
deriving DecidableEq, Repr

/-- A table entry held by a walk cache: context, level, first VA covered. -/
structure WalkEnt where
  ctx : Nat
  level : Nat
  va : Nat
  entry : DWord
deriving DecidableEq, Repr

/-- A set of the L1 partition (07 R174). -/
structure L1Set where
  ways : List (Option (Nat × List Byte))
  plru : BitVec 7
deriving DecidableEq, Repr

/-- A line of a read-only cache: context, DPA of its first byte, its bytes (06 R165). -/
structure CLine where
  ctx : Nat
  addr : Nat
  bytes : List Byte
deriving DecidableEq, Repr

/-- A lane of an access in flight. -/
structure LaneAcc where
  lane : Nat
  va : Nat
  tgt : Tgt
  /-- its page bypasses L1 (03 R66) -/
  byp : Bool
  data : BitVec 128
deriving DecidableEq, Repr

/-- The accesses that complete later (11 R264, R274, R276; 06 R157). -/
inductive OpKind where
  | ld (sext : Bool) (cache : Nat)
  | st
  | atom (op : AtomOp) (ret : Bool)
  | ldr
  | stc
  /-- data already sampled: lds, ldl, hfetch and fibld results -/
  | ready (fetch : Nat)
  /-- prefetch of a line with its cache code, cwback -/
  | pref (cache : Nat)
  | cwback
deriving DecidableEq, Repr

/-- An access in flight. -/
structure MemOp where
  id : Nat
  ag : Agent
  pc : Nat
  size : Nat
  kind : OpKind
  lanes : List LaneAcc
  dst : Option Dst
  flag : Option Nat
  /-- results so far: lane and old value, for a W or G destination -/
  got : List (Nat × BitVec 128)
  /-- the mask of lanes the instruction issued with -/
  mask : BitVec 32
  /-- the scope of its acquire, where it has one (11 R274) -/
  acq : Option Nat
  /-- a wide operation of a versioned group: performed on memory itself, its answer recorded (R281) -/
  wide : Bool
  /-- the clk of its issue -/
  since : Nat
  /-- the widest scope of a release that has gone past it, and the place of the group that made it (12 R286,
  R287) -/
  passed : Option (Nat × Nat)
  /-- the lanes of a replay entry (11 R268) -/
  replayed : Bool
  /-- lanes whose first 8 bytes in system space are done, with what a load read there (11 R264) -/
  halves : List (Nat × DWord)
  /-- an interval load or store (09 R221, R222) -/
  iv : Bool
deriving DecidableEq, Repr

/-- A prefetched line that waits for a walk (11 R279): the core, the agent, the VA and the cache code. -/
structure Waiter where
  core : Nat
  ag : Agent
  va : Nat
  cache : Nat
deriving DecidableEq, Repr

/-- A walk in flight that a prefetch asked for (03 R72): the die whose translation service makes it, the
context, the VA, and whoever asked for its page meanwhile. -/
structure Walk where
  id : Nat
  die : Nat
  ctx : Nat
  va : Nat
  waiters : List Waiter
deriving DecidableEq, Repr

/-- A replay entry (11 R266): the lanes of one store in one page. -/
structure Replay where
  id : Nat
  ag : Agent
  pc : Nat
  ctx : Nat
  page : Nat
  size : Nat
  lanes : List LaneAcc
  flag : Option Nat
  /-- none: waits for service; some fail: serviced, and whether it failed (16 R364) -/
  svc : Option Bool
deriving DecidableEq, Repr

/-- A reservation (11 R277). -/
structure Resv where
  g : Nat
  w : Nat
  sp : Nat
  lane : Nat
  granule : Nat
deriving DecidableEq, Repr

/-- A copy in flight (06 R140, R144). -/
structure CopyOp where
  id : Nat
  ag : Agent
  pc : Nat
  inn : Bool
  tag : Nat
  va : Nat
  count : Nat
  ofs : Nat
  bar : Option Nat
  flag : Option Nat
  /-- targets of its 16-byte units, once translated -/
  units : Option (List Tgt)
deriving DecidableEq, Repr

/-- An active slot of a transport operation (05 R111, R113, R123): its outcome is 0 for valid, else the
code of R126. -/
structure XSlot where
  j : Nat
  idx : Nat
  /-- where its row lies: the local row, and the package that holds it where that is another -/
  row : Nat
  pkg : Option Nat
  /-- the targets of the row's elements, once resolved -/
  res : Option (List (List (Tgt × Nat)))
  /-- its outcome -/
  cause : Option Nat
  /-- the row's packed bytes, for the forms that read -/
  bytes : List Byte
deriving DecidableEq, Repr

/-- A transport operation in flight (05 R114). -/
structure XOp where
  id : Nat
  g : Nat
  w : Nat
  sp : Nat
  pc : Nat
  form : XForm
  h : Layout
  n : Nat
  bar : Nat
  mw : Bool
  tile : Nat
  nb : Nat
  topk : Nat
  /-- the query's values and nq, for the score form (R131) -/
  query : List Word × Word
  metric : Nat
  starts : List Nat
  slots : List XSlot
  flag : Option Nat
  /-- its first slot lies on another package, which has been asked for its outcome; it is resolved (R123) -/
  asked : Bool
  started : Bool
  issued : Nat
  /-- recorded in XSTAT (R126) -/
  recorded : Bool
deriving DecidableEq, Repr

/-- A query slot (05 R132, R133). -/
structure Query where
  /-- the group that owns it: context and grid in one number, and the index -/
  grid : Nat
  index : Nat
  e : Nat
  nq : Word
  vals : List Word
  /-- the number of the slot among its group's four (R302) -/
  sub : Nat
  /-- held by the row engines -/
  loaded : Bool
deriving DecidableEq, Repr

/-- A DMA command (06 R148, R150). -/
structure DmaCmd where
  g : Nat
  grid : Nat
  index : Nat
  ctx : Nat
  seq : Nat
  fill : Bool
  dst : Nat
  src : DWord
  len : Nat
  bytes : Nat
  bar : Option Nat
  flag : Option Nat
  cause : Nat
  /-- VA of a not-present page it waits for -/
  waiting : Option Nat
deriving DecidableEq, Repr

/-- A DMA channel: queued commands, next sequence number, the statuses of its last commands. -/
structure DmaChan where
  q : List DmaCmd
  next : Nat
  hist : List (Nat × Nat × Nat)
deriving DecidableEq, Repr

/-- A request to the dispatcher or the row engines in flight (09 R233, 13 R304, 05 R132). -/
inductive ReqKind where
  | spawn (counts : List (Nat × Nat)) (d : Dst) (nw : Bool)
  | grow (n : Nat) (d : Dst) (nw : Bool)
  | launch (va : Nat) (isRec : Bool) (d : Dst) (nw : Bool)
  | query (slot : Nat) (d : Dst) (nw : Bool)
deriving DecidableEq, Repr

/-- A request in flight. -/
structure Req where
  id : Nat
  ag : Agent
  pc : Nat
  kind : ReqKind
  flag : Option Nat
  mask : BitVec 32
  direct : Bool
deriving DecidableEq, Repr

/-- A row of the instruction store (15 R358): owner object, variant, stream, row index, leases, and
the 4 KiB with their cue nibbles once filled. -/
structure IRow where
  ctx : Nat
  kobj : Nat
  varNo : Nat
  uni : Bool
  idx : Nat
  leases : Nat
  filled : Bool
  bytes : List Byte
  cues : List (BitVec 4)
  /-- VA of a not-present page its loading waits for, or the fault that its loading met: cause and VA -/
  stalled : Option Nat
  fault : Option (Nat × Nat)
deriving DecidableEq, Repr

/-- A dictionary bank (02 R41). -/
structure Bank where
  ctx : Nat
  kobj : Nat
  varNo : Nat
  filled : Bool
  entries : List (DWord × BitVec 4)
  stalled : Option Nat
  fault : Option (Nat × Nat)
deriving DecidableEq, Repr

/-- A coalescer: open records with their opening clk, and closed records not yet in a buffer. -/
structure Coal where
  opn : List (Nat × FRec)
  closed : List FRec
  /-- reports not yet taken, because no record could open (R366) -/
  waiting : List FRec
deriving DecidableEq, Repr

/-- A core (07, 15). -/
structure Core where
  quarters : List Quarter
  l1 : SMap L1Set
  tlb : List TlbEnt
  fen : List CLine
  mdc : List CLine
  replay : List Replay
  rows : List (Option IRow)
  banks : List (Option Bank)
  seqLast : Nat
  seqClk : Option Nat
  /-- time slice (15 R359): context, clk at which its count started, closed to it -/
  slice : Option (Nat × Nat × Bool)
  /-- the grids whose groups have been placed here, by context and identifier in one number (06 R165) -/
  seen : List Nat
deriving DecidableEq, Repr

/-- A cluster (03 R72, 06 R157, 07 R175). -/
structure Cluster where
  tlb : List TlbEnt
  fused : Bool
  fc : List CLine
  seen : List Nat
deriving DecidableEq, Repr

/-- A C-die (13 R306, R307): the groups waiting at its dispatcher as (grid, index), and its walk cache
(03 R72). -/
structure Die where
  waiting : List (Nat × Nat)
  wcache : List WalkEnt
deriving DecidableEq, Repr

/-- A Daxig Link port (17 R383, R384). -/
structure Port where
  up : Bool
  spreq : Bool
  splane : BitVec 4
  half : Bool
  replays : BitVec 16
  lanecnt : List (BitVec 16)
  spgo : Bool
  spsel : BitVec 4
  spthr : BitVec 16
  fails : Nat
  retrain : Bool
  /-- the clk in which the window of the lane counts started -/
  winStart : Nat
deriving DecidableEq, Repr

/-- The frequency handshake (01 R25, R27): idle, quiescing towards a step with the dies that have
reported, stalled towards a step, or held by a freeze before its fifth phase. -/
inductive Handshake where
  | idle
  | quiesce (tgt : Nat) (reported : BitVec 19)
  | relock (tgt : Nat)
  | relocked
deriving DecidableEq, Repr

/-- A system-space command register (00 R8): its fields as last written. -/
structure CmdReg where
  busy : Bool
  bad : Bool
  cmd : BitVec 3
  ctx : BitVec 12
  arg : BitVec 42
deriving DecidableEq, Repr

/-- The power registers (17 R385) and the firmware's cap ceiling (R381). -/
structure Power where
  cap : BitVec 16
  win : BitVec 16
  resp : BitVec 16
  draw : BitVec 16
  above : Bool
  floor : Bool
  ceil : BitVec 8
  capWait : Option (BitVec 16)
  /-- the measurements of the window, newest first, and for how many the average has been above the cap, or 5 % below it -/
  samples : List (BitVec 16)
  overFor : Nat
  lowFor : Nat
  /-- the step that the cap may be lowering -/
  want : BitVec 8
deriving DecidableEq, Repr

/-- Reliability counters of a core in non-volatile storage (16 R370); soft is the count of corrected
soft errors of 07 R169. -/
structure Counters where
  lanes : SMap Nat
  subs : SMap Nat
  errs : Nat
  soft : Nat
deriving DecidableEq, Repr

/-- The registers and units of the S-die and the X-dies. -/
structure Pkg where
  part : BitVec 4
  livex : BitVec 2
  livec : BitVec 16
  freqBusy : Bool
  freqAbort : Bool
  freqBad : Bool
  freqCur : BitVec 8
  freqTgt : BitVec 8
  hs : Handshake
  frz : Bool
  xinv : CmdReg
  fsvc : CmdReg
  ctxcmd : CmdReg
  xq : List (List FRec × Nat)
  pwr : Power
  pkgid : BitVec 16
  ports : List Port
  /-- routes to other packages: the package and the port (17 R383, R386) -/
  routes : List (Nat × Nat)
  hostUp : List Bool
  hostCxl : List Bool
  /-- the completion timeout of each host port in ms (17 R377) -/
  hostMs : List Nat
  /-- firmware has created context 0 (17 R389) -/
  up : Bool
  deadCores : List Nat
  deadArrays : List Nat
  deadClusters : List Nat
  deadDies : List Nat
  counters : SMap Counters
  /-- the clk of the last halving of the counters (16 R370) -/
  halvedAt : Nat
deriving DecidableEq, Repr

/-- Why the binding of a handle slot is refused (03 R82). -/
inductive BindFault where
  /-- a limit of R80 broken, or a reserved field not zero -/
  | limit
  | elementCode
  | formatWord
  | mxBlock
  | mxShape
  | strictSide
  | verifySide
  /-- the record's address is unaligned, or it cannot be read -/
  | record
deriving DecidableEq, Repr

/-- An answer the module gives to the outside: to another package, the host or the management
controller. -/
inductive OutMsg where
  | remote (pkg reqId : Nat) (rows : List RemoteRow)
  | request (pkg opId : Nat) (req : RemoteReq)
  | host (addr : Nat) (bytes : List Byte)
  | readout (die : Nat) (clk : Nat)
  | spdm (bytes sig : List Byte)
  | weak (u : RetUnit)
  /-- a register read: its words; and bytes of an event window -/
  | reg (r : SysReg) (words : List DWord)
  | event (xdie ofs : Nat) (bytes : List Byte)
  /-- a refused binding of a grid's handle slot (03 R82) -/
  | binding (ctx grid slot : Nat) (why : BindFault)
deriving DecidableEq, Repr

/-- The agent chosen to issue, and the dictionary entry that stands for its word, with its cue, once
the reference has been executed (02 R40). -/
structure Issue where
  ag : Agent
  entry : Option (DWord × BitVec 4 × BitVec 3)
  /-- waves (g, w) that were ready and lost the slot to this agent (15 R355) -/
  losers : List (Nat × Nat)
deriving DecidableEq, Repr

/-- The module. -/
structure State where
  clk : Nat
  /-- resets of the module so far -/
  boot : Nat
  clkStop : Bool
  frozen : Bool
  issuing : Option Issue
  agenda : List Instr
  /-- what has come from outside while a change of step or a freeze holds it back, oldest first (01 R27; 16 R373) -/
  ingress : List Instr
  free : Nat
  nextId : Nat
  ages : Nat
  pkg : Pkg
  dies : SMap Die
  clusters : SMap Cluster
  cores : SMap Core
  coals : SMap Coal
  fbufs : SMap (List (Option Nat × FRec))
  groups : SMap Group
  ctxs : SMap Ctx
  grids : List Grid
  /-- saves of device state made so far (13 R302) -/
  saves : Nat
  mem : List Host.Cell
  sys : List Host.Cell
  memops : List MemOp
  walks : List Walk
  copies : List CopyOp
  xops : List XOp
  reqs : List Req
  queries : SMap Query
  dma : SMap DmaChan
  ttc : List TlbEnt
  resvs : List Resv
  outbox : List OutMsg
deriving DecidableEq, Repr

/-- 32 zero lane words. -/
def zeroLanes : Lanes := List.replicate 32 0

/-- A latch that no split owns. -/
def Latch.empty : Latch := ⟨zeroLanes, none, 0, none, 0, false, false⟩

/-- An idle quarter. -/
def Quarter.empty : Quarter := ⟨List.replicate 3 Latch.empty, 0, [], [], none⟩

/-- A core that holds nothing. -/
def Core.empty : Core :=
  ⟨List.replicate 4 Quarter.empty, [], [], [], [], [], List.replicate 64 none,
    List.replicate 2 none, 63, none, none, []⟩

/-- A cluster that holds nothing. -/
def Cluster.empty : Cluster := ⟨[], false, [], []⟩

/-- A C-die that holds nothing. -/
def Die.empty : Die := ⟨[], []⟩

/-- A port before its link trains (17 R384). -/
def Port.empty : Port := ⟨false, false, 0xf, false, 0, List.replicate 9 0, false, 0, 0x0400, 0, false, 0⟩

/-- A command register at power-on. -/
def CmdReg.empty : CmdReg := ⟨false, false, 0, 0, 0⟩

/-- The package registers of a part in bring-up, before firmware creates context 0 (01 R19, R24; 03 R75; 16 R364, R366;
17 R378, R384, R385, R389; log entry 3). -/
def Pkg.resetOf (part : BitVec 4) : Pkg where
  part := part
  livex := if part = 0 then 0b11 else 0b01
  livec := if part = 0 then 0xffff else 0x0001
  freqBusy := false
  freqAbort := false
  freqBad := false
  freqCur := 0x08
  freqTgt := 0x08
  hs := .idle
  frz := false
  xinv := CmdReg.empty
  fsvc := CmdReg.empty
  ctxcmd := CmdReg.empty
  xq := [([], 0), ([], 0)]
  pwr := ⟨6500, 10, 2, 0, false, false, 16, none, [], 0, 0, 8⟩
  pkgid := 1
  ports := List.replicate 36 Port.empty
  routes := []
  hostUp := [true, part = 0]
  hostCxl := [true, true]
  hostMs := [10, 10]
  up := false
  deadCores := []
  deadArrays := []
  deadClusters := []
  deadDies := []
  counters := []
  halvedAt := 0

/-- A module of the given part after reset: no context, no grid, no group, memory with nothing
listed (log entries 1 to 3). -/
def State.resetOf (part : BitVec 4) : State where
  clk := 0
  boot := 0
  clkStop := false
  frozen := false
  issuing := none
  agenda := []
  ingress := []
  free := 0
  nextId := 0
  ages := 0
  pkg := Pkg.resetOf part
  dies := []
  clusters := []
  cores := []
  coals := []
  fbufs := []
  groups := []
  ctxs := []
  grids := []
  saves := 0
  mem := []
  sys := []
  memops := []
  walks := []
  copies := []
  xops := []
  reqs := []
  queries := []
  dma := []
  ttc := []
  resvs := []
  outbox := []

/-- The production module after reset (00 R1, 17 R389). -/
def State.reset : State := State.resetOf 0

end Sys2Proof.Machine
end

