-- ==== Sys2Proof/Machine/Maps.lean ====
section
/-!
DEFINITION. Finite maps, lists and memory (00 R4; 03 R62): the named operations every meaning uses.
A map is a list of key and value pairs with keys strictly rising. Memory is such a map of bytes that
lists no byte equal to what an unlisted address reads as.
-/

namespace Sys2Proof.Machine

/-- The value at a key. -/
def SMap.get? {α : Type} (k : Nat) : SMap α → Option α
  | [] => none
  | (k', x) :: t => if k' = k then some x else SMap.get? k t

/-- The value at a key, or a default. -/
def SMap.getD {α : Type} (m : SMap α) (k : Nat) (d : α) : α := (SMap.get? k m).getD d

/-- Put a value at a key, in rising order of keys. -/
def SMap.set {α : Type} (k : Nat) (x : α) : SMap α → SMap α
  | [] => [(k, x)]
  | (k', y) :: t =>
    if k < k' then (k, x) :: (k', y) :: t
    else if k = k' then (k, x) :: t
    else (k', y) :: SMap.set k x t

/-- Remove a key. -/
def SMap.erase {α : Type} (k : Nat) : SMap α → SMap α
  | [] => []
  | (k', y) :: t => if k' = k then SMap.erase k t else (k', y) :: SMap.erase k t

/-- Put a value at a key, or remove the key. -/
def SMap.put {α : Type} (k : Nat) (x : Option α) (m : SMap α) : SMap α :=
  match x with
  | some y => SMap.set k y m
  | none => SMap.erase k m

/-- Change the value at a key, where there is one. -/
def SMap.mod {α : Type} (k : Nat) (f : α → α) (m : SMap α) : SMap α :=
  match SMap.get? k m with
  | some x => SMap.set k (f x) m
  | none => m

/-- Change the value at a key, or the default where there is none. -/
def SMap.modD {α : Type} (k : Nat) (d : α) (f : α → α) (m : SMap α) : SMap α :=
  SMap.set k (f (SMap.getD m k d)) m

/-- Keys strictly rising. -/
def SMap.wf {α : Type} : SMap α → Bool
  | [] => true
  | [_] => true
  | (a, _) :: (b, y) :: t => a < b && SMap.wf ((b, y) :: t)

/-- The byte that an address reads as which nothing has written (log entry 1; DESIGN CHOICE). -/
def unlistedByte : Byte := 0

/-- The byte at an address. -/
def memByte (m : List Host.Cell) (a : Nat) : Byte := SMap.getD m a unlistedByte

/-- Write a byte. Writing what an unlisted address reads as removes the entry. -/
def memSetByte (m : List Host.Cell) (a : Nat) (b : Byte) : List Host.Cell :=
  if b = unlistedByte then SMap.erase a m else SMap.set a b m

/-- The canonical form of a memory: addresses strictly rising, no entry at the unlisted byte. -/
def memWf (m : List Host.Cell) : Bool := SMap.wf m && m.all fun c => c.2 != unlistedByte

/-- n bytes from an address upward. -/
def memRead (m : List Host.Cell) : Nat → Nat → List Byte
  | _, 0 => []
  | a, n + 1 => memByte m a :: memRead m (a + 1) n

/-- Write bytes from an address upward. -/
def memWrite (m : List Host.Cell) : Nat → List Byte → List Host.Cell
  | _, [] => m
  | a, b :: t => memWrite (memSetByte m a b) (a + 1) t

/-- The element of a list at an index, or a default. -/
def at' {α : Type} (l : List α) (i : Nat) (d : α) : α := l.getD i d

/-- Change the element of a list at an index. -/
def updAt {α : Type} (l : List α) (i : Nat) (f : α → α) : List α :=
  match l[i]? with
  | some x => l.set i (f x)
  | none => l

/-- A file of n registers with register k changed. -/
def setReg {α : Type} (n : Nat) (d : α) (l : List α) (k : Nat) (x : α) : List α :=
  (List.range n).map fun i => if i = k then x else l.getD i d

/-- The same with a function of the old value. -/
def modReg {α : Type} (n : Nat) (d : α) (l : List α) (k : Nat) (f : α → α) : List α := setReg n d l k (f (l.getD k d))

/-- The W registers of a wave, the G registers of a sequencer and the predicate registers of a wave with one
changed (07 R171, R189). -/
def setW (l : List DWord) (k : Nat) (x : DWord) : List DWord := setReg 16 0 l k x
def setG (l : List DWord) (k : Nat) (x : DWord) : List DWord := setReg 64 0 l k x
def setP (l : List PVal) (k : Nat) (f : PVal → PVal) : List PVal := modReg 7 ⟨0, 0⟩ l k f

/-- Remove the element of a list at an index. -/
def dropAt {α : Type} : Nat → List α → List α
  | _, [] => []
  | 0, _ :: t => t
  | i + 1, x :: t => x :: dropAt i t

/-- The numbers 0 to 31. -/
def lanes32 : List Nat := List.range 32

/-- The word of lane l. -/
def laneOf (v : Lanes) (l : Nat) : Word := v.getD l 0

/-- The 32 lane words given by a function of the lane. -/
def mkLanes (f : Nat → Word) : Lanes := lanes32.map f

/-- Lane l of a mask. -/
def bit {n : Nat} (m : BitVec n) (l : Nat) : Bool := m.getLsbD l

/-- The mask of the lanes that satisfy a condition. -/
def mkMask (f : Nat → Bool) : BitVec 32 :=
  lanes32.foldl (fun m l => if f l then m ||| BitVec.ofNat 32 (2 ^ l) else m) 0

/-- The lanes of a mask, rising. -/
def maskLanes (m : BitVec 32) : List Nat := lanes32.filter (bit m)

/-- The lowest lane of a mask. -/
def lowest (m : BitVec 32) : Option Nat := lanes32.find? (bit m)

/-- The lanes of mask taken from new, the others from old (00 R11). -/
def mergeLanes (mask : BitVec 32) (new old : Lanes) : Lanes :=
  mkLanes fun l => if bit mask l then laneOf new l else laneOf old l

/-- Number of set bits among the first n of a mask. -/
def countBits {n : Nat} (m : BitVec n) : Nat :=
  (List.range n).foldl (fun c l => if bit m l then c + 1 else c) 0

/-- A signed number as a word. -/
def toWord {n : Nat} (x : Int) : BitVec n := BitVec.ofInt n x

end Sys2Proof.Machine
end

