-- ==== Sys2Proof/Machine/Flags.lean ====
section
/-!
DEFINITION. The flags an instruction raises and the three-valued predicates: fst (04 R90), ivst (09
R221), mfl (10 R256), and the logic of 08 R205.
-/

namespace Sys2Proof.Machine

/-- Flags of R90: [4] NV, [3] DZ, [2] OF, [1] UF, [0] NX. -/
abbrev Fl := BitVec 5

def flNV : Fl := 0x10
def flDZ : Fl := 0x08
def flOF : Fl := 0x04
def flUF : Fl := 0x02
def flNX : Fl := 0x01

/-- A predicate code of one lane: false, true or undecided (08 R205). -/
inductive PCode where
  | f
  | t
  | u
deriving DecidableEq, Repr

def PCode.ofBool (b : Bool) : PCode := if b then .t else .f

/-- The code of lane l. -/
def PVal.code (p : PVal) (l : Nat) : PCode := if bit p.t l then .t else if bit p.u l then .u else .f

/-- A predicate register from codes per lane. -/
def PVal.of (f : Nat → PCode) : PVal := ⟨mkMask fun l => f l == .t, mkMask fun l => f l == .u⟩

/-- No lane holds 0b11 (08 R205). -/
def PVal.ok (p : PVal) : Bool := (p.t &&& p.u) == 0

/-- pand (R205). -/
def PCode.and : PCode → PCode → PCode
  | .f, _ => .f
  | _, .f => .f
  | .t, .t => .t
  | _, _ => .u

/-- por (R205). -/
def PCode.or : PCode → PCode → PCode
  | .t, _ => .t
  | _, .t => .t
  | .f, .f => .f
  | _, _ => .u

/-- pnot (R205). -/
def PCode.not : PCode → PCode
  | .f => .t
  | .t => .f
  | .u => .u

/-- The flags of the active lanes, ORed (04 R90). -/
def orFlags {n : Nat} (mask : BitVec 32) (f : Nat → BitVec n) : BitVec n :=
  lanes32.foldl (fun a l => if bit mask l then a ||| f l else a) 0

end Sys2Proof.Machine
end

