-- ==== Sys2Proof/Machine/Fp.lean ====
section
/-!
DEFINITION. Floating-point arithmetic of the lane path (04 R86 to R92; 08 R207 to R210): exact values,
one rounding, and the flags of R90. An exact value is Ext (State.lean). Where an exact result is not a
dyadic fraction, a quotient or root of more than 64 bits carries one more low bit that is set when
something is cut off, so that rounding and comparisons at any format's precision are exact.
-/

namespace Sys2Proof.Machine

/-- Rounding codes of R47: 0 nearest even, 1 toward zero, 2 up, 3 down. -/
abbrev Rm := BitVec 2

def rmN : Rm := 0
def rmZ : Rm := 1
def rmU : Rm := 2
def rmD : Rm := 3

/-- An IEEE interchange format (R86): exponent bits and significand field bits. -/
structure Fmt where
  eb : Nat
  mb : Nat
deriving DecidableEq, Repr

def fp16 : Fmt := ⟨5, 10⟩
def bf16 : Fmt := ⟨8, 7⟩
def fp32 : Fmt := ⟨8, 23⟩
def fp64 : Fmt := ⟨11, 52⟩

def Fmt.bias (f : Fmt) : Nat := 2 ^ (f.eb - 1) - 1
def Fmt.bits (f : Fmt) : Nat := 1 + f.eb + f.mb
/-- Exponent of the least normal number. -/
def Fmt.emin (f : Fmt) : Int := 1 - (f.bias : Int)
/-- The code of +infinity. -/
def Fmt.infCode (f : Fmt) : Nat := (2 ^ f.eb - 1) * 2 ^ f.mb
/-- The canonical NaN (R86). -/
def Fmt.nanCode (f : Fmt) : Nat := f.infCode + 2 ^ (f.mb - 1)
def Fmt.signBit (f : Fmt) (neg : Bool) : Nat := if neg then 2 ^ (f.eb + f.mb) else 0

/-- The exact value of a code (R86, R89). -/
def Fmt.decode (f : Fmt) (x : Nat) : Ext :=
  let neg := x / 2 ^ (f.eb + f.mb) % 2 == 1
  let e := x / 2 ^ f.mb % 2 ^ f.eb
  let m := x % 2 ^ f.mb
  if e = 2 ^ f.eb - 1 then
    if m = 0 then .inf neg else .nan (m < 2 ^ (f.mb - 1))
  else if e = 0 then .fin neg m (f.emin - f.mb)
  else .fin neg (2 ^ f.mb + m) ((e : Int) - f.bias - f.mb)

/-- Rounds away from zero under a direction, for a value of the given sign that lies strictly between
two neighbours; half says how it compares with their middle, odd that the lower neighbour is odd. -/
def roundsUp (rm : Rm) (neg odd : Bool) (half : Ordering) : Bool :=
  if rm == rmN then (match half with | .lt => false | .eq => odd | .gt => true)
  else if rm == rmU then !neg
  else if rm == rmD then neg
  else false

/-- m x 2^e as a multiple of 2^q, and whether that is inexact (R88). -/
def roundMult (rm : Rm) (neg : Bool) (m : Nat) (e q : Int) : Nat × Bool :=
  if q ≤ e then (m * 2 ^ (e - q).toNat, false)
  else
    let sh := (q - e).toNat
    let t := m / 2 ^ sh
    let lo := m % 2 ^ sh
    if lo = 0 then (t, false)
    else (if roundsUp rm neg (t % 2 == 1) (compare (2 * lo) (2 ^ sh)) then t + 1 else t, true)

/-- Exponent of the binade of m x 2^e, m not 0. -/
def log2Of (m : Nat) (e : Int) : Int := (Nat.log2 m : Int) + e

/-- Overflow: to infinity or to the largest finite value by the direction (R207). -/
def Fmt.overflow (f : Fmt) (rm : Rm) (neg : Bool) : Nat :=
  f.signBit neg + (if rm == rmN || (rm == rmU && !neg) || (rm == rmD && neg) then f.infCode
    else f.infCode - 1)

/-- An exact value rounded once to a format, with the flags it raises (R88, R89, R90). UF is tiny
before rounding and inexact. -/
def Fmt.encode (f : Fmt) (rm : Rm) : Ext → Nat × Fl
  | .nan sig => (f.nanCode, if sig then flNV else 0)
  | .inf neg => (f.signBit neg + f.infCode, 0)
  | .fin neg m e =>
    if m = 0 then (f.signBit neg, 0)
    else
      let l := log2Of m e
      let q := max l f.emin - f.mb
      let (r, inexact) := roundMult rm neg m e q
      let code := (q - (f.emin - f.mb)).toNat * 2 ^ f.mb + r
      if f.infCode ≤ code then (f.overflow rm neg, flOF ||| flNX)
      else
        (f.signBit neg + code,
          if inexact then (if l < f.emin then flUF ||| flNX else flNX) else 0)

/-- A code that is a NaN. -/
def Ext.isNan : Ext → Bool
  | .nan _ => true
  | _ => false

def Ext.isSig : Ext → Bool
  | .nan s => s
  | _ => false

def Ext.isInf : Ext → Bool
  | .inf _ => true
  | _ => false

/-- The sign of a value that is no NaN. -/
def Ext.neg : Ext → Bool
  | .fin n _ _ => n
  | .inf n => n
  | .nan _ => false

def Ext.isZero : Ext → Bool
  | .fin _ m _ => m = 0
  | _ => false

/-- The value with its sign turned. -/
def Ext.negate : Ext → Ext
  | .fin n m e => .fin (!n) m e
  | .inf n => .inf (!n)
  | .nan s => .nan s

def Ext.abs : Ext → Ext
  | .fin _ m e => .fin false m e
  | .inf _ => .inf false
  | .nan s => .nan s

def Ext.zero (neg : Bool) : Ext := .fin neg 0 0

/-- NV of a signalling operand (R89). -/
def sigFlag (xs : List Ext) : Fl := if xs.any Ext.isSig then flNV else 0

/-- A signed integer times 2^e. -/
def Ext.ofInt (n : Int) (e : Int) : Ext := .fin (n < 0) n.natAbs e

/-- The signed significand of a finite value brought to exponent e0, at or below its own. -/
def scaled (neg : Bool) (m : Nat) (e e0 : Int) : Int :=
  let x := (m * 2 ^ (e - e0).toNat : Nat)
  if neg then - (x : Int) else x

/-- Exact sum of two values that are no signalling NaN, and its flag: infinities of opposite sign give
NaN and NV; an exact zero sum is +0, or -0 when rounding down, unless both are zeros of one sign
(R207). -/
def Ext.add (rm : Rm) : Ext → Ext → Ext × Fl
  | .nan _, _ => (.nan false, 0)
  | _, .nan _ => (.nan false, 0)
  | .inf a, .inf b => if a == b then (.inf a, 0) else (.nan false, flNV)
  | .inf a, _ => (.inf a, 0)
  | _, .inf b => (.inf b, 0)
  | .fin na ma ea, .fin nb mb eb =>
    let e0 := min ea eb
    let s := scaled na ma ea e0 + scaled nb mb eb e0
    if s = 0 then (.fin (if ma = 0 ∧ mb = 0 ∧ na = nb then na else rm == rmD) 0 0, 0)
    else (Ext.ofInt s e0, 0)

/-- Exact product; 0 times infinity gives NaN and NV (R207). -/
def Ext.mul : Ext → Ext → Ext × Fl
  | .nan _, _ => (.nan false, 0)
  | _, .nan _ => (.nan false, 0)
  | .inf a, .inf b => (.inf (a != b), 0)
  | .inf a, .fin n m _ => if m = 0 then (.nan false, flNV) else (.inf (a != n), 0)
  | .fin n m _, .inf b => if m = 0 then (.nan false, flNV) else (.inf (b != n), 0)
  | .fin na ma ea, .fin nb mb eb => (.fin (na != nb) (ma * mb) (ea + eb), 0)

/-- A quotient of two positive integers times 2^e, with more than 64 bits and a low bit for what is
cut off. -/
def quot (ma mb : Nat) (e : Int) : Nat × Int :=
  let sh := 80 + Nat.log2 mb
  let n := ma * 2 ^ sh
  (2 * (n / mb) + (if n % mb = 0 then 0 else 1), e - sh - 1)

/-- Quotient of finite values, the divisor not zero. -/
def Ext.quot (na : Bool) (ma : Nat) (ea : Int) (nb : Bool) (mb : Nat) (eb : Int) : Ext :=
  let (m, e) := Machine.quot ma mb (ea - eb)
  .fin (na != nb) m e

/-- Integer square root by bits, from bit k - 1 down. -/
def isqrtFrom (n : Nat) : Nat → Nat → Nat
  | 0, r => r
  | k + 1, r =>
    let c := r + 2 ^ k
    isqrtFrom n k (if c * c ≤ n then c else r)

/-- The greatest integer whose square is at most n. -/
def isqrt (n : Nat) : Nat := isqrtFrom n (Nat.log2 n / 2 + 1) 0

/-- The square root of m x 2^e, with more than 64 bits and a low bit for what is cut off. -/
def rootOf (m : Nat) (e : Int) : Nat × Int :=
  let odd := e % 2 = 1
  let m := if odd then 2 * m else m
  let e := if odd then e - 1 else e
  let n := m * 2 ^ 160
  let r := isqrt n
  (2 * r + (if r * r = n then 0 else 1), e / 2 - 81)

/-- Compare two values that are no NaN; zeros are equal. -/
def Ext.cmp : Ext → Ext → Ordering
  | .inf a, .inf b => if a == b then .eq else if a then .lt else .gt
  | .inf a, _ => if a then .lt else .gt
  | _, .inf b => if b then .gt else .lt
  | .fin na ma ea, .fin nb mb eb =>
    let e0 := min ea eb
    compare (scaled na ma ea e0) (scaled nb mb eb e0)
  | _, _ => .eq

def Ext.lt (a b : Ext) : Bool := a.cmp b == .lt
def Ext.le (a b : Ext) : Bool := a.cmp b != .gt

-- Lane elements -------------------------------------------------------------------------------

/-- A result code with its flags. -/
abbrev Coded := Nat × Fl

def Fmt.finish (f : Fmt) (rm : Rm) (fl : Fl) (x : Ext) : Coded :=
  let (c, fl') := f.encode rm x
  (c, fl ||| fl')

/-- a + b (R207). -/
def fpAdd (f : Fmt) (rm : Rm) (a b : Nat) : Coded :=
  let x := f.decode a
  let y := f.decode b
  let (r, fl) := x.add rm y
  f.finish rm (sigFlag [x, y] ||| fl) r

/-- a - b (R207). -/
def fpSub (f : Fmt) (rm : Rm) (a b : Nat) : Coded :=
  let x := f.decode a
  let y := f.decode b
  let (r, fl) := x.add rm y.negate
  f.finish rm (sigFlag [x, y] ||| fl) r

/-- a x b (R207). -/
def fpMul (f : Fmt) (rm : Rm) (a b : Nat) : Coded :=
  let x := f.decode a
  let y := f.decode b
  let (r, fl) := x.mul y
  f.finish rm (sigFlag [x, y] ||| fl) r

/-- a x b + c, or -(a x b) + c, with one rounding; 0 times infinity raises NV even when c is a quiet
NaN (R207). -/
def fpFma (f : Fmt) (negProd : Bool) (rm : Rm) (a b c : Nat) : Coded :=
  let x := f.decode a
  let y := f.decode b
  let z := f.decode c
  let (p, fl) := x.mul y
  let (r, fl') := (if negProd then p.negate else p).add rm z
  f.finish rm (sigFlag [x, y, z] ||| fl ||| fl') r

/-- min or max (R208): -0 below +0; a number's pattern is kept. -/
def fpMinMax (f : Fmt) (isMax : Bool) (a b : Nat) : Coded :=
  let x := f.decode a
  let y := f.decode b
  let fl := sigFlag [x, y]
  if x.isNan && y.isNan then (f.nanCode, fl)
  else if x.isNan then (b, fl)
  else if y.isNan then (a, fl)
  else
    let aLess := match x.cmp y with
      | .lt => true
      | .gt => false
      | .eq => x.neg && !y.neg
    (if aLess != isMax then a else b, fl)

/-- 1 / a (R209, R210). -/
def fpRcp (f : Fmt) (rm : Rm) (a : Nat) : Coded :=
  match f.decode a with
  | .nan s => (f.nanCode, if s then flNV else 0)
  | .inf n => (f.signBit n, 0)
  | .fin n m e =>
    if m = 0 then (f.signBit n + f.infCode, flDZ)
    else f.encode rm (Ext.quot n 1 0 false m e)

/-- Square root (R209, R210). -/
def fpSqrt (f : Fmt) (rm : Rm) (a : Nat) : Coded :=
  match f.decode a with
  | .nan s => (f.nanCode, if s then flNV else 0)
  | .inf n => if n then (f.nanCode, flNV) else (f.infCode, 0)
  | .fin n m e =>
    if m = 0 then (f.signBit n, 0)
    else if n then (f.nanCode, flNV)
    else
      let (r, e') := rootOf m e
      f.encode rm (.fin false r e')

/-- The conditions of the floating-point comparisons (R204). -/
inductive FCond where
  | eq | ne | lt | le | gt | ge | un | ord
deriving DecidableEq, Repr

/-- A floating-point comparison (R204). -/
def fpCmp (f : Fmt) (cc : FCond) (a b : Nat) : PCode × Fl :=
  let x := f.decode a
  let y := f.decode b
  let nan := x.isNan || y.isNan
  let o := x.cmp y
  let sig := sigFlag [x, y]
  let quiet : Fl := if nan then flNV else 0
  match cc with
  | .eq => (if nan then .u else .ofBool (o == .eq), sig)
  | .ne => (if nan then .u else .ofBool (o != .eq), sig)
  | .lt => (if nan then .u else .ofBool (o == .lt), sig ||| quiet)
  | .le => (if nan then .u else .ofBool (o != .gt), sig ||| quiet)
  | .gt => (if nan then .u else .ofBool (o == .gt), sig ||| quiet)
  | .ge => (if nan then .u else .ofBool (o != .lt), sig ||| quiet)
  | .un => (.ofBool nan, sig)
  | .ord => (.ofBool (!nan), sig)

/-- From one format to another, rounded once (R211). -/
def fpCvt (src dst : Fmt) (rm : Rm) (a : Nat) : Coded := dst.encode rm (src.decode a)

/-- From a floating-point format to an integer range (R92). The range is judged after rounding
(log entry 8). -/
def fpToInt (f : Fmt) (lo hi : Int) (rm : Rm) (a : Nat) : Int × Fl :=
  match f.decode a with
  | .nan _ => (0, flNV)
  | .inf n => (if n then lo else hi, flNV)
  | .fin n m e =>
    let (r, inexact) := roundMult rm n m e 0
    let v : Int := if n then -(r : Int) else r
    if v < lo then (lo, flNV)
    else if hi < v then (hi, flNV)
    else (v, if inexact then flNX else 0)

/-- From an integer to a floating-point format (R92). -/
def fpOfInt (f : Fmt) (rm : Rm) (v : Int) : Coded := f.encode rm (Ext.ofInt v 0)

end Sys2Proof.Machine
end

