-- ==== Sys2Proof/Machine/Minifloat.lean ====
section
/-!
DEFINITION. Free-form minifloats (04 R93 to R98) and MX blocks (R99 to R102), after the spec's own
functions.
-/

namespace Sys2Proof.Machine

/-- The format word (R93). -/
abbrev FmtW := BitVec 16

def FmtW.sat (f : FmtW) : Bool := f.getLsbD 15
def FmtW.sub (f : FmtW) : Bool := f.getLsbD 14
def FmtW.nan (f : FmtW) : Nat := (f.extractLsb' 12 2).toNat
def FmtW.inf (f : FmtW) : Bool := f.getLsbD 11
def FmtW.bofs (f : FmtW) : Int := (f.extractLsb' 7 4).toInt
def FmtW.s (f : FmtW) : Nat := if f.getLsbD 6 then 1 else 0
def FmtW.e (f : FmtW) : Nat := (f.extractLsb' 3 3).toNat
def FmtW.m (f : FmtW) : Nat := (f.extractLsb' 0 3).toNat
/-- Width of a code. -/
def FmtW.w (f : FmtW) : Nat := f.s + f.e + f.m
/-- The bias (R93). -/
def FmtW.bias (f : FmtW) : Int := if f.e = 0 then f.bofs else 2 ^ (f.e - 1) - 1 + f.bofs
/-- All ones of the exponent field. -/
def FmtW.top (f : FmtW) : Nat := 2 ^ f.e - 1

/-- A valid format word (R94). -/
def FmtW.valid (f : FmtW) : Bool :=
  2 ≤ f.w && f.w ≤ 8 && f.nan != 3
    && (f.nan != 1 || (f.inf && 1 ≤ f.m))
    && (f.nan != 2 || (!f.inf && 1 ≤ f.m))
    && (!(f.inf && f.nan == 0) || f.m == 0)
    && (!(f.inf || f.nan != 0) || 2 ≤ f.e)
    && (f.e != 0 || (!f.sub && f.sat))

/-- The value of a code (R95). -/
def FmtW.decode (f : FmtW) (x : Nat) : Ext :=
  let neg := f.s = 1 ∧ x / 2 ^ (f.w - 1) % 2 = 1
  let m := x % 2 ^ f.m
  if f.e = 0 then .fin neg m (-f.bias)
  else
    let e := x / 2 ^ f.m % 2 ^ f.e
    if e = f.top ∧ f.inf then (if m = 0 then .inf neg else .nan false)
    else if e = f.top ∧ f.nan = 2 ∧ m = 2 ^ f.m - 1 then .nan false
    else if e = 0 then (if f.sub then .fin neg m (1 - f.bias - f.m) else .fin neg 0 0)
    else .fin neg (2 ^ f.m + m) ((e : Int) - f.bias - f.m)

/-- The largest finite magnitude (R96). -/
def FmtW.maxf (f : FmtW) : Ext :=
  if f.e = 0 then .fin false (2 ^ f.m - 1) (-f.bias)
  else if f.inf then .fin false (2 ^ (f.m + 1) - 1) ((f.top : Int) - 1 - f.bias - f.m)
  else if f.nan = 2 then .fin false (2 ^ (f.m + 1) - 2) ((f.top : Int) - f.bias - f.m)
  else .fin false (2 ^ (f.m + 1) - 1) ((f.top : Int) - f.bias - f.m)

/-- Its code without the sign (R96). -/
def FmtW.maxcode (f : FmtW) : Nat :=
  if f.e = 0 then 2 ^ f.m - 1
  else if f.inf then (f.top - 1) * 2 ^ f.m + (2 ^ f.m - 1)
  else if f.nan = 2 then f.top * 2 ^ f.m + (2 ^ f.m - 2)
  else f.top * 2 ^ f.m + (2 ^ f.m - 1)

/-- The NaN code (R96). -/
def FmtW.nancode (f : FmtW) : Nat := 2 ^ (f.e + f.m) - 1

/-- Sign above code; the sign is left out when the format has none (R97). -/
def FmtW.signed (f : FmtW) (neg : Bool) (c : Nat) : Nat :=
  if f.s = 1 ∧ neg then 2 ^ (f.e + f.m) + c else c

/-- The code of r x 2^q on the rounding grid, r x 2^q not above maxf. -/
def FmtW.codeOf (f : FmtW) (r : Nat) (q : Int) : Nat :=
  if f.e = 0 then r
  else if f.sub || 2 ^ f.m ≤ r then (q - (1 - f.bias - f.m)).toNat * 2 ^ f.m + r
  else 0

/-- Overflow (R97). -/
def FmtW.overflow (f : FmtW) (neg : Bool) (rm : Rm) : Nat × Fl :=
  let away := rm == rmN || (rm == rmU && !neg) || (rm == rmD && neg)
  (if f.sat || !away then f.signed neg f.maxcode
   else if f.inf then f.signed neg (f.top * 2 ^ f.m)
   else if f.nan = 2 then f.nancode
   else f.signed neg f.maxcode, flOF ||| flNX)

/-- An exact value encoded under a format word (R97). -/
def FmtW.encode (f : FmtW) (v : Ext) (rm : Rm) : Nat × Fl :=
  match v with
  | .nan _ => if f.nan != 0 then (f.nancode, 0) else (0, flNV)
  | .inf neg =>
    if f.s = 0 ∧ neg then (0, flNV)
    else if f.inf then (f.signed neg (f.top * 2 ^ f.m), 0)
    else (f.signed neg f.maxcode, flNV)
  | .fin neg m e =>
    if f.s = 0 ∧ neg ∧ m ≠ 0 then (0, flNV)
    else if m = 0 then (f.signed neg 0, 0)
    else
      let l := log2Of m e
      let tiny : Bool := 1 ≤ f.e && l < 1 - f.bias
      if tiny && !f.sub then (f.signed neg 0, flUF ||| flNX)
      else
        let q : Int := if f.e = 0 then -f.bias else max l (1 - f.bias) - f.m
        let (r, inexact) := roundMult rm neg m e q
        if f.maxf.lt (.fin false r q) then f.overflow neg rm
        else (f.signed neg (f.codeOf r q),
          if inexact then (if tiny then flUF ||| flNX else flNX) else 0)

/-- The presets of R98. -/
def fwE4m3 : FmtW := 0xe063
def fwE5m2 : FmtW := 0xd86a
def fwE3m2 : FmtW := 0xc05a
def fwE2m3 : FmtW := 0xc053
def fwE2m1 : FmtW := 0xc051
def fwS4 : FmtW := 0x8043
def fwS8 : FmtW := 0x8047

-- MX ------------------------------------------------------------------------------------------

/-- The element format of an MX type, its element code less 0x30 (R81, R99); none for MXINT8. -/
def mxFmt (ty : Nat) : Option FmtW :=
  match ty with
  | 0 => some fwE4m3
  | 1 => some fwE5m2
  | 2 => some fwE3m2
  | 3 => some fwE2m3
  | 4 => some fwE2m1
  | _ => none

/-- Bits of an element code (R99). -/
def mxBits (ty : Nat) : Nat :=
  match ty with
  | 2 => 6
  | 3 => 6
  | 4 => 4
  | _ => 8

/-- emax (R99). -/
def mxEmax (ty : Nat) : Int :=
  match ty with
  | 0 => 8
  | 1 => 15
  | 2 => 4
  | 3 => 2
  | 4 => 2
  | _ => 0

/-- A value times a power of two. -/
def Ext.scaleBy (k : Int) : Ext → Ext
  | .fin n m e => .fin n m (e + k)
  | x => x

/-- The value of an element code without the scale. -/
def mxElem (ty c : Nat) : Ext :=
  match mxFmt ty with
  | some f => f.decode c
  | none => Ext.ofInt (BitVec.ofNat 8 c).toInt (-6)

/-- The value of element code c under scale X (R100). -/
def mxValue (x c ty : Nat) : Ext :=
  if x = 0xff then .nan false else (mxElem ty c).scaleBy ((x : Int) - 127)

/-- The greatest finite magnitude of a list of values. -/
def amaxOf (vs : List Ext) : Ext :=
  vs.foldl (fun a v => match v with
    | .fin _ m e => if a.lt (.fin false m e) then .fin false m e else a
    | _ => a) (.fin false 0 0)

def clampInt (x lo hi : Int) : Int := max lo (min x hi)

/-- The scale of a block with no NaN (R102). -/
def mxScale (ty : Nat) (vs : List Ext) : Nat :=
  match amaxOf vs with
  | .fin _ m e =>
    if m = 0 then 0x7f else (clampInt (log2Of m e - mxEmax ty) (-127) 127 + 127).toNat
  | _ => 0x7f

/-- The code of one element under scale X, with the flags pack.mx raises for it (R102, R213). -/
def mxCode (ty x : Nat) (v : Ext) : Nat × Fl :=
  match mxFmt ty, v with
  | some f, .inf neg =>
    if ty = 1 then (f.signed neg (f.top * 2 ^ f.m), 0) else (f.signed neg f.maxcode, flNV)
  | none, .inf neg => (if neg then 0x80 else 127, flNV)
  | some f, v => f.encode (v.scaleBy (127 - (x : Int))) rmN
  | none, .fin neg m e =>
    let (r, inexact) := roundMult rmN neg m (e + 127 - x + 6) 0
    let i : Int := if neg then -(r : Int) else r
    let c := clampInt i (-128) 127
    ((BitVec.ofInt 8 c).toNat, if c ≠ i then flOF ||| flNX else if inexact then flNX else 0)
  | none, .nan _ => (0, 0)

/-- A block: scale and the codes with their flags (R102). -/
def mxBlock (ty : Nat) (vs : List Ext) : Nat × List (Nat × Fl) :=
  if vs.any Ext.isNan then (0xff, vs.map fun v => (0, if v.isSig then flNV else 0))
  else
    let x := mxScale ty vs
    (x, vs.map (mxCode ty x))

end Sys2Proof.Machine
end

