-- ==== Sys2Proof/Form.lean ====
section
/-!
DEFINITION. The words of the two streams (02 R30 to R48) as two types of fewer than 245 constructors each: the
same rows of the opcode table as Instr's, without the events. Compiled code can build no value of a type past
its 245th constructor, so the decoder, the choice of what issues and the step work on these; Form.toInstr says
which instruction a word is, and Instr.form which word an instruction is.
-/

namespace Sys2Proof

/-- The words of majors 0x00 to 0x1f, the 32-bit words and the compact words (02 R38, R39, R48). -/
inductive FormLo where
  | nop
  | dictionaryReference (dist : BitVec 3) (entry : BitVec 10)
  | addI32 (h : Hdr) (d : Dst) (a b : Src)
  | addI32W32 (dist : BitVec 2) (d : Dst) (a b : Src)
  | addI32C16 (d : Dst) (b : Src)
  | subI32 (h : Hdr) (d : Dst) (a b : Src)
  | subI32W32 (dist : BitVec 2) (d : Dst) (a b : Src)
  | subI32C16 (d : Dst) (b : Src)
  | addSatI32 (h : Hdr) (d : Dst) (a b : Src)
  | addSatI32W32 (dist : BitVec 2) (d : Dst) (a b : Src)
  | subSatI32 (h : Hdr) (d : Dst) (a b : Src)
  | subSatI32W32 (dist : BitVec 2) (d : Dst) (a b : Src)
  | addSatN32 (h : Hdr) (d : Dst) (a b : Src)
  | addSatN32W32 (dist : BitVec 2) (d : Dst) (a b : Src)
  | subSatN32 (h : Hdr) (d : Dst) (a b : Src)
  | subSatN32W32 (dist : BitVec 2) (d : Dst) (a b : Src)
  | addI16 (h : Hdr) (d : Dst) (a b : Src)
  | addI16W32 (dist : BitVec 2) (d : Dst) (a b : Src)
  | subI16 (h : Hdr) (d : Dst) (a b : Src)
  | subI16W32 (dist : BitVec 2) (d : Dst) (a b : Src)
  | mulI32 (h : Hdr) (d : Dst) (a b : Src)
  | mulI32W32 (dist : BitVec 2) (d : Dst) (a b : Src)
  | mulhiI32 (h : Hdr) (d : Dst) (a b : Src)
  | mulhiI32W32 (dist : BitVec 2) (d : Dst) (a b : Src)
  | mulhiN32 (h : Hdr) (d : Dst) (a b : Src)
  | mulhiN32W32 (dist : BitVec 2) (d : Dst) (a b : Src)
  | mulSatI32 (h : Hdr) (d : Dst) (a b : Src)
  | mulSatI32W32 (dist : BitVec 2) (d : Dst) (a b : Src)
  | mulI16 (h : Hdr) (d : Dst) (a b : Src)
  | mulI16W32 (dist : BitVec 2) (d : Dst) (a b : Src)
  | andB32 (h : Hdr) (d : Dst) (a b : Src)
  | andB32W32 (dist : BitVec 2) (d : Dst) (a b : Src)
  | andB32C16 (d : Dst) (b : Src)
  | orB32 (h : Hdr) (d : Dst) (a b : Src)
  | orB32W32 (dist : BitVec 2) (d : Dst) (a b : Src)
  | orB32C16 (d : Dst) (b : Src)
  | xorB32 (h : Hdr) (d : Dst) (a b : Src)
  | xorB32W32 (dist : BitVec 2) (d : Dst) (a b : Src)
  | xorB32C16 (d : Dst) (b : Src)
  | andnB32 (h : Hdr) (d : Dst) (a b : Src)
  | andnB32W32 (dist : BitVec 2) (d : Dst) (a b : Src)
  | ornB32 (h : Hdr) (d : Dst) (a b : Src)
  | ornB32W32 (dist : BitVec 2) (d : Dst) (a b : Src)
  | xnorB32 (h : Hdr) (d : Dst) (a b : Src)
  | xnorB32W32 (dist : BitVec 2) (d : Dst) (a b : Src)
  | shlB32 (h : Hdr) (d : Dst) (a b : Src)
  | shlB32W32 (dist : BitVec 2) (d : Dst) (a b : Src)
  | shlB32C16 (d : Dst) (b : Src)
  | shrN32 (h : Hdr) (d : Dst) (a b : Src)
  | shrN32W32 (dist : BitVec 2) (d : Dst) (a b : Src)
  | shrN32C16 (d : Dst) (b : Src)
  | shrI32 (h : Hdr) (d : Dst) (a b : Src)
  | shrI32W32 (dist : BitVec 2) (d : Dst) (a b : Src)
  | rotlB32 (h : Hdr) (d : Dst) (a b : Src)
  | rotlB32W32 (dist : BitVec 2) (d : Dst) (a b : Src)
  | rotrB32 (h : Hdr) (d : Dst) (a b : Src)
  | rotrB32W32 (dist : BitVec 2) (d : Dst) (a b : Src)
  | minI32 (h : Hdr) (d : Dst) (a b : Src)
  | minI32W32 (dist : BitVec 2) (d : Dst) (a b : Src)
  | minI32C16 (d : Dst) (b : Src)
  | maxI32 (h : Hdr) (d : Dst) (a b : Src)
  | maxI32W32 (dist : BitVec 2) (d : Dst) (a b : Src)
  | maxI32C16 (d : Dst) (b : Src)
  | minN32 (h : Hdr) (d : Dst) (a b : Src)
  | minN32W32 (dist : BitVec 2) (d : Dst) (a b : Src)
  | maxN32 (h : Hdr) (d : Dst) (a b : Src)
  | maxN32W32 (dist : BitVec 2) (d : Dst) (a b : Src)
  | adifI32 (h : Hdr) (d : Dst) (a b : Src)
  | adifI32W32 (dist : BitVec 2) (d : Dst) (a b : Src)
  | adifN32 (h : Hdr) (d : Dst) (a b : Src)
  | adifN32W32 (dist : BitVec 2) (d : Dst) (a b : Src)
  | bfextN32 (h : Hdr) (d : Dst) (a b : Src)
  | bfextN32W32 (dist : BitVec 2) (d : Dst) (a b : Src)
  | bfextI32 (h : Hdr) (d : Dst) (a b : Src)
  | bfextI32W32 (dist : BitVec 2) (d : Dst) (a b : Src)
  | bfinsB32 (h : Hdr) (d : Dst) (a b c : Src)
  | bfinsB32W32 (dist : BitVec 2) (d : Dst) (a b : Src)
  | popcB32 (h : Hdr) (d : Dst) (a : Src)
  | popcB32W32 (dist : BitVec 2) (d : Dst) (a : Src)
  | clzB32 (h : Hdr) (d : Dst) (a : Src)
  | clzB32W32 (dist : BitVec 2) (d : Dst) (a : Src)
  | brevB32 (h : Hdr) (d : Dst) (a : Src)
  | brevB32W32 (dist : BitVec 2) (d : Dst) (a : Src)
  | addI64 (h : Hdr) (d : Dst) (a b : Src)
  | addI64W32 (dist : BitVec 2) (d : Dst) (a b : Src)
  | subI64 (h : Hdr) (d : Dst) (a b : Src)
  | subI64W32 (dist : BitVec 2) (d : Dst) (a b : Src)
  | addF32 (h : Hdr) (rnd : BitVec 2) (d : Dst) (a b : Src)
  | addF32W32 (dist : BitVec 2) (rnd : BitVec 2) (d : Dst) (a b : Src)
  | addF32C16 (d : Dst) (b : Src)
  | subF32 (h : Hdr) (rnd : BitVec 2) (d : Dst) (a b : Src)
  | subF32W32 (dist : BitVec 2) (rnd : BitVec 2) (d : Dst) (a b : Src)
  | subF32C16 (d : Dst) (b : Src)
  | mulF32 (h : Hdr) (rnd : BitVec 2) (d : Dst) (a b : Src)
  | mulF32W32 (dist : BitVec 2) (rnd : BitVec 2) (d : Dst) (a b : Src)
  | mulF32C16 (d : Dst) (b : Src)
  | addF16 (h : Hdr) (rnd : BitVec 2) (d : Dst) (a b : Src)
  | addF16W32 (dist : BitVec 2) (rnd : BitVec 2) (d : Dst) (a b : Src)
  | subF16 (h : Hdr) (rnd : BitVec 2) (d : Dst) (a b : Src)
  | subF16W32 (dist : BitVec 2) (rnd : BitVec 2) (d : Dst) (a b : Src)
  | addBf16 (h : Hdr) (rnd : BitVec 2) (d : Dst) (a b : Src)
  | addBf16W32 (dist : BitVec 2) (rnd : BitVec 2) (d : Dst) (a b : Src)
  | subBf16 (h : Hdr) (rnd : BitVec 2) (d : Dst) (a b : Src)
  | subBf16W32 (dist : BitVec 2) (rnd : BitVec 2) (d : Dst) (a b : Src)
  | mulF16 (h : Hdr) (rnd : BitVec 2) (d : Dst) (a b : Src)
  | mulF16W32 (dist : BitVec 2) (rnd : BitVec 2) (d : Dst) (a b : Src)
  | mulBf16 (h : Hdr) (rnd : BitVec 2) (d : Dst) (a b : Src)
  | mulBf16W32 (dist : BitVec 2) (rnd : BitVec 2) (d : Dst) (a b : Src)
  | minF32 (h : Hdr) (d : Dst) (a b : Src)
  | minF32W32 (dist : BitVec 2) (d : Dst) (a b : Src)
  | minF32C16 (d : Dst) (b : Src)
  | maxF32 (h : Hdr) (d : Dst) (a b : Src)
  | maxF32W32 (dist : BitVec 2) (d : Dst) (a b : Src)
  | maxF32C16 (d : Dst) (b : Src)
  | minF16 (h : Hdr) (d : Dst) (a b : Src)
  | minF16W32 (dist : BitVec 2) (d : Dst) (a b : Src)
  | maxF16 (h : Hdr) (d : Dst) (a b : Src)
  | maxF16W32 (dist : BitVec 2) (d : Dst) (a b : Src)
  | minBf16 (h : Hdr) (d : Dst) (a b : Src)
  | minBf16W32 (dist : BitVec 2) (d : Dst) (a b : Src)
  | maxBf16 (h : Hdr) (d : Dst) (a b : Src)
  | maxBf16W32 (dist : BitVec 2) (d : Dst) (a b : Src)
  | minF64 (h : Hdr) (d : Dst) (a b : Src)
  | minF64W32 (dist : BitVec 2) (d : Dst) (a b : Src)
  | maxF64 (h : Hdr) (d : Dst) (a b : Src)
  | maxF64W32 (dist : BitVec 2) (d : Dst) (a b : Src)
  | addF64 (h : Hdr) (rnd : BitVec 2) (d : Dst) (a b : Src)
  | addF64W32 (dist : BitVec 2) (rnd : BitVec 2) (d : Dst) (a b : Src)
  | subF64 (h : Hdr) (rnd : BitVec 2) (d : Dst) (a b : Src)
  | subF64W32 (dist : BitVec 2) (rnd : BitVec 2) (d : Dst) (a b : Src)
  | mulF64 (h : Hdr) (rnd : BitVec 2) (d : Dst) (a b : Src)
  | mulF64W32 (dist : BitVec 2) (rnd : BitVec 2) (d : Dst) (a b : Src)
  | lxchSelB32 (h : Hdr) (d : Dst) (a b : Src)
  | lxchSelB32W32 (dist : BitVec 2) (d : Dst) (a b : Src)
  | lxchLoB32 (h : Hdr) (d : Dst) (a b : Src)
  | lxchLoB32W32 (dist : BitVec 2) (d : Dst) (a b : Src)
  | lxchHiB32 (h : Hdr) (d : Dst) (a b : Src)
  | lxchHiB32W32 (dist : BitVec 2) (d : Dst) (a b : Src)
  | lxchFlipB32 (h : Hdr) (d : Dst) (a b : Src)
  | lxchFlipB32W32 (dist : BitVec 2) (d : Dst) (a b : Src)
  | movB32 (h : Hdr) (d : Dst) (b : Src)
  | movB32W32 (dist : BitVec 2) (d : Dst) (b : Src)
  | movB32C16 (d : Dst) (b : Src)
  | movXaB32 (h : Hdr) (d : Dst) (a : Nat)
  | movXaB32W32 (dist : BitVec 2) (d : Dst) (a : Nat)
  | movXdB32 (h : Hdr) (d : Nat) (b : Src)
  | movXdB32W32 (dist : BitVec 2) (d : Nat) (b : Src)
  | movXadB32 (h : Hdr) (d a : Nat)
  | movXadB32W32 (dist : BitVec 2) (d a : Nat)
  | packB16 (h : Hdr) (d : Dst) (a b : Src)
  | packB16W32 (dist : BitVec 2) (d : Dst) (a b : Src)
  | fmaF32 (h : Hdr) (rnd : BitVec 2) (d : Dst) (a b c : Src)
  | fnmaF32 (h : Hdr) (rnd : BitVec 2) (d : Dst) (a b c : Src)
  | fmaF64 (h : Hdr) (rnd : BitVec 2) (d : Dst) (a b c : Src)
  | fnmaF64 (h : Hdr) (rnd : BitVec 2) (d : Dst) (a b c : Src)
  | fmaF16 (h : Hdr) (rnd : BitVec 2) (d : Dst) (a b c : Src)
  | fnmaF16 (h : Hdr) (rnd : BitVec 2) (d : Dst) (a b c : Src)
  | fmaBf16 (h : Hdr) (rnd : BitVec 2) (d : Dst) (a b c : Src)
  | fnmaBf16 (h : Hdr) (rnd : BitVec 2) (d : Dst) (a b c : Src)
  | madI32 (h : Hdr) (d : Dst) (a b c : Src)
  | madhiI32 (h : Hdr) (d : Dst) (a b c : Src)
  | madhiN32 (h : Hdr) (d : Dst) (a b c : Src)
  | madSatI32 (h : Hdr) (d : Dst) (a b c : Src)
  | dot4I8 (h : Hdr) (d : Dst) (a b c : Src)
  | dot4N8 (h : Hdr) (d : Dst) (a b c : Src)
  | dot2I16 (h : Hdr) (d : Dst) (a b c : Src)
  | rcpF32 (h : Hdr) (rnd : BitVec 2) (d : Dst) (a : Src)
  | rsqrtF32 (h : Hdr) (d : Dst) (a : Src)
  | sqrtF32 (h : Hdr) (rnd : BitVec 2) (d : Dst) (a : Src)
  | exp2F32 (h : Hdr) (d : Dst) (a : Src)
  | log2F32 (h : Hdr) (d : Dst) (a : Src)
  | sinF32 (h : Hdr) (d : Dst) (a : Src)
  | cosF32 (h : Hdr) (d : Dst) (a : Src)
  | rcpF64 (h : Hdr) (rnd : BitVec 2) (d : Dst) (a : Src)
  | rsqrtF64 (h : Hdr) (d : Dst) (a : Src)
  | sqrtF64 (h : Hdr) (rnd : BitVec 2) (d : Dst) (a : Src)
  | cmpEqB32 (h : Hdr) (d : Dst) (a b : Src)
  | cmpNeB32 (h : Hdr) (d : Dst) (a b : Src)
  | cmpLtI32 (h : Hdr) (d : Dst) (a b : Src)
  | cmpLeI32 (h : Hdr) (d : Dst) (a b : Src)
  | cmpLtN32 (h : Hdr) (d : Dst) (a b : Src)
  | cmpLeN32 (h : Hdr) (d : Dst) (a b : Src)
  | tstB32 (h : Hdr) (d : Dst) (a b : Src)
  | cmpEqF32 (h : Hdr) (p : BitVec 3) (a b : Src)
  | cmpNeF32 (h : Hdr) (p : BitVec 3) (a b : Src)
  | cmpLtF32 (h : Hdr) (p : BitVec 3) (a b : Src)
  | cmpLeF32 (h : Hdr) (p : BitVec 3) (a b : Src)
  | cmpGtF32 (h : Hdr) (p : BitVec 3) (a b : Src)
  | cmpGeF32 (h : Hdr) (p : BitVec 3) (a b : Src)
  | cmpUnF32 (h : Hdr) (p : BitVec 3) (a b : Src)
  | cmpOrdF32 (h : Hdr) (p : BitVec 3) (a b : Src)
  | cmpEqF64 (h : Hdr) (p : BitVec 3) (a b : Src)
  | cmpNeF64 (h : Hdr) (p : BitVec 3) (a b : Src)
  | cmpLtF64 (h : Hdr) (p : BitVec 3) (a b : Src)
  | cmpLeF64 (h : Hdr) (p : BitVec 3) (a b : Src)
  | cmpGtF64 (h : Hdr) (p : BitVec 3) (a b : Src)
  | cmpGeF64 (h : Hdr) (p : BitVec 3) (a b : Src)
  | cmpUnF64 (h : Hdr) (p : BitVec 3) (a b : Src)
  | cmpOrdF64 (h : Hdr) (p : BitVec 3) (a b : Src)
  | cvtF32F64 (h : Hdr) (rnd : BitVec 2) (d : Dst) (a : Src)
  | cvtF64F32 (h : Hdr) (rnd : BitVec 2) (d : Dst) (a : Src)
  | cvtF16F32 (h : Hdr) (rnd : BitVec 2) (d : Dst) (a b : Src)
  | cvtF32F16 (h : Hdr) (rnd : BitVec 2) (d : Dst) (a : Src) (hi : Bool)
  | cvtBf16F32 (h : Hdr) (rnd : BitVec 2) (d : Dst) (a b : Src)
  | cvtF32Bf16 (h : Hdr) (rnd : BitVec 2) (d : Dst) (a : Src) (hi : Bool)
  | cvtI32F32 (h : Hdr) (rnd : BitVec 2) (d : Dst) (a : Src)
  | cvtF32I32 (h : Hdr) (rnd : BitVec 2) (d : Dst) (a : Src)
  | cvtN32F32 (h : Hdr) (rnd : BitVec 2) (d : Dst) (a : Src)
  | cvtF32N32 (h : Hdr) (rnd : BitVec 2) (d : Dst) (a : Src)
  | cvtI64F64 (h : Hdr) (rnd : BitVec 2) (d : Dst) (a : Src)
  | cvtF64I64 (h : Hdr) (rnd : BitVec 2) (d : Dst) (a : Src)
  | cvtI32F64 (h : Hdr) (rnd : BitVec 2) (d : Dst) (a : Src)
  | cvtF64I32 (h : Hdr) (rnd : BitVec 2) (d : Dst) (a : Src)
  | cvtSatI8I32 (h : Hdr) (rnd : BitVec 2) (d : Dst) (a : Src)
  | cvtSatI16I32 (h : Hdr) (rnd : BitVec 2) (d : Dst) (a : Src)
  | cvtFfF32 (h : Hdr) (rnd : BitVec 2) (d : Dst) (a f : Src)
  | cvtF32Ff (h : Hdr) (rnd : BitVec 2) (d : Dst) (a f : Src)
  | cvtFfBf16 (h : Hdr) (rnd : BitVec 2) (d : Dst) (a f : Src)
  | cvtBf16Ff (h : Hdr) (rnd : BitVec 2) (d : Dst) (a f : Src)
  | packMx (h : Hdr) (d : Dst) (a f : Src)
  | unpackMx (h : Hdr) (rnd : BitVec 2) (d : Dst) (a f : Src)
  | lvoteAnd (h : Hdr) (p : BitVec 3) (q : BitVec 3)
  | lvoteOr (h : Hdr) (p : BitVec 3) (q : BitVec 3)
  | lvoteMask (h : Hdr) (d : Dst) (q : BitVec 3)
  | vredAddI32 (h : Hdr) (d : Dst) (a : Src)
  | vredMinI32 (h : Hdr) (d : Dst) (a : Src)
  | vredMaxI32 (h : Hdr) (d : Dst) (a : Src)
  | vredAddF32 (h : Hdr) (d : Dst) (a : Src)
  | vscanAddI32 (h : Hdr) (d : Dst) (a : Src)
  | vfilt (h : Hdr) (d : Dst) (a b c : Src)
  | vpermB32 (h : Hdr) (d : Dst) (a b : Src)
  | pand (h : Hdr) (p q r : BitVec 3)
  | por (h : Hdr) (p q r : BitVec 3)
  | pnot (h : Hdr) (p q : BitVec 3)
  | pmov (h : Hdr) (p : BitVec 3) (a : Src)
  | selB32 (h : Hdr) (d : Dst) (a b : Src) (q : BitVec 3)
  | pfrom (h : Hdr) (p : BitVec 3) (a : Src)
  | pto (h : Hdr) (d : Dst) (q : BitVec 3)
deriving DecidableEq, Repr

/-- The words of majors 0x20 to 0x36 (02 R48). -/
inductive FormHi where
  | addIv32 (h : Hdr) (d : Dst) (a b : Src)
  | subIv32 (h : Hdr) (d : Dst) (a b : Src)
  | mulIv32 (h : Hdr) (d : Dst) (a b : Src)
  | divIv32 (h : Hdr) (d : Dst) (a b : Src)
  | sqrIv32 (h : Hdr) (d : Dst) (a : Src)
  | sqrtIv32 (h : Hdr) (d : Dst) (a : Src)
  | negIv32 (h : Hdr) (d : Dst) (a : Src)
  | fmaIv32 (h : Hdr) (d : Dst) (a b c : Src)
  | addIv64 (h : Hdr) (d : Dst) (a b : Src)
  | subIv64 (h : Hdr) (d : Dst) (a b : Src)
  | mulIv64 (h : Hdr) (d : Dst) (a b : Src)
  | divIv64 (h : Hdr) (d : Dst) (a b : Src)
  | sqrIv64 (h : Hdr) (d : Dst) (a : Src)
  | sqrtIv64 (h : Hdr) (d : Dst) (a : Src)
  | negIv64 (h : Hdr) (d : Dst) (a : Src)
  | fmaIv64 (h : Hdr) (d : Dst) (a b c : Src)
  | hullIv32 (h : Hdr) (d : Dst) (a b : Src)
  | isectIv32 (h : Hdr) (d : Dst) (a b : Src)
  | midIv32 (h : Hdr) (d : Dst) (a : Src)
  | widIv32 (h : Hdr) (d : Dst) (a : Src)
  | cmpLtIv32 (h : Hdr) (p : BitVec 3) (a b : Src)
  | cmpLeIv32 (h : Hdr) (p : BitVec 3) (a b : Src)
  | cmpEqIv32 (h : Hdr) (p : BitVec 3) (a b : Src)
  | bisectIv32 (h : Hdr) (d : Dst) (a : Src)
  | hullIv64 (h : Hdr) (d : Dst) (a b : Src)
  | isectIv64 (h : Hdr) (d : Dst) (a b : Src)
  | midIv64 (h : Hdr) (d : Dst) (a : Src)
  | widIv64 (h : Hdr) (d : Dst) (a : Src)
  | cmpLtIv64 (h : Hdr) (p : BitVec 3) (a b : Src)
  | cmpLeIv64 (h : Hdr) (p : BitVec 3) (a b : Src)
  | cmpEqIv64 (h : Hdr) (p : BitVec 3) (a b : Src)
  | bisectIv64 (h : Hdr) (d : Dst) (a : Src)
  | ivSpawn (h : Hdr) (d : Dst) (a : Src)
  | mkivIv32 (h : Hdr) (d : Dst) (a b : Src)
  | mkivIv64 (h : Hdr) (d : Dst) (a b : Src)
  | ldIv32 (h : Hdr) (d : Dst) (a : Src) (hint : Hint)
  | ldIv64 (h : Hdr) (d : Dst) (a : Src) (hint : Hint)
  | stIv32 (h : Hdr) (a b : Src) (hint : Hint)
  | stIv64 (h : Hdr) (a b : Src) (hint : Hint)
  | tcfg (h : Hdr) (t : BitVec 4) (a b c : Src)
  | tload (h : Hdr) (t : BitVec 4) (bv : Bool) (a b : Src) (bo : BitVec 4)
  | tstore (h : Hdr) (t : BitVec 4) (bv : Bool) (a b : Src) (bo : BitVec 4)
  | tzero (h : Hdr) (t : BitVec 4)
  | mwload (h : Hdr) (t : BitVec 4)
  | mwloadSm (h : Hdr) (t : BitVec 4) (b : Src)
  | mzero (h : Hdr) (acc : BitVec 6)
  | mflags (h : Hdr) (d : Dst) (clr : Bool)
  | mmacI8 (h : Hdr) (acc : BitVec 6) (t : BitVec 4) (rp cpn cpk : BitVec 2) (z : Bool) (c : Src)
  | mmacF8 (h : Hdr) (acc : BitVec 6) (t : BitVec 4) (rp cpn cpk : BitVec 2) (z : Bool) (c : Src)
  | mmacF4 (h : Hdr) (acc : BitVec 6) (t : BitVec 4) (rp cpn cpk : BitVec 2) (z : Bool) (c : Src)
  | mmacBf16 (h : Hdr) (acc : BitVec 6) (t : BitVec 4) (rp cpn cpk : BitVec 2) (z : Bool) (c : Src)
  | mmacF16 (h : Hdr) (acc : BitVec 6) (t : BitVec 4) (rp cpn cpk : BitVec 2) (z : Bool) (c : Src)
  | mmacX3 (h : Hdr) (acc : BitVec 6) (t : BitVec 4) (rp cpn cpk : BitVec 2) (z : Bool) (c : Src)
  | mmacMx (h : Hdr) (acc : BitVec 6) (t : BitVec 4) (rp cpn cpk : BitVec 2) (z : Bool) (c : Src)
  | mstore (h : Hdr) (t : BitVec 4) (acc : BitVec 6) (rp cp : BitVec 2)
  | mload (h : Hdr) (acc : BitVec 6) (t : BitVec 4) (rp cp : BitVec 2)
  | mcvt (h : Hdr) (acc src : BitVec 6) (rp cp : BitVec 2) (c : Src)
  | mpset (h : Hdr) (cnt col : Bool) (idx : BitVec 2) (a : Src)
  | marrive (h : Hdr) (bo : BitVec 4) (a : Src)
  | mswap (h : Hdr)
  | ldN8 (h : Hdr) (d : Dst) (a : Src) (hint : Hint)
  | ldI8 (h : Hdr) (d : Dst) (a : Src) (hint : Hint)
  | ldN16 (h : Hdr) (d : Dst) (a : Src) (hint : Hint)
  | ldI16 (h : Hdr) (d : Dst) (a : Src) (hint : Hint)
  | ldB32 (h : Hdr) (d : Dst) (a : Src) (hint : Hint)
  | ldB64 (h : Hdr) (d : Dst) (a : Src) (hint : Hint)
  | ldB128 (h : Hdr) (d : Dst) (a : Src) (hint : Hint)
  | stB8 (h : Hdr) (a b : Src) (hint : Hint)
  | stB16 (h : Hdr) (a b : Src) (hint : Hint)
  | stB32 (h : Hdr) (a b : Src) (hint : Hint)
  | stB64 (h : Hdr) (a b : Src) (hint : Hint)
  | stB128 (h : Hdr) (a b : Src) (hint : Hint)
  | ldsB32 (h : Hdr) (d : Dst) (a : Src)
  | ldsB64 (h : Hdr) (d : Dst) (a : Src)
  | stsB32 (h : Hdr) (a b : Src)
  | stsB64 (h : Hdr) (a b : Src)
  | ldlB32 (h : Hdr) (d : Dst) (a : Src)
  | ldlB64 (h : Hdr) (d : Dst) (a : Src)
  | stlB32 (h : Hdr) (a b : Src)
  | stlB64 (h : Hdr) (a b : Src)
  | atomAddI32 (h : Hdr) (d : Dst) (a b : Src) (sc : Scope)
  | atomMinI32 (h : Hdr) (d : Dst) (a b : Src) (sc : Scope)
  | atomMaxI32 (h : Hdr) (d : Dst) (a b : Src) (sc : Scope)
  | atomAndB32 (h : Hdr) (d : Dst) (a b : Src) (sc : Scope)
  | atomOrB32 (h : Hdr) (d : Dst) (a b : Src) (sc : Scope)
  | atomXorB32 (h : Hdr) (d : Dst) (a b : Src) (sc : Scope)
  | atomExchB32 (h : Hdr) (d : Dst) (a b : Src) (sc : Scope)
  | atomCasB32 (h : Hdr) (d : Dst) (a b : Src) (sc : Scope)
  | atomAddF32 (h : Hdr) (d : Dst) (a b : Src) (sc : Scope)
  | aredAddI32 (h : Hdr) (a b : Src) (sc : Scope)
  | aredAddF32 (h : Hdr) (a b : Src) (sc : Scope)
  | aredMinI32 (h : Hdr) (a b : Src) (sc : Scope)
  | aredMaxI32 (h : Hdr) (a b : Src) (sc : Scope)
  | aredAndB32 (h : Hdr) (a b : Src) (sc : Scope)
  | aredOrB32 (h : Hdr) (a b : Src) (sc : Scope)
  | aredXorB32 (h : Hdr) (a b : Src) (sc : Scope)
  | aredAddI64 (h : Hdr) (a b : Src) (sc : Scope)
  | ldrB32 (h : Hdr) (d : Dst) (a : Src) (sc : Scope)
  | stcB32 (h : Hdr) (d : Dst) (a b : Src) (sc : Scope)
  | fence (h : Hdr) (sc : Scope)
  | prefetch (h : Hdr) (a : Src) (hint : Hint)
  | cwback (h : Hdr) (a : Src) (hint : Hint)
  | cinval (h : Hdr) (a : Src) (hint : Hint)
  | xgather (h : Hdr) (bo cnt : BitVec 4) (a b : Src) (slot : BitVec 5) (mw : Bool)
  | xgatherSum (h : Hdr) (bo cnt : BitVec 4) (a b : Src) (slot : BitVec 5) (mw : Bool)
  | xgatherMax (h : Hdr) (bo cnt : BitVec 4) (a b : Src) (slot : BitVec 5) (mw : Bool)
  | xgatherMean (h : Hdr) (bo cnt : BitVec 4) (a b : Src) (slot : BitVec 5) (mw : Bool)
  | xscadd (h : Hdr) (bo cnt : BitVec 4) (a b : Src) (slot : BitVec 5) (mw : Bool)
  | xscmax (h : Hdr) (bo cnt : BitVec 4) (a b : Src) (slot : BitVec 5) (mw : Bool)
  | xscore (h : Hdr) (bo cnt : BitVec 4) (a b : Src) (slot : BitVec 5) (mw : Bool)
  | xqload (h : Hdr) (d : Dst) (a : Src) (slot : BitVec 5)
  | xqfree (h : Hdr) (a : Src)
  | xstat (h : Hdr) (d : Dst) (clr : Bool)
  | xmask (h : Hdr) (p : BitVec 3) (k : BitVec 4)
  | xwait (h : Hdr) (k : BitVec 2)
  | acopyIn (h : Hdr) (tag : BitVec 6) (a b : Src) (bo : BitVec 4) (bv : Bool) (ch : BitVec 2)
  | acopyOut (h : Hdr) (tag : BitVec 6) (a b : Src) (bo : BitVec 4) (bv : Bool) (ch : BitVec 2)
  | tagwaitAny (h : Hdr) (a : Src)
  | tagwaitAll (h : Hdr) (a : Src)
  | tagffr (h : Hdr) (d : Dst) (a : Src)
  | tagclr (h : Hdr) (a : Src)
  | hfetch (h : Hdr) (d : Dst) (a : Src) (slot : BitVec 5) (form : BitVec 2)
  | hfetchPf (h : Hdr) (a : Src) (slot : BitVec 5) (form : BitVec 2)
  | rowscan (h : Hdr) (ht : BitVec 5) (ind : Bool) (a b : Src) (hs : BitVec 5)
  | fibld (h : Hdr) (d : Dst) (a : Src) (slot : BitVec 5) (form : BitVec 2)
  | fibinv (h : Hdr) (slot : BitVec 5) (fc : Bool)
  | dmaCopy (h : Hdr) (d : Dst) (a b c : Src)
  | dmaFill (h : Hdr) (d : Dst) (a b c : Src)
  | dmaStat (h : Hdr) (d : Dst) (a : Src)
  | mdld (h : Hdr) (d : Dst) (a : Src) (slot : BitVec 5)
  | launch (h : Hdr) (d : Dst) (a : Src)
  | launchRec (h : Hdr) (d : Dst) (a : Src)
  | grow (h : Hdr) (d : Dst) (a : Src)
  | vpoint (h : Hdr) (k : BitVec 10)
  | exit (h : Hdr)
  | bar (h : Hdr) (s : Bool)
  | gbar (h : Hdr)
  | mbar (h : Hdr) (k : BitVec 4)
  | mjoin (h : Hdr) (k : BitVec 4)
  | mleave (h : Hdr) (k : BitVec 4)
  | dqpush (h : Hdr) (a : Src)
  | dqpop (h : Hdr) (d : Dst)
  | barinit (h : Hdr) (bo : BitVec 4) (a : Src)
  | barwait (h : Hdr) (bo : BitVec 4) (a : Src)
  | bararr (h : Hdr) (bo : BitVec 4)
  | br (h : Hdr) (ofs : BitVec 24)
  | brc (h : Hdr) (sense : Bool) (c : BitVec 6) (ofs : BitVec 24)
  | brdq (h : Hdr) (sense : Bool) (ofs : BitVec 24)
  | brzm (h : Hdr) (pm : BitVec 2) (p : BitVec 3) (ofs : BitVec 24)
  | split (h : Hdr) (p : BitVec 3) (t u : BitVec 12)
  | join (h : Hdr)
  | call (h : Hdr) (ofs : BitVec 24)
  | ret (h : Hdr)
  | jmpi (h : Hdr) (a : Src)
  | calli (h : Hdr) (a : Src)
  | emsave (h : Hdr) (d : Dst)
  | emrest (h : Hdr) (a : Src)
  | emand (h : Hdr) (pm : BitVec 2) (p : BitVec 3)
  | trap (h : Hdr) (k : BitVec 8)
  | rdst (h : Hdr) (d : Dst) (num : BitVec 8)
  | wrst (h : Hdr) (num : BitVec 8) (b : Src)
  | rdlfsr (h : Hdr) (d : Dst)
  | brk (h : Hdr) (k : BitVec 8)
  | rdclk (h : Hdr) (d : Dst)
  | waitImmediate (h : Hdr) (k : BitVec 16)
  | waitRegister (h : Hdr) (a : Src)
deriving DecidableEq, Repr

/-- A word of a stream. -/
inductive Form where
  | lo (x : FormLo)
  | hi (x : FormHi)
deriving DecidableEq, Repr

/-- The word that an instruction is; an event is none. -/
def Instr.form (i : Instr) : Option Form :=
  match i with
  | .nop => some (.lo .nop)
  | .dictionaryReference dist entry => some (.lo (.dictionaryReference dist entry))
  | .addI32 h d a b => some (.lo (.addI32 h d a b))
  | .addI32W32 dist d a b => some (.lo (.addI32W32 dist d a b))
  | .addI32C16 d b => some (.lo (.addI32C16 d b))
  | .subI32 h d a b => some (.lo (.subI32 h d a b))
  | .subI32W32 dist d a b => some (.lo (.subI32W32 dist d a b))
  | .subI32C16 d b => some (.lo (.subI32C16 d b))
  | .addSatI32 h d a b => some (.lo (.addSatI32 h d a b))
  | .addSatI32W32 dist d a b => some (.lo (.addSatI32W32 dist d a b))
  | .subSatI32 h d a b => some (.lo (.subSatI32 h d a b))
  | .subSatI32W32 dist d a b => some (.lo (.subSatI32W32 dist d a b))
  | .addSatN32 h d a b => some (.lo (.addSatN32 h d a b))
  | .addSatN32W32 dist d a b => some (.lo (.addSatN32W32 dist d a b))
  | .subSatN32 h d a b => some (.lo (.subSatN32 h d a b))
  | .subSatN32W32 dist d a b => some (.lo (.subSatN32W32 dist d a b))
  | .addI16 h d a b => some (.lo (.addI16 h d a b))
  | .addI16W32 dist d a b => some (.lo (.addI16W32 dist d a b))
  | .subI16 h d a b => some (.lo (.subI16 h d a b))
  | .subI16W32 dist d a b => some (.lo (.subI16W32 dist d a b))
  | .mulI32 h d a b => some (.lo (.mulI32 h d a b))
  | .mulI32W32 dist d a b => some (.lo (.mulI32W32 dist d a b))
  | .mulhiI32 h d a b => some (.lo (.mulhiI32 h d a b))
  | .mulhiI32W32 dist d a b => some (.lo (.mulhiI32W32 dist d a b))
  | .mulhiN32 h d a b => some (.lo (.mulhiN32 h d a b))
  | .mulhiN32W32 dist d a b => some (.lo (.mulhiN32W32 dist d a b))
  | .mulSatI32 h d a b => some (.lo (.mulSatI32 h d a b))
  | .mulSatI32W32 dist d a b => some (.lo (.mulSatI32W32 dist d a b))
  | .mulI16 h d a b => some (.lo (.mulI16 h d a b))
  | .mulI16W32 dist d a b => some (.lo (.mulI16W32 dist d a b))
  | .andB32 h d a b => some (.lo (.andB32 h d a b))
  | .andB32W32 dist d a b => some (.lo (.andB32W32 dist d a b))
  | .andB32C16 d b => some (.lo (.andB32C16 d b))
  | .orB32 h d a b => some (.lo (.orB32 h d a b))
  | .orB32W32 dist d a b => some (.lo (.orB32W32 dist d a b))
  | .orB32C16 d b => some (.lo (.orB32C16 d b))
  | .xorB32 h d a b => some (.lo (.xorB32 h d a b))
  | .xorB32W32 dist d a b => some (.lo (.xorB32W32 dist d a b))
  | .xorB32C16 d b => some (.lo (.xorB32C16 d b))
  | .andnB32 h d a b => some (.lo (.andnB32 h d a b))
  | .andnB32W32 dist d a b => some (.lo (.andnB32W32 dist d a b))
  | .ornB32 h d a b => some (.lo (.ornB32 h d a b))
  | .ornB32W32 dist d a b => some (.lo (.ornB32W32 dist d a b))
  | .xnorB32 h d a b => some (.lo (.xnorB32 h d a b))
  | .xnorB32W32 dist d a b => some (.lo (.xnorB32W32 dist d a b))
  | .shlB32 h d a b => some (.lo (.shlB32 h d a b))
  | .shlB32W32 dist d a b => some (.lo (.shlB32W32 dist d a b))
  | .shlB32C16 d b => some (.lo (.shlB32C16 d b))
  | .shrN32 h d a b => some (.lo (.shrN32 h d a b))
  | .shrN32W32 dist d a b => some (.lo (.shrN32W32 dist d a b))
  | .shrN32C16 d b => some (.lo (.shrN32C16 d b))
  | .shrI32 h d a b => some (.lo (.shrI32 h d a b))
  | .shrI32W32 dist d a b => some (.lo (.shrI32W32 dist d a b))
  | .rotlB32 h d a b => some (.lo (.rotlB32 h d a b))
  | .rotlB32W32 dist d a b => some (.lo (.rotlB32W32 dist d a b))
  | .rotrB32 h d a b => some (.lo (.rotrB32 h d a b))
  | .rotrB32W32 dist d a b => some (.lo (.rotrB32W32 dist d a b))
  | .minI32 h d a b => some (.lo (.minI32 h d a b))
  | .minI32W32 dist d a b => some (.lo (.minI32W32 dist d a b))
  | .minI32C16 d b => some (.lo (.minI32C16 d b))
  | .maxI32 h d a b => some (.lo (.maxI32 h d a b))
  | .maxI32W32 dist d a b => some (.lo (.maxI32W32 dist d a b))
  | .maxI32C16 d b => some (.lo (.maxI32C16 d b))
  | .minN32 h d a b => some (.lo (.minN32 h d a b))
  | .minN32W32 dist d a b => some (.lo (.minN32W32 dist d a b))
  | .maxN32 h d a b => some (.lo (.maxN32 h d a b))
  | .maxN32W32 dist d a b => some (.lo (.maxN32W32 dist d a b))
  | .adifI32 h d a b => some (.lo (.adifI32 h d a b))
  | .adifI32W32 dist d a b => some (.lo (.adifI32W32 dist d a b))
  | .adifN32 h d a b => some (.lo (.adifN32 h d a b))
  | .adifN32W32 dist d a b => some (.lo (.adifN32W32 dist d a b))
  | .bfextN32 h d a b => some (.lo (.bfextN32 h d a b))
  | .bfextN32W32 dist d a b => some (.lo (.bfextN32W32 dist d a b))
  | .bfextI32 h d a b => some (.lo (.bfextI32 h d a b))
  | .bfextI32W32 dist d a b => some (.lo (.bfextI32W32 dist d a b))
  | .bfinsB32 h d a b c => some (.lo (.bfinsB32 h d a b c))
  | .bfinsB32W32 dist d a b => some (.lo (.bfinsB32W32 dist d a b))
  | .popcB32 h d a => some (.lo (.popcB32 h d a))
  | .popcB32W32 dist d a => some (.lo (.popcB32W32 dist d a))
  | .clzB32 h d a => some (.lo (.clzB32 h d a))
  | .clzB32W32 dist d a => some (.lo (.clzB32W32 dist d a))
  | .brevB32 h d a => some (.lo (.brevB32 h d a))
  | .brevB32W32 dist d a => some (.lo (.brevB32W32 dist d a))
  | .addI64 h d a b => some (.lo (.addI64 h d a b))
  | .addI64W32 dist d a b => some (.lo (.addI64W32 dist d a b))
  | .subI64 h d a b => some (.lo (.subI64 h d a b))
  | .subI64W32 dist d a b => some (.lo (.subI64W32 dist d a b))
  | .addF32 h rnd d a b => some (.lo (.addF32 h rnd d a b))
  | .addF32W32 dist rnd d a b => some (.lo (.addF32W32 dist rnd d a b))
  | .addF32C16 d b => some (.lo (.addF32C16 d b))
  | .subF32 h rnd d a b => some (.lo (.subF32 h rnd d a b))
  | .subF32W32 dist rnd d a b => some (.lo (.subF32W32 dist rnd d a b))
  | .subF32C16 d b => some (.lo (.subF32C16 d b))
  | .mulF32 h rnd d a b => some (.lo (.mulF32 h rnd d a b))
  | .mulF32W32 dist rnd d a b => some (.lo (.mulF32W32 dist rnd d a b))
  | .mulF32C16 d b => some (.lo (.mulF32C16 d b))
  | .addF16 h rnd d a b => some (.lo (.addF16 h rnd d a b))
  | .addF16W32 dist rnd d a b => some (.lo (.addF16W32 dist rnd d a b))
  | .subF16 h rnd d a b => some (.lo (.subF16 h rnd d a b))
  | .subF16W32 dist rnd d a b => some (.lo (.subF16W32 dist rnd d a b))
  | .addBf16 h rnd d a b => some (.lo (.addBf16 h rnd d a b))
  | .addBf16W32 dist rnd d a b => some (.lo (.addBf16W32 dist rnd d a b))
  | .subBf16 h rnd d a b => some (.lo (.subBf16 h rnd d a b))
  | .subBf16W32 dist rnd d a b => some (.lo (.subBf16W32 dist rnd d a b))
  | .mulF16 h rnd d a b => some (.lo (.mulF16 h rnd d a b))
  | .mulF16W32 dist rnd d a b => some (.lo (.mulF16W32 dist rnd d a b))
  | .mulBf16 h rnd d a b => some (.lo (.mulBf16 h rnd d a b))
  | .mulBf16W32 dist rnd d a b => some (.lo (.mulBf16W32 dist rnd d a b))
  | .minF32 h d a b => some (.lo (.minF32 h d a b))
  | .minF32W32 dist d a b => some (.lo (.minF32W32 dist d a b))
  | .minF32C16 d b => some (.lo (.minF32C16 d b))
  | .maxF32 h d a b => some (.lo (.maxF32 h d a b))
  | .maxF32W32 dist d a b => some (.lo (.maxF32W32 dist d a b))
  | .maxF32C16 d b => some (.lo (.maxF32C16 d b))
  | .minF16 h d a b => some (.lo (.minF16 h d a b))
  | .minF16W32 dist d a b => some (.lo (.minF16W32 dist d a b))
  | .maxF16 h d a b => some (.lo (.maxF16 h d a b))
  | .maxF16W32 dist d a b => some (.lo (.maxF16W32 dist d a b))
  | .minBf16 h d a b => some (.lo (.minBf16 h d a b))
  | .minBf16W32 dist d a b => some (.lo (.minBf16W32 dist d a b))
  | .maxBf16 h d a b => some (.lo (.maxBf16 h d a b))
  | .maxBf16W32 dist d a b => some (.lo (.maxBf16W32 dist d a b))
  | .minF64 h d a b => some (.lo (.minF64 h d a b))
  | .minF64W32 dist d a b => some (.lo (.minF64W32 dist d a b))
  | .maxF64 h d a b => some (.lo (.maxF64 h d a b))
  | .maxF64W32 dist d a b => some (.lo (.maxF64W32 dist d a b))
  | .addF64 h rnd d a b => some (.lo (.addF64 h rnd d a b))
  | .addF64W32 dist rnd d a b => some (.lo (.addF64W32 dist rnd d a b))
  | .subF64 h rnd d a b => some (.lo (.subF64 h rnd d a b))
  | .subF64W32 dist rnd d a b => some (.lo (.subF64W32 dist rnd d a b))
  | .mulF64 h rnd d a b => some (.lo (.mulF64 h rnd d a b))
  | .mulF64W32 dist rnd d a b => some (.lo (.mulF64W32 dist rnd d a b))
  | .lxchSelB32 h d a b => some (.lo (.lxchSelB32 h d a b))
  | .lxchSelB32W32 dist d a b => some (.lo (.lxchSelB32W32 dist d a b))
  | .lxchLoB32 h d a b => some (.lo (.lxchLoB32 h d a b))
  | .lxchLoB32W32 dist d a b => some (.lo (.lxchLoB32W32 dist d a b))
  | .lxchHiB32 h d a b => some (.lo (.lxchHiB32 h d a b))
  | .lxchHiB32W32 dist d a b => some (.lo (.lxchHiB32W32 dist d a b))
  | .lxchFlipB32 h d a b => some (.lo (.lxchFlipB32 h d a b))
  | .lxchFlipB32W32 dist d a b => some (.lo (.lxchFlipB32W32 dist d a b))
  | .movB32 h d b => some (.lo (.movB32 h d b))
  | .movB32W32 dist d b => some (.lo (.movB32W32 dist d b))
  | .movB32C16 d b => some (.lo (.movB32C16 d b))
  | .movXaB32 h d a => some (.lo (.movXaB32 h d a))
  | .movXaB32W32 dist d a => some (.lo (.movXaB32W32 dist d a))
  | .movXdB32 h d b => some (.lo (.movXdB32 h d b))
  | .movXdB32W32 dist d b => some (.lo (.movXdB32W32 dist d b))
  | .movXadB32 h d a => some (.lo (.movXadB32 h d a))
  | .movXadB32W32 dist d a => some (.lo (.movXadB32W32 dist d a))
  | .packB16 h d a b => some (.lo (.packB16 h d a b))
  | .packB16W32 dist d a b => some (.lo (.packB16W32 dist d a b))
  | .fmaF32 h rnd d a b c => some (.lo (.fmaF32 h rnd d a b c))
  | .fnmaF32 h rnd d a b c => some (.lo (.fnmaF32 h rnd d a b c))
  | .fmaF64 h rnd d a b c => some (.lo (.fmaF64 h rnd d a b c))
  | .fnmaF64 h rnd d a b c => some (.lo (.fnmaF64 h rnd d a b c))
  | .fmaF16 h rnd d a b c => some (.lo (.fmaF16 h rnd d a b c))
  | .fnmaF16 h rnd d a b c => some (.lo (.fnmaF16 h rnd d a b c))
  | .fmaBf16 h rnd d a b c => some (.lo (.fmaBf16 h rnd d a b c))
  | .fnmaBf16 h rnd d a b c => some (.lo (.fnmaBf16 h rnd d a b c))
  | .madI32 h d a b c => some (.lo (.madI32 h d a b c))
  | .madhiI32 h d a b c => some (.lo (.madhiI32 h d a b c))
  | .madhiN32 h d a b c => some (.lo (.madhiN32 h d a b c))
  | .madSatI32 h d a b c => some (.lo (.madSatI32 h d a b c))
  | .dot4I8 h d a b c => some (.lo (.dot4I8 h d a b c))
  | .dot4N8 h d a b c => some (.lo (.dot4N8 h d a b c))
  | .dot2I16 h d a b c => some (.lo (.dot2I16 h d a b c))
  | .rcpF32 h rnd d a => some (.lo (.rcpF32 h rnd d a))
  | .rsqrtF32 h d a => some (.lo (.rsqrtF32 h d a))
  | .sqrtF32 h rnd d a => some (.lo (.sqrtF32 h rnd d a))
  | .exp2F32 h d a => some (.lo (.exp2F32 h d a))
  | .log2F32 h d a => some (.lo (.log2F32 h d a))
  | .sinF32 h d a => some (.lo (.sinF32 h d a))
  | .cosF32 h d a => some (.lo (.cosF32 h d a))
  | .rcpF64 h rnd d a => some (.lo (.rcpF64 h rnd d a))
  | .rsqrtF64 h d a => some (.lo (.rsqrtF64 h d a))
  | .sqrtF64 h rnd d a => some (.lo (.sqrtF64 h rnd d a))
  | .cmpEqB32 h d a b => some (.lo (.cmpEqB32 h d a b))
  | .cmpNeB32 h d a b => some (.lo (.cmpNeB32 h d a b))
  | .cmpLtI32 h d a b => some (.lo (.cmpLtI32 h d a b))
  | .cmpLeI32 h d a b => some (.lo (.cmpLeI32 h d a b))
  | .cmpLtN32 h d a b => some (.lo (.cmpLtN32 h d a b))
  | .cmpLeN32 h d a b => some (.lo (.cmpLeN32 h d a b))
  | .tstB32 h d a b => some (.lo (.tstB32 h d a b))
  | .cmpEqF32 h p a b => some (.lo (.cmpEqF32 h p a b))
  | .cmpNeF32 h p a b => some (.lo (.cmpNeF32 h p a b))
  | .cmpLtF32 h p a b => some (.lo (.cmpLtF32 h p a b))
  | .cmpLeF32 h p a b => some (.lo (.cmpLeF32 h p a b))
  | .cmpGtF32 h p a b => some (.lo (.cmpGtF32 h p a b))
  | .cmpGeF32 h p a b => some (.lo (.cmpGeF32 h p a b))
  | .cmpUnF32 h p a b => some (.lo (.cmpUnF32 h p a b))
  | .cmpOrdF32 h p a b => some (.lo (.cmpOrdF32 h p a b))
  | .cmpEqF64 h p a b => some (.lo (.cmpEqF64 h p a b))
  | .cmpNeF64 h p a b => some (.lo (.cmpNeF64 h p a b))
  | .cmpLtF64 h p a b => some (.lo (.cmpLtF64 h p a b))
  | .cmpLeF64 h p a b => some (.lo (.cmpLeF64 h p a b))
  | .cmpGtF64 h p a b => some (.lo (.cmpGtF64 h p a b))
  | .cmpGeF64 h p a b => some (.lo (.cmpGeF64 h p a b))
  | .cmpUnF64 h p a b => some (.lo (.cmpUnF64 h p a b))
  | .cmpOrdF64 h p a b => some (.lo (.cmpOrdF64 h p a b))
  | .cvtF32F64 h rnd d a => some (.lo (.cvtF32F64 h rnd d a))
  | .cvtF64F32 h rnd d a => some (.lo (.cvtF64F32 h rnd d a))
  | .cvtF16F32 h rnd d a b => some (.lo (.cvtF16F32 h rnd d a b))
  | .cvtF32F16 h rnd d a hi => some (.lo (.cvtF32F16 h rnd d a hi))
  | .cvtBf16F32 h rnd d a b => some (.lo (.cvtBf16F32 h rnd d a b))
  | .cvtF32Bf16 h rnd d a hi => some (.lo (.cvtF32Bf16 h rnd d a hi))
  | .cvtI32F32 h rnd d a => some (.lo (.cvtI32F32 h rnd d a))
  | .cvtF32I32 h rnd d a => some (.lo (.cvtF32I32 h rnd d a))
  | .cvtN32F32 h rnd d a => some (.lo (.cvtN32F32 h rnd d a))
  | .cvtF32N32 h rnd d a => some (.lo (.cvtF32N32 h rnd d a))
  | .cvtI64F64 h rnd d a => some (.lo (.cvtI64F64 h rnd d a))
  | .cvtF64I64 h rnd d a => some (.lo (.cvtF64I64 h rnd d a))
  | .cvtI32F64 h rnd d a => some (.lo (.cvtI32F64 h rnd d a))
  | .cvtF64I32 h rnd d a => some (.lo (.cvtF64I32 h rnd d a))
  | .cvtSatI8I32 h rnd d a => some (.lo (.cvtSatI8I32 h rnd d a))
  | .cvtSatI16I32 h rnd d a => some (.lo (.cvtSatI16I32 h rnd d a))
  | .cvtFfF32 h rnd d a f => some (.lo (.cvtFfF32 h rnd d a f))
  | .cvtF32Ff h rnd d a f => some (.lo (.cvtF32Ff h rnd d a f))
  | .cvtFfBf16 h rnd d a f => some (.lo (.cvtFfBf16 h rnd d a f))
  | .cvtBf16Ff h rnd d a f => some (.lo (.cvtBf16Ff h rnd d a f))
  | .packMx h d a f => some (.lo (.packMx h d a f))
  | .unpackMx h rnd d a f => some (.lo (.unpackMx h rnd d a f))
  | .lvoteAnd h p q => some (.lo (.lvoteAnd h p q))
  | .lvoteOr h p q => some (.lo (.lvoteOr h p q))
  | .lvoteMask h d q => some (.lo (.lvoteMask h d q))
  | .vredAddI32 h d a => some (.lo (.vredAddI32 h d a))
  | .vredMinI32 h d a => some (.lo (.vredMinI32 h d a))
  | .vredMaxI32 h d a => some (.lo (.vredMaxI32 h d a))
  | .vredAddF32 h d a => some (.lo (.vredAddF32 h d a))
  | .vscanAddI32 h d a => some (.lo (.vscanAddI32 h d a))
  | .vfilt h d a b c => some (.lo (.vfilt h d a b c))
  | .vpermB32 h d a b => some (.lo (.vpermB32 h d a b))
  | .pand h p q r => some (.lo (.pand h p q r))
  | .por h p q r => some (.lo (.por h p q r))
  | .pnot h p q => some (.lo (.pnot h p q))
  | .pmov h p a => some (.lo (.pmov h p a))
  | .selB32 h d a b q => some (.lo (.selB32 h d a b q))
  | .pfrom h p a => some (.lo (.pfrom h p a))
  | .pto h d q => some (.lo (.pto h d q))
  | .addIv32 h d a b => some (.hi (.addIv32 h d a b))
  | .subIv32 h d a b => some (.hi (.subIv32 h d a b))
  | .mulIv32 h d a b => some (.hi (.mulIv32 h d a b))
  | .divIv32 h d a b => some (.hi (.divIv32 h d a b))
  | .sqrIv32 h d a => some (.hi (.sqrIv32 h d a))
  | .sqrtIv32 h d a => some (.hi (.sqrtIv32 h d a))
  | .negIv32 h d a => some (.hi (.negIv32 h d a))
  | .fmaIv32 h d a b c => some (.hi (.fmaIv32 h d a b c))
  | .addIv64 h d a b => some (.hi (.addIv64 h d a b))
  | .subIv64 h d a b => some (.hi (.subIv64 h d a b))
  | .mulIv64 h d a b => some (.hi (.mulIv64 h d a b))
  | .divIv64 h d a b => some (.hi (.divIv64 h d a b))
  | .sqrIv64 h d a => some (.hi (.sqrIv64 h d a))
  | .sqrtIv64 h d a => some (.hi (.sqrtIv64 h d a))
  | .negIv64 h d a => some (.hi (.negIv64 h d a))
  | .fmaIv64 h d a b c => some (.hi (.fmaIv64 h d a b c))
  | .hullIv32 h d a b => some (.hi (.hullIv32 h d a b))
  | .isectIv32 h d a b => some (.hi (.isectIv32 h d a b))
  | .midIv32 h d a => some (.hi (.midIv32 h d a))
  | .widIv32 h d a => some (.hi (.widIv32 h d a))
  | .cmpLtIv32 h p a b => some (.hi (.cmpLtIv32 h p a b))
  | .cmpLeIv32 h p a b => some (.hi (.cmpLeIv32 h p a b))
  | .cmpEqIv32 h p a b => some (.hi (.cmpEqIv32 h p a b))
  | .bisectIv32 h d a => some (.hi (.bisectIv32 h d a))
  | .hullIv64 h d a b => some (.hi (.hullIv64 h d a b))
  | .isectIv64 h d a b => some (.hi (.isectIv64 h d a b))
  | .midIv64 h d a => some (.hi (.midIv64 h d a))
  | .widIv64 h d a => some (.hi (.widIv64 h d a))
  | .cmpLtIv64 h p a b => some (.hi (.cmpLtIv64 h p a b))
  | .cmpLeIv64 h p a b => some (.hi (.cmpLeIv64 h p a b))
  | .cmpEqIv64 h p a b => some (.hi (.cmpEqIv64 h p a b))
  | .bisectIv64 h d a => some (.hi (.bisectIv64 h d a))
  | .ivSpawn h d a => some (.hi (.ivSpawn h d a))
  | .mkivIv32 h d a b => some (.hi (.mkivIv32 h d a b))
  | .mkivIv64 h d a b => some (.hi (.mkivIv64 h d a b))
  | .ldIv32 h d a hint => some (.hi (.ldIv32 h d a hint))
  | .ldIv64 h d a hint => some (.hi (.ldIv64 h d a hint))
  | .stIv32 h a b hint => some (.hi (.stIv32 h a b hint))
  | .stIv64 h a b hint => some (.hi (.stIv64 h a b hint))
  | .tcfg h t a b c => some (.hi (.tcfg h t a b c))
  | .tload h t bv a b bo => some (.hi (.tload h t bv a b bo))
  | .tstore h t bv a b bo => some (.hi (.tstore h t bv a b bo))
  | .tzero h t => some (.hi (.tzero h t))
  | .mwload h t => some (.hi (.mwload h t))
  | .mwloadSm h t b => some (.hi (.mwloadSm h t b))
  | .mzero h acc => some (.hi (.mzero h acc))
  | .mflags h d clr => some (.hi (.mflags h d clr))
  | .mmacI8 h acc t rp cpn cpk z c => some (.hi (.mmacI8 h acc t rp cpn cpk z c))
  | .mmacF8 h acc t rp cpn cpk z c => some (.hi (.mmacF8 h acc t rp cpn cpk z c))
  | .mmacF4 h acc t rp cpn cpk z c => some (.hi (.mmacF4 h acc t rp cpn cpk z c))
  | .mmacBf16 h acc t rp cpn cpk z c => some (.hi (.mmacBf16 h acc t rp cpn cpk z c))
  | .mmacF16 h acc t rp cpn cpk z c => some (.hi (.mmacF16 h acc t rp cpn cpk z c))
  | .mmacX3 h acc t rp cpn cpk z c => some (.hi (.mmacX3 h acc t rp cpn cpk z c))
  | .mmacMx h acc t rp cpn cpk z c => some (.hi (.mmacMx h acc t rp cpn cpk z c))
  | .mstore h t acc rp cp => some (.hi (.mstore h t acc rp cp))
  | .mload h acc t rp cp => some (.hi (.mload h acc t rp cp))
  | .mcvt h acc src rp cp c => some (.hi (.mcvt h acc src rp cp c))
  | .mpset h cnt col idx a => some (.hi (.mpset h cnt col idx a))
  | .marrive h bo a => some (.hi (.marrive h bo a))
  | .mswap h => some (.hi (.mswap h))
  | .ldN8 h d a hint => some (.hi (.ldN8 h d a hint))
  | .ldI8 h d a hint => some (.hi (.ldI8 h d a hint))
  | .ldN16 h d a hint => some (.hi (.ldN16 h d a hint))
  | .ldI16 h d a hint => some (.hi (.ldI16 h d a hint))
  | .ldB32 h d a hint => some (.hi (.ldB32 h d a hint))
  | .ldB64 h d a hint => some (.hi (.ldB64 h d a hint))
  | .ldB128 h d a hint => some (.hi (.ldB128 h d a hint))
  | .stB8 h a b hint => some (.hi (.stB8 h a b hint))
  | .stB16 h a b hint => some (.hi (.stB16 h a b hint))
  | .stB32 h a b hint => some (.hi (.stB32 h a b hint))
  | .stB64 h a b hint => some (.hi (.stB64 h a b hint))
  | .stB128 h a b hint => some (.hi (.stB128 h a b hint))
  | .ldsB32 h d a => some (.hi (.ldsB32 h d a))
  | .ldsB64 h d a => some (.hi (.ldsB64 h d a))
  | .stsB32 h a b => some (.hi (.stsB32 h a b))
  | .stsB64 h a b => some (.hi (.stsB64 h a b))
  | .ldlB32 h d a => some (.hi (.ldlB32 h d a))
  | .ldlB64 h d a => some (.hi (.ldlB64 h d a))
  | .stlB32 h a b => some (.hi (.stlB32 h a b))
  | .stlB64 h a b => some (.hi (.stlB64 h a b))
  | .atomAddI32 h d a b sc => some (.hi (.atomAddI32 h d a b sc))
  | .atomMinI32 h d a b sc => some (.hi (.atomMinI32 h d a b sc))
  | .atomMaxI32 h d a b sc => some (.hi (.atomMaxI32 h d a b sc))
  | .atomAndB32 h d a b sc => some (.hi (.atomAndB32 h d a b sc))
  | .atomOrB32 h d a b sc => some (.hi (.atomOrB32 h d a b sc))
  | .atomXorB32 h d a b sc => some (.hi (.atomXorB32 h d a b sc))
  | .atomExchB32 h d a b sc => some (.hi (.atomExchB32 h d a b sc))
  | .atomCasB32 h d a b sc => some (.hi (.atomCasB32 h d a b sc))
  | .atomAddF32 h d a b sc => some (.hi (.atomAddF32 h d a b sc))
  | .aredAddI32 h a b sc => some (.hi (.aredAddI32 h a b sc))
  | .aredAddF32 h a b sc => some (.hi (.aredAddF32 h a b sc))
  | .aredMinI32 h a b sc => some (.hi (.aredMinI32 h a b sc))
  | .aredMaxI32 h a b sc => some (.hi (.aredMaxI32 h a b sc))
  | .aredAndB32 h a b sc => some (.hi (.aredAndB32 h a b sc))
  | .aredOrB32 h a b sc => some (.hi (.aredOrB32 h a b sc))
  | .aredXorB32 h a b sc => some (.hi (.aredXorB32 h a b sc))
  | .aredAddI64 h a b sc => some (.hi (.aredAddI64 h a b sc))
  | .ldrB32 h d a sc => some (.hi (.ldrB32 h d a sc))
  | .stcB32 h d a b sc => some (.hi (.stcB32 h d a b sc))
  | .fence h sc => some (.hi (.fence h sc))
  | .prefetch h a hint => some (.hi (.prefetch h a hint))
  | .cwback h a hint => some (.hi (.cwback h a hint))
  | .cinval h a hint => some (.hi (.cinval h a hint))
  | .xgather h bo cnt a b slot mw => some (.hi (.xgather h bo cnt a b slot mw))
  | .xgatherSum h bo cnt a b slot mw => some (.hi (.xgatherSum h bo cnt a b slot mw))
  | .xgatherMax h bo cnt a b slot mw => some (.hi (.xgatherMax h bo cnt a b slot mw))
  | .xgatherMean h bo cnt a b slot mw => some (.hi (.xgatherMean h bo cnt a b slot mw))
  | .xscadd h bo cnt a b slot mw => some (.hi (.xscadd h bo cnt a b slot mw))
  | .xscmax h bo cnt a b slot mw => some (.hi (.xscmax h bo cnt a b slot mw))
  | .xscore h bo cnt a b slot mw => some (.hi (.xscore h bo cnt a b slot mw))
  | .xqload h d a slot => some (.hi (.xqload h d a slot))
  | .xqfree h a => some (.hi (.xqfree h a))
  | .xstat h d clr => some (.hi (.xstat h d clr))
  | .xmask h p k => some (.hi (.xmask h p k))
  | .xwait h k => some (.hi (.xwait h k))
  | .acopyIn h tag a b bo bv ch => some (.hi (.acopyIn h tag a b bo bv ch))
  | .acopyOut h tag a b bo bv ch => some (.hi (.acopyOut h tag a b bo bv ch))
  | .tagwaitAny h a => some (.hi (.tagwaitAny h a))
  | .tagwaitAll h a => some (.hi (.tagwaitAll h a))
  | .tagffr h d a => some (.hi (.tagffr h d a))
  | .tagclr h a => some (.hi (.tagclr h a))
  | .hfetch h d a slot form => some (.hi (.hfetch h d a slot form))
  | .hfetchPf h a slot form => some (.hi (.hfetchPf h a slot form))
  | .rowscan h ht ind a b hs => some (.hi (.rowscan h ht ind a b hs))
  | .fibld h d a slot form => some (.hi (.fibld h d a slot form))
  | .fibinv h slot fc => some (.hi (.fibinv h slot fc))
  | .dmaCopy h d a b c => some (.hi (.dmaCopy h d a b c))
  | .dmaFill h d a b c => some (.hi (.dmaFill h d a b c))
  | .dmaStat h d a => some (.hi (.dmaStat h d a))
  | .mdld h d a slot => some (.hi (.mdld h d a slot))
  | .launch h d a => some (.hi (.launch h d a))
  | .launchRec h d a => some (.hi (.launchRec h d a))
  | .grow h d a => some (.hi (.grow h d a))
  | .vpoint h k => some (.hi (.vpoint h k))
  | .exit h => some (.hi (.exit h))
  | .bar h s => some (.hi (.bar h s))
  | .gbar h => some (.hi (.gbar h))
  | .mbar h k => some (.hi (.mbar h k))
  | .mjoin h k => some (.hi (.mjoin h k))
  | .mleave h k => some (.hi (.mleave h k))
  | .dqpush h a => some (.hi (.dqpush h a))
  | .dqpop h d => some (.hi (.dqpop h d))
  | .barinit h bo a => some (.hi (.barinit h bo a))
  | .barwait h bo a => some (.hi (.barwait h bo a))
  | .bararr h bo => some (.hi (.bararr h bo))
  | .br h ofs => some (.hi (.br h ofs))
  | .brc h sense c ofs => some (.hi (.brc h sense c ofs))
  | .brdq h sense ofs => some (.hi (.brdq h sense ofs))
  | .brzm h pm p ofs => some (.hi (.brzm h pm p ofs))
  | .split h p t u => some (.hi (.split h p t u))
  | .join h => some (.hi (.join h))
  | .call h ofs => some (.hi (.call h ofs))
  | .ret h => some (.hi (.ret h))
  | .jmpi h a => some (.hi (.jmpi h a))
  | .calli h a => some (.hi (.calli h a))
  | .emsave h d => some (.hi (.emsave h d))
  | .emrest h a => some (.hi (.emrest h a))
  | .emand h pm p => some (.hi (.emand h pm p))
  | .trap h k => some (.hi (.trap h k))
  | .rdst h d num => some (.hi (.rdst h d num))
  | .wrst h num b => some (.hi (.wrst h num b))
  | .rdlfsr h d => some (.hi (.rdlfsr h d))
  | .brk h k => some (.hi (.brk h k))
  | .rdclk h d => some (.hi (.rdclk h d))
  | .waitImmediate h k => some (.hi (.waitImmediate h k))
  | .waitRegister h a => some (.hi (.waitRegister h a))
  | .waitExpiry _ => none
  | .resultWriteback _ => none
  | .issueSelect _ _ => none
  | .sequencerPortIssue _ => none
  | .loadComplete _ _ => none
  | .storePerformed _ _ => none
  | .atomicPerform _ => none
  | .tlbWalkComplete _ => none
  | .replayEntryReplay _ _ => none
  | .uncorrectableError _ => none
  | .transportFirstSlot _ _ => none
  | .transportRemoteRequest _ => none
  | .rowEngineChunk _ _ => none
  | .transportReply _ _ _ => none
  | .transportReplyTimeout _ _ => none
  | .transportComplete _ => none
  | .xstatRecord _ _ => none
  | .queryLoadComplete _ => none
  | .querySlotReload _ => none
  | .copyTranslated _ => none
  | .copyComplete _ => none
  | .dmaChunk _ => none
  | .dmaComplete _ => none
  | .hfetchComplete _ _ => none
  | .fibldComplete _ _ => none
  | .rowscanReadAhead _ => none
  | .rookQueueStart _ _ => none
  | .rookQueueStop _ _ => none
  | .rookEntryPush _ _ => none
  | .matrixCommandComplete _ => none
  | .mswapTakeEffect _ => none
  | .barrierComplete _ => none
  | .mbarComplete _ _ => none
  | .gridBarrierComplete _ => none
  | .joinRelease _ _ => none
  | .spawnComplete _ => none
  | .launchAnswer _ => none
  | .launchCellWrite _ _ _ => none
  | .launchCellPoll _ => none
  | .dispatchBatch _ _ _ => none
  | .groupPlace _ => none
  | .dictionaryBankLoad _ _ => none
  | .instructionRowFill _ _ => none
  | .dependencePoll _ => none
  | .recordCountRead _ => none
  | .commitPoint _ => none
  | .redundantThirdRun _ => none
  | .groupResume _ => none
  | .earlyCommit _ => none
  | .groupRetire _ => none
  | .gridRetire _ => none
  | .taskRetry _ _ => none
  | .taskRestart _ _ => none
  | .timeSliceExpiry _ => none
  | .coalescerRecordClose _ => none
  | .faultBufferRetry _ => none
  | .xqFreeRecord _ => none
  | .freqChange _ => none
  | .dieQuiesced _ => none
  | .pllRelocked => none
  | .handshakeTimeout => none
  | .xinvPage _ _ _ => none
  | .xinvContext _ _ _ => none
  | .xinvAll _ _ => none
  | .xinvDone => none
  | .fsvcService _ _ _ => none
  | .fsvcFail _ _ _ => none
  | .fsvcDone => none
  | .ctxCreate _ _ _ => none
  | .ctxDrain _ _ => none
  | .ctxDrainForced _ _ => none
  | .ctxResume _ _ _ => none
  | .ctxDestroy _ _ _ => none
  | .ctxReleaseGrid _ _ _ => none
  | .drainComplete _ => none
  | .drainDeadline _ _ => none
  | .freeze => none
  | .thaw => none
  | .stateReadout _ => none
  | .debugRelease _ => none
  | .counterHalving => none
  | .unitRetire _ => none
  | .powerSample _ => none
  | .flitReplay _ _ => none
  | .portRetrain _ => none
  | .portDown _ => none
  | .laneSpare _ _ => none
  | .laneSpareGo _ _ => none
  | .portHalfWidth _ => none
  | .laneCountWindow _ => none
  | .hostLinkDown _ => none
  | .hostMemoryAccess _ => none
  | .moduleReset => none
  | .registerWrite _ _ => none
  | .hostLinkReturn _ _ => none
  | .fabricRouteUpdate _ _ _ => none
  | .linkTrained _ => none
  | .spdmAttestation _ => none

noncomputable section

/-- The instruction of a word. -/
def FormLo.toInstr (x : FormLo) : Instr :=
  match x with
  | .nop => .nop
  | .dictionaryReference dist entry => .dictionaryReference dist entry
  | .addI32 h d a b => .addI32 h d a b
  | .addI32W32 dist d a b => .addI32W32 dist d a b
  | .addI32C16 d b => .addI32C16 d b
  | .subI32 h d a b => .subI32 h d a b
  | .subI32W32 dist d a b => .subI32W32 dist d a b
  | .subI32C16 d b => .subI32C16 d b
  | .addSatI32 h d a b => .addSatI32 h d a b
  | .addSatI32W32 dist d a b => .addSatI32W32 dist d a b
  | .subSatI32 h d a b => .subSatI32 h d a b
  | .subSatI32W32 dist d a b => .subSatI32W32 dist d a b
  | .addSatN32 h d a b => .addSatN32 h d a b
  | .addSatN32W32 dist d a b => .addSatN32W32 dist d a b
  | .subSatN32 h d a b => .subSatN32 h d a b
  | .subSatN32W32 dist d a b => .subSatN32W32 dist d a b
  | .addI16 h d a b => .addI16 h d a b
  | .addI16W32 dist d a b => .addI16W32 dist d a b
  | .subI16 h d a b => .subI16 h d a b
  | .subI16W32 dist d a b => .subI16W32 dist d a b
  | .mulI32 h d a b => .mulI32 h d a b
  | .mulI32W32 dist d a b => .mulI32W32 dist d a b
  | .mulhiI32 h d a b => .mulhiI32 h d a b
  | .mulhiI32W32 dist d a b => .mulhiI32W32 dist d a b
  | .mulhiN32 h d a b => .mulhiN32 h d a b
  | .mulhiN32W32 dist d a b => .mulhiN32W32 dist d a b
  | .mulSatI32 h d a b => .mulSatI32 h d a b
  | .mulSatI32W32 dist d a b => .mulSatI32W32 dist d a b
  | .mulI16 h d a b => .mulI16 h d a b
  | .mulI16W32 dist d a b => .mulI16W32 dist d a b
  | .andB32 h d a b => .andB32 h d a b
  | .andB32W32 dist d a b => .andB32W32 dist d a b
  | .andB32C16 d b => .andB32C16 d b
  | .orB32 h d a b => .orB32 h d a b
  | .orB32W32 dist d a b => .orB32W32 dist d a b
  | .orB32C16 d b => .orB32C16 d b
  | .xorB32 h d a b => .xorB32 h d a b
  | .xorB32W32 dist d a b => .xorB32W32 dist d a b
  | .xorB32C16 d b => .xorB32C16 d b
  | .andnB32 h d a b => .andnB32 h d a b
  | .andnB32W32 dist d a b => .andnB32W32 dist d a b
  | .ornB32 h d a b => .ornB32 h d a b
  | .ornB32W32 dist d a b => .ornB32W32 dist d a b
  | .xnorB32 h d a b => .xnorB32 h d a b
  | .xnorB32W32 dist d a b => .xnorB32W32 dist d a b
  | .shlB32 h d a b => .shlB32 h d a b
  | .shlB32W32 dist d a b => .shlB32W32 dist d a b
  | .shlB32C16 d b => .shlB32C16 d b
  | .shrN32 h d a b => .shrN32 h d a b
  | .shrN32W32 dist d a b => .shrN32W32 dist d a b
  | .shrN32C16 d b => .shrN32C16 d b
  | .shrI32 h d a b => .shrI32 h d a b
  | .shrI32W32 dist d a b => .shrI32W32 dist d a b
  | .rotlB32 h d a b => .rotlB32 h d a b
  | .rotlB32W32 dist d a b => .rotlB32W32 dist d a b
  | .rotrB32 h d a b => .rotrB32 h d a b
  | .rotrB32W32 dist d a b => .rotrB32W32 dist d a b
  | .minI32 h d a b => .minI32 h d a b
  | .minI32W32 dist d a b => .minI32W32 dist d a b
  | .minI32C16 d b => .minI32C16 d b
  | .maxI32 h d a b => .maxI32 h d a b
  | .maxI32W32 dist d a b => .maxI32W32 dist d a b
  | .maxI32C16 d b => .maxI32C16 d b
  | .minN32 h d a b => .minN32 h d a b
  | .minN32W32 dist d a b => .minN32W32 dist d a b
  | .maxN32 h d a b => .maxN32 h d a b
  | .maxN32W32 dist d a b => .maxN32W32 dist d a b
  | .adifI32 h d a b => .adifI32 h d a b
  | .adifI32W32 dist d a b => .adifI32W32 dist d a b
  | .adifN32 h d a b => .adifN32 h d a b
  | .adifN32W32 dist d a b => .adifN32W32 dist d a b
  | .bfextN32 h d a b => .bfextN32 h d a b
  | .bfextN32W32 dist d a b => .bfextN32W32 dist d a b
  | .bfextI32 h d a b => .bfextI32 h d a b
  | .bfextI32W32 dist d a b => .bfextI32W32 dist d a b
  | .bfinsB32 h d a b c => .bfinsB32 h d a b c
  | .bfinsB32W32 dist d a b => .bfinsB32W32 dist d a b
  | .popcB32 h d a => .popcB32 h d a
  | .popcB32W32 dist d a => .popcB32W32 dist d a
  | .clzB32 h d a => .clzB32 h d a
  | .clzB32W32 dist d a => .clzB32W32 dist d a
  | .brevB32 h d a => .brevB32 h d a
  | .brevB32W32 dist d a => .brevB32W32 dist d a
  | .addI64 h d a b => .addI64 h d a b
  | .addI64W32 dist d a b => .addI64W32 dist d a b
  | .subI64 h d a b => .subI64 h d a b
  | .subI64W32 dist d a b => .subI64W32 dist d a b
  | .addF32 h rnd d a b => .addF32 h rnd d a b
  | .addF32W32 dist rnd d a b => .addF32W32 dist rnd d a b
  | .addF32C16 d b => .addF32C16 d b
  | .subF32 h rnd d a b => .subF32 h rnd d a b
  | .subF32W32 dist rnd d a b => .subF32W32 dist rnd d a b
  | .subF32C16 d b => .subF32C16 d b
  | .mulF32 h rnd d a b => .mulF32 h rnd d a b
  | .mulF32W32 dist rnd d a b => .mulF32W32 dist rnd d a b
  | .mulF32C16 d b => .mulF32C16 d b
  | .addF16 h rnd d a b => .addF16 h rnd d a b
  | .addF16W32 dist rnd d a b => .addF16W32 dist rnd d a b
  | .subF16 h rnd d a b => .subF16 h rnd d a b
  | .subF16W32 dist rnd d a b => .subF16W32 dist rnd d a b
  | .addBf16 h rnd d a b => .addBf16 h rnd d a b
  | .addBf16W32 dist rnd d a b => .addBf16W32 dist rnd d a b
  | .subBf16 h rnd d a b => .subBf16 h rnd d a b
  | .subBf16W32 dist rnd d a b => .subBf16W32 dist rnd d a b
  | .mulF16 h rnd d a b => .mulF16 h rnd d a b
  | .mulF16W32 dist rnd d a b => .mulF16W32 dist rnd d a b
  | .mulBf16 h rnd d a b => .mulBf16 h rnd d a b
  | .mulBf16W32 dist rnd d a b => .mulBf16W32 dist rnd d a b
  | .minF32 h d a b => .minF32 h d a b
  | .minF32W32 dist d a b => .minF32W32 dist d a b
  | .minF32C16 d b => .minF32C16 d b
  | .maxF32 h d a b => .maxF32 h d a b
  | .maxF32W32 dist d a b => .maxF32W32 dist d a b
  | .maxF32C16 d b => .maxF32C16 d b
  | .minF16 h d a b => .minF16 h d a b
  | .minF16W32 dist d a b => .minF16W32 dist d a b
  | .maxF16 h d a b => .maxF16 h d a b
  | .maxF16W32 dist d a b => .maxF16W32 dist d a b
  | .minBf16 h d a b => .minBf16 h d a b
  | .minBf16W32 dist d a b => .minBf16W32 dist d a b
  | .maxBf16 h d a b => .maxBf16 h d a b
  | .maxBf16W32 dist d a b => .maxBf16W32 dist d a b
  | .minF64 h d a b => .minF64 h d a b
  | .minF64W32 dist d a b => .minF64W32 dist d a b
  | .maxF64 h d a b => .maxF64 h d a b
  | .maxF64W32 dist d a b => .maxF64W32 dist d a b
  | .addF64 h rnd d a b => .addF64 h rnd d a b
  | .addF64W32 dist rnd d a b => .addF64W32 dist rnd d a b
  | .subF64 h rnd d a b => .subF64 h rnd d a b
  | .subF64W32 dist rnd d a b => .subF64W32 dist rnd d a b
  | .mulF64 h rnd d a b => .mulF64 h rnd d a b
  | .mulF64W32 dist rnd d a b => .mulF64W32 dist rnd d a b
  | .lxchSelB32 h d a b => .lxchSelB32 h d a b
  | .lxchSelB32W32 dist d a b => .lxchSelB32W32 dist d a b
  | .lxchLoB32 h d a b => .lxchLoB32 h d a b
  | .lxchLoB32W32 dist d a b => .lxchLoB32W32 dist d a b
  | .lxchHiB32 h d a b => .lxchHiB32 h d a b
  | .lxchHiB32W32 dist d a b => .lxchHiB32W32 dist d a b
  | .lxchFlipB32 h d a b => .lxchFlipB32 h d a b
  | .lxchFlipB32W32 dist d a b => .lxchFlipB32W32 dist d a b
  | .movB32 h d b => .movB32 h d b
  | .movB32W32 dist d b => .movB32W32 dist d b
  | .movB32C16 d b => .movB32C16 d b
  | .movXaB32 h d a => .movXaB32 h d a
  | .movXaB32W32 dist d a => .movXaB32W32 dist d a
  | .movXdB32 h d b => .movXdB32 h d b
  | .movXdB32W32 dist d b => .movXdB32W32 dist d b
  | .movXadB32 h d a => .movXadB32 h d a
  | .movXadB32W32 dist d a => .movXadB32W32 dist d a
  | .packB16 h d a b => .packB16 h d a b
  | .packB16W32 dist d a b => .packB16W32 dist d a b
  | .fmaF32 h rnd d a b c => .fmaF32 h rnd d a b c
  | .fnmaF32 h rnd d a b c => .fnmaF32 h rnd d a b c
  | .fmaF64 h rnd d a b c => .fmaF64 h rnd d a b c
  | .fnmaF64 h rnd d a b c => .fnmaF64 h rnd d a b c
  | .fmaF16 h rnd d a b c => .fmaF16 h rnd d a b c
  | .fnmaF16 h rnd d a b c => .fnmaF16 h rnd d a b c
  | .fmaBf16 h rnd d a b c => .fmaBf16 h rnd d a b c
  | .fnmaBf16 h rnd d a b c => .fnmaBf16 h rnd d a b c
  | .madI32 h d a b c => .madI32 h d a b c
  | .madhiI32 h d a b c => .madhiI32 h d a b c
  | .madhiN32 h d a b c => .madhiN32 h d a b c
  | .madSatI32 h d a b c => .madSatI32 h d a b c
  | .dot4I8 h d a b c => .dot4I8 h d a b c
  | .dot4N8 h d a b c => .dot4N8 h d a b c
  | .dot2I16 h d a b c => .dot2I16 h d a b c
  | .rcpF32 h rnd d a => .rcpF32 h rnd d a
  | .rsqrtF32 h d a => .rsqrtF32 h d a
  | .sqrtF32 h rnd d a => .sqrtF32 h rnd d a
  | .exp2F32 h d a => .exp2F32 h d a
  | .log2F32 h d a => .log2F32 h d a
  | .sinF32 h d a => .sinF32 h d a
  | .cosF32 h d a => .cosF32 h d a
  | .rcpF64 h rnd d a => .rcpF64 h rnd d a
  | .rsqrtF64 h d a => .rsqrtF64 h d a
  | .sqrtF64 h rnd d a => .sqrtF64 h rnd d a
  | .cmpEqB32 h d a b => .cmpEqB32 h d a b
  | .cmpNeB32 h d a b => .cmpNeB32 h d a b
  | .cmpLtI32 h d a b => .cmpLtI32 h d a b
  | .cmpLeI32 h d a b => .cmpLeI32 h d a b
  | .cmpLtN32 h d a b => .cmpLtN32 h d a b
  | .cmpLeN32 h d a b => .cmpLeN32 h d a b
  | .tstB32 h d a b => .tstB32 h d a b
  | .cmpEqF32 h p a b => .cmpEqF32 h p a b
  | .cmpNeF32 h p a b => .cmpNeF32 h p a b
  | .cmpLtF32 h p a b => .cmpLtF32 h p a b
  | .cmpLeF32 h p a b => .cmpLeF32 h p a b
  | .cmpGtF32 h p a b => .cmpGtF32 h p a b
  | .cmpGeF32 h p a b => .cmpGeF32 h p a b
  | .cmpUnF32 h p a b => .cmpUnF32 h p a b
  | .cmpOrdF32 h p a b => .cmpOrdF32 h p a b
  | .cmpEqF64 h p a b => .cmpEqF64 h p a b
  | .cmpNeF64 h p a b => .cmpNeF64 h p a b
  | .cmpLtF64 h p a b => .cmpLtF64 h p a b
  | .cmpLeF64 h p a b => .cmpLeF64 h p a b
  | .cmpGtF64 h p a b => .cmpGtF64 h p a b
  | .cmpGeF64 h p a b => .cmpGeF64 h p a b
  | .cmpUnF64 h p a b => .cmpUnF64 h p a b
  | .cmpOrdF64 h p a b => .cmpOrdF64 h p a b
  | .cvtF32F64 h rnd d a => .cvtF32F64 h rnd d a
  | .cvtF64F32 h rnd d a => .cvtF64F32 h rnd d a
  | .cvtF16F32 h rnd d a b => .cvtF16F32 h rnd d a b
  | .cvtF32F16 h rnd d a hi => .cvtF32F16 h rnd d a hi
  | .cvtBf16F32 h rnd d a b => .cvtBf16F32 h rnd d a b
  | .cvtF32Bf16 h rnd d a hi => .cvtF32Bf16 h rnd d a hi
  | .cvtI32F32 h rnd d a => .cvtI32F32 h rnd d a
  | .cvtF32I32 h rnd d a => .cvtF32I32 h rnd d a
  | .cvtN32F32 h rnd d a => .cvtN32F32 h rnd d a
  | .cvtF32N32 h rnd d a => .cvtF32N32 h rnd d a
  | .cvtI64F64 h rnd d a => .cvtI64F64 h rnd d a
  | .cvtF64I64 h rnd d a => .cvtF64I64 h rnd d a
  | .cvtI32F64 h rnd d a => .cvtI32F64 h rnd d a
  | .cvtF64I32 h rnd d a => .cvtF64I32 h rnd d a
  | .cvtSatI8I32 h rnd d a => .cvtSatI8I32 h rnd d a
  | .cvtSatI16I32 h rnd d a => .cvtSatI16I32 h rnd d a
  | .cvtFfF32 h rnd d a f => .cvtFfF32 h rnd d a f
  | .cvtF32Ff h rnd d a f => .cvtF32Ff h rnd d a f
  | .cvtFfBf16 h rnd d a f => .cvtFfBf16 h rnd d a f
  | .cvtBf16Ff h rnd d a f => .cvtBf16Ff h rnd d a f
  | .packMx h d a f => .packMx h d a f
  | .unpackMx h rnd d a f => .unpackMx h rnd d a f
  | .lvoteAnd h p q => .lvoteAnd h p q
  | .lvoteOr h p q => .lvoteOr h p q
  | .lvoteMask h d q => .lvoteMask h d q
  | .vredAddI32 h d a => .vredAddI32 h d a
  | .vredMinI32 h d a => .vredMinI32 h d a
  | .vredMaxI32 h d a => .vredMaxI32 h d a
  | .vredAddF32 h d a => .vredAddF32 h d a
  | .vscanAddI32 h d a => .vscanAddI32 h d a
  | .vfilt h d a b c => .vfilt h d a b c
  | .vpermB32 h d a b => .vpermB32 h d a b
  | .pand h p q r => .pand h p q r
  | .por h p q r => .por h p q r
  | .pnot h p q => .pnot h p q
  | .pmov h p a => .pmov h p a
  | .selB32 h d a b q => .selB32 h d a b q
  | .pfrom h p a => .pfrom h p a
  | .pto h d q => .pto h d q

/-- The instruction of a word. -/
def FormHi.toInstr (x : FormHi) : Instr :=
  match x with
  | .addIv32 h d a b => .addIv32 h d a b
  | .subIv32 h d a b => .subIv32 h d a b
  | .mulIv32 h d a b => .mulIv32 h d a b
  | .divIv32 h d a b => .divIv32 h d a b
  | .sqrIv32 h d a => .sqrIv32 h d a
  | .sqrtIv32 h d a => .sqrtIv32 h d a
  | .negIv32 h d a => .negIv32 h d a
  | .fmaIv32 h d a b c => .fmaIv32 h d a b c
  | .addIv64 h d a b => .addIv64 h d a b
  | .subIv64 h d a b => .subIv64 h d a b
  | .mulIv64 h d a b => .mulIv64 h d a b
  | .divIv64 h d a b => .divIv64 h d a b
  | .sqrIv64 h d a => .sqrIv64 h d a
  | .sqrtIv64 h d a => .sqrtIv64 h d a
  | .negIv64 h d a => .negIv64 h d a
  | .fmaIv64 h d a b c => .fmaIv64 h d a b c
  | .hullIv32 h d a b => .hullIv32 h d a b
  | .isectIv32 h d a b => .isectIv32 h d a b
  | .midIv32 h d a => .midIv32 h d a
  | .widIv32 h d a => .widIv32 h d a
  | .cmpLtIv32 h p a b => .cmpLtIv32 h p a b
  | .cmpLeIv32 h p a b => .cmpLeIv32 h p a b
  | .cmpEqIv32 h p a b => .cmpEqIv32 h p a b
  | .bisectIv32 h d a => .bisectIv32 h d a
  | .hullIv64 h d a b => .hullIv64 h d a b
  | .isectIv64 h d a b => .isectIv64 h d a b
  | .midIv64 h d a => .midIv64 h d a
  | .widIv64 h d a => .widIv64 h d a
  | .cmpLtIv64 h p a b => .cmpLtIv64 h p a b
  | .cmpLeIv64 h p a b => .cmpLeIv64 h p a b
  | .cmpEqIv64 h p a b => .cmpEqIv64 h p a b
  | .bisectIv64 h d a => .bisectIv64 h d a
  | .ivSpawn h d a => .ivSpawn h d a
  | .mkivIv32 h d a b => .mkivIv32 h d a b
  | .mkivIv64 h d a b => .mkivIv64 h d a b
  | .ldIv32 h d a hint => .ldIv32 h d a hint
  | .ldIv64 h d a hint => .ldIv64 h d a hint
  | .stIv32 h a b hint => .stIv32 h a b hint
  | .stIv64 h a b hint => .stIv64 h a b hint
  | .tcfg h t a b c => .tcfg h t a b c
  | .tload h t bv a b bo => .tload h t bv a b bo
  | .tstore h t bv a b bo => .tstore h t bv a b bo
  | .tzero h t => .tzero h t
  | .mwload h t => .mwload h t
  | .mwloadSm h t b => .mwloadSm h t b
  | .mzero h acc => .mzero h acc
  | .mflags h d clr => .mflags h d clr
  | .mmacI8 h acc t rp cpn cpk z c => .mmacI8 h acc t rp cpn cpk z c
  | .mmacF8 h acc t rp cpn cpk z c => .mmacF8 h acc t rp cpn cpk z c
  | .mmacF4 h acc t rp cpn cpk z c => .mmacF4 h acc t rp cpn cpk z c
  | .mmacBf16 h acc t rp cpn cpk z c => .mmacBf16 h acc t rp cpn cpk z c
  | .mmacF16 h acc t rp cpn cpk z c => .mmacF16 h acc t rp cpn cpk z c
  | .mmacX3 h acc t rp cpn cpk z c => .mmacX3 h acc t rp cpn cpk z c
  | .mmacMx h acc t rp cpn cpk z c => .mmacMx h acc t rp cpn cpk z c
  | .mstore h t acc rp cp => .mstore h t acc rp cp
  | .mload h acc t rp cp => .mload h acc t rp cp
  | .mcvt h acc src rp cp c => .mcvt h acc src rp cp c
  | .mpset h cnt col idx a => .mpset h cnt col idx a
  | .marrive h bo a => .marrive h bo a
  | .mswap h => .mswap h
  | .ldN8 h d a hint => .ldN8 h d a hint
  | .ldI8 h d a hint => .ldI8 h d a hint
  | .ldN16 h d a hint => .ldN16 h d a hint
  | .ldI16 h d a hint => .ldI16 h d a hint
  | .ldB32 h d a hint => .ldB32 h d a hint
  | .ldB64 h d a hint => .ldB64 h d a hint
  | .ldB128 h d a hint => .ldB128 h d a hint
  | .stB8 h a b hint => .stB8 h a b hint
  | .stB16 h a b hint => .stB16 h a b hint
  | .stB32 h a b hint => .stB32 h a b hint
  | .stB64 h a b hint => .stB64 h a b hint
  | .stB128 h a b hint => .stB128 h a b hint
  | .ldsB32 h d a => .ldsB32 h d a
  | .ldsB64 h d a => .ldsB64 h d a
  | .stsB32 h a b => .stsB32 h a b
  | .stsB64 h a b => .stsB64 h a b
  | .ldlB32 h d a => .ldlB32 h d a
  | .ldlB64 h d a => .ldlB64 h d a
  | .stlB32 h a b => .stlB32 h a b
  | .stlB64 h a b => .stlB64 h a b
  | .atomAddI32 h d a b sc => .atomAddI32 h d a b sc
  | .atomMinI32 h d a b sc => .atomMinI32 h d a b sc
  | .atomMaxI32 h d a b sc => .atomMaxI32 h d a b sc
  | .atomAndB32 h d a b sc => .atomAndB32 h d a b sc
  | .atomOrB32 h d a b sc => .atomOrB32 h d a b sc
  | .atomXorB32 h d a b sc => .atomXorB32 h d a b sc
  | .atomExchB32 h d a b sc => .atomExchB32 h d a b sc
  | .atomCasB32 h d a b sc => .atomCasB32 h d a b sc
  | .atomAddF32 h d a b sc => .atomAddF32 h d a b sc
  | .aredAddI32 h a b sc => .aredAddI32 h a b sc
  | .aredAddF32 h a b sc => .aredAddF32 h a b sc
  | .aredMinI32 h a b sc => .aredMinI32 h a b sc
  | .aredMaxI32 h a b sc => .aredMaxI32 h a b sc
  | .aredAndB32 h a b sc => .aredAndB32 h a b sc
  | .aredOrB32 h a b sc => .aredOrB32 h a b sc
  | .aredXorB32 h a b sc => .aredXorB32 h a b sc
  | .aredAddI64 h a b sc => .aredAddI64 h a b sc
  | .ldrB32 h d a sc => .ldrB32 h d a sc
  | .stcB32 h d a b sc => .stcB32 h d a b sc
  | .fence h sc => .fence h sc
  | .prefetch h a hint => .prefetch h a hint
  | .cwback h a hint => .cwback h a hint
  | .cinval h a hint => .cinval h a hint
  | .xgather h bo cnt a b slot mw => .xgather h bo cnt a b slot mw
  | .xgatherSum h bo cnt a b slot mw => .xgatherSum h bo cnt a b slot mw
  | .xgatherMax h bo cnt a b slot mw => .xgatherMax h bo cnt a b slot mw
  | .xgatherMean h bo cnt a b slot mw => .xgatherMean h bo cnt a b slot mw
  | .xscadd h bo cnt a b slot mw => .xscadd h bo cnt a b slot mw
  | .xscmax h bo cnt a b slot mw => .xscmax h bo cnt a b slot mw
  | .xscore h bo cnt a b slot mw => .xscore h bo cnt a b slot mw
  | .xqload h d a slot => .xqload h d a slot
  | .xqfree h a => .xqfree h a
  | .xstat h d clr => .xstat h d clr
  | .xmask h p k => .xmask h p k
  | .xwait h k => .xwait h k
  | .acopyIn h tag a b bo bv ch => .acopyIn h tag a b bo bv ch
  | .acopyOut h tag a b bo bv ch => .acopyOut h tag a b bo bv ch
  | .tagwaitAny h a => .tagwaitAny h a
  | .tagwaitAll h a => .tagwaitAll h a
  | .tagffr h d a => .tagffr h d a
  | .tagclr h a => .tagclr h a
  | .hfetch h d a slot form => .hfetch h d a slot form
  | .hfetchPf h a slot form => .hfetchPf h a slot form
  | .rowscan h ht ind a b hs => .rowscan h ht ind a b hs
  | .fibld h d a slot form => .fibld h d a slot form
  | .fibinv h slot fc => .fibinv h slot fc
  | .dmaCopy h d a b c => .dmaCopy h d a b c
  | .dmaFill h d a b c => .dmaFill h d a b c
  | .dmaStat h d a => .dmaStat h d a
  | .mdld h d a slot => .mdld h d a slot
  | .launch h d a => .launch h d a
  | .launchRec h d a => .launchRec h d a
  | .grow h d a => .grow h d a
  | .vpoint h k => .vpoint h k
  | .exit h => .exit h
  | .bar h s => .bar h s
  | .gbar h => .gbar h
  | .mbar h k => .mbar h k
  | .mjoin h k => .mjoin h k
  | .mleave h k => .mleave h k
  | .dqpush h a => .dqpush h a
  | .dqpop h d => .dqpop h d
  | .barinit h bo a => .barinit h bo a
  | .barwait h bo a => .barwait h bo a
  | .bararr h bo => .bararr h bo
  | .br h ofs => .br h ofs
  | .brc h sense c ofs => .brc h sense c ofs
  | .brdq h sense ofs => .brdq h sense ofs
  | .brzm h pm p ofs => .brzm h pm p ofs
  | .split h p t u => .split h p t u
  | .join h => .join h
  | .call h ofs => .call h ofs
  | .ret h => .ret h
  | .jmpi h a => .jmpi h a
  | .calli h a => .calli h a
  | .emsave h d => .emsave h d
  | .emrest h a => .emrest h a
  | .emand h pm p => .emand h pm p
  | .trap h k => .trap h k
  | .rdst h d num => .rdst h d num
  | .wrst h num b => .wrst h num b
  | .rdlfsr h d => .rdlfsr h d
  | .brk h k => .brk h k
  | .rdclk h d => .rdclk h d
  | .waitImmediate h k => .waitImmediate h k
  | .waitRegister h a => .waitRegister h a

/-- The instruction of a word. -/
def Form.toInstr (x : Form) : Instr :=
  match x with
  | .lo x => x.toInstr
  | .hi x => x.toInstr

end

end Sys2Proof
end

