-- ==== Sys2Proof/WellFormed.lean ====
section
/-!
DEFINITION. Which instructions are words of a stream: operand codes (02 R42, R43, R44), header fields
(R36, R37), control bytes (R47) and raw values (R45) as the operand tables of the chapters state them.
An event is no word of any stream.
-/

namespace Sys2Proof

/-- Operand widths: 32 bits or less, 64, 128, and the interval types (02 R42, 09 R219). -/
inductive Wd where
  | w32
  | w64
  | w128
  | iv32
  | iv64
deriving DecidableEq, Repr

/-- The operand is an interval. -/
def Wd.isIv : Wd → Bool
  | .iv32 => true
  | .iv64 => true
  | _ => false

/-- Registers that an operand of a width names (02 R42). -/
def Wd.regs : Wd → Nat
  | .w32 => 1
  | .w64 => 2
  | .w128 => 4
  | .iv32 => 2
  | .iv64 => 4

/-- Whether a W register may be an operand of a width (02 R43, 09 R219). -/
def Wd.wOk : Wd → Bool
  | .w128 => false
  | .iv64 => false
  | _ => true

/-- A legal source of a width in a stream (02 R42, 07 R182, R185, 09 R219). -/
def Src.ok (st : Stream) (wd : Wd) : Src → Bool
  | .v n => st == .lane && n < 224 && n % wd.regs == 0
  | .w n => st == .lane && n < 16 && wd.wOk
  | .q n => st == .lane && n < 8 && wd == .w32
  | .l n => st == .lane && n < 3 && wd == .w32
  | .zero => wd != .w128
  | .laneId => st == .lane && (wd == .w32 || wd == .w64)
  | .waveId => st == .lane && (wd == .w32 || wd == .w64)
  | .g n => st == .uniform && n < 64
  | .imm _ => false

/-- A legal destination of a width in a stream (02 R42). -/
def Dst.ok (st : Stream) (wd : Wd) : Dst → Bool
  | .v n => st == .lane && n < 224 && n % wd.regs == 0
  | .w n => st == .lane && n < 16 && wd.wOk
  | .g n => st == .uniform && n < 64
  | .p _ => false

/-- A global address operand (11 R260): an even V register, a W or a G register. -/
def Src.okAddr (st : Stream) : Src → Bool
  | .v n => st == .lane && n < 224 && n % 2 == 0
  | .w n => st == .lane && n < 16
  | .g n => st == .uniform && n < 64
  | _ => false

/-- A W code in the lane stream, a G code in the uniform stream. -/
def Src.okWG (st : Stream) : Src → Bool
  | .w n => st == .lane && n < 16
  | .g n => st == .uniform && n < 64
  | _ => false

/-- As okWG, or the zero code. -/
def Src.okWGZ (st : Stream) : Src → Bool
  | .zero => true
  | s => s.okWG st

/-- A V code. -/
def Src.okV : Src → Bool
  | .v n => n < 224
  | _ => false

/-- A W destination in the lane stream, a G destination in the uniform stream. -/
def Dst.okWG (st : Stream) : Dst → Bool
  | .w n => st == .lane && n < 16
  | .g n => st == .uniform && n < 64
  | _ => false

/-- A V destination aligned to k registers. -/
def Dst.okV (k : Nat) : Dst → Bool
  | .v n => n < 224 && n % k == 0
  | _ => false

/-- The destination of an integer comparison: Pd 0 to 6 in the lane stream, G in the uniform stream
(08 R203). -/
def Dst.okCmp (st : Stream) : Dst → Bool
  | .p n => st == .lane && n < 7
  | .g n => st == .uniform && n < 64
  | _ => false

/-- The destination register read as a source (02 R44). -/
def Dst.toSrc : Dst → Src
  | .v n => .v n
  | .w n => .w n
  | .g n => .g n
  | .p _ => .zero

/-- The two sources of a point that may take an immediate (02 R44): with an immediate the first is
the destination. -/
def srcsOk (st : Stream) (wd : Wd) (imm : Bool) (d : Dst) (a : Src) : Src → Bool
  | .imm _ => imm && a == d.toSrc
  | b => a.ok st wd && b.ok st wd

/-- The source of mov.b32, or its immediate (07 R190). -/
def movOk (st : Stream) : Src → Bool
  | .imm _ => true
  | b => b.ok st .w32

/-- Header rules of 02 R36 and R37: pred says the point is predicable, nw that it has a register
result, hold that its result is one 32-bit lane word of fixed latency; d is its destination. -/
def Hdr.ok (st : Stream) (pred nw hold : Bool) (d : Dst) (h : Hdr) : Bool :=
  ((pred && st == .lane) || (h.preg == 7 && h.pmode == 0))
    && (nw || !h.nw)
    && (h.cue.toNat < 12 || h.cue == 15 || (hold && st == .lane && d.okV 1))

/-- A destination for points without one. -/
abbrev noDst : Dst := .p 7

/-- A scope byte (02 R47) with the orders a point allows. -/
def Scope.ok (orders : List Nat) (s : Scope) : Bool :=
  s.scope.toNat < 6 && orders.contains s.order.toNat

/-- rdst of status register n in a stream (16 R375). -/
def statusReadOk (st : Stream) (n : BitVec 8) : Bool :=
  match st with
  | .lane => n.toNat < 0x0b
  | .uniform => [0x03, 0x04, 0x06, 0x07, 0x09, 0x0a].contains n.toNat
      || (0x10 ≤ n.toNat && n.toNat < 0x28)

/-- wrst of status register n in a stream (16 R375). -/
def statusWriteOk (st : Stream) (n : BitVec 8) : Bool :=
  match st with
  | .lane => [0x00, 0x01, 0x03, 0x04, 0x05, 0x09, 0x0a].contains n.toNat
  | .uniform => [0x03, 0x04, 0x09, 0x0a].contains n.toNat || (0x10 ≤ n.toNat && n.toNat < 0x28)

/-- A 32-bit word operand: V0 to V127 in the lane stream, G0 to G63 in the uniform stream (02 R38). -/
def Src.ok32 (st : Stream) (wd : Wd) : Src → Bool
  | .v n => st == .lane && n < 128 && n % wd.regs == 0
  | .g n => st == .uniform && n < 64
  | _ => false

/-- As Src.ok32, for a destination. -/
def Dst.ok32 (st : Stream) (wd : Wd) : Dst → Bool
  | .v n => st == .lane && n < 128 && n % wd.regs == 0
  | .g n => st == .uniform && n < 64
  | _ => false

/-- A compact operand: register 0 to 31 (02 R39). -/
def Src.ok16 (st : Stream) : Src → Bool
  | .v n => st == .lane && n < 32
  | .g n => st == .uniform && n < 32
  | _ => false

/-- As Src.ok16, for a destination. -/
def Dst.ok16 (st : Stream) : Dst → Bool
  | .v n => st == .lane && n < 32
  | .g n => st == .uniform && n < 32
  | _ => false

/-- The checks of 02 R51 on a word of a stream. -/
def FormLo.wf (st : Stream) (x : FormLo) : Bool :=
  match x with
  | .nop => true
  | .dictionaryReference _ _ => true
  | .addI32 h d a b =>
    h.ok st true true true d && d.ok st .w32 && srcsOk st .w32 true d a b
  | .addI32W32 _ d a b =>
    d.ok32 st .w32 && a.ok32 st .w32 && b.ok32 st .w32
  | .addI32C16 d b => d.ok16 st && b.ok16 st
  | .subI32 h d a b =>
    h.ok st true true true d && d.ok st .w32 && srcsOk st .w32 true d a b
  | .subI32W32 _ d a b =>
    d.ok32 st .w32 && a.ok32 st .w32 && b.ok32 st .w32
  | .subI32C16 d b => d.ok16 st && b.ok16 st
  | .addSatI32 h d a b =>
    h.ok st true true true d && d.ok st .w32 && srcsOk st .w32 true d a b
  | .addSatI32W32 _ d a b =>
    d.ok32 st .w32 && a.ok32 st .w32 && b.ok32 st .w32
  | .subSatI32 h d a b =>
    h.ok st true true true d && d.ok st .w32 && srcsOk st .w32 true d a b
  | .subSatI32W32 _ d a b =>
    d.ok32 st .w32 && a.ok32 st .w32 && b.ok32 st .w32
  | .addSatN32 h d a b =>
    h.ok st true true true d && d.ok st .w32 && srcsOk st .w32 true d a b
  | .addSatN32W32 _ d a b =>
    d.ok32 st .w32 && a.ok32 st .w32 && b.ok32 st .w32
  | .subSatN32 h d a b =>
    h.ok st true true true d && d.ok st .w32 && srcsOk st .w32 true d a b
  | .subSatN32W32 _ d a b =>
    d.ok32 st .w32 && a.ok32 st .w32 && b.ok32 st .w32
  | .addI16 h d a b =>
    st == .lane && h.ok st true true true d && d.ok st .w32 && srcsOk st .w32 false d a b
  | .addI16W32 _ d a b =>
    st == .lane && d.ok32 st .w32 && a.ok32 st .w32 && b.ok32 st .w32
  | .subI16 h d a b =>
    st == .lane && h.ok st true true true d && d.ok st .w32 && srcsOk st .w32 false d a b
  | .subI16W32 _ d a b =>
    st == .lane && d.ok32 st .w32 && a.ok32 st .w32 && b.ok32 st .w32
  | .mulI32 h d a b =>
    h.ok st true true true d && d.ok st .w32 && srcsOk st .w32 true d a b
  | .mulI32W32 _ d a b =>
    d.ok32 st .w32 && a.ok32 st .w32 && b.ok32 st .w32
  | .mulhiI32 h d a b =>
    h.ok st true true true d && d.ok st .w32 && srcsOk st .w32 false d a b
  | .mulhiI32W32 _ d a b =>
    d.ok32 st .w32 && a.ok32 st .w32 && b.ok32 st .w32
  | .mulhiN32 h d a b =>
    h.ok st true true true d && d.ok st .w32 && srcsOk st .w32 false d a b
  | .mulhiN32W32 _ d a b =>
    d.ok32 st .w32 && a.ok32 st .w32 && b.ok32 st .w32
  | .mulSatI32 h d a b =>
    h.ok st true true true d && d.ok st .w32 && srcsOk st .w32 false d a b
  | .mulSatI32W32 _ d a b =>
    d.ok32 st .w32 && a.ok32 st .w32 && b.ok32 st .w32
  | .mulI16 h d a b =>
    st == .lane && h.ok st true true true d && d.ok st .w32 && srcsOk st .w32 false d a b
  | .mulI16W32 _ d a b =>
    st == .lane && d.ok32 st .w32 && a.ok32 st .w32 && b.ok32 st .w32
  | .andB32 h d a b =>
    h.ok st true true true d && d.ok st .w32 && srcsOk st .w32 true d a b
  | .andB32W32 _ d a b =>
    d.ok32 st .w32 && a.ok32 st .w32 && b.ok32 st .w32
  | .andB32C16 d b => d.ok16 st && b.ok16 st
  | .orB32 h d a b =>
    h.ok st true true true d && d.ok st .w32 && srcsOk st .w32 true d a b
  | .orB32W32 _ d a b =>
    d.ok32 st .w32 && a.ok32 st .w32 && b.ok32 st .w32
  | .orB32C16 d b => d.ok16 st && b.ok16 st
  | .xorB32 h d a b =>
    h.ok st true true true d && d.ok st .w32 && srcsOk st .w32 true d a b
  | .xorB32W32 _ d a b =>
    d.ok32 st .w32 && a.ok32 st .w32 && b.ok32 st .w32
  | .xorB32C16 d b => d.ok16 st && b.ok16 st
  | .andnB32 h d a b =>
    h.ok st true true true d && d.ok st .w32 && srcsOk st .w32 true d a b
  | .andnB32W32 _ d a b =>
    d.ok32 st .w32 && a.ok32 st .w32 && b.ok32 st .w32
  | .ornB32 h d a b =>
    h.ok st true true true d && d.ok st .w32 && srcsOk st .w32 true d a b
  | .ornB32W32 _ d a b =>
    d.ok32 st .w32 && a.ok32 st .w32 && b.ok32 st .w32
  | .xnorB32 h d a b =>
    h.ok st true true true d && d.ok st .w32 && srcsOk st .w32 true d a b
  | .xnorB32W32 _ d a b =>
    d.ok32 st .w32 && a.ok32 st .w32 && b.ok32 st .w32
  | .shlB32 h d a b =>
    h.ok st true true true d && d.ok st .w32 && srcsOk st .w32 true d a b
  | .shlB32W32 _ d a b =>
    d.ok32 st .w32 && a.ok32 st .w32 && b.ok32 st .w32
  | .shlB32C16 d b => d.ok16 st && b.ok16 st
  | .shrN32 h d a b =>
    h.ok st true true true d && d.ok st .w32 && srcsOk st .w32 true d a b
  | .shrN32W32 _ d a b =>
    d.ok32 st .w32 && a.ok32 st .w32 && b.ok32 st .w32
  | .shrN32C16 d b => d.ok16 st && b.ok16 st
  | .shrI32 h d a b =>
    h.ok st true true true d && d.ok st .w32 && srcsOk st .w32 true d a b
  | .shrI32W32 _ d a b =>
    d.ok32 st .w32 && a.ok32 st .w32 && b.ok32 st .w32
  | .rotlB32 h d a b =>
    h.ok st true true true d && d.ok st .w32 && srcsOk st .w32 true d a b
  | .rotlB32W32 _ d a b =>
    d.ok32 st .w32 && a.ok32 st .w32 && b.ok32 st .w32
  | .rotrB32 h d a b =>
    h.ok st true true true d && d.ok st .w32 && srcsOk st .w32 true d a b
  | .rotrB32W32 _ d a b =>
    d.ok32 st .w32 && a.ok32 st .w32 && b.ok32 st .w32
  | .minI32 h d a b =>
    h.ok st true true true d && d.ok st .w32 && srcsOk st .w32 true d a b
  | .minI32W32 _ d a b =>
    d.ok32 st .w32 && a.ok32 st .w32 && b.ok32 st .w32
  | .minI32C16 d b => d.ok16 st && b.ok16 st
  | .maxI32 h d a b =>
    h.ok st true true true d && d.ok st .w32 && srcsOk st .w32 true d a b
  | .maxI32W32 _ d a b =>
    d.ok32 st .w32 && a.ok32 st .w32 && b.ok32 st .w32
  | .maxI32C16 d b => d.ok16 st && b.ok16 st
  | .minN32 h d a b =>
    h.ok st true true true d && d.ok st .w32 && srcsOk st .w32 true d a b
  | .minN32W32 _ d a b =>
    d.ok32 st .w32 && a.ok32 st .w32 && b.ok32 st .w32
  | .maxN32 h d a b =>
    h.ok st true true true d && d.ok st .w32 && srcsOk st .w32 true d a b
  | .maxN32W32 _ d a b =>
    d.ok32 st .w32 && a.ok32 st .w32 && b.ok32 st .w32
  | .adifI32 h d a b =>
    h.ok st true true true d && d.ok st .w32 && srcsOk st .w32 false d a b
  | .adifI32W32 _ d a b =>
    d.ok32 st .w32 && a.ok32 st .w32 && b.ok32 st .w32
  | .adifN32 h d a b =>
    h.ok st true true true d && d.ok st .w32 && srcsOk st .w32 false d a b
  | .adifN32W32 _ d a b =>
    d.ok32 st .w32 && a.ok32 st .w32 && b.ok32 st .w32
  | .bfextN32 h d a b =>
    h.ok st true true true d && d.ok st .w32 && srcsOk st .w32 false d a b
  | .bfextN32W32 _ d a b =>
    d.ok32 st .w32 && a.ok32 st .w32 && b.ok32 st .w32
  | .bfextI32 h d a b =>
    h.ok st true true true d && d.ok st .w32 && srcsOk st .w32 false d a b
  | .bfextI32W32 _ d a b =>
    d.ok32 st .w32 && a.ok32 st .w32 && b.ok32 st .w32
  | .bfinsB32 h d a b c =>
    h.ok st true true true d && d.ok st .w32 && a.ok st .w32 && b.ok st .w32 && c.ok st .w32
  | .bfinsB32W32 _ d a b =>
    d.ok32 st .w32 && a.ok32 st .w32 && b.ok32 st .w32
  | .popcB32 h d a =>
    h.ok st true true true d && d.ok st .w32 && a.ok st .w32
  | .popcB32W32 _ d a =>
    d.ok32 st .w32 && a.ok32 st .w32
  | .clzB32 h d a =>
    h.ok st true true true d && d.ok st .w32 && a.ok st .w32
  | .clzB32W32 _ d a =>
    d.ok32 st .w32 && a.ok32 st .w32
  | .brevB32 h d a =>
    h.ok st true true true d && d.ok st .w32 && a.ok st .w32
  | .brevB32W32 _ d a =>
    d.ok32 st .w32 && a.ok32 st .w32
  | .addI64 h d a b =>
    st == .lane && h.ok st true true false d && d.ok st .w64 && srcsOk st .w64 false d a b
  | .addI64W32 _ d a b =>
    st == .lane && d.ok32 st .w64 && a.ok32 st .w64 && b.ok32 st .w64
  | .subI64 h d a b =>
    st == .lane && h.ok st true true false d && d.ok st .w64 && srcsOk st .w64 false d a b
  | .subI64W32 _ d a b =>
    st == .lane && d.ok32 st .w64 && a.ok32 st .w64 && b.ok32 st .w64
  | .addF32 h _ d a b =>
    st == .lane && h.ok st true true true d && d.ok st .w32 && srcsOk st .w32 true d a b
  | .addF32W32 _ _ d a b =>
    st == .lane && d.ok32 st .w32 && a.ok32 st .w32 && b.ok32 st .w32
  | .addF32C16 d b => st == .lane && d.ok16 st && b.ok16 st
  | .subF32 h _ d a b =>
    st == .lane && h.ok st true true true d && d.ok st .w32 && srcsOk st .w32 true d a b
  | .subF32W32 _ _ d a b =>
    st == .lane && d.ok32 st .w32 && a.ok32 st .w32 && b.ok32 st .w32
  | .subF32C16 d b => st == .lane && d.ok16 st && b.ok16 st
  | .mulF32 h _ d a b =>
    st == .lane && h.ok st true true true d && d.ok st .w32 && srcsOk st .w32 true d a b
  | .mulF32W32 _ _ d a b =>
    st == .lane && d.ok32 st .w32 && a.ok32 st .w32 && b.ok32 st .w32
  | .mulF32C16 d b => st == .lane && d.ok16 st && b.ok16 st
  | .addF16 h _ d a b =>
    st == .lane && h.ok st true true true d && d.ok st .w32 && srcsOk st .w32 false d a b
  | .addF16W32 _ _ d a b =>
    st == .lane && d.ok32 st .w32 && a.ok32 st .w32 && b.ok32 st .w32
  | .subF16 h _ d a b =>
    st == .lane && h.ok st true true true d && d.ok st .w32 && srcsOk st .w32 false d a b
  | .subF16W32 _ _ d a b =>
    st == .lane && d.ok32 st .w32 && a.ok32 st .w32 && b.ok32 st .w32
  | .addBf16 h _ d a b =>
    st == .lane && h.ok st true true true d && d.ok st .w32 && srcsOk st .w32 false d a b
  | .addBf16W32 _ _ d a b =>
    st == .lane && d.ok32 st .w32 && a.ok32 st .w32 && b.ok32 st .w32
  | .subBf16 h _ d a b =>
    st == .lane && h.ok st true true true d && d.ok st .w32 && srcsOk st .w32 false d a b
  | .subBf16W32 _ _ d a b =>
    st == .lane && d.ok32 st .w32 && a.ok32 st .w32 && b.ok32 st .w32
  | .mulF16 h _ d a b =>
    st == .lane && h.ok st true true true d && d.ok st .w32 && srcsOk st .w32 false d a b
  | .mulF16W32 _ _ d a b =>
    st == .lane && d.ok32 st .w32 && a.ok32 st .w32 && b.ok32 st .w32
  | .mulBf16 h _ d a b =>
    st == .lane && h.ok st true true true d && d.ok st .w32 && srcsOk st .w32 false d a b
  | .mulBf16W32 _ _ d a b =>
    st == .lane && d.ok32 st .w32 && a.ok32 st .w32 && b.ok32 st .w32
  | .minF32 h d a b =>
    st == .lane && h.ok st true true true d && d.ok st .w32 && srcsOk st .w32 false d a b
  | .minF32W32 _ d a b =>
    st == .lane && d.ok32 st .w32 && a.ok32 st .w32 && b.ok32 st .w32
  | .minF32C16 d b => st == .lane && d.ok16 st && b.ok16 st
  | .maxF32 h d a b =>
    st == .lane && h.ok st true true true d && d.ok st .w32 && srcsOk st .w32 false d a b
  | .maxF32W32 _ d a b =>
    st == .lane && d.ok32 st .w32 && a.ok32 st .w32 && b.ok32 st .w32
  | .maxF32C16 d b => st == .lane && d.ok16 st && b.ok16 st
  | .minF16 h d a b =>
    st == .lane && h.ok st true true true d && d.ok st .w32 && srcsOk st .w32 false d a b
  | .minF16W32 _ d a b =>
    st == .lane && d.ok32 st .w32 && a.ok32 st .w32 && b.ok32 st .w32
  | .maxF16 h d a b =>
    st == .lane && h.ok st true true true d && d.ok st .w32 && srcsOk st .w32 false d a b
  | .maxF16W32 _ d a b =>
    st == .lane && d.ok32 st .w32 && a.ok32 st .w32 && b.ok32 st .w32
  | .minBf16 h d a b =>
    st == .lane && h.ok st true true true d && d.ok st .w32 && srcsOk st .w32 false d a b
  | .minBf16W32 _ d a b =>
    st == .lane && d.ok32 st .w32 && a.ok32 st .w32 && b.ok32 st .w32
  | .maxBf16 h d a b =>
    st == .lane && h.ok st true true true d && d.ok st .w32 && srcsOk st .w32 false d a b
  | .maxBf16W32 _ d a b =>
    st == .lane && d.ok32 st .w32 && a.ok32 st .w32 && b.ok32 st .w32
  | .minF64 h d a b =>
    st == .lane && h.ok st true true false d && d.ok st .w64 && srcsOk st .w64 false d a b
  | .minF64W32 _ d a b =>
    st == .lane && d.ok32 st .w64 && a.ok32 st .w64 && b.ok32 st .w64
  | .maxF64 h d a b =>
    st == .lane && h.ok st true true false d && d.ok st .w64 && srcsOk st .w64 false d a b
  | .maxF64W32 _ d a b =>
    st == .lane && d.ok32 st .w64 && a.ok32 st .w64 && b.ok32 st .w64
  | .addF64 h _ d a b =>
    st == .lane && h.ok st true true false d && d.ok st .w64 && srcsOk st .w64 false d a b
  | .addF64W32 _ _ d a b =>
    st == .lane && d.ok32 st .w64 && a.ok32 st .w64 && b.ok32 st .w64
  | .subF64 h _ d a b =>
    st == .lane && h.ok st true true false d && d.ok st .w64 && srcsOk st .w64 false d a b
  | .subF64W32 _ _ d a b =>
    st == .lane && d.ok32 st .w64 && a.ok32 st .w64 && b.ok32 st .w64
  | .mulF64 h _ d a b =>
    st == .lane && h.ok st true true false d && d.ok st .w64 && srcsOk st .w64 false d a b
  | .mulF64W32 _ _ d a b =>
    st == .lane && d.ok32 st .w64 && a.ok32 st .w64 && b.ok32 st .w64
  | .lxchSelB32 h d a b =>
    st == .lane && h.ok st true true true d && d.ok st .w32 && srcsOk st .w32 false d a b
  | .lxchSelB32W32 _ d a b =>
    st == .lane && d.ok32 st .w32 && a.ok32 st .w32 && b.ok32 st .w32
  | .lxchLoB32 h d a b =>
    st == .lane && h.ok st true true true d && d.ok st .w32 && srcsOk st .w32 false d a b
  | .lxchLoB32W32 _ d a b =>
    st == .lane && d.ok32 st .w32 && a.ok32 st .w32 && b.ok32 st .w32
  | .lxchHiB32 h d a b =>
    st == .lane && h.ok st true true true d && d.ok st .w32 && srcsOk st .w32 false d a b
  | .lxchHiB32W32 _ d a b =>
    st == .lane && d.ok32 st .w32 && a.ok32 st .w32 && b.ok32 st .w32
  | .lxchFlipB32 h d a b =>
    st == .lane && h.ok st true true true d && d.ok st .w32 && srcsOk st .w32 false d a b
  | .lxchFlipB32W32 _ d a b =>
    st == .lane && d.ok32 st .w32 && a.ok32 st .w32 && b.ok32 st .w32
  | .movB32 h d b =>
    h.ok st true true true d && d.ok st .w32 && movOk st b
  | .movB32W32 _ d b =>
    d.ok32 st .w32 && b.ok32 st .w32
  | .movB32C16 d b => d.ok16 st && b.ok16 st
  | .movXaB32 h d a =>
    st == .lane && h.ok st true true true d && d.ok st .w32 && a < 224
  | .movXaB32W32 _ d a =>
    st == .lane && d.ok32 st .w32 && a < 128
  | .movXdB32 h d b =>
    st == .lane && h.ok st true true true (.v d) && d < 224 && b.ok st .w32
  | .movXdB32W32 _ d b =>
    st == .lane && d < 128 && b.ok32 st .w32
  | .movXadB32 h d a =>
    st == .lane && h.ok st true true true (.v d) && d < 224 && a < 224
  | .movXadB32W32 _ d a =>
    st == .lane && d < 128 && a < 128
  | .packB16 h d a b =>
    st == .lane && h.ok st true true true d && d.ok st .w32 && srcsOk st .w32 false d a b
  | .packB16W32 _ d a b =>
    st == .lane && d.ok32 st .w32 && a.ok32 st .w32 && b.ok32 st .w32
  | .fmaF32 h _ d a b c =>
    st == .lane && h.ok st true true true d && d.ok st .w32 && a.ok st .w32 && b.ok st .w32 && c.ok st .w32
  | .fnmaF32 h _ d a b c =>
    st == .lane && h.ok st true true true d && d.ok st .w32 && a.ok st .w32 && b.ok st .w32 && c.ok st .w32
  | .fmaF64 h _ d a b c =>
    st == .lane && h.ok st true true false d && d.ok st .w64 && a.ok st .w64 && b.ok st .w64 && c.ok st .w64
  | .fnmaF64 h _ d a b c =>
    st == .lane && h.ok st true true false d && d.ok st .w64 && a.ok st .w64 && b.ok st .w64 && c.ok st .w64
  | .fmaF16 h _ d a b c =>
    st == .lane && h.ok st true true true d && d.ok st .w32 && a.ok st .w32 && b.ok st .w32 && c.ok st .w32
  | .fnmaF16 h _ d a b c =>
    st == .lane && h.ok st true true true d && d.ok st .w32 && a.ok st .w32 && b.ok st .w32 && c.ok st .w32
  | .fmaBf16 h _ d a b c =>
    st == .lane && h.ok st true true true d && d.ok st .w32 && a.ok st .w32 && b.ok st .w32 && c.ok st .w32
  | .fnmaBf16 h _ d a b c =>
    st == .lane && h.ok st true true true d && d.ok st .w32 && a.ok st .w32 && b.ok st .w32 && c.ok st .w32
  | .madI32 h d a b c =>
    h.ok st true true true d && d.ok st .w32 && a.ok st .w32 && b.ok st .w32 && c.ok st .w32
  | .madhiI32 h d a b c =>
    h.ok st true true true d && d.ok st .w32 && a.ok st .w32 && b.ok st .w32 && c.ok st .w32
  | .madhiN32 h d a b c =>
    h.ok st true true true d && d.ok st .w32 && a.ok st .w32 && b.ok st .w32 && c.ok st .w32
  | .madSatI32 h d a b c =>
    h.ok st true true true d && d.ok st .w32 && a.ok st .w32 && b.ok st .w32 && c.ok st .w32
  | .dot4I8 h d a b c =>
    st == .lane && h.ok st true true true d && d.ok st .w32 && a.ok st .w32 && b.ok st .w32 && c.ok st .w32
  | .dot4N8 h d a b c =>
    st == .lane && h.ok st true true true d && d.ok st .w32 && a.ok st .w32 && b.ok st .w32 && c.ok st .w32
  | .dot2I16 h d a b c =>
    st == .lane && h.ok st true true true d && d.ok st .w32 && a.ok st .w32 && b.ok st .w32 && c.ok st .w32
  | .rcpF32 h _ d a =>
    st == .lane && h.ok st true true true d && d.ok st .w32 && a.ok st .w32
  | .rsqrtF32 h d a =>
    st == .lane && h.ok st true true true d && d.ok st .w32 && a.ok st .w32
  | .sqrtF32 h _ d a =>
    st == .lane && h.ok st true true true d && d.ok st .w32 && a.ok st .w32
  | .exp2F32 h d a =>
    st == .lane && h.ok st true true true d && d.ok st .w32 && a.ok st .w32
  | .log2F32 h d a =>
    st == .lane && h.ok st true true true d && d.ok st .w32 && a.ok st .w32
  | .sinF32 h d a =>
    st == .lane && h.ok st true true true d && d.ok st .w32 && a.ok st .w32
  | .cosF32 h d a =>
    st == .lane && h.ok st true true true d && d.ok st .w32 && a.ok st .w32
  | .rcpF64 h _ d a =>
    st == .lane && h.ok st true true false d && d.ok st .w64 && a.ok st .w64
  | .rsqrtF64 h d a =>
    st == .lane && h.ok st true true false d && d.ok st .w64 && a.ok st .w64
  | .sqrtF64 h _ d a =>
    st == .lane && h.ok st true true false d && d.ok st .w64 && a.ok st .w64
  | .cmpEqB32 h d a b =>
    h.ok st true (st == .uniform) false d && d.okCmp st && a.ok st .w32 && b.ok st .w32
  | .cmpNeB32 h d a b =>
    h.ok st true (st == .uniform) false d && d.okCmp st && a.ok st .w32 && b.ok st .w32
  | .cmpLtI32 h d a b =>
    h.ok st true (st == .uniform) false d && d.okCmp st && a.ok st .w32 && b.ok st .w32
  | .cmpLeI32 h d a b =>
    h.ok st true (st == .uniform) false d && d.okCmp st && a.ok st .w32 && b.ok st .w32
  | .cmpLtN32 h d a b =>
    h.ok st true (st == .uniform) false d && d.okCmp st && a.ok st .w32 && b.ok st .w32
  | .cmpLeN32 h d a b =>
    h.ok st true (st == .uniform) false d && d.okCmp st && a.ok st .w32 && b.ok st .w32
  | .tstB32 h d a b =>
    h.ok st true (st == .uniform) false d && d.okCmp st && a.ok st .w32 && b.ok st .w32
  | .cmpEqF32 h p a b =>
    st == .lane && h.ok st true false false noDst && p != 7 && a.ok st .w32 && b.ok st .w32
  | .cmpNeF32 h p a b =>
    st == .lane && h.ok st true false false noDst && p != 7 && a.ok st .w32 && b.ok st .w32
  | .cmpLtF32 h p a b =>
    st == .lane && h.ok st true false false noDst && p != 7 && a.ok st .w32 && b.ok st .w32
  | .cmpLeF32 h p a b =>
    st == .lane && h.ok st true false false noDst && p != 7 && a.ok st .w32 && b.ok st .w32
  | .cmpGtF32 h p a b =>
    st == .lane && h.ok st true false false noDst && p != 7 && a.ok st .w32 && b.ok st .w32
  | .cmpGeF32 h p a b =>
    st == .lane && h.ok st true false false noDst && p != 7 && a.ok st .w32 && b.ok st .w32
  | .cmpUnF32 h p a b =>
    st == .lane && h.ok st true false false noDst && p != 7 && a.ok st .w32 && b.ok st .w32
  | .cmpOrdF32 h p a b =>
    st == .lane && h.ok st true false false noDst && p != 7 && a.ok st .w32 && b.ok st .w32
  | .cmpEqF64 h p a b =>
    st == .lane && h.ok st true false false noDst && p != 7 && a.ok st .w64 && b.ok st .w64
  | .cmpNeF64 h p a b =>
    st == .lane && h.ok st true false false noDst && p != 7 && a.ok st .w64 && b.ok st .w64
  | .cmpLtF64 h p a b =>
    st == .lane && h.ok st true false false noDst && p != 7 && a.ok st .w64 && b.ok st .w64
  | .cmpLeF64 h p a b =>
    st == .lane && h.ok st true false false noDst && p != 7 && a.ok st .w64 && b.ok st .w64
  | .cmpGtF64 h p a b =>
    st == .lane && h.ok st true false false noDst && p != 7 && a.ok st .w64 && b.ok st .w64
  | .cmpGeF64 h p a b =>
    st == .lane && h.ok st true false false noDst && p != 7 && a.ok st .w64 && b.ok st .w64
  | .cmpUnF64 h p a b =>
    st == .lane && h.ok st true false false noDst && p != 7 && a.ok st .w64 && b.ok st .w64
  | .cmpOrdF64 h p a b =>
    st == .lane && h.ok st true false false noDst && p != 7 && a.ok st .w64 && b.ok st .w64
  | .cvtF32F64 h _ d a =>
    st == .lane && h.ok st true true true d && d.ok st .w32 && a.ok st .w64
  | .cvtF64F32 h _ d a =>
    st == .lane && h.ok st true true false d && d.ok st .w64 && a.ok st .w32
  | .cvtF16F32 h _ d a b =>
    st == .lane && h.ok st true true true d && d.ok st .w32 && a.ok st .w32 && b.ok st .w32
  | .cvtF32F16 h _ d a _ =>
    st == .lane && h.ok st true true true d && d.ok st .w32 && a.ok st .w32
  | .cvtBf16F32 h _ d a b =>
    st == .lane && h.ok st true true true d && d.ok st .w32 && a.ok st .w32 && b.ok st .w32
  | .cvtF32Bf16 h _ d a _ =>
    st == .lane && h.ok st true true true d && d.ok st .w32 && a.ok st .w32
  | .cvtI32F32 h _ d a =>
    st == .lane && h.ok st true true true d && d.ok st .w32 && a.ok st .w32
  | .cvtF32I32 h _ d a =>
    st == .lane && h.ok st true true true d && d.ok st .w32 && a.ok st .w32
  | .cvtN32F32 h _ d a =>
    st == .lane && h.ok st true true true d && d.ok st .w32 && a.ok st .w32
  | .cvtF32N32 h _ d a =>
    st == .lane && h.ok st true true true d && d.ok st .w32 && a.ok st .w32
  | .cvtI64F64 h _ d a =>
    st == .lane && h.ok st true true false d && d.ok st .w64 && a.ok st .w64
  | .cvtF64I64 h _ d a =>
    st == .lane && h.ok st true true false d && d.ok st .w64 && a.ok st .w64
  | .cvtI32F64 h _ d a =>
    st == .lane && h.ok st true true true d && d.ok st .w32 && a.ok st .w64
  | .cvtF64I32 h _ d a =>
    st == .lane && h.ok st true true false d && d.ok st .w64 && a.ok st .w32
  | .cvtSatI8I32 h _ d a =>
    st == .lane && h.ok st true true true d && d.ok st .w32 && a.ok st .w32
  | .cvtSatI16I32 h _ d a =>
    st == .lane && h.ok st true true true d && d.ok st .w32 && a.ok st .w32
  | .cvtFfF32 h _ d a f =>
    st == .lane && h.ok st true true true d && d.ok st .w32 && a.ok st .w32 && f.okWG st
  | .cvtF32Ff h _ d a f =>
    st == .lane && h.ok st true true true d && d.ok st .w32 && a.ok st .w32 && f.okWG st
  | .cvtFfBf16 h _ d a f =>
    st == .lane && h.ok st true true true d && d.ok st .w32 && a.ok st .w32 && f.okWG st
  | .cvtBf16Ff h _ d a f =>
    st == .lane && h.ok st true true true d && d.ok st .w32 && a.ok st .w32 && f.okWG st
  | .packMx h d a f =>
    st == .lane && h.ok st true true true d && d.ok st .w32 && a.ok st .w32 && f.okWG st
  | .unpackMx h _ d a f =>
    st == .lane && h.ok st true true true d && d.ok st .w32 && a.ok st .w32 && f.okWG st
  | .lvoteAnd h p _ =>
    st == .lane && h.ok st true false false noDst && p != 7
  | .lvoteOr h p _ =>
    st == .lane && h.ok st true false false noDst && p != 7
  | .lvoteMask h d _ =>
    st == .lane && h.ok st true true true d && d.ok st .w32
  | .vredAddI32 h d a =>
    st == .lane && h.ok st true true true d && d.ok st .w32 && a.ok st .w32
  | .vredMinI32 h d a =>
    st == .lane && h.ok st true true true d && d.ok st .w32 && a.ok st .w32
  | .vredMaxI32 h d a =>
    st == .lane && h.ok st true true true d && d.ok st .w32 && a.ok st .w32
  | .vredAddF32 h d a =>
    st == .lane && h.ok st true true true d && d.ok st .w32 && a.ok st .w32
  | .vscanAddI32 h d a =>
    st == .lane && h.ok st true true true d && d.ok st .w32 && a.ok st .w32
  | .vfilt h d a b c =>
    st == .lane && h.ok st true false false d && d.okV 2 && a.ok st .w32 && b.ok st .w32 && c.okWG st
  | .vpermB32 h d a b =>
    st == .lane && h.ok st true true true d && d.ok st .w32 && srcsOk st .w32 false d a b
  | .pand h p _ _ =>
    st == .lane && h.ok st true false false noDst && p != 7
  | .por h p _ _ =>
    st == .lane && h.ok st true false false noDst && p != 7
  | .pnot h p _ =>
    st == .lane && h.ok st true false false noDst && p != 7
  | .pmov h p a =>
    st == .lane && h.ok st true false false noDst && p != 7 && a.ok st .w32
  | .selB32 h d a b _ =>
    st == .lane && h.ok st true true true d && d.ok st .w32 && a.ok st .w32 && b.ok st .w32
  | .pfrom h p a =>
    st == .lane && h.ok st true false false noDst && p != 7 && a.okWG st
  | .pto h d _ =>
    st == .lane && h.ok st true true false d && d.okWG st

/-- The checks of 02 R51 on a word of a stream. -/
def FormHi.wf (st : Stream) (x : FormHi) : Bool :=
  match x with
  | .addIv32 h d a b =>
    st == .lane && h.ok st true true false d && d.ok st .iv32 && srcsOk st .iv32 false d a b
  | .subIv32 h d a b =>
    st == .lane && h.ok st true true false d && d.ok st .iv32 && srcsOk st .iv32 false d a b
  | .mulIv32 h d a b =>
    st == .lane && h.ok st true true false d && d.ok st .iv32 && srcsOk st .iv32 false d a b
  | .divIv32 h d a b =>
    st == .lane && h.ok st true true false d && d.ok st .iv32 && srcsOk st .iv32 false d a b
  | .sqrIv32 h d a =>
    st == .lane && h.ok st true true false d && d.ok st .iv32 && a.ok st .iv32
  | .sqrtIv32 h d a =>
    st == .lane && h.ok st true true false d && d.ok st .iv32 && a.ok st .iv32
  | .negIv32 h d a =>
    st == .lane && h.ok st true true false d && d.ok st .iv32 && a.ok st .iv32
  | .fmaIv32 h d a b c =>
    st == .lane && h.ok st true true false d && d.ok st .iv32 && a.ok st .iv32 && b.ok st .iv32 && c.ok st .iv32
  | .addIv64 h d a b =>
    st == .lane && h.ok st true true false d && d.ok st .iv64 && srcsOk st .iv64 false d a b
  | .subIv64 h d a b =>
    st == .lane && h.ok st true true false d && d.ok st .iv64 && srcsOk st .iv64 false d a b
  | .mulIv64 h d a b =>
    st == .lane && h.ok st true true false d && d.ok st .iv64 && srcsOk st .iv64 false d a b
  | .divIv64 h d a b =>
    st == .lane && h.ok st true true false d && d.ok st .iv64 && srcsOk st .iv64 false d a b
  | .sqrIv64 h d a =>
    st == .lane && h.ok st true true false d && d.ok st .iv64 && a.ok st .iv64
  | .sqrtIv64 h d a =>
    st == .lane && h.ok st true true false d && d.ok st .iv64 && a.ok st .iv64
  | .negIv64 h d a =>
    st == .lane && h.ok st true true false d && d.ok st .iv64 && a.ok st .iv64
  | .fmaIv64 h d a b c =>
    st == .lane && h.ok st true true false d && d.ok st .iv64 && a.ok st .iv64 && b.ok st .iv64 && c.ok st .iv64
  | .hullIv32 h d a b =>
    st == .lane && h.ok st true true false d && d.ok st .iv32 && srcsOk st .iv32 false d a b
  | .isectIv32 h d a b =>
    st == .lane && h.ok st true true false d && d.ok st .iv32 && srcsOk st .iv32 false d a b
  | .midIv32 h d a =>
    st == .lane && h.ok st true true true d && d.ok st .w32 && a.ok st .iv32
  | .widIv32 h d a =>
    st == .lane && h.ok st true true true d && d.ok st .w32 && a.ok st .iv32
  | .cmpLtIv32 h p a b =>
    st == .lane && h.ok st true false false noDst && p != 7 && a.ok st .iv32 && b.ok st .iv32
  | .cmpLeIv32 h p a b =>
    st == .lane && h.ok st true false false noDst && p != 7 && a.ok st .iv32 && b.ok st .iv32
  | .cmpEqIv32 h p a b =>
    st == .lane && h.ok st true false false noDst && p != 7 && a.ok st .iv32 && b.ok st .iv32
  | .bisectIv32 h d a =>
    st == .lane && h.ok st true true false d && d.okV 4 && a.ok st .iv32
  | .hullIv64 h d a b =>
    st == .lane && h.ok st true true false d && d.ok st .iv64 && srcsOk st .iv64 false d a b
  | .isectIv64 h d a b =>
    st == .lane && h.ok st true true false d && d.ok st .iv64 && srcsOk st .iv64 false d a b
  | .midIv64 h d a =>
    st == .lane && h.ok st true true false d && d.ok st .w64 && a.ok st .iv64
  | .widIv64 h d a =>
    st == .lane && h.ok st true true false d && d.ok st .w64 && a.ok st .iv64
  | .cmpLtIv64 h p a b =>
    st == .lane && h.ok st true false false noDst && p != 7 && a.ok st .iv64 && b.ok st .iv64
  | .cmpLeIv64 h p a b =>
    st == .lane && h.ok st true false false noDst && p != 7 && a.ok st .iv64 && b.ok st .iv64
  | .cmpEqIv64 h p a b =>
    st == .lane && h.ok st true false false noDst && p != 7 && a.ok st .iv64 && b.ok st .iv64
  | .bisectIv64 h d a =>
    st == .lane && h.ok st true true false d && d.okV 8 && a.ok st .iv64
  | .ivSpawn h d a =>
    st == .lane && h.ok st true true false d && d.ok st .w32 && a.ok st .w32
  | .mkivIv32 h d a b =>
    st == .lane && h.ok st true true false d && d.ok st .iv32 && srcsOk st .w32 false d a b
  | .mkivIv64 h d a b =>
    st == .lane && h.ok st true true false d && d.ok st .iv64 && srcsOk st .w64 false d a b
  | .ldIv32 h d a _ =>
    st == .lane && h.ok st true true false d && d.ok st .iv32 && a.okAddr st
  | .ldIv64 h d a _ =>
    st == .lane && h.ok st true true false d && d.ok st .iv64 && a.okAddr st
  | .stIv32 h a b _ =>
    st == .lane && h.ok st true false false noDst && a.okAddr st && b.ok st .iv32
  | .stIv64 h a b _ =>
    st == .lane && h.ok st true false false noDst && a.okAddr st && b.ok st .iv64
  | .tcfg h _ a b c =>
    st == .uniform && h.ok st false false false noDst && a.okWG st && b.okWG st && c.okWGZ st
  | .tload h _ bv a b bo =>
    st == .uniform && h.ok st false false false noDst && a.okWG st && b.okWG st && (bv || bo == 0)
  | .tstore h _ bv a b bo =>
    st == .uniform && h.ok st false false false noDst && a.okWG st && b.okWG st && (bv || bo == 0)
  | .tzero h _ =>
    st == .uniform && h.ok st false false false noDst
  | .mwload h _ =>
    st == .uniform && h.ok st false false false noDst
  | .mwloadSm h _ b =>
    st == .uniform && h.ok st false false false noDst && b.okWG st
  | .mzero h _ =>
    st == .uniform && h.ok st false false false noDst
  | .mflags h d _ =>
    st == .uniform && h.ok st false true false d && d.okWG st
  | .mmacI8 h _ _ _ _ _ _ c =>
    st == .uniform && h.ok st false false false noDst && c.okWGZ st
  | .mmacF8 h _ _ _ _ _ _ c =>
    st == .uniform && h.ok st false false false noDst && c.okWGZ st
  | .mmacF4 h _ _ _ _ _ _ c =>
    st == .uniform && h.ok st false false false noDst && c.okWGZ st
  | .mmacBf16 h _ _ _ _ _ _ c =>
    st == .uniform && h.ok st false false false noDst && c.okWGZ st
  | .mmacF16 h _ _ _ _ _ _ c =>
    st == .uniform && h.ok st false false false noDst && c.okWGZ st
  | .mmacX3 h _ _ _ _ _ _ c =>
    st == .uniform && h.ok st false false false noDst && c.okWGZ st
  | .mmacMx h _ _ _ _ _ _ c =>
    st == .uniform && h.ok st false false false noDst && c.okWGZ st
  | .mstore h _ _ _ _ =>
    st == .uniform && h.ok st false false false noDst
  | .mload h _ _ _ _ =>
    st == .uniform && h.ok st false false false noDst
  | .mcvt h _ _ _ _ c =>
    st == .uniform && h.ok st false false false noDst && c.okWG st
  | .mpset h _ _ _ a =>
    st == .uniform && h.ok st false false false noDst && a.okWG st
  | .marrive h _ a =>
    st == .uniform && h.ok st false false false noDst && a.okWG st
  | .mswap h =>
    st == .uniform && h.ok st false false false noDst
  | .ldN8 h d a _ =>
    h.ok st true true false d && d.ok st .w32 && a.okAddr st
  | .ldI8 h d a _ =>
    h.ok st true true false d && d.ok st .w32 && a.okAddr st
  | .ldN16 h d a _ =>
    h.ok st true true false d && d.ok st .w32 && a.okAddr st
  | .ldI16 h d a _ =>
    h.ok st true true false d && d.ok st .w32 && a.okAddr st
  | .ldB32 h d a _ =>
    h.ok st true true false d && d.ok st .w32 && a.okAddr st
  | .ldB64 h d a _ =>
    h.ok st true true false d && d.ok st .w64 && a.okAddr st
  | .ldB128 h d a _ =>
    st == .lane && h.ok st true true false d && d.ok st .w128 && a.okAddr st
  | .stB8 h a b _ =>
    h.ok st true false false noDst && a.okAddr st && b.ok st .w32
  | .stB16 h a b _ =>
    h.ok st true false false noDst && a.okAddr st && b.ok st .w32
  | .stB32 h a b _ =>
    h.ok st true false false noDst && a.okAddr st && b.ok st .w32
  | .stB64 h a b _ =>
    h.ok st true false false noDst && a.okAddr st && b.ok st .w64
  | .stB128 h a b _ =>
    st == .lane && h.ok st true false false noDst && a.okAddr st && b.ok st .w128
  | .ldsB32 h d a =>
    h.ok st true true false d && d.ok st .w32 && a.ok st .w32 && (st == .lane || a.okWG st)
  | .ldsB64 h d a =>
    h.ok st true true false d && d.ok st .w64 && a.ok st .w32 && (st == .lane || a.okWG st)
  | .stsB32 h a b =>
    h.ok st true false false noDst && a.ok st .w32 && (st == .lane || a.okWG st) && b.ok st .w32
  | .stsB64 h a b =>
    h.ok st true false false noDst && a.ok st .w32 && (st == .lane || a.okWG st) && b.ok st .w64
  | .ldlB32 h d a =>
    st == .lane && h.ok st true true false d && d.ok st .w32 && a.ok st .w32 && (st == .lane || a.okWG st)
  | .ldlB64 h d a =>
    st == .lane && h.ok st true true false d && d.ok st .w64 && a.ok st .w32 && (st == .lane || a.okWG st)
  | .stlB32 h a b =>
    st == .lane && h.ok st true false false noDst && a.ok st .w32 && (st == .lane || a.okWG st) && b.ok st .w32
  | .stlB64 h a b =>
    st == .lane && h.ok st true false false noDst && a.ok st .w32 && (st == .lane || a.okWG st) && b.ok st .w64
  | .atomAddI32 h d a b sc =>
    h.ok st true true false d && d.ok st .w32 && a.okAddr st && b.ok st .w32 && sc.ok [0, 1, 2, 3]
  | .atomMinI32 h d a b sc =>
    h.ok st true true false d && d.ok st .w32 && a.okAddr st && b.ok st .w32 && sc.ok [0, 1, 2, 3]
  | .atomMaxI32 h d a b sc =>
    h.ok st true true false d && d.ok st .w32 && a.okAddr st && b.ok st .w32 && sc.ok [0, 1, 2, 3]
  | .atomAndB32 h d a b sc =>
    h.ok st true true false d && d.ok st .w32 && a.okAddr st && b.ok st .w32 && sc.ok [0, 1, 2, 3]
  | .atomOrB32 h d a b sc =>
    h.ok st true true false d && d.ok st .w32 && a.okAddr st && b.ok st .w32 && sc.ok [0, 1, 2, 3]
  | .atomXorB32 h d a b sc =>
    h.ok st true true false d && d.ok st .w32 && a.okAddr st && b.ok st .w32 && sc.ok [0, 1, 2, 3]
  | .atomExchB32 h d a b sc =>
    h.ok st true true false d && d.ok st .w32 && a.okAddr st && b.ok st .w32 && sc.ok [0, 1, 2, 3]
  | .atomCasB32 h d a b sc =>
    h.ok st true true false d && d.ok st .w32 && a.okAddr st && b.ok st .w64 && sc.ok [0, 1, 2, 3]
  | .atomAddF32 h d a b sc =>
    h.ok st true true false d && d.ok st .w32 && a.okAddr st && b.ok st .w32 && sc.ok [0, 1, 2, 3]
  | .aredAddI32 h a b sc =>
    h.ok st true false false noDst && a.okAddr st && b.ok st .w32 && sc.ok [0, 2]
  | .aredAddF32 h a b sc =>
    h.ok st true false false noDst && a.okAddr st && b.ok st .w32 && sc.ok [0, 2]
  | .aredMinI32 h a b sc =>
    h.ok st true false false noDst && a.okAddr st && b.ok st .w32 && sc.ok [0, 2]
  | .aredMaxI32 h a b sc =>
    h.ok st true false false noDst && a.okAddr st && b.ok st .w32 && sc.ok [0, 2]
  | .aredAndB32 h a b sc =>
    h.ok st true false false noDst && a.okAddr st && b.ok st .w32 && sc.ok [0, 2]
  | .aredOrB32 h a b sc =>
    h.ok st true false false noDst && a.okAddr st && b.ok st .w32 && sc.ok [0, 2]
  | .aredXorB32 h a b sc =>
    h.ok st true false false noDst && a.okAddr st && b.ok st .w32 && sc.ok [0, 2]
  | .aredAddI64 h a b sc =>
    h.ok st true false false noDst && a.okAddr st && b.ok st .w64 && sc.ok [0, 2]
  | .ldrB32 h d a sc =>
    st == .lane && h.ok st true true false d && d.ok st .w32 && a.okAddr st && sc.ok [0, 1]
  | .stcB32 h d a b sc =>
    st == .lane && h.ok st true true false d && d.ok st .w32 && a.okAddr st && b.ok st .w32 && sc.ok [0, 2]
  | .fence h sc =>
    h.ok st true false false noDst && sc.ok [1, 2, 3]
  | .prefetch h a _ =>
    h.ok st true false false noDst && a.okAddr st
  | .cwback h a hint =>
    h.ok st true false false noDst && a.okAddr st && hint.cache == 0
  | .cinval h a hint =>
    h.ok st true false false noDst && a.okAddr st && hint.cache == 0
  | .xgather h _ _ a b _ _ =>
    st == .lane && h.ok st true false false noDst && a.okV && b.okWG st
  | .xgatherSum h _ _ a b _ _ =>
    st == .lane && h.ok st true false false noDst && a.okV && b.okWG st
  | .xgatherMax h _ _ a b _ _ =>
    st == .lane && h.ok st true false false noDst && a.okV && b.okWG st
  | .xgatherMean h _ _ a b _ _ =>
    st == .lane && h.ok st true false false noDst && a.okV && b.okWG st
  | .xscadd h _ _ a b _ _ =>
    st == .lane && h.ok st true false false noDst && a.okV && b.okWG st
  | .xscmax h _ _ a b _ _ =>
    st == .lane && h.ok st true false false noDst && a.okV && b.okWG st
  | .xscore h _ _ a b _ _ =>
    st == .lane && h.ok st true false false noDst && a.okV && b.okWG st
  | .xqload h d a _ =>
    h.ok st true true false d && d.okWG st && a.okWG st
  | .xqfree h a =>
    h.ok st true false false noDst && a.okWG st
  | .xstat h d _ =>
    st == .lane && h.ok st true true false d && d.okWG st
  | .xmask h p _ =>
    st == .lane && h.ok st true false false noDst && p != 7
  | .xwait h _ =>
    st == .lane && h.ok st true false false noDst
  | .acopyIn h _ a b bo bv ch =>
    h.ok st true false false noDst && a.okWG st && b.okWG st && (bv || bo == 0) && ch != 3
  | .acopyOut h _ a b bo bv ch =>
    h.ok st true false false noDst && a.okWG st && b.okWG st && (bv || bo == 0) && ch != 3
  | .tagwaitAny h a =>
    h.ok st true false false noDst && a.okWG st
  | .tagwaitAll h a =>
    h.ok st true false false noDst && a.okWG st
  | .tagffr h d a =>
    h.ok st true true false d && d.okWG st && a.okWG st
  | .tagclr h a =>
    h.ok st true false false noDst && a.okWG st
  | .hfetch h d a _ form =>
    st == .lane && h.ok st true true false d && d.okV 1 && a.okWG st && form != 3
  | .hfetchPf h a _ form =>
    h.ok st true false false noDst && a.okWG st && form != 3
  | .rowscan h ht ind a b _ =>
    st == .uniform && h.ok st true false false noDst && a.okWG st && b.okWG st && (ind || ht == 0)
  | .fibld h d a _ form =>
    st == .lane && h.ok st true true false d && d.okV 1 && a.okWG st && form != 3
  | .fibinv h _ _ =>
    st == .uniform && h.ok st true false false noDst
  | .dmaCopy h d a b c =>
    st == .uniform && h.ok st true true false d && d.okWG st && a.okWG st && b.okWG st && c.okWG st
  | .dmaFill h d a b c =>
    st == .uniform && h.ok st true true false d && d.okWG st && a.okWG st && b.okWG st && c.okWG st
  | .dmaStat h d a =>
    st == .uniform && h.ok st true true false d && d.okWG st && a.okWG st
  | .mdld h d a _ =>
    st == .uniform && h.ok st true true false d && d.okWG st && a.okWG st
  | .launch h d a =>
    st == .uniform && h.ok st true true false d && d.okWG st && a.okWG st
  | .launchRec h d a =>
    st == .uniform && h.ok st true true false d && d.okWG st && a.okWG st
  | .grow h d a =>
    st == .uniform && h.ok st true true false d && d.okWG st && a.okWG st
  | .vpoint h _ =>
    h.ok st false false false noDst
  | .exit h =>
    h.ok st false false false noDst
  | .bar h s =>
    h.ok st false false false noDst && (s || st == .lane)
  | .gbar h =>
    h.ok st false false false noDst
  | .mbar h _ =>
    st == .lane && h.ok st false false false noDst
  | .mjoin h _ =>
    st == .lane && h.ok st false false false noDst
  | .mleave h _ =>
    st == .lane && h.ok st false false false noDst
  | .dqpush h a =>
    st == .uniform && h.ok st true false false noDst && a.okWG st
  | .dqpop h d =>
    st == .lane && h.ok st false true false d && d.okWG st
  | .barinit h _ a =>
    h.ok st false false false noDst && a.okWG st
  | .barwait h _ a =>
    h.ok st false false false noDst && a.okWG st
  | .bararr h _ =>
    h.ok st false false false noDst
  | .br h _ =>
    h.ok st false false false noDst
  | .brc h _ _ _ =>
    st == .uniform && h.ok st false false false noDst
  | .brdq h _ _ =>
    st == .lane && h.ok st false false false noDst
  | .brzm h _ _ _ =>
    st == .lane && h.ok st false false false noDst
  | .split h _ t _ =>
    st == .lane && h.ok st false false false noDst && t != 0
  | .join h =>
    st == .lane && h.ok st false false false noDst
  | .call h _ =>
    h.ok st false false false noDst
  | .ret h =>
    h.ok st false false false noDst
  | .jmpi h a =>
    h.ok st false false false noDst && a.okWG st
  | .calli h a =>
    h.ok st false false false noDst && a.okWG st
  | .emsave h d =>
    st == .lane && h.ok st false true false d && d.okWG st
  | .emrest h a =>
    st == .lane && h.ok st false false false noDst && a.okWG st
  | .emand h _ _ =>
    st == .lane && h.ok st false false false noDst
  | .trap h _ =>
    h.ok st false false false noDst
  | .rdst h d num =>
    h.ok st false true false d && d.okWG st && statusReadOk st num
  | .wrst h num b =>
    h.ok st false false false noDst && b.okWGZ st && statusWriteOk st num
  | .rdlfsr h d =>
    st == .lane && h.ok st false true false d && d.okWG st
  | .brk h _ =>
    h.ok st false false false noDst
  | .rdclk h d =>
    h.ok st false true false d && d.okWG st
  | .waitImmediate h _ =>
    h.ok st false false false noDst
  | .waitRegister h a =>
    h.ok st false false false noDst && a.okWG st

/-- The checks of 02 R51 on a word of a stream. -/
def Form.wf (st : Stream) (x : Form) : Bool :=
  match x with
  | .lo x => x.wf st
  | .hi x => x.wf st

/-- The instruction is a word of the stream (02 R51 raises the illegal-encoding trap otherwise); an event is
none. -/
def Instr.wf (st : Stream) (i : Instr) : Bool :=
  match i.form with
  | some x => x.wf st
  | none => false

end Sys2Proof
end

