-- ==== Sys2Proof/Decode.lean ====
section
/-!
DEFINITION. From words to instructions and back (02 R30 to R48). A decoder splits a word into its
fields, reads each operand field of the point, and then asks Form.wf; whatever is no instruction of
the stream is rejected by name. The encoder writes the same fields.
-/

namespace Sys2Proof

/-- The fields of the 64-bit word (02 R34). -/
structure Raw where
  wait : BitVec 12
  dist : BitVec 3
  pmode : BitVec 2
  preg : BitVec 3
  c : BitVec 8
  b : BitVec 8
  a : BitVec 8
  d : BitVec 8
  nw : BitVec 1
  md : BitVec 3
  maj : BitVec 6
deriving DecidableEq, Repr

/-- Why bytes are no instruction (02 R33, R39, R40, R51). -/
inductive Reject where
  /-- the stream ends within the word, or the offset is outside it (R33) -/
  | streamEnd
  /-- a 64-bit word at an offset that is no multiple of 8 (R33) -/
  | misaligned
  /-- compact code 0x0 with a non-zero bit (R39) -/
  | compactZero
  /-- bit 15 of a dictionary reference (R40) -/
  | dictReserved
  /-- a reserved point, a point of the other stream, or a field that R51 forbids -/
  | illegal
deriving DecidableEq, Repr

/-- The fields of a 64-bit word. -/
def Raw.ofWord (w : DWord) : Raw where
  wait := w.extractLsb' 52 12
  dist := w.extractLsb' 49 3
  pmode := w.extractLsb' 47 2
  preg := w.extractLsb' 44 3
  c := w.extractLsb' 36 8
  b := w.extractLsb' 28 8
  a := w.extractLsb' 20 8
  d := w.extractLsb' 12 8
  nw := w.extractLsb' 11 1
  md := w.extractLsb' 8 3
  maj := w.extractLsb' 2 6

/-- The word of the fields, bits [1:0] being 0b11. -/
def Raw.toWord (r : Raw) : DWord :=
  (r.wait ++ r.dist ++ r.pmode ++ r.preg ++ r.c ++ r.b ++ r.a ++ r.d ++ r.nw ++ r.md ++ r.maj
    ++ (3#2) : BitVec 64)

/-- The header of the fields, with the cue nibble. -/
def Raw.hdr (r : Raw) (cue : BitVec 4) : Hdr := ⟨r.wait, r.dist, r.pmode, r.preg, r.nw == 1, cue⟩

/-- The operand fields a point writes. -/
structure Fld where
  d : BitVec 8
  a : BitVec 8
  b : BitVec 8
  c : BitVec 8
deriving DecidableEq, Repr

/-- The word of a header, a point and its operand fields. -/
def Fld.toRaw (f : Fld) (h : Hdr) (op : Nat) : Raw :=
  ⟨h.wait, h.dist, h.pmode, h.preg, f.c, f.b, f.a, f.d, if h.nw then 1 else 0,
    BitVec.ofNat 3 (op % 8), BitVec.ofNat 6 (op / 8)⟩

/-- The operand code of a source (02 R42). -/
def Src.code : Src → BitVec 8
  | .v n => BitVec.ofNat 8 n
  | .g n => BitVec.ofNat 8 n
  | .q n => BitVec.ofNat 8 (0xe0 + n)
  | .l n => BitVec.ofNat 8 (0xe8 + n)
  | .zero => 0xeb
  | .laneId => 0xec
  | .waveId => 0xed
  | .imm _ => 0xee
  | .w n => BitVec.ofNat 8 (0xf0 + n)

/-- The operand code of a destination (02 R42), or its raw P number (R45). -/
def Dst.code : Dst → BitVec 8
  | .v n => BitVec.ofNat 8 n
  | .g n => BitVec.ofNat 8 n
  | .p n => BitVec.ofNat 8 n
  | .w n => BitVec.ofNat 8 (0xf0 + n)

/-- The source a code names in a stream (02 R42); the immediate code is no source of its own. -/
def srcOf (st : Stream) (c : BitVec 8) : Option Src :=
  match st with
  | .uniform =>
    if c.toNat < 0x40 then some (.g c.toNat) else if c = 0xeb then some .zero else none
  | .lane =>
    if c.toNat < 0xe0 then some (.v c.toNat)
    else if c.toNat < 0xe8 then some (.q (c.toNat - 0xe0))
    else if c.toNat < 0xeb then some (.l (c.toNat - 0xe8))
    else if c = 0xeb then some .zero
    else if c = 0xec then some .laneId
    else if c = 0xed then some .waveId
    else if 0xf0 ≤ c.toNat then some (.w (c.toNat - 0xf0))
    else none

/-- The destination a code names in a stream (02 R42). -/
def dstOf (st : Stream) (c : BitVec 8) : Option Dst :=
  match st with
  | .uniform => if c.toNat < 0x40 then some (.g c.toNat) else none
  | .lane =>
    if c.toNat < 0xe0 then some (.v c.toNat)
    else if 0xf0 ≤ c.toNat then some (.w (c.toNat - 0xf0)) else none

/-- The destination of an integer comparison (08 R203). -/
def cmpDst (st : Stream) (c : BitVec 8) : Option Dst :=
  match st with
  | .uniform => dstOf st c
  | .lane => some (.p c.toNat)

/-- An unused field holds 0x00 (02 R46). -/
def zf {α : Type} (c : BitVec 8) (x : Option α) : Option α := if c = 0 then x else none

/-- A raw value of k bits with the bits above it 0 (02 R45). -/
def raw {α : Type} (k : Nat) (c : BitVec 8) (f : BitVec k → Option α) : Option α :=
  if c.toNat < 2 ^ k then f (c.setWidth k) else none

/-- A raw 0 or 1. -/
def rawBit {α : Type} (c : BitVec 8) (f : Bool → Option α) : Option α :=
  if c = 0 then f false else if c = 1 then f true else none

def onD {α : Type} (st : Stream) (c : BitVec 8) (f : Dst → Option α) : Option α := (dstOf st c).bind f
def onS {α : Type} (st : Stream) (c : BitVec 8) (f : Src → Option α) : Option α := (srcOf st c).bind f

/-- Points with two sources; imm says whether SRCA may hold the immediate code (02 R44). -/
def decBin {α : Type} (st : Stream) (imm : Bool) (r : Raw) (k : Dst → Src → Src → α) : Option α :=
  onD st r.d fun d =>
    if imm && r.a == 0xee then some (k d d.toSrc (.imm (r.c ++ r.b)))
    else onS st r.a fun a => onS st r.b fun b => zf r.c (some (k d a b))

/-- The fields of decBin. -/
def encBin (d : Dst) (a b : Src) : Fld :=
  match b with
  | .imm x => ⟨d.code, 0xee, x.extractLsb' 0 8, x.extractLsb' 8 8⟩
  | b => ⟨d.code, a.code, b.code, 0⟩

/-- mov.b32 (07 R190). -/
def decMov {α : Type} (st : Stream) (r : Raw) (k : Dst → Src → α) : Option α :=
  onD st r.d fun d =>
    if r.a == 0xee then some (k d (.imm (r.c ++ r.b)))
    else onS st r.b fun b => zf r.a (zf r.c (some (k d b)))

/-- The fields of decMov. -/
def encMov (d : Dst) (b : Src) : Fld :=
  match b with
  | .imm x => ⟨d.code, 0xee, x.extractLsb' 0 8, x.extractLsb' 8 8⟩
  | b => ⟨d.code, 0, b.code, 0⟩

def decTri {α : Type} (st : Stream) (r : Raw) (k : Dst → Src → Src → Src → α) : Option α :=
  onD st r.d fun d => onS st r.a fun a => onS st r.b fun b => onS st r.c fun c => some (k d a b c)

/-- A register number in a field that must hold a V code (07 R192). -/
def vOf {α : Type} (c : BitVec 8) (f : Nat → Option α) : Option α :=
  if c.toNat < 0xe0 then f c.toNat else none

/-- The hint byte (02 R47). -/
def hintOf {α : Type} (c : BitVec 8) (f : Hint → Option α) : Option α :=
  if c.extractLsb' 7 1 = 0 then f ⟨c.extractLsb' 5 2, c.extractLsb' 4 1 == 1, c.extractLsb' 0 4⟩
  else none

/-- The byte of a hint. -/
def Hint.byte (h : Hint) : BitVec 8 :=
  ((0#1) ++ h.cache ++ (if h.hdv then 1#1 else 0#1) ++ h.hd : BitVec 8)

/-- The scope byte (02 R47). -/
def scopeOf {α : Type} (c : BitVec 8) (f : Scope → Option α) : Option α :=
  if c.extractLsb' 5 3 = 0 then f ⟨c.extractLsb' 3 2, c.extractLsb' 0 3⟩ else none

/-- The byte of a scope. -/
def Scope.byte (s : Scope) : BitVec 8 := ((0#3) ++ s.order ++ s.scope : BitVec 8)

/-- Two fields of a byte with zeros below: raw {x [7:7-p+1], y, 0}. -/
def bit1 (x : Bool) : BitVec 1 := if x then 1 else 0

/-- The points of major 0x00 (02 R48). -/
def decMajor00 (st : Stream) (h : Hdr) (r : Raw) : Option FormLo :=
  match r.md.toNat with
  | 0 => decBin st true r (.addI32 h)
  | 1 => decBin st true r (.subI32 h)
  | 2 => decBin st true r (.addSatI32 h)
  | 3 => decBin st true r (.subSatI32 h)
  | 4 => decBin st true r (.addSatN32 h)
  | 5 => decBin st true r (.subSatN32 h)
  | 6 => decBin st false r (.addI16 h)
  | 7 => decBin st false r (.subI16 h)
  | _ => none

/-- The points of major 0x01 (02 R48). -/
def decMajor01 (st : Stream) (h : Hdr) (r : Raw) : Option FormLo :=
  match r.md.toNat with
  | 0 => decBin st true r (.mulI32 h)
  | 1 => decBin st false r (.mulhiI32 h)
  | 2 => decBin st false r (.mulhiN32 h)
  | 3 => decBin st false r (.mulSatI32 h)
  | 4 => decBin st false r (.mulI16 h)
  | _ => none

/-- The points of major 0x02 (02 R48). -/
def decMajor02 (st : Stream) (h : Hdr) (r : Raw) : Option FormLo :=
  match r.md.toNat with
  | 0 => decBin st true r (.andB32 h)
  | 1 => decBin st true r (.orB32 h)
  | 2 => decBin st true r (.xorB32 h)
  | 3 => decBin st true r (.andnB32 h)
  | 4 => decBin st true r (.ornB32 h)
  | 5 => decBin st true r (.xnorB32 h)
  | _ => none

/-- The points of major 0x03 (02 R48). -/
def decMajor03 (st : Stream) (h : Hdr) (r : Raw) : Option FormLo :=
  match r.md.toNat with
  | 0 => decBin st true r (.shlB32 h)
  | 1 => decBin st true r (.shrN32 h)
  | 2 => decBin st true r (.shrI32 h)
  | 3 => decBin st true r (.rotlB32 h)
  | 4 => decBin st true r (.rotrB32 h)
  | _ => none

/-- The points of major 0x04 (02 R48). -/
def decMajor04 (st : Stream) (h : Hdr) (r : Raw) : Option FormLo :=
  match r.md.toNat with
  | 0 => decBin st true r (.minI32 h)
  | 1 => decBin st true r (.maxI32 h)
  | 2 => decBin st true r (.minN32 h)
  | 3 => decBin st true r (.maxN32 h)
  | 4 => decBin st false r (.adifI32 h)
  | 5 => decBin st false r (.adifN32 h)
  | _ => none

/-- The points of major 0x05 (02 R48). -/
def decMajor05 (st : Stream) (h : Hdr) (r : Raw) : Option FormLo :=
  match r.md.toNat with
  | 0 => decBin st false r (.bfextN32 h)
  | 1 => decBin st false r (.bfextI32 h)
  | 2 => decTri st r (.bfinsB32 h)
  | 3 => onD st r.d fun d => onS st r.a fun a => zf r.b (zf r.c (some (.popcB32 h d a)))
  | 4 => onD st r.d fun d => onS st r.a fun a => zf r.b (zf r.c (some (.clzB32 h d a)))
  | 5 => onD st r.d fun d => onS st r.a fun a => zf r.b (zf r.c (some (.brevB32 h d a)))
  | 6 => decBin st false r (.addI64 h)
  | 7 => decBin st false r (.subI64 h)
  | _ => none

/-- The points of major 0x06 (02 R48). -/
def decMajor06 (st : Stream) (h : Hdr) (r : Raw) : Option FormLo :=
  match r.md.toNat with
  | 0 | 1 | 2 | 3 => decBin st true r (.addF32 h (r.md.extractLsb' 0 2))
  | 4 | 5 | 6 | 7 => decBin st true r (.subF32 h (r.md.extractLsb' 0 2))
  | _ => none

/-- The points of major 0x07 (02 R48). -/
def decMajor07 (st : Stream) (h : Hdr) (r : Raw) : Option FormLo :=
  match r.md.toNat with
  | 0 | 1 | 2 | 3 => decBin st true r (.mulF32 h (r.md.extractLsb' 0 2))
  | _ => none

/-- The points of major 0x08 (02 R48). -/
def decMajor08 (st : Stream) (h : Hdr) (r : Raw) : Option FormLo :=
  match r.md.toNat with
  | 0 | 1 | 2 | 3 => decBin st false r (.addF16 h (r.md.extractLsb' 0 2))
  | 4 | 5 | 6 | 7 => decBin st false r (.subF16 h (r.md.extractLsb' 0 2))
  | _ => none

/-- The points of major 0x09 (02 R48). -/
def decMajor09 (st : Stream) (h : Hdr) (r : Raw) : Option FormLo :=
  match r.md.toNat with
  | 0 | 1 | 2 | 3 => decBin st false r (.addBf16 h (r.md.extractLsb' 0 2))
  | 4 | 5 | 6 | 7 => decBin st false r (.subBf16 h (r.md.extractLsb' 0 2))
  | _ => none

/-- The points of major 0x0a (02 R48). -/
def decMajor0a (st : Stream) (h : Hdr) (r : Raw) : Option FormLo :=
  match r.md.toNat with
  | 0 | 1 | 2 | 3 => decBin st false r (.mulF16 h (r.md.extractLsb' 0 2))
  | 4 | 5 | 6 | 7 => decBin st false r (.mulBf16 h (r.md.extractLsb' 0 2))
  | _ => none

/-- The points of major 0x0b (02 R48). -/
def decMajor0b (st : Stream) (h : Hdr) (r : Raw) : Option FormLo :=
  match r.md.toNat with
  | 0 => decBin st false r (.minF32 h)
  | 1 => decBin st false r (.maxF32 h)
  | 2 => decBin st false r (.minF16 h)
  | 3 => decBin st false r (.maxF16 h)
  | 4 => decBin st false r (.minBf16 h)
  | 5 => decBin st false r (.maxBf16 h)
  | 6 => decBin st false r (.minF64 h)
  | 7 => decBin st false r (.maxF64 h)
  | _ => none

/-- The points of major 0x0c (02 R48). -/
def decMajor0c (st : Stream) (h : Hdr) (r : Raw) : Option FormLo :=
  match r.md.toNat with
  | 0 | 1 | 2 | 3 => decBin st false r (.addF64 h (r.md.extractLsb' 0 2))
  | 4 | 5 | 6 | 7 => decBin st false r (.subF64 h (r.md.extractLsb' 0 2))
  | _ => none

/-- The points of major 0x0d (02 R48). -/
def decMajor0d (st : Stream) (h : Hdr) (r : Raw) : Option FormLo :=
  match r.md.toNat with
  | 0 | 1 | 2 | 3 => decBin st false r (.mulF64 h (r.md.extractLsb' 0 2))
  | _ => none

/-- The points of major 0x0e (02 R48). -/
def decMajor0e (st : Stream) (h : Hdr) (r : Raw) : Option FormLo :=
  match r.md.toNat with
  | 0 => decBin st false r (.lxchSelB32 h)
  | 1 => decBin st false r (.lxchLoB32 h)
  | 2 => decBin st false r (.lxchHiB32 h)
  | 3 => decBin st false r (.lxchFlipB32 h)
  | _ => none

/-- The points of major 0x0f (02 R48). -/
def decMajor0f (st : Stream) (h : Hdr) (r : Raw) : Option FormLo :=
  match r.md.toNat with
  | 0 => decMov st r (.movB32 h)
  | 1 => onD st r.d fun d => vOf r.a fun a => zf r.b (zf r.c (some (.movXaB32 h d a)))
  | 2 => vOf r.d fun d => onS st r.b fun b => zf r.a (zf r.c (some (.movXdB32 h d b)))
  | 3 => vOf r.d fun d => vOf r.a fun a => zf r.b (zf r.c (some (.movXadB32 h d a)))
  | 4 => decBin st false r (.packB16 h)
  | _ => none

/-- The points of major 0x10 (02 R48). -/
def decMajor10 (st : Stream) (h : Hdr) (r : Raw) : Option FormLo :=
  match r.md.toNat with
  | 0 | 1 | 2 | 3 => decTri st r (.fmaF32 h (r.md.extractLsb' 0 2))
  | 4 | 5 | 6 | 7 => decTri st r (.fnmaF32 h (r.md.extractLsb' 0 2))
  | _ => none

/-- The points of major 0x11 (02 R48). -/
def decMajor11 (st : Stream) (h : Hdr) (r : Raw) : Option FormLo :=
  match r.md.toNat with
  | 0 | 1 | 2 | 3 => decTri st r (.fmaF64 h (r.md.extractLsb' 0 2))
  | 4 | 5 | 6 | 7 => decTri st r (.fnmaF64 h (r.md.extractLsb' 0 2))
  | _ => none

/-- The points of major 0x12 (02 R48). -/
def decMajor12 (st : Stream) (h : Hdr) (r : Raw) : Option FormLo :=
  match r.md.toNat with
  | 0 | 1 | 2 | 3 => decTri st r (.fmaF16 h (r.md.extractLsb' 0 2))
  | 4 | 5 | 6 | 7 => decTri st r (.fnmaF16 h (r.md.extractLsb' 0 2))
  | _ => none

/-- The points of major 0x13 (02 R48). -/
def decMajor13 (st : Stream) (h : Hdr) (r : Raw) : Option FormLo :=
  match r.md.toNat with
  | 0 | 1 | 2 | 3 => decTri st r (.fmaBf16 h (r.md.extractLsb' 0 2))
  | 4 | 5 | 6 | 7 => decTri st r (.fnmaBf16 h (r.md.extractLsb' 0 2))
  | _ => none

/-- The points of major 0x14 (02 R48). -/
def decMajor14 (st : Stream) (h : Hdr) (r : Raw) : Option FormLo :=
  match r.md.toNat with
  | 0 => decTri st r (.madI32 h)
  | 1 => decTri st r (.madhiI32 h)
  | 2 => decTri st r (.madhiN32 h)
  | 3 => decTri st r (.madSatI32 h)
  | 4 => decTri st r (.dot4I8 h)
  | 5 => decTri st r (.dot4N8 h)
  | 6 => decTri st r (.dot2I16 h)
  | _ => none

/-- The points of major 0x15 (02 R48). -/
def decMajor15 (st : Stream) (h : Hdr) (r : Raw) : Option FormLo :=
  match r.md.toNat with
  | 0 => raw 2 r.c fun rnd => onD st r.d fun d => onS st r.a fun a => zf r.b (some (.rcpF32 h rnd d a))
  | 1 => onD st r.d fun d => onS st r.a fun a => zf r.b (zf r.c (some (.rsqrtF32 h d a)))
  | 2 => raw 2 r.c fun rnd => onD st r.d fun d => onS st r.a fun a => zf r.b (some (.sqrtF32 h rnd d a))
  | 3 => onD st r.d fun d => onS st r.a fun a => zf r.b (zf r.c (some (.exp2F32 h d a)))
  | 4 => onD st r.d fun d => onS st r.a fun a => zf r.b (zf r.c (some (.log2F32 h d a)))
  | 5 => onD st r.d fun d => onS st r.a fun a => zf r.b (zf r.c (some (.sinF32 h d a)))
  | 6 => onD st r.d fun d => onS st r.a fun a => zf r.b (zf r.c (some (.cosF32 h d a)))
  | _ => none

/-- The points of major 0x16 (02 R48). -/
def decMajor16 (st : Stream) (h : Hdr) (r : Raw) : Option FormLo :=
  match r.md.toNat with
  | 0 => raw 2 r.c fun rnd => onD st r.d fun d => onS st r.a fun a => zf r.b (some (.rcpF64 h rnd d a))
  | 1 => onD st r.d fun d => onS st r.a fun a => zf r.b (zf r.c (some (.rsqrtF64 h d a)))
  | 2 => raw 2 r.c fun rnd => onD st r.d fun d => onS st r.a fun a => zf r.b (some (.sqrtF64 h rnd d a))
  | _ => none

/-- The points of major 0x17 (02 R48). -/
def decMajor17 (st : Stream) (h : Hdr) (r : Raw) : Option FormLo :=
  match r.md.toNat with
  | 0 => (cmpDst st r.d).bind fun d => onS st r.a fun a => onS st r.b fun b => zf r.c (some (.cmpEqB32 h d a b))
  | 1 => (cmpDst st r.d).bind fun d => onS st r.a fun a => onS st r.b fun b => zf r.c (some (.cmpNeB32 h d a b))
  | 2 => (cmpDst st r.d).bind fun d => onS st r.a fun a => onS st r.b fun b => zf r.c (some (.cmpLtI32 h d a b))
  | 3 => (cmpDst st r.d).bind fun d => onS st r.a fun a => onS st r.b fun b => zf r.c (some (.cmpLeI32 h d a b))
  | 4 => (cmpDst st r.d).bind fun d => onS st r.a fun a => onS st r.b fun b => zf r.c (some (.cmpLtN32 h d a b))
  | 5 => (cmpDst st r.d).bind fun d => onS st r.a fun a => onS st r.b fun b => zf r.c (some (.cmpLeN32 h d a b))
  | 6 => (cmpDst st r.d).bind fun d => onS st r.a fun a => onS st r.b fun b => zf r.c (some (.tstB32 h d a b))
  | _ => none

/-- The points of major 0x18 (02 R48). -/
def decMajor18 (st : Stream) (h : Hdr) (r : Raw) : Option FormLo :=
  match r.md.toNat with
  | 0 => raw 3 r.d fun p => onS st r.a fun a => onS st r.b fun b => zf r.c (some (.cmpEqF32 h p a b))
  | 1 => raw 3 r.d fun p => onS st r.a fun a => onS st r.b fun b => zf r.c (some (.cmpNeF32 h p a b))
  | 2 => raw 3 r.d fun p => onS st r.a fun a => onS st r.b fun b => zf r.c (some (.cmpLtF32 h p a b))
  | 3 => raw 3 r.d fun p => onS st r.a fun a => onS st r.b fun b => zf r.c (some (.cmpLeF32 h p a b))
  | 4 => raw 3 r.d fun p => onS st r.a fun a => onS st r.b fun b => zf r.c (some (.cmpGtF32 h p a b))
  | 5 => raw 3 r.d fun p => onS st r.a fun a => onS st r.b fun b => zf r.c (some (.cmpGeF32 h p a b))
  | 6 => raw 3 r.d fun p => onS st r.a fun a => onS st r.b fun b => zf r.c (some (.cmpUnF32 h p a b))
  | 7 => raw 3 r.d fun p => onS st r.a fun a => onS st r.b fun b => zf r.c (some (.cmpOrdF32 h p a b))
  | _ => none

/-- The points of major 0x19 (02 R48). -/
def decMajor19 (st : Stream) (h : Hdr) (r : Raw) : Option FormLo :=
  match r.md.toNat with
  | 0 => raw 3 r.d fun p => onS st r.a fun a => onS st r.b fun b => zf r.c (some (.cmpEqF64 h p a b))
  | 1 => raw 3 r.d fun p => onS st r.a fun a => onS st r.b fun b => zf r.c (some (.cmpNeF64 h p a b))
  | 2 => raw 3 r.d fun p => onS st r.a fun a => onS st r.b fun b => zf r.c (some (.cmpLtF64 h p a b))
  | 3 => raw 3 r.d fun p => onS st r.a fun a => onS st r.b fun b => zf r.c (some (.cmpLeF64 h p a b))
  | 4 => raw 3 r.d fun p => onS st r.a fun a => onS st r.b fun b => zf r.c (some (.cmpGtF64 h p a b))
  | 5 => raw 3 r.d fun p => onS st r.a fun a => onS st r.b fun b => zf r.c (some (.cmpGeF64 h p a b))
  | 6 => raw 3 r.d fun p => onS st r.a fun a => onS st r.b fun b => zf r.c (some (.cmpUnF64 h p a b))
  | 7 => raw 3 r.d fun p => onS st r.a fun a => onS st r.b fun b => zf r.c (some (.cmpOrdF64 h p a b))
  | _ => none

/-- The points of major 0x1a (02 R48). -/
def decMajor1a (st : Stream) (h : Hdr) (r : Raw) : Option FormLo :=
  match r.md.toNat with
  | 0 => raw 2 r.c fun rnd => onD st r.d fun d => onS st r.a fun a => zf r.b (some (.cvtF32F64 h rnd d a))
  | 1 => raw 2 r.c fun rnd => onD st r.d fun d => onS st r.a fun a => zf r.b (some (.cvtF64F32 h rnd d a))
  | 2 => raw 2 r.c fun rnd => onD st r.d fun d => onS st r.a fun a => onS st r.b fun b => some (.cvtF16F32 h rnd d a b)
  | 3 => raw 2 r.c fun rnd => onD st r.d fun d => onS st r.a fun a => rawBit r.b fun hi => some (.cvtF32F16 h rnd d a hi)
  | 4 => raw 2 r.c fun rnd => onD st r.d fun d => onS st r.a fun a => onS st r.b fun b => some (.cvtBf16F32 h rnd d a b)
  | 5 => raw 2 r.c fun rnd => onD st r.d fun d => onS st r.a fun a => rawBit r.b fun hi => some (.cvtF32Bf16 h rnd d a hi)
  | 6 => raw 2 r.c fun rnd => onD st r.d fun d => onS st r.a fun a => zf r.b (some (.cvtI32F32 h rnd d a))
  | 7 => raw 2 r.c fun rnd => onD st r.d fun d => onS st r.a fun a => zf r.b (some (.cvtF32I32 h rnd d a))
  | _ => none

/-- The points of major 0x1b (02 R48). -/
def decMajor1b (st : Stream) (h : Hdr) (r : Raw) : Option FormLo :=
  match r.md.toNat with
  | 0 => raw 2 r.c fun rnd => onD st r.d fun d => onS st r.a fun a => zf r.b (some (.cvtN32F32 h rnd d a))
  | 1 => raw 2 r.c fun rnd => onD st r.d fun d => onS st r.a fun a => zf r.b (some (.cvtF32N32 h rnd d a))
  | 2 => raw 2 r.c fun rnd => onD st r.d fun d => onS st r.a fun a => zf r.b (some (.cvtI64F64 h rnd d a))
  | 3 => raw 2 r.c fun rnd => onD st r.d fun d => onS st r.a fun a => zf r.b (some (.cvtF64I64 h rnd d a))
  | 4 => raw 2 r.c fun rnd => onD st r.d fun d => onS st r.a fun a => zf r.b (some (.cvtI32F64 h rnd d a))
  | 5 => raw 2 r.c fun rnd => onD st r.d fun d => onS st r.a fun a => zf r.b (some (.cvtF64I32 h rnd d a))
  | 6 => raw 2 r.c fun rnd => onD st r.d fun d => onS st r.a fun a => zf r.b (some (.cvtSatI8I32 h rnd d a))
  | 7 => raw 2 r.c fun rnd => onD st r.d fun d => onS st r.a fun a => zf r.b (some (.cvtSatI16I32 h rnd d a))
  | _ => none

/-- The points of major 0x1c (02 R48). -/
def decMajor1c (st : Stream) (h : Hdr) (r : Raw) : Option FormLo :=
  match r.md.toNat with
  | 0 => raw 2 r.c fun rnd => onD st r.d fun d => onS st r.a fun a => onS st r.b fun f => some (.cvtFfF32 h rnd d a f)
  | 1 => raw 2 r.c fun rnd => onD st r.d fun d => onS st r.a fun a => onS st r.b fun f => some (.cvtF32Ff h rnd d a f)
  | 2 => raw 2 r.c fun rnd => onD st r.d fun d => onS st r.a fun a => onS st r.b fun f => some (.cvtFfBf16 h rnd d a f)
  | 3 => raw 2 r.c fun rnd => onD st r.d fun d => onS st r.a fun a => onS st r.b fun f => some (.cvtBf16Ff h rnd d a f)
  | 4 => onD st r.d fun d => onS st r.a fun a => onS st r.b fun f => zf r.c (some (.packMx h d a f))
  | 5 => raw 2 r.c fun rnd => onD st r.d fun d => onS st r.a fun a => onS st r.b fun f => some (.unpackMx h rnd d a f)
  | _ => none

/-- The points of major 0x1d (02 R48). -/
def decMajor1d (st : Stream) (h : Hdr) (r : Raw) : Option FormLo :=
  match r.md.toNat with
  | 0 => raw 3 r.d fun p => raw 3 r.a fun q => zf r.b (zf r.c (some (.lvoteAnd h p q)))
  | 1 => raw 3 r.d fun p => raw 3 r.a fun q => zf r.b (zf r.c (some (.lvoteOr h p q)))
  | 2 => onD st r.d fun d => raw 3 r.a fun q => zf r.b (zf r.c (some (.lvoteMask h d q)))
  | 3 => onD st r.d fun d => onS st r.a fun a => zf r.b (zf r.c (some (.vredAddI32 h d a)))
  | 4 => onD st r.d fun d => onS st r.a fun a => zf r.b (zf r.c (some (.vredMinI32 h d a)))
  | 5 => onD st r.d fun d => onS st r.a fun a => zf r.b (zf r.c (some (.vredMaxI32 h d a)))
  | 6 => onD st r.d fun d => onS st r.a fun a => zf r.b (zf r.c (some (.vredAddF32 h d a)))
  | 7 => onD st r.d fun d => onS st r.a fun a => zf r.b (zf r.c (some (.vscanAddI32 h d a)))
  | _ => none

/-- The points of major 0x1e (02 R48). -/
def decMajor1e (st : Stream) (h : Hdr) (r : Raw) : Option FormLo :=
  match r.md.toNat with
  | 0 => decTri st r (.vfilt h)
  | 1 => decBin st false r (.vpermB32 h)
  | _ => none

/-- The points of major 0x1f (02 R48). -/
def decMajor1f (st : Stream) (h : Hdr) (r : Raw) : Option FormLo :=
  match r.md.toNat with
  | 0 => raw 3 r.d fun p => raw 3 r.a fun q => raw 3 r.b fun s => zf r.c (some (.pand h p q s))
  | 1 => raw 3 r.d fun p => raw 3 r.a fun q => raw 3 r.b fun s => zf r.c (some (.por h p q s))
  | 2 => raw 3 r.d fun p => raw 3 r.a fun q => zf r.b (zf r.c (some (.pnot h p q)))
  | 3 => raw 3 r.d fun p => onS st r.a fun a => zf r.b (zf r.c (some (.pmov h p a)))
  | 4 => onD st r.d fun d => onS st r.a fun a => onS st r.b fun b => raw 3 r.c fun q => some (.selB32 h d a b q)
  | 5 => raw 3 r.d fun p => onS st r.a fun a => zf r.b (zf r.c (some (.pfrom h p a)))
  | 6 => onD st r.d fun d => raw 3 r.a fun q => zf r.b (zf r.c (some (.pto h d q)))
  | _ => none

/-- The points of major 0x20 (02 R48). -/
def decMajor20 (st : Stream) (h : Hdr) (r : Raw) : Option FormHi :=
  match r.md.toNat with
  | 0 => decBin st false r (.addIv32 h)
  | 1 => decBin st false r (.subIv32 h)
  | 2 => decBin st false r (.mulIv32 h)
  | 3 => decBin st false r (.divIv32 h)
  | 4 => onD st r.d fun d => onS st r.a fun a => zf r.b (zf r.c (some (.sqrIv32 h d a)))
  | 5 => onD st r.d fun d => onS st r.a fun a => zf r.b (zf r.c (some (.sqrtIv32 h d a)))
  | 6 => onD st r.d fun d => onS st r.a fun a => zf r.b (zf r.c (some (.negIv32 h d a)))
  | 7 => decTri st r (.fmaIv32 h)
  | _ => none

/-- The points of major 0x21 (02 R48). -/
def decMajor21 (st : Stream) (h : Hdr) (r : Raw) : Option FormHi :=
  match r.md.toNat with
  | 0 => decBin st false r (.addIv64 h)
  | 1 => decBin st false r (.subIv64 h)
  | 2 => decBin st false r (.mulIv64 h)
  | 3 => decBin st false r (.divIv64 h)
  | 4 => onD st r.d fun d => onS st r.a fun a => zf r.b (zf r.c (some (.sqrIv64 h d a)))
  | 5 => onD st r.d fun d => onS st r.a fun a => zf r.b (zf r.c (some (.sqrtIv64 h d a)))
  | 6 => onD st r.d fun d => onS st r.a fun a => zf r.b (zf r.c (some (.negIv64 h d a)))
  | 7 => decTri st r (.fmaIv64 h)
  | _ => none

/-- The points of major 0x22 (02 R48). -/
def decMajor22 (st : Stream) (h : Hdr) (r : Raw) : Option FormHi :=
  match r.md.toNat with
  | 0 => decBin st false r (.hullIv32 h)
  | 1 => decBin st false r (.isectIv32 h)
  | 2 => onD st r.d fun d => onS st r.a fun a => zf r.b (zf r.c (some (.midIv32 h d a)))
  | 3 => onD st r.d fun d => onS st r.a fun a => zf r.b (zf r.c (some (.widIv32 h d a)))
  | 4 => raw 3 r.d fun p => onS st r.a fun a => onS st r.b fun b => zf r.c (some (.cmpLtIv32 h p a b))
  | 5 => raw 3 r.d fun p => onS st r.a fun a => onS st r.b fun b => zf r.c (some (.cmpLeIv32 h p a b))
  | 6 => raw 3 r.d fun p => onS st r.a fun a => onS st r.b fun b => zf r.c (some (.cmpEqIv32 h p a b))
  | 7 => onD st r.d fun d => onS st r.a fun a => zf r.b (zf r.c (some (.bisectIv32 h d a)))
  | _ => none

/-- The points of major 0x23 (02 R48). -/
def decMajor23 (st : Stream) (h : Hdr) (r : Raw) : Option FormHi :=
  match r.md.toNat with
  | 0 => decBin st false r (.hullIv64 h)
  | 1 => decBin st false r (.isectIv64 h)
  | 2 => onD st r.d fun d => onS st r.a fun a => zf r.b (zf r.c (some (.midIv64 h d a)))
  | 3 => onD st r.d fun d => onS st r.a fun a => zf r.b (zf r.c (some (.widIv64 h d a)))
  | 4 => raw 3 r.d fun p => onS st r.a fun a => onS st r.b fun b => zf r.c (some (.cmpLtIv64 h p a b))
  | 5 => raw 3 r.d fun p => onS st r.a fun a => onS st r.b fun b => zf r.c (some (.cmpLeIv64 h p a b))
  | 6 => raw 3 r.d fun p => onS st r.a fun a => onS st r.b fun b => zf r.c (some (.cmpEqIv64 h p a b))
  | 7 => onD st r.d fun d => onS st r.a fun a => zf r.b (zf r.c (some (.bisectIv64 h d a)))
  | _ => none

/-- The points of major 0x24 (02 R48). -/
def decMajor24 (st : Stream) (h : Hdr) (r : Raw) : Option FormHi :=
  match r.md.toNat with
  | 0 => onD st r.d fun d => onS st r.a fun a => zf r.b (zf r.c (some (.ivSpawn h d a)))
  | 1 => decBin st false r (.mkivIv32 h)
  | 2 => decBin st false r (.mkivIv64 h)
  | 3 => onD st r.d fun d => onS st r.a fun a => hintOf r.c fun hint => zf r.b (some (.ldIv32 h d a hint))
  | 4 => onD st r.d fun d => onS st r.a fun a => hintOf r.c fun hint => zf r.b (some (.ldIv64 h d a hint))
  | 5 => onS st r.a fun a => onS st r.b fun b => hintOf r.c fun hint => zf r.d (some (.stIv32 h a b hint))
  | 6 => onS st r.a fun a => onS st r.b fun b => hintOf r.c fun hint => zf r.d (some (.stIv64 h a b hint))
  | _ => none

/-- The points of major 0x25 (02 R48). -/
def decMajor25 (st : Stream) (h : Hdr) (r : Raw) : Option FormHi :=
  match r.md.toNat with
  | 0 => if r.d.extractLsb' 0 4 = 0 then onS st r.a fun a => onS st r.b fun b => onS st r.c fun c => some (.tcfg h (r.d.extractLsb' 4 4) a b c) else none
  | 1 => if r.d.extractLsb' 0 3 = 0 then if r.c.extractLsb' 0 4 = 0 then onS st r.a fun a => onS st r.b fun b => some (.tload h (r.d.extractLsb' 4 4) (r.d.extractLsb' 3 1 == 1) a b (r.c.extractLsb' 4 4)) else none else none
  | 2 => if r.d.extractLsb' 0 3 = 0 then if r.c.extractLsb' 0 4 = 0 then onS st r.a fun a => onS st r.b fun b => some (.tstore h (r.d.extractLsb' 4 4) (r.d.extractLsb' 3 1 == 1) a b (r.c.extractLsb' 4 4)) else none else none
  | 3 => if r.d.extractLsb' 0 4 = 0 then zf r.a (zf r.b (zf r.c (some (.tzero h (r.d.extractLsb' 4 4))))) else none
  | 4 => if r.a.extractLsb' 0 4 = 0 then zf r.d (zf r.b (zf r.c (some (.mwload h (r.a.extractLsb' 4 4))))) else none
  | 5 => if r.a.extractLsb' 0 4 = 0 then onS st r.b fun b => zf r.d (zf r.c (some (.mwloadSm h (r.a.extractLsb' 4 4) b))) else none
  | 6 => raw 6 r.d fun acc => zf r.a (zf r.b (zf r.c (some (.mzero h acc))))
  | 7 => onD st r.d fun d => rawBit r.c fun clr => zf r.a (zf r.b (some (.mflags h d clr)))
  | _ => none

/-- The points of major 0x26 (02 R48). -/
def decMajor26 (st : Stream) (h : Hdr) (r : Raw) : Option FormHi :=
  match r.md.toNat with
  | 0 => raw 6 r.d fun acc => if r.a.extractLsb' 0 2 = 0 then if r.b.extractLsb' 0 3 = 0 then onS st r.c fun c => some (.mmacI8 h acc (r.a.extractLsb' 4 4) (r.a.extractLsb' 2 2) (r.b.extractLsb' 6 2) (r.b.extractLsb' 4 2) (r.b.extractLsb' 3 1 == 1) c) else none else none
  | 1 => raw 6 r.d fun acc => if r.a.extractLsb' 0 2 = 0 then if r.b.extractLsb' 0 3 = 0 then onS st r.c fun c => some (.mmacF8 h acc (r.a.extractLsb' 4 4) (r.a.extractLsb' 2 2) (r.b.extractLsb' 6 2) (r.b.extractLsb' 4 2) (r.b.extractLsb' 3 1 == 1) c) else none else none
  | 2 => raw 6 r.d fun acc => if r.a.extractLsb' 0 2 = 0 then if r.b.extractLsb' 0 3 = 0 then onS st r.c fun c => some (.mmacF4 h acc (r.a.extractLsb' 4 4) (r.a.extractLsb' 2 2) (r.b.extractLsb' 6 2) (r.b.extractLsb' 4 2) (r.b.extractLsb' 3 1 == 1) c) else none else none
  | 3 => raw 6 r.d fun acc => if r.a.extractLsb' 0 2 = 0 then if r.b.extractLsb' 0 3 = 0 then onS st r.c fun c => some (.mmacBf16 h acc (r.a.extractLsb' 4 4) (r.a.extractLsb' 2 2) (r.b.extractLsb' 6 2) (r.b.extractLsb' 4 2) (r.b.extractLsb' 3 1 == 1) c) else none else none
  | 4 => raw 6 r.d fun acc => if r.a.extractLsb' 0 2 = 0 then if r.b.extractLsb' 0 3 = 0 then onS st r.c fun c => some (.mmacF16 h acc (r.a.extractLsb' 4 4) (r.a.extractLsb' 2 2) (r.b.extractLsb' 6 2) (r.b.extractLsb' 4 2) (r.b.extractLsb' 3 1 == 1) c) else none else none
  | 5 => raw 6 r.d fun acc => if r.a.extractLsb' 0 2 = 0 then if r.b.extractLsb' 0 3 = 0 then onS st r.c fun c => some (.mmacX3 h acc (r.a.extractLsb' 4 4) (r.a.extractLsb' 2 2) (r.b.extractLsb' 6 2) (r.b.extractLsb' 4 2) (r.b.extractLsb' 3 1 == 1) c) else none else none
  | 6 => raw 6 r.d fun acc => if r.a.extractLsb' 0 2 = 0 then if r.b.extractLsb' 0 3 = 0 then onS st r.c fun c => some (.mmacMx h acc (r.a.extractLsb' 4 4) (r.a.extractLsb' 2 2) (r.b.extractLsb' 6 2) (r.b.extractLsb' 4 2) (r.b.extractLsb' 3 1 == 1) c) else none else none
  | _ => none

/-- The points of major 0x27 (02 R48). -/
def decMajor27 (st : Stream) (h : Hdr) (r : Raw) : Option FormHi :=
  match r.md.toNat with
  | 0 => if r.d.extractLsb' 0 4 = 0 then if r.b.extractLsb' 0 4 = 0 then raw 6 r.a fun acc => zf r.c (some (.mstore h (r.d.extractLsb' 4 4) acc (r.b.extractLsb' 6 2) (r.b.extractLsb' 4 2))) else none else none
  | 1 => if r.a.extractLsb' 0 4 = 0 then if r.b.extractLsb' 0 4 = 0 then raw 6 r.d fun acc => zf r.c (some (.mload h acc (r.a.extractLsb' 4 4) (r.b.extractLsb' 6 2) (r.b.extractLsb' 4 2))) else none else none
  | 2 => if r.b.extractLsb' 0 4 = 0 then raw 6 r.d fun acc => raw 6 r.a fun src => onS st r.c fun c => some (.mcvt h acc src (r.b.extractLsb' 6 2) (r.b.extractLsb' 4 2) c) else none
  | 3 => if r.d.extractLsb' 4 4 = 0 then onS st r.a fun a => zf r.b (zf r.c (some (.mpset h (r.d.extractLsb' 3 1 == 1) (r.d.extractLsb' 2 1 == 1) (r.d.extractLsb' 0 2) a))) else none
  | 4 => if r.d.extractLsb' 0 4 = 0 then onS st r.a fun a => zf r.b (zf r.c (some (.marrive h (r.d.extractLsb' 4 4) a))) else none
  | 5 => zf r.d (zf r.a (zf r.b (zf r.c (some (.mswap h)))))
  | _ => none

/-- The points of major 0x28 (02 R48). -/
def decMajor28 (st : Stream) (h : Hdr) (r : Raw) : Option FormHi :=
  match r.md.toNat with
  | 0 => onD st r.d fun d => onS st r.a fun a => hintOf r.c fun hint => zf r.b (some (.ldN8 h d a hint))
  | 1 => onD st r.d fun d => onS st r.a fun a => hintOf r.c fun hint => zf r.b (some (.ldI8 h d a hint))
  | 2 => onD st r.d fun d => onS st r.a fun a => hintOf r.c fun hint => zf r.b (some (.ldN16 h d a hint))
  | 3 => onD st r.d fun d => onS st r.a fun a => hintOf r.c fun hint => zf r.b (some (.ldI16 h d a hint))
  | 4 => onD st r.d fun d => onS st r.a fun a => hintOf r.c fun hint => zf r.b (some (.ldB32 h d a hint))
  | 5 => onD st r.d fun d => onS st r.a fun a => hintOf r.c fun hint => zf r.b (some (.ldB64 h d a hint))
  | 6 => onD st r.d fun d => onS st r.a fun a => hintOf r.c fun hint => zf r.b (some (.ldB128 h d a hint))
  | _ => none

/-- The points of major 0x29 (02 R48). -/
def decMajor29 (st : Stream) (h : Hdr) (r : Raw) : Option FormHi :=
  match r.md.toNat with
  | 0 => onS st r.a fun a => onS st r.b fun b => hintOf r.c fun hint => zf r.d (some (.stB8 h a b hint))
  | 1 => onS st r.a fun a => onS st r.b fun b => hintOf r.c fun hint => zf r.d (some (.stB16 h a b hint))
  | 2 => onS st r.a fun a => onS st r.b fun b => hintOf r.c fun hint => zf r.d (some (.stB32 h a b hint))
  | 3 => onS st r.a fun a => onS st r.b fun b => hintOf r.c fun hint => zf r.d (some (.stB64 h a b hint))
  | 4 => onS st r.a fun a => onS st r.b fun b => hintOf r.c fun hint => zf r.d (some (.stB128 h a b hint))
  | _ => none

/-- The points of major 0x2a (02 R48). -/
def decMajor2a (st : Stream) (h : Hdr) (r : Raw) : Option FormHi :=
  match r.md.toNat with
  | 0 => onD st r.d fun d => onS st r.a fun a => zf r.b (zf r.c (some (.ldsB32 h d a)))
  | 1 => onD st r.d fun d => onS st r.a fun a => zf r.b (zf r.c (some (.ldsB64 h d a)))
  | 2 => onS st r.a fun a => onS st r.b fun b => zf r.d (zf r.c (some (.stsB32 h a b)))
  | 3 => onS st r.a fun a => onS st r.b fun b => zf r.d (zf r.c (some (.stsB64 h a b)))
  | 4 => onD st r.d fun d => onS st r.a fun a => zf r.b (zf r.c (some (.ldlB32 h d a)))
  | 5 => onD st r.d fun d => onS st r.a fun a => zf r.b (zf r.c (some (.ldlB64 h d a)))
  | 6 => onS st r.a fun a => onS st r.b fun b => zf r.d (zf r.c (some (.stlB32 h a b)))
  | 7 => onS st r.a fun a => onS st r.b fun b => zf r.d (zf r.c (some (.stlB64 h a b)))
  | _ => none

/-- The points of major 0x2b (02 R48). -/
def decMajor2b (st : Stream) (h : Hdr) (r : Raw) : Option FormHi :=
  match r.md.toNat with
  | 0 => onD st r.d fun d => onS st r.a fun a => onS st r.b fun b => scopeOf r.c fun sc => some (.atomAddI32 h d a b sc)
  | 1 => onD st r.d fun d => onS st r.a fun a => onS st r.b fun b => scopeOf r.c fun sc => some (.atomMinI32 h d a b sc)
  | 2 => onD st r.d fun d => onS st r.a fun a => onS st r.b fun b => scopeOf r.c fun sc => some (.atomMaxI32 h d a b sc)
  | 3 => onD st r.d fun d => onS st r.a fun a => onS st r.b fun b => scopeOf r.c fun sc => some (.atomAndB32 h d a b sc)
  | 4 => onD st r.d fun d => onS st r.a fun a => onS st r.b fun b => scopeOf r.c fun sc => some (.atomOrB32 h d a b sc)
  | 5 => onD st r.d fun d => onS st r.a fun a => onS st r.b fun b => scopeOf r.c fun sc => some (.atomXorB32 h d a b sc)
  | 6 => onD st r.d fun d => onS st r.a fun a => onS st r.b fun b => scopeOf r.c fun sc => some (.atomExchB32 h d a b sc)
  | 7 => onD st r.d fun d => onS st r.a fun a => onS st r.b fun b => scopeOf r.c fun sc => some (.atomCasB32 h d a b sc)
  | _ => none

/-- The points of major 0x2c (02 R48). -/
def decMajor2c (st : Stream) (h : Hdr) (r : Raw) : Option FormHi :=
  match r.md.toNat with
  | 0 => onS st r.a fun a => onS st r.b fun b => scopeOf r.c fun sc => zf r.d (some (.aredAddI32 h a b sc))
  | 1 => onS st r.a fun a => onS st r.b fun b => scopeOf r.c fun sc => zf r.d (some (.aredAddF32 h a b sc))
  | 2 => onS st r.a fun a => onS st r.b fun b => scopeOf r.c fun sc => zf r.d (some (.aredMinI32 h a b sc))
  | 3 => onS st r.a fun a => onS st r.b fun b => scopeOf r.c fun sc => zf r.d (some (.aredMaxI32 h a b sc))
  | 4 => onS st r.a fun a => onS st r.b fun b => scopeOf r.c fun sc => zf r.d (some (.aredAndB32 h a b sc))
  | 5 => onS st r.a fun a => onS st r.b fun b => scopeOf r.c fun sc => zf r.d (some (.aredOrB32 h a b sc))
  | 6 => onS st r.a fun a => onS st r.b fun b => scopeOf r.c fun sc => zf r.d (some (.aredXorB32 h a b sc))
  | 7 => onS st r.a fun a => onS st r.b fun b => scopeOf r.c fun sc => zf r.d (some (.aredAddI64 h a b sc))
  | _ => none

/-- The points of major 0x2d (02 R48). -/
def decMajor2d (st : Stream) (h : Hdr) (r : Raw) : Option FormHi :=
  match r.md.toNat with
  | 0 => onD st r.d fun d => onS st r.a fun a => scopeOf r.c fun sc => zf r.b (some (.ldrB32 h d a sc))
  | 1 => onD st r.d fun d => onS st r.a fun a => onS st r.b fun b => scopeOf r.c fun sc => some (.stcB32 h d a b sc)
  | 2 => scopeOf r.c fun sc => zf r.d (zf r.a (zf r.b (some (.fence h sc))))
  | 3 => onS st r.a fun a => hintOf r.c fun hint => zf r.d (zf r.b (some (.prefetch h a hint)))
  | 4 => onS st r.a fun a => hintOf r.c fun hint => zf r.d (zf r.b (some (.cwback h a hint)))
  | 5 => onS st r.a fun a => hintOf r.c fun hint => zf r.d (zf r.b (some (.cinval h a hint)))
  | 6 => onD st r.d fun d => onS st r.a fun a => onS st r.b fun b => scopeOf r.c fun sc => some (.atomAddF32 h d a b sc)
  | _ => none

/-- The points of major 0x2e (02 R48). -/
def decMajor2e (st : Stream) (h : Hdr) (r : Raw) : Option FormHi :=
  match r.md.toNat with
  | 0 => if r.c.extractLsb' 0 2 = 0 then onS st r.a fun a => onS st r.b fun b => some (.xgather h (r.d.extractLsb' 4 4) (r.d.extractLsb' 0 4) a b (r.c.extractLsb' 3 5) (r.c.extractLsb' 2 1 == 1)) else none
  | 1 => if r.c.extractLsb' 0 2 = 0 then onS st r.a fun a => onS st r.b fun b => some (.xgatherSum h (r.d.extractLsb' 4 4) (r.d.extractLsb' 0 4) a b (r.c.extractLsb' 3 5) (r.c.extractLsb' 2 1 == 1)) else none
  | 2 => if r.c.extractLsb' 0 2 = 0 then onS st r.a fun a => onS st r.b fun b => some (.xgatherMax h (r.d.extractLsb' 4 4) (r.d.extractLsb' 0 4) a b (r.c.extractLsb' 3 5) (r.c.extractLsb' 2 1 == 1)) else none
  | 3 => if r.c.extractLsb' 0 2 = 0 then onS st r.a fun a => onS st r.b fun b => some (.xscadd h (r.d.extractLsb' 4 4) (r.d.extractLsb' 0 4) a b (r.c.extractLsb' 3 5) (r.c.extractLsb' 2 1 == 1)) else none
  | 4 => if r.c.extractLsb' 0 2 = 0 then onS st r.a fun a => onS st r.b fun b => some (.xscore h (r.d.extractLsb' 4 4) (r.d.extractLsb' 0 4) a b (r.c.extractLsb' 3 5) (r.c.extractLsb' 2 1 == 1)) else none
  | 5 => if r.c.extractLsb' 0 3 = 0 then onD st r.d fun d => onS st r.a fun a => zf r.b (some (.xqload h d a (r.c.extractLsb' 3 5))) else none
  | 6 => onD st r.d fun d => rawBit r.c fun clr => zf r.a (zf r.b (some (.xstat h d clr)))
  | 7 => raw 2 r.c fun k => zf r.d (zf r.a (zf r.b (some (.xwait h k))))
  | _ => none

/-- The points of major 0x2f (02 R48). -/
def decMajor2f (st : Stream) (h : Hdr) (r : Raw) : Option FormHi :=
  match r.md.toNat with
  | 0 => if r.c.extractLsb' 0 2 = 0 then onS st r.a fun a => onS st r.b fun b => some (.xgatherMean h (r.d.extractLsb' 4 4) (r.d.extractLsb' 0 4) a b (r.c.extractLsb' 3 5) (r.c.extractLsb' 2 1 == 1)) else none
  | 1 => if r.c.extractLsb' 0 2 = 0 then onS st r.a fun a => onS st r.b fun b => some (.xscmax h (r.d.extractLsb' 4 4) (r.d.extractLsb' 0 4) a b (r.c.extractLsb' 3 5) (r.c.extractLsb' 2 1 == 1)) else none
  | 2 => raw 3 r.d fun p => raw 4 r.c fun k => zf r.a (zf r.b (some (.xmask h p k)))
  | 3 => onS st r.a fun a => zf r.d (zf r.b (zf r.c (some (.xqfree h a))))
  | _ => none

/-- The points of major 0x30 (02 R48). -/
def decMajor30 (st : Stream) (h : Hdr) (r : Raw) : Option FormHi :=
  match r.md.toNat with
  | 0 => raw 6 r.d fun tag => if r.c.extractLsb' 0 1 = 0 then onS st r.a fun a => onS st r.b fun b => some (.acopyIn h tag a b (r.c.extractLsb' 4 4) (r.c.extractLsb' 3 1 == 1) (r.c.extractLsb' 1 2)) else none
  | 1 => raw 6 r.d fun tag => if r.c.extractLsb' 0 1 = 0 then onS st r.a fun a => onS st r.b fun b => some (.acopyOut h tag a b (r.c.extractLsb' 4 4) (r.c.extractLsb' 3 1 == 1) (r.c.extractLsb' 1 2)) else none
  | 2 => onS st r.a fun a => zf r.d (zf r.b (zf r.c (some (.tagwaitAny h a))))
  | 3 => onS st r.a fun a => zf r.d (zf r.b (zf r.c (some (.tagwaitAll h a))))
  | 4 => onD st r.d fun d => onS st r.a fun a => zf r.b (zf r.c (some (.tagffr h d a)))
  | 5 => onS st r.a fun a => zf r.d (zf r.b (zf r.c (some (.tagclr h a))))
  | 6 => if r.c.extractLsb' 0 1 = 0 then onD st r.d fun d => onS st r.a fun a => zf r.b (some (.hfetch h d a (r.c.extractLsb' 3 5) (r.c.extractLsb' 1 2))) else none
  | 7 => if r.c.extractLsb' 0 1 = 0 then onS st r.a fun a => zf r.d (zf r.b (some (.hfetchPf h a (r.c.extractLsb' 3 5) (r.c.extractLsb' 1 2)))) else none
  | _ => none

/-- The points of major 0x31 (02 R48). -/
def decMajor31 (st : Stream) (h : Hdr) (r : Raw) : Option FormHi :=
  match r.md.toNat with
  | 0 => if r.d.extractLsb' 0 2 = 0 then if r.c.extractLsb' 0 3 = 0 then onS st r.a fun a => onS st r.b fun b => some (.rowscan h (r.d.extractLsb' 3 5) (r.d.extractLsb' 2 1 == 1) a b (r.c.extractLsb' 3 5)) else none else none
  | 1 => if r.c.extractLsb' 0 1 = 0 then onD st r.d fun d => onS st r.a fun a => zf r.b (some (.fibld h d a (r.c.extractLsb' 3 5) (r.c.extractLsb' 1 2))) else none
  | 2 => if r.c.extractLsb' 0 2 = 0 then zf r.d (zf r.a (zf r.b (some (.fibinv h (r.c.extractLsb' 3 5) (r.c.extractLsb' 2 1 == 1))))) else none
  | 3 => decTri st r (.dmaCopy h)
  | 4 => decTri st r (.dmaFill h)
  | 5 => onD st r.d fun d => onS st r.a fun a => zf r.b (zf r.c (some (.dmaStat h d a)))
  | 6 => if r.c.extractLsb' 0 3 = 0 then onD st r.d fun d => onS st r.a fun a => zf r.b (some (.mdld h d a (r.c.extractLsb' 3 5))) else none
  | _ => none

/-- The points of major 0x32 (02 R48). -/
def decMajor32 (st : Stream) (h : Hdr) (r : Raw) : Option FormHi :=
  match r.md.toNat with
  | 0 => onD st r.d fun d => onS st r.a fun a => zf r.b (zf r.c (some (.launch h d a)))
  | 1 => onD st r.d fun d => onS st r.a fun a => zf r.b (zf r.c (some (.launchRec h d a)))
  | 2 => onD st r.d fun d => onS st r.a fun a => zf r.b (zf r.c (some (.grow h d a)))
  | 3 => if r.b.extractLsb' 2 6 = 0 then zf r.d (zf r.c (some (.vpoint h ((r.b.extractLsb' 0 2) ++ r.a)))) else none
  | 4 => zf r.d (zf r.a (zf r.b (zf r.c (some (.exit h)))))
  | 5 => rawBit r.c fun s => zf r.d (zf r.a (zf r.b (some (.bar h s))))
  | 6 => zf r.d (zf r.a (zf r.b (zf r.c (some (.gbar h)))))
  | 7 => raw 4 r.a fun k => zf r.d (zf r.b (zf r.c (some (.mbar h k))))
  | _ => none

/-- The points of major 0x33 (02 R48). -/
def decMajor33 (st : Stream) (h : Hdr) (r : Raw) : Option FormHi :=
  match r.md.toNat with
  | 0 => raw 4 r.a fun k => zf r.d (zf r.b (zf r.c (some (.mjoin h k))))
  | 1 => raw 4 r.a fun k => zf r.d (zf r.b (zf r.c (some (.mleave h k))))
  | 2 => onS st r.a fun a => zf r.d (zf r.b (zf r.c (some (.dqpush h a))))
  | 3 => onD st r.d fun d => zf r.a (zf r.b (zf r.c (some (.dqpop h d))))
  | 4 => if r.d.extractLsb' 0 4 = 0 then onS st r.a fun a => zf r.b (zf r.c (some (.barinit h (r.d.extractLsb' 4 4) a))) else none
  | 5 => if r.d.extractLsb' 0 4 = 0 then onS st r.a fun a => zf r.b (zf r.c (some (.barwait h (r.d.extractLsb' 4 4) a))) else none
  | 6 => if r.d.extractLsb' 0 4 = 0 then zf r.a (zf r.b (zf r.c (some (.bararr h (r.d.extractLsb' 4 4))))) else none
  | _ => none

/-- The points of major 0x34 (02 R48). -/
def decMajor34 (_st : Stream) (h : Hdr) (r : Raw) : Option FormHi :=
  match r.md.toNat with
  | 0 => zf r.d (some (.br h (r.c ++ r.b ++ r.a)))
  | 1 => if r.d.extractLsb' 6 1 = 0 then some (.brc h (r.d.extractLsb' 7 1 == 1) (r.d.extractLsb' 0 6) (r.c ++ r.b ++ r.a)) else none
  | 2 => if r.d.extractLsb' 0 7 = 0 then some (.brdq h (r.d.extractLsb' 7 1 == 1) (r.c ++ r.b ++ r.a)) else none
  | 3 => if r.d.extractLsb' 5 3 = 0 then some (.brzm h (r.d.extractLsb' 3 2) (r.d.extractLsb' 0 3) (r.c ++ r.b ++ r.a)) else none
  | 4 => raw 3 r.d fun p => some (.split h p ((r.b.extractLsb' 0 4) ++ r.a) (r.c ++ (r.b.extractLsb' 4 4)))
  | 5 => zf r.d (zf r.a (zf r.b (zf r.c (some (.join h)))))
  | 6 => zf r.d (some (.call h (r.c ++ r.b ++ r.a)))
  | 7 => zf r.d (zf r.a (zf r.b (zf r.c (some (.ret h)))))
  | _ => none

/-- The points of major 0x35 (02 R48). -/
def decMajor35 (st : Stream) (h : Hdr) (r : Raw) : Option FormHi :=
  match r.md.toNat with
  | 0 => onS st r.a fun a => zf r.d (zf r.b (zf r.c (some (.jmpi h a))))
  | 1 => onS st r.a fun a => zf r.d (zf r.b (zf r.c (some (.calli h a))))
  | 2 => onD st r.d fun d => zf r.a (zf r.b (zf r.c (some (.emsave h d))))
  | 3 => onS st r.a fun a => zf r.d (zf r.b (zf r.c (some (.emrest h a))))
  | 4 => if r.a.extractLsb' 5 3 = 0 then zf r.d (zf r.b (zf r.c (some (.emand h (r.a.extractLsb' 3 2) (r.a.extractLsb' 0 3))))) else none
  | _ => none

/-- The points of major 0x36 (02 R48). -/
def decMajor36 (st : Stream) (h : Hdr) (r : Raw) : Option FormHi :=
  match r.md.toNat with
  | 0 => zf r.d (zf r.b (zf r.c (some (.trap h r.a))))
  | 1 => onD st r.d fun d => zf r.b (zf r.c (some (.rdst h d r.a)))
  | 2 => onS st r.b fun b => zf r.d (zf r.c (some (.wrst h r.a b)))
  | 3 => onD st r.d fun d => zf r.a (zf r.b (zf r.c (some (.rdlfsr h d))))
  | 4 => zf r.d (zf r.b (zf r.c (some (.brk h r.a))))
  | 5 => onD st r.d fun d => zf r.a (zf r.b (zf r.c (some (.rdclk h d))))
  | 6 => if r.d = 0 then zf r.a (some (.waitImmediate h (r.c ++ r.b)))
    else if r.d = 1 then onS st r.a fun a => zf r.b (zf r.c (some (.waitRegister h a))) else none
  | _ => none

/-- The instruction whose fields r are, whatever its operands (02 R48). Majors 0x37 to 0x3f are
reserved. -/
def decPoint (st : Stream) (h : Hdr) (r : Raw) : Option Form :=
  match r.maj.toNat with
  | 0x00 => (decMajor00 st h r).map .lo
  | 0x01 => (decMajor01 st h r).map .lo
  | 0x02 => (decMajor02 st h r).map .lo
  | 0x03 => (decMajor03 st h r).map .lo
  | 0x04 => (decMajor04 st h r).map .lo
  | 0x05 => (decMajor05 st h r).map .lo
  | 0x06 => (decMajor06 st h r).map .lo
  | 0x07 => (decMajor07 st h r).map .lo
  | 0x08 => (decMajor08 st h r).map .lo
  | 0x09 => (decMajor09 st h r).map .lo
  | 0x0a => (decMajor0a st h r).map .lo
  | 0x0b => (decMajor0b st h r).map .lo
  | 0x0c => (decMajor0c st h r).map .lo
  | 0x0d => (decMajor0d st h r).map .lo
  | 0x0e => (decMajor0e st h r).map .lo
  | 0x0f => (decMajor0f st h r).map .lo
  | 0x10 => (decMajor10 st h r).map .lo
  | 0x11 => (decMajor11 st h r).map .lo
  | 0x12 => (decMajor12 st h r).map .lo
  | 0x13 => (decMajor13 st h r).map .lo
  | 0x14 => (decMajor14 st h r).map .lo
  | 0x15 => (decMajor15 st h r).map .lo
  | 0x16 => (decMajor16 st h r).map .lo
  | 0x17 => (decMajor17 st h r).map .lo
  | 0x18 => (decMajor18 st h r).map .lo
  | 0x19 => (decMajor19 st h r).map .lo
  | 0x1a => (decMajor1a st h r).map .lo
  | 0x1b => (decMajor1b st h r).map .lo
  | 0x1c => (decMajor1c st h r).map .lo
  | 0x1d => (decMajor1d st h r).map .lo
  | 0x1e => (decMajor1e st h r).map .lo
  | 0x1f => (decMajor1f st h r).map .lo
  | 0x20 => (decMajor20 st h r).map .hi
  | 0x21 => (decMajor21 st h r).map .hi
  | 0x22 => (decMajor22 st h r).map .hi
  | 0x23 => (decMajor23 st h r).map .hi
  | 0x24 => (decMajor24 st h r).map .hi
  | 0x25 => (decMajor25 st h r).map .hi
  | 0x26 => (decMajor26 st h r).map .hi
  | 0x27 => (decMajor27 st h r).map .hi
  | 0x28 => (decMajor28 st h r).map .hi
  | 0x29 => (decMajor29 st h r).map .hi
  | 0x2a => (decMajor2a st h r).map .hi
  | 0x2b => (decMajor2b st h r).map .hi
  | 0x2c => (decMajor2c st h r).map .hi
  | 0x2d => (decMajor2d st h r).map .hi
  | 0x2e => (decMajor2e st h r).map .hi
  | 0x2f => (decMajor2f st h r).map .hi
  | 0x30 => (decMajor30 st h r).map .hi
  | 0x31 => (decMajor31 st h r).map .hi
  | 0x32 => (decMajor32 st h r).map .hi
  | 0x33 => (decMajor33 st h r).map .hi
  | 0x34 => (decMajor34 st h r).map .hi
  | 0x35 => (decMajor35 st h r).map .hi
  | 0x36 => (decMajor36 st h r).map .hi
  | _ => none

/-- A 64-bit word of a stream, with its cue nibble (02 R34, R35). -/
def decode64 (st : Stream) (w : DWord) (cue : BitVec 4) : Option Form :=
  (decPoint st ((Raw.ofWord w).hdr cue) (Raw.ofWord w)).filter (Form.wf st)

/-- The register of a 7-bit or 5-bit code in a stream. -/
def reg7 (st : Stream) (c : BitVec 7) : Src :=
  match st with
  | .lane => .v c.toNat
  | .uniform => .g c.toNat

def reg7d (st : Stream) (c : BitVec 7) : Dst :=
  match st with
  | .lane => .v c.toNat
  | .uniform => .g c.toNat

def reg5 (st : Stream) (c : BitVec 5) : Src :=
  match st with
  | .lane => .v c.toNat
  | .uniform => .g c.toNat

def reg5d (st : Stream) (c : BitVec 5) : Dst :=
  match st with
  | .lane => .v c.toNat
  | .uniform => .g c.toNat

/-- The instruction of a 32-bit word, whatever its operands: its point is OP7 (02 R38). -/
def decW32 (st : Stream) (t : BitVec 2) (cb ca cd : BitVec 7) (op : Nat) : Option FormLo :=
  let d := reg7d st cd
  let a := reg7 st ca
  let b := reg7 st cb
  match op with
  | 0x00 => some (.addI32W32 t d a b)
  | 0x01 => some (.subI32W32 t d a b)
  | 0x02 => some (.addSatI32W32 t d a b)
  | 0x03 => some (.subSatI32W32 t d a b)
  | 0x04 => some (.addSatN32W32 t d a b)
  | 0x05 => some (.subSatN32W32 t d a b)
  | 0x06 => some (.addI16W32 t d a b)
  | 0x07 => some (.subI16W32 t d a b)
  | 0x08 => some (.mulI32W32 t d a b)
  | 0x09 => some (.mulhiI32W32 t d a b)
  | 0x0a => some (.mulhiN32W32 t d a b)
  | 0x0b => some (.mulSatI32W32 t d a b)
  | 0x0c => some (.mulI16W32 t d a b)
  | 0x10 => some (.andB32W32 t d a b)
  | 0x11 => some (.orB32W32 t d a b)
  | 0x12 => some (.xorB32W32 t d a b)
  | 0x13 => some (.andnB32W32 t d a b)
  | 0x14 => some (.ornB32W32 t d a b)
  | 0x15 => some (.xnorB32W32 t d a b)
  | 0x18 => some (.shlB32W32 t d a b)
  | 0x19 => some (.shrN32W32 t d a b)
  | 0x1a => some (.shrI32W32 t d a b)
  | 0x1b => some (.rotlB32W32 t d a b)
  | 0x1c => some (.rotrB32W32 t d a b)
  | 0x20 => some (.minI32W32 t d a b)
  | 0x21 => some (.maxI32W32 t d a b)
  | 0x22 => some (.minN32W32 t d a b)
  | 0x23 => some (.maxN32W32 t d a b)
  | 0x24 => some (.adifI32W32 t d a b)
  | 0x25 => some (.adifN32W32 t d a b)
  | 0x28 => some (.bfextN32W32 t d a b)
  | 0x29 => some (.bfextI32W32 t d a b)
  | 0x2a => some (.bfinsB32W32 t d a b)
  | 0x2b => if cb = 0 then some (.popcB32W32 t d a) else none
  | 0x2c => if cb = 0 then some (.clzB32W32 t d a) else none
  | 0x2d => if cb = 0 then some (.brevB32W32 t d a) else none
  | 0x2e => some (.addI64W32 t d a b)
  | 0x2f => some (.subI64W32 t d a b)
  | 0x30 | 0x31 | 0x32 | 0x33 => some (.addF32W32 t (BitVec.ofNat 2 (op % 4)) d a b)
  | 0x34 | 0x35 | 0x36 | 0x37 => some (.subF32W32 t (BitVec.ofNat 2 (op % 4)) d a b)
  | 0x38 | 0x39 | 0x3a | 0x3b => some (.mulF32W32 t (BitVec.ofNat 2 (op % 4)) d a b)
  | 0x40 | 0x41 | 0x42 | 0x43 => some (.addF16W32 t (BitVec.ofNat 2 (op % 4)) d a b)
  | 0x44 | 0x45 | 0x46 | 0x47 => some (.subF16W32 t (BitVec.ofNat 2 (op % 4)) d a b)
  | 0x48 | 0x49 | 0x4a | 0x4b => some (.addBf16W32 t (BitVec.ofNat 2 (op % 4)) d a b)
  | 0x4c | 0x4d | 0x4e | 0x4f => some (.subBf16W32 t (BitVec.ofNat 2 (op % 4)) d a b)
  | 0x50 | 0x51 | 0x52 | 0x53 => some (.mulF16W32 t (BitVec.ofNat 2 (op % 4)) d a b)
  | 0x54 | 0x55 | 0x56 | 0x57 => some (.mulBf16W32 t (BitVec.ofNat 2 (op % 4)) d a b)
  | 0x58 => some (.minF32W32 t d a b)
  | 0x59 => some (.maxF32W32 t d a b)
  | 0x5a => some (.minF16W32 t d a b)
  | 0x5b => some (.maxF16W32 t d a b)
  | 0x5c => some (.minBf16W32 t d a b)
  | 0x5d => some (.maxBf16W32 t d a b)
  | 0x5e => some (.minF64W32 t d a b)
  | 0x5f => some (.maxF64W32 t d a b)
  | 0x60 | 0x61 | 0x62 | 0x63 => some (.addF64W32 t (BitVec.ofNat 2 (op % 4)) d a b)
  | 0x64 | 0x65 | 0x66 | 0x67 => some (.subF64W32 t (BitVec.ofNat 2 (op % 4)) d a b)
  | 0x68 | 0x69 | 0x6a | 0x6b => some (.mulF64W32 t (BitVec.ofNat 2 (op % 4)) d a b)
  | 0x70 => some (.lxchSelB32W32 t d a b)
  | 0x71 => some (.lxchLoB32W32 t d a b)
  | 0x72 => some (.lxchHiB32W32 t d a b)
  | 0x73 => some (.lxchFlipB32W32 t d a b)
  | 0x78 => if ca = 0 then some (.movB32W32 t d b) else none
  | 0x79 => if cb = 0 then some (.movXaB32W32 t d ca.toNat) else none
  | 0x7a => if ca = 0 then some (.movXdB32W32 t cd.toNat b) else none
  | 0x7b => if cb = 0 then some (.movXadB32W32 t cd.toNat ca.toNat) else none
  | 0x7c => some (.packB16W32 t d a b)
  | _ => none

/-- The instruction of a compact operation (02 R39). -/
def decC16 (st : Stream) (op : Nat) (cd cb : BitVec 5) : Option FormLo :=
  let d := reg5d st cd
  let b := reg5 st cb
  match op with
  | 0 => if cd = 0 ∧ cb = 0 then some .nop else none
  | 1 => some (.addI32C16 d b)
  | 2 => some (.subI32C16 d b)
  | 3 => some (.andB32C16 d b)
  | 4 => some (.orB32C16 d b)
  | 5 => some (.xorB32C16 d b)
  | 6 => some (.shlB32C16 d b)
  | 7 => some (.shrN32C16 d b)
  | 8 => some (.minI32C16 d b)
  | 9 => some (.maxI32C16 d b)
  | 10 => some (.addF32C16 d b)
  | 11 => some (.subF32C16 d b)
  | 12 => some (.mulF32C16 d b)
  | 13 => some (.minF32C16 d b)
  | 14 => some (.maxF32C16 d b)
  | 15 => some (.movB32C16 d b)
  | _ => none

/-- A 32-bit word of a stream (02 R38). -/
def decode32 (st : Stream) (w : BitVec 32) : Option Form :=
  (decW32 st (w.extractLsb' 30 2) (w.extractLsb' 23 7) (w.extractLsb' 16 7) (w.extractLsb' 9 7)
    (w.extractLsb' 2 7).toNat).map Form.lo |>.filter (Form.wf st)

/-- A 16-bit word of a stream (02 R39, R40). -/
def decode16 (st : Stream) (w : BitVec 16) : Except Reject Form :=
  if w.extractLsb' 0 2 = 0 then
    match decC16 st (w.extractLsb' 12 4).toNat (w.extractLsb' 7 5) (w.extractLsb' 2 5) with
    | none => .error .compactZero
    | some x => if x.wf st then .ok (.lo x) else .error .illegal
  else if w.extractLsb' 15 1 = 1 then .error .dictReserved
  else .ok (.lo (.dictionaryReference (w.extractLsb' 12 3) (w.extractLsb' 2 10)))

/-- Bytes in little-endian order as a number (00 R4). -/
def leNat : List Byte → Nat
  | [] => 0
  | b :: t => b.toNat + 256 * leNat t

/-- n bytes of a number in little-endian order (00 R4). -/
def leBytes : Nat → Nat → List Byte
  | 0, _ => []
  | n + 1, x => BitVec.ofNat 8 x :: leBytes n (x / 256)

/-- The word at a stream offset, given the bytes of the stream from there on and the cue nibble of the
slot: the word and its length in bytes (02 R31 to R33). -/
def decode (st : Stream) (ofs : Nat) (bytes : List Byte) (cue : BitVec 4) :
    Except Reject (Form × Nat) :=
  match bytes with
  | b0 :: b1 :: rest =>
    if b0.extractLsb' 0 1 = 0 then
      match decode16 st (BitVec.ofNat 16 (leNat [b0, b1])) with
      | .ok i => .ok (i, 2)
      | .error e => .error e
    else if b0.extractLsb' 1 1 = 0 then
      match rest with
      | b2 :: b3 :: _ =>
        match decode32 st (BitVec.ofNat 32 (leNat [b0, b1, b2, b3])) with
        | some i => .ok (i, 4)
        | none => .error .illegal
      | _ => .error .streamEnd
    else if ofs % 8 ≠ 0 then .error .misaligned
    else if (bytes.take 8).length < 8 then .error .streamEnd
    else
      match decode64 st (BitVec.ofNat 64 (leNat (bytes.take 8))) cue with
      | some i => .ok (i, 8)
      | none => .error .illegal
  | _ => .error .streamEnd

/-- The low 7 bits of an operand code: the register of a 32-bit word. -/
def code7 (c : BitVec 8) : BitVec 7 := c.setWidth 7

/-- The point and operand fields of a 64-bit word. -/
def FormLo.point (x : FormLo) : Option (Hdr × Nat × Fld) :=
  match x with
  | .nop => none
  | .dictionaryReference _ _ => none
  | .addI32 h d a b => some (h, 0x000, encBin d a b)
  | .addI32W32 _ _ _ _ => none
  | .addI32C16 _ _ => none
  | .subI32 h d a b => some (h, 0x001, encBin d a b)
  | .subI32W32 _ _ _ _ => none
  | .subI32C16 _ _ => none
  | .addSatI32 h d a b => some (h, 0x002, encBin d a b)
  | .addSatI32W32 _ _ _ _ => none
  | .subSatI32 h d a b => some (h, 0x003, encBin d a b)
  | .subSatI32W32 _ _ _ _ => none
  | .addSatN32 h d a b => some (h, 0x004, encBin d a b)
  | .addSatN32W32 _ _ _ _ => none
  | .subSatN32 h d a b => some (h, 0x005, encBin d a b)
  | .subSatN32W32 _ _ _ _ => none
  | .addI16 h d a b => some (h, 0x006, encBin d a b)
  | .addI16W32 _ _ _ _ => none
  | .subI16 h d a b => some (h, 0x007, encBin d a b)
  | .subI16W32 _ _ _ _ => none
  | .mulI32 h d a b => some (h, 0x008, encBin d a b)
  | .mulI32W32 _ _ _ _ => none
  | .mulhiI32 h d a b => some (h, 0x009, encBin d a b)
  | .mulhiI32W32 _ _ _ _ => none
  | .mulhiN32 h d a b => some (h, 0x00a, encBin d a b)
  | .mulhiN32W32 _ _ _ _ => none
  | .mulSatI32 h d a b => some (h, 0x00b, encBin d a b)
  | .mulSatI32W32 _ _ _ _ => none
  | .mulI16 h d a b => some (h, 0x00c, encBin d a b)
  | .mulI16W32 _ _ _ _ => none
  | .andB32 h d a b => some (h, 0x010, encBin d a b)
  | .andB32W32 _ _ _ _ => none
  | .andB32C16 _ _ => none
  | .orB32 h d a b => some (h, 0x011, encBin d a b)
  | .orB32W32 _ _ _ _ => none
  | .orB32C16 _ _ => none
  | .xorB32 h d a b => some (h, 0x012, encBin d a b)
  | .xorB32W32 _ _ _ _ => none
  | .xorB32C16 _ _ => none
  | .andnB32 h d a b => some (h, 0x013, encBin d a b)
  | .andnB32W32 _ _ _ _ => none
  | .ornB32 h d a b => some (h, 0x014, encBin d a b)
  | .ornB32W32 _ _ _ _ => none
  | .xnorB32 h d a b => some (h, 0x015, encBin d a b)
  | .xnorB32W32 _ _ _ _ => none
  | .shlB32 h d a b => some (h, 0x018, encBin d a b)
  | .shlB32W32 _ _ _ _ => none
  | .shlB32C16 _ _ => none
  | .shrN32 h d a b => some (h, 0x019, encBin d a b)
  | .shrN32W32 _ _ _ _ => none
  | .shrN32C16 _ _ => none
  | .shrI32 h d a b => some (h, 0x01a, encBin d a b)
  | .shrI32W32 _ _ _ _ => none
  | .rotlB32 h d a b => some (h, 0x01b, encBin d a b)
  | .rotlB32W32 _ _ _ _ => none
  | .rotrB32 h d a b => some (h, 0x01c, encBin d a b)
  | .rotrB32W32 _ _ _ _ => none
  | .minI32 h d a b => some (h, 0x020, encBin d a b)
  | .minI32W32 _ _ _ _ => none
  | .minI32C16 _ _ => none
  | .maxI32 h d a b => some (h, 0x021, encBin d a b)
  | .maxI32W32 _ _ _ _ => none
  | .maxI32C16 _ _ => none
  | .minN32 h d a b => some (h, 0x022, encBin d a b)
  | .minN32W32 _ _ _ _ => none
  | .maxN32 h d a b => some (h, 0x023, encBin d a b)
  | .maxN32W32 _ _ _ _ => none
  | .adifI32 h d a b => some (h, 0x024, encBin d a b)
  | .adifI32W32 _ _ _ _ => none
  | .adifN32 h d a b => some (h, 0x025, encBin d a b)
  | .adifN32W32 _ _ _ _ => none
  | .bfextN32 h d a b => some (h, 0x028, encBin d a b)
  | .bfextN32W32 _ _ _ _ => none
  | .bfextI32 h d a b => some (h, 0x029, encBin d a b)
  | .bfextI32W32 _ _ _ _ => none
  | .bfinsB32 h d a b c => some (h, 0x02a, ⟨d.code, a.code, b.code, c.code⟩)
  | .bfinsB32W32 _ _ _ _ => none
  | .popcB32 h d a => some (h, 0x02b, ⟨d.code, a.code, 0, 0⟩)
  | .popcB32W32 _ _ _ => none
  | .clzB32 h d a => some (h, 0x02c, ⟨d.code, a.code, 0, 0⟩)
  | .clzB32W32 _ _ _ => none
  | .brevB32 h d a => some (h, 0x02d, ⟨d.code, a.code, 0, 0⟩)
  | .brevB32W32 _ _ _ => none
  | .addI64 h d a b => some (h, 0x02e, encBin d a b)
  | .addI64W32 _ _ _ _ => none
  | .subI64 h d a b => some (h, 0x02f, encBin d a b)
  | .subI64W32 _ _ _ _ => none
  | .addF32 h rnd d a b => some (h, 0x030 + rnd.toNat, encBin d a b)
  | .addF32W32 _ _ _ _ _ => none
  | .addF32C16 _ _ => none
  | .subF32 h rnd d a b => some (h, 0x034 + rnd.toNat, encBin d a b)
  | .subF32W32 _ _ _ _ _ => none
  | .subF32C16 _ _ => none
  | .mulF32 h rnd d a b => some (h, 0x038 + rnd.toNat, encBin d a b)
  | .mulF32W32 _ _ _ _ _ => none
  | .mulF32C16 _ _ => none
  | .addF16 h rnd d a b => some (h, 0x040 + rnd.toNat, encBin d a b)
  | .addF16W32 _ _ _ _ _ => none
  | .subF16 h rnd d a b => some (h, 0x044 + rnd.toNat, encBin d a b)
  | .subF16W32 _ _ _ _ _ => none
  | .addBf16 h rnd d a b => some (h, 0x048 + rnd.toNat, encBin d a b)
  | .addBf16W32 _ _ _ _ _ => none
  | .subBf16 h rnd d a b => some (h, 0x04c + rnd.toNat, encBin d a b)
  | .subBf16W32 _ _ _ _ _ => none
  | .mulF16 h rnd d a b => some (h, 0x050 + rnd.toNat, encBin d a b)
  | .mulF16W32 _ _ _ _ _ => none
  | .mulBf16 h rnd d a b => some (h, 0x054 + rnd.toNat, encBin d a b)
  | .mulBf16W32 _ _ _ _ _ => none
  | .minF32 h d a b => some (h, 0x058, encBin d a b)
  | .minF32W32 _ _ _ _ => none
  | .minF32C16 _ _ => none
  | .maxF32 h d a b => some (h, 0x059, encBin d a b)
  | .maxF32W32 _ _ _ _ => none
  | .maxF32C16 _ _ => none
  | .minF16 h d a b => some (h, 0x05a, encBin d a b)
  | .minF16W32 _ _ _ _ => none
  | .maxF16 h d a b => some (h, 0x05b, encBin d a b)
  | .maxF16W32 _ _ _ _ => none
  | .minBf16 h d a b => some (h, 0x05c, encBin d a b)
  | .minBf16W32 _ _ _ _ => none
  | .maxBf16 h d a b => some (h, 0x05d, encBin d a b)
  | .maxBf16W32 _ _ _ _ => none
  | .minF64 h d a b => some (h, 0x05e, encBin d a b)
  | .minF64W32 _ _ _ _ => none
  | .maxF64 h d a b => some (h, 0x05f, encBin d a b)
  | .maxF64W32 _ _ _ _ => none
  | .addF64 h rnd d a b => some (h, 0x060 + rnd.toNat, encBin d a b)
  | .addF64W32 _ _ _ _ _ => none
  | .subF64 h rnd d a b => some (h, 0x064 + rnd.toNat, encBin d a b)
  | .subF64W32 _ _ _ _ _ => none
  | .mulF64 h rnd d a b => some (h, 0x068 + rnd.toNat, encBin d a b)
  | .mulF64W32 _ _ _ _ _ => none
  | .lxchSelB32 h d a b => some (h, 0x070, encBin d a b)
  | .lxchSelB32W32 _ _ _ _ => none
  | .lxchLoB32 h d a b => some (h, 0x071, encBin d a b)
  | .lxchLoB32W32 _ _ _ _ => none
  | .lxchHiB32 h d a b => some (h, 0x072, encBin d a b)
  | .lxchHiB32W32 _ _ _ _ => none
  | .lxchFlipB32 h d a b => some (h, 0x073, encBin d a b)
  | .lxchFlipB32W32 _ _ _ _ => none
  | .movB32 h d b => some (h, 0x078, encMov d b)
  | .movB32W32 _ _ _ => none
  | .movB32C16 _ _ => none
  | .movXaB32 h d a => some (h, 0x079, ⟨d.code, BitVec.ofNat 8 a, 0, 0⟩)
  | .movXaB32W32 _ _ _ => none
  | .movXdB32 h d b => some (h, 0x07a, ⟨BitVec.ofNat 8 d, 0, b.code, 0⟩)
  | .movXdB32W32 _ _ _ => none
  | .movXadB32 h d a => some (h, 0x07b, ⟨BitVec.ofNat 8 d, BitVec.ofNat 8 a, 0, 0⟩)
  | .movXadB32W32 _ _ _ => none
  | .packB16 h d a b => some (h, 0x07c, encBin d a b)
  | .packB16W32 _ _ _ _ => none
  | .fmaF32 h rnd d a b c => some (h, 0x080 + rnd.toNat, ⟨d.code, a.code, b.code, c.code⟩)
  | .fnmaF32 h rnd d a b c => some (h, 0x084 + rnd.toNat, ⟨d.code, a.code, b.code, c.code⟩)
  | .fmaF64 h rnd d a b c => some (h, 0x088 + rnd.toNat, ⟨d.code, a.code, b.code, c.code⟩)
  | .fnmaF64 h rnd d a b c => some (h, 0x08c + rnd.toNat, ⟨d.code, a.code, b.code, c.code⟩)
  | .fmaF16 h rnd d a b c => some (h, 0x090 + rnd.toNat, ⟨d.code, a.code, b.code, c.code⟩)
  | .fnmaF16 h rnd d a b c => some (h, 0x094 + rnd.toNat, ⟨d.code, a.code, b.code, c.code⟩)
  | .fmaBf16 h rnd d a b c => some (h, 0x098 + rnd.toNat, ⟨d.code, a.code, b.code, c.code⟩)
  | .fnmaBf16 h rnd d a b c => some (h, 0x09c + rnd.toNat, ⟨d.code, a.code, b.code, c.code⟩)
  | .madI32 h d a b c => some (h, 0x0a0, ⟨d.code, a.code, b.code, c.code⟩)
  | .madhiI32 h d a b c => some (h, 0x0a1, ⟨d.code, a.code, b.code, c.code⟩)
  | .madhiN32 h d a b c => some (h, 0x0a2, ⟨d.code, a.code, b.code, c.code⟩)
  | .madSatI32 h d a b c => some (h, 0x0a3, ⟨d.code, a.code, b.code, c.code⟩)
  | .dot4I8 h d a b c => some (h, 0x0a4, ⟨d.code, a.code, b.code, c.code⟩)
  | .dot4N8 h d a b c => some (h, 0x0a5, ⟨d.code, a.code, b.code, c.code⟩)
  | .dot2I16 h d a b c => some (h, 0x0a6, ⟨d.code, a.code, b.code, c.code⟩)
  | .rcpF32 h rnd d a => some (h, 0x0a8, ⟨d.code, a.code, 0, rnd.setWidth 8⟩)
  | .rsqrtF32 h d a => some (h, 0x0a9, ⟨d.code, a.code, 0, 0⟩)
  | .sqrtF32 h rnd d a => some (h, 0x0aa, ⟨d.code, a.code, 0, rnd.setWidth 8⟩)
  | .exp2F32 h d a => some (h, 0x0ab, ⟨d.code, a.code, 0, 0⟩)
  | .log2F32 h d a => some (h, 0x0ac, ⟨d.code, a.code, 0, 0⟩)
  | .sinF32 h d a => some (h, 0x0ad, ⟨d.code, a.code, 0, 0⟩)
  | .cosF32 h d a => some (h, 0x0ae, ⟨d.code, a.code, 0, 0⟩)
  | .rcpF64 h rnd d a => some (h, 0x0b0, ⟨d.code, a.code, 0, rnd.setWidth 8⟩)
  | .rsqrtF64 h d a => some (h, 0x0b1, ⟨d.code, a.code, 0, 0⟩)
  | .sqrtF64 h rnd d a => some (h, 0x0b2, ⟨d.code, a.code, 0, rnd.setWidth 8⟩)
  | .cmpEqB32 h d a b => some (h, 0x0b8, ⟨d.code, a.code, b.code, 0⟩)
  | .cmpNeB32 h d a b => some (h, 0x0b9, ⟨d.code, a.code, b.code, 0⟩)
  | .cmpLtI32 h d a b => some (h, 0x0ba, ⟨d.code, a.code, b.code, 0⟩)
  | .cmpLeI32 h d a b => some (h, 0x0bb, ⟨d.code, a.code, b.code, 0⟩)
  | .cmpLtN32 h d a b => some (h, 0x0bc, ⟨d.code, a.code, b.code, 0⟩)
  | .cmpLeN32 h d a b => some (h, 0x0bd, ⟨d.code, a.code, b.code, 0⟩)
  | .tstB32 h d a b => some (h, 0x0be, ⟨d.code, a.code, b.code, 0⟩)
  | .cmpEqF32 h p a b => some (h, 0x0c0, ⟨p.setWidth 8, a.code, b.code, 0⟩)
  | .cmpNeF32 h p a b => some (h, 0x0c1, ⟨p.setWidth 8, a.code, b.code, 0⟩)
  | .cmpLtF32 h p a b => some (h, 0x0c2, ⟨p.setWidth 8, a.code, b.code, 0⟩)
  | .cmpLeF32 h p a b => some (h, 0x0c3, ⟨p.setWidth 8, a.code, b.code, 0⟩)
  | .cmpGtF32 h p a b => some (h, 0x0c4, ⟨p.setWidth 8, a.code, b.code, 0⟩)
  | .cmpGeF32 h p a b => some (h, 0x0c5, ⟨p.setWidth 8, a.code, b.code, 0⟩)
  | .cmpUnF32 h p a b => some (h, 0x0c6, ⟨p.setWidth 8, a.code, b.code, 0⟩)
  | .cmpOrdF32 h p a b => some (h, 0x0c7, ⟨p.setWidth 8, a.code, b.code, 0⟩)
  | .cmpEqF64 h p a b => some (h, 0x0c8, ⟨p.setWidth 8, a.code, b.code, 0⟩)
  | .cmpNeF64 h p a b => some (h, 0x0c9, ⟨p.setWidth 8, a.code, b.code, 0⟩)
  | .cmpLtF64 h p a b => some (h, 0x0ca, ⟨p.setWidth 8, a.code, b.code, 0⟩)
  | .cmpLeF64 h p a b => some (h, 0x0cb, ⟨p.setWidth 8, a.code, b.code, 0⟩)
  | .cmpGtF64 h p a b => some (h, 0x0cc, ⟨p.setWidth 8, a.code, b.code, 0⟩)
  | .cmpGeF64 h p a b => some (h, 0x0cd, ⟨p.setWidth 8, a.code, b.code, 0⟩)
  | .cmpUnF64 h p a b => some (h, 0x0ce, ⟨p.setWidth 8, a.code, b.code, 0⟩)
  | .cmpOrdF64 h p a b => some (h, 0x0cf, ⟨p.setWidth 8, a.code, b.code, 0⟩)
  | .cvtF32F64 h rnd d a => some (h, 0x0d0, ⟨d.code, a.code, 0, rnd.setWidth 8⟩)
  | .cvtF64F32 h rnd d a => some (h, 0x0d1, ⟨d.code, a.code, 0, rnd.setWidth 8⟩)
  | .cvtF16F32 h rnd d a b => some (h, 0x0d2, ⟨d.code, a.code, b.code, rnd.setWidth 8⟩)
  | .cvtF32F16 h rnd d a hi => some (h, 0x0d3, ⟨d.code, a.code, (bit1 hi).setWidth 8, rnd.setWidth 8⟩)
  | .cvtBf16F32 h rnd d a b => some (h, 0x0d4, ⟨d.code, a.code, b.code, rnd.setWidth 8⟩)
  | .cvtF32Bf16 h rnd d a hi => some (h, 0x0d5, ⟨d.code, a.code, (bit1 hi).setWidth 8, rnd.setWidth 8⟩)
  | .cvtI32F32 h rnd d a => some (h, 0x0d6, ⟨d.code, a.code, 0, rnd.setWidth 8⟩)
  | .cvtF32I32 h rnd d a => some (h, 0x0d7, ⟨d.code, a.code, 0, rnd.setWidth 8⟩)
  | .cvtN32F32 h rnd d a => some (h, 0x0d8, ⟨d.code, a.code, 0, rnd.setWidth 8⟩)
  | .cvtF32N32 h rnd d a => some (h, 0x0d9, ⟨d.code, a.code, 0, rnd.setWidth 8⟩)
  | .cvtI64F64 h rnd d a => some (h, 0x0da, ⟨d.code, a.code, 0, rnd.setWidth 8⟩)
  | .cvtF64I64 h rnd d a => some (h, 0x0db, ⟨d.code, a.code, 0, rnd.setWidth 8⟩)
  | .cvtI32F64 h rnd d a => some (h, 0x0dc, ⟨d.code, a.code, 0, rnd.setWidth 8⟩)
  | .cvtF64I32 h rnd d a => some (h, 0x0dd, ⟨d.code, a.code, 0, rnd.setWidth 8⟩)
  | .cvtSatI8I32 h rnd d a => some (h, 0x0de, ⟨d.code, a.code, 0, rnd.setWidth 8⟩)
  | .cvtSatI16I32 h rnd d a => some (h, 0x0df, ⟨d.code, a.code, 0, rnd.setWidth 8⟩)
  | .cvtFfF32 h rnd d a f => some (h, 0x0e0, ⟨d.code, a.code, f.code, rnd.setWidth 8⟩)
  | .cvtF32Ff h rnd d a f => some (h, 0x0e1, ⟨d.code, a.code, f.code, rnd.setWidth 8⟩)
  | .cvtFfBf16 h rnd d a f => some (h, 0x0e2, ⟨d.code, a.code, f.code, rnd.setWidth 8⟩)
  | .cvtBf16Ff h rnd d a f => some (h, 0x0e3, ⟨d.code, a.code, f.code, rnd.setWidth 8⟩)
  | .packMx h d a f => some (h, 0x0e4, ⟨d.code, a.code, f.code, 0⟩)
  | .unpackMx h rnd d a f => some (h, 0x0e5, ⟨d.code, a.code, f.code, rnd.setWidth 8⟩)
  | .lvoteAnd h p q => some (h, 0x0e8, ⟨p.setWidth 8, q.setWidth 8, 0, 0⟩)
  | .lvoteOr h p q => some (h, 0x0e9, ⟨p.setWidth 8, q.setWidth 8, 0, 0⟩)
  | .lvoteMask h d q => some (h, 0x0ea, ⟨d.code, q.setWidth 8, 0, 0⟩)
  | .vredAddI32 h d a => some (h, 0x0eb, ⟨d.code, a.code, 0, 0⟩)
  | .vredMinI32 h d a => some (h, 0x0ec, ⟨d.code, a.code, 0, 0⟩)
  | .vredMaxI32 h d a => some (h, 0x0ed, ⟨d.code, a.code, 0, 0⟩)
  | .vredAddF32 h d a => some (h, 0x0ee, ⟨d.code, a.code, 0, 0⟩)
  | .vscanAddI32 h d a => some (h, 0x0ef, ⟨d.code, a.code, 0, 0⟩)
  | .vfilt h d a b c => some (h, 0x0f0, ⟨d.code, a.code, b.code, c.code⟩)
  | .vpermB32 h d a b => some (h, 0x0f1, encBin d a b)
  | .pand h p q r => some (h, 0x0f8, ⟨p.setWidth 8, q.setWidth 8, r.setWidth 8, 0⟩)
  | .por h p q r => some (h, 0x0f9, ⟨p.setWidth 8, q.setWidth 8, r.setWidth 8, 0⟩)
  | .pnot h p q => some (h, 0x0fa, ⟨p.setWidth 8, q.setWidth 8, 0, 0⟩)
  | .pmov h p a => some (h, 0x0fb, ⟨p.setWidth 8, a.code, 0, 0⟩)
  | .selB32 h d a b q => some (h, 0x0fc, ⟨d.code, a.code, b.code, q.setWidth 8⟩)
  | .pfrom h p a => some (h, 0x0fd, ⟨p.setWidth 8, a.code, 0, 0⟩)
  | .pto h d q => some (h, 0x0fe, ⟨d.code, q.setWidth 8, 0, 0⟩)

/-- The point and operand fields of a 64-bit word. -/
def FormHi.point (x : FormHi) : Hdr × Nat × Fld :=
  match x with
  | .addIv32 h d a b => (h, 0x100, encBin d a b)
  | .subIv32 h d a b => (h, 0x101, encBin d a b)
  | .mulIv32 h d a b => (h, 0x102, encBin d a b)
  | .divIv32 h d a b => (h, 0x103, encBin d a b)
  | .sqrIv32 h d a => (h, 0x104, ⟨d.code, a.code, 0, 0⟩)
  | .sqrtIv32 h d a => (h, 0x105, ⟨d.code, a.code, 0, 0⟩)
  | .negIv32 h d a => (h, 0x106, ⟨d.code, a.code, 0, 0⟩)
  | .fmaIv32 h d a b c => (h, 0x107, ⟨d.code, a.code, b.code, c.code⟩)
  | .addIv64 h d a b => (h, 0x108, encBin d a b)
  | .subIv64 h d a b => (h, 0x109, encBin d a b)
  | .mulIv64 h d a b => (h, 0x10a, encBin d a b)
  | .divIv64 h d a b => (h, 0x10b, encBin d a b)
  | .sqrIv64 h d a => (h, 0x10c, ⟨d.code, a.code, 0, 0⟩)
  | .sqrtIv64 h d a => (h, 0x10d, ⟨d.code, a.code, 0, 0⟩)
  | .negIv64 h d a => (h, 0x10e, ⟨d.code, a.code, 0, 0⟩)
  | .fmaIv64 h d a b c => (h, 0x10f, ⟨d.code, a.code, b.code, c.code⟩)
  | .hullIv32 h d a b => (h, 0x110, encBin d a b)
  | .isectIv32 h d a b => (h, 0x111, encBin d a b)
  | .midIv32 h d a => (h, 0x112, ⟨d.code, a.code, 0, 0⟩)
  | .widIv32 h d a => (h, 0x113, ⟨d.code, a.code, 0, 0⟩)
  | .cmpLtIv32 h p a b => (h, 0x114, ⟨p.setWidth 8, a.code, b.code, 0⟩)
  | .cmpLeIv32 h p a b => (h, 0x115, ⟨p.setWidth 8, a.code, b.code, 0⟩)
  | .cmpEqIv32 h p a b => (h, 0x116, ⟨p.setWidth 8, a.code, b.code, 0⟩)
  | .bisectIv32 h d a => (h, 0x117, ⟨d.code, a.code, 0, 0⟩)
  | .hullIv64 h d a b => (h, 0x118, encBin d a b)
  | .isectIv64 h d a b => (h, 0x119, encBin d a b)
  | .midIv64 h d a => (h, 0x11a, ⟨d.code, a.code, 0, 0⟩)
  | .widIv64 h d a => (h, 0x11b, ⟨d.code, a.code, 0, 0⟩)
  | .cmpLtIv64 h p a b => (h, 0x11c, ⟨p.setWidth 8, a.code, b.code, 0⟩)
  | .cmpLeIv64 h p a b => (h, 0x11d, ⟨p.setWidth 8, a.code, b.code, 0⟩)
  | .cmpEqIv64 h p a b => (h, 0x11e, ⟨p.setWidth 8, a.code, b.code, 0⟩)
  | .bisectIv64 h d a => (h, 0x11f, ⟨d.code, a.code, 0, 0⟩)
  | .ivSpawn h d a => (h, 0x120, ⟨d.code, a.code, 0, 0⟩)
  | .mkivIv32 h d a b => (h, 0x121, encBin d a b)
  | .mkivIv64 h d a b => (h, 0x122, encBin d a b)
  | .ldIv32 h d a hint => (h, 0x123, ⟨d.code, a.code, 0, hint.byte⟩)
  | .ldIv64 h d a hint => (h, 0x124, ⟨d.code, a.code, 0, hint.byte⟩)
  | .stIv32 h a b hint => (h, 0x125, ⟨0, a.code, b.code, hint.byte⟩)
  | .stIv64 h a b hint => (h, 0x126, ⟨0, a.code, b.code, hint.byte⟩)
  | .tcfg h t a b c => (h, 0x128, ⟨t ++ (0#4), a.code, b.code, c.code⟩)
  | .tload h t bv a b bo => (h, 0x129, ⟨t ++ bit1 bv ++ (0#3), a.code, b.code, bo ++ (0#4)⟩)
  | .tstore h t bv a b bo => (h, 0x12a, ⟨t ++ bit1 bv ++ (0#3), a.code, b.code, bo ++ (0#4)⟩)
  | .tzero h t => (h, 0x12b, ⟨t ++ (0#4), 0, 0, 0⟩)
  | .mwload h t => (h, 0x12c, ⟨0, t ++ (0#4), 0, 0⟩)
  | .mwloadSm h t b => (h, 0x12d, ⟨0, t ++ (0#4), b.code, 0⟩)
  | .mzero h acc => (h, 0x12e, ⟨acc.setWidth 8, 0, 0, 0⟩)
  | .mflags h d clr => (h, 0x12f, ⟨d.code, 0, 0, (bit1 clr).setWidth 8⟩)
  | .mmacI8 h acc t rp cpn cpk z c => (h, 0x130, ⟨acc.setWidth 8, t ++ rp ++ (0#2), cpn ++ cpk ++ bit1 z ++ (0#3), c.code⟩)
  | .mmacF8 h acc t rp cpn cpk z c => (h, 0x131, ⟨acc.setWidth 8, t ++ rp ++ (0#2), cpn ++ cpk ++ bit1 z ++ (0#3), c.code⟩)
  | .mmacF4 h acc t rp cpn cpk z c => (h, 0x132, ⟨acc.setWidth 8, t ++ rp ++ (0#2), cpn ++ cpk ++ bit1 z ++ (0#3), c.code⟩)
  | .mmacBf16 h acc t rp cpn cpk z c => (h, 0x133, ⟨acc.setWidth 8, t ++ rp ++ (0#2), cpn ++ cpk ++ bit1 z ++ (0#3), c.code⟩)
  | .mmacF16 h acc t rp cpn cpk z c => (h, 0x134, ⟨acc.setWidth 8, t ++ rp ++ (0#2), cpn ++ cpk ++ bit1 z ++ (0#3), c.code⟩)
  | .mmacX3 h acc t rp cpn cpk z c => (h, 0x135, ⟨acc.setWidth 8, t ++ rp ++ (0#2), cpn ++ cpk ++ bit1 z ++ (0#3), c.code⟩)
  | .mmacMx h acc t rp cpn cpk z c => (h, 0x136, ⟨acc.setWidth 8, t ++ rp ++ (0#2), cpn ++ cpk ++ bit1 z ++ (0#3), c.code⟩)
  | .mstore h t acc rp cp => (h, 0x138, ⟨t ++ (0#4), acc.setWidth 8, rp ++ cp ++ (0#4), 0⟩)
  | .mload h acc t rp cp => (h, 0x139, ⟨acc.setWidth 8, t ++ (0#4), rp ++ cp ++ (0#4), 0⟩)
  | .mcvt h acc src rp cp c => (h, 0x13a, ⟨acc.setWidth 8, src.setWidth 8, rp ++ cp ++ (0#4), c.code⟩)
  | .mpset h cnt col idx a => (h, 0x13b, ⟨(0#4) ++ bit1 cnt ++ bit1 col ++ idx, a.code, 0, 0⟩)
  | .marrive h bo a => (h, 0x13c, ⟨bo ++ (0#4), a.code, 0, 0⟩)
  | .mswap h => (h, 0x13d, ⟨0, 0, 0, 0⟩)
  | .ldN8 h d a hint => (h, 0x140, ⟨d.code, a.code, 0, hint.byte⟩)
  | .ldI8 h d a hint => (h, 0x141, ⟨d.code, a.code, 0, hint.byte⟩)
  | .ldN16 h d a hint => (h, 0x142, ⟨d.code, a.code, 0, hint.byte⟩)
  | .ldI16 h d a hint => (h, 0x143, ⟨d.code, a.code, 0, hint.byte⟩)
  | .ldB32 h d a hint => (h, 0x144, ⟨d.code, a.code, 0, hint.byte⟩)
  | .ldB64 h d a hint => (h, 0x145, ⟨d.code, a.code, 0, hint.byte⟩)
  | .ldB128 h d a hint => (h, 0x146, ⟨d.code, a.code, 0, hint.byte⟩)
  | .stB8 h a b hint => (h, 0x148, ⟨0, a.code, b.code, hint.byte⟩)
  | .stB16 h a b hint => (h, 0x149, ⟨0, a.code, b.code, hint.byte⟩)
  | .stB32 h a b hint => (h, 0x14a, ⟨0, a.code, b.code, hint.byte⟩)
  | .stB64 h a b hint => (h, 0x14b, ⟨0, a.code, b.code, hint.byte⟩)
  | .stB128 h a b hint => (h, 0x14c, ⟨0, a.code, b.code, hint.byte⟩)
  | .ldsB32 h d a => (h, 0x150, ⟨d.code, a.code, 0, 0⟩)
  | .ldsB64 h d a => (h, 0x151, ⟨d.code, a.code, 0, 0⟩)
  | .stsB32 h a b => (h, 0x152, ⟨0, a.code, b.code, 0⟩)
  | .stsB64 h a b => (h, 0x153, ⟨0, a.code, b.code, 0⟩)
  | .ldlB32 h d a => (h, 0x154, ⟨d.code, a.code, 0, 0⟩)
  | .ldlB64 h d a => (h, 0x155, ⟨d.code, a.code, 0, 0⟩)
  | .stlB32 h a b => (h, 0x156, ⟨0, a.code, b.code, 0⟩)
  | .stlB64 h a b => (h, 0x157, ⟨0, a.code, b.code, 0⟩)
  | .atomAddI32 h d a b sc => (h, 0x158, ⟨d.code, a.code, b.code, sc.byte⟩)
  | .atomMinI32 h d a b sc => (h, 0x159, ⟨d.code, a.code, b.code, sc.byte⟩)
  | .atomMaxI32 h d a b sc => (h, 0x15a, ⟨d.code, a.code, b.code, sc.byte⟩)
  | .atomAndB32 h d a b sc => (h, 0x15b, ⟨d.code, a.code, b.code, sc.byte⟩)
  | .atomOrB32 h d a b sc => (h, 0x15c, ⟨d.code, a.code, b.code, sc.byte⟩)
  | .atomXorB32 h d a b sc => (h, 0x15d, ⟨d.code, a.code, b.code, sc.byte⟩)
  | .atomExchB32 h d a b sc => (h, 0x15e, ⟨d.code, a.code, b.code, sc.byte⟩)
  | .atomCasB32 h d a b sc => (h, 0x15f, ⟨d.code, a.code, b.code, sc.byte⟩)
  | .atomAddF32 h d a b sc => (h, 0x16e, ⟨d.code, a.code, b.code, sc.byte⟩)
  | .aredAddI32 h a b sc => (h, 0x160, ⟨0, a.code, b.code, sc.byte⟩)
  | .aredAddF32 h a b sc => (h, 0x161, ⟨0, a.code, b.code, sc.byte⟩)
  | .aredMinI32 h a b sc => (h, 0x162, ⟨0, a.code, b.code, sc.byte⟩)
  | .aredMaxI32 h a b sc => (h, 0x163, ⟨0, a.code, b.code, sc.byte⟩)
  | .aredAndB32 h a b sc => (h, 0x164, ⟨0, a.code, b.code, sc.byte⟩)
  | .aredOrB32 h a b sc => (h, 0x165, ⟨0, a.code, b.code, sc.byte⟩)
  | .aredXorB32 h a b sc => (h, 0x166, ⟨0, a.code, b.code, sc.byte⟩)
  | .aredAddI64 h a b sc => (h, 0x167, ⟨0, a.code, b.code, sc.byte⟩)
  | .ldrB32 h d a sc => (h, 0x168, ⟨d.code, a.code, 0, sc.byte⟩)
  | .stcB32 h d a b sc => (h, 0x169, ⟨d.code, a.code, b.code, sc.byte⟩)
  | .fence h sc => (h, 0x16a, ⟨0, 0, 0, sc.byte⟩)
  | .prefetch h a hint => (h, 0x16b, ⟨0, a.code, 0, hint.byte⟩)
  | .cwback h a hint => (h, 0x16c, ⟨0, a.code, 0, hint.byte⟩)
  | .cinval h a hint => (h, 0x16d, ⟨0, a.code, 0, hint.byte⟩)
  | .xgather h bo cnt a b slot mw => (h, 0x170, ⟨bo ++ cnt, a.code, b.code, slot ++ bit1 mw ++ (0#2)⟩)
  | .xgatherSum h bo cnt a b slot mw => (h, 0x171, ⟨bo ++ cnt, a.code, b.code, slot ++ bit1 mw ++ (0#2)⟩)
  | .xgatherMax h bo cnt a b slot mw => (h, 0x172, ⟨bo ++ cnt, a.code, b.code, slot ++ bit1 mw ++ (0#2)⟩)
  | .xgatherMean h bo cnt a b slot mw => (h, 0x178, ⟨bo ++ cnt, a.code, b.code, slot ++ bit1 mw ++ (0#2)⟩)
  | .xscadd h bo cnt a b slot mw => (h, 0x173, ⟨bo ++ cnt, a.code, b.code, slot ++ bit1 mw ++ (0#2)⟩)
  | .xscmax h bo cnt a b slot mw => (h, 0x179, ⟨bo ++ cnt, a.code, b.code, slot ++ bit1 mw ++ (0#2)⟩)
  | .xscore h bo cnt a b slot mw => (h, 0x174, ⟨bo ++ cnt, a.code, b.code, slot ++ bit1 mw ++ (0#2)⟩)
  | .xqload h d a slot => (h, 0x175, ⟨d.code, a.code, 0, slot ++ (0#3)⟩)
  | .xqfree h a => (h, 0x17b, ⟨0, a.code, 0, 0⟩)
  | .xstat h d clr => (h, 0x176, ⟨d.code, 0, 0, (bit1 clr).setWidth 8⟩)
  | .xmask h p k => (h, 0x17a, ⟨p.setWidth 8, 0, 0, k.setWidth 8⟩)
  | .xwait h k => (h, 0x177, ⟨0, 0, 0, k.setWidth 8⟩)
  | .acopyIn h tag a b bo bv ch => (h, 0x180, ⟨tag.setWidth 8, a.code, b.code, bo ++ bit1 bv ++ ch ++ (0#1)⟩)
  | .acopyOut h tag a b bo bv ch => (h, 0x181, ⟨tag.setWidth 8, a.code, b.code, bo ++ bit1 bv ++ ch ++ (0#1)⟩)
  | .tagwaitAny h a => (h, 0x182, ⟨0, a.code, 0, 0⟩)
  | .tagwaitAll h a => (h, 0x183, ⟨0, a.code, 0, 0⟩)
  | .tagffr h d a => (h, 0x184, ⟨d.code, a.code, 0, 0⟩)
  | .tagclr h a => (h, 0x185, ⟨0, a.code, 0, 0⟩)
  | .hfetch h d a slot form => (h, 0x186, ⟨d.code, a.code, 0, slot ++ form ++ (0#1)⟩)
  | .hfetchPf h a slot form => (h, 0x187, ⟨0, a.code, 0, slot ++ form ++ (0#1)⟩)
  | .rowscan h ht ind a b hs => (h, 0x188, ⟨ht ++ bit1 ind ++ (0#2), a.code, b.code, hs ++ (0#3)⟩)
  | .fibld h d a slot form => (h, 0x189, ⟨d.code, a.code, 0, slot ++ form ++ (0#1)⟩)
  | .fibinv h slot fc => (h, 0x18a, ⟨0, 0, 0, slot ++ bit1 fc ++ (0#2)⟩)
  | .dmaCopy h d a b c => (h, 0x18b, ⟨d.code, a.code, b.code, c.code⟩)
  | .dmaFill h d a b c => (h, 0x18c, ⟨d.code, a.code, b.code, c.code⟩)
  | .dmaStat h d a => (h, 0x18d, ⟨d.code, a.code, 0, 0⟩)
  | .mdld h d a slot => (h, 0x18e, ⟨d.code, a.code, 0, slot ++ (0#3)⟩)
  | .launch h d a => (h, 0x190, ⟨d.code, a.code, 0, 0⟩)
  | .launchRec h d a => (h, 0x191, ⟨d.code, a.code, 0, 0⟩)
  | .grow h d a => (h, 0x192, ⟨d.code, a.code, 0, 0⟩)
  | .vpoint h k => (h, 0x193, ⟨0, k.extractLsb' 0 8, (k.extractLsb' 8 2).setWidth 8, 0⟩)
  | .exit h => (h, 0x194, ⟨0, 0, 0, 0⟩)
  | .bar h s => (h, 0x195, ⟨0, 0, 0, (bit1 s).setWidth 8⟩)
  | .gbar h => (h, 0x196, ⟨0, 0, 0, 0⟩)
  | .mbar h k => (h, 0x197, ⟨0, k.setWidth 8, 0, 0⟩)
  | .mjoin h k => (h, 0x198, ⟨0, k.setWidth 8, 0, 0⟩)
  | .mleave h k => (h, 0x199, ⟨0, k.setWidth 8, 0, 0⟩)
  | .dqpush h a => (h, 0x19a, ⟨0, a.code, 0, 0⟩)
  | .dqpop h d => (h, 0x19b, ⟨d.code, 0, 0, 0⟩)
  | .barinit h bo a => (h, 0x19c, ⟨bo ++ (0#4), a.code, 0, 0⟩)
  | .barwait h bo a => (h, 0x19d, ⟨bo ++ (0#4), a.code, 0, 0⟩)
  | .bararr h bo => (h, 0x19e, ⟨bo ++ (0#4), 0, 0, 0⟩)
  | .br h ofs => (h, 0x1a0, ⟨0, ofs.extractLsb' 0 8, ofs.extractLsb' 8 8, ofs.extractLsb' 16 8⟩)
  | .brc h sense c ofs => (h, 0x1a1, ⟨bit1 sense ++ (0#1) ++ c, ofs.extractLsb' 0 8, ofs.extractLsb' 8 8, ofs.extractLsb' 16 8⟩)
  | .brdq h sense ofs => (h, 0x1a2, ⟨bit1 sense ++ (0#7), ofs.extractLsb' 0 8, ofs.extractLsb' 8 8, ofs.extractLsb' 16 8⟩)
  | .brzm h pm p ofs => (h, 0x1a3, ⟨(0#3) ++ pm ++ p, ofs.extractLsb' 0 8, ofs.extractLsb' 8 8, ofs.extractLsb' 16 8⟩)
  | .split h p t u => (h, 0x1a4, ⟨p.setWidth 8, t.extractLsb' 0 8, u.extractLsb' 0 4 ++ t.extractLsb' 8 4, u.extractLsb' 4 8⟩)
  | .join h => (h, 0x1a5, ⟨0, 0, 0, 0⟩)
  | .call h ofs => (h, 0x1a6, ⟨0, ofs.extractLsb' 0 8, ofs.extractLsb' 8 8, ofs.extractLsb' 16 8⟩)
  | .ret h => (h, 0x1a7, ⟨0, 0, 0, 0⟩)
  | .jmpi h a => (h, 0x1a8, ⟨0, a.code, 0, 0⟩)
  | .calli h a => (h, 0x1a9, ⟨0, a.code, 0, 0⟩)
  | .emsave h d => (h, 0x1aa, ⟨d.code, 0, 0, 0⟩)
  | .emrest h a => (h, 0x1ab, ⟨0, a.code, 0, 0⟩)
  | .emand h pm p => (h, 0x1ac, ⟨0, (0#3) ++ pm ++ p, 0, 0⟩)
  | .trap h k => (h, 0x1b0, ⟨0, k, 0, 0⟩)
  | .rdst h d num => (h, 0x1b1, ⟨d.code, num, 0, 0⟩)
  | .wrst h num b => (h, 0x1b2, ⟨0, num, b.code, 0⟩)
  | .rdlfsr h d => (h, 0x1b3, ⟨d.code, 0, 0, 0⟩)
  | .brk h k => (h, 0x1b4, ⟨0, k, 0, 0⟩)
  | .rdclk h d => (h, 0x1b5, ⟨d.code, 0, 0, 0⟩)
  | .waitImmediate h k => (h, 0x1b6, ⟨0, 0, k.extractLsb' 0 8, k.extractLsb' 8 8⟩)
  | .waitRegister h a => (h, 0x1b6, ⟨1, a.code, 0, 0⟩)

/-- The fields of a 32-bit word: DIST code, SRCB, SRCA, DST and OP7 (02 R38). -/
def FormLo.short (x : FormLo) : Option (BitVec 2 × BitVec 7 × BitVec 7 × BitVec 7 × BitVec 7) :=
  match x with
  | .addI32W32 dist d a b => some (dist, code7 b.code, code7 a.code, code7 d.code, 0x00)
  | .subI32W32 dist d a b => some (dist, code7 b.code, code7 a.code, code7 d.code, 0x01)
  | .addSatI32W32 dist d a b => some (dist, code7 b.code, code7 a.code, code7 d.code, 0x02)
  | .subSatI32W32 dist d a b => some (dist, code7 b.code, code7 a.code, code7 d.code, 0x03)
  | .addSatN32W32 dist d a b => some (dist, code7 b.code, code7 a.code, code7 d.code, 0x04)
  | .subSatN32W32 dist d a b => some (dist, code7 b.code, code7 a.code, code7 d.code, 0x05)
  | .addI16W32 dist d a b => some (dist, code7 b.code, code7 a.code, code7 d.code, 0x06)
  | .subI16W32 dist d a b => some (dist, code7 b.code, code7 a.code, code7 d.code, 0x07)
  | .mulI32W32 dist d a b => some (dist, code7 b.code, code7 a.code, code7 d.code, 0x08)
  | .mulhiI32W32 dist d a b => some (dist, code7 b.code, code7 a.code, code7 d.code, 0x09)
  | .mulhiN32W32 dist d a b => some (dist, code7 b.code, code7 a.code, code7 d.code, 0x0a)
  | .mulSatI32W32 dist d a b => some (dist, code7 b.code, code7 a.code, code7 d.code, 0x0b)
  | .mulI16W32 dist d a b => some (dist, code7 b.code, code7 a.code, code7 d.code, 0x0c)
  | .andB32W32 dist d a b => some (dist, code7 b.code, code7 a.code, code7 d.code, 0x10)
  | .orB32W32 dist d a b => some (dist, code7 b.code, code7 a.code, code7 d.code, 0x11)
  | .xorB32W32 dist d a b => some (dist, code7 b.code, code7 a.code, code7 d.code, 0x12)
  | .andnB32W32 dist d a b => some (dist, code7 b.code, code7 a.code, code7 d.code, 0x13)
  | .ornB32W32 dist d a b => some (dist, code7 b.code, code7 a.code, code7 d.code, 0x14)
  | .xnorB32W32 dist d a b => some (dist, code7 b.code, code7 a.code, code7 d.code, 0x15)
  | .shlB32W32 dist d a b => some (dist, code7 b.code, code7 a.code, code7 d.code, 0x18)
  | .shrN32W32 dist d a b => some (dist, code7 b.code, code7 a.code, code7 d.code, 0x19)
  | .shrI32W32 dist d a b => some (dist, code7 b.code, code7 a.code, code7 d.code, 0x1a)
  | .rotlB32W32 dist d a b => some (dist, code7 b.code, code7 a.code, code7 d.code, 0x1b)
  | .rotrB32W32 dist d a b => some (dist, code7 b.code, code7 a.code, code7 d.code, 0x1c)
  | .minI32W32 dist d a b => some (dist, code7 b.code, code7 a.code, code7 d.code, 0x20)
  | .maxI32W32 dist d a b => some (dist, code7 b.code, code7 a.code, code7 d.code, 0x21)
  | .minN32W32 dist d a b => some (dist, code7 b.code, code7 a.code, code7 d.code, 0x22)
  | .maxN32W32 dist d a b => some (dist, code7 b.code, code7 a.code, code7 d.code, 0x23)
  | .adifI32W32 dist d a b => some (dist, code7 b.code, code7 a.code, code7 d.code, 0x24)
  | .adifN32W32 dist d a b => some (dist, code7 b.code, code7 a.code, code7 d.code, 0x25)
  | .bfextN32W32 dist d a b => some (dist, code7 b.code, code7 a.code, code7 d.code, 0x28)
  | .bfextI32W32 dist d a b => some (dist, code7 b.code, code7 a.code, code7 d.code, 0x29)
  | .bfinsB32W32 dist d a b => some (dist, code7 b.code, code7 a.code, code7 d.code, 0x2a)
  | .popcB32W32 dist d a => some (dist, 0, code7 a.code, code7 d.code, 0x2b)
  | .clzB32W32 dist d a => some (dist, 0, code7 a.code, code7 d.code, 0x2c)
  | .brevB32W32 dist d a => some (dist, 0, code7 a.code, code7 d.code, 0x2d)
  | .addI64W32 dist d a b => some (dist, code7 b.code, code7 a.code, code7 d.code, 0x2e)
  | .subI64W32 dist d a b => some (dist, code7 b.code, code7 a.code, code7 d.code, 0x2f)
  | .addF32W32 dist rnd d a b => some (dist, code7 b.code, code7 a.code, code7 d.code, BitVec.ofNat 7 (0x30 + rnd.toNat))
  | .subF32W32 dist rnd d a b => some (dist, code7 b.code, code7 a.code, code7 d.code, BitVec.ofNat 7 (0x34 + rnd.toNat))
  | .mulF32W32 dist rnd d a b => some (dist, code7 b.code, code7 a.code, code7 d.code, BitVec.ofNat 7 (0x38 + rnd.toNat))
  | .addF16W32 dist rnd d a b => some (dist, code7 b.code, code7 a.code, code7 d.code, BitVec.ofNat 7 (0x40 + rnd.toNat))
  | .subF16W32 dist rnd d a b => some (dist, code7 b.code, code7 a.code, code7 d.code, BitVec.ofNat 7 (0x44 + rnd.toNat))
  | .addBf16W32 dist rnd d a b => some (dist, code7 b.code, code7 a.code, code7 d.code, BitVec.ofNat 7 (0x48 + rnd.toNat))
  | .subBf16W32 dist rnd d a b => some (dist, code7 b.code, code7 a.code, code7 d.code, BitVec.ofNat 7 (0x4c + rnd.toNat))
  | .mulF16W32 dist rnd d a b => some (dist, code7 b.code, code7 a.code, code7 d.code, BitVec.ofNat 7 (0x50 + rnd.toNat))
  | .mulBf16W32 dist rnd d a b => some (dist, code7 b.code, code7 a.code, code7 d.code, BitVec.ofNat 7 (0x54 + rnd.toNat))
  | .minF32W32 dist d a b => some (dist, code7 b.code, code7 a.code, code7 d.code, 0x58)
  | .maxF32W32 dist d a b => some (dist, code7 b.code, code7 a.code, code7 d.code, 0x59)
  | .minF16W32 dist d a b => some (dist, code7 b.code, code7 a.code, code7 d.code, 0x5a)
  | .maxF16W32 dist d a b => some (dist, code7 b.code, code7 a.code, code7 d.code, 0x5b)
  | .minBf16W32 dist d a b => some (dist, code7 b.code, code7 a.code, code7 d.code, 0x5c)
  | .maxBf16W32 dist d a b => some (dist, code7 b.code, code7 a.code, code7 d.code, 0x5d)
  | .minF64W32 dist d a b => some (dist, code7 b.code, code7 a.code, code7 d.code, 0x5e)
  | .maxF64W32 dist d a b => some (dist, code7 b.code, code7 a.code, code7 d.code, 0x5f)
  | .addF64W32 dist rnd d a b => some (dist, code7 b.code, code7 a.code, code7 d.code, BitVec.ofNat 7 (0x60 + rnd.toNat))
  | .subF64W32 dist rnd d a b => some (dist, code7 b.code, code7 a.code, code7 d.code, BitVec.ofNat 7 (0x64 + rnd.toNat))
  | .mulF64W32 dist rnd d a b => some (dist, code7 b.code, code7 a.code, code7 d.code, BitVec.ofNat 7 (0x68 + rnd.toNat))
  | .lxchSelB32W32 dist d a b => some (dist, code7 b.code, code7 a.code, code7 d.code, 0x70)
  | .lxchLoB32W32 dist d a b => some (dist, code7 b.code, code7 a.code, code7 d.code, 0x71)
  | .lxchHiB32W32 dist d a b => some (dist, code7 b.code, code7 a.code, code7 d.code, 0x72)
  | .lxchFlipB32W32 dist d a b => some (dist, code7 b.code, code7 a.code, code7 d.code, 0x73)
  | .movB32W32 dist d b => some (dist, code7 b.code, 0, code7 d.code, 0x78)
  | .movXaB32W32 dist d a => some (dist, 0, BitVec.ofNat 7 a, code7 d.code, 0x79)
  | .movXdB32W32 dist d b => some (dist, code7 b.code, 0, BitVec.ofNat 7 d, 0x7a)
  | .movXadB32W32 dist d a => some (dist, 0, BitVec.ofNat 7 a, BitVec.ofNat 7 d, 0x7b)
  | .packB16W32 dist d a b => some (dist, code7 b.code, code7 a.code, code7 d.code, 0x7c)
  | _ => none

/-- The fields of a compact word: operation, register of bits [11:7], register of bits [6:2]
(02 R39). -/
def FormLo.compact (x : FormLo) : Option (BitVec 4 × BitVec 5 × BitVec 5) :=
  match x with
  | .addI32C16 d b => some (1, d.code.setWidth 5, b.code.setWidth 5)
  | .subI32C16 d b => some (2, d.code.setWidth 5, b.code.setWidth 5)
  | .andB32C16 d b => some (3, d.code.setWidth 5, b.code.setWidth 5)
  | .orB32C16 d b => some (4, d.code.setWidth 5, b.code.setWidth 5)
  | .xorB32C16 d b => some (5, d.code.setWidth 5, b.code.setWidth 5)
  | .shlB32C16 d b => some (6, d.code.setWidth 5, b.code.setWidth 5)
  | .shrN32C16 d b => some (7, d.code.setWidth 5, b.code.setWidth 5)
  | .minI32C16 d b => some (8, d.code.setWidth 5, b.code.setWidth 5)
  | .maxI32C16 d b => some (9, d.code.setWidth 5, b.code.setWidth 5)
  | .addF32C16 d b => some (10, d.code.setWidth 5, b.code.setWidth 5)
  | .subF32C16 d b => some (11, d.code.setWidth 5, b.code.setWidth 5)
  | .mulF32C16 d b => some (12, d.code.setWidth 5, b.code.setWidth 5)
  | .minF32C16 d b => some (13, d.code.setWidth 5, b.code.setWidth 5)
  | .maxF32C16 d b => some (14, d.code.setWidth 5, b.code.setWidth 5)
  | .movB32C16 d b => some (15, d.code.setWidth 5, b.code.setWidth 5)
  | _ => none

/-- A word of a stream. -/
inductive EncWord where
  | w16 (w : BitVec 16)
  | w32 (w : BitVec 32)
  /-- with its cue nibble -/
  | w64 (w : DWord) (cue : BitVec 4)
deriving DecidableEq, Repr

/-- The word of a 64-bit form. -/
def pointWord (p : Hdr × Nat × Fld) : EncWord := .w64 (p.2.2.toRaw p.1 p.2.1).toWord p.1.cue

/-- The bits of a form. -/
def FormLo.encode (x : FormLo) : EncWord :=
  match x.point with
  | some p => pointWord p
  | none =>
    match x.short with
    | some (t, b, a, d, op) => .w32 (t ++ b ++ a ++ d ++ op ++ (1#2) : BitVec 32)
    | none =>
      match x.compact with
      | some (op, d, b) => .w16 (op ++ d ++ b ++ (0#2) : BitVec 16)
      | none =>
        match x with
        | .dictionaryReference t n => .w16 ((0#1) ++ t ++ n ++ (2#2) : BitVec 16)
        | _ => .w16 0

/-- The bits of a form. -/
def Form.encode (x : Form) : EncWord :=
  match x with
  | .lo x => x.encode
  | .hi x => pointWord x.point

/-- The word of an instruction in its own form; an event has none. -/
def encode (i : Instr) : Option EncWord := i.form.map Form.encode

/-- The form of a word (the inverse of Form.encode on well-formed words). -/
def decodeEnc (st : Stream) (e : EncWord) : Option Form :=
  match e with
  | .w16 w =>
    match decode16 st w with
    | .ok x => some x
    | .error _ => none
  | .w32 w => decode32 st w
  | .w64 w cue => decode64 st w cue

/-- The header of a 32-bit word: DIST codes 0 to 3 are distances 0, 1, 2 and 4; unpredicated, no WAIT,
no cue (02 R38). -/
def hdr32 (t : BitVec 2) : Hdr :=
  ⟨0, if t = 3 then 4 else t.setWidth 3, 0, 7, false, 15⟩

/-- The header of a compact word (02 R39). -/
def hdr16 : Hdr := ⟨0, 1, 0, 7, false, 15⟩

/-- The header of a word (02 R34, R38, R39). -/
def Form.hdr (x : Form) : Hdr :=
  match x with
  | .hi x => x.point.1
  | .lo x =>
    match x.point with
    | some p => p.1
    | none =>
      match x.short with
      | some t => hdr32 t.1
      | none => hdr16

/-- The bytes of a table word: nbits of w, then zeros up to the longest word (64 bits). -/
def tableBytes (nbits w : Nat) : List Byte := leBytes 8 (w % 2 ^ nbits)

noncomputable section

/-- The instruction of a word's bits in a stream. -/
def decodeInstr (st : Stream) (e : EncWord) : Option Instr := (decodeEnc st e).map Form.toInstr

/-- The instruction that the decoder reads from the bits of an opcode-table row, laid out as the
hardware stores them at offset 0 of a stream with cue nibble 15: in the lane stream, or in the uniform
stream where the lane stream has no such word. -/
def decodeTableWord (nbits w : Nat) : Option Instr :=
  match decode .lane 0 (tableBytes nbits w) 15 with
  | .ok (x, _) => some x.toInstr
  | .error _ =>
    match decode .uniform 0 (tableBytes nbits w) 15 with
    | .ok (x, _) => some x.toInstr
    | .error _ => none

end

end Sys2Proof
end

