-- ==== Sys2Proof/Machine/Ops.lean ====
section
/-!
DEFINITION. The named operations on the state: access to groups, waves, splits and cores; fault
records (16 R365, R366); taking a trap and ending a task (16 R361, R362), a forced reset (R372) and the
return of a group to its last commit point; the frame around the issue of an instruction (15 R349 to
R353).
-/

namespace Sys2Proof.Machine

/-- A step's outcome. -/
abbrev Out := Host.Outcome State Fault Refusal

/-- An event that cannot happen in this state does not: nothing changes. -/
abbrev notNow (s : State) : Out := .next s

/-- Why an instruction does not complete at its issue. va is a fault's address; lane the first
faulting lane or slot. -/
inductive Stop where
  /-- a trap with a cause of 16 R360; va none when the cause has no address -/
  | trap (cause : Nat) (va : Option Nat) (aux : Nat)
  /-- the instruction is not issued in this clk: a condition of its own does not hold (R353) -/
  | hold
  /-- as hold: its write has no room in its pool of versions (12 R298) -/
  | stall
  /-- it waits on another agent: as hold, and a pin of its split ends (07 R184) -/
  | await
  /-- a not-present page: the agent parks (R364) -/
  | park (va lane : Nat)
deriving DecidableEq, Repr

/-- A trap with no address. -/
def tr (cause : Nat) : Stop := .trap cause none 0

-- The causes of 16 R360.
def cNotPresent : Nat := 0x01
def cProtection : Nat := 0x02
def cMalformed : Nat := 0x03
def cDark : Nat := 0x04
def cNonCanonical : Nat := 0x05
def cAlias : Nat := 0x06
def cIndex : Nat := 0x07
def cShard : Nat := 0x08
def cNoReply : Nat := 0x09
def cEncoding : Nat := 0x10
def cBounds : Nat := 0x11
def cValue : Nat := 0x12
def cHandle : Nat := 0x13
def cSpad : Nat := 0x14
def cBag : Nat := 0x15
def cQuery : Nat := 0x16
def cFetch : Nat := 0x17
def cSparse : Nat := 0x18
def cMatrix : Nat := 0x19
def cInterval : Nat := 0x1a
def cLatch : Nat := 0x1b
def cQueue : Nat := 0x1c
def cBarrier : Nat := 0x20
def cGrid : Nat := 0x21
def cCommit : Nat := 0x22
def cCall : Nat := 0x23
def cReconv : Nat := 0x24
def cTrap : Nat := 0x28
def cBreak : Nat := 0x29
def cUncorrectable : Nat := 0x30
def cRedundancy : Nat := 0x31
def cContext : Nat := 0x32
def cForced : Nat := 0x38
def cCut : Nat := 0x39

/-- A condition that must hold. -/
def need (b : Bool) (st : Stop) : Except Stop Unit := if b then .ok () else .error st

/-- A grid as events and waiting lists name it: its context and identifier in one number. -/
def gridKey (ctx id : Nat) : Nat := ctx * 2 ^ 32 + id

/-- Insert a number in rising order, once. -/
def insertNat (x : Nat) : List Nat → List Nat
  | [] => [x]
  | y :: t => if x < y then x :: y :: t else if x = y then y :: t else y :: insertNat x t

-- Access --------------------------------------------------------------------------------------

/-- The core of group place g (13 R307: 64 group slots per core). -/
def coreOf (g : Nat) : Nat := g / 64
/-- The C-die of a core (01 R17). -/
def dieOfCore (c : Nat) : Nat := c / 256
/-- The cluster of a core, numbered over the module (01 R17). -/
def clusterOf (c : Nat) : Nat := c / 8
/-- The quarter of wave w (07 R171). -/
def quarterOf (w : Nat) : Nat := w % 4

def State.grp (s : State) (g : Nat) : Option Group := SMap.get? g s.groups
def State.modGrp (s : State) (g : Nat) (f : Group → Group) : State :=
  { s with groups := SMap.mod g f s.groups }
def State.core (s : State) (c : Nat) : Core := SMap.getD s.cores c Core.empty
def State.modCore (s : State) (c : Nat) (f : Core → Core) : State :=
  { s with cores := SMap.modD c Core.empty f s.cores }
def State.cluster (s : State) (c : Nat) : Cluster := SMap.getD s.clusters c Cluster.empty
def State.modCluster (s : State) (c : Nat) (f : Cluster → Cluster) : State :=
  { s with clusters := SMap.modD c Cluster.empty f s.clusters }
def State.die (s : State) (d : Nat) : Die := SMap.getD s.dies d Die.empty
def State.modDie (s : State) (d : Nat) (f : Die → Die) : State :=
  { s with dies := SMap.modD d Die.empty f s.dies }
def State.context (s : State) (c : Nat) : Option Ctx := SMap.get? c s.ctxs
def State.grid (s : State) (i : Nat) (c : Nat) : Option Grid :=
  s.grids.find? fun x => x.id == i && x.ctx == c
def State.modGrid (s : State) (i c : Nat) (f : Grid → Grid) : State :=
  { s with grids := s.grids.map fun x => if x.id == i && x.ctx == c then f x else x }
def State.modWave (s : State) (g w : Nat) (f : Wave → Wave) : State :=
  s.modGrp g fun gr => { gr with waves := updAt gr.waves w f }
def State.modSplit (s : State) (g w sp : Nat) (f : Split → Split) : State :=
  s.modWave g w fun wv => { wv with splits := updAt wv.splits sp f }
def State.modSeq (s : State) (g : Nat) (f : Seq → Seq) : State :=
  s.modGrp g fun gr => { gr with seq := f gr.seq }
def State.quarter (s : State) (c q : Nat) : Quarter := (s.core c).quarters.getD q Quarter.empty
def State.modQuarter (s : State) (c q : Nat) (f : Quarter → Quarter) : State :=
  s.modCore c fun k => { k with quarters := updAt k.quarters q f }

/-- A split that is not in use. -/
def Split.blank : Split :=
  ⟨false, 0, 0, 0, 0, [], .none, [none, none, none], none, 0, false, none, none⟩

/-- A split with every lane, at a stream offset (13 R310, 14 R334). -/
def Split.start (pc : Nat) : Split :=
  ⟨true, pc, BitVec.allOnes 32, BitVec.allOnes 32, 0, [], .none, [none, none, none], none, 0, true, none, none⟩

/-- A wave that holds nothing (13 R310 but for W0 to W3 and the LFSR). -/
def Wave.blank : Wave where
  live := false
  halted := false
  rb := 0
  place := 0
  v := []
  w := List.replicate 16 0
  p := List.replicate 7 ⟨0, 0⟩
  lpriv := []
  xi := 0
  fst := 0
  ivst := 0
  xstat := 0
  vmask := 0
  lfsr := 1
  flags := List.replicate 12 0
  hst := 0
  abn := none
  loss := 0
  promoted := false
  splits := [Split.start 0, Split.blank, Split.blank, Split.blank]
  cur := 0
  turn := 0
  ldrWin := 0
  pend := []
  parked := none
  parkAux := 0
  held := false
  savedLatch := []
  brkDue := none
  dqPos := 0
  qPos := List.replicate 8 0

/-- A sequencer at the start of its stream. -/
def Seq.blank : Seq where
  live := true
  halted := false
  g := List.replicate 64 0
  pc := 0
  flags := List.replicate 12 0
  rstack := []
  hst := 0
  abn := none
  blk := .none
  lastIssue := none
  readyAt := 0
  fresh := true
  heldAt := none
  stallAt := none
  pend := []
  parked := none
  parkAux := 0
  held := false

/-- A fresh identifier for an operation in flight. -/
def State.newId (s : State) : State := { s with nextId := s.nextId + 1 }

/-- The next free value (log entry 6). -/
def State.freeVal (s : State) : DWord := Config.freeWord s.free
def State.drawn (s : State) : State := { s with free := s.free + 1 }

/-- The counters of a core that has counted nothing (16 R370). -/
def Counters.zero : Counters := ⟨[], [], 0, 0⟩

/-- A read of a core's store, in which a single-bit error may be corrected, written back and counted (07 R169): whether one
is corrected is a free value (log entry 20). -/
def State.storeRead (s : State) (core : Nat) : State :=
  let one := fun (c : Counters) => if bit s.freeVal 0 then { c with soft := c.soft + 1 } else c
  { s.drawn with pkg := { s.pkg with counters := SMap.modD core Counters.zero one s.pkg.counters } }

/-- The waves of a group that are live, as a mask. -/
def Group.liveMask (gr : Group) : BitVec 32 :=
  mkMask fun w => match gr.waves[w]? with | some wv => wv.live | none => false

/-- The splits of a wave that are live, rising. -/
def Wave.liveSplits (wv : Wave) : List Nat :=
  (List.range 4).filter fun i => match wv.splits[i]? with | some sp => sp.live | none => false

/-- The variant's numbers as R59 gives them. -/
def Group.rl (gr : Group) : Nat := gr.va.rl

-- Fault records -------------------------------------------------------------------------------

/-- The report of an agent of a group (16 R365). -/
def Group.report (gr : Group) (g : Nat) (cause : Nat) (flags : BitVec 8) (pc : Nat) (uni : Bool)
    (va : Option Nat) (aux : Nat) (places : List Nat) : FRec where
  cause := cause
  flags := if uni then flags ||| 0x10 else flags
  ctx := gr.ctx
  core := coreOf g
  merged := 1
  grid := gr.grid
  group := gr.index
  ordinal := gr.ordinal
  pc := pc
  uni := uni
  va := va.getD 0
  hasVa := va.isSome
  aux := aux
  places := places

/-- A report of an agent outside any core: ENG set, core number 0xffff (16 R366). -/
def engReport (ctx cause : Nat) (flags : BitVec 8) (grid group : Nat) (va : Option Nat) (aux : Nat) :
    FRec :=
  ⟨cause, flags ||| 0x20, ctx, 0xffff, 1, grid, group, 0, 0, false, va.getD 0, va.isSome, aux, []⟩

/-- The coalescer of X-die k, and of the S-die; a core's has the core's number. -/
def unitX (k : Nat) : Nat := 4096 + k
def unitS : Nat := 4098

/-- Whether a report joins an open record (16 R366). -/
def FRec.joins (r o : FRec) : Bool :=
  r.ctx == o.ctx && r.cause == o.cause && r.hasVa == o.hasVa
    && (if r.hasVa then r.va / 65536 == o.va / 65536 else r.pc == o.pc && r.uni == o.uni)
    && (r.cause == 1 || (r.grid == o.grid && r.group == o.group))

/-- A record with a report joined to it. STORE stands only where RECOV is clear: a record that bears both kinds of report
bears RECOV (16 R365; log entry 77). -/
def FRec.join (o r : FRec) : FRec :=
  let fl := o.flags ||| r.flags
  { o with merged := min 0xffff (o.merged + 1),
           flags := if bit fl 0 then fl &&& ~~~0x02 else fl,
           places := o.places ++ r.places.filter fun p => !o.places.contains p }

/-- The 128 bytes of a record (16 R365). -/
def FRec.bytes (r : FRec) : List Byte :=
  let le := fun (n x : Nat) => (List.range n).map fun k => BitVec.ofNat 8 (x / 256 ^ k)
  le 1 r.cause ++ le 1 r.flags.toNat ++ le 2 (r.ctx % 4096) ++ le 2 r.core ++ le 2 r.merged ++ le 4 r.grid ++ le 4 r.group
    ++ le 4 r.ordinal ++ le 4 (r.pc / 2 * 2 + r.uni.toNat) ++ le 8 r.va ++ le 8 r.aux ++ List.replicate 24 0
    ++ (List.range 64).map fun k => (mkMask fun b => r.places.contains (8 * k + b)).setWidth 8

/-- The fault buffer of a coalescer: a C-die's, an X-die's (16, 17) or the S-die's (18). -/
def bufOf (unit : Nat) : Nat := if unit < 4096 then dieOfCore unit else unit - 4096 + 16

/-- The X-die whose event queue a buffer feeds (16 R366). -/
def Pkg.queueOf (p : Pkg) (buf : Nat) : Nat :=
  let k := if buf < 16 then buf / 8 else if buf = 17 then 1 else 0
  if bit p.livex k then k else 1 - k

def State.fbuf (s : State) (b : Nat) : List (Option Nat × FRec) := SMap.getD s.fbufs b []

/-- The event queue of an X-die has room for a record. -/
def State.queueRoom (s : State) (x : Nat) : Bool := ((s.pkg.xq.getD x ([], 0)).1).length < 1024

/-- A record enters an event queue. -/
def State.enqueue (s : State) (x : Nat) (r : FRec) : State :=
  { s with pkg := { s.pkg with xq := updAt s.pkg.xq x fun q => (q.1 ++ [r], q.2) } }

/-- A closed record enters its die's buffer and is offered to the event queue; one that is refused, or that
has an earlier record of its core before it, stays (16 R366). -/
def State.bufferIn (s : State) (b : Nat) (r : FRec) : State :=
  let x := s.pkg.queueOf b
  if s.queueRoom x && !((s.fbuf b).any fun y => y.2.core == r.core) then s.enqueue x r
  else { s with fbufs := SMap.set b (s.fbuf b ++ [(some s.clk, r)]) s.fbufs }

/-- The buffer that a coalescer's records enter has room (16 R366). -/
def State.bufRoom (s : State) (unit : Nat) : Bool := (s.fbuf (bufOf unit)).length < 64

/-- Closed records go to the buffer while it has room. -/
def State.flush (s : State) (unit : Nat) : List FRec → State × List FRec
  | [] => (s, [])
  | r :: t => if s.bufRoom unit then (s.bufferIn (bufOf unit) r).flush unit t else (s, r :: t)

def State.coal (s : State) (unit : Nat) : Coal := SMap.getD s.coals unit ⟨[], [], []⟩
def State.setCoal (s : State) (unit : Nat) (k : Coal) : State := { s with coals := SMap.set unit k s.coals }

/-- A coalescer takes a report, or does not (16 R366): it joins an open record, or opens one; when 8 are open the oldest
closes first; none opens while the die's buffer is full or closed records wait for it. -/
def State.takeReport (s : State) (unit : Nat) (r : FRec) : State × Bool :=
  let k := s.coal unit
  let fresh := (s.clk, r)
  if k.opn.any fun o => r.joins o.2 then
    (s.setCoal unit { k with opn := k.opn.map fun o => if r.joins o.2 then (o.1, o.2.join r) else o }, true)
  else if !s.bufRoom unit || !k.closed.isEmpty then (s, false)
  else
    match k.opn with
    | o :: t =>
      if k.opn.length < 8 then (s.setCoal unit { k with opn := o :: t ++ [fresh] }, true)
      else (((s.bufferIn (bufOf unit) o.2).setCoal unit { k with opn := t ++ [fresh] }), true)
    | [] => (s.setCoal unit { k with opn := [fresh] }, true)

/-- A report that is not taken waits (16 R366). -/
def State.reportWaits (s : State) (unit : Nat) (r : FRec) : State :=
  let k := s.coal unit
  s.setCoal unit { k with waiting := k.waiting ++ [r] }

/-- Send a report to a coalescer. -/
def State.sendTo (s : State) (unit : Nat) (r : FRec) : State :=
  match s.takeReport unit r with
  | (t, true) => t
  | (t, false) => t.reportWaits unit r

/-- A report of a not-present page in a 64 KiB range of a context waits at a coalescer: its agent stays parked (16 R366). -/
def State.untaken (s : State) (unit ctx page : Nat) : Bool :=
  (s.coal unit).waiting.any fun r => r.cause == cNotPresent && r.ctx == ctx && r.va % 2 ^ 48 / 65536 == page

/-- Send a report of a group. -/
def State.send (s : State) (r : FRec) : State := s.sendTo r.core r

-- Leaving a core ------------------------------------------------------------------------------

/-- The agent is of the group at place g. -/
def agIsOf (g : Nat) : Agent → Bool
  | .split g' _ _ => g' == g
  | .seq g' => g' == g

/-- The owner of accesses whose group has ended: a place where no group ever is. -/
def orphan : Agent := .seq 1048576

def agPlace : Agent → Nat
  | .split g _ _ => g
  | .seq g => g

/-- The same wave, or the same sequencer. -/
def sameWave : Agent → Agent → Bool
  | .split g w _, .split g' w' _ => g == g' && w == w'
  | .seq g, .seq g' => g == g'
  | _, _ => false

/-- The group whose rows and banks a core's entry serves. -/
def IRow.serves (r : IRow) (gr : Group) : Bool :=
  r.ctx == gr.ctx && r.kobj == gr.kobj.va && r.varNo == gr.varNo

def Bank.serves (b : Bank) (gr : Group) : Bool :=
  b.ctx == gr.ctx && b.kobj == gr.kobj.va && b.varNo == gr.varNo

/-- A core gives up what a leaving group held: the leases of its rows (15 R358), its dictionary bank
when no other group of the variant remains (02 R41), its latches (07 R182). -/
def Core.release (k : Core) (g : Nat) (gr : Group) (others : List Group) : Core :=
  { k with
    rows := k.rows.map fun r => match r with
      | some x =>
        if x.serves gr then (if x.leases ≤ 1 then none else some { x with leases := x.leases - 1 })
        else some x
      | none => none
    banks := k.banks.map fun b => match b with
      | some x => if x.serves gr && !(others.any x.serves) then none else some x
      | none => none
    quarters := k.quarters.map fun q =>
      { q with latches := q.latches.map fun l =>
          match l.owner with
          | some (g', _, _) => if g' == g then Latch.empty else l
          | none => match l.resultOf with
            | some (g', _, _) => if g' == g then Latch.empty else l
            | none => l } }

/-- The other groups resident on the core of place g. -/
def State.others (s : State) (g : Nat) : List Group :=
  (s.groups.filter fun x => coreOf x.1 == coreOf g && x.1 != g).map (·.2)

/-- Whether an access of an ended unversioned task that has not been performed is performed later:
performed or not, and not reported (16 R361); decided by a free value. A write that a release has gone past is performed. -/
def keepsAccess (free : Nat) (op : MemOp) : Bool :=
  match op.kind with
  | .st => op.passed.isSome || bit (Config.freeWord free) (op.id % 64)
  | .atom _ ret => !ret && (op.passed.isSome || bit (Config.freeWord free) (op.id % 64))
  | _ => false

/-- A group's accesses in flight (but those kept), replay entries, copies, transport operations, requests and
reservations are discarded (11 R282; 16 R361, R362). -/
def State.discard (s : State) (g : Nat) (keep : MemOp → Bool) (keepReplay : Bool) : State :=
  let left := fun (r : Replay) => if agIsOf g r.ag then { r with ag := orphan, flag := none } else r
  let cut := fun (k : Core) => { k with replay := (k.replay.filter fun r => !agIsOf g r.ag || keepReplay).map left }
  { s with
    cores := SMap.modD (coreOf g) Core.empty cut s.cores
    memops := (s.memops.filter fun op => !(agIsOf g op.ag) || keep op).map fun op =>
      if agIsOf g op.ag then { op with ag := orphan, flag := none } else op
    copies := s.copies.filter fun x => !agIsOf g x.ag
    xops := s.xops.filter fun x => x.g != g
    reqs := s.reqs.filter fun x => !agIsOf g x.ag
    resvs := s.resvs.filter fun x => x.g != g }

/-- A core's time slice after a group has left it: where none of the slice's context is left, the count restarts for the
context of a group that remains (15 R359; log entry 70). -/
def Core.sliceAfter (k : Core) (clk : Nat) (left : List Group) : Core :=
  match k.slice, left with
  | some (ctx, _, _), gr :: _ =>
    if left.any fun x => x.ctx == ctx then k else { k with slice := some (gr.ctx, clk, false) }
  | _, _ => k

/-- A group's resources in its core are freed (13 R329, R331). -/
def State.leave (s : State) (g : Nat) : State :=
  match s.grp g with
  | none => s
  | some gr =>
    { s with
      groups := SMap.erase g s.groups
      cores := SMap.modD (coreOf g) Core.empty
        (fun k => (k.release g gr (s.others g)).sliceAfter s.clk (s.others g)) s.cores }

/-- A group leaves its core: what it has under way is discarded (but the accesses kept), and the core's resources are
freed (13 R329, R331; 16 R362). -/
def State.evict (s : State) (g : Nat) (keep : MemOp → Bool) (keepReplay : Bool) : State :=
  match s.grp g with
  | none => s
  | some _ => (s.discard g keep keepReplay).leave g

/-- The continuation of a group at its last commit point (13 R329). -/
def Group.cont (gr : Group) (hold : Nat) (avoid : List Nat) : Cont where
  index := gr.index
  slot := gr.slot
  varNo := gr.varNo
  ckpt := gr.ckpt
  retried := gr.retried
  restarts := gr.restarts
  avoid := avoid
  hold := hold
  wait := none
  sigs := []

/-- A group becomes a continuation of its grid. -/
def State.toCont (s : State) (gr : Group) (c : Cont) : State :=
  s.modGrid gr.grid gr.ctx fun x =>
    { x with conts := x.conts ++ (if x.conts.any fun y => y.index == c.index then [] else [c]) }

/-- A query slot of a group. -/
def Query.isOf (q : Query) (gr : Group) : Bool := q.grid == gridKey gr.ctx gr.grid && q.index == gr.index

/-- The query slots of a group are freed (05 R133). -/
def State.freeQueries (s : State) (gr : Group) : State :=
  { s with queries := s.queries.filter fun q => !q.2.isOf gr }

/-- A group ends without committing: its context slot and query slots are freed (16 R362 DROP). -/
def State.dropGroup (s : State) (gr : Group) : State :=
  (s.modGrid gr.grid gr.ctx fun x =>
    { x with usedSlots := x.usedSlots.filter (· != gr.slot), live := x.live - 1 }).freeQueries gr

/-- A group is torn by a forced reset: it has no open version and has issued since its last commit
point (16 R372). -/
def Group.torn (gr : Group) : Bool := gr.cls == 0 && gr.ran

/-- One group of a context stops by force: a torn record, its continuation, its core freed
(16 R372). -/
def State.resetGroup (s : State) (g : Nat) : State :=
  match s.grp g with
  | none => s
  | some gr =>
    let s := if gr.torn then s.send (gr.report g cForced 0x08 0 false none 0 []) else s
    (s.toCont gr (gr.cont 0 [])).evict g (fun op => op.passed.isSome) false

/-- Groups of a context that dies hold and have not placed return to their grids (16 R371). -/
def State.recall (s : State) (ctx : Nat) : State :=
  let back := s.dies.flatMap fun (d : Nat × Die) => d.2.waiting.filter fun x => x.1 / 2 ^ 32 == ctx
  { s with
    dies := s.dies.map fun (d : Nat × Die) =>
      (d.1, { d.2 with waiting := d.2.waiting.filter fun x => x.1 / 2 ^ 32 != ctx })
    grids := s.grids.map fun x =>
      let mine := back.filter fun y => y.1 == gridKey x.ctx x.id && !x.conts.any fun c => c.index == y.2
      { x with returned := mine.foldl (fun l y => insertNat y.2 l) x.returned
               conts := if x.ctx = ctx then x.conts.map fun c => if c.hold = 3 then { c with hold := 0 } else c else x.conts } }

/-- The forced reset of a context (16 R372): every resident group stops and becomes a continuation at
its last commit point, its DMA commands are abandoned, and a summary record carries the number of torn
groups. -/
def State.forceReset (s : State) (ctx : Nat) : State :=
  let gs := (s.groups.filter fun x => x.2.ctx == ctx).map (·.1)
  let torn := (s.groups.filter fun x => x.2.ctx == ctx && x.2.torn).length
  let s := gs.foldl State.resetGroup s
  let s := { s with cores := s.cores.map fun (c : Nat × Core) => (c.1, { c.2 with replay := c.2.replay.filter fun r => r.ctx != ctx }) }
  let s := { s with dma := s.dma.map fun (c : Nat × DmaChan) => (c.1, { c.2 with q := c.2.q.filter fun d => d.ctx != ctx }) }
  let s := s.recall ctx
  s.sendTo unitS (engReport ctx cForced 0 0 0xffffffff none torn)

/-- Mark a context. -/
def State.setCtxState (s : State) (ctx : Nat) (st : CtxState) : State :=
  { s with ctxs := SMap.mod ctx (fun c => { c with st := st }) s.ctxs }

/-- The other copy of a redundant group (16 R369). -/
def State.twinOf (s : State) (g : Nat) : Option Nat := (s.grp g).bind fun gr => gr.twin

-- Taking a trap -------------------------------------------------------------------------------

/-- A group whose task has ended, while its report waits: it issues nothing and holds no version or command. -/
def Group.halt (gr : Group) (r : FRec) (restart : Bool) : Group :=
  { gr with version := [], buf := [], mq := [], twin := none, halting := some (r, restart)
            queues := gr.queues.map fun q => { q with bound := false, request := none } }

/-- The fate of a group whose task has ended and whose report is taken (16 R362): the fault policy of the context
decides: DROP frees the context slot, HALT resets the whole context by force and halts it, RETRY leaves a continuation
that is to be re-executed once. A restart leaves one that goes to another cluster (R368). -/
def State.finishTask (s : State) (g : Nat) (restart : Bool) : State :=
  match s.grp g with
  | none => s
  | some gr =>
    let policy := match s.context gr.ctx with | some c => c.policy | none => 0
    if restart then (s.toCont gr { gr.cont 2 [clusterOf (coreOf g)] with sigs := gr.sigs }).leave g
    else if policy == 1 then (s.forceReset gr.ctx).setCtxState gr.ctx .halted
    else if policy == 2 && !gr.retried then (s.toCont gr (gr.cont 1 [])).leave g
    else (s.dropGroup gr).leave g

/-- A task ends, or is to restart: the group's version and its commands are discarded, with a redundant group's other copy,
and the record is sent (16 R361, R362, R368). While the report is not taken the group waits halted (R366). -/
def State.stopTask (s : State) (g : Nat) (r : FRec) (restart : Bool) : State :=
  match s.grp g with
  | none => s
  | some gr =>
    let keep := fun op => gr.cls == 0 && keepsAccess s.free op
    let s := match gr.twin with
      | some t => s.evict t (fun _ => false) false
      | none => s
    let s := { s.discard g keep (gr.cls == 0) with free := s.free + 1, issuing := none }.modGrp g fun gr => gr.halt r restart
    match s.takeReport r.core r with
    | (t, true) => t.finishTask g restart
    | (t, false) => t.reportWaits r.core r

/-- A trap ends the task of the group at place g (16 R361, R362). -/
def State.endTask (s : State) (g : Nat) (r : FRec) : State := s.stopTask g r false

-- The issuing agent ---------------------------------------------------------------------------

/-- The issuing agent and what it belongs to, as they stand before the instruction. -/
structure ICtx where
  ag : Agent
  g : Nat
  gr : Group
  uni : Bool
  w : Nat
  wv : Wave
  sp : Nat
  spl : Split
  entry : Bool
  losers : List (Nat × Nat)
  clk : Nat
  /-- the latches of the wave's quarter -/
  lt : List Latch
  /-- the state before the issue -/
  before : State

/-- The stream offset of the instruction. -/
def ICtx.pc (c : ICtx) : Nat := if c.uni then c.gr.seq.pc else c.spl.pc
/-- No instruction of the agent's wave, or of the sequencer, has issued since the last commit point
(11 R281). -/
def ICtx.fresh (c : ICtx) : Bool := if c.uni then c.gr.seq.fresh else c.spl.fresh
/-- The quarter of the wave. -/
def ICtx.q (c : ICtx) : Nat := quarterOf c.w
def ICtx.core (c : ICtx) : Nat := coreOf c.g

/-- The agent that issues, where it is resident and live. -/
def State.icx (s : State) : Option ICtx :=
  match s.issuing with
  | none => none
  | some i =>
    match i.ag with
    | .split g w sp =>
      match s.grp g with
      | none => none
      | some gr =>
        match gr.waves[w]? with
        | none => none
        | some wv =>
          match wv.splits[sp]? with
          | none => none
          | some spl =>
            if wv.live && spl.live then
              some ⟨i.ag, g, gr, false, w, wv, sp, spl, i.entry.isSome, i.losers, s.clk,
                (s.quarter (coreOf g) (quarterOf w)).latches, s⟩
            else none
    | .seq g =>
      match s.grp g with
      | none => none
      | some gr =>
        if gr.seq.live then
          some ⟨i.ag, g, gr, true, 0, Wave.blank, 0, Split.blank, i.entry.isSome, i.losers, s.clk, [], s⟩
        else none

/-- The wave's place in its core, for the record's bitmap. -/
def ICtx.places (c : ICtx) : List Nat := if c.uni then [] else [c.wv.place]

/-- The issuing instruction is turned away in this clk. -/
def State.turnedAway (s : State) (c : ICtx) : State :=
  let s := { s with issuing := none }
  if c.uni then s.modSeq c.g fun q => { q with heldAt := some s.clk }
  else s.modSplit c.g c.w c.sp fun x => { x with heldAt := some s.clk }

/-- The issuing agent stalls on its pool of versions (12 R298). -/
def State.markStall (s : State) (c : ICtx) : State :=
  if c.uni then s.modSeq c.g fun q => { q with stallAt := some s.clk }
  else s.modSplit c.g c.w c.sp fun x => { x with stallAt := some s.clk }

/-- The reservations of a wave stop being intact (11 R277). -/
def State.dropResvs (s : State) (g w : Nat) : State :=
  { s with resvs := s.resvs.filter fun r => !(r.g == g && r.w == w) }

/-- The latch a split of the wave is pinned on (07 R184): held with NW = 1, count above zero, not read
since. -/
def Latch.pins (l : Latch) : Bool := l.nwHold && 0 < l.count && !l.wasRead && l.owner.isSome

/-- The wave that pins a quarter. -/
def Quarter.pinnedBy (q : Quarter) : Option (Nat × Nat × Nat) :=
  match q.latches.find? Latch.pins with
  | some l => l.owner
  | none => none

/-- The latches that a wave pins, each with its number. -/
def Quarter.pinsOf (q : Quarter) (g w : Nat) : List (Nat × Latch) :=
  ((List.range 3).zip q.latches).filter fun x =>
    x.2.pins && (match x.2.owner with | some (g', w', _) => g' == g && w' == w | none => false)

/-- A parking wave saves the latches it pins (07 R184). -/
def State.savePin (s : State) (g w : Nat) : State :=
  let mine := (s.quarter (coreOf g) (quarterOf w)).pinsOf g w
  if mine.isEmpty then s
  else (s.modWave g w fun wv => { wv with savedLatch := mine }).modQuarter (coreOf g) (quarterOf w)
    fun q => { q with latches := mine.foldl (fun l x => l.set x.1 Latch.empty) q.latches }

/-- The agent parks at its instruction on a not-present page, and the fault is reported with RECOV
set (11 R265, 16 R364); the group's row schedule is dropped (06 R160; log entry 34). -/
def State.parkAgent (s : State) (c : ICtx) (va lane : Nat) : State :=
  let s := { s with issuing := none }
  let s := s.send (c.gr.report c.g cNotPresent 0x01 c.pc c.uni (some va) lane c.places)
  let s := s.modGrp c.g fun gr => { gr with sched := [], scan := [] }
  if c.uni then s.modSeq c.g fun q => { q with parked := some va, parkAux := lane }
  else ((s.modWave c.g c.w fun wv => { wv with parked := some va, parkAux := lane }).dropResvs c.g c.w).savePin c.g c.w

/-- A split that issues an instruction that waits on another agent loses its pin and the latch
(07 R184). -/
def State.unpin (s : State) (c : ICtx) : State :=
  if c.uni then s
  else s.modQuarter c.core c.q fun q =>
    { q with latches := q.latches.map fun l =>
        if l.pins && l.owner == some (c.g, c.w, c.sp) then { l with owner := none, count := 0 } else l }

/-- A loser's counter rises, and at 7 it is promoted (15 R355). -/
def Wave.lost (wv : Wave) : Wave :=
  if 6 ≤ wv.loss then { wv with loss := 7, promoted := true } else { wv with loss := wv.loss + 1 }

/-- The clk's issue is taken (15 R354 to R356): the quarter's, and the waves that lost it count up; or the port's of the
core's sequencers. An instruction that traps or parks takes it too. -/
def State.slotTaken (s : State) (c : ICtx) : State :=
  if c.uni then s.modCore c.core fun k => { k with seqLast := c.g % 64, seqClk := some s.clk }
  else (c.losers.foldl (fun s x => s.modWave x.1 x.2 Wave.lost) s).modQuarter c.core c.q fun q =>
    { q with lastIssue := some s.clk }

/-- What becomes of a stopped instruction: a trap is taken, the agent is turned away, or it parks. -/
def State.stopped (s : State) (c : ICtx) : Stop → State
  | .trap cause va aux =>
    (s.slotTaken c).endTask c.g (c.gr.report c.g cause 0 c.pc c.uni va aux c.places)
  | .hold => s.turnedAway c
  | .stall => (s.turnedAway c).markStall c
  | .await => (s.unpin c).turnedAway c
  | .park va lane => (s.slotTaken c).parkAgent c va lane

-- Write-back -------------------------------------------------------------------------------

/-- The lanes of mask taken from new. -/
def PVal.merge (mask : BitVec 32) (new old : PVal) : PVal :=
  ⟨(new.t &&& mask) ||| (old.t &&& ~~~mask), (new.u &&& mask) ||| (old.u &&& ~~~mask)⟩

/-- Raise a completion flag (15 R352). -/
def flagUp (fs : List Nat) (k : Nat) : List Nat := modReg 12 0 fs k (· + 1)
/-- Lower a completion flag. -/
def flagDown (fs : List Nat) (k : Nat) : List Nat := modReg 12 0 fs k (· - 1)

/-- A result written back in this clk (15 R350): registers, flags and sticky bits. -/
def Wave.commit1 (wv : Wave) : PWrite → Wave
  | .v r mask vals => { wv with v := SMap.modD r zeroLanes (fun old => mergeLanes mask vals old) wv.v }
  | .w r x => { wv with w := setW wv.w r x }
  | .p r mask x => { wv with p := setP wv.p r fun old => PVal.merge mask x old }
  | _ => wv

/-- A pending result of a wave is written back. -/
def Wave.commit (wv : Wave) (p : Pend) : Wave :=
  let wv := p.writes.foldl Wave.commit1 wv
  { wv with
    fst := wv.fst ||| p.fst
    ivst := wv.ivst ||| p.ivst.setWidth 32
    flags := match p.flag with | some k => flagDown wv.flags k | none => wv.flags }

/-- A pending result of a sequencer is written back. -/
def Seq.commit (q : Seq) (p : Pend) : Seq :=
  let q := p.writes.foldl (fun q w => match w with
    | .g r x => { q with g := setG q.g r x }
    | _ => q) q
  { q with flags := match p.flag with | some k => flagDown q.flags k | none => q.flags }

/-- The words of a hold enter a latch, unless a later hold's words are there (07 R182). -/
def Latch.land (l : Latch) (g w sp clk : Nat) (vals : Lanes) : Latch :=
  if l.heldIn ≤ clk then { l with vals := vals, resultOf := some (g, w, sp), heldIn := clk } else l

/-- The words that a hold delivers, with the wave's registers as they are then (07 R182). -/
def heldNow (mask : BitVec 32) (back : Option Nat) (reg : Nat → Lanes) (vals : Lanes) : Lanes :=
  mergeLanes mask vals (match back with | some r => reg r | none => zeroLanes)

/-- A result of wave w of group g is written back; its words enter the latch it holds (07 R182), or that latch as it is
saved while the wave is parked (07 R184). -/
def State.commitWave (s : State) (g w : Nat) (p : Pend) : State :=
  let s := s.modWave g w fun wv => wv.commit p
  let regs := match (s.grp g).bind fun gr => gr.waves[w]? with | some wv => wv.v | none => []
  p.writes.foldl (fun (s : State) x => match x with
    | .latch k sp clk mask back vals =>
      let put := fun (l : Latch) => l.land g w sp clk (heldNow mask back (SMap.getD regs · zeroLanes) vals)
      (s.modWave g w fun wv => { wv with savedLatch := wv.savedLatch.map fun (j, l) => (j, if j = k then put l else l) }).modQuarter
        (coreOf g) (quarterOf w) fun q => { q with latches := updAt q.latches k put }
    | _ => s) s

/-- Every result of a wave due by now is written back (15 R350). -/
def State.settleWave (s : State) (g w : Nat) : State :=
  match (s.grp g).bind fun gr => gr.waves[w]? with
  | none => s
  | some wv =>
    let due := wv.pend.filter fun p => p.due ≤ s.clk
    let s := s.modWave g w fun wv => { wv with pend := wv.pend.filter fun p => s.clk < p.due }
    due.foldl (fun s p => s.commitWave g w p) s

/-- Every result of a sequencer due by now is written back. -/
def State.settleSeq (s : State) (g : Nat) : State :=
  match s.grp g with
  | none => s
  | some gr =>
    let due := gr.seq.pend.filter fun p => p.due ≤ s.clk
    s.modSeq g fun q => due.foldl Seq.commit { q with pend := q.pend.filter fun p => s.clk < p.due }

/-- The same for an agent. -/
def State.settle (s : State) : Agent → State
  | .split g w _ => s.settleWave g w
  | .seq g => s.settleSeq g

-- Around an instruction -----------------------------------------------------------------------

/-- The flag a cue sets (02 R35). -/
def hdrFlag (h : Hdr) : Option Nat := if h.cue.toNat < 12 then some h.cue.toNat else none

/-- Lower the flag of an agent, where one is named. -/
def State.lower (s : State) (ag : Agent) (fl : Option Nat) : State :=
  match fl with
  | none => s
  | some k =>
    match ag with
    | .split g w _ => s.modWave g w fun wv => { wv with flags := flagDown wv.flags k }
    | .seq g => s.modSeq g fun q => { q with flags := flagDown q.flags k }

/-- Each later issue by the owning split lowers a latch's count (07 R182). -/
def Quarter.countDown (q : Quarter) (g w sp : Nat) : Quarter :=
  { q with latches := q.latches.map fun l =>
      if l.owner == some (g, w, sp) then { l with count := l.count - 1 } else l }

/-- The bookkeeping of an issue (15 R349, R352, R355; 14 R346): the pc moves past the word (or past
the dictionary reference, 02 R40), the cue raises its flag, the waves that lost count up, the latches
of the split count down. -/
def State.begun (s : State) (c : ICtx) (h : Hdr) (len : Nat) : State :=
  let len := if c.entry then 2 else len
  let s := { s with issuing := none }
  let s := s.settle c.ag
  let s := s.modGrp c.g fun gr => { gr with ran := true }
  let s := s.slotTaken c
  if c.uni then
    s.modSeq c.g fun q =>
      { q with pc := q.pc + len, lastIssue := some s.clk, fresh := false,
               flags := match hdrFlag h with | some k => flagUp q.flags k | none => q.flags }
  else
    let s := s.modQuarter c.core c.q fun q => q.countDown c.g c.w c.sp
    s.modWave c.g c.w fun wv =>
      { wv with
        loss := 0
        promoted := false
        cur := c.sp
        turn := if wv.cur == c.sp then wv.turn + 1 else 1
        ldrWin := wv.ldrWin - 1
        flags := match hdrFlag h with | some k => flagUp wv.flags k | none => wv.flags
        splits := (updAt wv.splits c.sp fun x =>
          { x with pc := x.pc + len, lastIssue := some s.clk }).map fun x => { x with fresh := false } }

/-- A stop that takes the clk's issue: the instruction has read its operands. -/
def Stop.issues : Stop → Bool
  | .trap _ _ _ => true
  | .park _ _ => true
  | _ => false

/-- What a stopped instruction leaves: one that traps or parks has taken what it asks of its quarter (15 R353). -/
def State.stoppedUsing (s : State) (c : ICtx) (use : ICtx → Quarter → Quarter) (st : Stop) : State :=
  if st.issues && !c.uni then (s.modQuarter c.core c.q (use c)).stopped c st else s.stopped c st

/-- Run an instruction of a word of len bytes: the bookkeeping of its issue and then its own effect, or what stops it. A
stop leaves no other effect (16 R361). use books what the instruction asks of its quarter whether it stops or not. -/
def issueUsing (use : ICtx → Quarter → Quarter) (h : Hdr) (len : Nat) (body : ICtx → State → Except Stop State)
    (s : State) : Out :=
  match s.icx with
  | none => .fault .noIssuer
  | some c =>
    match body c (s.begun c h len) with
    | .ok s' => .next s'
    | .error st => .next (s.stoppedUsing c use st)

/-- The same for an instruction that asks for the issue slot only. -/
def issue (h : Hdr) (len : Nat) (body : ICtx → State → Except Stop State) : State → Out :=
  issueUsing (fun _ q => q) h len body

/-- The instruction completes at issue: its flag falls at once. -/
def State.doneNow (s : State) (c : ICtx) (h : Hdr) : State := s.lower c.ag (hdrFlag h)

/-- Continue at another stream offset. -/
def State.jump (s : State) (c : ICtx) (pc : Nat) : State :=
  if c.uni then s.modSeq c.g fun q => { q with pc := pc }
  else s.modSplit c.g c.w c.sp fun x => { x with pc := pc }

/-- A taken transfer: the next issue waits until 3 clk after it (14 R347). -/
def State.transfer (s : State) (c : ICtx) (pc : Nat) : State :=
  if c.uni then s.modSeq c.g fun q => { q with pc := pc, readyAt := s.clk + 3 }
  else s.modSplit c.g c.w c.sp fun x => { x with pc := pc, readyAt := s.clk + 3 }

/-- The agent waits for something after its instruction. -/
def State.block (s : State) (ag : Agent) (b : Blk) : State :=
  match ag with
  | .split g w sp => s.modSplit g w sp fun x => { x with blk := b }
  | .seq g => s.modSeq g fun q => { q with blk := b }

end Sys2Proof.Machine
end

