-- ==== Sys2Proof/Machine/Operands.lean ====
section
/-!
DEFINITION. Operands: reading V, W, P and G registers in the clk of their read cycle (07 R172, R180;
15 R350), latches (07 R182, R183), operand queues (07 R185, R186), immediates (02 R44), active lanes
(00 R11), and the results of fixed latency with their write-back, hold and bookings (07 R181, R182;
15 R350 to R353).
-/

namespace Sys2Proof.Machine

-- Registers at a clk --------------------------------------------------------------------------

/-- A write to V register r seen in old contents. -/
def PWrite.onV (r : Nat) (old : Lanes) : PWrite → Lanes
  | .v r' mask vals => if r' = r then mergeLanes mask vals old else old
  | _ => old

def PWrite.onW (r : Nat) (old : DWord) : PWrite → DWord
  | .w r' x => if r' = r then x else old
  | _ => old

def PWrite.onG (r : Nat) (old : DWord) : PWrite → DWord
  | .g r' x => if r' = r then x else old
  | _ => old

def PWrite.onP (r : Nat) (old : PVal) : PWrite → PVal
  | .p r' mask x => if r' = r then PVal.merge mask x old else old
  | _ => old

/-- The writes due by a clk, oldest first. -/
def dueWrites (pend : List Pend) (clk : Nat) : List PWrite :=
  (pend.filter fun p => p.due ≤ clk).flatMap (·.writes)

/-- V register r of a wave as a read cycle in a clk returns it: with every result due by then
(15 R350). -/
def Wave.vAt (wv : Wave) (clk r : Nat) : Lanes :=
  (dueWrites wv.pend clk).foldl (PWrite.onV r) (SMap.getD wv.v r zeroLanes)

/-- W register r in a clk. -/
def Wave.wAt (wv : Wave) (clk r : Nat) : DWord :=
  (dueWrites wv.pend clk).foldl (PWrite.onW r) (wv.w.getD r 0)

/-- Predicate register r in a clk; P7 reads true in every lane (07 R189). -/
def Wave.pAt (wv : Wave) (clk r : Nat) : PVal :=
  if r = 7 then ⟨BitVec.allOnes 32, 0⟩
  else (dueWrites wv.pend clk).foldl (PWrite.onP r) (wv.p.getD r ⟨0, 0⟩)

/-- G register r in a clk. -/
def Seq.gAt (q : Seq) (clk r : Nat) : DWord :=
  (dueWrites q.pend clk).foldl (PWrite.onG r) (q.g.getD r 0)

/-- The lanes a predicate mode selects (02 R34). -/
def PVal.select (p : PVal) (mode : BitVec 2) : BitVec 32 :=
  match mode.toNat with
  | 0 => p.t
  | 1 => ~~~(p.t ||| p.u)
  | 2 => p.u
  | _ => p.t ||| p.u

/-- The active lanes of an instruction (00 R11). -/
def ICtx.active (c : ICtx) (h : Hdr) : BitVec 32 :=
  c.spl.em &&& (c.wv.pAt c.clk h.preg.toNat).select h.pmode

-- Sources -------------------------------------------------------------------------------------

/-- A source with its width. -/
abbrev SrcW := Src × Wd

/-- The latch k serves this split: it owns it with a count above zero (07 R183). -/
def ICtx.latchServes (c : ICtx) (k : Nat) : Bool :=
  match c.lt[k]? with
  | some l => l.owner == some (c.g, c.w, c.sp) && 0 < l.count
  | none => false

/-- A read of a latch's backing register by source i: a read of its own in that register's column (07 R180), beside
the reads of registers, whose numbers are below 256. -/
def backRead (i r : Nat) : Nat := 256 * (i + 1) + r

/-- The reads that source i makes: of V registers, and of a latch's backing register where the latch does not serve it
(07 R180, R183). -/
def ICtx.srcRegs (c : ICtx) (i : Nat) : SrcW → List Nat
  | (.v n, wd) => (List.range wd.regs).map (n + ·)
  | (.l k, _) =>
    if c.latchServes k then [] else match c.spl.back.getD k none with
      | some b => [backRead i b]
      | none => []
  | _ => []

/-- Distinct registers in order of first mention. -/
def distinct : List Nat → List Nat → List Nat
  | _, [] => []
  | seen, r :: t => if seen.contains r then distinct seen t else r :: distinct (r :: seen) t

/-- The reads an instruction makes, in SRCA, SRCB, SRCC order. -/
def ICtx.order (c : ICtx) (srcs : List SrcW) : List Nat :=
  distinct [] ((List.range srcs.length).flatMap fun i => match srcs[i]? with
    | some x => c.srcRegs i x
    | none => [])

/-- The read cycle of a register: its place among the registers of its column (07 R172, R180). -/
def readCycle : List Nat → Nat → Nat
  | [], _ => 0
  | x :: t, r => if x = r then 0 else (if x % 4 = r % 4 then 1 else 0) + readCycle t r

/-- Number of read cycles (07 R180). -/
def readCycles (order : List Nat) : Nat :=
  order.foldl (fun m r => max m (readCycle order r + 1)) 0

/-- A register read in its read cycle. -/
def ICtx.rd (c : ICtx) (order : List Nat) (r : Nat) : Lanes :=
  c.wv.vAt (c.clk + readCycle order r) (r % 256)

/-- The latch with what a wave's results due by a clk put into it (07 R182). -/
def Latch.withDue (l : Latch) (g w k clk : Nat) (wv : Wave) : Latch :=
  (dueWrites wv.pend clk).foldl (fun l x => match x with
    | .latch k' sp at' mask back vals =>
      if k' = k then l.land g w sp at' (heldNow mask back (wv.vAt clk) vals) else l
    | _ => l) l

/-- The waves of the core's groups that share the issuing wave's quarter. -/
def ICtx.quarterWaves (c : ICtx) : List (Nat × Nat × Wave) :=
  c.before.groups.flatMap fun (p : Nat × Group) =>
    if coreOf p.1 = c.core then
      ((List.range p.2.waves.length).zip p.2.waves).filterMap fun x =>
        if quarterOf x.1 = c.q then some (p.1, x.1, x.2) else none
    else []

/-- The contents of latch k as a read in this clk returns them: what it last held, where that is a result of this split
(07 R182). -/
def ICtx.latchVals (c : ICtx) (k : Nat) : Lanes :=
  match c.lt[k]? with
  | some l =>
    let l := c.quarterWaves.foldl (fun (l : Latch) x => l.withDue x.1 x.2.1 k c.clk x.2.2) l
    if l.resultOf == some (c.g, c.w, c.sp) then l.vals else zeroLanes
  | none => zeroLanes

/-- Entry i of queue n for the wave, i counting the pops of this instruction (07 R185). -/
def ICtx.queueEntry (c : ICtx) (n i : Nat) : Option Lanes :=
  match c.gr.queues[n]? with
  | none => none
  | some q => q.entries[(c.wv.qPos.getD n 0 + i) - q.freed]?

/-- Occurrences of queue n before source i. -/
def popsBefore (srcs : List SrcW) (i n : Nat) : Nat :=
  ((srcs.take i).filter fun x => x.1 == .q n).length

/-- The words of source i, one list of lanes per register of its width; ext extends an immediate. -/
def ICtx.words (c : ICtx) (ext : BitVec 16 → DWord) (srcs : List SrcW) (i : Nat) : List Lanes :=
  match srcs[i]? with
  | none => []
  | some (s, wd) =>
    match s with
    | .v n => (List.range wd.regs).map fun k => c.rd (c.order srcs) (n + k)
    | .w n =>
      let x := c.wv.wAt c.clk n
      if wd.regs = 1 then [mkLanes fun _ => x.setWidth 32]
      else [mkLanes fun _ => x.setWidth 32, mkLanes fun _ => x.extractLsb' 32 32]
    | .q n => [(c.queueEntry n (popsBefore srcs i n)).getD zeroLanes]
    | .l k =>
      if c.latchServes k then [c.latchVals k]
      else match c.spl.back.getD k none with
        | some b => [c.rd (c.order srcs) (backRead i b)]
        | none => [zeroLanes]
    | .laneId => (mkLanes fun l => BitVec.ofNat 32 l) :: List.replicate (wd.regs - 1) zeroLanes
    | .waveId => (mkLanes fun _ => BitVec.ofNat 32 c.w) :: List.replicate (wd.regs - 1) zeroLanes
    | .imm x => [mkLanes fun _ => (ext x).setWidth 32]
    | .zero => List.replicate wd.regs zeroLanes
    | .g _ => List.replicate wd.regs zeroLanes

/-- Lane l of a 32-bit source given as words. -/
def w32 (ws : List Lanes) (l : Nat) : Word := laneOf (ws.getD 0 []) l

/-- Lane l of a 64-bit source given as words: bits [31:0] in the even register (04 R87). -/
def w64 (ws : List Lanes) (l : Nat) : DWord := laneOf (ws.getD 1 []) l ++ laneOf (ws.getD 0 []) l

/-- Lane l of a 128-bit source given as words. -/
def w128 (ws : List Lanes) (l : Nat) : BitVec 128 :=
  laneOf (ws.getD 3 []) l ++ laneOf (ws.getD 2 []) l ++ laneOf (ws.getD 1 []) l ++ laneOf (ws.getD 0 []) l

/-- A source of the uniform stream. -/
def ICtx.gval (c : ICtx) (ext : BitVec 16 → DWord) : Src → DWord
  | .g n => c.gr.seq.gAt c.clk n
  | .imm x => ext x
  | _ => 0

/-- A 64-bit scalar operand: a W register of the wave or a G register of the sequencer. -/
def ICtx.scalar (c : ICtx) : Src → DWord
  | .w n => c.wv.wAt c.clk n
  | .g n => c.gr.seq.gAt c.clk n
  | _ => 0

/-- Immediates: sign-extended for .i types, zero-extended for .n and .b types (02 R44). -/
def extI (x : BitVec 16) : DWord := x.signExtend 64
def extN (x : BitVec 16) : DWord := x.setWidth 64
/-- The FP32 pattern with the immediate in bits [31:16] (02 R44). -/
def extF (x : BitVec 16) : DWord := (x ++ (0#16) : BitVec 32).setWidth 64

-- Checks of operands --------------------------------------------------------------------------

/-- A V operand of a width that reaches RL (02 R42). -/
def outOfWindow (rl : Nat) (n : Nat) (wd : Wd) : Bool := rl < n + wd.regs

def srcOut (rl : Nat) : SrcW → Bool
  | (.v n, wd) => outOfWindow rl n wd
  | _ => false

def dstOut (rl : Nat) : Dst × Wd → Bool
  | (.v n, wd) => outOfWindow rl n wd
  | _ => false

/-- The producer program of a queue still has entries to push (13 R313). -/
def Queue.running (q : Queue) : Bool := q.bound && q.next < q.total

/-- What a pop of queue n finds, i pops of the instruction having gone before (07 R186). -/
def ICtx.popStop (c : ICtx) (n i : Nat) : Option Stop :=
  match c.gr.queues[n]? with
  | none => some (tr cQueue)
  | some q =>
    if !q.bound then some (tr cQueue)
    else if !bit q.cons c.w then some (tr cQueue)
    else if (c.queueEntry n i).isSome then none
    else if q.running then some .hold
    else some (tr cQueue)

/-- A latch that serves nothing and has no backing register (07 R183). -/
def ICtx.latchStop (c : ICtx) (k : Nat) : Option Stop :=
  if c.latchServes k || (c.spl.back.getD k none).isSome then none else some (tr cLatch)

/-- The stop of source i, where it is a latch or a queue. -/
def ICtx.srcStopAt (c : ICtx) (srcs : List SrcW) (i : Nat) : SrcW → Option Stop
  | (.l k, _) => c.latchStop k
  | (.q n, _) => c.popStop n (popsBefore srcs i n)
  | _ => none

/-- The first stop of the latch and queue operands, in SRCA, SRCB, SRCC order. -/
def ICtx.srcStop (c : ICtx) (srcs : List SrcW) : Option Stop :=
  (List.range srcs.length).findSome? fun i => (srcs[i]?).bind (c.srcStopAt srcs i)

/-- Operand bounds (02 R42), then latches and queues. -/
def ICtx.opStop (c : ICtx) (ds : List (Dst × Wd)) (srcs : List SrcW) : Option Stop :=
  if ds.any (dstOut c.gr.rl) || srcs.any (srcOut c.gr.rl) then some (tr cBounds) else c.srcStop srcs

/-- A stop, where there is one, ends the instruction. -/
def stopIf (o : Option Stop) : Except Stop Unit :=
  match o with
  | some st => .error st
  | none => .ok ()

-- Queue pops ----------------------------------------------------------------------------------

/-- Free the entries of queue n that every consumer has popped; exited waves count as having popped
every entry. A queue whose program has ended and whose entries are all popped unbinds (07 R185,
13 R314). -/
def Group.trimQueue (gr : Group) (n : Nat) : Group :=
  { gr with queues := updAt gr.queues n fun q =>
      let low := (List.range gr.waves.length).foldl
        (fun m w => match gr.waves[w]? with
          | some wv => if bit q.cons w && wv.live then min m (wv.qPos.getD n 0) else m
          | none => m) (q.freed + q.entries.length)
      let q := { q with entries := q.entries.drop (low - q.freed), freed := max q.freed low }
      if q.bound && q.total ≤ q.next && q.entries.isEmpty then { q with bound := false } else q }

/-- Every queue code of the sources pops one entry (02 R43). -/
def State.popped (s : State) (c : ICtx) (srcs : List SrcW) : State :=
  srcs.foldl (fun s x => match x.1 with
    | .q n => s.modGrp c.g fun gr =>
        { gr with waves := updAt gr.waves c.w fun wv => { wv with qPos := updAt wv.qPos n (· + 1) } }.trimQueue n
    | _ => s) s

-- Latch reads ---------------------------------------------------------------------------------

/-- A read of a latch by its owner ends the pin (07 R184). -/
def State.latchRead (s : State) (c : ICtx) (srcs : List SrcW) : State :=
  srcs.foldl (fun s x => match x.1 with
    | .l k =>
      if c.latchServes k then
        s.modQuarter c.core c.q fun q => { q with latches := updAt q.latches k fun l => { l with wasRead := true } }
      else s
    | _ => s) s

-- Results of fixed latency --------------------------------------------------------------------

/-- Latency and occupancy (08 R196, 09 R235) and the status register a point belongs to. -/
structure Timing where
  lat : Nat
  occ : Nat
  cls : PClass
deriving DecidableEq, Repr

/-- What a fixed-latency instruction writes: registers, the V registers booked for write-back, the lanes and words
that a hold delivers, and the flags its active lanes raise. -/
structure Res where
  writes : List PWrite
  regs : List Nat
  held : Option (BitVec 32 × Lanes)
  fst : BitVec 5
  ivst : BitVec 6

/-- A destination written with words, one list of lanes per register: V lanes of mask, or a W register
taking the lowest lane of mask zero-extended (02 R43). -/
def dstWrites (mask : BitVec 32) (d : Dst) (ws : List Lanes) : List PWrite :=
  match d with
  | .v n => (List.range ws.length).map fun k => .v (n + k) mask (ws.getD k [])
  | .w n =>
    match lowest mask with
    | none => []
    | some l => [.w n (if ws.length = 1 then (w32 ws l).setWidth 64 else w64 ws l)]
  | _ => []

/-- The V registers a destination of k words books. -/
def dstRegs (d : Dst) (k : Nat) : List Nat :=
  match d with
  | .v n => (List.range k).map (n + ·)
  | _ => []

/-- The result of lanes written to a destination. -/
def Res.lanes (mask : BitVec 32) (d : Dst) (ws : List Lanes) (fst : BitVec 5) (ivst : BitVec 6) : Res :=
  ⟨dstWrites mask d ws, dstRegs d ws.length, ws.head?.map fun x => (mask, x), fst, ivst⟩

/-- A predicate result. -/
def Res.pred (mask : BitVec 32) (p : Nat) (x : PVal) (fst : BitVec 5) (ivst : BitVec 6) : Res :=
  ⟨[.p p mask x], [], none, fst, ivst⟩

/-- Insert a pending result in order of its due clk, after those due in the same clk. -/
def pendInsert (x : Pend) : List Pend → List Pend
  | [] => [x]
  | y :: t => if x.due < y.due then x :: y :: t else y :: pendInsert x t

/-- The issuing split takes latch k in the clk of issue: owner, count of 2 and backing register; its words stay what
they are until the result enters (07 R182). -/
def State.holdLatch (s : State) (c : ICtx) (k : Nat) (nw : Bool) (reg : Option Nat) : State :=
  let me := some (c.g, c.w, c.sp)
  let s := s.modQuarter c.core c.q fun q =>
    { q with latches := updAt q.latches k fun l =>
        { l with owner := me, count := 2, nwHold := nw, wasRead := false } }
  s.modSplit c.g c.w c.sp fun x => { x with back := x.back.set k (if nw then none else reg) }

/-- Book the lane pipeline, a collector, the read cycles and the write-back cycle (07 R180, R181;
15 R351, R353). -/
def Quarter.book (q : Quarter) (clk : Nat) (t : Timing) (order regs : List Nat) : Quarter :=
  { q with
    pipeFree := clk + t.occ
    collectors := (q.collectors.filter (clk < ·)) ++ (if order.isEmpty then [] else [clk + readCycles order])
    reserved := (q.reserved.filter fun x => clk ≤ x.1)
      ++ (order.map fun r => (clk + readCycle order r, r % 4, false))
      ++ (regs.map fun r => (clk + t.lat - 1, r % 4, true)) }

/-- A fixed-latency result of the lane stream is on its way (15 R350, R352): due in clk t + L; with NW
nothing is written but predicates, and a hold delivers to its latch. -/
def State.fixed (s : State) (c : ICtx) (h : Hdr) (t : Timing) (srcs : List SrcW) (r : Res) : State :=
  let s := (s.popped c srcs).latchRead c srcs
  let s := s.modQuarter c.core c.q fun q => q.book c.clk t (c.order srcs) (if h.nw then [] else r.regs)
  let kept := r.writes.filter fun w => match w with | .p _ _ _ => true | _ => !h.nw
  let hold : Option Nat := if 12 ≤ h.cue.toNat ∧ h.cue.toNat < 15 then some (h.cue.toNat - 12) else none
  let writes := kept ++ (match hold, r.held with
    | some k, some (mask, ws) => [.latch k c.sp c.clk mask (if h.nw then none else r.regs.head?) ws]
    | _, _ => [])
  let s := match hold with
    | some k => s.holdLatch c k h.nw r.regs.head?
    | none => s
  s.modWave c.g c.w fun wv =>
    { wv with pend := pendInsert ⟨c.clk + t.lat, t.cls, writes, hdrFlag h, r.fst, r.ivst⟩ wv.pend }

/-- A fixed-latency result of the uniform stream. -/
def State.fixedG (s : State) (c : ICtx) (h : Hdr) (t : Timing) (d : Dst) (x : DWord) : State :=
  let writes : List PWrite := match d with
    | .g n => if h.nw then [] else [.g n x]
    | _ => []
  s.modSeq c.g fun q =>
    { q with pend := pendInsert ⟨c.clk + t.lat, .plain, writes, hdrFlag h, 0, 0⟩ q.pend }

/-- An interval instruction of the wave is in flight: a result on its way, a spawn, or an interval load or store (09 R221,
R222). -/
def State.ivOut (s : State) (c : ICtx) : Bool :=
  (c.wv.pend.any fun p => p.cls == .interval && c.clk < p.due)
    || (s.reqs.any fun r => sameWave r.ag c.ag && match r.kind with | .spawn _ _ _ => true | _ => false)
    || (s.memops.any fun op => sameWave op.ag c.ag && op.iv)

/-- An interval instruction of a wave whose IVST has a trap enable set issues only when no earlier one
is in flight (09 R222). -/
def State.ivHolds (s : State) (c : ICtx) : Bool := (bit c.wv.ivst 8 || bit c.wv.ivst 9) && s.ivOut c

/-- What a fixed-latency instruction asks of its quarter where it stops at issue: the pipeline, a collector and its read
cycles (15 R353). -/
def useFixed (t : Timing) (ds : List (Dst × Wd)) (srcs : List SrcW) (c : ICtx) (q : Quarter) : Quarter :=
  q.book c.clk t (c.order srcs) (ds.flatMap fun d => dstRegs d.1 d.2.regs)

/-- The same for an instruction of variable latency: a collector and its read cycles. -/
def useReads (srcs : List SrcW) (c : ICtx) (q : Quarter) : Quarter :=
  let order := c.order srcs
  if order.isEmpty then q
  else { q with
    collectors := (q.collectors.filter (c.clk < ·)) ++ [c.clk + readCycles order]
    reserved := (q.reserved.filter fun x => c.clk ≤ x.1) ++ order.map fun r =>
      (c.clk + readCycle order r, r % 4, false) }

/-- Run an instruction of variable latency that reads sources. -/
def issueReading (srcs : List SrcW) (h : Hdr) (body : ICtx → State → Except Stop State) : State → Out :=
  issueUsing (useReads srcs) h 8 body

/-- A lane-stream instruction of fixed latency: operand checks, then its result from the active lanes,
or its own stop. -/
def laneFixed (t : Timing) (h : Hdr) (len : Nat) (ds : List (Dst × Wd)) (srcs : List SrcW)
    (body : ICtx → BitVec 32 → Except Stop Res) : State → Out :=
  issueUsing (useFixed t ds srcs) h len fun c s =>
    match c.opStop ds srcs with
    | some st => .error st
    | none =>
      if t.cls == .interval && s.ivHolds c then .error .hold
      else match body c (c.active h) with
        | .error st => .error st
        | .ok r => .ok (s.fixed c h t srcs r)

/-- A point of both streams: 32-bit lanes in the lane stream, one 64-bit value in the uniform stream
(02 R49, 08 R194). -/
def bothFixed (t : Timing) (h : Hdr) (len : Nat) (d : Dst) (srcs : List SrcW)
    (lane : ICtx → BitVec 32 → Except Stop Res) (uni : ICtx → DWord) : State → Out :=
  issueUsing (useFixed t [(d, .w32)] srcs) h len fun c s =>
    if c.uni then .ok (s.fixedG c h t d (uni c))
    else match c.opStop [(d, .w32)] srcs with
      | some st => .error st
      | none =>
        match lane c (c.active h) with
        | .error st => .error st
        | .ok r => .ok (s.fixed c h t srcs r)

end Sys2Proof.Machine
end

