-- ==== Sys2Proof/Machine/Control.lean ====
section
/-!
DEFINITION. Branches, splits and reconvergence (14 R334 to R347), exit (13 R331), nop (02 R39) and the
dictionary reference (02 R40).
-/

namespace Sys2Proof.Machine

/-- Change the issuing wave. -/
def State.modMe (s : State) (c : ICtx) (f : Wave → Wave) : State := s.modWave c.g c.w f

/-- Change the issuing split. -/
def State.modMySplit (s : State) (c : ICtx) (f : Split → Split) : State := s.modSplit c.g c.w c.sp f

/-- A split ends, merges or is created: its reservations end (11 R277), and no latch serves it (07 R183; 14 R347). -/
def State.splitGone (s : State) (g w sp : Nat) : State :=
  let me := some (g, w, sp)
  let s := { s with resvs := s.resvs.filter fun r => !(r.g == g && r.w == w && r.sp == sp) }
  let s := s.modWave g w fun wv => { wv with pend := wv.pend.map fun p =>
    { p with writes := p.writes.map fun x => match x with
        | .latch k sp' clk m b v => .latch k (if sp' = sp then 4 else sp') clk m b v
        | x => x } }
  s.modQuarter (coreOf g) (quarterOf w) fun q =>
    { q with latches := q.latches.map fun l =>
        { l with owner := if l.owner == me then none else l.owner,
                 count := if l.owner == me then 0 else l.count,
                 resultOf := if l.resultOf == me then none else l.resultOf } }

/-- A PC-relative target, in halfwords from the word or its reference (R336). -/
def ICtx.target {n : Nat} (c : ICtx) (ofs : BitVec n) : Nat :=
  (((c.pc : Int) + 2 * ofs.toInt) % (2 ^ 32 : Nat)).toNat

/-- The stream offset of the word after the instruction. -/
def ICtx.next (c : ICtx) (len : Nat) : Nat := c.pc + (if c.entry then 2 else len)

/-- An instruction of the control family: np, 64 bits, complete at issue. -/
def control (h : Hdr) (body : ICtx → State → Except Stop State) : State → Out :=
  issue h 8 fun c s =>
    match body c s with
    | .ok s => .ok (s.doneNow c h)
    | .error e => .error e

/-- nop: an issue slot at distance 1 (02 R39). -/
def execNop : State → Out := issue hdr16 2 fun _ s => .ok s

/-- A dictionary reference (02 R40): the entry is put in the place of the word, with its own cue and the
reference's DIST, and is executed next. -/
def execDictionaryReference (dist : BitVec 3) (n : BitVec 10) (s : State) : Out :=
  match s.icx with
  | none => .fault .noIssuer
  | some c =>
    if c.gr.va.dict ≤ n.toNat then .next (s.stopped c (tr cEncoding))
    else match (s.core c.core).banks.find? fun b => match b with
        | some b => b.serves c.gr && (b.filled || b.fault.isSome)
        | none => false with
      | some (some b) =>
        (match b.fault, b.entries[n.toNat]? with
          | some (cause, va), _ => .next (s.stopped c (.trap cause (some va) 0))
          | none, some (word, cue) =>
            if word.extractLsb' 0 2 = (3 : BitVec 2) then
              .next { s with issuing := some ⟨c.ag, some (word, cue, dist), c.losers⟩ }
            else .next (s.stopped c (tr cEncoding))
          | none, none => .next (s.stopped c (tr cEncoding)))
      | _ => .next (s.stopped c .hold)

-- Uniform branches ----------------------------------------------------------------------------

/-- br (R337). -/
def execBr (h : Hdr) (ofs : BitVec 24) : State → Out :=
  control h fun c s => .ok (s.transfer c (c.target ofs))

/-- brc: branches when (G[c] is not 0) XOR SENSE (R337). -/
def execBrc (h : Hdr) (sense : Bool) (g : BitVec 6) (ofs : BitVec 24) : State → Out :=
  control h fun c s =>
    if (c.gr.seq.gAt c.clk g.toNat != 0) != sense then .ok (s.transfer c (c.target ofs)) else .ok s

/-- The wave's next entry of the decision queue, or what a consumption that finds none does: it waits
while the uniform stream runs, and traps once that has ended (07 R187). -/
def ICtx.dqEntry (c : ICtx) : Except Stop DWord :=
  match c.gr.dq[c.wv.dqPos - c.gr.dqFreed]? with
  | some x => .ok x
  | none => if c.gr.seq.live then .error .hold else .error (tr cQueue)

/-- Free the entries that every live wave has consumed (07 R187). -/
def Group.trimDq (gr : Group) : Group :=
  let low := gr.waves.foldl (fun m wv => if wv.live then min m wv.dqPos else m)
    (gr.dqFreed + gr.dq.length)
  { gr with dq := gr.dq.drop (low - gr.dqFreed), dqFreed := max gr.dqFreed low }

/-- The wave has consumed an entry. -/
def State.dqConsumed (s : State) (c : ICtx) : State :=
  s.modGrp c.g fun gr =>
    { gr with waves := updAt gr.waves c.w fun wv => { wv with dqPos := wv.dqPos + 1 } }.trimDq

/-- brdq (R337). -/
def execBrdq (h : Hdr) (sense : Bool) (ofs : BitVec 24) : State → Out :=
  control h fun c s =>
    match c.dqEntry with
    | .error e => .error e
    | .ok x =>
      let s := s.dqConsumed c
      if (x != 0) != sense then .ok (s.transfer c (c.target ofs)) else .ok s

/-- brzm: branches when no lane of EM is selected (R338). -/
def execBrzm (h : Hdr) (pm : BitVec 2) (p : BitVec 3) (ofs : BitVec 24) : State → Out :=
  control h fun c s =>
    if c.spl.em &&& (c.wv.pAt c.clk p.toNat).select pm = 0 then .ok (s.transfer c (c.target ofs))
    else .ok s

-- Masks ---------------------------------------------------------------------------------------

/-- Write a 64-bit scalar destination, a W or a G register, at once. -/
def State.setScalar (s : State) (c : ICtx) (d : Dst) (x : DWord) : State :=
  match d with
  | .w n => s.modMe c fun wv => { wv with w := setW wv.w n x }
  | .g n => s.modSeq c.g fun q => { q with g := setG q.g n x }
  | _ => s

/-- emsave (R338). -/
def execEmsave (h : Hdr) (d : Dst) : State → Out :=
  control h fun c s => .ok (if h.nw then s else s.setScalar c d (c.spl.em.setWidth 64))

/-- emrest (R338). -/
def execEmrest (h : Hdr) (a : Src) : State → Out :=
  control h fun c s =>
    .ok (s.modMySplit c fun x => { x with em := (c.scalar a).setWidth 32 &&& x.ls })

/-- emand (R338). -/
def execEmand (h : Hdr) (pm : BitVec 2) (p : BitVec 3) : State → Out :=
  control h fun c s =>
    .ok (s.modMySplit c fun x => { x with em := x.em &&& (c.wv.pAt c.clk p.toNat).select pm })

-- Dividing a split ----------------------------------------------------------------------------

/-- The step of the LFSR (R339). -/
def lfsrStep (x : BitVec 32) : BitVec 32 := if bit x 0 then (x >>> 1) ^^^ 0x80200003 else x >>> 1

/-- A candidate path: PC, lanes, whether it is a transfer of control. -/
structure Path where
  pc : Nat
  lanes : BitVec 32
  moves : Bool

/-- The paths that are not kept become new splits, or deferred entries of the dividing split when no
number is free (R340). -/
def placePaths (sp : Nat) (old : Split) (clk : Nat) : List Path → List Split → List Split
  | [], l => l
  | p :: t, l =>
    match (List.range 4).find? fun i => match l[i]? with | some x => !x.live | none => false with
    | some i =>
      placePaths sp old clk t (l.set i
        { Split.blank with live := true, pc := p.pc, ls := p.lanes, em := p.lanes &&& old.em,
                           depth := old.depth, lastIssue := some clk, fresh := old.fresh })
    | none =>
      placePaths sp old clk t (updAt l sp fun x =>
        { x with stack := .deferred p.pc p.lanes (p.lanes &&& old.em) old.depth :: x.stack })

/-- The division procedure (R340); none is the reconvergence-overflow trap. -/
def divide (wv : Wave) (sp clk : Nat) (paths : List Path) : Option Wave :=
  match wv.splits[sp]? with
  | none => none
  | some old =>
    let ps := paths.filter fun p => p.lanes != 0
    let take := fun (p : Path) (x : Split) =>
      { x with pc := p.pc, ls := p.lanes, em := p.lanes &&& old.em,
               readyAt := if p.moves then clk + 3 else x.readyAt }
    match ps with
    | [] => some wv
    | [p] => some { wv with splits := updAt wv.splits sp (take p) }
    | _ =>
      let k := ps.length
      let free := 4 - wv.liveSplits.length
      if 8 - old.stack.length < k - 1 - free then none
      else
        let lf := lfsrStep wv.lfsr
        let i := (lf.toNat % 65536) % k
        match ps[i]? with
        | none => none
        | some kept =>
          let l := placePaths sp old clk (dropAt i ps) wv.splits
          some { wv with lfsr := lf, splits := updAt l sp (take kept) }

/-- Divide the issuing split. -/
def State.divided (s : State) (c : ICtx) (paths : List Path) : Except Stop State :=
  match ((s.grp c.g).bind fun gr => gr.waves[c.w]?).bind fun wv => divide wv c.sp c.clk paths with
  | some wv => .ok (s.modMe c fun _ => wv)
  | none => .error (tr cReconv)

/-- split (R340). -/
def execSplit (h : Hdr) (p : BitVec 3) (t u : BitVec 12) : State → Out :=
  control h fun c s =>
    let s := s.unpin c
    let x := c.wv.pAt c.clk p.toNat
    let em := c.spl.em
    let tl := em &&& x.t
    let ul := if u = 0 then 0 else em &&& x.u
    let fl := (em &&& ~~~(tl ||| ul)) ||| (c.spl.ls &&& ~~~em)
    s.divided c [⟨c.target t, tl, true⟩, ⟨c.next 8, fl, false⟩, ⟨c.target u, ul, true⟩]

-- Joins ---------------------------------------------------------------------------------------

/-- The stack loop of a join at J (R341): lanes that fold back, and the deferred path to run, if one
is met. -/
def joinLoop (j depth : Nat) :
    List StackEnt → BitVec 32 → BitVec 32 → List StackEnt × BitVec 32 × BitVec 32 × Option StackEnt
  | [], ls, em => ([], ls, em, none)
  | .waiter pc ls' em' d' :: t, ls, em =>
    if pc = j ∧ d' = depth then joinLoop j depth t (ls ||| ls') (em ||| em')
    else (.waiter pc ls' em' d' :: t, ls, em, none)
  | .deferred pc ls' em' d' :: t, ls, em =>
    (.waiter j ls em depth :: t, ls, em, some (.deferred pc ls' em' d'))

/-- The entry becomes the split's state; a waiter executes its join again (R341, R343). -/
def Split.adopt (x : Split) (st : List StackEnt) : StackEnt → Split
  | .deferred pc ls em d => { x with pc := pc, ls := ls, em := em, depth := d, stack := st, blk := .none }
  | .waiter pc ls em d => { x with pc := pc, ls := ls, em := em, depth := d, stack := st, blk := .none }

/-- The split that waits at J with the DEPTH of split sp, with which sp merges (R342). -/
def mergePartner (wv : Wave) (sp j : Nat) : Option Nat :=
  (wv.splits[sp]?).bind fun me =>
    wv.liveSplits.find? fun i => i != sp && (match wv.splits[i]? with
      | some x => x.blk == .join j && x.depth == me.depth
      | none => false)

/-- Split sp, which waits at J, merges with another that waits there with the same DEPTH (R342); none is
the reconvergence-overflow trap. -/
def mergeAt (wv : Wave) (sp j clk : Nat) : Option Wave :=
  match wv.splits[sp]? with
  | none => some wv
  | some me =>
    match mergePartner wv sp j with
    | none => some wv
    | some i =>
      match wv.splits[i]? with
      | none => some wv
      | some other =>
        let (lo, lower, upper) := if i < sp then (i, other, me) else (sp, me, other)
        let hi := if i < sp then sp else i
        let st := upper.stack ++ lower.stack
        if 8 < st.length then none
        else
          some { wv with splits := (wv.splits.set lo
            { lower with ls := lower.ls ||| upper.ls, em := lower.em ||| upper.em, stack := st,
                         back := [none, none, none], lastIssue := some clk }).set hi Split.blank }

/-- join (R341, R342). -/
def execJoin (h : Hdr) : State → Out :=
  control h fun c s =>
    let s := s.unpin c
    let j := c.pc
    match joinLoop j c.spl.depth c.spl.stack c.spl.ls c.spl.em with
    | (st, _, _, some e) => .ok (s.modMySplit c fun x => x.adopt st e)
    | (st, ls, em, none) =>
      let s := s.modMySplit c fun x => { x with ls := ls, em := em, stack := st }
      if c.wv.liveSplits.length ≤ 1 then .ok s
      else
        let s := s.modMySplit c fun x => { x with blk := .join j }
        match (s.grp c.g).bind fun gr => gr.waves[c.w]? with
        | none => .ok s
        | some wv =>
          match mergeAt wv c.sp j c.clk, mergePartner wv c.sp j with
          | none, _ => .error (tr cReconv)
          | some _, none => .ok s
          | some wv', some i => .ok (((s.modMe c fun _ => wv').splitGone c.g c.w c.sp).splitGone c.g c.w i)

/-- A split counts as running unless it waits at a join or a barrier (R342). -/
def Split.running (x : Split) : Bool :=
  x.live && (match x.blk with
    | .join _ => false
    | .bar _ => false
    | .mbar _ _ => false
    | .gbar _ => false
    | _ => true)

def Split.atJoin (x : Split) : Bool :=
  x.live && (match x.blk with | .join _ => true | _ => false)

/-- JOIN_RELEASE: the splits that wait at joins issue the instruction after them (R342). -/
def execJoinRelease (g w : Nat) (s : State) : Out :=
  match (s.grp g).bind fun gr => gr.waves[w]? with
  | none => notNow s
  | some wv =>
    if wv.splits.any Split.atJoin && !wv.splits.any Split.running then
      .next (s.modWave g w fun wv =>
        { wv with splits := wv.splits.map fun x => if x.atJoin then { x with blk := .none } else x })
    else notNow s

-- Calls ---------------------------------------------------------------------------------------

/-- An indirect target (R336). -/
def indirect (x : DWord) : Except Stop Nat :=
  if x.toNat < 2 ^ 32 && x.toNat % 2 == 0 then .ok x.toNat else .error (tr cValue)

/-- Store byte o of lane l of lane-private memory (07 R172). -/
def Wave.setPriv (wv : Wave) (o l : Nat) (b : Byte) : Wave :=
  { wv with lpriv := if b = 0 then SMap.erase (32 * o + l) wv.lpriv else SMap.set (32 * o + l) b wv.lpriv }

/-- Byte o of lane l of lane-private memory. -/
def Wave.priv (wv : Wave) (o l : Nat) : Byte := SMap.getD wv.lpriv (32 * o + l) 0

/-- Store n little-endian bytes of a value. -/
def Wave.setPrivs (wv : Wave) (o l n x : Nat) : Wave :=
  (List.range n).foldl (fun wv k => wv.setPriv (o + k) l (BitVec.ofNat 8 (x / 256 ^ k))) wv

/-- n little-endian bytes as a number. -/
def Wave.privs (wv : Wave) (o l n : Nat) : Nat :=
  (List.range n).foldl (fun x k => x + (wv.priv (o + k) l).toNat * 256 ^ k) 0

/-- A call to a target (R344, R345). -/
def State.called (s : State) (c : ICtx) (h : Hdr) (tgt : Nat) : Except Stop State :=
  let ret := c.next 8
  if c.uni then
    if 16 ≤ c.gr.seq.rstack.length then .error (tr cCall)
    else .ok (((s.modSeq c.g fun q => { q with rstack := ret :: q.rstack }).transfer c tgt).doneNow c h)
  else
    let p := c.gr.va.lpriv
    let d := c.spl.depth
    if d = 4095 ∨ p < 4 * (d + 1) then .error (tr cCall)
    else
      let s := s.modMe c fun wv =>
        (maskLanes c.spl.ls).foldl (fun wv l => wv.setPrivs (p - 4 * (d + 1)) l 4 ret) wv
      .ok (((s.modMySplit c fun x => { x with depth := d + 1 }).transfer c tgt).doneNow c h)

/-- call (R344). -/
def execCall (h : Hdr) (ofs : BitVec 24) : State → Out :=
  issue h 8 fun c s => s.called c h (c.target ofs)

/-- jmpi (R336, R337). -/
def execJmpi (h : Hdr) (a : Src) : State → Out :=
  control h fun c s =>
    match indirect (c.scalar a) with
    | .ok t => .ok (s.transfer c t)
    | .error e => .error e

/-- calli (R336, R344). -/
def execCalli (h : Hdr) (a : Src) : State → Out :=
  issue h 8 fun c s =>
    match indirect (c.scalar a) with
    | .ok t => s.called c h t
    | .error e => .error e

/-- ret: divides by return site, in increasing order (R344, R345). -/
def execRet (h : Hdr) : State → Out :=
  control h fun c s =>
    if c.uni then
      match c.gr.seq.rstack with
      | [] => .error (tr cCall)
      | r :: t => .ok ((s.modSeq c.g fun q => { q with rstack := t }).transfer c r)
    else if c.spl.depth = 0 then .error (tr cCall)
    else
      let o := c.gr.va.lpriv - 4 * c.spl.depth
      let r := fun l => c.wv.privs o l 4
      let ls := maskLanes c.spl.ls
      match ls.find? fun l => r l % 2 == 1 with
      | some l => .error (.trap cValue none l)
      | none =>
        let sites := ls.foldl (fun o l => insertNat (r l) o) []
        let s := s.modMySplit c fun x => { x with depth := x.depth - 1 }
        s.divided c (sites.map fun site => ⟨site, mkMask fun l => bit c.spl.ls l && r l == site, true⟩)

-- Exit ----------------------------------------------------------------------------------------

/-- An access that is still to write a destination (15 R352). -/
def OpKind.hasDst : OpKind → Bool
  | .ld _ _ => true
  | .ldr => true
  | .ready _ => true
  | _ => false

/-- Loads and prefetches are discarded when their wave retires or is halted (13 R331). -/
def OpKind.isLoad : OpKind → Bool
  | .pref _ => true
  | k => k.hasDst

/-- A wave stops taking part: it leaves its membership sets and open phases, and frees the queue
entries that waited for it (13 R321; 07 R185, R187). -/
def Group.waveGone (gr : Group) (w : Nat) : Group :=
  let clr : BitVec 32 := ~~~(BitVec.ofNat 32 (2 ^ w))
  let gr := { gr with
    msets := gr.msets.map (· &&& clr)
    mphase := gr.mphase.map fun (o : Option (BitVec 32)) => o.map (· &&& clr) }
  ((List.range 8).foldl (fun (gr : Group) n => gr.trimQueue n) gr).trimDq

/-- A wave retires (13 R331): its loads in flight are discarded and its reservations end. -/
def State.waveEnds (s : State) (g w : Nat) : State :=
  let s := s.modGrp g fun gr =>
    { gr with waves := updAt gr.waves w fun wv => { wv with live := false } }.waveGone w
  let s := { s with memops := s.memops.filter fun op =>
    !(op.kind.isLoad && sameWave op.ag (.split g w 0)) }
  s.dropResvs g w

/-- A sequencer ends. -/
def State.seqEnds (s : State) (g : Nat) : State :=
  let s := s.modSeq g fun q => { q with live := false }
  { s with memops := s.memops.filter fun op => !(op.kind.isLoad && sameWave op.ag (.seq g)) }

/-- exit (R331, R343). -/
def execExit (h : Hdr) : State → Out :=
  control h fun c s =>
    if c.uni then .ok (s.seqEnds c.g)
    else
      let s := s.unpin c
      match c.spl.stack with
      | e :: t => .ok (s.modMySplit c fun x => x.adopt t e)
      | [] =>
        let s := (s.modMySplit c fun _ => Split.blank).splitGone c.g c.w c.sp
        if c.wv.liveSplits.length ≤ 1 then .ok (s.waveEnds c.g c.w) else .ok s

end Sys2Proof.Machine
end

