-- ==== Sys2Proof/Machine/Translate.lean ====
section
/-!
DEFINITION. Virtual addresses (03 R64 to R74): the page table, the homes of a page's bytes, translation
faults, the TLBs and walk caches, and home-die hints (R77, R78). A fault is its cause code (16 R360).
-/

namespace Sys2Proof.Machine

-- Fields of a table entry (R66).
def entKind (e : DWord) : Nat := (e.extractLsb' 60 4).toNat
def entHome (e : DWord) : Nat := (e.extractLsb' 56 4).toNat
def entMask (e : DWord) : BitVec 16 := e.extractLsb' 40 16
def entFa (e : DWord) : Nat := (e.extractLsb' 12 28).toNat
def entSub (e : DWord) : Nat := (e.extractLsb' 8 4).toNat
def entWr (e : DWord) : Bool := bit e 7
def entRd (e : DWord) : Bool := bit e 6
def entPriv (e : DWord) : Bool := bit e 5
def entAc (e : DWord) : Bool := bit e 4
def entDt (e : DWord) : Bool := bit e 3
def entCache (e : DWord) : Nat := (e.extractLsb' 1 2).toNat

/-- Address bits a leaf of a level covers, and bits below a level's index (R64). -/
def levelBits (level : Nat) : Nat :=
  match level with
  | 0 => 39
  | 1 => 30
  | 2 => 21
  | _ => 16

/-- Index of an address in a table of a level (R64). -/
def levelIndex (level va : Nat) : Nat := va / 2 ^ levelBits level % (if level = 3 then 32 else 512)

/-- Malformed entries (R67), of KIND 0 too where a field that R66 fixes in every kind is wrong (log entry 9). -/
def entMalformed (level : Nat) (e : DWord) : Bool :=
  let k := entKind e
  let page := 2 ^ levelBits level
  5 < k
    || (k == 1 && level == 3)
    || (2 ≤ k && level == 0)
    || bit e 0
    || 2 ≤ entCache e
    || (k == 5 && (entCache e != 0 || entHome e != 0))
    || ((1 ≤ k && k ≤ 4) && 2 ^ 26 ≤ entFa e)
    || (k == 1 && ((e.extractLsb' 0 8) != 0 || (level != 2 && entSub e != 0)))
    || (k != 1 && entSub e != 0)
    || ((k ≤ 2 || k == 5) && entMask e != 0)
    || ((k == 2 || k == 4) && entFa e * 4096 % page != 0)
    || (k == 3 && entMask e == 0)
    || (k == 4 && (5 < (entMask e).toNat % 16 || (entMask e).toNat / 16 != 0))

/-- A die of the package is live. -/
def Pkg.dieLive (p : Pkg) (d : Nat) : Bool := bit p.livec d

/-- A dark home (R71). -/
def entDark (p : Pkg) (e : DWord) : Bool :=
  match entKind e with
  | 3 => (entMask e &&& ~~~p.livec) != 0
  | 5 => !bit p.livex (entFa e / 2 ^ 27)
  | _ => !p.dieLive (entHome e)

/-- DPA of a die-local offset (R62). An offset past the die's 256 GiB goes on at its start (log entry 75). -/
def dpaOf (die ofs : Nat) : Nat := die * 2 ^ 38 + ofs % 2 ^ 38

/-- The j-th set bit of a mask. -/
def nthBit (m : BitVec 16) (j : Nat) : Nat := ((List.range 16).filter (bit m)).getD j 0

/-- Where byte x of a leaf's page lies (R68 to R70, R84). The frame of a kind-3 or kind-5 leaf need not be
aligned, and FA and the offset are added within the X-die's window that FA[39] selects (log entry 75). -/
def leafTgt (e : DWord) (bits x : Nat) : Tgt :=
  let f := entFa e * 4096
  match entKind e with
  | 3 =>
    let m := countBits (entMask e)
    let k := x / 4096
    .dram (dpaOf (nthBit (entMask e) ((k + entHome e) % m)) (f + k / m * 4096 + x % 4096))
  | 4 => .aliasAt (entHome e) f (2 ^ bits) ((entMask e).toNat % 16) x
  | 5 => .sys (f / 2 ^ 39 * 2 ^ 39 + (f + x) % 2 ^ 39)
  | _ => .dram (dpaOf (entHome e) (f + x))

/-- What an access asks of a page: plain accesses read or write, atomics both, maintenance neither. -/
inductive Acc where
  | rd
  | wr
  | rw
  | none
deriving DecidableEq, Repr

def Acc.writes : Acc → Bool
  | .wr => true
  | .rw => true
  | _ => false

def Acc.reads : Acc → Bool
  | .rd => true
  | .rw => true
  | _ => false

/-- A translated address: its target, and whether its page bypasses L1. -/
structure Trans where
  tgt : Tgt
  bypass : Bool
deriving DecidableEq, Repr

/-- Non-canonical addresses (R64). -/
def canonical (va : DWord) : Bool := (va.extractLsb' 47 17) == 0 || (va.extractLsb' 47 17) == BitVec.allOnes 17

/-- Checks of a leaf: protection, then the target (R71). -/
def leafUse (fw : Bool) (acc : Acc) (e : DWord) (bits va : Nat) : Except Nat Trans :=
  if (acc.reads && !entRd e) || (acc.writes && !entWr e) || (entPriv e && !fw) then .error cProtection
  else .ok ⟨leafTgt e bits (va % 2 ^ bits), entCache e == 1⟩

/-- What a walk finds: the leaf, its size in address bits and its place, or a fault; and the table
entries it read. -/
structure WalkRes where
  res : Except Nat (DWord × Nat × Nat)
  seen : List WalkEnt

/-- Eight little-endian bytes of DRAM. -/
def dramWord (m : List Host.Cell) (a : Nat) : DWord :=
  BitVec.ofNat 64 ((List.range 8).foldl (fun x k => x + (memByte m (a + k)).toNat * 256 ^ k) 0)

/-- Where a byte of DRAM lies in its die (R63). -/
structure Channel where
  stack : Nat
  pseudoChan : Nat
  l2Slice : Nat
  chanAddress : Nat
deriving DecidableEq, Repr

/-- The channel of a DPA (R63): the index is o[15:8] xor o[23:16]. -/
def channelOf (a : Nat) : Channel :=
  let o := a % 2 ^ 38
  let c := (o / 256 % 256) ^^^ (o / 65536 % 256)
  ⟨2 * (a / 2 ^ 38) + c / 128, c % 128, c / 4, o / 65536 * 256 + o % 256⟩

/-- The home slice of a DPA, numbered over the package (R63; 07 R176). -/
def homeSlice (a : Nat) : Nat := a / 2 ^ 38 * 64 + (channelOf a).l2Slice

/-- Reservations of a granule end (11 R277): all of them, or those of one group for a write into its
version. -/
def State.hitGranules (s : State) (only : Option Nat) (a n : Nat) : State :=
  { s with resvs := s.resvs.filter fun r =>
      !((a ≤ r.granule * 128 + 127 && r.granule * 128 < a + n)
        && (match only with | some g => r.g == g | none => true)) }

/-- A walk from a table of a level downward (R64, R66, R67, R71). A table on a dark die that no entry leads to,
the root's, reads as stored; an entry with several faults gives the malformed one, then the dark home, and only
a leaf that is neither gives protection and alias misuse (log entry 75). -/
def walkFrom (s : State) (ctx : Nat) (wc : List WalkEnt) (va : Nat) : Nat → Nat → Nat → List WalkEnt → WalkRes
  | 0, _, _, seen => ⟨.error cMalformed, seen⟩
  | fuel + 1, level, table, seen =>
    let base := va / 2 ^ levelBits level * 2 ^ levelBits level
    let place := table + 8 * levelIndex level va
    let e := match wc.find? fun w => w.ctx == ctx && w.level == level && w.va == base with
      | some w => w.entry
      | none => dramWord s.mem place
    if entMalformed level e then ⟨.error cMalformed, seen⟩
    else if entKind e = 0 then ⟨.error cNotPresent, seen⟩
    else if entDark s.pkg e then ⟨.error cDark, seen⟩
    else if entKind e = 1 then
      walkFrom s ctx wc va fuel (level + 1)
        (dpaOf (entHome e) (entFa e * 4096 + (if level = 2 then 256 * entSub e else 0)))
        (⟨ctx, level, base, e⟩ :: seen)
    else ⟨.ok (e, levelBits level, place), seen⟩

/-- Who translates: a core, with the die whose service is asked; the transport's caches of the S-die, with the
die whose service they ask (05 R115); an engine or the device itself. -/
inductive TUnit where
  | core (c die : Nat)
  | transport (die : Nat)
  | engine (die : Nat)
deriving DecidableEq, Repr

/-- The entry of a TLB that covers an address. -/
def tlbFind (l : List TlbEnt) (ctx va : Nat) : Option TlbEnt :=
  l.find? fun t => t.ctx == ctx && t.va == va / 2 ^ t.bits * 2 ^ t.bits

/-- Hold an entry, in the place of one for the same page; the one used longest ago leaves when the TLB is full
(R72; log entry 75). -/
def tlbPut (size : Nat) (t : TlbEnt) (l : List TlbEnt) : List TlbEnt :=
  (t :: l.filter fun x => !(x.ctx == t.ctx && x.va == t.va && x.bits == t.bits)).take size

/-- The set of the cluster TLB that holds a page (R72: 2,048 entries in eight ways; log entry 75). -/
def tlbSet (t : TlbEnt) : Nat := t.va / 2 ^ t.bits % 256

/-- Hold an entry among the eight ways of its set. -/
def tlbPutSet (t : TlbEnt) (l : List TlbEnt) : List TlbEnt :=
  tlbPut 8 t (l.filter fun x => tlbSet x == tlbSet t) ++ l.filter fun x => tlbSet x != tlbSet t

/-- The TLB entry a unit holds for an address. -/
def State.tlbHit (s : State) (u : TUnit) (ctx va : Nat) : Option TlbEnt :=
  match u with
  | .core c _ =>
    match tlbFind (s.core c).tlb ctx va with
    | some t => some t
    | none => tlbFind (s.cluster (clusterOf c)).tlb ctx va
  | .transport _ => tlbFind s.ttc ctx va
  | .engine _ => none

/-- Fill the TLBs of a unit (R72). -/
def State.tlbFill (s : State) (u : TUnit) (t : TlbEnt) : State :=
  match u with
  | .core c _ =>
    (s.modCore c fun k => { k with tlb := tlbPut 64 t k.tlb }).modCluster (clusterOf c)
      fun k => { k with tlb := tlbPutSet t k.tlb }
  | .transport _ => { s with ttc := tlbPut 1024 t s.ttc }
  | .engine _ => s

/-- The die whose translation service a unit asks. -/
def TUnit.die : TUnit → Nat
  | .core _ d => d
  | .engine d => d
  | .transport d => d

/-- A walk with its fill (R72, R73): the walk cache of the service that is asked keeps the tables met, AC is set, and
DT on the first write that the leaf allows, by an atomic OR at the entry's home, where the reservations of its granule
end (11 R277). -/
def State.walkFill (s : State) (u : TUnit) (ctx va : Nat) (fw : Bool) (acc : Acc) : State × Except Nat Trans :=
  match s.context ctx with
  | none => (s, .error cNotPresent)
  | some cx =>
    let r := walkFrom s ctx (s.die u.die).wcache va 4 0 cx.root []
    let s := if r.seen.isEmpty then s else s.modDie u.die fun x =>
      { x with wcache := (r.seen ++ x.wcache.filter fun w => !r.seen.contains w).take 512 }
    match r.res with
    | .error f => (s, .error f)
    | .ok (e, bits, place) =>
      let use := leafUse fw acc e bits va
      let dt := acc.writes && (match use with | .ok _ => true | .error _ => false)
      let e' := e ||| 0x10 ||| (if dt then 0x08 else 0)
      let s := if e' = e then s
        else { s with mem := memSetByte s.mem place (memByte s.mem place ||| (e'.setWidth 8 &&& 0x18)) }.hitGranules none place 1
      (s.tlbFill u ⟨ctx, va / 2 ^ bits * 2 ^ bits, bits, e'⟩, use)

/-- Translate an address (R64, R71 to R74). A cached entry serves, unless a write meets it with DT = 0: that walks
again. An access through a cached leaf whose home has gone dark raises the dark-home fault as a walk does (R62,
R69, R71). -/
def State.translate (s : State) (u : TUnit) (ctx : Nat) (acc : Acc) (va : DWord) : State × Except Nat Trans :=
  let fw := match s.context ctx with | some c => c.fw | none => false
  if !canonical va then (s, .error cNonCanonical)
  else
    let a := va.toNat % 2 ^ 48
    match s.tlbHit u ctx a with
    | some t =>
      if entDark s.pkg t.leaf then (s, .error cDark)
      else if acc.writes && !entDt t.leaf && entWr t.leaf then s.walkFill u ctx a fw acc
      else (s.tlbFill u t, leafUse fw acc t.leaf t.bits a)
    | none => s.walkFill u ctx a fw acc

/-- The die whose translation service an access asks: its core's, or the hinted die when that is live
(R78, 01 R18). -/
def State.tunit (s : State) (core : Nat) (hint : Hint) : TUnit :=
  .core core (if hint.hdv && s.pkg.dieLive hint.hd.toNat then hint.hd.toNat else dieOfCore core)

/-- The hint byte of an instruction that has none. -/
def noHint : Hint := ⟨0, false, 0⟩

/-- The unit of a group's core without a hint. -/
def coreUnit (g : Nat) : TUnit := .core (coreOf g) (dieOfCore (coreOf g))

end Sys2Proof.Machine
end

