-- ==== Sys2Proof/Machine/Access.lean ====
section
/-!
DEFINITION. Bytes where they live: DRAM, system space and alias pages (03 R62, R70, R84); the L1
partition (07 R174, R175); reservations (11 R277); versions, their commit and demotion (11 R281; 12 R295
to R298; 06 R166); and the store-stream signature (16 R369).
-/

namespace Sys2Proof.Machine

-- Targets -------------------------------------------------------------------------------------

/-- Target plus an offset inside one page. -/
def Tgt.plus (k : Nat) : Tgt → Tgt
  | .dram a => .dram (a + k)
  | .sys a => .sys (a + k)
  | .aliasAt d f p t o => .aliasAt d f p t (o + k)

/-- Whether accesses of n and m bytes are ordered with each other: a shared byte, two accesses of system
space (03 R70), or one alias block. -/
def Tgt.clash (x : Tgt) (n : Nat) (y : Tgt) (m : Nat) : Bool :=
  match x, y with
  | .dram a, .dram b => a < b + m && b < a + n
  | .sys _, .sys _ => true
  | .aliasAt d f _ _ o, .aliasAt d' f' _ _ o' => d == d' && f == f' && o / 64 == o' / 64
  | _, _ => false

/-- Little-endian bytes of a value. -/
def bytesOf (n x : Nat) : List Byte := (List.range n).map fun k => BitVec.ofNat 8 (x / 256 ^ k)

/-- The value of little-endian bytes. -/
def leVal : List Byte → Nat
  | [] => 0
  | b :: t => b.toNat + 256 * leVal t

/-- The bytes of a packed string of codes of w bits (03 R80): code i. -/
def codeAt (w i : Nat) (bs : List Byte) : Nat := leVal bs / 2 ^ (w * i) % 2 ^ w

-- Versions ------------------------------------------------------------------------------------

/-- A group whose writes enter a version (12 R295). -/
def Group.versioned (gr : Group) : Bool := gr.cls != 0

/-- The bytes an agent of group place g sees in DRAM: its own version's, else memory's (12 R296). -/
def State.viewByte (s : State) (view : Option Group) (a : Nat) : Byte :=
  match view with
  | some gr => SMap.getD gr.version a (memByte s.mem a)
  | none => memByte s.mem a

def State.viewBytes (s : State) (view : Option Group) (a n : Nat) : List Byte :=
  (List.range n).map fun k => s.viewByte view (a + k)

-- The L1 partition ----------------------------------------------------------------------------

/-- The partition and set that hold the line of an address (R174, R175). -/
def State.l1Place (s : State) (core a : Nat) : Nat × Nat :=
  if (s.cluster (clusterOf core)).fused then (clusterOf core * 8 + a / 128 % 8, a / 1024 % 256)
  else (core, a / 128 % 256)

/-- An empty set. -/
def L1Set.empty : L1Set := ⟨List.replicate 8 none, 0⟩

/-- Point the tree away from a way (R174). -/
def plruTouch (b : BitVec 7) (way : Nat) : BitVec 7 :=
  let put := fun (x : BitVec 7) (k : Nat) (on : Bool) =>
    if on then x ||| BitVec.ofNat 7 (2 ^ k) else x &&& ~~~(BitVec.ofNat 7 (2 ^ k))
  put (put (put b 0 (way < 4)) (1 + way / 4) (way % 4 < 2)) (3 + way / 2) (way % 2 == 0)

/-- The way the tree leads to (R174). -/
def plruVictim (b : BitVec 7) : Nat :=
  let h := if bit b 0 then 1 else 0
  let q := 2 * h + (if bit b (1 + h) then 1 else 0)
  2 * q + (if bit b (3 + q) then 1 else 0)

/-- The way that holds line number n. -/
def L1Set.wayOf (k : L1Set) (n : Nat) : Option Nat :=
  (List.range 8).find? fun w => match k.ways.getD w none with
    | some (n', _) => n' == n
    | none => false

/-- Point the tree at a way, which is then the first to be evicted (R174; 11 R270). -/
def plruPoint (b : BitVec 7) (way : Nat) : BitVec 7 :=
  let put := fun (x : BitVec 7) (k : Nat) (on : Bool) =>
    if on then x ||| BitVec.ofNat 7 (2 ^ k) else x &&& ~~~(BitVec.ofNat 7 (2 ^ k))
  put (put (put b 0 (4 ≤ way)) (1 + way / 4) (2 ≤ way % 4)) (3 + way / 2) (way % 2 == 1)

/-- A line enters a set: the lowest invalid way, or the victim (R174); a line of a .strm access as the first to be
evicted (11 R270). -/
def L1Set.fill (k : L1Set) (strm : Bool) (n : Nat) (bytes : List Byte) : L1Set :=
  let way := match (List.range 8).find? fun w => (k.ways.getD w none).isNone with
    | some w => w
    | none => plruVictim k.plru
  ⟨k.ways.set way (some (n, bytes)), if strm then plruPoint k.plru way else plruTouch k.plru way⟩

def State.l1Set (s : State) (core set : Nat) : L1Set := SMap.getD (s.core core).l1 set L1Set.empty

def State.putL1 (s : State) (core set : Nat) (k : L1Set) : State :=
  s.modCore core fun c => { c with l1 := SMap.set set k c.l1 }

/-- A load of n bytes through L1: a present line is read, else the line is filled from its home. -/
def State.l1Read (s : State) (core : Nat) (strm : Bool) (a n : Nat) : State × List Byte :=
  let (c, set) := s.l1Place core a
  let k := s.l1Set c set
  let line := a / 128
  match k.wayOf line with
  | some w =>
    let bytes := match k.ways.getD w none with | some (_, b) => b | none => []
    (s.putL1 c set { k with plru := plruTouch k.plru w }, (bytes.drop (a % 128)).take n)
  | none =>
    let bytes := memRead s.mem (line * 128) 128
    (s.putL1 c set (k.fill strm line bytes), (bytes.drop (a % 128)).take n)

/-- A store updates a present line of the storing core (R174). -/
def State.l1Update (s : State) (core a : Nat) (bytes : List Byte) : State :=
  let (c, set) := s.l1Place core a
  let k := s.l1Set c set
  match k.wayOf (a / 128) with
  | some w => s.putL1 c set { k with ways := updAt k.ways w fun o => o.map fun (n, old) =>
      (n, old.take (a % 128) ++ bytes ++ old.drop (a % 128 + bytes.length)) }
  | none => s

/-- A line leaves the core's L1, or the fused L1. -/
def State.l1Drop (s : State) (core a : Nat) : State :=
  let (c, set) := s.l1Place core a
  let k := s.l1Set c set
  match k.wayOf (a / 128) with
  | some w => s.putL1 c set { k with ways := k.ways.set w none }
  | none => s

/-- The lines of a run of bytes leave it. -/
def State.l1DropRun (s : State) (core : Nat) (t : Tgt) (n : Nat) : State :=
  match t with
  | .dram a => (List.range (n / 128 + 2)).foldl (fun (s : State) k =>
      if a / 128 + k ≤ (a + n - 1) / 128 then s.l1Drop core ((a / 128 + k) * 128) else s) s
  | _ => s

/-- The core's partition is emptied (R174, 11 R278). -/
def State.l1Empty (s : State) (core : Nat) : State := s.modCore core fun c => { c with l1 := [] }

/-- An acquire at a scope: at cluster scope or wider the core's lines are dropped, for a fused cluster
all of its partitions from die scope (11 R278). -/
def State.acquire (s : State) (core scope : Nat) : State :=
  if scope < 2 then s
  else if (s.cluster (clusterOf core)).fused then
    if scope = 2 then s
    else (List.range 8).foldl (fun s k => s.l1Empty (clusterOf core * 8 + k)) s
  else s.l1Empty core

-- Writes --------------------------------------------------------------------------------------

/-- Bytes enter memory at their home. -/
def State.dramWrite (s : State) (a : Nat) (bytes : List Byte) : State :=
  { s with mem := memWrite s.mem a bytes }.hitGranules none a bytes.length

/-- A write at its home by an agent of the group at place g: into its version, or to memory (11 R281). -/
def State.homeWrite (s : State) (g a : Nat) (bytes : List Byte) : State :=
  match s.grp g with
  | none => s.dramWrite a bytes
  | some gr =>
    if gr.versioned then
      (s.modGrp g fun gr => { gr with version :=
        (List.range bytes.length).foldl (fun v k => SMap.set (a + k) (bytes.getD k 0) v) gr.version })
        |>.hitGranules (some g) a bytes.length
    else s.dramWrite a bytes

/-- The same by a store of the core, whose L1 follows a write to memory (07 R174). -/
def State.agentWrite (s : State) (g a : Nat) (bytes : List Byte) : State :=
  match s.grp g with
  | none => s.homeWrite g a bytes
  | some gr =>
    if gr.versioned then s.homeWrite g a bytes else (s.homeWrite g a bytes).l1Update (coreOf g) a bytes

-- Alias pages ---------------------------------------------------------------------------------

/-- Where block b of an alias page lies: its data bytes and its scale byte (03 R84). -/
def blockData (die f ty b : Nat) : Nat := dpaOf die (f + b * (4 * mxBits ty))
def blockScale (die f page ty b : Nat) : Nat := dpaOf die (f + page * mxBits ty / 16 + b)

/-- The exact values of a block's 32 elements (R84, 04 R100). -/
def State.blockVals (s : State) (view : Option Group) (die f page ty b : Nat) : List Ext :=
  let data := s.viewBytes view (blockData die f ty b) (4 * mxBits ty)
  let x := (s.viewByte view (blockScale die f page ty b)).toNat
  (List.range 32).map fun i => mxValue x (codeAt (mxBits ty) i data) ty

/-- n alias bytes as BF16 (04 R101). -/
def State.aliasRead (s : State) (view : Option Group) (die f page ty ofs n : Nat) : List Byte :=
  let first := ofs / 2
  let elems := (List.range ((ofs % 2 + n + 1) / 2)).map fun k =>
    let e := first + k
    let v := (s.blockVals view die f page ty (e / 32)).getD (e % 32) (.fin false 0 0)
    (bf16.encode rmN v).1
  ((elems.flatMap fun c => bytesOf 2 c).drop (ofs % 2)).take n

/-- The packed bytes of 32 codes of w bits. -/
def packCodes (w : Nat) (cs : List Nat) : List Byte :=
  bytesOf (4 * w) ((cs.zip (List.range 32)).foldl (fun x p => x + p.1 * 2 ^ (w * p.2)) 0)

/-- An alias store: the covered blocks are re-encoded with the written positions replaced (R84, 04
R102). write puts bytes at a DPA. -/
def State.aliasWrite (s : State) (view : State → Option Group) (write : State → Nat → List Byte → State)
    (die f page ty ofs : Nat) (bytes : List Byte) : State :=
  let first := ofs / 2
  let vals := (List.range (bytes.length / 2)).map fun k =>
    bf16.decode (leVal ((bytes.drop (2 * k)).take 2))
  let blocks := (List.range ((first % 32 + vals.length + 31) / 32)).map (first / 32 + ·)
  blocks.foldl (fun s b =>
    let old := s.blockVals (view s) die f page ty b
    let new := (List.range 32).map fun i =>
      let e := 32 * b + i
      if first ≤ e ∧ e < first + vals.length then vals.getD (e - first) (.fin false 0 0)
      else old.getD i (.fin false 0 0)
    let r := mxBlock ty new
    write (write s (blockData die f ty b) (packCodes (mxBits ty) (r.2.map (·.1))))
      (blockScale die f page ty b) [BitVec.ofNat 8 r.1]) s

-- Any target ----------------------------------------------------------------------------------

/-- n bytes at a target as an agent of the group sees them, not through L1. -/
def State.readTgt (s : State) (view : Option Group) (t : Tgt) (n : Nat) : List Byte :=
  match t with
  | .dram a => s.viewBytes view a n
  | .sys a => memRead s.sys a n
  | .aliasAt d f p ty o => s.aliasRead view d f p ty o n

/-- Bytes are written at a target by an agent of the group at place g; a store to an alias page bypasses L1 (03 R84). -/
def State.writeTgt (s : State) (g : Nat) (t : Tgt) (bytes : List Byte) : State :=
  match t with
  | .dram a => s.agentWrite g a bytes
  | .sys a => { s with sys := memWrite s.sys a bytes }
  | .aliasAt d f p ty o => s.aliasWrite (fun s => s.grp g) (fun s a b => s.homeWrite g a b) d f p ty o bytes

/-- The group's version holds a byte of the line of an address. -/
def Group.ownsLine (gr : Group) (a : Nat) : Bool :=
  (List.range 128).any fun k => (SMap.get? (a / 128 * 128 + k) gr.version).isSome

/-- A load's bytes as its lane is performed: own version, else L1 unless that is bypassed (07 R174; 11 R270, R281). A
line that is read past L1 leaves it, so that no later load returns an older value; a .nol1 load leaves it unchanged,
which is the exception of 12 R289 (log entry 18). -/
def State.sample (s : State) (g : Nat) (cache : Nat) (byp : Bool) (t : Tgt) (n : Nat) : State × List Byte :=
  let view := s.grp g
  match t with
  | .dram a =>
    let own := match view with
      | some gr => gr.ownsLine a
      | none => false
    if own || byp || cache == 3 then
      (if own || byp then s.l1Drop (coreOf g) a else s, s.viewBytes view a n)
    else s.l1Read (coreOf g) (cache == 1) a n
  | t => (s, s.readTgt view t n)

-- Atomic updates ------------------------------------------------------------------------------

/-- The new value of an atomic (11 R273). -/
def AtomOp.new (op : AtomOp) (m : Nat) (b : DWord) : Nat :=
  let x : Word := BitVec.ofNat 32 m
  let y : Word := b.setWidth 32
  match op with
  | .addI32 => (x + y).toNat
  | .minI32 => (if x.slt y then x else y).toNat
  | .maxI32 => (if x.slt y then y else x).toNat
  | .andB32 => (x &&& y).toNat
  | .orB32 => (x ||| y).toNat
  | .xorB32 => (x ^^^ y).toNat
  | .exchB32 => y.toNat
  | .casB32 => if x = y then (b.extractLsb' 32 32).toNat else m
  | .addF32 => (fpAdd fp32 rmN m y.toNat).1
  | .addI64 => (BitVec.ofNat 64 m + b).toNat

/-- Access size (R273). -/
def AtomOp.size : AtomOp → Nat
  | .addI64 => 8
  | _ => 4

/-- The old value is sign-extended into G for the .i32 points (R273). -/
def AtomOp.signed : AtomOp → Bool
  | .addI32 => true
  | .minI32 => true
  | .maxI32 => true
  | _ => false

/-- An atomic lane at its home, in the view of the group at place g: the old value is returned. -/
def State.atomAt (s : State) (g : Nat) (op : AtomOp) (t : Tgt) (b : DWord) : State × Nat :=
  let m := leVal (s.readTgt (s.grp g) t op.size)
  (s.writeTgt g t (bytesOf op.size (op.new m b)), m)

/-- A row element's update by a scatter (05 R129): a sum, or the maximum of R130, of f32 or i32. -/
def rowUpdate (isMax isInt : Bool) (m f : Word) : Word :=
  if isMax && isInt then (if m.slt f then f else m)
  else if isMax then BitVec.ofNat 32 (if (fp32.decode m.toNat).isNan || (fp32.decode f.toNat).isNan
      then fp32.nanCode else (fpMinMax fp32 true m.toNat f.toNat).1)
  else if isInt then m + f
  else BitVec.ofNat 32 (fpAdd fp32 rmN m.toNat f.toNat).1

/-- Bytes at a run of targets. -/
def State.readPieces (s : State) (view : Option Group) (ps : List (Tgt × Nat)) : List Byte :=
  ps.flatMap fun p => s.readTgt view p.1 p.2

/-- Bytes are put at a run of targets, outside every version. -/
def State.putPieces (s : State) : List (Tgt × Nat) → List Byte → State
  | [], _ => s
  | (t, n) :: r, bs =>
    let s := match t with
      | .dram a => s.dramWrite a (bs.take n)
      | .sys a => { s with sys := memWrite s.sys a (bs.take n) }
      | .aliasAt _ _ _ _ _ => s
    s.putPieces r (bs.drop n)

/-- One element of a row is updated at its home (05 R129). -/
def State.rowApply (s : State) (isMax isInt : Bool) (ps : List (Tgt × Nat)) (f : Word) : State :=
  let m : Word := BitVec.ofNat 32 (leVal (s.readPieces none ps))
  s.putPieces ps (bytesOf 4 (rowUpdate isMax isInt m f).toNat)

/-- A contribution held for the commit is performed (11 R281; 05 R137). -/
def State.contribute (s : State) (c : Contrib) : State :=
  match c with
  | .ared op t b =>
    (match t with
      | .dram a => s.dramWrite a (bytesOf op.size (op.new (leVal (memRead s.mem a op.size)) b))
      | _ => s)
  | .row isMax isInt ps f => s.rowApply isMax isInt ps f

/-- The DPAs a contribution writes. -/
def Contrib.places : Contrib → List Nat
  | .ared _ (.dram a) _ => [a]
  | .ared _ _ _ => []
  | .row _ _ ps _ => ps.filterMap fun p => match p.1 with | .dram a => some a | _ => none

/-- Put a contribution in issue order. -/
def bufInsert (x : Nat × Contrib) : List (Nat × Contrib) → List (Nat × Contrib)
  | [] => [x]
  | y :: t => if x.1 < y.1 then x :: y :: t else y :: bufInsert x t

-- Commit and demotion -------------------------------------------------------------------------

/-- A version is applied: its bytes, then its contributions in order; a new version opens, later than any that is open
(12 R295, R297). That all of it takes place in one step is a DESIGN CHOICE (log entry 82). The core's L1 gives up the
lines. -/
def State.commitVersion (s : State) (g : Nat) : State :=
  match s.grp g with
  | none => s
  | some gr =>
    let s := gr.version.foldl (fun s (c : Nat × Byte) => (s.dramWrite c.1 [c.2]).l1Drop (coreOf g) c.1) s
    let s := gr.buf.foldl (fun (s : State) (c : Nat × Contrib) => s.contribute c.2) s
    let s := (gr.buf.flatMap fun (c : Nat × Contrib) => c.2.places).foldl (fun (s : State) a => s.l1Drop (coreOf g) a) s
    let s := s.modGrp g fun gr => { gr with version := [], buf := [], vopen := s.ages }
    { s with ages := s.ages + 1 }

/-- The first demotion's cause is kept (06 R166). -/
def spstDemote (x : BitVec 32) (cause : Nat) : BitVec 32 :=
  if bit x 7 then x else x ||| 0x80 ||| BitVec.ofNat 32 (32 * cause)

/-- A group is demoted to unversioned: the version commits first; the second copy of a redundant group
is discarded (11 R281; 09 R234). -/
def State.demote (s : State) (g cause : Nat) : State :=
  match s.grp g with
  | none => s
  | some gr =>
    if !gr.versioned then s
    else
      let s := s.commitVersion g
      let s := match gr.twin with
        | some t => s.evict t (fun _ => false) false
        | none => s
      s.modGrp g fun gr => { gr with cls := 0, twin := none, spst := spstDemote gr.spst cause }

/-- Nothing of the group is on its way that its version or a release must hold: stores and atomics
performed, no replay entry (11 R269). -/
def State.noReplay (s : State) (g : Nat) : Bool :=
  ((s.core (coreOf g)).replay.all fun r => !agIsOf g r.ag) && s.memops.all fun op => !(agIsOf g op.ag && op.replayed)

def OpKind.isWrite : OpKind → Bool
  | .st => true
  | .atom _ _ => true
  | .stc => true
  | _ => false

/-- No store or atomic of the group is in flight. -/
def State.writesDone (s : State) (g : Nat) : Bool :=
  s.memops.all fun op => !(agIsOf g op.ag && op.kind.isWrite)

/-- Distinct 128-byte lines of a rising version on a die (12 R295). -/
def linesOn (die : Nat) : Option Nat → SMap Byte → Nat
  | _, [] => 0
  | last, (a, _) :: t =>
    if a / 2 ^ 38 = die ∧ last ≠ some (a / 128) then 1 + linesOn die (some (a / 128)) t
    else linesOn die last t

/-- The lines that a run of bytes meets. -/
def runLines (a n : Nat) : List Nat := (List.range (n / 128 + 2)).filterMap fun k =>
  if (a / 128 + k) * 128 < a + n then some (a / 128 + k) else none

/-- The lines that a write of n bytes at a target enters into a version (12 R295); an alias store writes its blocks and
their scales (03 R84). -/
def Tgt.lines (n : Nat) : Tgt → List Nat
  | .dram a => runLines a n
  | .aliasAt d f p ty o => (List.range ((o % 64 + n + 63) / 64)).flatMap fun b =>
      runLines (blockData d f ty (o / 64 + b)) (4 * mxBits ty) ++ runLines (blockScale d f p ty (o / 64 + b)) 1
  | .sys _ => []

/-- Lines that a version does not hold yet, each once. -/
def Group.newLines (gr : Group) (ls : List Nat) : List Nat :=
  (distinct [] ls).filter fun x => (List.range 128).all fun k => (SMap.get? (x * 128 + k) gr.version).isNone

/-- Lines that the writes in flight of a group will enter into its version. -/
def State.comingLines (s : State) (g : Nat) (gr : Group) : List Nat :=
  gr.newLines ((s.memops.filter fun op => agIsOf g op.ag && op.kind.isWrite && !op.wide).flatMap fun op =>
    op.lanes.flatMap fun x => x.tgt.lines op.size)

/-- Lines that the pool of a cluster's versions holds on a die, with those of the writes in flight (12 R295). -/
def State.poolLines (s : State) (g die : Nat) : Nat :=
  (s.groups.filter fun x => clusterOf (coreOf x.1) == clusterOf (coreOf g) && x.2.versioned).foldl
    (fun n x => n + linesOn die none x.2.version
      + ((s.comingLines x.1 x.2).filter fun y => y * 128 / 2 ^ 38 == die).length) 0

/-- Writes of a versioned group that would take its pool past 16 MiB on a die: they stall (12 R298). -/
def State.poolStalls (s : State) (g : Nat) (gr : Group) (ts : List (Tgt × Nat)) : Bool :=
  gr.versioned &&
    let new := (gr.newLines (ts.flatMap fun t => t.1.lines t.2)).filter fun x => !(s.comingLines g gr).contains x
    (List.range 16).any fun d =>
      let k := (new.filter fun x => x * 128 / 2 ^ 38 == d).length
      k != 0 && 131072 < s.poolLines g d + k

-- The store-stream signature ------------------------------------------------------------------

/-- One bit of the CRC-64 of 16 R369. -/
def crcBit (c : DWord) (b : Bool) : DWord :=
  if bit c 63 != b then (c <<< 1) ^^^ 0x42f0e1eba9ea3693 else c <<< 1

/-- One byte, most significant bit first. -/
def crcByte (c : DWord) (b : Byte) : DWord :=
  [7, 6, 5, 4, 3, 2, 1, 0].foldl (fun c k => crcBit c (bit b k)) c

/-- The value a store adds to its partial: over the VA, a size byte and the data (R369). -/
def storeSig (va size : Nat) (data : List Byte) : DWord :=
  (bytesOf 8 va ++ [BitVec.ofNat 8 size] ++ data).foldl crcByte 0

/-- Add to a partial signature of a redundant group. -/
def State.sign (s : State) (g partialNo va : Nat) (data : List Byte) : State :=
  s.modGrp g fun gr =>
    if gr.cls == 2 then
      { gr with sig := SMap.modD partialNo 0 (· + storeSig va data.length data) gr.sig }
    else gr

/-- The partial of an agent's lane (R369). -/
def partialOf (ag : Agent) (lane : Nat) : Nat :=
  match ag with
  | .split _ w _ => 32 * quarterOf w + lane
  | .seq _ => 136

end Sys2Proof.Machine
end

