-- ==== Sys2Proof/Machine/Lane.lean ====
section
/-!
DEFINITION. The shapes of the fixed-latency points of 08: how a function of one element becomes the
meaning of a point in the lane stream and in the uniform stream, and the classes of R196.
-/

namespace Sys2Proof.Machine

-- The classes of R196 and R235.
def tInt : Timing := ⟨2, 1, .plain⟩
def tMul : Timing := ⟨4, 1, .plain⟩
def tFp : Timing := ⟨4, 1, .fp⟩
def tFp64 : Timing := ⟨6, 2, .fp⟩
def tFf : Timing := ⟨6, 1, .fp⟩
def tPerm : Timing := ⟨6, 1, .plain⟩
def tVote : Timing := ⟨8, 1, .plain⟩
def tRedF : Timing := ⟨12, 1, .fp⟩
def tFilt : Timing := ⟨14, 2, .plain⟩
def tElem : Timing := ⟨16, 4, .fp⟩
def tElem64 : Timing := ⟨32, 16, .fp⟩

/-- A 32-bit result per lane. -/
def res32 (mask : BitVec 32) (d : Dst) (f : Nat → Word) : Res := Res.lanes mask d [mkLanes f] 0 0

/-- A 32-bit result per lane, with flags. -/
def res32F (mask : BitVec 32) (d : Dst) (f : Nat → Word × Fl) : Res :=
  Res.lanes mask d [mkLanes fun l => (f l).1] (orFlags mask fun l => (f l).2) 0

/-- A 64-bit result per lane, with flags. -/
def res64F (mask : BitVec 32) (d : Dst) (f : Nat → DWord × Fl) : Res :=
  Res.lanes mask d [mkLanes fun l => (f l).1.setWidth 32, mkLanes fun l => (f l).1.extractLsb' 32 32]
    (orFlags mask fun l => (f l).2) 0

-- Both streams --------------------------------------------------------------------------------

/-- A two-source point of both streams; f at width 32 or 64 (08 R194). -/
def intBin (t : Timing) (ext : BitVec 16 → DWord) (f : (n : Nat) → BitVec n → BitVec n → BitVec n)
    (h : Hdr) (len : Nat) (d : Dst) (a b : Src) : State → Out :=
  let srcs : List SrcW := [(a, .w32), (b, .w32)]
  bothFixed t h len d srcs
    (fun c m =>
      let x := c.words ext srcs 0
      let y := c.words ext srcs 1
      .ok (res32 m d fun l => f 32 (w32 x l) (w32 y l)))
    (fun c => f 64 (c.gval ext a) (c.gval ext b))

/-- A one-source point of both streams. -/
def intUn (t : Timing) (f : (n : Nat) → BitVec n → BitVec n) (h : Hdr) (len : Nat) (d : Dst) (a : Src) :
    State → Out :=
  let srcs : List SrcW := [(a, .w32)]
  bothFixed t h len d srcs
    (fun c m =>
      let x := c.words extN srcs 0
      .ok (res32 m d fun l => f 32 (w32 x l)))
    (fun c => f 64 (c.gval extN a))

/-- A three-source point of both streams. -/
def intTri (t : Timing) (f : (n : Nat) → BitVec n → BitVec n → BitVec n → BitVec n) (h : Hdr) (len : Nat)
    (d : Dst) (a b e : Src) : State → Out :=
  let srcs : List SrcW := [(a, .w32), (b, .w32), (e, .w32)]
  bothFixed t h len d srcs
    (fun c m =>
      let x := c.words extN srcs 0
      let y := c.words extN srcs 1
      let z := c.words extN srcs 2
      .ok (res32 m d fun l => f 32 (w32 x l) (w32 y l) (w32 z l)))
    (fun c => f 64 (c.gval extN a) (c.gval extN b) (c.gval extN e))

-- The lane stream -----------------------------------------------------------------------------

/-- 32-bit lanes from two sources, with flags. -/
def lane2 (t : Timing) (ext : BitVec 16 → DWord) (f : Word → Word → Word × Fl) (h : Hdr) (len : Nat)
    (d : Dst) (a b : Src) : State → Out :=
  let srcs : List SrcW := [(a, .w32), (b, .w32)]
  laneFixed t h len [(d, .w32)] srcs fun c m =>
    let x := c.words ext srcs 0
    let y := c.words ext srcs 1
    .ok (res32F m d fun l => f (w32 x l) (w32 y l))

/-- 32-bit lanes from one source, with flags. -/
def lane1 (t : Timing) (f : Word → Word × Fl) (h : Hdr) (len : Nat) (d : Dst) (a : Src) : State → Out :=
  let srcs : List SrcW := [(a, .w32)]
  laneFixed t h len [(d, .w32)] srcs fun c m =>
    let x := c.words extN srcs 0
    .ok (res32F m d fun l => f (w32 x l))

/-- 32-bit lanes from three sources, with flags. -/
def lane3 (t : Timing) (f : Word → Word → Word → Word × Fl) (h : Hdr) (len : Nat) (d : Dst)
    (a b e : Src) : State → Out :=
  let srcs : List SrcW := [(a, .w32), (b, .w32), (e, .w32)]
  laneFixed t h len [(d, .w32)] srcs fun c m =>
    let x := c.words extN srcs 0
    let y := c.words extN srcs 1
    let z := c.words extN srcs 2
    .ok (res32F m d fun l => f (w32 x l) (w32 y l) (w32 z l))

/-- 64-bit lanes from two 64-bit sources. -/
def lane2x64 (t : Timing) (f : DWord → DWord → DWord × Fl) (h : Hdr) (len : Nat) (d : Dst) (a b : Src) :
    State → Out :=
  let srcs : List SrcW := [(a, .w64), (b, .w64)]
  laneFixed t h len [(d, .w64)] srcs fun c m =>
    let x := c.words extN srcs 0
    let y := c.words extN srcs 1
    .ok (res64F m d fun l => f (w64 x l) (w64 y l))

/-- 64-bit lanes from three 64-bit sources. -/
def lane3x64 (t : Timing) (f : DWord → DWord → DWord → DWord × Fl) (h : Hdr) (len : Nat) (d : Dst)
    (a b e : Src) : State → Out :=
  let srcs : List SrcW := [(a, .w64), (b, .w64), (e, .w64)]
  laneFixed t h len [(d, .w64)] srcs fun c m =>
    let x := c.words extN srcs 0
    let y := c.words extN srcs 1
    let z := c.words extN srcs 2
    .ok (res64F m d fun l => f (w64 x l) (w64 y l) (w64 z l))

/-- 64-bit lanes from one 64-bit source. -/
def lane1x64 (t : Timing) (f : DWord → DWord × Fl) (h : Hdr) (len : Nat) (d : Dst) (a : Src) :
    State → Out :=
  let srcs : List SrcW := [(a, .w64)]
  laneFixed t h len [(d, .w64)] srcs fun c m =>
    let x := c.words extN srcs 0
    .ok (res64F m d fun l => f (w64 x l))

/-- 32-bit lanes from a 64-bit source. -/
def lane64to32 (t : Timing) (f : DWord → Word × Fl) (h : Hdr) (len : Nat) (d : Dst) (a : Src) :
    State → Out :=
  let srcs : List SrcW := [(a, .w64)]
  laneFixed t h len [(d, .w32)] srcs fun c m =>
    let x := c.words extN srcs 0
    .ok (res32F m d fun l => f (w64 x l))

/-- 64-bit lanes from a 32-bit source. -/
def lane32to64 (t : Timing) (f : Word → DWord × Fl) (h : Hdr) (len : Nat) (d : Dst) (a : Src) :
    State → Out :=
  let srcs : List SrcW := [(a, .w32)]
  laneFixed t h len [(d, .w64)] srcs fun c m =>
    let x := c.words extN srcs 0
    .ok (res64F m d fun l => f (w32 x l))

/-- The two 16-bit elements of a lane word, each computed and flagged on its own (04 R87). -/
def halves2 (f : Nat → Nat → Coded) (a b : Word) : Word × Fl :=
  let lo := f (a.toNat % 65536) (b.toNat % 65536)
  let hi := f (a.toNat / 65536) (b.toNat / 65536)
  (BitVec.ofNat 16 hi.1 ++ BitVec.ofNat 16 lo.1, lo.2 ||| hi.2)

def halves3 (f : Nat → Nat → Nat → Coded) (a b e : Word) : Word × Fl :=
  let lo := f (a.toNat % 65536) (b.toNat % 65536) (e.toNat % 65536)
  let hi := f (a.toNat / 65536) (b.toNat / 65536) (e.toNat / 65536)
  (BitVec.ofNat 16 hi.1 ++ BitVec.ofNat 16 lo.1, lo.2 ||| hi.2)

/-- An FP32 function on lane words. -/
def on32 (f : Nat → Nat → Coded) (a b : Word) : Word × Fl :=
  let r := f a.toNat b.toNat
  (BitVec.ofNat 32 r.1, r.2)

def on32x3 (f : Nat → Nat → Nat → Coded) (a b e : Word) : Word × Fl :=
  let r := f a.toNat b.toNat e.toNat
  (BitVec.ofNat 32 r.1, r.2)

def on64 (f : Nat → Nat → Coded) (a b : DWord) : DWord × Fl :=
  let r := f a.toNat b.toNat
  (BitVec.ofNat 64 r.1, r.2)

def on64x3 (f : Nat → Nat → Nat → Coded) (a b e : DWord) : DWord × Fl :=
  let r := f a.toNat b.toNat e.toNat
  (BitVec.ofNat 64 r.1, r.2)

/-- A one-operand function between widths. -/
def onFn (n : Nat) {k : Nat} (f : Nat → Coded) (a : BitVec k) : BitVec n × Fl :=
  let r := f a.toNat
  (BitVec.ofNat n r.1, r.2)

/-- No flags. -/
def noFl {α : Type} (x : α) : α × Fl := (x, 0)

/-- The source of a compact word whose destination is source A (02 R39). -/
def srcA16 (d : Dst) : Src := d.toSrc

/-- Source C of a three-source point written in the 32-bit form: code 0x00 (08 R193). -/
def srcC32 : Dst → Src
  | .g _ => .g 0
  | _ => .v 0

end Sys2Proof.Machine
end

