-- ==== Sys2Proof/Machine/Mem.lean ====
section
/-!
DEFINITION. Loads and stores of global memory, scratchpad and lane-private memory, fences, prefetch and
cache maintenance (11 R260 to R272, R278 to R282; 09 R232), and the steps in which their accesses are
performed.
-/

namespace Sys2Proof.Machine

-- Shared parts --------------------------------------------------------------------------------

/-- A target outside every version. -/
def Tgt.isSys : Tgt → Bool
  | .sys _ => true
  | _ => false

/-- The sources of an instruction of variable latency: queue pops, latch reads, and its read cycles with
a collector (07 R180, R185; 15 R353). -/
def State.operandsTaken (s : State) (c : ICtx) (srcs : List SrcW) : State :=
  if c.uni then s
  else
    let s := (s.popped c srcs).latchRead c srcs
    if (c.order srcs).isEmpty then s else s.modQuarter c.core c.q (useReads srcs c)

/-- The lanes that act: the active lanes, or the one lane of a sequencer. -/
def ICtx.acting (c : ICtx) (h : Hdr) : List Nat := if c.uni then [0] else maskLanes (c.active h)

/-- A 64-bit address per lane (R260). -/
def ICtx.addr (c : ICtx) (srcs : List SrcW) (i : Nat) : Nat → DWord :=
  if c.uni then
    let x := match srcs[i]? with | some (a, _) => c.gval extN a | none => 0
    fun _ => x
  else
    let ws := c.words extN srcs i
    fun l => w64 ws l

/-- A 32-bit local address or offset per lane (R261, R262). -/
def ICtx.local (c : ICtx) (srcs : List SrcW) (i : Nat) : Nat → Word :=
  if c.uni then
    let x := match srcs[i]? with | some (a, _) => c.gval extN a | none => 0
    fun _ => x.setWidth 32
  else
    let ws := c.words extN srcs i
    fun l => w32 ws l

/-- Data of up to 128 bits per lane. -/
def ICtx.data (c : ICtx) (srcs : List SrcW) (i : Nat) : Nat → BitVec 128 :=
  if c.uni then
    let x := match srcs[i]? with | some (a, _) => c.gval extN a | none => 0
    fun _ => x.setWidth 128
  else
    let ws := c.words extN srcs i
    fun l => w128 ws l

/-- An earlier acquire of the wave is still to be performed: its later accesses wait (R274). -/
def State.acqPending (s : State) (ag : Agent) : Bool :=
  s.memops.any fun op => sameWave op.ag ag && op.acq.isSome

/-- A parked entry of the wave holds a store to the page of an address (R267). -/
def State.pageParked (s : State) (c : ICtx) (va : DWord) : Bool :=
  (s.core c.core).replay.any fun r =>
    sameWave r.ag c.ag && r.ctx == c.gr.ctx && r.page == va.toNat % 2 ^ 48 / 65536

/-- Whether agent b lies in the instance of a scope of an agent of the group at place g (12 R286); of its wave, with
scope 0, the order within the wave speaks. -/
def inScope (scope g : Nat) (b : Agent) : Bool :=
  match scope with
  | 0 => false
  | 1 => agPlace b == g
  | 2 => clusterOf (coreOf (agPlace b)) == clusterOf (coreOf g)
  | 3 => dieOfCore (coreOf (agPlace b)) == dieOfCore (coreOf g)
  | _ => true

/-- A release that went past this write reaches agent b (R286, R287). -/
def MemOp.passedTo (op : MemOp) (b : Agent) : Bool :=
  match op.passed with
  | some (scope, g) => inScope scope g b
  | none => false

/-- Whether a release at a scope waits until a write is performed at its home (R278; 01 R29; 12 R292): at wave and group
scope none is awaited; at cluster and die scope those with a home on the agent's die, for the others are in the S-die
queues; at package scope those too, and at system scope those of system space (log entry 28). -/
def Tgt.awaited (scope die : Nat) : Tgt → Bool
  | .dram a => 4 ≤ scope || (2 ≤ scope && a / 2 ^ 38 == die)
  | .aliasAt d _ _ _ _ => 4 ≤ scope || (2 ≤ scope && d == die)
  | .sys _ => 5 ≤ scope

/-- An access in flight that a release of the agent at a scope waits for: its own reads and atomics, its own writes that
are awaited, and at package scope or wider a write that an earlier release handed on to it (R269, R278; 12 R290). -/
def MemOp.holdsRelease (op : MemOp) (c : ICtx) (scope : Nat) : Bool :=
  if sameWave op.ag c.ag then
    match op.kind with
    | .pref _ => false
    | .st => op.lanes.any fun x => x.tgt.awaited scope (dieOfCore c.core)
    | _ => true
  else 4 ≤ scope && op.passedTo c.ag

/-- Earlier accesses are performed as far as a scope asks, and no entry of the group is parked: a release may go on (R269,
R278). -/
def State.released (s : State) (c : ICtx) (scope : Nat) : Bool :=
  (s.memops.all fun op => !op.holdsRelease c scope) && s.noReplay c.g

/-- A release at a scope goes past the writes that it does not wait for: the agents of its instance see them, and those
of them that an earlier release handed on (12 R286, R290). -/
def State.passWrites (s : State) (c : ICtx) (scope : Nat) : State :=
  { s with memops := s.memops.map fun op =>
      if op.kind == .st && (sameWave op.ag c.ag || op.passedTo c.ag) then
        { op with passed := some (max scope ((op.passed.map (·.1)).getD 0), c.g) }
      else op }

/-- Translate the addresses of lanes. -/
def State.translateLanes (s : State) (u : TUnit) (ctx : Nat) (acc : Acc) :
    List (Nat × DWord) → State × List (Nat × DWord × Except Nat Trans)
  | [] => (s, [])
  | (l, va) :: t =>
    let (s, r) := s.translate u ctx acc va
    let (s, rs) := s.translateLanes u ctx acc t
    (s, (l, va, r) :: rs)

/-- An alias page refuses the access (03 R85). -/
def aliasMisuse (byteStore : Bool) (va : DWord) (t : Trans) : Bool :=
  match t.tgt with
  | .aliasAt _ _ _ _ _ => byteStore || va.toNat % 2 == 1
  | _ => false

/-- Alias pages refuse atomics, system pages give protection (R275). -/
def atomFault (t : Trans) : Option Nat :=
  match t.tgt with
  | .aliasAt _ _ _ _ _ => some cAlias
  | .sys _ => some cProtection
  | .dram _ => none

/-- Apply a further check to translated lanes. -/
def refuse (f : DWord → Trans → Option Nat) (rs : List (Nat × DWord × Except Nat Trans)) :
    List (Nat × DWord × Except Nat Trans) :=
  rs.map fun (l, va, r) => (l, va, match r with
    | .ok t => (match f va t with | some k => .error k | none => .ok t)
    | .error k => .error k)

/-- The trap of the lowest lane with a trap fault (R265 step 6). -/
def trapOf (rs : List (Nat × DWord × Except Nat Trans)) : Option Stop :=
  rs.findSome? fun (l, va, r) => match r with
    | .error k => if k = cNotPresent then none else some (.trap k (some va.toNat) l)
    | .ok _ => none

/-- The lanes whose page is not present. -/
def absentOf (rs : List (Nat × DWord × Except Nat Trans)) : List (Nat × DWord) :=
  rs.filterMap fun (l, va, r) => match r with
    | .error _ => some (l, va)
    | .ok _ => none

/-- The translated lanes with their data. -/
def lanesOf (data : Nat → BitVec 128) (rs : List (Nat × DWord × Except Nat Trans)) : List LaneAcc :=
  rs.filterMap fun (l, va, r) => match r with
    | .error _ => none
    | .ok t => some ⟨l, va.toNat, t.tgt, t.bypass, data l⟩

/-- Misalignment, then non-canonical addresses, lowest lane first (R265 steps 3 and 4). -/
def addrStop (size : Nat) (lanes : List Nat) (addr : Nat → DWord) : Option Stop :=
  match lanes.find? fun l => (addr l).toNat % size != 0 with
  | some l => some (.trap cValue none l)
  | none =>
    match lanes.find? fun l => !canonical (addr l) with
    | some l => some (.trap cNonCanonical (some (addr l).toNat) l)
    | none => none

/-- An access is put in flight. -/
def State.addOp (s : State) (op : MemOp) : State :=
  { s with memops := s.memops ++ [{ op with id := s.nextId, since := s.clk }], nextId := s.nextId + 1 }

/-- The first stop of a load, atomic or maintenance access: checks, waits, faults; else its lanes
(R265, R267). -/
def State.resolve (s : State) (c : ICtx) (u : TUnit) (acc : Acc) (size : Nat) (lanes : List Nat)
    (addr : Nat → DWord) (f : DWord → Trans → Option Nat) (data : Nat → BitVec 128) :
    Except Stop (State × List LaneAcc) :=
  match addrStop size lanes addr with
  | some st => .error st
  | none =>
    if s.acqPending c.ag || lanes.any fun l => s.pageParked c (addr l) then .error .hold
    else
      let (s, rs) := s.translateLanes u c.gr.ctx acc (lanes.map fun l => (l, addr l))
      let rs := refuse f rs
      match trapOf rs with
      | some st => .error st
      | none =>
        match absentOf rs with
        | (l, va) :: _ => .error (.park va.toNat l)
        | [] => .ok (s, lanesOf data rs)

-- Loads ---------------------------------------------------------------------------------------

/-- Bytes of a width. -/
def Wd.bytes : Wd → Nat
  | .w32 => 4
  | .w64 => 8
  | .w128 => 16
  | .iv32 => 8
  | .iv64 => 16

/-- A global load (R263 to R265). -/
def load (size : Nat) (sext : Bool) (wd : Wd) (h : Hdr) (d : Dst) (a : Src) (hint : Hint) : State → Out :=
  let srcs : List SrcW := [(a, .w64)]
  issueReading srcs h fun c s =>
    match c.opStop [(d, wd)] srcs with
    | some st => .error st
    | none =>
      let s := s.operandsTaken c srcs
      let lanes := c.acting h
      if wd.isIv && s.ivHolds c then .error .hold
      else if lanes.isEmpty then .ok (s.doneNow c h)
      else
        match s.resolve c (s.tunit c.core hint) .rd size lanes (c.addr srcs 0)
            (fun va t => if aliasMisuse false va t then some cAlias else none) (fun _ => 0) with
        | .error st => .error st
        | .ok (s, las) =>
          .ok (s.addOp ⟨0, c.ag, c.pc, size, .ld sext hint.cache.toNat, las,
            if h.nw then none else some d, hdrFlag h, [], c.active h, none, false, 0, none, false, [], wd.isIv⟩)

/-- The registers of a value of a size. -/
def regsOf (size : Nat) : Nat := if size ≤ 4 then 1 else size / 4

/-- A lane's value is written to a destination: the lane words of V registers, W from the lowest lane of
the instruction, or G (02 R43; 11 R264). -/
def State.putLane (s : State) (ag : Agent) (d : Dst) (mask : BitVec 32) (lane size : Nat) (x : BitVec 128) :
    State :=
  match ag, d with
  | .split g w _, .v n =>
    s.modWave g w fun wv => (List.range (regsOf size)).foldl (fun wv k =>
      { wv with v := SMap.modD (n + k) zeroLanes (fun old => mkLanes fun l => if l = lane then x.extractLsb' (32 * k) 32 else laneOf old l) wv.v }) wv
  | .split g w _, .w n =>
    if lowest mask == some lane then s.modWave g w fun wv => { wv with w := setW wv.w n (x.setWidth 64) } else s
  | .seq g, .g n => s.modSeq g fun q => { q with g := setG q.g n (x.setWidth 64) }
  | _, _ => s

/-- The value of bytes as a load delivers it: to 32 bits in the lane stream, to 64 in the uniform
stream (R264). -/
def loadValue (ag : Agent) (size : Nat) (sext : Bool) (bs : List Byte) : BitVec 128 :=
  let x := leVal bs
  if sext && size < 4 then
    let v : Int := if 2 ^ (8 * size - 1) ≤ x then (x : Int) - (2 ^ (8 * size) : Nat) else x
    match ag with
    | .seq _ => (BitVec.ofInt 64 v).setWidth 128
    | .split _ _ _ => (BitVec.ofInt 32 v).setWidth 128
  else BitVec.ofNat 128 x

/-- Data that were sampled at issue: no access to global memory. -/
def OpKind.isReady : OpKind → Bool
  | .ready _ => true
  | _ => false

/-- Targets in one line. -/
def Tgt.near : Tgt → Tgt → Bool
  | .dram a, .dram b => a / 128 == b / 128
  | .sys a, .sys b => a / 128 == b / 128
  | .aliasAt d f _ _ o, .aliasAt d' f' _ _ o' => d == d' && f == f' && o / 64 == o' / 64
  | _, _ => false

/-- An earlier access in flight that must be performed first: of the same wave, to a shared byte; a write that a release
has handed on to this agent, in the same line; or a lower lane of the same store (12 R289, R290; 11 R264). -/
def earlierClash (l : List MemOp) (op : MemOp) (x : LaneAcc) : Bool :=
  !op.kind.isReady &&
    (((l.takeWhile fun o => o.id != op.id).any fun o => !o.kind.isReady &&
        ((sameWave o.ag op.ag && o.lanes.any fun y => y.tgt.clash o.size x.tgt op.size)
          || (o.passedTo op.ag && o.lanes.any fun y => y.tgt.near x.tgt)))
      || (op.kind.isWrite && op.lanes.any fun y => y.lane < x.lane && y.tgt.clash op.size x.tgt op.size))

/-- The device records what a wide operation returned with the group's context (R281). -/
def Group.recordAnswer (gr : Group) (key : Option Nat) (xs : List DWord) : Group :=
  { gr with ckpt := { gr.ckpt with answers := gr.ckpt.answers ++ [(key, xs)] } }

/-- The waves' key of recorded answers: the wave, or none for the sequencer. -/
def ansKey : Agent → Option Nat
  | .split _ w _ => some w
  | .seq _ => none

/-- Put a lane's old value in order of lanes. -/
def gotInsert (x : Nat × BitVec 128) : List (Nat × BitVec 128) → List (Nat × BitVec 128)
  | [] => [x]
  | y :: t => if x.1 < y.1 then x :: y :: t else y :: gotInsert x t

/-- An access that leaves lanes in flight, or completes: its flag falls and its acquire takes effect. -/
def State.opLeft (s : State) (op : MemOp) (left : List LaneAcc) (got : List (Nat × BitVec 128)) : State :=
  if left.isEmpty then
    let s := { s with memops := s.memops.filter fun o => o.id != op.id }
    let s := match op.acq with
      | some sc => s.acquire (coreOf (agPlace op.ag)) sc
      | none => s
    let s := if op.wide then s.modGrp (agPlace op.ag) fun gr =>
        gr.recordAnswer (ansKey op.ag) (got.map fun p => p.2.setWidth 64) else s
    s.lower op.ag op.flag
  else { s with memops := s.memops.map fun o =>
      if o.id == op.id then { o with lanes := left, got := got, halves := op.halves } else o }

/-- A lane of 16 bytes in system space of which neither half is performed (R264). -/
def MemOp.firstHalf (op : MemOp) (x : LaneAcc) : Bool :=
  op.size == 16 && x.tgt.isSys && op.halves.all fun p => p.1 != x.lane

/-- What is left of a lane to perform: its target and its bytes, the first 8 of them being done in system space
(R264). -/
def MemOp.rest (op : MemOp) (x : LaneAcc) : Tgt × Nat :=
  if op.size == 16 && x.tgt.isSys then (if op.firstHalf x then (x.tgt, 8) else (x.tgt.plus 8, 8)) else (x.tgt, op.size)

/-- The bytes of a load's first half, where one is done. -/
def MemOp.lowHalf (op : MemOp) (x : LaneAcc) : List Byte :=
  match op.halves.find? fun p => p.1 == x.lane with
  | some p => bytesOf 8 p.2.toNat
  | none => []

/-- A lane makes a reservation; a home slice holds 4,096 and drops the oldest (R277). -/
def State.reserve (s : State) (g w sp lane a : Nat) : State :=
  let keep := s.resvs.filter fun r => !(r.g == g && r.w == w && r.lane == lane)
  let here := keep.filter fun r => homeSlice (r.granule * 128) == homeSlice a
  let keep := if 4096 ≤ here.length then
      match here with | o :: _ => keep.filter (· != o) | [] => keep
    else keep
  { s with resvs := keep ++ [⟨g, w, sp, lane, a / 128⟩] }

/-- One lane of a load is performed and its destination written. -/
def State.loadLane (s : State) (op : MemOp) (x : LaneAcc) : State :=
  let g := agPlace op.ag
  match op.kind with
  | .ld sext cache =>
    let (s, bs) := s.sample g cache x.byp (op.rest x).1 (op.rest x).2
    (match op.dst with
      | some d => s.putLane op.ag d op.mask x.lane op.size (loadValue op.ag op.size sext (op.lowHalf x ++ bs))
      | none => s)
  | .ldr =>
    let bs := s.readTgt (if op.wide then none else s.grp g) x.tgt 4
    let s := match op.dst with
      | some d => s.putLane op.ag d op.mask x.lane 4 (loadValue op.ag 4 false bs)
      | none => s
    (match op.ag, x.tgt with
      | .split g w sp, .dram a => (s.l1Drop (coreOf g) a).reserve g w sp x.lane a
      | _, _ => s)
  | .pref cache =>
    (match x.tgt with
      | .dram a => if cache != 3 && !x.byp && !((s.grp g).map fun gr => gr.ownsLine a).getD false then
          (s.l1Read (coreOf g) (cache == 1) a 1).1 else s
      | _ => s)
  | .ready _ =>
    (match op.dst with
      | some d => s.putLane op.ag d op.mask x.lane op.size x.data
      | none => s)
  | _ => s

/-- Lanes of an access of a kind are completed in one step; a lane of 16 bytes in system space has its first 8 read in
one step and the others in another (R264). -/
def State.completeLanes (s : State) (ok : OpKind → Bool) (id : Nat) (mask : BitVec 32) : Out :=
  match s.memops.find? fun o => o.id == id with
  | none => notNow s
  | some op =>
    let now := op.lanes.filter fun x => bit mask x.lane
    if !ok op.kind || now.isEmpty || now.any fun x => earlierClash s.memops op x then notNow s
    else
      let got := if op.wide then now.foldl (fun l x =>
          gotInsert (x.lane, BitVec.ofNat 128 (leVal (s.readTgt none x.tgt op.size))) l) op.got
        else op.got
      let half := now.filter op.firstHalf
      .next (((now.filter fun x => !op.firstHalf x).foldl (fun s x => s.loadLane op x) s).opLeft
        { op with halves := op.halves ++ half.map fun x => (x.lane, BitVec.ofNat 64 (leVal (s.readTgt none x.tgt 8))) }
        (op.lanes.filter fun x => !bit mask x.lane || op.firstHalf x) got)

/-- LOAD_COMPLETE: lanes of a load return (R264, R271, R276, R279). -/
def execLoadComplete (id : Nat) (mask : BitVec 32) (s : State) : Out :=
  s.completeLanes (fun k => match k with
    | .ld _ _ => true
    | .ldr => true
    | .pref _ => true
    | .ready f => f == 0
    | _ => false) id mask

-- Stores --------------------------------------------------------------------------------------

/-- The distinct pages of lanes, in order of first lane. -/
def pagesOf (ls : List (Nat × DWord)) : List Nat :=
  distinct [] (ls.map fun p => p.2.toNat % 2 ^ 48 / 65536)

/-- A new replay entry for the lanes of one page, with its record (R266). -/
def State.addReplay (s : State) (c : ICtx) (size page : Nat) (lanes : List LaneAcc) : State :=
  let s := s.modCore c.core fun k =>
    { k with replay := k.replay ++ [⟨s.nextId, c.ag, c.pc, c.gr.ctx, page, size, lanes, none, none⟩] }
  let s := { s with nextId := s.nextId + 1 }
  let (va, lane) := match lanes with | x :: _ => (x.va, x.lane) | [] => (0, 0)
  s.send (c.gr.report c.g cNotPresent 0x02 c.pc c.uni (some va) lane c.places)

/-- A versioned group is demoted before the instruction issues, once its writes in flight and its parked
stores are performed (03 R70; 11 R281): the instruction is still to issue in the state that results. -/
def ICtx.demoted (c : ICtx) (cause : Nat) : Except Stop State :=
  if c.before.writesDone c.g && c.before.noReplay c.g then .ok (c.before.demote c.g cause) else .error .hold

/-- An operation at die scope or wider, other than directly after a commit point, demotes a versioned
group (R281). always: a returning atomic or stc of a redundant group, which is demoted even there. -/
def ICtx.demotes (c : ICtx) (wide always : Bool) : Bool :=
  c.gr.versioned && wide && (!c.fresh || (always && c.gr.cls == 2))

/-- The lanes of a store enter the signature of a redundant group in issue order (16 R369). -/
def State.signLanes (s : State) (c : ICtx) (size : Nat) (ls : List (Nat × DWord)) (data : Nat → BitVec 128) :
    State :=
  if c.gr.cls = 2 then
    ls.foldl (fun s p => s.sign c.g (partialOf c.ag p.1) p.2.toNat (bytesOf size (data p.1).toNat)) s
  else s

/-- A global store (R263 to R267). -/
def store (size : Nat) (wd : Wd) (h : Hdr) (a b : Src) (hint : Hint) : State → Out :=
  let srcs : List SrcW := [(a, .w64), (b, wd)]
  issueReading srcs h fun c s =>
    match c.opStop [] srcs with
    | some st => .error st
    | none =>
      let s := s.operandsTaken c srcs
      let lanes := c.acting h
      if lanes.isEmpty then .ok (s.doneNow c h)
      else
        let addr := c.addr srcs 0
        let data := c.data srcs 1
        match addrStop size lanes addr with
        | some st => .error st
        | none =>
          if s.acqPending c.ag || (wd.isIv && s.ivHolds c) then .error .hold
          else
            let all := lanes.map fun l => (l, addr l)
            let (s, rs) := s.translateLanes (s.tunit c.core hint) c.gr.ctx .wr all
            let rs := refuse (fun va t => if aliasMisuse (size == 1) va t then some cAlias else none) rs
            match trapOf rs with
            | some st => .error st
            | none =>
              let behind := fun (l : Nat × DWord) => s.pageParked c l.2
              let absent := absentOf rs
              let late := all.filter fun p => absent.contains p || behind p
              let now := (lanesOf data rs).filter fun x => !(late.any fun p => p.1 == x.lane)
              let pages := pagesOf late
              if 32 < (s.core c.core).replay.length + pages.length then .error .hold
              else if s.poolStalls c.g c.gr (now.map fun x => (x.tgt, size)) then .error .stall
              else if c.gr.versioned && now.any fun x => x.tgt.isSys then c.demoted 3
              else
                let s := s.signLanes c size all data
                let s := pages.foldl (fun s pg =>
                  s.addReplay c size pg ((late.filter fun p => p.2.toNat % 2 ^ 48 / 65536 == pg).map fun p =>
                    ⟨p.1, p.2.toNat, .sys 0, false, data p.1⟩)) s
                if now.isEmpty then .ok (s.doneNow c h)
                else .ok (s.addOp ⟨0, c.ag, c.pc, size, .st, now, none, hdrFlag h, [], c.active h, none, false, 0, none, false, [],
                  wd.isIv⟩)

/-- The bytes of a store's lane that are still to be written. -/
def MemOp.restBytes (op : MemOp) (x : LaneAcc) : List Byte :=
  let bs := bytesOf op.size x.data.toNat
  if op.size == 16 && x.tgt.isSys then (if op.firstHalf x then bs.take 8 else bs.drop 8) else bs

/-- STORE_PERFORMED: one lane of a store is performed at its home, or one line of a cwback is in DRAM (R264, R279); a
lane of 16 bytes in system space takes two steps. -/
def execStorePerformed (id lane : Nat) (s : State) : Out :=
  match s.memops.find? fun o => o.id == id with
  | none => notNow s
  | some op =>
    match op.lanes.find? fun x => x.lane == lane with
    | none => notNow s
    | some x =>
      let left := op.lanes.filter fun y => y.lane != lane
      match op.kind with
      | .st =>
        if earlierClash s.memops op x then notNow s
        else
          let s := s.writeTgt (agPlace op.ag) (op.rest x).1 (op.restBytes x)
          if op.firstHalf x then .next (s.opLeft { op with halves := op.halves ++ [(lane, 0)] } op.lanes op.got)
          else .next (s.opLeft op left op.got)
      | .cwback => .next (s.opLeft op left op.got)
      | _ => notNow s

/-- The lanes of a replay entry translated again; a failed service gives protection (R268; 16 R364). -/
def State.retranslate (s : State) (core : Nat) (r : Replay) (failed : Bool) :
    State × List (Nat × DWord × Except Nat Trans) :=
  let vas := r.lanes.map fun x => (x.lane, BitVec.ofNat 64 x.va)
  if failed then (s, vas.map fun p => (p.1, p.2, .error cProtection))
  else
    let (s, rs) := s.translateLanes (.core core (dieOfCore core)) r.ctx .wr vas
    (s, refuse (fun va t => if aliasMisuse (r.size == 1) va t then some cAlias else none) rs)

/-- A serviced entry's lanes that resolve have no room in the pool of versions (12 R298). -/
def State.replayStalls (s : State) (g core : Nat) (r : Replay) : Bool :=
  match s.grp g, r.svc with
  | some gr, some failed =>
    let data := fun l => ((r.lanes.find? fun x => x.lane == l).map LaneAcc.data).getD 0
    s.poolStalls g gr ((lanesOf data (s.retranslate core r failed).2).map fun (x : LaneAcc) => (x.tgt, r.size))
  | _, _ => false

/-- REPLAY_ENTRY_REPLAY (R268): a serviced entry, the oldest of its page, is translated again; a trap fault ends the
task; else the lanes that resolve go to their homes, behind what the wave has in flight (03 R70; 12 R289, R299), and the
others stay with a new record. Where they have no room in the pool of versions they wait (12 R298). -/
def execReplayEntryReplay (core id : Nat) (s : State) : Out :=
  match (s.core core).replay.find? fun r => r.id == id with
  | none => notNow s
  | some r =>
    let before := (s.core core).replay.takeWhile fun x => x.id != id
    match r.svc with
    | none => notNow s
    | some failed =>
      if before.any fun x => x.ctx == r.ctx && x.page == r.page then notNow s
      else
        let g := agPlace r.ag
        let (u, rs) := s.retranslate core r failed
        let drop := fun (s : State) => s.modCore core fun k => { k with replay := k.replay.filter fun x => x.id != id }
        let report := fun (flags : BitVec 8) (cause va lane : Nat) => (u.grp g).map fun gr =>
          gr.report g cause flags r.pc (match r.ag with | .seq _ => true | _ => false) (some va) lane
            (match r.ag with
              | .split _ w _ => (match gr.waves[w]? with | some wv => [wv.place] | none => [])
              | .seq _ => [])
        match trapOf rs with
        | some (.trap cause (some va) lane) =>
          (match report 0 cause va lane with
            | some rec => .next ((drop u).endTask g rec)
            | none => .next (drop u))
        | _ =>
          let data := fun l => ((r.lanes.find? fun x => x.lane == l).map LaneAcc.data).getD 0
          let now := lanesOf data rs
          let absent := absentOf rs
          if u.replayStalls g core r then notNow s else
          let s := if now.any fun x => x.tgt.isSys then u.demote g 3 else u
          let s := if now.isEmpty then s
            else s.addOp ⟨0, r.ag, r.pc, r.size, .st, now, none, none, [], 0, none, false, 0, none, true, [], false⟩
          match absent with
          | [] => .next (drop s)
          | (l, va) :: _ =>
            let stay := r.lanes.filter fun (y : LaneAcc) => absent.any fun p => p.1 == y.lane
            let s := s.modCore core fun k => { k with replay := k.replay.map fun (x : Replay) =>
              if x.id == id then { x with svc := none, lanes := stay } else x }
            (match report 0x02 cNotPresent va.toNat l with
              | some rec => .next (s.send rec)
              | none => .next s)

-- Scratchpad and lane-private memory ----------------------------------------------------------

/-- The 16 bytes of a barrier object (13 R315). -/
def Barrier.byte (b : Barrier) (k : Nat) : Byte :=
  (bytesOf 4 b.bytes ++ bytesOf 2 b.arrivals ++ [BitVec.ofNat 8 b.expArrivals, if b.phase then 1 else 0]
    ++ bytesOf 4 b.expBytes ++ bytesOf 4 0).getD k 0

/-- The initialised barrier object that covers a scratchpad byte. -/
def Group.barAt (gr : Group) (o : Nat) : Option Barrier :=
  gr.bars.findSome? fun b => b.bind fun b => if b.ofs ≤ o ∧ o < b.ofs + 16 then some b else none

/-- A scratchpad byte; an initialised object is mirrored into its bytes (13 R315). -/
def Group.spadByte (gr : Group) (o : Nat) : Byte :=
  match gr.barAt o with
  | some b => b.byte (o - b.ofs)
  | none => SMap.getD gr.spad o 0

def Group.spadBytes (gr : Group) (o n : Nat) : List Byte := (List.range n).map fun k => gr.spadByte (o + k)

/-- A range of scratchpad meets an initialised barrier object (13 R315, R316). -/
def Group.meetsBar (gr : Group) (o n : Nat) : Bool :=
  gr.bars.any fun b => match b with
    | some b => b.ofs < o + n && o < b.ofs + 16
    | none => false

/-- Bytes are written to scratchpad; a byte of 0 takes no entry. -/
def Group.setSpad (gr : Group) (o : Nat) (bs : List Byte) : Group :=
  let put := fun (m : SMap Byte) (k : Nat) =>
    let b := bs.getD k 0
    if b = 0 then SMap.erase (o + k) m else SMap.set (o + k) b m
  { gr with spad := (List.range bs.length).foldl put gr.spad }

/-- A local address: register n and lane of the alias, or a scratchpad offset (07 R179; 11 R261). -/
inductive LocalAddr where
  | aliasAt (n lane : Nat)
  | spad (o : Nat)
deriving DecidableEq, Repr

/-- The check of a local address of an access of size bytes. -/
def localAddr (gr : Group) (uni : Bool) (size lane : Nat) (st : Bool) (x : Word) : Except Stop LocalAddr :=
  if bit x 31 then
    if uni || size != 4 || (x.extractLsb' 15 16) != 0 || (x.extractLsb' 0 2) != 0 then .error (.trap cSpad none lane)
    else if gr.rl ≤ (x.extractLsb' 7 8).toNat then .error (.trap cBounds none lane)
    else .ok (.aliasAt (x.extractLsb' 7 8).toNat (x.extractLsb' 2 5).toNat)
  else
    let o := x.toNat
    if o % size != 0 || gr.va.spad < o + size || (st && gr.meetsBar o size) then .error (.trap cSpad none lane)
    else .ok (.spad o)

/-- The addresses of lanes, or the stop of the lowest lane that breaks the rules. -/
def localAddrs (f : Nat → Except Stop LocalAddr) : List Nat → Except Stop (List (Nat × LocalAddr))
  | [] => .ok []
  | l :: t =>
    match f l with
    | .error e => .error e
    | .ok x =>
      match localAddrs f t with
      | .error e => .error e
      | .ok xs => .ok ((l, x) :: xs)

/-- The register alias: no location of the consistency model (07 R179). -/
def LocalAddr.isAlias : LocalAddr → Bool
  | .aliasAt _ _ => true
  | .spad _ => false

/-- Scratchpad accesses wait for an earlier acquire (R274), alias accesses do not (07 R179). -/
def localWaits (s : State) (c : ICtx) (xs : List (Nat × LocalAddr)) : Bool :=
  s.acqPending c.ag && xs.any fun p => !p.2.isAlias

/-- A destination in the V registers. -/
def toVReg : Dst → Bool
  | .v _ => true
  | _ => false

/-- A request whose answer goes to a V register (09 R233; 13 R305). -/
def ReqKind.toV : ReqKind → Bool
  | .spawn _ d nw => toVReg d && !nw
  | .grow _ d nw => toVReg d && !nw
  | .launch _ _ d nw => toVReg d && !nw
  | .query _ d nw => toVReg d && !nw

/-- A V register of the wave is still to be written by an earlier instruction (07 R179). -/
def State.vPending (s : State) (c : ICtx) : Bool :=
  (c.wv.pend.any fun p => s.clk < p.due && p.writes.any fun w => match w with | .v _ _ _ => true | _ => false)
    || (s.memops.any fun op => sameWave op.ag c.ag && (match op.dst with | some d => toVReg d | none => false))
    || s.reqs.any fun r => sameWave r.ag c.ag && r.kind.toV

/-- A write in flight of an earlier instruction does not touch one lane of V register n any more. -/
def PWrite.sparing (n lane : Nat) : PWrite → PWrite
  | .v r mask vals => .v r (if r = n then mask &&& ~~~(BitVec.ofNat 32 (2 ^ lane)) else mask) vals
  | x => x

/-- A write through the register alias: every later instruction of the wave sees it, so that no result of an earlier one
that is still on its way overwrites it (07 R179). -/
def State.aliasPut (s : State) (c : ICtx) (n lane : Nat) (x : BitVec 128) : State :=
  (s.putLane c.ag (.v n) 0 lane 4 x).modMe c fun wv =>
    { wv with pend := wv.pend.map fun p => { p with writes := p.writes.map (PWrite.sparing n lane) } }

/-- lds (R271): the bytes are read at issue and written to the destination later. -/
def lds (size : Nat) (wd : Wd) (h : Hdr) (d : Dst) (a : Src) : State → Out :=
  let srcs : List SrcW := [(a, .w32)]
  issueReading srcs h fun c s =>
    match c.opStop [(d, wd)] srcs with
    | some st => .error st
    | none =>
      let s := s.operandsTaken c srcs
      let lanes := c.acting h
      let addr := c.local srcs 0
      if lanes.isEmpty then .ok (s.doneNow c h)
      else
        match localAddrs (fun l => localAddr c.gr c.uni size l false (addr l)) lanes with
        | .error e => .error e
        | .ok xs =>
          if localWaits s c xs then .error .hold
          else if (xs.any fun p => p.2.isAlias) && s.vPending c then .error .hold
          else
            .ok ((s.storeRead c.core).addOp ⟨0, c.ag, c.pc, size, .ready 0, xs.map (fun p =>
              ⟨p.1, 0, .sys 0, false, match p.2 with
                | .aliasAt n k => (laneOf (c.wv.vAt c.clk n) k).setWidth 128
                | .spad o => BitVec.ofNat 128 (leVal (c.gr.spadBytes o size))⟩),
              if h.nw then none else some d, hdrFlag h, [], c.active h, none, false, 0, none, false, [], false⟩)

/-- sts (R271). -/
def sts (size : Nat) (wd : Wd) (h : Hdr) (a b : Src) : State → Out :=
  let srcs : List SrcW := [(a, .w32), (b, wd)]
  issueReading srcs h fun c s =>
    match c.opStop [] srcs with
    | some st => .error st
    | none =>
      let s := s.operandsTaken c srcs
      let lanes := c.acting h
      let addr := c.local srcs 0
      let data := c.data srcs 1
      if lanes.isEmpty then .ok (s.doneNow c h)
      else
        match localAddrs (fun l => localAddr c.gr c.uni size l true (addr l)) lanes with
        | .error e => .error e
        | .ok xs =>
          if localWaits s c xs then .error .hold
          else
          let s := xs.foldl (fun s p => match p.2 with
            | .aliasAt n k => s.aliasPut c n k (data p.1)
            | .spad o => s.modGrp c.g fun gr => gr.setSpad o (bytesOf size (data p.1).toNat)) s
          .ok (s.doneNow c h)

/-- The lowest lane whose lane-private offset breaks R262. -/
def privStop (p size : Nat) (lanes : List Nat) (ofs : Nat → Word) : Option Stop :=
  (lanes.find? fun l => (ofs l).toNat % size != 0 || p < (ofs l).toNat + size).map fun l => .trap cSpad none l

/-- ldl (R271). -/
def ldl (size : Nat) (wd : Wd) (h : Hdr) (d : Dst) (a : Src) : State → Out :=
  let srcs : List SrcW := [(a, .w32)]
  issueReading srcs h fun c s =>
    match c.opStop [(d, wd)] srcs with
    | some st => .error st
    | none =>
      let s := s.operandsTaken c srcs
      let lanes := c.acting h
      let ofs := c.local srcs 0
      if lanes.isEmpty then .ok (s.doneNow c h)
      else
        match privStop c.gr.va.lpriv size lanes ofs with
        | some st => .error st
        | none =>
          .ok (s.addOp ⟨0, c.ag, c.pc, size, .ready 0, lanes.map (fun l =>
            ⟨l, 0, .sys 0, false, BitVec.ofNat 128 (c.wv.privs (ofs l).toNat l size)⟩),
            if h.nw then none else some d, hdrFlag h, [], c.active h, none, false, 0, none, false, [], false⟩)

/-- stl (R271). -/
def stl (size : Nat) (wd : Wd) (h : Hdr) (a b : Src) : State → Out :=
  let srcs : List SrcW := [(a, .w32), (b, wd)]
  issueReading srcs h fun c s =>
    match c.opStop [] srcs with
    | some st => .error st
    | none =>
      let s := s.operandsTaken c srcs
      let lanes := c.acting h
      let ofs := c.local srcs 0
      let data := c.data srcs 1
      if lanes.isEmpty then .ok (s.doneNow c h)
      else
        match privStop c.gr.va.lpriv size lanes ofs with
        | some st => .error st
        | none =>
          let s := s.modMe c fun wv => lanes.foldl
            (fun wv l => wv.setPrivs (ofs l).toNat l size (data l).toNat) wv
          .ok (s.doneNow c h)

-- Fences and maintenance ----------------------------------------------------------------------

/-- What a fence waits for: as a release, and as an acquire only for the earlier reads (12 R290). -/
def State.mayFence (s : State) (c : ICtx) (sc : Scope) : Bool :=
  if 2 ≤ sc.order.toNat then s.released c sc.scope.toNat else s.memops.all fun op => !op.holdsRelease c 0

/-- fence (R278). It takes effect whatever the execution mask. -/
def execFence (h : Hdr) (sc : Scope) : State → Out :=
  issue h 8 fun c s =>
    if !s.mayFence c sc then .error .hold
    else if c.demotes (3 ≤ sc.scope.toNat) false then c.demoted 1
    else
      let s := if 2 ≤ sc.order.toNat then s.passWrites c sc.scope.toNat else s
      let s := if sc.order.toNat % 2 = 1 then s.acquire c.core sc.scope.toNat else s
      .ok (s.doneNow c h)

/-- A line that is prefetched waits for a walk of its page: one that the service already makes, or a new one (03 R72:
walks of one page by one service are merged). -/
def State.askWalk (s : State) (die ctx va : Nat) (x : Waiter) : State :=
  let same := fun (w : Walk) => w.die == die && w.ctx == ctx && w.va / 65536 == va / 65536
  if s.walks.any same then
    { s with walks := s.walks.map fun w => if same w then { w with waiters := w.waiters ++ [x] } else w }
  else { s with walks := s.walks ++ [⟨s.nextId, die, ctx, va, [x]⟩], nextId := s.nextId + 1 }

/-- A line comes to L2, and to L1 unless the cache code is 3 (R279). -/
def State.fetchLine (s : State) (x : Waiter) (t : Trans) : State :=
  s.addOp ⟨0, x.ag, 0, 1, .pref x.cache, [⟨0, x.va, t.tgt, t.bypass, 0⟩], none, none, [], 0, none, false, 0, none, false, [], false⟩

/-- The prefetch of one lane: an address that is no line's, is not canonical, is refused or has a dark home is dropped; a
TLB miss starts a walk, or joins one (R279; log entry 76). -/
def State.prefetchLane (s : State) (u : TUnit) (ctx : Nat) (fw : Bool) (x : Waiter) (va : DWord) : State :=
  if va.toNat % 128 != 0 || !canonical va then s
  else
    match s.tlbHit u ctx (va.toNat % 2 ^ 48) with
    | some t =>
      if entDark s.pkg t.leaf then s
      else
        match leafUse fw .rd t.leaf t.bits (va.toNat % 2 ^ 48) with
        | .ok tr => s.fetchLine x tr
        | .error _ => s
    | none => s.askWalk u.die ctx (va.toNat % 2 ^ 48) x

/-- Firmware contexts (17 R379). -/
def State.ctxFw (s : State) (ctx : Nat) : Bool := match s.context ctx with | some x => x.fw | none => false

/-- prefetch never faults (R279). -/
def execPrefetch (h : Hdr) (a : Src) (hint : Hint) : State → Out :=
  let srcs : List SrcW := [(a, .w64)]
  issueReading srcs h fun c s =>
    match c.opStop [] srcs with
    | some st => .error st
    | none =>
      let s := s.operandsTaken c srcs
      let addr := c.addr srcs 0
      let u := s.tunit c.core hint
      let s := (c.acting h).foldl (fun s l => s.prefetchLane u c.gr.ctx (s.ctxFw c.gr.ctx)
        ⟨c.core, c.ag, (addr l).toNat, hint.cache.toNat⟩ (addr l)) s
      .ok (s.doneNow c h)

/-- What a finished walk does for one line that waited for it: its core's TLBs are filled, and the line of a group that
is still resident is then on its way; an address that does not translate is dropped. -/
def State.walkServe (s : State) (w : Walk) (x : Waiter) : State :=
  let r := s.walkFill (.core x.core w.die) w.ctx (x.va % 2 ^ 48) (s.ctxFw w.ctx) .rd
  match r.2 with
  | .ok t => if (r.1.grp (agPlace x.ag)).isSome then r.1.fetchLine x t else r.1
  | .error _ => r.1

/-- TLB_WALK_COMPLETE: a walker of the service that was asked, the hinted die's where there was a hint, finishes a walk
for every line that waits for it (03 R72, R73, R78). -/
def execTlbWalkComplete (id : Nat) (s : State) : Out :=
  match s.walks.find? fun w => w.id == id with
  | none => notNow s
  | some w =>
    .next (w.waiters.foldl (fun s x => s.walkServe w x) { s with walks := s.walks.filter fun x => x.id != id })

/-- cwback (R279): complete when the lines are in DRAM. -/
def execCwback (h : Hdr) (a : Src) (hint : Hint) : State → Out :=
  let srcs : List SrcW := [(a, .w64)]
  issueReading srcs h fun c s =>
    match c.opStop [] srcs with
    | some st => .error st
    | none =>
      let s := s.operandsTaken c srcs
      let lanes := c.acting h
      if lanes.isEmpty then .ok (s.doneNow c h)
      else
        match s.resolve c (s.tunit c.core hint) .none 1 lanes (c.addr srcs 0) (fun _ _ => none) (fun _ => 0) with
        | .error st => .error st
        | .ok (s, las) =>
          .ok (s.addOp ⟨0, c.ag, c.pc, 1, .cwback, las, none, hdrFlag h, [], c.active h, none, false, 0, none, false, [], false⟩)

/-- cinval (R279): the lines leave the core's L1. -/
def execCinval (h : Hdr) (a : Src) (hint : Hint) : State → Out :=
  let srcs : List SrcW := [(a, .w64)]
  issueReading srcs h fun c s =>
    match c.opStop [] srcs with
    | some st => .error st
    | none =>
      let s := s.operandsTaken c srcs
      let lanes := c.acting h
      if lanes.isEmpty then .ok (s.doneNow c h)
      else
        match s.resolve c (s.tunit c.core hint) .none 1 lanes (c.addr srcs 0) (fun _ _ => none) (fun _ => 0) with
        | .error st => .error st
        | .ok (s, las) =>
          let s := las.foldl (fun s x => match x.tgt with
            | .dram a => s.l1Drop c.core a
            | _ => s) s
          .ok (s.doneNow c h)

-- The points ----------------------------------------------------------------------------------

def execLdN8 (h : Hdr) (d : Dst) (a : Src) (hint : Hint) : State → Out := load 1 false .w32 h d a hint
def execLdI8 (h : Hdr) (d : Dst) (a : Src) (hint : Hint) : State → Out := load 1 true .w32 h d a hint
def execLdN16 (h : Hdr) (d : Dst) (a : Src) (hint : Hint) : State → Out := load 2 false .w32 h d a hint
def execLdI16 (h : Hdr) (d : Dst) (a : Src) (hint : Hint) : State → Out := load 2 true .w32 h d a hint
def execLdB32 (h : Hdr) (d : Dst) (a : Src) (hint : Hint) : State → Out := load 4 false .w32 h d a hint
def execLdB64 (h : Hdr) (d : Dst) (a : Src) (hint : Hint) : State → Out := load 8 false .w64 h d a hint
def execLdB128 (h : Hdr) (d : Dst) (a : Src) (hint : Hint) : State → Out := load 16 false .w128 h d a hint
/-- As a relaxed ld.b64 (09 R232). -/
def execLdIv32 (h : Hdr) (d : Dst) (a : Src) (hint : Hint) : State → Out := load 8 false .iv32 h d a hint
/-- As a relaxed ld.b128 (09 R232). -/
def execLdIv64 (h : Hdr) (d : Dst) (a : Src) (hint : Hint) : State → Out := load 16 false .iv64 h d a hint
def execStB8 (h : Hdr) (a b : Src) (hint : Hint) : State → Out := store 1 .w32 h a b hint
def execStB16 (h : Hdr) (a b : Src) (hint : Hint) : State → Out := store 2 .w32 h a b hint
def execStB32 (h : Hdr) (a b : Src) (hint : Hint) : State → Out := store 4 .w32 h a b hint
def execStB64 (h : Hdr) (a b : Src) (hint : Hint) : State → Out := store 8 .w64 h a b hint
def execStB128 (h : Hdr) (a b : Src) (hint : Hint) : State → Out := store 16 .w128 h a b hint
/-- As a relaxed st.b64 (09 R232). -/
def execStIv32 (h : Hdr) (a b : Src) (hint : Hint) : State → Out := store 8 .iv32 h a b hint
/-- As a relaxed st.b128 (09 R232). -/
def execStIv64 (h : Hdr) (a b : Src) (hint : Hint) : State → Out := store 16 .iv64 h a b hint
def execLdsB32 (h : Hdr) (d : Dst) (a : Src) : State → Out := lds 4 .w32 h d a
def execLdsB64 (h : Hdr) (d : Dst) (a : Src) : State → Out := lds 8 .w64 h d a
def execStsB32 (h : Hdr) (a b : Src) : State → Out := sts 4 .w32 h a b
def execStsB64 (h : Hdr) (a b : Src) : State → Out := sts 8 .w64 h a b
def execLdlB32 (h : Hdr) (d : Dst) (a : Src) : State → Out := ldl 4 .w32 h d a
def execLdlB64 (h : Hdr) (d : Dst) (a : Src) : State → Out := ldl 8 .w64 h d a
def execStlB32 (h : Hdr) (a b : Src) : State → Out := stl 4 .w32 h a b
def execStlB64 (h : Hdr) (a b : Src) : State → Out := stl 8 .w64 h a b

end Sys2Proof.Machine
end

