-- ==== Sys2Proof/Machine/Atomics.lean ====
section
/-!
DEFINITION. Atomics, load-reserved and store-conditional (11 R273 to R277, R280, R281), and the steps in
which their lanes are performed.
-/

namespace Sys2Proof.Machine

/-- Acquire and release parts of a scope byte (R47). -/
def Scope.acq (sc : Scope) : Bool := sc.order.toNat % 2 == 1
def Scope.rel (sc : Scope) : Bool := 2 ≤ sc.order.toNat
/-- Die scope or wider. -/
def Scope.wide (sc : Scope) : Bool := 3 ≤ sc.scope.toNat

/-- The scope at which an acquire acts, where there is one. -/
def acqScope (sc : Scope) : Option Nat := if Scope.acq sc then some sc.scope.toNat else none

/-- Recorded answers of an agent still to be given to a re-execution (R281). -/
def Group.answerFor (gr : Group) (key : Option Nat) : Option (List DWord) :=
  (gr.replayAns.find? fun x => x.1 == key).map (·.2)

def Group.dropAnswer (gr : Group) (key : Option Nat) : Group :=
  { gr with replayAns := gr.replayAns.eraseP fun x => x.1 == key }

/-- A re-execution receives the recorded values; nothing is performed (R281). -/
def State.giveAnswer (s : State) (c : ICtx) (h : Hdr) (d : Option Dst) (lanes : List Nat) (size : Nat)
    (acq : Option Nat) (xs : List DWord) : State :=
  let s := s.modGrp c.g fun gr => gr.dropAnswer (ansKey c.ag)
  let s := match d with
    | some d => (lanes.zip xs).foldl (fun (s : State) (p : Nat × DWord) => s.putLane c.ag d (c.active h) p.1 size (p.2.setWidth 128)) s
    | none => s
  let s := match acq with
    | some sc => s.acquire c.core sc
    | none => s
  s.doneNow c h

/-- Contributions of a versioned group are held until its commit, lanes ascending (R281). -/
def State.buffered (s : State) (c : ICtx) (op : AtomOp) (las : List LaneAcc) : State :=
  let id := s.nextId
  s.newId.modGrp c.g fun gr =>
    { gr with buf := gr.buf ++ las.map fun x => (id, .ared op x.tgt (x.data.setWidth 64)) }

/-- A release at the scope of an order goes past the writes that it does not wait for. -/
def State.passFor (s : State) (c : ICtx) (sc : Scope) : State :=
  if Scope.rel sc then s.passWrites c sc.scope.toNat else s

/-- Waits and demotion before an ordered or wide instruction acts (R269, R274, R281): none when it may
go on. -/
def ICtx.ordered (c : ICtx) (s : State) (sc : Scope) (returning always : Bool) : Option (Except Stop State) :=
  if Scope.rel sc && !s.released c sc.scope.toNat then some (.error .hold)
  else if c.demotes (Scope.wide sc && (sc.order != 0 || returning)) always then
    some (c.demoted 1)
  else none

/-- An atomic (R273 to R275): kind .atom, .ldr or .stc; width of SRCB, destination, address, data. -/
def atomic (kind : OpKind) (size : Nat) (returning : Bool) (wd : Wd) (d : Option Dst) (a b : Src) (h : Hdr)
    (sc : Scope) : State → Out :=
  let srcs : List SrcW := [(a, .w64), (b, wd)]
  issueReading srcs h fun c s =>
    match c.opStop (d.toList.map fun x => (x, .w32)) srcs with
    | some st => .error st
    | none =>
      let s := s.operandsTaken c srcs
      let lanes := c.acting h
      match c.ordered s sc (returning && !lanes.isEmpty) (kind != .ldr && returning && !lanes.isEmpty) with
      | some r => r
      | none =>
        let s := s.passFor c sc
        let s := if kind == .ldr then s.modMe c fun wv => { wv with ldrWin := 16 } else s
        if lanes.isEmpty then
          let s := match acqScope sc with
            | some k => s.acquire c.core k
            | none => s
          .ok (s.doneNow c h)
        else
          let dst := if h.nw then none else d
          let wide := c.gr.versioned && returning && Scope.wide sc
          match (if wide then c.gr.answerFor (ansKey c.ag) else none) with
          | some xs => .ok (s.giveAnswer c h dst lanes size (acqScope sc) xs)
          | none =>
            match s.resolve c (coreUnit c.g) .rw size lanes (c.addr srcs 0)
                (fun _ t => atomFault t) (c.data srcs 1) with
            | .error st => .error st
            | .ok (s, las) =>
              if (returning && !wide && kind.isWrite) && s.poolStalls c.g c.gr (las.map fun x => (x.tgt, size)) then
                .error .stall
              else
              let s := match kind with
                | .atom _ false => s.signLanes c size (las.map fun (x : LaneAcc) => (x.lane, BitVec.ofNat 64 x.va)) (c.data srcs 1)
                | _ => s
              match kind, c.gr.versioned with
              | .atom op false, true => .ok ((s.buffered c op las).doneNow c h)
              | _, _ =>
                .ok (s.addOp ⟨0, c.ag, c.pc, size, kind, las, dst, hdrFlag h, [], c.active h, acqScope sc, wide, 0, none, false, [], false⟩)

/-- A returning atomic. -/
def atom (op : AtomOp) (wd : Wd) (h : Hdr) (d : Dst) (a b : Src) (sc : Scope) : State → Out :=
  atomic (.atom op true) op.size true wd (some d) a b h sc

/-- A non-returning atomic. -/
def ared (op : AtomOp) (wd : Wd) (h : Hdr) (a b : Src) (sc : Scope) : State → Out :=
  atomic (.atom op false) op.size false wd none a b h sc

/-- One lane of an atomic at its home: the state and the value returned. A wide operation of a versioned
group acts on memory itself. -/
def State.atomLane (s : State) (op : MemOp) (aop : AtomOp) (x : LaneAcc) : State × Nat :=
  let g := agPlace op.ag
  if op.wide then
    let m := leVal (s.readTgt none x.tgt aop.size)
    match x.tgt with
    | .dram a =>
      let bs := bytesOf aop.size (aop.new m (x.data.setWidth 64))
      ((s.dramWrite a bs).l1Update (coreOf g) a bs, m)
    | _ => (s, m)
  else s.atomAt g aop x.tgt (x.data.setWidth 64)

/-- The reservation of a lane of a split for the granule of a DPA (R277). -/
def resvIs (ag : Agent) (lane a : Nat) (r : Resv) : Bool :=
  match ag with
  | .split g w sp => r.g == g && r.w == w && r.sp == sp && r.lane == lane && r.granule == a / 128
  | .seq _ => false

/-- One lane of a store-conditional: 0 and the write when the reservation is intact, else 1; the lane's
reservation ends (R277). -/
def State.stcLane (s : State) (op : MemOp) (x : LaneAcc) : State × Nat :=
  let g := agPlace op.ag
  match x.tgt, op.ag with
  | .dram a, .split _ w _ =>
    let ok := s.resvs.any (resvIs op.ag x.lane a)
    let s := { s with resvs := s.resvs.filter fun r => !(r.g == g && r.w == w && r.lane == x.lane) }
    let bs := bytesOf 4 x.data.toNat
    if ok then
      (if op.wide then (s.dramWrite a bs).l1Update (coreOf g) a bs else s.agentWrite g a bs, 0)
    else (s, 1)
  | _, _ => (s, 1)

/-- The value an atomic's lane leaves in its destination: sign-extended into G for the .i32 points
(R273). -/
def atomValue (ag : Agent) (aop : AtomOp) (m : Nat) : BitVec 128 :=
  match ag with
  | .seq _ => if aop.signed then ((BitVec.ofNat 32 m).signExtend 64).setWidth 128 else BitVec.ofNat 128 m
  | .split _ _ _ => BitVec.ofNat 128 m

/-- ATOMIC_PERFORM: the next lane of an atomic or store-conditional is performed at its home
(R274, R277). -/
def execAtomicPerform (id : Nat) (s : State) : Out :=
  match s.memops.find? fun o => o.id == id with
  | none => notNow s
  | some op =>
    match op.lanes with
    | [] => notNow s
    | x :: left =>
      if earlierClash s.memops op x then notNow s
      else
        let fin := fun (r : State × Nat) (v : BitVec 128) (ret : Bool) =>
          let s := match op.dst with
            | some d => if ret then r.1.putLane op.ag d op.mask x.lane 4 v else r.1
            | none => r.1
          (Host.Outcome.next (s.opLeft op left (if op.wide then op.got ++ [(x.lane, v)] else op.got)) : Out)
        match op.kind with
        | .atom aop ret =>
          let r := s.atomLane op aop x
          fin r (atomValue op.ag aop r.2) ret
        | .stc =>
          let r := s.stcLane op x
          fin r (BitVec.ofNat 128 r.2) true
        | _ => notNow s

-- The points ----------------------------------------------------------------------------------

def execAtomAddI32 (h : Hdr) (d : Dst) (a b : Src) (sc : Scope) : State → Out := atom .addI32 .w32 h d a b sc
def execAtomMinI32 (h : Hdr) (d : Dst) (a b : Src) (sc : Scope) : State → Out := atom .minI32 .w32 h d a b sc
def execAtomMaxI32 (h : Hdr) (d : Dst) (a b : Src) (sc : Scope) : State → Out := atom .maxI32 .w32 h d a b sc
def execAtomAndB32 (h : Hdr) (d : Dst) (a b : Src) (sc : Scope) : State → Out := atom .andB32 .w32 h d a b sc
def execAtomOrB32 (h : Hdr) (d : Dst) (a b : Src) (sc : Scope) : State → Out := atom .orB32 .w32 h d a b sc
def execAtomXorB32 (h : Hdr) (d : Dst) (a b : Src) (sc : Scope) : State → Out := atom .xorB32 .w32 h d a b sc
def execAtomExchB32 (h : Hdr) (d : Dst) (a b : Src) (sc : Scope) : State → Out := atom .exchB32 .w32 h d a b sc
/-- SRCB is 64 bits wide: expected value low, new value high (R273). -/
def execAtomCasB32 (h : Hdr) (d : Dst) (a b : Src) (sc : Scope) : State → Out := atom .casB32 .w64 h d a b sc
def execAtomAddF32 (h : Hdr) (d : Dst) (a b : Src) (sc : Scope) : State → Out := atom .addF32 .w32 h d a b sc
def execAredAddI32 (h : Hdr) (a b : Src) (sc : Scope) : State → Out := ared .addI32 .w32 h a b sc
def execAredAddF32 (h : Hdr) (a b : Src) (sc : Scope) : State → Out := ared .addF32 .w32 h a b sc
def execAredMinI32 (h : Hdr) (a b : Src) (sc : Scope) : State → Out := ared .minI32 .w32 h a b sc
def execAredMaxI32 (h : Hdr) (a b : Src) (sc : Scope) : State → Out := ared .maxI32 .w32 h a b sc
def execAredAndB32 (h : Hdr) (a b : Src) (sc : Scope) : State → Out := ared .andB32 .w32 h a b sc
def execAredOrB32 (h : Hdr) (a b : Src) (sc : Scope) : State → Out := ared .orB32 .w32 h a b sc
def execAredXorB32 (h : Hdr) (a b : Src) (sc : Scope) : State → Out := ared .xorB32 .w32 h a b sc
def execAredAddI64 (h : Hdr) (a b : Src) (sc : Scope) : State → Out := ared .addI64 .w64 h a b sc
/-- A reservation is made as each lane is performed (R277). -/
def execLdrB32 (h : Hdr) (d : Dst) (a : Src) (sc : Scope) : State → Out :=
  atomic .ldr 4 (Scope.acq sc) .w32 (some d) a .zero h sc
def execStcB32 (h : Hdr) (d : Dst) (a b : Src) (sc : Scope) : State → Out :=
  atomic .stc 4 true .w32 (some d) a b h sc

end Sys2Proof.Machine
end

