-- ==== Sys2Proof/Machine/System.lean ====
section
/-!
DEFINITION. Traps and status registers (16 R374 to R376; 04 R90; 05 R126; 06 R166; 07 R177; 09 R221;
10 R256; 13 R313, R314) and wait (15 R357).
-/

namespace Sys2Proof.Machine

/-- trap n (R374). -/
def execTrap (h : Hdr) (n : BitVec 8) : State → Out :=
  issue h 8 fun _ _ => .error (.trap cTrap none n.toNat)

/-- A wave is held by the debugger, and a record is sent; that of a wave which is parked shows the pending fault (R367). -/
def State.holdWave (s : State) (g w pc n : Nat) (gr : Group) (wv : Wave) : State :=
  (s.send (gr.report g cBreak (if wv.parked.isSome then 0x41 else 0x40) pc false wv.parked n [wv.place])).modWave g w
    fun wv => { wv with held := true, brkDue := none }

/-- brk n (R374): with debugging enabled the agent is held before its next instruction and a record is
sent; while a split of the wave pins its quarter that waits until the pin ends (R367; 07 R184). -/
def execBrk (h : Hdr) (n : BitVec 8) : State → Out :=
  control h fun c s =>
    match s.context c.gr.ctx with
    | some cx =>
      if !cx.dbg then .ok s
      else if c.uni then
        .ok ((s.send (c.gr.report c.g cBreak 0x40 c.pc true none n.toNat [])).modSeq c.g fun q => { q with held := true })
      else if ((s.quarter c.core c.q).pinsOf c.g c.w).isEmpty then .ok (s.holdWave c.g c.w c.pc n.toNat c.gr c.wv)
      else .ok (s.modMe c fun wv => { wv with brkDue := some n.toNat })
    | none => .ok s

/-- rdlfsr (R374): the LFSR is not stepped. -/
def execRdlfsr (h : Hdr) (d : Dst) : State → Out :=
  control h fun c s => .ok (if h.nw then s else s.setScalar c d (c.wv.lfsr.setWidth 64))

/-- The clk that a core has run since its last reset (01 R23): the counts of different cores are not aligned, so each
differs from the module's by a value that is left free (log entry 4). -/
def State.coreClk (s : State) (core : Nat) : Nat := s.clk + Config.clkSkew s.boot core

/-- rdclk (R374; 01 R23). -/
def execRdclk (h : Hdr) (d : Dst) : State → Out :=
  control h fun c s => .ok (if h.nw then s else s.setScalar c d (BitVec.ofNat 64 (s.coreClk c.core)))

-- wait ----------------------------------------------------------------------------------------

/-- The split holds a pin (07 R184). -/
def ICtx.holdsPin (c : ICtx) : Bool :=
  !c.uni && c.lt.any fun l => l.pins && l.owner == some (c.g, c.w, c.sp)

/-- wait for n clk (15 R357); none at all while the split holds a pin. -/
def waits (h : Hdr) (amount : ICtx → Except Stop Nat) : State → Out :=
  issue h 8 fun c s =>
    match amount c with
    | .error e => .error e
    | .ok n =>
      if n = 0 || c.holdsPin then .ok (s.doneNow c h)
      else .ok (s.block c.ag (.wait (c.clk + n) (hdrFlag h)))

/-- wait n. -/
def execWaitImmediate (h : Hdr) (k : BitVec 16) : State → Out := waits h fun _ => .ok k.toNat

/-- wait a. -/
def execWaitRegister (h : Hdr) (a : Src) : State → Out :=
  waits h fun c => if (c.scalar a).toNat < 65536 then .ok (c.scalar a).toNat else .error (tr cValue)

/-- What an agent waits for. -/
def State.blkOf (s : State) (ag : Agent) : Option Blk :=
  match ag with
  | .split g w sp => (((s.grp g).bind fun gr => gr.waves[w]?).bind fun wv => wv.splits[sp]?).bind fun x =>
      if x.live then some x.blk else none
  | .seq g => (s.grp g).bind fun gr => if gr.seq.live then some gr.seq.blk else none

/-- WAIT_EXPIRY: the clk of a wait has come; the agent may issue, and the flag falls (15 R357). -/
def execWaitExpiry (ag : Agent) (s : State) : Out :=
  match s.blkOf ag with
  | some (.wait till flag) =>
    if till ≤ s.clk then .next ((s.block ag .none).lower ag flag) else notNow s
  | _ => notNow s

-- Status registers ----------------------------------------------------------------------------

/-- Transport operations of a wave not yet completed (05 R126). -/
def State.outCount (s : State) (g w : Nat) : Nat := (s.xops.filter fun x => x.g == g && x.w == w).length

/-- The XSTAT status word of a wave (05 R126). -/
def State.xstatWord (s : State) (g w : Nat) (wv : Wave) : DWord :=
  (wv.xstat &&& ~~~0x70000) ||| BitVec.ofNat 64 (s.outCount g w * 65536)

/-- pkg.live (01 R19). -/
def Pkg.liveWord (p : Pkg) : BitVec 32 :=
  BitVec.ofNat 32 (p.part.toNat * 2 ^ 20 + 2 ^ 18 + p.livex.toNat * 2 ^ 16 + p.livec.toNat)

/-- win (07 R177). -/
def Group.winWord (gr : Group) (w : Nat) (wv : Wave) : DWord :=
  BitVec.ofNat 64 (wv.xi.toNat * 2 ^ 24 + gr.rl * 2 ^ 16 + quarterOf w * 2 ^ 14 + wv.rb)

/-- The soft-error count of a core (07 R169, 16 R370). -/
def State.softCount (s : State) (core : Nat) : Nat := (SMap.getD s.pkg.counters core Counters.zero).soft

/-- Queue number and field of a Rook register. -/
def rookField (q : Queue) (num : Nat) : DWord :=
  if num < 0x18 then q.base else if num < 0x20 then q.step else q.ctl

/-- A result of a class is still on its way to the wave. -/
def Wave.busy (wv : Wave) (clk : Nat) (cls : PClass) : Bool := wv.pend.any fun p => clk < p.due && p.cls == cls

/-- The wave of the issuing split, and the group, as the state now has them. -/
def State.me (s : State) (c : ICtx) : Wave :=
  (((s.grp c.g).bind fun gr => gr.waves[c.w]?)).getD c.wv
def State.mine (s : State) (c : ICtx) : Group := (s.grp c.g).getD c.gr

/-- The value of status register num as rdst reads it, or what holds or stops the read (R375). -/
def readStatus (c : ICtx) (s : State) (num : Nat) : Except Stop DWord :=
  let wv := s.me c
  let gr := s.mine c
  if 0x10 ≤ num ∧ num < 0x28 then
    match gr.queues[num % 8]? with
    | some q => .ok (rookField q num)
    | none => .error (tr cEncoding)
  else
    match num with
    | 0x00 => if wv.busy c.clk .fp then .error .hold else .ok (wv.fst.setWidth 64)
    | 0x01 => if s.ivOut c then .error .hold else .ok (wv.ivst.setWidth 64)
    | 0x02 => if 0 < s.outCount c.g c.w then .error .hold else .ok (s.xstatWord c.g c.w wv)
    | 0x03 => .ok (gr.spst.setWidth 64)
    | 0x04 => if gr.mq.isEmpty then .ok (gr.mfl.setWidth 64) else .error .hold
    | 0x05 => .ok (gr.winWord c.w wv)
    | 0x06 => .ok (s.pkg.liveWord.setWidth 64)
    | 0x07 => .ok (BitVec.ofNat 64 gr.ordinal)
    | 0x08 => .ok (BitVec.ofNat 64 wv.place)
    | 0x09 => .ok (if c.uni then gr.seq.hst else wv.hst)
    | 0x0a => .ok (BitVec.ofNat 64 (s.softCount c.core))
    | _ => .error (tr cEncoding)

/-- rdst (R375). -/
def execRdst (h : Hdr) (d : Dst) (num : BitVec 8) : State → Out :=
  control h fun c s =>
    if !statusReadOk (if c.uni then .uniform else .lane) num then .error (tr cEncoding)
    else
      match readStatus c s num.toNat with
      | .error e => .error e
      | .ok x => .ok ((if h.nw then s else s.setScalar c d x).storeRead c.core)

/-- A refused value of rook.Qn.ctl (13 R314): CONS empty or beyond the waves, a misaligned VA or stride, a
count of 0, a reserved bit. -/
def rookRefuses (gr : Group) (q : Queue) (x : DWord) : Bool :=
  (x.extractLsb' 32 32) == 0
    || gr.va.waves < 32 && (x.extractLsb' 32 32).toNat / 2 ^ gr.va.waves != 0
    || q.base.toNat % 128 != 0
    || (q.step.extractLsb' 0 32).toNat % 128 != 0
    || (q.step.extractLsb' 32 32).toNat % 128 != 0
    || (x.extractLsb' 12 12) == 0
    || (x.extractLsb' 0 12) == 0
    || (x.extractLsb' 24 7) != 0

/-- A write of a Rook register (13 R313, R314). A write of ctl takes effect in a step of its own, which
the sequencer waits for. -/
def writeRook (c : ICtx) (s : State) (num : Nat) (x : DWord) : Except Stop State :=
  let n := num % 8
  let put := fun (f : Queue → Queue) => s.modGrp c.g fun gr => { gr with queues := updAt gr.queues n f }
  match c.gr.queues[n]? with
  | none => .error (tr cEncoding)
  | some q =>
    if num < 0x18 then .ok (put fun q => { q with base := x })
    else if num < 0x20 then .ok (put fun q => { q with step := x })
    else if rookRefuses c.gr q x then .error (tr cValue)
    else if bit x 31 && q.bound then .error (tr cQueue)
    else .ok ((put fun q => { q with ctl := x, request := some x }).block c.ag (.rook n))

/-- A write of status register num (R375). -/
def writeStatus (c : ICtx) (s : State) (num : Nat) (x : DWord) : Except Stop State :=
  if 0x10 ≤ num ∧ num < 0x28 then writeRook c s num x
  else
    match num with
    | 0x00 => .ok (s.modMe c fun wv => { wv with fst := x.setWidth 5 })
    | 0x01 => .ok (s.modMe c fun wv => { wv with ivst := x.setWidth 32 &&& 0x33f })
    | 0x03 => .ok (s.modGrp c.g fun gr => { gr with spst := gr.spst &&& ~~~(x.setWidth 32 &&& 0xe) })
    | 0x04 => .ok (s.modGrp c.g fun gr => { gr with mfl := gr.mfl &&& ~~~(x.setWidth 32) })
    | 0x05 => .ok (s.modMe c fun wv => { wv with xi := x.extractLsb' 24 8 })
    | 0x09 =>
      let clr := fun (v : DWord) => if bit x 31 then v &&& ~~~0x80000000 else v
      .ok (if c.uni then s.modSeq c.g fun q => { q with hst := clr q.hst }
        else s.modMe c fun wv => { wv with hst := clr wv.hst })
    | 0x0a =>
      if (match s.context c.gr.ctx with | some cx => cx.fw | none => false) then
        let put := fun (k : Counters) => { k with soft := x.toNat }
        .ok { s with pkg := { s.pkg with counters := SMap.modD c.core Counters.zero put s.pkg.counters } }
      else .error (tr cProtection)
    | _ => .error (tr cEncoding)

/-- The source of wrst: a W or G register, or the zero code. -/
def ICtx.wrstVal (c : ICtx) : Src → DWord
  | .zero => 0
  | a => c.scalar a

/-- wrst (R375). -/
def execWrst (h : Hdr) (num : BitVec 8) (b : Src) : State → Out :=
  control h fun c s =>
    if !statusWriteOk (if c.uni then .uniform else .lane) num then .error (tr cEncoding)
    else writeStatus c s num.toNat (c.wrstVal b)

end Sys2Proof.Machine
end

