-- ==== Sys2Proof/Machine/Engine.lean ====
section
/-!
DEFINITION. What the engines share: barrier objects (13 R315, R316), runs of bytes behind addresses
(06 R143; 03 R68), tensors behind handles (03 R79 to R85; 05 R112), the read-only caches (06 R157, R158,
R163, R165), the scratchpad an engine command will write and the objects it will credit.
-/

namespace Sys2Proof.Machine

-- Barrier objects -----------------------------------------------------------------------------

/-- The phase flips when both counts have reached what is expected; an excess is dropped (R315). -/
def Barrier.flipped (b : Barrier) : Barrier :=
  if b.expArrivals ≤ b.arrivals ∧ b.expBytes ≤ b.bytes then { b with bytes := 0, arrivals := 0, phase := !b.phase }
  else b

/-- Bytes and arrivals reach barrier object k. -/
def Group.credit (gr : Group) (k bytes arrivals : Nat) : Group :=
  let add := fun (b : Barrier) => Barrier.flipped { b with bytes := b.bytes + bytes, arrivals := b.arrivals + arrivals }
  { gr with bars := modReg 16 none gr.bars k fun (o : Option Barrier) => o.map add }

def State.credit (s : State) (g : Nat) (bar : Option Nat) (bytes : Nat) : State :=
  match bar with
  | some k => s.modGrp g fun gr => gr.credit k bytes 0
  | none => s

/-- Barrier object k is initialised. -/
def Group.barReady (gr : Group) (k : Nat) : Bool := (gr.bars.getD k none).isSome

/-- A scratchpad range an engine is to read: inside the group's scratchpad. -/
def Group.spadHas (gr : Group) (o n : Nat) : Bool := o + n ≤ gr.va.spad

/-- A range an engine is to write: inside it, and clear of every initialised object (R316). -/
def Group.spadFree (gr : Group) (o n : Nat) : Bool := gr.spadHas o n && !gr.meetsBar o n

-- Runs of bytes -------------------------------------------------------------------------------

/-- Cut n bytes from va at multiples of 4 KiB. -/
def cut4k : Nat → Nat → Nat → List (Nat × Nat)
  | 0, _, _ => []
  | fuel + 1, va, n =>
    if n = 0 then []
    else
      let k := min n (4096 - va % 4096)
      (va, k) :: cut4k fuel (va + k) (n - k)

def pieces (va n : Nat) : List (Nat × Nat) := cut4k (n / 4096 + 2) va n

/-- A piece with what its translation gave. -/
abbrev XPiece := Nat × Nat × Except Nat Trans

/-- Translate pieces. -/
def State.xpieces (s : State) (u : TUnit) (ctx : Nat) (acc : Acc) : List (Nat × Nat) → State × List XPiece
  | [] => (s, [])
  | (va, n) :: t =>
    let r := s.translate u ctx acc (BitVec.ofNat 64 va)
    let q := r.1.xpieces u ctx acc t
    (q.1, (va, n, r.2) :: q.2)

/-- An alias access of an engine that is not aligned to 2 bytes (03 R85), and the further check f. -/
def refusePieces (f : Trans → Option Nat) (ps : List XPiece) : List XPiece :=
  ps.map fun p => (p.1, p.2.1, match p.2.2 with
    | .ok t =>
      if aliasMisuse false (BitVec.ofNat 64 p.1) t then .error cAlias
      else (match f t with | some k => .error k | none => .ok t)
    | .error k => .error k)

/-- The lower-addressed of two faults. -/
def lowerFault (a : Option (Nat × Nat)) (va cause : Nat) : Option (Nat × Nat) :=
  match a with
  | some (c, v) => if va < v then some (cause, va) else some (c, v)
  | none => some (cause, va)

/-- The lowest-addressed fault of pieces: cause and VA. -/
def lowestFault (ps : List XPiece) : Option (Nat × Nat) :=
  ps.foldl (fun a p => match p.2.2 with | .error k => lowerFault a p.1 k | .ok _ => a) none

/-- The fault that decides for a command as a whole: a trap fault before a not-present page (06 R143). -/
def decidingFault (ps : List XPiece) : Option (Nat × Nat) :=
  match lowestFault (ps.filter fun p => match p.2.2 with | .error k => k != cNotPresent | .ok _ => false) with
  | some f => some f
  | none => lowestFault ps

/-- The targets of pieces without a fault. -/
def targets (ps : List XPiece) : List (Tgt × Nat) :=
  ps.filterMap fun p => match p.2.2 with | .ok t => some (t.tgt, p.2.1) | .error _ => none

/-- Stop for a fault: parks on a not-present page, else traps. -/
def faultStop (f : Nat × Nat) (aux : Nat) : Stop :=
  if f.1 = cNotPresent then .park f.2 aux else .trap f.1 (some f.2) aux

/-- n bytes at an address, as an engine reads them for the group of place g: at their homes, with the
group's own version. -/
def State.readVa (s : State) (u : TUnit) (ctx : Nat) (view : Option Group) (va n : Nat) :
    State × Except (Nat × Nat) (List Byte) :=
  let r := s.xpieces u ctx .rd (pieces va n)
  let ps := refusePieces (fun _ => none) r.2
  match decidingFault ps with
  | some f => (r.1, .error f)
  | none => (r.1, .ok (r.1.readPieces view (targets ps)))

/-- Bytes are written at targets by an engine of the group at place g: into its version, or at home. -/
def State.writePieces (s : State) (g : Nat) : List (Tgt × Nat) → List Byte → State
  | [], _ => s
  | (t, n) :: r, bs => (s.writeTgt g t (bs.take n)).writePieces g r (bs.drop n)

-- Tensors -------------------------------------------------------------------------------------

/-- An MX element code (03 R81). -/
def isMx (et : Nat) : Bool := 0x30 ≤ et && et ≤ 0x35

/-- The element codes of R81. -/
def etKnown (et : Nat) : Bool :=
  (1 ≤ et && et ≤ 8) || (0x10 ≤ et && et ≤ 0x15) || et == 0x20 || isMx et

/-- Bits of a stored element as an access through a handle sees it: MX elements are seen as BF16. -/
def etBits (et : Nat) (fmtw : BitVec 16) : Nat :=
  match et with
  | 0x01 => 8
  | 0x02 => 8
  | 0x03 => 16
  | 0x04 => 16
  | 0x05 => 32
  | 0x06 => 32
  | 0x07 => 64
  | 0x08 => 64
  | 0x12 => 32
  | 0x13 => 64
  | 0x14 => 64
  | 0x15 => 128
  | 0x20 => FmtW.w fmtw
  | _ => 16

/-- The exact value of an element's code; an MX element's is its BF16 view's. -/
def etValue (et : Nat) (fmtw : BitVec 16) (c : Nat) : Ext :=
  match et with
  | 0x01 => Ext.ofInt (BitVec.ofNat 8 c).toInt 0
  | 0x02 => Ext.ofInt c 0
  | 0x03 => Ext.ofInt (BitVec.ofNat 16 c).toInt 0
  | 0x04 => Ext.ofInt c 0
  | 0x05 => Ext.ofInt (BitVec.ofNat 32 c).toInt 0
  | 0x06 => Ext.ofInt c 0
  | 0x07 => Ext.ofInt (BitVec.ofNat 64 c).toInt 0
  | 0x08 => Ext.ofInt c 0
  | 0x10 => fp16.decode c
  | 0x12 => fp32.decode c
  | 0x13 => fp64.decode c
  | 0x20 => FmtW.decode fmtw c
  | _ => bf16.decode c

/-- Elements of a row: d0 to d(rank-2) (05 R112). -/
def Layout.rowElems (h : Layout) : Nat := (h.extents.take (h.rank - 1)).foldl (· * ·) 1

/-- Rows: d(rank-1). -/
def Layout.rows (h : Layout) : Nat := h.extents.getD (h.rank - 1) 1

/-- Bits, bytes and pitch of a packed row (05 R112). -/
def Layout.elemBits (h : Layout) : Nat := etBits h.etype h.fmtw
def Layout.rowBytes (h : Layout) : Nat := (h.rowElems * h.elemBits + 7) / 8
def Layout.pitch (h : Layout) : Nat := (h.rowBytes + 3) / 4 * 4

/-- Sum of coordinate times stride of position i, innermost extent first. -/
def strideSum : List Nat → List Int → Nat → Int
  | d :: ds, t :: ts, i => ((i % d : Nat) : Int) * t + strideSum ds ts (i / d)
  | _, _, _ => 0

/-- Element index of position i of row r (03 R80; 05 R112). -/
def Layout.index (h : Layout) (r i : Nat) : Int :=
  strideSum (h.extents.take (h.rank - 1)) h.strides i + (r : Int) * h.strides.getD (h.rank - 1) 0

/-- Address, bytes and bit shift of the element at an index (03 R80). -/
def Layout.elemAt (h : Layout) (idx : Int) : Nat × Nat × Nat :=
  let pos := idx * (h.elemBits : Int)
  let shift := (pos % 8).toNat
  ((((h.base : Int) + pos / 8) % (2 ^ 64 : Nat)).toNat, (shift + h.elemBits + 7) / 8, shift)

/-- A page met through a handle: an MX handle needs its alias page (03 R85). -/
def Layout.pageCheck (h : Layout) (t : Trans) : Option Nat :=
  if isMx h.etype then
    match t.tgt with
    | .aliasAt _ _ _ ty _ => if ty + 0x30 = h.etype then none else some cAlias
    | _ => some cAlias
  else none

/-- The pieces of one element. -/
def State.elemPieces (s : State) (u : TUnit) (ctx : Nat) (acc : Acc) (h : Layout) (idx : Int) :
    State × List XPiece :=
  let p := h.elemAt idx
  let r := s.xpieces u ctx acc (pieces p.1 p.2.1)
  (r.1, refusePieces h.pageCheck r.2)

/-- The pieces of elements at indices. -/
def State.elemsPieces (s : State) (u : TUnit) (ctx : Nat) (acc : Acc) (h : Layout) :
    List Int → State × List (Int × List XPiece)
  | [] => (s, [])
  | i :: t =>
    let r := s.elemPieces u ctx acc h i
    let q := r.1.elemsPieces u ctx acc h t
    (q.1, (i, r.2) :: q.2)

/-- The code in the bytes of an element. -/
def Layout.codeOf (h : Layout) (idx : Int) (bs : List Byte) : Nat :=
  leVal bs / 2 ^ (h.elemAt idx).2.2 % 2 ^ h.elemBits

/-- A handle slot of a group; an unbound or invalid slot is none (03 R82). -/
def Group.handle (gr : Group) (slot : Nat) : Option Layout := gr.handles.getD slot none

-- Read-only caches ----------------------------------------------------------------------------

/-- The line whose next use is farthest; the least recently used of those that tie (06 R160). -/
def cacheVictim (far : CLine → Nat) : List CLine → Option CLine
  | [] => none
  | x :: t =>
    match cacheVictim far t with
    | some y => if far y < far x then some x else some y
    | none => some x

/-- Line number n of a context moves to the front of a cache of size lines, most recently used first; filled from memory
when it is not there, in place of the victim. -/
def cacheTouch (far : CLine → Nat) (mem : List Host.Cell) (ctx line size n : Nat) (l : List CLine) : List CLine :=
  let addr := n * line
  match l.find? fun x => x.ctx == ctx && x.addr == addr with
  | some x => x :: l.filter (· != x)
  | none =>
    ⟨ctx, addr, memRead mem addr line⟩ :: (if l.length < size then l else l.filter fun x => some x != cacheVictim far l)

/-- n bytes at a DPA through a cache: the cache after, and the bytes. -/
def cacheRead (far : CLine → Nat) (mem : List Host.Cell) (ctx line size a n : Nat) (l : List CLine) :
    List CLine × List Byte :=
  let l := (List.range ((a + n - 1) / line + 1 - a / line)).foldl
    (fun l k => cacheTouch far mem ctx line size (a / line + k) l) l
  (l, (List.range n).map fun k =>
    match l.find? fun x => x.ctx == ctx && x.addr == (a + k) / line * line with
    | some x => x.bytes.getD ((a + k) % line) 0
    | none => memByte mem (a + k))

/-- The read-only caches. -/
inductive RCache where
  /-- the cluster's fetch cache (R157) -/
  | fetch
  /-- the core's Fennel cache (R158) -/
  | fennel
  /-- the core's metadata cache (R163) -/
  | metadata
deriving DecidableEq, Repr

def RCache.line : RCache → Nat
  | .metadata => 64
  | _ => 128

def RCache.size : RCache → Nat
  | .fetch => 2048
  | .fennel => 1024
  | .metadata => 512

/-- Bytes of a row pointer (06 R158). -/
def Layout.ptrBytes (h : Layout) : Nat := if h.ptr64 then 8 else 4

/-- Row r, or its closing pointer, is out of the handle's range (06 R159). -/
def Layout.rowOut (h : Layout) (r : Nat) : Bool := h.rows ≤ r || h.sideBytes < (r + 2) * h.ptrBytes

/-- Element index of stored entry x (06 R158). -/
def Layout.entry (h : Layout) (x : Nat) : Int := (x : Int) * h.strides.getD 0 0

/-- The runs of bytes of elements at indices, as translation finds them now. -/
def State.elemRuns (s : State) (g ctx : Nat) (h : Layout) (idx : List Int) : List (Tgt × Nat) :=
  (s.elemsPieces (coreUnit g) ctx .rd h idx).2.flatMap fun p => targets p.2

/-- The runs of n bytes at an address, as translation finds them now. -/
def State.vaRuns (s : State) (g ctx va n : Nat) : List (Tgt × Nat) :=
  targets (s.xpieces (coreUnit g) ctx .rd (pieces va n)).2

/-- The 128-byte lines that a fibld of a row reads: its two pointers and its entries (06 R158). -/
def State.rowLines (s : State) (g ctx : Nat) (h : Layout) (r : Nat) : List Nat :=
  if h.rowOut r then []
  else
    let ptr := fun (k : Nat) => s.vaRuns g ctx ((h.sideVa + k * h.ptrBytes) % 2 ^ 64) h.ptrBytes
    let val := fun (ts : List (Tgt × Nat)) => leVal (ts.flatMap fun t => match t.1 with
      | .dram a => (cacheRead (fun _ => 0) s.mem ctx 128 1024 a t.2 (s.core (coreOf g)).fen).2
      | x => s.readTgt none x t.2)
    let lo := val (ptr r)
    let idx := (List.range (val (ptr (r + 1)) - lo)).map fun k => h.entry (lo + k)
    (ptr r ++ ptr (r + 1) ++ s.elemRuns g ctx h idx).flatMap fun t => t.1.lines t.2

/-- How far off the next scheduled use of a line of a core's Fennel cache is, in rows of the schedule of its context's
groups there; a line no schedule uses counts as never used (06 R160). -/
def State.nextUse (s : State) (core : Nat) (x : CLine) : Nat :=
  (s.groups.filter fun y => coreOf y.1 == core && y.2.ctx == x.ctx).foldl (fun n y =>
    let k := y.2.sched.findIdx fun e => match y.2.handle e.1 with
      | some h => (s.rowLines y.1 x.ctx h e.2).contains (x.addr / 128)
      | none => false
    if k < y.2.sched.length then min n k else n) 8192

/-- Bytes at targets through a cache of a core; system and alias pages are not cached. The fetch and metadata caches give
up the line least recently used (log entry 34). -/
def State.cachedPieces (s : State) (core ctx : Nat) (k : RCache) : List (Tgt × Nat) → State × List Byte
  | [] => (s, [])
  | (t, n) :: r =>
    let p : State × List Byte := match t with
      | .dram a =>
        (match k with
          | .fetch =>
            let c := cacheRead (fun _ => 0) s.mem ctx k.line k.size a n (s.cluster (clusterOf core)).fc
            (s.modCluster (clusterOf core) fun x => { x with fc := c.1 }, c.2)
          | .fennel =>
            let c := cacheRead (s.nextUse core) s.mem ctx k.line k.size a n (s.core core).fen
            (s.modCore core fun x => { x with fen := c.1 }, c.2)
          | .metadata =>
            let c := cacheRead (fun _ => 0) s.mem ctx k.line k.size a n (s.core core).mdc
            (s.modCore core fun x => { x with mdc := c.1 }, c.2))
      | t => (s, s.readTgt none t n)
    let q := p.1.cachedPieces core ctx k r
    (q.1, p.2 ++ q.2)

/-- n bytes at an address through a cache of the core of place g. -/
def State.cachedVa (s : State) (g ctx : Nat) (k : RCache) (va n : Nat) : State × Except (Nat × Nat) (List Byte) :=
  let r := s.xpieces (coreUnit g) ctx .rd (pieces va n)
  let ps := refusePieces (fun _ => none) r.2
  match decidingFault ps with
  | some f => (r.1, .error f)
  | none =>
    let q := r.1.cachedPieces (coreOf g) ctx k (targets ps)
    (q.1, .ok q.2)

/-- The code of an element through a cache. -/
def State.cachedElem (s : State) (g ctx : Nat) (k : RCache) (h : Layout) (idx : Int) :
    State × Except (Nat × Nat) Nat :=
  let r := s.elemPieces (coreUnit g) ctx .rd h idx
  match decidingFault r.2 with
  | some f => (r.1, .error f)
  | none =>
    let q := r.1.cachedPieces (coreOf g) ctx k (targets r.2)
    (q.1, .ok (h.codeOf idx q.2))

/-- The codes of elements through a cache, up to the first that faults or fails ok; with whether none did. -/
def State.cachedElems (s : State) (g ctx : Nat) (k : RCache) (h : Layout) (ok : Nat → Bool) :
    List Int → State × List Nat × Bool
  | [] => (s, [], true)
  | i :: t =>
    let r := s.cachedElem g ctx k h i
    match r.2 with
    | .error _ => (r.1, [], false)
    | .ok x =>
      if ok x then
        let q := r.1.cachedElems g ctx k h ok t
        (q.1, x :: q.2.1, q.2.2)
      else (r.1, [], false)

-- Tiles ---------------------------------------------------------------------------------------

/-- Bits of a stored tile element (10 R241). -/
def tileBits (et : Nat) (fmtw : BitVec 16) : Nat :=
  if isMx et then mxBits (et - 0x30) else etBits et fmtw

/-- A tile register that has not been set. -/
def Tile.blank : Tile := ⟨0, 0, 0, 0, 0, 0, 0, 0, 0, 0⟩

/-- Stored row bytes rb (10 R241). -/
def Tile.rowBytes (t : Tile) : Nat :=
  let j := if t.sp = 1 then t.cols / 2 else t.cols
  ((j * tileBits t.etype t.fmtw + 7) / 8 + 15) / 16 * 16

/-- The extent in bytes (10 R241). -/
def Tile.extent (t : Tile) : Nat :=
  t.rows * t.pitch + (if isMx t.etype then t.rows * t.cols / 32 else 0)

-- What is under way ---------------------------------------------------------------------------

/-- Tile bytes z of a transport form with n index registers (05 R121). -/
def tileSize (form : XForm) (h : Layout) (n nb k : Nat) : Nat :=
  match form with
  | .gather => 32 * n * h.pitch
  | .sum => 4 * h.rowElems * nb
  | .max => 4 * h.rowElems * nb
  | .mean => 4 * h.rowElems * nb
  | .scadd => 32 * n * (4 * h.rowElems)
  | .scmax => 32 * n * (4 * h.rowElems)
  | .score => (8 * k * nb + 2 * nb + 7) / 8 * 8

/-- Scatter forms. -/
def scatters : XForm → Bool
  | .scadd => true
  | .scmax => true
  | _ => false

/-- The scratchpad a transport operation writes: tile and mask, or the mask of a scatter form (R316; 05
R122). -/
def xDest (form : XForm) (t z : Nat) (mw : Bool) : Nat × Nat :=
  if scatters form then (t + z, if mw then 64 else 0) else (t, z + if mw then 64 else 0)

/-- The scratchpad a matrix command writes. -/
def MKind.dest : MKind → List (Nat × Nat)
  | .tload us _ => us.map fun u => (u.1, 16)
  | .tzero t => [(t.base, t.extent)]
  | .mstore t _ _ _ => [(t.base, t.extent)]
  | _ => []

/-- The scratchpad ranges that commands of a group under way will write. -/
def State.destRanges (s : State) (g : Nat) : List (Nat × Nat) :=
  ((s.copies.filter fun x => agIsOf g x.ag && x.inn).map fun x => (x.ofs, x.count))
    ++ ((s.xops.filter fun x => x.g == g).map fun x =>
      xDest x.form x.tile (tileSize x.form x.h x.n x.nb x.topk) x.mw)
    ++ (match s.grp g with
      | some gr => gr.mq.flatMap fun m => m.kind.dest
      | none => [])

/-- The barrier object a matrix command will credit. -/
def MKind.bar : MKind → Option Nat
  | .tload _ b => b.map (·.1)
  | .tstore _ b _ => b.map (·.1)
  | .marrive b _ => some b
  | _ => none

/-- Barrier object k will be credited by a command of the group under way. -/
def State.barBusy (s : State) (g k : Nat) : Bool :=
  (s.copies.any fun x => agIsOf g x.ag && x.bar == some k)
    || (s.xops.any fun x => x.g == g && x.bar == k)
    || (s.dma.any fun c => c.2.q.any fun d => d.g == g && d.bar == some k)
    || (match s.grp g with
      | some gr => gr.mq.any fun m => m.kind.bar == some k
      | none => false)

end Sys2Proof.Machine
end

