-- ==== Sys2Proof/Machine/Barriers.lean ====
section
/-!
DEFINITION. Barrier objects, group barriers, membership sets, grid barriers and the decision queue (13
R315 to R323; 07 R187; 16 R368, R376).
-/

namespace Sys2Proof.Machine

-- Barrier objects -----------------------------------------------------------------------------

/-- Barrier object k is taken away; its bytes keep what they mirrored (log entry 24). -/
def Group.barOff (gr : Group) (k : Nat) : Group :=
  match gr.bars.getD k none with
  | none => gr
  | some b => { gr with bars := setReg 16 none gr.bars k none }.setSpad b.ofs ((List.range 16).map b.byte)

/-- Two ranges share a byte. -/
def spansMeet (a n b m : Nat) : Bool := a < b + m && b < a + n

/-- What refuses barinit of object k with value x (R316, R318). -/
def State.barinitStop (s : State) (g : Nat) (gr : Group) (k : Nat) (x : DWord) : Option Stop :=
  let ofs := (x.extractLsb' 0 21).toNat
  let off := (x.extractLsb' 24 40) == 0
  if (x.extractLsb' 21 3) != 0 then some (tr cValue)
  else if !off && ofs % 16 != 0 then some (tr cValue)
  else if (match gr.bars.getD k none with | some b => b.bytes != 0 || b.arrivals != 0 | none => false)
      || s.barBusy g k then some (tr cBarrier)
  else if off then none
  else if gr.va.spad < ofs + 16 || { gr with bars := setReg 16 none gr.bars k none }.meetsBar ofs 16
      || (s.destRanges g).any fun r => spansMeet ofs 16 r.1 r.2 then some (tr cBarrier)
  else none

/-- barinit (R318). -/
def execBarinit (h : Hdr) (bo : BitVec 4) (a : Src) : State → Out :=
  control h fun c s =>
    let x := c.scalar a
    match s.barinitStop c.g c.gr bo.toNat x with
    | some st => .error st
    | none =>
      let set := fun (gr : Group) =>
        let gr := gr.barOff bo.toNat
        if (x.extractLsb' 24 40) = 0 then gr
        else { gr with bars := setReg 16 none gr.bars bo.toNat (some
          ⟨0, 0, (x.extractLsb' 24 8).toNat, false, (x.extractLsb' 32 32).toNat, (x.extractLsb' 0 21).toNat⟩) }
      .ok (s.modGrp c.g set)

/-- barwait: issues once the phase differs from bit 0 of a (R318). -/
def execBarwait (h : Hdr) (bo : BitVec 4) (a : Src) : State → Out :=
  issue h 8 fun c s =>
    match c.gr.bars.getD bo.toNat none with
    | none => .error (tr cBarrier)
    | some b =>
      if b.phase = bit (c.scalar a) 0 then .error .await
      else .ok ((s.unpin c).doneNow c h)

/-- bararr: a release at group scope, then one arrival (R318). -/
def execBararr (h : Hdr) (bo : BitVec 4) : State → Out :=
  control h fun c s =>
    if !c.gr.barReady bo.toNat then .error (tr cBarrier)
    else if !s.released c 1 then .error .hold
    else .ok ((s.passWrites c 1).modGrp c.g fun gr => gr.credit bo.toNat 0 1)

-- Barriers of a group -------------------------------------------------------------------------

/-- The agent waits at a barrier; its cue's flag falls when that completes. -/
def State.arrive (s : State) (c : ICtx) (b : Blk) : State := (s.unpin c).block c.ag b

/-- bar (R319, R320): a release at group scope; a phase whose arrivals differ in S traps. -/
def execBar (h : Hdr) (s : Bool) : State → Out :=
  issue h 8 fun c st =>
    if c.uni && !s then .error (tr cEncoding)
    else if (match c.gr.barS with | some s' => s' != s | none => false) then .error (tr cBarrier)
    else if !st.released c 1 then .error .await
    else .ok (((st.passWrites c 1).modGrp c.g fun gr => { gr with barS := some s }).arrive c (.bar (hdrFlag h)))

/-- mjoin (R321). -/
def execMjoin (h : Hdr) (k : BitVec 4) : State → Out :=
  control h fun c s =>
    .ok (s.modGrp c.g fun gr => { gr with msets := modReg 16 0 gr.msets k.toNat (· ||| BitVec.ofNat 32 (2 ^ c.w)) })

/-- mleave: the wave is also removed from the open phase (R321). -/
def execMleave (h : Hdr) (k : BitVec 4) : State → Out :=
  control h fun c s =>
    let m : BitVec 32 := ~~~(BitVec.ofNat 32 (2 ^ c.w))
    .ok (s.modGrp c.g fun gr =>
      { gr with msets := modReg 16 0 gr.msets k.toNat (· &&& m),
                mphase := modReg 16 none gr.mphase k.toNat fun (o : Option (BitVec 32)) => o.map (· &&& m) })

/-- mbar (R321): the first arrival opens a phase of the members the set then has. -/
def execMbar (h : Hdr) (k : BitVec 4) : State → Out :=
  issue h 8 fun c s =>
    let set := c.gr.msets.getD k.toNat 0
    if !bit set c.w then .error (tr cBarrier)
    else if !s.released c 1 then .error .await
    else
      let opn := fun (o : Option (BitVec 32)) => some (o.getD set)
      .ok (((s.passWrites c 1).modGrp c.g fun gr => { gr with mphase := modReg 16 none gr.mphase k.toNat opn }).arrive c
        (.mbar k.toNat (hdrFlag h)))

/-- The grid of a group is cooperative. -/
def State.coop (s : State) (gr : Group) : Bool :=
  match s.grid gr.grid gr.ctx with
  | some x => x.lrec.coop
  | none => false

/-- gbar (R322): a wave's arrival is a release at package scope; either stream acquires there, which
demotes a versioned group (11 R281). -/
def execGbar (h : Hdr) : State → Out :=
  issue h 8 fun c s =>
    if !s.coop c.gr then .error (tr cGrid)
    else if !c.uni && !s.released c 4 then .error .await
    else if c.demotes true false then c.demoted 1
    else .ok ((if c.uni then s else s.passWrites c 4).arrive c (.gbar (hdrFlag h)))

-- Completions ---------------------------------------------------------------------------------

/-- Which blocks a completion ends: the flag of a cue for each. -/
abbrev Ends := Blk → Option (Option Nat)

def endsBar : Ends := fun b => match b with | .bar f => some f | _ => none
def endsMbar (k : Nat) : Ends := fun b => match b with | .mbar k' f => if k' = k then some f else none | _ => none
def endsGbar : Ends := fun b => match b with | .gbar f => some f | _ => none

/-- A wave has arrived: every live split of it waits there (R319). -/
def Wave.arrived (wv : Wave) (e : Ends) : Bool := wv.splits.all fun x => !x.live || (e x.blk).isSome

/-- hst as a completion leaves it for one whose sibling had been halted (16 R368, R376). -/
def hstTold (hst : DWord) (w : Nat) : DWord := (hst &&& 0xffffff) ||| BitVec.ofNat 64 (0xa0000000 + w * 2 ^ 24)

/-- A wave goes on after a completion: its waiting splits may issue, their flags fall, and it is told of
a halted wave. -/
def Wave.freed (wv : Wave) (e : Ends) (other : Option Nat) : Wave :=
  let flags := wv.splits.foldl (fun fs x => match e x.blk with
    | some (some k) => flagDown fs k
    | _ => fs) wv.flags
  let told := match wv.abn with | some w => some w | none => other
  { wv with
    flags := flags
    splits := wv.splits.map fun x => if (e x.blk).isSome then { x with blk := .none } else x
    hst := match told with | some w => hstTold wv.hst w | none => wv.hst
    abn := none }

/-- The sequencer goes on after a completion it waited for. -/
def Seq.freed (q : Seq) (e : Ends) (other : Option Nat) : Seq :=
  match e q.blk with
  | none => q
  | some f =>
    let told := match q.abn with | some w => some w | none => other
    { q with
      blk := .none
      flags := match f with | some k => flagDown q.flags k | none => q.flags
      hst := match told with | some w => hstTold q.hst w | none => q.hst
      abn := none }

/-- BARRIER_COMPLETE (R320). -/
def execBarrierComplete (g : Nat) (s : State) : Out :=
  match s.grp g with
  | none => notNow s
  | some gr =>
    match gr.barS with
    | none => notNow s
    | some withSeq =>
      if (gr.waves.all fun wv => !wv.live || wv.arrived endsBar)
          && (!withSeq || !gr.seq.live || (endsBar gr.seq.blk).isSome) then
        .next (s.modGrp g fun gr =>
          { gr with
            barS := none
            waves := gr.waves.map fun wv => if wv.live then wv.freed endsBar none else wv
            seq := gr.seq.freed endsBar none })
      else notNow s

/-- MBAR_COMPLETE (R321): the members of the phase go on; waves that joined since and wait open the next
phase. -/
def execMbarComplete (g k : Nat) (s : State) : Out :=
  match s.grp g with
  | none => notNow s
  | some gr =>
    match gr.mphase.getD k none with
    | none => notNow s
    | some m =>
      let e := endsMbar k
      let inPhase := fun (p : Wave × Nat) => bit m p.2 && p.1.live
      let ws := gr.waves.zip (List.range gr.waves.length)
      if ws.all fun p => !inPhase p || p.1.arrived e then
        let ws' := ws.map fun p => if inPhase p then p.1.freed e none else p.1
        let again := ws'.any fun wv => wv.live && wv.splits.any fun x => x.live && (e x.blk).isSome
        .next (s.modGrp g fun gr =>
          { gr with waves := ws', mphase := setReg 16 none gr.mphase k (if again then some (gr.msets.getD k 0) else none) })
      else notNow s

/-- The grid of a key. -/
def State.gridOf (s : State) (key : Nat) : Option Grid := s.grid (key % 2 ^ 32) (key / 2 ^ 32)
def Grid.key (x : Grid) : Nat := gridKey x.ctx x.id

/-- The group belongs to the grid. -/
def Group.isOf (gr : Group) (x : Grid) : Bool := gr.grid == x.id && gr.ctx == x.ctx

/-- Groups of a grid that are not resident: pending, handed to a die, or continuations. -/
def State.absentGroups (s : State) (x : Grid) : Bool :=
  x.next < x.count || !x.returned.isEmpty || !x.conts.isEmpty || s.dies.any fun d => d.2.waiting.any fun y => y.1 == x.key

/-- GRID_BARRIER_COMPLETE (R322): every live wave of every group has arrived; all acquire at package
scope. -/
def execGridBarrierComplete (key : Nat) (s : State) : Out :=
  match s.gridOf key with
  | none => notNow s
  | some x =>
    let gs := s.groups.filter fun g => g.2.isOf x
    let e := endsGbar
    if s.absentGroups x
        || !(gs.any fun g => (e g.2.seq.blk).isSome || g.2.waves.any fun wv => wv.live && wv.splits.any fun y =>
            y.live && (e y.blk).isSome)
        || !(gs.all fun g => g.2.waves.all fun wv => !wv.live || wv.arrived e) then
      notNow s
    else
      let told := x.gbar.abandoned
      let s := gs.foldl (fun (s : State) g =>
        (s.modGrp g.1 fun gr =>
          { gr with
            waves := gr.waves.map fun wv => if wv.live then wv.freed e told else wv
            seq := gr.seq.freed e told }).acquire (coreOf g.1) 4) s
      .next (s.modGrid x.id x.ctx fun x => { x with gbar := ⟨x.gbar.phase + 1, none⟩ })

-- The decision queue --------------------------------------------------------------------------

/-- dqpush: waits while the queue holds 16 entries (R323; 07 R187). -/
def execDqpush (h : Hdr) (a : Src) : State → Out :=
  control h fun c s =>
    if 16 ≤ c.gr.dq.length then .error .hold
    else .ok (s.modGrp c.g fun gr => { gr with dq := gr.dq ++ [c.scalar a] }.trimDq)

/-- dqpop (R323). -/
def execDqpop (h : Hdr) (d : Dst) : State → Out :=
  control h fun c s =>
    match c.dqEntry with
    | .error e => .error e
    | .ok x =>
      let s := s.dqConsumed c
      .ok (if h.nw then s else s.setScalar c d x)

end Sys2Proof.Machine
end

