-- ==== Sys2Proof/Machine/Cmp.lean ====
section
/-!
DEFINITION. Comparison into predicates, predicate logic and selection (08 R203 to R206).
-/

namespace Sys2Proof.Machine

/-- An integer comparison: Pd in the lane stream, 1 or 0 into G in the uniform stream (R203). -/
def cmpInt (f : (n : Nat) → BitVec n → BitVec n → Bool) (h : Hdr) (d : Dst) (a b : Src) : State → Out :=
  let srcs : List SrcW := [(a, .w32), (b, .w32)]
  bothFixed tInt h 8 d srcs
    (fun c m =>
      let x := c.words extN srcs 0
      let y := c.words extN srcs 1
      match d with
      | .p p => .ok (Res.pred m p (PVal.of fun l => .ofBool (f 32 (w32 x l) (w32 y l))) 0 0)
      | _ => .ok (Res.pred m 7 ⟨0, 0⟩ 0 0))
    (fun c => if f 64 (c.gval extN a) (c.gval extN b) then 1 else 0)

/-- A comparison of FP32 values (R204). -/
def cmpFp32 (cc : FCond) (h : Hdr) (p : BitVec 3) (a b : Src) : State → Out :=
  let srcs : List SrcW := [(a, .w32), (b, .w32)]
  laneFixed tFp h 8 [] srcs fun c m =>
    let x := c.words extN srcs 0
    let y := c.words extN srcs 1
    let r := fun l => fpCmp fp32 cc (w32 x l).toNat (w32 y l).toNat
    .ok (Res.pred m p.toNat (PVal.of fun l => (r l).1) (orFlags m fun l => (r l).2) 0)

/-- A comparison of FP64 values (R204). -/
def cmpFp64 (cc : FCond) (h : Hdr) (p : BitVec 3) (a b : Src) : State → Out :=
  let srcs : List SrcW := [(a, .w64), (b, .w64)]
  laneFixed tFp64 h 8 [] srcs fun c m =>
    let x := c.words extN srcs 0
    let y := c.words extN srcs 1
    let r := fun l => fpCmp fp64 cc (w64 x l).toNat (w64 y l).toNat
    .ok (Res.pred m p.toNat (PVal.of fun l => (r l).1) (orFlags m fun l => (r l).2) 0)

/-- cmp.eq.b32 (R203). -/
def execCmpEqB32 (h : Hdr) (d : Dst) (a b : Src) : State → Out :=
  cmpInt (fun _ a b => a == b) h d a b

/-- cmp.ne.b32 (R203). -/
def execCmpNeB32 (h : Hdr) (d : Dst) (a b : Src) : State → Out :=
  cmpInt (fun _ a b => a != b) h d a b

/-- cmp.lt.i32 (R203). -/
def execCmpLtI32 (h : Hdr) (d : Dst) (a b : Src) : State → Out :=
  cmpInt (fun _ a b => a.slt b) h d a b

/-- cmp.le.i32 (R203). -/
def execCmpLeI32 (h : Hdr) (d : Dst) (a b : Src) : State → Out :=
  cmpInt (fun _ a b => a.sle b) h d a b

/-- cmp.lt.n32 (R203). -/
def execCmpLtN32 (h : Hdr) (d : Dst) (a b : Src) : State → Out :=
  cmpInt (fun _ a b => a.ult b) h d a b

/-- cmp.le.n32 (R203). -/
def execCmpLeN32 (h : Hdr) (d : Dst) (a b : Src) : State → Out :=
  cmpInt (fun _ a b => a.ule b) h d a b

/-- tst.b32 (R203). -/
def execTstB32 (h : Hdr) (d : Dst) (a b : Src) : State → Out :=
  cmpInt (fun _ a b => (a &&& b) != 0) h d a b

/-- cmp.eq.f32 (R204). -/
def execCmpEqF32 (h : Hdr) (p : BitVec 3) (a b : Src) : State → Out :=
  cmpFp32 .eq h p a b

/-- cmp.eq.f64 (R204). -/
def execCmpEqF64 (h : Hdr) (p : BitVec 3) (a b : Src) : State → Out :=
  cmpFp64 .eq h p a b

/-- cmp.ne.f32 (R204). -/
def execCmpNeF32 (h : Hdr) (p : BitVec 3) (a b : Src) : State → Out :=
  cmpFp32 .ne h p a b

/-- cmp.ne.f64 (R204). -/
def execCmpNeF64 (h : Hdr) (p : BitVec 3) (a b : Src) : State → Out :=
  cmpFp64 .ne h p a b

/-- cmp.lt.f32 (R204). -/
def execCmpLtF32 (h : Hdr) (p : BitVec 3) (a b : Src) : State → Out :=
  cmpFp32 .lt h p a b

/-- cmp.lt.f64 (R204). -/
def execCmpLtF64 (h : Hdr) (p : BitVec 3) (a b : Src) : State → Out :=
  cmpFp64 .lt h p a b

/-- cmp.le.f32 (R204). -/
def execCmpLeF32 (h : Hdr) (p : BitVec 3) (a b : Src) : State → Out :=
  cmpFp32 .le h p a b

/-- cmp.le.f64 (R204). -/
def execCmpLeF64 (h : Hdr) (p : BitVec 3) (a b : Src) : State → Out :=
  cmpFp64 .le h p a b

/-- cmp.gt.f32 (R204). -/
def execCmpGtF32 (h : Hdr) (p : BitVec 3) (a b : Src) : State → Out :=
  cmpFp32 .gt h p a b

/-- cmp.gt.f64 (R204). -/
def execCmpGtF64 (h : Hdr) (p : BitVec 3) (a b : Src) : State → Out :=
  cmpFp64 .gt h p a b

/-- cmp.ge.f32 (R204). -/
def execCmpGeF32 (h : Hdr) (p : BitVec 3) (a b : Src) : State → Out :=
  cmpFp32 .ge h p a b

/-- cmp.ge.f64 (R204). -/
def execCmpGeF64 (h : Hdr) (p : BitVec 3) (a b : Src) : State → Out :=
  cmpFp64 .ge h p a b

/-- cmp.un.f32 (R204). -/
def execCmpUnF32 (h : Hdr) (p : BitVec 3) (a b : Src) : State → Out :=
  cmpFp32 .un h p a b

/-- cmp.un.f64 (R204). -/
def execCmpUnF64 (h : Hdr) (p : BitVec 3) (a b : Src) : State → Out :=
  cmpFp64 .un h p a b

/-- cmp.ord.f32 (R204). -/
def execCmpOrdF32 (h : Hdr) (p : BitVec 3) (a b : Src) : State → Out :=
  cmpFp32 .ord h p a b

/-- cmp.ord.f64 (R204). -/
def execCmpOrdF64 (h : Hdr) (p : BitVec 3) (a b : Src) : State → Out :=
  cmpFp64 .ord h p a b

/-- Predicate register n as an instruction reads it at issue. -/
def ICtx.pred (c : ICtx) (n : BitVec 3) : PVal := c.wv.pAt c.clk n.toNat

/-- pand (R205). -/
def execPand (h : Hdr) (p q r : BitVec 3) : State → Out :=
  laneFixed tInt h 8 [] [] fun c m =>
    .ok (Res.pred m p.toNat (PVal.of fun l => ((c.pred q).code l).and ((c.pred r).code l)) 0 0)

/-- por (R205). -/
def execPor (h : Hdr) (p q r : BitVec 3) : State → Out :=
  laneFixed tInt h 8 [] [] fun c m =>
    .ok (Res.pred m p.toNat (PVal.of fun l => ((c.pred q).code l).or ((c.pred r).code l)) 0 0)

/-- pnot (R205). -/
def execPnot (h : Hdr) (p q : BitVec 3) : State → Out :=
  laneFixed tInt h 8 [] [] fun c m =>
    .ok (Res.pred m p.toNat (PVal.of fun l => ((c.pred q).code l).not) 0 0)

/-- pmov: an active lane that holds 0b11 raises the illegal-value trap (R206). -/
def execPmov (h : Hdr) (p : BitVec 3) (a : Src) : State → Out :=
  let srcs : List SrcW := [(a, .w32)]
  laneFixed tInt h 8 [] srcs fun c m =>
    let x := c.words extN srcs 0
    match (maskLanes m).find? fun l => (w32 x l).toNat % 4 == 3 with
    | some l => .error (.trap cValue none l)
    | none => .ok (Res.pred m p.toNat
      ⟨mkMask fun l => bit (w32 x l) 0 && !bit (w32 x l) 1, mkMask fun l => bit (w32 x l) 1 && !bit (w32 x l) 0⟩ 0 0)

/-- sel.b32: undecided selects b (R206). -/
def execSelB32 (h : Hdr) (d : Dst) (a b : Src) (q : BitVec 3) : State → Out :=
  let srcs : List SrcW := [(a, .w32), (b, .w32)]
  laneFixed tInt h 8 [(d, .w32)] srcs fun c m =>
    let x := c.words extN srcs 0
    let y := c.words extN srcs 1
    .ok (res32 m d fun l => if bit (c.pred q).t l then w32 x l else w32 y l)

/-- pfrom: a lane both true and undecided raises the illegal-value trap (R206). -/
def execPfrom (h : Hdr) (p : BitVec 3) (a : Src) : State → Out :=
  laneFixed tInt h 8 [] [] fun c m =>
    let x := c.scalar a
    let t := mkMask (bit x)
    let u := mkMask fun l => bit x (32 + l)
    match (maskLanes m).find? fun l => bit (t &&& u) l with
    | some l => .error (.trap cValue none l)
    | none => .ok (Res.pred m p.toNat ⟨t &&& ~~~u, u &&& ~~~t⟩ 0 0)

/-- pto: every lane of Pa is read; Wd is written when a lane is active (R206). -/
def execPto (h : Hdr) (d : Dst) (q : BitVec 3) : State → Out :=
  laneFixed tInt h 8 [] [] fun c m =>
    let x := c.pred q
    .ok ⟨match d with
      | .w n => if m = 0 then [] else [.w n (x.u ++ x.t)]
      | _ => [], [], none, 0, 0⟩

end Sys2Proof.Machine
end

