-- ==== Sys2Proof/Machine/Copy.lean ====
section
/-!
DEFINITION. The asynchronous copy engine and the copy tags (06 R138 to R147).
-/

namespace Sys2Proof.Machine

-- Ends of work that began earlier --------------------------------------------------------------

/-- The report of an agent for an instruction at pc that issued earlier. -/
def State.recordOf (s : State) (ag : Agent) (pc cause : Nat) (flags : BitVec 8) (va : Option Nat) (aux : Nat) :
    Option FRec :=
  (s.grp (agPlace ag)).map fun gr =>
    gr.report (agPlace ag) cause flags pc (match ag with | .seq _ => true | _ => false) va aux
      (match ag with
        | .split _ w _ => (match gr.waves[w]? with | some wv => [wv.place] | none => [])
        | .seq _ => [])

/-- The task ends with a trap of an instruction that issued earlier. -/
def State.trapAt (s : State) (ag : Agent) (pc cause : Nat) (va : Option Nat) (aux : Nat) : State :=
  match s.recordOf ag pc cause 0 va aux with
  | some r => s.endTask (agPlace ag) r
  | none => s

/-- The agent goes back to an instruction that issued earlier, whose cue is undone. -/
def State.backTo (s : State) (ag : Agent) (pc : Nat) (flag : Option Nat) : State :=
  let s := (s.block ag .none).lower ag flag
  match ag with
  | .split g w sp => s.modSplit g w sp fun x => { x with pc := pc }
  | .seq g => s.modSeq g fun q => { q with pc := pc }

/-- It parks there on a not-present page (16 R364). -/
def State.parkAt (s : State) (ag : Agent) (pc va aux : Nat) (flag : Option Nat) : State :=
  let s := s.backTo ag pc flag
  let s := match s.recordOf ag pc cNotPresent 0x01 (some va) aux with
    | some r => s.send r
    | none => s
  match ag with
  | .split g w _ => ((s.modWave g w fun wv => { wv with parked := some va, parkAux := aux }).dropResvs g w).savePin g w
  | .seq g => s.modSeq g fun q => { q with parked := some va, parkAux := aux }

-- Tags ----------------------------------------------------------------------------------------

/-- A copy of tag t is issued (R139). -/
def Group.tagIssued (gr : Group) (t : Nat) : Group :=
  { gr with pendTag := setReg 64 0 gr.pendTag t (gr.pendTag.getD t 0 + 1), ctb := gr.ctb &&& ~~~(BitVec.ofNat 64 (2 ^ t)) }

/-- A copy of tag t is complete (R139). -/
def Group.tagDone (gr : Group) (t : Nat) : Group :=
  let n := gr.pendTag.getD t 0 - 1
  { gr with pendTag := setReg 64 0 gr.pendTag t n,
            ctb := if n = 0 then gr.ctb ||| BitVec.ofNat 64 (2 ^ t) else gr.ctb }

/-- Tags of a mask that are pending. -/
def Group.anyPending (gr : Group) (m : DWord) : Bool :=
  (List.range 64).any fun t => bit m t && 0 < gr.pendTag.getD t 0

-- Copies --------------------------------------------------------------------------------------

/-- The operands of a copy break a limit (R141): VA, scratchpad offset, count. -/
def copyStop (gr : Group) (inn : Bool) (va : DWord) (ofs count : Nat) (bar : Option Nat) : Option Stop :=
  if va.toNat % 16 != 0 || ofs % 16 != 0 || count % 16 != 0 || count < 16 || 1048576 < count then some (tr cValue)
  else if !(if inn then gr.spadFree ofs count else gr.spadHas ofs count) then some (tr cSpad)
  else match bar with
    | some k => if gr.barReady k then none else some (tr cBarrier)
    | none => none

/-- acopy.in and acopy.out (R140 to R143). -/
def acopy (inn : Bool) (h : Hdr) (tag : BitVec 6) (a b : Src) (bo : BitVec 4) (bv : Bool) : State → Out :=
  issue h 8 fun c s =>
    let va := c.scalar a
    let x := c.scalar b
    let ofs := (x.extractLsb' 0 32).toNat
    let count := (x.extractLsb' 32 32).toNat
    let bar := if bv then some bo.toNat else none
    match copyStop c.gr inn va ofs count bar with
    | some st => .error st
    | none =>
      if 15 ≤ c.gr.pendTag.getD tag.toNat 0 || s.acqPending c.ag then .error .hold
      else if (c.acting h).isEmpty then
        .ok (((s.modGrp c.g fun gr => (gr.tagIssued tag.toNat).tagDone tag.toNat).credit c.g bar count).doneNow c h)
      else if 32 ≤ (s.copies.filter fun o => coreOf (agPlace o.ag) == c.core).length then .error .hold
      else
        let id := s.nextId
        let op : CopyOp := ⟨id, c.ag, c.pc, inn, tag.toNat, va.toNat, count, ofs, bar, hdrFlag h, none⟩
        let s := { s.newId with copies := s.copies ++ [op] }
        .ok (s.block c.ag (.copy id))

/-- A page of a copy that is refused: a kind-4 page written (R143). -/
def copyCheck (inn : Bool) (t : Trans) : Option Nat :=
  match t.tgt with
  | .aliasAt _ _ _ _ _ => if inn then none else some cAlias
  | _ => none

/-- The 16-byte units of translated pieces, in address order. -/
def unitsOf (ps : List XPiece) : List Tgt :=
  ps.flatMap fun p => match p.2.2 with
    | .ok t => (List.range (p.2.1 / 16)).map fun k => t.tgt.plus (16 * k)
    | .error _ => []

/-- COPY_TRANSLATED: translation of a copy's range ends: it queues, parks or traps (R143). -/
def execCopyTranslated (id : Nat) (s : State) : Out :=
  match s.copies.find? fun o => o.id == id && o.units.isNone with
  | none => notNow s
  | some op =>
    let g := agPlace op.ag
    match s.grp g with
    | none => notNow s
    | some gr =>
      let r := s.xpieces (coreUnit g) gr.ctx (if op.inn then .rd else .wr) (pieces op.va op.count)
      let ps := refusePieces (copyCheck op.inn) r.2
      let u := r.1
      let drop := { u with copies := u.copies.filter fun o => o.id != id }
      match decidingFault ps with
      | some (cause, va) =>
        if cause = cNotPresent then .next (drop.parkAt op.ag op.pc va 0 op.flag)
        else .next (drop.trapAt op.ag op.pc cause (some va) 0)
      | none =>
        if 15 ≤ gr.pendTag.getD op.tag 0 then notNow s
        else
          let us := unitsOf ps
          let wide := gr.versioned && !op.inn && us.any Tgt.isSys
          if wide && !(u.writesDone g && u.noReplay g) then notNow s
          else
            let s := if wide then u.demote g 3 else u
            let s := s.modGrp g fun gr => gr.tagIssued op.tag
            let put := fun (o : CopyOp) => if o.id == id then { o with units := some us } else o
            let s := { s with copies := s.copies.map put }
            .next (s.block op.ag .none)

/-- The units of acopy.in are written into scratchpad. -/
def State.unitsIn (s : State) (g : Nat) : List (Nat × Tgt) → State
  | [] => s
  | (o, t) :: r => (s.modGrp g fun gr => gr.setSpad o (s.readTgt (s.grp g) t 16)).unitsIn g r

/-- The units of acopy.out are written at their homes or into the version, and enter the signature. -/
def State.unitsOut (s : State) (g partialNo : Nat) : List (Nat × Nat × Tgt) → State
  | [] => s
  | (o, va, t) :: r =>
    let bs := match s.grp g with | some gr => gr.spadBytes o 16 | none => []
    ((s.sign g partialNo va bs).writeTgt g t bs).unitsOut g partialNo r

/-- COPY_COMPLETE: every unit is written; the tag moves and the barrier object is credited (R144). -/
def execCopyComplete (id : Nat) (s : State) : Out :=
  match s.copies.find? fun o => o.id == id with
  | none => notNow s
  | some op =>
    let g := agPlace op.ag
    match op.units, s.grp g with
    | some us, some gr =>
      if !op.inn && s.poolStalls g gr (us.map fun t => (t, 16)) then notNow s
      else
        let n := List.range us.length
        let s := if op.inn then s.unitsIn g ((n.map fun k => op.ofs + 16 * k).zip us)
          else s.unitsOut g 136 ((n.map fun k => op.ofs + 16 * k).zip ((n.map fun k => op.va + 16 * k).zip us))
        let s := { s with copies := s.copies.filter fun o => o.id != id }
        let s := s.modGrp g fun gr => gr.tagDone op.tag
        .next ((s.credit g op.bar op.count).lower op.ag op.flag)
    | _, _ => notNow s

def execAcopyIn (h : Hdr) (tag : BitVec 6) (a b : Src) (bo : BitVec 4) (bv : Bool) (_ch : BitVec 2) : State → Out :=
  acopy true h tag a b bo bv
def execAcopyOut (h : Hdr) (tag : BitVec 6) (a b : Src) (bo : BitVec 4) (bv : Bool) (_ch : BitVec 2) : State → Out :=
  acopy false h tag a b bo bv

-- Tag instructions ----------------------------------------------------------------------------

/-- A wait on tags, which ends a pin (07 R184). -/
def tagwait (ready : Group → DWord → Bool) (h : Hdr) (a : Src) : State → Out :=
  issue h 8 fun c s =>
    if ready c.gr (c.scalar a) then .ok ((s.unpin c).doneNow c h) else .error .await

/-- tagwait.any (R147). -/
def execTagwaitAny (h : Hdr) (a : Src) : State → Out :=
  tagwait (fun gr m => (gr.ctb &&& m) != 0 || !gr.anyPending m) h a

/-- tagwait.all (R147). -/
def execTagwaitAll (h : Hdr) (a : Src) : State → Out := tagwait (fun gr m => !gr.anyPending m) h a

/-- tagffr (R147). -/
def execTagffr (h : Hdr) (d : Dst) (a : Src) : State → Out :=
  issue h 8 fun c s =>
    let m := c.gr.ctb &&& c.scalar a
    let t := ((List.range 64).find? (bit m)).getD 64
    .ok ((if h.nw || (c.acting h).isEmpty then s else s.setScalar c d (BitVec.ofNat 64 t)).doneNow c h)

/-- tagclr (R147). -/
def execTagclr (h : Hdr) (a : Src) : State → Out :=
  issue h 8 fun c s =>
    let m := c.scalar a
    let clr := fun (gr : Group) => (List.range 64).foldl (fun (gr : Group) t =>
      if bit m t && gr.pendTag.getD t 0 == 0 then { gr with ctb := gr.ctb &&& ~~~(BitVec.ofNat 64 (2 ^ t)) } else gr) gr
    .ok ((if (c.acting h).isEmpty then s else s.modGrp c.g clr).doneNow c h)

end Sys2Proof.Machine
end

