-- ==== Sys2Proof/Machine/Dma.lean ====
section
/-!
DEFINITION. The DMA channels of the X-dies (06 R148 to R152).
-/

namespace Sys2Proof.Machine

/-- A channel that has never had a command. -/
def DmaChan.empty : DmaChan := ⟨[], 0, []⟩

def State.chan (s : State) (ch : Nat) : DmaChan := SMap.getD s.dma ch DmaChan.empty

/-- Channel ch is on a live X-die (R148). -/
def Pkg.chanLive (p : Pkg) (ch : Nat) : Bool := ch < 32 && bit p.livex (ch / 16)

/-- The live channel with the fewest queued commands, the lowest on a tie (R149). -/
def State.anyChan (s : State) : Option Nat :=
  (List.range 32).foldl (fun (best : Option Nat) ch =>
    if s.pkg.chanLive ch then
      match best with
      | some b => if (s.chan ch).q.length < (s.chan b).q.length then some ch else best
      | none => some ch
    else best) none

/-- Two ranges of len bytes overlap. -/
def rangesMeet (a b len : Nat) : Bool := a < b + len && b < a + len

/-- The lowest live C-die, whose translation service an X-die engine or the S-die asks. -/
def Pkg.firstDie (p : Pkg) : Nat := ((List.range 16).find? (bit p.livec)).getD 0

/-- dma.copy and dma.fill (R148, R149, R152). -/
def dmaIssue (fill : Bool) (h : Hdr) (d : Dst) (a b e : Src) : State → Out :=
  issue h 8 fun c s =>
    let dst := (c.scalar a).toNat
    let src := c.scalar b
    let x := c.scalar e
    let len := (x.extractLsb' 0 40).toNat
    let ch := (x.extractLsb' 49 5).toNat
    let anyCh := bit x 54
    let bv := bit x 55
    let bo := (x.extractLsb' 56 4).toNat
    if (x.extractLsb' 60 4) != 0 || (x.extractLsb' 40 9) != 0 || (anyCh && ch != 0) || (!bv && bo != 0) || len = 0
        || (!anyCh && !s.pkg.chanLive ch) || (!fill && rangesMeet dst src.toNat len)
        || (fill && (dst % 8 != 0 || len % 8 != 0)) then .error (tr cValue)
    else if bv && !c.gr.barReady bo then .error (tr cBarrier)
    else
      match (if anyCh then s.anyChan else some ch) with
      | none => .error (tr cValue)
      | some k =>
        if 64 ≤ (s.chan k).q.length || s.acqPending c.ag then .error .hold
        else if c.gr.versioned then c.demoted 3
        else
          let seq := (s.chan k).next
          let cmd : DmaCmd := ⟨c.g, c.gr.grid, c.gr.index, c.gr.ctx, seq, fill, dst, src, len, 0,
            if bv then some bo else none, hdrFlag h, 0, none⟩
          let s := { s with dma := SMap.set k { s.chan k with q := (s.chan k).q ++ [cmd], next := seq + 1 } s.dma }
          .ok (if h.nw then s else s.setScalar c d (BitVec.ofNat 64 (k * 2 ^ 48 + seq % 2 ^ 32)))

def execDmaCopy (h : Hdr) (d : Dst) (a b c : Src) : State → Out := dmaIssue false h d a b c
def execDmaFill (h : Hdr) (d : Dst) (a b c : Src) : State → Out := dmaIssue true h d a b c

/-- The number of the command a ticket names: the last one issued with that sequence number. -/
def ticketSeq (next t : Nat) : Option Nat :=
  if t < next then some (t + (next - 1 - t) / 2 ^ 32 * 2 ^ 32) else none

/-- The status word of R151. -/
def dmaStatus (fin : Bool) (cause bytes : Nat) : DWord :=
  BitVec.ofNat 64 ((if fin then 2 ^ 63 else 0) + (if fin && cause != 0 then 2 ^ 62 + cause * 2 ^ 56 else 0) + bytes % 2 ^ 40)

/-- dma.stat (R148, R151). -/
def execDmaStat (h : Hdr) (d : Dst) (a : Src) : State → Out :=
  control h fun c s =>
    let x := c.scalar a
    let k := (x.extractLsb' 48 5).toNat
    if (x.extractLsb' 53 11) != 0 || (x.extractLsb' 32 16) != 0 || !s.pkg.chanLive k then .error (tr cValue)
    else
      match ticketSeq (s.chan k).next (x.toNat % 2 ^ 32) with
      | none => .error (tr cValue)
      | some seq =>
        let w : DWord :=
          if 256 < (s.chan k).next - seq then 0x2000000000000000
          else match (s.chan k).q.find? fun m => m.seq == seq with
            | some m => dmaStatus false 0 m.bytes
            | none => match (s.chan k).hist.find? fun z => z.1 == seq with
              | some z => dmaStatus true z.2.1 z.2.2
              | none => dmaStatus true 0 0
        .ok (if h.nw then s else s.setScalar c d w)

/-- Replace the first command of a channel. -/
def State.setHead (s : State) (ch : Nat) (m : DmaCmd) : State :=
  { s with dma := SMap.set ch { s.chan ch with q := m :: (s.chan ch).q.tail } s.dma }

/-- A page of a DMA chunk that is refused: an odd part of an alias element written (03 R85). -/
def dmaPieces (wr : Bool) (ps : List XPiece) : List XPiece :=
  ps.map fun p => (p.1, p.2.1, match p.2.2 with
    | .ok t => if wr && p.2.1 % 2 = 1 && aliasMisuse true 1 t then .error cAlias else .ok t
    | .error k => .error k)

/-- The issuing group is still the one at its place. -/
def State.owns (s : State) (m : DmaCmd) : Bool :=
  match s.grp m.g with
  | some gr => gr.grid == m.grid && gr.index == m.index && gr.ctx == m.ctx
  | none => false

/-- DMA_CHUNK: the first command of a channel reads and writes its next chunk (R150, R151);
the lines written leave the L1 of the issuing group, whose waves acquire them (12 R294). -/
def execDmaChunk (ch : Nat) (s : State) : Out :=
  match (s.chan ch).q with
  | [] => notNow s
  | m :: _ =>
    if m.cause != 0 || m.waiting.isSome || m.len ≤ m.bytes then notNow s
    else
      let at_ := m.dst + m.bytes
      let n := min (m.len - m.bytes) (4096 - at_ % 4096)
      let u := TUnit.engine s.pkg.firstDie
      let rs := if m.fill then (s, []) else s.xpieces u m.ctx .rd (pieces (m.src.toNat + m.bytes) n)
      let rd := refusePieces (fun _ => none) rs.2
      let ws := rs.1.xpieces u m.ctx .wr (pieces at_ n)
      let wr := dmaPieces true (refusePieces (fun _ => none) ws.2)
      let s := ws.1
      match decidingFault (rd ++ wr) with
      | some (cause, va) =>
        if cause = cNotPresent then
          let ticket := ch * 2 ^ 48 + m.seq % 2 ^ 32
          .next ((s.setHead ch { m with waiting := some va }).sendTo (unitX (ch / 16))
            (engReport m.ctx cNotPresent 0x01 m.grid m.index (some va) ticket))
        else .next (s.setHead ch { m with cause := cause })
      | none =>
        let bs := if m.fill then (List.range n).map fun k => BitVec.ofNat 8 (m.src.toNat / 256 ^ ((m.bytes + k) % 8))
          else s.readPieces none (targets rd)
        let s := s.writePieces (agPlace orphan) (targets wr) bs
        let s := if s.owns m then (targets wr).foldl (fun (s : State) p => s.l1DropRun (coreOf m.g) p.1 p.2) s else s
        .next (s.setHead ch { m with bytes := m.bytes + n })

/-- DMA_COMPLETE: the first command of a channel ends, by its last byte or a fault, and its barrier object
is credited (R150, R151). -/
def execDmaComplete (ch : Nat) (s : State) : Out :=
  match (s.chan ch).q with
  | [] => notNow s
  | m :: rest =>
    if m.cause = 0 ∧ m.bytes < m.len then notNow s
    else
      let c := s.chan ch
      let hist := (c.hist ++ [(m.seq, m.cause, m.bytes)])
      let s := { s with dma := SMap.set ch { c with q := rest, hist := hist.drop (hist.length - 256) } s.dma }
      .next (if s.owns m then (s.credit m.g m.bar m.len).lower (.seq m.g) m.flag else s)

end Sys2Proof.Machine
end

