-- ==== Sys2Proof/Machine/Kernel.lean ====
section
/-!
DEFINITION. The records the device reads when work is launched: kernel objects (02 R58 to R61; 07 R171; 13
R326; 15 R358), launch records (13 R300), layout records (03 R79 to R82).
-/

namespace Sys2Proof.Machine

/-- A field of n bytes at offset o of a record. -/
def fld (bs : List Byte) (o n : Nat) : Nat := leVal ((bs.drop o).take n)

/-- Who reads for the device itself: through the lowest live die's translation service. -/
def State.devUnit (s : State) : TUnit := .engine s.pkg.firstDie

/-- n bytes at an address as the device reads them for a context: at their homes. -/
def State.devRead (s : State) (ctx va n : Nat) : State × Except (Nat × Nat) (List Byte) :=
  s.readVa s.devUnit ctx none va n

-- Kernel objects ------------------------------------------------------------------------------

/-- The header fields of R58 that the checks and the loader use. -/
structure KHead where
  variants : Nat
  handoff : Nat
  points : Nat
  mapOfs : Nat
  dataOfs : Nat
  dataLen : Nat
  sigOfs : Nat
deriving DecidableEq, Repr

/-- A header, or none where R58 refuses it (R61). -/
def kernelHead (bs : List Byte) : Option KHead :=
  let h : KHead := ⟨fld bs 6 1, fld bs 8 2, fld bs 0xa 2, fld bs 0x10 8, fld bs 0x18 8, fld bs 0x20 8, fld bs 0x28 8⟩
  if fld bs 0 4 = 0x314b4c4f ∧ fld bs 4 2 = 1 ∧ 1 ≤ h.variants ∧ h.variants ≤ 4 ∧ fld bs 7 1 = 0
      ∧ h.handoff ≤ 4096 ∧ h.handoff % 8 = 0 ∧ h.points ≤ 1024 ∧ fld bs 0xc 4 = 0 ∧ fld bs 0x30 16 = 0 then some h
  else none

/-- A variant descriptor within its limits (R59; 07 R171; 15 R358). -/
def variantOf (bs : List Byte) : Option Variant :=
  let v : Variant := ⟨fld bs 0 2, fld bs 2 1, fld bs 3 1, fld bs 4 4, fld bs 8 4, fld bs 0xc 2, fld bs 0x10 8,
    fld bs 0x18 4, fld bs 0x20 8, fld bs 0x1c 4, fld bs 0x28 8, fld bs 0x30 8, fld bs 0x38 8, []⟩
  if 1 ≤ v.rl ∧ v.rl ≤ 224 ∧ 1 ≤ v.waves ∧ v.waves ≤ 32 ∧ v.acc ≤ 64 ∧ v.spad ≤ 2097152
      ∧ v.lpriv ≤ 16384 ∧ v.lpriv % 16 = 0 ∧ v.dict ≤ 1024 ∧ fld bs 0xe 2 = 0 ∧ v.uLen % 16 = 0 ∧ v.lLen % 16 = 0
      ∧ (v.uLen + 4095) / 4096 + (v.lLen + 4095) / 4096 ≤ 64 then some v
  else none

/-- The bytes of cue nibbles of n slots. -/
def nibbleBytes (n : Nat) : Nat := (n + 1) / 2

/-- The sections of a variant: offset and length (R60). -/
def Variant.sections (v : Variant) (points : Nat) : List (Nat × Nat) :=
  [(v.uOfs, v.uLen), (v.lOfs, v.lLen), (v.cueOfs, v.uLen / 16 + v.lLen / 16),
    (v.dictOfs, 8 * v.dict + nibbleBytes v.dict), (v.cpOfs, 16 * points)]

/-- Sections lie at multiples of 8 behind the descriptors and before the signature block, and none overlaps
another (R60, R61). R60 states the alignment and R61 names no refusal for it: an object that breaks it is refused (log
entry 50; DESIGN CHOICE). -/
def sectionsOk (sig : Nat) : List (Nat × Nat) → Bool
  | [] => true
  | (o, n) :: t =>
    o % 8 == 0 && (n == 0 || (0x140 ≤ o && o + n ≤ sig && t.all fun x => x.2 == 0 || !meet o n x.1 x.2))
      && sectionsOk sig t
where
  /-- Two ranges share a byte. -/
  meet (a n b m : Nat) : Bool := a < b + m && b < a + n

/-- The items of a point as the handoff map holds them (13 R326): none where a reserved field or KIND is
set. -/
def liveItems (bs : List Byte) : Nat → Nat → Option (List LiveItem)
  | _, 0 => some []
  | o, n + 1 =>
    let x := BitVec.ofNat 64 (fld bs o 8)
    let i : LiveItem := ⟨(x.extractLsb' 60 4).toNat, (x.extractLsb' 51 9).toNat, (x.extractLsb' 30 21).toNat,
      (x.extractLsb' 16 14).toNat⟩
    if 1 ≤ i.kind ∧ i.kind ≤ 6 ∧ (x.extractLsb' 0 16) = 0 ∧ (i.kind = 6 → i.hofs = 0) then
      (liveItems bs (o + 8) n).map fun t => i :: t
    else none

/-- Bytes of an item in the handoff record (13 R325). -/
def LiveItem.bytes (i : LiveItem) (waves : Nat) : Nat :=
  match i.kind with
  | 1 => 8 * i.count
  | 2 => 8 * i.count * waves
  | 3 => 128 * i.count * waves
  | 4 => i.count
  | 5 => 32 * i.count * waves
  | _ => 0

/-- The end of what an item names, and the limit a variant sets it (R326). -/
def LiveItem.limit (i : LiveItem) (v : Variant) : Nat :=
  match i.kind with
  | 1 => 64
  | 2 => 16
  | 3 => v.rl
  | 4 => v.spad
  | 5 => v.lpriv
  | _ => v.acc

/-- An item alone (R326). -/
def LiveItem.ok (i : LiveItem) (handoff : Nat) (vs : List Variant) : Bool :=
  let waves := match vs with | v :: _ => v.waves | [] => 1
  let perWave := i.kind == 2 || i.kind == 3 || i.kind == 5
  let step := if i.kind = 4 then 8 else if i.kind = 5 then 4 else 1
  8 * i.hofs + i.bytes waves ≤ handoff
    && i.first % step == 0 && i.count % step == 0 && (step == 1 || i.count ≤ 4096)
    && (vs.all fun v => i.first + i.count ≤ i.limit v)
    && (!perWave || vs.all fun v => v.waves == waves)

/-- The items of a point (R326): each for itself, and no two overlapping. -/
def itemsOk (handoff : Nat) (vs : List Variant) : List LiveItem → Bool
  | [] => true
  | i :: t =>
    let waves := match vs with | v :: _ => v.waves | [] => 1
    i.ok handoff vs
      && (t.all fun j => i.bytes waves == 0 || j.bytes waves == 0
        || !(8 * i.hofs < 8 * j.hofs + j.bytes waves && 8 * j.hofs < 8 * i.hofs + i.bytes waves))
      && itemsOk handoff vs t

/-- The length of the word at an offset of a stream (02 R31). -/
def wordAt (stream : List Byte) (o : Nat) : Nat :=
  match stream[o]? with
  | some b => if bit b 0 then (if bit b 1 then 8 else 4) else 2
  | none => 8

/-- A commit point table (R60): none where a reserved field is set. -/
def cpTable (bs us ls : List Byte) : Nat → Nat → Option (List CPoint)
  | _, 0 => some []
  | o, n + 1 =>
    if fld bs (o + 4) 4 ≠ 0 then none
    else
      let u := fld bs (o + 8) 4
      let l := fld bs (o + 12) 4
      (cpTable bs us ls (o + 16) n).map fun t => ⟨fld bs o 4, u, l, wordAt us u, wordAt ls l⟩ :: t

/-- Read ranges of an object: the bytes of each, or the first fault. -/
def State.readAll (s : State) (ctx base : Nat) : List (Nat × Nat) → State × Except (Nat × Nat) (List (List Byte))
  | [] => (s, .ok [])
  | (o, n) :: t =>
    let r := s.devRead ctx (base + o) n
    match r.2 with
    | .error f => (r.1, .error f)
    | .ok bs =>
      let q := r.1.readAll ctx base t
      (q.1, match q.2 with | .ok l => .ok (bs :: l) | .error f => .error f)

/-- The variants with their commit point tables. -/
def withPoints (points : Nat) : List Variant → List (List (List Byte)) → Option (List Variant)
  | [], _ => some []
  | v :: vs, secs :: more =>
    (cpTable (secs.getD 4 []) (secs.getD 0 []) (secs.getD 1 []) 0 points).bind fun ps =>
      (withPoints points vs more).map fun t => { v with points := ps } :: t
  | _ :: _, [] => none

/-- The item lists of the points: offset and count of each from the map's entries; none where an entry is
malformed (13 R326). -/
def mapEntries (bs : List Byte) (points : Nat) : Option (List (Nat × Nat)) :=
  let es := (List.range points).map fun k => (fld bs (8 * k) 4, fld bs (8 * k + 4) 2, fld bs (8 * k + 6) 2)
  if es.all fun e => e.1 % 8 == 0 && e.2.2 == 0 then some (es.map fun e => (e.1, e.2.1)) else none

/-- Cut a list into lists of n. -/
def chunks (n : Nat) : Nat → List (List Byte) → List (List (List Byte))
  | 0, _ => []
  | k + 1, l => l.take n :: chunks n k (l.drop n)

/-- Whether the signature of an object verifies (R60; 17 R387). -/
def State.kernelSigned (s : State) (ctx va : Nat) (h : KHead) : State × Bool :=
  let r := s.devRead ctx va (h.sigOfs + 72)
  match r.2 with
  | .error _ => (r.1, false)
  | .ok bs =>
    let blk := bs.drop h.sigOfs
    (r.1, Config.signatureOk (BitVec.ofNat 64 (fld blk 0 8)) (Config.sha512 (bs.take h.sigOfs)) ((blk.drop 8).take 64))

/-- Load a kernel object, or refuse it (R61): the state, and the object. -/
def State.loadKernel (s : State) (ctx va : Nat) : State × Option KObj :=
  let r := s.devRead ctx va 0x140
  match r.2 with
  | .error _ => (r.1, none)
  | .ok hb =>
    match kernelHead hb with
    | none => (r.1, none)
    | some h =>
      let desc := fun (k : Nat) => (hb.drop (0x40 + 64 * k)).take 64
      let vs := (List.range h.variants).filterMap fun k => variantOf (desc k)
      let rest := (List.range 4).all fun k => k < h.variants || (desc k).all fun b => b == 0
      let secs := vs.flatMap fun v => v.sections h.points
      if vs.length ≠ h.variants ∨ !rest ∨ h.sigOfs % 8 ≠ 0 then (r.1, none)
      else
        let m := r.1.devRead ctx (va + h.mapOfs) (8 * h.points)
        match m.2 with
        | .error _ => (m.1, none)
        | .ok mb =>
          match mapEntries mb h.points with
          | none => (m.1, none)
          | some es =>
            let mapLen := es.foldl (fun n e => max n (e.1 + 8 * e.2)) (8 * h.points)
            let all := secs ++ [(h.mapOfs, mapLen), (h.dataOfs, h.dataLen)]
            if !sectionsOk h.sigOfs all then (m.1, none)
            else
              let q := m.1.readAll ctx va (all ++ [(h.sigOfs, 72)])
              match q.2 with
              | .error _ => (q.1, none)
              | .ok bss =>
                let mapBytes := bss.getD (5 * h.variants) []
                match withPoints h.points vs (chunks 5 h.variants bss),
                    es.mapM fun e => liveItems mapBytes e.1 e.2 with
                | some vs', some live =>
                  let nums := fun (v : Variant) => v.points.map fun p => p.num
                  let agree := vs'.all fun v => nums v == nums (vs'.getD 0 v)
                  let g := if (match q.1.context ctx with | some c => c.sigreq | none => false)
                    then q.1.kernelSigned ctx va h else (q.1, true)
                  if agree && live.all (itemsOk h.handoff vs') && g.2 then (g.1, some ⟨va, h.handoff, vs', live⟩)
                  else (g.1, none)
                | _, _ => (q.1, none)

-- Launch records ------------------------------------------------------------------------------

/-- A launch record's fields (13 R300), with the handle list read beside it. -/
def launchRecord (bs : List Byte) (handles : List Nat) : LRec where
  cls := fld bs 1 1 % 4
  coop := fld bs 1 1 / 4 % 2 == 1
  fuse := fld bs 1 1 / 8 % 2 == 1
  dep := fld bs 1 1 / 16 % 2 == 1
  isRec := fld bs 1 1 / 32 % 2 == 1
  done := fld bs 1 1 / 64 % 2 == 1
  mask := BitVec.ofNat 16 (fld bs 2 2)
  handles := handles
  kernel := fld bs 8 8
  size := fld bs 0x10 4
  limit := fld bs 0x14 4
  items := fld bs 0x18 4
  seed := BitVec.ofNat 32 (fld bs 0x1c 4)
  param := BitVec.ofNat 64 (fld bs 0x20 8)
  area := fld bs 0x30 8
  slots := fld bs 0x38 4
  depTarget := fld bs 0x3c 4
  depVa := fld bs 0x40 8
  doneVa := fld bs 0x48 8
  recVa := fld bs 0x50 8
  recStride := fld bs 0x58 4
  recCountVa := fld bs 0x60 8

/-- A field is a multiple of m where its flag is set, and 0 otherwise. -/
def ifSet (on : Bool) (x m : Nat) : Bool := if on then x % m == 0 else x == 0

/-- The reserved fields and limits of R300. -/
def launchLimits (bs : List Byte) : Bool :=
  let l := launchRecord bs []
  let count := fld bs 4 1
  fld bs 0 1 == 1 && fld bs 1 1 < 128 && l.cls != 3 && count ≤ 32 && fld bs 5 3 == 0
    && l.kernel % 256 == 0 && l.size ≤ l.limit && (!l.isRec || l.size == 0) && l.limit ≤ 2 ^ 31
    && 1 ≤ l.items && l.items ≤ 2 ^ 31 && l.seed != 0 && ifSet (count != 0) (fld bs 0x28 8) 8
    && l.area % 65536 == 0 && 1 ≤ l.slots && (l.dep || l.depTarget == 0) && ifSet l.dep l.depVa 8
    && ifSet l.done l.doneVa 8 && ifSet l.isRec l.recVa 64 && ifSet l.isRec l.recStride 64
    && (!l.isRec || 64 ≤ l.recStride) && fld bs 0x5c 4 == 0 && ifSet l.isRec l.recCountVa 4
    && fld bs 0x68 24 == 0

/-- The layout record VAs of a handle list: none where it is misaligned or cannot be read (R301). -/
def State.handleList (s : State) (ctx : Nat) (bs : List Byte) : State × Option (List Nat) :=
  let va := fld bs 0x28 8
  let n := fld bs 4 1
  if va % 8 != 0 then (s, none)
  else
    let r := s.devRead ctx va (8 * n)
    (r.1, match r.2 with
      | .ok l => some ((List.range n).map fun k => fld l (8 * k) 8)
      | .error _ => none)

-- Layout records ------------------------------------------------------------------------------

/-- A layout record's fields (03 R80). -/
def layoutRecord (bs : List Byte) : Layout where
  rank := fld bs 1 1
  etype := fld bs 2 1
  strict := fld bs 3 1 % 2 == 1
  verify := fld bs 3 1 / 2 % 2 == 1
  writable := fld bs 3 1 / 4 % 2 == 1
  fmtw := BitVec.ofNat 16 (fld bs 4 2)
  base := fld bs 8 8
  extents := (List.range 4).map fun k => fld bs (0x10 + 4 * k) 4
  strides := (List.range 4).map fun k => (BitVec.ofNat 64 (fld bs (0x20 + 8 * k) 8)).toInt
  sideVa := fld bs 0x48 8
  sideKind := fld bs 0x50 1
  sideRows := fld bs 0x51 1
  sideCols := fld bs 0x52 1
  ptr64 := fld bs 0x53 1 == 1
  sideBytes := fld bs 0x54 4
  shardKind := fld bs 0x58 1
  shardCount := fld bs 0x5a 2
  shardBlock := fld bs 0x5c 4
  shardVa := fld bs 0x60 8

/-- The limits and reserved fields of R80. -/
def layoutLimits (bs : List Byte) : Bool :=
  let l := layoutRecord bs
  let idx := List.range 4
  let tile := fun (x : Nat) => if l.sideKind = 2 then 1 ≤ x && x ≤ 64 else x == 0
  fld bs 0 1 == 1 && 1 ≤ l.rank && l.rank ≤ 4 && fld bs 3 1 < 8 && (l.etype = 0x20 || l.fmtw == 0)
    && (isMx l.etype || fld bs 6 2 == 0)
    && (idx.all fun k => if k < l.rank then 1 ≤ l.extents.getD k 0 && l.extents.getD k 0 ≤ 2 ^ 31
        else l.extents.getD k 0 == 1 && l.strides.getD k 0 == 0)
    && fld bs 0x40 8 == 0 && (l.sideKind != 0 || l.sideVa == 0) && l.sideKind ≤ 4
    && tile l.sideRows && tile l.sideCols && (if l.sideKind = 3 then fld bs 0x53 1 ≤ 1 else fld bs 0x53 1 == 0)
    && l.shardKind ≤ 2 && fld bs 0x59 1 == 0
    && (if l.shardKind = 0 then l.shardCount == 0 else 1 ≤ l.shardCount && l.shardCount ≤ 1024)
    && (if l.shardKind = 2 then 1 ≤ l.shardBlock else l.shardBlock == 0)
    && l.shardVa % 16 == 0 && fld bs 0x68 24 == 0

/-- The first refusal of R82 that a record meets, in the rule's order. -/
def layoutFault (bs : List Byte) : Option BindFault :=
  let l := layoutRecord bs
  let mx := isMx l.etype
  if !layoutLimits bs then some .limit
  else if !etKnown l.etype then some .elementCode
  else if l.etype = 0x20 && !FmtW.valid l.fmtw then some .formatWord
  else if mx && fld bs 6 2 != 32 then some .mxBlock
  else if mx && !(l.strides.getD 0 0 == 1 && l.extents.getD 0 0 % 32 == 0
      && (List.range 4).all fun k => k == 0 || l.rank ≤ k || l.strides.getD k 0 % 32 == 0) then some .mxShape
  else if l.strict && l.sideKind != 3 then some .strictSide
  else if l.verify && l.sideKind != 2 then some .verifySide
  else none

/-- Bind a handle slot (R79, R82): a refused binding leaves it invalid. -/
def State.bindHandle (s : State) (ctx va : Nat) : State × Except BindFault Layout :=
  if va % 64 != 0 then (s, .error .record)
  else
    let r := s.devRead ctx va 128
    (r.1, match r.2 with
      | .ok bs => (match layoutFault bs with | none => .ok (layoutRecord bs) | some f => .error f)
      | .error _ => .error .record)

/-- Bind the slots of a handle list. -/
def State.bindHandles (s : State) (ctx : Nat) : List Nat → State × List (Except BindFault Layout)
  | [] => (s, [])
  | va :: t =>
    let r := s.bindHandle ctx va
    let q := r.1.bindHandles ctx t
    (q.1, r.2 :: q.2)

/-- The 32 handle slots that bindings give. -/
def slotsOf (bs : List (Except BindFault Layout)) : List (Option Layout) :=
  (bs.map fun b => match b with | .ok l => some l | .error _ => none) ++ List.replicate (32 - bs.length) none

/-- The reasons of refused bindings are reported with the launch, once for a grid's slot (R82; log entry 54). -/
def State.reportBindings (s : State) (ctx grid : Nat) (bs : List (Except BindFault Layout)) : State :=
  let new := ((bs.zip (List.range bs.length)).filterMap fun b => match b.1 with
    | .ok _ => none
    | .error f => some (OutMsg.binding ctx grid b.2 f)).filter fun m => !s.outbox.contains m
  { s with outbox := s.outbox ++ new }

end Sys2Proof.Machine
end

