-- ==== Sys2Proof/Machine/Transport.lean ====
section
/-!
DEFINITION. Index-vector transport (05 R111 to R137): gathers, pooling, scatters, scoring, query slots
and the status instructions, with the steps of a request on its way.
-/

namespace Sys2Proof.Machine

-- Arithmetic of the row engines ----------------------------------------------------------------

def f32Add (a b : Word) : Word := BitVec.ofNat 32 (fpAdd fp32 rmN a.toNat b.toNat).1
def f32Sub (a b : Word) : Word := BitVec.ofNat 32 (fpSub fp32 rmN a.toNat b.toNat).1
def f32Mul (a b : Word) : Word := BitVec.ofNat 32 (fpMul fp32 rmN a.toNat b.toNat).1
def f32Fma (a b c : Word) : Word := BitVec.ofNat 32 (fpFma fp32 false rmN a.toNat b.toNat c.toNat).1
def f32Sqrt (a : Word) : Word := BitVec.ofNat 32 (fpSqrt fp32 rmN a.toNat).1

/-- Division, rounded once to nearest. -/
def f32Div (a b : Word) : Word :=
  let r : Ext := match fp32.decode a.toNat, fp32.decode b.toNat with
    | .nan _, _ => .nan false
    | _, .nan _ => .nan false
    | .inf _, .inf _ => .nan false
    | .inf x, y => .inf (x != y.neg)
    | x, .inf y => .zero (x.neg != y)
    | .fin na ma ea, .fin nb mb eb =>
      if mb = 0 then (if ma = 0 then .nan false else .inf (na != nb))
      else if ma = 0 then .zero (na != nb)
      else Ext.quot na ma ea nb mb eb
  BitVec.ofNat 32 (fp32.encode rmN r).1

def negInf32 : Word := 0xff800000
def posInf32 : Word := 0x7f800000

/-- Two contributions to one element of a row, as the S-die folds them (R128, R130). -/
def foldWord (form : XForm) (isInt : Bool) (a b : Word) : Word :=
  match form with
  | .scmax => rowUpdate true isInt a b
  | _ => rowUpdate false isInt a b

/-- Fold rows of words element by element, in order. -/
def foldRows (f : Word → Word → Word) : List (List Word) → List Word
  | [] => []
  | x :: t => t.foldl (fun (a b : List Word) => List.zipWith f a b) x

-- Rows ----------------------------------------------------------------------------------------

/-- The element indices of a row, in the order it is moved (R112). -/
def Layout.rowIndices (h : Layout) (r : Nat) : List Int := (List.range h.rowElems).map (h.index r)

/-- What a form asks of a page of a row. -/
def XForm.acc (form : XForm) : Acc := if scatters form then .rw else .rd

/-- The home die of an address, whose translation service the transport asks (R115): as its tables say now; die 0 where
they give no page, and for system space (log entry 78). -/
def State.homeDie (s : State) (ctx va : Nat) : Nat :=
  match s.context ctx with
  | none => 0
  | some cx =>
    match (walkFrom s ctx [] (va % 2 ^ 48) 4 0 cx.root []).res with
    | .error _ => 0
    | .ok (e, bits, _) =>
      match leafTgt e bits (va % 2 ^ bits) with
      | .dram a => a / 2 ^ 38
      | .aliasAt d _ _ _ _ => d
      | .sys _ => 0

/-- The transport's unit for bytes at an address. -/
def State.xunit (s : State) (ctx va : Nat) : TUnit := .transport (s.homeDie ctx va)

/-- A row resolved in a context: the targets of its elements, or the cause and VA of its lowest-addressed
failing chunk (R115, R125). Updates refuse alias and system pages as atomics do (log entry 30). -/
def State.resolveRow (s : State) (ctx : Nat) (form : XForm) (h : Layout) (row : Nat) :
    State × Except (Nat × Nat) (List (List (Tgt × Nat))) :=
  let r := s.elemsPieces (s.xunit ctx (h.elemAt (h.index row 0)).1) ctx (XForm.acc form) h (h.rowIndices row)
  let ps := r.2.map fun p => if scatters form then refusePieces atomFault p.2 else p.2
  match lowestFault (ps.flatMap id) with
  | some f => (r.1, .error f)
  | none => (r.1, .ok (ps.map targets))

/-- The packed bytes of a resolved row, as the group sees them (R112). -/
def State.rowRead (s : State) (view : Option Group) (h : Layout) (row : Nat) (ts : List (List (Tgt × Nat))) :
    List Byte :=
  let codes := (h.rowIndices row).zip ts |>.map fun p => h.codeOf p.1 (s.readPieces view p.2)
  let bits := (codes.zip (List.range codes.length)).foldl (fun x p => x + p.1 * 2 ^ (h.elemBits * p.2)) 0
  bytesOf h.rowBytes bits

/-- The FP32 words of a packed row (R124). -/
def Layout.rowWords (h : Layout) (bs : List Byte) : List Word :=
  (List.range h.rowElems).map fun i =>
    let c := codeAt h.elemBits i bs
    if h.etype = 0x12 then BitVec.ofNat 32 c else BitVec.ofNat 32 (fp32.encode rmN (etValue h.etype h.fmtw c)).1

-- Shards --------------------------------------------------------------------------------------

/-- The shard of a row: package and local row; none where the table breaks its rules or the row lies
outside (03 R83; R113). entries are (first row, package, reserved). -/
def Layout.shardOf (h : Layout) (entries : List (Nat × Nat × Nat)) (r : Nat) : Option (Nat × Nat) :=
  let firsts := entries.map (·.1)
  let rising := (List.range (firsts.length - 1)).all fun i => firsts.getD i 0 < firsts.getD (i + 1) 0
  let ok := entries.all (fun e => e.2.2 == 0)
    && (if h.shardKind = 1 then firsts.getD 0 1 == 0 && rising else firsts.all (· == 0))
  if !ok || h.rows ≤ r then none
  else if h.shardKind = 1 then
    match (entries.filter fun e => e.1 ≤ r).getLast? with
    | some e => some (e.2.1, r - e.1)
    | none => none
  else
    match entries[r / h.shardBlock % h.shardCount]? with
    | some e => some (e.2.1, r / (h.shardBlock * h.shardCount) * h.shardBlock + r % h.shardBlock)
    | none => none

/-- The entries of a shard table from its bytes. -/
def shardEntries (n : Nat) (bs : List Byte) : List (Nat × Nat × Nat) :=
  (List.range n).map fun i =>
    let b := (bs.drop (16 * i)).take 16
    (leVal (b.take 8), leVal ((b.drop 8).take 2), leVal (b.drop 10))

/-- The package identifiers of a context's pairing table; a table that cannot be read names none (log
entry 31). -/
def State.pairing (s : State) (ctx : Nat) : State × List Nat :=
  match s.context ctx with
  | none => (s, [])
  | some cx =>
    let r := s.readVa (s.xunit ctx cx.pairVa) ctx none cx.pairVa (2 * cx.pairs)
    (r.1, match r.2 with
      | .ok bs => (List.range cx.pairs).map fun k => leVal ((bs.drop (2 * k)).take 2)
      | .error _ => [])

/-- Where the slots of a request lie (R113): each with its local row and package, or its outcome; or the
fault of the shard table. -/
def State.route (s : State) (ctx : Nat) (h : Layout) (slots : List XSlot) :
    State × Except (Nat × Nat) (List XSlot) :=
  if h.shardKind = 0 then
    (s, .ok (slots.map fun x =>
      if h.rows ≤ x.idx then { x with cause := some cIndex } else { x with row := x.idx }))
  else
    let r := s.readVa (s.xunit ctx h.shardVa) ctx none h.shardVa (16 * h.shardCount)
    match r.2 with
    | .error f => (r.1, .error f)
    | .ok bs =>
      let es := shardEntries h.shardCount bs
      let p := r.1.pairing ctx
      let own := s.pkg.pkgid.toNat
      (p.1, .ok (slots.map fun x =>
        match h.shardOf es x.idx with
        | none => { x with cause := some cShard }
        | some (pk, row) =>
          if pk = own then { x with row := row }
          else if (s.pkg.routes.any fun x => x.1 == pk) && p.2.contains pk then { x with row := row, pkg := some pk }
          else { x with cause := some cShard }))

-- Issue ---------------------------------------------------------------------------------------

/-- Element codes and row limits of the forms (R124). -/
def formAllows (form : XForm) (h : Layout) : Bool :=
  let pool := h.etype == 0x10 || h.etype == 0x11 || h.etype == 0x12 || isMx h.etype
  match form with
  | .gather => h.rowElems * h.elemBits % 8 == 0 && h.rowBytes ≤ 4096
  | .sum => pool && h.rowElems ≤ 1024
  | .max => pool && h.rowElems ≤ 1024
  | .mean => pool && h.rowElems ≤ 1024
  | .scadd => (h.etype == 0x12 || h.etype == 5) && h.rowElems ≤ 1024
  | .scmax => (h.etype == 0x12 || h.etype == 5) && h.rowElems ≤ 1024
  | .score => h.etype == 0x12 && h.rowElems ≤ 1024

/-- Forms with a bag array. -/
def bagged : XForm → Bool
  | .sum => true
  | .max => true
  | .mean => true
  | .score => true
  | _ => false

/-- A bag array (R120). -/
structure Bags where
  nb : Nat
  k : Nat
  query : Nat
  metric : Nat
  starts : List Nat
deriving DecidableEq, Repr

/-- The bag array at a scratchpad offset, with whether it breaks R120. -/
def Group.bagArray (gr : Group) (form : XForm) (g n : Nat) : Bags × Bool :=
  let w := fun (o k : Nat) => leVal (gr.spadBytes (g + o) k)
  let nb := w 0 2
  let kk := w 2 2
  let score := form == .score
  let starts := (List.range (min nb 512)).map fun b => w (8 + 2 * b) 2
  let sorted := (List.range (starts.length - 1)).all fun i => starts.getD i 0 ≤ starts.getD (i + 1) 0
  let ok := 1 ≤ nb && nb ≤ 512 && (if score then kk ≤ 255 else kk == 0) && (score || w 4 1 == 0)
    && (if score then w 5 1 ≤ 2 else w 5 1 == 0) && w 6 2 == 0
    && starts.getD 0 1 == 0 && sorted && starts.all (· ≤ 32 * n)
  (⟨nb, kk + 1, w 4 1, w 5 1, starts⟩, !ok)

/-- The checks of R122 from the handle on, in order; else the bags of the form. The size of a tile depends on its bag
array: where nb or k breaks its limit, the range and overlap of the tile are not checked, and the array traps (log entry
79). -/
def xchecks (s : State) (gr : Group) (form : XForm) (ho : Option Layout) (w : DWord) (n : Nat) (mw : Bool)
    (bar : Nat) : Except Stop (Layout × Bags) :=
  let t := (w.extractLsb' 0 32).toNat
  let g := (w.extractLsb' 32 32).toNat
  let none' : Bags := ⟨0, 1, 0, 0, []⟩
  match ho with
  | none => .error (tr cHandle)
  | some h =>
    if !formAllows form h || (scatters form && !h.writable) then .error (tr cHandle)
    else if !bagged form && g != 0 then .error (tr cValue)
    else if t % 16 != 0 || (bagged form && (g % 8 != 0 || !gr.spadHas g 8)) then .error (tr cSpad)
    else
      let b := if bagged form then gr.bagArray form g n else (none', false)
      let sized := !bagged form || (1 ≤ b.1.nb && b.1.nb ≤ 512 && b.1.k ≤ 256)
      let z := tileSize form h n b.1.nb b.1.k
      let dest := xDest form t z mw
      if sized && ((bagged form && !gr.spadHas g (8 + 2 * b.1.nb)) || !gr.spadHas t (z + if mw then 64 else 0)
          || (dest.2 != 0 && gr.meetsBar dest.1 dest.2)) then .error (tr cSpad)
      else if b.2 then .error (tr cBag)
      else if form == .score && !(match SMap.get? b.1.query s.queries with
          | some q => q.isOf gr && q.e == h.rowElems
          | none => false) then .error (tr cQuery)
      else if !gr.barReady bar then .error (tr cBarrier)
      else .ok (h, b.1)

/-- The values and nq that a query slot holds. -/
def State.queryAt (s : State) (k : Nat) : List Word × Word :=
  match SMap.get? k s.queries with
  | some q => (q.vals, q.nq)
  | none => ([], 0)

/-- The active slots of n index registers (R111). -/
def ICtx.slots (c : ICtx) (h : Hdr) (v n : Nat) : List XSlot :=
  let m := c.active h
  (List.range (32 * n)).filterMap fun j =>
    if bit m (j % 32) then
      some ⟨j, (laneOf (c.wv.vAt c.clk (v + j / 32)) (j % 32)).toNat, 0, none, none, none, []⟩
    else none

/-- The gather, pooling, scatter and score points (R117 to R123). -/
def transport (form : XForm) (h : Hdr) (bo cnt : BitVec 4) (a b : Src) (slot : BitVec 5) (mw : Bool) :
    State → Out :=
  let n := cnt.toNat + 1
  let v := match a with | .v k => k | _ => 0
  let srcs : List SrcW := (List.range n).map fun k => (.v (v + k), .w32)
  issueReading srcs h fun c s =>
    if 4 ≤ s.outCount c.g c.w || s.acqPending c.ag then .error .hold
    else if c.gr.rl < v + n then .error (tr cBounds)
    else
      let w := c.scalar b
      match xchecks s c.gr form (c.gr.handle slot.toNat) w n mw bo.toNat with
      | .error e => .error e
      | .ok (hd, bags) =>
        if form == .score && !((SMap.get? bags.query s.queries).any Query.loaded) then .error .hold
        else if c.gr.versioned && scatters form && hd.shardKind != 0 then c.demoted 2
        else
          let slots := c.slots h v n
          let id := s.nextId
          let op : XOp := ⟨id, c.g, c.w, c.sp, c.pc, form, hd, n, bo.toNat, mw, (w.extractLsb' 0 32).toNat, bags.nb,
            bags.k, s.queryAt bags.query, bags.metric, bags.starts, slots, hdrFlag h, false, slots.isEmpty, c.clk, false⟩
          let s := { (s.operandsTaken c srcs).newId with xops := s.xops ++ [op] }
          .ok (if slots.isEmpty then s else s.block c.ag (.first id))

-- The request on its way ----------------------------------------------------------------------

/-- Replace an operation. -/
def State.putX (s : State) (id : Nat) (f : XOp → XOp) : State :=
  { s with xops := s.xops.map fun o => if o.id == id then f o else o }

def State.xop (s : State) (id : Nat) : Option XOp := s.xops.find? fun o => o.id == id

def XOp.ag (o : XOp) : Agent := .split o.g o.w o.sp

/-- The folded contribution of the slots that name one row: the source tile's rows in slot order (R128). -/
def Group.contribution (gr : Group) (o : XOp) (slots : List XSlot) : List Word :=
  let e := o.h.rowElems
  foldRows (foldWord o.form (o.h.etype == 5)) (slots.map fun x =>
    (List.range e).map fun i => BitVec.ofNat 32 (leVal (gr.spadBytes (o.tile + 4 * (e * x.j + i)) 4)))

/-- The distinct rows that slots name in a package, each with its slots, in order of first slot. -/
def rowsOf (slots : List XSlot) : List (Nat × List XSlot) :=
  (distinct [] (slots.map fun x => x.row)).map fun r => (r, slots.filter fun x => x.row == r)

/-- The bag that a slot lies in (R120); 0 for a form without bags. -/
def XOp.bagOf (o : XOp) (j : Nat) : Nat := (o.starts.filter (· ≤ j)).length - 1

/-- The request to a package: one row for each that its slots name, tagged with the lowest of them and its bag (R114,
R128). -/
def State.requestTo (s : State) (o : XOp) (gr : Group) (pk : Nat) (first : Bool) (slots : List XSlot) : State :=
  let words := fun (xs : List XSlot) =>
    if first then []
    else if scatters o.form then gr.contribution o xs
    else if o.form == .score then o.query.1
    else []
  let tag := fun (xs : List XSlot) => (xs.map fun x => x.j).headD 0
  let req : RemoteReq := ⟨s.pkg.pkgid.toNat, gr.ctx, o.id, o.form, BitVec.ofNat 8 o.h.etype, o.h.fmtw,
    BitVec.ofNat 64 o.h.base, o.h.extents.take o.h.rank, o.h.strides.take o.h.rank,
    (rowsOf slots).map fun r => ⟨tag r.2, o.bagOf (tag r.2), r.1, words r.2⟩, first⟩
  { s with outbox := s.outbox ++ [.request pk o.id req] }

/-- The requests to other packages. -/
def State.requests (s : State) (o : XOp) (gr : Group) (slots : List XSlot) : State :=
  let away := slots.filter fun x => x.cause.isNone && x.pkg.isSome
  (distinct [] (away.filterMap fun x => x.pkg)).foldl (fun s pk =>
    s.requestTo o gr pk false (away.filter fun x => x.pkg == some pk)) s

/-- The reply timeout of a context has passed for an operation (R116). -/
def State.timedOut (s : State) (o : XOp) : Bool :=
  match (s.grp o.g).bind fun gr => s.context gr.ctx with
  | some cx => o.issued + 1024 * cx.timeout ≤ s.clk
  | none => false

/-- The operation is given up at its first slot: parked or trapped (R123). -/
def State.firstFails (s : State) (o : XOp) (j cause : Nat) (va : Option Nat) : State :=
  let s := { s with xops := s.xops.filter fun x => x.id != o.id }
  if cause = cNotPresent then s.parkAt o.ag o.pc (va.getD 0) j o.flag
  else s.trapAt o.ag o.pc cause va j

/-- The request of an operation goes on with its slots as routed: the other packages are asked, and the wave issues
again. -/
def State.startX (s : State) (o : XOp) (gr : Group) (slots : List XSlot) : State :=
  ((s.putX o.id fun o => { o with slots := slots, started := true }).requests o gr slots).block o.ag .none

/-- TRANSPORT_FIRST_SLOT: slot, the lowest active one, resolves; the request goes on, or its wave parks or traps (R113,
R123). The owning package of a first slot on another is asked for its outcome, and the slot resolves when that has come. -/
def execTransportFirstSlot (id slot : Nat) (s : State) : Out :=
  match s.xop id with
  | none => notNow s
  | some o =>
    match o.slots, s.grp o.g with
    | x0 :: rest0, some gr =>
      if o.started || x0.j != slot then notNow s
      else if o.asked then
        (match x0.cause with
          | none => notNow s
          | some cause =>
            if cause = 0 then .next (s.startX o gr ({ x0 with cause := none, bytes := [] } :: rest0))
            else .next (s.firstFails o x0.j cause
              (if cause = cNotPresent then some (o.h.elemAt (o.h.index x0.row 0)).1 else none)))
      else
        let r := s.route gr.ctx o.h o.slots
        match r.2 with
        | .error (cause, va) => .next (r.1.firstFails o x0.j cause (some va))
        | .ok [] => notNow s
        | .ok (x :: rest) =>
          match x.cause, x.pkg with
          | some cause, _ => .next (r.1.firstFails o x.j cause none)
          | none, some pk =>
            .next ((r.1.putX id fun o => { o with slots := x :: rest, asked := true }).requestTo o gr pk true [x])
          | none, none =>
            let q := r.1.resolveRow gr.ctx o.form o.h x.row
            (match q.2 with
              | .error (cause, va) => .next (q.1.firstFails o x.j cause (some va))
              | .ok ts => .next (q.1.startX o gr ({ x with res := some ts } :: rest)))
    | _, _ => notNow s

/-- An older scatter of the wave has still to update the same row, or a row of another tensor (R129). -/
def State.scatterWaits (s : State) (o : XOp) (x : XSlot) : Bool :=
  (s.xops.takeWhile fun y => y.id != o.id).any fun y =>
    y.g == o.g && y.w == o.w && scatters y.form
      && (!y.started || y.slots.any fun z => z.cause.isNone && (y.h != o.h || z.idx == x.idx))

/-- A folded contribution reaches its row: at the home, or held in the version (R129, R137); it enters the
signature of a redundant group. -/
def State.scatterRow (s : State) (o : XOp) (row : Nat) (ts : List (List (Tgt × Nat))) (f : List Word) : State :=
  let isMax := o.form == .scmax
  let isInt := o.h.etype == 5
  let items := (o.h.rowIndices row).zip (ts.zip f)
  items.foldl (fun (s : State) (p : Int × List (Tgt × Nat) × Word) =>
    let s := s.sign o.g 136 (o.h.elemAt p.1).1 (bytesOf 4 p.2.2.toNat)
    match s.grp o.g with
    | some gr =>
      if gr.versioned then
        s.modGrp o.g fun gr => { gr with buf := bufInsert (o.id, .row isMax isInt p.2.1 p.2.2) gr.buf }
      else
        let s := s.rowApply isMax isInt p.2.1 p.2.2
        (Contrib.row isMax isInt p.2.1 p.2.2).places.foldl (fun (s : State) a => s.l1Drop (coreOf o.g) a) s
    | none => s) s

/-- ROW_ENGINE_CHUNK: a row of this package is read, or its contribution applied, for every slot that
names it (R114, R125 to R129). -/
def execRowEngineChunk (id slot : Nat) (s : State) : Out :=
  match s.xop id with
  | none => notNow s
  | some o =>
    match o.slots.find? fun x => x.j == slot, s.grp o.g with
    | some x, some gr =>
      if !o.started || x.cause.isSome || x.pkg.isSome then notNow s
      else if scatters o.form && s.scatterWaits o x then notNow s
      else
        let same := o.slots.filter fun y => y.idx == x.idx
        let r := match same.findSome? fun y => y.res with
          | some ts => (s, Except.ok ts)
          | none => s.resolveRow gr.ctx o.form o.h x.row
        let put := fun (s : State) (cause : Nat) (bs : List Byte) => s.putX id fun o =>
          { o with slots := o.slots.map fun y =>
              if y.idx == x.idx then { y with cause := some cause, bytes := bs, res := none } else y }
        match r.2 with
        | .error (cause, _) => .next (put r.1 cause [])
        | .ok ts =>
          if scatters o.form then .next (put (r.1.scatterRow o x.row ts (gr.contribution o same)) 0 [])
          else .next (put r.1 0 (r.1.rowRead (some gr) o.h x.row ts))
    | _, _ => notNow s

/-- A slot that still waits for an outcome of a package: any, or the first alone while its outcome has been asked for. -/
def XOp.waitsFor (o : XOp) (pkg : Nat) (x : XSlot) : Bool :=
  x.pkg == some pkg && x.cause.isNone && (o.started || (o.slots.head?.any fun y => y.j == x.j))

/-- TRANSPORT_REPLY: another package answers for rows (R114, R116): outcomes, and rows' bytes. A row's reply is copied to
every slot that names the row of the slot that tags it (R128). -/
def execTransportReply (id pkg : Nat) (rows : List RemoteRow) (s : State) : Out :=
  match s.xop id with
  | none => .next s
  | some o =>
    if !(o.started || o.asked) || rows.any (fun r => 9 < r.cause) then notNow s
    else
      let rowOf := fun (j : Nat) => (o.slots.find? fun x => x.j == j && x.pkg == some pkg).map fun x => x.row
      .next (s.putX id fun o =>
        { o with slots := o.slots.map fun x =>
            if o.waitsFor pkg x then
              match rows.find? fun r => rowOf r.slot == some x.row with
              | some r => { x with cause := some r.cause, bytes := r.bytes.take o.h.rowBytes }
              | none => x
            else x })

/-- TRANSPORT_REPLY_TIMEOUT: the slots of a package that has not replied get no reply (R116). -/
def execTransportReplyTimeout (id pkg : Nat) (s : State) : Out :=
  match s.xop id with
  | none => notNow s
  | some o =>
    if !(o.started || o.asked) || !s.timedOut o || !(o.slots.any (o.waitsFor pkg)) then
      notNow s
    else
      .next (s.putX id fun o =>
        { o with slots := o.slots.map fun x => if o.waitsFor pkg x then { x with cause := some cNoReply } else x })

/-- The handle that a request of another package names: its rows at the shard's base (R113). -/
def remoteLayout (req : RemoteReq) : Layout where
  rank := req.extents.length
  etype := req.etype.toNat
  strict := false
  verify := false
  writable := true
  fmtw := req.fmtw
  base := req.base.toNat
  extents := req.extents
  strides := req.strides
  sideVa := 0
  sideKind := 0
  sideRows := 0
  sideCols := 0
  ptr64 := false
  sideBytes := 0
  shardKind := 0
  shardCount := 0
  shardBlock := 0
  shardVa := 0

/-- The rows of a request are served in order; of a first slot's only the outcome is found. -/
def State.serveRows (s : State) (req : RemoteReq) (h : Layout) : List RemoteAsk → State × List RemoteRow
  | [] => (s, [])
  | a :: t =>
    let r := s.resolveRow req.tag req.form h a.row
    let p : State × RemoteRow := match r.2 with
      | .error (cause, _) => (r.1, ⟨a.slot, a.bag, cause, []⟩)
      | .ok ts =>
        if req.first then (r.1, ⟨a.slot, a.bag, 0, []⟩)
        else if scatters req.form then
          ((ts.zip a.words).foldl (fun (s : State) p => s.rowApply (req.form == .scmax) (h.etype == 5) p.1 p.2) r.1,
            ⟨a.slot, a.bag, 0, []⟩)
        else (r.1, ⟨a.slot, a.bag, 0, r.1.rowRead none h a.row ts⟩)
    let q := p.1.serveRows req h t
    (q.1, p.2 :: q.2)

/-- TRANSPORT_REMOTE_REQUEST: another package asks for rows of the context of its tag; the reply bears
shard missing where no context here is paired with it (R113, R114). -/
def execTransportRemoteRequest (req : RemoteReq) (s : State) : Out :=
  let p := s.pairing req.tag
  let h := remoteLayout req
  let r : State × List RemoteRow :=
    if p.2.contains req.pkg then p.1.serveRows req h req.rows
    else (p.1, req.rows.map fun a => ⟨a.slot, a.bag, cShard, []⟩)
  .next { r.1 with outbox := r.1.outbox ++ [.remote req.pkg req.reqId r.2] }

-- Completion ----------------------------------------------------------------------------------

/-- The slots of bag b (R120). -/
def XOp.bag (o : XOp) (b : Nat) : List XSlot :=
  let lo := o.starts.getD b 0
  let hi := if b + 1 < o.nb then o.starts.getD (b + 1) 0 else 32 * o.n
  o.slots.filter fun x => lo ≤ x.j && x.j < hi && x.cause == some 0

/-- The pooled row of a bag (R130). -/
def XOp.pooled (o : XOp) (b : Nat) : List Word :=
  let rows := (o.bag b).map fun x => o.h.rowWords x.bytes
  let e := o.h.rowElems
  match o.form with
  | .max => rows.foldl (fun (a r : List Word) => List.zipWith (fun x y => rowUpdate true false x y) a r)
      (List.replicate e negInf32)
  | .mean =>
    if rows.isEmpty then List.replicate e 0
    else (foldRows f32Add rows).map fun s => f32Div s (BitVec.ofNat 32 (fpOfInt fp32 rmN rows.length).1)
  | _ => if rows.isEmpty then List.replicate e 0 else foldRows f32Add rows

/-- The score of a row against a query (R131). -/
def scoreOf (metric : Nat) (q x : List Word) (nq : Word) : Word :=
  let dot := (q.zip x).foldl (fun s p => f32Fma p.1 p.2 s) 0
  if metric = 0 then dot
  else if metric = 1 then (q.zip x).foldl (fun s p => let d := f32Sub p.2 p.1; f32Fma d d s) 0
  else
    let nx := x.foldl (fun s v => f32Fma v v s) 0
    f32Div dot (f32Sqrt (f32Mul nq nx))

/-- Score a ranks before score b (R131): a NaN below every number. -/
def pairBefore (metric : Nat) (a b : Word) : Bool :=
  let x := fp32.decode a.toNat
  let y := fp32.decode b.toNat
  if x.isNan then false
  else if y.isNan then true
  else if metric = 1 then x.lt y
  else y.lt x

/-- Insert a pair behind those that rank before it or equal it. -/
def pairInsert (metric : Nat) (p : Word × Nat) : List (Word × Nat) → List (Word × Nat)
  | [] => [p]
  | q :: t => if pairBefore metric p.1 q.1 then p :: q :: t else q :: pairInsert metric p t

/-- The pairs of a bag, best first, and its number of valid candidates (R131). -/
def XOp.ranked (o : XOp) (b : Nat) : List (Word × Nat) × Nat :=
  let xs := o.bag b
  (xs.foldl (fun l x => pairInsert o.metric (scoreOf o.metric o.query.1 (o.h.rowWords x.bytes) o.query.2, x.idx) l) [],
    xs.length)

/-- The bytes of a pair. -/
def pairBytes (p : Word × Nat) : List Byte := bytesOf 4 p.1.toNat ++ bytesOf 4 p.2

/-- The tile an operation writes: offsets and bytes (R121, R125, R130, R131). -/
def XOp.tileWrites (o : XOp) : List (Nat × List Byte) :=
  let e := o.h.rowElems
  match o.form with
  | .gather => o.slots.map fun x =>
      let bs := if x.cause = some 0 then x.bytes else []
      (o.tile + x.j * o.h.pitch, (bs ++ List.replicate o.h.pitch 0).take o.h.pitch)
  | .scadd => []
  | .scmax => []
  | .score =>
    (List.range o.nb).flatMap fun b =>
      let r := o.ranked b
      let worst : Word × Nat := (if o.metric = 1 then posInf32 else negInf32, 0xffffffff)
      let pairs := (List.range o.topk).flatMap fun i => pairBytes (r.1.getD i worst)
      [(o.tile + 8 * o.topk * b, pairs), (o.tile + 8 * o.topk * o.nb + 2 * b, bytesOf 2 r.2)]
  | _ => (List.range o.nb).map fun b =>
      (o.tile + 4 * e * b, (o.pooled b).flatMap fun w => bytesOf 4 w.toNat)

/-- The validity mask (R126). -/
def XOp.vmask (o : XOp) : BitVec 512 :=
  o.slots.foldl (fun m x => if x.cause == some 0 then m ||| BitVec.ofNat 512 (2 ^ x.j) else m) 0

/-- Tile bytes of an operation (R121). -/
def XOp.size (o : XOp) : Nat := tileSize o.form o.h o.n o.nb o.topk

/-- Every slot has its outcome. -/
def XOp.resolved (o : XOp) : Bool := o.started && o.slots.all fun x => x.cause.isSome

/-- XSTAT as an operation leaves it (R126). -/
def XOp.status (o : XOp) (old : DWord) : DWord :=
  let cnt := (o.slots.filter fun x => x.cause == some 0).length
  let bad := o.slots.find? fun x => x.cause != some 0
  BitVec.ofNat 64 (cnt * 2 ^ 32) ||| (old &&& 0x80000000) ||| (match bad with
    | some x => BitVec.ofNat 64 (0x80000000 + (x.cause.getD 0) * 2 ^ 24 + x.j)
    | none => 0)

/-- XSTAT_RECORD: the oldest operation of a wave whose slots all have their outcome is recorded (R126). -/
def execXstatRecord (g w : Nat) (s : State) : Out :=
  match s.xops.find? fun o => o.g == g && o.w == w && !o.recorded with
  | none => notNow s
  | some o =>
    if o.resolved then
      .next ((s.modWave g w fun wv => { wv with xstat := o.status wv.xstat, vmask := o.vmask }).putX o.id
        fun o => { o with recorded := true })
    else notNow s

/-- TRANSPORT_COMPLETE: tile and mask are written and the barrier object is credited; the operation is
done (R135). -/
def execTransportComplete (id : Nat) (s : State) : Out :=
  match s.xop id with
  | none => notNow s
  | some o =>
    if !o.recorded then notNow s
    else
      let ws := o.tileWrites ++ (if o.mw then [(o.tile + o.size, bytesOf 64 o.vmask.toNat)] else [])
      let s := s.modGrp o.g fun gr => ws.foldl (fun (gr : Group) p => gr.setSpad p.1 p.2) gr
      let s := { s with xops := s.xops.filter fun x => x.id != id }
      .next ((s.credit o.g (some o.bar) (o.size + if o.mw then 64 else 0)).lower o.ag o.flag)

-- The points ----------------------------------------------------------------------------------

def execXgather (h : Hdr) (bo cnt : BitVec 4) (a b : Src) (slot : BitVec 5) (mw : Bool) : State → Out :=
  transport .gather h bo cnt a b slot mw
def execXgatherSum (h : Hdr) (bo cnt : BitVec 4) (a b : Src) (slot : BitVec 5) (mw : Bool) : State → Out :=
  transport .sum h bo cnt a b slot mw
def execXgatherMax (h : Hdr) (bo cnt : BitVec 4) (a b : Src) (slot : BitVec 5) (mw : Bool) : State → Out :=
  transport .max h bo cnt a b slot mw
def execXgatherMean (h : Hdr) (bo cnt : BitVec 4) (a b : Src) (slot : BitVec 5) (mw : Bool) : State → Out :=
  transport .mean h bo cnt a b slot mw
def execXscadd (h : Hdr) (bo cnt : BitVec 4) (a b : Src) (slot : BitVec 5) (mw : Bool) : State → Out :=
  transport .scadd h bo cnt a b slot mw
def execXscmax (h : Hdr) (bo cnt : BitVec 4) (a b : Src) (slot : BitVec 5) (mw : Bool) : State → Out :=
  transport .scmax h bo cnt a b slot mw
def execXscore (h : Hdr) (bo cnt : BitVec 4) (a b : Src) (slot : BitVec 5) (mw : Bool) : State → Out :=
  transport .score h bo cnt a b slot mw

-- Query slots ---------------------------------------------------------------------------------

/-- The query slots of a group. -/
def State.ownQueries (s : State) (gr : Group) : List (Nat × Query) := s.queries.filter fun q => q.2.isOf gr

/-- nq of a query (R131). -/
def queryNorm (vals : List Word) : Word := vals.foldl (fun s v => f32Fma v v s) 0

/-- xqload (R132, R302): the lowest free slot of the package. With no active lane none is claimed, and each copy of a
redundant group claims slots of its own out of the group's four (log entry 79). -/
def execXqload (h : Hdr) (d : Dst) (a : Src) (slot : BitVec 5) : State → Out :=
  issue h 8 fun c s =>
    if s.acqPending c.ag then .error .hold
    else
    match c.gr.handle slot.toNat with
    | none => .error (tr cHandle)
    | some hd =>
      let o := ((c.scalar a).extractLsb' 0 32).toNat
      let e := hd.rowElems
      if !formAllows .score hd then .error (tr cHandle)
      else if o % 4 != 0 || !c.gr.spadHas o (4 * e) then .error (tr cSpad)
      else if (c.acting h).isEmpty then .ok (s.doneNow c h)
      else
        let own := s.ownQueries c.gr
        let free := (List.range 256).find? fun k => (SMap.get? k s.queries).isNone
        match free, (List.range 4).find? fun k => !(own.any fun q => q.2.sub == k) with
        | some k, some sub =>
          let vals := (List.range e).map fun i => BitVec.ofNat 32 (leVal (c.gr.spadBytes (o + 4 * i) 4))
          let q : Query := ⟨gridKey c.gr.ctx c.gr.grid, c.gr.index, e, queryNorm vals, vals, sub, false⟩
          let r : Req := ⟨s.nextId, c.ag, c.pc, .query k d h.nw, hdrFlag h, c.active h, false⟩
          .ok ({ s.newId with queries := SMap.set k q s.queries, reqs := s.reqs ++ [r] }.block c.ag (.req s.nextId))
        | _, _ => .ok ((if h.nw then s else s.setScalar c d (BitVec.allOnes 64)).doneNow c h)

/-- Write a scalar destination of an agent. -/
def State.setFor (s : State) (ag : Agent) (d : Dst) (x : DWord) : State :=
  match ag, d with
  | .split g w _, .w n => s.modWave g w fun wv => { wv with w := setW wv.w n x }
  | .seq g, .g n => s.modSeq g fun q => { q with g := setG q.g n x }
  | _, _ => s

/-- A request is answered: its agent goes on. -/
def State.answered (s : State) (r : Req) (d : Option Dst) (x : DWord) : State :=
  let s := { s with reqs := s.reqs.filter fun y => y.id != r.id }
  let s := match d with | some d => s.setFor r.ag d x | none => s
  (s.block r.ag .none).lower r.ag r.flag

/-- QUERY_LOAD_COMPLETE: every row engine holds the query (R132). -/
def execQueryLoadComplete (id : Nat) (s : State) : Out :=
  match s.reqs.find? fun r => r.id == id with
  | some r =>
    (match r.kind with
      | .query k d nw =>
        let s := { s with queries := SMap.mod k (fun q => { q with loaded := true }) s.queries }
        .next (s.answered r (if nw then none else some d) (BitVec.ofNat 64 k))
      | _ => notNow s)
  | none => notNow s

/-- The backing of a query slot in a context slot (13 R302). -/
def backingVa (area amax slot sub : Nat) : Nat := area + slot * (32768 + 16384 * amax) + 0x3000 + 4096 * sub

/-- The largest accumulator tile count among a kernel's variants (13 R302). -/
def KObj.amax (k : KObj) : Nat := k.variants.foldl (fun m v => max m v.acc) 0

/-- QUERY_SLOT_RELOAD: the row engines read a slot's values from its backing (R133). A page of the backing that is not
present holds the group until service, and any other fault ends its task (13 R302). -/
def execQuerySlotReload (q : Nat) (s : State) : Out :=
  match SMap.get? q s.queries with
  | none => notNow s
  | some x =>
    match s.groups.find? fun g => x.isOf g.2 with
    | none => notNow s
    | some (g, gr) =>
      match s.grid gr.grid gr.ctx with
      | none => notNow s
      | some gd =>
        if x.loaded || gr.halting.isSome || gr.slotWait.isSome
            || (s.reqs.any fun r => match r.kind with | .query k _ _ => k == q | _ => false) then
          notNow s
        else
          let va := backingVa gd.lrec.area gr.kobj.amax gr.slot x.sub
          let r := s.readVa (s.xunit gr.ctx va) gr.ctx none va (4 * x.e)
          match r.2 with
          | .error f =>
            if f.1 = cNotPresent then
              .next ((r.1.modGrp g fun y => { y with slotWait := some f.2 }).send
                (gr.report g cNotPresent 0x01 0 false (some f.2) 0 []))
            else .next (r.1.endTask g (gr.report g f.1 0 0 false (some f.2) 0 []))
          | .ok bs =>
            let vals := (List.range x.e).map fun i => BitVec.ofNat 32 (leVal ((bs.drop (4 * i)).take 4))
            .next { r.1 with queries := SMap.set q { x with vals := vals, loaded := true } r.1.queries }

/-- xqfree (R133). With no active lane the slot stays (log entry 79). -/
def execXqfree (h : Hdr) (a : Src) : State → Out :=
  issue h 8 fun c s =>
    let x := (c.scalar a).toNat
    if x < 256 && ((SMap.get? x s.queries).any fun q => q.isOf c.gr) then
      .ok ((if (c.acting h).isEmpty then s else { s with queries := SMap.erase x s.queries }).doneNow c h)
    else .error (tr cQuery)

-- Status instructions -------------------------------------------------------------------------

/-- xstat (R134). -/
def execXstat (h : Hdr) (d : Dst) (clr : Bool) : State → Out :=
  issue h 8 fun c s =>
    if 0 < s.outCount c.g c.w then .error .await
    else
      let s := s.unpin c
      let s := if h.nw || (c.acting h).isEmpty then s else s.setScalar c d (s.xstatWord c.g c.w c.wv)
      .ok ((if clr then s.modMe c fun wv => { wv with xstat := wv.xstat &&& ~~~0x80000000 } else s).doneNow c h)

/-- xmask (R134). -/
def execXmask (h : Hdr) (p : BitVec 3) (k : BitVec 4) : State → Out :=
  issue h 8 fun c s =>
    if 0 < s.outCount c.g c.w then .error .await
    else
      let m : BitVec 32 := c.wv.vmask.extractLsb' (32 * k.toNat) 32
      .ok (((s.unpin c).modMe c fun wv =>
        { wv with p := setP wv.p p.toNat fun old => PVal.merge (c.active h) ⟨m, 0⟩ old }).doneNow c h)

/-- xwait (R134). -/
def execXwait (h : Hdr) (k : BitVec 2) : State → Out :=
  issue h 8 fun c s =>
    if k.toNat < s.outCount c.g c.w then .error .await else .ok ((s.unpin c).doneNow c h)

end Sys2Proof.Machine
end

