-- ==== Sys2Proof/Machine/Place.lean ====
section
/-!
DEFINITION. Where a group fits (13 R307; 07 R170 to R173), the state it starts with (13 R310), and its entry
on a core (02 R41; 15 R358, R359; 16 R376).
-/

namespace Sys2Proof.Machine

-- The fit test --------------------------------------------------------------------------------

/-- Lines of a wave region (07 R171). -/
def Variant.region (v : Variant) : Nat := (v.rl + 3) / 4 * 4 + v.lpriv / 4

/-- Stripes of a scratchpad (07 R173). -/
def Variant.stripes (v : Variant) : Nat := (v.spad + 511) / 512

/-- Waves of a variant on a quarter. -/
def Variant.onQuarter (v : Variant) (q : Nat) : Nat := (v.waves + 3 - q) / 4

/-- The groups of a core. -/
def State.onCore (s : State) (core : Nat) : List (Nat × Group) := s.groups.filter fun g => coreOf g.1 == core

/-- The wave regions of groups on a quarter, as (first line, lines). -/
def waveRuns (gs : List (Nat × Group)) (q : Nat) : List (Nat × Nat) :=
  gs.flatMap fun g => ((g.2.waves.zip (List.range g.2.waves.length)).filter fun p => quarterOf p.2 == q).map fun p =>
    (p.1.rb, g.2.va.region)

/-- The scratchpads of groups, as (first stripe, stripes). -/
def spadRuns (gs : List (Nat × Group)) : List (Nat × Nat) :=
  (gs.filter fun g => g.2.va.spad != 0).map fun g => (g.2.sb / 512, g.2.va.stripes)

/-- n lines from a are clear of runs. -/
def runFree (occ : List (Nat × Nat)) (a n : Nat) : Bool :=
  a + n ≤ 5632 && occ.all fun r => !(a < r.1 + r.2 && r.1 < a + n)

/-- The first free run of n lines, counting up, that starts at a multiple of 4 (R307). -/
def fitUp (occ : List (Nat × Nat)) (n : Nat) : Option Nat :=
  (0 :: occ.map fun r => (r.1 + r.2 + 3) / 4 * 4).foldl (fun (best : Option Nat) a =>
    if runFree occ a n then (match best with | some b => some (min a b) | none => some a) else best) none

/-- The first free run of n stripes, counting down from stripe 5,631 (R307). -/
def fitDown (occ : List (Nat × Nat)) (n : Nat) : Option Nat :=
  ((5632 - n) :: occ.map fun r => r.1 - n).foldl (fun (best : Option Nat) a =>
    if n ≤ 5632 && runFree occ a n then (match best with | some b => some (max a b) | none => some a) else best) none

/-- The lowest n numbers below 128 that are not used (16 R376). -/
def lowestFree (used : List Nat) (n : Nat) : List Nat := ((List.range 128).filter fun k => !used.contains k).take n

/-- What is to be placed: its context, object, fusion request, the waves its variant must have, and the
clusters it may not be on. -/
structure Want where
  ctx : Nat
  kobj : KObj
  fuse : Bool
  only : Option Nat
  avoid : List Nat
deriving DecidableEq, Repr

/-- A place on a core: group slot, line of each wave's region, wave places, scratchpad address. -/
structure Spot where
  core : Nat
  slot : Nat
  varNo : Nat
  rbs : List Nat
  places : List Nat
  sb : Nat
deriving DecidableEq, Repr

/-- A core may take groups of a context: live, not retired (16 R370), not closed to it (15 R359). -/
def State.coreOpen (s : State) (core ctx : Nat) : Bool :=
  s.pkg.dieLive (dieOfCore core) && !s.pkg.deadCores.contains core && !s.pkg.deadClusters.contains (clusterOf core)
    && !s.pkg.deadDies.contains (dieOfCore core)
    && (match (s.core core).slice with
      | some (c, _, closed) => !(closed && c == ctx && (s.onCore core).any fun g => g.2.ctx == ctx)
      | none => true)

/-- The rows a variant needs: stream and row index (15 R358). -/
def Variant.rows (v : Variant) : List (Bool × Nat) :=
  ((List.range ((v.uLen + 4095) / 4096)).map fun k => (true, k))
    ++ (List.range ((v.lLen + 4095) / 4096)).map fun k => (false, k)

/-- A row, or a bank, holds what a variant of an object needs. -/
def IRow.isFor (r : IRow) (ctx kobj varNo : Nat) (x : Bool × Nat) : Bool :=
  r.ctx == ctx && r.kobj == kobj && r.varNo == varNo && r.uni == x.1 && r.idx == x.2

def Bank.isFor (b : Bank) (ctx kobj varNo : Nat) : Bool := b.ctx == ctx && b.kobj == kobj && b.varNo == varNo

def Core.hasRow (k : Core) (ctx kobj varNo : Nat) (x : Bool × Nat) : Bool :=
  k.rows.any fun r => match r with | some r => r.isFor ctx kobj varNo x | none => false

def Core.hasBank (k : Core) (ctx kobj varNo : Nat) : Bool :=
  k.banks.any fun b => match b with | some b => b.isFor ctx kobj varNo | none => false

/-- The cluster holds a group. -/
def State.clusterBusy (s : State) (cl : Nat) : Bool := s.groups.any fun g => clusterOf (coreOf g.1) == cl

/-- Variant number n fits a core, and where (R307). A group that stays keeps its group slot. -/
def State.spot (s : State) (core n : Nat) (w : Want) (keep : Option Nat) : Option Spot :=
  match w.kobj.variants[n]? with
  | none => none
  | some v =>
    let gs := s.onCore core
    let k := s.core core
    let cl := clusterOf core
    let used := (gs.map fun g => g.2.waves.length).foldl (· + ·) 0
    let quarter := fun (q : Nat) =>
      let taken := gs.flatMap fun g => ((g.2.waves.zip (List.range g.2.waves.length)).filter fun p => quarterOf p.2 == q).map
        fun p => p.1.place % 128
      let m := v.onQuarter q
      if m = 0 then some (0, [])
      else if 128 < taken.length + m then none
      else (fitUp (waveRuns gs q ++ spadRuns gs) (m * v.region)).map fun a => (a, lowestFree taken m)
    let slots := (List.range 64).filter fun i => !(gs.any fun g => g.1 % 64 == i)
    let missing := (v.rows.filter fun x => !k.hasRow w.ctx w.kobj.va n x).length
    if !s.coreOpen core w.ctx || w.avoid.contains cl || 512 < used + v.waves
        || (match w.only with | some m => v.waves != m | none => false)
        || (v.dict != 0 && !k.hasBank w.ctx w.kobj.va n && k.banks.all Option.isSome)
        || (k.rows.filter Option.isNone).length < missing
        || (v.acc != 0 && (s.pkg.deadArrays.contains core || gs.any fun g => g.2.va.acc != 0))
        || ((s.cluster cl).fused != w.fuse && s.clusterBusy cl) then none
    else
      match (match keep with | some i => some i | none => slots.head?), (List.range 4).mapM quarter with
      | some slot, some qs =>
        let own := (List.range 4).map fun q => ((qs.getD q (0, [])).1, v.onQuarter q * v.region)
        let occ := (List.range 4).flatMap (waveRuns gs) ++ spadRuns gs ++ own.filter fun r => r.2 != 0
        (fitDown occ v.stripes).map fun a =>
          ⟨core, slot, n, (List.range v.waves).map fun i => (qs.getD (i % 4) (0, [])).1 + i / 4 * v.region,
            (List.range v.waves).map fun i => 128 * (i % 4) + (qs.getD (i % 4) (0, [])).2.getD (i / 4) 0, 512 * a⟩
      | _, _ => none

/-- Free wave places of a core. -/
def State.freeWaves (s : State) (core : Nat) : Nat :=
  512 - ((s.onCore core).map fun g => g.2.waves.length).foldl (· + ·) 0

/-- The cores of a die. -/
def dieCores (die : Nat) : List Nat := (List.range 256).map fun k => 256 * die + k

/-- The core with the most free wave places, the lowest on a tie, that variant n fits (R307). -/
def State.bestCore (s : State) (cores : List Nat) (n : Nat) (w : Want) : Option Spot :=
  (cores.foldl (fun (best : Option (Nat × Spot)) c =>
    match s.spot c n w none with
    | none => best
    | some p =>
      match best with
      | some (f, _) => if f < s.freeWaves c then some (s.freeWaves c, p) else best
      | none => some (s.freeWaves c, p)) none).map (·.2)

/-- The place of a group on a die: the first variant that fits some core (R307). -/
def State.placeOn (s : State) (die : Nat) (w : Want) : Option Spot :=
  (List.range w.kobj.variants.length).findSome? fun n => s.bestCore (dieCores die) n w

/-- The places of the two copies of a redundant group: on different clusters, in one variant (16 R369). -/
def State.pairOn (s : State) (die : Nat) (w : Want) : Option (Spot × Spot) :=
  (List.range w.kobj.variants.length).findSome? fun n =>
    (s.bestCore (dieCores die) n w).bind fun a =>
      (s.bestCore (dieCores die) n { w with avoid := clusterOf a.core :: w.avoid }).map fun b => (a, b)

-- The state a group starts with ---------------------------------------------------------------

/-- The LFSR of a wave at the start (R310). -/
def lfsrStart (seed : Word) (index w : Nat) : Word :=
  let x := seed ^^^ BitVec.ofNat 32 ((64 * index + w) * 0x10003)
  if x = 0 then seed else x

/-- A queue that is not bound. -/
def Queue.blank : Queue := ⟨0, 0, 0, false, 0, [], 0, 0, 0, 0, 0, 0, 0, none, none⟩

/-- A sparse value: entries for the registers that are not zero. -/
def startGs (x : Grid) (index : Nat) : List DWord :=
  [BitVec.ofNat 64 index, x.lrec.param, BitVec.ofNat 64 x.lrec.items,
    if x.lrec.isRec then BitVec.ofNat 64 (x.lrec.recVa + index * x.lrec.recStride) else 0, BitVec.ofNat 64 x.id]

/-- A wave of a group at the start (R310). -/
def startWave (x : Grid) (index : Nat) (v : Variant) (p : Spot) (w : Nat) : Wave :=
  { Wave.blank with
    live := v.lLen != 0
    rb := p.rbs.getD w 0
    place := p.places.getD w 0
    w := (startGs x index).take 4 ++ List.replicate 12 0
    lfsr := lfsrStart x.lrec.seed index w }

/-- The device state of a group that has passed no commit point: its start state (R311). -/
def Ckpt.start (handles : List (Option Layout)) : Ckpt where
  point := none
  ordinal := 0
  seqLive := true
  waves := []
  spst := 0
  mfl := 0
  ctb := 0
  tiles := []
  rp := []
  cp := []
  handles := handles
  bars := []
  msets := []
  queues := []
  dq := []
  dqFreed := 0
  answers := []
  queries := []
  saveNo := 0
  acc := []

/-- A group at the start, at a place (R310). -/
def startGroup (x : Grid) (index slot : Nat) (handles : List (Option Layout)) (v : Variant) (p : Spot)
    (clk age : Nat) : Group where
  grid := x.id
  ctx := x.ctx
  index := index
  kobj := x.kobj
  varNo := p.varNo
  va := v
  slot := slot
  sb := p.sb
  cls := x.lrec.cls
  waves := (List.range v.waves).map (startWave x index v p)
  seq := { Seq.blank with live := v.uLen != 0, g := startGs x index ++ List.replicate 59 0 }
  spad := []
  handles := handles
  bars := List.replicate 16 none
  msets := List.replicate 16 0
  barS := none
  mphase := List.replicate 16 none
  queues := List.replicate 8 Queue.blank
  dq := []
  dqFreed := 0
  pendTag := List.replicate 64 0
  ctb := 0
  spst := 0
  mfl := 0
  tiles := List.replicate 16 Tile.blank
  rp := List.replicate 4 (BitVec.allOnes 64)
  cp := List.replicate 4 (BitVec.allOnes 64)
  acc := []
  planes := [none, none]
  active := 0
  isPlanes := [none, none]
  isActive := 0
  mq := []
  mt := ⟨0, 0, 0, 0, 0, 0, [0, 0], [0, 0]⟩
  sched := []
  scan := []
  ordinal := 0
  version := []
  buf := []
  vopen := age
  early := false
  sig := []
  twin := none
  replayAns := []
  vp := none
  ckpt := Ckpt.start handles
  ran := false
  retried := false
  restarts := 0
  age := age
  enteredAt := clk
  fitSince := none
  slotWait := none
  sigs := []
  halting := none

-- Entry on a core -----------------------------------------------------------------------------

/-- A free row takes a stream's row; a row already held takes one more lease (15 R358). -/
def leaseRow (ctx kobj varNo : Nat) (x : Bool × Nat) (rows : List (Option IRow)) : List (Option IRow) :=
  let mine := fun (r : Option IRow) => match r with | some r => r.isFor ctx kobj varNo x | none => false
  if rows.any mine then
    rows.map fun r => if mine r then r.map fun y => { y with leases := y.leases + 1 } else r
  else
    match (List.range rows.length).find? fun i => (rows.getD i none).isNone with
    | some i => rows.set i (some ⟨ctx, kobj, varNo, x.1, x.2, 1, false, [], [], none, none⟩)
    | none => rows

/-- A free bank is given to a dictionary (02 R41). -/
def leaseBank (ctx kobj varNo : Nat) (v : Variant) (banks : List (Option Bank)) : List (Option Bank) :=
  if v.dict = 0 || banks.any fun b => match b with | some b => b.isFor ctx kobj varNo | none => false then banks
  else
    match (List.range banks.length).find? fun i => (banks.getD i none).isNone with
    | some i => banks.set i (some ⟨ctx, kobj, varNo, false, [], none, none⟩)
    | none => banks

/-- A cluster changes its fusion state, and its L1 is emptied (07 R175). -/
def State.fusedAs (s : State) (cl : Nat) (fuse : Bool) : State :=
  if (s.cluster cl).fused = fuse then s
  else (List.range 8).foldl (fun s k => s.l1Empty (8 * cl + k)) (s.modCluster cl fun c => { c with fused := fuse })

/-- The first group of a grid comes to a core, or to a cluster: the read-only caches there drop every line of its context
(06 R165). -/
def State.newHere (s : State) (core ctx grid : Nat) : State :=
  let key := gridKey ctx grid
  let keep := fun (l : List CLine) => l.filter fun x => x.ctx != ctx
  (s.modCore core fun k => if k.seen.contains key then k else
      { k with fen := keep k.fen, mdc := keep k.mdc, seen := key :: k.seen }).modCluster (clusterOf core) fun k =>
    if k.seen.contains key then k else { k with fc := keep k.fc, seen := key :: k.seen }

/-- A group enters the core of its place: rows, bank, fusion state, time count, read-only caches without lines older than
its grid, and an L1 without lines of before. -/
def State.enter (s : State) (gr : Group) (p : Spot) (fuse : Bool) : State :=
  let others := s.onCore p.core
  let s := (s.newHere p.core gr.ctx gr.grid).fusedAs (clusterOf p.core) fuse
  let s := s.modCore p.core fun k =>
    { k with
      rows := gr.va.rows.foldl (fun rows x => leaseRow gr.ctx gr.kobj.va gr.varNo x rows) k.rows
      banks := leaseBank gr.ctx gr.kobj.va gr.varNo gr.va k.banks
      slice := match k.slice with
        | some (c, t, closed) => if others.any fun g => g.2.ctx == c then some (c, t, closed) else some (gr.ctx, s.clk, false)
        | none => some (gr.ctx, s.clk, false) }
  { s with groups := SMap.set (64 * p.core + p.slot) gr s.groups, ages := s.ages + 1 }.acquire p.core 4

end Sys2Proof.Machine
end

