-- ==== Sys2Proof/Machine/Save.lean ====
section
/-!
DEFINITION. Saving a group at a commit point and restoring it (13 R302, R325 to R330), and the end of a task
whose group is on no core.
-/

namespace Sys2Proof.Machine

-- Items of a live set -------------------------------------------------------------------------

/-- The bytes of an item as the group holds them (R325, R330): zeros for a wave that has ended. -/
def LiveItem.read (i : LiveItem) (gr : Group) : List Byte :=
  let regs := List.range i.count
  match i.kind with
  | 1 => regs.flatMap fun k => bytesOf 8 (gr.seq.g.getD (i.first + k) 0).toNat
  | 2 => gr.waves.flatMap fun wv => regs.flatMap fun k => bytesOf 8 (if wv.live then (wv.w.getD (i.first + k) 0).toNat else 0)
  | 3 => gr.waves.flatMap fun wv => regs.flatMap fun k =>
      (if wv.live then SMap.getD wv.v (i.first + k) zeroLanes else zeroLanes).flatMap fun x => bytesOf 4 x.toNat
  | 4 => gr.spadBytes i.first i.count
  | 5 => gr.waves.flatMap fun wv => lanes32.flatMap fun l => regs.map fun k =>
      if wv.live then wv.priv (i.first + k) l else 0
  | _ => []

/-- A wave takes its part of an item; w is its number. -/
def LiveItem.writeWave (i : LiveItem) (bs : List Byte) (w : Nat) (wv : Wave) : Wave :=
  let regs := List.range i.count
  let o := 8 * i.hofs
  if !wv.live then wv
  else match i.kind with
  | 2 => regs.foldl (fun wv k =>
      { wv with w := setW wv.w (i.first + k) (BitVec.ofNat 64 (fld bs (o + 8 * (i.count * w + k)) 8)) }) wv
  | 3 => regs.foldl (fun wv k =>
      let at_ := o + 128 * (i.count * w + k)
      { wv with v := SMap.set (i.first + k) (mkLanes fun l => BitVec.ofNat 32 (fld bs (at_ + 4 * l) 4)) wv.v }) wv
  | 5 => lanes32.foldl (fun wv l => regs.foldl (fun wv k =>
      wv.setPriv (i.first + k) l (bs.getD (o + 32 * i.count * w + i.count * l + k) 0)) wv) wv
  | _ => wv

/-- An item is restored from the bytes of a handoff record (R330). -/
def LiveItem.write (i : LiveItem) (bs : List Byte) (gr : Group) : Group :=
  let regs := List.range i.count
  let o := 8 * i.hofs
  match i.kind with
  | 1 => { gr with seq := { gr.seq with g := regs.foldl (fun g k =>
      setG g (i.first + k) (BitVec.ofNat 64 (fld bs (o + 8 * k) 8))) gr.seq.g } }
  | 4 => gr.setSpad i.first ((bs.drop o).take i.count)
  | _ => { gr with waves := (gr.waves.zip (List.range gr.waves.length)).map fun p => i.writeWave bs p.2 p.1 }

/-- The tiles that a live set names. -/
def savedTiles (is : List LiveItem) : List Nat :=
  is.flatMap fun i => if i.kind = 6 then (List.range i.count).map fun k => i.first + k else []

/-- The items of a group's point. -/
def Group.itemsOf (gr : Group) (n : Nat) : List LiveItem :=
  match gr.va.points.findIdx? fun p => p.num == n with
  | some k => gr.kobj.live.getD k []
  | none => []

-- Saving --------------------------------------------------------------------------------------

/-- The first byte of a context slot (R302). -/
def slotVa (area amax slot : Nat) : Nat := area + slot * (32768 + 16384 * amax)

/-- Put runs of bytes in memory for the device: all of it, or the fault that decides. -/
def State.devWrite (s : State) (ctx : Nat) (runs : List (Nat × List Byte)) : State × Option (Nat × Nat) :=
  let r := runs.foldl (fun (a : State × List (List XPiece × List Byte)) x =>
    let q := a.1.xpieces s.devUnit ctx .wr (pieces x.1 x.2.length)
    (q.1, a.2 ++ [(refusePieces (fun _ => none) q.2, x.2)])) (s, [])
  match decidingFault (r.2.flatMap fun x => x.1) with
  | some f => (r.1, some f)
  | none => (r.2.foldl (fun (s : State) x => s.writePieces (agPlace orphan) (targets x.1) x.2) r.1, none)

/-- The words of an accumulator tile. -/
def tileWords (acc : SMap Word) (t : Nat) : List Word := (List.range 4096).map fun k => SMap.getD acc (4096 * t + k) 0

/-- What a save writes (R302, R327): device state, items, backings of the query slots, tiles. -/
def State.saveRuns (s : State) (x : Grid) (gr : Group) (n : Nat) : List (Nat × List Byte) :=
  let base := slotVa x.lrec.area gr.kobj.amax gr.slot
  let items := gr.itemsOf n
  [(base, (List.range 8192).map fun k => Config.deviceByte s.saves k)]
    ++ (items.filter fun i => i.kind != 6).map (fun i => (base + 0x2000 + 8 * i.hofs, i.read gr))
    ++ (s.ownQueries gr).map (fun q => (base + 0x3000 + 4096 * q.2.sub, q.2.vals.flatMap fun v => bytesOf 4 v.toNat))
    ++ (savedTiles items).map fun t => (base + 0x8000 + 16384 * t, (tileWords gr.acc t).flatMap fun v => bytesOf 4 v.toNat)

/-- What a save keeps of a wave (R327). -/
def Wave.saved (wv : Wave) : WaveSave where
  live := wv.live
  p := wv.p
  em := match wv.splits.find? fun x => x.live with | some x => x.em | none => 0
  xi := wv.xi
  lfsr := wv.lfsr
  fst := wv.fst
  ivst := wv.ivst
  xstat := wv.xstat
  vmask := wv.vmask
  dqPos := wv.dqPos
  qPos := wv.qPos

/-- The device state saved at commit point n, with the ordinal that the commit gives (R302, R311, R327). -/
def State.ckptOf (s : State) (gr : Group) (n : Nat) : Ckpt where
  point := some n
  ordinal := gr.ordinal + 1
  seqLive := gr.seq.live
  waves := gr.waves.map Wave.saved
  spst := gr.spst
  mfl := gr.mfl
  ctb := gr.ctb
  tiles := gr.tiles
  rp := gr.rp
  cp := gr.cp
  handles := gr.handles
  bars := gr.bars
  msets := gr.msets
  queues := gr.queues
  dq := gr.dq
  dqFreed := gr.dqFreed
  answers := []
  queries := (s.ownQueries gr).map fun q => (q.1, q.2.sub, q.2.e, q.2.nq)
  saveNo := s.saves
  acc := gr.acc.filter fun a => (savedTiles (gr.itemsOf n)).contains (a.1 / 4096)

-- Restoring -----------------------------------------------------------------------------------

/-- A wave resumes at a point of its variant (R330). A wave number that the save does not have starts as at
a group's start, with no register kept. -/
def resumeWave (x : Grid) (index : Nat) (v : Variant) (p : Spot) (ck : Ckpt) (pt : CPoint) (w : Nat) : Wave :=
  let b := { Wave.blank with rb := p.rbs.getD w 0, place := p.places.getD w 0 }
  let start := fun (em : BitVec 32) =>
    [{ Split.start (pt.lOfs + pt.lLen) with em := em }, Split.blank, Split.blank, Split.blank]
  match ck.waves[w]? with
  | none =>
    { b with live := v.lLen != 0, lfsr := lfsrStart x.lrec.seed index w, splits := start (BitVec.allOnes 32),
             dqPos := ck.dqFreed }
  | some z =>
    if !z.live then b
    else
      { b with
        live := v.lLen != 0
        p := z.p
        xi := z.xi
        lfsr := z.lfsr
        fst := z.fst
        ivst := z.ivst
        xstat := z.xstat
        vmask := z.vmask
        dqPos := z.dqPos
        qPos := z.qPos
        splits := start z.em }

/-- The class a resumed group runs in: the grid's, unless it had been demoted (06 R166). -/
def resumeClass (x : Grid) (ck : Ckpt) : Nat := if bit ck.spst 7 then 0 else x.lrec.cls

/-- The device state of a resume in a variant (R330), before its items. -/
def resumeGroup (x : Grid) (c : Cont) (v : Variant) (p : Spot) (pt : CPoint) (clk age : Nat) : Group :=
  let ck := c.ckpt
  let gr := startGroup x c.index c.slot ck.handles v p clk age
  let members : BitVec 32 := mkMask fun w => w < v.waves
  { gr with
    cls := resumeClass x ck
    waves := (List.range v.waves).map (resumeWave x c.index v p ck pt)
    seq := { Seq.blank with live := ck.seqLive && v.uLen != 0, pc := pt.uOfs + pt.uLen }
    bars := ck.bars.map fun (b : Option Barrier) => b.bind fun y => if y.ofs + 16 ≤ v.spad then some y else none
    msets := ck.msets.map (· &&& members)
    queues := ck.queues.map fun (q : Queue) => { q with stalled := none, request := none }
    dq := ck.dq
    dqFreed := ck.dqFreed
    ctb := ck.ctb
    spst := ck.spst
    mfl := ck.mfl
    tiles := ck.tiles
    rp := ck.rp
    cp := ck.cp
    acc := ck.acc
    ordinal := ck.ordinal }

/-- The query slots of a resumed group are those of its commit point (05 R133): others are freed, and a slot
freed since is owned again while it is free. -/
def State.restoreQueries (s : State) (x : Grid) (c : Cont) : State :=
  let own := fun (q : Query) => q.grid == x.key && q.index == c.index
  let kept := s.queries.filter fun q => !own q.2 || c.ckpt.queries.any fun y => y.1 == q.1
  { s with queries := c.ckpt.queries.foldl (fun (m : SMap Query) (y : Nat × Nat × Nat × Word) =>
      match SMap.get? y.1 m with
      | some q => if own q then SMap.set y.1 ⟨x.key, c.index, y.2.2.1, y.2.2.2, [], y.2.1, false⟩ m else m
      | none => SMap.set y.1 ⟨x.key, c.index, y.2.2.1, y.2.2.2, [], y.2.1, false⟩ m) kept }

/-- The checked areas of a context slot hold what the save wrote (R302): the state, and whether they do; or a
fault. -/
def State.slotIntact (s : State) (x : Grid) (c : Cont) (base : Nat) (tiles : List Nat) :
    State × Except (Nat × Nat) Bool :=
  let r := s.devRead x.ctx base 8192
  match r.2 with
  | .error f => (r.1, .error f)
  | .ok bs =>
    let dev := (List.range 8192).all fun k => bs.getD k 0 == Config.deviceByte c.ckpt.saveNo k
    tiles.foldl (fun (a : State × Except (Nat × Nat) Bool) t =>
      match a.2 with
      | .error f => (a.1, .error f)
      | .ok b =>
        let q := a.1.devRead x.ctx (base + 0x8000 + 16384 * t) 16384
        (q.1, match q.2 with
          | .error f => .error f
          | .ok ts => .ok (b && ((List.range 4096).all fun k =>
              fld ts (4 * k) 4 == (SMap.getD c.ckpt.acc (4096 * t + k) 0).toNat)))) (r.1, .ok dev)

/-- A continuation becomes a group at a place (R330); or the fault of its context slot, or a failed check
(R302). -/
def State.restore (s : State) (x : Grid) (c : Cont) (p : Spot) : State × Except (Nat × Nat) Group :=
  match x.kobj.variants[p.varNo]? with
  | none => (s, .error (cContext, 0))
  | some v =>
    let fin := fun (s : State) (gr : Group) =>
      { gr with ckpt := c.ckpt, replayAns := c.ckpt.answers, retried := c.retried, restarts := c.restarts, sigs := c.sigs,
                fitSince := none, age := s.ages, vopen := s.ages }
    match c.ckpt.point with
    | none => (s.restoreQueries x c, .ok (fin s (startGroup x c.index c.slot c.ckpt.handles v p s.clk s.ages)))
    | some n =>
      match v.points.findIdx? fun y => y.num == n with
      | none => (s, .error (cCommit, 0))
      | some k =>
        let pt := v.points.getD k ⟨0, 0, 0, 0, 0⟩
        let items := x.kobj.live.getD k []
        let base := slotVa x.lrec.area x.kobj.amax c.slot
        let i := s.slotIntact x c base (savedTiles items)
        match i.2 with
        | .error f => (i.1, .error f)
        | .ok false => (i.1, .error (cContext, 0))
        | .ok true =>
          let r := i.1.devRead x.ctx (base + 0x2000) x.kobj.handoff
          match r.2 with
          | .error f => (r.1, .error f)
          | .ok bs =>
            let gr := items.foldl (fun gr y => y.write bs gr) (resumeGroup x c v p pt s.clk s.ages)
            (r.1.restoreQueries x c, .ok (fin s gr))

-- Continuations -------------------------------------------------------------------------------

/-- Change a continuation of a grid. -/
def State.modCont (s : State) (x : Grid) (index : Nat) (f : Cont → Cont) : State :=
  s.modGrid x.id x.ctx fun y => { y with conts := y.conts.map fun c => if c.index == index then f c else c }

/-- A continuation leaves its grid's list. -/
def State.takeCont (s : State) (x : Grid) (index : Nat) : State :=
  s.modGrid x.id x.ctx fun y => { y with conts := y.conts.filter fun c => c.index != index }

/-- A task whose group is on no core ends under its fault policy (16 R362). -/
def State.endCont (s : State) (x : Grid) (c : Cont) (cause : Nat) (va : Option Nat) : State :=
  let s := s.sendTo unitS { engReport x.ctx cause 0 x.id c.index va 0 with ordinal := c.ckpt.ordinal }
  let policy := match s.context x.ctx with | some cx => cx.policy | none => 0
  if policy = 1 then (s.forceReset x.ctx).setCtxState x.ctx .halted
  else if policy = 2 && !c.retried then s.modCont x c.index fun y => { y with hold := 1 }
  else
    let s := s.takeCont x c.index
    let s := s.modGrid x.id x.ctx fun y => { y with usedSlots := y.usedSlots.filter (· != c.slot), live := y.live - 1 }
    { s with queries := s.queries.filter fun q => !(q.2.grid == x.key && q.2.index == c.index) }

/-- A resume stops on a fault of the context slot: a page that is not present holds it, another fault ends
the task (R302). -/
def State.contFault (s : State) (x : Grid) (c : Cont) (f : Nat × Nat) : State :=
  if f.1 = cNotPresent then
    (s.modCont x c.index fun y => { y with wait := some f.2, hold := 0 }).sendTo unitS
      { engReport x.ctx cNotPresent 0x01 x.id c.index (some f.2) 0 with ordinal := c.ckpt.ordinal }
  else s.endCont x c f.1 (if f.1 = cContext then none else some f.2)

/-- A continuation is placed as one group, or as two copies (R330; 16 R369). -/
def State.resumeAt (s : State) (x : Grid) (c : Cont) (p : Spot) (q : Option Spot) : State :=
  let g := 64 * p.core + p.slot
  let a := s.restore x c p
  match a.2 with
  | .error f => a.1.contFault x c f
  | .ok gr =>
    match q with
    | none => (a.1.takeCont x c.index).enter gr p x.lrec.fuse
    | some p2 =>
      let g2 := 64 * p2.core + p2.slot
      let b := a.1.restore x c p2
      match b.2 with
      | .error f => b.1.contFault x c f
      | .ok gr2 =>
        ((b.1.takeCont x c.index).enter { gr with twin := some g2 } p x.lrec.fuse).enter
          { gr2 with twin := some g, age := s.ages + 1, vopen := s.ages + 1 } p2 x.lrec.fuse

end Sys2Proof.Machine
end

