-- ==== Sys2Proof/Machine/Commit.lean ====
section
/-!
DEFINITION. Commit points, variants, parking and resuming (13 R324, R327 to R330), the comparison of
redundant copies (16 R369), retirement of groups (13 R331), and retries and restarts (16 R362, R363).
-/

namespace Sys2Proof.Machine

/-- vpoint (R324, R327; 15 R352; 14 R345): an agent arrives once its flags read 0, a wave once its loads are written as
well, and waits. -/
def execVpoint (h : Hdr) (k : BitVec 10) : State → Out :=
  issue h 8 fun c s =>
    match c.gr.va.points.find? fun p => p.num == k.toNat with
    | none => .error (tr cCommit)
    | some p =>
      let s := s.doneNow c h
      let deep := if c.uni then !c.gr.seq.rstack.isEmpty else 1 < c.wv.liveSplits.length || c.spl.depth != 0
      let flags := (s.grp c.g).map fun gr => if c.uni then gr.seq.flags else (gr.waves.getD c.w Wave.blank).flags
      if (if c.uni then p.uOfs else p.lOfs) ≠ c.pc || deep || (match c.gr.vp with | some n => n != k.toNat | none => false)
      then .error (tr cCommit)
      else if (flags.getD []).any (· != 0) || (!c.uni && s.memops.any fun o => sameWave o.ag c.ag && o.kind.hasDst) then
        .error .await
      else .ok (((s.unpin c).modGrp c.g fun gr => { gr with vp := some k.toNat }).block c.ag .vpoint)

-- What a commit waits for ---------------------------------------------------------------------

/-- Step 1 of R327: nothing of the group is under way. -/
def State.quiet (s : State) (g : Nat) (gr : Group) : Bool :=
  (s.copies.all fun x => !agIsOf g x.ag) && (s.xops.all fun x => x.g != g) && gr.mq.isEmpty
    && (s.dma.all fun ch => ch.2.q.all fun m => !(m.g == g && s.owns m))
    && (s.reqs.all fun r => !agIsOf g r.ag) && s.noReplay g && s.writesDone g
    && (gr.waves.all fun wv => wv.pend.isEmpty) && gr.seq.pend.isEmpty

/-- Every agent that has not ended waits at a commit point. -/
def Group.atPoint (gr : Group) : Bool :=
  gr.vp.isSome && (gr.waves.all fun wv => !wv.live || wv.splits.all fun x => !x.live || x.blk == .vpoint)
    && (!gr.seq.live || gr.seq.blk == .vpoint)

/-- Every agent has ended (R331). -/
def Group.ended (gr : Group) : Bool := (gr.waves.all fun wv => !wv.live) && !gr.seq.live

/-- The group has reached the commit that p says, with nothing under way. -/
def State.ready (s : State) (p : Group → Bool) (g : Nat) : Bool :=
  match s.grp g with
  | some gr => p gr && gr.halting.isNone && gr.slotWait.isNone && s.quiet g gr
  | none => false

-- Redundant copies ----------------------------------------------------------------------------

/-- The sum of a copy's partials (16 R369). -/
def sigSum (sig : SMap DWord) : DWord := sig.foldl (fun a x => a + x.2) 0

/-- The partials in which two copies differ. -/
def sigDiff (a b : SMap DWord) : List Nat := (List.range 137).filter fun k => SMap.getD a k 0 != SMap.getD b k 0

/-- What a comparison at a commit says. -/
inductive Verdict where
  /-- commit; the core to blame and the partials in which it differed -/
  | commit (blame : Option (Nat × List Nat))
  /-- the other copy has not arrived -/
  | wait
  /-- the copies differ: a third run is made -/
  | differ
  /-- the third run matches neither copy -/
  | unresolved
deriving DecidableEq, Repr

/-- The comparison of R369 for the commit that p says. -/
def State.verdict (s : State) (p : Group → Bool) (gr : Group) : Verdict :=
  if gr.cls != 2 then .commit none
  else
    match gr.twin, gr.sigs with
    | some t, _ =>
      if !s.ready p t then .wait
      else if sigSum gr.sig = sigSum (((s.grp t).map Group.sig).getD []) then .commit none
      else .differ
    | none, [a, b] =>
      if (sigDiff gr.sig a.2).isEmpty then .commit (some (b.1, sigDiff gr.sig b.2))
      else if (sigDiff gr.sig b.2).isEmpty then .commit (some (a.1, sigDiff gr.sig a.2))
      else .unresolved
    | none, _ => .commit none

/-- A core's counters rise for the partials in which its copy differed (16 R369, R370). -/
def State.blamed (s : State) (b : Option (Nat × List Nat)) : State :=
  match b with
  | none => s
  | some (core, ks) =>
    let up := fun (c : Counters) (k : Nat) =>
      if k < 128 then { c with lanes := SMap.modD k 0 (· + 1) c.lanes }
      else if k < 136 then { c with subs := SMap.modD (k - 128) 0 (· + 1) c.subs }
      else c
    { s with pkg := { s.pkg with counters := SMap.modD core Counters.zero (fun c => ks.foldl up c) s.pkg.counters } }

/-- The copies of a group that are resident: itself and its twin. -/
def Group.copies (gr : Group) (g : Nat) : List Nat := g :: gr.twin.toList

/-- The version of a group commits; the other copy's is discarded. -/
def State.commitPair (s : State) (g : Nat) (gr : Group) : State :=
  let s := if gr.versioned then s.commitVersion g else s
  match gr.twin with
  | some t => { s.modGrp t fun y => { y with version := [], buf := [], vopen := s.ages } with ages := s.ages + 1 }
  | none => s

/-- The group and its other copy leave their cores. -/
def State.evictAll (s : State) (g : Nat) (gr : Group) : State :=
  (gr.copies g).foldl (fun (s : State) k => s.evict k (fun _ => false) false) s

/-- A task whose copies differ: both are discarded, and it is re-executed on a third cluster, at most three
times; the next such event ends it (16 R369, R363). -/
def State.thirdRun (s : State) (g : Nat) (gr : Group) : State :=
  match gr.twin.bind s.grp, gr.twin with
  | some o, some t =>
    if 3 ≤ gr.restarts then s.endTask g (gr.report g cRedundancy 0 0 false none 0 [])
    else
      let c := { gr.cont 0 [clusterOf (coreOf g), clusterOf (coreOf t)] with
        restarts := gr.restarts + 1, sigs := [(coreOf g, gr.sig), (coreOf t, o.sig)] }
      (s.toCont gr c).evictAll g gr
  | _, _ => s

/-- REDUNDANT_THIRD_RUN (16 R369). -/
def execRedundantThirdRun (g : Nat) (s : State) : Out :=
  match s.grp g with
  | none => notNow s
  | some gr =>
    let at_ := fun (p : Group → Bool) => s.ready p g && s.verdict p gr == .differ
    if at_ Group.atPoint || at_ Group.ended then .next (s.thirdRun g gr) else notNow s

-- Variants ------------------------------------------------------------------------------------

/-- What a continuation, or a group that stays, wants of a core. -/
def wantOf (x : Grid) (only : Option Nat) (avoid : List Nat) : Want := ⟨x.ctx, x.kobj, x.lrec.fuse, only, avoid⟩

/-- The waves a group's next variant must have: fixed once a wave or the sequencer has ended (R328, R307). -/
def Group.only (gr : Group) : Option Nat :=
  if gr.seq.live && gr.waves.all fun wv => wv.live then none else some gr.waves.length

/-- The same for a saved group. -/
def Ckpt.only (ck : Ckpt) : Option Nat :=
  if ck.point.isNone || (ck.seqLive && ck.waves.all fun w => w.live) then none else some ck.waves.length

/-- The place of a group in variant n of its core once its own resources are released (R328). -/
def State.switchSpot (s : State) (g n : Nat) (gr : Group) : Option Spot :=
  match s.gridOf (gridKey gr.ctx gr.grid) with
  | none => none
  | some x => (s.evict g (fun _ => false) false).spot (coreOf g) n (wantOf x gr.only []) (some (g % 64))

/-- A trial of the switch of a group and its other copy, each on its core; none where one does not fit. -/
def State.switched (s : State) (g n : Nat) (gr : Group) : Option State :=
  (gr.copies g).foldlM (fun (s : State) k =>
    match s.switchSpot k n gr, s.gridOf (gridKey gr.ctx gr.grid), gr.kobj.variants[n]? with
    | some p, some x, some v =>
      some ((s.evict k (fun _ => false) false).enter (startGroup x gr.index gr.slot [] v p s.clk s.ages) p x.lrec.fuse)
    | _, _, _ => none) s

/-- The pending indices of a grid: returned ones and those not yet handed out (R306). -/
def Grid.pending (x : Grid) : Nat := x.returned.length + (x.count - x.next)

/-- The context of a grid runs. -/
def State.ctxRuns (s : State) (ctx : Nat) : Bool :=
  match s.context ctx with
  | some c => c.st == .running
  | none => false

/-- A continuation that can be placed. -/
def Cont.free (c : Cont) : Bool := c.hold == 0 && c.wait.isNone

/-- A continuation wants two places, as two copies: a redundant one that is no third run (16 R369). -/
def Cont.paired (c : Cont) (x : Grid) : Bool := resumeClass x c.ckpt = 2 && c.sigs.isEmpty

/-- The place, or places, on a die of what is wanted once, or as two copies on two clusters (R307; 16 R369). -/
def State.spotsOn (s : State) (die : Nat) (w : Want) (pair : Bool) : Option (Spot × Option Spot) :=
  if pair then (s.pairOn die w).map fun p => (p.1, some p.2) else (s.placeOn die w).map fun p => (p, none)

/-- The place, or places, of a continuation on a die. -/
def State.contSpots (s : State) (die : Nat) (x : Grid) (c : Cont) : Option (Spot × Option Spot) :=
  s.spotsOn die (wantOf x c.ckpt.only c.avoid) (c.paired x)

/-- A trial: the die takes it, if it can. -/
def State.putTrial (s : State) (x : Grid) (die : Nat) (w : Want) (pair : Bool) : Option State :=
  let put := fun (s : State) (p : Spot) => match x.kobj.variants[p.varNo]? with
    | some v => s.enter (startGroup x 0 0 [] v p s.clk s.ages) p x.lrec.fuse
    | none => s
  (s.spotsOn die w pair).map fun p => match p.2 with
    | some q => put (put s p.1) q
    | none => put s p.1

/-- What a cooperative grid has not placed yet, with the die where it waits: groups handed out, continuations, pending
indices. -/
def State.coopRest (s : State) (x : Grid) : List (Option Nat × Want × Bool) :=
  let want := fun (i : Nat) => match x.conts.find? fun c => c.index == i with
    | some c => (wantOf x c.ckpt.only c.avoid, c.paired x)
    | none => (wantOf x none [], decide (x.lrec.cls = 2))
  ((List.range 16).flatMap fun d => ((s.die d).waiting.filter fun y => y.1 == x.key).map fun y => (some d, want y.2))
    ++ ((x.conts.filter Cont.free).map fun c => (none, want c.index))
    ++ List.replicate x.pending (none, want x.count)

/-- All of it can be placed at once on dies. -/
def State.fitsAll (s : State) (x : Grid) (dies : List Nat) : List (Option Nat × Want × Bool) → Bool
  | [] => true
  | (d, w, pair) :: t =>
    match (match d with | some d => [d] | none => dies).findSome? fun d => s.putTrial x d w pair with
    | some s' => s'.fitsAll x dies t
    | none => false

/-- The dies of a grid's effective mask where no group of another grid waits. -/
def State.coopDies (s : State) (x : Grid) : List Nat :=
  (List.range 16).filter fun d => bit (x.mask &&& s.pkg.livec) d && (s.die d).waiting.all fun y => y.1 == x.key

/-- What a cooperative grid has not placed can be placed whole now (R307). -/
def State.coopFits (s : State) (x : Grid) : Bool := s.fitsAll x (s.coopDies x) (s.coopRest x)

/-- A cooperative grid that is being placed whole: some of its groups are resident or wait at a die, and others are not
resident (R307). -/
def State.coopGrid (s : State) : Option Grid :=
  s.grids.find? fun x =>
    let waits := s.dies.any fun d => d.2.waiting.any fun y => y.1 == x.key
    x.lrec.coop && s.ctxRuns x.ctx && (waits || s.groups.any fun g => g.2.isOf x)
      && (0 < x.pending || x.conts.any Cont.free || waits)

def State.coopOpen (s : State) : Option Nat := s.coopGrid.map Grid.key

/-- A cooperative grid under placement, if there is one, can be placed whole (R307, R333). -/
def State.coopKept (s : State) : Bool :=
  match s.coopGrid with
  | some x => s.coopFits x
  | none => true

/-- The variant a group at a commit point moves to (R328; 07 R188). The copies of a redundant group move together; a move
leaves room for a cooperative grid that is being placed (R307; log entry 52). -/
def State.nextVariant (s : State) (g : Nat) (gr : Group) : Option Nat :=
  if (gr.queues.any fun q => q.bound || q.request.isSome) || !gr.dq.isEmpty then none
  else
    let long := (gr.copies g).all fun k => match (s.grp k).bind Group.fitSince with
      | some t => t + 4096 ≤ s.clk
      | none => false
    let waiting := !(s.die (dieOfCore (coreOf g))).waiting.isEmpty
    let dest := if waiting && gr.varNo + 1 < gr.kobj.variants.length then some (gr.varNo + 1)
      else if !waiting && 0 < gr.varNo && gr.enteredAt + 4096 ≤ s.clk && long then some (gr.varNo - 1)
      else none
    dest.bind fun n =>
      match s.switched g n gr with
      | some t => if s.coopOpen.isNone || t.coopKept then some n else none
      | none => none

/-- At the end of a clk: since when the variant above has fitted (R328). -/
def State.fitTick (s : State) : State :=
  { s with groups := s.groups.map fun p =>
      if p.2.varNo = 0 then p
      else if (s.switchSpot p.1 (p.2.varNo - 1) p.2).isSome then
        (p.1, { p.2 with fitSince := match p.2.fitSince with | some t => some t | none => some s.clk })
      else (p.1, { p.2 with fitSince := none }) }

/-- A group moves to another variant on its core (R328, R330). -/
def State.switchTo (s : State) (x : Grid) (n : Nat) (g : Nat) (gr : Group) : State :=
  let s0 := s.evict g (fun _ => false) false
  match s0.spot (coreOf g) n (wantOf x gr.only []) (some (g % 64)) with
  | none => s
  | some p =>
    let r := s0.restore x (gr.cont 0 []) p
    match r.2 with
    | .ok gr' => r.1.enter { gr' with twin := gr.twin } p x.lrec.fuse
    | .error f => (r.1.toCont gr (gr.cont 0 [])).contFault x (gr.cont 0 []) f

-- The commit point ----------------------------------------------------------------------------

/-- The agents of a group go on after their vpoint, all in the next clk (R327). -/
def Group.goOn (gr : Group) (clk : Nat) : Group :=
  { gr with
    waves := gr.waves.map fun wv =>
      { wv with splits := wv.splits.map fun x =>
          if x.live then { x with blk := .none, lastIssue := none, readyAt := clk + 1, fresh := true } else x }
    seq := if gr.seq.live then { gr.seq with blk := .none, lastIssue := none, readyAt := clk + 1, fresh := true } else gr.seq }

/-- A new task begins at the commit point (R311; 16 R362, R363). -/
def Group.newTask (gr : Group) (ck : Ckpt) : Group :=
  { gr with
    ordinal := gr.ordinal + 1
    ckpt := ck
    vp := none
    replayAns := []
    sig := []
    sigs := []
    early := false
    ran := false
    retried := false
    restarts := 0 }

/-- Steps 4 to 6 of R327 for a group whose save and commit are done. -/
def State.afterCommit (s : State) (x : Grid) (g : Nat) (third : Bool) : State :=
  match s.grp g with
  | none => s
  | some gr =>
    if !s.ctxRuns gr.ctx || third then (s.toCont gr (gr.cont 0 [])).evictAll g gr
    else
      match s.nextVariant g gr with
      | some n => (gr.copies g).foldl (fun (s : State) k =>
          match s.grp k with
          | some y => s.switchTo x n k y
          | none => s) s
      | none => (gr.copies g).foldl (fun (s : State) k => s.modGrp k fun y => y.goOn s.clk) s

/-- COMMIT_POINT (R327): all agents have arrived and nothing is under way; the copies of a redundant group
are compared, the state is saved, the version commits, and the group goes on, moves or parks. -/
def execCommitPoint (g : Nat) (s : State) : Out :=
  match s.grp g with
  | none => notNow s
  | some gr =>
    match gr.vp, s.gridOf (gridKey gr.ctx gr.grid) with
    | some n, some x =>
      if !s.ready Group.atPoint g then notNow s
      else
        match s.verdict Group.atPoint gr with
        | .wait => notNow s
        | .differ => notNow s
        | .unresolved => .next (s.endTask g (gr.report g cRedundancy 0 0 false none 0 []))
        | .commit blame =>
          let third := gr.cls == 2 && gr.twin.isNone
          let w := s.devWrite gr.ctx (s.saveRuns x gr n)
          match w.2 with
          | some f =>
            if f.1 = cNotPresent then
              .next ((w.1.modGrp g fun y => { y with slotWait := some f.2 }).send
                (gr.report g cNotPresent 0x01 0 false (some f.2) 0 []))
            else .next (w.1.endTask g (gr.report g f.1 0 0 false (some f.2) 0 []))
          | none =>
            let ck := s.ckptOf gr n
            let s := (w.1.blamed blame).commitPair g gr
            let s := { s with saves := s.saves + 1 }
            let s := (gr.copies g).foldl (fun (s : State) k => s.modGrp k fun y => y.newTask ck) s
            .next (s.afterCommit x g third)
    | _, _ => notNow s

/-- GROUP_RETIRE (R331): every agent has ended and nothing is under way; the version commits, and the slot,
the query slots and the core's resources are freed. -/
def execGroupRetire (g : Nat) (s : State) : Out :=
  match s.grp g with
  | none => notNow s
  | some gr =>
    if !s.ready Group.ended g then notNow s
    else
      match s.verdict Group.ended gr with
      | .wait => notNow s
      | .differ => notNow s
      | .unresolved => .next (s.endTask g (gr.report g cRedundancy 0 0 false none 0 []))
      | .commit blame => .next ((((s.blamed blame).commitPair g gr).dropGroup gr).evictAll g gr)

-- Retries, restarts and resumes ---------------------------------------------------------------

/-- A continuation held for an event goes on. -/
def State.unhold (s : State) (key index hold : Nat) (f : Cont → Cont) : Out :=
  match s.gridOf key with
  | none => notNow s
  | some x =>
    match x.conts.find? fun c => c.index == index with
    | some c =>
      if c.hold = hold ∧ s.ctxRuns x.ctx then .next (s.modCont x index fun c => { f c with hold := 0 })
      else notNow s
    | none => notNow s

/-- TASK_RETRY (16 R362): under RETRY a trapped task re-executes once. -/
def execTaskRetry (grid index : Nat) (s : State) : Out :=
  s.unhold grid index 1 fun c => { c with retried := true }

/-- TASK_RESTART (16 R363, R368): a task restarts without a trap. -/
def execTaskRestart (grid index : Nat) (s : State) : Out :=
  s.unhold grid index 2 fun c => { c with restarts := c.restarts + 1 }

/-- A die takes groups of a grid: in its effective mask, live, with no group waiting (R306). -/
def State.dieOpen (s : State) (die : Nat) (x : Grid) : Bool :=
  bit (x.mask &&& s.pkg.livec) die && (s.die die).waiting.isEmpty

/-- How many groups of a want a die can take, at most n: they are placed one after another (R307). -/
def State.capacity (s : State) (die : Nat) (x : Grid) (w : Want) (pair : Bool) : Nat → Nat
  | 0 => 0
  | n + 1 =>
    match s.putTrial x die w pair with
    | none => 0
    | some t => t.capacity die x w pair n + 1

/-- The continuation that waits first at a die, and where it goes; none where no continuation does, or where it fits no
core (R307). -/
def State.nextCont (s : State) (die : Nat) : Option (Grid × Cont × Spot × Option Spot) :=
  match (s.die die).waiting with
  | [] => none
  | (key, index) :: _ =>
    (s.gridOf key).bind fun x =>
      (x.conts.find? fun c => c.index == index).bind fun c => (s.contSpots die x c).map fun p => (x, c, p.1, p.2)

/-- The first group that waits at a die leaves its list. -/
def State.headTaken (s : State) (die : Nat) : State := s.modDie die fun y => { y with waiting := y.waiting.tail }

/-- GROUP_RESUME (R330): the continuation that waits first at a die is placed again. -/
def execGroupResume (die : Nat) (s : State) : Out :=
  match s.nextCont die with
  | none => notNow s
  | some (x, c, p, q) => .next ((s.headTaken die).resumeAt x c p q)

end Sys2Proof.Machine
end

