-- ==== Sys2Proof/Machine/Launch.lean ====
section
/-!
DEFINITION. Launching: launch records and their refusals (13 R300 to R304), grow and iv.spawn (R305; 09 R233,
R234), launch cells (17 R380), dispatch and placement (13 R306, R307), the loading of dictionaries and streams
(02 R41; 15 R358), dependences and record counts (13 R308, R309), retirement of grids (R332).
-/

namespace Sys2Proof.Machine

-- Refusals ------------------------------------------------------------------------------------

/-- The module with nothing placed, for the test of code 6 (R307). -/
def State.bare (s : State) : State :=
  { s with groups := [], clusters := [], cores := s.cores.map fun (c : Nat × Core) =>
      (c.1, { c.2 with rows := Core.empty.rows, banks := Core.empty.banks, slice := none }) }

/-- Groups in the last variant that a core taken as empty holds (R307). -/
def State.coreHolds (s : State) (core : Nat) (x : Grid) (n : Nat) : Nat → Nat
  | 0 => 0
  | k + 1 =>
    match s.spot core n (wantOf x none []) none, x.kobj.variants[n]? with
    | some p, some v => (s.enter (startGroup x 0 0 [] v p s.clk s.ages) p x.lrec.fuse).coreHolds core x n k + 1
    | _, _ => 0

/-- The most pairs of copies that clusters hold, the two of a pair on two clusters (16 R369). -/
def pairsOf (held : List Nat) : Nat :=
  let n := held.foldl (· + ·) 0
  min (n / 2) (n - held.foldl max 0)

/-- The groups of a cooperative grid that a die's cores hold, each taken as empty (R307); a redundant group takes two
clusters of the die. -/
def State.dieHolds (s : State) (x : Grid) (die : Nat) : Nat :=
  let held := fun (c : Nat) => s.bare.coreHolds c x (x.kobj.variants.length - 1) 64
  let clusters := (List.range 32).map fun k => ((List.range 8).map fun i => held (256 * die + 8 * k + i)).foldl (· + ·) 0
  if x.lrec.cls = 2 then pairsOf clusters else clusters.foldl (· + ·) 0

/-- A cooperative grid of a size cannot be co-resident (R307): not on its cores, each taken as empty, or for
want of context slots. -/
def State.coopRefused (s : State) (x : Grid) : Bool :=
  let dies := (List.range 16).filter fun d => bit x.mask d
  x.lrec.slots < x.count || dies.foldl (fun m d => if x.count ≤ m then m else m + s.dieHolds x d) 0 < x.count

/-- A new grid of a context. -/
def newGrid (id ctx : Nat) (l : LRec) (k : KObj) (mask : BitVec 16) (host : Bool) (clk : Nat) : Grid where
  id := id
  ctx := ctx
  lrec := l
  kobj := k
  mask := mask
  count := l.size
  next := 0
  heldDep := l.dep
  heldCount := l.isRec
  heldHost := host
  lastPoll := clk
  pollDue := l.dep || l.isRec
  turn := 0
  returned := []
  conts := []
  usedSlots := []
  live := 0
  gbar := ⟨0, none⟩

/-- How a launch is made. -/
inductive LaunchBy where
  | launch
  | launchRec
  | cell
deriving DecidableEq, Repr

/-- REC does not suit the instruction (R301, code 5). -/
def LaunchBy.wrongRec (m : LaunchBy) (isRec : Bool) : Bool :=
  match m with
  | .launch => isRec
  | .launchRec => !isRec
  | .cell => false

/-- A launch from the bytes of a record (R301): the grid's identifier and 0, or 0 and the first refusal's
code. -/
def State.launchFrom (s : State) (ctx : Nat) (m : LaunchBy) (bs : List Byte) : State × Nat × Nat :=
  let hl := s.handleList ctx bs
  match hl.2, s.context ctx with
  | some hs, some cx =>
    let l := launchRecord bs hs
    let mask := l.mask &&& s.pkg.livec
    if !launchLimits bs then (hl.1, 0, 2)
    else if mask = 0 then (hl.1, 0, 3)
    else
      let k := hl.1.loadKernel ctx l.kernel
      match k.2 with
      | none => (k.1, 0, 4)
      | some ko =>
        let x := newGrid cx.nextGrid ctx l ko mask (bit cx.duty 0) s.clk
        if m.wrongRec l.isRec then (k.1, 0, 5)
        else if l.coop && k.1.coopRefused x then (k.1, 0, 6)
        else if 1024 ≤ k.1.grids.length then (k.1, 0, 7)
        else
          ({ k.1 with
              grids := k.1.grids ++ [x]
              ctxs := SMap.mod ctx (fun c => { c with nextGrid := c.nextGrid + 1 }) k.1.ctxs }, x.id, 0)
  | _, _ => (hl.1, 0, 1)

-- launch and launch.rec -----------------------------------------------------------------------

/-- launch and launch.rec (R304): a release at package scope, and the sequencer waits for the answer; a
versioned group is demoted elsewhere than directly after a commit point, a redundant one always. -/
def launchPoint (isRec : Bool) (h : Hdr) (d : Dst) (a : Src) : State → Out :=
  issue h 8 fun c s =>
    if !s.released c 4 then .error .hold
    else if c.demotes true true then c.demoted 1
    else
      let s := s.passWrites c 4
      match (if c.gr.versioned then c.gr.answerFor (ansKey c.ag) else none) with
      | some xs =>
        let s := s.modGrp c.g fun gr => gr.dropAnswer (ansKey c.ag)
        .ok ((if h.nw then s else s.setScalar c d (xs.getD 0 0)).doneNow c h)
      | none =>
        let r : Req := ⟨s.nextId, c.ag, c.pc, .launch (c.scalar a).toNat isRec d h.nw, hdrFlag h, 0, c.gr.versioned⟩
        .ok ({ s.newId with reqs := s.reqs ++ [r] }.block c.ag (.req s.nextId))

def execLaunch (h : Hdr) (d : Dst) (a : Src) : State → Out := launchPoint false h d a
def execLaunchRec (h : Hdr) (d : Dst) (a : Src) : State → Out := launchPoint true h d a

/-- The answer of a request is recorded with the group's context (11 R281). -/
def State.recorded (s : State) (r : Req) (xs : List DWord) : State :=
  if r.direct then s.modGrp (agPlace r.ag) fun gr => gr.recordAnswer (ansKey r.ag) xs else s

/-- LAUNCH_ANSWER (R304): the dispatcher reads and checks the record, and answers; a page of the record that
is not present parks the sequencer at its instruction. -/
def execLaunchAnswer (id : Nat) (s : State) : Out :=
  match s.reqs.find? fun r => r.id == id with
  | none => notNow s
  | some r =>
    match r.kind, s.grp (agPlace r.ag) with
    | .launch va isRec d nw, some gr =>
      let answer := fun (s : State) (grid code : Nat) =>
        let x : DWord := BitVec.ofNat 64 (grid * 2 ^ 32 + code)
        (s.recorded r [x]).answered r (if nw then none else some d) x
      if va % 64 != 0 then .next (answer s 0 1)
      else
        let b := s.devRead gr.ctx va 128
        (match b.2 with
          | .error f =>
            if f.1 = cNotPresent then
              let s := { b.1 with reqs := b.1.reqs.filter fun y => y.id != id }
              let s := s.parkAt r.ag r.pc f.2 0 r.flag
              .next (if r.direct then s.modSeq (agPlace r.ag) fun q => { q with fresh := true } else s)
            else .next (answer b.1 0 1)
          | .ok bs =>
            let l := b.1.launchFrom gr.ctx (if isRec then .launchRec else .launch) bs
            .next (answer l.1 l.2.1 l.2.2))
    | _, _ => notNow s

-- iv.spawn and grow ---------------------------------------------------------------------------

/-- The parts iv.spawn and grow share (09 R233, R234; R305): release, demotion, recorded answers, and the
request to the dispatcher. give writes a recorded answer. -/
def spawnAsk (c : ICtx) (h : Hdr) (kind : ReqKind) (give : State → List DWord → State) (s : State) :
    Except Stop State :=
  if !s.released c 4 then .error .hold
  else if c.demotes true true then c.demoted 1
  else
    let s := s.passWrites c 4
    match (if c.gr.versioned then c.gr.answerFor (ansKey c.ag) else none) with
    | some xs => .ok ((give (s.modGrp c.g fun gr => gr.dropAnswer (ansKey c.ag)) xs).doneNow c h)
    | none => .ok { s.newId with reqs := s.reqs ++
        [⟨s.nextId, c.ag, c.pc, kind, hdrFlag h, c.active h, c.gr.versioned⟩] }

/-- The indices that lanes with counts receive from a base (09 R233). -/
def spawnLanes (base : Nat) : List (Nat × Nat) → List (Nat × Nat)
  | [] => []
  | (l, n) :: t => (l, base) :: spawnLanes (base + n) t

/-- A spawn's answer reaches its destination: all ones and SPAWNF when it was refused (09 R233). The
recorded form is {refused, base}. -/
def State.spawned (s : State) (ag : Agent) (mask : BitVec 32) (counts : List (Nat × Nat)) (dst : Option Dst)
    (xs : List DWord) : State :=
  let refused := xs.getD 0 0 != 0
  let s := match refused, ag with
    | true, .split g w _ => s.modWave g w fun wv => { wv with ivst := wv.ivst ||| 0x20 }
    | _, _ => s
  match dst with
  | none => s
  | some d => (spawnLanes (xs.getD 1 0).toNat counts).foldl (fun (s : State) p =>
      s.putLane ag d mask p.1 4 (if refused then 0xffffffff else BitVec.ofNat 128 (p.2 % 2 ^ 32))) s

/-- A growth's answer: the first new index, or all ones (R305). -/
def growWord (xs : List DWord) : DWord := if xs.getD 0 0 != 0 then BitVec.allOnes 64 else xs.getD 1 0

/-- iv.spawn (09 R233). -/
def execIvSpawn (h : Hdr) (d : Dst) (a : Src) : State → Out :=
  let srcs : List SrcW := [(a, .w32)]
  issueReading srcs h fun c s =>
    match c.opStop [(d, .w32)] srcs with
    | some st => .error st
    | none =>
      if s.ivHolds c then .error .hold
      else if s.coop c.gr then .error (tr cGrid)
      else
        let s := s.operandsTaken c srcs
        let lanes := c.acting h
        let ws := c.words extN srcs 0
        let counts := lanes.map fun l => (l, (w32 ws l).toNat)
        if lanes.isEmpty then .ok (s.doneNow c h)
        else
          match counts.find? fun p => 1024 < p.2 with
          | some p => .error (.trap cValue none p.1)
          | none => spawnAsk c h (.spawn counts d h.nw)
              (fun s xs => s.spawned c.ag (c.active h) counts (if h.nw then none else some d) xs) s

/-- grow (R305). -/
def execGrow (h : Hdr) (d : Dst) (a : Src) : State → Out :=
  issue h 8 fun c s =>
    let n := (c.scalar a).toNat
    if s.coop c.gr then .error (tr cGrid)
    else if n < 1 || 65536 < n then .error (tr cValue)
    else spawnAsk c h (.grow n d h.nw) (fun s xs => if h.nw then s else s.setScalar c d (growWord xs)) s

/-- SPAWN_COMPLETE (09 R233; R305): the dispatcher raises the group count up to the limit, or refuses. -/
def execSpawnComplete (id : Nat) (s : State) : Out :=
  match s.reqs.find? fun r => r.id == id with
  | none => notNow s
  | some r =>
    match (s.grp (agPlace r.ag)).bind fun gr => s.gridOf (gridKey gr.ctx gr.grid) with
    | none => notNow s
    | some x =>
      let go := fun (n : Nat) =>
        let refused := x.lrec.limit < x.count + n
        let s := { s with reqs := s.reqs.filter fun y => y.id != id }
        let s := if refused then s else s.modGrid x.id x.ctx fun y => { y with count := y.count + n }
        let xs : List DWord := [if refused then 1 else 0, BitVec.ofNat 64 x.count]
        (s.recorded r xs, xs)
      match r.kind with
      | .spawn counts d nw =>
        let q := go (counts.foldl (fun m p => m + p.2) 0)
        .next ((q.1.spawned r.ag r.mask counts (if nw then none else some d) q.2).lower r.ag r.flag)
      | .grow n d nw =>
        let q := go n
        .next ((if nw then q.1 else q.1.setFor r.ag d (growWord q.2)).lower r.ag r.flag)
      | _ => notNow s

-- Launch cells --------------------------------------------------------------------------------

/-- The target of a launch cell's byte: a fault, or another kind of page, which is reported as protection
(17 R380). -/
def State.cellAt (s : State) (ctx va : Nat) : State × Except Nat Nat :=
  let r := s.translate s.devUnit ctx .rw (BitVec.ofNat 64 va)
  (r.1, match r.2 with
    | .error f => .error f
    | .ok t => match t.tgt with
      | .sys a => .ok a
      | _ => .error cProtection)

/-- The dispatcher reads a launch cell (17 R380): a new SEQ gives one launch and one answer; before the first
answer a SEQ of 0 is no new one (log entry 62; DESIGN CHOICE). -/
def State.readCell (s : State) (ctx : Nat) (cx : Ctx) : State :=
  let r := s.cellAt ctx cx.cell
  let s := { r.1 with ctxs := SMap.mod ctx (fun c => { c with lastPoll := s.clk, cellDue := false }) r.1.ctxs }
  match r.2 with
  | .error f => s.sendTo unitS (engReport ctx f (if f = cNotPresent then 0x01 else 0) 0 0 (some cx.cell) 0)
  | .ok a =>
    let q : DWord := BitVec.ofNat 64 (leVal (memRead s.sys (a + 0x80) 8))
    if cx.lastSeq.getD 0 = q then s
    else
      let l := s.launchFrom ctx .cell (memRead s.sys a 128)
      let s := { l.1 with ctxs := SMap.mod ctx (fun c => { c with lastSeq := some q }) l.1.ctxs }
      { s with sys := memWrite s.sys (a + 0x88) (bytesOf 8 (l.2.1 * 2 ^ 32 + q.toNat % 2 ^ 24 * 256 + l.2.2)) }

/-- The X-die whose port a system address uses (17 R377; 03 R70). -/
def sysPort (a : Nat) : Nat := a / 2 ^ 39 % 2

/-- LAUNCH_CELL_WRITE (17 R380): the host writes record bytes and a SEQ; over CXL.cache the dispatcher reads
the cell at once. A cell that its context does not translate has no place here for the bytes; the dispatcher sees the write
where every host link is CXL (log entry 62). -/
def execLaunchCellWrite (ctx : Nat) (bytes : List Byte) (seq : Option DWord) (s : State) : Out :=
  match s.context ctx with
  | none => notNow s
  | some cx =>
    let r := s.cellAt ctx cx.cell
    match r.2 with
    | .error _ => .next (if s.pkg.hostCxl.all id then r.1.readCell ctx cx else s)
    | .ok a =>
      let s := { r.1 with sys := memWrite r.1.sys a bytes }
      let s := match seq with
        | some q => { s with sys := memWrite s.sys (a + 0x80) (bytesOf 8 q.toNat) }
        | none => s
      .next (if s.pkg.hostCxl.getD (sysPort a) false then s.readCell ctx cx else s)

/-- LAUNCH_CELL_POLL (17 R380): without CXL.cache every 65,536 clk; also after the service of a page that
was not present. -/
def execLaunchCellPoll (ctx : Nat) (s : State) : Out :=
  match s.context ctx with
  | none => notNow s
  | some cx =>
    let noCache := match (s.cellAt ctx cx.cell).2 with
      | .ok a => !s.pkg.hostCxl.getD (sysPort a) false
      | .error _ => !s.pkg.hostCxl.all id
    if cx.cellDue || (noCache && cx.lastPoll + 65536 ≤ s.clk) then .next (s.readCell ctx cx)
    else notNow s

-- Dispatch ------------------------------------------------------------------------------------

/-- Free group places of a die (R306; 16 R370). -/
def State.freePlaces (s : State) (die : Nat) : Nat :=
  ((dieCores die).filter fun c => !s.pkg.deadCores.contains c && !s.pkg.deadClusters.contains (clusterOf c)).foldl
    (fun n c => n + (64 - (s.onCore c).length)) 0

/-- The pending indices that a batch of at most k takes: consecutive ones, returned ones first (R306). -/
def Grid.batch (x : Grid) (k : Nat) : List Nat × Grid :=
  match x.returned with
  | i :: t =>
    let run := (i :: t).zip (List.range k) |>.takeWhile fun p => p.1 == i + p.2
    (run.map fun p => p.1, { x with returned := x.returned.drop run.length })
  | [] =>
    let n := min k (x.count - x.next)
    ((List.range n).map fun j => x.next + j, { x with next := x.next + n })

/-- A grid has continuations, or indices, to hand out (R306, R308, R309; 17 R381). -/
def State.hasWork (s : State) (x : Grid) : Bool :=
  s.ctxRuns x.ctx && (x.conts.any Cont.free || (!x.heldDep && !x.heldCount && !x.heldHost && 0 < x.pending))
    && (match s.coopOpen with | some k => k == x.key | none => !x.lrec.coop || s.coopFits x)

/-- The most groups that one batch of a grid gives a die (R306, R307): a continuation goes alone, and a die takes of a
cooperative grid what it can place now. -/
def State.batchRoom (s : State) (x : Grid) (die : Nat) : Nat :=
  let room := min 64 (s.freePlaces die)
  match x.conts.find? Cont.free with
  | some c => if 0 < room && (!x.lrec.coop || (s.contSpots die x c).isSome) then 1 else 0
  | none => if x.lrec.coop then min room (s.capacity die x (wantOf x none []) (x.lrec.cls = 2) room) else room

/-- The die a grid is served on next: dies in turn from the lowest of the mask upward (R306). -/
def State.nextDie (s : State) (x : Grid) : Option Nat :=
  ((List.range 16).map fun k => (x.turn + k) % 16).find? fun d => s.dieOpen d x && 0 < s.batchRoom x d

/-- The grid served next, with its die (R306). -/
def State.nextGrid (s : State) : Option (Grid × Nat) :=
  s.grids.findSome? fun x => if s.hasWork x then (s.nextDie x).map fun d => (x, d) else none

/-- What a batch of at most k takes of a grid: its first continuation, before any pending index, else pending indices. -/
def Grid.handed (x : Grid) (k : Nat) : List Nat × Grid :=
  match x.conts.find? Cont.free with
  | some c => ([c.index], { x with conts := x.conts.map fun y => if y.index == c.index then { y with hold := 3 } else y })
  | none => x.batch k

/-- DISPATCH_BATCH (R306): k pending indices of the grid, or a continuation, go to a die. -/
def execDispatchBatch (grid die k : Nat) (s : State) : Out :=
  match s.nextGrid with
  | none => notNow s
  | some (x, d) =>
    let b := x.handed k
    if x.key ≠ grid ∨ d ≠ die ∨ k = 0 ∨ s.batchRoom x d < k ∨ b.1.length ≠ k then notNow s
    else
      let s := s.modGrid x.id x.ctx fun _ => { b.2 with turn := (d + 1) % 16 }
      .next (s.modDie d fun y => { y with waiting := b.1.map fun i => (x.key, i) })

/-- GROUP_PLACE (R307, R310): the first group that waits at a die is placed, with its handle slots bound, in
a free context slot; a redundant group as two copies (16 R369). -/
def execGroupPlace (die : Nat) (s : State) : Out :=
  match (s.die die).waiting with
  | [] => notNow s
  | (key, index) :: rest =>
    match s.gridOf key with
    | none => notNow s
    | some x =>
      if x.conts.any fun c => c.index == index then notNow s
      else
      let slot := (List.range x.lrec.slots).find? fun i => !x.usedSlots.contains i
      let spots := (s.spotsOn die (wantOf x none []) (x.lrec.cls = 2)).map fun p => p.1 :: p.2.toList
      match slot, spots with
      | some i, some ps =>
        let b := s.bindHandles x.ctx x.lrec.handles
        let hs := slotsOf b.2
        let s := (b.1.reportBindings x.ctx x.id b.2).modDie die fun y => { y with waiting := rest }
        let s := s.modGrid x.id x.ctx fun y => { y with usedSlots := i :: y.usedSlots, live := y.live + 1 }
        let places := ps.map fun p => 64 * p.core + p.slot
        .next (ps.foldl (fun (s : State) p =>
          match x.kobj.variants[p.varNo]? with
          | none => s
          | some v => s.enter { startGroup x index i hs v p s.clk s.ages with
              twin := places.find? (· != 64 * p.core + p.slot) } p x.lrec.fuse) s)
      | _, _ => notNow s

-- Loading -------------------------------------------------------------------------------------

/-- A kernel object that a core runs. -/
def State.kernelOf (s : State) (core ctx kobj varNo : Nat) : Option (KObj × Variant) :=
  (s.onCore core).findSome? fun g =>
    if g.2.ctx == ctx && g.2.kobj.va == kobj && g.2.varNo == varNo then some (g.2.kobj, g.2.va) else none

/-- The nibbles of bytes (02 R60). -/
def nibbles (bs : List Byte) : List (BitVec 4) := bs.flatMap fun b => [b.extractLsb' 0 4, b.extractLsb' 4 4]

/-- A core's loader reports a page that is not present (15 R358). -/
def loaderReport (core ctx : Nat) (uni : Bool) (pc va : Nat) : FRec :=
  ⟨cNotPresent, if uni then 0x11 else 0x01, ctx, core, 1, 0, 0, 0, pc, uni, va, true, 0, []⟩

/-- Change a row, or a bank, of a core. -/
def State.setRow (s : State) (core row : Nat) (r : IRow) : State := s.modCore core fun k => { k with rows := k.rows.set row (some r) }
def State.setBank (s : State) (core bank : Nat) (b : Bank) : State :=
  s.modCore core fun k => { k with banks := k.banks.set bank (some b) }

/-- INSTRUCTION_ROW_FILL (15 R358): a row of 4 KiB, or what is left of its stream, with its cue nibbles. -/
def execInstructionRowFill (core row : Nat) (s : State) : Out :=
  match (s.core core).rows.getD row none with
  | none => notNow s
  | some r =>
    match s.kernelOf core r.ctx r.kobj r.varNo with
    | none => notNow s
    | some (k, v) =>
      if r.filled || r.stalled.isSome || r.fault.isSome then notNow s
      else
        let o := 4096 * r.idx
        let n := min 4096 ((if r.uni then v.uLen else v.lLen) - o)
        let cue := v.cueOfs + (if r.uni then 0 else v.uLen / 16) + o / 16
        let q := s.readAll r.ctx k.va [((if r.uni then v.uOfs else v.lOfs) + o, n), (cue, n / 16)]
        match q.2 with
        | .ok [bs, cs] => .next (q.1.setRow core row { r with filled := true, bytes := bs, cues := nibbles cs })
        | .ok _ => notNow s
        | .error f =>
          if f.1 = cNotPresent then
            .next ((q.1.setRow core row { r with stalled := some f.2 }).sendTo core (loaderReport core r.ctx r.uni o f.2))
          else .next (q.1.setRow core row { r with fault := some f })

/-- DICTIONARY_BANK_LOAD (02 R41, R60). -/
def execDictionaryBankLoad (core bank : Nat) (s : State) : Out :=
  match (s.core core).banks.getD bank none with
  | none => notNow s
  | some b =>
    match s.kernelOf core b.ctx b.kobj b.varNo with
    | none => notNow s
    | some (k, v) =>
      if b.filled || b.stalled.isSome || b.fault.isSome then notNow s
      else
        let q := s.readAll b.ctx k.va [(v.dictOfs, 8 * v.dict), (v.dictOfs + 8 * v.dict, nibbleBytes v.dict)]
        match q.2 with
        | .ok [bs, cs] =>
          let es := (List.range v.dict).map fun i => (BitVec.ofNat 64 (fld bs (8 * i) 8), (nibbles cs).getD i 15)
          .next (q.1.setBank core bank { b with filled := true, entries := es })
        | .ok _ => notNow s
        | .error f =>
          if f.1 = cNotPresent then
            .next ((q.1.setBank core bank { b with stalled := some f.2 }).sendTo core (loaderReport core b.ctx false 0 f.2))
          else .next (q.1.setBank core bank { b with fault := some f })

-- Dependences, record counts, retirement ------------------------------------------------------

/-- The dispatcher's word at an address of a grid: a fault is reported with ENG set, and the grid stays
held (R308, R309). -/
def State.gridWord (s : State) (x : Grid) (va n : Nat) : State × Option Nat :=
  let r := s.devRead x.ctx va n
  let s := r.1.modGrid x.id x.ctx fun y => { y with lastPoll := s.clk, pollDue := false }
  match r.2 with
  | .ok bs => (s, some (leVal bs))
  | .error f => (s.sendTo unitS (engReport x.ctx f.1 (if f.1 = cNotPresent then 0x01 else 0) x.id 0 (some f.2) 0), none)

/-- A word of a held grid is due to be read (R308, R309). -/
def State.pollDue (s : State) (x : Grid) : Bool := s.ctxRuns x.ctx && (x.pollDue || x.lastPoll + 65536 ≤ s.clk)

/-- DEPENDENCE_POLL (R308). -/
def execDependencePoll (grid : Nat) (s : State) : Out :=
  match s.gridOf grid with
  | none => notNow s
  | some x =>
    if !x.heldDep || !s.pollDue x then notNow s
    else
      let r := s.gridWord x x.lrec.depVa 8
      match r.2 with
      | some v =>
        if x.lrec.depTarget ≤ v then
          .next (r.1.modGrid x.id x.ctx fun y => { y with heldDep := false, pollDue := y.heldCount })
        else .next r.1
      | none => .next r.1

/-- RECORD_COUNT_READ (R309): a count above the limit is cut, and a record says so. -/
def execRecordCountRead (grid : Nat) (s : State) : Out :=
  match s.gridOf grid with
  | none => notNow s
  | some x =>
    if x.heldDep || !x.heldCount || !s.pollDue x then notNow s
    else
      let r := s.gridWord x x.lrec.recCountVa 4
      match r.2 with
      | some v =>
        let s := r.1.modGrid x.id x.ctx fun y => { y with heldCount := false, count := min v x.lrec.limit }
        .next (if x.lrec.limit < v then s.sendTo unitS (engReport x.ctx cCut 0 x.id 0 none v) else s)
      | none => .next r.1

/-- The done object of a grid rises by 1 at its home; a fault is reported and the increment lost (R332). -/
def State.addDone (s : State) (x : Grid) : State × Bool :=
  let r := s.translate s.devUnit x.ctx .rw (BitVec.ofNat 64 x.lrec.doneVa)
  let bad := fun (s : State) (f : Nat) => s.sendTo unitS (engReport x.ctx f 0 x.id 0 (some x.lrec.doneVa) 0)
  match r.2 with
  | .error f => (bad r.1 f, false)
  | .ok t =>
    match atomFault t, t.tgt with
    | some f, _ => (bad r.1 f, false)
    | none, .dram a => (r.1.dramWrite a (bytesOf 8 (AtomOp.new .addI64 (leVal (memRead r.1.mem a 8)) 1)), true)
    | none, _ => (r.1, false)

/-- Cores and clusters no longer know a grid (06 R165). -/
def State.forgetGrid (s : State) (key : Nat) : State :=
  { s with cores := s.cores.map fun (c : Nat × Core) => (c.1, { c.2 with seen := c.2.seen.filter (· != key) })
           clusters := s.clusters.map fun (c : Nat × Cluster) => (c.1, { c.2 with seen := c.2.seen.filter (· != key) }) }

/-- GRID_RETIRE (R332): every index has been issued, every group has retired, and it is not held for CMD 5 (17 R381). -/
def execGridRetire (grid : Nat) (s : State) : Out :=
  match s.gridOf grid with
  | none => notNow s
  | some x =>
    if x.heldDep || x.heldCount || x.heldHost || s.absentGroups x || x.live != 0 || (s.groups.any fun g => g.2.isOf x) then
      notNow s
    else
      let r := if x.lrec.done then s.addDone x else (s, false)
      let rest := r.1.grids.filter fun y => y.key != grid
      .next { r.1.forgetGrid grid with grids := if r.2 then rest.map fun y => { y with pollDue := y.pollDue || y.heldDep || y.heldCount }
        else rest }

end Sys2Proof.Machine
end

