-- ==== Sys2Proof/Machine/Contexts.lean ====
section
/-!
DEFINITION. The command registers of the S-die: translation invalidation (03 R75, R76), fault service (16
R364), contexts and their drains (17 R378, R379; 16 R371, R372).
-/

namespace Sys2Proof.Machine

-- pkg.xinv ------------------------------------------------------------------------------------

/-- What an invalidation covers: one page of a context, a context, or everything (R75). -/
inductive XScope where
  | page (ctx va : Nat)
  | context (ctx : Nat)
  | all
deriving DecidableEq, Repr

/-- The fields SCOPE, CTX and VA of a register. -/
def xscopeOf (r : CmdReg) : XScope :=
  if r.cmd = 0 then .page r.ctx.toNat (r.arg.toNat * 65536)
  else if r.cmd = 1 then .context r.ctx.toNat
  else .all

/-- It covers a leaf. -/
def XScope.leaf (x : XScope) (t : TlbEnt) : Bool :=
  match x with
  | .page c va => t.ctx == c && t.va == va / 2 ^ t.bits * 2 ^ t.bits
  | .context c => t.ctx == c
  | .all => true

/-- It covers a walk-cache entry. -/
def XScope.entry (x : XScope) (w : WalkEnt) : Bool :=
  match x with
  | .page c va => w.ctx == c && w.va == va / 2 ^ levelBits w.level * 2 ^ levelBits w.level
  | .context c => w.ctx == c
  | .all => true

/-- It may cover the leaf that an access of a context to an address was translated by: one page is dropped whatever its
size, so any access of the same GiB may have used it (R75, R76). -/
def XScope.access (x : XScope) (ctx va : Nat) : Bool :=
  match x with
  | .page c p => ctx == c && va % 2 ^ 48 / 2 ^ 30 == p / 2 ^ 30
  | .context c => ctx == c
  | .all => true

/-- Every TLB and walk cache drops what is covered. -/
def State.dropTlbs (s : State) (x : XScope) : State :=
  let leaves := fun (l : List TlbEnt) => l.filter fun t => !x.leaf t
  { s with
    cores := s.cores.map fun (c : Nat × Core) => (c.1, { c.2 with tlb := leaves c.2.tlb })
    clusters := s.clusters.map fun (c : Nat × Cluster) => (c.1, { c.2 with tlb := leaves c.2.tlb })
    dies := s.dies.map fun (d : Nat × Die) => (d.1, { d.2 with wcache := d.2.wcache.filter fun w => !x.entry w })
    ttc := leaves s.ttc }

/-- A write of pkg.xinv (R75): refused with BAD, ignored while BUSY, else broadcast. -/
def State.xinv (s : State) (scope : BitVec 3) (ctx : BitVec 12) (va : BitVec 32) (rsv : Bool) : State :=
  let r := s.pkg.xinv
  if r.busy then s
  else if rsv || 2 < scope.toNat then { s with pkg := { s.pkg with xinv := { r with bad := true } } }
  else
    let r : CmdReg := ⟨true, false, scope, ctx, va.setWidth 42⟩
    { s with pkg := { s.pkg with xinv := r } }.dropTlbs (xscopeOf r)

def execXinvPage (ctx : BitVec 12) (va : BitVec 32) (rsv : BitVec 16) (s : State) : Out :=
  .next (s.xinv 0 ctx va (rsv != 0))
def execXinvContext (ctx : BitVec 12) (va : BitVec 32) (rsv : BitVec 16) (s : State) : Out :=
  .next (s.xinv 1 ctx va (rsv != 0))
def execXinvAll (va : BitVec 32) (rsv : BitVec 16) (s : State) : Out := .next (s.xinv 2 0 va (rsv != 0))

/-- The context of an agent's group; accesses of a group that has left count for every context. -/
def State.inScope (s : State) (x : XScope) (ag : Agent) (va : Option Nat) : Bool :=
  match s.grp (agPlace ag), va with
  | some gr, some a => x.access gr.ctx a
  | some gr, none => (match x with | .page c _ => gr.ctx == c | .context c => gr.ctx == c | .all => true)
  | none, _ => true

/-- An access, or an engine command with translated targets, that the invalidation covers is in flight
(R76). -/
def State.covered (s : State) (x : XScope) : Bool :=
  (s.memops.any fun o => o.lanes.any fun l => s.inScope x o.ag (some l.va))
    || (s.copies.any fun c => c.units.isSome && s.inScope x c.ag none)
    || (s.xops.any fun o => s.inScope x o.ag none)
    || (s.groups.any fun g => s.inScope x (.seq g.1) none && g.2.mq.any fun m => match m.kind with
      | .tload _ _ => true
      | .tstore _ _ _ => true
      | _ => false)

/-- XINV_DONE (R76). -/
def execXinvDone (s : State) : Out :=
  let r := s.pkg.xinv
  if !r.busy || s.covered (xscopeOf r) then notNow s
  else .next ({ s with pkg := { s.pkg with xinv := { r with busy := false } } }.dropTlbs (xscopeOf r))

-- pkg.fsvc ------------------------------------------------------------------------------------

/-- A waiting address lies in a 64 KiB range. -/
def inRange (va : Nat) (w : Option Nat) : Bool :=
  match w with
  | some a => a % 2 ^ 48 / 65536 == va
  | none => false

/-- What a group waits for in a range: the offset, stream, address, lane or slot, and places of the agent; the Rook and the
save at a commit point have no offset. -/
def Group.waitsIn (gr : Group) (va : Nat) : Option (Nat × Bool × Nat × Nat × List Nat) :=
  match gr.waves.find? fun wv => wv.live && inRange va wv.parked with
  | some wv => some ((wv.splits.getD wv.cur Split.blank).pc, false, wv.parked.getD 0, wv.parkAux, [wv.place])
  | none =>
    if gr.seq.live && inRange va gr.seq.parked then some (gr.seq.pc, true, gr.seq.parked.getD 0, gr.seq.parkAux, [])
    else
      match gr.queues.find? fun q => inRange va q.stalled with
      | some q => some (0, true, q.stalled.getD 0, 0, [])
      | none => if inRange va gr.slotWait then some (0, false, gr.slotWait.getD 0, 0, []) else none

/-- The waiters of a range in a group are released; of a wave or sequencer that was parked every distance has elapsed (15
R349). -/
def Group.released (gr : Group) (va : Nat) : Group :=
  let free := fun (w : Option Nat) => if inRange va w then none else w
  { gr with
    waves := gr.waves.map fun wv =>
      if inRange va wv.parked then
        { wv with parked := none, splits := wv.splits.map fun x => { x with lastIssue := none } }
      else wv
    seq := if inRange va gr.seq.parked then { gr.seq with parked := none, lastIssue := none } else gr.seq
    queues := gr.queues.map fun q => { q with stalled := free q.stalled }
    slotWait := free gr.slotWait }

/-- One group of a serviced range (R364): its waiters execute again, or meet protection. -/
def State.serviceGroup (s : State) (g va : Nat) (failed : Bool) : State :=
  match s.grp g with
  | none => s
  | some gr =>
    match gr.waitsIn va with
    | none => s
    | some (pc, uni, a, aux, places) =>
      if gr.halting.isSome then s
      else if failed then s.endTask g (gr.report g cProtection 0 pc uni (some a) aux places)
      else s.modGrp g fun y => y.released va

/-- Rows and banks whose loading waits in a range. -/
def Core.serviced (k : Core) (ctx va : Nat) (failed : Bool) : Core :=
  let fault := fun (w : Option Nat) (f : Option (Nat × Nat)) => if failed then some (cProtection, w.getD 0) else f
  { k with
    replay := k.replay.map fun r => if r.ctx == ctx && r.page == va && r.svc.isNone then { r with svc := some failed } else r
    rows := k.rows.map fun (r : Option IRow) => r.map fun x =>
      if x.ctx == ctx && inRange va x.stalled then { x with stalled := none, fault := fault x.stalled x.fault } else x
    banks := k.banks.map fun (b : Option Bank) => b.map fun x =>
      if x.ctx == ctx && inRange va x.stalled then { x with stalled := none, fault := fault x.stalled x.fault } else x }

/-- The continuations of a grid that wait in a range. -/
def State.serviceGrid (s : State) (x : Grid) (va : Nat) (failed : Bool) : State :=
  (x.conts.filter fun c => inRange va c.wait).foldl (fun (s : State) c =>
    let s := s.modCont x c.index fun y => { y with wait := none }
    if failed then s.endCont x { c with wait := none } cProtection c.wait else s) s

/-- Every waiter of a range of a context is released (R364; R309; 17 R380), but for those whose report has not been taken
(R366). -/
def State.serviced (s : State) (ctx va : Nat) (failed : Bool) : State :=
  let one := fun (m : DmaCmd) =>
    if m.ctx == ctx && inRange va m.waiting then { m with waiting := none, cause := if failed then cProtection else m.cause } else m
  let s : State := { s with
    cores := s.cores.map fun (c : Nat × Core) => if s.untaken c.1 ctx va then c else (c.1, c.2.serviced ctx va failed)
    dma := s.dma.map fun (c : Nat × DmaChan) =>
      if s.untaken (unitX (c.1 / 16)) ctx va then c else (c.1, { c.2 with q := c.2.q.map one })
    ctxs := SMap.mod ctx (fun c => if inRange va (some c.cell) then { c with cellDue := true } else c) s.ctxs
    grids := s.grids.map fun (x : Grid) => if x.ctx == ctx && (x.heldDep || x.heldCount) then { x with pollDue := true } else x }
  let s : State := if s.untaken unitS ctx va then s
    else (s.grids.filter fun (x : Grid) => x.ctx == ctx).foldl (fun (s : State) x => s.serviceGrid x va failed) s
  ((s.groups.filter fun g => g.2.ctx == ctx && !s.untaken (coreOf g.1) ctx va).map fun g => g.1).foldl
    (fun (s : State) g => s.serviceGroup g va failed) s

/-- A write of pkg.fsvc (R364). -/
def State.fsvc (s : State) (failed : Bool) (ctx : BitVec 12) (va : BitVec 32) (rsv : Bool) : State :=
  let r := s.pkg.fsvc
  if r.busy then s
  else if rsv then { s with pkg := { s.pkg with fsvc := { r with bad := true } } }
  else
    let r : CmdReg := ⟨true, false, if failed then 1 else 0, ctx, va.setWidth 42⟩
    { s with pkg := { s.pkg with fsvc := r } }.serviced ctx.toNat va.toNat failed

def execFsvcService (ctx : BitVec 12) (va : BitVec 32) (rsv : BitVec 17) (s : State) : Out :=
  .next (s.fsvc false ctx va (rsv != 0))
def execFsvcFail (ctx : BitVec 12) (va : BitVec 32) (rsv : BitVec 17) (s : State) : Out :=
  .next (s.fsvc true ctx va (rsv != 0))

/-- FSVC_DONE (R364): every agent of the service has been released; one whose report waits is released when that is taken
(R366). -/
def execFsvcDone (s : State) : Out :=
  let f := s.pkg.fsvc
  if f.busy && !(s.coals.any fun k => s.untaken k.1 f.ctx.toNat f.arg.toNat) then .next { s with pkg := { s.pkg with fsvc := { s.pkg.fsvc with busy := false } } }
  else notNow s

-- Contexts ------------------------------------------------------------------------------------

/-- A context from its descriptor (R379): none where it is malformed. -/
def descriptorOf (tag clk : Nat) (bs : List Byte) : Option Ctx :=
  let flags := fld bs 1 1
  let duty := BitVec.ofNat 8 (fld bs 3 1)
  let root := fld bs 8 8
  let cell := fld bs 0x10 8
  let pairs := fld bs 0x2c 2
  let pairVa := fld bs 0x30 8
  if fld bs 0 1 = 1 ∧ flags < 8 ∧ fld bs 2 1 ≤ 2 ∧ duty.toNat < 64 ∧ (tag ≠ 0 → duty.toNat < 4) ∧ fld bs 4 4 = 0
      ∧ root % 4096 = 0 ∧ root < 2 ^ 42 ∧ cell % 256 = 0 ∧ 65536 ≤ fld bs 0x20 8 ∧ 1 ≤ fld bs 0x28 4 ∧ pairs ≤ 64
      ∧ fld bs 0x2e 2 = 0 ∧ pairVa % 8 = 0 ∧ (pairs = 0 → pairVa = 0) ∧ fld bs 0x38 8 = 0 then
    some ⟨flags % 2 = 1, flags / 2 % 2 = 1, flags / 4 = 1, fld bs 2 1, duty, root, cell, fld bs 0x18 8, fld bs 0x20 8,
      fld bs 0x28 4, pairs, pairVa, .running, none, 1, clk, false⟩
  else none

/-- The command register with BAD set: the write is refused (R378). -/
def State.ctxBad (s : State) : State := { s with pkg := { s.pkg with ctxcmd := { s.pkg.ctxcmd with bad := true } } }

/-- The command register takes an accepted write. -/
def State.ctxTook (s : State) (busy : Bool) (cmd : BitVec 3) (ctx : BitVec 12) (arg : BitVec 42) : State :=
  { s with pkg := { s.pkg with ctxcmd := ⟨busy, false, cmd, ctx, arg⟩ } }

/-- The forced reset of a context under a drain (16 R372; R378). -/
def State.forceDrained (s : State) (ctx : Nat) : State := (s.forceReset ctx).setCtxState ctx .drained

/-- A context is destroyed (R378): reset by force, its grids, query slots and context slots freed, its
translations dropped. -/
def State.destroyed (s : State) (ctx : Nat) : State :=
  let s := s.forceReset ctx
  { s with
    grids := s.grids.filter fun x => x.ctx != ctx
    queries := s.queries.filter fun q => q.2.grid / 2 ^ 32 != ctx
    walks := s.walks.filter fun w => w.ctx != ctx
    ctxs := SMap.erase ctx s.ctxs }.dropTlbs (.context ctx)

/-- The write with which firmware ends bring-up (R389, step 7): it creates context 0. Firmware runs where its images have
verified (R387). -/
def bringsUp (cmd : BitVec 3) (ctx : BitVec 12) : Bool := cmd == 1 && ctx == 0 && Config.firmwareVerified

/-- A write of pkg.ctxcmd (R378); before firmware has created context 0 any other is refused (R389). -/
def State.ctxCommand (s : State) (cmd : BitVec 3) (ctx : BitVec 12) (arg : BitVec 42) (rsv : Bool) : State :=
  let c := ctx.toNat
  if !s.pkg.up && !bringsUp cmd ctx then s.ctxBad
  else if s.pkg.ctxcmd.busy then s
  else if rsv then s.ctxBad
  else
    match cmd.toNat, s.context c with
    | 1, none =>
      if arg.toNat % 64 != 0 || !s.pkg.dieLive (arg.toNat / 2 ^ 38) then s.ctxBad
      else
        (match descriptorOf c s.clk (memRead s.mem arg.toNat 64) with
          | some d => { s with ctxs := SMap.set c d s.ctxs, pkg := { s.pkg with up := true } }.ctxTook false cmd ctx arg
          | none => s.ctxBad)
    | 2, some _ =>
      if arg = 0 then ((s.recall c).setCtxState c (.draining s.clk)).ctxTook true cmd ctx arg
      else if arg = 1 then (s.forceDrained c).ctxTook false cmd ctx arg
      else s.ctxBad
    | 3, some d =>
      if arg = 0 ∧ (d.st = .drained ∨ d.st = .halted) then (s.setCtxState c .running).ctxTook false cmd ctx arg else s.ctxBad
    | 4, some _ => if arg = 0 then (s.destroyed c).ctxTook false cmd ctx arg else s.ctxBad
    | 5, some _ =>
      (match s.grid arg.toNat c with
        | some x => if x.heldHost then (s.modGrid x.id c fun y => { y with heldHost := false }).ctxTook false cmd ctx arg
          else s.ctxBad
        | none => s.ctxBad)
    | _, _ => s.ctxBad

def execCtxCreate (ctx : BitVec 12) (arg : BitVec 42) (rsv : BitVec 5) (s : State) : Out :=
  .next (s.ctxCommand 1 ctx arg (rsv != 0))
def execCtxDrain (ctx : BitVec 12) (rsv : BitVec 5) (s : State) : Out := .next (s.ctxCommand 2 ctx 0 (rsv != 0))
def execCtxDrainForced (ctx : BitVec 12) (rsv : BitVec 5) (s : State) : Out := .next (s.ctxCommand 2 ctx 1 (rsv != 0))
def execCtxResume (ctx : BitVec 12) (arg : BitVec 42) (rsv : BitVec 5) (s : State) : Out :=
  .next (s.ctxCommand 3 ctx arg (rsv != 0))
def execCtxDestroy (ctx : BitVec 12) (arg : BitVec 42) (rsv : BitVec 5) (s : State) : Out :=
  .next (s.ctxCommand 4 ctx arg (rsv != 0))
def execCtxReleaseGrid (ctx : BitVec 12) (arg : BitVec 42) (rsv : BitVec 5) (s : State) : Out :=
  .next (s.ctxCommand 5 ctx arg (rsv != 0))

/-- A drain of the context is under way: BUSY of its command stands. -/
def State.drainBusy (s : State) (ctx : Nat) : Bool :=
  let r := s.pkg.ctxcmd
  r.busy && r.cmd == 2 && r.ctx.toNat == ctx

/-- A drain ends: BUSY of its command falls. -/
def State.drainEnds (s : State) (ctx : Nat) : State :=
  let r := s.pkg.ctxcmd
  if s.drainBusy ctx then { s with pkg := { s.pkg with ctxcmd := { r with busy := false } } } else s

/-- DRAIN_COMPLETE (16 R371): no group of the context is resident; a context that a trap halted meanwhile
counts as drained (R362). -/
def execDrainComplete (ctx : Nat) (s : State) : Out :=
  match (s.context ctx).map Ctx.st with
  | some (.draining _) =>
    if s.groups.any fun g => g.2.ctx == ctx then notNow s
    else .next ((s.setCtxState ctx .drained).drainEnds ctx)
  | some .halted => if s.drainBusy ctx then .next (s.drainEnds ctx) else notNow s
  | _ => notNow s

/-- DRAIN_DEADLINE (16 R372): the count of a core that holds a group of the context reaches the deadline. -/
def execDrainDeadline (ctx core : Nat) (s : State) : Out :=
  match s.context ctx with
  | none => notNow s
  | some c =>
    match c.st with
    | .draining t =>
      if ((s.onCore core).any fun g => g.2.ctx == ctx) && t + c.deadline ≤ s.clk then
        .next ((s.forceDrained ctx).drainEnds ctx)
      else notNow s
    | _ => notNow s

end Sys2Proof.Machine
end

