-- ==== Sys2Proof/Machine/IntLane.lean ====
section
/-!
DEFINITION. Integer and address arithmetic (08 R199 to R202): one definition per point and word
length.
-/

namespace Sys2Proof.Machine

/-- The nearest end of the signed range (04 R91). -/
def satI (n : Nat) (x : Int) : BitVec n :=
  BitVec.ofInt n (max (-(2 ^ (n - 1) : Nat)) (min x ((2 ^ (n - 1) : Nat) - 1)))

/-- The nearest end of the unsigned range (04 R91). -/
def satN (n : Nat) (x : Int) : BitVec n := BitVec.ofInt n (max 0 (min x ((2 ^ n : Nat) - 1)))

def fAdd (n : Nat) (a b : BitVec n) : BitVec n := a + b
def fSub (n : Nat) (a b : BitVec n) : BitVec n := a - b
def fAddSatI (n : Nat) (a b : BitVec n) : BitVec n := satI n (a.toInt + b.toInt)
def fSubSatI (n : Nat) (a b : BitVec n) : BitVec n := satI n (a.toInt - b.toInt)
def fAddSatN (n : Nat) (a b : BitVec n) : BitVec n := satN n (a.toNat + b.toNat)
def fSubSatN (n : Nat) (a b : BitVec n) : BitVec n := satN n ((a.toNat : Int) - b.toNat)
def fMul (n : Nat) (a b : BitVec n) : BitVec n := a * b
def fMulhiI (n : Nat) (a b : BitVec n) : BitVec n := BitVec.ofInt n (a.toInt * b.toInt / (2 ^ n : Nat))
def fMulhiN (n : Nat) (a b : BitVec n) : BitVec n := BitVec.ofNat n (a.toNat * b.toNat / 2 ^ n)
def fMulSatI (n : Nat) (a b : BitVec n) : BitVec n := satI n (a.toInt * b.toInt)
def fAnd (n : Nat) (a b : BitVec n) : BitVec n := a &&& b
def fOr (n : Nat) (a b : BitVec n) : BitVec n := a ||| b
def fXor (n : Nat) (a b : BitVec n) : BitVec n := a ^^^ b
def fAndn (n : Nat) (a b : BitVec n) : BitVec n := a &&& ~~~b
def fOrn (n : Nat) (a b : BitVec n) : BitVec n := a ||| ~~~b
def fXnor (n : Nat) (a b : BitVec n) : BitVec n := ~~~(a ^^^ b)

/-- The shift amount b[7:0] (R200). -/
def amount {n : Nat} (b : BitVec n) : Nat := b.toNat % 256

def fShl (n : Nat) (a b : BitVec n) : BitVec n := if n ≤ amount b then 0 else a <<< amount b
def fShrN (n : Nat) (a b : BitVec n) : BitVec n := if n ≤ amount b then 0 else a >>> amount b
def fShrI (n : Nat) (a b : BitVec n) : BitVec n := a.sshiftRight (amount b)
def fRotl (n : Nat) (a b : BitVec n) : BitVec n := a.rotateLeft (amount b % n)
def fRotr (n : Nat) (a b : BitVec n) : BitVec n := a.rotateRight (amount b % n)
def fMinI (n : Nat) (a b : BitVec n) : BitVec n := if a.slt b then a else b
def fMaxI (n : Nat) (a b : BitVec n) : BitVec n := if a.slt b then b else a
def fMinN (n : Nat) (a b : BitVec n) : BitVec n := if a.ult b then a else b
def fMaxN (n : Nat) (a b : BitVec n) : BitVec n := if a.ult b then b else a
def fAdifI (n : Nat) (a b : BitVec n) : BitVec n := BitVec.ofNat n (a.toInt - b.toInt).natAbs
def fAdifN (n : Nat) (a b : BitVec n) : BitVec n := BitVec.ofNat n ((a.toNat : Int) - b.toNat).natAbs

/-- Position and length of a bit field: b[4:0] and min(b[13:8], 32), or b[5:0] and min(b[14:8], 64)
(R201). -/
def fieldPos {n : Nat} (b : BitVec n) : Nat := b.toNat % n
def fieldLen {n : Nat} (b : BitVec n) : Nat := min (b.toNat / 256 % (2 * n)) n

def fBfextN (n : Nat) (a b : BitVec n) : BitVec n :=
  BitVec.ofNat n (a.toNat / 2 ^ fieldPos b % 2 ^ fieldLen b)

def fBfextI (n : Nat) (a b : BitVec n) : BitVec n :=
  if fieldLen b = 0 then 0
  else
    let x := a.sshiftRight (fieldPos b)
    let up := n - fieldLen b
    (x <<< up).sshiftRight up

/-- The field of c at the position is replaced by the low bits of a (R201). -/
def fBfins (n : Nat) (a b c : BitVec n) : BitVec n :=
  let mask : BitVec n := BitVec.ofNat n ((2 ^ fieldLen b - 1) * 2 ^ fieldPos b)
  (c &&& ~~~mask) ||| ((a <<< fieldPos b) &&& mask)

def fPopc (n : Nat) (a : BitVec n) : BitVec n := BitVec.ofNat n (countBits a)

/-- Leading zero bits; the width for 0. -/
def fClz (n : Nat) (a : BitVec n) : BitVec n :=
  BitVec.ofNat n (if a = 0 then n else n - 1 - Nat.log2 a.toNat)

def fBrev (n : Nat) (a : BitVec n) : BitVec n := a.reverse
def fMad (n : Nat) (a b c : BitVec n) : BitVec n := a * b + c
def fMadhiI (n : Nat) (a b c : BitVec n) : BitVec n := fMulhiI n a b + c
def fMadhiN (n : Nat) (a b c : BitVec n) : BitVec n := fMulhiN n a b + c
def fMadSat (n : Nat) (a b c : BitVec n) : BitVec n := satI n (a.toInt * b.toInt + c.toInt)

/-- Each 16-bit half on its own. -/
def halvesI (f : BitVec 16 → BitVec 16 → BitVec 16) (a b : Word) : Word :=
  f (a.extractLsb' 16 16) (b.extractLsb' 16 16) ++ f (a.extractLsb' 0 16) (b.extractLsb' 0 16)

/-- c plus the products of the parts of k bits, sign-extended (R202). -/
def dotI (k : Nat) (a b c : Word) : Word :=
  c + BitVec.ofInt 32 ((List.range (32 / k)).foldl
    (fun s i => s + (a.extractLsb' (k * i) k).toInt * (b.extractLsb' (k * i) k).toInt) 0)

/-- The same with zero-extended parts. -/
def dotN (k : Nat) (a b c : Word) : Word :=
  c + BitVec.ofNat 32 ((List.range (32 / k)).foldl
    (fun s i => s + (a.extractLsb' (k * i) k).toNat * (b.extractLsb' (k * i) k).toNat) 0)

/-- add.i32 (08 R199). -/
def execAddI32 (h : Hdr) (d : Dst) (a b : Src) : State → Out :=
  intBin tInt extI fAdd h 8 d a b

/-- add.i32 as a 32-bit word (02 R38). -/
def execAddI32W32 (dist : BitVec 2) (d : Dst) (a b : Src) : State → Out :=
  intBin tInt extI fAdd (hdr32 dist) 4 d a b

/-- add.i32 as a compact word (02 R39). -/
def execAddI32C16 (d : Dst) (b : Src) : State → Out :=
  intBin tInt extI fAdd hdr16 2 d (srcA16 d) b

/-- sub.i32 (08 R199). -/
def execSubI32 (h : Hdr) (d : Dst) (a b : Src) : State → Out :=
  intBin tInt extI fSub h 8 d a b

/-- sub.i32 as a 32-bit word (02 R38). -/
def execSubI32W32 (dist : BitVec 2) (d : Dst) (a b : Src) : State → Out :=
  intBin tInt extI fSub (hdr32 dist) 4 d a b

/-- sub.i32 as a compact word (02 R39). -/
def execSubI32C16 (d : Dst) (b : Src) : State → Out :=
  intBin tInt extI fSub hdr16 2 d (srcA16 d) b

/-- add.sat.i32 (08 R199). -/
def execAddSatI32 (h : Hdr) (d : Dst) (a b : Src) : State → Out :=
  intBin tInt extI fAddSatI h 8 d a b

/-- add.sat.i32 as a 32-bit word (02 R38). -/
def execAddSatI32W32 (dist : BitVec 2) (d : Dst) (a b : Src) : State → Out :=
  intBin tInt extI fAddSatI (hdr32 dist) 4 d a b

/-- sub.sat.i32 (08 R199). -/
def execSubSatI32 (h : Hdr) (d : Dst) (a b : Src) : State → Out :=
  intBin tInt extI fSubSatI h 8 d a b

/-- sub.sat.i32 as a 32-bit word (02 R38). -/
def execSubSatI32W32 (dist : BitVec 2) (d : Dst) (a b : Src) : State → Out :=
  intBin tInt extI fSubSatI (hdr32 dist) 4 d a b

/-- add.sat.n32 (08 R199). -/
def execAddSatN32 (h : Hdr) (d : Dst) (a b : Src) : State → Out :=
  intBin tInt extN fAddSatN h 8 d a b

/-- add.sat.n32 as a 32-bit word (02 R38). -/
def execAddSatN32W32 (dist : BitVec 2) (d : Dst) (a b : Src) : State → Out :=
  intBin tInt extN fAddSatN (hdr32 dist) 4 d a b

/-- sub.sat.n32 (08 R199). -/
def execSubSatN32 (h : Hdr) (d : Dst) (a b : Src) : State → Out :=
  intBin tInt extN fSubSatN h 8 d a b

/-- sub.sat.n32 as a 32-bit word (02 R38). -/
def execSubSatN32W32 (dist : BitVec 2) (d : Dst) (a b : Src) : State → Out :=
  intBin tInt extN fSubSatN (hdr32 dist) 4 d a b

/-- add.i16 (08 R199). -/
def execAddI16 (h : Hdr) (d : Dst) (a b : Src) : State → Out :=
  lane2 tInt extN (fun a b => noFl (halvesI BitVec.add a b)) h 8 d a b

/-- add.i16 as a 32-bit word (02 R38). -/
def execAddI16W32 (dist : BitVec 2) (d : Dst) (a b : Src) : State → Out :=
  lane2 tInt extN (fun a b => noFl (halvesI BitVec.add a b)) (hdr32 dist) 4 d a b

/-- sub.i16 (08 R199). -/
def execSubI16 (h : Hdr) (d : Dst) (a b : Src) : State → Out :=
  lane2 tInt extN (fun a b => noFl (halvesI BitVec.sub a b)) h 8 d a b

/-- sub.i16 as a 32-bit word (02 R38). -/
def execSubI16W32 (dist : BitVec 2) (d : Dst) (a b : Src) : State → Out :=
  lane2 tInt extN (fun a b => noFl (halvesI BitVec.sub a b)) (hdr32 dist) 4 d a b

/-- mul.i16 (08 R199). -/
def execMulI16 (h : Hdr) (d : Dst) (a b : Src) : State → Out :=
  lane2 tMul extN (fun a b => noFl (halvesI BitVec.mul a b)) h 8 d a b

/-- mul.i16 as a 32-bit word (02 R38). -/
def execMulI16W32 (dist : BitVec 2) (d : Dst) (a b : Src) : State → Out :=
  lane2 tMul extN (fun a b => noFl (halvesI BitVec.mul a b)) (hdr32 dist) 4 d a b

/-- mul.i32 (08 R199). -/
def execMulI32 (h : Hdr) (d : Dst) (a b : Src) : State → Out :=
  intBin tMul extI fMul h 8 d a b

/-- mul.i32 as a 32-bit word (02 R38). -/
def execMulI32W32 (dist : BitVec 2) (d : Dst) (a b : Src) : State → Out :=
  intBin tMul extI fMul (hdr32 dist) 4 d a b

/-- mulhi.i32 (08 R199). -/
def execMulhiI32 (h : Hdr) (d : Dst) (a b : Src) : State → Out :=
  intBin tMul extI fMulhiI h 8 d a b

/-- mulhi.i32 as a 32-bit word (02 R38). -/
def execMulhiI32W32 (dist : BitVec 2) (d : Dst) (a b : Src) : State → Out :=
  intBin tMul extI fMulhiI (hdr32 dist) 4 d a b

/-- mulhi.n32 (08 R199). -/
def execMulhiN32 (h : Hdr) (d : Dst) (a b : Src) : State → Out :=
  intBin tMul extN fMulhiN h 8 d a b

/-- mulhi.n32 as a 32-bit word (02 R38). -/
def execMulhiN32W32 (dist : BitVec 2) (d : Dst) (a b : Src) : State → Out :=
  intBin tMul extN fMulhiN (hdr32 dist) 4 d a b

/-- mul.sat.i32 (08 R199). -/
def execMulSatI32 (h : Hdr) (d : Dst) (a b : Src) : State → Out :=
  intBin tMul extI fMulSatI h 8 d a b

/-- mul.sat.i32 as a 32-bit word (02 R38). -/
def execMulSatI32W32 (dist : BitVec 2) (d : Dst) (a b : Src) : State → Out :=
  intBin tMul extI fMulSatI (hdr32 dist) 4 d a b

/-- and.b32 (08 R199). -/
def execAndB32 (h : Hdr) (d : Dst) (a b : Src) : State → Out :=
  intBin tInt extN fAnd h 8 d a b

/-- and.b32 as a 32-bit word (02 R38). -/
def execAndB32W32 (dist : BitVec 2) (d : Dst) (a b : Src) : State → Out :=
  intBin tInt extN fAnd (hdr32 dist) 4 d a b

/-- and.b32 as a compact word (02 R39). -/
def execAndB32C16 (d : Dst) (b : Src) : State → Out :=
  intBin tInt extN fAnd hdr16 2 d (srcA16 d) b

/-- or.b32 (08 R199). -/
def execOrB32 (h : Hdr) (d : Dst) (a b : Src) : State → Out :=
  intBin tInt extN fOr h 8 d a b

/-- or.b32 as a 32-bit word (02 R38). -/
def execOrB32W32 (dist : BitVec 2) (d : Dst) (a b : Src) : State → Out :=
  intBin tInt extN fOr (hdr32 dist) 4 d a b

/-- or.b32 as a compact word (02 R39). -/
def execOrB32C16 (d : Dst) (b : Src) : State → Out :=
  intBin tInt extN fOr hdr16 2 d (srcA16 d) b

/-- xor.b32 (08 R199). -/
def execXorB32 (h : Hdr) (d : Dst) (a b : Src) : State → Out :=
  intBin tInt extN fXor h 8 d a b

/-- xor.b32 as a 32-bit word (02 R38). -/
def execXorB32W32 (dist : BitVec 2) (d : Dst) (a b : Src) : State → Out :=
  intBin tInt extN fXor (hdr32 dist) 4 d a b

/-- xor.b32 as a compact word (02 R39). -/
def execXorB32C16 (d : Dst) (b : Src) : State → Out :=
  intBin tInt extN fXor hdr16 2 d (srcA16 d) b

/-- andn.b32 (08 R199). -/
def execAndnB32 (h : Hdr) (d : Dst) (a b : Src) : State → Out :=
  intBin tInt extN fAndn h 8 d a b

/-- andn.b32 as a 32-bit word (02 R38). -/
def execAndnB32W32 (dist : BitVec 2) (d : Dst) (a b : Src) : State → Out :=
  intBin tInt extN fAndn (hdr32 dist) 4 d a b

/-- orn.b32 (08 R199). -/
def execOrnB32 (h : Hdr) (d : Dst) (a b : Src) : State → Out :=
  intBin tInt extN fOrn h 8 d a b

/-- orn.b32 as a 32-bit word (02 R38). -/
def execOrnB32W32 (dist : BitVec 2) (d : Dst) (a b : Src) : State → Out :=
  intBin tInt extN fOrn (hdr32 dist) 4 d a b

/-- xnor.b32 (08 R199). -/
def execXnorB32 (h : Hdr) (d : Dst) (a b : Src) : State → Out :=
  intBin tInt extN fXnor h 8 d a b

/-- xnor.b32 as a 32-bit word (02 R38). -/
def execXnorB32W32 (dist : BitVec 2) (d : Dst) (a b : Src) : State → Out :=
  intBin tInt extN fXnor (hdr32 dist) 4 d a b

/-- shl.b32 (08 R200). -/
def execShlB32 (h : Hdr) (d : Dst) (a b : Src) : State → Out :=
  intBin tInt extN fShl h 8 d a b

/-- shl.b32 as a 32-bit word (02 R38). -/
def execShlB32W32 (dist : BitVec 2) (d : Dst) (a b : Src) : State → Out :=
  intBin tInt extN fShl (hdr32 dist) 4 d a b

/-- shl.b32 as a compact word (02 R39). -/
def execShlB32C16 (d : Dst) (b : Src) : State → Out :=
  intBin tInt extN fShl hdr16 2 d (srcA16 d) b

/-- shr.n32 (08 R200). -/
def execShrN32 (h : Hdr) (d : Dst) (a b : Src) : State → Out :=
  intBin tInt extN fShrN h 8 d a b

/-- shr.n32 as a 32-bit word (02 R38). -/
def execShrN32W32 (dist : BitVec 2) (d : Dst) (a b : Src) : State → Out :=
  intBin tInt extN fShrN (hdr32 dist) 4 d a b

/-- shr.n32 as a compact word (02 R39). -/
def execShrN32C16 (d : Dst) (b : Src) : State → Out :=
  intBin tInt extN fShrN hdr16 2 d (srcA16 d) b

/-- shr.i32 (08 R200). -/
def execShrI32 (h : Hdr) (d : Dst) (a b : Src) : State → Out :=
  intBin tInt extI fShrI h 8 d a b

/-- shr.i32 as a 32-bit word (02 R38). -/
def execShrI32W32 (dist : BitVec 2) (d : Dst) (a b : Src) : State → Out :=
  intBin tInt extI fShrI (hdr32 dist) 4 d a b

/-- rotl.b32 (08 R200). -/
def execRotlB32 (h : Hdr) (d : Dst) (a b : Src) : State → Out :=
  intBin tInt extN fRotl h 8 d a b

/-- rotl.b32 as a 32-bit word (02 R38). -/
def execRotlB32W32 (dist : BitVec 2) (d : Dst) (a b : Src) : State → Out :=
  intBin tInt extN fRotl (hdr32 dist) 4 d a b

/-- rotr.b32 (08 R200). -/
def execRotrB32 (h : Hdr) (d : Dst) (a b : Src) : State → Out :=
  intBin tInt extN fRotr h 8 d a b

/-- rotr.b32 as a 32-bit word (02 R38). -/
def execRotrB32W32 (dist : BitVec 2) (d : Dst) (a b : Src) : State → Out :=
  intBin tInt extN fRotr (hdr32 dist) 4 d a b

/-- min.i32 (08 R199). -/
def execMinI32 (h : Hdr) (d : Dst) (a b : Src) : State → Out :=
  intBin tInt extI fMinI h 8 d a b

/-- min.i32 as a 32-bit word (02 R38). -/
def execMinI32W32 (dist : BitVec 2) (d : Dst) (a b : Src) : State → Out :=
  intBin tInt extI fMinI (hdr32 dist) 4 d a b

/-- min.i32 as a compact word (02 R39). -/
def execMinI32C16 (d : Dst) (b : Src) : State → Out :=
  intBin tInt extI fMinI hdr16 2 d (srcA16 d) b

/-- max.i32 (08 R199). -/
def execMaxI32 (h : Hdr) (d : Dst) (a b : Src) : State → Out :=
  intBin tInt extI fMaxI h 8 d a b

/-- max.i32 as a 32-bit word (02 R38). -/
def execMaxI32W32 (dist : BitVec 2) (d : Dst) (a b : Src) : State → Out :=
  intBin tInt extI fMaxI (hdr32 dist) 4 d a b

/-- max.i32 as a compact word (02 R39). -/
def execMaxI32C16 (d : Dst) (b : Src) : State → Out :=
  intBin tInt extI fMaxI hdr16 2 d (srcA16 d) b

/-- min.n32 (08 R199). -/
def execMinN32 (h : Hdr) (d : Dst) (a b : Src) : State → Out :=
  intBin tInt extN fMinN h 8 d a b

/-- min.n32 as a 32-bit word (02 R38). -/
def execMinN32W32 (dist : BitVec 2) (d : Dst) (a b : Src) : State → Out :=
  intBin tInt extN fMinN (hdr32 dist) 4 d a b

/-- max.n32 (08 R199). -/
def execMaxN32 (h : Hdr) (d : Dst) (a b : Src) : State → Out :=
  intBin tInt extN fMaxN h 8 d a b

/-- max.n32 as a 32-bit word (02 R38). -/
def execMaxN32W32 (dist : BitVec 2) (d : Dst) (a b : Src) : State → Out :=
  intBin tInt extN fMaxN (hdr32 dist) 4 d a b

/-- adif.i32 (08 R199). -/
def execAdifI32 (h : Hdr) (d : Dst) (a b : Src) : State → Out :=
  intBin tInt extI fAdifI h 8 d a b

/-- adif.i32 as a 32-bit word (02 R38). -/
def execAdifI32W32 (dist : BitVec 2) (d : Dst) (a b : Src) : State → Out :=
  intBin tInt extI fAdifI (hdr32 dist) 4 d a b

/-- adif.n32 (08 R199). -/
def execAdifN32 (h : Hdr) (d : Dst) (a b : Src) : State → Out :=
  intBin tInt extN fAdifN h 8 d a b

/-- adif.n32 as a 32-bit word (02 R38). -/
def execAdifN32W32 (dist : BitVec 2) (d : Dst) (a b : Src) : State → Out :=
  intBin tInt extN fAdifN (hdr32 dist) 4 d a b

/-- bfext.n32 (08 R201). -/
def execBfextN32 (h : Hdr) (d : Dst) (a b : Src) : State → Out :=
  intBin tInt extN fBfextN h 8 d a b

/-- bfext.n32 as a 32-bit word (02 R38). -/
def execBfextN32W32 (dist : BitVec 2) (d : Dst) (a b : Src) : State → Out :=
  intBin tInt extN fBfextN (hdr32 dist) 4 d a b

/-- bfext.i32 (08 R201). -/
def execBfextI32 (h : Hdr) (d : Dst) (a b : Src) : State → Out :=
  intBin tInt extI fBfextI h 8 d a b

/-- bfext.i32 as a 32-bit word (02 R38). -/
def execBfextI32W32 (dist : BitVec 2) (d : Dst) (a b : Src) : State → Out :=
  intBin tInt extI fBfextI (hdr32 dist) 4 d a b

/-- bfins.b32 (08 R201). -/
def execBfinsB32 (h : Hdr) (d : Dst) (a b c : Src) : State → Out :=
  intTri tInt fBfins h 8 d a b c

/-- bfins.b32 as a 32-bit word (02 R38). -/
def execBfinsB32W32 (dist : BitVec 2) (d : Dst) (a b : Src) : State → Out :=
  intTri tInt fBfins (hdr32 dist) 4 d a b (srcC32 d)

/-- popc.b32 (08 R199). -/
def execPopcB32 (h : Hdr) (d : Dst) (a : Src) : State → Out :=
  intUn tInt fPopc h 8 d a

/-- popc.b32 as a 32-bit word (02 R38). -/
def execPopcB32W32 (dist : BitVec 2) (d : Dst) (a : Src) : State → Out :=
  intUn tInt fPopc (hdr32 dist) 4 d a

/-- clz.b32 (08 R199). -/
def execClzB32 (h : Hdr) (d : Dst) (a : Src) : State → Out :=
  intUn tInt fClz h 8 d a

/-- clz.b32 as a 32-bit word (02 R38). -/
def execClzB32W32 (dist : BitVec 2) (d : Dst) (a : Src) : State → Out :=
  intUn tInt fClz (hdr32 dist) 4 d a

/-- brev.b32 (08 R199). -/
def execBrevB32 (h : Hdr) (d : Dst) (a : Src) : State → Out :=
  intUn tInt fBrev h 8 d a

/-- brev.b32 as a 32-bit word (02 R38). -/
def execBrevB32W32 (dist : BitVec 2) (d : Dst) (a : Src) : State → Out :=
  intUn tInt fBrev (hdr32 dist) 4 d a

/-- add.i64 (08 R199). -/
def execAddI64 (h : Hdr) (d : Dst) (a b : Src) : State → Out :=
  lane2x64 tMul (fun a b => noFl (a + b)) h 8 d a b

/-- add.i64 as a 32-bit word (02 R38). -/
def execAddI64W32 (dist : BitVec 2) (d : Dst) (a b : Src) : State → Out :=
  lane2x64 tMul (fun a b => noFl (a + b)) (hdr32 dist) 4 d a b

/-- sub.i64 (08 R199). -/
def execSubI64 (h : Hdr) (d : Dst) (a b : Src) : State → Out :=
  lane2x64 tMul (fun a b => noFl (a - b)) h 8 d a b

/-- sub.i64 as a 32-bit word (02 R38). -/
def execSubI64W32 (dist : BitVec 2) (d : Dst) (a b : Src) : State → Out :=
  lane2x64 tMul (fun a b => noFl (a - b)) (hdr32 dist) 4 d a b

/-- mad.i32 (08 R202). -/
def execMadI32 (h : Hdr) (d : Dst) (a b c : Src) : State → Out :=
  intTri tMul fMad h 8 d a b c

/-- madhi.i32 (08 R202). -/
def execMadhiI32 (h : Hdr) (d : Dst) (a b c : Src) : State → Out :=
  intTri tMul fMadhiI h 8 d a b c

/-- madhi.n32 (08 R202). -/
def execMadhiN32 (h : Hdr) (d : Dst) (a b c : Src) : State → Out :=
  intTri tMul fMadhiN h 8 d a b c

/-- mad.sat.i32 (08 R202). -/
def execMadSatI32 (h : Hdr) (d : Dst) (a b c : Src) : State → Out :=
  intTri tMul fMadSat h 8 d a b c

/-- dot4.i8 (08 R202). -/
def execDot4I8 (h : Hdr) (d : Dst) (a b c : Src) : State → Out :=
  lane3 tMul (fun a b c => noFl (dotI 8 a b c)) h 8 d a b c

/-- dot4.n8 (08 R202). -/
def execDot4N8 (h : Hdr) (d : Dst) (a b c : Src) : State → Out :=
  lane3 tMul (fun a b c => noFl (dotN 8 a b c)) h 8 d a b c

/-- dot2.i16 (08 R202). -/
def execDot2I16 (h : Hdr) (d : Dst) (a b c : Src) : State → Out :=
  lane3 tMul (fun a b c => noFl (dotI 16 a b c)) h 8 d a b c

end Sys2Proof.Machine
end

