-- ==== Sys2Proof/Machine/Cvt.lean ====
section
/-!
DEFINITION. Conversions of the lane stream (08 R211 to R213; 04 R92, R97, R100, R102).
-/

namespace Sys2Proof.Machine

/-- Two FP32 values into a packed word, the first in the low half (R211). -/
def pairTo (f : Fmt) (rm : Rm) (a b : Word) : Word × Fl :=
  let lo := fpCvt fp32 f rm a.toNat
  let hi := fpCvt fp32 f rm b.toNat
  (BitVec.ofNat 16 hi.1 ++ BitVec.ofNat 16 lo.1, lo.2 ||| hi.2)

/-- To a signed integer of n bits (04 R92). -/
def toSigned (n : Nat) (f : Fmt) (rm : Rm) {k : Nat} (a : BitVec k) : BitVec n × Fl :=
  let r := fpToInt f (-(2 ^ (n - 1) : Nat)) ((2 ^ (n - 1) : Nat) - 1) rm a.toNat
  (BitVec.ofInt n r.1, r.2)

/-- To an unsigned integer of n bits (04 R92). -/
def toUnsigned (n : Nat) (f : Fmt) (rm : Rm) {k : Nat} (a : BitVec k) : BitVec n × Fl :=
  let r := fpToInt f 0 ((2 ^ n : Nat) - 1) rm a.toNat
  (BitVec.ofInt n r.1, r.2)

/-- From a signed integer into a format whose codes take n bits. -/
def fromSigned (n : Nat) (f : Fmt) (rm : Rm) {k : Nat} (a : BitVec k) : BitVec n × Fl :=
  let r := fpOfInt f rm a.toInt
  (BitVec.ofNat n r.1, r.2)

/-- From an unsigned integer. -/
def fromUnsigned (n : Nat) (f : Fmt) (rm : Rm) {k : Nat} (a : BitVec k) : BitVec n × Fl :=
  let r := fpOfInt f rm a.toNat
  (BitVec.ofNat n r.1, r.2)

/-- cvt.f32.f64 (R211). -/
def execCvtF32F64 (h : Hdr) (rnd : BitVec 2) (d : Dst) (a : Src) : State → Out :=
  lane64to32 tFp64 (onFn 32 (fpCvt fp64 fp32 rnd)) h 8 d a

/-- cvt.f64.f32 (R211). -/
def execCvtF64F32 (h : Hdr) (rnd : BitVec 2) (d : Dst) (a : Src) : State → Out :=
  lane32to64 tFp64 (onFn 64 (fpCvt fp32 fp64 rnd)) h 8 d a

/-- cvt.f16.f32: two values into one word (R211). -/
def execCvtF16F32 (h : Hdr) (rnd : BitVec 2) (d : Dst) (a b : Src) : State → Out :=
  lane2 tFp extN (pairTo fp16 rnd) h 8 d a b

/-- cvt.f32.f16: half hi of the word (R211). -/
def execCvtF32F16 (h : Hdr) (rnd : BitVec 2) (d : Dst) (a : Src) (hi : Bool) : State → Out :=
  lane1 tFp (fun x => onFn 32 (fpCvt fp16 fp32 rnd) (if hi then x.extractLsb' 16 16 else x.extractLsb' 0 16)) h 8 d a

/-- cvt.bf16.f32: two values into one word (R211). -/
def execCvtBf16F32 (h : Hdr) (rnd : BitVec 2) (d : Dst) (a b : Src) : State → Out :=
  lane2 tFp extN (pairTo bf16 rnd) h 8 d a b

/-- cvt.f32.bf16: half hi of the word (R211). -/
def execCvtF32Bf16 (h : Hdr) (rnd : BitVec 2) (d : Dst) (a : Src) (hi : Bool) : State → Out :=
  lane1 tFp (fun x => onFn 32 (fpCvt bf16 fp32 rnd) (if hi then x.extractLsb' 16 16 else x.extractLsb' 0 16)) h 8 d a

/-- cvt.i32.f32 (R211). -/
def execCvtI32F32 (h : Hdr) (rnd : BitVec 2) (d : Dst) (a : Src) : State → Out :=
  lane1 tFp (toSigned 32 fp32 rnd) h 8 d a

/-- cvt.f32.i32 (R211). -/
def execCvtF32I32 (h : Hdr) (rnd : BitVec 2) (d : Dst) (a : Src) : State → Out :=
  lane1 tFp (fromSigned 32 fp32 rnd) h 8 d a

/-- cvt.n32.f32 (R211). -/
def execCvtN32F32 (h : Hdr) (rnd : BitVec 2) (d : Dst) (a : Src) : State → Out :=
  lane1 tFp (toUnsigned 32 fp32 rnd) h 8 d a

/-- cvt.f32.n32 (R211). -/
def execCvtF32N32 (h : Hdr) (rnd : BitVec 2) (d : Dst) (a : Src) : State → Out :=
  lane1 tFp (fromUnsigned 32 fp32 rnd) h 8 d a

/-- cvt.i64.f64 (R211). -/
def execCvtI64F64 (h : Hdr) (rnd : BitVec 2) (d : Dst) (a : Src) : State → Out :=
  lane1x64 tFp64 (toSigned 64 fp64 rnd) h 8 d a

/-- cvt.f64.i64 (R211). -/
def execCvtF64I64 (h : Hdr) (rnd : BitVec 2) (d : Dst) (a : Src) : State → Out :=
  lane1x64 tFp64 (fromSigned 64 fp64 rnd) h 8 d a

/-- cvt.i32.f64 (R211). -/
def execCvtI32F64 (h : Hdr) (rnd : BitVec 2) (d : Dst) (a : Src) : State → Out :=
  lane64to32 tFp64 (toSigned 32 fp64 rnd) h 8 d a

/-- cvt.f64.i32 (R211). -/
def execCvtF64I32 (h : Hdr) (rnd : BitVec 2) (d : Dst) (a : Src) : State → Out :=
  lane32to64 tFp64 (fromSigned 64 fp64 rnd) h 8 d a

/-- cvt.sat.i8.i32: every rounding byte is accepted and has no effect (R211). -/
def execCvtSatI8I32 (h : Hdr) (_rnd : BitVec 2) (d : Dst) (a : Src) : State → Out :=
  lane1 tMul (fun x => noFl ((satI 8 x.toInt).signExtend 32)) h 8 d a

/-- cvt.sat.i16.i32: every rounding byte is accepted and has no effect (R211). -/
def execCvtSatI16I32 (h : Hdr) (_rnd : BitVec 2) (d : Dst) (a : Src) : State → Out :=
  lane1 tMul (fun x => noFl ((satI 16 x.toInt).signExtend 32)) h 8 d a

/-- The format word of a free-form conversion; bits [63:16] must be 0 and the word valid (R212). -/
def fmtOf (x : DWord) : Except Stop FmtW :=
  let f : FmtW := x.setWidth 16
  if x.toNat < 65536 && f.valid then .ok f else .error (tr cValue)

/-- A free-form conversion: the format word is checked whatever the lane activity (R212). -/
def ffCvt (g : FmtW → Word → Word × Fl) (h : Hdr) (d : Dst) (a f : Src) : State → Out :=
  let srcs : List SrcW := [(a, .w32)]
  laneFixed tFf h 8 [(d, .w32)] srcs fun c m =>
    match fmtOf (c.scalar f) with
    | .error e => .error e
    | .ok fw =>
      let x := c.words extN srcs 0
      .ok (res32F m d fun l => g fw (w32 x l))

/-- cvt.ff.f32 (R212). -/
def execCvtFfF32 (h : Hdr) (rnd : BitVec 2) (d : Dst) (a f : Src) : State → Out :=
  ffCvt (fun fw x => let r := fw.encode (fp32.decode x.toNat) rnd
    (BitVec.ofNat 32 r.1, r.2 ||| sigFlag [fp32.decode x.toNat])) h d a f

/-- cvt.f32.ff: exact; any rounding (R211, R212). -/
def execCvtF32Ff (h : Hdr) (rnd : BitVec 2) (d : Dst) (a f : Src) : State → Out :=
  ffCvt (fun fw x => noFl (BitVec.ofNat 32 (fp32.encode rnd (fw.decode (x.toNat % 2 ^ fw.w))).1)) h d a f

/-- cvt.ff.bf16 (R212). -/
def execCvtFfBf16 (h : Hdr) (rnd : BitVec 2) (d : Dst) (a f : Src) : State → Out :=
  ffCvt (fun fw x =>
    let u := bf16.decode (x.toNat % 65536)
    let v := bf16.decode (x.toNat / 65536)
    let lo := fw.encode u rnd
    let hi := fw.encode v rnd
    (BitVec.ofNat 32 (lo.1 + 256 * hi.1), lo.2 ||| hi.2 ||| sigFlag [u, v])) h d a f

/-- cvt.bf16.ff: exact; any rounding (R212). -/
def execCvtBf16Ff (h : Hdr) (rnd : BitVec 2) (d : Dst) (a f : Src) : State → Out :=
  ffCvt (fun fw x =>
    let lo := bf16.encode rnd (fw.decode (x.toNat % 2 ^ fw.w))
    let hi := bf16.encode rnd (fw.decode (x.toNat / 256 % 2 ^ fw.w))
    noFl (BitVec.ofNat 32 (lo.1 + 65536 * hi.1))) h d a f

/-- The MX type of pack.mx and unpack.mx; bits [63:3] must be 0 and the type at most 5 (R213). -/
def mxTypeOf (x : DWord) : Except Stop Nat := if x.toNat < 6 then .ok x.toNat else .error (tr cValue)

/-- pack.mx: the active lanes are the block; to nearest (R213). -/
def execPackMx (h : Hdr) (d : Dst) (a f : Src) : State → Out :=
  let srcs : List SrcW := [(a, .w32)]
  laneFixed tFf h 8 [(d, .w32)] srcs fun c m =>
    match mxTypeOf (c.scalar f) with
    | .error e => .error e
    | .ok ty =>
      let x := c.words extN srcs 0
      let act := maskLanes m
      let blk := mxBlock ty (act.map fun l => fp32.decode (w32 x l).toNat)
      let codes := act.zip blk.2
      let at_ := fun l => ((codes.find? fun y => y.1 == l).map (·.2)).getD (0, 0)
      .ok (res32F m d fun l => (BitVec.ofNat 32 (256 * blk.1 + (at_ l).1), (at_ l).2))

/-- unpack.mx (R213). -/
def execUnpackMx (h : Hdr) (rnd : BitVec 2) (d : Dst) (a f : Src) : State → Out :=
  let srcs : List SrcW := [(a, .w32)]
  laneFixed tFf h 8 [(d, .w32)] srcs fun c m =>
    match mxTypeOf (c.scalar f) with
    | .error e => .error e
    | .ok ty =>
      let x := c.words extN srcs 0
      .ok (res32F m d fun l =>
        let v := (w32 x l).toNat
        let r := fp32.encode rnd (mxValue (v / 256 % 256) (v % 2 ^ mxBits ty) ty)
        (BitVec.ofNat 32 r.1, r.2))

end Sys2Proof.Machine
end

