-- ==== Sys2Proof/Machine/Elem.lean ====
section
/-!
DEFINITION. The elementary functions of 08 R209 and R210. The spec bounds their error and does not
give their bits: the result is Config.elemCandidate of the operand where that lies within the stated
bound, and the nearest value otherwise (log entry 7). Whether it lies within the bound is decided from two values
between which the true one lies, in fixed point of 512 bits; of 1 / sqrt a from exact squares.
-/

namespace Sys2Proof.Machine

/-- The functions, numbered for Config.elemCandidate. -/
inductive ElemFn where
  | rsqrt32
  | rsqrt64
  | exp2
  | log2
  | sin
  | cos
deriving DecidableEq, Repr

def ElemFn.num : ElemFn → Nat
  | .rsqrt32 => 0
  | .rsqrt64 => 1
  | .exp2 => 2
  | .log2 => 3
  | .sin => 4
  | .cos => 5

/-- floor(pi x 2^512). -/
def piFix : Nat :=
  0x3243f6a8885a308d313198a2e03707344a4093822299f31d0082efa98ec4e6c89452821e638d01377be5466cf34e90c6cc0ac29b7c97c50dd3f84d5b5b5470917

/-- floor(ln 2 x 2^512). -/
def ln2Fix : Nat :=
  0xb17217f7d1cf79abc9e3b39803f2f6af40f343267298b62d8a0d175b8baafa2be7b876206debac98559552fb4afa1b10ed2eae35c138214427573b291169b825

/-- Sum of t, t x/n, t x^2/(n (n+1)), ... in fixed point of k bits. -/
def expTerms (k x : Nat) : Nat → Nat → Nat → Nat
  | 0, _, t => t
  | fuel + 1, n, t => t + expTerms k x fuel (n + 1) (t * x / 2 ^ k / n)

/-- 2^f for a fraction f of 512 bits, in 512 bits, at most 2^10 units too low. -/
def exp2Fix (f : Nat) : Nat := expTerms 512 (f * ln2Fix / 2 ^ 512) 110 1 (2 ^ 512)

/-- Sum of z/n, z^3/(n+2), ... in fixed point of 512 bits; t is the power of z, z2 its square. -/
def atanhTerms (z2 : Nat) : Nat → Nat → Nat → Nat
  | 0, _, _ => 0
  | fuel + 1, n, t => t / n + atanhTerms z2 fuel (n + 2) (t * z2 / 2 ^ 512)

/-- log2 of y / 2^k in [1, 2), in 512 bits, at most 2^11 units too low or too high. -/
def log2Fix (y k : Nat) : Nat :=
  let z := (y - 2 ^ k) * 2 ^ 512 / (y + 2 ^ k)
  2 * atanhTerms (z * z / 2 ^ 512) 170 1 z * 2 ^ 512 / ln2Fix

/-- The alternating series of cosine (n = 1, t = 1) and sine (n = 2, t = x), x2 being x squared, in
fixed point of 512 bits. -/
def trigTerms (x2 : Nat) : Nat → Nat → Int → Int
  | 0, _, t => t
  | fuel + 1, n, t => t + trigTerms x2 fuel (n + 2) (-(t * x2 / 2 ^ 512 / (n * (n + 1) : Nat)))

/-- |x| modulo a quarter turn, and the number of quarter turns, in 512 fraction bits. -/
def quadrant (m : Nat) (e : Int) : Nat × Nat :=
  let a := if -512 ≤ e then m * 2 ^ (e + 512).toNat else m / 2 ^ (-(e + 512)).toNat
  let h := piFix / 2
  (a % h, a / h)

/-- Sine of m x 2^e with 512 fraction bits, and by how many units it may be wrong. -/
def sinFix (m : Nat) (e : Int) (quarter : Nat) : Int × Int :=
  let (r, q) := quadrant m e
  let r2 := r * r / 2 ^ 512
  let s := trigTerms r2 80 2 r
  let c := trigTerms r2 80 1 (2 ^ 512)
  (match (q + quarter) % 4 with
    | 0 => s
    | 1 => c
    | 2 => -s
    | _ => -c, 2 * q + 2 ^ 10)

/-- An ulp of a value in a format, as an exponent of two, its subnormal range included (R209). -/
def Fmt.ulpExp (f : Fmt) (x : Ext) : Int :=
  match x with
  | .fin _ m e => max (if m = 0 then f.emin else log2Of m e) f.emin - f.mb
  | _ => f.emin - f.mb

/-- The candidate where it satisfies the bound, else the value nearest to a reference. It is inexact; OF follows the
reference's size, and UF whether the true value is below the normal range (R210; 04 R90). -/
def nearRef (f : Fmt) (fn : ElemFn) (operand : Nat) (ref : Ext) (within : Ext → Bool) (tiny : Bool) : Coded :=
  let cand := (Config.elemCandidate fn.num (BitVec.ofNat 64 operand)).toNat % 2 ^ f.bits
  let c := f.decode cand
  let (n, fl) := f.encode rmN ref
  (if !c.isNan && !c.isInf && within c then cand else n, flNX ||| (fl &&& flOF) ||| (if tiny then flUF else 0))

/-- The same for a true value between lo and hi, with the error at most tol. -/
def nearIn (f : Fmt) (fn : ElemFn) (operand : Nat) (lo hi tol : Ext) : Coded :=
  let dist := fun (c x : Ext) => ((c.add rmN x.negate).1).abs
  nearRef f fn operand lo (fun c => (dist c lo).le tol && (dist c hi).le tol)
    (lo.abs.lt (.fin false 1 f.emin) && hi.abs.lt (.fin false 1 f.emin))

/-- k ulp of a reference. -/
def Fmt.ulps (f : Fmt) (k : Nat) (ref : Ext) : Ext := .fin false k (f.ulpExp ref)

/-- m is a power of two. -/
def isPow2 (m : Nat) : Bool := m == 2 ^ Nat.log2 m

/-- The reciprocal square root: exact for an even power of two, error below 1 ulp. -/
def fpRsqrt (f : Fmt) (fn : ElemFn) (a : Nat) : Coded :=
  match f.decode a with
  | .nan s => (f.nanCode, if s then flNV else 0)
  | .inf n => if n then (f.nanCode, flNV) else (0, 0)
  | .fin n m e =>
    if m = 0 then (f.signBit n + f.infCode, flDZ)
    else if n then (f.nanCode, flNV)
    else if isPow2 m && log2Of m e % 2 == 0 then f.encode rmN (.fin false 1 (-(log2Of m e / 2)))
    else
      let (r, re) := rootOf m e
      let ref := Ext.quot false 1 0 false r re
      let one : Ext := .fin false 1 0
      let sq := fun (x : Ext) => ((x.mul x).1.mul (.fin false m e)).1
      let ulp := f.ulps 1 ref
      nearRef f fn a ref (fun c =>
        let lo := (c.add rmN ulp.negate).1
        let hi := (c.add rmN ulp).1
        (Ext.zero false).lt hi && one.lt (sq hi) && (lo.le (Ext.zero false) || (sq lo).lt one)) false

/-- The value as an integer, where it is one. -/
def Ext.int? : Ext → Option Int
  | .fin n m e =>
    let v : Option Nat := if 0 ≤ e then some (m * 2 ^ e.toNat)
      else if m % 2 ^ (-e).toNat = 0 then some (m / 2 ^ (-e).toNat) else none
    v.map fun x => if n then -(x : Int) else x
  | _ => none

/-- 2^a. -/
def fpExp2 (a : Nat) : Coded :=
  match fp32.decode a with
  | .nan s => (fp32.nanCode, if s then flNV else 0)
  | .inf n => (if n then 0 else fp32.infCode, 0)
  | .fin n m e =>
    let x : Ext := .fin n m e
    if (Ext.ofInt 128 0).le x then (fp32.infCode, flOF ||| flNX)
    else if x.lt (Ext.ofInt (-200) 0) then
      nearIn fp32 .exp2 a (.fin false 1 (-1000)) (.fin false 1 (-200)) (.fin false 2 (-149))
    else match x.int? with
      | some k => if -149 ≤ k then fp32.encode rmN (.fin false 1 k)
        else nearIn fp32 .exp2 a (.fin false 1 k) (.fin false 1 k) (.fin false 2 (-149))
      | none =>
        let k := (-e).toNat
        let v := scaled n m e e
        let fl := v / (2 ^ k : Nat)
        let fr := (v % (2 ^ k : Nat)).toNat
        let y := exp2Fix (fr * 2 ^ (512 - k))
        let lo : Ext := .fin false y (fl - 512)
        nearIn fp32 .exp2 a lo (.fin false (y + 2 ^ 10) (fl - 512)) (fp32.ulps 2 lo)

/-- log2 a. -/
def fpLog2 (a : Nat) : Coded :=
  match fp32.decode a with
  | .nan s => (fp32.nanCode, if s then flNV else 0)
  | .inf n => if n then (fp32.nanCode, flNV) else (fp32.infCode, 0)
  | .fin n m e =>
    if m = 0 then (fp32.signBit true + fp32.infCode, flDZ)
    else if n then (fp32.nanCode, flNV)
    else
      let k := log2Of m e
      if isPow2 m then fp32.encode rmN (Ext.ofInt k 0)
      else
        let y := log2Fix m (Nat.log2 m)
        let lo := Ext.ofInt (k * 2 ^ 512 + y - 2 ^ 11) (-512)
        let hi := Ext.ofInt (k * 2 ^ 512 + y + 2 ^ 11) (-512)
        let near : Bool := (Ext.fin false 1 (-1)).le (.fin false m e)
          && (Ext.fin false m e).le (.fin false 2 0)
        nearIn fp32 .log2 a lo hi (if near then .fin false 1 (-22) else fp32.ulps 2 lo)

/-- Sine of a, in radians. -/
def fpSin (a : Nat) : Coded :=
  match fp32.decode a with
  | .nan s => (fp32.nanCode, if s then flNV else 0)
  | .inf _ => (fp32.nanCode, flNV)
  | .fin n m e =>
    if m = 0 then (fp32.signBit n, 0)
    else
      let (s, d) := sinFix m e 0
      let v := if n then -s else s
      nearIn fp32 .sin a (Ext.ofInt (v - d) (-512)) (Ext.ofInt (v + d) (-512)) (.fin false 1 (-23))

/-- Cosine of a, in radians. -/
def fpCos (a : Nat) : Coded :=
  match fp32.decode a with
  | .nan s => (fp32.nanCode, if s then flNV else 0)
  | .inf _ => (fp32.nanCode, flNV)
  | .fin _ m e =>
    if m = 0 then fp32.encode rmN (.fin false 1 0)
    else
      let (c, d) := sinFix m e 1
      nearIn fp32 .cos a (Ext.ofInt (c - d) (-512)) (Ext.ofInt (c + d) (-512)) (.fin false 1 (-23))

end Sys2Proof.Machine
end

