-- ==== Sys2Proof/Machine/Fetch.lean ====
section
/-!
DEFINITION. The read-only fetch unit (06 R153 to R157), the Fennel cache (R158 to R161) and the metadata
load (R163), with the steps in which their results are written and rows are scanned ahead.
-/

namespace Sys2Proof.Machine

-- Shared --------------------------------------------------------------------------------------

/-- A fault of an engine read stops the instruction. -/
def orStop {α : Type} (x : Except (Nat × Nat) α) : Except Stop α :=
  match x with
  | .ok a => .ok a
  | .error f => .error (faultStop f 0)

/-- Codes of elements at indices through a cache: any fault decides before anything is read. -/
def State.fetchElems (s : State) (g ctx : Nat) (k : RCache) (h : Layout) (idx : List Int) :
    State × Except (Nat × Nat) (List Nat) :=
  let r := s.elemsPieces (coreUnit g) ctx .rd h idx
  match decidingFault (r.2.flatMap (·.2)) with
  | some f => (r.1, .error f)
  | none =>
    r.2.foldl (fun (a : State × Except (Nat × Nat) (List Nat)) (p : Int × List XPiece) =>
      match a.2 with
      | .error _ => a
      | .ok xs =>
        let q := a.1.cachedPieces (coreOf g) ctx k (targets p.2)
        (q.1, .ok (xs ++ [h.codeOf p.1 q.2]))) (r.1, .ok [])

/-- Integer element codes of at most 32 bits. -/
def etInt (et : Nat) : Bool := 1 ≤ et && et ≤ 6

/-- Floating-point element codes the fetch unit decodes. -/
def etFloat (et : Nat) : Bool := et == 0x10 || et == 0x11 || et == 0x12 || et == 0x20

/-- FP32 of an element's code, exactly; a NaN gives the canonical NaN. -/
def toF32 (et : Nat) (fmtw : BitVec 16) (c : Nat) : Word := BitVec.ofNat 32 (fp32.encode rmN (etValue et fmtw c)).1

/-- An integer element's code extended to 32 bits. -/
def toI32 (et c : Nat) : Word :=
  match (etValue et 0 c).int? with
  | some x => BitVec.ofInt 32 x
  | none => 0

-- hfetch --------------------------------------------------------------------------------------

/-- The refusals of a handle by hfetch (R155). -/
def fetchRefuses (form : Nat) (o : Option Layout) : Option Layout :=
  match o with
  | none => none
  | some h =>
    let okCode := if form = 2 then etInt h.etype else etFloat h.etype || isMx h.etype
    if okCode && !(h.sideKind == 4 && isMx h.etype) && (h.sideKind == 0 || h.sideKind == 4) then some h else none

/-- Elements of a block: 64 of 16 bits for .bf16, else 32. -/
def fetchN (form : Nat) : Nat := if form = 1 then 64 else 32

/-- The entries of compressed blocks for positions i to i + n - 1 of row r: none where an entry lies beyond
the side array (R156). Each is its address. -/
def blockEntries (h : Layout) (r i n : Nat) : Option (List Nat) :=
  let e := h.rowElems
  let per := (e + 31) / 32
  let qs := (List.range ((min (i + n) e + 31) / 32 - i / 32)).map (i / 32 + ·)
  if qs.any fun q => h.sideBytes < 8 * (r * per + q) + 8 then none
  else some (qs.map fun q => (h.sideVa + 8 * (r * per + q)) % 2 ^ 64)

/-- Bytes at addresses of 8 bytes each, through a cache. -/
def State.cachedWords (s : State) (g ctx : Nat) (k : RCache) : List Nat → State × Except (Nat × Nat) (List DWord)
  | [] => (s, .ok [])
  | va :: t =>
    let r := s.cachedVa g ctx k va 8
    match r.2 with
    | .error f => (r.1, .error f)
    | .ok bs =>
      let q := r.1.cachedWords g ctx k t
      (q.1, match q.2 with
        | .error f => .error f
        | .ok xs => .ok (BitVec.ofNat 64 (leVal bs) :: xs))

/-- Presence of position x within a row of compressed blocks, and its element index (R156). -/
def blockIndex (entries : List DWord) (first x : Nat) : Option Int :=
  match entries[x / 32 - first / 32]? with
  | none => none
  | some w =>
    let p : Word := w.setWidth 32
    let k := x % 32
    if bit p k then
      some ((w.toNat / 2 ^ 32 : Nat) + (countBits (p &&& BitVec.ofNat 32 (2 ^ k - 1)) : Nat))
    else none

/-- Where the elements of a block lie: an index for each of n positions, none for a zero. -/
def State.blockPlaces (s : State) (g ctx : Nat) (h : Layout) (r i n : Nat) :
    State × Except Stop (List (Option Int)) :=
  let e := h.rowElems
  if h.sideKind = 4 then
    match blockEntries h r i n with
    | none => (s, .error (tr cFetch))
    | some vas =>
      let q := s.cachedWords g ctx .fetch vas
      (q.1, match q.2 with
        | .error f => .error (faultStop f 0)
        | .ok ws => .ok ((List.range n).map fun k => if i + k < e then blockIndex ws i (i + k) else none))
  else (s, .ok ((List.range n).map fun k => if i + k < e then some (h.index r (i + k)) else none))

/-- The codes of a block: none for a zero. -/
def State.blockCodes (s : State) (g ctx : Nat) (h : Layout) (r i n : Nat) :
    State × Except Stop (List (Option Nat)) :=
  let p := s.blockPlaces g ctx h r i n
  match p.2 with
  | .error e => (p.1, .error e)
  | .ok places =>
    let q := p.1.fetchElems g ctx .fetch h (places.filterMap (·))
    match q.2 with
    | .error f => (q.1, .error (faultStop f 0))
    | .ok xs =>
      (q.1, .ok ((places.foldl (fun (a : List (Option Nat) × List Nat) o =>
        match o, a.2 with
        | some _, x :: t => (a.1 ++ [some x], t)
        | _, l => (a.1 ++ [none], l)) ([], xs)).1))

/-- The lane word of a block (R154). -/
def fetchWord (form : Nat) (h : Layout) (codes : List (Option Nat)) (l : Nat) : Word :=
  let half := fun (k : Nat) => match codes.getD k none with
    | some c => (bf16.encode rmN (etValue h.etype h.fmtw c)).1
    | none => 0
  if form = 1 then BitVec.ofNat 32 (half (2 * l) + 65536 * half (2 * l + 1))
  else match codes.getD l none with
    | some c => if form = 2 then toI32 h.etype c else toF32 h.etype h.fmtw c
    | none => 0

/-- A coordinate out of range (R155). -/
def fetchRange (h : Layout) (n r i : Nat) : Bool := h.rows ≤ r || i % n != 0 || h.rowElems ≤ i

/-- hfetch (R153 to R157). -/
def execHfetch (h : Hdr) (d : Dst) (a : Src) (slot : BitVec 5) (form : BitVec 2) : State → Out :=
  issue h 8 fun c s =>
    match c.opStop [(d, .w32)] [] with
    | some st => .error st
    | none =>
      match fetchRefuses form.toNat (c.gr.handle slot.toNat) with
      | none => .error (tr cHandle)
      | some hd =>
        if (c.acting h).isEmpty then .ok (s.doneNow c h)
        else if s.acqPending c.ag then .error .hold
        else
          let x := c.scalar a
          let r := x.toNat / 2 ^ 32
          let i := x.toNat % 2 ^ 32
          let n := fetchN form.toNat
          if fetchRange hd n r i then .error (tr cFetch)
          else
            let q := s.blockCodes c.g c.gr.ctx hd r i n
            match q.2 with
            | .error e => .error e
            | .ok codes =>
              .ok (q.1.addOp ⟨0, c.ag, c.pc, 4, .ready 1, (c.acting h).map (fun l =>
                ⟨l, 0, .sys 0, false, (fetchWord form.toNat hd codes l).setWidth 128⟩),
                if h.nw then none else some d, hdrFlag h, [], c.active h, none, false, 0, none, false, [], false⟩)

/-- hfetch.pf warms the fetch cache and drops silently what cannot be reached (R155). -/
def execHfetchPf (h : Hdr) (a : Src) (slot : BitVec 5) (form : BitVec 2) : State → Out :=
  issue h 8 fun c s =>
    match fetchRefuses form.toNat (c.gr.handle slot.toNat) with
    | none => .error (tr cHandle)
    | some hd =>
      let x := c.scalar a
      let r := x.toNat / 2 ^ 32
      let i := x.toNat % 2 ^ 32
      let n := fetchN form.toNat
      if (c.acting h).isEmpty || fetchRange hd n r i then .ok (s.doneNow c h)
      else .ok ((s.blockCodes c.g c.gr.ctx hd r i n).1.doneNow c h)

/-- HFETCH_COMPLETE: lanes of a fetched block are written (R157). -/
def execHfetchComplete (id : Nat) (mask : BitVec 32) (s : State) : Out :=
  s.completeLanes (fun k => match k with | .ready f => f == 1 | _ => false) id mask

-- The Fennel cache ----------------------------------------------------------------------------

/-- Row pointer k through the Fennel cache. -/
def State.rowPtr (s : State) (g ctx : Nat) (h : Layout) (k : Nat) : State × Except (Nat × Nat) Nat :=
  let r := s.cachedVa g ctx .fennel ((h.sideVa + k * h.ptrBytes) % 2 ^ 64) h.ptrBytes
  (r.1, match r.2 with
    | .ok bs => .ok (leVal bs)
    | .error f => .error f)

/-- The pointers of row r: p(r) and p(r+1). -/
def State.rowPtrs (s : State) (g ctx : Nat) (h : Layout) (r : Nat) : State × Except (Nat × Nat) (Nat × Nat) :=
  let a := s.rowPtr g ctx h r
  match a.2 with
  | .error f => (a.1, .error f)
  | .ok x =>
    let b := a.1.rowPtr g ctx h (r + 1)
    (b.1, match b.2 with
      | .error f => .error f
      | .ok y => .ok (x, y))

/-- The refusals of a handle by fibld (R159). -/
def fibRefuses (kind : Nat) (o : Option Layout) : Option Layout :=
  match o with
  | none => none
  | some h =>
    if (etInt h.etype || etFloat h.etype) && h.rank == 2 && h.sideKind == 3 && (kind != 1 || h.elemBits == 32)
    then some h else none

/-- The word of an entry (R159). -/
def fibWord (kind : Nat) (h : Layout) (c : Nat) : Word :=
  if kind = 1 then BitVec.ofNat 32 c
  else if etInt h.etype then toI32 h.etype c else toF32 h.etype h.fmtw c

/-- A negative-length row is noted (R158). -/
def State.rowNeg (s : State) (g : Nat) : State := s.modGrp g fun gr => { gr with spst := gr.spst ||| 2 }

/-- A fibld of the next scheduled row advances the schedule (R160). -/
def State.schedTaken (s : State) (g slot r : Nat) : State :=
  s.modGrp g fun gr => match gr.sched with
    | x :: t => if x == (slot, r) then { gr with sched := t } else gr
    | [] => gr

/-- fibld (R159). -/
def execFibld (h : Hdr) (d : Dst) (a : Src) (slot : BitVec 5) (form : BitVec 2) : State → Out :=
  let kind := form.toNat
  issue h 8 fun c s =>
    match c.opStop [(d, .w32)] [] with
    | some st => .error st
    | none =>
      match fibRefuses kind (c.gr.handle slot.toNat) with
      | none => .error (tr cHandle)
      | some hd =>
        let x := c.scalar a
        let r := x.toNat / 2 ^ 32
        let pos := x.toNat % 2 ^ 32
        if kind = 2 ∧ pos ≠ 0 then .error (tr cValue)
        else if (c.acting h).isEmpty then .ok (s.doneNow c h)
        else if s.acqPending c.ag then .error .hold
        else if hd.rowOut r then .error (tr cFetch)
        else
          let p := s.rowPtrs c.g c.gr.ctx hd r
          match p.2 with
          | .error f => .error (faultStop f 0)
          | .ok (lo, hi) =>
            if hi < lo && hd.strict then .error (tr cSparse)
            else
              let s := if hi < lo then p.1.rowNeg c.g else p.1
              let len := hi - lo
              let s := s.schedTaken c.g slot.toNat r
              let want := (c.acting h).filter fun l => kind != 2 && pos + l < len
              let q := s.fetchElems c.g c.gr.ctx .fennel hd (want.map fun l => hd.entry (lo + pos + l))
              match q.2 with
              | .error f => .error (faultStop f 0)
              | .ok codes =>
                let word := fun l => if kind = 2 then BitVec.ofNat 32 (min len 0xffffffff)
                  else match ((want.zip codes).find? fun z => z.1 == l) with
                    | some z => fibWord kind hd z.2
                    | none => 0
                .ok (q.1.addOp ⟨0, c.ag, c.pc, 4, .ready 2, (c.acting h).map (fun l =>
                  ⟨l, 0, .sys 0, false, (word l).setWidth 128⟩),
                  if h.nw then none else some d, hdrFlag h, [], c.active h, none, false, 0, none, false, [], false⟩)

/-- FIBLD_COMPLETE: lanes of a fibre are written (R159). -/
def execFibldComplete (id : Nat) (mask : BitVec 32) (s : State) : Out :=
  s.completeLanes (fun k => match k with | .ready f => f == 2 | _ => false) id mask

/-- rowscan and rowscan.ind (R160). -/
def execRowscan (h : Hdr) (ht : BitVec 5) (ind : Bool) (a b : Src) (hs : BitVec 5) : State → Out :=
  issue h 8 fun c s =>
    let first := (c.scalar a).toNat
    let count := (c.scalar b).toNat
    if 65536 < count then .error (tr cValue)
    else
      let okS := match c.gr.handle hs.toNat with
        | some x => x.sideKind == 3 && (!ind || x.etype == 5 || x.etype == 6)
        | none => false
      let okT := !ind || (match c.gr.handle ht.toNat with | some x => x.sideKind == 3 | none => false)
      if !(okS && okT) then .error (tr cHandle)
      else if count = 0 then .ok (s.doneNow c h)
      else
        let job := (hs.toNat, first, count, if ind then some ht.toNat else none)
        .ok ((s.modGrp c.g fun gr => { gr with scan := gr.scan ++ [job] }).doneNow c h)

/-- Rows join the schedule up to its 8,192 (R160). -/
def Group.schedule (gr : Group) (rows : List (Nat × Nat)) : Group :=
  { gr with sched := gr.sched ++ rows.take (8192 - gr.sched.length) }

/-- The rows that one scanned row names, and whether the scan goes on (R160). -/
def State.scanRow (s : State) (g ctx : Nat) (gr : Group) (hs row : Nat) (ht : Option Nat) :
    State × List (Nat × Nat) × Bool :=
  match gr.handle hs with
  | none => (s, [], false)
  | some h =>
    if h.rowOut row then (s, [], false)
    else
      let p := s.rowPtrs g ctx h row
      match p.2 with
      | .error _ => (p.1, [], false)
      | .ok (lo, hi) =>
        if hi < lo then (p.1, [], false)
        else match ht with
          | none => (p.1, [(hs, row)], true)
          | some t =>
            match gr.handle t with
            | none => (p.1, [], false)
            | some h2 =>
              let q := p.1.cachedElems g ctx .fennel h (· < h2.rows) ((List.range (hi - lo)).map fun k => h.entry (lo + k))
              (q.1, q.2.1.map fun x => (t, x), q.2.2)

/-- ROWSCAN_READ_AHEAD: the engine takes the next row of the oldest scan (R160). -/
def execRowscanReadAhead (g : Nat) (s : State) : Out :=
  match s.grp g with
  | none => notNow s
  | some gr =>
    match gr.scan with
    | [] => notNow s
    | (hs, row, n, ht) :: rest =>
      let r := s.scanRow g gr.ctx gr hs row ht
      .next (r.1.modGrp g fun gr =>
        { gr.schedule r.2.1 with scan := if !r.2.2 || n ≤ 1 then rest else (hs, row + 1, n - 1, ht) :: rest })

/-- The indices of a handle's entries: those of its rows' fibres, or its compressed blocks' present elements, or all its
elements. Pointers and blocks are read from memory (log entry 34). -/
def State.entryIdx (s : State) (g ctx : Nat) (h : Layout) : List Int :=
  let rows := List.range h.rows
  let s := (s.modCore (coreOf g) fun k => { k with fen := [] }).modCluster (clusterOf (coreOf g)) fun k => { k with fc := [] }
  if h.sideKind = 3 then
    rows.flatMap fun r => match (if h.rowOut r then .error (0, 0) else (s.rowPtrs g ctx h r).2) with
      | .ok (lo, hi) => (List.range (hi - lo)).map fun k => h.entry (lo + k)
      | .error _ => []
  else if h.sideKind = 4 then
    rows.flatMap fun r => match (s.blockPlaces g ctx h r 0 h.rowElems).2 with
      | .ok l => l.filterMap (·)
      | .error _ => []
  else rows.flatMap fun r => (List.range h.rowElems).map fun i => h.index r i

/-- The lines of a context in a cache that hold none of some runs of bytes. -/
def linesWithout (ctx line : Nat) (runs : List (Tgt × Nat)) (l : List CLine) : List CLine :=
  l.filter fun x => x.ctx != ctx || runs.all fun t => match t.1 with
    | .dram a => !(x.addr < a + t.2 && a < x.addr + line)
    | _ => true

/-- fibinv (R161): the lines that hold bytes of the handle's entries or side array leave the core's Fennel cache, with .fc
also the cluster's fetch cache and the core's metadata cache, and the handle's rows leave the schedule. -/
def execFibinv (h : Hdr) (slot : BitVec 5) (fc : Bool) : State → Out :=
  control h fun c s =>
    match c.gr.handle slot.toNat with
    | none => .error (tr cHandle)
    | some hd =>
      let ctx := c.gr.ctx
      let runs := s.elemRuns c.g ctx hd (s.entryIdx c.g ctx hd) ++ s.vaRuns c.g ctx hd.sideVa hd.sideBytes
      let s := s.modCore c.core fun k =>
        { k with fen := linesWithout ctx 128 runs k.fen, mdc := if fc then linesWithout ctx 64 runs k.mdc else k.mdc }
      let s := if fc then s.modCluster (clusterOf c.core) fun k => { k with fc := linesWithout ctx 128 runs k.fc } else s
      .ok (s.modGrp c.g fun gr =>
        { gr with sched := gr.sched.filter fun x => x.1 != slot.toNat,
                  scan := gr.scan.filter fun x => x.1 != slot.toNat })

/-- mdld (R163). -/
def execMdld (h : Hdr) (d : Dst) (a : Src) (slot : BitVec 5) : State → Out :=
  control h fun c s =>
    match c.gr.handle slot.toNat with
    | none => .error (tr cHandle)
    | some hd =>
      let k := (c.scalar a).toNat
      if hd.sideKind != 1 && hd.sideKind != 2 then .error (tr cHandle)
      else if s.acqPending c.ag then .error .hold
      else if hd.sideBytes < 8 * k + 8 then .error (tr cFetch)
      else
        let r := s.cachedVa c.g c.gr.ctx .metadata ((hd.sideVa + 8 * k) % 2 ^ 64) 8
        match r.2 with
        | .error f => .error (faultStop f 0)
        | .ok bs => .ok (if h.nw then r.1 else r.1.setScalar c d (BitVec.ofNat 64 (leVal bs)))

end Sys2Proof.Machine
end

