-- ==== Sys2Proof/Machine/FpLane.lean ====
section
/-!
DEFINITION. Floating-point arithmetic of the lane stream (08 R207 to R210): one definition per point
and word length.
-/

namespace Sys2Proof.Machine

/-- add.f32 (08 R207). -/
def execAddF32 (h : Hdr) (rnd : BitVec 2) (d : Dst) (a b : Src) : State → Out :=
  lane2 tFp extF (on32 (fpAdd fp32 rnd)) h 8 d a b

/-- add.f32 as a 32-bit word (02 R38). -/
def execAddF32W32 (dist : BitVec 2) (rnd : BitVec 2) (d : Dst) (a b : Src) : State → Out :=
  lane2 tFp extF (on32 (fpAdd fp32 rnd)) (hdr32 dist) 4 d a b

/-- add.f32 as a compact word, to nearest (02 R39). -/
def execAddF32C16 (d : Dst) (b : Src) : State → Out :=
  lane2 tFp extF (on32 (fpAdd fp32 rmN)) hdr16 2 d (srcA16 d) b

/-- sub.f32 (08 R207). -/
def execSubF32 (h : Hdr) (rnd : BitVec 2) (d : Dst) (a b : Src) : State → Out :=
  lane2 tFp extF (on32 (fpSub fp32 rnd)) h 8 d a b

/-- sub.f32 as a 32-bit word (02 R38). -/
def execSubF32W32 (dist : BitVec 2) (rnd : BitVec 2) (d : Dst) (a b : Src) : State → Out :=
  lane2 tFp extF (on32 (fpSub fp32 rnd)) (hdr32 dist) 4 d a b

/-- sub.f32 as a compact word, to nearest (02 R39). -/
def execSubF32C16 (d : Dst) (b : Src) : State → Out :=
  lane2 tFp extF (on32 (fpSub fp32 rmN)) hdr16 2 d (srcA16 d) b

/-- mul.f32 (08 R207). -/
def execMulF32 (h : Hdr) (rnd : BitVec 2) (d : Dst) (a b : Src) : State → Out :=
  lane2 tFp extF (on32 (fpMul fp32 rnd)) h 8 d a b

/-- mul.f32 as a 32-bit word (02 R38). -/
def execMulF32W32 (dist : BitVec 2) (rnd : BitVec 2) (d : Dst) (a b : Src) : State → Out :=
  lane2 tFp extF (on32 (fpMul fp32 rnd)) (hdr32 dist) 4 d a b

/-- mul.f32 as a compact word, to nearest (02 R39). -/
def execMulF32C16 (d : Dst) (b : Src) : State → Out :=
  lane2 tFp extF (on32 (fpMul fp32 rmN)) hdr16 2 d (srcA16 d) b

/-- min.f32 (08 R208). -/
def execMinF32 (h : Hdr) (d : Dst) (a b : Src) : State → Out :=
  lane2 tFp extN (on32 (fpMinMax fp32 false)) h 8 d a b

/-- min.f32 as a 32-bit word (02 R38). -/
def execMinF32W32 (dist : BitVec 2) (d : Dst) (a b : Src) : State → Out :=
  lane2 tFp extN (on32 (fpMinMax fp32 false)) (hdr32 dist) 4 d a b

/-- min.f32 as a compact word (02 R39). -/
def execMinF32C16 (d : Dst) (b : Src) : State → Out :=
  lane2 tFp extN (on32 (fpMinMax fp32 false)) hdr16 2 d (srcA16 d) b

/-- max.f32 (08 R208). -/
def execMaxF32 (h : Hdr) (d : Dst) (a b : Src) : State → Out :=
  lane2 tFp extN (on32 (fpMinMax fp32 true)) h 8 d a b

/-- max.f32 as a 32-bit word (02 R38). -/
def execMaxF32W32 (dist : BitVec 2) (d : Dst) (a b : Src) : State → Out :=
  lane2 tFp extN (on32 (fpMinMax fp32 true)) (hdr32 dist) 4 d a b

/-- max.f32 as a compact word (02 R39). -/
def execMaxF32C16 (d : Dst) (b : Src) : State → Out :=
  lane2 tFp extN (on32 (fpMinMax fp32 true)) hdr16 2 d (srcA16 d) b

/-- fma.f32 (08 R207). -/
def execFmaF32 (h : Hdr) (rnd : BitVec 2) (d : Dst) (a b c : Src) : State → Out :=
  lane3 tFp (on32x3 (fpFma fp32 false rnd)) h 8 d a b c

/-- fnma.f32 (08 R207). -/
def execFnmaF32 (h : Hdr) (rnd : BitVec 2) (d : Dst) (a b c : Src) : State → Out :=
  lane3 tFp (on32x3 (fpFma fp32 true rnd)) h 8 d a b c

/-- add.f16 (08 R207). -/
def execAddF16 (h : Hdr) (rnd : BitVec 2) (d : Dst) (a b : Src) : State → Out :=
  lane2 tFp extN (halves2 (fpAdd fp16 rnd)) h 8 d a b

/-- add.f16 as a 32-bit word (02 R38). -/
def execAddF16W32 (dist : BitVec 2) (rnd : BitVec 2) (d : Dst) (a b : Src) : State → Out :=
  lane2 tFp extN (halves2 (fpAdd fp16 rnd)) (hdr32 dist) 4 d a b

/-- sub.f16 (08 R207). -/
def execSubF16 (h : Hdr) (rnd : BitVec 2) (d : Dst) (a b : Src) : State → Out :=
  lane2 tFp extN (halves2 (fpSub fp16 rnd)) h 8 d a b

/-- sub.f16 as a 32-bit word (02 R38). -/
def execSubF16W32 (dist : BitVec 2) (rnd : BitVec 2) (d : Dst) (a b : Src) : State → Out :=
  lane2 tFp extN (halves2 (fpSub fp16 rnd)) (hdr32 dist) 4 d a b

/-- mul.f16 (08 R207). -/
def execMulF16 (h : Hdr) (rnd : BitVec 2) (d : Dst) (a b : Src) : State → Out :=
  lane2 tFp extN (halves2 (fpMul fp16 rnd)) h 8 d a b

/-- mul.f16 as a 32-bit word (02 R38). -/
def execMulF16W32 (dist : BitVec 2) (rnd : BitVec 2) (d : Dst) (a b : Src) : State → Out :=
  lane2 tFp extN (halves2 (fpMul fp16 rnd)) (hdr32 dist) 4 d a b

/-- min.f16 (08 R208). -/
def execMinF16 (h : Hdr) (d : Dst) (a b : Src) : State → Out :=
  lane2 tFp extN (halves2 (fpMinMax fp16 false)) h 8 d a b

/-- min.f16 as a 32-bit word (02 R38). -/
def execMinF16W32 (dist : BitVec 2) (d : Dst) (a b : Src) : State → Out :=
  lane2 tFp extN (halves2 (fpMinMax fp16 false)) (hdr32 dist) 4 d a b

/-- max.f16 (08 R208). -/
def execMaxF16 (h : Hdr) (d : Dst) (a b : Src) : State → Out :=
  lane2 tFp extN (halves2 (fpMinMax fp16 true)) h 8 d a b

/-- max.f16 as a 32-bit word (02 R38). -/
def execMaxF16W32 (dist : BitVec 2) (d : Dst) (a b : Src) : State → Out :=
  lane2 tFp extN (halves2 (fpMinMax fp16 true)) (hdr32 dist) 4 d a b

/-- fma.f16 (08 R207). -/
def execFmaF16 (h : Hdr) (rnd : BitVec 2) (d : Dst) (a b c : Src) : State → Out :=
  lane3 tFp (halves3 (fpFma fp16 false rnd)) h 8 d a b c

/-- fnma.f16 (08 R207). -/
def execFnmaF16 (h : Hdr) (rnd : BitVec 2) (d : Dst) (a b c : Src) : State → Out :=
  lane3 tFp (halves3 (fpFma fp16 true rnd)) h 8 d a b c

/-- add.bf16 (08 R207). -/
def execAddBf16 (h : Hdr) (rnd : BitVec 2) (d : Dst) (a b : Src) : State → Out :=
  lane2 tFp extN (halves2 (fpAdd bf16 rnd)) h 8 d a b

/-- add.bf16 as a 32-bit word (02 R38). -/
def execAddBf16W32 (dist : BitVec 2) (rnd : BitVec 2) (d : Dst) (a b : Src) : State → Out :=
  lane2 tFp extN (halves2 (fpAdd bf16 rnd)) (hdr32 dist) 4 d a b

/-- sub.bf16 (08 R207). -/
def execSubBf16 (h : Hdr) (rnd : BitVec 2) (d : Dst) (a b : Src) : State → Out :=
  lane2 tFp extN (halves2 (fpSub bf16 rnd)) h 8 d a b

/-- sub.bf16 as a 32-bit word (02 R38). -/
def execSubBf16W32 (dist : BitVec 2) (rnd : BitVec 2) (d : Dst) (a b : Src) : State → Out :=
  lane2 tFp extN (halves2 (fpSub bf16 rnd)) (hdr32 dist) 4 d a b

/-- mul.bf16 (08 R207). -/
def execMulBf16 (h : Hdr) (rnd : BitVec 2) (d : Dst) (a b : Src) : State → Out :=
  lane2 tFp extN (halves2 (fpMul bf16 rnd)) h 8 d a b

/-- mul.bf16 as a 32-bit word (02 R38). -/
def execMulBf16W32 (dist : BitVec 2) (rnd : BitVec 2) (d : Dst) (a b : Src) : State → Out :=
  lane2 tFp extN (halves2 (fpMul bf16 rnd)) (hdr32 dist) 4 d a b

/-- min.bf16 (08 R208). -/
def execMinBf16 (h : Hdr) (d : Dst) (a b : Src) : State → Out :=
  lane2 tFp extN (halves2 (fpMinMax bf16 false)) h 8 d a b

/-- min.bf16 as a 32-bit word (02 R38). -/
def execMinBf16W32 (dist : BitVec 2) (d : Dst) (a b : Src) : State → Out :=
  lane2 tFp extN (halves2 (fpMinMax bf16 false)) (hdr32 dist) 4 d a b

/-- max.bf16 (08 R208). -/
def execMaxBf16 (h : Hdr) (d : Dst) (a b : Src) : State → Out :=
  lane2 tFp extN (halves2 (fpMinMax bf16 true)) h 8 d a b

/-- max.bf16 as a 32-bit word (02 R38). -/
def execMaxBf16W32 (dist : BitVec 2) (d : Dst) (a b : Src) : State → Out :=
  lane2 tFp extN (halves2 (fpMinMax bf16 true)) (hdr32 dist) 4 d a b

/-- fma.bf16 (08 R207). -/
def execFmaBf16 (h : Hdr) (rnd : BitVec 2) (d : Dst) (a b c : Src) : State → Out :=
  lane3 tFp (halves3 (fpFma bf16 false rnd)) h 8 d a b c

/-- fnma.bf16 (08 R207). -/
def execFnmaBf16 (h : Hdr) (rnd : BitVec 2) (d : Dst) (a b c : Src) : State → Out :=
  lane3 tFp (halves3 (fpFma bf16 true rnd)) h 8 d a b c

/-- add.f64 (08 R207). -/
def execAddF64 (h : Hdr) (rnd : BitVec 2) (d : Dst) (a b : Src) : State → Out :=
  lane2x64 tFp64 (on64 (fpAdd fp64 rnd)) h 8 d a b

/-- add.f64 as a 32-bit word (02 R38). -/
def execAddF64W32 (dist : BitVec 2) (rnd : BitVec 2) (d : Dst) (a b : Src) : State → Out :=
  lane2x64 tFp64 (on64 (fpAdd fp64 rnd)) (hdr32 dist) 4 d a b

/-- sub.f64 (08 R207). -/
def execSubF64 (h : Hdr) (rnd : BitVec 2) (d : Dst) (a b : Src) : State → Out :=
  lane2x64 tFp64 (on64 (fpSub fp64 rnd)) h 8 d a b

/-- sub.f64 as a 32-bit word (02 R38). -/
def execSubF64W32 (dist : BitVec 2) (rnd : BitVec 2) (d : Dst) (a b : Src) : State → Out :=
  lane2x64 tFp64 (on64 (fpSub fp64 rnd)) (hdr32 dist) 4 d a b

/-- mul.f64 (08 R207). -/
def execMulF64 (h : Hdr) (rnd : BitVec 2) (d : Dst) (a b : Src) : State → Out :=
  lane2x64 tFp64 (on64 (fpMul fp64 rnd)) h 8 d a b

/-- mul.f64 as a 32-bit word (02 R38). -/
def execMulF64W32 (dist : BitVec 2) (rnd : BitVec 2) (d : Dst) (a b : Src) : State → Out :=
  lane2x64 tFp64 (on64 (fpMul fp64 rnd)) (hdr32 dist) 4 d a b

/-- min.f64 (08 R208). -/
def execMinF64 (h : Hdr) (d : Dst) (a b : Src) : State → Out :=
  lane2x64 tFp64 (on64 (fpMinMax fp64 false)) h 8 d a b

/-- min.f64 as a 32-bit word (02 R38). -/
def execMinF64W32 (dist : BitVec 2) (d : Dst) (a b : Src) : State → Out :=
  lane2x64 tFp64 (on64 (fpMinMax fp64 false)) (hdr32 dist) 4 d a b

/-- max.f64 (08 R208). -/
def execMaxF64 (h : Hdr) (d : Dst) (a b : Src) : State → Out :=
  lane2x64 tFp64 (on64 (fpMinMax fp64 true)) h 8 d a b

/-- max.f64 as a 32-bit word (02 R38). -/
def execMaxF64W32 (dist : BitVec 2) (d : Dst) (a b : Src) : State → Out :=
  lane2x64 tFp64 (on64 (fpMinMax fp64 true)) (hdr32 dist) 4 d a b

/-- fma.f64 (08 R207). -/
def execFmaF64 (h : Hdr) (rnd : BitVec 2) (d : Dst) (a b c : Src) : State → Out :=
  lane3x64 tFp64 (on64x3 (fpFma fp64 false rnd)) h 8 d a b c

/-- fnma.f64 (08 R207). -/
def execFnmaF64 (h : Hdr) (rnd : BitVec 2) (d : Dst) (a b c : Src) : State → Out :=
  lane3x64 tFp64 (on64x3 (fpFma fp64 true rnd)) h 8 d a b c

/-- rcp.f32 (08 R209). -/
def execRcpF32 (h : Hdr) (rnd : BitVec 2) (d : Dst) (a : Src) : State → Out :=
  lane1 tElem (onFn 32 (fpRcp fp32 rnd)) h 8 d a

/-- sqrt.f32 (08 R209). -/
def execSqrtF32 (h : Hdr) (rnd : BitVec 2) (d : Dst) (a : Src) : State → Out :=
  lane1 tElem (onFn 32 (fpSqrt fp32 rnd)) h 8 d a

/-- rsqrt.f32 (08 R209). -/
def execRsqrtF32 (h : Hdr) (d : Dst) (a : Src) : State → Out :=
  lane1 tElem (onFn 32 (fpRsqrt fp32 .rsqrt32)) h 8 d a

/-- exp2.f32 (08 R209). -/
def execExp2F32 (h : Hdr) (d : Dst) (a : Src) : State → Out :=
  lane1 tElem (onFn 32 fpExp2) h 8 d a

/-- log2.f32 (08 R209). -/
def execLog2F32 (h : Hdr) (d : Dst) (a : Src) : State → Out :=
  lane1 tElem (onFn 32 fpLog2) h 8 d a

/-- sin.f32 (08 R209). -/
def execSinF32 (h : Hdr) (d : Dst) (a : Src) : State → Out :=
  lane1 tElem (onFn 32 fpSin) h 8 d a

/-- cos.f32 (08 R209). -/
def execCosF32 (h : Hdr) (d : Dst) (a : Src) : State → Out :=
  lane1 tElem (onFn 32 fpCos) h 8 d a

/-- rcp.f64 (08 R209). -/
def execRcpF64 (h : Hdr) (rnd : BitVec 2) (d : Dst) (a : Src) : State → Out :=
  lane1x64 tElem64 (onFn 64 (fpRcp fp64 rnd)) h 8 d a

/-- sqrt.f64 (08 R209). -/
def execSqrtF64 (h : Hdr) (rnd : BitVec 2) (d : Dst) (a : Src) : State → Out :=
  lane1x64 tElem64 (onFn 64 (fpSqrt fp64 rnd)) h 8 d a

/-- rsqrt.f64 (08 R209). -/
def execRsqrtF64 (h : Hdr) (d : Dst) (a : Src) : State → Out :=
  lane1x64 tElem64 (onFn 64 (fpRsqrt fp64 .rsqrt64)) h 8 d a

end Sys2Proof.Machine
end

