-- ==== Sys2Proof/Machine/Interval.lean ====
section
/-!
DEFINITION. Interval arithmetic (04 R103 to R105; 09 R219 to R231, R235): operands as sets, exact
bounds, outward rounding, and the status bits and traps of IVST.
-/

namespace Sys2Proof.Machine

/-- An interval operand (04 R104, 09 R220). -/
inductive Iv where
  | nai
  | empty
  | iv (lo hi : Ext)
deriving DecidableEq, Repr

/-- What an interval point gives in one lane: result codes, status bits, a newly created empty
(ETRAP), an ill-formed operand or result (ITRAP). -/
structure IvOut where
  vals : List Nat
  fl : BitVec 6
  made : Bool
  bad : Bool
deriving DecidableEq, Repr

-- Bits of IVST (R221).
def ivUND : BitVec 6 := 0x01
def ivOVF : BitVec 6 := 0x02
def ivDOM : BitVec 6 := 0x04
def ivEMPTY : BitVec 6 := 0x08
def ivNAI : BitVec 6 := 0x10
def ivSPAWNF : BitVec 6 := 0x20

/-- The operand that two bound codes stand for (04 R104). -/
def ivRead (f : Fmt) (lo hi : Nat) : Iv :=
  let a := f.decode lo
  let b := f.decode hi
  if a.isNan || b.isNan then .nai
  else if a == .inf false && b == .inf true then .empty
  else if a.le b && !(a == .inf false) && !(b == .inf true) then .iv a b
  else .nai

/-- The canonical empty (04 R104). -/
def ivEmptyCodes (f : Fmt) : List Nat := [f.infCode, f.signBit true + f.infCode]
/-- The canonical NaI (R220). -/
def ivNaiCodes (f : Fmt) : List Nat := [f.nanCode, f.nanCode]

/-- A bound's code, rounded outward; zero is written as +0 (R223). -/
def ivBound (f : Fmt) (rm : Rm) (x : Ext) : Nat :=
  let c := (f.encode rm x).1
  if x.isZero || (f.decode c).isZero then 0 else c

/-- A finite bound that became infinite by rounding (R223). -/
def ivOver (f : Fmt) (rm : Rm) (x : Ext) : Bool := !x.isInf && (f.decode (ivBound f rm x)).isInf

/-- An exact set's bounds as a result. -/
def ivPut (f : Fmt) (lo hi : Ext) (fl : BitVec 6) : IvOut :=
  ⟨[ivBound f rmD lo, ivBound f rmU hi],
    fl ||| (if ivOver f rmD lo || ivOver f rmU hi then ivOVF else 0), false, false⟩

def ivNaiOut (f : Fmt) : IvOut := ⟨ivNaiCodes f, ivNAI, false, true⟩
def ivEmptyOut (f : Fmt) : IvOut := ⟨ivEmptyCodes f, 0, false, false⟩

/-- Empty from operands that are not (R225): EMPTY, with the other bits given. -/
def ivMadeOut (f : Fmt) (fl : BitVec 6) : IvOut := ⟨ivEmptyCodes f, ivEMPTY ||| fl, true, false⟩

def Iv.isNai : Iv → Bool
  | .nai => true
  | _ => false

/-- Exact sum of two bounds; infinities of opposite sign do not meet (R223). -/
def ivSum (a b : Ext) : Ext := (a.add rmN b).1

/-- Exact product of two bounds; 0 times an unbounded bound is 0. -/
def ivProd (a b : Ext) : Ext := if a.isZero || b.isZero then Ext.zero false else (a.mul b).1

def Ext.min2 (a b : Ext) : Ext := if b.lt a then b else a
def Ext.max2 (a b : Ext) : Ext := if a.lt b then b else a

/-- Bounds of the exact product set. -/
def ivProdSet (al ah bl bh : Ext) : Ext × Ext :=
  let p := ivProd al bl
  let q := ivProd al bh
  let r := ivProd ah bl
  let s := ivProd ah bh
  ((p.min2 q).min2 (r.min2 s), (p.max2 q).max2 (r.max2 s))

/-- Quotient of bounds, the divisor not zero: a finite number over an unbounded one is 0. -/
def ivQuot : Ext → Ext → Ext
  | .fin na ma ea, .fin nb mb eb => if ma = 0 then Ext.zero false else Ext.quot na ma ea nb mb eb
  | .inf a, y => .inf (a != y.neg)
  | _, _ => Ext.zero false

def ivAdd (f : Fmt) : Iv → Iv → IvOut
  | .nai, _ => ivNaiOut f
  | _, .nai => ivNaiOut f
  | .empty, _ => ivEmptyOut f
  | _, .empty => ivEmptyOut f
  | .iv al ah, .iv bl bh => ivPut f (ivSum al bl) (ivSum ah bh) 0

def Iv.negate : Iv → Iv
  | .iv l h => .iv h.negate l.negate
  | x => x

def ivSub (f : Fmt) (a b : Iv) : IvOut := ivAdd f a b.negate

def ivMul (f : Fmt) : Iv → Iv → IvOut
  | .nai, _ => ivNaiOut f
  | _, .nai => ivNaiOut f
  | .empty, _ => ivEmptyOut f
  | _, .empty => ivEmptyOut f
  | .iv al ah, .iv bl bh => let p := ivProdSet al ah bl bh; ivPut f p.1 p.2 0

def ivFma (f : Fmt) (a b c : Iv) : IvOut :=
  match a, b, c with
  | .iv al ah, .iv bl bh, .iv cl ch =>
    let p := ivProdSet al ah bl bh
    ivPut f (ivSum p.1 cl) (ivSum p.2 ch) 0
  | a, b, c => if a.isNai || b.isNai || c.isNai then ivNaiOut f else ivEmptyOut f

def extPos (x : Ext) : Bool := (Ext.zero false).lt x
def extNeg (x : Ext) : Bool := x.lt (Ext.zero false)

/-- x / y for a divisor above 0. -/
def ivDivPos (xl xh yl yh : Ext) : Ext × Ext :=
  (if extNeg xl then ivQuot xl yl else ivQuot xl yh,
   if extNeg xh then ivQuot xh yh else ivQuot xh yl)

/-- DOM where a divisor contains 0 (R225). -/
def ivZeroIn : Iv → BitVec 6
  | .iv yl yh => if extPos yl || extNeg yh then 0 else ivDOM
  | _ => 0

/-- Division (R225). DOM is the divisor's, whatever the dividend (log entry 13). -/
def ivDiv (f : Fmt) : Iv → Iv → IvOut
  | .nai, y => { ivNaiOut f with fl := ivNAI ||| ivZeroIn y }
  | _, .nai => ivNaiOut f
  | .empty, y => { ivEmptyOut f with fl := ivZeroIn y }
  | _, .empty => ivEmptyOut f
  | .iv xl xh, .iv yl yh =>
    if extPos yl then let q := ivDivPos xl xh yl yh; ivPut f q.1 q.2 0
    else if extNeg yh then
      let q := ivDivPos xh.negate xl.negate yh.negate yl.negate
      ivPut f q.1 q.2 0
    else if yl.isZero && yh.isZero then ivMadeOut f ivDOM
    else if xl.isZero && xh.isZero then ivPut f (Ext.zero false) (Ext.zero false) ivDOM
    else if !extPos xl && !extNeg xh then ivPut f (.inf true) (.inf false) ivDOM
    else if yh.isZero then
      (if extPos xl then ivPut f (.inf true) (ivQuot xl yl) ivDOM
       else ivPut f (ivQuot xh yl) (.inf false) ivDOM)
    else if yl.isZero then
      (if extPos xl then ivPut f (ivQuot xl yh) (.inf false) ivDOM
       else ivPut f (.inf true) (ivQuot xh yh) ivDOM)
    else ivPut f (.inf true) (.inf false) ivDOM

def ivSqr (f : Fmt) : Iv → IvOut
  | .nai => ivNaiOut f
  | .empty => ivEmptyOut f
  | .iv l h =>
    let p := ivProd l l
    let q := ivProd h h
    if extPos l then ivPut f p q 0
    else if extNeg h then ivPut f q p 0
    else ivPut f (Ext.zero false) (p.max2 q) 0

/-- The root of a bound that is not negative. -/
def ivRoot : Ext → Ext
  | .fin _ m e => if m = 0 then Ext.zero false else let r := rootOf m e; .fin false r.1 r.2
  | x => x

def ivSqrt (f : Fmt) : Iv → IvOut
  | .nai => ivNaiOut f
  | .empty => ivEmptyOut f
  | .iv l h =>
    if extNeg h then ivMadeOut f ivDOM
    else if extNeg l then ivPut f (Ext.zero false) (ivRoot h) ivDOM
    else ivPut f (ivRoot l) (ivRoot h) 0

def ivNeg (f : Fmt) : Iv → IvOut
  | .nai => ivNaiOut f
  | .empty => ivEmptyOut f
  | .iv l h => ivPut f h.negate l.negate 0

/-- hull (R227). -/
def ivHull (f : Fmt) : Iv → Iv → IvOut
  | .nai, _ => ivNaiOut f
  | _, .nai => ivNaiOut f
  | .empty, .empty => ivEmptyOut f
  | .empty, .iv l h => ivPut f l h 0
  | .iv l h, .empty => ivPut f l h 0
  | .iv al ah, .iv bl bh => ivPut f (al.min2 bl) (ah.max2 bh) 0

/-- isect (R227). -/
def ivIsect (f : Fmt) : Iv → Iv → IvOut
  | .nai, _ => ivNaiOut f
  | _, .nai => ivNaiOut f
  | .empty, _ => ivEmptyOut f
  | _, .empty => ivEmptyOut f
  | .iv al ah, .iv bl bh =>
    let l := al.max2 bl
    let h := ah.min2 bh
    if l.le h then ivPut f l h 0 else ivEmptyOut f

/-- The largest finite value of a format. -/
def fmtMax (f : Fmt) (neg : Bool) : Ext := f.decode (f.signBit neg + (f.infCode - 1))

/-- The midpoint's code, of an interval that is not empty (R228). -/
def ivMidCode (f : Fmt) : Ext → Ext → Nat
  | .inf _, .inf _ => 0
  | .inf _, _ => f.signBit true + (f.infCode - 1)
  | _, .inf _ => f.infCode - 1
  | l, h =>
    let m := ((l.add rmN h).1).scaleBy (-1)
    if m.isZero then 0
    else
      let c := (f.encode rmN m).1
      if (f.decode c).isZero then 0 else c

/-- mid (R228). -/
def ivMid (f : Fmt) : Iv → IvOut
  | .nai => ⟨[f.nanCode], ivNAI, false, true⟩
  | .empty => ⟨[f.nanCode], 0, false, false⟩
  | .iv l h => ⟨[ivMidCode f l h], 0, false, false⟩

/-- wid (R228). -/
def ivWid (f : Fmt) : Iv → IvOut
  | .nai => ⟨[f.nanCode], ivNAI, false, true⟩
  | .empty => ⟨[f.nanCode], 0, false, false⟩
  | .iv l h =>
    if l.isInf || h.isInf then ⟨[f.infCode], 0, false, false⟩
    else ⟨[ivBound f rmU (h.add rmN l.negate).1], 0, false, false⟩

/-- bisect: both halves, lower first (R229). -/
def ivBisect (f : Fmt) : Iv → IvOut
  | .nai => ⟨ivNaiCodes f ++ ivNaiCodes f, ivNAI, false, true⟩
  | .empty => ⟨ivEmptyCodes f ++ ivEmptyCodes f, 0, false, false⟩
  | .iv l h =>
    let m := ivMidCode f l h
    ⟨[ivBound f rmD l, m, m, ivBound f rmU h], 0, false, false⟩

/-- mkiv (R231). -/
def ivMake (f : Fmt) (a b : Nat) : IvOut :=
  match ivRead f a b with
  | .nai => ivNaiOut f
  | .empty => ivEmptyOut f
  | .iv l h => ivPut f l h 0

/-- A comparison of interval operands; t and u say when it is true and when false (R230). -/
def ivCmp (t n : Ext → Ext → Ext → Ext → Bool) : Iv → Iv → PCode × BitVec 6 × Bool
  | .nai, _ => (.u, ivNAI ||| ivUND, true)
  | _, .nai => (.u, ivNAI ||| ivUND, true)
  | .empty, _ => (.f, 0, false)
  | _, .empty => (.f, 0, false)
  | .iv al ah, .iv bl bh =>
    if t al ah bl bh then (.t, 0, false)
    else if n al ah bl bh then (.f, 0, false)
    else (.u, ivUND, false)

-- Operands and results ------------------------------------------------------------------------

/-- The two interval formats: FP32 bounds or FP64 bounds. -/
inductive IvTy where
  | i32
  | i64
deriving DecidableEq, Repr

def IvTy.fmt : IvTy → Fmt
  | .i32 => fp32
  | .i64 => fp64

def IvTy.wd : IvTy → Wd
  | .i32 => .iv32
  | .i64 => .iv64

/-- Width of a bound. -/
def IvTy.bnd : IvTy → Wd
  | .i32 => .w32
  | .i64 => .w64

/-- Lane l of an interval source (04 R103). -/
def IvTy.read (ty : IvTy) (ws : List Lanes) (l : Nat) : Iv :=
  match ty with
  | .i32 => ivRead fp32 (laneOf (ws.getD 0 []) l).toNat (laneOf (ws.getD 1 []) l).toNat
  | .i64 => ivRead fp64 (w64 ws l).toNat (w64 (ws.drop 2) l).toNat

/-- Result values as words of a lane. -/
def IvTy.words (ty : IvTy) (k : Nat) (o : Nat → IvOut) : List Lanes :=
  match ty with
  | .i32 => (List.range k).map fun i => mkLanes fun l => BitVec.ofNat 32 ((o l).vals.getD i 0)
  | .i64 => (List.range k).flatMap fun i =>
    [mkLanes fun l => BitVec.ofNat 32 ((o l).vals.getD i 0),
     mkLanes fun l => BitVec.ofNat 32 ((o l).vals.getD i 0 / 2 ^ 32)]

/-- The lowest lane that traps (R222): ETRAP for the arithmetic points, ITRAP for all. -/
def ICtx.ivTrap (c : ICtx) (arith : Bool) (m : BitVec 32) (o : Nat → IvOut) : Option Nat :=
  (maskLanes m).find? fun l => (bit c.wv.ivst 8 && arith && (o l).made) || (bit c.wv.ivst 9 && (o l).bad)

/-- An interval point that writes k values per lane; wide lists its destination registers for the
bounds check. -/
def ivPoint (ty : IvTy) (t : Timing) (arith : Bool) (k : Nat) (h : Hdr) (d : Dst)
    (ds : List (Dst × Wd)) (srcs : List SrcW) (f : (Nat → List Lanes) → Nat → IvOut) : State → Out :=
  laneFixed t h 8 ds srcs fun c m =>
    let ws := fun i => c.words extN srcs i
    let o := f ws
    match c.ivTrap arith m o with
    | some l => .error (.trap cInterval none l)
    | none => .ok (Res.lanes m d (ty.words k o) 0 (orFlags m fun l => (o l).fl))

def iv1 (ty : IvTy) (t : Timing) (arith : Bool) (f : Fmt → Iv → IvOut) (h : Hdr) (d : Dst) (a : Src) :
    State → Out :=
  ivPoint ty t arith 2 h d [(d, ty.wd)] [(a, ty.wd)] fun ws l => f ty.fmt (ty.read (ws 0) l)

def iv2 (ty : IvTy) (t : Timing) (arith : Bool) (f : Fmt → Iv → Iv → IvOut) (h : Hdr) (d : Dst)
    (a b : Src) : State → Out :=
  ivPoint ty t arith 2 h d [(d, ty.wd)] [(a, ty.wd), (b, ty.wd)] fun ws l =>
    f ty.fmt (ty.read (ws 0) l) (ty.read (ws 1) l)

def iv3 (ty : IvTy) (t : Timing) (f : Fmt → Iv → Iv → Iv → IvOut) (h : Hdr) (d : Dst)
    (a b e : Src) : State → Out :=
  ivPoint ty t true 2 h d [(d, ty.wd)] [(a, ty.wd), (b, ty.wd), (e, ty.wd)] fun ws l =>
    f ty.fmt (ty.read (ws 0) l) (ty.read (ws 1) l) (ty.read (ws 2) l)

/-- mid and wid: one number of the bound format. -/
def ivNum (ty : IvTy) (t : Timing) (f : Fmt → Iv → IvOut) (h : Hdr) (d : Dst) (a : Src) : State → Out :=
  ivPoint ty t false 1 h d [(d, ty.bnd)] [(a, ty.wd)] fun ws l => f ty.fmt (ty.read (ws 0) l)

/-- The registers of a bisect: four, or eight as two groups of four (R229). -/
def bisectDsts (ty : IvTy) (d : Dst) : List (Dst × Wd) :=
  match ty, d with
  | .i32, d => [(d, .iv64)]
  | .i64, .v n => [(.v n, .iv64), (.v (n + 4), .iv64)]
  | .i64, d => [(d, .iv64)]

def ivBis (ty : IvTy) (t : Timing) (h : Hdr) (d : Dst) (a : Src) : State → Out :=
  ivPoint ty t false 4 h d (bisectDsts ty d) [(a, ty.wd)] fun ws l => ivBisect ty.fmt (ty.read (ws 0) l)

/-- mkiv: two sources of the bound format. -/
def ivMk (ty : IvTy) (t : Timing) (h : Hdr) (d : Dst) (a b : Src) : State → Out :=
  ivPoint ty t false 2 h d [(d, ty.wd)] [(a, ty.bnd), (b, ty.bnd)] fun ws l =>
    match ty with
    | .i32 => ivMake fp32 (w32 (ws 0) l).toNat (w32 (ws 1) l).toNat
    | .i64 => ivMake fp64 (w64 (ws 0) l).toNat (w64 (ws 1) l).toNat

/-- A comparison into a predicate (R230). -/
def ivCmpP (ty : IvTy) (t : Timing) (tt ff : Ext → Ext → Ext → Ext → Bool) (h : Hdr) (p : BitVec 3)
    (a b : Src) : State → Out :=
  let srcs : List SrcW := [(a, ty.wd), (b, ty.wd)]
  laneFixed t h 8 [] srcs fun c m =>
    let x := c.words extN srcs 0
    let y := c.words extN srcs 1
    let r := fun l => ivCmp tt ff (ty.read x l) (ty.read y l)
    match (maskLanes m).find? fun l => bit c.wv.ivst 9 && (r l).2.2 with
    | some l => .error (.trap cInterval none l)
    | none => .ok (Res.pred m p.toNat (PVal.of fun l => (r l).1) 0 (orFlags m fun l => (r l).2.1))

-- The classes of R235.
def tIv : IvTy → Timing
  | .i32 => ⟨4, 2, .interval⟩
  | .i64 => ⟨8, 4, .interval⟩
def tIvMul : IvTy → Timing
  | .i32 => ⟨6, 2, .interval⟩
  | .i64 => ⟨10, 4, .interval⟩
def tIvDiv : IvTy → Timing
  | .i32 => ⟨20, 8, .interval⟩
  | .i64 => ⟨40, 32, .interval⟩

def cmpLtT (_ ah bl _ : Ext) : Bool := ah.lt bl
def cmpLtF (al _ _ bh : Ext) : Bool := bh.le al
def cmpLeT (_ ah bl _ : Ext) : Bool := ah.le bl
def cmpLeF (al _ _ bh : Ext) : Bool := bh.lt al
def cmpEqT (al ah bl bh : Ext) : Bool :=
  al.cmp ah == .eq && ah.cmp bl == .eq && bl.cmp bh == .eq
def cmpEqF (al ah bl bh : Ext) : Bool := ah.lt bl || bh.lt al

/-- add.iv32 (R224). -/
def execAddIv32 (h : Hdr) (d : Dst) (a b : Src) : State → Out :=
  iv2 .i32 (tIv .i32) true ivAdd h d a b

/-- sub.iv32 (R224). -/
def execSubIv32 (h : Hdr) (d : Dst) (a b : Src) : State → Out :=
  iv2 .i32 (tIv .i32) true ivSub h d a b

/-- mul.iv32 (R224). -/
def execMulIv32 (h : Hdr) (d : Dst) (a b : Src) : State → Out :=
  iv2 .i32 (tIvMul .i32) true ivMul h d a b

/-- div.iv32 (R224). -/
def execDivIv32 (h : Hdr) (d : Dst) (a b : Src) : State → Out :=
  iv2 .i32 (tIvDiv .i32) true ivDiv h d a b

/-- sqr.iv32 (R224). -/
def execSqrIv32 (h : Hdr) (d : Dst) (a : Src) : State → Out :=
  iv1 .i32 (tIvMul .i32) true ivSqr h d a

/-- sqrt.iv32 (R224). -/
def execSqrtIv32 (h : Hdr) (d : Dst) (a : Src) : State → Out :=
  iv1 .i32 (tIvDiv .i32) true ivSqrt h d a

/-- neg.iv32 (R224). -/
def execNegIv32 (h : Hdr) (d : Dst) (a : Src) : State → Out :=
  iv1 .i32 (tIv .i32) true ivNeg h d a

/-- fma.iv32 (R224). -/
def execFmaIv32 (h : Hdr) (d : Dst) (a b c : Src) : State → Out :=
  iv3 .i32 (tIvMul .i32) ivFma h d a b c

/-- hull.iv32 (R227). -/
def execHullIv32 (h : Hdr) (d : Dst) (a b : Src) : State → Out :=
  iv2 .i32 (tIv .i32) false ivHull h d a b

/-- isect.iv32 (R227). -/
def execIsectIv32 (h : Hdr) (d : Dst) (a b : Src) : State → Out :=
  iv2 .i32 (tIv .i32) false ivIsect h d a b

/-- mid.iv32 (R228). -/
def execMidIv32 (h : Hdr) (d : Dst) (a : Src) : State → Out :=
  ivNum .i32 (tIv .i32) ivMid h d a

/-- wid.iv32 (R228). -/
def execWidIv32 (h : Hdr) (d : Dst) (a : Src) : State → Out :=
  ivNum .i32 (tIv .i32) ivWid h d a

/-- bisect.iv32 (R229). -/
def execBisectIv32 (h : Hdr) (d : Dst) (a : Src) : State → Out :=
  ivBis .i32 (tIv .i32) h d a

/-- cmp.lt.iv32 (R230). -/
def execCmpLtIv32 (h : Hdr) (p : BitVec 3) (a b : Src) : State → Out :=
  ivCmpP .i32 (tIv .i32) cmpLtT cmpLtF h p a b

/-- cmp.le.iv32 (R230). -/
def execCmpLeIv32 (h : Hdr) (p : BitVec 3) (a b : Src) : State → Out :=
  ivCmpP .i32 (tIv .i32) cmpLeT cmpLeF h p a b

/-- cmp.eq.iv32 (R230). -/
def execCmpEqIv32 (h : Hdr) (p : BitVec 3) (a b : Src) : State → Out :=
  ivCmpP .i32 (tIv .i32) cmpEqT cmpEqF h p a b

/-- mkiv.iv32 (R231). -/
def execMkivIv32 (h : Hdr) (d : Dst) (a b : Src) : State → Out :=
  ivMk .i32 (tIv .i32) h d a b

/-- add.iv64 (R224). -/
def execAddIv64 (h : Hdr) (d : Dst) (a b : Src) : State → Out :=
  iv2 .i64 (tIv .i64) true ivAdd h d a b

/-- sub.iv64 (R224). -/
def execSubIv64 (h : Hdr) (d : Dst) (a b : Src) : State → Out :=
  iv2 .i64 (tIv .i64) true ivSub h d a b

/-- mul.iv64 (R224). -/
def execMulIv64 (h : Hdr) (d : Dst) (a b : Src) : State → Out :=
  iv2 .i64 (tIvMul .i64) true ivMul h d a b

/-- div.iv64 (R224). -/
def execDivIv64 (h : Hdr) (d : Dst) (a b : Src) : State → Out :=
  iv2 .i64 (tIvDiv .i64) true ivDiv h d a b

/-- sqr.iv64 (R224). -/
def execSqrIv64 (h : Hdr) (d : Dst) (a : Src) : State → Out :=
  iv1 .i64 (tIvMul .i64) true ivSqr h d a

/-- sqrt.iv64 (R224). -/
def execSqrtIv64 (h : Hdr) (d : Dst) (a : Src) : State → Out :=
  iv1 .i64 (tIvDiv .i64) true ivSqrt h d a

/-- neg.iv64 (R224). -/
def execNegIv64 (h : Hdr) (d : Dst) (a : Src) : State → Out :=
  iv1 .i64 (tIv .i64) true ivNeg h d a

/-- fma.iv64 (R224). -/
def execFmaIv64 (h : Hdr) (d : Dst) (a b c : Src) : State → Out :=
  iv3 .i64 (tIvMul .i64) ivFma h d a b c

/-- hull.iv64 (R227). -/
def execHullIv64 (h : Hdr) (d : Dst) (a b : Src) : State → Out :=
  iv2 .i64 (tIv .i64) false ivHull h d a b

/-- isect.iv64 (R227). -/
def execIsectIv64 (h : Hdr) (d : Dst) (a b : Src) : State → Out :=
  iv2 .i64 (tIv .i64) false ivIsect h d a b

/-- mid.iv64 (R228). -/
def execMidIv64 (h : Hdr) (d : Dst) (a : Src) : State → Out :=
  ivNum .i64 (tIv .i64) ivMid h d a

/-- wid.iv64 (R228). -/
def execWidIv64 (h : Hdr) (d : Dst) (a : Src) : State → Out :=
  ivNum .i64 (tIv .i64) ivWid h d a

/-- bisect.iv64 (R229). -/
def execBisectIv64 (h : Hdr) (d : Dst) (a : Src) : State → Out :=
  ivBis .i64 (tIv .i64) h d a

/-- cmp.lt.iv64 (R230). -/
def execCmpLtIv64 (h : Hdr) (p : BitVec 3) (a b : Src) : State → Out :=
  ivCmpP .i64 (tIv .i64) cmpLtT cmpLtF h p a b

/-- cmp.le.iv64 (R230). -/
def execCmpLeIv64 (h : Hdr) (p : BitVec 3) (a b : Src) : State → Out :=
  ivCmpP .i64 (tIv .i64) cmpLeT cmpLeF h p a b

/-- cmp.eq.iv64 (R230). -/
def execCmpEqIv64 (h : Hdr) (p : BitVec 3) (a b : Src) : State → Out :=
  ivCmpP .i64 (tIv .i64) cmpEqT cmpEqF h p a b

/-- mkiv.iv64 (R231). -/
def execMkivIv64 (h : Hdr) (d : Dst) (a b : Src) : State → Out :=
  ivMk .i64 (tIv .i64) h d a b

end Sys2Proof.Machine
end

