-- ==== Sys2Proof/Machine/Stream.lean ====
section
/-!
DEFINITION. Fetching an instruction: the instruction store's rows (15 R358), the word at a stream offset
(02 R31 to R33) and the dictionary entry that stands for a reference (02 R40).
-/

namespace Sys2Proof.Machine

/-- The row of the instruction store that holds row idx of a stream of a group's variant. -/
def Core.row (k : Core) (gr : Group) (uni : Bool) (idx : Nat) : Option IRow :=
  k.rows.findSome? fun r => match r with
    | some x => if x.serves gr && x.uni == uni && x.idx == idx then some x else none
    | none => none

/-- Length of a group's stream. -/
def Group.streamLen (gr : Group) (uni : Bool) : Nat := if uni then gr.va.uLen else gr.va.lLen

/-- n bytes of a stream from offset o, which ends at len: none while a row is not filled. -/
def Core.streamBytes (k : Core) (gr : Group) (uni : Bool) (len : Nat) : Nat → Nat → Option (List Byte)
  | _, 0 => some []
  | o, n + 1 =>
    if len ≤ o then some []
    else
      match k.row gr uni (o / 4096) with
      | none => none
      | some r =>
        if r.filled then (k.streamBytes gr uni len (o + 1) n).map fun t => r.bytes.getD (o % 4096) 0 :: t
        else none

/-- The length in bytes of the word that begins with a byte (R31). -/
def wordLen (b : Byte) : Nat := if bit b 0 then (if bit b 1 then 8 else 4) else 2

/-- The cue nibble of the slot of a stream offset (R32). -/
def Core.cueAt (k : Core) (gr : Group) (uni : Bool) (o : Nat) : BitVec 4 :=
  match k.row gr uni (o / 4096) with
  | some r => r.cues.getD (o % 4096 / 8) 15
  | none => 15

/-- What stops a fetch of a byte whose row is not filled: the fault that its loading met, else it waits (R358). -/
def Core.fetchStop (k : Core) (gr : Group) (uni : Bool) (o : Nat) : Stop :=
  match (k.row gr uni (o / 4096)).bind fun r => r.fault with
  | some (cause, va) => .trap cause (some va) 0
  | none => .hold

/-- The length of the word that the halfword at an offset begins; none while its row is not filled. -/
def Core.lenAt (k : Core) (gr : Group) (uni : Bool) (o : Nat) : Option Nat :=
  (k.streamBytes gr uni (o + 1) o 1).map fun bs => match bs with | b :: _ => wordLen b | [] => 2

/-- Whether a word starts at an offset (R31, R32; 14 R336): the stream is words from its start on, so that an offset lies
inside a word when a 64-bit word starts at the start of its slot, or a 32-bit word two bytes before it. An error is the
offset of a byte that is not there yet. -/
def Core.wordStart (k : Core) (gr : Group) (uni : Bool) : Nat → Nat → Except Nat Bool
  | 0, _ => .ok true
  | fuel + 1, o =>
    let slot := o / 8 * 8
    let starts := fun (p n : Nat) => match k.lenAt gr uni p with
      | none => Except.error p
      | some x => if x = n then k.wordStart gr uni fuel p else .ok false
    if o = 0 then .ok true
    else
      match starts (o - 2) 4 with
      | .error p => .error p
      | .ok true => .ok false
      | .ok false =>
        if slot = o then .ok true
        else
          match starts slot 8 with
          | .error p => .error p
          | .ok b => .ok !b

/-- The instruction at an offset of a stream, or what stops its fetch: a row that is still being filled (R358), an offset
inside a word (14 R336), or a word that is none (R33). -/
def Core.fetch (k : Core) (gr : Group) (uni : Bool) (pc : Nat) : Except Stop Form :=
  let len := gr.streamLen uni
  match k.streamBytes gr uni len pc 2 with
  | none => .error (k.fetchStop gr uni pc)
  | some bs =>
    let n := match bs with | b :: _ => wordLen b | [] => 2
    match k.streamBytes gr uni len pc n with
    | none => .error (k.fetchStop gr uni (pc + n - 1))
    | some bs =>
      match if pc < len then k.wordStart gr uni (pc / 2 + 1) pc else .ok true with
      | .error o => .error (k.fetchStop gr uni o)
      | .ok false => .error (tr cEncoding)
      | .ok true =>
        match decode (if uni then .uniform else .lane) pc bs (k.cueAt gr uni pc) with
        | .ok (i, _) => .ok i
        | .error _ => .error (tr cEncoding)

/-- The entry of a dictionary with the DIST of its reference (R40). -/
def entryForm (uni : Bool) (e : DWord × BitVec 4 × BitVec 3) : Except Stop Form :=
  let w := (e.1 &&& 0xfff1ffffffffffff) ||| (e.2.2.setWidth 64 <<< 49)
  match decode64 (if uni then .uniform else .lane) w e.2.1 with
  | some i => .ok i
  | none => .error (tr cEncoding)

/-- A group runs only while its variant's dictionary is in a bank (02 R41): what stops it while none holds it. -/
def Core.dictStop (k : Core) (gr : Group) : Option Stop :=
  if gr.va.dict = 0 then none
  else
    match k.banks.findSome? fun b => match b with
      | some b => if b.serves gr then some b else none
      | none => none with
    | none => some .hold
    | some b =>
      match b.fault with
      | some (cause, va) => some (.trap cause (some va) 0)
      | none => if b.filled then none else some .hold

/-- The instruction that the chosen agent is to issue. -/
def State.chosen (s : State) (c : ICtx) (i : Issue) : Except Stop Form :=
  match i.entry with
  | some e => entryForm c.uni e
  | none =>
    match (s.core c.core).dictStop c.gr with
    | some st => .error st
    | none => (s.core c.core).fetch c.gr c.uni c.pc

end Sys2Proof.Machine
end

