-- ==== Sys2Proof/Machine/Matrix.lean ====
section
/-!
DEFINITION. The matrix engine (10 R237 to R259; 04 R106, R108, R109): tile configuration, transfers, weight
planes, passes, accumulator moves, the command queue, and the steps in which commands complete.
-/

namespace Sys2Proof.Machine

-- Values --------------------------------------------------------------------------------------

/-- BF16 subnormals are flushed to zero of their sign (R239). -/
def Ext.flushBf16 (v : Ext) : Ext :=
  match v with
  | .fin n m e => if m ≠ 0 ∧ log2Of m e < -126 then .fin n 0 0 else v
  | v => v

/-- A value taken into the array under R239, but for the split of f32. -/
def inputOf (et : Nat) (v : Ext) : Ext := if et = 0x11 then v.flushBf16 else v

/-- The nearest BF16 value, the largest finite one where that overflows (R239). -/
def nearBf16 (v : Ext) : Ext :=
  match bf16.decode (bf16.encode rmN v).1 with
  | .inf n => .fin n 255 120
  | x => x

/-- The three terms of R109, before flushing. -/
def split3 (v : Ext) : Ext × Ext × Ext :=
  match v with
  | .fin _ _ _ =>
    let h := nearBf16 v
    let r := (v.add rmN h.negate).1
    let m := nearBf16 r
    let l := nearBf16 (r.add rmN m.negate).1
    (h, m, l)
  | v => (v, .fin false 0 0, .fin false 0 0)

/-- The products a pair of operands contributes to the chain (R109, R239). -/
def products (x3 : Bool) (x y : Ext) : List Ext :=
  if !x3 then [(x.mul y).1]
  else
    let a := split3 x
    let b := split3 y
    let f := Ext.flushBf16
    let p := fun (u v : Ext) => ((f u).mul (f v)).1
    if x.isNan || x.isInf || y.isNan || y.isInf then [p a.1 b.1]
    else [p a.1 b.1, p a.1 b.2.1, p a.2.1 b.1, p a.1 b.2.2, p a.2.2 b.1, p a.2.1 b.2.1]

/-- A value rounded to an integer of a range: its code and whether it saturated or was a NaN. -/
def roundInt (bits : Nat) (lo hi : Int) (v : Ext) : Nat × Bool :=
  match v with
  | .nan _ => (0, true)
  | .inf n => ((BitVec.ofInt bits (if n then lo else hi)).toNat, true)
  | .fin n m e =>
    let r := (roundMult rmN n m e 0).1
    let i : Int := if n then -(r : Int) else r
    let c := clampInt i lo hi
    ((BitVec.ofInt bits c).toNat, c != i)

/-- A value encoded in an element type, to nearest, and whether it overflowed, saturated or lost a NaN. MX
types are encoded by blocks. -/
def encodeAs (et : Nat) (fmtw : BitVec 16) (v : Ext) : Nat × Bool :=
  match et with
  | 0x01 => roundInt 8 (-128) 127 v
  | 0x02 => roundInt 8 0 255 v
  | 0x05 => roundInt 32 (-2147483648) 2147483647 v
  | 0x10 => let r := fp16.encode rmN v; (r.1, (r.2 &&& flOF) != 0)
  | 0x11 => let r := bf16.encode rmN v; (r.1, (r.2 &&& flOF) != 0)
  | 0x12 => let r := fp32.encode rmN v; (r.1, (r.2 &&& flOF) != 0)
  | _ => let r := FmtW.encode fmtw v rmN; (r.1, (r.2 &&& (flOF ||| flNV)) != 0)

/-- The value after such an encoding. -/
def recode (et : Nat) (fmtw : BitVec 16) (v : Ext) : Ext × Bool :=
  let r := encodeAs et fmtw v
  (etValue et fmtw r.1, r.2)

/-- The values of a block of MX after its encoding. -/
def recodeMx (ty : Nat) (vs : List Ext) : List (Ext × Bool) :=
  let b := mxBlock ty vs
  b.2.map fun c => (mxValue b.1 c.1 ty, b.1 != 0xff && (c.2 &&& (flOF ||| flNV)) != 0)

/-- A smoothing factor: its value and whether R106 refuses it, 1.0 taking its place. -/
def sigmaOf (bits : Nat) : Ext × Bool :=
  match fp32.decode bits with
  | .fin false m e => if m = 0 ∨ log2Of m e < -126 then (.fin false 1 0, true) else (.fin false m e, false)
  | _ => (.fin false 1 0, true)

/-- Exact quotient of a value by a smoothing factor, kept to a precision that rounds as the exact one. -/
def Ext.divBy (v t : Ext) : Ext :=
  match v, t with
  | .fin n m e, .fin n' m' e' => if m = 0 then v else Ext.quot n m e n' m' e'
  | v, _ => v

/-- The i-th factor of a smoothing vector in scratchpad. -/
def Group.sigma (gr : Group) (o i : Nat) : Ext × Bool := sigmaOf (leVal (gr.spadBytes (o + 4 * i) 4))

-- Tiles ---------------------------------------------------------------------------------------

/-- The stored code i of row m. -/
def Group.tileCode (gr : Group) (t : Tile) (m i : Nat) : Nat :=
  codeAt (tileBits t.etype t.fmtw) i (gr.spadBytes (t.base + m * t.pitch) t.rowBytes)

/-- Where the scale byte of element (m, i) of an MX tile lies (R241). -/
def Tile.scaleAt (t : Tile) (m i : Nat) : Nat := t.base + t.rows * t.pitch + m * (t.cols / 32) + i / 32

/-- The exact value of stored element i of row m. -/
def Group.tileStored (gr : Group) (t : Tile) (m i : Nat) : Ext :=
  let c := gr.tileCode t m i
  if isMx t.etype then mxValue (gr.spadByte (t.scaleAt m i)).toNat c (t.etype - 0x30)
  else etValue t.etype t.fmtw c

/-- Metadata word and bit of the nibble, or flag, of tensor element (r, c) (06 R162). -/
def nibblePlace (h : Layout) (r c : Nat) : Nat × Nat :=
  let w := (h.extents.getD 0 1 + 63) / 64
  (r * w + c / 4 / 16, 4 * (c / 4 % 16))

def flagPlace (h : Layout) (r c : Nat) : Nat × Nat :=
  let ct := (h.extents.getD 0 1 + h.sideCols - 1) / h.sideCols
  let n := r / h.sideRows * ct + c / h.sideCols
  (n / 64, n % 64)

/-- The place in the side array that element (k, n) of a sparse tile looks up. -/
def Tile.mdPlace (t : Tile) (h : Layout) (k n : Nat) : Nat × Nat :=
  if t.sp = 1 then nibblePlace h (t.roworg + k) (t.colorg + n) else flagPlace h (t.roworg + k) (t.colorg + n)

/-- Logical element (k, n) of a tile, and the SPST bits its reading sets (R248; 06 R162, R164). -/
def Group.tileLogical (gr : Group) (t : Tile) (md : SMap DWord) (side : Option Layout) (k n : Nat) :
    Ext × BitVec 32 :=
  match side with
  | none => (gr.tileStored t k n, 0)
  | some h =>
    let p := t.mdPlace h k n
    if t.sp = 1 then
      match SMap.get? p.1 md with
      | none => (.fin false 0 0, 8)
      | some w =>
        let nib := w.toNat / 2 ^ p.2 % 16
        let p0 := nib % 4
        let p1 := nib / 4
        if p1 ≤ p0 then (.fin false 0 0, 8)
        else if n % 4 = p0 then (gr.tileStored t k (2 * (n / 4)), 0)
        else if n % 4 = p1 then (gr.tileStored t k (2 * (n / 4) + 1), 0)
        else (.fin false 0 0, 0)
    else
      let flag := match SMap.get? p.1 md with
        | some w => bit w p.2
        | none => false
      if !flag then (gr.tileStored t k n, 0)
      else if h.verify then
        let v := gr.tileStored t k n
        (v, if v.isZero then 0 else 4)
      else (.fin false 0 0, 0)

/-- The metadata words a sparse tile uses that lie in the side array, rising. -/
def Tile.mdWords (t : Tile) (h : Layout) : List Nat :=
  ((List.range t.rows).flatMap fun k => (List.range t.cols).map fun n => (t.mdPlace h k n).1).foldl
    (fun l w => if 8 * w + 8 ≤ h.sideBytes && !l.contains w then insertNat w l else l) []

/-- The metadata of a tile is read at issue: a not-present page parks, another fault traps (R248). -/
def State.readMd (s : State) (c : ICtx) (t : Tile) : Except Stop (State × SMap DWord × Option Layout) :=
  if t.sp = 0 then .ok (s, [], none)
  else
    match c.gr.handle t.sh with
    | none => .error (tr cHandle)
    | some h =>
      if h.sideKind != t.sp then .error (tr cHandle)
      else
        let ws := t.mdWords h
        let r := s.cachedWords c.g c.gr.ctx .metadata (ws.map fun w => (h.sideVa + 8 * w) % 2 ^ 64)
        match r.2 with
        | .error f => .error (faultStop f 0)
        | .ok xs => .ok (r.1, ws.zip xs, some h)

-- Issue ---------------------------------------------------------------------------------------

/-- A tile that is configured (R240). -/
def Group.tile (gr : Group) (t : Nat) : Option Tile :=
  match gr.tiles[t]? with
  | some x => if x.etype = 0 then none else some x
  | none => none

/-- Nominal clk of a move over an extent (R258). -/
def moveTime (n : Nat) : Nat := 64 + 8 * ((n + 127) / 128)

/-- The rows or columns below 64 of a predicate. -/
def sel (p : DWord) : List Nat := (List.range 64).filter (bit p)

/-- When a command that issues in a clk is done, and the engine's times after it (R258). A transfer has no
nominal time of its own; pn is the columns of the pass's plane. Every row of a pass enters; the pass ends the clk after
its last write, or after its last row has entered where it writes nothing (log entry 66). -/
def MTimes.schedule (m : MTimes) (clk pn : Nat) (k : MKind) : Nat × MTimes :=
  let fin := fun (due : Nat) (m : MTimes) => (due, { m with all := max m.all due })
  let move := fun (x : Nat) =>
    let due := max clk m.all + moveTime x
    fin due { m with move := due }
  match k with
  | .mwload t _ plane _ _ =>
    let due := max (max clk m.loader) (max m.move (m.read.getD plane 0)) + 8 + (if t.etype = 0x12 then 3 else 1) * t.rows
    fin due { m with loader := due, ready := m.ready.set plane due }
  | .mswap =>
    let due := max clk (max m.loader m.rowsIn)
    fin due { m with swap := due }
  | .mmac fam _ t rp cpn _ _ plane _ _ _ _ _ =>
    let first := max (max (clk + 1) (m.move + 1)) (max (m.swap + 1) (max (m.ready.getD plane 0 + 1) m.array))
    let entry := fun (r : Nat) => first + (if fam = 5 then 6 * r else if fam = 2 then r / 2 else r)
    let last := entry (t.rows - 1)
    let due := match ((sel rp).filter (· < t.rows)).getLast?, ((sel cpn).filter (· < pn)).getLast? with
      | some r, some n => entry r + n + 73
      | _, _ => last + 1
    fin due { m with rowsIn := max m.rowsIn last, array := last + (if fam = 5 then 6 else 1),
                     read := m.read.set plane (max due (m.read.getD plane 0)) }
  | .mstore t _ _ _ => move t.extent
  | .mload _ t _ _ => move t.extent
  | .tzero t => move t.extent
  | .mcvt _ _ _ _ _ => move 0
  | .mzero _ => move 0
  | .marrive _ _ => (max clk m.all, m)
  | .mflags _ _ _ => (max clk m.all, m)
  | .tload _ _ => (clk, m)
  | .tstore _ _ _ => (clk, m)

/-- The core's queue of 16 matrix commands is full, or an acquire of the sequencer is still to be performed: the sequencer
is held at a matrix point (R242; 12 R290). -/
def State.matrixHeld (s : State) (c : ICtx) : Bool :=
  16 ≤ ((s.groups.filter fun x => coreOf x.1 == c.core).map fun x => x.2.mq.length).foldl (· + ·) 0 || s.acqPending c.ag

/-- A matrix command enters the queue (R242). -/
def State.queued (s : State) (c : ICtx) (h : Hdr) (k : MKind) : State :=
  s.modGrp c.g fun gr =>
    let pn := match k with
      | .mmac _ _ _ _ _ _ _ plane _ _ _ _ _ => (match gr.isPlanes.getD plane none with | some p => p.n | none => 1)
      | _ => 0
    let r := gr.mt.schedule c.clk pn k
    { gr with mq := gr.mq ++ [⟨k, hdrFlag h, r.1, false⟩], mt := r.2 }

/-- A matrix point: its checks give a command or a stop. -/
def matrix (h : Hdr) (body : ICtx → State → Except Stop (State × MKind)) : State → Out :=
  issue h 8 fun c s =>
    if s.matrixHeld c then .error .hold
    else
      match body c s with
      | .error e => .error e
      | .ok (s, k) => .ok (s.queued c h k)

/-- A matrix point that completes at issue. -/
def matrixNow (h : Hdr) (body : ICtx → State → Except Stop State) : State → Out :=
  control h fun c s => if s.matrixHeld c then .error .hold else body c s

/-- The element types of R240. -/
def tileType (et : Nat) : Bool :=
  et == 1 || et == 2 || et == 5 || et == 0x10 || et == 0x11 || et == 0x12 || et == 0x20 || isMx et

/-- A tile configuration from its three words, or none where R244 refuses it. -/
def tileOf (a b e : DWord) : Option Tile :=
  let t : Tile := {
    rows := (a.extractLsb' 48 8).toNat
    cols := (a.extractLsb' 40 8).toNat
    pitch := (a.extractLsb' 24 16).toNat
    base := (a.extractLsb' 0 21).toNat
    sh := (b.extractLsb' 27 5).toNat
    sp := (b.extractLsb' 25 2).toNat
    etype := (b.extractLsb' 16 8).toNat
    fmtw := b.extractLsb' 0 16
    colorg := (e.extractLsb' 32 32).toNat
    roworg := (e.extractLsb' 0 32).toNat }
  let mx := isMx t.etype
  if (a.extractLsb' 56 8) != 0 || (a.extractLsb' 21 3) != 0 || (b.extractLsb' 32 32) != 0 || bit b 24
      || t.rows = 0 || 64 < t.rows || t.cols = 0 || 64 < t.cols || t.pitch % 16 != 0 || t.base % 16 != 0
      || !tileType t.etype
      || (if t.etype = 0x20 then !FmtW.valid t.fmtw else t.fmtw != 0)
      || t.pitch < t.rowBytes
      || (mx && t.cols != 32 && t.cols != 64)
      || t.sp = 3 || (t.sp != 0 && (mx || t.etype = 5))
      || (t.sp = 1 && (t.cols % 4 != 0 || t.colorg % 4 != 0))
      || (t.sp = 0 && (t.sh != 0 || t.colorg != 0 || t.roworg != 0)) then none
  else some t

/-- The value of a G operand or the zero code. -/
def ICtx.gOr0 (c : ICtx) : Src → DWord
  | .g n => c.gr.seq.gAt c.clk n
  | _ => 0

/-- tcfg (R244), complete at issue. -/
def execTcfg (h : Hdr) (t : BitVec 4) (a b e : Src) : State → Out :=
  matrixNow h fun c s =>
    match tileOf (c.gOr0 a) (c.gOr0 b) (c.gOr0 e) with
    | none => .error (tr cValue)
    | some x => .ok (s.modGrp c.g fun gr => { gr with tiles := setReg 16 Tile.blank gr.tiles t.toNat x })

/-- The rows of a transfer: (scratchpad offset, VA) (R245). -/
def tileRows (t : Tile) (va stride : DWord) : List (Nat × Nat) :=
  (List.range t.rows).map fun m =>
    (t.base + m * t.pitch, (va + stride * BitVec.ofNat 64 m).toNat)

/-- What a tstore of a redundant group signs (16 R369): the elements of each tile column, and for elements
below a byte the eight columns that share a partial together. -/
def tileSig (t : Tile) (va stride : DWord) : List (Nat × Nat × Nat × Nat) :=
  let w := tileBits t.etype t.fmtw
  let j := if t.sp = 1 then t.cols / 2 else t.cols
  (tileRows t va stride).flatMap fun r =>
    if w % 8 = 0 then (List.range j).map fun n => (128 + n / 8, r.2 + n * (w / 8), r.1 + n * (w / 8), w / 8)
    else (List.range ((j + 7) / 8)).map fun q => (128 + q, r.2 + q * w, r.1 + q * w, w)

/-- tload and tstore (R245). -/
def tileMove (inn : Bool) (h : Hdr) (t : BitVec 4) (bv : Bool) (a b : Src) (bo : BitVec 4) : State → Out :=
  issue h 8 fun c s =>
    if s.matrixHeld c then .error .hold
    else
      let va := c.gOr0 a
      let stride := c.gOr0 b
      match c.gr.tile t.toNat with
      | none => .error (tr cValue)
      | some x =>
        if va.toNat % 16 != 0 || stride.toNat % 16 != 0 then .error (tr cValue)
        else if !(if inn then c.gr.spadFree x.base x.extent else c.gr.spadHas x.base x.extent) then .error (tr cSpad)
        else if bv && !c.gr.barReady bo.toNat then .error (tr cBarrier)
        else
          let rows := tileRows x va stride
          let r := s.xpieces (coreUnit c.g) c.gr.ctx (if inn then .rd else .wr)
            (rows.flatMap fun p => pieces p.2 x.rowBytes)
          let ps := refusePieces (copyCheck inn) r.2
          match decidingFault ps with
          | some f => .error (faultStop f 0)
          | none =>
            let us := unitsOf ps
            if c.gr.versioned && !inn && us.any Tgt.isSys then c.demoted 3
            else
              let ofs := rows.flatMap fun p => (List.range (x.rowBytes / 16)).map fun k => p.1 + 16 * k
              let bar := if bv then some (bo.toNat, x.rows * x.rowBytes) else none
              .ok (r.1.queued c h (if inn then .tload (ofs.zip us) bar
                else .tstore (ofs.zip us) bar (if c.gr.cls = 2 then tileSig x va stride else [])))

def execTload (h : Hdr) (t : BitVec 4) (bv : Bool) (a b : Src) (bo : BitVec 4) : State → Out :=
  tileMove true h t bv a b bo
def execTstore (h : Hdr) (t : BitVec 4) (bv : Bool) (a b : Src) (bo : BitVec 4) : State → Out :=
  tileMove false h t bv a b bo

/-- tzero (R246). -/
def execTzero (h : Hdr) (t : BitVec 4) : State → Out :=
  matrix h fun c s =>
    match c.gr.tile t.toNat with
    | none => .error (tr cValue)
    | some x => if c.gr.spadFree x.base x.extent then .ok (s, .tzero x) else .error (tr cSpad)

/-- mwload and mwload.sm (R247); sg is the smoothing operand. -/
def weightLoad (h : Hdr) (t : BitVec 4) (sg : ICtx → Option DWord) : State → Out :=
  matrix h fun c s =>
    match c.gr.tile t.toNat with
    | none => .error (tr cValue)
    | some x =>
      let sv := sg c
      if x.etype = 5 || (match sv with | some v => (v.toNat / 2 ^ 21 != 0) || v.toNat % 4 != 0 | none => false) then
        .error (tr cValue)
      else
        match s.readMd c x with
        | .error e => .error e
        | .ok (s, md, side) =>
          if !c.gr.spadHas x.base x.extent
              || (match sv with | some v => !c.gr.spadHas v.toNat (4 * x.rows) | none => false) then .error (tr cSpad)
          else
            let plane := 1 - c.gr.isActive
            let s := s.modGrp c.g fun gr =>
              { gr with isPlanes := setReg 2 none gr.isPlanes plane (some ⟨x.rows, x.cols, x.etype, x.fmtw⟩) }
            .ok (s, .mwload x (sv.map BitVec.toNat) plane md side)

def execMwload (h : Hdr) (t : BitVec 4) : State → Out := weightLoad h t fun _ => none
def execMwloadSm (h : Hdr) (t : BitVec 4) (b : Src) : State → Out := weightLoad h t fun c => some (c.gOr0 b)

/-- mswap (R249). -/
def execMswap (h : Hdr) : State → Out :=
  matrix h fun c s =>
    .ok (s.modGrp c.g fun gr => { gr with isActive := 1 - gr.isActive }, .mswap)

/-- mpset (R250), complete at issue. -/
def execMpset (h : Hdr) (cnt col : Bool) (idx : BitVec 2) (a : Src) : State → Out :=
  matrixNow h fun c s =>
    let x := c.gOr0 a
    if cnt && 64 < x.toNat then .error (tr cValue)
    else
      let v : DWord := if cnt then BitVec.ofNat 64 (2 ^ x.toNat - 1) else x
      .ok (s.modGrp c.g fun gr =>
        if col then { gr with cp := setReg 4 0 gr.cp idx.toNat v } else { gr with rp := setReg 4 0 gr.rp idx.toNat v })

/-- The families of R238. -/
inductive Fam where
  | i8
  | f8
  | f4
  | bf16
  | f16
  | x3
  | mx
deriving DecidableEq, Repr

def Fam.num : Fam → Nat
  | .i8 => 0
  | .f8 => 1
  | .f4 => 2
  | .bf16 => 3
  | .f16 => 4
  | .x3 => 5
  | .mx => 6

def Fam.kMax : Fam → Nat
  | .bf16 => 32
  | .f16 => 32
  | _ => 64

/-- Formats a family admits (R238). -/
def Fam.admits (f : Fam) (et : Nat) (fmtw : BitVec 16) : Bool :=
  match f with
  | .i8 => et == 1 || et == 2
  | .f8 => et == 0x20
  | .f4 => et == 0x20 && FmtW.w fmtw ≤ 4
  | .bf16 => et == 0x11
  | .f16 => et == 0x10
  | .x3 => et == 0x12
  | .mx => isMx et

/-- A multiply-accumulate point (R251 to R253). -/
def mmac (f : Fam) (h : Hdr) (acc : BitVec 6) (t : BitVec 4) (rp cpn cpk : BitVec 2) (z : Bool) (e : Src) :
    State → Out :=
  matrix h fun c s =>
    let x := c.gOr0 e
    let sm := bit x 63
    let svec := (x.extractLsb' 32 21).toNat
    let set := (x.extractLsb' 16 8).toNat
    let sfw : BitVec 16 := x.extractLsb' 0 16
    if c.gr.va.acc ≤ acc.toNat then .error (tr cValue)
    else match c.gr.tile t.toNat with
      | none => .error (tr cValue)
      | some tl =>
        if (x.extractLsb' 53 10) != 0 || (x.extractLsb' 24 8) != 0 || svec % 4 != 0 || (set != 0 && !tileType set)
            || (if set = 0x20 then !FmtW.valid sfw else sfw != 0) || f.kMax < tl.cols then .error (tr cValue)
        else
          let st := if set = 0 then tl.etype else set
          let sw := if set = 0 then tl.fmtw else sfw
          match c.gr.isPlanes.getD c.gr.isActive none with
          | none => .error (tr cMatrix)
          | some p =>
            if f.kMax < p.k || !f.admits p.etype p.fmtw || !f.admits st sw then .error (tr cMatrix)
            else match s.readMd c tl with
              | .error e => .error e
              | .ok (s, md, side) =>
                if !c.gr.spadHas tl.base tl.extent || (sm && !c.gr.spadHas svec (4 * tl.cols)) then .error (tr cSpad)
                else .ok (s, .mmac f.num acc.toNat tl (c.gr.rp.getD rp.toNat 0) (c.gr.cp.getD cpn.toNat 0)
                  (c.gr.cp.getD cpk.toNat 0) z c.gr.isActive (if sm then some svec else none) set sfw md side)

def execMmacI8 (h : Hdr) (acc : BitVec 6) (t : BitVec 4) (rp cpn cpk : BitVec 2) (z : Bool) (c : Src) : State → Out :=
  mmac .i8 h acc t rp cpn cpk z c
def execMmacF8 (h : Hdr) (acc : BitVec 6) (t : BitVec 4) (rp cpn cpk : BitVec 2) (z : Bool) (c : Src) : State → Out :=
  mmac .f8 h acc t rp cpn cpk z c
def execMmacF4 (h : Hdr) (acc : BitVec 6) (t : BitVec 4) (rp cpn cpk : BitVec 2) (z : Bool) (c : Src) : State → Out :=
  mmac .f4 h acc t rp cpn cpk z c
def execMmacBf16 (h : Hdr) (acc : BitVec 6) (t : BitVec 4) (rp cpn cpk : BitVec 2) (z : Bool) (c : Src) : State → Out :=
  mmac .bf16 h acc t rp cpn cpk z c
def execMmacF16 (h : Hdr) (acc : BitVec 6) (t : BitVec 4) (rp cpn cpk : BitVec 2) (z : Bool) (c : Src) : State → Out :=
  mmac .f16 h acc t rp cpn cpk z c
def execMmacX3 (h : Hdr) (acc : BitVec 6) (t : BitVec 4) (rp cpn cpk : BitVec 2) (z : Bool) (c : Src) : State → Out :=
  mmac .x3 h acc t rp cpn cpk z c
def execMmacMx (h : Hdr) (acc : BitVec 6) (t : BitVec 4) (rp cpn cpk : BitVec 2) (z : Bool) (c : Src) : State → Out :=
  mmac .mx h acc t rp cpn cpk z c

/-- mzero (R254). -/
def execMzero (h : Hdr) (acc : BitVec 6) : State → Out :=
  matrix h fun c s => if c.gr.va.acc ≤ acc.toNat then .error (tr cValue) else .ok (s, .mzero acc.toNat)

/-- The checks that mstore and mload share (R254). -/
def ICtx.accTile (c : ICtx) (acc : BitVec 6) (t : BitVec 4) (write : Bool) : Except Stop Tile :=
  if c.gr.va.acc ≤ acc.toNat then .error (tr cValue)
  else match c.gr.tile t.toNat with
    | none => .error (tr cValue)
    | some x =>
      if x.sp = 1 then .error (tr cValue)
      else if !(if write then c.gr.spadFree x.base x.extent else c.gr.spadHas x.base x.extent) then .error (tr cSpad)
      else .ok x

/-- mstore (R254, R255). -/
def execMstore (h : Hdr) (t : BitVec 4) (acc : BitVec 6) (rp cp : BitVec 2) : State → Out :=
  matrix h fun c s =>
    match c.accTile acc t true with
    | .error e => .error e
    | .ok x => .ok (s, .mstore x acc.toNat (c.gr.rp.getD rp.toNat 0) (c.gr.cp.getD cp.toNat 0))

/-- mload (R254). -/
def execMload (h : Hdr) (acc : BitVec 6) (t : BitVec 4) (rp cp : BitVec 2) : State → Out :=
  matrix h fun c s =>
    match c.accTile acc t false with
    | .error e => .error e
    | .ok x => .ok (s, .mload acc.toNat x (c.gr.rp.getD rp.toNat 0) (c.gr.cp.getD cp.toNat 0))

/-- mcvt (R254). -/
def execMcvt (h : Hdr) (acc src : BitVec 6) (rp cp : BitVec 2) (e : Src) : State → Out :=
  matrix h fun c s =>
    let f := c.gOr0 e
    if c.gr.va.acc ≤ acc.toNat || c.gr.va.acc ≤ src.toNat || (f.extractLsb' 32 32) != 0 then .error (tr cValue)
    else .ok (s, .mcvt acc.toNat src.toNat (c.gr.rp.getD rp.toNat 0) (c.gr.cp.getD cp.toNat 0) (f.setWidth 32))

/-- marrive (R257). -/
def execMarrive (h : Hdr) (bo : BitVec 4) (a : Src) : State → Out :=
  matrix h fun c s =>
    let x := c.gOr0 a
    if (x.extractLsb' 32 32) != 0 then .error (tr cValue)
    else if !c.gr.barReady bo.toNat then .error (tr cBarrier)
    else .ok (s, .marrive bo.toNat x.toNat)

/-- mflags and mflags.clr (R256). -/
def execMflags (h : Hdr) (d : Dst) (clr : Bool) : State → Out :=
  matrix h fun _ s =>
    .ok (s, .mflags (match d with | .g n => n | _ => 0) clr h.nw)

-- Completion ----------------------------------------------------------------------------------

/-- Accumulator element (m, n) of tile A. -/
def Group.accAt (gr : Group) (a m n : Nat) : Word := SMap.getD gr.acc (4096 * a + 64 * m + n) 0

/-- Write it; +0 takes no entry. -/
def Group.setAcc (gr : Group) (a m n : Nat) (x : Word) : Group :=
  let k := 4096 * a + 64 * m + n
  { gr with acc := if x = 0 then SMap.erase k gr.acc else SMap.set k x gr.acc }

-- Bits of mfl (R256).
def mflOVF : BitVec 32 := 1
def mflNAN : BitVec 32 := 2
def mflQSAT : BitVec 32 := 4
def mflCVT : BitVec 32 := 8
def mflSIGMA : BitVec 32 := 16

def Group.raise (gr : Group) (m sp : BitVec 32) : Group := { gr with mfl := gr.mfl ||| m, spst := gr.spst ||| sp }

/-- A value written to an accumulator element, with NAN and OVF (R252, R256). -/
def Group.accWrite (gr : Group) (a m n : Nat) (v : Ext) : Group :=
  let r := fp32.encode rmN v
  (gr.setAcc a m n (BitVec.ofNat 32 r.1)).raise
    ((if v.isNan then mflNAN else 0) ||| (if (r.2 &&& flOF) != 0 then mflOVF else 0)) 0

/-- One latched weight: position, value, and the mfl and SPST bits it raises. -/
structure Latched where
  k : Nat
  n : Nat
  v : Ext
  mf : BitVec 32
  st : BitVec 32

/-- The weights of row k as latched (R247). -/
def Group.weightRow (gr : Group) (t : Tile) (sg : Option Nat) (md : SMap DWord) (side : Option Layout) (k : Nat) :
    List Latched :=
  let raw := (List.range t.cols).map fun n => gr.tileLogical t md side k n
  match sg with
  | none => (raw.zip (List.range t.cols)).map fun p => ⟨k, p.2, p.1.1, 0, p.1.2⟩
  | some o =>
    let f := gr.sigma o k
    let bad : BitVec 32 := if f.2 then mflSIGMA else 0
    let prod := raw.map fun x => (x.1.mul f.1).1
    let outs : List (Ext × Bool) :=
      if isMx t.etype then
        (List.range (t.cols / 32)).flatMap fun b => recodeMx (t.etype - 0x30) ((prod.drop (32 * b)).take 32)
      else prod.map (recode t.etype t.fmtw)
    ((outs.zip raw).zip (List.range t.cols)).map fun p =>
      ⟨k, p.2, p.1.1.1, bad ||| (if p.1.1.2 then mflQSAT else 0), p.1.2.2⟩

/-- Weights are latched into a plane; a zero takes no entry. -/
def Group.latchPlane (gr : Group) (t : Tile) (sg : Option Nat) (plane : Nat) (md : SMap DWord)
    (side : Option Layout) : Group :=
  let ws := (List.range t.rows).flatMap fun k => gr.weightRow t sg md side k
  let map := ws.foldl (fun (m : SMap Ext) x => if x.v.isZero && !x.v.neg then m else SMap.set (64 * x.k + x.n) x.v m) []
  let mf := ws.foldl (fun (m : BitVec 32) x => m ||| x.mf) 0
  let st := ws.foldl (fun (m : BitVec 32) x => m ||| x.st) 0
  { gr.raise mf st with planes := setReg 2 none gr.planes plane (some ⟨t.rows, t.cols, t.etype, t.fmtw, map⟩) }

/-- The activations of row m for the channels ks, with what they raise (R252). -/
def Group.actRow (gr : Group) (t : Tile) (ks : List Nat) (sm : Option Nat) (setype : Nat) (sfmtw : BitVec 16)
    (md : SMap DWord) (side : Option Layout) (m : Nat) : List Latched :=
  let st := if setype = 0 then t.etype else setype
  let sw := if setype = 0 then t.fmtw else sfmtw
  let raw : List Latched := ks.map fun k =>
    let x := gr.tileLogical t md side m k
    let v := inputOf t.etype x.1
    match sm with
    | none => ⟨k, 0, v, 0, x.2⟩
    | some o =>
      let f := gr.sigma o k
      ⟨k, 0, v.divBy f.1, if f.2 then mflSIGMA else 0, x.2⟩
  if setype = 0 && sm.isNone then raw
  else if isMx st then
    [0, 1].flatMap fun b =>
      let block := (List.range 32).map fun i => match raw.find? fun x => x.k == 32 * b + i with
        | some x => x.v
        | none => .fin false 0 0
      let outs := recodeMx (st - 0x30) block
      (raw.filter fun x => x.k / 32 == b).map fun x =>
        let o := outs.getD (x.k % 32) (.fin false 0 0, false)
        { x with v := o.1, mf := x.mf ||| (if o.2 then mflQSAT else 0) }
  else raw.map fun x =>
    let o := recode st sw x.v
    { x with v := inputOf st o.1, mf := x.mf ||| (if o.2 then mflQSAT else 0) }

/-- A pass (R252). -/
def Group.pass (gr : Group) (fam acc : Nat) (t : Tile) (rp cpn cpk : DWord) (z : Bool) (plane : Nat)
    (sm : Option Nat) (setype : Nat) (sfmtw : BitVec 16) (md : SMap DWord) (side : Option Layout) : Group :=
  match gr.planes.getD plane none with
  | none => gr
  | some p =>
    let ns := (sel cpn).filter (· < p.n)
    let ks := (sel cpk).filter (· < t.cols)
    if ns.isEmpty then gr
    else
      ((sel rp).filter (· < t.rows)).foldl (fun (gr : Group) m =>
        let xs := (gr.actRow t ks sm setype sfmtw md side m).filter fun x => x.k < p.k
        let gr := gr.raise (xs.foldl (fun (b : BitVec 32) x => b ||| x.mf) 0) (xs.foldl (fun (b : BitVec 32) x => b ||| x.st) 0)
        ns.foldl (fun (gr : Group) n =>
          let terms := xs.flatMap fun x =>
            products (fam == 5) x.v (inputOf p.etype (SMap.getD p.weights (64 * x.k + n) (.fin false 0 0)))
          let sum := terms.foldl (fun (a : Ext) v => (a.add rmN v).1) (.fin false 0 0)
          let a := if z then .fin false 0 0 else fp32.decode (gr.accAt acc m n).toNat
          gr.accWrite acc m n (a.add rmN sum).1) gr) gr

/-- Put the code of w bits at place i of a row's bytes. -/
def setCode (w i code : Nat) (bs : List Byte) : List Byte :=
  let x := leVal bs
  bytesOf bs.length (x - codeAt w i bs * 2 ^ (w * i) + code % 2 ^ w * 2 ^ (w * i))

/-- Write the stored code i of row m. -/
def Group.setTileCode (gr : Group) (t : Tile) (m i code : Nat) : Group :=
  let o := t.base + m * t.pitch
  gr.setSpad o (setCode (tileBits t.etype t.fmtw) i code (gr.spadBytes o t.rowBytes))

/-- The code mstore gives a value, and whether CVT is set (R255). -/
def storeCode (t : Tile) (x : Word) : Nat × Bool :=
  let v := fp32.decode x.toNat
  if t.etype = 0x12 then (x.toNat, false)
  else if t.etype = 0x11 then
    let r := encodeAs 0x11 0 v
    (if r.1 / 128 % 256 = 0 then r.1 / 32768 * 32768 else r.1, r.2)
  else encodeAs t.etype t.fmtw v

/-- One row of mstore. -/
def Group.storeRow (gr : Group) (t : Tile) (acc m : Nat) (ns : List Nat) : Group :=
  if isMx t.etype then
    [0, 1].foldl (fun (gr : Group) b =>
      if !(ns.any fun n => n / 32 == b) then gr
      else
        let vals := (List.range 32).map fun i =>
          if ns.contains (32 * b + i) then fp32.decode (gr.accAt acc m (32 * b + i)).toNat
          else gr.tileStored t m (32 * b + i)
        let r := mxBlock (t.etype - 0x30) vals
        let gr := (List.range 32).foldl (fun (gr : Group) i => gr.setTileCode t m (32 * b + i) (r.2.getD i (0, 0)).1) gr
        let gr := gr.setSpad (t.scaleAt m (32 * b)) [BitVec.ofNat 8 r.1]
        let bad := r.1 != 0xff && r.2.any fun c => (c.2 &&& (flOF ||| flNV)) != 0
        gr.raise (if bad then mflCVT else 0) 0) gr
  else ns.foldl (fun (gr : Group) n =>
    let r := storeCode t (gr.accAt acc m n)
    (gr.setTileCode t m n r.1).raise (if r.2 then mflCVT else 0) 0) gr

/-- What a command does to its group as it completes; transfers and marrive are done with the state. -/
def Group.runMatrix (gr : Group) (k : MKind) : Group :=
  match k with
  | .tzero t =>
    let gr := (List.range t.rows).foldl (fun (gr : Group) m => gr.setSpad (t.base + m * t.pitch) (List.replicate t.rowBytes 0)) gr
    if isMx t.etype then gr.setSpad (t.base + t.rows * t.pitch) (List.replicate (t.rows * t.cols / 32) 0x7f) else gr
  | .mwload t sg plane md side => gr.latchPlane t sg plane md side
  | .mmac fam acc t rp cpn cpk z plane sm set sfw md side => gr.pass fam acc t rp cpn cpk z plane sm set sfw md side
  | .mzero a => { gr with acc := gr.acc.filter fun x => x.1 / 4096 != a }
  | .mstore t a rp cp =>
    ((sel rp).filter (· < t.rows)).foldl (fun (gr : Group) m => gr.storeRow t a m ((sel cp).filter (· < t.cols))) gr
  | .mload a t rp cp =>
    ((sel rp).filter (· < t.rows)).foldl (fun (gr : Group) m =>
      ((sel cp).filter (· < t.cols)).foldl (fun (gr : Group) n => gr.accWrite a m n (gr.tileStored t m n)) gr) gr
  | .mcvt a src rp cp f =>
    (sel rp).foldl (fun (gr : Group) m => (sel cp).foldl (fun (gr : Group) n =>
      gr.accWrite a m n ((fp32.decode (gr.accAt src m n).toNat).mul (fp32.decode f.toNat)).1) gr) gr
  | .mswap => { gr with active := 1 - gr.active }
  | .mflags d clr nw =>
    let gr := if nw then gr else { gr with seq := { gr.seq with g := setG gr.seq.g d (gr.mfl.setWidth 64) } }
    if clr then { gr with mfl := 0 } else gr
  | .tload _ _ => gr
  | .tstore _ _ _ => gr
  | .marrive _ _ => gr

/-- The signature of a tstore (16 R369). -/
def State.signTile (s : State) (g : Nat) (sig : List (Nat × Nat × Nat × Nat)) : State :=
  sig.foldl (fun (s : State) (x : Nat × Nat × Nat × Nat) =>
    let bs := match s.grp g with | some gr => gr.spadBytes x.2.2.1 x.2.2.2 | none => []
    s.sign g x.1 x.2.1 bs) s

/-- Command n of the queue leaves it, and its flag falls. -/
def State.matrixDone (s : State) (g n : Nat) (flag : Option Nat) : State :=
  (s.modGrp g fun gr => { gr with mq := gr.mq.eraseIdx n }).lower (.seq g) flag

/-- Scratchpad that a command reads. -/
def MKind.spadIn : MKind → List (Nat × Nat)
  | .tstore us _ _ => us.map fun u => (u.1, 16)
  | .mwload t sg _ _ _ => (t.base, t.extent) :: (match sg with | some o => [(o, 4 * t.rows)] | none => [])
  | .mmac _ _ t _ _ _ _ _ sm _ _ _ _ => (t.base, t.extent) :: (match sm with | some o => [(o, 4 * t.cols)] | none => [])
  | .mload _ t _ _ => [(t.base, t.extent)]
  | .mstore t _ _ _ => [(t.base, t.extent)]
  | _ => []

/-- The accumulator tiles a command uses, a written one with true. -/
def MKind.accs : MKind → List (Nat × Bool)
  | .mmac _ a _ _ _ _ _ _ _ _ _ _ _ => [(a, true)]
  | .mzero a => [(a, true)]
  | .mstore _ a _ _ => [(a, false)]
  | .mload a _ _ _ => [(a, true)]
  | .mcvt a src _ _ _ => [(a, true), (src, false)]
  | _ => []

/-- The planes a command uses, a latched one with true; a swap exchanges both. -/
def MKind.planeUse : MKind → List (Nat × Bool)
  | .mwload _ _ p _ _ => [(p, true)]
  | .mmac _ _ _ _ _ _ _ p _ _ _ _ _ => [(p, false)]
  | .mswap => [(0, true), (1, true)]
  | _ => []

/-- Uses of numbered things that do not commute: the same one, written by either. -/
def usesClash (x y : List (Nat × Bool)) : Bool := x.any fun a => y.any fun b => a.1 == b.1 && (a.2 || b.2)

def spadMeets (x y : List (Nat × Nat)) : Bool := x.any fun a => y.any fun b => a.1 < b.1 + b.2 && b.1 < a.1 + a.2

def MKind.isPass : MKind → Bool
  | .mmac _ _ _ _ _ _ _ _ _ _ _ _ _ => true
  | _ => false

/-- It waits for every earlier command (R256, R257). -/
def MKind.waitsAll : MKind → Bool
  | .marrive _ _ => true
  | .mflags _ _ _ => true
  | _ => false

/-- A swap waits for the rows of earlier passes, not for their ends: its time says when (R249). -/
def MKind.swapPast : MKind → MKind → Bool
  | .mmac _ _ _ _ _ _ _ _ _ _ _ _ _, .mswap => true
  | _, _ => false

/-- Passes on one accumulator tile. -/
def MKind.samePass (a b : MKind) : Bool := a.isPass && b.isPass && usesClash a.accs b.accs

/-- A later command b may not end before an earlier one a: where the result could differ (R242, R247, R249). Passes on one
tile are for Group.freed. -/
def MKind.before (a b : MKind) : Bool :=
  b.waitsAll || (match a with | .mflags _ _ _ => true | _ => false)
    || spadMeets a.dest (b.spadIn ++ b.dest) || spadMeets a.spadIn b.dest
    || (usesClash a.accs b.accs && !a.samePass b)
    || (usesClash a.planeUse b.planeUse && !a.swapPast b)

/-- Each command of a queue, and whether nothing earlier keeps it from ending: for a pass, also none of the earlier passes
on its tile is kept from ending. -/
def mqFree (q : List MCmd) : List (MCmd × Bool) :=
  q.foldl (fun acc c => acc ++ [(c, acc.all fun a => !a.1.kind.before c.kind && (!a.1.kind.samePass c.kind || a.2))]) []

/-- The place of the first command that ends now: its time has come, nothing earlier keeps it (R242, R249, R258), and its
writes have room (12 R298). -/
def Group.nextDone (gr : Group) (clk : Nat) (stalls : MKind → Bool) : Option (Nat × MCmd) :=
  let q := mqFree gr.mq
  match q.findIdx? fun x => x.2 && x.1.due ≤ clk && !stalls x.1.kind with
  | none => none
  | some n => (gr.mq[n]?).map fun c => (n, c)

/-- Command n of the queue has its effect, unless it had it; before it the earlier passes on its tile, in issue order
(R252). -/
def Group.runAt (gr : Group) (n : Nat) (c : MCmd) : Group :=
  let due := fun (x : MCmd) => !x.ran && x.kind.samePass c.kind
  let gr := ((gr.mq.take n).filter due).foldl (fun gr x => gr.runMatrix x.kind) gr
  let gr := { gr with mq := ((gr.mq.take n).map fun x => if due x then { x with ran := true } else x) ++ gr.mq.drop n }
  if c.ran && c.kind.isPass then gr else gr.runMatrix c.kind

/-- Units written at their homes, outside the signature. -/
def State.unitsHome (s : State) (g : Nat) : List (Nat × Tgt) → State
  | [] => s
  | (o, t) :: r =>
    let bs := match s.grp g with | some gr => gr.spadBytes o 16 | none => []
    (s.writeTgt g t bs).unitsHome g r

/-- A tstore whose writes have no room in their pool of versions stalls (12 R298). -/
def State.tileStalls (s : State) (g : Nat) (gr : Group) : MKind → Bool
  | .tstore us _ _ => s.poolStalls g gr (us.map fun u => (u.2, 16))
  | _ => false

/-- MATRIX_COMMAND_COMPLETE: a command of a group ends (R242, R258). -/
def execMatrixCommandComplete (g : Nat) (s : State) : Out :=
  match s.grp g with
  | none => notNow s
  | some gr =>
    match gr.nextDone s.clk (s.tileStalls g gr) with
    | none => notNow s
    | some (n, c) =>
      match c.kind with
      | .mswap => notNow s
      | .tload us bar =>
        .next (((s.unitsIn g us).credit g (bar.map (·.1)) ((bar.map (·.2)).getD 0)).matrixDone g n c.flag)
      | .tstore us bar sig =>
        .next ((((s.signTile g sig).unitsHome g us).credit g (bar.map (·.1)) ((bar.map (·.2)).getD 0)).matrixDone g n c.flag)
      | .marrive b k => .next ((s.credit g (some b) k).matrixDone g n c.flag)
      | _ => .next ((s.modGrp g fun gr => gr.runAt n c).matrixDone g n c.flag)

/-- MSWAP_TAKE_EFFECT: the planes change roles once every earlier load has finished and every row of every
earlier pass has entered (R249). -/
def execMswapTakeEffect (g : Nat) (s : State) : Out :=
  match s.grp g with
  | none => notNow s
  | some gr =>
    match gr.nextDone s.clk (s.tileStalls g gr) with
    | none => notNow s
    | some (n, c) =>
      match c.kind with
      | .mswap => .next ((s.modGrp g fun gr => gr.runMatrix .mswap).matrixDone g n c.flag)
      | _ => notNow s

end Sys2Proof.Machine
end

