-- ==== Sys2Proof/Machine/Perm.lean ====
section
/-!
DEFINITION. Register moves (07 R190 to R192), shuffles and permutation, votes, reductions and scans,
and filtering to k (08 R214 to R218).
-/

namespace Sys2Proof.Machine

/-- A lane exchange: j names the lane whose value is taken, where it exists (R214). -/
def lxch (j : Nat → Word → Option Nat) (h : Hdr) (len : Nat) (d : Dst) (a b : Src) : State → Out :=
  let srcs : List SrcW := [(a, .w32), (b, .w32)]
  laneFixed tPerm h len [(d, .w32)] srcs fun c m =>
    let x := c.words extN srcs 0
    let y := c.words extN srcs 1
    .ok (res32 m d fun l => match j l (w32 y l) with
      | some k => w32 x k
      | none => w32 x l)

/-- mov.b32 and mov.b64: the immediate is zero-extended (07 R191). -/
def movB32 (h : Hdr) (len : Nat) (d : Dst) (b : Src) : State → Out :=
  let srcs : List SrcW := [(b, .w32)]
  bothFixed tInt h len d srcs
    (fun c m =>
      let x := c.words extN srcs 0
      .ok (res32 m d fun l => w32 x l))
    (fun c => c.gval extN b)

/-- An indexed move: the names are moved by XI as it is at issue, and bounded by RL whatever the lane
activity (07 R178, R191). -/
def movIndexed (h : Hdr) (len : Nat) (dst : Nat → Dst) (src : Nat → Src) : State → Out :=
  let asks := fun (c : ICtx) q => useFixed tInt [(dst c.wv.xi.toNat, .w32)] [(src c.wv.xi.toNat, .w32)] c q
  issueUsing asks h len fun c s =>
    let d := dst c.wv.xi.toNat
    let srcs : List SrcW := [(src c.wv.xi.toNat, .w32)]
    match c.opStop [(d, .w32)] srcs with
    | some st => .error st
    | none =>
      let x := c.words extN srcs 0
      let m := c.active h
      .ok (s.fixed c h tInt srcs (res32 m d fun l => w32 x l))

/-- mov.xa.b32. -/
def movXa (h : Hdr) (len : Nat) (d : Dst) (a : Nat) : State → Out :=
  movIndexed h len (fun _ => d) (fun xi => .v (a + xi))

/-- mov.xd.b32. -/
def movXd (h : Hdr) (len : Nat) (d : Nat) (b : Src) : State → Out :=
  movIndexed h len (fun xi => .v (d + xi)) (fun _ => b)

/-- mov.xad.b32. -/
def movXad (h : Hdr) (len : Nat) (d a : Nat) : State → Out :=
  movIndexed h len (fun xi => .v (d + xi)) (fun xi => .v (a + xi))

/-- lxch.sel.b32 (R214). -/
def execLxchSelB32 (h : Hdr) (d : Dst) (a b : Src) : State → Out :=
  lxch (fun _ b => some (b.toNat % 32)) h 8 d a b

/-- lxch.sel.b32 as a 32-bit word (02 R38). -/
def execLxchSelB32W32 (dist : BitVec 2) (d : Dst) (a b : Src) : State → Out :=
  lxch (fun _ b => some (b.toNat % 32)) (hdr32 dist) 4 d a b

/-- lxch.lo.b32 (R214). -/
def execLxchLoB32 (h : Hdr) (d : Dst) (a b : Src) : State → Out :=
  lxch (fun l b => if b.toNat ≤ l then some (l - b.toNat) else none) h 8 d a b

/-- lxch.lo.b32 as a 32-bit word (02 R38). -/
def execLxchLoB32W32 (dist : BitVec 2) (d : Dst) (a b : Src) : State → Out :=
  lxch (fun l b => if b.toNat ≤ l then some (l - b.toNat) else none) (hdr32 dist) 4 d a b

/-- lxch.hi.b32 (R214). -/
def execLxchHiB32 (h : Hdr) (d : Dst) (a b : Src) : State → Out :=
  lxch (fun l b => if l + b.toNat < 32 then some (l + b.toNat) else none) h 8 d a b

/-- lxch.hi.b32 as a 32-bit word (02 R38). -/
def execLxchHiB32W32 (dist : BitVec 2) (d : Dst) (a b : Src) : State → Out :=
  lxch (fun l b => if l + b.toNat < 32 then some (l + b.toNat) else none) (hdr32 dist) 4 d a b

/-- lxch.flip.b32 (R214). -/
def execLxchFlipB32 (h : Hdr) (d : Dst) (a b : Src) : State → Out :=
  lxch (fun l b => some (l ^^^ (b.toNat % 32))) h 8 d a b

/-- lxch.flip.b32 as a 32-bit word (02 R38). -/
def execLxchFlipB32W32 (dist : BitVec 2) (d : Dst) (a b : Src) : State → Out :=
  lxch (fun l b => some (l ^^^ (b.toNat % 32))) (hdr32 dist) 4 d a b

/-- mov.b32 (07 R191). -/
def execMovB32 (h : Hdr) (d : Dst) (b : Src) : State → Out :=
  movB32 h 8 d b

/-- mov.b32 as a 32-bit word (02 R38). -/
def execMovB32W32 (dist : BitVec 2) (d : Dst) (b : Src) : State → Out :=
  movB32 (hdr32 dist) 4 d b

/-- mov.b32 as a compact word (02 R39). -/
def execMovB32C16 (d : Dst) (b : Src) : State → Out :=
  movB32 hdr16 2 d b

/-- mov.xa.b32 (07 R191). -/
def execMovXaB32 (h : Hdr) (d : Dst) (a : Nat) : State → Out :=
  movXa h 8 d a

/-- mov.xa.b32 as a 32-bit word (02 R38). -/
def execMovXaB32W32 (dist : BitVec 2) (d : Dst) (a : Nat) : State → Out :=
  movXa (hdr32 dist) 4 d a

/-- mov.xd.b32 (07 R191). -/
def execMovXdB32 (h : Hdr) (d : Nat) (b : Src) : State → Out :=
  movXd h 8 d b

/-- mov.xd.b32 as a 32-bit word (02 R38). -/
def execMovXdB32W32 (dist : BitVec 2) (d : Nat) (b : Src) : State → Out :=
  movXd (hdr32 dist) 4 d b

/-- mov.xad.b32 (07 R191). -/
def execMovXadB32 (h : Hdr) (d a : Nat) : State → Out :=
  movXad h 8 d a

/-- mov.xad.b32 as a 32-bit word (02 R38). -/
def execMovXadB32W32 (dist : BitVec 2) (d a : Nat) : State → Out :=
  movXad (hdr32 dist) 4 d a

/-- pack.b16 (07 R191). -/
def execPackB16 (h : Hdr) (d : Dst) (a b : Src) : State → Out :=
  lane2 tInt extN (fun a b => noFl (b.extractLsb' 0 16 ++ a.extractLsb' 0 16)) h 8 d a b

/-- pack.b16 as a 32-bit word (02 R38). -/
def execPackB16W32 (dist : BitVec 2) (d : Dst) (a b : Src) : State → Out :=
  lane2 tInt extN (fun a b => noFl (b.extractLsb' 0 16 ++ a.extractLsb' 0 16)) (hdr32 dist) 4 d a b

/-- vperm.b32: the highest source lane that names a target wins; a target that none names is unchanged (R215), and so is a W
register where none names the lowest active lane, whose value it takes (02 R43). -/
def execVpermB32 (h : Hdr) (d : Dst) (a b : Src) : State → Out :=
  let srcs : List SrcW := [(a, .w32), (b, .w32)]
  laneFixed tPerm h 8 [(d, .w32)] srcs fun c m =>
    let x := c.words extN srcs 0
    let y := c.words extN srcs 1
    let from_ := fun t => (maskLanes m).foldl
      (fun (o : Option Nat) l => if (w32 y l).toNat % 32 == t then some l else o) none
    let hit := mkMask fun t => bit m t && (from_ t).isSome
    let r := res32 hit d fun t => match from_ t with
      | some l => w32 x l
      | none => 0
    .ok (match d with
      | .w _ => if lowest hit == lowest m then r else { r with writes := [] }
      | _ => r)

-- Votes, reductions and scans -----------------------------------------------------------------

/-- A vote into a predicate (R216). -/
def voteP (f : PCode → PCode → PCode) (unit : PCode) (h : Hdr) (p q : BitVec 3) : State → Out :=
  laneFixed tVote h 8 [] [] fun c m =>
    let r := (maskLanes m).foldl (fun o l => f o ((c.pred q).code l)) unit
    .ok (Res.pred m p.toNat (PVal.of fun _ => r) 0 0)

/-- lvote.and (R216). -/
def execLvoteAnd (h : Hdr) (p q : BitVec 3) : State → Out := voteP PCode.and .t h p q

/-- lvote.or (R216). -/
def execLvoteOr (h : Hdr) (p q : BitVec 3) : State → Out := voteP PCode.or .f h p q

/-- lvote.mask: {U, T} whole into W; T in every active lane of V (R216). -/
def execLvoteMask (h : Hdr) (d : Dst) (q : BitVec 3) : State → Out :=
  laneFixed tVote h 8 [(d, .w32)] [] fun c m =>
    let x := c.pred q
    match d with
    | .w n => .ok ⟨if m = 0 then [] else [.w n ((x.u &&& m) ++ (x.t &&& m))], [], none, 0, 0⟩
    | _ => .ok (res32 m d fun _ => x.t &&& m)

/-- An integer reduction over the active lanes (R217). -/
def vred (f : Int → Int → Int) (h : Hdr) (d : Dst) (a : Src) : State → Out :=
  let srcs : List SrcW := [(a, .w32)]
  laneFixed tVote h 8 [(d, .w32)] srcs fun c m =>
    let x := c.words extN srcs 0
    let vals := (maskLanes m).map fun l => (w32 x l).toInt
    let r : Int := match vals with
      | [] => 0
      | v :: t => t.foldl f v
    .ok (res32 m d fun _ => BitVec.ofInt 32 r)

/-- vred.add.i32 (R217). -/
def execVredAddI32 (h : Hdr) (d : Dst) (a : Src) : State → Out := vred (· + ·) h d a

/-- vred.min.i32 (R217). -/
def execVredMinI32 (h : Hdr) (d : Dst) (a : Src) : State → Out := vred min h d a

/-- vred.max.i32 (R217). -/
def execVredMaxI32 (h : Hdr) (d : Dst) (a : Src) : State → Out := vred max h d a

/-- vscan.add.i32: inclusive, over the active lanes (R217). -/
def execVscanAddI32 (h : Hdr) (d : Dst) (a : Src) : State → Out :=
  let srcs : List SrcW := [(a, .w32)]
  laneFixed tVote h 8 [(d, .w32)] srcs fun c m =>
    let x := c.words extN srcs 0
    .ok (res32 m d fun l =>
      ((maskLanes m).filter (· ≤ l)).foldl (fun s j => s + w32 x j) 0)

/-- An element of the tree of vred.add.f32; none is ABSENT. -/
def comb (u v : Option Coded) : Option Coded :=
  match u, v with
  | none, v => v
  | u, none => u
  | some a, some b =>
    let r := fpAdd fp32 rmN a.1 b.1
    some (r.1, a.2 ||| b.2 ||| r.2)

/-- One level of the tree: neighbours are combined (R217). -/
def combPairs : List (Option Coded) → List (Option Coded)
  | a :: b :: t => comb a b :: combPairs t
  | l => l

/-- vred.add.f32: the fixed tree of R217, with the flags of every addition. -/
def execVredAddF32 (h : Hdr) (d : Dst) (a : Src) : State → Out :=
  let srcs : List SrcW := [(a, .w32)]
  laneFixed tRedF h 8 [(d, .w32)] srcs fun c m =>
    let x := c.words extN srcs 0
    let leaves : List (Option Coded) :=
      lanes32.map fun l => if bit m l then some ((w32 x l).toNat, 0) else none
    let top := combPairs (combPairs (combPairs (combPairs (combPairs leaves))))
    let r := ((top.head?.getD none).getD (0, 0))
    .ok (res32F m d fun _ => (BitVec.ofNat 32 r.1, r.2))

-- Filtering to k ------------------------------------------------------------------------------

/-- Whether score x ranks before score y; a NaN ranks below every number (R218). -/
def ranksBefore (isMin : Bool) (x y : Word) : Bool :=
  let u := fp32.decode x.toNat
  let v := fp32.decode y.toNat
  if u.isNan then false
  else if v.isNan then true
  else if isMin then u.lt v else v.lt u

/-- Insert a lane after those that it does not rank before. -/
def rankInsert (isMin : Bool) (x : List Lanes) (l : Nat) : List Nat → List Nat
  | [] => [l]
  | k :: t => if ranksBefore isMin (w32 x l) (w32 x k) then l :: k :: t else k :: rankInsert isMin x l t

/-- vfilt (R218). -/
def execVfilt (h : Hdr) (d : Dst) (a b e : Src) : State → Out :=
  let srcs : List SrcW := [(a, .w32), (b, .w32)]
  laneFixed tFilt h 8 [(d, .w64)] srcs fun c m =>
    let wc := c.scalar e
    let k := wc.toNat % 64
    if k = 0 ∨ 32 < k ∨ (wc &&& 0xffe0fec0) ≠ 0 then .error (tr cValue)
    else
      let isMin := bit wc 8
      let x := c.words extN srcs 0
      let y := c.words extN srcs 1
      let sel := ((c.pred (wc.extractLsb' 16 3)).select (wc.extractLsb' 19 2)) &&& m
      let best := (maskLanes sel).foldl (fun o l => rankInsert isMin x l o) []
      let keep := m &&& mkMask (· < k)
      let score := mkLanes fun i => match best[i]? with
        | some l => w32 x l
        | none => if isMin then 0x7f800000 else 0xff800000
      let index := mkLanes fun i => match best[i]? with
        | some l => w32 y l
        | none => 0xffffffff
      let n := match e with | .w n => n | _ => 0
      .ok ⟨dstWrites keep d [score, index] ++
          (if m = 0 then [] else [.w n (BitVec.ofNat 32 best.length ++ wc.setWidth 32)]),
        dstRegs d 2, none, 0, 0⟩

end Sys2Proof.Machine
end

