-- ==== Sys2Proof/Machine/Words.lean ====
section
/-!
DEFINITION. The meanings of the words of the streams, as the step and the choice of what issues (15 R353 to R356)
call them: each is the one that exec gives the same instruction.
-/

namespace Sys2Proof.Machine

/-- The meaning of a word. -/
def runLo (x : FormLo) (s : State) : Out :=
  match x with
  | .nop => execNop s
  | .dictionaryReference dist entry => execDictionaryReference dist entry s
  | .addI32 h d a b => execAddI32 h d a b s
  | .addI32W32 dist d a b => execAddI32W32 dist d a b s
  | .addI32C16 d b => execAddI32C16 d b s
  | .subI32 h d a b => execSubI32 h d a b s
  | .subI32W32 dist d a b => execSubI32W32 dist d a b s
  | .subI32C16 d b => execSubI32C16 d b s
  | .addSatI32 h d a b => execAddSatI32 h d a b s
  | .addSatI32W32 dist d a b => execAddSatI32W32 dist d a b s
  | .subSatI32 h d a b => execSubSatI32 h d a b s
  | .subSatI32W32 dist d a b => execSubSatI32W32 dist d a b s
  | .addSatN32 h d a b => execAddSatN32 h d a b s
  | .addSatN32W32 dist d a b => execAddSatN32W32 dist d a b s
  | .subSatN32 h d a b => execSubSatN32 h d a b s
  | .subSatN32W32 dist d a b => execSubSatN32W32 dist d a b s
  | .addI16 h d a b => execAddI16 h d a b s
  | .addI16W32 dist d a b => execAddI16W32 dist d a b s
  | .subI16 h d a b => execSubI16 h d a b s
  | .subI16W32 dist d a b => execSubI16W32 dist d a b s
  | .mulI32 h d a b => execMulI32 h d a b s
  | .mulI32W32 dist d a b => execMulI32W32 dist d a b s
  | .mulhiI32 h d a b => execMulhiI32 h d a b s
  | .mulhiI32W32 dist d a b => execMulhiI32W32 dist d a b s
  | .mulhiN32 h d a b => execMulhiN32 h d a b s
  | .mulhiN32W32 dist d a b => execMulhiN32W32 dist d a b s
  | .mulSatI32 h d a b => execMulSatI32 h d a b s
  | .mulSatI32W32 dist d a b => execMulSatI32W32 dist d a b s
  | .mulI16 h d a b => execMulI16 h d a b s
  | .mulI16W32 dist d a b => execMulI16W32 dist d a b s
  | .andB32 h d a b => execAndB32 h d a b s
  | .andB32W32 dist d a b => execAndB32W32 dist d a b s
  | .andB32C16 d b => execAndB32C16 d b s
  | .orB32 h d a b => execOrB32 h d a b s
  | .orB32W32 dist d a b => execOrB32W32 dist d a b s
  | .orB32C16 d b => execOrB32C16 d b s
  | .xorB32 h d a b => execXorB32 h d a b s
  | .xorB32W32 dist d a b => execXorB32W32 dist d a b s
  | .xorB32C16 d b => execXorB32C16 d b s
  | .andnB32 h d a b => execAndnB32 h d a b s
  | .andnB32W32 dist d a b => execAndnB32W32 dist d a b s
  | .ornB32 h d a b => execOrnB32 h d a b s
  | .ornB32W32 dist d a b => execOrnB32W32 dist d a b s
  | .xnorB32 h d a b => execXnorB32 h d a b s
  | .xnorB32W32 dist d a b => execXnorB32W32 dist d a b s
  | .shlB32 h d a b => execShlB32 h d a b s
  | .shlB32W32 dist d a b => execShlB32W32 dist d a b s
  | .shlB32C16 d b => execShlB32C16 d b s
  | .shrN32 h d a b => execShrN32 h d a b s
  | .shrN32W32 dist d a b => execShrN32W32 dist d a b s
  | .shrN32C16 d b => execShrN32C16 d b s
  | .shrI32 h d a b => execShrI32 h d a b s
  | .shrI32W32 dist d a b => execShrI32W32 dist d a b s
  | .rotlB32 h d a b => execRotlB32 h d a b s
  | .rotlB32W32 dist d a b => execRotlB32W32 dist d a b s
  | .rotrB32 h d a b => execRotrB32 h d a b s
  | .rotrB32W32 dist d a b => execRotrB32W32 dist d a b s
  | .minI32 h d a b => execMinI32 h d a b s
  | .minI32W32 dist d a b => execMinI32W32 dist d a b s
  | .minI32C16 d b => execMinI32C16 d b s
  | .maxI32 h d a b => execMaxI32 h d a b s
  | .maxI32W32 dist d a b => execMaxI32W32 dist d a b s
  | .maxI32C16 d b => execMaxI32C16 d b s
  | .minN32 h d a b => execMinN32 h d a b s
  | .minN32W32 dist d a b => execMinN32W32 dist d a b s
  | .maxN32 h d a b => execMaxN32 h d a b s
  | .maxN32W32 dist d a b => execMaxN32W32 dist d a b s
  | .adifI32 h d a b => execAdifI32 h d a b s
  | .adifI32W32 dist d a b => execAdifI32W32 dist d a b s
  | .adifN32 h d a b => execAdifN32 h d a b s
  | .adifN32W32 dist d a b => execAdifN32W32 dist d a b s
  | .bfextN32 h d a b => execBfextN32 h d a b s
  | .bfextN32W32 dist d a b => execBfextN32W32 dist d a b s
  | .bfextI32 h d a b => execBfextI32 h d a b s
  | .bfextI32W32 dist d a b => execBfextI32W32 dist d a b s
  | .bfinsB32 h d a b c => execBfinsB32 h d a b c s
  | .bfinsB32W32 dist d a b => execBfinsB32W32 dist d a b s
  | .popcB32 h d a => execPopcB32 h d a s
  | .popcB32W32 dist d a => execPopcB32W32 dist d a s
  | .clzB32 h d a => execClzB32 h d a s
  | .clzB32W32 dist d a => execClzB32W32 dist d a s
  | .brevB32 h d a => execBrevB32 h d a s
  | .brevB32W32 dist d a => execBrevB32W32 dist d a s
  | .addI64 h d a b => execAddI64 h d a b s
  | .addI64W32 dist d a b => execAddI64W32 dist d a b s
  | .subI64 h d a b => execSubI64 h d a b s
  | .subI64W32 dist d a b => execSubI64W32 dist d a b s
  | .addF32 h rnd d a b => execAddF32 h rnd d a b s
  | .addF32W32 dist rnd d a b => execAddF32W32 dist rnd d a b s
  | .addF32C16 d b => execAddF32C16 d b s
  | .subF32 h rnd d a b => execSubF32 h rnd d a b s
  | .subF32W32 dist rnd d a b => execSubF32W32 dist rnd d a b s
  | .subF32C16 d b => execSubF32C16 d b s
  | .mulF32 h rnd d a b => execMulF32 h rnd d a b s
  | .mulF32W32 dist rnd d a b => execMulF32W32 dist rnd d a b s
  | .mulF32C16 d b => execMulF32C16 d b s
  | .addF16 h rnd d a b => execAddF16 h rnd d a b s
  | .addF16W32 dist rnd d a b => execAddF16W32 dist rnd d a b s
  | .subF16 h rnd d a b => execSubF16 h rnd d a b s
  | .subF16W32 dist rnd d a b => execSubF16W32 dist rnd d a b s
  | .addBf16 h rnd d a b => execAddBf16 h rnd d a b s
  | .addBf16W32 dist rnd d a b => execAddBf16W32 dist rnd d a b s
  | .subBf16 h rnd d a b => execSubBf16 h rnd d a b s
  | .subBf16W32 dist rnd d a b => execSubBf16W32 dist rnd d a b s
  | .mulF16 h rnd d a b => execMulF16 h rnd d a b s
  | .mulF16W32 dist rnd d a b => execMulF16W32 dist rnd d a b s
  | .mulBf16 h rnd d a b => execMulBf16 h rnd d a b s
  | .mulBf16W32 dist rnd d a b => execMulBf16W32 dist rnd d a b s
  | .minF32 h d a b => execMinF32 h d a b s
  | .minF32W32 dist d a b => execMinF32W32 dist d a b s
  | .minF32C16 d b => execMinF32C16 d b s
  | .maxF32 h d a b => execMaxF32 h d a b s
  | .maxF32W32 dist d a b => execMaxF32W32 dist d a b s
  | .maxF32C16 d b => execMaxF32C16 d b s
  | .minF16 h d a b => execMinF16 h d a b s
  | .minF16W32 dist d a b => execMinF16W32 dist d a b s
  | .maxF16 h d a b => execMaxF16 h d a b s
  | .maxF16W32 dist d a b => execMaxF16W32 dist d a b s
  | .minBf16 h d a b => execMinBf16 h d a b s
  | .minBf16W32 dist d a b => execMinBf16W32 dist d a b s
  | .maxBf16 h d a b => execMaxBf16 h d a b s
  | .maxBf16W32 dist d a b => execMaxBf16W32 dist d a b s
  | .minF64 h d a b => execMinF64 h d a b s
  | .minF64W32 dist d a b => execMinF64W32 dist d a b s
  | .maxF64 h d a b => execMaxF64 h d a b s
  | .maxF64W32 dist d a b => execMaxF64W32 dist d a b s
  | .addF64 h rnd d a b => execAddF64 h rnd d a b s
  | .addF64W32 dist rnd d a b => execAddF64W32 dist rnd d a b s
  | .subF64 h rnd d a b => execSubF64 h rnd d a b s
  | .subF64W32 dist rnd d a b => execSubF64W32 dist rnd d a b s
  | .mulF64 h rnd d a b => execMulF64 h rnd d a b s
  | .mulF64W32 dist rnd d a b => execMulF64W32 dist rnd d a b s
  | .lxchSelB32 h d a b => execLxchSelB32 h d a b s
  | .lxchSelB32W32 dist d a b => execLxchSelB32W32 dist d a b s
  | .lxchLoB32 h d a b => execLxchLoB32 h d a b s
  | .lxchLoB32W32 dist d a b => execLxchLoB32W32 dist d a b s
  | .lxchHiB32 h d a b => execLxchHiB32 h d a b s
  | .lxchHiB32W32 dist d a b => execLxchHiB32W32 dist d a b s
  | .lxchFlipB32 h d a b => execLxchFlipB32 h d a b s
  | .lxchFlipB32W32 dist d a b => execLxchFlipB32W32 dist d a b s
  | .movB32 h d b => execMovB32 h d b s
  | .movB32W32 dist d b => execMovB32W32 dist d b s
  | .movB32C16 d b => execMovB32C16 d b s
  | .movXaB32 h d a => execMovXaB32 h d a s
  | .movXaB32W32 dist d a => execMovXaB32W32 dist d a s
  | .movXdB32 h d b => execMovXdB32 h d b s
  | .movXdB32W32 dist d b => execMovXdB32W32 dist d b s
  | .movXadB32 h d a => execMovXadB32 h d a s
  | .movXadB32W32 dist d a => execMovXadB32W32 dist d a s
  | .packB16 h d a b => execPackB16 h d a b s
  | .packB16W32 dist d a b => execPackB16W32 dist d a b s
  | .fmaF32 h rnd d a b c => execFmaF32 h rnd d a b c s
  | .fnmaF32 h rnd d a b c => execFnmaF32 h rnd d a b c s
  | .fmaF64 h rnd d a b c => execFmaF64 h rnd d a b c s
  | .fnmaF64 h rnd d a b c => execFnmaF64 h rnd d a b c s
  | .fmaF16 h rnd d a b c => execFmaF16 h rnd d a b c s
  | .fnmaF16 h rnd d a b c => execFnmaF16 h rnd d a b c s
  | .fmaBf16 h rnd d a b c => execFmaBf16 h rnd d a b c s
  | .fnmaBf16 h rnd d a b c => execFnmaBf16 h rnd d a b c s
  | .madI32 h d a b c => execMadI32 h d a b c s
  | .madhiI32 h d a b c => execMadhiI32 h d a b c s
  | .madhiN32 h d a b c => execMadhiN32 h d a b c s
  | .madSatI32 h d a b c => execMadSatI32 h d a b c s
  | .dot4I8 h d a b c => execDot4I8 h d a b c s
  | .dot4N8 h d a b c => execDot4N8 h d a b c s
  | .dot2I16 h d a b c => execDot2I16 h d a b c s
  | .rcpF32 h rnd d a => execRcpF32 h rnd d a s
  | .rsqrtF32 h d a => execRsqrtF32 h d a s
  | .sqrtF32 h rnd d a => execSqrtF32 h rnd d a s
  | .exp2F32 h d a => execExp2F32 h d a s
  | .log2F32 h d a => execLog2F32 h d a s
  | .sinF32 h d a => execSinF32 h d a s
  | .cosF32 h d a => execCosF32 h d a s
  | .rcpF64 h rnd d a => execRcpF64 h rnd d a s
  | .rsqrtF64 h d a => execRsqrtF64 h d a s
  | .sqrtF64 h rnd d a => execSqrtF64 h rnd d a s
  | .cmpEqB32 h d a b => execCmpEqB32 h d a b s
  | .cmpNeB32 h d a b => execCmpNeB32 h d a b s
  | .cmpLtI32 h d a b => execCmpLtI32 h d a b s
  | .cmpLeI32 h d a b => execCmpLeI32 h d a b s
  | .cmpLtN32 h d a b => execCmpLtN32 h d a b s
  | .cmpLeN32 h d a b => execCmpLeN32 h d a b s
  | .tstB32 h d a b => execTstB32 h d a b s
  | .cmpEqF32 h p a b => execCmpEqF32 h p a b s
  | .cmpNeF32 h p a b => execCmpNeF32 h p a b s
  | .cmpLtF32 h p a b => execCmpLtF32 h p a b s
  | .cmpLeF32 h p a b => execCmpLeF32 h p a b s
  | .cmpGtF32 h p a b => execCmpGtF32 h p a b s
  | .cmpGeF32 h p a b => execCmpGeF32 h p a b s
  | .cmpUnF32 h p a b => execCmpUnF32 h p a b s
  | .cmpOrdF32 h p a b => execCmpOrdF32 h p a b s
  | .cmpEqF64 h p a b => execCmpEqF64 h p a b s
  | .cmpNeF64 h p a b => execCmpNeF64 h p a b s
  | .cmpLtF64 h p a b => execCmpLtF64 h p a b s
  | .cmpLeF64 h p a b => execCmpLeF64 h p a b s
  | .cmpGtF64 h p a b => execCmpGtF64 h p a b s
  | .cmpGeF64 h p a b => execCmpGeF64 h p a b s
  | .cmpUnF64 h p a b => execCmpUnF64 h p a b s
  | .cmpOrdF64 h p a b => execCmpOrdF64 h p a b s
  | .cvtF32F64 h rnd d a => execCvtF32F64 h rnd d a s
  | .cvtF64F32 h rnd d a => execCvtF64F32 h rnd d a s
  | .cvtF16F32 h rnd d a b => execCvtF16F32 h rnd d a b s
  | .cvtF32F16 h rnd d a hi => execCvtF32F16 h rnd d a hi s
  | .cvtBf16F32 h rnd d a b => execCvtBf16F32 h rnd d a b s
  | .cvtF32Bf16 h rnd d a hi => execCvtF32Bf16 h rnd d a hi s
  | .cvtI32F32 h rnd d a => execCvtI32F32 h rnd d a s
  | .cvtF32I32 h rnd d a => execCvtF32I32 h rnd d a s
  | .cvtN32F32 h rnd d a => execCvtN32F32 h rnd d a s
  | .cvtF32N32 h rnd d a => execCvtF32N32 h rnd d a s
  | .cvtI64F64 h rnd d a => execCvtI64F64 h rnd d a s
  | .cvtF64I64 h rnd d a => execCvtF64I64 h rnd d a s
  | .cvtI32F64 h rnd d a => execCvtI32F64 h rnd d a s
  | .cvtF64I32 h rnd d a => execCvtF64I32 h rnd d a s
  | .cvtSatI8I32 h rnd d a => execCvtSatI8I32 h rnd d a s
  | .cvtSatI16I32 h rnd d a => execCvtSatI16I32 h rnd d a s
  | .cvtFfF32 h rnd d a f => execCvtFfF32 h rnd d a f s
  | .cvtF32Ff h rnd d a f => execCvtF32Ff h rnd d a f s
  | .cvtFfBf16 h rnd d a f => execCvtFfBf16 h rnd d a f s
  | .cvtBf16Ff h rnd d a f => execCvtBf16Ff h rnd d a f s
  | .packMx h d a f => execPackMx h d a f s
  | .unpackMx h rnd d a f => execUnpackMx h rnd d a f s
  | .lvoteAnd h p q => execLvoteAnd h p q s
  | .lvoteOr h p q => execLvoteOr h p q s
  | .lvoteMask h d q => execLvoteMask h d q s
  | .vredAddI32 h d a => execVredAddI32 h d a s
  | .vredMinI32 h d a => execVredMinI32 h d a s
  | .vredMaxI32 h d a => execVredMaxI32 h d a s
  | .vredAddF32 h d a => execVredAddF32 h d a s
  | .vscanAddI32 h d a => execVscanAddI32 h d a s
  | .vfilt h d a b c => execVfilt h d a b c s
  | .vpermB32 h d a b => execVpermB32 h d a b s
  | .pand h p q r => execPand h p q r s
  | .por h p q r => execPor h p q r s
  | .pnot h p q => execPnot h p q s
  | .pmov h p a => execPmov h p a s
  | .selB32 h d a b q => execSelB32 h d a b q s
  | .pfrom h p a => execPfrom h p a s
  | .pto h d q => execPto h d q s

/-- The meaning of a word. -/
def runHi (x : FormHi) (s : State) : Out :=
  match x with
  | .addIv32 h d a b => execAddIv32 h d a b s
  | .subIv32 h d a b => execSubIv32 h d a b s
  | .mulIv32 h d a b => execMulIv32 h d a b s
  | .divIv32 h d a b => execDivIv32 h d a b s
  | .sqrIv32 h d a => execSqrIv32 h d a s
  | .sqrtIv32 h d a => execSqrtIv32 h d a s
  | .negIv32 h d a => execNegIv32 h d a s
  | .fmaIv32 h d a b c => execFmaIv32 h d a b c s
  | .addIv64 h d a b => execAddIv64 h d a b s
  | .subIv64 h d a b => execSubIv64 h d a b s
  | .mulIv64 h d a b => execMulIv64 h d a b s
  | .divIv64 h d a b => execDivIv64 h d a b s
  | .sqrIv64 h d a => execSqrIv64 h d a s
  | .sqrtIv64 h d a => execSqrtIv64 h d a s
  | .negIv64 h d a => execNegIv64 h d a s
  | .fmaIv64 h d a b c => execFmaIv64 h d a b c s
  | .hullIv32 h d a b => execHullIv32 h d a b s
  | .isectIv32 h d a b => execIsectIv32 h d a b s
  | .midIv32 h d a => execMidIv32 h d a s
  | .widIv32 h d a => execWidIv32 h d a s
  | .cmpLtIv32 h p a b => execCmpLtIv32 h p a b s
  | .cmpLeIv32 h p a b => execCmpLeIv32 h p a b s
  | .cmpEqIv32 h p a b => execCmpEqIv32 h p a b s
  | .bisectIv32 h d a => execBisectIv32 h d a s
  | .hullIv64 h d a b => execHullIv64 h d a b s
  | .isectIv64 h d a b => execIsectIv64 h d a b s
  | .midIv64 h d a => execMidIv64 h d a s
  | .widIv64 h d a => execWidIv64 h d a s
  | .cmpLtIv64 h p a b => execCmpLtIv64 h p a b s
  | .cmpLeIv64 h p a b => execCmpLeIv64 h p a b s
  | .cmpEqIv64 h p a b => execCmpEqIv64 h p a b s
  | .bisectIv64 h d a => execBisectIv64 h d a s
  | .ivSpawn h d a => execIvSpawn h d a s
  | .mkivIv32 h d a b => execMkivIv32 h d a b s
  | .mkivIv64 h d a b => execMkivIv64 h d a b s
  | .ldIv32 h d a hint => execLdIv32 h d a hint s
  | .ldIv64 h d a hint => execLdIv64 h d a hint s
  | .stIv32 h a b hint => execStIv32 h a b hint s
  | .stIv64 h a b hint => execStIv64 h a b hint s
  | .tcfg h t a b c => execTcfg h t a b c s
  | .tload h t bv a b bo => execTload h t bv a b bo s
  | .tstore h t bv a b bo => execTstore h t bv a b bo s
  | .tzero h t => execTzero h t s
  | .mwload h t => execMwload h t s
  | .mwloadSm h t b => execMwloadSm h t b s
  | .mzero h acc => execMzero h acc s
  | .mflags h d clr => execMflags h d clr s
  | .mmacI8 h acc t rp cpn cpk z c => execMmacI8 h acc t rp cpn cpk z c s
  | .mmacF8 h acc t rp cpn cpk z c => execMmacF8 h acc t rp cpn cpk z c s
  | .mmacF4 h acc t rp cpn cpk z c => execMmacF4 h acc t rp cpn cpk z c s
  | .mmacBf16 h acc t rp cpn cpk z c => execMmacBf16 h acc t rp cpn cpk z c s
  | .mmacF16 h acc t rp cpn cpk z c => execMmacF16 h acc t rp cpn cpk z c s
  | .mmacX3 h acc t rp cpn cpk z c => execMmacX3 h acc t rp cpn cpk z c s
  | .mmacMx h acc t rp cpn cpk z c => execMmacMx h acc t rp cpn cpk z c s
  | .mstore h t acc rp cp => execMstore h t acc rp cp s
  | .mload h acc t rp cp => execMload h acc t rp cp s
  | .mcvt h acc src rp cp c => execMcvt h acc src rp cp c s
  | .mpset h cnt col idx a => execMpset h cnt col idx a s
  | .marrive h bo a => execMarrive h bo a s
  | .mswap h => execMswap h s
  | .ldN8 h d a hint => execLdN8 h d a hint s
  | .ldI8 h d a hint => execLdI8 h d a hint s
  | .ldN16 h d a hint => execLdN16 h d a hint s
  | .ldI16 h d a hint => execLdI16 h d a hint s
  | .ldB32 h d a hint => execLdB32 h d a hint s
  | .ldB64 h d a hint => execLdB64 h d a hint s
  | .ldB128 h d a hint => execLdB128 h d a hint s
  | .stB8 h a b hint => execStB8 h a b hint s
  | .stB16 h a b hint => execStB16 h a b hint s
  | .stB32 h a b hint => execStB32 h a b hint s
  | .stB64 h a b hint => execStB64 h a b hint s
  | .stB128 h a b hint => execStB128 h a b hint s
  | .ldsB32 h d a => execLdsB32 h d a s
  | .ldsB64 h d a => execLdsB64 h d a s
  | .stsB32 h a b => execStsB32 h a b s
  | .stsB64 h a b => execStsB64 h a b s
  | .ldlB32 h d a => execLdlB32 h d a s
  | .ldlB64 h d a => execLdlB64 h d a s
  | .stlB32 h a b => execStlB32 h a b s
  | .stlB64 h a b => execStlB64 h a b s
  | .atomAddI32 h d a b sc => execAtomAddI32 h d a b sc s
  | .atomMinI32 h d a b sc => execAtomMinI32 h d a b sc s
  | .atomMaxI32 h d a b sc => execAtomMaxI32 h d a b sc s
  | .atomAndB32 h d a b sc => execAtomAndB32 h d a b sc s
  | .atomOrB32 h d a b sc => execAtomOrB32 h d a b sc s
  | .atomXorB32 h d a b sc => execAtomXorB32 h d a b sc s
  | .atomExchB32 h d a b sc => execAtomExchB32 h d a b sc s
  | .atomCasB32 h d a b sc => execAtomCasB32 h d a b sc s
  | .atomAddF32 h d a b sc => execAtomAddF32 h d a b sc s
  | .aredAddI32 h a b sc => execAredAddI32 h a b sc s
  | .aredAddF32 h a b sc => execAredAddF32 h a b sc s
  | .aredMinI32 h a b sc => execAredMinI32 h a b sc s
  | .aredMaxI32 h a b sc => execAredMaxI32 h a b sc s
  | .aredAndB32 h a b sc => execAredAndB32 h a b sc s
  | .aredOrB32 h a b sc => execAredOrB32 h a b sc s
  | .aredXorB32 h a b sc => execAredXorB32 h a b sc s
  | .aredAddI64 h a b sc => execAredAddI64 h a b sc s
  | .ldrB32 h d a sc => execLdrB32 h d a sc s
  | .stcB32 h d a b sc => execStcB32 h d a b sc s
  | .fence h sc => execFence h sc s
  | .prefetch h a hint => execPrefetch h a hint s
  | .cwback h a hint => execCwback h a hint s
  | .cinval h a hint => execCinval h a hint s
  | .xgather h bo cnt a b slot mw => execXgather h bo cnt a b slot mw s
  | .xgatherSum h bo cnt a b slot mw => execXgatherSum h bo cnt a b slot mw s
  | .xgatherMax h bo cnt a b slot mw => execXgatherMax h bo cnt a b slot mw s
  | .xgatherMean h bo cnt a b slot mw => execXgatherMean h bo cnt a b slot mw s
  | .xscadd h bo cnt a b slot mw => execXscadd h bo cnt a b slot mw s
  | .xscmax h bo cnt a b slot mw => execXscmax h bo cnt a b slot mw s
  | .xscore h bo cnt a b slot mw => execXscore h bo cnt a b slot mw s
  | .xqload h d a slot => execXqload h d a slot s
  | .xqfree h a => execXqfree h a s
  | .xstat h d clr => execXstat h d clr s
  | .xmask h p k => execXmask h p k s
  | .xwait h k => execXwait h k s
  | .acopyIn h tag a b bo bv ch => execAcopyIn h tag a b bo bv ch s
  | .acopyOut h tag a b bo bv ch => execAcopyOut h tag a b bo bv ch s
  | .tagwaitAny h a => execTagwaitAny h a s
  | .tagwaitAll h a => execTagwaitAll h a s
  | .tagffr h d a => execTagffr h d a s
  | .tagclr h a => execTagclr h a s
  | .hfetch h d a slot form => execHfetch h d a slot form s
  | .hfetchPf h a slot form => execHfetchPf h a slot form s
  | .rowscan h ht ind a b hs => execRowscan h ht ind a b hs s
  | .fibld h d a slot form => execFibld h d a slot form s
  | .fibinv h slot fc => execFibinv h slot fc s
  | .dmaCopy h d a b c => execDmaCopy h d a b c s
  | .dmaFill h d a b c => execDmaFill h d a b c s
  | .dmaStat h d a => execDmaStat h d a s
  | .mdld h d a slot => execMdld h d a slot s
  | .launch h d a => execLaunch h d a s
  | .launchRec h d a => execLaunchRec h d a s
  | .grow h d a => execGrow h d a s
  | .vpoint h k => execVpoint h k s
  | .exit h => execExit h s
  | .bar h sv => execBar h sv s
  | .gbar h => execGbar h s
  | .mbar h k => execMbar h k s
  | .mjoin h k => execMjoin h k s
  | .mleave h k => execMleave h k s
  | .dqpush h a => execDqpush h a s
  | .dqpop h d => execDqpop h d s
  | .barinit h bo a => execBarinit h bo a s
  | .barwait h bo a => execBarwait h bo a s
  | .bararr h bo => execBararr h bo s
  | .br h ofs => execBr h ofs s
  | .brc h sense c ofs => execBrc h sense c ofs s
  | .brdq h sense ofs => execBrdq h sense ofs s
  | .brzm h pm p ofs => execBrzm h pm p ofs s
  | .split h p t u => execSplit h p t u s
  | .join h => execJoin h s
  | .call h ofs => execCall h ofs s
  | .ret h => execRet h s
  | .jmpi h a => execJmpi h a s
  | .calli h a => execCalli h a s
  | .emsave h d => execEmsave h d s
  | .emrest h a => execEmrest h a s
  | .emand h pm p => execEmand h pm p s
  | .trap h k => execTrap h k s
  | .rdst h d num => execRdst h d num s
  | .wrst h num b => execWrst h num b s
  | .rdlfsr h d => execRdlfsr h d s
  | .brk h k => execBrk h k s
  | .rdclk h d => execRdclk h d s
  | .waitImmediate h k => execWaitImmediate h k s
  | .waitRegister h a => execWaitRegister h a s

/-- The meaning of a word of a stream. -/
def runWord (x : Form) (s : State) : Out :=
  match x with
  | .lo x => runLo x s
  | .hi x => runHi x s

end Sys2Proof.Machine
end

