-- ==== Sys2Proof/Machine/Issue.lean ====
section
/-!
DEFINITION. What issues in a clk (15 R349 to R356; 14 R346; 07 R184) and the write-back of results (15
R350). Conditions 5 and 7 of R353 are asked of the instruction's own meaning: it holds, or it does not.
-/

namespace Sys2Proof.Machine

/-- What an agent's next instruction asks for. -/
structure Ask where
  hdr : Hdr
  /-- its own conditions do not hold (R353, conditions 5 and 7) -/
  holds : Bool
  /-- it takes the lane pipeline (condition 3) -/
  pipe : Bool
  /-- it takes a collector, and these bank cycles (condition 4) -/
  collector : Bool
  banks : List (Nat × Nat × Bool)
  /-- it waits on another agent, and so ends its split's pin (07 R184) -/
  unpins : Bool
  /-- its write has no room in its pool of versions (12 R298) -/
  stalls : Bool
deriving DecidableEq, Repr

/-- The clk in which an agent was last turned away. -/
def State.heldAt (s : State) (ag : Agent) : Option Nat :=
  match ag with
  | .split g w sp => ((((s.grp g).bind fun gr => gr.waves[w]?).bind fun wv => wv.splits[sp]?).bind fun x => x.heldAt)
  | .seq g => (s.grp g).bind fun gr => gr.seq.heldAt

/-- The state in which an agent's instruction is tried: nothing is booked in its quarter, and it has not
been turned away. -/
def State.trial (s : State) (ag : Agent) : State :=
  let s := { s with issuing := some ⟨ag, none, []⟩ }
  match ag with
  | .split g w sp =>
    (s.modQuarter (coreOf g) (quarterOf w) fun q => { q with pipeFree := 0, collectors := [], reserved := [] }).modSplit
      g w sp fun x => { x with heldAt := none, stallAt := none }
  | .seq g => s.modSeq g fun q => { q with heldAt := none, stallAt := none }

/-- A parked wave's saved latches are restored before the wave next issues (07 R184). -/
def State.withLatch (s : State) (g w : Nat) : State :=
  match (((s.grp g).bind fun gr => gr.waves[w]?).map fun wv => wv.savedLatch).getD [] with
  | [] => s
  | saved =>
    (s.modWave g w fun wv => { wv with savedLatch := [] }).modQuarter (coreOf g) (quarterOf w)
      fun q => { q with latches := saved.foldl (fun l x => l.set x.1 x.2) q.latches }

/-- The quarter of an agent; a sequencer has none. -/
def State.quarterOfAgent (s : State) : Agent → Quarter
  | .split g w _ => s.quarter (coreOf g) (quarterOf w)
  | .seq _ => Quarter.empty

/-- The clk in which an agent last stalled on its pool of versions. -/
def State.stallAt (s : State) (ag : Agent) : Option Nat :=
  match ag with
  | .split g w sp => ((((s.grp g).bind fun gr => gr.waves[w]?).bind fun wv => wv.splits[sp]?).bind fun x => x.stallAt)
  | .seq g => (s.grp g).bind fun gr => gr.seq.stallAt

/-- What a trial showed: s before it, t after it. -/
def asked (ag : Agent) (h : Hdr) (s t : State) : Ask :=
  let q := t.quarterOfAgent ag
  ⟨h, t.heldAt ag == some t.clk, q.pipeFree != 0, !q.collectors.isEmpty, q.reserved,
    (s.quarterOfAgent ag).pinnedBy.isSome && q.pinnedBy.isNone, t.stallAt ag == some t.clk⟩

/-- Try an agent's next instruction; none while its row is not filled or the agent is not there. -/
def State.ask (s : State) (ag : Agent) : Option Ask :=
  let t := s.trial ag
  match t.icx with
  | none => none
  | some c =>
    let trap : Ask := ⟨hdr16, false, false, false, [], false, false⟩
    let go := fun (t : State) (x : Form) =>
      match runWord x t with
      | .next t' => asked ag x.hdr t t'
      | _ => trap
    match t.chosen c ⟨ag, none, []⟩ with
    | .error .hold => none
    | .error _ => some trap
    | .ok (.lo (.dictionaryReference dist n)) =>
      (match execDictionaryReference dist n t with
        | .next t' =>
          (match t'.issuing with
            | some i =>
              (match t'.chosen c i with
                | .ok x => some (go t' x)
                | .error _ => some trap)
            | none => if t'.heldAt ag == some s.clk then none else some trap)
        | _ => none)
    | .ok x => some (go t x)

/-- A flag's count, with what falls by this clk (R352). -/
def flagNow (flags : List Nat) (pend : List Pend) (clk k : Nat) : Nat :=
  flags.getD k 0 - (pend.filter fun p => p.due ≤ clk && p.flag == some k).length

/-- Conditions 1 and 2 (R349, R352; 14 R347). -/
def inTime (clk : Nat) (last : Option Nat) (readyAt : Nat) (flags : List Nat) (pend : List Pend) (h : Hdr) : Bool :=
  readyAt ≤ clk
    && (match last with | some t => t + max 1 h.dist.toNat ≤ clk | none => true)
    && ((List.range 12).all fun k => !bit h.wait k || flagNow flags pend clk k == 0)
    && (match hdrFlag h with | some k => flagNow flags pend clk k < 63 | none => true)

/-- A wave waits as a whole: parked, held, or one of its splits waits for a translation, a first slot or an
answer. -/
def Wave.stopped (wv : Wave) : Bool :=
  !wv.live || wv.parked.isSome || wv.held
    || wv.splits.any fun x => x.live && (match x.blk with
      | .copy _ => true
      | .first _ => true
      | .req _ => true
      | _ => false)

/-- A group that issues nothing: its task has ended and its report waits, or a page of its context slot is not present
(16 R366; 13 R302). -/
def Group.stopped (gr : Group) : Bool := gr.halting.isSome || gr.slotWait.isSome

/-- A split of a wave as the quarter sees it in a clk: ready but for conditions 3 and 4, and those. -/
structure Cand where
  g : Nat
  w : Nat
  sp : Nat
  age : Nat
  promoted : Bool
  pins : Bool
  ready : Bool
  pipe : Bool
  banks : Bool
deriving DecidableEq, Repr

/-- The bank cycles an instruction asks for are free (condition 4). -/
def banksFree (held asks : List (Nat × Nat × Bool)) : Bool :=
  asks.all fun x => held.all fun y => !(x.1 == y.1 && x.2.1 == y.2.1) || (x.2.2 && y.2.2)

/-- One split as a candidate. -/
def State.cand (s : State) (g w sp : Nat) (gr : Group) (wv : Wave) : Option Cand :=
  match wv.splits[sp]? with
  | none => none
  | some x =>
    let now := s.quarter (coreOf g) (quarterOf w)
    if !x.live || x.blk != .none || wv.stopped || gr.stopped then none
    else if now.pinnedBy.isSome && now.pinnedBy != some (g, w, sp) then none
    else if wv.brkDue.isSome && (now.pinsOf g w).isEmpty then none
    else
      let s := s.withLatch g w
      let q := s.quarter (coreOf g) (quarterOf w)
      let pins := q.pinnedBy == some (g, w, sp)
      if q.pinnedBy.isSome && !pins then none
      else
        match s.ask (.split g w sp) with
        | none => none
        | some a =>
          let used := (q.collectors.filter (s.clk < ·)).length
          some ⟨g, w, sp, gr.age, wv.promoted, pins,
            inTime s.clk x.lastIssue x.readyAt wv.flags wv.pend a.hdr && (!a.holds || (pins && a.unpins)),
            !a.pipe || q.pipeFree ≤ s.clk,
            (!a.collector || used < 4) && banksFree q.reserved a.banks⟩

/-- The splits of a wave in the order in which it offers them (14 R346): in the window after an ldr the current split
alone, while there is one. -/
def Wave.offers (wv : Wave) : List Nat :=
  if 0 < wv.ldrWin && wv.liveSplits.contains wv.cur then [wv.cur]
  else
    let start := if 64 ≤ wv.turn then wv.cur + 1 else wv.cur
    (List.range 4).map fun k => (start + k) % 4

/-- What a wave offers: a split that can issue, else one that is ready, else one whose conditions but 3 and
4 hold. -/
def State.offer (s : State) (g w : Nat) (gr : Group) (wv : Wave) : Option Cand :=
  let cs := wv.offers.filterMap fun sp => s.cand g w sp gr wv
  match cs.find? fun c => c.ready && c.pipe && c.banks with
  | some c => some c
  | none =>
    match cs.find? fun c => c.ready && c.pipe with
    | some c => some c
    | none => cs.find? fun c => c.ready

/-- What the waves of a quarter offer. -/
def State.offers (s : State) (core quarter : Nat) : List Cand :=
  s.groups.flatMap fun (p : Nat × Group) =>
    if coreOf p.1 = core then
      (p.2.waves.zip (List.range p.2.waves.length)).filterMap fun x =>
        if quarterOf x.2 = quarter then s.offer p.1 x.2 p.2 x.1 else none
    else []

/-- The older of two candidates (R354). -/
def Cand.older (a b : Cand) : Bool := a.age < b.age || (a.age == b.age && a.w ≤ b.w)

/-- The oldest of a list. -/
def oldest (l : List Cand) : Option Cand :=
  l.foldl (fun m c => match m with
    | some x => if x.older c then some x else some c
    | none => some c) none

/-- The wave that a quarter issues in this clk, and those that lose an opportunity (R354, R355). -/
def chooseIssue (l : List Cand) : Option (Cand × List Cand) :=
  match oldest (l.filter fun c => c.promoted) with
  | some c => if c.pipe && c.banks then some (c, []) else none
  | none =>
    match oldest (l.filter fun c => c.pipe && c.banks) with
    | some c => some (c, if c.pins then [] else l.filter fun x => x.pipe && !(x.g == c.g && x.w == c.w))
    | none => none

/-- The dies have been asked to quiesce: issue stops at an instruction boundary (01 R25). -/
def State.quiesced (s : State) : Bool := s.pkg.hs != .idle

/-- A split that its wave offers and that can issue becomes the current one, whether or not its wave is chosen (14
R346). -/
def State.tookTurns (s : State) (l : List Cand) : State :=
  l.foldl (fun s c => s.modWave c.g c.w fun wv =>
    if c.ready && c.pipe && c.banks && wv.cur != c.sp then { wv with cur := c.sp, turn := 0 } else wv) s

/-- The wave of a quarter whose pin has ended with a brk waiting for that (16 R367; 07 R184). -/
def State.brkNow (s : State) (core quarter : Nat) : Option (Nat × Nat × Group × Wave) :=
  s.groups.findSome? fun p =>
    if coreOf p.1 = core then
      ((p.2.waves.zip (List.range p.2.waves.length)).find? fun x => quarterOf x.2 == quarter && x.1.live
        && x.1.brkDue.isSome && x.1.savedLatch.isEmpty && ((s.quarter core quarter).pinsOf p.1 x.2).isEmpty).map
          fun x => (p.1, x.2, p.2, x.1)
    else none

/-- ISSUE_SELECT: a quarter chooses a wave (R354, R355). A wave whose pin has ended is first held, where a brk waits for
that (16 R367). -/
def execIssueSelect (core quarter : Nat) (s : State) : Out :=
  if s.issuing.isSome || s.quiesced || (s.quarter core quarter).lastIssue == some s.clk then notNow s
  else
    match s.brkNow core quarter with
    | some (g, w, gr, wv) => .next (s.holdWave g w ((wv.splits.getD wv.cur Split.blank).pc) (wv.brkDue.getD 0) gr wv)
    | none =>
    match chooseIssue (s.offers core quarter) with
    | none => notNow s
    | some (c, lost) =>
      .next { (s.tookTurns (s.offers core quarter)).withLatch c.g c.w with issuing := some ⟨.split c.g c.w c.sp, none, lost.map fun x => (x.g, x.w)⟩ }

/-- A sequencer can issue in this clk. -/
def State.seqReady (s : State) (g : Nat) (gr : Group) : Bool :=
  let q := gr.seq
  if !q.live || q.blk != .none || q.parked.isSome || q.held || gr.stopped then false
  else
    match s.ask (.seq g) with
    | none => false
    | some a => inTime s.clk q.lastIssue q.readyAt q.flags q.pend a.hdr && !a.holds

/-- The sequencer that a core's port takes: the one after the last that issued (R356). -/
def State.nextSeq (s : State) (core : Nat) : Option Nat :=
  ((List.range 64).map fun k => 64 * core + ((s.core core).seqLast + 1 + k) % 64).find? fun g =>
    match s.grp g with
    | some gr => s.seqReady g gr
    | none => false

/-- SEQUENCER_PORT_ISSUE (R356). -/
def execSequencerPortIssue (core : Nat) (s : State) : Out :=
  if s.issuing.isSome || s.quiesced || (s.core core).seqClk == some s.clk then notNow s
  else
    match s.nextSeq core with
    | none => notNow s
    | some g => .next { s with issuing := some ⟨.seq g, none, []⟩ }

/-- RESULT_WRITEBACK: the first result due of an agent's wave, or sequencer, is written back and its flag
falls (R350, R352). A wave's result comes of reads of its core's store (07 R169). -/
def execResultWriteback (ag : Agent) (s : State) : Out :=
  match ag with
  | .split g w _ =>
    (match ((s.grp g).bind fun gr => gr.waves[w]?).bind fun wv => wv.pend.head? with
      | some p =>
        if p.due ≤ s.clk then
          .next (((s.modWave g w fun wv => { wv with pend := wv.pend.tail }).commitWave g w p).storeRead (coreOf g))
        else notNow s
      | none => notNow s)
  | .seq g =>
    (match (s.grp g).bind fun gr => gr.seq.pend.head? with
      | some p =>
        if p.due ≤ s.clk then .next (s.modSeq g fun q => { q with pend := q.pend.tail }.commit p)
        else notNow s
      | none => notNow s)

end Sys2Proof.Machine
end

