-- ==== Sys2Proof/Machine/Trouble.lean ====
section
/-!
DEFINITION. Uncorrectable errors (16 R368), early commits (12 R298), the path of fault records (16 R366; 17
R382), time slices (15 R359), the debugger (16 R367), counters and retired units (16 R370).
-/

namespace Sys2Proof.Machine

-- Uncorrectable errors ------------------------------------------------------------------------

/-- The agent's stream offset and, for a wave, its place. -/
def Group.pcOf (gr : Group) (ag : Agent) : Nat × Bool × List Nat :=
  match ag with
  | .split _ w sp =>
    let wv := gr.waves.getD w Wave.blank
    ((wv.splits.getD sp Split.blank).pc, false, [wv.place])
  | .seq _ => (gr.seq.pc, true, [])

/-- A wave is halted (16 R368): it counts as exited for barriers and queues, and its siblings, the sequencer
and the grid barrier are told at the next completion. -/
def State.haltWave (s : State) (g w : Nat) (gr : Group) : State :=
  let s := s.waveEnds g w
  let s := s.modGrp g fun y =>
    { y with
      waves := (updAt y.waves w fun wv => { wv with halted := true, parked := none }).map fun wv =>
        if wv.live then { wv with abn := some w } else wv
      seq := if y.seq.live then { y.seq with abn := some w } else y.seq }
  s.modGrid gr.grid gr.ctx fun x => { x with gbar := { x.gbar with abandoned := some w } }

/-- The agent is resident and has not ended, nor has its task. -/
def Group.hasAgent (gr : Group) (ag : Agent) : Bool :=
  gr.halting.isNone && match ag with
  | .split _ w sp => (match gr.waves[w]? with
      | some wv => wv.live && (match wv.splits[sp]? with | some x => x.live | none => false)
      | none => false)
  | .seq _ => gr.seq.live

/-- An error consumed from the core's own stores counts for the core (16 R370); whether this one came from
there is a free value. -/
def State.countError (s : State) (core : Nat) : State :=
  let own := bit s.freeVal 0
  let s := s.drawn
  if own then
    { s with pkg := { s.pkg with counters := SMap.modD core Counters.zero (fun c => { c with errs := c.errs + 1 }) s.pkg.counters } }
  else s

/-- UNCORRECTABLE_ERROR (16 R368, R363): a versioned group that can be rolled back is discarded and placed on
another cluster; otherwise a wave is halted, and a sequencer's task ends. -/
def execUncorrectableError (ag : Agent) (s : State) : Out :=
  let g := agPlace ag
  match s.grp g with
  | none => notNow s
  | some gr =>
    if !gr.hasAgent ag then notNow s
    else
      let p := gr.pcOf ag
      let lost := gr.versioned && gr.early
      let r := gr.report g cUncorrectable (if lost then 0x04 else 0) p.1 p.2.1 none 0 p.2.2
      let s := s.countError (coreOf g)
      if gr.versioned && !lost then
        if 3 ≤ gr.restarts then .next (s.endTask g r)
        else .next (s.stopTask g r true)
      else
        match ag with
        | .split _ w _ => .next ((s.send r).haltWave g w gr)
        | .seq _ => .next (s.endTask g r)

-- Early commits -------------------------------------------------------------------------------

/-- The agents of a group. -/
def Group.agents (gr : Group) (g : Nat) : List Agent :=
  .seq g :: (List.range gr.waves.length).flatMap fun w => (List.range 4).map fun sp => .split g w sp

/-- The group's version is the oldest open one of its pool (12 R295, R298). -/
def State.oldestVersion (s : State) (g : Nat) (gr : Group) : Bool :=
  s.groups.all fun x => clusterOf (coreOf x.1) != clusterOf (coreOf g) || !x.2.versioned || x.1 == g || gr.vopen < x.2.vopen

/-- An agent could issue now but for its write, which has no room in its pool (12 R298). -/
def State.stalledAgent (s : State) (gr : Group) (ag : Agent) : Bool :=
  gr.hasAgent ag && match ag, s.ask ag with
    | .split _ w sp, some a =>
      let wv := gr.waves.getD w Wave.blank
      let x := wv.splits.getD sp Split.blank
      a.stalls && !wv.stopped && x.blk == .none && inTime s.clk x.lastIssue x.readyAt wv.flags wv.pend a.hdr
    | .seq _, some a =>
      a.stalls && gr.seq.blk == .none && gr.seq.parked.isNone && !gr.seq.held
        && inTime s.clk gr.seq.lastIssue gr.seq.readyAt gr.seq.flags gr.seq.pend a.hdr
    | _, none => false

/-- A write of the group is stalled for want of room in its pool (12 R298): of an agent that issues, of an entry that
replays, of a copy or of a tstore. -/
def State.stalledWrite (s : State) (g : Nat) (gr : Group) : Bool :=
  gr.versioned &&
    (((gr.agents g).any fun ag => s.stalledAgent gr ag)
      || ((s.core (coreOf g)).replay.any fun r => agIsOf g r.ag && s.replayStalls g (coreOf g) r)
      || (s.copies.any fun x => agIsOf g x.ag && !x.inn && s.poolStalls g gr ((x.units.getD []).map fun t => (t, 16)))
      || (mqFree gr.mq).any fun x => x.2 && x.1.due ≤ s.clk && s.tileStalls g gr x.1.kind)

/-- An early commit of the group is due (12 R298): a write of it is stalled and its version is the oldest of its pool. As
a release by every agent of the group it waits for the writes in flight and for the replay entries, but for one whose own
write is the stalled one (R297, R299; log entry 61). -/
def State.earlyDue (s : State) (g : Nat) (gr : Group) : Bool :=
  gr.halting.isNone && s.stalledWrite g gr && s.oldestVersion g gr && s.writesDone g
    && (s.core (coreOf g)).replay.all fun r => !agIsOf g r.ag || s.replayStalls g (coreOf g) r

/-- EARLY_COMMIT (12 R298): the oldest version of a full pool commits, without a handoff record; the copies of
a redundant group do so together and are compared, and a third run is compared with the two discarded copies (16 R369). -/
def execEarlyCommit (g : Nat) (s : State) : Out :=
  match s.grp g with
  | none => notNow s
  | some gr =>
    if !s.earlyDue g gr then notNow s
    else
      let mark := fun (s : State) => (gr.copies g).foldl (fun (s : State) k => s.modGrp k fun y => { y with early := true, sigs := [] }) s
      match gr.twin with
      | none =>
        (match s.verdict Group.atPoint gr with
          | .commit blame => .next (mark ((s.blamed blame).commitPair g gr))
          | .unresolved => .next (s.endTask g (gr.report g cRedundancy 0 0 false none 0 []))
          | .wait => notNow s
          | .differ => notNow s)
      | some t =>
        match s.grp t with
        | none => notNow s
        | some o =>
          if !s.earlyDue t o then notNow s
          else if sigSum gr.sig = sigSum o.sig then .next (mark (s.commitPair g gr))
          else .next (s.thirdRun g gr)

-- The path of fault records -------------------------------------------------------------------

/-- The group whose task's end waits for a report (16 R366): its place, and whether the task restarts. -/
def State.haltingOn (s : State) (r : FRec) : Option (Nat × Bool) :=
  s.groups.findSome? fun p =>
    match p.2.halting with
    | some (h, restart) => if coreOf p.1 == r.core && h == r then some (p.1, restart) else none
    | none => none

/-- A report that waited is taken, and what waits for it goes on (16 R366): a task's end, or an agent whose range is being
serviced (R364). -/
def State.reportTaken (s : State) (r : FRec) : State :=
  let f := s.pkg.fsvc
  match s.haltingOn r with
  | some (g, restart) => s.finishTask g restart
  | none =>
    if r.cause == cNotPresent && f.busy && f.ctx.toNat == r.ctx && f.arg.toNat == r.va % 2 ^ 48 / 65536 then
      s.serviced r.ctx f.arg.toNat (f.cmd == 1)
    else s

/-- Reports that wait are taken, oldest first; those that are not taken wait on (16 R366). -/
def State.takeWaiting (s : State) (unit : Nat) : State :=
  let k := s.coal unit
  k.waiting.foldl (fun (s : State) r =>
    match s.takeReport unit r with
    | (t, true) => t.reportTaken r
    | (t, false) => t.reportWaits unit r) (s.setCoal unit { k with waiting := [] })

/-- COALESCER_RECORD_CLOSE (16 R366): a record closes 256 clk after it opened; closed records enter the die's
buffer while it has room, and reports that waited are then taken. -/
def execCoalescerRecordClose (unit : Nat) (s : State) : Out :=
  match SMap.get? unit s.coals with
  | none => notNow s
  | some k =>
    let due := match k.opn with | o :: _ => o.1 + 256 ≤ s.clk | [] => false
    if !due && !(s.bufRoom unit && !k.closed.isEmpty) && !(k.waiting.any fun r => (s.takeReport unit r).2) then
      notNow s
    else
      let f := s.flush unit (k.closed ++ (if due then (k.opn.take 1).map fun o => o.2 else []))
      .next ((f.1.setCoal unit { k with opn := if due then k.opn.tail else k.opn, closed := f.2 }).takeWaiting unit)

/-- The first record of a buffer that is due to be offered again, with no earlier one of its core. -/
def dueRecord (clk : Nat) : List Nat → List (Option Nat × FRec) → Option FRec
  | _, [] => none
  | seen, (t, r) :: l =>
    if !seen.contains r.core && (match t with | some c => c + 256 ≤ clk | none => true) then some r
    else dueRecord clk (r.core :: seen) l

/-- FAULT_BUFFER_RETRY (16 R366): a refused record is offered to the event queue again. -/
def execFaultBufferRetry (unit : Nat) (s : State) : Out :=
  let b := s.fbuf unit
  match dueRecord s.clk [] b with
  | none => notNow s
  | some r =>
    let x := s.pkg.queueOf unit
    if s.queueRoom x then
      .next ({ s with fbufs := SMap.set unit (b.eraseP fun y => y.2 == r) s.fbufs }.enqueue x r)
    else .next { s with fbufs := SMap.set unit (b.map fun y => if y.2 == r then (some s.clk, r) else y) s.fbufs }

/-- The oldest record of an event queue is freed (17 R382). -/
def State.xqFree (s : State) (x : Nat) : State :=
  { s with pkg := { s.pkg with xq := updAt s.pkg.xq x fun q =>
      if q.1.isEmpty then q else (q.1.tail, (q.2 + 1) % 1024) } }

/-- XQ_FREE_RECORD (17 R382). -/
def execXqFreeRecord (xdie : Nat) (s : State) : Out :=
  if xdie < 2 && bit s.pkg.livex xdie then .next (s.xqFree xdie) else notNow s

-- Time slices and the debugger ----------------------------------------------------------------

/-- TIME_SLICE_EXPIRY (15 R359): the count of the context a core holds reaches its slice while the die holds
a group of another context, and the core closes to it. -/
def execTimeSliceExpiry (core : Nat) (s : State) : Out :=
  match (s.core core).slice with
  | some (ctx, t, false) =>
    let len := match s.context ctx with | some c => c.slice | none => 0
    if len != 0 && t + len ≤ s.clk && ((s.onCore core).any fun g => g.2.ctx == ctx)
        && ((s.die (dieOfCore core)).waiting.any fun y => y.1 / 2 ^ 32 != ctx) then
      .next (s.modCore core fun k => { k with slice := some (ctx, t, true) })
    else notNow s
  | _ => notNow s

/-- The record of an agent's hold waits at its core's coalescer (16 R366). -/
def State.holdUntaken (s : State) (core : Nat) (gr : Group) (uni : Bool) (places : List Nat) : Bool :=
  (s.coal core).waiting.any fun r => bit r.flags 6 && r.ctx == gr.ctx && r.grid == gr.grid && r.group == gr.index && r.uni == uni
    && r.places == places

/-- DEBUG_RELEASE (16 R367): the agent is held, and its record has been taken. -/
def execDebugRelease (ag : Agent) (s : State) : Out :=
  match ag with
  | .split g w _ =>
    (match s.grp g with
      | some gr =>
        (match gr.waves[w]? with
          | some wv =>
            if wv.held && !s.holdUntaken (coreOf g) gr false [wv.place] then .next (s.modWave g w fun y => { y with held := false })
            else notNow s
          | none => notNow s)
      | none => notNow s)
  | .seq g =>
    (match s.grp g with
      | some gr =>
        if gr.seq.held && !s.holdUntaken (coreOf g) gr true [] then .next (s.modSeq g fun y => { y with held := false })
        else notNow s
      | none => notNow s)

-- Counters and retired units ------------------------------------------------------------------

/-- Half of every counter of a core (16 R370). -/
def Counters.halved (c : Counters) : Counters :=
  ⟨c.lanes.map fun (x : Nat × Nat) => (x.1, x.2 / 2), c.subs.map fun (x : Nat × Nat) => (x.1, x.2 / 2), c.errs / 2, c.soft / 2⟩

/-- COUNTER_HALVING (16 R370): once per 2^44 clk. -/
def execCounterHalving (s : State) : Out :=
  if s.pkg.halvedAt + 2 ^ 44 ≤ s.clk then
    .next { s with pkg := { s.pkg with
      counters := s.pkg.counters.map fun (x : Nat × Counters) => (x.1, x.2.halved)
      halvedAt := s.clk } }
  else notNow s

/-- A unit has reached its threshold (16 R370). -/
def Pkg.atThreshold (p : Pkg) (u : RetUnit) : Bool :=
  let c := fun (n : Nat) => SMap.getD p.counters n Counters.zero
  match u with
  | .core n => ((c n).lanes.any fun x => 4 ≤ x.2) || 2 ≤ (c n).errs || 4096 ≤ (c n).soft
  | .array n => (c n).subs.any fun x => 4 ≤ x.2
  | .cluster n => 4 ≤ (p.deadCores.filter fun x => clusterOf x == n).length
  | .die n => 64 ≤ (p.deadCores.filter fun x => dieOfCore x == n).length
  | .dieBack _ => false

def Pkg.isRetired (p : Pkg) (u : RetUnit) : Bool :=
  match u with
  | .core n => p.deadCores.contains n
  | .array n => p.deadArrays.contains n
  | .cluster n => p.deadClusters.contains n
  | .die n => p.deadDies.contains n
  | .dieBack n => !p.deadDies.contains n

/-- A unit enters the retirement map; a die's LIVEC bit is cleared (16 R370; 01 R19). A die that firmware takes out of the
map is live from the next reset (R19). -/
def Pkg.retire (p : Pkg) (u : RetUnit) : Pkg :=
  match u with
  | .core n => { p with deadCores := insertNat n p.deadCores }
  | .array n => { p with deadArrays := insertNat n p.deadArrays }
  | .cluster n => { p with deadClusters := insertNat n p.deadClusters }
  | .die n => { p with deadDies := insertNat n p.deadDies, livec := p.livec &&& ~~~(BitVec.ofNat 16 (2 ^ n)) }
  | .dieBack n => { p with deadDies := p.deadDies.filter fun x => x != n }

/-- A module-wide duty is host-assisted: taken from context 0 (17 R379). -/
def State.duty (s : State) (k : Nat) : Bool :=
  match s.context 0 with
  | some c => bit c.duty k
  | none => false

/-- Whether the move is firmware's decision alone: a die leaves the retirement map (01 R19). -/
def byFirmware (u : RetUnit) : Bool := match u with | .dieBack _ => true | _ => false

/-- UNIT_RETIRE (16 R370; 17 R381): firmware retires a unit at its threshold; host-assisted, firmware reports
the crossing and the host retires the unit. Firmware may take a retired die out of the retirement map (01 R19). -/
def execUnitRetire (u : RetUnit) (s : State) : Out :=
  if s.pkg.isRetired u then notNow s
  else if byFirmware u then .next { s with pkg := s.pkg.retire u }
  else if s.duty 2 then
    if s.pkg.atThreshold u && !s.outbox.contains (.weak u) then .next { s with outbox := s.outbox ++ [.weak u] }
    else .next { s with pkg := s.pkg.retire u }
  else if s.pkg.atThreshold u then .next { s with pkg := s.pkg.retire u }
  else notNow s

end Sys2Proof.Machine
end

