-- ==== Sys2Proof/Machine/Package.lean ====
section
/-!
DEFINITION. The clock of the package and its handshake (01 R22 to R27), freeze and readout (16 R373), power
(17 R385), Daxig Link ports and routes (17 R383, R384, R386), the host (17 R377, R386), register writes (00
R8), module reset (17 R389) and attestation (17 R387).
-/

namespace Sys2Proof.Machine

/-- Traffic from outside is held back (01 R27; 16 R373): a change of step runs, or the clock is stopped. -/
def State.held (s : State) : Bool := s.clkStop || s.quiesced

/-- Change the package's registers. -/
def State.modPkg (s : State) (f : Pkg → Pkg) : State := { s with pkg := f s.pkg }

-- Frequency -----------------------------------------------------------------------------------

/-- The step a write of pkg.freq asks for: above firmware's ceiling it is accepted at the ceiling, where the
frequency duty is host-assisted and the power duty is not (R24; 17 R381). -/
def State.askedStep (s : State) (tgt : BitVec 8) : BitVec 8 :=
  if s.duty 5 && !s.duty 3 && s.pkg.pwr.ceil < tgt then s.pkg.pwr.ceil else tgt

/-- An accepted write of pkg.freq (R24, R25): one that names another step starts the handshake. -/
def Pkg.acceptStep (p : Pkg) (t : BitVec 8) : Pkg :=
  let ok := { p with freqBad := false, freqAbort := false, freqTgt := t }
  if t = p.freqCur then ok else { ok with freqBusy := true, hs := .quiesce t.toNat 0 }

/-- FREQ_CHANGE: a write of pkg.freq (R24, R25). The step asked for is the one that firmware's cap may lower. -/
def execFreqChange (tgt : BitVec 8) (s : State) : Out :=
  if s.pkg.freqBusy then .next s
  else if tgt < 4 || 16 < tgt then .next (s.modPkg fun p => { p with freqBad := true })
  else .next (s.modPkg fun p => { p.acceptStep (s.askedStep tgt) with pwr := { p.pwr with want := tgt } })

/-- The live dies: C-dies 0 to 15, X-dies 16 and 17, the S-die 18. -/
def Pkg.liveDies (p : Pkg) : BitVec 19 :=
  p.livec.setWidth 19 ||| (p.livex.setWidth 19 <<< 16) ||| (0x40000 : BitVec 19)

/-- The C-die of an agent. -/
def agDie (ag : Agent) : Nat := dieOfCore (coreOf (agPlace ag))

/-- Transfers of a die are in flight: accesses of its cores that have issued, walks of its translation service, and copies
of its cores that have been translated. A replay entry that waits for room in its pool and a copy that does so have sent
nothing (log entry 58). -/
def State.dieBusy (s : State) (die : Nat) : Bool :=
  (s.memops.any fun o => agDie o.ag == die)
    || (s.walks.any fun w => w.die == die)
    || (s.copies.any fun c => agDie c.ag == die && match c.units, s.grp (agPlace c.ag) with
      | some us, some gr => c.inn || !s.poolStalls (agPlace c.ag) gr (us.map fun t => (t, 16))
      | _, _ => false)

/-- DIE_QUIESCED (R25): a die reports between instructions, once its transfers in flight are finished; after the last
report the clock stops. -/
def execDieQuiesced (die : Nat) (s : State) : Out :=
  match s.pkg.hs with
  | .quiesce t got =>
    if s.issuing.isSome || !bit s.pkg.liveDies die || bit got die || s.dieBusy die then notNow s
    else
      let got := got ||| BitVec.ofNat 19 (2 ^ die)
      if got = s.pkg.liveDies then .next { s.modPkg fun p => { p with hs := .relock t } with clkStop := true }
      else .next (s.modPkg fun p => { p with hs := .quiesce t got })
  | _ => notNow s

/-- A change of step ends, and a cap change that waited for it is applied (17 R385). -/
def Pkg.freqEnds (p : Pkg) : Pkg :=
  { p with
    freqBusy := false
    hs := .idle
    pwr := match p.pwr.capWait with | some c => { p.pwr with cap := c, capWait := none } | none => p.pwr }

/-- The fifth phase (R25): the clock restarts as if one clk had passed. -/
def State.resume (s : State) : State := { s.modPkg Pkg.freqEnds with clkStop := false, clk := s.clk + 1 }

/-- PLL_RELOCKED (R25, R27): CUR is the new step and the clock restarts; a freeze holds it before the fifth phase. -/
def execPllRelocked (s : State) : Out :=
  match s.pkg.hs with
  | .relock t =>
    let s := s.modPkg fun p => { p with freqCur := BitVec.ofNat 8 t }
    .next (if s.frozen then s.modPkg fun p => { p with hs := .relocked } else s.resume)
  | _ => notNow s

/-- The handshake is abandoned (R26). -/
def State.abandon (s : State) : State := s.modPkg fun p => { p with freqAbort := true }.freqEnds

/-- The cause codes that are not reserved (16 R360). -/
def causeCodes : List Nat :=
  (List.range 9).map (· + cNotPresent) ++ (List.range 13).map (· + cEncoding) ++ (List.range 5).map (· + cBarrier)
    ++ [cTrap, cBreak, cUncorrectable, cRedundancy, cContext, cForced, cCut]

/-- HANDSHAKE_TIMEOUT (R26): an event records the die that failed. The spec names no cause code for it: a free choice among
those that are not reserved (16 R360). Where several dies have not reported, the record names the one of the lowest number,
with C-dies 0 to 15, X-dies 16 and 17 and the S-die 18 (log entry 58; DESIGN CHOICE). -/
def execHandshakeTimeout (s : State) : Out :=
  match s.pkg.hs with
  | .quiesce _ got =>
    let late := (List.range 19).find? fun d => bit s.pkg.liveDies d && !bit got d
    let cause := causeCodes.getD (s.freeVal.toNat % causeCodes.length) cNotPresent
    .next (s.drawn.abandon.sendTo unitS (engReport 0 cause 0 0 0 none (late.getD 0)))
  | _ => notNow s

-- Freeze and readout --------------------------------------------------------------------------

/-- The clock is frozen (16 R373; R27): a handshake that has not stopped the clock is abandoned. -/
def State.freeze (s : State) : State :=
  let s := match s.pkg.hs with
    | .quiesce _ _ => s.abandon
    | _ => s
  { s.modPkg fun p => { p with frz := true } with frozen := true, clkStop := true }

/-- The clock is thawed, as if one clk had passed (16 R373): a relock still holds it, and a change of step that the freeze
held before its fifth phase ends (R27). -/
def State.thaw (s : State) : State :=
  let s := s.modPkg fun p => { p with frz := false }
  if !s.frozen then s
  else
    let s := { s with frozen := false }
    match s.pkg.hs with
    | .relock _ => s
    | .relocked => s.resume
    | _ => { s with clkStop := false, clk := s.clk + 1 }

def execFreeze (s : State) : Out := .next s.freeze
def execThaw (s : State) : Out := .next s.thaw

/-- STATE_READOUT (16 R373): nothing architectural changes. -/
def execStateReadout (die : Nat) (s : State) : Out :=
  if s.frozen then .next { s with outbox := s.outbox ++ [.readout die s.clk] } else notNow s

-- Power ---------------------------------------------------------------------------------------

/-- The average of the measurements of a window is above a cap, or 5 % below it (17 R385). -/
def aboveCap (cap : BitVec 16) (xs : List (BitVec 16)) : Bool := cap.toNat * xs.length < xs.foldl (fun n x => n + x.toNat) 0
def belowCap (cap : BitVec 16) (xs : List (BitVec 16)) : Bool :=
  (xs.foldl (fun n x => n + x.toNat) 0) * 100 ≤ cap.toNat * 95 * xs.length

/-- The registers after one measurement, of which a ms has ten (17 R385): the average over WIN, OVER and FLOOR, and for how
many measurements the average has been above CAP, or 5 % below it. The average is of what has been measured since reset
while that is less than WIN, and DRAW its whole watts (log entry 84; DESIGN CHOICE). -/
def Power.measured (w : Power) (cur : BitVec 8) (watts : BitVec 16) : Power :=
  let xs := (watts :: w.samples).take (10 * w.win.toNat)
  let above := aboveCap w.cap xs
  { w with
    samples := xs
    draw := BitVec.ofNat 16 ((xs.foldl (fun n x => n + x.toNat) 0) / xs.length)
    above := above
    floor := above && cur == 4
    overFor := if above then w.overFor + 1 else 0
    lowFor := if belowCap w.cap xs then w.lowFor + 1 else 0 }

/-- A step from the one after lo up to hi, which a free value chooses (log entry 84). -/
def stepBetween (free : DWord) (lo hi : BitVec 8) : BitVec 8 :=
  lo + 1 + BitVec.ofNat 8 (free.toNat / 2 % (hi.toNat - lo.toNat))

/-- What firmware does of itself where it enforces the cap (17 R381, R385). It lowers the step once the average has been
above CAP, at the latest after RESP, and raises it again, up to the step asked for, when the average has been 5 % below CAP
for one WIN. Where the host chooses the step, the ceiling falls with the step and is what is raised. When it acts within
RESP and by how much are free (log entry 84). -/
def Pkg.enforceCap (p : Pkg) (hostStep : Bool) (free : DWord) : Pkg :=
  let w := p.pwr
  if w.above && 4 < p.freqCur && (bit free 0 || 10 * w.resp.toNat ≤ w.overFor) then
    let t := stepBetween free 3 (p.freqCur - 1)
    { p.acceptStep t with pwr := { w with overFor := 0, ceil := if hostStep then t else w.ceil } }
  else if 10 * w.win.toNat ≤ w.lowFor then
    if hostStep then
      if w.ceil < 16 then { p with pwr := { w with lowFor := 0, ceil := stepBetween free w.ceil 16 } } else p
    else if p.freqCur < w.want then { p.acceptStep (stepBetween free p.freqCur w.want) with pwr := { w with lowFor := 0 } }
    else p
  else p

/-- POWER_SAMPLE (17 R385): a measurement, and what firmware makes of it where the power duty is in hardware mode. Firmware
does nothing while the clock is stopped or a change of step runs. -/
def execPowerSample (watts : BitVec 16) (s : State) : Out :=
  let m := s.modPkg fun p => { p with pwr := p.pwr.measured p.freqCur watts }
  if s.duty 3 || s.held then .next m else .next (m.modPkg fun p => p.enforceCap (s.duty 5) s.freeVal).drawn

-- Ports ---------------------------------------------------------------------------------------

/-- The X-die of a port is live (17 R383; 01 R28). -/
def Pkg.portLive (p : Pkg) (n : Nat) : Bool := n < 36 && bit p.livex (n / 18)

/-- The state with a port of a live X-die changed; none where it has no such port, or the change cannot happen. -/
def State.portAs (s : State) (n : Nat) (f : Port → Option Port) : Option State :=
  if s.pkg.portLive n then
    ((s.pkg.ports[n]?).bind f).map fun q => s.modPkg fun k => { k with ports := k.ports.set n q }
  else none

/-- Change a port of a live X-die. -/
def State.onPort (s : State) (n : Nat) (f : Port → Option Port) : Out :=
  match s.portAs n f with
  | some t => .next t
  | none => notNow s

/-- FLIT_REPLAY (17 R383): a flit is replayed; ok is whether the replay succeeded. -/
def execFlitReplay (port : Nat) (ok : Bool) (s : State) : Out :=
  s.onPort port fun p =>
    if p.up then some { p with replays := if p.replays = 0xffff then p.replays else p.replays + 1, fails := if ok then 0 else p.fails + 1 }
    else none

/-- PORT_RETRAIN (17 R383): after eight failed replays in a row. -/
def execPortRetrain (port : Nat) (s : State) : Out :=
  s.onPort port fun p =>
    if 8 ≤ p.fails && !p.retrain then some { p with retrain := true, up := false, fails := 0 } else none

/-- PORT_DOWN (17 R383): a retrain fails, or the partner goes; the port's routes are withdrawn. -/
def execPortDown (port : Nat) (s : State) : Out :=
  match s.portAs port fun p => if p.up || p.retrain then some { p with up := false, retrain := false } else none with
  | some t => .next (t.modPkg fun k => { k with routes := k.routes.filter fun r => r.2 != port })
  | none => notNow s

/-- LINK_TRAINED (17 R383). -/
def execLinkTrained (port : Nat) (s : State) : Out :=
  s.onPort port fun p => if p.up then none else some { p with up := true, retrain := false, fails := 0 }

/-- The corrected symbol errors of a lane, the spare being lane 8 (17 R384). -/
def Port.errs (p : Port) (lane : Nat) : BitVec 16 := p.lanecnt.getD lane 0

/-- A corrected symbol error of a lane is counted; the count stops at its largest value (log entry 83; DESIGN CHOICE). -/
def Port.counted (p : Port) (lane : Nat) : Port :=
  { p with lanecnt := p.lanecnt.set lane (BitVec.ofNat 16 (min 0xffff ((p.errs lane).toNat + 1))) }

/-- LANE_SPARE (17 R384): a port that is up corrects a symbol error on a lane. Where the count of a data lane crosses SPTHR
and the spare is free, the port moves the lane onto it, or asks for that. -/
def execLaneSpare (port lane : Nat) (s : State) : Out :=
  s.onPort port fun p =>
    if !p.up || 9 ≤ lane then none
    else
      let q := p.counted lane
      some (if lane < 8 && p.splane == 0xf && p.errs lane ≤ p.spthr && p.spthr < q.errs lane then
          if s.duty 4 then { q with spreq := true } else { q with splane := BitVec.ofNat 4 lane }
        else q)

/-- A write of SPGO (17 R384): ignored without SPREQ or with the spare in use. -/
def Port.spare (p : Port) (lane : BitVec 4) : Port :=
  if p.spreq && p.splane == 0xf && lane < 8 then { p with splane := lane, spreq := false } else p

/-- LANE_SPARE_GO (17 R384). -/
def execLaneSpareGo (port lane : Nat) (s : State) : Out :=
  s.onPort port fun p =>
    let l := BitVec.ofNat 4 lane
    some ({ p with spsel := l }.spare l)

/-- A lane in use, other than the one that the spare has replaced, has a count beyond SPTHR (17 R384). -/
def Port.secondFails (p : Port) : Bool :=
  p.splane != 0xf && (List.range 9).any fun l => l != p.splane.toNat && p.spthr < p.errs l

/-- PORT_HALF_WIDTH (17 R384): a second failing lane, once the spare is in use. -/
def execPortHalfWidth (port : Nat) (s : State) : Out :=
  s.onPort port fun p => if p.secondFails && !p.half then some { p with half := true } else none

/-- LANE_COUNT_WINDOW (17 R384): a window of 2^24 clk is over, and the next starts. -/
def execLaneCountWindow (port : Nat) (s : State) : Out :=
  s.onPort port fun p =>
    if p.winStart + 2 ^ 24 ≤ s.clk then some { p with lanecnt := List.replicate 9 0, winStart := s.clk } else none

/-- FABRIC_ROUTE_UPDATE (17 R383, R386): a package is reached through a port, or no longer. -/
def execFabricRouteUpdate (pkg : Nat) (up : Bool) (port : Nat) (s : State) : Out :=
  let rest := s.pkg.routes.filter fun r => !(r.1 == pkg && r.2 == port)
  if !s.pkg.portLive port then notNow s
  else .next (s.modPkg fun k => { k with routes := if up then rest ++ [(pkg, port)] else rest })

-- Reads of system-space registers --------------------------------------------------------------

/-- A word with the low bits of some values at places of it. -/
def packed (fs : List (Nat × Nat)) : DWord := fs.foldl (fun a f => a ||| BitVec.ofNat 64 (f.2 * 2 ^ f.1)) 0

/-- BUSY and BAD of a command register (03 R75; 16 R364; 17 R378). -/
def CmdReg.state (r : CmdReg) : List (Nat × Nat) := [(63, r.busy.toNat), (62, r.bad.toNat)]

/-- A die that feeds the event queue of X-die x holds a record that the queue has refused (16 R366). -/
def State.refusedAt (s : State) (x : Nat) : Bool :=
  s.fbufs.any fun b => s.pkg.queueOf b.1 == x && b.2.any fun y => y.1.isSome

/-- What a read of a system-space register gives, in 64-bit words: one, and three for the lane counts. A read has no
effect (00 R8; 01 R19, R24; 03 R75; 16 R364, R366; 17 R378, R382 to R385, R388). -/
def State.regWords (s : State) (reg : SysReg) : List DWord :=
  let p := s.pkg
  let port := fun (n : Nat) => p.ports.getD n Port.empty
  match reg with
  | .pkgLive => [p.liveWord.setWidth 64]
  | .pkgFreq => [packed [(31, p.freqBusy.toNat), (30, p.freqAbort.toNat), (29, p.freqBad.toNat), (16, p.freqCur.toNat),
      (0, p.freqTgt.toNat)]]
  | .pkgXinv => [packed (p.xinv.state ++ [(60, p.xinv.cmd.toNat % 4), (48, p.xinv.ctx.toNat), (16, p.xinv.arg.toNat % 2 ^ 32)])]
  | .pkgFsvc => [packed (p.fsvc.state ++ [(61, p.fsvc.cmd.toNat % 2), (48, p.fsvc.ctx.toNat), (16, p.fsvc.arg.toNat % 2 ^ 32)])]
  | .pkgCtxcmd => [packed (p.ctxcmd.state ++ [(59, p.ctxcmd.cmd.toNat), (47, p.ctxcmd.ctx.toNat), (0, p.ctxcmd.arg.toNat)])]
  | .pkgFrz => [packed [(0, p.frz.toNat)]]
  | .xqStat x => [packed [(31, (s.refusedAt x).toNat), (0, ((p.xq.getD x ([], 0)).1).length)]]
  | .xqHead x => [packed [(0, if ((p.xq.getD x ([], 0)).1).isEmpty then 0x7ff else (p.xq.getD x ([], 0)).2)]]
  | .pwrCap => [p.pwr.cap.setWidth 64]
  | .pwrWin => [p.pwr.win.setWidth 64]
  | .pwrResp => [p.pwr.resp.setWidth 64]
  | .pwrDraw => [p.pwr.draw.setWidth 64]
  | .pwrStat => [packed [(31, p.pwr.above.toNat), (30, p.pwr.floor.toNat)]]
  | .dlkPkgid => [p.pkgid.setWidth 64]
  | .dlkStat n => [packed [(31, (port n).up.toNat), (30, (port n).spreq.toNat), (26, (port n).splane.toNat), (25, (port n).half.toNat),
      (0, (port n).replays.toNat)]]
  | .dlkLanecnt n => (List.range 3).map fun k => packed ((List.range 4).map fun j =>
      (16 * j, ((port n).lanecnt.getD (4 * k + j) 0).toNat))
  | .dlkCtl n => [packed [(31, (port n).spgo.toNat), (27, (port n).spsel.toNat), (0, (port n).spthr.toNat)]]

-- The host ------------------------------------------------------------------------------------

/-- The forced drain of a context, as firmware writes it to pkg.ctxcmd (17 R378, R386). -/
def forcedDrain (ctx : Nat) : DWord := BitVec.ofNat 64 (2 * 2 ^ 59 + ctx % 4096 * 2 ^ 47 + 1)

/-- HOST_LINK_DOWN (17 R386): firmware writes pkg.ctxcmd with CMD 2 and ARG 1 for every context, in the order of their tags;
a drain that is running gives way to it (log entry 60). While a change of step or a freeze holds traffic the writes wait. -/
def execHostLinkDown (xdie : Nat) (s : State) : Out :=
  if !(xdie < 2 && bit s.pkg.livex xdie && s.pkg.hostUp.getD xdie false) then notNow s
  else
    let cs := s.ctxs.map (·.1)
    let s := s.modPkg fun p => { p with hostUp := p.hostUp.set xdie false, ctxcmd := { p.ctxcmd with busy := false } }
    .next (if s.held then { s with ingress := s.ingress ++ cs.map fun c => .registerWrite .pkgCtxcmd (forcedDrain c) }
      else cs.foldl (fun (s : State) c => s.ctxCommand 2 (BitVec.ofNat 12 c) 1 false) s)

/-- HOST_LINK_RETURN (17 R377, R386): the records that were held are in the event queues. -/
def execHostLinkReturn (xdie : Nat) (cxl : Bool) (s : State) : Out :=
  if !(xdie < 2 && bit s.pkg.livex xdie && !s.pkg.hostUp.getD xdie true) then notNow s
  else .next (s.modPkg fun p => { p with hostUp := p.hostUp.set xdie true, hostCxl := p.hostCxl.set xdie cxl })

/-- A range of DRAM is on a live die (03 R62). -/
def Pkg.hasDram (p : Pkg) (a n : Nat) : Bool := a + n ≤ 2 ^ 42 && p.dieLive (a / 2 ^ 38) && p.dieLive ((a + n - 1) / 2 ^ 38)

/-- A host link is up on a live X-die; and one of them is CXL (17 R377). -/
def Pkg.hostLink (p : Pkg) (cxl : Bool) : Bool :=
  (List.range 2).any fun x => bit p.livex x && p.hostUp.getD x false && (!cxl || p.hostCxl.getD x false)

/-- The registers that PLDM can read: those of chapter 17 (17 R388). -/
def byPldm (r : SysReg) : Bool :=
  match r with
  | .pkgLive => false
  | .pkgFreq => false
  | .pkgXinv => false
  | .pkgFsvc => false
  | .pkgFrz => true
  | .pkgCtxcmd => true
  | .xqStat _ => false
  | .xqHead _ => true
  | .pwrCap => true
  | .pwrWin => true
  | .pwrResp => true
  | .pwrDraw => true
  | .pwrStat => true
  | .dlkPkgid => true
  | .dlkStat _ => true
  | .dlkLanecnt _ => true
  | .dlkCtl _ => true

/-- The byte at an offset of an event window (17 R382): of the record that the queue holds there. Where it holds none, the
byte is a free value. -/
def Pkg.eventByte (p : Pkg) (xdie ofs : Nat) (free : DWord) : Byte :=
  let q := p.xq.getD xdie ([], 0)
  match q.1[(ofs / 128 + 1024 - q.2) % 1024]? with
  | some r => r.bytes.getD (ofs % 128) 0
  | none => free.setWidth 8

/-- The bytes of an event window from an offset on. -/
def State.eventBytes (s : State) (xdie ofs len : Nat) : List Byte :=
  (List.range len).map fun k => s.pkg.eventByte xdie (ofs + k) (Config.freeWord (s.free + k))

/-- The contexts whose launch cell lies in a range of system memory behind a port that is CXL: the dispatcher sees a host
write of it (17 R380). -/
def State.cellsIn (s : State) (a n : Nat) : List Nat :=
  (s.ctxs.filter fun c => match (s.cellAt c.1 c.2.cell).2 with
    | .ok b => a < b + 256 && b < a + n && s.pkg.hostCxl.getD (sysPort b) false
    | .error _ => false).map (·.1)

/-- HOST_MEMORY_ACCESS: the host reads or writes the module's DRAM through a CXL link (17 R377), reads a register or an event
window through BAR0 (17 R382) or by PLDM (17 R388), programs the completion timeout of a port, or reads or writes its own
memory, where a launch cell may lie (17 R380). -/
def execHostMemoryAccess (acc : HostAcc) (s : State) : Out :=
  let no := notNow s
  let tell := fun (m : OutMsg) => { s with outbox := s.outbox ++ [m] }
  match acc with
  | .read a n => if s.pkg.hostLink true && s.pkg.hasDram a n then .next (tell (.host a (memRead s.mem a n))) else no
  | .write a bs => if s.pkg.hostLink true && s.pkg.hasDram a bs.length then .next (s.dramWrite a bs) else no
  | .sysRead a n => .next (tell (.host a (memRead s.sys a n)))
  | .sysWrite a bs =>
    let seen := s.cellsIn a bs.length
    .next { s with sys := memWrite s.sys a bs, ctxs := s.ctxs.map fun (c : Nat × Ctx) =>
      (c.1, if seen.contains c.1 then { c.2 with cellDue := true } else c.2) }
  | .regRead r => if byPldm r || s.pkg.hostLink false then .next (tell (.reg r (s.regWords r))) else no
  | .eventRead x ofs n =>
    if x < 2 && bit s.pkg.livex x && s.pkg.hostLink false && ofs + n ≤ 1024 * 128 then
      .next { tell (.event x ofs (s.eventBytes x ofs n)) with free := s.free + n }
    else no
  | .timeout x ms =>
    if x < 2 && bit s.pkg.livex x then
      .next (if 1 ≤ ms ∧ ms ≤ 64 then s.modPkg fun p => { p with hostMs := p.hostMs.set x ms } else s)
    else no

/-- A value of a power register takes effect within its range (17 R385). -/
def State.setPower (s : State) (lo hi : Nat) (v : DWord) (f : Power → BitVec 16 → Power) : State :=
  let x := v.toNat % 2 ^ 16
  if lo ≤ x ∧ x ≤ hi then s.modPkg fun p => { p with pwr := f p.pwr (BitVec.ofNat 16 x) } else s

/-- REGISTER_WRITE (00 R8): a write of a register in the window of BAR0. The control register of a port that the module does
not have keeps what is written, and the other registers of such a port read as at power-on: R28 does not say what a
write or a read of them does (log entry 80; DESIGN CHOICE). -/
def execRegisterWrite (reg : SysReg) (val : DWord) (s : State) : Out :=
  let cmd := (val.extractLsb' 59 3, val.extractLsb' 47 12, val.extractLsb' 0 42, (val.extractLsb' 42 5) != 0)
  let ctx := val.extractLsb' 48 12
  let va := val.extractLsb' 16 32
  let rsv := (val.extractLsb' 0 16) != 0
  match reg with
  | .pkgLive => .next s
  | .pkgFreq => execFreqChange (val.extractLsb' 0 8) s
  | .pkgXinv => .next (s.xinv ((val.extractLsb' 60 2).setWidth 3) ctx va rsv)
  | .pkgFsvc => .next (s.fsvc (bit val 61) ctx va (rsv || bit val 60))
  | .pkgCtxcmd => .next (s.ctxCommand cmd.1 cmd.2.1 cmd.2.2.1 cmd.2.2.2)
  | .pkgFrz => .next (if bit val 0 then s.freeze else s.thaw)
  | .xqStat _ => .next s
  | .xqHead x => .next (if bit val 31 then s.xqFree x else s)
  | .pwrCap => .next (s.setPower 1500 7000 val fun w x => if s.pkg.freqBusy then { w with capWait := some x } else { w with cap := x })
  | .pwrWin => .next (s.setPower 1 1000 val fun w x => { w with win := x })
  | .pwrResp => .next (s.setPower 1 100 val fun w x => { w with resp := x })
  | .pwrDraw => .next s
  | .pwrStat => .next s
  | .dlkPkgid => .next (s.modPkg fun p => if val.extractLsb' 0 16 = (0 : BitVec 16) then p else { p with pkgid := val.extractLsb' 0 16 })
  | .dlkStat _ => .next s
  | .dlkLanecnt _ => .next s
  | .dlkCtl n =>
    let set := fun (p : Port) =>
      let p := { p with spsel := val.extractLsb' 27 4, spthr := val.extractLsb' 0 16 }
      if bit val 31 then p.spare p.spsel else p
    .next (s.modPkg fun p => { p with ports := updAt p.ports n set })

-- Reset and attestation -----------------------------------------------------------------------

/-- MODULE_RESET (17 R389): the module as after reset, with what non-volatile storage keeps (16 R370): the
counters and the retirement map, whose dies read dark (01 R19). The host's memory is not the module's. -/
def execModuleReset (s : State) : Out :=
  let n := State.resetOf s.pkg.part
  let dark : BitVec 16 := s.pkg.deadDies.foldl (fun m d => m ||| BitVec.ofNat 16 (2 ^ d)) 0
  .next { n with
    boot := s.boot + 1
    agenda := s.agenda
    free := s.free
    sys := s.sys
    outbox := s.outbox
    pkg := { n.pkg with
      livec := n.pkg.livec &&& ~~~dark
      deadCores := s.pkg.deadCores
      deadArrays := s.pkg.deadArrays
      deadClusters := s.pkg.deadClusters
      deadDies := s.pkg.deadDies
      counters := s.pkg.counters } }

/-- SPDM_ATTESTATION (17 R387): the measurements of the firmware images and the fuse state, signed with the
nonce by the identity key. -/
def execSpdmAttestation (nonce : DWord) (s : State) : Out :=
  let m := bytesOf 8 nonce.toNat ++ Config.measuredImages.flatMap Config.sha512
  .next { s with outbox := s.outbox ++ [.spdm m (Config.identitySign m)] }

end Sys2Proof.Machine
end

