-- ==== Sys2Proof/Machine/Rook.lean ====
section
/-!
DEFINITION. The Rook: binding, filling and unbinding operand queues (13 R313, R314; 07 R185).
-/

namespace Sys2Proof.Machine

/-- Change queue n of a group. -/
def Group.modQueue (gr : Group) (n : Nat) (f : Queue → Queue) : Group := { gr with queues := updAt gr.queues n f }

/-- The sequencer that waits for its write of a queue's ctl goes on. -/
def Group.rookDone (gr : Group) (n : Nat) : Group :=
  if gr.seq.blk = .rook n then { gr with seq := { gr.seq with blk := .none } } else gr

/-- Queue q as a write of ctl with GO = 1 binds it, with the base and step it holds. -/
def Queue.bind (q : Queue) (x : DWord) : Queue :=
  { q with
    bound := true
    cons := x.extractLsb' 32 32
    entries := []
    freed := 0
    next := 0
    total := (x.extractLsb' 12 12).toNat * (x.extractLsb' 0 12).toNat
    nin := (x.extractLsb' 0 12).toNat
    va := q.base.toNat
    outer := (q.step.extractLsb' 32 32).toInt
    inner := (q.step.extractLsb' 0 32).toInt
    stalled := none
    request := none }

/-- Queue q as a write of ctl with GO = 0 leaves it. -/
def Queue.unbind (q : Queue) : Queue :=
  { q with bound := false, cons := 0, entries := [], freed := 0, next := 0, total := 0, stalled := none, request := none }

/-- The waves read a newly bound queue from its first entry. -/
def Group.rewind (gr : Group) (n : Nat) : Group :=
  { gr with waves := gr.waves.map fun wv => { wv with qPos := wv.qPos.set n 0 } }

/-- ROOK_QUEUE_START: a write of ctl with GO = 1 takes effect (R314). -/
def execRookQueueStart (g n : Nat) (s : State) : Out :=
  match ((s.grp g).bind fun gr => gr.queues[n]?).bind fun q => q.request with
  | none => notNow s
  | some x =>
    if bit x 31 then .next (s.modGrp g fun gr => ((gr.modQueue n (·.bind x)).rewind n).rookDone n)
    else notNow s

/-- ROOK_QUEUE_STOP: a write of ctl with GO = 0 takes effect (R314). -/
def execRookQueueStop (g n : Nat) (s : State) : Out :=
  match ((s.grp g).bind fun gr => gr.queues[n]?).bind fun q => q.request with
  | none => notNow s
  | some x =>
    if bit x 31 then notNow s
    else .next (s.modGrp g fun gr => ((gr.modQueue n Queue.unbind).rewind n).rookDone n)

/-- The VA of the next entry of a queue's program (R313). -/
def Queue.nextVa (q : Queue) : Nat :=
  (((q.va : Int) + (q.next / q.nin : Nat) * q.outer + (q.next % q.nin : Nat) * q.inner) % (2 ^ 64 : Nat)).toNat

/-- ROOK_ENTRY_PUSH: the Rook reads the next entry at its home and pushes it; a page that is not present
stalls the program, another fault ends the task (R313, R314). -/
def execRookEntryPush (g n : Nat) (s : State) : Out :=
  match s.grp g with
  | none => notNow s
  | some gr =>
    match gr.queues[n]? with
    | none => notNow s
    | some q =>
      if !q.running || q.stalled.isSome || q.request.isSome || 8 ≤ q.entries.length then notNow s
      else
        let r := s.readVa (coreUnit g) gr.ctx (some gr) q.nextVa 128
        match r.2 with
        | .ok bs =>
          let e : Lanes := mkLanes fun l => BitVec.ofNat 32 (leVal ((bs.drop (4 * l)).take 4))
          .next (r.1.modGrp g fun gr =>
            (gr.modQueue n fun q => { q with entries := q.entries ++ [e], next := q.next + 1 }).trimQueue n)
        | .error (cause, va) =>
          if cause = cNotPresent then
            .next ((r.1.modGrp g fun gr => gr.modQueue n fun q => { q with stalled := some va }).send
              (gr.report g cNotPresent 0x01 0 true (some va) 0 []))
          else .next (r.1.endTask g (gr.report g cause 0 0 true (some va) 0 []))

end Sys2Proof.Machine
end

