-- ==== Sys2Proof/Machine/Dispatch.lean ====
section
/-!
DEFINITION. The meaning of every row of the opcode table: one arm per constructor.
-/

namespace Sys2Proof.Machine

/-- The meaning of an instruction or event. -/
def exec (i : Instr) (s : State) : Host.Outcome State Fault Refusal :=
  match i with
  | .waitExpiry ag => Sys2Proof.Machine.execWaitExpiry ag s
  | .resultWriteback ag => Sys2Proof.Machine.execResultWriteback ag s
  | .issueSelect core quarter => Sys2Proof.Machine.execIssueSelect core quarter s
  | .sequencerPortIssue core => Sys2Proof.Machine.execSequencerPortIssue core s
  | .loadComplete id mask => Sys2Proof.Machine.execLoadComplete id mask s
  | .storePerformed id lane => Sys2Proof.Machine.execStorePerformed id lane s
  | .atomicPerform id => Sys2Proof.Machine.execAtomicPerform id s
  | .tlbWalkComplete id => Sys2Proof.Machine.execTlbWalkComplete id s
  | .replayEntryReplay core id => Sys2Proof.Machine.execReplayEntryReplay core id s
  | .uncorrectableError ag => Sys2Proof.Machine.execUncorrectableError ag s
  | .transportFirstSlot id slot => Sys2Proof.Machine.execTransportFirstSlot id slot s
  | .transportRemoteRequest req => Sys2Proof.Machine.execTransportRemoteRequest req s
  | .rowEngineChunk id slot => Sys2Proof.Machine.execRowEngineChunk id slot s
  | .transportReply id pkg rows => Sys2Proof.Machine.execTransportReply id pkg rows s
  | .transportReplyTimeout id pkg => Sys2Proof.Machine.execTransportReplyTimeout id pkg s
  | .transportComplete id => Sys2Proof.Machine.execTransportComplete id s
  | .xstatRecord g w => Sys2Proof.Machine.execXstatRecord g w s
  | .queryLoadComplete id => Sys2Proof.Machine.execQueryLoadComplete id s
  | .querySlotReload q => Sys2Proof.Machine.execQuerySlotReload q s
  | .copyTranslated id => Sys2Proof.Machine.execCopyTranslated id s
  | .copyComplete id => Sys2Proof.Machine.execCopyComplete id s
  | .dmaChunk ch => Sys2Proof.Machine.execDmaChunk ch s
  | .dmaComplete ch => Sys2Proof.Machine.execDmaComplete ch s
  | .hfetchComplete id mask => Sys2Proof.Machine.execHfetchComplete id mask s
  | .fibldComplete id mask => Sys2Proof.Machine.execFibldComplete id mask s
  | .rowscanReadAhead g => Sys2Proof.Machine.execRowscanReadAhead g s
  | .rookQueueStart g q => Sys2Proof.Machine.execRookQueueStart g q s
  | .rookQueueStop g q => Sys2Proof.Machine.execRookQueueStop g q s
  | .rookEntryPush g q => Sys2Proof.Machine.execRookEntryPush g q s
  | .matrixCommandComplete g => Sys2Proof.Machine.execMatrixCommandComplete g s
  | .mswapTakeEffect g => Sys2Proof.Machine.execMswapTakeEffect g s
  | .barrierComplete g => Sys2Proof.Machine.execBarrierComplete g s
  | .mbarComplete g k => Sys2Proof.Machine.execMbarComplete g k s
  | .gridBarrierComplete grid => Sys2Proof.Machine.execGridBarrierComplete grid s
  | .joinRelease g w => Sys2Proof.Machine.execJoinRelease g w s
  | .spawnComplete id => Sys2Proof.Machine.execSpawnComplete id s
  | .launchAnswer id => Sys2Proof.Machine.execLaunchAnswer id s
  | .launchCellWrite ctx bytes seq => Sys2Proof.Machine.execLaunchCellWrite ctx bytes seq s
  | .launchCellPoll ctx => Sys2Proof.Machine.execLaunchCellPoll ctx s
  | .dispatchBatch grid die k => Sys2Proof.Machine.execDispatchBatch grid die k s
  | .groupPlace die => Sys2Proof.Machine.execGroupPlace die s
  | .dictionaryBankLoad core bank => Sys2Proof.Machine.execDictionaryBankLoad core bank s
  | .instructionRowFill core row => Sys2Proof.Machine.execInstructionRowFill core row s
  | .dependencePoll grid => Sys2Proof.Machine.execDependencePoll grid s
  | .recordCountRead grid => Sys2Proof.Machine.execRecordCountRead grid s
  | .commitPoint g => Sys2Proof.Machine.execCommitPoint g s
  | .redundantThirdRun g => Sys2Proof.Machine.execRedundantThirdRun g s
  | .groupResume die => Sys2Proof.Machine.execGroupResume die s
  | .earlyCommit g => Sys2Proof.Machine.execEarlyCommit g s
  | .groupRetire g => Sys2Proof.Machine.execGroupRetire g s
  | .gridRetire grid => Sys2Proof.Machine.execGridRetire grid s
  | .taskRetry grid index => Sys2Proof.Machine.execTaskRetry grid index s
  | .taskRestart grid index => Sys2Proof.Machine.execTaskRestart grid index s
  | .timeSliceExpiry core => Sys2Proof.Machine.execTimeSliceExpiry core s
  | .coalescerRecordClose unit => Sys2Proof.Machine.execCoalescerRecordClose unit s
  | .faultBufferRetry unit => Sys2Proof.Machine.execFaultBufferRetry unit s
  | .xqFreeRecord xdie => Sys2Proof.Machine.execXqFreeRecord xdie s
  | .freqChange tgt => Sys2Proof.Machine.execFreqChange tgt s
  | .dieQuiesced die => Sys2Proof.Machine.execDieQuiesced die s
  | .pllRelocked => Sys2Proof.Machine.execPllRelocked s
  | .handshakeTimeout => Sys2Proof.Machine.execHandshakeTimeout s
  | .xinvPage ctx va rsv => Sys2Proof.Machine.execXinvPage ctx va rsv s
  | .xinvContext ctx va rsv => Sys2Proof.Machine.execXinvContext ctx va rsv s
  | .xinvAll va rsv => Sys2Proof.Machine.execXinvAll va rsv s
  | .xinvDone => Sys2Proof.Machine.execXinvDone s
  | .fsvcService ctx va rsv => Sys2Proof.Machine.execFsvcService ctx va rsv s
  | .fsvcFail ctx va rsv => Sys2Proof.Machine.execFsvcFail ctx va rsv s
  | .fsvcDone => Sys2Proof.Machine.execFsvcDone s
  | .ctxCreate ctx arg rsv => Sys2Proof.Machine.execCtxCreate ctx arg rsv s
  | .ctxDrain ctx rsv => Sys2Proof.Machine.execCtxDrain ctx rsv s
  | .ctxDrainForced ctx rsv => Sys2Proof.Machine.execCtxDrainForced ctx rsv s
  | .ctxResume ctx arg rsv => Sys2Proof.Machine.execCtxResume ctx arg rsv s
  | .ctxDestroy ctx arg rsv => Sys2Proof.Machine.execCtxDestroy ctx arg rsv s
  | .ctxReleaseGrid ctx arg rsv => Sys2Proof.Machine.execCtxReleaseGrid ctx arg rsv s
  | .drainComplete ctx => Sys2Proof.Machine.execDrainComplete ctx s
  | .drainDeadline ctx core => Sys2Proof.Machine.execDrainDeadline ctx core s
  | .freeze => Sys2Proof.Machine.execFreeze s
  | .thaw => Sys2Proof.Machine.execThaw s
  | .stateReadout die => Sys2Proof.Machine.execStateReadout die s
  | .debugRelease ag => Sys2Proof.Machine.execDebugRelease ag s
  | .counterHalving => Sys2Proof.Machine.execCounterHalving s
  | .unitRetire u => Sys2Proof.Machine.execUnitRetire u s
  | .powerSample watts => Sys2Proof.Machine.execPowerSample watts s
  | .flitReplay port ok => Sys2Proof.Machine.execFlitReplay port ok s
  | .portRetrain port => Sys2Proof.Machine.execPortRetrain port s
  | .portDown port => Sys2Proof.Machine.execPortDown port s
  | .laneSpare port lane => Sys2Proof.Machine.execLaneSpare port lane s
  | .laneSpareGo port lane => Sys2Proof.Machine.execLaneSpareGo port lane s
  | .portHalfWidth port => Sys2Proof.Machine.execPortHalfWidth port s
  | .laneCountWindow port => Sys2Proof.Machine.execLaneCountWindow port s
  | .hostLinkDown xdie => Sys2Proof.Machine.execHostLinkDown xdie s
  | .hostMemoryAccess acc => Sys2Proof.Machine.execHostMemoryAccess acc s
  | .moduleReset => Sys2Proof.Machine.execModuleReset s
  | .registerWrite reg val => Sys2Proof.Machine.execRegisterWrite reg val s
  | .hostLinkReturn xdie cxl => Sys2Proof.Machine.execHostLinkReturn xdie cxl s
  | .fabricRouteUpdate pkg up port => Sys2Proof.Machine.execFabricRouteUpdate pkg up port s
  | .linkTrained port => Sys2Proof.Machine.execLinkTrained port s
  | .spdmAttestation nonce => Sys2Proof.Machine.execSpdmAttestation nonce s
  | .nop => Sys2Proof.Machine.execNop s
  | .dictionaryReference dist entry => Sys2Proof.Machine.execDictionaryReference dist entry s
  | .addI32 h d a b => Sys2Proof.Machine.execAddI32 h d a b s
  | .addI32W32 dist d a b => Sys2Proof.Machine.execAddI32W32 dist d a b s
  | .addI32C16 d b => Sys2Proof.Machine.execAddI32C16 d b s
  | .subI32 h d a b => Sys2Proof.Machine.execSubI32 h d a b s
  | .subI32W32 dist d a b => Sys2Proof.Machine.execSubI32W32 dist d a b s
  | .subI32C16 d b => Sys2Proof.Machine.execSubI32C16 d b s
  | .addSatI32 h d a b => Sys2Proof.Machine.execAddSatI32 h d a b s
  | .addSatI32W32 dist d a b => Sys2Proof.Machine.execAddSatI32W32 dist d a b s
  | .subSatI32 h d a b => Sys2Proof.Machine.execSubSatI32 h d a b s
  | .subSatI32W32 dist d a b => Sys2Proof.Machine.execSubSatI32W32 dist d a b s
  | .addSatN32 h d a b => Sys2Proof.Machine.execAddSatN32 h d a b s
  | .addSatN32W32 dist d a b => Sys2Proof.Machine.execAddSatN32W32 dist d a b s
  | .subSatN32 h d a b => Sys2Proof.Machine.execSubSatN32 h d a b s
  | .subSatN32W32 dist d a b => Sys2Proof.Machine.execSubSatN32W32 dist d a b s
  | .addI16 h d a b => Sys2Proof.Machine.execAddI16 h d a b s
  | .addI16W32 dist d a b => Sys2Proof.Machine.execAddI16W32 dist d a b s
  | .subI16 h d a b => Sys2Proof.Machine.execSubI16 h d a b s
  | .subI16W32 dist d a b => Sys2Proof.Machine.execSubI16W32 dist d a b s
  | .mulI32 h d a b => Sys2Proof.Machine.execMulI32 h d a b s
  | .mulI32W32 dist d a b => Sys2Proof.Machine.execMulI32W32 dist d a b s
  | .mulhiI32 h d a b => Sys2Proof.Machine.execMulhiI32 h d a b s
  | .mulhiI32W32 dist d a b => Sys2Proof.Machine.execMulhiI32W32 dist d a b s
  | .mulhiN32 h d a b => Sys2Proof.Machine.execMulhiN32 h d a b s
  | .mulhiN32W32 dist d a b => Sys2Proof.Machine.execMulhiN32W32 dist d a b s
  | .mulSatI32 h d a b => Sys2Proof.Machine.execMulSatI32 h d a b s
  | .mulSatI32W32 dist d a b => Sys2Proof.Machine.execMulSatI32W32 dist d a b s
  | .mulI16 h d a b => Sys2Proof.Machine.execMulI16 h d a b s
  | .mulI16W32 dist d a b => Sys2Proof.Machine.execMulI16W32 dist d a b s
  | .andB32 h d a b => Sys2Proof.Machine.execAndB32 h d a b s
  | .andB32W32 dist d a b => Sys2Proof.Machine.execAndB32W32 dist d a b s
  | .andB32C16 d b => Sys2Proof.Machine.execAndB32C16 d b s
  | .orB32 h d a b => Sys2Proof.Machine.execOrB32 h d a b s
  | .orB32W32 dist d a b => Sys2Proof.Machine.execOrB32W32 dist d a b s
  | .orB32C16 d b => Sys2Proof.Machine.execOrB32C16 d b s
  | .xorB32 h d a b => Sys2Proof.Machine.execXorB32 h d a b s
  | .xorB32W32 dist d a b => Sys2Proof.Machine.execXorB32W32 dist d a b s
  | .xorB32C16 d b => Sys2Proof.Machine.execXorB32C16 d b s
  | .andnB32 h d a b => Sys2Proof.Machine.execAndnB32 h d a b s
  | .andnB32W32 dist d a b => Sys2Proof.Machine.execAndnB32W32 dist d a b s
  | .ornB32 h d a b => Sys2Proof.Machine.execOrnB32 h d a b s
  | .ornB32W32 dist d a b => Sys2Proof.Machine.execOrnB32W32 dist d a b s
  | .xnorB32 h d a b => Sys2Proof.Machine.execXnorB32 h d a b s
  | .xnorB32W32 dist d a b => Sys2Proof.Machine.execXnorB32W32 dist d a b s
  | .shlB32 h d a b => Sys2Proof.Machine.execShlB32 h d a b s
  | .shlB32W32 dist d a b => Sys2Proof.Machine.execShlB32W32 dist d a b s
  | .shlB32C16 d b => Sys2Proof.Machine.execShlB32C16 d b s
  | .shrN32 h d a b => Sys2Proof.Machine.execShrN32 h d a b s
  | .shrN32W32 dist d a b => Sys2Proof.Machine.execShrN32W32 dist d a b s
  | .shrN32C16 d b => Sys2Proof.Machine.execShrN32C16 d b s
  | .shrI32 h d a b => Sys2Proof.Machine.execShrI32 h d a b s
  | .shrI32W32 dist d a b => Sys2Proof.Machine.execShrI32W32 dist d a b s
  | .rotlB32 h d a b => Sys2Proof.Machine.execRotlB32 h d a b s
  | .rotlB32W32 dist d a b => Sys2Proof.Machine.execRotlB32W32 dist d a b s
  | .rotrB32 h d a b => Sys2Proof.Machine.execRotrB32 h d a b s
  | .rotrB32W32 dist d a b => Sys2Proof.Machine.execRotrB32W32 dist d a b s
  | .minI32 h d a b => Sys2Proof.Machine.execMinI32 h d a b s
  | .minI32W32 dist d a b => Sys2Proof.Machine.execMinI32W32 dist d a b s
  | .minI32C16 d b => Sys2Proof.Machine.execMinI32C16 d b s
  | .maxI32 h d a b => Sys2Proof.Machine.execMaxI32 h d a b s
  | .maxI32W32 dist d a b => Sys2Proof.Machine.execMaxI32W32 dist d a b s
  | .maxI32C16 d b => Sys2Proof.Machine.execMaxI32C16 d b s
  | .minN32 h d a b => Sys2Proof.Machine.execMinN32 h d a b s
  | .minN32W32 dist d a b => Sys2Proof.Machine.execMinN32W32 dist d a b s
  | .maxN32 h d a b => Sys2Proof.Machine.execMaxN32 h d a b s
  | .maxN32W32 dist d a b => Sys2Proof.Machine.execMaxN32W32 dist d a b s
  | .adifI32 h d a b => Sys2Proof.Machine.execAdifI32 h d a b s
  | .adifI32W32 dist d a b => Sys2Proof.Machine.execAdifI32W32 dist d a b s
  | .adifN32 h d a b => Sys2Proof.Machine.execAdifN32 h d a b s
  | .adifN32W32 dist d a b => Sys2Proof.Machine.execAdifN32W32 dist d a b s
  | .bfextN32 h d a b => Sys2Proof.Machine.execBfextN32 h d a b s
  | .bfextN32W32 dist d a b => Sys2Proof.Machine.execBfextN32W32 dist d a b s
  | .bfextI32 h d a b => Sys2Proof.Machine.execBfextI32 h d a b s
  | .bfextI32W32 dist d a b => Sys2Proof.Machine.execBfextI32W32 dist d a b s
  | .bfinsB32 h d a b c => Sys2Proof.Machine.execBfinsB32 h d a b c s
  | .bfinsB32W32 dist d a b => Sys2Proof.Machine.execBfinsB32W32 dist d a b s
  | .popcB32 h d a => Sys2Proof.Machine.execPopcB32 h d a s
  | .popcB32W32 dist d a => Sys2Proof.Machine.execPopcB32W32 dist d a s
  | .clzB32 h d a => Sys2Proof.Machine.execClzB32 h d a s
  | .clzB32W32 dist d a => Sys2Proof.Machine.execClzB32W32 dist d a s
  | .brevB32 h d a => Sys2Proof.Machine.execBrevB32 h d a s
  | .brevB32W32 dist d a => Sys2Proof.Machine.execBrevB32W32 dist d a s
  | .addI64 h d a b => Sys2Proof.Machine.execAddI64 h d a b s
  | .addI64W32 dist d a b => Sys2Proof.Machine.execAddI64W32 dist d a b s
  | .subI64 h d a b => Sys2Proof.Machine.execSubI64 h d a b s
  | .subI64W32 dist d a b => Sys2Proof.Machine.execSubI64W32 dist d a b s
  | .addF32 h rnd d a b => Sys2Proof.Machine.execAddF32 h rnd d a b s
  | .addF32W32 dist rnd d a b => Sys2Proof.Machine.execAddF32W32 dist rnd d a b s
  | .addF32C16 d b => Sys2Proof.Machine.execAddF32C16 d b s
  | .subF32 h rnd d a b => Sys2Proof.Machine.execSubF32 h rnd d a b s
  | .subF32W32 dist rnd d a b => Sys2Proof.Machine.execSubF32W32 dist rnd d a b s
  | .subF32C16 d b => Sys2Proof.Machine.execSubF32C16 d b s
  | .mulF32 h rnd d a b => Sys2Proof.Machine.execMulF32 h rnd d a b s
  | .mulF32W32 dist rnd d a b => Sys2Proof.Machine.execMulF32W32 dist rnd d a b s
  | .mulF32C16 d b => Sys2Proof.Machine.execMulF32C16 d b s
  | .addF16 h rnd d a b => Sys2Proof.Machine.execAddF16 h rnd d a b s
  | .addF16W32 dist rnd d a b => Sys2Proof.Machine.execAddF16W32 dist rnd d a b s
  | .subF16 h rnd d a b => Sys2Proof.Machine.execSubF16 h rnd d a b s
  | .subF16W32 dist rnd d a b => Sys2Proof.Machine.execSubF16W32 dist rnd d a b s
  | .addBf16 h rnd d a b => Sys2Proof.Machine.execAddBf16 h rnd d a b s
  | .addBf16W32 dist rnd d a b => Sys2Proof.Machine.execAddBf16W32 dist rnd d a b s
  | .subBf16 h rnd d a b => Sys2Proof.Machine.execSubBf16 h rnd d a b s
  | .subBf16W32 dist rnd d a b => Sys2Proof.Machine.execSubBf16W32 dist rnd d a b s
  | .mulF16 h rnd d a b => Sys2Proof.Machine.execMulF16 h rnd d a b s
  | .mulF16W32 dist rnd d a b => Sys2Proof.Machine.execMulF16W32 dist rnd d a b s
  | .mulBf16 h rnd d a b => Sys2Proof.Machine.execMulBf16 h rnd d a b s
  | .mulBf16W32 dist rnd d a b => Sys2Proof.Machine.execMulBf16W32 dist rnd d a b s
  | .minF32 h d a b => Sys2Proof.Machine.execMinF32 h d a b s
  | .minF32W32 dist d a b => Sys2Proof.Machine.execMinF32W32 dist d a b s
  | .minF32C16 d b => Sys2Proof.Machine.execMinF32C16 d b s
  | .maxF32 h d a b => Sys2Proof.Machine.execMaxF32 h d a b s
  | .maxF32W32 dist d a b => Sys2Proof.Machine.execMaxF32W32 dist d a b s
  | .maxF32C16 d b => Sys2Proof.Machine.execMaxF32C16 d b s
  | .minF16 h d a b => Sys2Proof.Machine.execMinF16 h d a b s
  | .minF16W32 dist d a b => Sys2Proof.Machine.execMinF16W32 dist d a b s
  | .maxF16 h d a b => Sys2Proof.Machine.execMaxF16 h d a b s
  | .maxF16W32 dist d a b => Sys2Proof.Machine.execMaxF16W32 dist d a b s
  | .minBf16 h d a b => Sys2Proof.Machine.execMinBf16 h d a b s
  | .minBf16W32 dist d a b => Sys2Proof.Machine.execMinBf16W32 dist d a b s
  | .maxBf16 h d a b => Sys2Proof.Machine.execMaxBf16 h d a b s
  | .maxBf16W32 dist d a b => Sys2Proof.Machine.execMaxBf16W32 dist d a b s
  | .minF64 h d a b => Sys2Proof.Machine.execMinF64 h d a b s
  | .minF64W32 dist d a b => Sys2Proof.Machine.execMinF64W32 dist d a b s
  | .maxF64 h d a b => Sys2Proof.Machine.execMaxF64 h d a b s
  | .maxF64W32 dist d a b => Sys2Proof.Machine.execMaxF64W32 dist d a b s
  | .addF64 h rnd d a b => Sys2Proof.Machine.execAddF64 h rnd d a b s
  | .addF64W32 dist rnd d a b => Sys2Proof.Machine.execAddF64W32 dist rnd d a b s
  | .subF64 h rnd d a b => Sys2Proof.Machine.execSubF64 h rnd d a b s
  | .subF64W32 dist rnd d a b => Sys2Proof.Machine.execSubF64W32 dist rnd d a b s
  | .mulF64 h rnd d a b => Sys2Proof.Machine.execMulF64 h rnd d a b s
  | .mulF64W32 dist rnd d a b => Sys2Proof.Machine.execMulF64W32 dist rnd d a b s
  | .lxchSelB32 h d a b => Sys2Proof.Machine.execLxchSelB32 h d a b s
  | .lxchSelB32W32 dist d a b => Sys2Proof.Machine.execLxchSelB32W32 dist d a b s
  | .lxchLoB32 h d a b => Sys2Proof.Machine.execLxchLoB32 h d a b s
  | .lxchLoB32W32 dist d a b => Sys2Proof.Machine.execLxchLoB32W32 dist d a b s
  | .lxchHiB32 h d a b => Sys2Proof.Machine.execLxchHiB32 h d a b s
  | .lxchHiB32W32 dist d a b => Sys2Proof.Machine.execLxchHiB32W32 dist d a b s
  | .lxchFlipB32 h d a b => Sys2Proof.Machine.execLxchFlipB32 h d a b s
  | .lxchFlipB32W32 dist d a b => Sys2Proof.Machine.execLxchFlipB32W32 dist d a b s
  | .movB32 h d b => Sys2Proof.Machine.execMovB32 h d b s
  | .movB32W32 dist d b => Sys2Proof.Machine.execMovB32W32 dist d b s
  | .movB32C16 d b => Sys2Proof.Machine.execMovB32C16 d b s
  | .movXaB32 h d a => Sys2Proof.Machine.execMovXaB32 h d a s
  | .movXaB32W32 dist d a => Sys2Proof.Machine.execMovXaB32W32 dist d a s
  | .movXdB32 h d b => Sys2Proof.Machine.execMovXdB32 h d b s
  | .movXdB32W32 dist d b => Sys2Proof.Machine.execMovXdB32W32 dist d b s
  | .movXadB32 h d a => Sys2Proof.Machine.execMovXadB32 h d a s
  | .movXadB32W32 dist d a => Sys2Proof.Machine.execMovXadB32W32 dist d a s
  | .packB16 h d a b => Sys2Proof.Machine.execPackB16 h d a b s
  | .packB16W32 dist d a b => Sys2Proof.Machine.execPackB16W32 dist d a b s
  | .fmaF32 h rnd d a b c => Sys2Proof.Machine.execFmaF32 h rnd d a b c s
  | .fnmaF32 h rnd d a b c => Sys2Proof.Machine.execFnmaF32 h rnd d a b c s
  | .fmaF64 h rnd d a b c => Sys2Proof.Machine.execFmaF64 h rnd d a b c s
  | .fnmaF64 h rnd d a b c => Sys2Proof.Machine.execFnmaF64 h rnd d a b c s
  | .fmaF16 h rnd d a b c => Sys2Proof.Machine.execFmaF16 h rnd d a b c s
  | .fnmaF16 h rnd d a b c => Sys2Proof.Machine.execFnmaF16 h rnd d a b c s
  | .fmaBf16 h rnd d a b c => Sys2Proof.Machine.execFmaBf16 h rnd d a b c s
  | .fnmaBf16 h rnd d a b c => Sys2Proof.Machine.execFnmaBf16 h rnd d a b c s
  | .madI32 h d a b c => Sys2Proof.Machine.execMadI32 h d a b c s
  | .madhiI32 h d a b c => Sys2Proof.Machine.execMadhiI32 h d a b c s
  | .madhiN32 h d a b c => Sys2Proof.Machine.execMadhiN32 h d a b c s
  | .madSatI32 h d a b c => Sys2Proof.Machine.execMadSatI32 h d a b c s
  | .dot4I8 h d a b c => Sys2Proof.Machine.execDot4I8 h d a b c s
  | .dot4N8 h d a b c => Sys2Proof.Machine.execDot4N8 h d a b c s
  | .dot2I16 h d a b c => Sys2Proof.Machine.execDot2I16 h d a b c s
  | .rcpF32 h rnd d a => Sys2Proof.Machine.execRcpF32 h rnd d a s
  | .rsqrtF32 h d a => Sys2Proof.Machine.execRsqrtF32 h d a s
  | .sqrtF32 h rnd d a => Sys2Proof.Machine.execSqrtF32 h rnd d a s
  | .exp2F32 h d a => Sys2Proof.Machine.execExp2F32 h d a s
  | .log2F32 h d a => Sys2Proof.Machine.execLog2F32 h d a s
  | .sinF32 h d a => Sys2Proof.Machine.execSinF32 h d a s
  | .cosF32 h d a => Sys2Proof.Machine.execCosF32 h d a s
  | .rcpF64 h rnd d a => Sys2Proof.Machine.execRcpF64 h rnd d a s
  | .rsqrtF64 h d a => Sys2Proof.Machine.execRsqrtF64 h d a s
  | .sqrtF64 h rnd d a => Sys2Proof.Machine.execSqrtF64 h rnd d a s
  | .cmpEqB32 h d a b => Sys2Proof.Machine.execCmpEqB32 h d a b s
  | .cmpNeB32 h d a b => Sys2Proof.Machine.execCmpNeB32 h d a b s
  | .cmpLtI32 h d a b => Sys2Proof.Machine.execCmpLtI32 h d a b s
  | .cmpLeI32 h d a b => Sys2Proof.Machine.execCmpLeI32 h d a b s
  | .cmpLtN32 h d a b => Sys2Proof.Machine.execCmpLtN32 h d a b s
  | .cmpLeN32 h d a b => Sys2Proof.Machine.execCmpLeN32 h d a b s
  | .tstB32 h d a b => Sys2Proof.Machine.execTstB32 h d a b s
  | .cmpEqF32 h p a b => Sys2Proof.Machine.execCmpEqF32 h p a b s
  | .cmpNeF32 h p a b => Sys2Proof.Machine.execCmpNeF32 h p a b s
  | .cmpLtF32 h p a b => Sys2Proof.Machine.execCmpLtF32 h p a b s
  | .cmpLeF32 h p a b => Sys2Proof.Machine.execCmpLeF32 h p a b s
  | .cmpGtF32 h p a b => Sys2Proof.Machine.execCmpGtF32 h p a b s
  | .cmpGeF32 h p a b => Sys2Proof.Machine.execCmpGeF32 h p a b s
  | .cmpUnF32 h p a b => Sys2Proof.Machine.execCmpUnF32 h p a b s
  | .cmpOrdF32 h p a b => Sys2Proof.Machine.execCmpOrdF32 h p a b s
  | .cmpEqF64 h p a b => Sys2Proof.Machine.execCmpEqF64 h p a b s
  | .cmpNeF64 h p a b => Sys2Proof.Machine.execCmpNeF64 h p a b s
  | .cmpLtF64 h p a b => Sys2Proof.Machine.execCmpLtF64 h p a b s
  | .cmpLeF64 h p a b => Sys2Proof.Machine.execCmpLeF64 h p a b s
  | .cmpGtF64 h p a b => Sys2Proof.Machine.execCmpGtF64 h p a b s
  | .cmpGeF64 h p a b => Sys2Proof.Machine.execCmpGeF64 h p a b s
  | .cmpUnF64 h p a b => Sys2Proof.Machine.execCmpUnF64 h p a b s
  | .cmpOrdF64 h p a b => Sys2Proof.Machine.execCmpOrdF64 h p a b s
  | .cvtF32F64 h rnd d a => Sys2Proof.Machine.execCvtF32F64 h rnd d a s
  | .cvtF64F32 h rnd d a => Sys2Proof.Machine.execCvtF64F32 h rnd d a s
  | .cvtF16F32 h rnd d a b => Sys2Proof.Machine.execCvtF16F32 h rnd d a b s
  | .cvtF32F16 h rnd d a hi => Sys2Proof.Machine.execCvtF32F16 h rnd d a hi s
  | .cvtBf16F32 h rnd d a b => Sys2Proof.Machine.execCvtBf16F32 h rnd d a b s
  | .cvtF32Bf16 h rnd d a hi => Sys2Proof.Machine.execCvtF32Bf16 h rnd d a hi s
  | .cvtI32F32 h rnd d a => Sys2Proof.Machine.execCvtI32F32 h rnd d a s
  | .cvtF32I32 h rnd d a => Sys2Proof.Machine.execCvtF32I32 h rnd d a s
  | .cvtN32F32 h rnd d a => Sys2Proof.Machine.execCvtN32F32 h rnd d a s
  | .cvtF32N32 h rnd d a => Sys2Proof.Machine.execCvtF32N32 h rnd d a s
  | .cvtI64F64 h rnd d a => Sys2Proof.Machine.execCvtI64F64 h rnd d a s
  | .cvtF64I64 h rnd d a => Sys2Proof.Machine.execCvtF64I64 h rnd d a s
  | .cvtI32F64 h rnd d a => Sys2Proof.Machine.execCvtI32F64 h rnd d a s
  | .cvtF64I32 h rnd d a => Sys2Proof.Machine.execCvtF64I32 h rnd d a s
  | .cvtSatI8I32 h rnd d a => Sys2Proof.Machine.execCvtSatI8I32 h rnd d a s
  | .cvtSatI16I32 h rnd d a => Sys2Proof.Machine.execCvtSatI16I32 h rnd d a s
  | .cvtFfF32 h rnd d a f => Sys2Proof.Machine.execCvtFfF32 h rnd d a f s
  | .cvtF32Ff h rnd d a f => Sys2Proof.Machine.execCvtF32Ff h rnd d a f s
  | .cvtFfBf16 h rnd d a f => Sys2Proof.Machine.execCvtFfBf16 h rnd d a f s
  | .cvtBf16Ff h rnd d a f => Sys2Proof.Machine.execCvtBf16Ff h rnd d a f s
  | .packMx h d a f => Sys2Proof.Machine.execPackMx h d a f s
  | .unpackMx h rnd d a f => Sys2Proof.Machine.execUnpackMx h rnd d a f s
  | .lvoteAnd h p q => Sys2Proof.Machine.execLvoteAnd h p q s
  | .lvoteOr h p q => Sys2Proof.Machine.execLvoteOr h p q s
  | .lvoteMask h d q => Sys2Proof.Machine.execLvoteMask h d q s
  | .vredAddI32 h d a => Sys2Proof.Machine.execVredAddI32 h d a s
  | .vredMinI32 h d a => Sys2Proof.Machine.execVredMinI32 h d a s
  | .vredMaxI32 h d a => Sys2Proof.Machine.execVredMaxI32 h d a s
  | .vredAddF32 h d a => Sys2Proof.Machine.execVredAddF32 h d a s
  | .vscanAddI32 h d a => Sys2Proof.Machine.execVscanAddI32 h d a s
  | .vfilt h d a b c => Sys2Proof.Machine.execVfilt h d a b c s
  | .vpermB32 h d a b => Sys2Proof.Machine.execVpermB32 h d a b s
  | .pand h p q r => Sys2Proof.Machine.execPand h p q r s
  | .por h p q r => Sys2Proof.Machine.execPor h p q r s
  | .pnot h p q => Sys2Proof.Machine.execPnot h p q s
  | .pmov h p a => Sys2Proof.Machine.execPmov h p a s
  | .selB32 h d a b q => Sys2Proof.Machine.execSelB32 h d a b q s
  | .pfrom h p a => Sys2Proof.Machine.execPfrom h p a s
  | .pto h d q => Sys2Proof.Machine.execPto h d q s
  | .addIv32 h d a b => Sys2Proof.Machine.execAddIv32 h d a b s
  | .subIv32 h d a b => Sys2Proof.Machine.execSubIv32 h d a b s
  | .mulIv32 h d a b => Sys2Proof.Machine.execMulIv32 h d a b s
  | .divIv32 h d a b => Sys2Proof.Machine.execDivIv32 h d a b s
  | .sqrIv32 h d a => Sys2Proof.Machine.execSqrIv32 h d a s
  | .sqrtIv32 h d a => Sys2Proof.Machine.execSqrtIv32 h d a s
  | .negIv32 h d a => Sys2Proof.Machine.execNegIv32 h d a s
  | .fmaIv32 h d a b c => Sys2Proof.Machine.execFmaIv32 h d a b c s
  | .addIv64 h d a b => Sys2Proof.Machine.execAddIv64 h d a b s
  | .subIv64 h d a b => Sys2Proof.Machine.execSubIv64 h d a b s
  | .mulIv64 h d a b => Sys2Proof.Machine.execMulIv64 h d a b s
  | .divIv64 h d a b => Sys2Proof.Machine.execDivIv64 h d a b s
  | .sqrIv64 h d a => Sys2Proof.Machine.execSqrIv64 h d a s
  | .sqrtIv64 h d a => Sys2Proof.Machine.execSqrtIv64 h d a s
  | .negIv64 h d a => Sys2Proof.Machine.execNegIv64 h d a s
  | .fmaIv64 h d a b c => Sys2Proof.Machine.execFmaIv64 h d a b c s
  | .hullIv32 h d a b => Sys2Proof.Machine.execHullIv32 h d a b s
  | .isectIv32 h d a b => Sys2Proof.Machine.execIsectIv32 h d a b s
  | .midIv32 h d a => Sys2Proof.Machine.execMidIv32 h d a s
  | .widIv32 h d a => Sys2Proof.Machine.execWidIv32 h d a s
  | .cmpLtIv32 h p a b => Sys2Proof.Machine.execCmpLtIv32 h p a b s
  | .cmpLeIv32 h p a b => Sys2Proof.Machine.execCmpLeIv32 h p a b s
  | .cmpEqIv32 h p a b => Sys2Proof.Machine.execCmpEqIv32 h p a b s
  | .bisectIv32 h d a => Sys2Proof.Machine.execBisectIv32 h d a s
  | .hullIv64 h d a b => Sys2Proof.Machine.execHullIv64 h d a b s
  | .isectIv64 h d a b => Sys2Proof.Machine.execIsectIv64 h d a b s
  | .midIv64 h d a => Sys2Proof.Machine.execMidIv64 h d a s
  | .widIv64 h d a => Sys2Proof.Machine.execWidIv64 h d a s
  | .cmpLtIv64 h p a b => Sys2Proof.Machine.execCmpLtIv64 h p a b s
  | .cmpLeIv64 h p a b => Sys2Proof.Machine.execCmpLeIv64 h p a b s
  | .cmpEqIv64 h p a b => Sys2Proof.Machine.execCmpEqIv64 h p a b s
  | .bisectIv64 h d a => Sys2Proof.Machine.execBisectIv64 h d a s
  | .ivSpawn h d a => Sys2Proof.Machine.execIvSpawn h d a s
  | .mkivIv32 h d a b => Sys2Proof.Machine.execMkivIv32 h d a b s
  | .mkivIv64 h d a b => Sys2Proof.Machine.execMkivIv64 h d a b s
  | .ldIv32 h d a hint => Sys2Proof.Machine.execLdIv32 h d a hint s
  | .ldIv64 h d a hint => Sys2Proof.Machine.execLdIv64 h d a hint s
  | .stIv32 h a b hint => Sys2Proof.Machine.execStIv32 h a b hint s
  | .stIv64 h a b hint => Sys2Proof.Machine.execStIv64 h a b hint s
  | .tcfg h t a b c => Sys2Proof.Machine.execTcfg h t a b c s
  | .tload h t bv a b bo => Sys2Proof.Machine.execTload h t bv a b bo s
  | .tstore h t bv a b bo => Sys2Proof.Machine.execTstore h t bv a b bo s
  | .tzero h t => Sys2Proof.Machine.execTzero h t s
  | .mwload h t => Sys2Proof.Machine.execMwload h t s
  | .mwloadSm h t b => Sys2Proof.Machine.execMwloadSm h t b s
  | .mzero h acc => Sys2Proof.Machine.execMzero h acc s
  | .mflags h d clr => Sys2Proof.Machine.execMflags h d clr s
  | .mmacI8 h acc t rp cpn cpk z c => Sys2Proof.Machine.execMmacI8 h acc t rp cpn cpk z c s
  | .mmacF8 h acc t rp cpn cpk z c => Sys2Proof.Machine.execMmacF8 h acc t rp cpn cpk z c s
  | .mmacF4 h acc t rp cpn cpk z c => Sys2Proof.Machine.execMmacF4 h acc t rp cpn cpk z c s
  | .mmacBf16 h acc t rp cpn cpk z c => Sys2Proof.Machine.execMmacBf16 h acc t rp cpn cpk z c s
  | .mmacF16 h acc t rp cpn cpk z c => Sys2Proof.Machine.execMmacF16 h acc t rp cpn cpk z c s
  | .mmacX3 h acc t rp cpn cpk z c => Sys2Proof.Machine.execMmacX3 h acc t rp cpn cpk z c s
  | .mmacMx h acc t rp cpn cpk z c => Sys2Proof.Machine.execMmacMx h acc t rp cpn cpk z c s
  | .mstore h t acc rp cp => Sys2Proof.Machine.execMstore h t acc rp cp s
  | .mload h acc t rp cp => Sys2Proof.Machine.execMload h acc t rp cp s
  | .mcvt h acc src rp cp c => Sys2Proof.Machine.execMcvt h acc src rp cp c s
  | .mpset h cnt col idx a => Sys2Proof.Machine.execMpset h cnt col idx a s
  | .marrive h bo a => Sys2Proof.Machine.execMarrive h bo a s
  | .mswap h => Sys2Proof.Machine.execMswap h s
  | .ldN8 h d a hint => Sys2Proof.Machine.execLdN8 h d a hint s
  | .ldI8 h d a hint => Sys2Proof.Machine.execLdI8 h d a hint s
  | .ldN16 h d a hint => Sys2Proof.Machine.execLdN16 h d a hint s
  | .ldI16 h d a hint => Sys2Proof.Machine.execLdI16 h d a hint s
  | .ldB32 h d a hint => Sys2Proof.Machine.execLdB32 h d a hint s
  | .ldB64 h d a hint => Sys2Proof.Machine.execLdB64 h d a hint s
  | .ldB128 h d a hint => Sys2Proof.Machine.execLdB128 h d a hint s
  | .stB8 h a b hint => Sys2Proof.Machine.execStB8 h a b hint s
  | .stB16 h a b hint => Sys2Proof.Machine.execStB16 h a b hint s
  | .stB32 h a b hint => Sys2Proof.Machine.execStB32 h a b hint s
  | .stB64 h a b hint => Sys2Proof.Machine.execStB64 h a b hint s
  | .stB128 h a b hint => Sys2Proof.Machine.execStB128 h a b hint s
  | .ldsB32 h d a => Sys2Proof.Machine.execLdsB32 h d a s
  | .ldsB64 h d a => Sys2Proof.Machine.execLdsB64 h d a s
  | .stsB32 h a b => Sys2Proof.Machine.execStsB32 h a b s
  | .stsB64 h a b => Sys2Proof.Machine.execStsB64 h a b s
  | .ldlB32 h d a => Sys2Proof.Machine.execLdlB32 h d a s
  | .ldlB64 h d a => Sys2Proof.Machine.execLdlB64 h d a s
  | .stlB32 h a b => Sys2Proof.Machine.execStlB32 h a b s
  | .stlB64 h a b => Sys2Proof.Machine.execStlB64 h a b s
  | .atomAddI32 h d a b sc => Sys2Proof.Machine.execAtomAddI32 h d a b sc s
  | .atomMinI32 h d a b sc => Sys2Proof.Machine.execAtomMinI32 h d a b sc s
  | .atomMaxI32 h d a b sc => Sys2Proof.Machine.execAtomMaxI32 h d a b sc s
  | .atomAndB32 h d a b sc => Sys2Proof.Machine.execAtomAndB32 h d a b sc s
  | .atomOrB32 h d a b sc => Sys2Proof.Machine.execAtomOrB32 h d a b sc s
  | .atomXorB32 h d a b sc => Sys2Proof.Machine.execAtomXorB32 h d a b sc s
  | .atomExchB32 h d a b sc => Sys2Proof.Machine.execAtomExchB32 h d a b sc s
  | .atomCasB32 h d a b sc => Sys2Proof.Machine.execAtomCasB32 h d a b sc s
  | .atomAddF32 h d a b sc => Sys2Proof.Machine.execAtomAddF32 h d a b sc s
  | .aredAddI32 h a b sc => Sys2Proof.Machine.execAredAddI32 h a b sc s
  | .aredAddF32 h a b sc => Sys2Proof.Machine.execAredAddF32 h a b sc s
  | .aredMinI32 h a b sc => Sys2Proof.Machine.execAredMinI32 h a b sc s
  | .aredMaxI32 h a b sc => Sys2Proof.Machine.execAredMaxI32 h a b sc s
  | .aredAndB32 h a b sc => Sys2Proof.Machine.execAredAndB32 h a b sc s
  | .aredOrB32 h a b sc => Sys2Proof.Machine.execAredOrB32 h a b sc s
  | .aredXorB32 h a b sc => Sys2Proof.Machine.execAredXorB32 h a b sc s
  | .aredAddI64 h a b sc => Sys2Proof.Machine.execAredAddI64 h a b sc s
  | .ldrB32 h d a sc => Sys2Proof.Machine.execLdrB32 h d a sc s
  | .stcB32 h d a b sc => Sys2Proof.Machine.execStcB32 h d a b sc s
  | .fence h sc => Sys2Proof.Machine.execFence h sc s
  | .prefetch h a hint => Sys2Proof.Machine.execPrefetch h a hint s
  | .cwback h a hint => Sys2Proof.Machine.execCwback h a hint s
  | .cinval h a hint => Sys2Proof.Machine.execCinval h a hint s
  | .xgather h bo cnt a b slot mw => Sys2Proof.Machine.execXgather h bo cnt a b slot mw s
  | .xgatherSum h bo cnt a b slot mw => Sys2Proof.Machine.execXgatherSum h bo cnt a b slot mw s
  | .xgatherMax h bo cnt a b slot mw => Sys2Proof.Machine.execXgatherMax h bo cnt a b slot mw s
  | .xgatherMean h bo cnt a b slot mw => Sys2Proof.Machine.execXgatherMean h bo cnt a b slot mw s
  | .xscadd h bo cnt a b slot mw => Sys2Proof.Machine.execXscadd h bo cnt a b slot mw s
  | .xscmax h bo cnt a b slot mw => Sys2Proof.Machine.execXscmax h bo cnt a b slot mw s
  | .xscore h bo cnt a b slot mw => Sys2Proof.Machine.execXscore h bo cnt a b slot mw s
  | .xqload h d a slot => Sys2Proof.Machine.execXqload h d a slot s
  | .xqfree h a => Sys2Proof.Machine.execXqfree h a s
  | .xstat h d clr => Sys2Proof.Machine.execXstat h d clr s
  | .xmask h p k => Sys2Proof.Machine.execXmask h p k s
  | .xwait h k => Sys2Proof.Machine.execXwait h k s
  | .acopyIn h tag a b bo bv ch => Sys2Proof.Machine.execAcopyIn h tag a b bo bv ch s
  | .acopyOut h tag a b bo bv ch => Sys2Proof.Machine.execAcopyOut h tag a b bo bv ch s
  | .tagwaitAny h a => Sys2Proof.Machine.execTagwaitAny h a s
  | .tagwaitAll h a => Sys2Proof.Machine.execTagwaitAll h a s
  | .tagffr h d a => Sys2Proof.Machine.execTagffr h d a s
  | .tagclr h a => Sys2Proof.Machine.execTagclr h a s
  | .hfetch h d a slot form => Sys2Proof.Machine.execHfetch h d a slot form s
  | .hfetchPf h a slot form => Sys2Proof.Machine.execHfetchPf h a slot form s
  | .rowscan h ht ind a b hs => Sys2Proof.Machine.execRowscan h ht ind a b hs s
  | .fibld h d a slot form => Sys2Proof.Machine.execFibld h d a slot form s
  | .fibinv h slot fc => Sys2Proof.Machine.execFibinv h slot fc s
  | .dmaCopy h d a b c => Sys2Proof.Machine.execDmaCopy h d a b c s
  | .dmaFill h d a b c => Sys2Proof.Machine.execDmaFill h d a b c s
  | .dmaStat h d a => Sys2Proof.Machine.execDmaStat h d a s
  | .mdld h d a slot => Sys2Proof.Machine.execMdld h d a slot s
  | .launch h d a => Sys2Proof.Machine.execLaunch h d a s
  | .launchRec h d a => Sys2Proof.Machine.execLaunchRec h d a s
  | .grow h d a => Sys2Proof.Machine.execGrow h d a s
  | .vpoint h k => Sys2Proof.Machine.execVpoint h k s
  | .exit h => Sys2Proof.Machine.execExit h s
  | .bar h sv => Sys2Proof.Machine.execBar h sv s
  | .gbar h => Sys2Proof.Machine.execGbar h s
  | .mbar h k => Sys2Proof.Machine.execMbar h k s
  | .mjoin h k => Sys2Proof.Machine.execMjoin h k s
  | .mleave h k => Sys2Proof.Machine.execMleave h k s
  | .dqpush h a => Sys2Proof.Machine.execDqpush h a s
  | .dqpop h d => Sys2Proof.Machine.execDqpop h d s
  | .barinit h bo a => Sys2Proof.Machine.execBarinit h bo a s
  | .barwait h bo a => Sys2Proof.Machine.execBarwait h bo a s
  | .bararr h bo => Sys2Proof.Machine.execBararr h bo s
  | .br h ofs => Sys2Proof.Machine.execBr h ofs s
  | .brc h sense c ofs => Sys2Proof.Machine.execBrc h sense c ofs s
  | .brdq h sense ofs => Sys2Proof.Machine.execBrdq h sense ofs s
  | .brzm h pm p ofs => Sys2Proof.Machine.execBrzm h pm p ofs s
  | .split h p t u => Sys2Proof.Machine.execSplit h p t u s
  | .join h => Sys2Proof.Machine.execJoin h s
  | .call h ofs => Sys2Proof.Machine.execCall h ofs s
  | .ret h => Sys2Proof.Machine.execRet h s
  | .jmpi h a => Sys2Proof.Machine.execJmpi h a s
  | .calli h a => Sys2Proof.Machine.execCalli h a s
  | .emsave h d => Sys2Proof.Machine.execEmsave h d s
  | .emrest h a => Sys2Proof.Machine.execEmrest h a s
  | .emand h pm p => Sys2Proof.Machine.execEmand h pm p s
  | .trap h k => Sys2Proof.Machine.execTrap h k s
  | .rdst h d num => Sys2Proof.Machine.execRdst h d num s
  | .wrst h num b => Sys2Proof.Machine.execWrst h num b s
  | .rdlfsr h d => Sys2Proof.Machine.execRdlfsr h d s
  | .brk h k => Sys2Proof.Machine.execBrk h k s
  | .rdclk h d => Sys2Proof.Machine.execRdclk h d s
  | .waitImmediate h k => Sys2Proof.Machine.execWaitImmediate h k s
  | .waitRegister h a => Sys2Proof.Machine.execWaitRegister h a s

end Sys2Proof.Machine
end

