-- ==== Sys2Proof/Machine/Schedule.lean ====
section
/-!
DEFINITION. The order in which the model lets the machine's own events happen (log entry 5; DESIGN CHOICE): the
spec orders the events of different units only where a rule says so, and each event's meaning asks for that. The
first event of the list that changes anything takes place; when there is none the clk passes. Whatever comes from outside
(the host, firmware's decisions, another package, an error) comes from the agenda.
-/

namespace Sys2Proof.Machine

/-- The live agents of a group. -/
def Group.liveAgents (gr : Group) (g : Nat) : List Agent :=
  .seq g :: (List.range gr.waves.length).flatMap fun w => (List.range 4).map fun sp => .split g w sp

/-- Results due and waits that end. -/
def dueEvents (g : Nat) (gr : Group) : List Instr :=
  .resultWriteback (.seq g) :: (List.range gr.waves.length).map (fun w => .resultWriteback (.split g w 0))
    ++ (gr.liveAgents g).map .waitExpiry

/-- What happens within a group beside its issue. -/
def groupEvents (g : Nat) (gr : Group) : List Instr :=
  (List.range gr.waves.length).map (.joinRelease g)
    ++ [.barrierComplete g] ++ (List.range 16).map (.mbarComplete g)
    ++ [.rowscanReadAhead g, .matrixCommandComplete g, .mswapTakeEffect g]
    ++ (List.range 8).flatMap (fun q => [.rookQueueStart g q, .rookQueueStop g q, .rookEntryPush g q])
    ++ [.commitPoint g, .redundantThirdRun g, .groupRetire g, .earlyCommit g]

/-- A load's address is in the L1 that its core reads. -/
def State.l1Hit (s : State) (core : Nat) (x : LaneAcc) : Bool :=
  match x.tgt with
  | .dram a => let (c, set) := s.l1Place core a; !x.byp && ((s.l1Set c set).wayOf (a / 128)).isSome
  | _ => false

/-- The typical latency of a load (11 R270, R271); of any other access the spec gives none. -/
def State.typical (s : State) (o : MemOp) : Nat :=
  let core := coreOf (match o.ag with | .split g _ _ => g | .seq g => g)
  let far := fun (x : LaneAcc) => match x.tgt with
    | .dram a => a / 2 ^ 38 != dieOfCore core
    | .aliasAt d _ _ _ _ => d != dieOfCore core
    | .sys _ => false
  let l2 := fun (x : LaneAcc) => if far x then 260 else 110
  match o.kind with
  | .ld _ cache => o.lanes.foldl (fun n x => max n (if cache != 3 && s.l1Hit core x then 28 else l2 x)) 0
  | .ldr => o.lanes.foldl (fun n x => max n (l2 x)) 0
  | .ready 0 => 6
  | _ => 0

/-- The completions of an access in flight, a load's once its typical latency is over. -/
def State.memopEvents (s : State) (o : MemOp) : List Instr :=
  if s.clk < o.since + s.typical o then [] else
  [.loadComplete o.id 0xffffffff, .hfetchComplete o.id 0xffffffff, .fibldComplete o.id 0xffffffff]
    ++ o.lanes.map (fun x => .storePerformed o.id x.lane) ++ [.atomicPerform o.id]

/-- What happens to operations in flight, oldest first in each unit. -/
def State.flightEvents (s : State) : List Instr :=
  s.memops.flatMap s.memopEvents
    ++ s.walks.map (fun w => .tlbWalkComplete w.id)
    ++ s.cores.flatMap (fun c => c.2.replay.map fun r => .replayEntryReplay c.1 r.id)
    ++ s.copies.flatMap (fun c => [.copyTranslated c.id, .copyComplete c.id])
    ++ s.xops.flatMap (fun o => (o.slots.take 1).map (fun x => .transportFirstSlot o.id x.j) ++ o.slots.map fun x => .rowEngineChunk o.id x.j)
    ++ s.xops.map (fun o => .xstatRecord o.g o.w)
    ++ s.xops.map (fun o => .transportComplete o.id)
    ++ s.queries.map (fun q => .querySlotReload q.1)
    ++ s.dma.flatMap (fun c => [.dmaChunk c.1, .dmaComplete c.1])
    ++ s.reqs.flatMap (fun r => [.queryLoadComplete r.id, .spawnComplete r.id, .launchAnswer r.id])

/-- The batch that the dispatcher would hand out next (13 R306). -/
def State.nextBatch (s : State) : List Instr :=
  match s.nextGrid with
  | some (x, d) => [.dispatchBatch x.key d (x.handed (s.batchRoom x d)).1.length]
  | none => []

/-- What the dispatcher, the loaders and the S-die do. -/
def State.unitEvents (s : State) : List Instr :=
  s.cores.flatMap (fun c => (List.range 2).map (.dictionaryBankLoad c.1) ++ (List.range 64).map (.instructionRowFill c.1)
      ++ [.timeSliceExpiry c.1])
    ++ s.grids.flatMap (fun x => [.gridBarrierComplete x.key, .dependencePoll x.key, .recordCountRead x.key, .gridRetire x.key]
      ++ x.conts.flatMap fun c => [.taskRetry x.key c.index, .taskRestart x.key c.index])
    ++ s.dies.map (fun d => .groupPlace d.1)
    ++ (List.range 16).map .groupResume
    ++ s.nextBatch
    ++ s.ctxs.flatMap (fun c => .launchCellPoll c.1 :: .drainComplete c.1 :: s.cores.map fun k => .drainDeadline c.1 k.1)
    ++ s.coals.map (fun c => .coalescerRecordClose c.1)
    ++ s.fbufs.map (fun b => .faultBufferRetry b.1)
    ++ [.xinvDone, .fsvcDone, .counterHalving]
    ++ (List.range 36).map .laneCountWindow

/-- What issues: every quarter of every core, then its sequencer port. -/
def State.issueEvents (s : State) : List Instr :=
  s.cores.flatMap fun c => (List.range 4).map (.issueSelect c.1) ++ [.sequencerPortIssue c.1]

/-- What goes on while a change of step waits for the dies (01 R25): results and waits that are due, the transfers in
flight, and the reports of the dies. -/
def State.quiesceEvents (s : State) : List Instr :=
  s.memops.flatMap s.memopEvents
    ++ s.walks.map (fun w => .tlbWalkComplete w.id)
    ++ s.copies.map (fun c => .copyComplete c.id)
    ++ (List.range 19).map .dieQuiesced

/-- The events that may happen of themselves, in the order in which they are tried. -/
def State.ownEvents (s : State) : List Instr :=
  s.groups.flatMap (fun g => dueEvents g.1 g.2)
    ++ (if s.quiesced then s.quiesceEvents
      else s.flightEvents
        ++ s.groups.flatMap (fun g => groupEvents g.1 g.2)
        ++ s.unitEvents
        ++ s.issueEvents)

/-- The state after the first event of a list that changes anything. -/
def State.firstOf (s : State) : List Instr → Option State
  | [] => none
  | e :: es =>
    match exec e s with
    | .next t => if t = s then s.firstOf es else some t
    | _ => s.firstOf es

/-- The clk passes (01 R23). -/
def State.tick (s : State) : State := { s with clk := s.clk + 1 }.fitTick

/-- The machine goes on of itself: an event that can happen, else the clk passes. While the clock is stopped nothing
happens but the relock of a change of frequency (01 R25; 16 R373). -/
def State.auto (s : State) : State :=
  if s.clkStop then
    match exec .pllRelocked s with
    | .next t => t
    | _ => s
  else
    match s.firstOf s.ownEvents with
    | some t => t
    | none => s.tick

end Sys2Proof.Machine
end

