-- ==== Sys2Proof/Machine/Step.lean ====
section
/-!
DEFINITION. One step of the machine. An agent that has been chosen issues the word that the decoder reads at its
stream offset; else the next event of the agenda takes place; else the machine goes on of itself. Beside it, how
one instruction is put where the next step fetches it.
-/

namespace Sys2Proof.Machine

/-- What takes place although the clock is stopped: its thaw, its relock, its readout and its reset (16 R373; 01 R25;
17 R389); the events of the links, whose SerDes have clocks of their own (01 R22; 17 R383, R384); what management asks for
(17 R387, R388); the module controller's measurements (17 R385); and what the host does to its own memory. -/
def whileStopped (i : Instr) : Bool :=
  match i with
  | .freeze => true
  | .thaw => true
  | .stateReadout _ => true
  | .moduleReset => true
  | .pllRelocked => true
  | .powerSample _ => true
  | .spdmAttestation _ => true
  | .flitReplay _ _ => true
  | .portRetrain _ => true
  | .portDown _ => true
  | .linkTrained _ => true
  | .laneSpare _ _ => true
  | .portHalfWidth _ => true
  | .fabricRouteUpdate _ _ _ => true
  | .hostLinkDown _ => true
  | .hostLinkReturn _ _ => true
  | .registerWrite reg _ => reg == .pkgFrz || reg == .pwrCap || reg == .pwrWin || reg == .pwrResp
  | .hostMemoryAccess (.sysRead _ _) => true
  | .hostMemoryAccess (.sysWrite _ _) => true
  | .hostMemoryAccess (.timeout _ _) => true
  | .hostMemoryAccess (.regRead reg) => byPldm reg
  | _ => false

/-- Traffic over the host links and the Daxig Link ports, and writes of the registers of the S-die and the X-dies: an X-die
keeps it while it is held (01 R27; 16 R373). A write of pkg.freq while BUSY is 1 is ignored at once (01 R24; log entry
81). -/
def inbound (s : State) (i : Instr) : Bool :=
  match i with
  | .hostMemoryAccess (.read _ _) => true
  | .hostMemoryAccess (.write _ _) => true
  | .hostMemoryAccess (.regRead reg) => !byPldm reg
  | .hostMemoryAccess (.eventRead _ _ _) => true
  | .launchCellWrite _ _ _ => true
  | .transportRemoteRequest _ => true
  | .transportReply _ _ _ => true
  | .registerWrite reg _ => !(reg == .pkgFrz || reg == .pwrCap || reg == .pwrWin || reg == .pwrResp
      || (reg == .pkgFreq && s.pkg.freqBusy))
  | .freqChange _ => !s.pkg.freqBusy
  | .xqFreeRecord _ => true
  | .xinvPage _ _ _ => true
  | .xinvContext _ _ _ => true
  | .xinvAll _ _ => true
  | .fsvcService _ _ _ => true
  | .fsvcFail _ _ _ => true
  | .ctxCreate _ _ _ => true
  | .ctxDrain _ _ => true
  | .ctxDrainForced _ _ => true
  | .ctxResume _ _ _ => true
  | .ctxDestroy _ _ _ => true
  | .ctxReleaseGrid _ _ _ => true
  | .laneSpareGo _ _ => true
  | _ => false

/-- An event of the agenda arrives: it takes place, or is kept while traffic is held (01 R27). -/
def State.arrives (s : State) (e : Instr) : Out :=
  if s.held && inbound s e then .next { s with ingress := s.ingress ++ [e] }
  else if s.clkStop && !whileStopped e then .next s
  else exec e s

/-- What was kept takes place first, once nothing holds it; then the next event of the agenda; else the machine goes on of
itself. -/
def State.fromAgenda (s : State) : Out :=
  match s.held, s.ingress, s.agenda with
  | false, e :: rest, _ => exec e { s with ingress := rest }
  | _, _, [] => .next s.auto
  | _, _, e :: rest => { s with agenda := rest }.arrives e

/-- The agent that was chosen issues: its word is fetched and decoded, and its meaning runs; a word that cannot be
fetched, or is none, stops it (15 R358; 02 R33, R51). -/
def State.issueStep (s : State) (i : Issue) : Out :=
  match s.icx with
  | none => .next { s with issuing := none }
  | some c =>
    match s.chosen c i with
    | .ok x => runWord x s
    | .error e => .next (s.stopped c e)

/-- One step. -/
def step (s : State) : Host.Outcome State Fault Refusal :=
  match s.issuing with
  | some i => if s.clkStop then s.fromAgenda else s.issueStep i
  | none => s.fromAgenda

-- Placing one instruction ---------------------------------------------------------------------

/-- A byte of a stream is put into the instruction store; a row that is not there is added. -/
def Core.putByte (k : Core) (gr : Group) (uni : Bool) (o : Nat) (b : Byte) : Core :=
  let put := fun (r : IRow) =>
    { r with filled := true, stalled := none, fault := none, bytes := r.bytes.set (o % 4096) b, cues := r.cues.set (o % 4096 / 8) 15 }
  let mine := fun (r : IRow) => r.serves gr && r.uni == uni && r.idx == o / 4096
  if (k.row gr uni (o / 4096)).isSome then
    { k with rows := k.rows.map fun (r : Option IRow) => r.map fun x => if mine x then put x else x }
  else
    let new : IRow := put ⟨gr.ctx, gr.kobj.va, gr.varNo, uni, o / 4096, 1, true, List.replicate 4096 0,
      List.replicate 512 15, none, none⟩
    { k with rows := k.rows.set ((k.rows.findIdx? Option.isNone).getD 0) (some new) }

/-- Where a word of n bytes is put for an agent whose offset is pc: at that offset, at the slot's start where the word takes
a whole slot, and at the start of the stream where a word does not begin there (14 R336). -/
def Core.placeFor (k : Core) (gr : Group) (uni : Bool) (pc n : Nat) : Nat :=
  let o := if n = 8 then pc / 8 * 8 else pc
  match k.wordStart gr uni (o / 2 + 1) o with
  | .ok true => o
  | _ => 0

/-- The bytes of a word are put where its agent can fetch them; the agent, with no dictionary to wait for, is the next to
issue. -/
def State.putWord (s : State) (ag : Agent) (bs : List Byte) : State :=
  let g := agPlace ag
  let uni := match ag with | .seq _ => true | .split _ _ _ => false
  let n := match bs with | b :: _ => wordLen b | [] => 2
  match s.grp g with
  | none => s
  | some gr =>
    let pc := match ag with
      | .seq _ => gr.seq.pc
      | .split _ w sp => ((gr.waves.getD w Wave.blank).splits.getD sp Split.blank).pc
    let pc := (s.core (coreOf g)).placeFor gr uni pc n
    let gr := if ((s.core (coreOf g)).dictStop gr).isSome then { gr with va := { gr.va with dict := 0 } } else gr
    let v := if uni then { gr.va with uLen := max gr.va.uLen (pc + n) } else { gr.va with lLen := max gr.va.lLen (pc + n) }
    let s := s.modGrp g fun y => { y with va := v }
    let s := match ag with
      | .seq _ => s.modSeq g fun q => { q with pc := pc }
      | .split _ w sp => s.modSplit g w sp fun x => { x with pc := pc }
    let s := (((List.range n).zip bs).foldl (fun (s : State) p =>
      s.modCore (coreOf g) fun k => k.putByte gr uni (pc + p.1) p.2) s)
    { s with issuing := some ⟨ag, none, []⟩, clkStop := false }

/-- A variant of one wave with 224 lane registers and a slot of each stream. -/
def loneVariant : Variant := ⟨224, 1, 0, 0, 0, 0, 0, 16, 0, 16, 0, 0, 0, []⟩

/-- The grid of a group that no launch has placed. -/
def loneGrid : Grid where
  id := 0
  ctx := 0
  lrec := ⟨0, false, false, false, false, false, 1, [], 0, 1, 1, 0, 1, 0, 0, 0, 0, 0, 0, 0, 0, 0⟩
  kobj := ⟨2 ^ 64, 0, [loneVariant], []⟩
  mask := 1
  count := 1
  next := 1
  heldDep := false
  heldCount := false
  heldHost := false
  lastPoll := 0
  pollDue := false
  turn := 0
  returned := []
  conts := []
  usedSlots := [0]
  live := 1
  gbar := ⟨0, none⟩

/-- A group of one wave at the first free place of core 0: what the loading of a program by a launch leaves there
(log entry 10). -/
def State.withGroup (s : State) : State × Nat :=
  let i := ((List.range 64).find? fun i => !(s.groups.any fun g => g.1 == i)).getD 0
  ({ s with groups := SMap.set i (startGroup loneGrid 0 0 (List.replicate 32 none) loneVariant ⟨0, i, 0, [0], [0], 0⟩ s.clk
      s.ages) s.groups }, i)

/-- The state with one instruction, given as the bits of an opcode-table row, where the next step fetches it: at
the offset of the agent that has been chosen, else at the start of the lane stream of a group placed for it, or
of its uniform stream where the lane stream has no such word. -/
def State.withFetchWord (s : State) (nbits w : Nat) : State :=
  let bs := tableBytes nbits w
  match s.issuing.filter fun i => (s.grp (agPlace i.ag)).isSome with
  | some i => s.putWord i.ag bs
  | none =>
    let p := s.withGroup
    match decode .lane 0 bs 15 with
    | .ok _ => p.1.putWord (.split p.2 0 0) bs
    | .error _ => p.1.putWord (.seq p.2) bs

end Sys2Proof.Machine
end

