-- ==== Sys2Proof/Safety.lean ====
section
/-!
DEFINITION. The terms that the statements use: what an instruction that has its own effect answers, by shape; what a
reader of the architecture sees of a state; and what a run that is safe looks like.
-/

namespace Sys2Proof.Machine

-- What a reader sees --------------------------------------------------------------------------

/-- Wave w of the group at place g. -/
def State.waveAt (s : State) (g w : Nat) : Option Wave := (s.grp g).bind fun gr => gr.waves[w]?

/-- The sequencer of the group at place g. -/
def State.seqAt (s : State) (g : Nat) : Option Seq := (s.grp g).map fun gr => gr.seq

/-- The word that lane l of V register r of a wave reads as in a clk (07 R172; 15 R350). -/
def State.vLane (s : State) (g w clk r l : Nat) : Word :=
  match s.waveAt g w with
  | some wv => laneOf (wv.vAt clk r) l
  | none => 0

/-- W register r of a wave as a clk reads it. -/
def State.wReg (s : State) (g w clk r : Nat) : DWord :=
  match s.waveAt g w with
  | some wv => wv.wAt clk r
  | none => 0

/-- Predicate register r of a wave as a clk reads it. -/
def State.pReg (s : State) (g w clk r : Nat) : PVal :=
  match s.waveAt g w with
  | some wv => wv.pAt clk r
  | none => ⟨0, 0⟩

/-- G register r of a group's sequencer as a clk reads it. -/
def State.gReg (s : State) (g clk r : Nat) : DWord :=
  match s.seqAt g with
  | some q => q.gAt clk r
  | none => 0

/-- The byte at a DRAM address, and at an address of system space. -/
def State.byteAt (s : State) (a : Nat) : Byte := memByte s.mem a
def State.sysByteAt (s : State) (a : Nat) : Byte := memByte s.sys a

/-- Every byte of DRAM and of system space reads as before. -/
def SameMemory (s t : State) : Prop := (∀ a, t.byteAt a = s.byteAt a) ∧ ∀ a, t.sysByteAt a = s.sysByteAt a

/-- The pending results of a list are in order of the clk in which they are due. -/
def PendSorted (ps : List Pend) : Prop := ps.Pairwise fun x y => x.due ≤ y.due

/-- DRAM and system space are in canonical form. -/
def MemoryCanonical (s : State) : Prop := memWf s.mem = true ∧ memWf s.sys = true

-- An instruction's own effect -----------------------------------------------------------------

/-- Where ok holds, instruction i, issued by agent c, has its own effect: exec answers the state that f makes of
the state after its issue (the pc past its len bytes, its cue raised: 15 R349, R352). -/
def Completes (i : Instr) (h : Hdr) (len : Nat) (ok : ICtx → State → Prop) (f : ICtx → State → State) : Prop :=
  ∀ s c, s.icx = some c → ok c (s.begun c h len) → exec i s = .next (f c (s.begun c h len))

/-- Where why holds, instruction i, issued by agent c, stops as f says: a trap with its cause, VA and AUX, a hold, or a
park. Nothing else of the instruction happens (16 R361), but that a trap and a park have taken what use says of the
agent's quarter (15 R353). -/
def TrapsUsing (use : ICtx → Quarter → Quarter) (i : Instr) (h : Hdr) (len : Nat) (why : ICtx → State → Prop)
    (f : ICtx → Stop) : Prop :=
  ∀ s c, s.icx = some c → why c (s.begun c h len) → exec i s = .next (s.stoppedUsing c use (f c))

/-- The same of an instruction that asks for the issue slot only. -/
def Traps (i : Instr) (h : Hdr) (len : Nat) (why : ICtx → State → Prop) (f : ICtx → Stop) : Prop :=
  TrapsUsing (fun _ q => q) i h len why f

/-- The operands of a lane point are in the window, and its latches and queues serve (02 R42; 07 R183, R186). -/
def Served (ds : List (Dst × Wd)) (srcs : List SrcW) (c : ICtx) : Prop := c.opStop ds srcs = none

/-- A lane point of fixed latency: its result r of the active lanes is on its way (15 R350). -/
def RunsLane (i : Instr) (t : Timing) (h : Hdr) (len : Nat) (ds : List (Dst × Wd)) (srcs : List SrcW)
    (r : ICtx → BitVec 32 → Res) : Prop :=
  Completes i h len (fun c s => Served ds srcs c ∧ (t.cls = .interval → s.ivHolds c = false))
    fun c s => s.fixed c h t srcs (r c (c.active h))

/-- The same, where the operands' values pass the point's own check. -/
def RunsLaneIf (i : Instr) (t : Timing) (h : Hdr) (len : Nat) (ds : List (Dst × Wd)) (srcs : List SrcW)
    (ok : ICtx → BitVec 32 → Prop) (r : ICtx → BitVec 32 → Res) : Prop :=
  Completes i h len (fun c s => Served ds srcs c ∧ (t.cls = .interval → s.ivHolds c = false) ∧ ok c (c.active h))
    fun c s => s.fixed c h t srcs (r c (c.active h))

/-- A point of both streams: a lane result, or one 64-bit value into G (02 R49; 08 R194). -/
def RunsBoth (i : Instr) (t : Timing) (h : Hdr) (len : Nat) (d : Dst) (srcs : List SrcW)
    (lane : ICtx → BitVec 32 → Res) (uni : ICtx → DWord) : Prop :=
  Completes i h len (fun c _ => c.uni = false ∧ Served [(d, .w32)] srcs c)
      (fun c s => s.fixed c h t srcs (lane c (c.active h)))
    ∧ Completes i h len (fun c _ => c.uni = true) fun c s => s.fixedG c h t d (uni c)

-- The arithmetic of the rule tables of 08 ------------------------------------------------------

/-- clamp(x, -2^(n-1), 2^(n-1) - 1) (08 R199). -/
def clampI (n : Nat) (x : Int) : Int :=
  if x < -(2 ^ (n - 1)) then -(2 ^ (n - 1)) else if 2 ^ (n - 1) - 1 < x then 2 ^ (n - 1) - 1 else x

/-- pos, len and the mask of a bit field (08 R201). -/
def posOf (n : Nat) (y : BitVec n) : Nat := y.toNat % n
def lenOf (n : Nat) (y : BitVec n) : Nat := min (y.toNat / 256 % (2 * n)) n
def maskOf (n : Nat) (y : BitVec n) : BitVec n := BitVec.ofNat n ((2 ^ lenOf n y - 1) <<< posOf n y)

/-- A sum of four products (08 R202). -/
def dot4 (f : Nat → Int) : Int := f 0 + f 1 + f 2 + f 3

/-- A level of the tree of vred.add.f32 (08 R217): x[l] := comb(x[l], x[l + s]) for l mod 2s = 0. -/
def treeLevel (x : Nat → Option Coded) (s : Nat) : Nat → Option Coded :=
  fun l => if l % (2 * s) = 0 then comb (x l) (x (l + s)) else x l

/-- A register or memory operand's lane words as the instruction reads them. -/
def ICtx.src32 (c : ICtx) (srcs : List SrcW) (i l : Nat) : Word := w32 (c.words extN srcs i) l

-- Shapes of fixed-latency points, by the function of one element --------------------------------

def IntPoint2 (i : Instr) (t : Timing) (ext : BitVec 16 → DWord) (f : (n : Nat) → BitVec n → BitVec n → BitVec n)
    (h : Hdr) (len : Nat) (d : Dst) (a b : Src) : Prop :=
  RunsBoth i t h len d [(a, .w32), (b, .w32)]
    (fun c m => res32 m d fun l =>
      f 32 (w32 (c.words ext [(a, .w32), (b, .w32)] 0) l) (w32 (c.words ext [(a, .w32), (b, .w32)] 1) l))
    fun c => f 64 (c.gval ext a) (c.gval ext b)

def IntPoint1 (i : Instr) (t : Timing) (f : (n : Nat) → BitVec n → BitVec n) (h : Hdr) (len : Nat) (d : Dst)
    (a : Src) : Prop :=
  RunsBoth i t h len d [(a, .w32)]
    (fun c m => res32 m d fun l => f 32 (w32 (c.words extN [(a, .w32)] 0) l)) fun c => f 64 (c.gval extN a)

def IntPoint3 (i : Instr) (t : Timing) (f : (n : Nat) → BitVec n → BitVec n → BitVec n → BitVec n) (h : Hdr)
    (len : Nat) (d : Dst) (a b e : Src) : Prop :=
  RunsBoth i t h len d [(a, .w32), (b, .w32), (e, .w32)]
    (fun c m => res32 m d fun l =>
      f 32 (w32 (c.words extN [(a, .w32), (b, .w32), (e, .w32)] 0) l)
        (w32 (c.words extN [(a, .w32), (b, .w32), (e, .w32)] 1) l)
        (w32 (c.words extN [(a, .w32), (b, .w32), (e, .w32)] 2) l))
    fun c => f 64 (c.gval extN a) (c.gval extN b) (c.gval extN e)

/-- An integer comparison: a predicate of the lanes, or 1 or 0 in G (08 R203). -/
def IntCompare (i : Instr) (f : (n : Nat) → BitVec n → BitVec n → Bool) (h : Hdr) (d : Dst) (a b : Src) : Prop :=
  RunsBoth i tInt h 8 d [(a, .w32), (b, .w32)]
    (fun c m =>
      match d with
      | .p p => Res.pred m p (PVal.of fun l => .ofBool (f 32 (w32 (c.words extN [(a, .w32), (b, .w32)] 0) l)
          (w32 (c.words extN [(a, .w32), (b, .w32)] 1) l))) 0 0
      | _ => Res.pred m 7 ⟨0, 0⟩ 0 0)
    fun c => if f 64 (c.gval extN a) (c.gval extN b) then 1 else 0

def LanePoint1 (i : Instr) (t : Timing) (f : Word → Word × Fl) (h : Hdr) (len : Nat) (d : Dst) (a : Src) : Prop :=
  RunsLane i t h len [(d, .w32)] [(a, .w32)] fun c m =>
    res32F m d fun l => f (w32 (c.words extN [(a, .w32)] 0) l)

def LanePoint2 (i : Instr) (t : Timing) (ext : BitVec 16 → DWord) (f : Word → Word → Word × Fl) (h : Hdr)
    (len : Nat) (d : Dst) (a b : Src) : Prop :=
  RunsLane i t h len [(d, .w32)] [(a, .w32), (b, .w32)] fun c m =>
    res32F m d fun l => f (w32 (c.words ext [(a, .w32), (b, .w32)] 0) l) (w32 (c.words ext [(a, .w32), (b, .w32)] 1) l)

def LanePoint3 (i : Instr) (t : Timing) (f : Word → Word → Word → Word × Fl) (h : Hdr) (len : Nat) (d : Dst)
    (a b e : Src) : Prop :=
  RunsLane i t h len [(d, .w32)] [(a, .w32), (b, .w32), (e, .w32)] fun c m =>
    res32F m d fun l =>
      f (w32 (c.words extN [(a, .w32), (b, .w32), (e, .w32)] 0) l)
        (w32 (c.words extN [(a, .w32), (b, .w32), (e, .w32)] 1) l)
        (w32 (c.words extN [(a, .w32), (b, .w32), (e, .w32)] 2) l)

def WidePoint1 (i : Instr) (t : Timing) (f : DWord → DWord × Fl) (h : Hdr) (len : Nat) (d : Dst) (a : Src) : Prop :=
  RunsLane i t h len [(d, .w64)] [(a, .w64)] fun c m =>
    res64F m d fun l => f (w64 (c.words extN [(a, .w64)] 0) l)

def WidePoint2 (i : Instr) (t : Timing) (f : DWord → DWord → DWord × Fl) (h : Hdr) (len : Nat) (d : Dst)
    (a b : Src) : Prop :=
  RunsLane i t h len [(d, .w64)] [(a, .w64), (b, .w64)] fun c m =>
    res64F m d fun l =>
      f (w64 (c.words extN [(a, .w64), (b, .w64)] 0) l) (w64 (c.words extN [(a, .w64), (b, .w64)] 1) l)

def WidePoint3 (i : Instr) (t : Timing) (f : DWord → DWord → DWord → DWord × Fl) (h : Hdr) (len : Nat) (d : Dst)
    (a b e : Src) : Prop :=
  RunsLane i t h len [(d, .w64)] [(a, .w64), (b, .w64), (e, .w64)] fun c m =>
    res64F m d fun l =>
      f (w64 (c.words extN [(a, .w64), (b, .w64), (e, .w64)] 0) l)
        (w64 (c.words extN [(a, .w64), (b, .w64), (e, .w64)] 1) l)
        (w64 (c.words extN [(a, .w64), (b, .w64), (e, .w64)] 2) l)

def NarrowPoint (i : Instr) (t : Timing) (f : DWord → Word × Fl) (h : Hdr) (d : Dst) (a : Src) : Prop :=
  RunsLane i t h 8 [(d, .w32)] [(a, .w64)] fun c m => res32F m d fun l => f (w64 (c.words extN [(a, .w64)] 0) l)

def WidenPoint (i : Instr) (t : Timing) (f : Word → DWord × Fl) (h : Hdr) (d : Dst) (a : Src) : Prop :=
  RunsLane i t h 8 [(d, .w64)] [(a, .w32)] fun c m => res64F m d fun l => f (w32 (c.words extN [(a, .w32)] 0) l)

/-- A comparison of floating-point values into a predicate, with the flags of the lanes (08 R204). -/
def FpCompare32 (i : Instr) (cc : FCond) (h : Hdr) (p : BitVec 3) (a b : Src) : Prop :=
  RunsLane i tFp h 8 [] [(a, .w32), (b, .w32)] fun c m =>
    let r := fun l => fpCmp fp32 cc (w32 (c.words extN [(a, .w32), (b, .w32)] 0) l).toNat
      (w32 (c.words extN [(a, .w32), (b, .w32)] 1) l).toNat
    Res.pred m p.toNat (PVal.of fun l => (r l).1) (orFlags m fun l => (r l).2) 0

def FpCompare64 (i : Instr) (cc : FCond) (h : Hdr) (p : BitVec 3) (a b : Src) : Prop :=
  RunsLane i tFp64 h 8 [] [(a, .w64), (b, .w64)] fun c m =>
    let r := fun l => fpCmp fp64 cc (w64 (c.words extN [(a, .w64), (b, .w64)] 0) l).toNat
      (w64 (c.words extN [(a, .w64), (b, .w64)] 1) l).toNat
    Res.pred m p.toNat (PVal.of fun l => (r l).1) (orFlags m fun l => (r l).2) 0

/-- A lane exchange (08 R214). -/
def Exchange (i : Instr) (j : Nat → Word → Option Nat) (h : Hdr) (len : Nat) (d : Dst) (a b : Src) : Prop :=
  RunsLane i tPerm h len [(d, .w32)] [(a, .w32), (b, .w32)] fun c m =>
    res32 m d fun l => match j l (w32 (c.words extN [(a, .w32), (b, .w32)] 1) l) with
      | some k => w32 (c.words extN [(a, .w32), (b, .w32)] 0) k
      | none => w32 (c.words extN [(a, .w32), (b, .w32)] 0) l

/-- An integer reduction of the active lanes (08 R217). -/
def Reduction (i : Instr) (f : Int → Int → Int) (h : Hdr) (d : Dst) (a : Src) : Prop :=
  RunsLane i tVote h 8 [(d, .w32)] [(a, .w32)] fun c m =>
    res32 m d fun _ => BitVec.ofInt 32
      (match (maskLanes m).map fun l => (w32 (c.words extN [(a, .w32)] 0) l).toInt with
        | [] => 0
        | v :: t => t.foldl f v)

/-- A vote of the active lanes into a predicate (08 R216). -/
def Vote (i : Instr) (f : PCode → PCode → PCode) (unit : PCode) (h : Hdr) (p q : BitVec 3) : Prop :=
  RunsLane i tVote h 8 [] [] fun c m =>
    Res.pred m p.toNat (PVal.of fun _ => (maskLanes m).foldl (fun o l => f o ((c.pred q).code l)) unit) 0 0

/-- A conversion with a free-form format word that is valid (08 R212). -/
def FreeFormat (i : Instr) (g : FmtW → Word → Word × Fl) (h : Hdr) (d : Dst) (a f : Src) : Prop :=
  RunsLaneIf i tFf h 8 [(d, .w32)] [(a, .w32)]
    (fun c _ => (c.scalar f).toNat < 65536 ∧ FmtW.valid ((c.scalar f).setWidth 16) = true)
    fun c m => res32F m d fun l => g ((c.scalar f).setWidth 16) (w32 (c.words extN [(a, .w32)] 0) l)

/-- A point of an interval type, with a condition bad of a lane on which it takes the interval trap: it runs where no
active lane meets it, and traps at the first that does (09 R222). -/
def RunsOrIvTraps (i : Instr) (t : Timing) (h : Hdr) (ds : List (Dst × Wd)) (srcs : List SrcW)
    (bad : ICtx → Nat → Bool) (r : ICtx → BitVec 32 → Res) : Prop :=
  RunsLaneIf i t h 8 ds srcs (fun c m => ∀ l, l < 32 → bit m l = true → bad c l = false) r
    ∧ ∀ l, l < 32 → TrapsUsing (useFixed t ds srcs) i h 8
        (fun c s => Served ds srcs c ∧ (t.cls = .interval → s.ivHolds c = false) ∧ bit (c.active h) l = true ∧ bad c l = true
          ∧ ∀ k, k < l → bit (c.active h) k = true → bad c k = false)
        fun _ => .trap cInterval none l

/-- An interval point that writes k values per lane: the flags of the active lanes go into IVST; with ETRAP an
arithmetic point traps on an empty result from operands that are not, with ITRAP a point traps on NaI (R222). -/
def IvPoint (i : Instr) (ty : IvTy) (t : Timing) (arith : Bool) (k : Nat) (h : Hdr) (d : Dst) (ds : List (Dst × Wd))
    (srcs : List SrcW) (f : (Nat → List Lanes) → Nat → IvOut) : Prop :=
  RunsOrIvTraps i t h ds srcs
    (fun c l => bit c.wv.ivst 8 && arith && (f (fun j => c.words extN srcs j) l).made
      || bit c.wv.ivst 9 && (f (fun j => c.words extN srcs j) l).bad)
    fun c m =>
      Res.lanes m d (ty.words k (f fun j => c.words extN srcs j)) 0
        (orFlags m fun l => (f (fun j => c.words extN srcs j) l).fl)

/-- An interval comparison into a predicate (09 R230): false with an empty operand, undecided with NaI, else true
where tt holds of the bounds al, ah, bl, bh, false where ff does, and undecided otherwise, which sets UND. -/
def IvCompare (i : Instr) (ty : IvTy) (t : Timing) (tt ff : Ext → Ext → Ext → Ext → Bool) (h : Hdr) (p : BitVec 3)
    (a b : Src) : Prop :=
  let srcs : List SrcW := [(a, ty.wd), (b, ty.wd)]
  let x := fun (c : ICtx) l => ty.read (c.words extN srcs 0) l
  let y := fun (c : ICtx) l => ty.read (c.words extN srcs 1) l
  let nai := fun (c : ICtx) l => (x c l).isNai || (y c l).isNai
  let r : ICtx → Nat → PCode := fun c l =>
    if nai c l then .u
    else match x c l, y c l with
      | .iv al ah, .iv bl bh => if tt al ah bl bh then .t else if ff al ah bl bh then .f else .u
      | _, _ => .f
  RunsOrIvTraps i t h [] srcs (fun c l => bit c.wv.ivst 9 && nai c l) fun c m =>
    Res.pred m p.toNat (PVal.of fun l => r c l) 0
      (orFlags m fun l => (if nai c l then ivNAI else 0) ||| (if r c l = .u then ivUND else 0))

/-- An indexed move: the names are moved by XI as it is at issue (07 R178, R191). -/
def IndexedMove (i : Instr) (h : Hdr) (len : Nat) (dst : Nat → Dst) (src : Nat → Src) : Prop :=
  Completes i h len (fun c _ => Served [(dst c.wv.xi.toNat, .w32)] [(src c.wv.xi.toNat, .w32)] c)
    fun c s => s.fixed c h tInt [(src c.wv.xi.toNat, .w32)]
      (res32 (c.active h) (dst c.wv.xi.toNat) fun l => w32 (c.words extN [(src c.wv.xi.toNat, .w32)] 0) l)

-- Registers as a whole -------------------------------------------------------------------------

/-- What a wave's instructions read and write in its registers: V, W, P, lane-private memory, XI, the status and mask
registers, the LFSR, and the results on their way. -/
def Wave.regs (wv : Wave) :=
  (wv.v, wv.w, wv.p, wv.lpriv, wv.xi, wv.fst, wv.ivst, wv.vmask, wv.lfsr, wv.pend)

/-- The same of a sequencer: G, its return stack, and the results on their way. -/
def Seq.regs (q : Seq) := (q.g, q.rstack, q.pend)

/-- No register of any wave or sequencer differs. -/
def SameRegisters (s t : State) : Prop :=
  (∀ g w, (t.waveAt g w).map Wave.regs = (s.waveAt g w).map Wave.regs)
    ∧ ∀ g, (t.seqAt g).map Seq.regs = (s.seqAt g).map Seq.regs

/-- The word written in lane l of V register r, W register r, and G register r: what stands in the register file, with
no result that is still on its way. -/
def State.vHeld (s : State) (g w r l : Nat) : Word :=
  match s.waveAt g w with
  | some wv => laneOf (SMap.getD wv.v r zeroLanes) l
  | none => 0
def State.wHeld (s : State) (g w r : Nat) : DWord :=
  match s.waveAt g w with
  | some wv => wv.w.getD r 0
  | none => 0
def State.gHeld (s : State) (g r : Nat) : DWord :=
  match s.seqAt g with
  | some q => q.g.getD r 0
  | none => 0

-- Accesses -------------------------------------------------------------------------------------

/-- What the check of one translated lane finds: the cause of a fault, or nothing. -/
def laneFault (f : DWord → Trans → Option Nat) (x : Nat × DWord × Except Nat Trans) : Option Nat :=
  match x.2.2 with
  | .ok t => f x.2.1 t
  | .error k => some k

/-- The acting lanes pass steps 3 and 4 of R265 and need not wait (R267, R274): aligned, canonical, no earlier acquire
of the wave to come, no parked page of the wave met. -/
def State.MayAccess (s : State) (c : ICtx) (size : Nat) (lanes : List Nat) (addr : Nat → DWord) : Prop :=
  (∀ l ∈ lanes, (addr l).toNat % size = 0 ∧ canonical (addr l) = true ∧ s.pageParked c (addr l) = false)
    ∧ s.acqPending c.ag = false

/-- Every acting lane's page is translated, and the target may be used (R265 steps 5 to 8). -/
def State.Reaches (s : State) (c : ICtx) (u : TUnit) (acc : Acc) (lanes : List Nat) (addr : Nat → DWord)
    (f : DWord → Trans → Option Nat) : Prop :=
  ∀ x ∈ (s.translateLanes u c.gr.ctx acc (lanes.map fun l => (l, addr l))).2, laneFault f x = none

/-- The translated lanes begin with lanes that meet no fault of ok, and then lane l, whose address va meets fault k. -/
def State.FirstFault (s : State) (c : ICtx) (u : TUnit) (acc : Acc) (lanes : List Nat) (addr : Nat → DWord)
    (f : DWord → Trans → Option Nat) (ok : Option Nat → Prop) (l : Nat) (va : DWord) (k : Nat) : Prop :=
  ∃ pre x post, (s.translateLanes u c.gr.ctx acc (lanes.map fun l => (l, addr l))).2 = pre ++ x :: post
    ∧ (∀ y ∈ pre, ok (laneFault f y)) ∧ laneFault f x = some k ∧ x.1 = l ∧ x.2.1 = va

/-- An access of global memory that passes its own waits (ready, and go once its addresses are right) stops as steps 3, 4
and 6 of R265 say, and, where its lanes park it, as step 7 says. base is the state in which it is translated. -/
def AccessStops (i : Instr) (h : Hdr) (size : Nat) (acc : Acc) (parks : Bool) (ready go : ICtx → State → Prop)
    (base : ICtx → State → State) (srcs : List SrcW) (unit : ICtx → State → TUnit) (f : DWord → Trans → Option Nat) : Prop :=
  (∀ l, TrapsUsing (useReads srcs) i h 8 (fun c s => ready c s ∧ l ∈ c.acting h ∧ (c.addr srcs 0 l).toNat % size ≠ 0
        ∧ ∀ k ∈ c.acting h, k < l → (c.addr srcs 0 k).toNat % size = 0) fun _ => .trap cValue none l)
    ∧ (∀ l, TrapsUsing (useReads srcs) i h 8 (fun c s => ready c s ∧ l ∈ c.acting h ∧ canonical (c.addr srcs 0 l) = false
          ∧ (∀ k ∈ c.acting h, (c.addr srcs 0 k).toNat % size = 0)
          ∧ ∀ k ∈ c.acting h, k < l → canonical (c.addr srcs 0 k) = true)
        fun c => .trap cNonCanonical (some (c.addr srcs 0 l).toNat) l)
    ∧ (∀ l va k, k ≠ cNotPresent → TrapsUsing (useReads srcs) i h 8
        (fun c s => ready c s ∧ go c s ∧ (base c s).MayAccess c size (c.acting h) (c.addr srcs 0)
          ∧ (base c s).FirstFault c (unit c (base c s)) acc (c.acting h)
              (c.addr srcs 0) f (fun o => o = none ∨ o = some cNotPresent) l va k)
        fun _ => .trap k (some va.toNat) l)
    ∧ (parks = true → ∀ l va, TrapsUsing (useReads srcs) i h 8
        (fun c s => ready c s ∧ go c s ∧ (base c s).MayAccess c size (c.acting h) (c.addr srcs 0)
          ∧ (∀ x ∈ ((base c s).translateLanes (unit c (base c s)) c.gr.ctx acc
              ((c.acting h).map fun l => (l, c.addr srcs 0 l))).2, laneFault f x = none ∨ laneFault f x = some cNotPresent)
          ∧ (base c s).FirstFault c (unit c (base c s)) acc (c.acting h)
              (c.addr srcs 0) f (fun o => o = none) l va cNotPresent)
        fun _ => .park va.toNat l)

/-- A load of n bytes of an alias page: odd addresses are misused (03 R85). -/
def loadFault (va : DWord) (t : Trans) : Option Nat := if aliasMisuse false va t then some cAlias else none
/-- A store of size bytes. -/
def storeFault (size : Nat) (va : DWord) (t : Trans) : Option Nat :=
  if aliasMisuse (size == 1) va t then some cAlias else none

/-- Where ok holds, the group of the instruction is demoted first, for a cause (11 R281): it waits until the group's writes
are performed and its parked stores are, and is then still to issue in the state in which the group is demoted. -/
def DemotesFirst (use : ICtx → Quarter → Quarter) (i : Instr) (h : Hdr) (cause : Nat) (ok : ICtx → State → Prop) : Prop :=
  (∀ s c, s.icx = some c → ok c (s.begun c h 8) → c.before.writesDone c.g = true → c.before.noReplay c.g = true →
      exec i s = .next (c.before.demote c.g cause))
    ∧ TrapsUsing use i h 8
        (fun c s => ok c s ∧ ¬ (c.before.writesDone c.g = true ∧ c.before.noReplay c.g = true)) fun _ => .hold

/-- A global load (11 R264, R265, R280): with no acting lane it completes at once; with every page there its lanes are
in flight, each from its own target, and its flag falls when they have returned. -/
def LoadPoint (i : Instr) (size : Nat) (sext : Bool) (wd : Wd) (h : Hdr) (d : Dst) (a : Src) (hint : Hint) : Prop :=
  let srcs : List SrcW := [(a, .w64)]
  let u := fun (c : ICtx) (s : State) => s.tunit c.core hint
  let waits := fun (c : ICtx) (s : State) => wd.isIv = true → (s.operandsTaken c srcs).ivHolds c = false
  let ready := fun (c : ICtx) (s : State) => Served [(d, wd)] srcs c ∧ waits c s ∧ c.acting h ≠ []
  Completes i h 8 (fun c s => Served [(d, wd)] srcs c ∧ waits c s ∧ c.acting h = [])
      (fun c s => (s.operandsTaken c srcs).doneNow c h)
    ∧ Completes i h 8
        (fun c s => ready c s ∧ (s.operandsTaken c srcs).MayAccess c size (c.acting h) (c.addr srcs 0)
          ∧ (s.operandsTaken c srcs).Reaches c (u c (s.operandsTaken c srcs)) .rd (c.acting h) (c.addr srcs 0) loadFault)
        (fun c s =>
          let r := (s.operandsTaken c srcs).translateLanes (u c (s.operandsTaken c srcs)) c.gr.ctx .rd
            ((c.acting h).map fun l => (l, c.addr srcs 0 l))
          r.1.addOp ⟨0, c.ag, c.pc, size, .ld sext hint.cache.toNat, lanesOf (fun _ => 0) r.2,
            if h.nw then none else some d, hdrFlag h, [], c.active h, none, false, 0, none, false, [], wd.isIv⟩)
    ∧ TrapsUsing (useReads srcs) i h 8 (fun c s => Served [(d, wd)] srcs c ∧ ¬ waits c s) (fun _ => .hold)
    ∧ AccessStops i h size .rd true ready (fun _ _ => True) (fun c s => s.operandsTaken c srcs) srcs u loadFault

/-- A global store whose pages are all there (11 R264, R265, R280): its lanes are in flight with the data of SRCB, and
those of a redundant group enter the signature. -/
def StorePoint (i : Instr) (size : Nat) (wd : Wd) (h : Hdr) (a b : Src) (hint : Hint) : Prop :=
  let srcs : List SrcW := [(a, .w64), (b, wd)]
  let u := fun (c : ICtx) (s : State) => s.tunit c.core hint
  let ready := fun (c : ICtx) (_ : State) => Served [] srcs c ∧ c.acting h ≠ []
  let waits := fun (c : ICtx) (s : State) => wd.isIv = true → (s.operandsTaken c srcs).ivHolds c = false
  Completes i h 8 (fun c _ => Served [] srcs c ∧ c.acting h = [])
      (fun c s => (s.operandsTaken c srcs).doneNow c h)
    ∧ Completes i h 8
        (fun c s =>
          let o := s.operandsTaken c srcs
          let r := o.translateLanes (u c o) c.gr.ctx .wr ((c.acting h).map fun l => (l, c.addr srcs 0 l))
          ready c s ∧ waits c s ∧ o.MayAccess c size (c.acting h) (c.addr srcs 0)
            ∧ (∀ l ∈ c.acting h, r.1.pageParked c (c.addr srcs 0 l) = false)
            ∧ o.Reaches c (u c o) .wr (c.acting h) (c.addr srcs 0) (storeFault size)
            ∧ (r.1.core c.core).replay.length ≤ 32
            ∧ r.1.poolStalls c.g c.gr ((lanesOf (c.data srcs 1) r.2).map fun x => (x.tgt, size)) = false
            ∧ (∀ x ∈ r.2, ∀ t, x.2.2 = .ok t → c.gr.versioned = true → t.tgt.isSys = false))
        (fun c s =>
          let o := s.operandsTaken c srcs
          let all := (c.acting h).map fun l => (l, c.addr srcs 0 l)
          let r := o.translateLanes (u c o) c.gr.ctx .wr all
          (r.1.signLanes c size all (c.data srcs 1)).addOp ⟨0, c.ag, c.pc, size, .st,
            lanesOf (c.data srcs 1) r.2, none, hdrFlag h, [], c.active h, none, false, 0, none, false, [], wd.isIv⟩)
    ∧ TrapsUsing (useReads srcs) i h 8
        (fun c s =>
          let o := s.operandsTaken c srcs
          let r := o.translateLanes (u c o) c.gr.ctx .wr ((c.acting h).map fun l => (l, c.addr srcs 0 l))
          ready c s ∧ waits c s ∧ o.MayAccess c size (c.acting h) (c.addr srcs 0)
            ∧ (∀ l ∈ c.acting h, r.1.pageParked c (c.addr srcs 0 l) = false)
            ∧ o.Reaches c (u c o) .wr (c.acting h) (c.addr srcs 0) (storeFault size)
            ∧ (r.1.core c.core).replay.length ≤ 32
            ∧ r.1.poolStalls c.g c.gr ((lanesOf (c.data srcs 1) r.2).map fun x => (x.tgt, size)) = true)
        (fun _ => .stall)
    ∧ DemotesFirst (useReads srcs) i h 3
        (fun c s =>
          let o := s.operandsTaken c srcs
          let r := o.translateLanes (u c o) c.gr.ctx .wr ((c.acting h).map fun l => (l, c.addr srcs 0 l))
          ready c s ∧ waits c s ∧ o.MayAccess c size (c.acting h) (c.addr srcs 0)
            ∧ (∀ l ∈ c.acting h, r.1.pageParked c (c.addr srcs 0 l) = false)
            ∧ o.Reaches c (u c o) .wr (c.acting h) (c.addr srcs 0) (storeFault size)
            ∧ (r.1.core c.core).replay.length ≤ 32
            ∧ r.1.poolStalls c.g c.gr ((lanesOf (c.data srcs 1) r.2).map fun x => (x.tgt, size)) = false
            ∧ c.gr.versioned = true ∧ ∃ x ∈ r.2, ∃ t, x.2.2 = .ok t ∧ t.tgt.isSys = true)
    ∧ AccessStops i h size .wr false ready waits (fun c s => s.operandsTaken c srcs) srcs u (storeFault size)

/-- A store of which no lane's page is there (11 R265 step 8, R266): it completes; the core's replay queue has one new
entry for each page, of the lanes that fall in it, with their data; and nothing is in flight. -/
def StoreReplays (i : Instr) (size : Nat) (wd : Wd) (h : Hdr) (a b : Src) (hint : Hint) : Prop :=
  let srcs : List SrcW := [(a, .w64), (b, wd)]
  ∀ s c, s.icx = some c → Served [] srcs c → c.acting h ≠ [] →
    let o := (s.begun c h 8).operandsTaken c srcs
    let all := (c.acting h).map fun l => (l, c.addr srcs 0 l)
    let r := o.translateLanes (o.tunit c.core hint) c.gr.ctx .wr all
    (wd.isIv = true → o.ivHolds c = false) →
    o.MayAccess c size (c.acting h) (c.addr srcs 0) →
    (∀ x ∈ r.2, x.2.2 = .error cNotPresent) →
    (r.1.core c.core).replay.length + (pagesOf all).length ≤ 32 →
    ∃ t, exec i s = .next t
      ∧ t.memops = r.1.memops
      ∧ (t.core c.core).replay.map (fun x => (x.ag, x.pc, x.ctx, x.page, x.size, x.lanes))
          = (r.1.core c.core).replay.map (fun x => (x.ag, x.pc, x.ctx, x.page, x.size, x.lanes))
            ++ ((pagesOf all).map fun pg => (c.ag, c.pc, c.gr.ctx, pg, size,
                (all.filter fun (p : Nat × DWord) => p.2.toNat % 2 ^ 48 / 65536 == pg).map fun p =>
                  (⟨p.1, p.2.toNat, .sys 0, false, c.data srcs 1 p.1⟩ : LaneAcc)))
      ∧ (∀ w, (t.waveAt c.g w).map Wave.parked = (r.1.waveAt c.g w).map Wave.parked)
      ∧ SameMemory r.1 t

/-- A relaxed or ordered atomic need not wait and does not demote its group (11 R269, R281). -/
def Ordered (c : ICtx) (s : State) (sc : Scope) (returning always : Bool) : Prop :=
  (2 ≤ sc.order.toNat → s.released c sc.scope.toNat = true)
    ∧ c.demotes (decide (3 ≤ sc.scope.toNat) && (sc.order != 0 || returning)) always = false

/-- The state in which an atomic, ldr or stc acts: its operands are taken, a release has gone past the writes that it does
not wait for (12 R286), and an ldr has opened its window (14 R346). -/
def atomicBase (kind : OpKind) (srcs : List SrcW) (sc : Scope) (c : ICtx) (s : State) : State :=
  let o := s.operandsTaken c srcs
  let o := if 2 ≤ sc.order.toNat then o.passWrites c sc.scope.toNat else o
  if kind = .ldr then o.modMe c fun wv => { wv with ldrWin := 16 } else o

/-- An atomic, ldr or stc (11 R273 to R277, R280, R281). With no acting lane only its order has effect; an ared of a
versioned group is held until the commit; a wide one that is executed again receives its recorded answer; one of a
versioned group whose write has no room in its pool stalls (12 R298); else its lanes are in flight to their homes, in
order of lanes. -/
def AtomicPoint (i : Instr) (kind : OpKind) (size : Nat) (returning : Bool) (wd : Wd) (d : Option Dst) (a b : Src)
    (h : Hdr) (sc : Scope) : Prop :=
  let srcs : List SrcW := [(a, .w64), (b, wd)]
  let ds : List (Dst × Wd) := d.toList.map fun x => (x, .w32)
  let acq : Option Nat := if sc.order.toNat % 2 = 1 then some sc.scope.toNat else none
  let dst := if h.nw then none else d
  let base := atomicBase kind srcs sc
  let wide := fun (c : ICtx) => c.gr.versioned && returning && decide (3 ≤ sc.scope.toNat)
  let go := fun (c : ICtx) (s : State) => Served ds srcs c ∧ c.acting h ≠ []
    ∧ Ordered c (s.operandsTaken c srcs) sc returning (kind != .ldr && returning)
  let fresh := fun (c : ICtx) (s : State) => go c s
    ∧ (wide c = true → c.gr.answerFor (ansKey c.ag) = none)
  let reach := fun (c : ICtx) (s : State) => fresh c s
    ∧ (base c s).MayAccess c size (c.acting h) (c.addr srcs 0)
    ∧ (base c s).Reaches c (coreUnit c.g) .rw (c.acting h) (c.addr srcs 0) fun _ t => atomFault t
  let tr := fun (c : ICtx) (s : State) => (base c s).translateLanes (coreUnit c.g) c.gr.ctx .rw
    ((c.acting h).map fun l => (l, c.addr srcs 0 l))
  let signed := fun (c : ICtx) (s : State) (las : List LaneAcc) => match kind with
    | .atom _ false => s.signLanes c size (las.map fun (x : LaneAcc) => (x.lane, BitVec.ofNat 64 x.va)) (c.data srcs 1)
    | _ => s
  let full := fun (c : ICtx) (s : State) => returning = true ∧ wide c = false ∧ kind ≠ .ldr
    ∧ (tr c s).1.poolStalls c.g c.gr ((lanesOf (c.data srcs 1) (tr c s).2).map fun x => (x.tgt, size)) = true
  Completes i h 8
      (fun c s => Served ds srcs c ∧ c.acting h = [] ∧ Ordered c (s.operandsTaken c srcs) sc false false)
      (fun c s => (match acq with | some k => (base c s).acquire c.core k | none => base c s).doneNow c h)
    ∧ (∀ op, kind = .atom op false → Completes i h 8 (fun c s => reach c s ∧ c.gr.versioned = true)
        fun c s =>
          let las := lanesOf (c.data srcs 1) (tr c s).2
          ((signed c (tr c s).1 las).buffered c op las).doneNow c h)
    ∧ Completes i h 8
        (fun c s => reach c s ∧ ¬ (c.gr.versioned = true ∧ ∃ op, kind = .atom op false) ∧ ¬ full c s)
        (fun c s =>
          let las := lanesOf (c.data srcs 1) (tr c s).2
          (signed c (tr c s).1 las).addOp ⟨0, c.ag, c.pc, size, kind, las, dst, hdrFlag h, [], c.active h, acq,
            wide c, 0, none, false, [], false⟩)
    ∧ (∀ xs, Completes i h 8
        (fun c s => go c s ∧ wide c = true ∧ c.gr.answerFor (ansKey c.ag) = some xs)
        fun c s => (base c s).giveAnswer c h dst (c.acting h) size acq xs)
    ∧ TrapsUsing (useReads srcs) i h 8 (fun c s => reach c s ∧ full c s) (fun _ => .stall)
    ∧ DemotesFirst (useReads srcs) i h 1
        (fun c s => Served ds srcs c ∧ c.acting h ≠ []
          ∧ (2 ≤ sc.order.toNat → (s.operandsTaken c srcs).released c sc.scope.toNat = true)
          ∧ c.demotes (decide (3 ≤ sc.scope.toNat) && (sc.order != 0 || returning)) (kind != .ldr && returning) = true)
    ∧ TrapsUsing (useReads srcs) i h 8
        (fun c s => Served ds srcs c ∧ 2 ≤ sc.order.toNat ∧ (s.operandsTaken c srcs).released c sc.scope.toNat = false)
        (fun _ => .hold)
    ∧ AccessStops i h size .rw true fresh (fun _ _ => True) base srcs (fun c _ => coreUnit c.g) fun _ t => atomFault t

/-- The addresses of the acting lanes of a local access, and where they lie (11 R261). -/
def Local (c : ICtx) (h : Hdr) (srcs : List SrcW) (size : Nat) (st : Bool) (xs : List (Nat × LocalAddr)) : Prop :=
  xs.map Prod.fst = c.acting h ∧ ∀ p ∈ xs,
    let x := c.local srcs 0 p.1
    match p.2 with
    | .spad o => x.toNat = o ∧ o < 2 ^ 31 ∧ o % size = 0 ∧ o + size ≤ c.gr.va.spad
        ∧ (st = true → c.gr.meetsBar o size = false)
    | .aliasAt n k => c.uni = false ∧ size = 4 ∧ n < c.gr.rl ∧ n < 256 ∧ k < 32
        ∧ x.toNat = 2 ^ 31 + 128 * n + 4 * k

/-- A lane's local address that breaks R261. -/
def BadLocal (c : ICtx) (size : Nat) (st : Bool) (x : Nat) : Prop :=
  (x < 2 ^ 31 ∧ (x % size ≠ 0 ∨ c.gr.va.spad < x + size ∨ (st = true ∧ c.gr.meetsBar x size = true)))
    ∨ (2 ^ 31 ≤ x ∧ (c.uni = true ∨ size ≠ 4 ∨ 2 ^ 31 + 2 ^ 15 ≤ x ∨ x % 4 ≠ 0))

/-- A local access takes the scratchpad-range trap at its lowest lane that breaks R261, and the operand-bounds trap
where the alias names a register outside the window, the lower lanes being in order. -/
def LocalTraps (i : Instr) (h : Hdr) (ds : List (Dst × Wd)) (srcs : List SrcW) (size : Nat) (st : Bool) : Prop :=
  ∀ (l : Nat) (xs : List (Nat × LocalAddr)),
    let ready := fun (c : ICtx) (_ : State) => Served ds srcs c ∧ l ∈ c.acting h ∧ xs.map Prod.fst = (c.acting h).filter (· < l)
      ∧ ∀ p ∈ xs, localAddr c.gr c.uni size p.1 st (c.local srcs 0 p.1) = .ok p.2
    TrapsUsing (useReads srcs) i h 8 (fun c s => ready c s ∧ BadLocal c size st (c.local srcs 0 l).toNat)
        (fun _ => .trap cSpad none l)
      ∧ TrapsUsing (useReads srcs) i h 8 (fun c s => ready c s ∧ ¬ BadLocal c size st (c.local srcs 0 l).toNat
            ∧ 2 ^ 31 + 128 * c.gr.rl ≤ (c.local srcs 0 l).toNat)
          fun _ => .trap cBounds none l

/-- Scratchpad accesses wait for an earlier acquire of the wave, alias accesses do not (11 R274; 07 R179). -/
def LocalGoes (c : ICtx) (s : State) (xs : List (Nat × LocalAddr)) : Prop :=
  s.acqPending c.ag = true → ∀ p ∈ xs, ∃ n k, p.2 = .aliasAt n k

/-- lds (11 R261, R271; 07 R179). It reads the core's store (07 R169). -/
def LdsPoint (i : Instr) (size : Nat) (wd : Wd) (h : Hdr) (d : Dst) (a : Src) : Prop :=
  let srcs : List SrcW := [(a, .w32)]
  Completes i h 8 (fun c _ => Served [(d, wd)] srcs c ∧ c.acting h = [])
      (fun c s => (s.operandsTaken c srcs).doneNow c h)
    ∧ (∀ xs, Completes i h 8
        (fun c s => Served [(d, wd)] srcs c ∧ c.acting h ≠ [] ∧ Local c h srcs size false xs
          ∧ LocalGoes c (s.operandsTaken c srcs) xs
          ∧ ((∃ p ∈ xs, ∃ n k, p.2 = .aliasAt n k) → (s.operandsTaken c srcs).vPending c = false))
        fun c s => ((s.operandsTaken c srcs).storeRead c.core).addOp ⟨0, c.ag, c.pc, size, .ready 0, xs.map (fun p =>
          ⟨p.1, 0, .sys 0, false, match p.2 with
            | .aliasAt n k => (laneOf (c.wv.vAt c.clk n) k).setWidth 128
            | .spad o => BitVec.ofNat 128 (leVal (c.gr.spadBytes o size))⟩),
          if h.nw then none else some d, hdrFlag h, [], c.active h, none, false, 0, none, false, [], false⟩)
    ∧ LocalTraps i h [(d, wd)] srcs size false

/-- sts (11 R261, R271; 07 R179). -/
def StsPoint (i : Instr) (size : Nat) (wd : Wd) (h : Hdr) (a b : Src) : Prop :=
  let srcs : List SrcW := [(a, .w32), (b, wd)]
  Completes i h 8 (fun c _ => Served [] srcs c ∧ c.acting h = [])
      (fun c s => (s.operandsTaken c srcs).doneNow c h)
    ∧ (∀ xs, Completes i h 8
        (fun c s => Served [] srcs c ∧ c.acting h ≠ [] ∧ Local c h srcs size true xs
          ∧ LocalGoes c (s.operandsTaken c srcs) xs)
        fun c s => (xs.foldl (fun (s : State) p => match p.2 with
            | .aliasAt n k => s.aliasPut c n k (c.data srcs 1 p.1)
            | .spad o => s.modGrp c.g fun gr => gr.setSpad o (bytesOf size (c.data srcs 1 p.1).toNat))
          (s.operandsTaken c srcs)).doneNow c h)
    ∧ LocalTraps i h [] srcs size true

/-- The lane-private offsets of the acting lanes (11 R262). -/
def PrivOk (c : ICtx) (h : Hdr) (srcs : List SrcW) (size : Nat) : Prop :=
  ∀ l ∈ c.acting h, (c.local srcs 0 l).toNat % size = 0 ∧ (c.local srcs 0 l).toNat + size ≤ c.gr.va.lpriv

def PrivTraps (i : Instr) (h : Hdr) (ds : List (Dst × Wd)) (srcs : List SrcW) (size : Nat) : Prop :=
  ∀ l, TrapsUsing (useReads srcs) i h 8
    (fun c _ => Served ds srcs c ∧ l ∈ c.acting h
      ∧ ((c.local srcs 0 l).toNat % size ≠ 0 ∨ c.gr.va.lpriv < (c.local srcs 0 l).toNat + size)
      ∧ ∀ k ∈ c.acting h, k < l →
          (c.local srcs 0 k).toNat % size = 0 ∧ (c.local srcs 0 k).toNat + size ≤ c.gr.va.lpriv)
    fun _ => .trap cSpad none l

/-- ldl (11 R262, R271). -/
def LdlPoint (i : Instr) (size : Nat) (wd : Wd) (h : Hdr) (d : Dst) (a : Src) : Prop :=
  let srcs : List SrcW := [(a, .w32)]
  Completes i h 8 (fun c _ => Served [(d, wd)] srcs c ∧ c.acting h = [])
      (fun c s => (s.operandsTaken c srcs).doneNow c h)
    ∧ Completes i h 8 (fun c _ => Served [(d, wd)] srcs c ∧ c.acting h ≠ [] ∧ PrivOk c h srcs size)
        (fun c s => (s.operandsTaken c srcs).addOp ⟨0, c.ag, c.pc, size, .ready 0, (c.acting h).map (fun l =>
          ⟨l, 0, .sys 0, false, BitVec.ofNat 128 (c.wv.privs (c.local srcs 0 l).toNat l size)⟩),
          if h.nw then none else some d, hdrFlag h, [], c.active h, none, false, 0, none, false, [], false⟩)
    ∧ PrivTraps i h [(d, wd)] srcs size

/-- stl (11 R262, R271). -/
def StlPoint (i : Instr) (size : Nat) (wd : Wd) (h : Hdr) (a b : Src) : Prop :=
  let srcs : List SrcW := [(a, .w32), (b, wd)]
  Completes i h 8 (fun c _ => Served [] srcs c ∧ c.acting h = [])
      (fun c s => (s.operandsTaken c srcs).doneNow c h)
    ∧ Completes i h 8 (fun c _ => Served [] srcs c ∧ c.acting h ≠ [] ∧ PrivOk c h srcs size)
        (fun c s => ((s.operandsTaken c srcs).modMe c fun wv => (c.acting h).foldl
          (fun wv l => wv.setPrivs (c.local srcs 0 l).toNat l size (c.data srcs 1 l).toNat) wv).doneNow c h)
    ∧ PrivTraps i h [] srcs size

/-- The new value v of an atomic at its address, from the old value m and the operand b (11 R273). -/
def AtomRule (op : AtomOp) (m : Nat) (b : DWord) (v : Nat) : Prop :=
  let y := b.toNat % 2 ^ 32
  let sx := fun (n : Nat) => (BitVec.ofNat 32 n).toInt
  match op with
  | .addI32 => v = (m + y) % 2 ^ 32
  | .minI32 => v < 2 ^ 32 ∧ sx v = min (sx m) (sx y)
  | .maxI32 => v < 2 ^ 32 ∧ sx v = max (sx m) (sx y)
  | .andB32 => v < 2 ^ 32 ∧ ∀ k < 32, v.testBit k = (m.testBit k && y.testBit k)
  | .orB32 => v < 2 ^ 32 ∧ ∀ k < 32, v.testBit k = (m.testBit k || y.testBit k)
  | .xorB32 => v < 2 ^ 32 ∧ ∀ k < 32, v.testBit k = (m.testBit k != y.testBit k)
  | .exchB32 => v = y
  | .casB32 => v = if m = y then b.toNat / 2 ^ 32 else m
  | .addF32 => v = (fpAdd fp32 rmN m y).1
  | .addI64 => v = (m + b.toNat) % 2 ^ 64

/-- The bytes of memory are those of s but for the n at a, which hold v. -/
def Stored (s t : State) (a n v : Nat) : Prop :=
  (∀ k < n, t.byteAt (a + k) = BitVec.ofNat 8 (v / 256 ^ k))
    ∧ (∀ x, x < a ∨ a + n ≤ x → t.byteAt x = s.byteAt x) ∧ ∀ x, t.sysByteAt x = s.sysByteAt x

/-- Memory is as in s, and the version of the group at place g holds v in the n bytes at a, and is otherwise as it
was. -/
def Versioned (s t : State) (g a n v : Nat) : Prop :=
  SameMemory s t ∧ ∀ gr, s.grp g = some gr → ∃ gr', t.grp g = some gr'
    ∧ (∀ k < n, t.viewByte (some gr') (a + k) = BitVec.ofNat 8 (v / 256 ^ k))
    ∧ ∀ x, x < a ∨ a + n ≤ x → t.viewByte (some gr') x = s.viewByte (some gr) x

/-- The line of a DRAM address in the L1 that serves a core (07 R174, R175). -/
def State.l1Line (s : State) (core a : Nat) : Option (List Byte) :=
  let set := s.l1Set (s.l1Place core a).1 (s.l1Place core a).2
  (set.wayOf (a / 128)).bind fun w => (set.ways.getD w none).map Prod.snd

/-- A load of DRAM goes past L1: its page or its instruction says so, or the group's version holds a byte of the line (03
R67; 07 R174; 11 R270, R281). -/
def State.GoesPast (s : State) (g cache a : Nat) (byp : Bool) : Prop :=
  byp = true ∨ cache = 3
    ∨ ∃ gr, s.grp g = some gr ∧ ∃ k < 128, (SMap.get? (a / 128 * 128 + k) gr.version).isSome = true

/-- The n bytes of system space at an address, as a value. -/
def State.sysVal (s : State) (a n : Nat) : Nat := leVal ((List.range n).map fun k => s.sysByteAt (a + k))

/-- The value v of the bytes that one lane of a load finds: in its group's version or at their home, in its L1, in system
space, where the first 8 of 16 have been read before (11 R264), or in an alias page. -/
def State.Finds (s : State) (op : MemOp) (cache : Nat) (x : LaneAcc) (v : Nat) : Prop :=
  let g := agPlace op.ag
  match x.tgt with
  | .dram a =>
    (s.GoesPast g cache a x.byp → v = leVal ((List.range op.size).map fun k => s.viewByte (s.grp g) (a + k)))
      ∧ (¬ s.GoesPast g cache a x.byp → v = leVal ((((s.l1Line (coreOf g) a).getD
          ((List.range 128).map fun k => s.byteAt (a / 128 * 128 + k))).drop (a % 128)).take op.size))
  | .sys a =>
    if op.size = 16 then
      ∃ p, op.halves.find? (fun p => p.1 == x.lane) = some p ∧ v = p.2.toNat + 2 ^ 64 * s.sysVal (a + 8) 8
    else v = s.sysVal a op.size
  | .aliasAt d f p ty o => v = leVal (s.aliasRead (s.grp g) d f p ty o op.size)

/-- First halves are recorded of lanes of 16 bytes in system space only. -/
def HalvesOk (op : MemOp) : Prop :=
  ∀ p ∈ op.halves, op.size = 16 ∧ ∀ y ∈ op.lanes, y.lane = p.1 → y.tgt.isSys = true

/-- Word k of a loaded value of size bytes, and the value in 64 bits, sign-extended from fewer than 4 bytes where the
point says so: to 32 bits in the lane stream, to 64 in the uniform stream (11 R264). -/
def loadedWord (size : Nat) (sext : Bool) (v k : Nat) : Word :=
  if sext = true ∧ size < 4 then (BitVec.ofNat (8 * size) v).signExtend 32 else BitVec.ofNat 32 (v / 2 ^ (32 * k))
def loadedW (size : Nat) (sext : Bool) (v : Nat) : DWord :=
  if sext = true ∧ size < 4 then ((BitVec.ofNat (8 * size) v).signExtend 32).setWidth 64 else BitVec.ofNat 64 v
def loadedG (size : Nat) (sext : Bool) (v : Nat) : DWord :=
  if sext = true ∧ size < 4 then (BitVec.ofNat (8 * size) v).signExtend 64 else BitVec.ofNat 64 v

/-- The leaf that a walk for address va of a context by the service of a die finds, or its fault (03 R65, R66). -/
def State.leafOf (s : State) (die ctx va : Nat) : Except Nat (DWord × Nat × Nat) :=
  match s.context ctx with
  | some cx => (walkFrom s ctx (s.die die).wcache va 4 0 cx.root []).res
  | none => .error cNotPresent

-- Transport ------------------------------------------------------------------------------------

/-- A gather, pooling, scatter or score instruction whose index registers begin at V register k (05 R111, R114, R122,
R123, R127): with fewer than four operations of the wave outstanding and every check of R122 passed, its operation, with
the active slots and the rows' indices as read at issue, is on its way, and the wave waits for its lowest slot, if it
has one. -/
def TransportPoint (i : Instr) (form : XForm) (h : Hdr) (bo cnt : BitVec 4) (k : Nat) (b : Src) (slot : BitVec 5)
    (mw : Bool) : Prop :=
  let n := cnt.toNat + 1
  let srcs : List SrcW := (List.range n).map fun j => (.v (k + j), .w32)
  let goes := fun (c : ICtx) (s : State) => s.outCount c.g c.w < 4 ∧ s.acqPending c.ag = false
  let ready := fun (c : ICtx) (s : State) => goes c s ∧ k + n ≤ c.gr.rl
  let checks := fun (c : ICtx) (s : State) => xchecks s c.gr form (c.gr.handle slot.toNat) (c.scalar b) n mw bo.toNat
  (∀ hd bags, Completes i h 8
      (fun c s => ready c s ∧ checks c s = .ok (hd, bags)
        ∧ (form = .score → ∃ q, SMap.get? bags.query s.queries = some q ∧ q.loaded = true)
        ∧ ¬ (c.gr.versioned = true ∧ scatters form = true ∧ hd.shardKind ≠ 0))
      fun c s =>
        let slots := c.slots h k n
        let op : XOp := ⟨s.nextId, c.g, c.w, c.sp, c.pc, form, hd, n, bo.toNat, mw,
          ((c.scalar b).extractLsb' 0 32).toNat, bags.nb, bags.k, s.queryAt bags.query, bags.metric, bags.starts, slots,
          hdrFlag h, false, slots.isEmpty, c.clk, false⟩
        let t := { (s.operandsTaken c srcs).newId with xops := s.xops ++ [op] }
        if slots = [] then t else t.block c.ag (.first s.nextId))
    ∧ TrapsUsing (useReads srcs) i h 8 (fun c s => goes c s ∧ c.gr.rl < k + n) (fun _ => tr cBounds)
    ∧ TrapsUsing (useReads srcs) i h 8 (fun c s => ready c s ∧ c.gr.handle slot.toNat = none) (fun _ => tr cHandle)
    ∧ (∀ hd, TrapsUsing (useReads srcs) i h 8 (fun c s => ready c s ∧ c.gr.handle slot.toNat = some hd
        ∧ (formAllows form hd = false ∨ (scatters form = true ∧ hd.writable = false))) fun _ => tr cHandle)
    ∧ (∀ hd, TrapsUsing (useReads srcs) i h 8 (fun c s => ready c s ∧ c.gr.handle slot.toNat = some hd ∧ formAllows form hd = true
        ∧ (scatters form = true → hd.writable = true) ∧ bagged form = false
        ∧ (c.scalar b).toNat / 2 ^ 32 ≠ 0) fun _ => tr cValue)
    ∧ (∀ e, TrapsUsing (useReads srcs) i h 8 (fun c s => ready c s ∧ checks c s = .error e) fun _ => e)
    ∧ (∀ hd bags, form = .score → TrapsUsing (useReads srcs) i h 8
        (fun c s => ready c s ∧ checks c s = .ok (hd, bags)
          ∧ ∀ q, SMap.get? bags.query s.queries = some q → q.loaded = false) fun _ => .hold)
    ∧ (∀ hd bags, DemotesFirst (useReads srcs) i h 2
        (fun c s => ready c s ∧ checks c s = .ok (hd, bags) ∧ c.gr.versioned = true ∧ scatters form = true
          ∧ hd.shardKind ≠ 0))
    ∧ TrapsUsing (useReads srcs) i h 8 (fun c s => ¬ goes c s) fun _ => .hold

/-- The bytes of a row element's word after its update by a folded contribution f (05 R129): a sum, modulo 2^32 or rounded
to nearest, or a maximum, of signed words or of FP32 numbers, where a NaN gives the canonical one. -/
def ScatterRule (isMax isInt : Bool) (m f v : Word) : Prop :=
  match isMax, isInt with
  | false, true => v = m + f
  | false, false => v = f32Add m f
  | true, true => v = if m.toInt < f.toInt then f else m
  | true, false => v = if (fp32.decode m.toNat).isNan = true ∨ (fp32.decode f.toNat).isNan = true then BitVec.ofNat 32 fp32.nanCode
      else BitVec.ofNat 32 (fpMinMax fp32 true m.toNat f.toNat).1

/-- Word i of the row of the source tile that a slot of a scatter operation gives (05 R128). -/
def Group.sourceWord (gr : Group) (o : XOp) (x : XSlot) (i : Nat) : Word :=
  BitVec.ofNat 32 (leVal (gr.spadBytes (o.tile + 4 * (o.h.rowElems * x.j + i)) 4))

/-- Byte k of a word. -/
def byteOf (v k : Nat) : Byte := BitVec.ofNat 8 (v / 256 ^ k)

/-- What a slot of an operation is worth to its tile. -/
def XSlot.valid (x : XSlot) : Bool := x.cause == some 0

/-- What an agent waits for. -/
def State.waitOf (s : State) (ag : Agent) : Option Blk :=
  match ag with
  | .split g w sp => (s.waveAt g w).bind fun wv => (wv.splits[sp]?).map fun x => x.blk
  | .seq g => (s.seqAt g).map fun q => q.blk

/-- A scratchpad byte of the group at place g. -/
def State.spadAt (s : State) (g o : Nat) : Byte :=
  match s.grp g with
  | some gr => SMap.getD gr.spad o 0
  | none => 0

-- Engines --------------------------------------------------------------------------------------

/-- A control instruction: 64 bits, complete at issue, so that its flag falls at once (14 R333). -/
def Ctl (i : Instr) (h : Hdr) (ok : ICtx → State → Prop) (f : ICtx → State → State) : Prop :=
  Completes i h 8 ok fun c s => (f c s).doneNow c h

/-- A copy's operands: the global VA, the scratchpad offset and the count (06 R140). -/
def copyVa (c : ICtx) (a : Src) : Nat := (c.scalar a).toNat
def copyOfs (c : ICtx) (b : Src) : Nat := (c.scalar b).toNat % 2 ^ 32
def copyCount (c : ICtx) (b : Src) : Nat := (c.scalar b).toNat / 2 ^ 32

/-- The operands of a copy within the limits of R141. -/
def CopyLimits (c : ICtx) (a b : Src) : Prop :=
  copyVa c a % 16 = 0 ∧ copyOfs c b % 16 = 0 ∧ copyCount c b % 16 = 0 ∧ 16 ≤ copyCount c b
    ∧ copyCount c b ≤ 1048576

/-- Its scratchpad range: inside, and for acopy.in clear of every barrier object (06 R141). -/
def CopyRange (inn : Bool) (c : ICtx) (b : Src) : Prop :=
  copyOfs c b + copyCount c b ≤ c.gr.va.spad
    ∧ (inn = true → c.gr.meetsBar (copyOfs c b) (copyCount c b) = false)

/-- acopy.in and acopy.out at issue (06 R140 to R144): a copy that runs waits for its translation; one that does not
moves its tag through issue and completion and credits its barrier object at once. -/
def CopyPoint (i : Instr) (inn : Bool) (h : Hdr) (tag : BitVec 6) (a b : Src) (bo : BitVec 4) (bv : Bool) : Prop :=
  let bar : Option Nat := if bv then some bo.toNat else none
  let okBar := fun (c : ICtx) => bv = true → c.gr.barReady bo.toNat = true
  let ok := fun (c : ICtx) => CopyLimits c a b ∧ CopyRange inn c b ∧ okBar c
  let pend := fun (c : ICtx) => c.gr.pendTag.getD tag.toNat 0
  let queued := fun (c : ICtx) (s : State) => (s.copies.filter fun o => coreOf (agPlace o.ag) == c.core).length
  Completes i h 8 (fun c s => ok c ∧ pend c < 15 ∧ s.acqPending c.ag = false ∧ c.acting h ≠ [] ∧ queued c s < 32)
      (fun c s =>
        let op : CopyOp := ⟨s.nextId, c.ag, c.pc, inn, tag.toNat, copyVa c a, copyCount c b, copyOfs c b, bar, hdrFlag h, none⟩
        { s.newId with copies := s.copies ++ [op] }.block c.ag (.copy s.nextId))
    ∧ Completes i h 8 (fun c s => ok c ∧ pend c < 15 ∧ s.acqPending c.ag = false ∧ c.acting h = [])
        (fun c s => ((s.modGrp c.g fun gr => (gr.tagIssued tag.toNat).tagDone tag.toNat).credit c.g bar
          (copyCount c b)).doneNow c h)
    ∧ Traps i h 8 (fun c s => ok c ∧ (15 ≤ pend c ∨ s.acqPending c.ag = true ∨ (c.acting h ≠ [] ∧ 32 ≤ queued c s)))
        (fun _ => .hold)
    ∧ Traps i h 8 (fun c _ => ¬ CopyLimits c a b) (fun _ => tr cValue)
    ∧ Traps i h 8 (fun c _ => CopyLimits c a b ∧ ¬ CopyRange inn c b) (fun _ => tr cSpad)
    ∧ Traps i h 8 (fun c _ => CopyLimits c a b ∧ CopyRange inn c b ∧ ¬ okBar c) fun _ => tr cBarrier

/-- An access of the fetch unit or the Fennel cache in flight with a word for each acting lane. -/
def fetched (unit : Nat) (c : ICtx) (h : Hdr) (d : Dst) (word : Nat → Word) (s : State) : State :=
  s.addOp ⟨0, c.ag, c.pc, 4, .ready unit, (c.acting h).map (fun l => ⟨l, 0, .sys 0, false, (word l).setWidth 128⟩),
    if h.nw then none else some d, hdrFlag h, [], c.active h, none, false, 0, none, false, [], false⟩

/-- The control word of a DMA command (06 R149). -/
structure DmaCtl where
  len : Nat
  ch : Nat
  anyCh : Bool
  bv : Bool
  bo : Nat

def dmaCtl (x : DWord) : DmaCtl :=
  ⟨x.toNat % 2 ^ 40, x.toNat / 2 ^ 49 % 32, bit x 54, bit x 55, x.toNat / 2 ^ 56 % 16⟩

/-- The first two checks of R149. -/
def DmaOk (fill : Bool) (c : ICtx) (s : State) (a b e : Src) : Prop :=
  let x := c.scalar e
  let k := dmaCtl x
  x.toNat / 2 ^ 60 = 0 ∧ x.toNat / 2 ^ 40 % 2 ^ 9 = 0 ∧ (k.anyCh = true → k.ch = 0) ∧ (k.bv = false → k.bo = 0)
    ∧ k.len ≠ 0 ∧ (k.anyCh = false → s.pkg.chanLive k.ch = true)
    ∧ (if fill then (c.scalar a).toNat % 8 = 0 ∧ k.len % 8 = 0
      else (c.scalar a).toNat + k.len ≤ (c.scalar b).toNat ∨ (c.scalar b).toNat + k.len ≤ (c.scalar a).toNat)

/-- dma.copy and dma.fill on channel n (06 R148, R149, R152): the command is queued behind those of its channel, and the
ticket names the channel and the sequence number. -/
def DmaPoint (i : Instr) (fill : Bool) (h : Hdr) (d : Dst) (a b e : Src) : Prop :=
  (∀ n, Completes i h 8
      (fun c s => DmaOk fill c s a b e ∧ ((dmaCtl (c.scalar e)).bv = true → c.gr.barReady (dmaCtl (c.scalar e)).bo = true)
        ∧ (if (dmaCtl (c.scalar e)).anyCh then
            s.pkg.chanLive n = true
              ∧ (∀ k, s.pkg.chanLive k = true → (s.chan n).q.length ≤ (s.chan k).q.length)
              ∧ (∀ k < n, s.pkg.chanLive k = true → (s.chan n).q.length < (s.chan k).q.length)
          else n = (dmaCtl (c.scalar e)).ch)
        ∧ (s.chan n).q.length < 64 ∧ s.acqPending c.ag = false ∧ c.gr.versioned = false)
      fun c s =>
        let k := dmaCtl (c.scalar e)
        let seq := (s.chan n).next
        let cmd : DmaCmd := ⟨c.g, c.gr.grid, c.gr.index, c.gr.ctx, seq, fill, (c.scalar a).toNat, c.scalar b, k.len, 0,
          if k.bv then some k.bo else none, hdrFlag h, 0, none⟩
        let t := { s with dma := SMap.set n { s.chan n with q := (s.chan n).q ++ [cmd], next := seq + 1 } s.dma }
        if h.nw then t else t.setScalar c d (BitVec.ofNat 64 (n * 2 ^ 48 + seq % 2 ^ 32)))
    ∧ (∀ n, let goes := fun (c : ICtx) (s : State) => DmaOk fill c s a b e
          ∧ ((dmaCtl (c.scalar e)).bv = true → c.gr.barReady (dmaCtl (c.scalar e)).bo = true)
          ∧ (dmaCtl (c.scalar e)).anyCh = false ∧ n = (dmaCtl (c.scalar e)).ch
        DemotesFirst (fun _ q => q) i h 3
            (fun c s => goes c s ∧ (s.chan n).q.length < 64 ∧ s.acqPending c.ag = false ∧ c.gr.versioned = true)
          ∧ Traps i h 8 (fun c s => goes c s ∧ (64 ≤ (s.chan n).q.length ∨ s.acqPending c.ag = true)) fun _ => .hold)
    ∧ Traps i h 8 (fun c s => ¬ DmaOk fill c s a b e) (fun _ => tr cValue)
    ∧ Traps i h 8 (fun c s => DmaOk fill c s a b e ∧ (dmaCtl (c.scalar e)).bv = true
        ∧ c.gr.barReady (dmaCtl (c.scalar e)).bo = false) fun _ => tr cBarrier

-- The matrix engine ----------------------------------------------------------------------------

/-- The core's queue of matrix commands has room, and no acquire of the sequencer is to come (10 R242; 12 R290). -/
def QueueFree (c : ICtx) (s : State) : Prop :=
  ((s.groups.filter fun x => coreOf x.1 == c.core).map fun x => x.2.mq.length).foldl (· + ·) 0 < 16
    ∧ s.acqPending c.ag = false

/-- A matrix instruction whose checks pass (ok) enters the group's queue as command k, with the flag its cue names,
behind the earlier ones (10 R242); a core's queue of 16 holds the sequencer. -/
def Queues (i : Instr) (h : Hdr) (ok : ICtx → State → Prop) (k : ICtx → MKind) : Prop :=
  (∀ s c, s.icx = some c → ok c (s.begun c h 8) → QueueFree c (s.begun c h 8) →
      ∃ t gr due, exec i s = .next t ∧ t.grp c.g = some gr ∧ gr.mq = c.gr.mq ++ [⟨k c, hdrFlag h, due, false⟩]
        ∧ gr.acc = c.gr.acc ∧ gr.spad = c.gr.spad ∧ gr.planes = c.gr.planes ∧ gr.active = c.gr.active
        ∧ gr.mfl = c.gr.mfl ∧ gr.tiles = c.gr.tiles ∧ gr.rp = c.gr.rp ∧ gr.cp = c.gr.cp)
    ∧ Traps i h 8 (fun c s => ¬ QueueFree c s) fun _ => .hold

/-- Bytes of a stored row of a tile (10 R241). -/
def tileRb (sp cols w : Nat) : Nat := (((if sp = 1 then cols / 2 else cols) * w + 7) / 8 + 15) / 16 * 16

/-- The tile that the three words of R240 describe. -/
def wordsTile (a b e : Nat) : Tile where
  rows := a / 2 ^ 48 % 256
  cols := a / 2 ^ 40 % 256
  pitch := a / 2 ^ 24 % 65536
  base := a % 2 ^ 21
  sh := b / 2 ^ 27 % 32
  sp := b / 2 ^ 25 % 4
  etype := b / 65536 % 256
  fmtw := BitVec.ofNat 16 b
  colorg := e / 2 ^ 32
  roworg := e % 2 ^ 32

/-- The three words pass the checks of R244. -/
def TileOk (a b e : Nat) : Prop :=
  let t := wordsTile a b e
  let mx := 0x30 ≤ t.etype ∧ t.etype ≤ 0x35
  a / 2 ^ 56 = 0 ∧ a / 2 ^ 21 % 8 = 0 ∧ b / 2 ^ 32 = 0 ∧ b / 2 ^ 24 % 2 = 0
    ∧ 1 ≤ t.rows ∧ t.rows ≤ 64 ∧ 1 ≤ t.cols ∧ t.cols ≤ 64 ∧ t.pitch % 16 = 0 ∧ t.base % 16 = 0
    ∧ (t.etype ∈ [0x01, 0x02, 0x05, 0x10, 0x11, 0x12, 0x20] ∨ mx)
    ∧ (if t.etype = 0x20 then FmtW.valid t.fmtw = true else t.fmtw = 0)
    ∧ tileRb t.sp t.cols (tileBits t.etype t.fmtw) ≤ t.pitch
    ∧ (mx → t.cols = 32 ∨ t.cols = 64)
    ∧ t.sp ≠ 3 ∧ (t.sp ≠ 0 → ¬ mx ∧ t.etype ≠ 5)
    ∧ (t.sp = 1 → t.cols % 4 = 0 ∧ t.colorg % 4 = 0)
    ∧ (t.sp = 0 → t.sh = 0 ∧ t.colorg = 0 ∧ t.roworg = 0)

/-- A configured tile whose extent lies in the scratchpad, clear of every barrier object where it is written. -/
def TileFits (c : ICtx) (t : BitVec 4) (write : Bool) (x : Tile) : Prop :=
  c.gr.tile t.toNat = some x ∧ x.base + x.extent ≤ c.gr.va.spad
    ∧ (write = true → c.gr.meetsBar x.base x.extent = false)

/-- tload and tstore (10 R245): every row's pages are translated before the command enters the queue. -/
def TileMove (i : Instr) (inn : Bool) (h : Hdr) (t : BitVec 4) (bv : Bool) (a b : Src) (bo : BitVec 4) : Prop :=
  ∀ (x : Tile) (u : State) (ps : List XPiece),
    let ok := fun (c : ICtx) (s : State) => TileFits c t inn x ∧ (c.gOr0 a).toNat % 16 = 0 ∧ (c.gOr0 b).toNat % 16 = 0
      ∧ (bv = true → c.gr.barReady bo.toNat = true)
      ∧ s.xpieces (coreUnit c.g) c.gr.ctx (if inn then .rd else .wr)
          ((tileRows x (c.gOr0 a) (c.gOr0 b)).flatMap fun p => pieces p.2 x.rowBytes) = (u, ps)
    let qs := refusePieces (copyCheck inn) ps
    let kind := fun (c : ICtx) =>
      let ofs := (tileRows x (c.gOr0 a) (c.gOr0 b)).flatMap fun p => (List.range (x.rowBytes / 16)).map fun k => p.1 + 16 * k
      let bar := if bv then some (bo.toNat, x.rows * x.rowBytes) else none
      if inn then MKind.tload (ofs.zip (unitsOf qs)) bar
      else MKind.tstore (ofs.zip (unitsOf qs)) bar (if c.gr.cls = 2 then tileSig x (c.gOr0 a) (c.gOr0 b) else [])
    (∀ s c, s.icx = some c → ok c (s.begun c h 8) → QueueFree c (s.begun c h 8) → decidingFault qs = none
        → (inn = true ∨ c.gr.versioned = false ∨ (unitsOf qs).any Tgt.isSys = false) →
        ∃ v gr due, exec i s = .next v ∧ v.grp c.g = some gr ∧ gr.mq = c.gr.mq ++ [⟨kind c, hdrFlag h, due, false⟩])
      ∧ (∀ f, Traps i h 8 (fun c s => ok c s ∧ QueueFree c s ∧ decidingFault qs = some f) fun _ =>
          if f.1 = cNotPresent then .park f.2 0 else .trap f.1 (some f.2) 0)
      ∧ DemotesFirst (fun _ q => q) i h 3 fun c s => ok c s ∧ QueueFree c s ∧ decidingFault qs = none ∧ inn = false
          ∧ c.gr.versioned = true ∧ (unitsOf qs).any Tgt.isSys = true

/-- mwload and mwload.sm (10 R247): the weights go to the plane that is standby after every issued swap. -/
def WeightLoad (i : Instr) (h : Hdr) (t : BitVec 4) (sg : ICtx → Option DWord) : Prop :=
  (∀ (x : Tile) (u : State) (md : SMap DWord) (side : Option Layout), Queues i h
      (fun c s => TileFits c t false x ∧ x.etype ≠ 5 ∧ s.readMd c x = .ok (u, md, side)
        ∧ ∀ v, sg c = some v → v.toNat < 2 ^ 21 ∧ v.toNat % 4 = 0 ∧ v.toNat + 4 * x.rows ≤ c.gr.va.spad)
      fun c => .mwload x ((sg c).map BitVec.toNat) (1 - c.gr.isActive) md side)
    ∧ Traps i h 8 (fun c s => QueueFree c s ∧ c.gr.tile t.toNat = none) (fun _ => tr cValue)
    ∧ ∀ x, Traps i h 8 (fun c s => QueueFree c s ∧ c.gr.tile t.toNat = some x ∧ x.etype = 5) fun _ => tr cValue

/-- The greatest K of a family and the formats it admits (10 R238). -/
def famK (f : Fam) : Nat := if f = .bf16 ∨ f = .f16 then 32 else 64
def famAdmits (f : Fam) (et : Nat) (fmtw : BitVec 16) : Prop :=
  match f with
  | .i8 => et = 1 ∨ et = 2
  | .f8 => et = 0x20
  | .f4 => et = 0x20 ∧ FmtW.w fmtw ≤ 4
  | .bf16 => et = 0x11
  | .f16 => et = 0x10
  | .x3 => et = 0x12
  | .mx => 0x30 ≤ et ∧ et ≤ 0x35

/-- A pass (10 R251, R253): it takes its tile, predicates and plane as they stand at issue. -/
def PassPoint (i : Instr) (f : Fam) (h : Hdr) (acc : BitVec 6) (t : BitVec 4) (rp cpn cpk : BitVec 2) (z : Bool)
    (e : Src) : Prop :=
  let set := fun (c : ICtx) => (c.gOr0 e).toNat / 65536 % 256
  let sfw := fun (c : ICtx) => BitVec.ofNat 16 (c.gOr0 e).toNat
  let svec := fun (c : ICtx) => (c.gOr0 e).toNat / 2 ^ 32 % 2 ^ 21
  let sm := fun (c : ICtx) => bit (c.gOr0 e) 63
  let desc := fun (c : ICtx) => (c.gOr0 e).toNat / 2 ^ 53 % 2 ^ 10 = 0 ∧ (c.gOr0 e).toNat / 2 ^ 24 % 2 ^ 8 = 0
    ∧ svec c % 4 = 0 ∧ (set c = 0 ∨ tileType (set c) = true)
    ∧ (if set c = 0x20 then FmtW.valid (sfw c) = true else sfw c = 0)
  let st := fun (c : ICtx) (x : Tile) => if set c = 0 then x.etype else set c
  let sw := fun (c : ICtx) (x : Tile) => if set c = 0 then x.fmtw else sfw c
  let plane := fun (c : ICtx) => c.gr.isPlanes.getD c.gr.isActive none
  (∀ (x : Tile) (p : PlaneInfo) (u : State) (md : SMap DWord) (side : Option Layout), Queues i h
      (fun c s => acc.toNat < c.gr.va.acc ∧ TileFits c t false x ∧ desc c ∧ x.cols ≤ famK f ∧ plane c = some p
        ∧ p.k ≤ famK f ∧ famAdmits f p.etype p.fmtw ∧ famAdmits f (st c x) (sw c x)
        ∧ s.readMd c x = .ok (u, md, side) ∧ (sm c = true → svec c + 4 * x.cols ≤ c.gr.va.spad))
      fun c => .mmac f.num acc.toNat x (c.gr.rp.getD rp.toNat 0) (c.gr.cp.getD cpn.toNat 0) (c.gr.cp.getD cpk.toNat 0) z
        c.gr.isActive (if sm c then some (svec c) else none) (set c) (sfw c) md side)
    ∧ Traps i h 8 (fun c s => QueueFree c s ∧ c.gr.va.acc ≤ acc.toNat) (fun _ => tr cValue)
    ∧ Traps i h 8 (fun c s => QueueFree c s ∧ acc.toNat < c.gr.va.acc ∧ c.gr.tile t.toNat = none) (fun _ => tr cValue)
    ∧ (∀ x, Traps i h 8 (fun c s => QueueFree c s ∧ acc.toNat < c.gr.va.acc ∧ c.gr.tile t.toNat = some x ∧ (¬ desc c ∨ famK f < x.cols))
        fun _ => tr cValue)
    ∧ (∀ x, Traps i h 8 (fun c s => QueueFree c s ∧ acc.toNat < c.gr.va.acc ∧ c.gr.tile t.toNat = some x ∧ desc c ∧ x.cols ≤ famK f
        ∧ plane c = none) fun _ => tr cMatrix)
    ∧ ∀ x p, Traps i h 8 (fun c s => QueueFree c s ∧ acc.toNat < c.gr.va.acc ∧ c.gr.tile t.toNat = some x ∧ desc c ∧ x.cols ≤ famK f
        ∧ plane c = some p ∧ (famK f < p.k ∨ ¬ famAdmits f p.etype p.fmtw ∨ ¬ famAdmits f (st c x) (sw c x)))
        fun _ => tr cMatrix

/-- Accumulator element (m, n) of tile A of the group at place g. -/
def State.accOf (s : State) (g a m n : Nat) : Word :=
  match s.grp g with
  | some gr => gr.accAt a m n
  | none => 0

/-- The exact sum that a pass forms for element (m, n): the products of its selected channels in rising order (10 R252). -/
def Group.passSum (gr : Group) (fam : Nat) (x : Tile) (cpk : DWord) (p : Plane) (sm : Option Nat) (set : Nat) (sfw : BitVec 16)
    (md : SMap DWord) (side : Option Layout) (m n : Nat) : Ext :=
  let xs := (gr.actRow x ((sel cpk).filter (· < x.cols)) sm set sfw md side m).filter fun y => y.k < p.k
  (xs.flatMap fun y => products (fam == 5) y.v (inputOf p.etype (SMap.getD p.weights (64 * y.k + n) (.fin false 0 0)))).foldl
    (fun (q : Ext) v => (q.add rmN v).1) (.fin false 0 0)

/-- Element (m, n) of its accumulator tile after a pass that finds old in it: FP32 of old, or of +0 under Z, plus the exact
sum, where the row and the column are selected and the plane holds weights (10 R252). -/
def Group.passElem (gr : Group) (k : MKind) (m n : Nat) (old : Word) : Word :=
  match k with
  | .mmac fam _ x rp cpn cpk z plane sm set sfw md side =>
    match gr.planes.getD plane none with
    | some p =>
      if bit rp m && m < x.rows && bit cpn n && n < p.n then
        BitVec.ofNat 32 (fp32.encode rmN (((if z then .fin false 0 0 else fp32.decode old.toNat).add rmN
          (gr.passSum fam x cpk p sm set sfw md side m n)).1)).1
      else old
    | none => old
  | _ => old

/-- mfl after a command: each bit has been set, or is by what the command met (10 R256). -/
def MflAfter (old new : BitVec 32) (ovf nan qsat cvt sigma : Prop) : Prop :=
  (bit new 0 = true ↔ bit old 0 = true ∨ ovf) ∧ (bit new 1 = true ↔ bit old 1 = true ∨ nan)
    ∧ (bit new 2 = true ↔ bit old 2 = true ∨ qsat) ∧ (bit new 3 = true ↔ bit old 3 = true ∨ cvt)
    ∧ (bit new 4 = true ↔ bit old 4 = true ∨ sigma) ∧ ∀ k, 5 ≤ k → bit new k = bit old k

/-- A value written to an accumulator element overflows FP32. -/
def overflows (v : Ext) : Prop := (fp32.encode rmN v).2 &&& flOF ≠ 0

/-- What mstore stores for an accumulator word in a tile that is not of MX (10 R255). -/
def mstoreCode (et : Nat) (fmtw : BitVec 16) (x : Word) : Nat :=
  let v := fp32.decode x.toNat
  if et = 0x12 then x.toNat
  else if et = 0x10 then (fp16.encode rmN v).1
  else if et = 0x11 then
    let r := (bf16.encode rmN v).1
    if r / 128 % 256 = 0 then r / 32768 * 32768 else r
  else if et = 0x05 then (roundInt 32 (-2147483648) 2147483647 v).1
  else if et = 0x01 then (roundInt 8 (-128) 127 v).1
  else if et = 0x02 then (roundInt 8 0 255 v).1
  else (FmtW.encode fmtw v rmN).1

/-- The values of block b of row m of an MX tile as mstore re-encodes it: the selected columns from the accumulators, the
others as they read (10 R255). -/
def Group.mxRow (gr : Group) (x : Tile) (a : Nat) (cp : DWord) (m b : Nat) : List Ext :=
  (List.range 32).map fun i => if bit cp (32 * b + i) && 32 * b + i < x.cols then fp32.decode (gr.accAt a m (32 * b + i)).toNat
    else gr.tileStored x m (32 * b + i)

/-- The weight (k, j) that mwload.sm latches with factors at scratchpad offset o, and whether its encoding saturated (10
R247). -/
def Group.smoothed (gr : Group) (x : Tile) (md : SMap DWord) (side : Option Layout) (o k j : Nat) : Ext × Bool :=
  let w := fun (n : Nat) => ((gr.tileLogical x md side k n).1.mul (gr.sigma o k).1).1
  if isMx x.etype then
    (recodeMx (x.etype - 0x30) ((List.range 32).map fun i => w (32 * (j / 32) + i))).getD (j % 32) (.fin false 0 0, false)
  else recode x.etype x.fmtw (w j)

/-- An object after bytes and arrivals have reached it (13 R315). -/
def reached (b : Barrier) (bytes arrivals : Nat) : Barrier :=
  if b.expArrivals ≤ b.arrivals + arrivals ∧ b.expBytes ≤ b.bytes + bytes then
    ⟨0, 0, b.expArrivals, !b.phase, b.expBytes, b.ofs⟩
  else ⟨b.bytes + bytes, b.arrivals + arrivals, b.expArrivals, b.phase, b.expBytes, b.ofs⟩

/-- The barrier objects after n bytes have reached one of them, where one is named (13 R315). -/
def BarsAfter (old new : List (Option Barrier)) (bar : Option Nat) (bytes : Nat) : Prop :=
  ∀ j < 16, new.getD j none = (old.getD j none).map fun b => if bar = some j then reached b bytes 0 else b

-- Barriers -------------------------------------------------------------------------------------

/-- The mirror of a barrier object in its 16 bytes (13 R315). -/
def mirrorByte (b : Barrier) (m : Nat) : Byte :=
  if m < 4 then BitVec.ofNat 8 (b.bytes / 256 ^ m)
  else if m < 6 then BitVec.ofNat 8 (b.arrivals / 256 ^ (m - 4))
  else if m = 6 then BitVec.ofNat 8 b.expArrivals
  else if m = 7 then (if b.phase then 1 else 0)
  else if m < 12 then BitVec.ofNat 8 (b.expBytes / 256 ^ (m - 8))
  else 0

/-- The fields of barinit's value (13 R317), and what R318 asks of the object and its place. -/
def initOfs (c : ICtx) (a : Src) : Nat := (c.scalar a).toNat % 2 ^ 21
def initSets (c : ICtx) (a : Src) : Prop := (c.scalar a).toNat / 2 ^ 24 ≠ 0
def initZero (c : ICtx) (a : Src) : Prop := (c.scalar a).toNat / 2 ^ 21 % 8 = 0
def barIdle (c : ICtx) (s : State) (k : Nat) : Prop :=
  s.barBusy c.g k = false ∧ ∀ o, c.gr.bars.getD k none = some o → o.bytes = 0 ∧ o.arrivals = 0
def barFits (c : ICtx) (s : State) (k : Nat) (ofs : Nat) : Prop :=
  ofs + 16 ≤ c.gr.va.spad
    ∧ (∀ j o, j < 16 → j ≠ k → c.gr.bars.getD j none = some o → ofs + 16 ≤ o.ofs ∨ o.ofs + 16 ≤ ofs)
    ∧ ∀ r ∈ s.destRanges c.g, ¬ (ofs < r.1 + r.2 ∧ r.1 < ofs + 16)

/-- The barrier objects of the group at place g but for object k. -/
def sameBarsBut (k : Nat) (old new : List (Option Barrier)) : Prop :=
  ∀ j, j < 16 → j ≠ k → new.getD j none = old.getD j none

/-- The group goes on with field f of it as new, and nothing but the issue is seen in the rest of it. -/
def groupNow {α : Type} (f : Group → α) (new : ICtx → α) (c : ICtx) (s t : State) : Prop :=
  SameRegisters s t ∧ (t.grp c.g).map f = some (new c)

/-- Every live split of every live wave among ws waits as e says. -/
def allWait (e : Blk → Prop) (wv : Wave) : Prop := ∀ x ∈ wv.splits, x.live = true → e x.blk

/-- The entry at position n of the decision queue. -/
def Group.entryAt (gr : Group) (n : Nat) : Option DWord := gr.dq[n - gr.dqFreed]?

-- Launching ------------------------------------------------------------------------------------

/-- The sequencer's or the wave's earlier writes are performed, and the instruction does not demote its group (11 R281;
13 R304). -/
def MayAsk (c : ICtx) (s : State) : Prop := s.released c 4 = true ∧ c.demotes true true = false

/-- Nothing was recorded for the agent at its commit point (11 R281; 09 R234). -/
def NoAnswer (c : ICtx) : Prop := c.gr.versioned = true → c.gr.answerFor (ansKey c.ag) = none
-- Control --------------------------------------------------------------------------------------

/-- The pc of an agent, and the first clk in which a transfer lets it issue. -/
def State.pcOf (s : State) (ag : Agent) : Option Nat :=
  match ag with
  | .split g w sp => (s.waveAt g w).bind fun wv => (wv.splits[sp]?).map fun x => x.pc
  | .seq g => (s.seqAt g).map fun q => q.pc
def State.readyOf (s : State) (ag : Agent) : Option Nat :=
  match ag with
  | .split g w sp => (s.waveAt g w).bind fun wv => (wv.splits[sp]?).map fun x => x.readyAt
  | .seq g => (s.seqAt g).map fun q => q.readyAt

/-- Split k of wave w of the group at place g. -/
def State.splitAt (s : State) (g w k : Nat) : Option Split := (s.waveAt g w).bind fun wv => wv.splits[k]?

/-- Byte o of lane l of the lane-private memory of a wave. -/
def State.privAt (s : State) (g w o l : Nat) : Byte :=
  match s.waveAt g w with
  | some wv => wv.priv o l
  | none => 0

/-- Where ok holds, the instruction is a taken transfer to tgt: the next issue waits until 3 clk after it (14 R337,
R347); more says what else it does to the state after its issue. -/
def GoesTo (i : Instr) (h : Hdr) (ok : ICtx → State → Prop) (tgt : ICtx → Nat) (more : ICtx → State → State → Prop) :
    Prop :=
  ∀ s c, s.icx = some c → ok c (s.begun c h 8) → ∃ t, exec i s = .next t ∧ t.pcOf c.ag = some (tgt c)
    ∧ t.readyOf c.ag = some (s.clk + 3) ∧ SameMemory s t ∧ more c (s.begun c h 8) t

/-- Where ok holds, the agent goes on with the next word, under no wait of a transfer of this instruction. -/
def FallsThrough (i : Instr) (h : Hdr) (len : Nat) (ok : ICtx → State → Prop) (more : ICtx → State → State → Prop) :
    Prop :=
  ∀ s c, s.icx = some c → ok c (s.begun c h len) → ∃ t, exec i s = .next t ∧ t.pcOf c.ag = some (c.next len)
    ∧ t.readyOf c.ag = s.readyOf c.ag ∧ SameMemory s t ∧ more c (s.begun c h len) t

/-- No register differs from the state after the issue. -/
def keepRegs (_ : ICtx) (s t : State) : Prop := SameRegisters s t

/-- An entry of the decision queue is consumed by the wave (07 R187). -/
def takesEntry (c : ICtx) (s t : State) : Prop :=
  SameRegisters s t ∧ (t.waveAt c.g c.w).map Wave.dqPos = some (c.wv.dqPos + 1)

/-- The call of a wave (14 R344): the return offset r is in the four bytes below the older entries of every lane of LS,
and nothing else of the wave's lane-private memory differs; the split is one call deeper. -/
def laneCalled (c : ICtx) (s t : State) : Prop :=
  let p := c.gr.va.lpriv - 4 * (c.spl.depth + 1)
  (∀ l k, l < 32 → k < 4 → bit c.spl.ls l = true →
      t.privAt c.g c.w (p + k) l = BitVec.ofNat 8 (c.next 8 / 256 ^ k))
    ∧ (∀ l o, l < 32 → (bit c.spl.ls l = false ∨ o < p ∨ p + 4 ≤ o) → t.privAt c.g c.w o l = s.privAt c.g c.w o l)
    ∧ (t.splitAt c.g c.w c.sp).map (fun x => (x.depth, x.ls, x.em, x.stack))
        = some (c.spl.depth + 1, c.spl.ls, c.spl.em, c.spl.stack)
    ∧ (∀ k, k ≠ c.sp → t.splitAt c.g c.w k = s.splitAt c.g c.w k)
    ∧ (t.waveAt c.g c.w).map (fun wv => (wv.v, wv.w, wv.p)) = (s.waveAt c.g c.w).map fun wv => (wv.v, wv.w, wv.p)

/-- The return site of a lane (14 R344). -/
def ICtx.site (c : ICtx) (l : Nat) : Nat := c.wv.privs (c.gr.va.lpriv - 4 * c.spl.depth) l 4

/-- The waiter entries at the top of a stack that a join at j with a depth folds back (14 R341). -/
def foldsBack (j depth : Nat) (pre : List StackEnt) : Prop := ∀ e ∈ pre, ∃ ls em, e = .waiter j ls em depth
def lsOf (pre : List StackEnt) (ls : BitVec 32) : BitVec 32 :=
  pre.foldl (fun x e => x ||| (match e with | .waiter _ l _ _ => l | .deferred _ l _ _ => l)) ls
def emOf (pre : List StackEnt) (em : BitVec 32) : BitVec 32 :=
  pre.foldl (fun x e => x ||| (match e with | .waiter _ _ m _ => m | .deferred _ _ m _ => m)) em

/-- No entry on top that a join at j with a depth takes. -/
def leavesLoop (j depth : Nat) (rest : List StackEnt) : Prop :=
  rest = [] ∨ ∃ pc ls em d tl, rest = .waiter pc ls em d :: tl ∧ ¬ (pc = j ∧ d = depth)

/-- A split waits at the join at j with a depth. -/
def waitsAt (x : Split) (j depth : Nat) : Prop := x.live = true ∧ x.blk = .join j ∧ x.depth = depth

-- Status registers -----------------------------------------------------------------------------

/-- A 64-bit scalar destination receives x at once, or nothing under NW; no other W or G register differs. -/
def scalarGets (h : Hdr) (d : Dst) (x : DWord) (c : ICtx) (s t : State) : Prop :=
  (h.nw = true → SameRegisters s t)
    ∧ (∀ r, h.nw = false → d = .w r → r < 16 → c.uni = false → t.wHeld c.g c.w r = x
        ∧ ∀ k, k < 16 → k ≠ r → t.wHeld c.g c.w k = s.wHeld c.g c.w k)
    ∧ (∀ r, h.nw = false → d = .g r → r < 64 → t.gHeld c.g r = x
        ∧ ∀ k, k < 64 → k ≠ r → t.gHeld c.g k = s.gHeld c.g k)

/-- The numbers that rdst and wrst may name in a stream (16 R375). -/
def readable (uni : Bool) : List Nat :=
  if uni then [0x03, 0x04, 0x06, 0x07, 0x09, 0x0a] ++ (List.range 24).map (0x10 + ·) else List.range 11
def writable (uni : Bool) : List Nat :=
  if uni then [0x03, 0x04, 0x09, 0x0a] ++ (List.range 24).map (0x10 + ·) else [0x00, 0x01, 0x03, 0x04, 0x05, 0x09, 0x0a]

/-- What a read of a status register waits for (16 R375; 04 R90; 09 R221; 05 R126; 10 R256). -/
def readWaits (c : ICtx) (s : State) (num : Nat) : Prop :=
  match num with
  | 0x00 => ∃ p ∈ (s.me c).pend, s.clk < p.due ∧ p.cls = .fp
  | 0x01 => (∃ p ∈ c.wv.pend, s.clk < p.due ∧ p.cls = .interval)
      ∨ (∃ r ∈ s.reqs, sameWave r.ag c.ag = true ∧ ∃ n d nw, r.kind = .spawn n d nw)
      ∨ ∃ o ∈ s.memops, sameWave o.ag c.ag = true ∧ o.iv = true
  | 0x02 => ∃ o ∈ s.xops, o.g = c.g ∧ o.w = c.w
  | 0x04 => (s.mine c).mq ≠ []
  | _ => False

/-- What it reads below 0x10. -/
def statusWord (c : ICtx) (s : State) (num : Nat) : Nat :=
  let wv := s.me c
  let gr := s.mine c
  match num with
  | 0x00 => wv.fst.toNat
  | 0x01 => wv.ivst.toNat
  | 0x02 => (wv.xstat &&& ~~~0x70000).toNat
  | 0x03 => gr.spst.toNat
  | 0x04 => gr.mfl.toNat
  | 0x05 => wv.xi.toNat * 2 ^ 24 + gr.rl * 2 ^ 16 + c.w % 4 * 2 ^ 14 + wv.rb
  | 0x06 => (s.pkg.part.toNat * 2 ^ 20 + 2 ^ 18 + s.pkg.livex.toNat * 2 ^ 16 + s.pkg.livec.toNat) % 2 ^ 32
  | 0x07 => gr.ordinal
  | 0x08 => wv.place
  | 0x09 => (if c.uni then gr.seq.hst else wv.hst).toNat
  | _ => s.softCount c.core

/-- A wave, or the group, goes on with a field of it as new, and no register of the register files differs. -/
def waveNow {α : Type} (f : Wave → α) (new : ICtx → State → α) (c : ICtx) (s t : State) : Prop :=
  (t.waveAt c.g c.w).map f = some (new c s) ∧ (∀ g, (t.seqAt g).map Seq.regs = (s.seqAt g).map Seq.regs)
    ∧ ∀ g w, (t.waveAt g w).map (fun v => (v.v, v.w, v.p, v.lpriv)) = (s.waveAt g w).map fun v => (v.v, v.w, v.p, v.lpriv)

/-- A refused value of rook.Qn.ctl (13 R314). -/
def rookBad (c : ICtx) (q : Queue) (x : DWord) : Prop :=
  let mask := x.toNat / 2 ^ 32
  mask = 0 ∨ (c.gr.va.waves < 32 ∧ mask / 2 ^ c.gr.va.waves ≠ 0) ∨ q.base.toNat % 128 ≠ 0
    ∨ (q.step.extractLsb' 0 32).toNat % 128 ≠ 0 ∨ (q.step.extractLsb' 32 32).toNat % 128 ≠ 0
    ∨ x.toNat / 2 ^ 12 % 2 ^ 12 = 0 ∨ x.toNat % 2 ^ 12 = 0 ∨ x.toNat / 2 ^ 24 % 2 ^ 7 ≠ 0

-- Commit points, tasks and errors --------------------------------------------------------------

/-- The completion flags of an agent's wave, or of a sequencer. -/
def State.flagsOf (s : State) (ag : Agent) : List Nat :=
  match ag with
  | .split g w _ => ((s.waveAt g w).map Wave.flags).getD []
  | .seq g => ((s.seqAt g).map Seq.flags).getD []

/-- No flag of the agent stands, and a wave has no load on its way to a destination (15 R352; 13 R327). -/
def State.agentQuiet (s : State) (ag : Agent) : Prop :=
  (∀ n ∈ s.flagsOf ag, n = 0)
    ∧ ((∃ g w sp, ag = .split g w sp) → ∀ o ∈ s.memops, ¬ (sameWave o.ag ag = true ∧ o.kind.hasDst = true))

/-- Every live agent of a group may go on in the next clk (13 R327). -/
def GoesOn (gr : Group) (clk : Nat) : Prop :=
  (∀ wv ∈ gr.waves, ∀ x ∈ wv.splits, x.live = true → x.blk = .none ∧ x.readyAt = clk + 1 ∧ x.fresh = true)
    ∧ (gr.seq.live = true → gr.seq.blk = .none ∧ gr.seq.readyAt = clk + 1 ∧ gr.seq.fresh = true)

/-- Grid x has a continuation of group index i with checkpoint ck. -/
def State.continues (s : State) (key i : Nat) (p : Cont → Prop) : Prop :=
  ∃ x c, s.gridOf key = some x ∧ c ∈ x.conts ∧ c.index = i ∧ p c

/-- Nothing of the group at place g is left on its core or on its way (13 R329, R331; 16 R362). -/
def State.gone (s : State) (g : Nat) : Prop :=
  s.grp g = none ∧ (∀ o ∈ s.copies, agIsOf g o.ag = false) ∧ (∀ o ∈ s.xops, o.g ≠ g) ∧ (∀ r ∈ s.reqs, agIsOf g r.ag = false)
    ∧ (∀ o ∈ s.memops, agIsOf g o.ag = false) ∧ ∀ r ∈ s.resvs, r.g ≠ g
-- Words, issue and results ------------------------------------------------------------------------

/-- The bytes of a word as the hardware stores them (00 R4; 02 R31). -/
def wordBytes (e : EncWord) : List Byte :=
  match e with
  | .w16 w => leBytes 2 w.toNat
  | .w32 w => leBytes 4 w.toNat
  | .w64 w _ => leBytes 8 w.toNat

/-- The place of a word suits it: a 64-bit word begins a slot, whose cue nibble is the word's (02 R33, R35). -/
def wordSuits (e : EncWord) (ofs : Nat) (cue : BitVec 4) : Prop :=
  match e with
  | .w64 _ k => ofs % 8 = 0 ∧ cue = k
  | _ => True

/-- What a wave's registers read as in every clk from one on, and a sequencer's. -/
def SameWaveReads (s t : State) (g w clk : Nat) : Prop :=
  ∀ n ≥ clk, (∀ r l, t.vLane g w n r l = s.vLane g w n r l) ∧ (∀ r < 16, t.wReg g w n r = s.wReg g w n r)
    ∧ ∀ r < 8, t.pReg g w n r = s.pReg g w n r
def SameSeqReads (s t : State) (g clk : Nat) : Prop := ∀ n ≥ clk, ∀ r < 64, t.gReg g n r = s.gReg g n r

/-- No result on its way that is due after one clk and by another writes what sel names. -/
def NoneBetween (ps : List Pend) (a b : Nat) (sel : PWrite → Bool) : Prop :=
  ∀ p ∈ ps, a < p.due → p.due ≤ b → ∀ x ∈ p.writes, sel x = false

/-- A write of V register r, of W register r, of predicate register r, of G register r. -/
def PWrite.isV (r : Nat) : PWrite → Bool
  | .v n _ _ => n == r
  | _ => false
def PWrite.isW (r : Nat) : PWrite → Bool
  | .w n _ => n == r
  | _ => false
def PWrite.isP (r : Nat) : PWrite → Bool
  | .p n _ _ => n == r
  | _ => false
def PWrite.isG (r : Nat) : PWrite → Bool
  | .g n _ => n == r
  | _ => false

/-- A write of latch k. -/
def PWrite.isLatch (k : Nat) : PWrite → Bool
  | .latch n _ _ _ _ _ => n == k
  | _ => false

/-- A write is the only one of its kind among the writes of a result. -/
def OnlyWrite (ws : List PWrite) (sel : PWrite → Bool) (x : PWrite) : Prop := x ∈ ws ∧ ∀ y ∈ ws, sel y = true → y = x

/-- A sequencer can issue in this clk. -/
def State.seqCan (s : State) (g : Nat) : Prop := ∃ gr, s.grp g = some gr ∧ s.seqReady g gr = true

/-- The place that is k after the last sequencer that a core's port issued (15 R356). -/
def State.seqPlace (s : State) (core k : Nat) : Nat := 64 * core + ((s.core core).seqLast + 1 + k) % 64

end Sys2Proof.Machine
end

