-- ==== Sys2Proof/Certificates/Slice0/Obligations.lean ====
section
/-!
DEFINITION. The statements for the provers.
-/

open Sys2Proof Sys2Proof.Machine

/-- Each point of R199, in its 64-bit, 32-bit and compact words, where its operands are in the window and its latches and queues serve, answers a next state in which the table's result element of the active lanes is on its way: add, subtract, saturating forms, 16-bit halves, products and their upper halves, logic, minima, maxima, differences, population count, leading zeros, bit reversal, and the 64-bit add and subtract; in the uniform stream the same at 64 bits. FixedResultLands says when that result reads. -/
def Obligations.IntegerPointsComputeTheirTable : Prop :=
  ∀ (h : Hdr) (dist : BitVec 2) (d : Dst) (a : Src) (b : Src),
    IntPoint2 (.addI32 h d a b) tInt extI (fun _ x y => x + y) h 8 d a b
    ∧ IntPoint2 (.addI32W32 dist d a b) tInt extI (fun _ x y => x + y) (hdr32 dist) 4 d a b
    ∧ IntPoint2 (.subI32 h d a b) tInt extI (fun _ x y => x - y) h 8 d a b
    ∧ IntPoint2 (.subI32W32 dist d a b) tInt extI (fun _ x y => x - y) (hdr32 dist) 4 d a b
    ∧ IntPoint2 (.addSatI32 h d a b) tInt extI (fun n x y => BitVec.ofInt n (clampI n (x.toInt + y.toInt))) h 8 d a b
    ∧ IntPoint2 (.addSatI32W32 dist d a b) tInt extI (fun n x y => BitVec.ofInt n (clampI n (x.toInt + y.toInt))) (hdr32 dist) 4 d a b
    ∧ IntPoint2 (.subSatI32 h d a b) tInt extI (fun n x y => BitVec.ofInt n (clampI n (x.toInt - y.toInt))) h 8 d a b
    ∧ IntPoint2 (.subSatI32W32 dist d a b) tInt extI (fun n x y => BitVec.ofInt n (clampI n (x.toInt - y.toInt))) (hdr32 dist) 4 d a b
    ∧ IntPoint2 (.addSatN32 h d a b) tInt extN (fun n x y => BitVec.ofNat n (min (x.toNat + y.toNat) (2 ^ n - 1))) h 8 d a b
    ∧ IntPoint2 (.addSatN32W32 dist d a b) tInt extN (fun n x y => BitVec.ofNat n (min (x.toNat + y.toNat) (2 ^ n - 1))) (hdr32 dist) 4 d a b
    ∧ IntPoint2 (.subSatN32 h d a b) tInt extN (fun n x y => BitVec.ofNat n (x.toNat - y.toNat)) h 8 d a b
    ∧ IntPoint2 (.subSatN32W32 dist d a b) tInt extN (fun n x y => BitVec.ofNat n (x.toNat - y.toNat)) (hdr32 dist) 4 d a b
    ∧ LanePoint2 (.addI16 h d a b) tInt extN (fun x y => ((x.extractLsb' 16 16 + y.extractLsb' 16 16) ++ (x.extractLsb' 0 16 + y.extractLsb' 0 16), 0)) h 8 d a b
    ∧ LanePoint2 (.addI16W32 dist d a b) tInt extN (fun x y => ((x.extractLsb' 16 16 + y.extractLsb' 16 16) ++ (x.extractLsb' 0 16 + y.extractLsb' 0 16), 0)) (hdr32 dist) 4 d a b
    ∧ LanePoint2 (.subI16 h d a b) tInt extN (fun x y => ((x.extractLsb' 16 16 - y.extractLsb' 16 16) ++ (x.extractLsb' 0 16 - y.extractLsb' 0 16), 0)) h 8 d a b
    ∧ LanePoint2 (.subI16W32 dist d a b) tInt extN (fun x y => ((x.extractLsb' 16 16 - y.extractLsb' 16 16) ++ (x.extractLsb' 0 16 - y.extractLsb' 0 16), 0)) (hdr32 dist) 4 d a b
    ∧ IntPoint2 (.mulI32 h d a b) tMul extI (fun _ x y => x * y) h 8 d a b
    ∧ IntPoint2 (.mulI32W32 dist d a b) tMul extI (fun _ x y => x * y) (hdr32 dist) 4 d a b
    ∧ IntPoint2 (.mulhiI32 h d a b) tMul extI (fun n x y => (x.signExtend (2 * n) * y.signExtend (2 * n)).extractLsb' n n) h 8 d a b
    ∧ IntPoint2 (.mulhiI32W32 dist d a b) tMul extI (fun n x y => (x.signExtend (2 * n) * y.signExtend (2 * n)).extractLsb' n n) (hdr32 dist) 4 d a b
    ∧ IntPoint2 (.mulhiN32 h d a b) tMul extN (fun n x y => (x.setWidth (2 * n) * y.setWidth (2 * n)).extractLsb' n n) h 8 d a b
    ∧ IntPoint2 (.mulhiN32W32 dist d a b) tMul extN (fun n x y => (x.setWidth (2 * n) * y.setWidth (2 * n)).extractLsb' n n) (hdr32 dist) 4 d a b
    ∧ IntPoint2 (.mulSatI32 h d a b) tMul extI (fun n x y => BitVec.ofInt n (clampI n (x.toInt * y.toInt))) h 8 d a b
    ∧ IntPoint2 (.mulSatI32W32 dist d a b) tMul extI (fun n x y => BitVec.ofInt n (clampI n (x.toInt * y.toInt))) (hdr32 dist) 4 d a b
    ∧ LanePoint2 (.mulI16 h d a b) tMul extN (fun x y => ((x.extractLsb' 16 16 * y.extractLsb' 16 16) ++ (x.extractLsb' 0 16 * y.extractLsb' 0 16), 0)) h 8 d a b
    ∧ LanePoint2 (.mulI16W32 dist d a b) tMul extN (fun x y => ((x.extractLsb' 16 16 * y.extractLsb' 16 16) ++ (x.extractLsb' 0 16 * y.extractLsb' 0 16), 0)) (hdr32 dist) 4 d a b
    ∧ IntPoint2 (.andB32 h d a b) tInt extN (fun _ x y => x &&& y) h 8 d a b
    ∧ IntPoint2 (.andB32W32 dist d a b) tInt extN (fun _ x y => x &&& y) (hdr32 dist) 4 d a b
    ∧ IntPoint2 (.orB32 h d a b) tInt extN (fun _ x y => x ||| y) h 8 d a b
    ∧ IntPoint2 (.orB32W32 dist d a b) tInt extN (fun _ x y => x ||| y) (hdr32 dist) 4 d a b
    ∧ IntPoint2 (.xorB32 h d a b) tInt extN (fun _ x y => x ^^^ y) h 8 d a b
    ∧ IntPoint2 (.xorB32W32 dist d a b) tInt extN (fun _ x y => x ^^^ y) (hdr32 dist) 4 d a b
    ∧ IntPoint2 (.andnB32 h d a b) tInt extN (fun _ x y => x &&& ~~~y) h 8 d a b
    ∧ IntPoint2 (.andnB32W32 dist d a b) tInt extN (fun _ x y => x &&& ~~~y) (hdr32 dist) 4 d a b
    ∧ IntPoint2 (.ornB32 h d a b) tInt extN (fun _ x y => x ||| ~~~y) h 8 d a b
    ∧ IntPoint2 (.ornB32W32 dist d a b) tInt extN (fun _ x y => x ||| ~~~y) (hdr32 dist) 4 d a b
    ∧ IntPoint2 (.xnorB32 h d a b) tInt extN (fun _ x y => ~~~(x ^^^ y)) h 8 d a b
    ∧ IntPoint2 (.xnorB32W32 dist d a b) tInt extN (fun _ x y => ~~~(x ^^^ y)) (hdr32 dist) 4 d a b
    ∧ IntPoint2 (.minI32 h d a b) tInt extI (fun _ x y => if x.toInt ≤ y.toInt then x else y) h 8 d a b
    ∧ IntPoint2 (.minI32W32 dist d a b) tInt extI (fun _ x y => if x.toInt ≤ y.toInt then x else y) (hdr32 dist) 4 d a b
    ∧ IntPoint2 (.maxI32 h d a b) tInt extI (fun _ x y => if x.toInt ≤ y.toInt then y else x) h 8 d a b
    ∧ IntPoint2 (.maxI32W32 dist d a b) tInt extI (fun _ x y => if x.toInt ≤ y.toInt then y else x) (hdr32 dist) 4 d a b
    ∧ IntPoint2 (.minN32 h d a b) tInt extN (fun _ x y => if x.toNat ≤ y.toNat then x else y) h 8 d a b
    ∧ IntPoint2 (.minN32W32 dist d a b) tInt extN (fun _ x y => if x.toNat ≤ y.toNat then x else y) (hdr32 dist) 4 d a b
    ∧ IntPoint2 (.maxN32 h d a b) tInt extN (fun _ x y => if x.toNat ≤ y.toNat then y else x) h 8 d a b
    ∧ IntPoint2 (.maxN32W32 dist d a b) tInt extN (fun _ x y => if x.toNat ≤ y.toNat then y else x) (hdr32 dist) 4 d a b
    ∧ IntPoint2 (.adifI32 h d a b) tInt extI (fun n x y => BitVec.ofInt n (max (x.toInt - y.toInt) (y.toInt - x.toInt))) h 8 d a b
    ∧ IntPoint2 (.adifI32W32 dist d a b) tInt extI (fun n x y => BitVec.ofInt n (max (x.toInt - y.toInt) (y.toInt - x.toInt))) (hdr32 dist) 4 d a b
    ∧ IntPoint2 (.adifN32 h d a b) tInt extN (fun n x y => BitVec.ofNat n (max x.toNat y.toNat - min x.toNat y.toNat)) h 8 d a b
    ∧ IntPoint2 (.adifN32W32 dist d a b) tInt extN (fun n x y => BitVec.ofNat n (max x.toNat y.toNat - min x.toNat y.toNat)) (hdr32 dist) 4 d a b
    ∧ IntPoint1 (.popcB32 h d a) tInt (fun n x => BitVec.ofNat n ((List.range n).filter fun k => x.getLsbD k).length) h 8 d a
    ∧ IntPoint1 (.popcB32W32 dist d a) tInt (fun n x => BitVec.ofNat n ((List.range n).filter fun k => x.getLsbD k).length) (hdr32 dist) 4 d a
    ∧ IntPoint1 (.clzB32 h d a) tInt (fun n x => BitVec.ofNat n ((List.range n).takeWhile fun k => !x.getLsbD (n - 1 - k)).length) h 8 d a
    ∧ IntPoint1 (.clzB32W32 dist d a) tInt (fun n x => BitVec.ofNat n ((List.range n).takeWhile fun k => !x.getLsbD (n - 1 - k)).length) (hdr32 dist) 4 d a
    ∧ IntPoint1 (.brevB32 h d a) tInt (fun _ x => x.reverse) h 8 d a
    ∧ IntPoint1 (.brevB32W32 dist d a) tInt (fun _ x => x.reverse) (hdr32 dist) 4 d a
    ∧ WidePoint2 (.addI64 h d a b) tMul (fun x y => (x + y, 0)) h 8 d a b
    ∧ WidePoint2 (.addI64W32 dist d a b) tMul (fun x y => (x + y, 0)) (hdr32 dist) 4 d a b
    ∧ WidePoint2 (.subI64 h d a b) tMul (fun x y => (x - y, 0)) h 8 d a b
    ∧ WidePoint2 (.subI64W32 dist d a b) tMul (fun x y => (x - y, 0)) (hdr32 dist) 4 d a b
    ∧ IntPoint2 (.addI32C16 d b) tInt extI (fun _ x y => x + y) hdr16 2 d (srcA16 d) b
    ∧ IntPoint2 (.subI32C16 d b) tInt extI (fun _ x y => x - y) hdr16 2 d (srcA16 d) b
    ∧ IntPoint2 (.andB32C16 d b) tInt extN (fun _ x y => x &&& y) hdr16 2 d (srcA16 d) b
    ∧ IntPoint2 (.orB32C16 d b) tInt extN (fun _ x y => x ||| y) hdr16 2 d (srcA16 d) b
    ∧ IntPoint2 (.xorB32C16 d b) tInt extN (fun _ x y => x ^^^ y) hdr16 2 d (srcA16 d) b
    ∧ IntPoint2 (.minI32C16 d b) tInt extI (fun _ x y => if x.toInt ≤ y.toInt then x else y) hdr16 2 d (srcA16 d) b
    ∧ IntPoint2 (.maxI32C16 d b) tInt extI (fun _ x y => if x.toInt ≤ y.toInt then y else x) hdr16 2 d (srcA16 d) b

/-- shl, shr.n, shr.i, rotl and rotr, in every word form and in both streams, shift or rotate by b[7:0]: a shift of the width or more gives 0 or copies of the sign, a rotation is by s modulo the width, and the immediate of shr.i is sign-extended. The bit-field points take pos := b[4:0] and len := min(b[13:8], 32) (b[5:0] and min(b[14:8], 64) in the uniform stream): the unsigned field, the sign-extended field, and c with the field replaced by a; a field of length 0 gives 0. mad.i32, madhi.i32, madhi.n32, mad.sat.i32, dot4.i8, dot4.n8 and dot2.i16 answer the next state with the result of the table of R202, modulo 2^32 (2^64 in the uniform stream) or clamped. -/
def Obligations.ShiftsBitFieldsAndThreeSourcePoints : Prop :=
  ∀ (h : Hdr) (dist : BitVec 2) (d : Dst) (a : Src) (b : Src) (c : Src),
    IntPoint2 (.shlB32 h d a b) tInt extN (fun _ x y => x <<< (y.toNat % 256)) h 8 d a b
    ∧ IntPoint2 (.shlB32W32 dist d a b) tInt extN (fun _ x y => x <<< (y.toNat % 256)) (hdr32 dist) 4 d a b
    ∧ IntPoint2 (.shrN32 h d a b) tInt extN (fun _ x y => x >>> (y.toNat % 256)) h 8 d a b
    ∧ IntPoint2 (.shrN32W32 dist d a b) tInt extN (fun _ x y => x >>> (y.toNat % 256)) (hdr32 dist) 4 d a b
    ∧ IntPoint2 (.shrI32 h d a b) tInt extI (fun _ x y => x.sshiftRight (y.toNat % 256)) h 8 d a b
    ∧ IntPoint2 (.shrI32W32 dist d a b) tInt extI (fun _ x y => x.sshiftRight (y.toNat % 256)) (hdr32 dist) 4 d a b
    ∧ IntPoint2 (.rotlB32 h d a b) tInt extN (fun n x y => (x <<< (y.toNat % n)) ||| (x >>> (n - y.toNat % n))) h 8 d a b
    ∧ IntPoint2 (.rotlB32W32 dist d a b) tInt extN (fun n x y => (x <<< (y.toNat % n)) ||| (x >>> (n - y.toNat % n))) (hdr32 dist) 4 d a b
    ∧ IntPoint2 (.rotrB32 h d a b) tInt extN (fun n x y => (x >>> (y.toNat % n)) ||| (x <<< (n - y.toNat % n))) h 8 d a b
    ∧ IntPoint2 (.rotrB32W32 dist d a b) tInt extN (fun n x y => (x >>> (y.toNat % n)) ||| (x <<< (n - y.toNat % n))) (hdr32 dist) 4 d a b
    ∧ IntPoint2 (.shlB32C16 d b) tInt extN (fun _ x y => x <<< (y.toNat % 256)) hdr16 2 d (srcA16 d) b
    ∧ IntPoint2 (.shrN32C16 d b) tInt extN (fun _ x y => x >>> (y.toNat % 256)) hdr16 2 d (srcA16 d) b
    ∧ IntPoint2 (.bfextN32 h d a b) tInt extN (fun n x y => BitVec.ofNat n (x.toNat / 2 ^ posOf n y % 2 ^ lenOf n y)) h 8 d a b
    ∧ IntPoint2 (.bfextN32W32 dist d a b) tInt extN (fun n x y => BitVec.ofNat n (x.toNat / 2 ^ posOf n y % 2 ^ lenOf n y)) (hdr32 dist) 4 d a b
    ∧ IntPoint2 (.bfextI32 h d a b) tInt extI (fun n x y => BitVec.ofInt n ((x.toInt / 2 ^ posOf n y).bmod (2 ^ lenOf n y))) h 8 d a b
    ∧ IntPoint2 (.bfextI32W32 dist d a b) tInt extI (fun n x y => BitVec.ofInt n ((x.toInt / 2 ^ posOf n y).bmod (2 ^ lenOf n y))) (hdr32 dist) 4 d a b
    ∧ IntPoint3 (.bfinsB32 h d a b c) tInt (fun n x y z => (z &&& ~~~maskOf n y) ||| ((x <<< posOf n y) &&& maskOf n y)) h 8 d a b c
    ∧ IntPoint3 (.bfinsB32W32 dist d a b) tInt (fun n x y z => (z &&& ~~~maskOf n y) ||| ((x <<< posOf n y) &&& maskOf n y)) (hdr32 dist) 4 d a b (srcC32 d)
    ∧ IntPoint3 (.madI32 h d a b c) tMul (fun _ x y z => x * y + z) h 8 d a b c
    ∧ IntPoint3 (.madhiI32 h d a b c) tMul (fun n x y z => (x.signExtend (2 * n) * y.signExtend (2 * n)).extractLsb' n n + z) h 8 d a b c
    ∧ IntPoint3 (.madhiN32 h d a b c) tMul (fun n x y z => (x.setWidth (2 * n) * y.setWidth (2 * n)).extractLsb' n n + z) h 8 d a b c
    ∧ IntPoint3 (.madSatI32 h d a b c) tMul (fun n x y z => BitVec.ofInt n (clampI n (x.toInt * y.toInt + z.toInt))) h 8 d a b c
    ∧ LanePoint3 (.dot4I8 h d a b c) tMul (fun x y z => (z + BitVec.ofInt 32 (dot4 (fun k => (x.extractLsb' (8 * k) 8).toInt * (y.extractLsb' (8 * k) 8).toInt)), 0)) h 8 d a b c
    ∧ LanePoint3 (.dot4N8 h d a b c) tMul (fun x y z => (z + BitVec.ofInt 32 (dot4 (fun k => (x.extractLsb' (8 * k) 8).toNat * (y.extractLsb' (8 * k) 8).toNat)), 0)) h 8 d a b c
    ∧ LanePoint3 (.dot2I16 h d a b c) tMul (fun x y z => (z + BitVec.ofInt 32 ((x.extractLsb' 0 16).toInt * (y.extractLsb' 0 16).toInt + (x.extractLsb' 16 16).toInt * (y.extractLsb' 16 16).toInt), 0)) h 8 d a b c

/-- Each integer comparison and tst gives every active lane of Pd true or false by its condition, never undecided, and in the uniform stream 1 or 0 into G. -/
def Obligations.IntegerComparisonsDecide : Prop :=
  ∀ (h : Hdr) (d : Dst) (a : Src) (b : Src),
    IntCompare (.cmpEqB32 h d a b) (fun _ x y => decide (x = y)) h d a b
    ∧ IntCompare (.cmpNeB32 h d a b) (fun _ x y => decide (x ≠ y)) h d a b
    ∧ IntCompare (.cmpLtI32 h d a b) (fun _ x y => decide (x.toInt < y.toInt)) h d a b
    ∧ IntCompare (.cmpLeI32 h d a b) (fun _ x y => decide (x.toInt ≤ y.toInt)) h d a b
    ∧ IntCompare (.cmpLtN32 h d a b) (fun _ x y => decide (x.toNat < y.toNat)) h d a b
    ∧ IntCompare (.cmpLeN32 h d a b) (fun _ x y => decide (x.toNat ≤ y.toNat)) h d a b
    ∧ IntCompare (.tstB32 h d a b) (fun _ x y => decide (x &&& y ≠ 0)) h d a b

/-- Each comparison of FP32 and of FP64 answers the next state in which the active lanes of Pd get the condition of their two values and fst the flags those lanes raise. For each format, two codes of which one is a NaN compare as undecided under eq, ne, lt, le, gt and ge, as true under un and false under ord, and raise NV when the condition is lt, le, gt or ge or a NaN signals; two numbers never compare as undecided, compare as false under un and true under ord, raise nothing, and -0 equals +0. -/
def Obligations.FloatComparisonsDecideOrNot : Prop :=
  (∀ (h : Hdr) (p : BitVec 3) (a : Src) (b : Src),
    FpCompare32 (.cmpEqF32 h p a b) .eq h p a b
    ∧ FpCompare32 (.cmpNeF32 h p a b) .ne h p a b
    ∧ FpCompare32 (.cmpLtF32 h p a b) .lt h p a b
    ∧ FpCompare32 (.cmpLeF32 h p a b) .le h p a b
    ∧ FpCompare32 (.cmpGtF32 h p a b) .gt h p a b
    ∧ FpCompare32 (.cmpGeF32 h p a b) .ge h p a b
    ∧ FpCompare32 (.cmpUnF32 h p a b) .un h p a b
    ∧ FpCompare32 (.cmpOrdF32 h p a b) .ord h p a b
    ∧ FpCompare64 (.cmpEqF64 h p a b) .eq h p a b
    ∧ FpCompare64 (.cmpNeF64 h p a b) .ne h p a b
    ∧ FpCompare64 (.cmpLtF64 h p a b) .lt h p a b
    ∧ FpCompare64 (.cmpLeF64 h p a b) .le h p a b
    ∧ FpCompare64 (.cmpGtF64 h p a b) .gt h p a b
    ∧ FpCompare64 (.cmpGeF64 h p a b) .ge h p a b
    ∧ FpCompare64 (.cmpUnF64 h p a b) .un h p a b
    ∧ FpCompare64 (.cmpOrdF64 h p a b) .ord h p a b)
    ∧ (∀ (f : Fmt) (x y : Nat) (cc : FCond),
    (((f.decode x).isNan = true ∨ (f.decode y).isNan = true) →
      (fpCmp f cc x y).1 = (match cc with | .un => PCode.t | .ord => PCode.f | _ => PCode.u)
      ∧ (fpCmp f cc x y).2 = (if (f.decode x).isSig = true ∨ (f.decode y).isSig = true ∨ cc = .lt ∨ cc = .le ∨ cc = .gt ∨ cc = .ge
          then flNV else 0))
    ∧ (((f.decode x).isNan = false ∧ (f.decode y).isNan = false) →
      (fpCmp f cc x y).2 = 0
      ∧ (fpCmp f cc x y).1 = PCode.ofBool (match cc with
          | .eq => (f.decode x).cmp (f.decode y) == .eq
          | .ne => (f.decode x).cmp (f.decode y) != .eq
          | .lt => (f.decode x).cmp (f.decode y) == .lt
          | .le => (f.decode x).cmp (f.decode y) != .gt
          | .gt => (f.decode y).cmp (f.decode x) == .lt
          | .ge => (f.decode y).cmp (f.decode x) != .gt
          | .un => false
          | .ord => true)))
    ∧ ∀ e e', Ext.cmp (.fin true 0 e) (.fin false 0 e') = .eq

/-- pand, por and pnot answer the next state in which the active lanes of Pd get the three-valued table of R205 of their lanes of Pa and Pb; P7 reads true in every lane. -/
def Obligations.PredicateLogicIsThreeValued : Prop :=
  (∀ (h : Hdr) (p q r : BitVec 3),
      RunsLane (.pand h p q r) tInt h 8 [] [] (fun c m => Res.pred m p.toNat (PVal.of fun l =>
        match (c.pred q).code l, (c.pred r).code l with
          | .f, _ => .f | .t, y => y | .u, .f => .f | .u, _ => .u) 0 0)
      ∧ RunsLane (.por h p q r) tInt h 8 [] [] (fun c m => Res.pred m p.toNat (PVal.of fun l =>
        match (c.pred q).code l, (c.pred r).code l with
          | .t, _ => .t | .f, y => y | .u, .t => .t | .u, _ => .u) 0 0)
      ∧ RunsLane (.pnot h p q) tInt h 8 [] [] (fun c m => Res.pred m p.toNat (PVal.of fun l =>
        match (c.pred q).code l with
          | .f => .t | .t => .f | .u => .u) 0 0))
    ∧ ∀ (c : ICtx) (l : Nat), l < 32 → (c.pred 7).code l = .t

/-- sel.b32 takes a where Pc is true and b elsewhere; pmov takes bits [1:0] of each active lane and traps at the first active lane that holds 0b11; pfrom takes bits l and 32 + l of Wa and traps at the first active lane where both are 1; pto writes {U, T} of all 32 lanes to Wd where a lane is active. A trap is the illegal-value trap, and nothing else of the instruction happens. -/
def Obligations.PredicateMovesAndSelection : Prop :=
  ∀ (h : Hdr) (p q : BitVec 3) (d : Dst) (a b : Src),
    RunsLane (.selB32 h d a b q) tInt h 8 [(d, .w32)] [(a, .w32), (b, .w32)] (fun c m => res32 m d fun l =>
        if (c.pred q).code l = .t then c.src32 [(a, .w32), (b, .w32)] 0 l else c.src32 [(a, .w32), (b, .w32)] 1 l)
    ∧ RunsLaneIf (.pmov h p a) tInt h 8 [] [(a, .w32)]
        (fun c m => ∀ l, l < 32 → bit m l = true → (c.src32 [(a, .w32)] 0 l).toNat % 4 ≠ 3)
        (fun c m => Res.pred m p.toNat ⟨mkMask fun l => (c.src32 [(a, .w32)] 0 l).toNat % 4 = 1,
          mkMask fun l => (c.src32 [(a, .w32)] 0 l).toNat % 4 = 2⟩ 0 0)
    ∧ (∀ l, l < 32 → TrapsUsing (useFixed tInt [] [(a, .w32)]) (.pmov h p a) h 8
        (fun c _ => Served [] [(a, .w32)] c ∧ bit (c.active h) l = true ∧ (c.src32 [(a, .w32)] 0 l).toNat % 4 = 3
          ∧ ∀ k, k < l → bit (c.active h) k = true → (c.src32 [(a, .w32)] 0 k).toNat % 4 ≠ 3)
        fun _ => .trap cValue none l)
    ∧ RunsLaneIf (.pfrom h p a) tInt h 8 [] []
        (fun c m => ∀ l, l < 32 → bit m l = true → (bit (c.scalar a) l && bit (c.scalar a) (32 + l)) = false)
        (fun c m => Res.pred m p.toNat ⟨mkMask fun l => bit (c.scalar a) l && !bit (c.scalar a) (32 + l),
          mkMask fun l => bit (c.scalar a) (32 + l) && !bit (c.scalar a) l⟩ 0 0)
    ∧ (∀ l, l < 32 → TrapsUsing (useFixed tInt [] []) (.pfrom h p a) h 8
        (fun c _ => bit (c.active h) l = true ∧ (bit (c.scalar a) l && bit (c.scalar a) (32 + l)) = true
          ∧ ∀ k, k < l → bit (c.active h) k = true → (bit (c.scalar a) k && bit (c.scalar a) (32 + k)) = false)
        fun _ => .trap cValue none l)
    ∧ ∀ n, RunsLane (.pto h (.w n) q) tInt h 8 [] [] (fun c m =>
        ⟨if m = 0 then [] else [.w n ((c.pred q).u ++ (c.pred q).t)], [], none, 0, 0⟩)

/-- Each add, sub, mul, fma, fnma, min and max of FP32, FP16, BF16 and FP64, in every word form, answers the next state in which the active lanes get fpAdd, fpSub, fpMul, fpFma or fpMinMax of their operands under the rounding of the word (of each half in the packed formats), and fst the flags they raise. -/
def Obligations.FloatArithmeticRoundsOnce : Prop :=
  ∀ (h : Hdr) (dist : BitVec 2) (rnd : BitVec 2) (d : Dst) (a : Src) (b : Src) (c : Src),
    LanePoint2 (.addF32 h rnd d a b) tFp extF (on32 (fpAdd fp32 rnd)) h 8 d a b
    ∧ LanePoint2 (.addF32W32 dist rnd d a b) tFp extF (on32 (fpAdd fp32 rnd)) (hdr32 dist) 4 d a b
    ∧ LanePoint2 (.subF32 h rnd d a b) tFp extF (on32 (fpSub fp32 rnd)) h 8 d a b
    ∧ LanePoint2 (.subF32W32 dist rnd d a b) tFp extF (on32 (fpSub fp32 rnd)) (hdr32 dist) 4 d a b
    ∧ LanePoint2 (.mulF32 h rnd d a b) tFp extF (on32 (fpMul fp32 rnd)) h 8 d a b
    ∧ LanePoint2 (.mulF32W32 dist rnd d a b) tFp extF (on32 (fpMul fp32 rnd)) (hdr32 dist) 4 d a b
    ∧ LanePoint2 (.addF16 h rnd d a b) tFp extN (halves2 (fpAdd fp16 rnd)) h 8 d a b
    ∧ LanePoint2 (.addF16W32 dist rnd d a b) tFp extN (halves2 (fpAdd fp16 rnd)) (hdr32 dist) 4 d a b
    ∧ LanePoint2 (.subF16 h rnd d a b) tFp extN (halves2 (fpSub fp16 rnd)) h 8 d a b
    ∧ LanePoint2 (.subF16W32 dist rnd d a b) tFp extN (halves2 (fpSub fp16 rnd)) (hdr32 dist) 4 d a b
    ∧ LanePoint2 (.addBf16 h rnd d a b) tFp extN (halves2 (fpAdd bf16 rnd)) h 8 d a b
    ∧ LanePoint2 (.addBf16W32 dist rnd d a b) tFp extN (halves2 (fpAdd bf16 rnd)) (hdr32 dist) 4 d a b
    ∧ LanePoint2 (.subBf16 h rnd d a b) tFp extN (halves2 (fpSub bf16 rnd)) h 8 d a b
    ∧ LanePoint2 (.subBf16W32 dist rnd d a b) tFp extN (halves2 (fpSub bf16 rnd)) (hdr32 dist) 4 d a b
    ∧ LanePoint2 (.mulF16 h rnd d a b) tFp extN (halves2 (fpMul fp16 rnd)) h 8 d a b
    ∧ LanePoint2 (.mulF16W32 dist rnd d a b) tFp extN (halves2 (fpMul fp16 rnd)) (hdr32 dist) 4 d a b
    ∧ LanePoint2 (.mulBf16 h rnd d a b) tFp extN (halves2 (fpMul bf16 rnd)) h 8 d a b
    ∧ LanePoint2 (.mulBf16W32 dist rnd d a b) tFp extN (halves2 (fpMul bf16 rnd)) (hdr32 dist) 4 d a b
    ∧ WidePoint2 (.addF64 h rnd d a b) tFp64 (on64 (fpAdd fp64 rnd)) h 8 d a b
    ∧ WidePoint2 (.addF64W32 dist rnd d a b) tFp64 (on64 (fpAdd fp64 rnd)) (hdr32 dist) 4 d a b
    ∧ WidePoint2 (.subF64 h rnd d a b) tFp64 (on64 (fpSub fp64 rnd)) h 8 d a b
    ∧ WidePoint2 (.subF64W32 dist rnd d a b) tFp64 (on64 (fpSub fp64 rnd)) (hdr32 dist) 4 d a b
    ∧ WidePoint2 (.mulF64 h rnd d a b) tFp64 (on64 (fpMul fp64 rnd)) h 8 d a b
    ∧ WidePoint2 (.mulF64W32 dist rnd d a b) tFp64 (on64 (fpMul fp64 rnd)) (hdr32 dist) 4 d a b
    ∧ LanePoint3 (.fmaF32 h rnd d a b c) tFp (on32x3 (fpFma fp32 false rnd)) h 8 d a b c
    ∧ LanePoint3 (.fnmaF32 h rnd d a b c) tFp (on32x3 (fpFma fp32 true rnd)) h 8 d a b c
    ∧ WidePoint3 (.fmaF64 h rnd d a b c) tFp64 (on64x3 (fpFma fp64 false rnd)) h 8 d a b c
    ∧ WidePoint3 (.fnmaF64 h rnd d a b c) tFp64 (on64x3 (fpFma fp64 true rnd)) h 8 d a b c
    ∧ LanePoint3 (.fmaF16 h rnd d a b c) tFp (halves3 (fpFma fp16 false rnd)) h 8 d a b c
    ∧ LanePoint3 (.fnmaF16 h rnd d a b c) tFp (halves3 (fpFma fp16 true rnd)) h 8 d a b c
    ∧ LanePoint3 (.fmaBf16 h rnd d a b c) tFp (halves3 (fpFma bf16 false rnd)) h 8 d a b c
    ∧ LanePoint3 (.fnmaBf16 h rnd d a b c) tFp (halves3 (fpFma bf16 true rnd)) h 8 d a b c
    ∧ LanePoint2 (.addF32C16 d b) tFp extF (on32 (fpAdd fp32 rmN)) hdr16 2 d (srcA16 d) b
    ∧ LanePoint2 (.subF32C16 d b) tFp extF (on32 (fpSub fp32 rmN)) hdr16 2 d (srcA16 d) b
    ∧ LanePoint2 (.mulF32C16 d b) tFp extF (on32 (fpMul fp32 rmN)) hdr16 2 d (srcA16 d) b
    ∧ LanePoint2 (.minF32 h d a b) tFp extN (on32 (fpMinMax fp32 false)) h 8 d a b
    ∧ LanePoint2 (.minF32W32 dist d a b) tFp extN (on32 (fpMinMax fp32 false)) (hdr32 dist) 4 d a b
    ∧ LanePoint2 (.maxF32 h d a b) tFp extN (on32 (fpMinMax fp32 true)) h 8 d a b
    ∧ LanePoint2 (.maxF32W32 dist d a b) tFp extN (on32 (fpMinMax fp32 true)) (hdr32 dist) 4 d a b
    ∧ LanePoint2 (.minF16 h d a b) tFp extN (halves2 (fpMinMax fp16 false)) h 8 d a b
    ∧ LanePoint2 (.minF16W32 dist d a b) tFp extN (halves2 (fpMinMax fp16 false)) (hdr32 dist) 4 d a b
    ∧ LanePoint2 (.maxF16 h d a b) tFp extN (halves2 (fpMinMax fp16 true)) h 8 d a b
    ∧ LanePoint2 (.maxF16W32 dist d a b) tFp extN (halves2 (fpMinMax fp16 true)) (hdr32 dist) 4 d a b
    ∧ LanePoint2 (.minBf16 h d a b) tFp extN (halves2 (fpMinMax bf16 false)) h 8 d a b
    ∧ LanePoint2 (.minBf16W32 dist d a b) tFp extN (halves2 (fpMinMax bf16 false)) (hdr32 dist) 4 d a b
    ∧ LanePoint2 (.maxBf16 h d a b) tFp extN (halves2 (fpMinMax bf16 true)) h 8 d a b
    ∧ LanePoint2 (.maxBf16W32 dist d a b) tFp extN (halves2 (fpMinMax bf16 true)) (hdr32 dist) 4 d a b
    ∧ WidePoint2 (.minF64 h d a b) tFp64 (on64 (fpMinMax fp64 false)) h 8 d a b
    ∧ WidePoint2 (.minF64W32 dist d a b) tFp64 (on64 (fpMinMax fp64 false)) (hdr32 dist) 4 d a b
    ∧ WidePoint2 (.maxF64 h d a b) tFp64 (on64 (fpMinMax fp64 true)) h 8 d a b
    ∧ WidePoint2 (.maxF64W32 dist d a b) tFp64 (on64 (fpMinMax fp64 true)) (hdr32 dist) 4 d a b
    ∧ LanePoint2 (.minF32C16 d b) tFp extN (on32 (fpMinMax fp32 false)) hdr16 2 d (srcA16 d) b
    ∧ LanePoint2 (.maxF32C16 d b) tFp extN (on32 (fpMinMax fp32 true)) hdr16 2 d (srcA16 d) b

/-- For each of the four formats: two NaNs give the canonical NaN, one NaN gives the other operand, two numbers give the smaller or the larger with -0 below +0, with its exact code; NV is raised exactly when an operand is a signalling NaN. -/
def Obligations.MinMaxTable : Prop :=
  ∀ (f : Fmt) (isMax : Bool) (x y : Nat),
    (fpMinMax f isMax x y).2 = (if (f.decode x).isSig = true ∨ (f.decode y).isSig = true then flNV else 0)
    ∧ (fpMinMax f isMax x y).1 =
      (if (f.decode x).isNan = true ∧ (f.decode y).isNan = true then f.nanCode
       else if (f.decode x).isNan = true then y
       else if (f.decode y).isNan = true then x
       else
         let less : Bool := (f.decode x).cmp (f.decode y) == .lt
           || ((f.decode x).cmp (f.decode y) == .eq && (f.decode x).neg && !(f.decode y).neg)
         if isMax then (if less then y else x) else (if less then x else y))

/-- Each unary function of R209 answers the next state in which the active lanes get its value and fst its flags; log entry 7 says what bits the functions with a stated error bound have. The rows of the table of R210 in FP32 for rcp, sqrt, rsqrt, exp2, log2, sin and cos, with the flag of each row, and the canonical NaN for every NaN operand. -/
def Obligations.RootsAndElementaryFunctionsRun : Prop :=
  (∀ (h : Hdr) (rnd : BitVec 2) (d : Dst) (a : Src),
    LanePoint1 (.rcpF32 h rnd d a) tElem (onFn 32 (fpRcp fp32 rnd)) h 8 d a
    ∧ LanePoint1 (.rsqrtF32 h d a) tElem (onFn 32 (fpRsqrt fp32 .rsqrt32)) h 8 d a
    ∧ LanePoint1 (.sqrtF32 h rnd d a) tElem (onFn 32 (fpSqrt fp32 rnd)) h 8 d a
    ∧ LanePoint1 (.exp2F32 h d a) tElem (onFn 32 fpExp2) h 8 d a
    ∧ LanePoint1 (.log2F32 h d a) tElem (onFn 32 fpLog2) h 8 d a
    ∧ LanePoint1 (.sinF32 h d a) tElem (onFn 32 fpSin) h 8 d a
    ∧ LanePoint1 (.cosF32 h d a) tElem (onFn 32 fpCos) h 8 d a
    ∧ WidePoint1 (.rcpF64 h rnd d a) tElem64 (onFn 64 (fpRcp fp64 rnd)) h 8 d a
    ∧ WidePoint1 (.rsqrtF64 h d a) tElem64 (onFn 64 (fpRsqrt fp64 .rsqrt64)) h 8 d a
    ∧ WidePoint1 (.sqrtF64 h rnd d a) tElem64 (onFn 64 (fpSqrt fp64 rnd)) h 8 d a)
    ∧ (∀ (x : Nat) (s : Bool) (rm : Rm), fp32.decode x = .nan s →
      fpRcp fp32 rm x = (fp32.nanCode, if s then flNV else 0) ∧ fpSqrt fp32 rm x = (fp32.nanCode, if s then flNV else 0)
      ∧ fpRsqrt fp32 .rsqrt32 x = (fp32.nanCode, if s then flNV else 0) ∧ fpExp2 x = (fp32.nanCode, if s then flNV else 0)
      ∧ fpLog2 x = (fp32.nanCode, if s then flNV else 0) ∧ fpSin x = (fp32.nanCode, if s then flNV else 0)
      ∧ fpCos x = (fp32.nanCode, if s then flNV else 0))
    ∧ (∀ rm : Rm, fpRcp fp32 rm 0 = (0x7f800000, flDZ) ∧ fpRcp fp32 rm 0x80000000 = (0xff800000, flDZ)
      ∧ fpRcp fp32 rm 0x7f800000 = (0, 0) ∧ fpRcp fp32 rm 0xff800000 = (0x80000000, 0)
      ∧ fpSqrt fp32 rm 0x80000000 = (0x80000000, 0) ∧ fpSqrt fp32 rm 0x7f800000 = (0x7f800000, 0))
    ∧ (∀ (x : Nat) (rm : Rm), (fp32.decode x).isNan = false → (fp32.decode x).neg = true → (fp32.decode x).isZero = false →
      fpSqrt fp32 rm x = (fp32.nanCode, flNV) ∧ fpRsqrt fp32 .rsqrt32 x = (fp32.nanCode, flNV) ∧ fpLog2 x = (fp32.nanCode, flNV))
    ∧ fpRsqrt fp32 .rsqrt32 0 = (0x7f800000, flDZ) ∧ fpRsqrt fp32 .rsqrt32 0x80000000 = (0xff800000, flDZ)
    ∧ fpRsqrt fp32 .rsqrt32 0x7f800000 = (0, 0)
    ∧ fpExp2 0xff800000 = (0, 0) ∧ fpExp2 0x7f800000 = (0x7f800000, 0)
    ∧ fpLog2 0 = (0xff800000, flDZ) ∧ fpLog2 0x80000000 = (0xff800000, flDZ) ∧ fpLog2 0x7f800000 = (0x7f800000, 0)
    ∧ fpSin 0x7f800000 = (fp32.nanCode, flNV) ∧ fpSin 0xff800000 = (fp32.nanCode, flNV)
    ∧ fpCos 0x7f800000 = (fp32.nanCode, flNV) ∧ fpCos 0xff800000 = (fp32.nanCode, flNV)
    ∧ fpSin 0 = (0, 0) ∧ fpSin 0x80000000 = (0x80000000, 0) ∧ fpCos 0 = (0x3f800000, 0) ∧ fpCos 0x80000000 = (0x3f800000, 0)
    ∧ fpLog2 0x3f800000 = (0, 0)

/-- Each conversion of R211 answers the next state in which the active lanes get its value under the rounding of the word and fst its flags: one rounding between formats, the integer range of 04 R92 with the nearest end or 0 and NV outside, and the clamps of cvt.sat, which raise nothing. -/
def Obligations.ConversionsRun : Prop :=
  ∀ (h : Hdr) (rnd : BitVec 2) (d : Dst) (a : Src) (b : Src) (hi : Bool),
    NarrowPoint (.cvtF32F64 h rnd d a) tFp64 (onFn 32 (fpCvt fp64 fp32 rnd)) h d a
    ∧ WidenPoint (.cvtF64F32 h rnd d a) tFp64 (onFn 64 (fpCvt fp32 fp64 rnd)) h d a
    ∧ LanePoint2 (.cvtF16F32 h rnd d a b) tFp extN (pairTo fp16 rnd) h 8 d a b
    ∧ LanePoint1 (.cvtF32F16 h rnd d a hi) tFp (fun x => onFn 32 (fpCvt fp16 fp32 rnd) (if hi then x.extractLsb' 16 16 else x.extractLsb' 0 16)) h 8 d a
    ∧ LanePoint2 (.cvtBf16F32 h rnd d a b) tFp extN (pairTo bf16 rnd) h 8 d a b
    ∧ LanePoint1 (.cvtF32Bf16 h rnd d a hi) tFp (fun x => onFn 32 (fpCvt bf16 fp32 rnd) (if hi then x.extractLsb' 16 16 else x.extractLsb' 0 16)) h 8 d a
    ∧ LanePoint1 (.cvtI32F32 h rnd d a) tFp (toSigned 32 fp32 rnd) h 8 d a
    ∧ LanePoint1 (.cvtF32I32 h rnd d a) tFp (fromSigned 32 fp32 rnd) h 8 d a
    ∧ LanePoint1 (.cvtN32F32 h rnd d a) tFp (toUnsigned 32 fp32 rnd) h 8 d a
    ∧ LanePoint1 (.cvtF32N32 h rnd d a) tFp (fromUnsigned 32 fp32 rnd) h 8 d a
    ∧ WidePoint1 (.cvtI64F64 h rnd d a) tFp64 (toSigned 64 fp64 rnd) h 8 d a
    ∧ WidePoint1 (.cvtF64I64 h rnd d a) tFp64 (fromSigned 64 fp64 rnd) h 8 d a
    ∧ NarrowPoint (.cvtI32F64 h rnd d a) tFp64 (toSigned 32 fp64 rnd) h d a
    ∧ WidenPoint (.cvtF64I32 h rnd d a) tFp64 (fromSigned 64 fp64 rnd) h d a
    ∧ LanePoint1 (.cvtSatI8I32 h rnd d a) tMul (fun x => noFl ((satI 8 x.toInt).signExtend 32)) h 8 d a
    ∧ LanePoint1 (.cvtSatI16I32 h rnd d a) tMul (fun x => noFl ((satI 16 x.toInt).signExtend 32)) h 8 d a

/-- Where bits [63:16] of Wf are 0 and the format word is valid, each conversion of R212 answers the next state in which the active lanes get encode or decode of their elements under the format word, with the flags of encode in fst; otherwise it takes the illegal-value trap whatever the lane activity. -/
def Obligations.FreeFormConversions : Prop :=
  ∀ (h : Hdr) (rnd : BitVec 2) (d : Dst) (a f : Src),
    (FreeFormat (.cvtFfF32 h rnd d a f) (fun fw x =>
        (BitVec.ofNat 32 (fw.encode (fp32.decode x.toNat) rnd).1,
          (fw.encode (fp32.decode x.toNat) rnd).2 ||| sigFlag [fp32.decode x.toNat])) h d a f
      ∧ FreeFormat (.cvtF32Ff h rnd d a f) (fun fw x =>
        (BitVec.ofNat 32 (fp32.encode rnd (fw.decode (x.toNat % 2 ^ fw.w))).1, 0)) h d a f
      ∧ FreeFormat (.cvtFfBf16 h rnd d a f) (fun fw x =>
        (BitVec.ofNat 32 ((fw.encode (bf16.decode (x.toNat % 65536)) rnd).1 + 256 * (fw.encode (bf16.decode (x.toNat / 65536)) rnd).1),
          (fw.encode (bf16.decode (x.toNat % 65536)) rnd).2 ||| (fw.encode (bf16.decode (x.toNat / 65536)) rnd).2
            ||| sigFlag [bf16.decode (x.toNat % 65536), bf16.decode (x.toNat / 65536)])) h d a f
      ∧ FreeFormat (.cvtBf16Ff h rnd d a f) (fun fw x =>
        (BitVec.ofNat 32 ((bf16.encode rnd (fw.decode (x.toNat % 2 ^ fw.w))).1
          + 65536 * (bf16.encode rnd (fw.decode (x.toNat / 256 % 2 ^ fw.w))).1), 0)) h d a f)
    ∧ ∀ i, (i = .cvtFfF32 h rnd d a f ∨ i = .cvtF32Ff h rnd d a f ∨ i = .cvtFfBf16 h rnd d a f ∨ i = .cvtBf16Ff h rnd d a f) →
      TrapsUsing (useFixed tFf [(d, .w32)] [(a, .w32)]) i h 8 (fun c _ => Served [(d, .w32)] [(a, .w32)] c
          ∧ ¬((c.scalar f).toNat < 65536 ∧ FmtW.valid ((c.scalar f).setWidth 16) = true)) fun _ => tr cValue

/-- For an MX type of 0 to 5 in Wt, pack.mx gives each active lane the scale of the block of the active lanes in bits [15:8] and its own code in bits [7:0], and unpack.mx the FP32 value of a scale and a code under its rounding, with their flags; a greater value of Wt takes the illegal-value trap whatever the lane activity. -/
def Obligations.MxBlocksPackAndUnpack : Prop :=
  ∀ (h : Hdr) (rnd : BitVec 2) (d : Dst) (a f : Src),
    RunsLaneIf (.packMx h d a f) tFf h 8 [(d, .w32)] [(a, .w32)] (fun c _ => (c.scalar f).toNat < 6)
      (fun c m =>
        let blk := mxBlock (c.scalar f).toNat ((maskLanes m).map fun l => fp32.decode (c.src32 [(a, .w32)] 0 l).toNat)
        let mine := fun l => ((((maskLanes m).zip blk.2).find? fun y => y.1 == l).map fun y => y.2).getD (0, 0)
        res32F m d fun l => (BitVec.ofNat 32 (256 * blk.1 + (mine l).1), (mine l).2))
    ∧ RunsLaneIf (.unpackMx h rnd d a f) tFf h 8 [(d, .w32)] [(a, .w32)] (fun c _ => (c.scalar f).toNat < 6)
      (fun c m => res32F m d fun l =>
        let v := (c.src32 [(a, .w32)] 0 l).toNat
        let r := fp32.encode rnd (mxValue (v / 256 % 256) (v % 2 ^ mxBits (c.scalar f).toNat) (c.scalar f).toNat)
        (BitVec.ofNat 32 r.1, r.2))
    ∧ ∀ i, (i = .packMx h d a f ∨ i = .unpackMx h rnd d a f) →
      TrapsUsing (useFixed tFf [(d, .w32)] [(a, .w32)]) i h 8 (fun c _ => Served [(d, .w32)] [(a, .w32)] c ∧ 6 ≤ (c.scalar f).toNat) fun _ => tr cValue

/-- Each lane exchange gives every active lane the value of a in the lane that its mode names, whether or not that lane is active, and its own value of a where no such lane exists; vperm gives each active lane t the value of the highest active lane whose b names t, and leaves it unchanged where none does; a W destination takes the value of the lowest active lane, or stays as it is where none names that lane. -/
def Obligations.LaneExchangesAndPermutation : Prop :=
  ∀ (h : Hdr) (dist : BitVec 2) (d : Dst) (a b : Src),
    Exchange (.lxchSelB32 h d a b) (fun _ y => some (y.toNat % 32)) h 8 d a b
    ∧ Exchange (.lxchSelB32W32 dist d a b) (fun _ y => some (y.toNat % 32)) (hdr32 dist) 4 d a b
    ∧ Exchange (.lxchLoB32 h d a b) (fun l y => if y.toNat ≤ l then some (l - y.toNat) else none) h 8 d a b
    ∧ Exchange (.lxchLoB32W32 dist d a b) (fun l y => if y.toNat ≤ l then some (l - y.toNat) else none) (hdr32 dist) 4 d a b
    ∧ Exchange (.lxchHiB32 h d a b) (fun l y => if l + y.toNat ≤ 31 then some (l + y.toNat) else none) h 8 d a b
    ∧ Exchange (.lxchHiB32W32 dist d a b) (fun l y => if l + y.toNat ≤ 31 then some (l + y.toNat) else none) (hdr32 dist) 4 d a b
    ∧ Exchange (.lxchFlipB32 h d a b) (fun l y => some (l ^^^ (y.toNat % 32))) h 8 d a b
    ∧ Exchange (.lxchFlipB32W32 dist d a b) (fun l y => some (l ^^^ (y.toNat % 32))) (hdr32 dist) 4 d a b
    ∧ RunsLane (.vpermB32 h d a b) tPerm h 8 [(d, .w32)] [(a, .w32), (b, .w32)] (fun c m =>
        let from_ := fun t => ((List.range 32).filter fun l => bit m l && (c.src32 [(a, .w32), (b, .w32)] 1 l).toNat % 32 == t).getLast?
        let r := res32 (mkMask fun t => bit m t && (from_ t).isSome) d fun t => match from_ t with
          | some l => c.src32 [(a, .w32), (b, .w32)] 0 l
          | none => 0
        match d, lowest m with
        | .w _, some t => if (from_ t).isSome then r else { r with writes := [] }
        | _, _ => r)

/-- lvote.and and lvote.or give every active lane of Pd the pand or por of Pa over the active lanes; lvote.mask writes {U, T} of the active lanes to a W destination and T to every active lane of a V destination; vred gives every active lane the sum modulo 2^32, the signed minimum or maximum, or the FP32 sum of the fixed tree of the active lanes; vscan gives each active lane the sum over the active lanes up to it. -/
def Obligations.VotesReductionsAndScan : Prop :=
  ∀ (h : Hdr) (p q : BitVec 3) (d : Dst) (a : Src),
    Vote (.lvoteAnd h p q) PCode.and .t h p q
    ∧ Vote (.lvoteOr h p q) PCode.or .f h p q
    ∧ (∀ n, RunsLane (.lvoteMask h (.w n) q) tVote h 8 [(.w n, .w32)] [] fun c m =>
        ⟨if m = 0 then [] else [.w n ((((c.pred q).u &&& m) ++ ((c.pred q).t &&& m) : BitVec 64))], [], none, 0, 0⟩)
    ∧ (∀ n, RunsLane (.lvoteMask h (.v n) q) tVote h 8 [(.v n, .w32)] [] fun c m =>
        res32 m (.v n) fun _ => (c.pred q).t &&& m)
    ∧ RunsLane (.vredAddI32 h d a) tVote h 8 [(d, .w32)] [(a, .w32)] (fun c m => res32 m d fun _ =>
        ((maskLanes m).map fun l => c.src32 [(a, .w32)] 0 l).foldl (fun x y => x + y) 0)
    ∧ Reduction (.vredMinI32 h d a) min h d a
    ∧ Reduction (.vredMaxI32 h d a) max h d a
    ∧ RunsLane (.vredAddF32 h d a) tRedF h 8 [(d, .w32)] [(a, .w32)] (fun c m => res32F m d fun _ =>
        let leaf := fun l => if l < 32 ∧ bit m l = true then some ((c.src32 [(a, .w32)] 0 l).toNat, (0 : Fl)) else none
        let r := ([1, 2, 4, 8, 16].foldl treeLevel leaf 0).getD (0, 0)
        (BitVec.ofNat 32 r.1, r.2))
    ∧ RunsLane (.vscanAddI32 h d a) tVote h 8 [(d, .w32)] [(a, .w32)] (fun c m => res32 m d fun l =>
        (((List.range (l + 1)).filter fun j => bit m j).map fun j => c.src32 [(a, .w32)] 0 j).foldl (fun x y => x + y) 0)

/-- Where K is 1 to 32 and the reserved bits of Wc are 0, vfilt answers the next state in which lanes 0 to k - 1 that are active get the scores and indices of the best candidates in rank order, with the sentinels beyond their number, and Wc gets the number of candidates in bits [63:32] where a lane is active; otherwise it takes the illegal-value trap whatever the lane activity. -/
def Obligations.FilterToKSelectsTheBest : Prop :=
  ∀ (h : Hdr) (d : Dst) (a b : Src) (n : Nat),
    RunsLaneIf (.vfilt h d a b (.w n)) tFilt h 8 [(d, .w64)] [(a, .w32), (b, .w32)]
      (fun c _ => 1 ≤ (c.scalar (.w n)).toNat % 64 ∧ (c.scalar (.w n)).toNat % 64 ≤ 32 ∧ c.scalar (.w n) &&& 0xffe0fec0 = 0)
      (fun c m =>
        let wc := c.scalar (.w n)
        let k := wc.toNat % 64
        let cand := ((c.pred (wc.extractLsb' 16 3)).select (wc.extractLsb' 19 2)) &&& m
        let best := (maskLanes cand).foldl (fun o l => rankInsert (bit wc 8) (c.words extN [(a, .w32), (b, .w32)] 0) l o) []
        ⟨dstWrites (m &&& mkMask (· < k)) d
            [mkLanes fun i => match best[i]? with
              | some l => c.src32 [(a, .w32), (b, .w32)] 0 l
              | none => if bit wc 8 then 0x7f800000 else 0xff800000,
             mkLanes fun i => match best[i]? with
              | some l => c.src32 [(a, .w32), (b, .w32)] 1 l
              | none => 0xffffffff] ++
            (if m = 0 then [] else [.w n (BitVec.ofNat 32 best.length ++ wc.setWidth 32)]),
          dstRegs d 2, none, 0, 0⟩)
    ∧ TrapsUsing (useFixed tFilt [(d, .w64)] [(a, .w32), (b, .w32)]) (.vfilt h d a b (.w n)) h 8 (fun c _ => Served [(d, .w64)] [(a, .w32), (b, .w32)] c
        ∧ ¬(1 ≤ (c.scalar (.w n)).toNat % 64 ∧ (c.scalar (.w n)).toNat % 64 ≤ 32 ∧ c.scalar (.w n) &&& 0xffe0fec0 = 0))
      fun _ => tr cValue

/-- mov.b32 in every word form copies its source (an immediate is zero-extended) in both streams; mov.xa, mov.xd and mov.xad name V registers moved by XI as it is at issue, and run where the moved names are in the window; pack.b16 joins the low halves of its sources. -/
def Obligations.RegisterMovesAndIndexedNames : Prop :=
  ∀ (h : Hdr) (dist : BitVec 2) (d : Dst) (a b : Src) (k j : Nat),
    RunsBoth (.movB32 h d b) tInt h 8 d [(b, .w32)] (fun c m => res32 m d fun l => c.src32 [(b, .w32)] 0 l) (fun c => c.gval extN b)
    ∧ RunsBoth (.movB32W32 dist d b) tInt (hdr32 dist) 4 d [(b, .w32)] (fun c m => res32 m d fun l => c.src32 [(b, .w32)] 0 l) (fun c => c.gval extN b)
    ∧ RunsBoth (.movB32C16 d b) tInt hdr16 2 d [(b, .w32)] (fun c m => res32 m d fun l => c.src32 [(b, .w32)] 0 l) (fun c => c.gval extN b)
    ∧ IndexedMove (.movXaB32 h d k) h 8 (fun _ => d) (fun xi => .v (k + xi))
    ∧ IndexedMove (.movXdB32 h k b) h 8 (fun xi => .v (k + xi)) (fun _ => b)
    ∧ IndexedMove (.movXadB32 h k j) h 8 (fun xi => .v (k + xi)) (fun xi => .v (j + xi))
    ∧ IndexedMove (.movXaB32W32 dist d k) (hdr32 dist) 4 (fun _ => d) (fun xi => .v (k + xi))
    ∧ IndexedMove (.movXdB32W32 dist k b) (hdr32 dist) 4 (fun xi => .v (k + xi)) (fun _ => b)
    ∧ IndexedMove (.movXadB32W32 dist k j) (hdr32 dist) 4 (fun xi => .v (k + xi)) (fun xi => .v (j + xi))
    ∧ LanePoint2 (.packB16 h d a b) tInt extN (fun x y => (y.extractLsb' 0 16 ++ x.extractLsb' 0 16, 0)) h 8 d a b
    ∧ LanePoint2 (.packB16W32 dist d a b) tInt extN (fun x y => (y.extractLsb' 0 16 ++ x.extractLsb' 0 16, 0)) (hdr32 dist) 4 d a b

/-- Every arithmetic point, hull, isect, mid, wid, bisect and mkiv of both interval types answers the next state in which the active lanes get the value of its function of their operands and IVST the bits those lanes raise, where IVST lets no active lane trap; with ETRAP an arithmetic point, with ITRAP any of them, takes the interval trap at the first active lane that makes empty from operands that are not, or meets NaI. -/
def Obligations.IntervalPointsRunOrTrap : Prop :=
  ∀ (h : Hdr) (d : Dst) (a b c : Src),
    IvPoint (.addIv32 h d a b) .i32 (tIv .i32) true 2 h d [(d, .iv32)] [(a, .iv32), (b, .iv32)] (fun ws l => ivAdd fp32 (IvTy.read .i32 (ws 0) l) (IvTy.read .i32 (ws 1) l))
    ∧ IvPoint (.subIv32 h d a b) .i32 (tIv .i32) true 2 h d [(d, .iv32)] [(a, .iv32), (b, .iv32)] (fun ws l => ivSub fp32 (IvTy.read .i32 (ws 0) l) (IvTy.read .i32 (ws 1) l))
    ∧ IvPoint (.mulIv32 h d a b) .i32 (tIvMul .i32) true 2 h d [(d, .iv32)] [(a, .iv32), (b, .iv32)] (fun ws l => ivMul fp32 (IvTy.read .i32 (ws 0) l) (IvTy.read .i32 (ws 1) l))
    ∧ IvPoint (.divIv32 h d a b) .i32 (tIvDiv .i32) true 2 h d [(d, .iv32)] [(a, .iv32), (b, .iv32)] (fun ws l => ivDiv fp32 (IvTy.read .i32 (ws 0) l) (IvTy.read .i32 (ws 1) l))
    ∧ IvPoint (.sqrIv32 h d a) .i32 (tIvMul .i32) true 2 h d [(d, .iv32)] [(a, .iv32)] (fun ws l => ivSqr fp32 (IvTy.read .i32 (ws 0) l))
    ∧ IvPoint (.sqrtIv32 h d a) .i32 (tIvDiv .i32) true 2 h d [(d, .iv32)] [(a, .iv32)] (fun ws l => ivSqrt fp32 (IvTy.read .i32 (ws 0) l))
    ∧ IvPoint (.negIv32 h d a) .i32 (tIv .i32) true 2 h d [(d, .iv32)] [(a, .iv32)] (fun ws l => ivNeg fp32 (IvTy.read .i32 (ws 0) l))
    ∧ IvPoint (.fmaIv32 h d a b c) .i32 (tIvMul .i32) true 2 h d [(d, .iv32)] [(a, .iv32), (b, .iv32), (c, .iv32)] (fun ws l => ivFma fp32 (IvTy.read .i32 (ws 0) l) (IvTy.read .i32 (ws 1) l) (IvTy.read .i32 (ws 2) l))
    ∧ IvPoint (.addIv64 h d a b) .i64 (tIv .i64) true 2 h d [(d, .iv64)] [(a, .iv64), (b, .iv64)] (fun ws l => ivAdd fp64 (IvTy.read .i64 (ws 0) l) (IvTy.read .i64 (ws 1) l))
    ∧ IvPoint (.subIv64 h d a b) .i64 (tIv .i64) true 2 h d [(d, .iv64)] [(a, .iv64), (b, .iv64)] (fun ws l => ivSub fp64 (IvTy.read .i64 (ws 0) l) (IvTy.read .i64 (ws 1) l))
    ∧ IvPoint (.mulIv64 h d a b) .i64 (tIvMul .i64) true 2 h d [(d, .iv64)] [(a, .iv64), (b, .iv64)] (fun ws l => ivMul fp64 (IvTy.read .i64 (ws 0) l) (IvTy.read .i64 (ws 1) l))
    ∧ IvPoint (.divIv64 h d a b) .i64 (tIvDiv .i64) true 2 h d [(d, .iv64)] [(a, .iv64), (b, .iv64)] (fun ws l => ivDiv fp64 (IvTy.read .i64 (ws 0) l) (IvTy.read .i64 (ws 1) l))
    ∧ IvPoint (.sqrIv64 h d a) .i64 (tIvMul .i64) true 2 h d [(d, .iv64)] [(a, .iv64)] (fun ws l => ivSqr fp64 (IvTy.read .i64 (ws 0) l))
    ∧ IvPoint (.sqrtIv64 h d a) .i64 (tIvDiv .i64) true 2 h d [(d, .iv64)] [(a, .iv64)] (fun ws l => ivSqrt fp64 (IvTy.read .i64 (ws 0) l))
    ∧ IvPoint (.negIv64 h d a) .i64 (tIv .i64) true 2 h d [(d, .iv64)] [(a, .iv64)] (fun ws l => ivNeg fp64 (IvTy.read .i64 (ws 0) l))
    ∧ IvPoint (.fmaIv64 h d a b c) .i64 (tIvMul .i64) true 2 h d [(d, .iv64)] [(a, .iv64), (b, .iv64), (c, .iv64)] (fun ws l => ivFma fp64 (IvTy.read .i64 (ws 0) l) (IvTy.read .i64 (ws 1) l) (IvTy.read .i64 (ws 2) l))
    ∧ IvPoint (.hullIv32 h d a b) .i32 (tIv .i32) false 2 h d [(d, .iv32)] [(a, .iv32), (b, .iv32)] (fun ws l => ivHull fp32 (IvTy.read .i32 (ws 0) l) (IvTy.read .i32 (ws 1) l))
    ∧ IvPoint (.isectIv32 h d a b) .i32 (tIv .i32) false 2 h d [(d, .iv32)] [(a, .iv32), (b, .iv32)] (fun ws l => ivIsect fp32 (IvTy.read .i32 (ws 0) l) (IvTy.read .i32 (ws 1) l))
    ∧ IvPoint (.midIv32 h d a) .i32 (tIv .i32) false 1 h d [(d, .w32)] [(a, .iv32)] (fun ws l => ivMid fp32 (IvTy.read .i32 (ws 0) l))
    ∧ IvPoint (.widIv32 h d a) .i32 (tIv .i32) false 1 h d [(d, .w32)] [(a, .iv32)] (fun ws l => ivWid fp32 (IvTy.read .i32 (ws 0) l))
    ∧ IvPoint (.bisectIv32 h d a) .i32 (tIv .i32) false 4 h d (bisectDsts .i32 d) [(a, .iv32)] (fun ws l => ivBisect fp32 (IvTy.read .i32 (ws 0) l))
    ∧ IvPoint (.hullIv64 h d a b) .i64 (tIv .i64) false 2 h d [(d, .iv64)] [(a, .iv64), (b, .iv64)] (fun ws l => ivHull fp64 (IvTy.read .i64 (ws 0) l) (IvTy.read .i64 (ws 1) l))
    ∧ IvPoint (.isectIv64 h d a b) .i64 (tIv .i64) false 2 h d [(d, .iv64)] [(a, .iv64), (b, .iv64)] (fun ws l => ivIsect fp64 (IvTy.read .i64 (ws 0) l) (IvTy.read .i64 (ws 1) l))
    ∧ IvPoint (.midIv64 h d a) .i64 (tIv .i64) false 1 h d [(d, .w64)] [(a, .iv64)] (fun ws l => ivMid fp64 (IvTy.read .i64 (ws 0) l))
    ∧ IvPoint (.widIv64 h d a) .i64 (tIv .i64) false 1 h d [(d, .w64)] [(a, .iv64)] (fun ws l => ivWid fp64 (IvTy.read .i64 (ws 0) l))
    ∧ IvPoint (.bisectIv64 h d a) .i64 (tIv .i64) false 4 h d (bisectDsts .i64 d) [(a, .iv64)] (fun ws l => ivBisect fp64 (IvTy.read .i64 (ws 0) l))
    ∧ IvPoint (.mkivIv32 h d a b) .i32 (tIv .i32) false 2 h d [(d, .iv32)] [(a, .w32), (b, .w32)] (fun ws l => ivMake fp32 (w32 (ws 0) l).toNat (w32 (ws 1) l).toNat)
    ∧ IvPoint (.mkivIv64 h d a b) .i64 (tIv .i64) false 2 h d [(d, .iv64)] [(a, .w64), (b, .w64)] (fun ws l => ivMake fp64 (w64 (ws 0) l).toNat (w64 (ws 1) l).toNat)

/-- Each interval comparison gives every active lane of Pd true, false or undecided by the table of R230; an empty operand with no NaI gives false, a NaI operand undecided with NAI set (or the interval trap under ITRAP), and every undecided result sets UND. -/
def Obligations.IntervalComparisonsAreThreeValued : Prop :=
  ∀ (h : Hdr) (p : BitVec 3) (a b : Src),
    IvCompare (.cmpLtIv32 h p a b) .i32 (tIv .i32) (fun _ ah bl _ => ah.lt bl) (fun al _ _ bh => bh.le al) h p a b
    ∧ IvCompare (.cmpLtIv64 h p a b) .i64 (tIv .i64) (fun _ ah bl _ => ah.lt bl) (fun al _ _ bh => bh.le al) h p a b
    ∧ IvCompare (.cmpLeIv32 h p a b) .i32 (tIv .i32) (fun _ ah bl _ => ah.le bl) (fun al _ _ bh => bh.lt al) h p a b
    ∧ IvCompare (.cmpLeIv64 h p a b) .i64 (tIv .i64) (fun _ ah bl _ => ah.le bl) (fun al _ _ bh => bh.lt al) h p a b
    ∧ IvCompare (.cmpEqIv32 h p a b) .i32 (tIv .i32) (fun al ah bl bh => al.le ah && ah.le al && ah.le bl && bl.le ah && bl.le bh && bh.le bl) (fun al ah bl bh => ah.lt bl || bh.lt al) h p a b
    ∧ IvCompare (.cmpEqIv64 h p a b) .i64 (tIv .i64) (fun al ah bl bh => al.le ah && ah.le al && ah.le bl && bl.le ah && bl.le bh && bh.le bl) (fun al ah bl bh => ah.lt bl || bh.lt al) h p a b

/-- For each of the four formats and every finite exact value x: the code rounded down decodes to at most x and the code rounded up to at least x, and every code of the format that is no NaN and decodes to at most x decodes to at most the one rounded down, and likewise above: the result contains x and is the smallest that does. -/
def Obligations.OutwardRoundingEnclosesTightly : Prop :=
  ∀ f ∈ [fp16, bf16, fp32, fp64], ∀ (neg : Bool) (m : Nat) (e : Int),
    let x : Ext := .fin neg m e
    let lo := f.decode (f.encode rmD x).1
    let hi := f.decode (f.encode rmU x).1
    lo.isNan = false ∧ hi.isNan = false ∧ lo.le x = true ∧ x.le hi = true
    ∧ (∀ y < 2 ^ f.bits, (f.decode y).isNan = false → (f.decode y).le x = true → (f.decode y).le lo = true)
    ∧ ∀ y < 2 ^ f.bits, (f.decode y).isNan = false → x.le (f.decode y) = true → hi.le (f.decode y) = true

/-- Each of the nine global loads completes at once where no lane is active; where every active lane is aligned, canonical and translates to a page it may read, it answers the state with its lanes in flight from their targets; else it takes the misalignment, non-canonical or translation trap of the lowest such lane, and parks on a page that is not present where no lane traps. -/
def Obligations.GlobalLoadsIssue : Prop :=
  ∀ (h : Hdr) (d : Dst) (a : Src) (hint : Hint),
    LoadPoint (.ldIv32 h d a hint) 8 false .iv32 h d a hint
    ∧ LoadPoint (.ldIv64 h d a hint) 16 false .iv64 h d a hint
    ∧ LoadPoint (.ldN8 h d a hint) 1 false .w32 h d a hint
    ∧ LoadPoint (.ldI8 h d a hint) 1 true .w32 h d a hint
    ∧ LoadPoint (.ldN16 h d a hint) 2 false .w32 h d a hint
    ∧ LoadPoint (.ldI16 h d a hint) 2 true .w32 h d a hint
    ∧ LoadPoint (.ldB32 h d a hint) 4 false .w32 h d a hint
    ∧ LoadPoint (.ldB64 h d a hint) 8 false .w64 h d a hint
    ∧ LoadPoint (.ldB128 h d a hint) 16 false .w128 h d a hint

/-- Each of the seven global stores completes at once where no lane is active; where every active lane is aligned, canonical and translates to a page it may write, it answers the state with its lanes in flight and their data; else it takes the misalignment, non-canonical or translation trap of the lowest such lane. -/
def Obligations.GlobalStoresIssue : Prop :=
  ∀ (h : Hdr) (a b : Src) (hint : Hint),
    StorePoint (.stIv32 h a b hint) 8 .iv32 h a b hint
    ∧ StorePoint (.stIv64 h a b hint) 16 .iv64 h a b hint
    ∧ StorePoint (.stB8 h a b hint) 1 .w32 h a b hint
    ∧ StorePoint (.stB16 h a b hint) 2 .w32 h a b hint
    ∧ StorePoint (.stB32 h a b hint) 4 .w32 h a b hint
    ∧ StorePoint (.stB64 h a b hint) 8 .w64 h a b hint
    ∧ StorePoint (.stB128 h a b hint) 16 .w128 h a b hint

/-- A global store of which every active lane names a page that is not present completes: no wave of the group parks and no byte of memory changes; its core's replay queue has one new entry for each page, in order of first lane, which holds the lanes in that page with their addresses and data, the issuing wave, and the PC. -/
def Obligations.StoresToAbsentPagesReplay : Prop :=
  ∀ (h : Hdr) (a b : Src) (hint : Hint),
    StoreReplays (.stIv32 h a b hint) 8 .iv32 h a b hint
    ∧ StoreReplays (.stIv64 h a b hint) 16 .iv64 h a b hint
    ∧ StoreReplays (.stB8 h a b hint) 1 .w32 h a b hint
    ∧ StoreReplays (.stB16 h a b hint) 2 .w32 h a b hint
    ∧ StoreReplays (.stB32 h a b hint) 4 .w32 h a b hint
    ∧ StoreReplays (.stB64 h a b hint) 8 .w64 h a b hint
    ∧ StoreReplays (.stB128 h a b hint) 16 .w128 h a b hint

/-- Where every active lane's local address lies in the scratchpad, or names the register alias, or its lane-private offset lies in the lane's area, each local load puts the bytes read at issue on their way to its destination and each local store writes its lanes' bytes in lane order; else the scratchpad-range trap (or, beyond the window, the operand-bounds trap) of the lowest lane is taken. -/
def Obligations.LocalAccessesReachTheirBytes : Prop :=
  ∀ (h : Hdr) (d : Dst) (a b : Src),
    LdsPoint (.ldsB32 h d a) 4 .w32 h d a
    ∧ LdsPoint (.ldsB64 h d a) 8 .w64 h d a
    ∧ StsPoint (.stsB32 h a b) 4 .w32 h a b
    ∧ StsPoint (.stsB64 h a b) 8 .w64 h a b
    ∧ LdlPoint (.ldlB32 h d a) 4 .w32 h d a
    ∧ LdlPoint (.ldlB64 h d a) 8 .w64 h d a
    ∧ StlPoint (.stlB32 h a b) 4 .w32 h a b
    ∧ StlPoint (.stlB64 h a b) 8 .w64 h a b

/-- Every atomic, ldr and stc, where it need not wait for a release nor demotes its group: with no active lane its order alone has effect; with all lanes reachable its lanes are in flight in order of lanes; an ared of a versioned group is held for the commit; a wide operation executed again receives its recorded answers; else the trap or park of the lowest lane. -/
def Obligations.AtomicsIssue : Prop :=
  ∀ (h : Hdr) (d : Dst) (a b : Src) (sc : Scope),
    AtomicPoint (.atomAddI32 h d a b sc) (.atom .addI32 true) 4 true .w32 (some d) a b h sc
    ∧ AtomicPoint (.atomMinI32 h d a b sc) (.atom .minI32 true) 4 true .w32 (some d) a b h sc
    ∧ AtomicPoint (.atomMaxI32 h d a b sc) (.atom .maxI32 true) 4 true .w32 (some d) a b h sc
    ∧ AtomicPoint (.atomAndB32 h d a b sc) (.atom .andB32 true) 4 true .w32 (some d) a b h sc
    ∧ AtomicPoint (.atomOrB32 h d a b sc) (.atom .orB32 true) 4 true .w32 (some d) a b h sc
    ∧ AtomicPoint (.atomXorB32 h d a b sc) (.atom .xorB32 true) 4 true .w32 (some d) a b h sc
    ∧ AtomicPoint (.atomExchB32 h d a b sc) (.atom .exchB32 true) 4 true .w32 (some d) a b h sc
    ∧ AtomicPoint (.atomCasB32 h d a b sc) (.atom .casB32 true) 4 true .w64 (some d) a b h sc
    ∧ AtomicPoint (.atomAddF32 h d a b sc) (.atom .addF32 true) 4 true .w32 (some d) a b h sc
    ∧ AtomicPoint (.aredAddI32 h a b sc) (.atom .addI32 false) 4 false .w32 none a b h sc
    ∧ AtomicPoint (.aredAddF32 h a b sc) (.atom .addF32 false) 4 false .w32 none a b h sc
    ∧ AtomicPoint (.aredMinI32 h a b sc) (.atom .minI32 false) 4 false .w32 none a b h sc
    ∧ AtomicPoint (.aredMaxI32 h a b sc) (.atom .maxI32 false) 4 false .w32 none a b h sc
    ∧ AtomicPoint (.aredAndB32 h a b sc) (.atom .andB32 false) 4 false .w32 none a b h sc
    ∧ AtomicPoint (.aredOrB32 h a b sc) (.atom .orB32 false) 4 false .w32 none a b h sc
    ∧ AtomicPoint (.aredXorB32 h a b sc) (.atom .xorB32 false) 4 false .w32 none a b h sc
    ∧ AtomicPoint (.aredAddI64 h a b sc) (.atom .addI64 false) 8 false .w64 none a b h sc
    ∧ AtomicPoint (.ldrB32 h d a sc) .ldr 4 (decide (sc.order.toNat % 2 = 1)) .w32 (some d) a .zero h sc
    ∧ AtomicPoint (.stcB32 h d a b sc) .stc 4 true .w32 (some d) a b h sc

/-- Where lanes of a load that bypasses L1, or of an access whose data is already sampled, may complete, the event answers a state in which each such lane of the destination holds the extended little-endian bytes of its address (the sampled data), every other lane of every V register and every W and P register of the wave is unchanged, no byte of memory changes, and the other lanes stay in flight. Where one lane of any load completes, its V, W or G destination holds what the lane finds: its group's version or memory past L1, else the line that L1 holds or takes in; with no destination no register changes. The first 8 of 16 bytes in system space are read in a step of their own. -/
def Obligations.LoadsDeliverTheirBytes : Prop :=
  (∀ (s : State) (id : Nat) (mask : BitVec 32) (op : MemOp) (g w sp n : Nat) (gr : Group) (wv : Wave),
    s.memops.find? (fun o => o.id == id) = some op → op.ag = .split g w sp → op.dst = some (.v n)
    → op.acq = none → op.wide = false → op.size ≤ 16 → s.grp g = some gr → gr.waves[w]? = some wv → gr.version = []
    → op.lanes.Pairwise (fun x y => x.lane < y.lane) → (∀ x ∈ op.lanes, x.lane < 32)
    → (∃ x ∈ op.lanes, bit mask x.lane = true)
    → (∀ x ∈ op.lanes, bit mask x.lane = true → earlierClash s.memops op x = false)
    → (∀ sext, op.kind = .ld sext 3 → HalvesOk op → (∀ x ∈ op.lanes, ∃ a, x.tgt = .dram a) →
        ∃ t, exec (.loadComplete id mask) s = .next t ∧ SameMemory s t
          ∧ (∀ x ∈ op.lanes, ∀ a, x.tgt = .dram a → bit mask x.lane = true → ∀ k < regsOf op.size,
              t.vHeld g w (n + k) x.lane
                = loadedWord op.size sext (leVal ((List.range op.size).map fun k => s.byteAt (a + k))) k)
          ∧ (∀ r l, l < 32 → (r < n ∨ n + regsOf op.size ≤ r ∨ bit mask l = false ∨ ∀ x ∈ op.lanes, x.lane ≠ l) →
              t.vHeld g w r l = s.vHeld g w r l)
          ∧ (∀ r, t.wHeld g w r = s.wHeld g w r) ∧ (t.waveAt g w).map Wave.p = (s.waveAt g w).map Wave.p
          ∧ ∀ o ∈ t.memops, o.id = id → o.lanes = op.lanes.filter fun x => !bit mask x.lane)
    ∧ (op.kind = .ready 0 → op.size ≤ 8 →
        ∃ t, exec (.loadComplete id mask) s = .next t ∧ SameMemory s t
          ∧ (∀ x ∈ op.lanes, bit mask x.lane = true → ∀ k < regsOf op.size,
              t.vHeld g w (n + k) x.lane = x.data.extractLsb' (32 * k) 32)
          ∧ ∀ r l, l < 32 → (r < n ∨ n + regsOf op.size ≤ r ∨ bit mask l = false ∨ ∀ x ∈ op.lanes, x.lane ≠ l) →
              t.vHeld g w r l = s.vHeld g w r l))
  ∧ ∀ (s : State) (id : Nat) (mask : BitVec 32) (op : MemOp) (x : LaneAcc) (sext : Bool) (cache : Nat),
    s.memops.find? (fun o => o.id == id) = some op → op.kind = .ld sext cache → op.acq = none → op.wide = false
    → op.size ≤ 16 → HalvesOk op → op.lanes.filter (fun y => bit mask y.lane) = [x] → x.lane < 32
    → earlierClash s.memops op x = false
    → (∀ v, s.Finds op cache x v →
        ∃ t, exec (.loadComplete id mask) s = .next t ∧ SameMemory s t
          ∧ (∀ g w sp n, op.ag = .split g w sp → op.dst = some (.v n) → (s.waveAt g w).isSome = true →
              (∀ k < regsOf op.size, t.vHeld g w (n + k) x.lane = loadedWord op.size sext v k)
              ∧ ∀ r l, l < 32 → (r < n ∨ n + regsOf op.size ≤ r ∨ l ≠ x.lane) → t.vHeld g w r l = s.vHeld g w r l)
          ∧ (∀ g w sp n, op.ag = .split g w sp → op.dst = some (.w n) → (s.waveAt g w).isSome = true → n < 16 →
              t.wHeld g w n = (if lowest op.mask = some x.lane then loadedW op.size sext v else s.wHeld g w n)
              ∧ ∀ r < 16, r ≠ n → t.wHeld g w r = s.wHeld g w r)
          ∧ (∀ g n, op.ag = .seq g → op.dst = some (.g n) → (s.seqAt g).isSome = true → n < 64 →
              t.gHeld g n = loadedG op.size sext v ∧ ∀ r < 64, r ≠ n → t.gHeld g r = s.gHeld g r)
          ∧ (op.dst = none → SameRegisters s t)
          ∧ (∀ a, x.tgt = .dram a → ¬ s.GoesPast (agPlace op.ag) cache a x.byp
              → (∀ c k, (s.l1Set c k).ways.length = 8) → (t.l1Line (coreOf (agPlace op.ag)) a).isSome = true)
          ∧ ∀ o ∈ t.memops, o.id = id → o.lanes = op.lanes.filter fun y => !bit mask y.lane)
    ∧ ∀ a, x.tgt = .sys a → op.size = 16 → (∀ p ∈ op.halves, p.1 ≠ x.lane) →
        ∃ t, exec (.loadComplete id mask) s = .next t ∧ SameMemory s t ∧ SameRegisters s t
          ∧ ∀ o ∈ t.memops, o.id = id → o.lanes = op.lanes
              ∧ o.halves = op.halves ++ [(x.lane, BitVec.ofNat 64 (s.sysVal a 8))]

/-- Where a lane of a store may be performed at its home, the event answers a state in which the size bytes at its target hold the low bytes of its data and every other byte of DRAM and of system space reads as before (for a versioned group the version holds them and memory is as before); no register changes; a DRAM write ends every reservation of its granules. 16 bytes of system space are written 8 at a time, lower address first, the lane staying in flight between. A store to an alias page changes no L1. A line of a cwback completes with no byte changed. -/
def Obligations.StoresWriteTheirBytes : Prop :=
  ∀ (s : State) (id lane : Nat) (op : MemOp) (x : LaneAcc),
    s.memops.find? (fun o => o.id == id) = some op
    → op.lanes.find? (fun y => y.lane == lane) = some x
    → (op.kind = .cwback → ∃ t, exec (.storePerformed id lane) s = .next t ∧ SameMemory s t ∧ SameRegisters s t)
    ∧ (op.kind = .st → earlierClash s.memops op x = false →
        ∃ t, exec (.storePerformed id lane) s = .next t ∧ SameRegisters s t
          ∧ (∀ a, x.tgt = .dram a →
              ((∀ gr, s.grp (agPlace op.ag) = some gr → gr.cls = 0) →
                Stored s t a op.size x.data.toNat
                ∧ ∀ r ∈ t.resvs, a + op.size ≤ r.granule * 128 ∨ r.granule * 128 + 127 < a)
              ∧ ((∃ gr, s.grp (agPlace op.ag) = some gr ∧ gr.cls ≠ 0) →
                Versioned s t (agPlace op.ag) a op.size x.data.toNat))
          ∧ (∀ a, x.tgt = .sys a →
              let half := fun (p : Nat × DWord) => p.1 = lane
              let ofs := if op.size = 16 ∧ ∃ p ∈ op.halves, half p then 8 else 0
              let len := if op.size = 16 then 8 else op.size
              (∀ b, t.byteAt b = s.byteAt b)
              ∧ (∀ k < len, t.sysByteAt (a + ofs + k) = BitVec.ofNat 8 (x.data.toNat / 256 ^ (ofs + k)))
              ∧ (∀ b, b < a + ofs ∨ a + ofs + len ≤ b → t.sysByteAt b = s.sysByteAt b)
              ∧ (op.size = 16 → ofs = 0 → ∀ o ∈ t.memops, o.id = id → o.lanes = op.lanes ∧ ∃ p ∈ o.halves, half p))
          ∧ ((∀ a, x.tgt ≠ .sys a) → ∀ o ∈ t.memops, o.id = id → ∀ y ∈ o.lanes, y.lane ≠ lane)
          ∧ ∀ die f pg ty o, x.tgt = .aliasAt die f pg ty o →
              (∀ b, t.sysByteAt b = s.sysByteAt b)
              ∧ (op.acq = none → ∀ c k, t.l1Set c k = s.l1Set c k)
              ∧ ∀ b, (∀ k, o / 64 ≤ k → k ≤ (o + op.size - 1) / 64 →
                  (b < blockData die f ty k ∨ blockData die f ty k + 4 * mxBits ty ≤ b) ∧ b ≠ blockScale die f pg ty k) →
                t.byteAt b = s.byteAt b)

/-- Where the first lane in flight of an atomic may be performed, the event answers a state in which the bytes at its address hold the new value that the table of R273 gives for the old value and the operand, every other byte reads as before, a returning atomic's destination lane holds the old value, and the later lanes stay in flight. In a versioned group that is not at a wide scope the version is written instead; a wide one acts on memory, leaves the version as it is, and its old values are recorded, with its group's context when its last lane is done. -/
def Obligations.AtomicLanesUpdateTheirHome : Prop :=
  ∀ (s : State) (id a : Nat) (op : MemOp) (x : LaneAcc) (left : List LaneAcc) (aop : AtomOp) (ret : Bool),
    s.memops.find? (fun o => o.id == id) = some op → op.lanes = x :: left
    → op.kind = .atom aop ret → x.tgt = .dram a → earlierClash s.memops op x = false →
    let gr := if op.wide = true then none else s.grp (agPlace op.ag)
    let m := leVal ((List.range aop.size).map fun k => s.viewByte gr (a + k))
    let old : BitVec 128 := match op.ag with
      | .seq _ => if aop = .addI32 ∨ aop = .minI32 ∨ aop = .maxI32 then ((BitVec.ofNat 32 m).signExtend 64).setWidth 128
          else BitVec.ofNat 128 m
      | .split _ _ _ => BitVec.ofNat 128 m
    ∃ t v, exec (.atomicPerform id) s = .next t ∧ AtomRule aop m (x.data.setWidth 64) v
      ∧ ((op.wide = true ∨ ∀ y, gr = some y → y.cls = 0 ∧ y.version = []) → Stored s t a aop.size v)
      ∧ (op.wide = false → (∃ y, gr = some y ∧ y.cls ≠ 0) → Versioned s t (agPlace op.ag) a aop.size v)
      ∧ (∀ o ∈ t.memops, o.id = id → o.lanes = left ∧ (op.wide = true → o.got = op.got ++ [(x.lane, old)]))
      ∧ (op.wide = true → (t.grp (agPlace op.ag)).map (fun y => (y.version, y.ckpt.answers))
          = (s.grp (agPlace op.ag)).map fun y => (y.version, y.ckpt.answers ++ (if left = [] then
              [(ansKey op.ag, (op.got ++ [(x.lane, old)]).map fun p => p.2.setWidth 64)] else [])))
      ∧ (∀ g w sp n, op.ag = .split g w sp → op.dst = some (.v n) → ret = true → (s.waveAt g w).isSome = true →
          x.lane < 32 → t.vHeld g w n x.lane = BitVec.ofNat 32 m
            ∧ ∀ r l, l < 32 → (r ≠ n ∨ l ≠ x.lane) → t.vHeld g w r l = s.vHeld g w r l)
      ∧ (∀ g r, op.ag = .seq g → op.dst = some (.g r) → ret = true → (s.seqAt g).isSome = true → r < 64 →
          t.gHeld g r = old.setWidth 64)
      ∧ (op.dst = none ∨ ret = false → SameRegisters s t)

/-- Where a lane of an ldr is performed, its destination lane holds the four bytes at its address and the lane of that split holds a reservation for their granule and no other. Where the first lane in flight of a stc may be performed: if the lane of that split holds a reservation for the granule of its address the event writes the data (to the version of a versioned group, to memory at a wide scope) and gives the destination lane 0; else it writes nothing and gives 1; either way the lane holds no reservation afterwards. -/
def Obligations.StoreConditionalFollowsItsReservation : Prop :=
  (∀ (s : State) (id : Nat) (mask : BitVec 32) (a g w sp n : Nat) (op : MemOp) (x : LaneAcc),
    s.memops.find? (fun o => o.id == id) = some op → op.lanes.filter (fun y => bit mask y.lane) = [x] → op.kind = .ldr
    → op.ag = .split g w sp → op.dst = some (.v n) → x.tgt = .dram a → op.acq = none → op.wide = false → x.lane < 32
    → (s.waveAt g w).isSome = true → earlierClash s.memops op x = false →
    ∃ t, exec (.loadComplete id mask) s = .next t ∧ SameMemory s t
      ∧ t.vHeld g w n x.lane = BitVec.ofNat 32 (leVal ((List.range 4).map fun k => s.viewByte (s.grp g) (a + k)))
      ∧ (∀ r l, l < 32 → (r ≠ n ∨ l ≠ x.lane) → t.vHeld g w r l = s.vHeld g w r l)
      ∧ ⟨g, w, sp, x.lane, a / 128⟩ ∈ t.resvs
      ∧ ∀ r ∈ t.resvs, r.g = g → r.w = w → r.lane = x.lane → r = ⟨g, w, sp, x.lane, a / 128⟩)
  ∧ ∀ (s : State) (id a g w sp n : Nat) (op : MemOp) (x : LaneAcc) (left : List LaneAcc),
    s.memops.find? (fun o => o.id == id) = some op → op.lanes = x :: left → op.kind = .stc
    → op.ag = .split g w sp → op.dst = some (.v n) → x.tgt = .dram a → x.lane < 32
    → (s.waveAt g w).isSome = true → earlierClash s.memops op x = false →
    let intact := s.resvs.any fun r => r.g == g && r.w == w && r.sp == sp && r.lane == x.lane && r.granule == a / 128
    ∃ t, exec (.atomicPerform id) s = .next t
      ∧ (intact = true → t.vHeld g w n x.lane = 0
          ∧ ((op.wide = true ∨ ∃ gr, s.grp g = some gr ∧ gr.cls = 0) → Stored s t a 4 x.data.toNat)
          ∧ (op.wide = false → (∃ gr, s.grp g = some gr ∧ gr.cls ≠ 0) → Versioned s t g a 4 x.data.toNat))
      ∧ (intact = false → t.vHeld g w n x.lane = 1 ∧ SameMemory s t
          ∧ (t.grp g).map Group.version = (s.grp g).map Group.version)
      ∧ (∀ r l, l < 32 → (r ≠ n ∨ l ≠ x.lane) → t.vHeld g w r l = s.vHeld g w r l)
      ∧ ∀ r ∈ t.resvs, ¬ (r.g = g ∧ r.w = w ∧ r.lane = x.lane)

/-- A fence whose release may go on and that does not demote completes: a release goes past the writes that its scope does not wait for, and an acquire drops the core's L1 lines at its scope; one that demotes acts in the state in which its group is demoted, and one that may not go on waits. prefetch completes whatever its addresses, and only puts lines and walks on their way: no register, no byte, no other agent differs. cwback and cinval complete where their lanes are canonical and translate, alignment ignored, a cinval taking the lanes' lines from L1. A walk in flight completes for every line that waits for it; what it changes of memory is the AC bit of the leaf entry that it finds, at that entry's address, and every other byte reads as before. A prefetched line that arrives changes no register and no byte. -/
def Obligations.FencesAndMaintenance : Prop :=
  ∀ (h : Hdr) (sc : Scope) (a : Src) (hint : Hint),
    let srcs : List SrcW := [(a, .w64)]
    let may := fun (c : ICtx) (s : State) => (2 ≤ sc.order.toNat → s.released c sc.scope.toNat = true)
      ∧ (sc.order.toNat < 2 → ∀ op ∈ s.memops, op.holdsRelease c 0 = false)
    Completes (.fence h sc) h 8
      (fun c s => may c s ∧ c.demotes (decide (3 ≤ sc.scope.toNat)) false = false)
      (fun c s =>
        let s := if 2 ≤ sc.order.toNat then s.passWrites c sc.scope.toNat else s
        (if sc.order.toNat % 2 = 1 then s.acquire c.core sc.scope.toNat else s).doneNow c h)
    ∧ Traps (.fence h sc) h 8 (fun c s => ¬ may c s) (fun _ => .hold)
    ∧ DemotesFirst (fun _ q => q) (.fence h sc) h 1
        (fun c s => may c s ∧ c.demotes (decide (3 ≤ sc.scope.toNat)) false = true)
    ∧ (∀ s c, s.icx = some c → Served [] srcs c →
        let u := ((s.begun c h 8).operandsTaken c srcs).doneNow c h
        ∃ ops walks n, exec (.prefetch h a hint) s
            = .next { u with memops := u.memops ++ ops, walks := walks, nextId := n }
          ∧ ∀ o ∈ ops, o.kind = .pref hint.cache.toNat ∧ o.dst = none ∧ o.flag = none)
    ∧ (∀ s id mask op, s.memops.find? (fun o => o.id == id) = some op → (∃ k, op.kind = .pref k)
        → (∃ x ∈ op.lanes, bit mask x.lane = true)
        → (∀ x ∈ op.lanes, bit mask x.lane = true → earlierClash s.memops op x = false) →
        ∃ t, exec (.loadComplete id mask) s = .next t ∧ SameMemory s t ∧ SameRegisters s t)
    ∧ Completes (.cwback h a hint) h 8
        (fun c s => Served [] srcs c ∧ c.acting h ≠ []
          ∧ (s.operandsTaken c srcs).MayAccess c 1 (c.acting h) (c.addr srcs 0)
          ∧ (s.operandsTaken c srcs).Reaches c ((s.operandsTaken c srcs).tunit c.core hint) .none (c.acting h)
              (c.addr srcs 0) fun _ _ => none)
        (fun c s =>
          let o := s.operandsTaken c srcs
          let r := o.translateLanes (o.tunit c.core hint) c.gr.ctx .none ((c.acting h).map fun l => (l, c.addr srcs 0 l))
          r.1.addOp ⟨0, c.ag, c.pc, 1, .cwback, lanesOf (fun _ => 0) r.2, none, hdrFlag h, [], c.active h, none, false, 0, none, false, [], false⟩)
    ∧ Completes (.cinval h a hint) h 8
        (fun c s => Served [] srcs c ∧ c.acting h ≠ []
          ∧ (s.operandsTaken c srcs).MayAccess c 1 (c.acting h) (c.addr srcs 0)
          ∧ (s.operandsTaken c srcs).Reaches c ((s.operandsTaken c srcs).tunit c.core hint) .none (c.acting h)
              (c.addr srcs 0) fun _ _ => none)
        (fun c s =>
          let o := s.operandsTaken c srcs
          let r := o.translateLanes (o.tunit c.core hint) c.gr.ctx .none ((c.acting h).map fun l => (l, c.addr srcs 0 l))
          ((lanesOf (fun _ => 0) r.2).foldl (fun (s : State) x => match x.tgt with
            | .dram p => s.l1Drop c.core p
            | _ => s) r.1).doneNow c h)
    ∧ (∀ i ∈ [Instr.cwback h a hint, Instr.cinval h a hint],
        Completes i h 8 (fun c _ => Served [] srcs c ∧ c.acting h = [])
          fun c s => (s.operandsTaken c srcs).doneNow c h)
    ∧ (∀ s id wk, s.walks.find? (fun w => w.id == id) = some wk →
        exec (.tlbWalkComplete id) s = .next (wk.waiters.foldl (fun (s : State) x => s.walkServe wk x)
          { s with walks := s.walks.filter fun x => x.id != id }))
    ∧ ∀ (s : State) (wk : Walk) (x : Waiter),
        let t := s.walkServe wk x
        SameRegisters s t ∧ (∀ p, t.sysByteAt p = s.sysByteAt p)
          ∧ ∀ p, t.byteAt p = match s.leafOf wk.die wk.ctx (x.va % 2 ^ 48) with
            | .ok (e, _, place) =>
              if p = place ∧ e ||| 0x10 ≠ e then s.byteAt p ||| ((e ||| 0x10).setWidth 8 &&& 0x18) else s.byteAt p
            | .error _ => s.byteAt p

/-- Each of the seven transport points with every check of R122 passed and fewer than four operations outstanding answers the state in which its operation, with the indices of its active slots, is on its way and its wave waits for the lowest of them; else the first failing check decides, and a fifth operation is not issued in this clk. -/
def Obligations.TransportPointsIssue : Prop :=
  ∀ (h : Hdr) (bo cnt : BitVec 4) (k : Nat) (b : Src) (slot : BitVec 5) (mw : Bool),
    TransportPoint (.xgather h bo cnt (.v k) b slot mw) .gather h bo cnt k b slot mw
    ∧ TransportPoint (.xgatherSum h bo cnt (.v k) b slot mw) .sum h bo cnt k b slot mw
    ∧ TransportPoint (.xgatherMax h bo cnt (.v k) b slot mw) .max h bo cnt k b slot mw
    ∧ TransportPoint (.xgatherMean h bo cnt (.v k) b slot mw) .mean h bo cnt k b slot mw
    ∧ TransportPoint (.xscadd h bo cnt (.v k) b slot mw) .scadd h bo cnt k b slot mw
    ∧ TransportPoint (.xscmax h bo cnt (.v k) b slot mw) .scmax h bo cnt k b slot mw
    ∧ TransportPoint (.xscore h bo cnt (.v k) b slot mw) .score h bo cnt k b slot mw

/-- xqload claims the lowest free query slot with the scratchpad values and their norm, and its agent waits until the row engines hold it and then gets the slot number; with none free it gets all ones; with no active lane it claims none (log entry 79). It waits for an earlier acquire, and traps on a handle or a scratchpad range that does not serve. xqfree releases a slot of the group, with no active lane none (log entry 79), and traps on another; xstat, xmask and xwait wait for outstanding operations and then read and clear the status, move the validity mask, or go on. A reload gives a slot the values of its backing; a page of the backing that is not present makes the group wait for its service, and any other fault ends its task. -/
def Obligations.QuerySlotsAndStatus : Prop :=
  ∀ (h : Hdr) (d : Dst) (a : Src) (slot : BitVec 5) (p : BitVec 3) (k : BitVec 4) (n : BitVec 2) (clr : Bool),
    let ofs := fun (c : ICtx) => ((c.scalar a).extractLsb' 0 32).toNat
    let fits := fun (c : ICtx) (hd : Layout) => c.gr.handle slot.toNat = some hd ∧ formAllows .score hd = true
      ∧ ofs c % 4 = 0 ∧ ofs c + 4 * hd.rowElems ≤ c.gr.va.spad
    let owns := fun (c : ICtx) (s : State) => (c.scalar a).toNat < 256
      ∧ ∃ q, SMap.get? (c.scalar a).toNat s.queries = some q ∧ q.isOf c.gr = true
    (∀ hd q sub, Completes (.xqload h d a slot) h 8
      (fun c s => s.acqPending c.ag = false ∧ fits c hd ∧ c.acting h ≠ []
          ∧ q < 256 ∧ SMap.get? q s.queries = none ∧ (∀ j < q, (SMap.get? j s.queries).isSome = true)
          ∧ sub < 4 ∧ (∀ y ∈ s.ownQueries c.gr, y.2.sub ≠ sub) ∧ ∀ j < sub, ∃ y ∈ s.ownQueries c.gr, y.2.sub = j)
      fun c s =>
        let vals := (List.range hd.rowElems).map fun i => BitVec.ofNat 32 (leVal (c.gr.spadBytes (ofs c + 4 * i) 4))
        let x : Query := ⟨gridKey c.gr.ctx c.gr.grid, c.gr.index, hd.rowElems, queryNorm vals, vals, sub, false⟩
        let r : Req := ⟨s.nextId, c.ag, c.pc, .query q d h.nw, hdrFlag h, c.active h, false⟩
        { s.newId with queries := SMap.set q x s.queries, reqs := s.reqs ++ [r] }.block c.ag (.req s.nextId))
    ∧ (∀ hd, Completes (.xqload h d a slot) h 8
      (fun c s => s.acqPending c.ag = false ∧ fits c hd ∧ c.acting h ≠ []
          ∧ ((∀ j < 256, (SMap.get? j s.queries).isSome = true) ∨ ∀ j < 4, ∃ y ∈ s.ownQueries c.gr, y.2.sub = j))
      fun c s => (if h.nw then s else s.setScalar c d (BitVec.allOnes 64)).doneNow c h)
    ∧ (∀ hd, Completes (.xqload h d a slot) h 8 (fun c s => s.acqPending c.ag = false ∧ fits c hd ∧ c.acting h = [])
      fun c s => s.doneNow c h)
    ∧ Traps (.xqload h d a slot) h 8 (fun c s => s.acqPending c.ag = true) (fun _ => .hold)
    ∧ Traps (.xqload h d a slot) h 8 (fun c s => s.acqPending c.ag = false
        ∧ ∀ hd, c.gr.handle slot.toNat = some hd → formAllows .score hd = false) (fun _ => tr cHandle)
    ∧ (∀ hd, Traps (.xqload h d a slot) h 8 (fun c s => s.acqPending c.ag = false ∧ c.gr.handle slot.toNat = some hd
        ∧ formAllows .score hd = true ∧ (ofs c % 4 ≠ 0 ∨ c.gr.va.spad < ofs c + 4 * hd.rowElems)) fun _ => tr cSpad)
    ∧ Completes (.xqfree h a) h 8 (fun c s => owns c s ∧ c.acting h ≠ [])
      (fun c s => { s with queries := SMap.erase (c.scalar a).toNat s.queries }.doneNow c h)
    ∧ Completes (.xqfree h a) h 8 (fun c s => owns c s ∧ c.acting h = []) (fun c s => s.doneNow c h)
    ∧ Traps (.xqfree h a) h 8 (fun c s => ¬ owns c s) (fun _ => tr cQuery)
    ∧ Completes (.xstat h d clr) h 8 (fun c s => s.outCount c.g c.w = 0)
      (fun c s =>
        let s := s.unpin c
        let s := if h.nw || (c.acting h).isEmpty then s else s.setScalar c d (s.xstatWord c.g c.w c.wv)
        (if clr then s.modMe c fun wv => { wv with xstat := wv.xstat &&& ~~~0x80000000 } else s).doneNow c h)
    ∧ Completes (.xmask h p k) h 8 (fun c s => s.outCount c.g c.w = 0)
      (fun c s =>
        let m : PVal := ⟨c.wv.vmask.extractLsb' (32 * k.toNat) 32, 0⟩
        ((s.unpin c).modMe c fun wv => { wv with p := setP wv.p p.toNat (PVal.merge (c.active h) m) }).doneNow c h)
    ∧ Completes (.xwait h n) h 8 (fun c s => s.outCount c.g c.w ≤ n.toNat) (fun c s => (s.unpin c).doneNow c h)
    ∧ (∀ i ∈ [Instr.xstat h d clr, Instr.xmask h p k], Traps i h 8 (fun c s => 0 < s.outCount c.g c.w) fun _ => .await)
    ∧ Traps (.xwait h n) h 8 (fun c s => n.toNat < s.outCount c.g c.w) (fun _ => .await)
    ∧ (∀ s id r q e nw, s.reqs.find? (fun r => r.id == id) = some r → r.kind = .query q e nw →
        ∃ t, exec (.queryLoadComplete id) s = .next t ∧ SameMemory s t
          ∧ SMap.get? q t.queries = (SMap.get? q s.queries).map (fun x => { x with loaded := true })
          ∧ (∀ g w sp j, r.ag = .split g w sp → e = .w j → j < 16 → nw = false → (s.waveAt g w).isSome = true →
              t.wHeld g w j = BitVec.ofNat 64 q)
          ∧ (∀ g j, r.ag = .seq g → e = .g j → j < 64 → nw = false → (s.seqAt g).isSome = true →
              t.gHeld g j = BitVec.ofNat 64 q)
          ∧ (nw = true → SameRegisters s t)
          ∧ ∀ b, t.waitOf r.ag = some b → b = .none)
    ∧ ∀ s q x g gr gd t r, SMap.get? q s.queries = some x → s.groups.find? (fun y => x.isOf y.2) = some (g, gr)
        → s.grp g = some gr → s.grid gr.grid gr.ctx = some gd → x.loaded = false → gr.halting = none → gr.slotWait = none
        → (∀ r ∈ s.reqs, ∀ e nw, r.kind ≠ .query q e nw) →
        let va := backingVa gd.lrec.area gr.kobj.amax gr.slot x.sub
        s.readVa (.transport (s.homeDie gr.ctx va)) gr.ctx none va (4 * x.e) = (t, r) →
        (∀ bs, r = .ok bs → ∃ u, exec (.querySlotReload q) s = .next u
          ∧ SMap.get? q u.queries = some ⟨x.grid, x.index, x.e, x.nq,
              (List.range x.e).map (fun i => BitVec.ofNat 32 (leVal ((bs.drop (4 * i)).take 4))), x.sub, true⟩)
        ∧ (∀ fva, r = .error (cNotPresent, fva) → ∃ u, exec (.querySlotReload q) s = .next u
          ∧ u.queries = s.queries ∧ (u.grp g).map Group.slotWait = some (some fva))
        ∧ ∀ f fva, f ≠ cNotPresent → r = .error (f, fva) →
          exec (.querySlotReload q) s = .next (t.endTask g (gr.report g f 0 0 false (some fva) 0 []))

/-- No slot resolves before the lowest. A first slot that resolves frees its wave and starts the operation; one out of range, or whose page faults, traps or parks; of one on another package the owner is asked for its outcome, which then decides the same. A row of this package gets its outcome, and its bytes, for every slot that names it; a row of a scatter has each of its words updated at its home by the folded contributions of its slots, in a versioned group when its version commits; replies and the timeout give outcomes to the slots that wait for them, a reply to every slot that names its row. A request of a package that is not paired gets shard missing, and of one that is paired its rows. The oldest resolved operation is recorded in XSTAT with its mask, count, cause and first bad slot. A recorded one completes: the slots' rows, the pooled rows or the ranked pairs and counts of its bags stand in its tile, the validity mask behind it where it is asked for, no other byte of scratchpad and none of memory differs, and its barrier object is credited with the bytes of the tile and the mask. -/
def Obligations.TransportOperationsProceed : Prop :=
  (∀ s id o gr t r, s.xop id = some o → s.grp o.g = some gr → o.started = false → o.asked = false
        → s.route gr.ctx o.h o.slots = (t, r) → ∀ x0 rest0, o.slots = x0 :: rest0 →
        (∀ x rest, r = .ok (x :: rest) → x.cause = none → x.pkg = none →
          (∀ u ts, t.resolveRow gr.ctx o.form o.h x.row = (u, .ok ts) →
            ∃ v, exec (.transportFirstSlot id x0.j) s = .next v
              ∧ (∀ b, v.waitOf (.split o.g o.w o.sp) = some b → b = .none) ∧ SameMemory u v
              ∧ ∃ z, v.xop id = some z ∧ z.started = true ∧ z.slots = { x with res := some ts } :: rest)
          ∧ ∀ u cause va, t.resolveRow gr.ctx o.form o.h x.row = (u, .error (cause, va)) →
            exec (.transportFirstSlot id x0.j) s = .next (u.firstFails o x.j cause (some va)))
        ∧ (∀ x rest cause, r = .ok (x :: rest) → x.cause = some cause →
            exec (.transportFirstSlot id x0.j) s = .next (t.firstFails o x.j cause none))
        ∧ (∀ x rest pk, r = .ok (x :: rest) → x.cause = none → x.pkg = some pk →
            ∃ v z req, exec (.transportFirstSlot id x0.j) s = .next v ∧ SameMemory t v ∧ SameRegisters s v
              ∧ v.outbox = t.outbox ++ [.request pk id req] ∧ req.first = true ∧ req.rows = [⟨x.j, o.bagOf x.j, x.row, []⟩]
              ∧ v.xop id = some z ∧ z.asked = true ∧ z.slots = x :: rest)
        ∧ ∀ cause va, r = .error (cause, va) →
            exec (.transportFirstSlot id x0.j) s = .next (t.firstFails o x0.j cause (some va)))
    ∧ (∀ s id o gr x0 rest cause, s.xop id = some o → s.grp o.g = some gr → o.started = false → o.asked = true
        → o.slots = x0 :: rest → x0.cause = some cause →
        (cause = 0 → ∃ v z, exec (.transportFirstSlot id x0.j) s = .next v ∧ SameMemory s v
            ∧ (∀ b, v.waitOf (.split o.g o.w o.sp) = some b → b = .none)
            ∧ v.xop id = some z ∧ z.started = true ∧ z.slots = { x0 with cause := none, bytes := [] } :: rest)
        ∧ (cause ≠ 0 → exec (.transportFirstSlot id x0.j) s = .next (s.firstFails o x0.j cause
            (if cause = cNotPresent then some (o.h.elemAt (o.h.index x0.row 0)).1 else none))))
    ∧ (∀ s id o j x0 rest, s.xop id = some o → o.slots = x0 :: rest → j ≠ x0.j →
        exec (.transportFirstSlot id j) s = .next s)
    ∧ (∀ s id slot o gr x t r, s.xop id = some o → s.grp o.g = some gr → o.started = true
        → o.slots.find? (fun x => x.j == slot) = some x → x.cause = none → x.pkg = none
        → (∀ y ∈ o.slots, y.idx = x.idx → y.res = none)
        → s.resolveRow gr.ctx o.form o.h x.row = (t, r) →
        let gets := fun (u : State) (cause : Nat) (bs : List Byte) => ∀ z ∈ u.xops, z.id = id →
          ∀ y ∈ z.slots, y.idx = x.idx → y.cause = some cause ∧ y.bytes = bs
        let f := gr.contribution o (o.slots.filter fun y => y.idx == x.idx)
        let isMax := o.form == .scmax
        let isInt := o.h.etype == 5
        (∀ cause va, r = .error (cause, va) → (scatters o.form = true → s.scatterWaits o x = false) →
            ∃ u, exec (.rowEngineChunk id slot) s = .next u ∧ SameMemory t u ∧ gets u cause [])
        ∧ (∀ ts, r = .ok ts → scatters o.form = false →
            ∃ u, exec (.rowEngineChunk id slot) s = .next u ∧ SameMemory t u
              ∧ gets u 0 (t.rowRead (some gr) o.h x.row ts))
        ∧ (∀ (ts : List (List (Tgt × Nat))), r = .ok ts → scatters o.form = true → s.scatterWaits o x = false
            → ts.length = o.h.rowElems → gr.cls ≠ 0 →
            ∃ u gr', exec (.rowEngineChunk id slot) s = .next u ∧ SameMemory t u ∧ gets u 0 []
              ∧ u.grp o.g = some gr' ∧ gr'.version = gr.version ∧ (∀ y ∈ gr.buf, y ∈ gr'.buf)
              ∧ ∀ i < o.h.rowElems, (o.id, Contrib.row isMax isInt (ts.getD i []) (f.getD i 0)) ∈ gr'.buf)
        ∧ ∀ (a : Nat → Nat), r = .ok ((List.range o.h.rowElems).map fun i => [(.dram (a i), 4)]) → scatters o.form = true
            → s.scatterWaits o x = false → gr.cls = 0
            → (∀ i j, i < o.h.rowElems → j < o.h.rowElems → i ≠ j → a i + 4 ≤ a j ∨ a j + 4 ≤ a i) →
            ∃ u, exec (.rowEngineChunk id slot) s = .next u ∧ gets u 0 []
              ∧ (∀ i < o.h.rowElems, ∃ v, ScatterRule isMax isInt
                  (BitVec.ofNat 32 (leVal ((List.range 4).map fun k => t.byteAt (a i + k)))) (f.getD i 0) v
                  ∧ ∀ k < 4, u.byteAt (a i + k) = byteOf v.toNat k)
              ∧ (∀ p, (∀ i < o.h.rowElems, p < a i ∨ a i + 4 ≤ p) → u.byteAt p = t.byteAt p)
              ∧ ∀ p, u.sysByteAt p = t.sysByteAt p)
    ∧ (∀ (gr : Group) (o : XOp) (x : XSlot) (ys : List XSlot) (i : Nat), i < o.h.rowElems →
        (gr.contribution o [x]).getD i 0 = gr.sourceWord o x i
        ∧ (ys ≠ [] → (gr.contribution o (ys ++ [x])).getD i 0
            = foldWord o.form (o.h.etype == 5) ((gr.contribution o ys).getD i 0) (gr.sourceWord o x i)))
    ∧ (∀ s id pkg rows o, s.xop id = some o → (o.started = true ∨ o.asked = true) → (∀ r ∈ rows, r.cause ≤ 9) →
        ∃ t z, exec (.transportReply id pkg rows) s = .next t ∧ SameMemory s t ∧ SameRegisters s t
          ∧ t.xop id = some z ∧ z.slots.length = o.slots.length
          ∧ ∀ (n : Nat) x, o.slots[n]? = some x → ∃ y, z.slots[n]? = some y ∧ y.j = x.j ∧ y.idx = x.idx ∧ y.row = x.row
            ∧ ((x.pkg ≠ some pkg ∨ x.cause ≠ none) → y = x)
            ∧ ∀ r, (o.started = true ∨ n = 0) → x.pkg = some pkg → x.cause = none
                → rows.find? (fun r => (o.slots.find? (fun q => q.j == r.slot && q.pkg == some pkg)).map XSlot.row
                    == some x.row) = some r →
                y.cause = some r.cause ∧ y.bytes = r.bytes.take o.h.rowBytes)
    ∧ (∀ s id pkg o, s.xop id = some o → o.started = true → s.timedOut o = true
        → (∃ x ∈ o.slots, x.pkg = some pkg ∧ x.cause = none) →
        ∃ t z, exec (.transportReplyTimeout id pkg) s = .next t ∧ SameMemory s t ∧ SameRegisters s t
          ∧ t.xop id = some z ∧ z.slots = o.slots.map fun x =>
              if x.pkg = some pkg ∧ x.cause = none then { x with cause := some cNoReply } else x)
    ∧ (∀ s req, ∃ t rows, exec (.transportRemoteRequest req) s = .next t ∧ rows.length = req.rows.length
        ∧ t.outbox = s.outbox ++ [.remote req.pkg req.reqId rows]
        ∧ ((s.pairing req.tag).2.contains req.pkg = false → SameMemory (s.pairing req.tag).1 t
            ∧ ∀ r ∈ rows, r.cause = cShard)
        ∧ ∀ a u r, req.rows = [a] → (s.pairing req.tag).2.contains req.pkg = true
            → (s.pairing req.tag).1.resolveRow req.tag req.form (remoteLayout req) a.row = (u, r) →
            (∀ cause va, r = .error (cause, va) → SameMemory u t ∧ rows = [⟨a.slot, a.bag, cause, []⟩])
            ∧ (∀ ts, r = .ok ts → req.first = true → SameMemory u t ∧ rows = [⟨a.slot, a.bag, 0, []⟩])
            ∧ ∀ ts, r = .ok ts → req.first = false → scatters req.form = false →
              SameMemory u t ∧ rows = [⟨a.slot, a.bag, 0, u.rowRead none (remoteLayout req) a.row ts⟩])
    ∧ (∀ s g w o, s.xops.find? (fun o => o.g == g && o.w == w && !o.recorded) = some o → o.resolved = true
        → (s.waveAt g w).isSome = true → o.slots.Pairwise (fun x y => x.j < y.j)
        → (∀ x ∈ o.slots, x.j < 512 ∧ x.cause.getD 0 < 16) →
        ∃ t wv wv', exec (.xstatRecord g w) s = .next t ∧ s.waveAt g w = some wv ∧ t.waveAt g w = some wv'
          ∧ (∀ j < 512, bit wv'.vmask j = o.slots.any fun x => x.j == j && x.valid)
          ∧ wv'.xstat.extractLsb' 32 10 = BitVec.ofNat 10 (o.slots.filter XSlot.valid).length
          ∧ bit wv'.xstat 31 = (bit wv.xstat 31 || o.slots.any fun x => !x.valid)
          ∧ (∀ x, o.slots.find? (fun x => !x.valid) = some x →
              wv'.xstat.extractLsb' 24 4 = BitVec.ofNat 4 (x.cause.getD 0) ∧ wv'.xstat.extractLsb' 0 9 = BitVec.ofNat 9 x.j)
          ∧ ((∀ x ∈ o.slots, x.valid = true) → wv'.xstat.extractLsb' 24 4 = 0 ∧ wv'.xstat.extractLsb' 0 9 = 0))
    ∧ ∀ s id o, s.xop id = some o → o.recorded = true →
        let size := tileSize o.form o.h o.n o.nb o.topk
        let mask := if o.mw then 64 else 0
        let at' := fun (t : State) k => t.spadAt o.g (o.tile + k)
        ∃ t, exec (.transportComplete id) s = .next t ∧ SameMemory s t ∧ (∀ z ∈ t.xops, z.id ≠ id)
          ∧ ∀ gr, s.grp o.g = some gr → o.slots.Pairwise (fun x y => x.j < y.j) → (∀ x ∈ o.slots, x.j < 32 * o.n) →
            (∃ gr', t.grp o.g = some gr'
              ∧ (o.bar < 16 → gr'.bars.getD o.bar none = (gr.bars.getD o.bar none).map fun b => reached b (size + mask) 0)
              ∧ ∀ j < 16, j ≠ o.bar → gr'.bars.getD j none = gr.bars.getD j none)
            ∧ (∀ p, (p < o.tile ∨ o.tile + size + mask ≤ p) → t.spadAt o.g p = s.spadAt o.g p)
            ∧ (o.mw = true → ∀ k < 64, ∀ j < 8, bit (at' t (size + k)) j = o.slots.any fun x => x.j == 8 * k + j && x.valid)
            ∧ (scatters o.form = true → ∀ k < size, at' t k = at' s k)
            ∧ (o.form = .gather →
                (∀ x ∈ o.slots, ∀ k < o.h.pitch, at' t (x.j * o.h.pitch + k) = if x.valid then x.bytes.getD k 0 else 0)
                ∧ ∀ k < size, (∀ x ∈ o.slots, k < x.j * o.h.pitch ∨ x.j * o.h.pitch + o.h.pitch ≤ k) → at' t k = at' s k)
            ∧ ((o.form = .sum ∨ o.form = .max ∨ o.form = .mean) → ∀ b < o.nb, ∀ i < o.h.rowElems, ∀ k < 4,
                at' t (4 * (o.h.rowElems * b + i) + k) = byteOf ((o.pooled b).getD i 0).toNat k)
            ∧ (o.form = .score → ∀ b < o.nb,
                (∀ i < o.topk, ∀ k < 4,
                  let best := (o.ranked b).1.getD i (if o.metric = 1 then 0x7f800000 else 0xff800000, 0xffffffff)
                  at' t (8 * (o.topk * b + i) + k) = byteOf best.1.toNat k
                  ∧ at' t (8 * (o.topk * b + i) + 4 + k) = byteOf best.2 k)
                ∧ ∀ k < 2, at' t (8 * o.topk * o.nb + 2 * b + k) = byteOf (o.ranked b).2 k)

/-- Element i of the row that a pooled operation writes for a bag is, over the valid slots of the bag in slot order: for the sum and the mean, element i of the first row with each later one added, rounded to nearest, the mean then divided once by the count, and +0 for an empty bag; for the maximum, the canonical NaN where an operand is a NaN, else the larger with +0 above -0, from minus infinity on. -/
def Obligations.PooledRowsFollowTheirTable : Prop :=
  ∀ (o : XOp) (b i : Nat), i < o.h.rowElems →
    let rows := (o.bag b).map fun x => (o.h.rowWords x.bytes).getD i 0
    let sum := match rows with
      | [] => (0 : Word)
      | x :: t => t.foldl f32Add x
    (o.form = .sum → (o.pooled b).getD i 0 = sum)
    ∧ (o.form = .mean → (o.pooled b).getD i 0 = if rows = [] then 0
        else f32Div sum (BitVec.ofNat 32 (fpOfInt fp32 rmN rows.length).1))
    ∧ (o.form = .max → (o.pooled b).getD i 0 = rows.foldl (fun m x =>
        if (fp32.decode m.toNat).isNan || (fp32.decode x.toNat).isNan then BitVec.ofNat 32 fp32.nanCode
        else BitVec.ofNat 32 (fpMinMax fp32 true m.toNat x.toNat).1) 0xff800000)

/-- Each copy whose operands pass the checks of R141, with its tag below 15 and room in the queue, waits for its translation; one with no active lane moves its tag and credits its barrier object at once; the first failing check traps. tagwait.any and tagwait.all go on where their condition holds and wait where not, tagffr gives the lowest ready tag of the mask or 64, and tagclr makes the mask's ready tags idle. -/
def Obligations.CopiesIssueAndTagInstructions : Prop :=
  ∀ (h : Hdr) (tag : BitVec 6) (a b : Src) (bo : BitVec 4) (bv : Bool) (ch : BitVec 2) (d : Dst),
    CopyPoint (.acopyIn h tag a b bo bv ch) true h tag a b bo bv
    ∧ CopyPoint (.acopyOut h tag a b bo bv ch) false h tag a b bo bv
    ∧ (let some' := fun (c : ICtx) => ∃ t < 64, bit (c.scalar a) t = true ∧ 0 < c.gr.pendTag.getD t 0
      Ctl (.tagwaitAny h a) h (fun c _ => (c.gr.ctb &&& c.scalar a) ≠ 0 ∨ ¬ some' c) (fun c s => s.unpin c)
      ∧ Ctl (.tagwaitAll h a) h (fun c _ => ¬ some' c) (fun c s => s.unpin c)
      ∧ Traps (.tagwaitAny h a) h 8 (fun c _ => (c.gr.ctb &&& c.scalar a) = 0 ∧ some' c) (fun _ => .await)
      ∧ Traps (.tagwaitAll h a) h 8 (fun c _ => some' c) fun _ => .await)
    ∧ (∀ t, Ctl (.tagffr h d a) h
        (fun c _ => c.acting h ≠ [] ∧ h.nw = false ∧ (∀ k < t, k < 64 → bit (c.gr.ctb &&& c.scalar a) k = false)
          ∧ ((t < 64 ∧ bit (c.gr.ctb &&& c.scalar a) t = true) ∨ t = 64))
        fun c s => s.setScalar c d (BitVec.ofNat 64 t))
    ∧ Ctl (.tagffr h d a) h (fun c _ => c.acting h = [] ∨ h.nw = true) (fun _ s => s)
    ∧ Ctl (.tagclr h a) h (fun c _ => c.acting h = []) (fun _ s => s)
    ∧ (∀ s c, s.icx = some c → c.acting h ≠ [] → ∃ t gr, exec (.tagclr h a) s = .next t ∧ t.grp c.g = some gr
        ∧ gr.pendTag = c.gr.pendTag
        ∧ ∀ k < 64, bit gr.ctb k = (bit c.gr.ctb k && !(bit (c.scalar a) k && c.gr.pendTag.getD k 0 == 0)))
    ∧ ∀ (gr : Group) (t k : Nat), t < 64 → k < 64 →
        ((gr.tagIssued t).pendTag.getD k 0 = if k = t then gr.pendTag.getD t 0 + 1 else gr.pendTag.getD k 0)
        ∧ (bit (gr.tagIssued t).ctb k = (bit gr.ctb k && k != t))
        ∧ ((gr.tagDone t).pendTag.getD k 0 = if k = t then gr.pendTag.getD t 0 - 1 else gr.pendTag.getD k 0)
        ∧ (bit (gr.tagDone t).ctb k = (bit gr.ctb k || (k == t && gr.pendTag.getD t 0 ≤ 1)))

/-- A copy whose pages resolve is queued with its 16-byte units, its tag goes up, its ready bit falls and its issuer goes on; a fault traps before a page not present parks. A complete acopy.in leaves each unit's bytes, as its group sees them, in scratchpad and no other byte changed; a complete acopy.out of an unversioned group leaves the scratchpad bytes at each unit's home in DRAM or system space and no byte of memory changed elsewhere, and one of a versioned group leaves them in its version and memory as it is. Of both, the tag falls and the barrier object, where there is one, is credited with the count. -/
def Obligations.CopiesMoveTheirBytes : Prop :=
  (∀ s id op gr t ps, s.copies.find? (fun o => o.id == id && o.units.isNone) = some op
      → s.grp (agPlace op.ag) = some gr
      → s.xpieces (coreUnit (agPlace op.ag)) gr.ctx (if op.inn then .rd else .wr) (pieces op.va op.count) = (t, ps) →
      let qs := refusePieces (copyCheck op.inn) ps
      let drop := { t with copies := t.copies.filter fun o => o.id != id }
      (decidingFault qs = none → gr.pendTag.getD op.tag 0 < 15
        → (op.inn = true ∨ gr.cls = 0 ∨ ∀ x ∈ unitsOf qs, x.isSys = false) →
        ∃ u gr', exec (.copyTranslated id) s = .next u ∧ u.grp (agPlace op.ag) = some gr'
          ∧ gr'.pendTag = (gr.tagIssued op.tag).pendTag ∧ gr'.ctb = (gr.tagIssued op.tag).ctb
          ∧ (∃ o ∈ u.copies, o.id = id ∧ o.units = some (unitsOf qs)) ∧ ∀ b, u.waitOf op.ag = some b → b = .none)
      ∧ (∀ va, decidingFault qs = some (cNotPresent, va) →
          exec (.copyTranslated id) s = .next (drop.parkAt op.ag op.pc va 0 op.flag))
      ∧ ∀ cause va, cause ≠ cNotPresent → decidingFault qs = some (cause, va) →
          exec (.copyTranslated id) s = .next (drop.trapAt op.ag op.pc cause (some va) 0))
    ∧ ∀ s id op (us : List Tgt) gr, s.copies.find? (fun o => o.id == id) = some op → op.units = some us
        → s.grp (agPlace op.ag) = some gr →
        let g := agPlace op.ag
        let ends := fun (t : State) => (∀ o ∈ t.copies, o.id ≠ id) ∧ ∃ gr', t.grp g = some gr'
          ∧ gr'.pendTag = (gr.tagDone op.tag).pendTag ∧ gr'.ctb = (gr.tagDone op.tag).ctb
          ∧ ∀ j < 16, gr'.bars.getD j none = (gr.bars.getD j none).map fun b =>
              if op.bar = some j then reached b op.count 0 else b
        let lastOn := fun (k : Nat) (x : Tgt) => us[k]? = some x ∧ ∀ (k' : Nat) y, k < k' → us[k']? = some y →
          match x, y with
          | .dram a, .dram b => a + 16 ≤ b ∨ b + 16 ≤ a
          | .sys a, .sys b => a + 16 ≤ b ∨ b + 16 ≤ a
          | _, _ => True
        let plain := ∀ x ∈ us, (∃ a, x = .dram a) ∨ ∃ a, x = .sys a
        (op.inn = true → ∃ t, exec (.copyComplete id) s = .next t ∧ SameMemory s t ∧ ends t
          ∧ (∀ (k : Nat) x, us[k]? = some x → ∀ j < 16,
              t.spadAt g (op.ofs + 16 * k + j) = (s.readTgt (some gr) x 16).getD j 0)
          ∧ ∀ o, o < op.ofs ∨ op.ofs + 16 * us.length ≤ o → t.spadAt g o = s.spadAt g o)
        ∧ (op.inn = false → gr.cls = 0 → plain → ∃ t, exec (.copyComplete id) s = .next t ∧ ends t
          ∧ (∀ (k a : Nat), lastOn k (.dram a) → ∀ j < 16, t.byteAt (a + j) = gr.spadByte (op.ofs + 16 * k + j))
          ∧ (∀ (k a : Nat), lastOn k (.sys a) → ∀ j < 16, t.sysByteAt (a + j) = gr.spadByte (op.ofs + 16 * k + j))
          ∧ (∀ b, (∀ a, Tgt.dram a ∈ us → b < a ∨ a + 16 ≤ b) → t.byteAt b = s.byteAt b)
          ∧ (∀ b, (∀ a, Tgt.sys a ∈ us → b < a ∨ a + 16 ≤ b) → t.sysByteAt b = s.sysByteAt b)
          ∧ ∀ o, t.spadAt g o = s.spadAt g o)
        ∧ (op.inn = false → gr.cls ≠ 0 → (∀ x ∈ us, ∃ a, x = .dram a)
          → s.poolStalls g gr (us.map fun x => (x, 16)) = false →
          ∃ t gr', exec (.copyComplete id) s = .next t ∧ SameMemory s t ∧ ends t ∧ t.grp g = some gr'
          ∧ (∀ (k a : Nat), lastOn k (.dram a) → ∀ j < 16,
              t.viewByte (some gr') (a + j) = gr.spadByte (op.ofs + 16 * k + j))
          ∧ ∀ b, (∀ a, Tgt.dram a ∈ us → b < a ∨ a + 16 ≤ b) → t.viewByte (some gr') b = s.viewByte (some gr) b)

/-- hfetch with its block in range and reached puts the decoded elements of its positions on their way, and fibld the entries of its fibre or its length; a refused handle, a coordinate out of range and a fault stop as R155 and R159 say; hfetch and fibld wait for an earlier acquire; hfetch.pf always completes; rowscan queues a scan, fibinv drops the cached lines that hold bytes of the handle's entries or side array, and its scheduled rows, mdld gives a side-array word; completions write their lanes, and a scan advances. -/
def Obligations.FetchUnitsServeTheirLanes : Prop :=
  ∀ (h : Hdr) (d : Dst) (a b : Src) (slot ht : BitVec 5) (form : BitVec 2) (ind fc : Bool),
    let row := fun (c : ICtx) => (c.scalar a).toNat / 2 ^ 32
    let pos := fun (c : ICtx) => (c.scalar a).toNat % 2 ^ 32
    (∀ hd t codes, Completes (.hfetch h d a slot form) h 8
        (fun c s => Served [(d, .w32)] [] c ∧ fetchRefuses form.toNat (c.gr.handle slot.toNat) = some hd
          ∧ c.acting h ≠ [] ∧ s.acqPending c.ag = false
          ∧ row c < hd.rows ∧ pos c % fetchN form.toNat = 0 ∧ pos c < hd.rowElems
          ∧ s.blockCodes c.g c.gr.ctx hd (row c) (pos c) (fetchN form.toNat) = (t, .ok codes))
        fun c _ => fetched 1 c h d (fetchWord form.toNat hd codes) t)
    ∧ (∀ hd, Completes (.hfetch h d a slot form) h 8
        (fun c _ => Served [(d, .w32)] [] c ∧ fetchRefuses form.toNat (c.gr.handle slot.toNat) = some hd ∧ c.acting h = [])
        fun c s => s.doneNow c h)
    ∧ Traps (.hfetch h d a slot form) h 8
        (fun c _ => Served [(d, .w32)] [] c ∧ fetchRefuses form.toNat (c.gr.handle slot.toNat) = none) (fun _ => tr cHandle)
    ∧ (∀ hd, Traps (.hfetch h d a slot form) h 8
        (fun c s => Served [(d, .w32)] [] c ∧ fetchRefuses form.toNat (c.gr.handle slot.toNat) = some hd ∧ c.acting h ≠ []
          ∧ s.acqPending c.ag = false ∧ (hd.rows ≤ row c ∨ pos c % fetchN form.toNat ≠ 0 ∨ hd.rowElems ≤ pos c)) fun _ => tr cFetch)
    ∧ (∀ hd t e, Traps (.hfetch h d a slot form) h 8
        (fun c s => Served [(d, .w32)] [] c ∧ fetchRefuses form.toNat (c.gr.handle slot.toNat) = some hd ∧ c.acting h ≠ []
          ∧ s.acqPending c.ag = false ∧ row c < hd.rows ∧ pos c % fetchN form.toNat = 0 ∧ pos c < hd.rowElems
          ∧ s.blockCodes c.g c.gr.ctx hd (row c) (pos c) (fetchN form.toNat) = (t, .error e)) fun _ => e)
    ∧ (∀ hd, Completes (.hfetchPf h a slot form) h 8
        (fun c _ => fetchRefuses form.toNat (c.gr.handle slot.toNat) = some hd)
        fun c s =>
          if c.acting h = [] ∨ hd.rows ≤ row c ∨ pos c % fetchN form.toNat ≠ 0 ∨ hd.rowElems ≤ pos c then s.doneNow c h
          else (s.blockCodes c.g c.gr.ctx hd (row c) (pos c) (fetchN form.toNat)).1.doneNow c h)
    ∧ (∀ hd t u lo hi codes, Completes (.fibld h d a slot form) h 8
        (fun c s =>
          let want := (c.acting h).filter fun l => form.toNat != 2 && pos c + l < hi - lo
          Served [(d, .w32)] [] c ∧ fibRefuses form.toNat (c.gr.handle slot.toNat) = some hd
          ∧ ¬ (form.toNat = 2 ∧ pos c ≠ 0) ∧ c.acting h ≠ [] ∧ s.acqPending c.ag = false ∧ hd.rowOut (row c) = false
          ∧ s.rowPtrs c.g c.gr.ctx hd (row c) = (t, .ok (lo, hi)) ∧ ¬ (hi < lo ∧ hd.strict = true)
          ∧ ((if hi < lo then t.rowNeg c.g else t).schedTaken c.g slot.toNat (row c)).fetchElems c.g c.gr.ctx .fennel hd
              (want.map fun l => hd.entry (lo + pos c + l)) = (u, .ok codes))
        fun c _ => fetched 2 c h d (fun l =>
          if form.toNat = 2 then BitVec.ofNat 32 (min (hi - lo) 0xffffffff)
          else match (((c.acting h).filter fun l => form.toNat != 2 && pos c + l < hi - lo).zip codes).find? (fun z => z.1 == l) with
            | some z => fibWord form.toNat hd z.2
            | none => 0) u)
    ∧ (∀ hd t lo hi, Traps (.fibld h d a slot form) h 8
        (fun c s => Served [(d, .w32)] [] c ∧ fibRefuses form.toNat (c.gr.handle slot.toNat) = some hd
          ∧ ¬ (form.toNat = 2 ∧ pos c ≠ 0) ∧ c.acting h ≠ [] ∧ s.acqPending c.ag = false ∧ hd.rowOut (row c) = false
          ∧ s.rowPtrs c.g c.gr.ctx hd (row c) = (t, .ok (lo, hi)) ∧ hi < lo ∧ hd.strict = true) fun _ => tr cSparse)
    ∧ (∀ hd, Traps (.fibld h d a slot form) h 8
        (fun c s => Served [(d, .w32)] [] c ∧ fibRefuses form.toNat (c.gr.handle slot.toNat) = some hd
          ∧ ¬ (form.toNat = 2 ∧ pos c ≠ 0) ∧ c.acting h ≠ [] ∧ s.acqPending c.ag = false ∧ hd.rowOut (row c) = true)
        fun _ => tr cFetch)
    ∧ (∀ hd, Completes (.fibld h d a slot form) h 8
        (fun c _ => Served [(d, .w32)] [] c ∧ fibRefuses form.toNat (c.gr.handle slot.toNat) = some hd
          ∧ ¬ (form.toNat = 2 ∧ pos c ≠ 0) ∧ c.acting h = [])
        fun c s => s.doneNow c h)
    ∧ Traps (.fibld h d a slot form) h 8
        (fun c _ => Served [(d, .w32)] [] c ∧ fibRefuses form.toNat (c.gr.handle slot.toNat) = none) (fun _ => tr cHandle)
    ∧ (∀ hd, Traps (.fibld h d a slot form) h 8
        (fun c _ => Served [(d, .w32)] [] c ∧ fibRefuses form.toNat (c.gr.handle slot.toNat) = some hd
          ∧ form.toNat = 2 ∧ pos c ≠ 0) fun _ => tr cValue)
    ∧ (∀ hd, Traps (.hfetch h d a slot form) h 8
        (fun c s => Served [(d, .w32)] [] c ∧ fetchRefuses form.toNat (c.gr.handle slot.toNat) = some hd ∧ c.acting h ≠ []
          ∧ s.acqPending c.ag = true) fun _ => .hold)
    ∧ (∀ hd, Traps (.fibld h d a slot form) h 8
        (fun c s => Served [(d, .w32)] [] c ∧ fibRefuses form.toNat (c.gr.handle slot.toNat) = some hd
          ∧ ¬ (form.toNat = 2 ∧ pos c ≠ 0) ∧ c.acting h ≠ [] ∧ s.acqPending c.ag = true) fun _ => .hold)
    ∧ (∀ hs, Ctl (.rowscan h ht ind a b slot) h
        (fun c _ => 0 < (c.scalar b).toNat ∧ (c.scalar b).toNat ≤ 65536
          ∧ c.gr.handle slot.toNat = some hs ∧ hs.sideKind = 3
          ∧ (ind = true → (hs.etype = 5 ∨ hs.etype = 6) ∧ ∃ x, c.gr.handle ht.toNat = some x ∧ x.sideKind = 3))
        fun c s => s.modGrp c.g fun gr => { gr with scan := gr.scan ++
          [(slot.toNat, (c.scalar a).toNat, (c.scalar b).toNat, if ind then some ht.toNat else none)] })
    ∧ (∀ hd, Ctl (.fibinv h slot fc) h (fun c _ => c.gr.handle slot.toNat = some hd)
        fun c s =>
          let runs := s.elemRuns c.g c.gr.ctx hd (s.entryIdx c.g c.gr.ctx hd) ++ s.vaRuns c.g c.gr.ctx hd.sideVa hd.sideBytes
          let meets := fun (line : Nat) (x : CLine) => x.ctx == c.gr.ctx && runs.any fun (t : Tgt × Nat) => match t.1 with
            | .dram p => x.addr < p + t.2 && p < x.addr + line
            | _ => false
          let keep := fun (line : Nat) (l : List CLine) => l.filter fun x => !meets line x
          let s := s.modCore c.core fun k => { k with fen := keep 128 k.fen, mdc := if fc then keep 64 k.mdc else k.mdc }
          let s := if fc then s.modCluster (clusterOf c.core) fun k => { k with fc := keep 128 k.fc } else s
          s.modGrp c.g fun gr => { gr with sched := gr.sched.filter fun x => x.1 != slot.toNat,
                                           scan := gr.scan.filter fun x => x.1 != slot.toNat })
    ∧ (∀ hd t bs, Ctl (.mdld h d a slot) h
        (fun c s => c.gr.handle slot.toNat = some hd ∧ (hd.sideKind = 1 ∨ hd.sideKind = 2)
          ∧ s.acqPending c.ag = false ∧ 8 * (c.scalar a).toNat + 8 ≤ hd.sideBytes
          ∧ s.cachedVa c.g c.gr.ctx .metadata ((hd.sideVa + 8 * (c.scalar a).toNat) % 2 ^ 64) 8 = (t, .ok bs))
        fun c _ => if h.nw then t else t.setScalar c d (BitVec.ofNat 64 (leVal bs)))
    ∧ (∀ s id mask op x unit, s.memops.find? (fun o => o.id == id) = some op → op.kind = .ready unit
        → op.dst = none → op.acq = none → op.wide = false → x ∈ op.lanes → bit mask x.lane = true
        → (∀ y ∈ op.lanes, bit mask y.lane = true → earlierClash s.memops op y = false) →
        ((unit = 1 → ∃ t, exec (.hfetchComplete id mask) s = .next t ∧ SameMemory s t ∧ SameRegisters s t)
          ∧ (unit = 2 → ∃ t, exec (.fibldComplete id mask) s = .next t ∧ SameMemory s t ∧ SameRegisters s t)))
    ∧ (∀ s id mask op g w sp n, s.memops.find? (fun o => o.id == id) = some op → op.ag = .split g w sp
        → op.dst = some (.v n) → op.size = 4 → op.acq = none → op.wide = false → (s.waveAt g w).isSome = true
        → op.lanes.Pairwise (fun x y => x.lane < y.lane) → (∀ x ∈ op.lanes, x.lane < 32)
        → (∃ x ∈ op.lanes, bit mask x.lane = true)
        → (∀ y ∈ op.lanes, bit mask y.lane = true → earlierClash s.memops op y = false) →
        ∀ i, (i = Instr.hfetchComplete id mask ∧ op.kind = .ready 1) ∨ (i = Instr.fibldComplete id mask ∧ op.kind = .ready 2) →
          ∃ t, exec i s = .next t ∧ SameMemory s t
            ∧ (∀ x ∈ op.lanes, bit mask x.lane = true → t.vHeld g w n x.lane = x.data.extractLsb' 0 32)
            ∧ ∀ r l, l < 32 → (r ≠ n ∨ bit mask l = false ∨ ∀ x ∈ op.lanes, x.lane ≠ l) →
                t.vHeld g w r l = s.vHeld g w r l)
    ∧ ∀ s g gr x rest, s.grp g = some gr → gr.scan = x :: rest →
        ∃ t gr', exec (.rowscanReadAhead g) s = .next t ∧ SameRegisters s t ∧ t.grp g = some gr'
          ∧ (gr'.scan = rest ∨ gr'.scan = (x.1, x.2.1 + 1, x.2.2.1 - 1, x.2.2.2) :: rest)

/-- A command that passes its checks joins its channel (with ANYCH the live one with the fewest commands, the lowest on a tie) and gives its ticket; a channel's chunk writes the pattern's or the source's bytes and no other, or at a fault none: the command then waits for the page's service, or ends with the fault's cause; a command past its last byte or at a fault leaves the channel, is kept in its history, and credits its barrier object with its length where its group is still there; dma.stat gives the status word of R151. -/
def Obligations.DmaChannelsRunTheirCommands : Prop :=
  ∀ (h : Hdr) (d : Dst) (a b e : Src),
    DmaPoint (.dmaCopy h d a b e) false h d a b e
    ∧ DmaPoint (.dmaFill h d a b e) true h d a b e
    ∧ (let ch := fun (c : ICtx) => (c.scalar a).toNat / 2 ^ 48
      let ok := fun (c : ICtx) (s : State) (n : Nat) => ch c < 32 ∧ (c.scalar a).toNat / 2 ^ 32 % 2 ^ 16 = 0
        ∧ s.pkg.chanLive (ch c) = true ∧ n < (s.chan (ch c)).next ∧ n % 2 ^ 32 = (c.scalar a).toNat % 2 ^ 32
        ∧ (s.chan (ch c)).next ≤ n + 2 ^ 32
      let gives := fun (c : ICtx) (x : DWord) (s : State) => if h.nw then s else s.setScalar c d x
      (∀ n, Ctl (.dmaStat h d a) h (fun c s => ok c s n ∧ 256 < (s.chan (ch c)).next - n)
        fun c s => gives c 0x2000000000000000 s)
      ∧ (∀ n m, Ctl (.dmaStat h d a) h (fun c s => ok c s n ∧ (s.chan (ch c)).next - n ≤ 256
          ∧ (s.chan (ch c)).q.find? (fun m => m.seq == n) = some m)
        fun c s => gives c (BitVec.ofNat 64 (m.bytes % 2 ^ 40)) s)
      ∧ (∀ n cause bytes, Ctl (.dmaStat h d a) h (fun c s => ok c s n ∧ (s.chan (ch c)).next - n ≤ 256
          ∧ (s.chan (ch c)).q.find? (fun m => m.seq == n) = none
          ∧ (s.chan (ch c)).hist.find? (fun z => z.1 == n) = some (n, cause, bytes))
        fun c s => gives c (BitVec.ofNat 64 (2 ^ 63 + (if cause ≠ 0 then 2 ^ 62 + cause * 2 ^ 56 else 0) + bytes % 2 ^ 40)) s)
      ∧ Traps (.dmaStat h d a) h 8 (fun c s => 32 ≤ ch c ∨ (c.scalar a).toNat / 2 ^ 32 % 2 ^ 16 ≠ 0
          ∨ s.pkg.chanLive (ch c) = false ∨ (s.chan (ch c)).next ≤ (c.scalar a).toNat % 2 ^ 32) fun _ => tr cValue)
    ∧ (∀ s ch m rest t ps u p byp n src, (s.chan ch).q = m :: rest → m.cause = 0 → m.waiting = none → m.bytes < m.len
        → n = min (m.len - m.bytes) (4096 - (m.dst + m.bytes) % 4096)
        → (if m.fill then (s, []) else s.xpieces (.engine s.pkg.firstDie) m.ctx .rd
            (pieces (m.src.toNat + m.bytes) n)) = (t, ps)
        → decidingFault (refusePieces (fun _ => none) ps) = none
        → t.xpieces (.engine s.pkg.firstDie) m.ctx .wr (pieces (m.dst + m.bytes) n)
            = (u, [(m.dst + m.bytes, n, .ok ⟨.dram p, byp⟩)])
        → s.grp 1048576 = none
        → src = (if m.fill then (List.range n).map fun k => BitVec.ofNat 8 (m.src.toNat / 256 ^ ((m.bytes + k) % 8))
            else u.readPieces none (targets (refusePieces (fun _ => none) ps))) → src.length = n →
        ∃ v, exec (.dmaChunk ch) s = .next v ∧ (v.chan ch).q = { m with bytes := m.bytes + n } :: rest
          ∧ (∀ k < n, v.byteAt (p + k) = src.getD k 0)
          ∧ (∀ x, x < p ∨ p + n ≤ x → v.byteAt x = u.byteAt x) ∧ ∀ x, v.sysByteAt x = u.sysByteAt x)
    ∧ (∀ s ch m rest t ps u qs n cause va, (s.chan ch).q = m :: rest → m.cause = 0 → m.waiting = none → m.bytes < m.len
        → n = min (m.len - m.bytes) (4096 - (m.dst + m.bytes) % 4096)
        → (if m.fill then (s, []) else s.xpieces (.engine s.pkg.firstDie) m.ctx .rd
            (pieces (m.src.toNat + m.bytes) n)) = (t, ps)
        → t.xpieces (.engine s.pkg.firstDie) m.ctx .wr (pieces (m.dst + m.bytes) n) = (u, qs)
        → decidingFault (refusePieces (fun _ => none) ps ++ dmaPieces true (refusePieces (fun _ => none) qs))
            = some (cause, va) →
        ∃ v, exec (.dmaChunk ch) s = .next v ∧ SameMemory u v ∧ SameRegisters s v
          ∧ (v.chan ch).q = (if cause = cNotPresent then { m with waiting := some va } else { m with cause := cause }) :: rest)
    ∧ ∀ s ch m rest, (s.chan ch).q = m :: rest → (m.cause ≠ 0 ∨ m.len ≤ m.bytes) →
        ∃ t, exec (.dmaComplete ch) s = .next t ∧ SameMemory s t ∧ SameRegisters s t ∧ (t.chan ch).q = rest
          ∧ (m.seq, m.cause, m.bytes) ∈ (t.chan ch).hist
          ∧ (s.owns m = false → t.groups = s.groups)
          ∧ (s.owns m = true → ∀ gr, s.grp m.g = some gr → ∃ gr', t.grp m.g = some gr' ∧ ∀ j < 16,
              gr'.bars.getD j none = (gr.bars.getD j none).map fun b => if m.bar = some j then reached b m.len 0 else b)

/-- tcfg with words that pass every check of R244 sets its tile register to the tile they describe, else takes the illegal-value trap; mpset sets its predicate; mswap, mzero, tzero, mstore, mload, mcvt, marrive and mflags with their checks passed enter the group's queue of 16 as the command that their operands name at issue, behind the earlier ones; while the core's queue is full tcfg and mpset hold, and so does every matrix command. -/
def Obligations.MatrixMovesAndSettings : Prop :=
  ∀ (h : Hdr) (t : BitVec 4) (a b e : Src) (acc src : BitVec 6) (rp cp : BitVec 2) (bo : BitVec 4)
    (cnt col clr : Bool),
    let A := fun (c : ICtx) => (c.gOr0 a).toNat
    let B := fun (c : ICtx) => (c.gOr0 b).toNat
    let E := fun (c : ICtx) => (c.gOr0 e).toNat
    let row := fun (c : ICtx) => c.gr.rp.getD rp.toNat 0
    let column := fun (c : ICtx) => c.gr.cp.getD cp.toNat 0
    Ctl (.tcfg h t a b e) h (fun c s => QueueFree c s ∧ TileOk (A c) (B c) (E c)) (fun c s => s.modGrp c.g fun gr =>
      { gr with tiles := setReg 16 Tile.blank gr.tiles t.toNat (wordsTile (A c) (B c) (E c)) })
    ∧ Traps (.tcfg h t a b e) h 8 (fun c s => QueueFree c s ∧ ¬ TileOk (A c) (B c) (E c)) (fun _ => tr cValue)
    ∧ Traps (.tcfg h t a b e) h 8 (fun c s => ¬ QueueFree c s) (fun _ => .hold)
    ∧ Ctl (.mpset h cnt col rp a) h (fun c s => QueueFree c s ∧ (cnt = false ∨ A c ≤ 64)) (fun c s =>
        let v : DWord := if cnt then BitVec.ofNat 64 (2 ^ A c - 1) else c.gOr0 a
        s.modGrp c.g fun gr => if col then { gr with cp := setReg 4 0 gr.cp rp.toNat v }
          else { gr with rp := setReg 4 0 gr.rp rp.toNat v })
    ∧ Traps (.mpset h true col rp a) h 8 (fun c s => QueueFree c s ∧ 64 < A c) (fun _ => tr cValue)
    ∧ Traps (.mpset h cnt col rp a) h 8 (fun c s => ¬ QueueFree c s) (fun _ => .hold)
    ∧ Queues (.mswap h) h (fun _ _ => True) (fun _ => .mswap)
    ∧ (∀ s c, s.icx = some c → QueueFree c (s.begun c h 8) → ∃ u gr, exec (.mswap h) s = .next u ∧ u.grp c.g = some gr
        ∧ gr.isActive = 1 - c.gr.isActive)
    ∧ Queues (.mzero h acc) h (fun c _ => acc.toNat < c.gr.va.acc) (fun _ => .mzero acc.toNat)
    ∧ (∀ x, Queues (.tzero h t) h (fun c _ => TileFits c t true x) fun _ => .tzero x)
    ∧ (∀ x, Queues (.mstore h t acc rp cp) h (fun c _ => acc.toNat < c.gr.va.acc ∧ TileFits c t true x ∧ x.sp ≠ 1)
        fun c => .mstore x acc.toNat (row c) (column c))
    ∧ (∀ x, Queues (.mload h acc t rp cp) h (fun c _ => acc.toNat < c.gr.va.acc ∧ TileFits c t false x ∧ x.sp ≠ 1)
        fun c => .mload acc.toNat x (row c) (column c))
    ∧ Queues (.mcvt h acc src rp cp e) h (fun c _ => acc.toNat < c.gr.va.acc ∧ src.toNat < c.gr.va.acc ∧ E c < 2 ^ 32)
        (fun c => .mcvt acc.toNat src.toNat (row c) (column c) (BitVec.ofNat 32 (E c)))
    ∧ Queues (.marrive h bo a) h (fun c _ => A c < 2 ^ 32 ∧ c.gr.barReady bo.toNat = true) (fun c => .marrive bo.toNat (A c))
    ∧ (∀ n, Queues (.mflags h (.g n) clr) h (fun _ _ => True) fun _ => .mflags n clr h.nw)
    ∧ Traps (.mzero h acc) h 8 (fun c s => QueueFree c s ∧ c.gr.va.acc ≤ acc.toNat) (fun _ => tr cValue)
    ∧ Traps (.tzero h t) h 8 (fun c s => QueueFree c s ∧ c.gr.tile t.toNat = none) (fun _ => tr cValue)
    ∧ (∀ x, Traps (.tzero h t) h 8 (fun c s => QueueFree c s ∧ c.gr.tile t.toNat = some x
        ∧ (c.gr.va.spad < x.base + x.extent ∨ c.gr.meetsBar x.base x.extent = true)) fun _ => tr cSpad)
    ∧ Traps (.mcvt h acc src rp cp e) h 8 (fun c s => QueueFree c s
        ∧ (c.gr.va.acc ≤ acc.toNat ∨ c.gr.va.acc ≤ src.toNat ∨ 2 ^ 32 ≤ E c)) (fun _ => tr cValue)
    ∧ Traps (.marrive h bo a) h 8 (fun c s => QueueFree c s ∧ 2 ^ 32 ≤ A c) (fun _ => tr cValue)
    ∧ Traps (.marrive h bo a) h 8 (fun c s => QueueFree c s ∧ A c < 2 ^ 32 ∧ c.gr.barReady bo.toNat = false) fun _ => tr cBarrier

/-- tload and tstore translate every row before they enter the queue, and stop for a fault; mwload and mwload.sm latch into the plane that is standby after every issued swap; each of the seven multiply-accumulates, with its checks passed, enters the queue with the tile, predicates and plane as they stand at issue; the accumulator, tile, descriptor, plane and format checks trap in their order. -/
def Obligations.MatrixPassesAndLoadsQueue : Prop :=
  ∀ (h : Hdr) (t : BitVec 4) (a b e : Src) (bo : BitVec 4) (bv z : Bool) (acc : BitVec 6) (rp cpn cpk : BitVec 2),
    TileMove (.tload h t bv a b bo) true h t bv a b bo
    ∧ TileMove (.tstore h t bv a b bo) false h t bv a b bo
    ∧ WeightLoad (.mwload h t) h t (fun _ => none)
    ∧ WeightLoad (.mwloadSm h t b) h t (fun c => some (c.gOr0 b))
    ∧ PassPoint (.mmacI8 h acc t rp cpn cpk z e) .i8 h acc t rp cpn cpk z e
    ∧ PassPoint (.mmacF8 h acc t rp cpn cpk z e) .f8 h acc t rp cpn cpk z e
    ∧ PassPoint (.mmacF4 h acc t rp cpn cpk z e) .f4 h acc t rp cpn cpk z e
    ∧ PassPoint (.mmacBf16 h acc t rp cpn cpk z e) .bf16 h acc t rp cpn cpk z e
    ∧ PassPoint (.mmacF16 h acc t rp cpn cpk z e) .f16 h acc t rp cpn cpk z e
    ∧ PassPoint (.mmacX3 h acc t rp cpn cpk z e) .x3 h acc t rp cpn cpk z e
    ∧ PassPoint (.mmacMx h acc t rp cpn cpk z e) .mx h acc t rp cpn cpk z e

/-- The command that completes next has reached its time, and no earlier command of the queue keeps it. A pass gives each selected element of its accumulator tile the FP32 rounding of its old value (or +0) plus the exact sum of the products, after the earlier passes on the tile, and changes no other element; mzero, mstore, mload, mcvt, mwload, mwload.sm, tzero, tload, tstore, marrive, mflags and mswap have their effects, the transfers credit their barrier objects, mfl takes the bits of what was met, and the command leaves the queue. -/
def Obligations.MatrixCommandsTakeEffect : Prop :=
  ∀ (s : State) (g n : Nat) (gr : Group) (c : MCmd), s.grp g = some gr →
    gr.nextDone s.clk (s.tileStalls g gr) = some (n, c) →
    let key := fun (x : MCmd) => (x.kind, x.flag, x.due)
    let ends := fun (P : State → Group → Prop) => ∃ t gr', exec (.matrixCommandComplete g) s = .next t ∧ t.grp g = some gr'
      ∧ gr'.mq.map key = (gr.mq.eraseIdx n).map key ∧ P t gr'
    let quiet := fun (P : State → Group → Prop) => ends fun t gr' => SameMemory s t ∧ SameRegisters s t ∧ P t gr'
    let accOnly := fun (a : Nat) (ok : Nat → Nat → Prop) (v : Nat → Nat → Word) (t : State) =>
      (∀ m k, m < 64 → k < 64 → ok m k → t.accOf g a m k = v m k)
        ∧ ∀ a' m k, m < 64 → k < 64 → (a' ≠ a ∨ ¬ ok m k) → t.accOf g a' m k = s.accOf g a' m k
    let met := fun (ok : Nat → Nat → Prop) (P : Nat → Nat → Prop) => ∃ m k, m < 64 ∧ k < 64 ∧ ok m k ∧ P m k
    gr.mq[n]? = some c ∧ c.due ≤ s.clk
    ∧ (∀ j x, j < n → gr.mq[j]? = some x → x.kind.before c.kind = false)
    ∧ (∀ a, c.kind = .mzero a → quiet fun t gr' => gr'.mfl = gr.mfl ∧ accOnly a (fun _ _ => True) (fun _ _ => 0) t)
    ∧ (∀ a src rp cp f, c.kind = .mcvt a src rp cp f →
        let ok := fun m k => bit rp m = true ∧ bit cp k = true
        let v := fun m k => ((fp32.decode (gr.accAt src m k).toNat).mul (fp32.decode f.toNat)).1
        quiet fun t gr' => accOnly a ok (fun m k => BitVec.ofNat 32 (fp32.encode rmN (v m k)).1) t
          ∧ MflAfter gr.mfl gr'.mfl (met ok fun m k => overflows (v m k)) (met ok fun m k => (v m k).isNan = true)
              False False False)
    ∧ (∀ a x rp cp, c.kind = .mload a x rp cp →
        let ok := fun m k => bit rp m = true ∧ m < x.rows ∧ bit cp k = true ∧ k < x.cols
        quiet fun t gr' => accOnly a ok (fun m k => BitVec.ofNat 32 (fp32.encode rmN (gr.tileStored x m k)).1) t
          ∧ MflAfter gr.mfl gr'.mfl (met ok fun m k => overflows (gr.tileStored x m k))
              (met ok fun m k => (gr.tileStored x m k).isNan = true) False False False)
    ∧ (c.kind.isPass = true →
        let earlier := (gr.mq.take n).filter fun x => !x.ran && x.kind.samePass c.kind
        let own := if c.ran then [] else [c]
        quiet fun t gr' =>
          (∀ a, (a, true) ∈ c.kind.accs → ∀ m k, m < 64 → k < 64 →
              t.accOf g a m k = (earlier ++ own).foldl (fun w x => gr.passElem x.kind m k w) (s.accOf g a m k))
          ∧ (∀ a m k, (a, true) ∉ c.kind.accs → m < 64 → k < 64 → t.accOf g a m k = s.accOf g a m k)
          ∧ ∀ j x, j < n → gr.mq[j]? = some x →
              (gr'.mq[j]?).map MCmd.ran = some (x.ran || x.kind.samePass c.kind))
    ∧ (∀ fam a x rp cpn cpk z plane sm set sfw md side p,
        c.kind = .mmac fam a x rp cpn cpk z plane sm set sfw md side → gr.planes.getD plane none = some p → c.ran = false →
        (∀ j y, j < n → gr.mq[j]? = some y → y.kind.samePass c.kind = true → y.ran = true) →
        let ok := fun m k => bit rp m = true ∧ m < x.rows ∧ bit cpn k = true ∧ k < p.n
        let xs := fun m => (gr.actRow x ((sel cpk).filter (· < x.cols)) sm set sfw md side m).filter fun y => y.k < p.k
        let v := fun m k => ((if z then .fin false 0 0 else fp32.decode (gr.accAt a m k).toNat).add rmN
          (gr.passSum fam x cpk p sm set sfw md side m k)).1
        quiet fun _ gr' => MflAfter gr.mfl gr'.mfl (met ok fun m k => overflows (v m k)) (met ok fun m k => (v m k).isNan = true)
          (met ok fun m _ => ∃ y ∈ xs m, bit y.mf 2 = true) False
          (met ok fun m _ => sm.isSome = true ∧ ∃ y ∈ xs m, (gr.sigma (sm.getD 0) y.k).2 = true))
    ∧ (∀ x sg plane md side, c.kind = .mwload x sg plane md side → plane < 2 → x.cols ≤ 64 →
        (isMx x.etype = true → x.cols % 32 = 0) →
        let v := fun k j => match sg with
          | none => ((gr.tileLogical x md side k j).1, false)
          | some o => gr.smoothed x md side o k j
        let within := fun (P : Nat → Nat → Prop) => ∃ k j, k < x.rows ∧ j < x.cols ∧ P k j
        quiet fun _ gr' => (∃ p, gr'.planes.getD plane none = some p
            ∧ p.k = x.rows ∧ p.n = x.cols ∧ p.etype = x.etype ∧ p.fmtw = x.fmtw
            ∧ ∀ k j, k < x.rows → j < x.cols → SMap.getD p.weights (64 * k + j) (.fin false 0 0)
                = if (v k j).1.isZero && !(v k j).1.neg then .fin false 0 0 else (v k j).1)
          ∧ (∀ q, q < 2 → q ≠ plane → gr'.planes.getD q none = gr.planes.getD q none)
          ∧ MflAfter gr.mfl gr'.mfl False False (within fun k j => (v k j).2 = true) False
              (within fun k _ => ∃ o, sg = some o ∧ (gr.sigma o k).2 = true)
          ∧ ∀ b, bit gr'.spst b = true ↔ bit gr.spst b = true ∨ within fun k j => bit (gr.tileLogical x md side k j).2 b = true)
    ∧ (∀ x, c.kind = .tzero x → x.rowBytes ≤ x.pitch →
        let scales := if isMx x.etype then x.rows * x.cols / 32 else 0
        let p := x.base + x.rows * x.pitch
        quiet fun t _ => (∀ m k, m < x.rows → k < x.rowBytes → t.spadAt g (x.base + m * x.pitch + k) = 0)
          ∧ (∀ k, k < scales → t.spadAt g (p + k) = 0x7f)
          ∧ ∀ o, (∀ m, m < x.rows → o < x.base + m * x.pitch ∨ x.base + m * x.pitch + x.rowBytes ≤ o) →
              (o < p ∨ p + scales ≤ o) → t.spadAt g o = s.spadAt g o)
    ∧ (∀ us bar, c.kind = .tload us bar → us.Pairwise (fun u v => u.1 + 16 ≤ v.1) →
        quiet fun t gr' => BarsAfter gr.bars gr'.bars (bar.map (·.1)) ((bar.map (·.2)).getD 0)
          ∧ (∀ u ∈ us, ∀ k < 16, t.spadAt g (u.1 + k) = (s.readTgt (some gr) u.2 16).getD k 0)
          ∧ ∀ o, (∀ u ∈ us, o < u.1 ∨ u.1 + 16 ≤ o) → t.spadAt g o = s.spadAt g o)
    ∧ (∀ us bar sig, c.kind = .tstore us bar sig →
        let dram := ∀ u ∈ us, ∃ a, u.2 = .dram a
        let plain := ∀ u ∈ us, (∃ a, u.2 = .dram a) ∨ ∃ a, u.2 = .sys a
        let lastOn := fun (k o : Nat) (x : Tgt) => us[k]? = some (o, x) ∧ ∀ (k' : Nat) y, k < k' → us[k']? = some y →
          match x, y.2 with
          | .dram a, .dram b => a + 16 ≤ b ∨ b + 16 ≤ a
          | .sys a, .sys b => a + 16 ≤ b ∨ b + 16 ≤ a
          | _, _ => True
        let credits := fun (gr' : Group) => BarsAfter gr.bars gr'.bars (bar.map (·.1)) ((bar.map (·.2)).getD 0)
        (gr.cls = 0 → plain → ends fun t gr' => credits gr'
          ∧ (∀ (k o a : Nat), lastOn k o (.dram a) → ∀ j < 16, t.byteAt (a + j) = gr.spadByte (o + j))
          ∧ (∀ (k o a : Nat), lastOn k o (.sys a) → ∀ j < 16, t.sysByteAt (a + j) = gr.spadByte (o + j))
          ∧ (∀ b, (∀ u ∈ us, ∀ a, u.2 = .dram a → b < a ∨ a + 16 ≤ b) → t.byteAt b = s.byteAt b)
          ∧ ∀ b, (∀ u ∈ us, ∀ a, u.2 = .sys a → b < a ∨ a + 16 ≤ b) → t.sysByteAt b = s.sysByteAt b)
        ∧ (gr.cls ≠ 0 → dram → ends fun t gr' => credits gr' ∧ SameMemory s t
          ∧ (∀ (k o a : Nat), lastOn k o (.dram a) → ∀ j < 16, t.viewByte (some gr') (a + j) = gr.spadByte (o + j))
          ∧ ∀ b, (∀ u ∈ us, ∀ a, u.2 = .dram a → b < a ∨ a + 16 ≤ b) → t.viewByte (some gr') b = s.viewByte (some gr) b))
    ∧ (∀ x a rp cp, c.kind = .mstore x a rp cp → x.rowBytes ≤ x.pitch → x.sp ≠ 1 →
        let w := tileBits x.etype x.fmtw
        let row := fun m => bit rp m = true ∧ m < x.rows ∧ m < 64
        let ok := fun m k => row m ∧ bit cp k = true ∧ k < x.cols ∧ k < 64
        let outside := fun o => (∀ m, row m → o < x.base + m * x.pitch ∨ x.base + m * x.pitch + x.rowBytes ≤ o)
        quiet fun t gr' => (∀ a' m k, m < 64 → k < 64 → t.accOf g a' m k = s.accOf g a' m k)
          ∧ (isMx x.etype = false → gr.meetsBar x.base x.extent = false →
              (∀ m k, ok m k → gr'.tileCode x m k = mstoreCode x.etype x.fmtw (gr.accAt a m k) % 2 ^ w)
              ∧ (∀ m k, m < x.rows → k < x.cols → ¬ ok m k → gr'.tileCode x m k = gr.tileCode x m k)
              ∧ (∀ o, outside o → t.spadAt g o = s.spadAt g o)
              ∧ MflAfter gr.mfl gr'.mfl False False False (∃ m k, ok m k ∧ (storeCode x (gr.accAt a m k)).2 = true) False)
          ∧ (isMx x.etype = true → gr.meetsBar x.base x.extent = false → x.cols % 32 = 0 → x.cols ≤ 64 →
              let used := fun m b => ∃ i, i < 32 ∧ ok m (32 * b + i)
              let block := fun m b => mxBlock (x.etype - 0x30) (gr.mxRow x a cp m b)
              (∀ m b, used m b → (∀ i < 32, gr'.tileCode x m (32 * b + i) = ((block m b).2.getD i (0, 0)).1 % 2 ^ w)
                  ∧ t.spadAt g (x.scaleAt m (32 * b)) = BitVec.ofNat 8 (block m b).1)
              ∧ (∀ m b, m < x.rows → 32 * b < x.cols → ¬ used m b →
                  (∀ i < 32, gr'.tileCode x m (32 * b + i) = gr.tileCode x m (32 * b + i))
                  ∧ t.spadAt g (x.scaleAt m (32 * b)) = s.spadAt g (x.scaleAt m (32 * b)))
              ∧ (∀ o, outside o → (∀ m b, used m b → o ≠ x.scaleAt m (32 * b)) → t.spadAt g o = s.spadAt g o)
              ∧ MflAfter gr.mfl gr'.mfl False False False (∃ m b, used m b ∧ (block m b).1 ≠ 0xff
                  ∧ ∃ y ∈ (block m b).2, y.2 &&& (flOF ||| flNV) ≠ 0) False))
    ∧ (∀ b k, c.kind = .marrive b k → quiet fun _ gr' => BarsAfter gr.bars gr'.bars (some b) k)
    ∧ (∀ d clr, c.kind = .mflags d clr false → d < 64 → ends fun t gr' => SameMemory s t
        ∧ t.gHeld g d = gr.mfl.setWidth 64 ∧ (∀ r < 64, r ≠ d → t.gHeld g r = s.gHeld g r)
        ∧ gr'.mfl = if clr then 0 else gr.mfl)
    ∧ (∀ d clr, c.kind = .mflags d clr true → quiet fun _ gr' => gr'.mfl = if clr then 0 else gr.mfl)
    ∧ (c.kind = .mswap → ∃ t, exec (.mswapTakeEffect g) s = .next t ∧ SameMemory s t ∧ SameRegisters s t
        ∧ (t.grp g).map Group.mq = some (gr.mq.eraseIdx n) ∧ (t.grp g).map Group.active = some (1 - gr.active))

/-- A taken br, brc, brdq, brzm, jmpi, call, calli or ret continues at its target and lets the agent issue again 3 clk after it; one that is not taken continues with the next word, as nop does. brc branches when (G[c] is not 0) XOR SENSE, brdq when (entry is not 0) XOR SENSE and consumes the entry, brzm when no lane of EM is selected. A call keeps its return offset in every lane of LS, or on the sequencer's stack of 16. An indirect target beyond 32 bits or odd, a full or empty stack, and a missing queue entry stop as their rules say. -/
def Obligations.TransfersOfControl : Prop :=
  ∀ (h : Hdr) (ofs : BitVec 24) (sense : Bool) (g : BitVec 6) (pm : BitVec 2) (p : BitVec 3) (a : Src),
    let goal := fun (c : ICtx) => (((c.pc : Int) + 2 * ofs.toInt) % 2 ^ 32).toNat
    let ind := fun (c : ICtx) => (c.scalar a).toNat < 2 ^ 32 ∧ (c.scalar a).toNat % 2 = 0
    let seqCalled := fun (c : ICtx) (_ t : State) => (t.seqAt c.g).map Seq.rstack = some (c.next 8 :: c.gr.seq.rstack)
    let laneRoom := fun (c : ICtx) => c.uni = false ∧ c.spl.depth < 4095 ∧ 4 * (c.spl.depth + 1) ≤ c.gr.va.lpriv
    let noRoom := fun (c : ICtx) => if c.uni then 16 ≤ c.gr.seq.rstack.length
      else c.spl.depth = 4095 ∨ c.gr.va.lpriv < 4 * (c.spl.depth + 1)
    FallsThrough .nop hdr16 2 (fun _ _ => True) keepRegs
    ∧ GoesTo (.br h ofs) h (fun _ _ => True) goal keepRegs
    ∧ GoesTo (.brc h sense g ofs) h (fun c _ => (c.gr.seq.gAt c.clk g.toNat != 0) ≠ sense) goal keepRegs
    ∧ FallsThrough (.brc h sense g ofs) h 8 (fun c _ => (c.gr.seq.gAt c.clk g.toNat != 0) = sense) keepRegs
    ∧ (∀ x, GoesTo (.brdq h sense ofs) h (fun c _ => c.uni = false ∧ c.dqEntry = .ok x ∧ (x != 0) ≠ sense) goal takesEntry)
    ∧ (∀ x, FallsThrough (.brdq h sense ofs) h 8 (fun c _ => c.uni = false ∧ c.dqEntry = .ok x ∧ (x != 0) = sense)
        takesEntry)
    ∧ Traps (.brdq h sense ofs) h 8 (fun c _ => c.gr.dq[c.wv.dqPos - c.gr.dqFreed]? = none ∧ c.gr.seq.live = true)
        (fun _ => .hold)
    ∧ Traps (.brdq h sense ofs) h 8 (fun c _ => c.gr.dq[c.wv.dqPos - c.gr.dqFreed]? = none ∧ c.gr.seq.live = false)
        (fun _ => tr cQueue)
    ∧ GoesTo (.brzm h pm p ofs) h (fun c _ => ∀ l < 32, bit c.spl.em l = true →
        bit ((c.wv.pAt c.clk p.toNat).select pm) l = false) goal keepRegs
    ∧ FallsThrough (.brzm h pm p ofs) h 8 (fun c _ => ∃ l, l < 32 ∧ bit c.spl.em l = true ∧
        bit ((c.wv.pAt c.clk p.toNat).select pm) l = true) keepRegs
    ∧ GoesTo (.jmpi h a) h (fun c _ => ind c) (fun c => (c.scalar a).toNat) keepRegs
    ∧ Traps (.jmpi h a) h 8 (fun c _ => ¬ ind c) (fun _ => tr cValue)
    ∧ Traps (.calli h a) h 8 (fun c _ => ¬ ind c) (fun _ => tr cValue)
    ∧ GoesTo (.call h ofs) h (fun c _ => c.uni = true ∧ c.gr.seq.rstack.length < 16) goal seqCalled
    ∧ GoesTo (.calli h a) h (fun c _ => c.uni = true ∧ c.gr.seq.rstack.length < 16 ∧ ind c)
        (fun c => (c.scalar a).toNat) seqCalled
    ∧ GoesTo (.call h ofs) h (fun c _ => laneRoom c) goal laneCalled
    ∧ GoesTo (.calli h a) h (fun c _ => laneRoom c ∧ ind c) (fun c => (c.scalar a).toNat) laneCalled
    ∧ Traps (.call h ofs) h 8 (fun c _ => noRoom c) (fun _ => tr cCall)
    ∧ Traps (.calli h a) h 8 (fun c _ => ind c ∧ noRoom c) (fun _ => tr cCall)
    ∧ (∀ r rest, GoesTo (.ret h) h (fun c _ => c.uni = true ∧ c.gr.seq.rstack = r :: rest) (fun _ => r)
        fun c _ t => (t.seqAt c.g).map Seq.rstack = some rest)
    ∧ (∀ r, GoesTo (.ret h) h (fun c _ => c.uni = false ∧ 0 < c.spl.depth ∧ c.spl.ls ≠ 0 ∧ r % 2 = 0
          ∧ ∀ l < 32, bit c.spl.ls l = true → c.site l = r) (fun _ => r)
        fun c s t => SameRegisters s t ∧ (t.splitAt c.g c.w c.sp).map (fun x => (x.depth, x.ls, x.em, x.stack))
          = some (c.spl.depth - 1, c.spl.ls, c.spl.ls &&& c.spl.em, c.spl.stack))
    ∧ Traps (.ret h) h 8 (fun c _ => if c.uni then c.gr.seq.rstack = [] else c.spl.depth = 0) (fun _ => tr cCall)
    ∧ ∀ l, l < 32 → Traps (.ret h) h 8 (fun c _ => c.uni = false ∧ 0 < c.spl.depth ∧ bit c.spl.ls l = true
        ∧ c.site l % 2 = 1 ∧ ∀ k < l, bit c.spl.ls k = true → c.site k % 2 = 0) fun _ => .trap cValue none l

/-- Of k non-empty paths the division keeps, for k = 1, the one path, with the LFSR as it was; for more it steps the LFSR, keeps path LFSR[15:0] mod k in the split, gives the other paths in list order the free split numbers from the lowest up, each a running split with the path's pc and lanes, the old execution mask restricted to them, the depth of the dividing split and an empty stack, and pushes what is left as deferred entries; where those do not fit 8 stack entries it divides nothing. The LFSR step shifts right by 1 and xors 0x80200003 when bit 0 was 1. -/
def Obligations.DivisionTakesItsPaths : Prop :=
  (∀ x : BitVec 32, lfsrStep x = if x.getLsbD 0 = true then (x >>> 1) ^^^ 0x80200003 else x >>> 1)
    ∧ ∀ (wv : Wave) (sp clk : Nat) (paths : List Path) (old : Split), wv.splits.length = 4 →
      wv.splits[sp]? = some old → old.live = true →
      let ps := paths.filter fun p => p.lanes != 0
      let free := (List.range 4).filter fun k => (wv.splits[k]?).any fun x => !x.live
      let i := ((lfsrStep wv.lfsr).toNat % 65536) % ps.length
      let rest := ps.eraseIdx i
      let kept := fun (p : Path) (x : Split) => x.live = true ∧ x.pc = p.pc ∧ x.ls = p.lanes ∧ x.em = p.lanes &&& old.em
        ∧ x.depth = old.depth ∧ x.blk = old.blk ∧ x.readyAt = (if p.moves then clk + 3 else old.readyAt)
      (∀ p, ps = [p] → ∃ new x, divide wv sp clk paths = some new ∧ new.lfsr = wv.lfsr ∧ new.splits[sp]? = some x
          ∧ kept p x ∧ x.stack = old.stack ∧ ∀ k, k ≠ sp → new.splits[k]? = wv.splits[k]?)
      ∧ (2 ≤ ps.length → 8 - old.stack.length < ps.length - 1 - free.length → divide wv sp clk paths = none)
      ∧ (2 ≤ ps.length → ps.length - 1 - free.length ≤ 8 - old.stack.length →
          ∃ new x, divide wv sp clk paths = some new ∧ new.lfsr = lfsrStep wv.lfsr
            ∧ new.splits[sp]? = some x ∧ (∀ p, ps[i]? = some p → kept p x)
            ∧ x.stack = ((rest.drop free.length).map fun p => .deferred p.pc p.lanes (p.lanes &&& old.em) old.depth).reverse
                ++ old.stack
            ∧ (∀ (j n : Nat) (p : Path), rest[j]? = some p → free[j]? = some n → ∃ y, new.splits[n]? = some y
                ∧ y.live = true ∧ y.pc = p.pc ∧ y.ls = p.lanes ∧ y.em = p.lanes &&& old.em ∧ y.depth = old.depth
                ∧ y.stack = [] ∧ y.blk = .none ∧ y.back = [none, none, none])
            ∧ ∀ k, k ≠ sp → (∀ (j : Nat), j < rest.length → free[j]? ≠ some k) → new.splits[k]? = wv.splits[k]?)

/-- split divides by the true, the false and the undecided lanes, a divergent ret by return site, or traps on overflow. A join folds back the waiters of its place and depth; it then swaps itself for a deferred entry, passes as the only live split, waits, or merges with a split that waits there with the same depth, keeping the lower number, both lane sets and masks and both stacks, of 8 entries at most. Waiting splits go on when no other live split runs. An exit pops the stack, or ends the split, and the wave with its last split; in the uniform stream it ends the sequencer. A split that merges or ends leaves no reservation, nor does the split it merges with. -/
def Obligations.SplitsJoinsAndExits : Prop :=
  ∀ (h : Hdr) (p : BitVec 3) (x y : BitVec 12),
    let divides := fun (i : Instr) (ok : ICtx → Prop) (less : Nat) (paths : ICtx → List Path) =>
      ∀ s c wv, s.icx = some c → c.uni = false → ok c → (s.begun c h 8).waveAt c.g c.w = some wv →
        let wv' := { wv with splits := updAt wv.splits c.sp fun z => { z with depth := z.depth - less } }
        (divide wv' c.sp c.clk (paths c) = none → exec i s = .next (s.stopped c (tr cReconv)))
        ∧ ∀ new, divide wv' c.sp c.clk (paths c) = some new → ∃ t, exec i s = .next t ∧ SameMemory s t
            ∧ (t.waveAt c.g c.w).map (fun v => (v.splits, v.lfsr, v.v, v.w, v.p))
              = some (new.splits, new.lfsr, wv.v, wv.w, wv.p)
    divides (.split h p x y) (fun _ => True) 0 (fun c =>
        let v := c.wv.pAt c.clk p.toNat
        let u := if y = 0 then 0 else c.spl.em &&& v.u
        [⟨(((c.pc : Int) + 2 * x.toInt) % 2 ^ 32).toNat, c.spl.em &&& v.t, true⟩,
         ⟨c.next 8, mkMask fun l =>
            bit c.spl.em l && !(bit v.t l || bit u l) || bit c.spl.ls l && !bit c.spl.em l, false⟩,
         ⟨(((c.pc : Int) + 2 * y.toInt) % 2 ^ 32).toNat, u, true⟩])
    ∧ (∀ rs : List Nat, rs.Pairwise (· < ·) → divides (.ret h)
        (fun c => 0 < c.spl.depth ∧ (∀ r, r ∈ rs ↔ ∃ l, l < 32 ∧ bit c.spl.ls l = true ∧ c.site l = r)
          ∧ ∀ r ∈ rs, r % 2 = 0) 1
        fun c => rs.map fun r => ⟨r, mkMask fun l => bit c.spl.ls l && c.site l == r, true⟩)
    ∧ (∀ s c pre rest, s.icx = some c → c.uni = false → c.spl.stack = pre ++ rest → foldsBack c.pc c.spl.depth pre →
        let ls := lsOf pre c.spl.ls
        let em := emOf pre c.spl.em
        let others := fun (k : Nat) (o : Split) => k ≠ c.sp ∧ k < 4 ∧ c.wv.splits[k]? = some o ∧ waitsAt o c.pc c.spl.depth
        (∀ pc ls' em' d tl, rest = .deferred pc ls' em' d :: tl → ∃ t z, exec (.join h) s = .next t
            ∧ t.splitAt c.g c.w c.sp = some z ∧ z.pc = pc ∧ z.ls = ls' ∧ z.em = em' ∧ z.depth = d
            ∧ z.stack = .waiter c.pc ls em c.spl.depth :: tl ∧ z.blk = .none)
        ∧ (leavesLoop c.pc c.spl.depth rest → c.wv.liveSplits.length ≤ 1 → ∃ t z, exec (.join h) s = .next t
            ∧ t.splitAt c.g c.w c.sp = some z ∧ z.pc = c.next 8 ∧ z.ls = ls ∧ z.em = em ∧ z.stack = rest
            ∧ z.depth = c.spl.depth ∧ z.blk = c.spl.blk)
        ∧ (leavesLoop c.pc c.spl.depth rest → 2 ≤ c.wv.liveSplits.length → (∀ k o, ¬ others k o) →
            ∃ t z, exec (.join h) s = .next t ∧ t.splitAt c.g c.w c.sp = some z ∧ z.pc = c.next 8 ∧ z.ls = ls ∧ z.em = em
              ∧ z.stack = rest ∧ waitsAt z c.pc c.spl.depth
              ∧ ∀ k, k ≠ c.sp → t.splitAt c.g c.w k = (s.begun c h 8).splitAt c.g c.w k)
        ∧ ∀ k o, leavesLoop c.pc c.spl.depth rest → others k o → (∀ j < k, ∀ q, ¬ others j q) →
            (8 < o.stack.length + rest.length → exec (.join h) s = .next (s.stopped c (tr cReconv)))
            ∧ (o.stack.length + rest.length ≤ 8 → ∃ t z, exec (.join h) s = .next t
                ∧ t.splitAt c.g c.w (min c.sp k) = some z ∧ z.ls = ls ||| o.ls ∧ z.em = em ||| o.em
                ∧ z.stack = (if k < c.sp then rest ++ o.stack else o.stack ++ rest) ∧ waitsAt z c.pc c.spl.depth
                ∧ z.back = [none, none, none] ∧ (t.splitAt c.g c.w (max c.sp k)).map Split.live = some false
                ∧ (∀ r ∈ t.resvs, ¬ (r.g = c.g ∧ r.w = c.w ∧ (r.sp = c.sp ∨ r.sp = k)))
                ∧ ∀ j, j ≠ c.sp → j ≠ k → t.splitAt c.g c.w j = (s.begun c h 8).splitAt c.g c.w j))
    ∧ (∀ s g w wv, s.waveAt g w = some wv → (∃ z ∈ wv.splits, z.atJoin = true) →
        (∀ z ∈ wv.splits, z.live = true → (∃ j, z.blk = .join j) ∨ (∃ f, z.blk = .bar f) ∨ (∃ k f, z.blk = .mbar k f)
          ∨ ∃ f, z.blk = .gbar f) →
        ∃ t, exec (.joinRelease g w) s = .next t ∧ SameMemory s t ∧ SameRegisters s t
          ∧ ∀ (k : Nat) z, wv.splits[k]? = some z →
              t.splitAt g w k = some (if z.atJoin then { z with blk := .none } else z))
    ∧ (∀ s c e tl, s.icx = some c → c.uni = false → c.spl.stack = e :: tl → ∃ t z, exec (.exit h) s = .next t
        ∧ t.splitAt c.g c.w c.sp = some z ∧ z.live = true ∧ z.stack = tl ∧ z.blk = .none
        ∧ (z.pc, z.ls, z.em, z.depth) = match e with
          | .deferred pc ls em d => (pc, ls, em, d)
          | .waiter pc ls em d => (pc, ls, em, d))
    ∧ (∀ s c, s.icx = some c → c.uni = false → c.spl.stack = [] → ∃ t, exec (.exit h) s = .next t ∧ SameMemory s t
        ∧ (t.splitAt c.g c.w c.sp).map Split.live = some false
        ∧ (∀ r ∈ t.resvs, ¬ (r.g = c.g ∧ r.w = c.w ∧ r.sp = c.sp))
        ∧ (2 ≤ c.wv.liveSplits.length → (t.waveAt c.g c.w).map Wave.live = some true ∧ t.memops = s.memops)
        ∧ (c.wv.liveSplits.length ≤ 1 → (t.waveAt c.g c.w).map Wave.live = some false
            ∧ (∀ gr, t.grp c.g = some gr → ∀ k < 16, bit (gr.msets.getD k 0) c.w = false)
            ∧ (∀ m, m ∈ t.memops ↔ m ∈ s.memops ∧ ¬ (m.kind.isLoad = true ∧ ∃ k, m.ag = .split c.g c.w k))
            ∧ ∀ r ∈ t.resvs, ¬ (r.g = c.g ∧ r.w = c.w)))
    ∧ ∀ s c, s.icx = some c → c.uni = true → ∃ t, exec (.exit h) s = .next t ∧ SameMemory s t
        ∧ (t.seqAt c.g).map Seq.live = some false
        ∧ (∀ m, m ∈ t.memops ↔ m ∈ s.memops ∧ ¬ (m.kind.isLoad = true ∧ m.ag = .seq c.g))

/-- barinit sets or takes away its object, mirrored in its 16 bytes, or stops on a bad value, a busy object or a bad place; barwait goes on once the phase differs from a[0], else it waits; bararr adds an arrival, with the flip of the phase at the expected counts; bar, mbar and gbar release and wait, and trap on a differing S, outside the set and outside a cooperative grid; a gbar whose group may have to be demoted acts in the state in which it is; mjoin and mleave change one bit of one set; dqpush appends while fewer than 16 entries stand, dqpop takes the wave's next entry. -/
def Obligations.BarrierAndQueueInstructions : Prop :=
  ∀ (h : Hdr) (bo k : BitVec 4) (a : Src) (sq : Bool),
    let n := bo.toNat
    let bars := fun (c : ICtx) => c.gr.bars
    (∀ s c, s.icx = some c → initZero c a → initSets c a → initOfs c a % 16 = 0 → barIdle c (s.begun c h 8) n →
        barFits c (s.begun c h 8) n (initOfs c a) →
        ∃ t gr, exec (.barinit h bo a) s = .next t ∧ t.grp c.g = some gr ∧ SameMemory s t
          ∧ SameRegisters (s.begun c h 8) t ∧ sameBarsBut n (bars c) gr.bars
          ∧ gr.bars.getD n none = some ⟨0, 0, (c.scalar a).toNat / 2 ^ 24 % 256, false, (c.scalar a).toNat / 2 ^ 32, initOfs c a⟩
          ∧ ∀ m < 16, gr.spadByte (initOfs c a + m) = mirrorByte
              ⟨0, 0, (c.scalar a).toNat / 2 ^ 24 % 256, false, (c.scalar a).toNat / 2 ^ 32, initOfs c a⟩ m)
    ∧ (∀ s c, s.icx = some c → initZero c a → ¬ initSets c a → barIdle c (s.begun c h 8) n →
        ∃ t gr, exec (.barinit h bo a) s = .next t ∧ t.grp c.g = some gr ∧ SameMemory s t
          ∧ SameRegisters (s.begun c h 8) t ∧ sameBarsBut n (bars c) gr.bars ∧ gr.bars.getD n none = none)
    ∧ Traps (.barinit h bo a) h 8 (fun c _ => ¬ initZero c a ∨ (initSets c a ∧ initOfs c a % 16 ≠ 0)) (fun _ => tr cValue)
    ∧ Traps (.barinit h bo a) h 8 (fun c s => initZero c a ∧ (initSets c a → initOfs c a % 16 = 0)
        ∧ (¬ barIdle c s n ∨ (initSets c a ∧ ¬ barFits c s n (initOfs c a)))) (fun _ => tr cBarrier)
    ∧ (∀ b, FallsThrough (.barwait h bo a) h 8 (fun c _ => c.gr.bars.getD n none = some b ∧ b.phase ≠ bit (c.scalar a) 0)
        keepRegs)
    ∧ (∀ b, Traps (.barwait h bo a) h 8 (fun c _ => c.gr.bars.getD n none = some b ∧ b.phase = bit (c.scalar a) 0)
        fun _ => .await)
    ∧ (∀ b, FallsThrough (.bararr h bo) h 8 (fun c s => c.gr.bars.getD n none = some b ∧ s.released c 1 = true)
        fun c s t => SameRegisters s t ∧ ∃ gr, t.grp c.g = some gr ∧ sameBarsBut n (bars c) gr.bars
          ∧ gr.bars.getD n none = some (reached b 0 1))
    ∧ (∀ i ∈ [Instr.barwait h bo a, .bararr h bo], Traps i h 8 (fun c _ => c.gr.bars.getD n none = none) fun _ => tr cBarrier)
    ∧ Traps (.bararr h bo) h 8 (fun c s => c.gr.barReady n = true ∧ s.released c 1 = false) (fun _ => .hold)
    ∧ FallsThrough (.bar h sq) h 8
        (fun c s => (c.uni = true → sq = true) ∧ (∀ x, c.gr.barS = some x → x = sq) ∧ s.released c 1 = true)
        (fun c s t => groupNow Group.barS (fun _ => some sq) c s t ∧ t.waitOf c.ag = some (.bar (hdrFlag h)))
    ∧ Traps (.bar h sq) h 8 (fun c s => (c.uni = true → sq = true) ∧ (∀ x, c.gr.barS = some x → x = sq)
        ∧ s.released c 1 = false) (fun _ => .await)
    ∧ Traps (.bar h sq) h 8 (fun c _ => c.uni = true ∧ sq = false) (fun _ => tr cEncoding)
    ∧ Traps (.bar h sq) h 8 (fun c _ => (c.uni = true → sq = true) ∧ c.gr.barS = some (!sq)) (fun _ => tr cBarrier)
    ∧ FallsThrough (.mjoin h k) h 8 (fun c _ => c.uni = false) (fun c s t => SameRegisters s t ∧ ∃ gr, t.grp c.g = some gr
        ∧ ∀ j w, j < 16 → w < 32 → bit (gr.msets.getD j 0) w = (bit (c.gr.msets.getD j 0) w || j == k.toNat && w == c.w))
    ∧ FallsThrough (.mleave h k) h 8 (fun c _ => c.uni = false) (fun c s t => SameRegisters s t ∧ ∃ gr, t.grp c.g = some gr
        ∧ ∀ j w, j < 16 → w < 32 →
            bit (gr.msets.getD j 0) w = (bit (c.gr.msets.getD j 0) w && !(j == k.toNat && w == c.w))
            ∧ (gr.mphase.getD j none).map (bit · w)
              = (c.gr.mphase.getD j none).map fun m => bit m w && !(j == k.toNat && w == c.w))
    ∧ FallsThrough (.mbar h k) h 8
        (fun c s => c.uni = false ∧ bit (c.gr.msets.getD k.toNat 0) c.w = true ∧ s.released c 1 = true)
        (fun c s t => SameRegisters s t ∧ t.waitOf c.ag = some (.mbar k.toNat (hdrFlag h)) ∧ ∃ gr, t.grp c.g = some gr
          ∧ gr.mphase.getD k.toNat none = some ((c.gr.mphase.getD k.toNat none).getD (c.gr.msets.getD k.toNat 0))
          ∧ ∀ j, j < 16 → j ≠ k.toNat → gr.mphase.getD j none = c.gr.mphase.getD j none)
    ∧ Traps (.mbar h k) h 8 (fun c _ => bit (c.gr.msets.getD k.toNat 0) c.w = false) (fun _ => tr cBarrier)
    ∧ FallsThrough (.gbar h) h 8
        (fun c s => s.coop c.gr = true ∧ (c.uni = false → s.released c 4 = true) ∧ c.demotes true false = false)
        (fun c s t => SameRegisters s t ∧ t.waitOf c.ag = some (.gbar (hdrFlag h)))
    ∧ Traps (.gbar h) h 8 (fun c s => s.coop c.gr = true ∧ c.uni = false ∧ s.released c 4 = false) (fun _ => .await)
    ∧ DemotesFirst (fun _ q => q) (.gbar h) h 1 (fun c s => s.coop c.gr = true ∧ (c.uni = false → s.released c 4 = true)
        ∧ c.demotes true false = true)
    ∧ Traps (.gbar h) h 8 (fun c s => s.coop c.gr = false) (fun _ => tr cGrid)
    ∧ FallsThrough (.dqpush h a) h 8 (fun c _ => c.gr.dq.length < 16)
        (fun c s t => SameRegisters s t ∧ ∃ gr, t.grp c.g = some gr
          ∧ gr.dqFreed + gr.dq.length = c.gr.dqFreed + c.gr.dq.length + 1
          ∧ (∀ m, gr.dqFreed ≤ m → m < c.gr.dqFreed + c.gr.dq.length → gr.entryAt m = c.gr.entryAt m)
          ∧ (gr.dqFreed ≤ c.gr.dqFreed + c.gr.dq.length → gr.entryAt (c.gr.dqFreed + c.gr.dq.length) = some (c.scalar a)))
    ∧ Traps (.dqpush h a) h 8 (fun c _ => 16 ≤ c.gr.dq.length) (fun _ => .hold)
    ∧ (∀ d x, d < 16 → h.nw = false → FallsThrough (.dqpop h (.w d)) h 8 (fun c _ => c.uni = false ∧ c.dqEntry = .ok x)
        fun c s t => t.wHeld c.g c.w d = x ∧ (∀ r < 16, r ≠ d → t.wHeld c.g c.w r = s.wHeld c.g c.w r)
          ∧ (t.waveAt c.g c.w).map Wave.dqPos = some (c.wv.dqPos + 1))
    ∧ (∀ d x, h.nw = true → FallsThrough (.dqpop h d) h 8 (fun c _ => c.uni = false ∧ c.dqEntry = .ok x) takesEntry)
    ∧ ∀ d, Traps (.dqpop h d) h 8 (fun c _ => c.gr.entryAt c.wv.dqPos = none ∧ c.gr.seq.live = false) fun _ => tr cQueue

/-- A barrier completes exactly when every live split of every live participant waits at it, and then each of them may go on; members of an open phase only for mbar, every live wave of every group for gbar, which counts its phase up. A write of rook.Qn.ctl binds or unbinds the queue in a step of its own; each push reads the 128 bytes at VA + o x OUTER + i x INNER into the next entry, a page that is not present stalls the program, and another fault ends the task. -/
def Obligations.BarriersCompleteForTheirParticipants : Prop :=
  (∀ s g gr sq, s.grp g = some gr → gr.barS = some sq →
        let at' := fun (b : Blk) => ∃ f, b = .bar f
        let done := (∀ wv ∈ gr.waves, wv.live = true → allWait at' wv) ∧ (sq = true → gr.seq.live = true → at' gr.seq.blk)
        (¬ done → exec (.barrierComplete g) s = .next s)
        ∧ (done → ∃ t gr', exec (.barrierComplete g) s = .next t ∧ t.grp g = some gr' ∧ SameMemory s t ∧ SameRegisters s t
            ∧ gr'.barS = none ∧ (∀ wv ∈ gr'.waves, wv.live = true → allWait (· = .none) wv)
            ∧ ¬ at' gr'.seq.blk))
    ∧ (∀ s g k gr m, s.grp g = some gr → gr.mphase.getD k none = some m →
        let at' := fun (b : Blk) => ∃ f, b = .mbar k f
        let done := ∀ (w : Nat) wv, gr.waves[w]? = some wv → bit m w = true → wv.live = true → allWait at' wv
        (¬ done → exec (.mbarComplete g k) s = .next s)
        ∧ (done → ∃ t gr', exec (.mbarComplete g k) s = .next t ∧ t.grp g = some gr' ∧ SameMemory s t ∧ SameRegisters s t
            ∧ (∀ (w : Nat) wv, gr'.waves[w]? = some wv → bit m w = true → wv.live = true → allWait (· = .none) wv)
            ∧ (∀ w, bit m w = false → t.waveAt g w = s.waveAt g w)
            ∧ (k < 16 → gr'.mphase.getD k none = none ∨ gr'.mphase.getD k none = some (gr.msets.getD k 0))))
    ∧ (∀ s key x, s.gridOf key = some x →
        let at' := fun (b : Blk) => ∃ f, b = .gbar f
        let done := s.absentGroups x = false ∧ ∀ y ∈ s.groups, y.2.isOf x = true → ∀ wv ∈ y.2.waves, wv.live = true →
          allWait at' wv
        let come := ∃ y ∈ s.groups, y.2.isOf x = true ∧ (at' y.2.seq.blk
          ∨ ∃ wv ∈ y.2.waves, wv.live = true ∧ ∃ z ∈ wv.splits, z.live = true ∧ at' z.blk)
        (¬ done ∨ ¬ come → exec (.gridBarrierComplete key) s = .next s)
        ∧ (done → come → ∃ t x', exec (.gridBarrierComplete key) s = .next t ∧ SameMemory s t ∧ SameRegisters s t
            ∧ t.gridOf key = some x' ∧ x'.gbar = ⟨x.gbar.phase + 1, none⟩
            ∧ ∀ g gr gr', s.grp g = some gr → gr.isOf x = true → t.grp g = some gr' →
                (∀ wv ∈ gr'.waves, wv.live = true → allWait (· = .none) wv) ∧ ¬ at' gr'.seq.blk))
    ∧ (∀ s g n gr q x, s.grp g = some gr → gr.queues[n]? = some q → q.request = some x →
        let o := x.toNat / 2 ^ 12 % 2 ^ 12
        let i := x.toNat % 2 ^ 12
        (bit x 31 = true → ∃ t gr' q', exec (.rookQueueStart g n) s = .next t ∧ t.grp g = some gr'
            ∧ gr'.queues[n]? = some q' ∧ SameMemory s t ∧ SameRegisters s t ∧ q'.bound = true ∧ q'.entries = []
            ∧ q'.cons.toNat = x.toNat / 2 ^ 32 ∧ q'.next = 0 ∧ q'.total = o * i ∧ q'.nin = i ∧ q'.va = q.base.toNat
            ∧ q'.outer = (q.step.extractLsb' 32 32).toInt ∧ q'.inner = (q.step.extractLsb' 0 32).toInt
            ∧ q'.request = none ∧ gr'.seq.blk ≠ .rook n)
        ∧ (bit x 31 = false → ∃ t gr' q', exec (.rookQueueStop g n) s = .next t ∧ t.grp g = some gr'
            ∧ gr'.queues[n]? = some q' ∧ SameMemory s t ∧ SameRegisters s t ∧ q'.bound = false ∧ q'.entries = []
            ∧ q'.request = none ∧ (q'.base, q'.step, q'.ctl) = (q.base, q.step, q.ctl) ∧ gr'.seq.blk ≠ .rook n))
    ∧ ∀ s g n gr q t, s.grp g = some gr → gr.queues[n]? = some q → q.bound = true → q.next < q.total →
        q.stalled = none → q.request = none → q.entries.length < 8 →
        let va := (((q.va : Int) + (q.next / q.nin : Nat) * q.outer + (q.next % q.nin : Nat) * q.inner) % 2 ^ 64).toNat
        (∀ bs, s.readVa (coreUnit g) gr.ctx (some gr) va 128 = (t, .ok bs) →
          ∃ u gr' q', exec (.rookEntryPush g n) s = .next u ∧ SameMemory t u ∧ u.grp g = some gr' ∧ gr'.queues[n]? = some q'
            ∧ q'.next = q.next + 1 ∧ q'.freed + q'.entries.length = q.freed + q.entries.length + 1
            ∧ (q'.entries ≠ [] → ∃ e, q'.entries.getLast? = some e
                ∧ ∀ l < 32, laneOf e l = BitVec.ofNat 32 (leVal ((bs.drop (4 * l)).take 4))))
        ∧ (∀ f, s.readVa (coreUnit g) gr.ctx (some gr) va 128 = (t, .error (cNotPresent, f)) →
          ∃ u gr' q', exec (.rookEntryPush g n) s = .next u ∧ SameMemory t u ∧ SameRegisters t u ∧ u.grp g = some gr'
            ∧ gr'.queues[n]? = some q' ∧ q'.stalled = some f)
        ∧ ∀ k f, k ≠ cNotPresent → s.readVa (coreUnit g) gr.ctx (some gr) va 128 = (t, .error (k, f)) →
          exec (.rookEntryPush g n) s = .next (t.endTask g (gr.report g k 0 0 true (some f) 0 []))

/-- Once the agent's earlier writes are performed, and where its group is not demoted, launch and launch.rec ask the dispatcher and hold the sequencer, grow and iv.spawn ask it and go on; a recorded answer is given at once; one whose earlier writes are not performed is held, and one whose group is to be demoted acts in the state in which it is; iv.spawn is held while an interval instruction of a wave with a trap enable is in flight; a cooperative grid, a count of grow outside 1 to 65,536 and one of iv.spawn above 1,024 trap. The dispatcher answers a record with {identifier, 0} or {0, the first code of R301}, a page that is not present parks the sequencer; a growth within the limit raises the group count and gives each lane its first index, one beyond it gives all ones and, for iv.spawn, SPAWNF. -/
def Obligations.LaunchesAndGrowth : Prop :=
  ∀ (h : Hdr) (d : Dst) (a : Src),
    let asks := fun (i : Instr) (ok : ICtx → State → Prop) (kind : ICtx → ReqKind) (mask : ICtx → BitVec 32) (waits : Bool) =>
      FallsThrough i h 8 (fun c s => ok c s ∧ MayAsk c s ∧ NoAnswer c) fun c s t =>
        SameRegisters s t ∧ (waits = true → t.waitOf c.ag = some (.req s.nextId))
          ∧ t.reqs = s.reqs ++ [⟨s.nextId, c.ag, c.pc, kind c, hdrFlag h, mask c, c.gr.versioned⟩]
    let lane := fun (c : ICtx) l => (w32 (c.words extN [(a, .w32)] 0) l).toNat
    let counted := fun (c : ICtx) (s : State) => Served [(d, .w32)] [(a, .w32)] c ∧ s.ivHolds c = false ∧ s.coop c.gr = false
    let small := fun (c : ICtx) => c.acting h ≠ [] ∧ ∀ l ∈ c.acting h, lane c l ≤ 1024
    let reads := useReads [(a, .w32)]
    let ranged := fun (c : ICtx) => 1 ≤ (c.scalar a).toNat ∧ (c.scalar a).toNat ≤ 65536
    asks (.launch h d a) (fun _ _ => True) (fun c => .launch (c.scalar a).toNat false d h.nw) (fun _ => 0) true
    ∧ asks (.launchRec h d a) (fun _ _ => True) (fun c => .launch (c.scalar a).toNat true d h.nw) (fun _ => 0) true
    ∧ asks (.grow h d a) (fun c s => s.coop c.gr = false ∧ ranged c) (fun c => .grow (c.scalar a).toNat d h.nw) (fun c => c.active h) false
    ∧ asks (.ivSpawn h d a) (fun c s => counted c s ∧ small c) (fun c => .spawn ((c.acting h).map fun l => (l, lane c l)) d h.nw)
        (fun c => c.active h) false
    ∧ FallsThrough (.ivSpawn h d a) h 8
        (fun c s => counted c s ∧ c.acting h = []) keepRegs
    ∧ (∀ i ∈ [Instr.launch h d a, .launchRec h d a], ∀ x rest r, d = .g r → r < 64 → h.nw = false →
        FallsThrough i h 8 (fun c s => MayAsk c s ∧ c.gr.versioned = true ∧ c.gr.answerFor (ansKey c.ag) = some (x :: rest))
          fun c s t => t.gHeld c.g r = x ∧ t.reqs = s.reqs)
    ∧ (∀ i ∈ [Instr.launch h d a, .launchRec h d a], Traps i h 8 (fun c s => s.released c 4 = false) (fun _ => .hold)
        ∧ DemotesFirst (fun _ q => q) i h 1 fun c s => s.released c 4 = true ∧ c.demotes true true = true)
    ∧ Traps (.grow h d a) h 8 (fun c s => s.coop c.gr = false ∧ ranged c ∧ s.released c 4 = false) (fun _ => .hold)
    ∧ DemotesFirst (fun _ q => q) (.grow h d a) h 1 (fun c s => s.coop c.gr = false ∧ ranged c ∧ s.released c 4 = true
        ∧ c.demotes true true = true)
    ∧ TrapsUsing reads (.ivSpawn h d a) h 8 (fun c s => counted c s ∧ small c ∧ s.released c 4 = false) (fun _ => .hold)
    ∧ DemotesFirst reads (.ivSpawn h d a) h 1 (fun c s => counted c s ∧ small c ∧ s.released c 4 = true
        ∧ c.demotes true true = true)
    ∧ Traps (.grow h d a) h 8 (fun c s => s.coop c.gr = true) (fun _ => tr cGrid)
    ∧ Traps (.grow h d a) h 8 (fun c s => s.coop c.gr = false ∧ ¬ ranged c) (fun _ => tr cValue)
    ∧ TrapsUsing reads (.ivSpawn h d a) h 8 (fun c s => Served [(d, .w32)] [(a, .w32)] c ∧ s.ivHolds c = true) (fun _ => .hold)
    ∧ TrapsUsing reads (.ivSpawn h d a) h 8 (fun c s => Served [(d, .w32)] [(a, .w32)] c ∧ s.ivHolds c = false
        ∧ s.coop c.gr = true) (fun _ => tr cGrid)
    ∧ (∀ l, TrapsUsing reads (.ivSpawn h d a) h 8 (fun c s => counted c s
        ∧ l ∈ c.acting h ∧ 1024 < lane c l ∧ ∀ k ∈ c.acting h, k < l → lane c k ≤ 1024) fun _ => .trap cValue none l)
    ∧ (∀ s id r va isRec e nw g gr, s.reqs.find? (fun r => r.id == id) = some r → r.kind = .launch va isRec e nw →
        r.ag = .seq g → s.grp g = some gr →
        let mode := if isRec then LaunchBy.launchRec else .launch
        let gets := fun (u t : State) (grid code : Nat) => SameMemory u t ∧ (∀ b, t.waitOf r.ag = some b → b = .none)
          ∧ (∀ y ∈ t.reqs, y.id ≠ id) ∧ t.grids = u.grids
          ∧ ∀ k, e = .g k → k < 64 → nw = false → (u.seqAt g).isSome = true →
              t.gHeld g k = BitVec.ofNat 64 (grid * 2 ^ 32 + code)
        (va % 64 ≠ 0 → ∃ t, exec (.launchAnswer id) s = .next t ∧ gets s t 0 1)
        ∧ (∀ u f, va % 64 = 0 → s.devRead gr.ctx va 128 = (u, .error f) → f.1 ≠ cNotPresent →
            ∃ t, exec (.launchAnswer id) s = .next t ∧ gets u t 0 1)
        ∧ (∀ u f, va % 64 = 0 → s.devRead gr.ctx va 128 = (u, .error (cNotPresent, f)) → (u.grp g).isSome = true →
            ∃ t, exec (.launchAnswer id) s = .next t ∧ t.pcOf r.ag = some r.pc ∧ (∀ y ∈ t.reqs, y.id ≠ id)
              ∧ (t.seqAt g).map Seq.parked = some (some f))
        ∧ ∀ u bs, va % 64 = 0 → s.devRead gr.ctx va 128 = (u, .ok bs) →
            ∃ t, exec (.launchAnswer id) s = .next t
              ∧ gets (u.launchFrom gr.ctx mode bs).1 t (u.launchFrom gr.ctx mode bs).2.1 (u.launchFrom gr.ctx mode bs).2.2)
    ∧ (∀ (s : State) ctx (m : LaunchBy) bs cx u hs, s.context ctx = some cx → s.handleList ctx bs = (u, some hs) →
        let l := launchRecord bs hs
        let go := s.launchFrom ctx m bs
        let ok1 := launchLimits bs = true
        let ok2 := ok1 ∧ l.mask &&& s.pkg.livec ≠ 0
        (¬ ok1 → go = (u, 0, 2)) ∧ (ok1 → ¬ ok2 → go = (u, 0, 3))
        ∧ (ok2 → ∀ v, u.loadKernel ctx l.kernel = (v, none) → go = (v, 0, 4))
        ∧ (ok2 → ∀ v ko, u.loadKernel ctx l.kernel = (v, some ko) →
            let x := newGrid cx.nextGrid ctx l ko (l.mask &&& s.pkg.livec) (bit cx.duty 0) s.clk
            (m.wrongRec l.isRec = true → go = (v, 0, 5))
            ∧ (m.wrongRec l.isRec = false → l.coop = true → v.coopRefused x = true → go = (v, 0, 6))
            ∧ (m.wrongRec l.isRec = false → (l.coop = true → v.coopRefused x = false) →
                (1024 ≤ v.grids.length → go = (v, 0, 7))
                ∧ (v.grids.length < 1024 → go.2 = (cx.nextGrid, 0) ∧ go.1.grids = v.grids ++ [x] ∧ SameMemory v go.1
                    ∧ (v.context ctx = some cx → (go.1.context ctx).map Ctx.nextGrid = some (cx.nextGrid + 1))))))
    ∧ (∀ (s : State) ctx (m : LaunchBy) bs cx u, s.context ctx = some cx → s.handleList ctx bs = (u, none) → s.launchFrom ctx m bs = (u, 0, 1))
    ∧ ∀ s id r gr x, s.reqs.find? (fun r => r.id == id) = some r → s.grp (agPlace r.ag) = some gr →
        s.gridOf (gridKey gr.ctx gr.grid) = some x →
        let does := fun (n : Nat) (t : State) => exec (.spawnComplete id) s = .next t ∧ SameMemory s t
          ∧ (∀ y ∈ t.reqs, y.id ≠ id)
          ∧ (t.gridOf (gridKey gr.ctx gr.grid)).map Grid.count
            = some (if x.lrec.limit < x.count + n then x.count else x.count + n)
        (∀ n e nw, r.kind = .grow n e nw → ∃ t, does n t ∧ ∀ g k, r.ag = .seq g → e = .g k → k < 64 → nw = false →
            t.gHeld g k = if x.lrec.limit < x.count + n then BitVec.allOnes 64 else BitVec.ofNat 64 x.count)
        ∧ ∀ counts e nw, r.kind = .spawn counts e nw → counts.Pairwise (fun y z => y.1 < z.1) →
            let n := (counts.map Prod.snd).sum
            ∃ t, does n t ∧ ∀ g w sp, r.ag = .split g w sp → (s.waveAt g w).isSome = true →
              (∀ k pre l m post, e = .v k → nw = false → counts = pre ++ (l, m) :: post → l < 32 → x.count < 2 ^ 64 →
                t.vHeld g w k l = if x.lrec.limit < x.count + n then 0xffffffff
                  else BitVec.ofNat 32 (x.count + (pre.map Prod.snd).sum))
              ∧ (t.waveAt g w).map Wave.ivst = (s.waveAt g w).map fun wv =>
                  if x.lrec.limit < x.count + n then wv.ivst ||| 0x20 else wv.ivst

/-- A launch cell with a new SEQ, written over CXL or found by the poll, gives one launch and one answer at its offset 0x88; a batch hands consecutive pending indices, or one free continuation, to the die whose turn it is; a refused binding is reported, and a redundant group is placed as two copies that name each other; the first group that waits on a die is placed with the start state of R310; a row and a dictionary bank are filled from their kernel object; a grid held by its dependence goes on at its target, one with a record count takes the lesser of count and limit; a grid of which nothing is left, and which the host does not hold, retires and adds 1 to its done object. -/
def Obligations.GridsAreDispatchedPlacedAndRetired : Prop :=
  (∀ s ctx cx u v a, s.context ctx = some cx → s.cellAt ctx cx.cell = (u, .ok a) →
        v = { u with ctxs := SMap.mod ctx (fun c => { c with lastPoll := s.clk, cellDue := false }) u.ctxs } →
        let q := leVal (memRead u.sys (a + 0x80) 8)
        let l := v.launchFrom ctx .cell (memRead u.sys a 128)
        let due := cx.cellDue = true ∨ (s.pkg.hostCxl.getD (sysPort a) false = false ∧ cx.lastPoll + 65536 ≤ s.clk)
        (¬ due → exec (.launchCellPoll ctx) s = .next s)
        ∧ (due → (cx.lastSeq.getD 0).toNat = q → exec (.launchCellPoll ctx) s = .next v)
        ∧ (due → (cx.lastSeq.getD 0).toNat ≠ q → ∃ t, exec (.launchCellPoll ctx) s = .next t ∧ t.grids = l.1.grids
            ∧ (∀ b, t.byteAt b = l.1.byteAt b)
            ∧ (∀ k < 8, t.sysByteAt (a + 0x88 + k)
                = BitVec.ofNat 8 ((l.2.1 * 2 ^ 32 + q % 2 ^ 24 * 256 + l.2.2) / 256 ^ k))
            ∧ ∀ b, b < a + 0x88 ∨ a + 0x90 ≤ b → t.sysByteAt b = l.1.sysByteAt b)
        ∧ (∀ bs seq, u.pkg.hostCxl.getD (sysPort a) false = true → exec (.launchCellWrite ctx bs seq) s
            = .next ({ u with sys := match seq with
                | some x => memWrite (memWrite u.sys a bs) (a + 0x80) (bytesOf 8 x.toNat)
                | none => memWrite u.sys a bs }.readCell ctx cx))
        ∧ ∀ bs seq, u.pkg.hostCxl.getD (sysPort a) false = false → bs.length ≤ 128 →
            ∃ t, exec (.launchCellWrite ctx bs seq) s = .next t ∧ (∀ b, t.byteAt b = u.byteAt b) ∧ t.grids = u.grids
              ∧ (∀ k < bs.length, t.sysByteAt (a + k) = bs.getD k 0)
              ∧ (∀ x, seq = some x → ∀ k < 8, t.sysByteAt (a + 0x80 + k) = BitVec.ofNat 8 (x.toNat / 256 ^ k))
              ∧ ∀ b, b < a ∨ a + 0x88 ≤ b → t.sysByteAt b = u.sysByteAt b)
    ∧ (∀ s x d k c, s.nextGrid = some (x, d) → x.conts.find? Cont.free = some c →
        (1 < k → exec (.dispatchBatch x.key d k) s = .next s)
        ∧ (1 ≤ s.batchRoom x d → ∃ t, exec (.dispatchBatch x.key d 1) s = .next t ∧ SameMemory s t ∧ SameRegisters s t
            ∧ (t.die d).waiting = [(x.key, c.index)]))
    ∧ (∀ s x d k is y, s.nextGrid = some (x, d) → x.conts.find? Cont.free = none → x.batch k = (is, y) →
        (∀ g e, (g ≠ x.key ∨ e ≠ d) → exec (.dispatchBatch g e k) s = .next s)
        ∧ (1 ≤ k → k ≤ s.batchRoom x d → is.length = k → ∃ t, exec (.dispatchBatch x.key d k) s = .next t
            ∧ SameMemory s t ∧ SameRegisters s t ∧ (t.die d).waiting = is.map (fun i => (x.key, i))
            ∧ (∃ i, is = (List.range k).map (i + ·))
            ∧ (x.returned = [] → is.head? = some x.next ∧ y.next = x.next + k ∧ x.next + k ≤ x.count)
            ∧ (∀ i r, x.returned = i :: r → is.head? = some i ∧ y.next = x.next)))
    ∧ (∀ s die key index rest x slot p v u hs, (s.die die).waiting = (key, index) :: rest → s.gridOf key = some x →
        slot < x.lrec.slots → slot ∉ x.usedSlots → (∀ j < slot, j ∈ x.usedSlots) → x.lrec.cls ≠ 2 →
        (∀ c ∈ x.conts, c.index ≠ index) →
        s.placeOn die (wantOf x none []) = some p → x.kobj.variants[p.varNo]? = some v →
        s.bindHandles x.ctx x.lrec.handles = (u, hs) →
        ∃ t gr, exec (.groupPlace die) s = .next t ∧ SameMemory u t ∧ (t.die die).waiting = rest
          ∧ t.grp (64 * p.core + p.slot) = some gr
          ∧ (gr.grid, gr.ctx, gr.index, gr.slot, gr.ordinal, gr.cls) = (x.id, x.ctx, index, slot, 0, x.lrec.cls)
          ∧ (∀ k < 32, gr.handle k = match hs[k]? with | some (Except.ok l) => some l | _ => none)
          ∧ (∀ (k : Nat) f, hs[k]? = some (Except.error f) → OutMsg.binding x.ctx x.id k f ∈ t.outbox)
          ∧ (∀ r < 64, gr.seq.g.getD r 0 = match r with
              | 0 => BitVec.ofNat 64 index
              | 1 => x.lrec.param
              | 2 => BitVec.ofNat 64 x.lrec.items
              | 3 => if x.lrec.isRec then BitVec.ofNat 64 (x.lrec.recVa + index * x.lrec.recStride) else 0
              | 4 => BitVec.ofNat 64 x.id
              | _ => 0)
          ∧ gr.seq.live = (v.uLen != 0) ∧ gr.seq.pc = 0 ∧ gr.waves.length = v.waves
          ∧ (∀ o, SMap.getD gr.spad o 0 = 0) ∧ (gr.spst, gr.mfl, gr.ctb, gr.dq) = (0, 0, 0, [])
          ∧ (∀ k < 16, gr.bars.getD k none = none ∧ gr.msets.getD k 0 = 0)
          ∧ (∀ q ∈ gr.queues, q.bound = false ∧ q.base = 0 ∧ q.step = 0 ∧ q.ctl = 0)
          ∧ ∀ w wv, w < v.waves → gr.waves[w]? = some wv →
              (∀ r < 16, wv.w.getD r 0 = if r < 4 then gr.seq.g.getD r 0 else 0)
              ∧ (∀ r l, laneOf (SMap.getD wv.v r zeroLanes) l = 0) ∧ (∀ o l, wv.priv o l = 0)
              ∧ (∀ k < 7, wv.p.getD k ⟨0, 0⟩ = ⟨0, 0⟩) ∧ (wv.xi, wv.fst, wv.ivst, wv.xstat) = (0, 0, 0, 0)
              ∧ wv.live = (v.lLen != 0) ∧ wv.pend = []
              ∧ wv.liveSplits = [0] ∧ (wv.splits[0]?).map (fun z => (z.pc, z.ls, z.em, z.depth, z.stack))
                  = some (0, BitVec.allOnes 32, BitVec.allOnes 32, 0, [])
              ∧ wv.lfsr = (let z := x.lrec.seed ^^^ BitVec.ofNat 32 ((64 * index + w) * 0x10003)
                  if z = 0 then x.lrec.seed else z))
    ∧ (∀ s die key index rest x slot p q v, (s.die die).waiting = (key, index) :: rest → s.gridOf key = some x →
        slot < x.lrec.slots → slot ∉ x.usedSlots → (∀ j < slot, j ∈ x.usedSlots) → x.lrec.cls = 2 →
        (∀ c ∈ x.conts, c.index ≠ index) → s.pairOn die (wantOf x none []) = some (p, q) →
        x.kobj.variants[p.varNo]? = some v → q.varNo = p.varNo →
        let a := 64 * p.core + p.slot
        let b := 64 * q.core + q.slot
        a ≠ b → ∃ t x' y', exec (.groupPlace die) s = .next t ∧ (t.die die).waiting = rest
          ∧ t.grp a = some x' ∧ t.grp b = some y' ∧ x'.twin = some b ∧ y'.twin = some a
          ∧ ∀ z, z = x' ∨ z = y' → (z.grid, z.ctx, z.index, z.slot, z.ordinal, z.cls) = (x.id, x.ctx, index, slot, 0, 2))
    ∧ (∀ s core row r k v u, (s.core core).rows.getD row none = some r → s.kernelOf core r.ctx r.kobj r.varNo = some (k, v) →
        r.filled = false → r.stalled = none → r.fault = none →
        let o := 4096 * r.idx
        let n := min 4096 ((if r.uni then v.uLen else v.lLen) - o)
        let cue := v.cueOfs + (if r.uni then 0 else v.uLen / 16) + o / 16
        let ranges := [((if r.uni then v.uOfs else v.lOfs) + o, n), (cue, n / 16)]
        (∀ bs cs, s.readAll r.ctx k.va ranges = (u, .ok [bs, cs]) →
          exec (.instructionRowFill core row) s
            = .next (u.setRow core row { r with filled := true, bytes := bs, cues := nibbles cs }))
        ∧ ∀ f, s.readAll r.ctx k.va ranges = (u, .error f) → ∃ t, exec (.instructionRowFill core row) s = .next t
            ∧ SameMemory u t ∧ (row < (u.core core).rows.length → (t.core core).rows.getD row none
              = some (if f.1 = cNotPresent then { r with stalled := some f.2 } else { r with fault := some f })))
    ∧ (∀ s core n b k v u, (s.core core).banks.getD n none = some b → s.kernelOf core b.ctx b.kobj b.varNo = some (k, v) →
        b.filled = false → b.stalled = none → b.fault = none →
        ∀ bs cs, s.readAll b.ctx k.va [(v.dictOfs, 8 * v.dict), (v.dictOfs + 8 * v.dict, nibbleBytes v.dict)]
            = (u, .ok [bs, cs]) →
          ∃ b', exec (.dictionaryBankLoad core n) s = .next (u.setBank core n b') ∧ b'.filled = true
            ∧ b'.entries.length = v.dict ∧ ∀ i < v.dict, b'.entries.getD i (0, 0)
              = (BitVec.ofNat 64 (leVal ((bs.drop (8 * i)).take 8)), (nibbles cs).getD i 15))
    ∧ (∀ s key x u r, s.gridOf key = some x → x.heldDep = true → s.pollDue x = true →
        s.gridWord x x.lrec.depVa 8 = (u, r) →
        ∃ t, exec (.dependencePoll key) s = .next t ∧ SameMemory u t
          ∧ (t.gridOf key).map Grid.heldDep = some (match r with | some w => decide (w < x.lrec.depTarget) | none => true))
    ∧ (∀ s key x u r, s.gridOf key = some x → x.heldDep = false → x.heldCount = true → s.pollDue x = true →
        s.gridWord x x.lrec.recCountVa 4 = (u, r) →
        ∃ t, exec (.recordCountRead key) s = .next t ∧ SameMemory u t
          ∧ (t.gridOf key).map (fun y => (y.heldCount, y.count)) = some (match r with
            | some w => (false, min w x.lrec.limit)
            | none => (true, x.count)))
    ∧ ∀ s key x, s.gridOf key = some x →
        let empty := x.heldDep = false ∧ x.heldCount = false ∧ x.heldHost = false ∧ s.absentGroups x = false ∧ x.live = 0
          ∧ ∀ y ∈ s.groups, y.2.isOf x = false
        (¬ empty → exec (.gridRetire key) s = .next s)
        ∧ (empty → ∃ t, exec (.gridRetire key) s = .next t ∧ t.gridOf key = none
            ∧ (x.lrec.done = false → SameMemory s t)
            ∧ ∀ u z a, x.lrec.done = true →
                s.translate s.devUnit x.ctx .rw (BitVec.ofNat 64 x.lrec.doneVa) = (u, .ok z) → z.tgt = .dram a →
                Stored u t a 8 (leVal (memRead u.mem a 8) + 1))

/-- trap n ends its task with cause 0x28 and n in AUX; brk n holds its agent where the context's descriptor enables debugging, a wave that pins its quarter once the pin ends, and does nothing elsewhere; rdlfsr reads the LFSR without a step, rdclk the count of its core, whose distance from the clk since the last reset is a free value (log entry 4); wait holds the agent for n clk, none while its split holds a pin, and traps on more than 16 bits; emsave, emrest and emand read, replace within LS and restrict EM; a dictionary reference puts its entry in its place, or traps beyond the dictionary; the expiry of a wait lets its agent go on. -/
def Obligations.SystemInstructions : Prop :=
  ∀ (h : Hdr) (n : BitVec 8) (k : BitVec 16) (d : Dst) (a : Src) (pm : BitVec 2) (p : BitVec 3),
    let debug := fun (c : ICtx) (s : State) => ∃ x, s.context c.gr.ctx = some x ∧ x.dbg = true
    let held := fun (t : State) (ag : Agent) => match ag with
      | .split g w _ => (t.waveAt g w).map Wave.held
      | .seq g => (t.seqAt g).map Seq.held
    let mask := fun (t : State) (c : ICtx) => (t.splitAt c.g c.w c.sp).map Split.em
    let pinned := fun (c : ICtx) => c.uni = false ∧ ∃ l ∈ c.lt, l.pins = true ∧ l.owner = some (c.g, c.w, c.sp)
    let waits := fun (i : Instr) (amount : ICtx → Nat) =>
      FallsThrough i h 8 (fun c _ => amount c < 65536 ∧ (amount c = 0 ∨ pinned c)) (fun c s t =>
          SameRegisters s t ∧ t.waitOf c.ag = s.waitOf c.ag)
        ∧ FallsThrough i h 8 (fun c _ => amount c < 65536 ∧ amount c ≠ 0 ∧ ¬ pinned c) (fun c s t =>
          SameRegisters s t ∧ t.waitOf c.ag = some (.wait (s.clk + amount c) (hdrFlag h)))
    Traps (.trap h n) h 8 (fun _ _ => True) (fun _ => .trap 0x28 none n.toNat)
    ∧ FallsThrough (.brk h n) h 8 (fun c s => debug c s ∧ (c.uni = false → (s.quarter c.core c.q).pinsOf c.g c.w = []))
        (fun c s t => SameRegisters s t ∧ held t c.ag = some true
          ∧ t.coals = (s.send (c.gr.report c.g 0x29 (if c.uni = false ∧ c.wv.parked.isSome = true then 0x41 else 0x40) c.pc c.uni
              (if c.uni then none else c.wv.parked) n.toNat c.places)).coals)
    ∧ FallsThrough (.brk h n) h 8 (fun c s => debug c s ∧ c.uni = false ∧ (s.quarter c.core c.q).pinsOf c.g c.w ≠ [])
        (fun c s t => SameRegisters s t ∧ held t c.ag = held s c.ag ∧ t.coals = s.coals
          ∧ (t.waveAt c.g c.w).map Wave.brkDue = some (some n.toNat))
    ∧ FallsThrough (.brk h n) h 8 (fun c s => ¬ debug c s) (fun c s t => SameRegisters s t ∧ held t c.ag = held s c.ag
        ∧ t.coals = s.coals)
    ∧ FallsThrough (.rdlfsr h d) h 8 (fun c _ => c.uni = false) (fun c s t => scalarGets h d (c.wv.lfsr.setWidth 64) c s t
        ∧ (t.waveAt c.g c.w).map Wave.lfsr = some c.wv.lfsr)
    ∧ FallsThrough (.rdclk h d) h 8 (fun _ _ => True) (fun c s t => scalarGets h d (BitVec.ofNat 64 (s.clk + Config.clkSkew s.boot c.core)) c s t)
    ∧ waits (.waitImmediate h k) (fun _ => k.toNat)
    ∧ waits (.waitRegister h a) (fun c => (c.scalar a).toNat)
    ∧ Traps (.waitRegister h a) h 8 (fun c _ => 65536 ≤ (c.scalar a).toNat) (fun _ => tr cValue)
    ∧ (∀ s ag till flag, s.blkOf ag = some (.wait till flag) →
        (s.clk < till → exec (.waitExpiry ag) s = .next s)
        ∧ (till ≤ s.clk → ∃ t, exec (.waitExpiry ag) s = .next t ∧ t.blkOf ag = some .none ∧ SameMemory s t
            ∧ SameRegisters s t))
    ∧ FallsThrough (.emsave h d) h 8 (fun c _ => c.uni = false) (fun c s t =>
        scalarGets h d (c.spl.em.setWidth 64) c s t ∧ mask t c = some c.spl.em)
    ∧ FallsThrough (.emrest h a) h 8 (fun c _ => c.uni = false) (fun c s t => SameRegisters s t
        ∧ mask t c = some ((c.scalar a).setWidth 32 &&& c.spl.ls))
    ∧ FallsThrough (.emand h pm p) h 8 (fun c _ => c.uni = false) (fun c s t => SameRegisters s t
        ∧ mask t c = some (c.spl.em &&& (c.wv.pAt c.clk p.toNat).select pm))
    ∧ ∀ (dist : BitVec 3) (j : BitVec 10) s c, s.icx = some c →
        let bank := (s.core c.core).banks.find? fun b => match b with
          | some b => b.serves c.gr && (b.filled || b.fault.isSome)
          | none => false
        (c.gr.va.dict ≤ j.toNat → exec (.dictionaryReference dist j) s = .next (s.stopped c (tr cEncoding)))
        ∧ (∀ b word cue, j.toNat < c.gr.va.dict → bank = some (some b) → b.fault = none →
            b.entries[j.toNat]? = some (word, cue) → word.toNat % 4 = 3 →
            ∃ t, exec (.dictionaryReference dist j) s = .next t ∧ SameMemory s t ∧ SameRegisters s t
              ∧ t.issuing = some ⟨c.ag, some (word, cue, dist), c.losers⟩)
        ∧ (∀ b word cue, j.toNat < c.gr.va.dict → bank = some (some b) → b.fault = none →
            b.entries[j.toNat]? = some (word, cue) → word.toNat % 4 ≠ 3 →
            exec (.dictionaryReference dist j) s = .next (s.stopped c (tr cEncoding)))
        ∧ (j.toNat < c.gr.va.dict → bank = none →
            exec (.dictionaryReference dist j) s = .next (s.stopped c .hold))

/-- A number that the table of R375 does not list for the stream and the direction traps. A read gives the register's value, zero-extended, and is held while a value is on its way that the register collects; a write replaces fst, IVST, the bases and the steps, clears the bits of SPST [3:1] and mfl that are written 1 and ABANDON of hst, sets XI alone of win, sets the soft-error count in a firmware context only, and hands a value of rook.Qn.ctl on, or traps on one that R314 refuses and on GO for a bound queue. -/
def Obligations.StatusRegistersReadAndWrite : Prop :=
  ∀ (h : Hdr) (num : BitVec 8) (d : Dst) (a : Src),
    let n := num.toNat
    let x := fun (c : ICtx) => c.wrstVal a
    let writes := fun (m : Nat) (ok : ICtx → State → Prop) (more : ICtx → State → State → Prop) =>
      n = m → FallsThrough (.wrst h num a) h 8 (fun c s => n ∈ writable c.uni ∧ ok c s) more
    let firmware := fun (c : ICtx) (s : State) => ∃ y, s.context c.gr.ctx = some y ∧ y.fw = true
    Traps (.rdst h d num) h 8 (fun c _ => n ∉ readable c.uni) (fun _ => tr cEncoding)
    ∧ Traps (.wrst h num a) h 8 (fun c _ => n ∉ writable c.uni) (fun _ => tr cEncoding)
    ∧ Traps (.rdst h d num) h 8 (fun c s => n ∈ readable c.uni ∧ readWaits c s n) (fun _ => .hold)
    ∧ FallsThrough (.rdst h d num) h 8 (fun c s => n ∈ readable c.uni ∧ n < 0x10 ∧ ¬ readWaits c s n)
        (fun c s t => scalarGets h d (BitVec.ofNat 64 (statusWord c s n)) c s t)
    ∧ (∀ q, FallsThrough (.rdst h d num) h 8
        (fun c s => n ∈ readable c.uni ∧ 0x10 ≤ n ∧ (s.mine c).queues[n % 8]? = some q)
        fun c s t => scalarGets h d (if n < 0x18 then q.base else if n < 0x20 then q.step else q.ctl) c s t)
    ∧ writes 0x00 (fun _ _ => True) (waveNow Wave.fst fun c _ => (x c).setWidth 5)
    ∧ writes 0x01 (fun _ _ => True) (waveNow Wave.ivst fun c _ => (x c).setWidth 32 &&& 0x33f)
    ∧ writes 0x03 (fun _ _ => True) (fun c s t => SameRegisters s t
        ∧ (t.grp c.g).map Group.spst = some ((s.mine c).spst &&& ~~~((x c).setWidth 32 &&& 0xe)))
    ∧ writes 0x04 (fun _ _ => True) (fun c s t => SameRegisters s t
        ∧ (t.grp c.g).map Group.mfl = some ((s.mine c).mfl &&& ~~~((x c).setWidth 32)))
    ∧ writes 0x05 (fun _ _ => True) (waveNow Wave.xi fun c _ => (x c).extractLsb' 24 8)
    ∧ writes 0x09 (fun c _ => c.uni = false) (fun c s t => SameRegisters s t ∧ (t.waveAt c.g c.w).map Wave.hst
        = some (if bit (x c) 31 then (s.me c).hst &&& ~~~0x80000000 else (s.me c).hst))
    ∧ writes 0x09 (fun c _ => c.uni = true) (fun c s t => SameRegisters s t ∧ (t.seqAt c.g).map Seq.hst
        = some (if bit (x c) 31 then (s.mine c).seq.hst &&& ~~~0x80000000 else (s.mine c).seq.hst))
    ∧ writes 0x0a firmware (fun c s t => SameRegisters s t ∧ t.softCount c.core = (x c).toNat)
    ∧ (n = 0x0a → Traps (.wrst h num a) h 8 (fun c s => ¬ firmware c s) fun _ => tr cProtection)
    ∧ (∀ q, FallsThrough (.wrst h num a) h 8
        (fun c _ => n ∈ writable c.uni ∧ 0x10 ≤ n ∧ n < 0x20 ∧ c.gr.queues[n % 8]? = some q)
        fun c s t => SameRegisters s t ∧ ∃ gr q', t.grp c.g = some gr ∧ gr.queues[n % 8]? = some q'
          ∧ q' = (if n < 0x18 then { q with base := x c } else { q with step := x c })
          ∧ ∀ j, j ≠ n % 8 → gr.queues[j]? = c.gr.queues[j]?)
    ∧ (∀ q, FallsThrough (.wrst h num a) h 8
        (fun c _ => n ∈ writable c.uni ∧ 0x20 ≤ n ∧ c.gr.queues[n % 8]? = some q ∧ ¬ rookBad c q (x c)
          ∧ (bit (x c) 31 = true → q.bound = false))
        fun c s t => SameRegisters s t ∧ t.waitOf c.ag = some (.rook (n % 8)) ∧ ∃ gr, t.grp c.g = some gr
          ∧ gr.queues[n % 8]? = some { q with ctl := x c, request := some (x c) })
    ∧ (∀ q, Traps (.wrst h num a) h 8
        (fun c _ => n ∈ writable c.uni ∧ 0x20 ≤ n ∧ c.gr.queues[n % 8]? = some q ∧ rookBad c q (x c)) fun _ => tr cValue)
    ∧ ∀ q, Traps (.wrst h num a) h 8
        (fun c _ => n ∈ writable c.uni ∧ 0x20 ≤ n ∧ c.gr.queues[n % 8]? = some q ∧ ¬ rookBad c q (x c)
          ∧ bit (x c) 31 = true ∧ q.bound = true) fun _ => tr cQueue

/-- vpoint n waits for its agent's flags, of a wave also for its loads, and then for the group, or traps on a number or offset outside the table, on a divided or called agent, and on a number that differs from the first. A commit point, with every agent there and nothing under way, saves the group, commits its version, raises the ordinal by 1 and lets all agents go on in the next clk; under a drain the group leaves its core as a continuation. The next variant is the following one while a group waits on the die and the preceding one once that has fitted for 4,096 clk and the group has been on its core for as long, where the group fits and an open cooperative grid keeps its room (log entry 52); the group then goes on in it from the checkpoint, or its continuation takes the fault of its context slot. The copies of a redundant group commit together where their signatures agree, and a third run is compared with the two that differed. An ended group commits and leaves nothing behind. The oldest version of a full pool with a stalled write commits early. A continuation that fits is placed again at its checkpoint. -/
def Obligations.CommitPointsAndRetirement : Prop :=
  (∀ (h : Hdr) (n : BitVec 10) (p : CPoint),
        let deep := fun (c : ICtx) => if c.uni then c.gr.seq.rstack ≠ [] else 1 < c.wv.liveSplits.length ∨ c.spl.depth ≠ 0
        let here := fun (c : ICtx) => c.gr.va.points.find? (fun y => y.num == n.toNat) = some p
          ∧ (if c.uni then p.uOfs else p.lOfs) = c.pc
        let good := fun (c : ICtx) => here c ∧ ¬ deep c ∧ (c.gr.vp = none ∨ c.gr.vp = some n.toNat)
        FallsThrough (.vpoint h n) h 8 (fun c s => good c ∧ (s.doneNow c h).agentQuiet c.ag)
            (fun c s t => groupNow Group.vp (fun _ => some n.toNat) c s t ∧ t.waitOf c.ag = some .vpoint)
          ∧ Traps (.vpoint h n) h 8 (fun c s => good c ∧ ¬ (s.doneNow c h).agentQuiet c.ag) (fun _ => .await)
          ∧ Traps (.vpoint h n) h 8 (fun c _ => (∀ y ∈ c.gr.va.points, y.num ≠ n.toNat)
              ∨ (c.gr.va.points.find? (fun y => y.num == n.toNat) = some p ∧ (if c.uni then p.uOfs else p.lOfs) ≠ c.pc)
              ∨ (here c ∧ deep c) ∨ (here c ∧ ∃ m, c.gr.vp = some m ∧ m ≠ n.toNat)) fun _ => tr cCommit)
    ∧ (∀ (s : State) g (gr : Group), s.grp g = some gr → gr.buf = [] →
        (∀ a b, (a, b) ∈ gr.version → (∀ b', (a, b') ∈ gr.version → b' = b) → (s.commitVersion g).byteAt a = b)
        ∧ (∀ a, (∀ b, (a, b) ∉ gr.version) → (s.commitVersion g).byteAt a = s.byteAt a)
        ∧ ((s.commitVersion g).grp g).map Group.version = some [])
    ∧ (∀ (s : State) g (gr : Group) n x w,
        let key := gridKey gr.ctx gr.grid
        s.grp g = some gr → gr.vp = some n → s.gridOf key = some x → s.ready Group.atPoint g = true → gr.cls ≠ 2 →
        s.devWrite gr.ctx (s.saveRuns x gr n) = (w, none) →
        let v := if gr.versioned then w.commitVersion g else w
        let ck := s.ckptOf gr n
        gr.twin = none → gr.grid < 2 ^ 32 →
        (s.ctxRuns gr.ctx = true →
          ((gr.varNo = 0 ∧ gr.kobj.variants.length ≤ 1) ∨ (∃ q ∈ gr.queues, q.bound = true) ∨ gr.dq ≠ []) →
          ∃ t gr', exec (.commitPoint g) s = .next t ∧ SameMemory v t ∧ t.grp g = some gr' ∧ gr'.ordinal = gr.ordinal + 1
            ∧ gr'.ckpt = ck ∧ gr'.vp = none ∧ gr'.version = (if gr.versioned then [] else gr.version) ∧ GoesOn gr' s.clk
            ∧ (∀ k, (t.waveAt g k).map Wave.regs = (s.waveAt g k).map Wave.regs)
            ∧ (t.seqAt g).map Seq.regs = (s.seqAt g).map Seq.regs)
        ∧ (s.ctxRuns gr.ctx = true →
          let u := { v with saves := v.saves + 1 }.modGrp g fun y => y.newTask ck
          let left := u.evict g (fun _ => false) false
          ∀ y m p, u.grp g = some y → u.nextVariant g y = some m →
            left.spot (coreOf g) m (wantOf x y.only []) (some (g % 64)) = some p →
            match left.restore x (y.cont 0 []) p with
            | (r, .ok gr') => ∃ t z, exec (.commitPoint g) s = .next t ∧ SameMemory r t
                ∧ t.grp (64 * p.core + p.slot) = some z ∧ z.varNo = m ∧ z = { gr' with twin := none } ∧ z.index = gr.index
                ∧ z.slot = gr.slot ∧ z.ckpt = ck
            | (r, .error f) => exec (.commitPoint g) s
                = .next ((r.toCont y (y.cont 0 [])).contFault x (y.cont 0 []) f))
        ∧ (s.ctxRuns gr.ctx = false → ∃ t, exec (.commitPoint g) s = .next t ∧ SameMemory v t ∧ t.gone g
            ∧ t.continues key gr.index fun c => (∀ c' ∈ x.conts, c'.index ≠ gr.index) →
                c.ckpt = ck ∧ c.slot = gr.slot ∧ c.hold = 0))
    ∧ (∀ (s : State) g (gr : Group), gr.twin = none → s.grp g = some gr → gr.dq = [] →
        (∀ q ∈ gr.queues, q.bound = false ∧ q.request = none) →
        let waits := (s.die (dieOfCore (coreOf g))).waiting ≠ []
        let fits := fun n => ∃ t, s.switched g n gr = some t ∧ (s.coopOpen = none ∨ t.coopKept = true)
        let down := waits ∧ gr.varNo + 1 < gr.kobj.variants.length
        let up := ¬ waits ∧ 0 < gr.varNo ∧ gr.enteredAt + 4096 ≤ s.clk ∧ ∃ b, gr.fitSince = some b ∧ b + 4096 ≤ s.clk
        (down → fits (gr.varNo + 1) → s.nextVariant g gr = some (gr.varNo + 1))
        ∧ (up → fits (gr.varNo - 1) → s.nextVariant g gr = some (gr.varNo - 1))
        ∧ ∀ n, s.nextVariant g gr = some n → fits n ∧ ((down ∧ n = gr.varNo + 1) ∨ (up ∧ n + 1 = gr.varNo)))
    ∧ (∀ (s : State) g k (gr o : Group) n x w, s.grp g = some gr → gr.vp = some n → gr.cls = 2 → gr.twin = some k → k ≠ g →
        s.grp k = some o → s.gridOf (gridKey gr.ctx gr.grid) = some x → s.ready Group.atPoint g = true →
        s.ready Group.atPoint k = true → (gr.sig.map Prod.snd).sum = (o.sig.map Prod.snd).sum →
        s.devWrite gr.ctx (s.saveRuns x gr n) = (w, none) → s.ctxRuns gr.ctx = true → gr.dq ≠ [] →
        ∃ t a b, exec (.commitPoint g) s = .next t ∧ SameMemory (w.commitVersion g) t ∧ t.grp g = some a ∧ t.grp k = some b
          ∧ (a.ordinal, b.ordinal) = (gr.ordinal + 1, o.ordinal + 1) ∧ (a.version, b.version) = ([], [])
          ∧ GoesOn a s.clk ∧ GoesOn b s.clk)
    ∧ (∀ (s : State) g (gr : Group) n x w a b, s.grp g = some gr → gr.vp = some n → gr.cls = 2 → gr.twin = none →
        gr.sigs = [a, b] → gr.grid < 2 ^ 32 → s.gridOf (gridKey gr.ctx gr.grid) = some x → s.ready Group.atPoint g = true →
        s.devWrite gr.ctx (s.saveRuns x gr n) = (w, none) →
        let agrees := fun (z : Nat × SMap DWord) => ∀ j < 137, SMap.getD gr.sig j 0 = SMap.getD z.2 j 0
        let blamed := fun (t : State) (z : Nat × SMap DWord) =>
          let old := SMap.getD s.pkg.counters z.1 Counters.zero
          let new := SMap.getD t.pkg.counters z.1 Counters.zero
          let one := fun j => if SMap.getD gr.sig j 0 = SMap.getD z.2 j 0 then 0 else 1
          (∀ j < 128, SMap.getD new.lanes j 0 = SMap.getD old.lanes j 0 + one j)
            ∧ ∀ j < 8, SMap.getD new.subs j 0 = SMap.getD old.subs j 0 + one (128 + j)
        let commits := fun (z : Nat × SMap DWord) => ∃ t, exec (.commitPoint g) s = .next t ∧ SameMemory (w.commitVersion g) t
          ∧ t.gone g ∧ blamed t z ∧ t.continues (gridKey gr.ctx gr.grid) gr.index fun c =>
            (∀ c' ∈ x.conts, c'.index ≠ gr.index) → c.ckpt = s.ckptOf gr n ∧ c.slot = gr.slot ∧ c.sigs = []
        (agrees a → commits b) ∧ (¬ agrees a → agrees b → commits a)
        ∧ (¬ agrees a → ¬ agrees b → exec (.commitPoint g) s
            = .next (s.endTask g (gr.report g cRedundancy 0 0 false none 0 []))))
    ∧ (∀ s g gr n x w f, s.grp g = some gr → gr.vp = some n → s.gridOf (gridKey gr.ctx gr.grid) = some x →
        s.ready Group.atPoint g = true → gr.cls ≠ 2 → s.devWrite gr.ctx (s.saveRuns x gr n) = (w, some f) →
        (f.1 = cNotPresent → ∃ t, exec (.commitPoint g) s = .next t ∧ SameMemory w t
            ∧ (t.grp g).map Group.slotWait = some (some f.2) ∧ (t.grp g).map Group.ordinal = some gr.ordinal)
        ∧ (f.1 ≠ cNotPresent → exec (.commitPoint g) s
            = .next (w.endTask g (gr.report g f.1 0 0 false (some f.2) 0 []))))
    ∧ (∀ s g gr, s.grp g = some gr → s.ready Group.atPoint g = false →
        exec (.commitPoint g) s = .next s)
    ∧ (∀ (s : State) g (gr : Group), s.grp g = some gr → gr.cls ≠ 2 → gr.twin = none → gr.grid < 2 ^ 32 →
        (s.ready Group.ended g = false → exec (.groupRetire g) s = .next s)
        ∧ (s.ready Group.ended g = true → ∃ t, exec (.groupRetire g) s = .next t ∧ t.gone g
            ∧ SameMemory (if gr.versioned then s.commitVersion g else s) t
            ∧ (∀ q ∈ t.queries, q.2.isOf gr = false)
            ∧ ∀ x, s.gridOf (gridKey gr.ctx gr.grid) = some x → (t.gridOf (gridKey gr.ctx gr.grid)).map
                (fun y => (y.live, y.usedSlots)) = some (x.live - 1, x.usedSlots.filter (· != gr.slot))))
    ∧ (∀ s g gr, s.grp g = some gr →
        (s.earlyDue g gr = false → exec (.earlyCommit g) s = .next s)
        ∧ (s.earlyDue g gr = true → s.oldestVersion g gr = true ∧ s.stalledWrite g gr = true)
        ∧ (s.earlyDue g gr = true → gr.twin = none → (gr.cls ≠ 2 ∨ gr.sigs.length ≠ 2) →
            ∃ t gr', exec (.earlyCommit g) s = .next t ∧ SameMemory (s.commitVersion g) t
            ∧ t.grp g = some gr' ∧ gr'.early = true ∧ gr'.version = [] ∧ gr'.ordinal = gr.ordinal
            ∧ SameRegisters s t)
        ∧ (∀ a b, s.earlyDue g gr = true → gr.twin = none → gr.cls = 2 → gr.sigs = [a, b] →
            let same := fun (z : Nat × SMap DWord) => ∀ j < 137, SMap.getD gr.sig j 0 = SMap.getD z.2 j 0
            ((same a ∨ same b) → ∃ t gr', exec (.earlyCommit g) s = .next t ∧ SameMemory (s.commitVersion g) t
              ∧ t.grp g = some gr' ∧ gr'.early = true ∧ gr'.version = [] ∧ gr'.sigs = [] ∧ SameRegisters s t)
            ∧ (¬ same a → ¬ same b → exec (.earlyCommit g) s
                = .next (s.endTask g (gr.report g cRedundancy 0 0 false none 0 []))))
        ∧ ∀ k o, s.earlyDue g gr = true → gr.twin = some k → k ≠ g → s.grp k = some o → s.earlyDue k o = true →
            (gr.sig.map Prod.snd).sum = (o.sig.map Prod.snd).sum →
            ∃ t a b, exec (.earlyCommit g) s = .next t ∧ SameMemory (s.commitVersion g) t ∧ t.grp g = some a ∧ t.grp k = some b
              ∧ (a.early, b.early) = (true, true) ∧ (a.version, b.version) = ([], []) ∧ SameRegisters s t)
    ∧ (∀ s die, s.nextCont die = none → exec (.groupResume die) s = .next s)
    ∧ (∀ s die x c p q u f, s.nextCont die = some (x, c, p, q) → (s.headTaken die).restore x c p = (u, .error f) →
        exec (.groupResume die) s = .next (u.contFault x c f))
    ∧ (∀ s die x c p q u v gr gr2, s.nextCont die = some (x, c, p, some q) → (s.headTaken die).restore x c p = (u, .ok gr) →
        u.restore x c q = (v, .ok gr2) →
        let a := 64 * p.core + p.slot
        let b := 64 * q.core + q.slot
        a ≠ b → ∃ t y z, exec (.groupResume die) s = .next t ∧ SameMemory v t ∧ t.grp a = some y ∧ t.grp b = some z
          ∧ y = { gr with twin := some b } ∧ z.twin = some a ∧ (z.index, z.slot, z.ckpt) = (gr2.index, gr2.slot, gr2.ckpt))
    ∧ ∀ s die x c p u gr, s.nextCont die = some (x, c, p, none) → (s.headTaken die).restore x c p = (u, .ok gr) →
        ∃ t gr', exec (.groupResume die) s = .next t ∧ SameMemory u t ∧ t.grp (64 * p.core + p.slot) = some gr'
          ∧ gr' = gr ∧ gr.index = c.index ∧ gr.slot = c.slot ∧ gr.ckpt = c.ckpt ∧ gr.restarts = c.restarts
          ∧ gr.retried = c.retried ∧ gr.replayAns = c.ckpt.answers ∧ (gr.vp = none)
          ∧ (t.die die).waiting = (s.die die).waiting.tail
          ∧ ∀ y, u.grid x.id x.ctx = some y → (t.grid x.id x.ctx).map Grid.conts = some (y.conts.filter fun z => z.index != c.index)

/-- A trap ends the task of its group: its version is discarded, and once its report is taken nothing of the group stays on its core and the policy decides: DROP frees its slots, RETRY leaves a continuation of the last commit point that executes again once, HALT halts the context. An uncorrectable error restarts a versioned task elsewhere, three times at most; it halts an unversioned wave with its loads discarded, and ends a sequencer's task. Copies that differ make a third run on another cluster. A serviced replay entry becomes an access in flight of the lanes that translate, or ends its task. -/
def Obligations.TasksEndRetryAndRestart : Prop :=
  (∀ (s : State) g (gr : Group) r, s.grp g = some gr → gr.twin = none → g < 262144 → gr.grid < 2 ^ 32 →
        let key := gridKey gr.ctx gr.grid
        let policy := match s.context gr.ctx with | some x => x.policy | none => 0
        let t := s.endTask g r
        let taken := (s.takeReport r.core r).2 = true
        SameMemory s t ∧ t.issuing = none ∧ t.free = s.free + 1
          ∧ (∀ o ∈ t.copies, agIsOf g o.ag = false) ∧ (∀ o ∈ t.xops, o.g ≠ g) ∧ (∀ o ∈ t.reqs, agIsOf g o.ag = false)
          ∧ (∀ o ∈ t.memops, agIsOf g o.ag = false) ∧ (∀ o ∈ t.resvs, o.g ≠ g)
          ∧ (taken → t.grp g = none)
          ∧ (¬ taken → r ∈ (t.coal r.core).waiting ∧ ∃ y, t.grp g = some y ∧ y.halting = some (r, false) ∧ y.version = []
              ∧ y.mq = [])
          ∧ (taken → policy = 1 → (∀ x, s.context gr.ctx = some x → (t.context gr.ctx).map Ctx.st = some .halted)
              ∧ ∀ g', (t.grp g').all (fun y => y.ctx != gr.ctx) = true)
          ∧ (taken → policy = 2 → gr.retried = false → ∀ x, s.gridOf key = some x → (∀ c ∈ x.conts, c.index ≠ gr.index) →
              t.continues key gr.index fun c => c.ckpt = gr.ckpt ∧ c.hold = 1 ∧ c.slot = gr.slot)
          ∧ (taken → (policy ≠ 1 ∧ (policy ≠ 2 ∨ gr.retried = true)) →
              (∀ q ∈ t.queries, q.2.isOf gr = false) ∧ (∀ g', g' ≠ g → t.grp g' = s.grp g')
              ∧ ∀ x, s.gridOf key = some x → (t.gridOf key).map (fun y => (y.live, y.usedSlots, y.conts))
                = some (x.live - 1, x.usedSlots.filter (· != gr.slot), x.conts)))
    ∧ (∀ s key i x c, s.gridOf key = some x → x.conts.find? (fun c => c.index == i) = some c →
        (c.hold = 1 → s.ctxRuns x.ctx = true → ∃ t, exec (.taskRetry key i) s = .next t ∧ SameMemory s t
          ∧ t.continues key i fun z => z = { c with hold := 0, retried := true })
        ∧ (c.hold = 2 → s.ctxRuns x.ctx = true → ∃ t, exec (.taskRestart key i) s = .next t ∧ SameMemory s t
          ∧ t.continues key i fun z => z = { c with hold := 0, restarts := c.restarts + 1 })
        ∧ (c.hold ≠ 1 → exec (.taskRetry key i) s = .next s)
        ∧ (c.hold ≠ 2 → exec (.taskRestart key i) s = .next s))
    ∧ (∀ (s : State) ag (gr : Group), s.grp (agPlace ag) = some gr → gr.twin = none → gr.grid < 2 ^ 32 →
        let g := agPlace ag
        let key := gridKey gr.ctx gr.grid
        let lost := gr.versioned && gr.early
        let at' := gr.pcOf ag
        let rec' := gr.report g cUncorrectable (if lost then 0x04 else 0) at'.1 at'.2.1 none 0 at'.2.2
        let taken := (s.takeReport rec'.core rec').2 = true
        (gr.hasAgent ag = false → exec (.uncorrectableError ag) s = .next s)
        ∧ (gr.hasAgent ag = true → gr.versioned = true → lost = false → ¬ taken →
            ∃ t y, exec (.uncorrectableError ag) s = .next t ∧ SameMemory s t ∧ t.grp g = some y
              ∧ y.halting = some (rec', decide (gr.restarts < 3)) ∧ y.version = [] ∧ rec' ∈ (t.coal rec'.core).waiting)
        ∧ (gr.hasAgent ag = true → gr.versioned = true → lost = false → taken → gr.restarts < 3 →
            ∃ t, exec (.uncorrectableError ag) s = .next t ∧ SameMemory s t ∧ t.gone g
              ∧ ∀ x, s.gridOf key = some x → (∀ c ∈ x.conts, c.index ≠ gr.index) →
                  t.continues key gr.index fun c => c.hold = 2 ∧ c.ckpt = gr.ckpt ∧ clusterOf (coreOf g) ∈ c.avoid)
        ∧ (gr.hasAgent ag = true → gr.versioned = true → lost = false → taken → 3 ≤ gr.restarts →
            ∃ t, exec (.uncorrectableError ag) s = .next t ∧ SameMemory s t ∧ t.grp g = none)
        ∧ (∀ w sp, ag = .split g w sp → gr.hasAgent ag = true → (gr.versioned = false ∨ lost = true) →
            ∃ t wv, exec (.uncorrectableError ag) s = .next t ∧ SameMemory s t ∧ t.waveAt g w = some wv
              ∧ wv.live = false ∧ wv.halted = true ∧ wv.parked = none
              ∧ (∀ o ∈ t.memops, ¬ (o.kind.isLoad = true ∧ ∃ k, o.ag = .split g w k))
              ∧ (∀ k v, k ≠ w → t.waveAt g k = some v → v.live = true → v.abn = some w)
              ∧ ∀ x, s.gridOf key = some x → (t.gridOf key).map (fun y => y.gbar.abandoned) = some (some w))
        ∧ (ag = .seq g → gr.hasAgent ag = true → (gr.versioned = false ∨ lost = true) →
            ∃ t, exec (.uncorrectableError ag) s = .next t ∧ SameMemory s t ∧ (taken → t.grp g = none)))
    ∧ (∀ s g gr k o, s.grp g = some gr → gr.cls = 2 → gr.twin = some k → s.grp k = some o → k ≠ g → gr.grid < 2 ^ 32 →
        s.ready Group.atPoint g = true → s.ready Group.atPoint k = true →
        let sum := fun (m : SMap DWord) => (m.map Prod.snd).sum
        (sum gr.sig = sum o.sig → s.ready Group.ended g = false →
          exec (.redundantThirdRun g) s = .next s)
        ∧ (sum gr.sig ≠ sum o.sig → gr.restarts < 3 → ∃ t, exec (.redundantThirdRun g) s = .next t ∧ SameMemory s t
            ∧ t.gone g ∧ t.gone k ∧ ∀ x, s.gridOf (gridKey gr.ctx gr.grid) = some x →
                (∀ c ∈ x.conts, c.index ≠ gr.index) → t.continues (gridKey gr.ctx gr.grid) gr.index fun c =>
                  c.restarts = gr.restarts + 1 ∧ clusterOf (coreOf g) ∈ c.avoid ∧ clusterOf (coreOf k) ∈ c.avoid
                    ∧ c.ckpt = gr.ckpt ∧ c.hold = 0)
        ∧ (sum gr.sig ≠ sum o.sig → 3 ≤ gr.restarts → exec (.redundantThirdRun g) s
            = .next (s.endTask g (gr.report g cRedundancy 0 0 false none 0 []))))
    ∧ ∀ s core id r failed u rs, (s.core core).replay.find? (fun r => r.id == id) = some r → r.svc = some failed →
        ((s.core core).replay.takeWhile fun y => y.id != id).any (fun y => y.ctx == r.ctx && y.page == r.page) = false →
        s.retranslate core r failed = (u, rs) →
        let g := agPlace r.ag
        let data := fun l => ((r.lanes.find? fun x => x.lane == l).map LaneAcc.data).getD 0
        let v := if (lanesOf data rs).any (fun x => x.tgt.isSys) then u.demote g 3 else u
        let goes := fun (t : State) => ∃ op, t.memops = v.memops ++ [op] ∧ op.id = v.nextId ∧ op.ag = r.ag ∧ op.kind = .st
          ∧ op.size = r.size ∧ op.lanes = lanesOf data rs ∧ op.replayed = true
        (∀ cause va lane, trapOf rs = some (.trap cause (some va) lane) → (u.grp g).isSome = true → ∃ q : FRec,
            (q.cause, q.va, q.hasVa, q.aux) = (cause, va, true, lane) ∧ exec (.replayEntryReplay core id) s
              = .next ((u.modCore core fun k => { k with replay := k.replay.filter fun x => x.id != id }).endTask g q))
        ∧ (failed = true → ∀ x, r.lanes.head? = some x →
            trapOf rs = some (.trap cProtection (some (x.va % 2 ^ 64)) x.lane))
        ∧ (trapOf rs = none → u.replayStalls g core r = true →
            exec (.replayEntryReplay core id) s = .next s)
        ∧ (rs ≠ [] → (∀ y ∈ rs, ∃ z, y.2.2 = .ok z) → u.replayStalls g core r = false →
            ∃ t, exec (.replayEntryReplay core id) s = .next t ∧ SameMemory v t ∧ goes t
              ∧ ∀ y ∈ (t.core core).replay, y.id ≠ id)
        ∧ (trapOf rs = none → absentOf rs ≠ [] → u.replayStalls g core r = false → v = u →
            ∃ t, exec (.replayEntryReplay core id) s = .next t ∧ SameMemory v t ∧ (lanesOf data rs ≠ [] → goes t)
              ∧ (lanesOf data rs = [] → t.memops = v.memops)
              ∧ ((∃ y ∈ (u.core core).replay, y.id = id) → ∃ y ∈ (t.core core).replay, y.id = id ∧ y.svc = none
                  ∧ y.lanes = r.lanes.filter fun x => (absentOf rs).any fun p => p.1 == x.lane))

/-- A write of a command register that is BUSY changes nothing, one with a reserved bit sets BAD alone. An invalidation drops every cached leaf and walk entry that it covers and is done once no covered access is in flight. A service lets everything that waits in its range go on, a failed one ends the waiting tasks; an agent whose report has not been taken waits on, and the service is done when every such report has been. Before firmware has created context 0 every other command sets BAD. A context is created from its descriptor, drained, reset by force, resumed, destroyed and its grids released; a drain is complete with no group resident, and its deadline forces it. A core whose slice is over closes to its context. -/
def Obligations.TranslationServiceAndContextCommands : Prop :=
  (∀ (s : State) (ctx : BitVec 12) (va : BitVec 32) (r : BitVec 16) (i : Instr) (k : Nat) (c : BitVec 12),
        (i, k, c) ∈ [(Instr.xinvPage ctx va r, 0, ctx), (.xinvContext ctx va r, 1, ctx), (.xinvAll va r, 2, 0)] →
        let x : XScope := if k = 0 then .page ctx.toNat (va.toNat * 65536) else if k = 1 then .context ctx.toNat else .all
        (s.pkg.xinv.busy = true → exec i s = .next s)
        ∧ (s.pkg.xinv.busy = false → r ≠ 0 →
            exec i s = .next (s.modPkg fun p => { p with xinv := { p.xinv with bad := true } }))
        ∧ (s.pkg.xinv.busy = false → r = 0 → ∃ t, exec i s = .next t ∧ SameMemory s t ∧ SameRegisters s t
            ∧ t.pkg.xinv.busy = true ∧ t.pkg.xinv.bad = false ∧ xscopeOf t.pkg.xinv = x
            ∧ (∀ n, ∀ e ∈ (t.core n).tlb, x.leaf e = false) ∧ (∀ n, ∀ e ∈ (t.cluster n).tlb, x.leaf e = false)
            ∧ (∀ n, ∀ e ∈ (t.die n).wcache, x.entry e = false) ∧ ∀ e ∈ t.ttc, x.leaf e = false))
    ∧ (∀ s, (s.pkg.xinv.busy = false ∨ s.covered (xscopeOf s.pkg.xinv) = true →
          exec .xinvDone s = .next s)
        ∧ (s.pkg.xinv.busy = true → s.covered (xscopeOf s.pkg.xinv) = false → ∃ t, exec .xinvDone s = .next t
            ∧ t.pkg.xinv.busy = false ∧ SameMemory s t ∧ (∀ n, ∀ e ∈ (t.core n).tlb, (xscopeOf s.pkg.xinv).leaf e = false)
            ∧ ∀ e ∈ t.ttc, (xscopeOf s.pkg.xinv).leaf e = false))
    ∧ (∀ (s : State) (ctx : BitVec 12) (va : BitVec 32) (r : BitVec 17) (i : Instr) (failed : Bool),
        (i, failed) ∈ [(Instr.fsvcService ctx va r, false), (.fsvcFail ctx va r, true)] →
        (s.pkg.fsvc.busy = true → exec i s = .next s)
        ∧ (s.pkg.fsvc.busy = false → r ≠ 0 →
            exec i s = .next (s.modPkg fun p => { p with fsvc := { p.fsvc with bad := true } }))
        ∧ (s.pkg.fsvc.busy = false → r = 0 → ∃ t, exec i s = .next t ∧ SameMemory s t
            ∧ t.pkg.fsvc.busy = true ∧ t.pkg.fsvc.bad = false
            ∧ (failed = false → SameRegisters s t
                ∧ (∀ g gr, s.grp g = some gr → gr.ctx = ctx.toNat → gr.halting = none →
                    s.untaken (coreOf g) ctx.toNat va.toNat = false →
                    (∀ w wv, t.waveAt g w = some wv → wv.live = true → inRange va.toNat wv.parked = false)
                    ∧ (∀ q, t.seqAt g = some q → q.live = true → inRange va.toNat q.parked = false)
                    ∧ (t.grp g).all (fun y => !inRange va.toNat y.slotWait) = true)
                ∧ (∀ g, s.untaken (coreOf g) ctx.toNat va.toNat = true → t.grp g = s.grp g)
                ∧ ∀ core, s.untaken core ctx.toNat va.toNat = false → ∀ r ∈ (s.core core).replay, r.ctx = ctx.toNat →
                    r.page = va.toNat → ∃ r' ∈ (t.core core).replay, r'.id = r.id ∧ r'.svc ≠ none)
            ∧ (failed = true → ∀ g gr, s.grp g = some gr → gr.ctx = ctx.toNat → gr.halting = none →
                s.untaken (coreOf g) ctx.toNat va.toNat = false → gr.waitsIn va.toNat ≠ none →
                t.grp g = none ∨ ∃ y, t.grp g = some y ∧ y.halting ≠ none)))
    ∧ (∀ s, let page := s.pkg.fsvc.arg.toNat
        let ctx := s.pkg.fsvc.ctx.toNat
        ((s.pkg.fsvc.busy = false ∨ ∃ u, s.untaken u ctx page = true) → exec .fsvcDone s = .next s)
        ∧ (s.pkg.fsvc.busy = true → (∀ u, s.untaken u ctx page = false) → exec .fsvcDone s
            = .next (s.modPkg fun p => { p with fsvc := { p.fsvc with busy := false } })))
    ∧ (∀ (s : State) (ctx : BitVec 12) (arg : BitVec 42) (r : BitVec 5),
        let c := ctx.toNat
        let bad := s.modPkg fun p => { p with ctxcmd := { p.ctxcmd with bad := true } }
        let ready := s.pkg.up = true ∧ s.pkg.ctxcmd.busy = false ∧ r = 0
        let starts := ctx = 0 ∧ Config.firmwareVerified = true
        let first := starts ∧ s.pkg.ctxcmd.busy = false ∧ r = 0
        let took := fun (k : Nat) (busy : Bool) (a : BitVec 42) (t : State) =>
          t.pkg.ctxcmd = ⟨busy, false, BitVec.ofNat 3 k, ctx, a⟩ ∧ SameMemory s t
        let st := fun (t : State) => (t.context c).map Ctx.st
        (∀ i ∈ [Instr.ctxCreate ctx arg r, .ctxDrain ctx r, .ctxDrainForced ctx r, .ctxResume ctx arg r, .ctxDestroy ctx arg r,
            .ctxReleaseGrid ctx arg r],
          let may := s.pkg.up = true ∨ (i = .ctxCreate ctx arg r ∧ starts)
          (¬ may → exec i s = .next bad)
          ∧ (may → s.pkg.ctxcmd.busy = true → exec i s = .next s)
          ∧ (may → s.pkg.ctxcmd.busy = false → r ≠ 0 → exec i s = .next bad))
        ∧ (∀ d, (ready ∨ first) → s.context c = none → arg.toNat % 64 = 0 → s.pkg.dieLive (arg.toNat / 2 ^ 38) = true →
            descriptorOf c s.clk (memRead s.mem arg.toNat 64) = some d →
            ∃ t, exec (.ctxCreate ctx arg r) s = .next t ∧ took 1 false arg t ∧ t.context c = some d ∧ d.st = .running
              ∧ t.pkg.up = true ∧ SameRegisters s t)
        ∧ ((ready ∨ first) → (s.context c ≠ none ∨ arg.toNat % 64 ≠ 0 ∨ s.pkg.dieLive (arg.toNat / 2 ^ 38) = false
            ∨ descriptorOf c s.clk (memRead s.mem arg.toNat 64) = none) → exec (.ctxCreate ctx arg r) s = .next bad)
        ∧ (∀ x, ready → s.context c = some x → ∃ t, exec (.ctxDrain ctx r) s = .next t ∧ took 2 true 0 t
            ∧ SameRegisters s t ∧ st t = some (.draining s.clk)
            ∧ (∀ n, ∀ y ∈ (t.die n).waiting, y.1 / 2 ^ 32 ≠ c) ∧ ∀ z ∈ t.grids, z.ctx = c → ∀ k ∈ z.conts, k.hold ≠ 3)
        ∧ (∀ x, ready → s.context c = some x → ∃ t, exec (.ctxDrainForced ctx r) s = .next t ∧ took 2 false 1 t
            ∧ st t = some .drained ∧ (∀ g, (t.grp g).all (fun y => y.ctx != c) = true)
            ∧ ∀ g gr z, s.grp g = some gr → gr.ctx = c → gr.grid < 2 ^ 32 → s.gridOf (gridKey c gr.grid) = some z →
                t.continues (gridKey c gr.grid) gr.index fun _ => True)
        ∧ (∀ x, ready → s.context c = some x → arg = 0 → (x.st = .drained ∨ x.st = .halted) →
            ∃ t, exec (.ctxResume ctx arg r) s = .next t ∧ took 3 false 0 t ∧ st t = some .running ∧ SameRegisters s t)
        ∧ (∀ x, ready → s.context c = some x → ¬ (arg = 0 ∧ (x.st = .drained ∨ x.st = .halted)) →
            exec (.ctxResume ctx arg r) s = .next bad)
        ∧ (∀ x, ready → s.context c = some x → arg = 0 → ∃ t, exec (.ctxDestroy ctx arg r) s = .next t ∧ took 4 false 0 t
            ∧ t.context c = none ∧ (∀ y ∈ t.grids, y.ctx ≠ c) ∧ (∀ g, (t.grp g).all (fun y => y.ctx != c) = true)
            ∧ (∀ n, ∀ e ∈ (t.core n).tlb, e.ctx ≠ c) ∧ ∀ e ∈ t.ttc, e.ctx ≠ c)
        ∧ (∀ x y, ready → s.context c = some x → s.grid arg.toNat c = some y →
            (y.heldHost = true → ∃ t, exec (.ctxReleaseGrid ctx arg r) s = .next t ∧ took 5 false arg t
              ∧ (t.grid arg.toNat c).map Grid.heldHost = some false ∧ SameRegisters s t)
            ∧ (y.heldHost = false → exec (.ctxReleaseGrid ctx arg r) s = .next bad))
        ∧ (∀ i ∈ [Instr.ctxDrain ctx r, .ctxDrainForced ctx r, .ctxResume ctx arg r, .ctxDestroy ctx arg r,
            .ctxReleaseGrid ctx arg r], ready → s.context c = none → exec i s = .next bad))
    ∧ (∀ s c x n, s.context c = some x → x.st = .draining n →
        ((∃ y ∈ s.groups, y.2.ctx = c) → exec (.drainComplete c) s = .next s)
        ∧ ((∀ y ∈ s.groups, y.2.ctx ≠ c) → ∃ t, exec (.drainComplete c) s = .next t ∧ SameMemory s t ∧ SameRegisters s t
            ∧ (t.context c).map Ctx.st = some .drained
            ∧ (s.pkg.ctxcmd.cmd = 2 → s.pkg.ctxcmd.ctx.toNat = c → t.pkg.ctxcmd.busy = false))
        ∧ ∀ core, ((s.clk < n + x.deadline ∨ ∀ y ∈ s.groups, y.2.ctx = c → coreOf y.1 ≠ core) →
              exec (.drainDeadline c core) s = .next s)
            ∧ (n + x.deadline ≤ s.clk → (∃ y ∈ s.groups, y.2.ctx = c ∧ coreOf y.1 = core) →
                ∃ t, exec (.drainDeadline c core) s = .next t ∧ SameMemory s t
                  ∧ (t.context c).map Ctx.st = some .drained ∧ ∀ g, (t.grp g).all (fun y => y.ctx != c) = true))
    ∧ (∀ s c x, s.context c = some x → x.st = .halted →
        let busy := s.pkg.ctxcmd.busy = true ∧ s.pkg.ctxcmd.cmd = 2 ∧ s.pkg.ctxcmd.ctx.toNat = c
        (¬ busy → exec (.drainComplete c) s = .next s)
        ∧ (busy → exec (.drainComplete c) s = .next (s.modPkg fun p => { p with ctxcmd := { p.ctxcmd with busy := false } })))
    ∧ (∀ (s : State) core c n x, (s.core core).slice = some (c, n, false) → s.context c = some x →
        let due := x.slice ≠ 0 ∧ n + x.slice ≤ s.clk ∧ (∃ y ∈ s.groups, coreOf y.1 = core ∧ y.2.ctx = c)
          ∧ ∃ y ∈ (s.die (dieOfCore core)).waiting, y.1 / 2 ^ 32 ≠ c
        (¬ due → exec (.timeSliceExpiry core) s = .next s)
        ∧ (due → ∃ t, exec (.timeSliceExpiry core) s = .next t ∧ (t.core core).slice = some (c, n, true)
            ∧ SameMemory s t ∧ SameRegisters s t))
    ∧ (∀ s g w gr wv, s.grp g = some gr → gr.waves[w]? = some wv → ∀ sp,
        let waits := s.holdUntaken (coreOf g) gr false [wv.place]
        ((wv.held = false ∨ waits = true) → exec (.debugRelease (.split g w sp)) s = .next s)
        ∧ (wv.held = true → waits = false → ∃ t, exec (.debugRelease (.split g w sp)) s = .next t ∧ SameMemory s t ∧ SameRegisters s t
            ∧ (t.waveAt g w).map Wave.held = some false))
    ∧ ∀ s g gr, s.grp g = some gr →
        let q := gr.seq
        let waits := s.holdUntaken (coreOf g) gr true []
        ((q.held = false ∨ waits = true) → exec (.debugRelease (.seq g)) s = .next s)
        ∧ (q.held = true → waits = false → ∃ t, exec (.debugRelease (.seq g)) s = .next t ∧ SameMemory s t ∧ SameRegisters s t
            ∧ (t.seqAt g).map Seq.held = some false)

/-- A write of pkg.freq is refused outside 4 to 16, ignored while BUSY, else starts a handshake: a die reports once nothing of it is in flight, the clock stops with the last report and restarts one clk later at the new step, or the handshake is abandoned. A freeze stops the clock and holds a handshake before its fifth phase, a thaw restarts it. A measurement of power moves the average, and firmware lowers the step at the latest after RESP, or raises it after one WIN. The port, record, counter and retirement events change what their rules name and no memory or register of a program. The loss of a host link forces the reset of every context, a host access reads or writes the bytes it names. A module reset leaves the reset state but for what non-volatile storage and the outside keep. -/
def Obligations.ClockPowerPortsRecordsAndHost : Prop :=
  (∀ (s : State) (k : BitVec 8),
        let p := s.pkg
        let same := fun (t : State) => SameMemory s t ∧ SameRegisters s t ∧ t.clk = s.clk
        let goes := fun (i : Instr) (r : State → Prop) => ∃ t, exec i s = .next t ∧ same t ∧ r t
        (p.freqBusy = true → exec (.freqChange k) s = .next s)
        ∧ (p.freqBusy = false → (k < 4 ∨ 16 < k) →
            exec (.freqChange k) s = .next (s.modPkg fun p => { p with freqBad := true }))
        ∧ (p.freqBusy = false → 4 ≤ k → k ≤ 16 → s.askedStep k ≠ p.freqCur → goes (.freqChange k) fun t =>
            t.pkg.freqBusy = true ∧ t.pkg.freqBad = false ∧ t.pkg.freqAbort = false ∧ t.pkg.freqTgt = s.askedStep k
            ∧ t.pkg.freqCur = p.freqCur ∧ t.pkg.hs = .quiesce (s.askedStep k).toNat 0 ∧ t.pkg.pwr.want = k)
        ∧ (p.freqBusy = false → 4 ≤ k → k ≤ 16 → s.askedStep k = p.freqCur → goes (.freqChange k) fun t =>
            t.pkg.freqBusy = false ∧ t.pkg.hs = p.hs ∧ t.pkg.freqCur = p.freqCur)
        ∧ (∀ n got die, p.hs = .quiesce n got →
            (bit p.liveDies die = false ∨ bit got die = true ∨ s.issuing.isSome = true ∨ s.dieBusy die = true →
              exec (.dieQuiesced die) s = .next s)
            ∧ (bit p.liveDies die = true → bit got die = false → s.issuing = none → s.dieBusy die = false →
                goes (.dieQuiesced die) fun t =>
                  if got ||| BitVec.ofNat 19 (2 ^ die) = p.liveDies then t.pkg.hs = .relock n ∧ t.clkStop = true
                  else t.pkg.hs = .quiesce n (got ||| BitVec.ofNat 19 (2 ^ die)) ∧ t.clkStop = s.clkStop)
            ∧ goes .handshakeTimeout fun t => t.pkg.hs = .idle ∧ t.pkg.freqBusy = false ∧ t.pkg.freqAbort = true
                ∧ t.pkg.freqCur = p.freqCur)
        ∧ (∀ n, p.hs = .relock n → ∃ t, exec .pllRelocked s = .next t ∧ SameMemory s t ∧ SameRegisters s t
            ∧ t.pkg.freqCur = BitVec.ofNat 8 n
            ∧ (s.frozen = true → t.pkg.hs = .relocked ∧ t.pkg.freqBusy = p.freqBusy ∧ t.clk = s.clk ∧ t.clkStop = s.clkStop)
            ∧ (s.frozen = false → t.pkg.hs = .idle ∧ t.pkg.freqBusy = false ∧ t.clk = s.clk + 1 ∧ t.clkStop = false
                ∧ t.pkg.pwr.cap = p.pwr.capWait.getD p.pwr.cap))
        ∧ (goes .freeze fun t => t.frozen = true ∧ t.clkStop = true ∧ t.pkg.frz = true
            ∧ ∀ n got, p.hs = .quiesce n got → t.pkg.hs = .idle ∧ t.pkg.freqBusy = false ∧ t.pkg.freqAbort = true)
        ∧ (∃ t, exec .thaw s = .next t ∧ SameMemory s t ∧ SameRegisters s t ∧ t.frozen = false ∧ t.pkg.frz = false
            ∧ (s.frozen = true → (∀ n, p.hs ≠ .relock n) → t.clk = s.clk + 1 ∧ t.clkStop = false)
            ∧ (s.frozen = true → p.hs = .relocked → t.pkg.hs = .idle ∧ t.pkg.freqBusy = false)
            ∧ (∀ n, s.frozen = true → p.hs = .relock n → t.clk = s.clk ∧ t.clkStop = s.clkStop)
            ∧ (s.frozen = false → t.clk = s.clk ∧ t.clkStop = s.clkStop))
        ∧ (∀ die, (s.frozen = false → exec (.stateReadout die) s = .next s)
            ∧ (s.frozen = true → exec (.stateReadout die) s = .next { s with outbox := s.outbox ++ [.readout die s.clk] }))
        ∧ (∀ w : BitVec 16,
            let xs := (w :: p.pwr.samples).take (10 * p.pwr.win.toNat)
            let sum := xs.foldl (fun n x => n + x.toNat) 0
            let above := p.pwr.cap.toNat * xs.length < sum
            let below := sum * 100 ≤ p.pwr.cap.toNat * 95 * xs.length
            let idle := s.duty 3 = true ∨ s.held = true
            goes (.powerSample w) fun t =>
              t.pkg.pwr.draw = BitVec.ofNat 16 (sum / xs.length) ∧ t.pkg.pwr.above = decide above
              ∧ t.pkg.pwr.floor = (decide above && p.freqCur == 4) ∧ t.pkg.pwr.cap = p.pwr.cap ∧ t.pkg.freqCur = p.freqCur
              ∧ (idle → t.pkg.freqBusy = p.freqBusy ∧ t.pkg.hs = p.hs ∧ t.pkg.freqTgt = p.freqTgt ∧ t.pkg.pwr.ceil = p.pwr.ceil)
              ∧ (¬ idle → above → 4 < p.freqCur → 10 * p.pwr.resp.toNat ≤ p.pwr.overFor + 1 →
                  t.pkg.freqBusy = true ∧ 4 ≤ t.pkg.freqTgt ∧ t.pkg.freqTgt < p.freqCur
                  ∧ (s.duty 5 = true → t.pkg.pwr.ceil = t.pkg.freqTgt))
              ∧ (¬ idle → below → 10 * p.pwr.win.toNat ≤ p.pwr.lowFor + 1 →
                  (s.duty 5 = false → p.freqCur < p.pwr.want →
                    t.pkg.freqBusy = true ∧ p.freqCur < t.pkg.freqTgt ∧ t.pkg.freqTgt ≤ p.pwr.want)
                  ∧ (s.duty 5 = true → p.pwr.ceil < 16 → p.pwr.ceil < t.pkg.pwr.ceil ∧ t.pkg.pwr.ceil ≤ 16)))
        ∧ (∀ n q, p.ports[n]? = some q → p.portLive n = true →
            let port := fun (i : Instr) (r : Port → Prop) => goes i fun t => ∃ r', t.pkg.ports[n]? = some r' ∧ r r'
              ∧ ∀ m, m ≠ n → t.pkg.ports[m]? = p.ports[m]?
            (∀ ok, q.up = true → port (.flitReplay n ok) fun r =>
              r.replays = (if q.replays = 0xffff then q.replays else q.replays + 1) ∧ r.fails = if ok then 0 else q.fails + 1)
            ∧ (8 ≤ q.fails → q.retrain = false → port (.portRetrain n) fun r => r.retrain = true ∧ r.up = false ∧ r.fails = 0)
            ∧ (q.fails < 8 → exec (.portRetrain n) s = .next s)
            ∧ ((q.up || q.retrain) = true → port (.portDown n) (fun r => r.up = false ∧ r.retrain = false)
                ∧ ∃ t, exec (.portDown n) s = .next t ∧ ∀ r, r ∈ t.pkg.routes ↔ r ∈ p.routes ∧ r.2 ≠ n)
            ∧ (q.up = false → port (.linkTrained n) fun r => r.up = true ∧ r.retrain = false ∧ r.fails = 0)
            ∧ (∀ l,
                let cnt := q.lanecnt.set l (BitVec.ofNat 16 (min 0xffff ((q.lanecnt.getD l 0).toNat + 1)))
                let moves := l < 8 ∧ q.splane = 0xf ∧ q.lanecnt.getD l 0 ≤ q.spthr ∧ q.spthr < cnt.getD l 0
                (q.up = true → l < 9 → port (.laneSpare n l) fun r => r.lanecnt = cnt
                  ∧ (¬ moves → r.splane = q.splane ∧ r.spreq = q.spreq)
                  ∧ (moves → if s.duty 4 then r.spreq = true ∧ r.splane = 0xf else r.splane = BitVec.ofNat 4 l))
                ∧ (q.up = false ∨ 9 ≤ l → exec (.laneSpare n l) s = .next s))
            ∧ (∀ l, port (.laneSpareGo n l) fun r => r.spsel = BitVec.ofNat 4 l
                ∧ (r.splane, r.spreq) = if q.spreq = true ∧ q.splane = 0xf ∧ BitVec.ofNat 4 l < 8 then (BitVec.ofNat 4 l, false)
                  else (q.splane, q.spreq))
            ∧ (let second := q.splane ≠ 0xf ∧ ∃ l, l < 9 ∧ l ≠ q.splane.toNat ∧ q.spthr < q.lanecnt.getD l 0;
                (second → q.half = false → port (.portHalfWidth n) fun r => r.half = true ∧ r.lanecnt = q.lanecnt)
                ∧ (¬ second ∨ q.half = true → exec (.portHalfWidth n) s = .next s))
            ∧ (q.winStart + 2 ^ 24 ≤ s.clk → port (.laneCountWindow n) fun r => (∀ c ∈ r.lanecnt, c = 0) ∧ r.winStart = s.clk)
            ∧ (s.clk < q.winStart + 2 ^ 24 → exec (.laneCountWindow n) s = .next s)
            ∧ (∀ v : DWord, bit v 31 = false → port (.registerWrite (.dlkCtl n) v) fun r =>
                r.spthr = v.extractLsb' 0 16 ∧ r.spsel = v.extractLsb' 27 4 ∧ r.splane = q.splane)
            ∧ ∀ k up, goes (.fabricRouteUpdate k up n) fun t =>
                ∀ r, r ∈ t.pkg.routes ↔ (r ∈ p.routes ∧ r ≠ (k, n)) ∨ (up = true ∧ r = (k, n)))
        ∧ (∀ x, x < 2 → bit p.livex x = true → p.hostUp.length = 2 →
            (p.hostUp.getD x false = true → s.held = false → p.up = true → (∀ c y, s.context c = some y → c < 4096) →
              ∃ t, exec (.hostLinkDown x) s = .next t ∧ SameMemory s t ∧ t.pkg.hostUp.getD x true = false
                ∧ (∀ c y, t.context c = some y → y.st = .drained)
                ∧ ∀ y, s.ctxs.getLast? = some y → t.pkg.ctxcmd = ⟨false, false, 2, BitVec.ofNat 12 y.1, 1⟩)
            ∧ (p.hostUp.getD x false = true → s.held = true → goes (.hostLinkDown x) fun t =>
                t.pkg.hostUp.getD x true = false ∧ t.ctxs = s.ctxs
                ∧ t.ingress = s.ingress ++ s.ctxs.map fun c => .registerWrite .pkgCtxcmd (forcedDrain c.1))
            ∧ (∀ cxl, p.hostUp.getD x false = false → p.hostCxl.length = 2 → goes (.hostLinkReturn x cxl) fun t =>
                t.pkg.hostUp.getD x false = true ∧ t.pkg.hostCxl.getD x false = cxl)
            ∧ (∀ q k, p.xq[x]? = some (q, k) → goes (.xqFreeRecord x) fun t =>
                t.pkg.xq[x]? = some (if q = [] then (q, k) else (q.tail, (k + 1) % 1024)))
            ∧ (∀ ms, p.hostMs.length = 2 → goes (.hostMemoryAccess (.timeout x ms)) fun t =>
                t.pkg.hostMs[x]? = if 1 ≤ ms ∧ ms ≤ 64 then some ms else p.hostMs[x]?)
            ∧ ∀ ofs n, p.hostLink false = true → ofs + n ≤ 1024 * 128 → ∃ bs : List Byte, bs.length = n
                ∧ (goes (.hostMemoryAccess (.eventRead x ofs n)) fun t => t.outbox = s.outbox ++ [.event x ofs bs] ∧ t.pkg = p)
                ∧ ∀ k, k < n → ∀ q h r, p.xq[x]? = some (q, h) → q[((ofs + k) / 128 + 1024 - h) % 1024]? = some r →
                    bs[k]? = some (r.bytes.getD ((ofs + k) % 128) 0))
        ∧ (let no : Host.Outcome State Fault Refusal := .next s;
            (∀ a n, exec (.hostMemoryAccess (.read a n)) s = if p.hostLink true = true ∧ p.hasDram a n = true then
              .next { s with outbox := s.outbox ++ [.host a (memRead s.mem a n)] } else no)
            ∧ (∀ a bs, (p.hostLink true = true → p.hasDram a bs.length = true →
                  ∃ t, exec (.hostMemoryAccess (.write a bs)) s = .next t ∧ (∀ k < bs.length, t.byteAt (a + k) = bs.getD k 0)
                    ∧ (∀ b, b < a ∨ a + bs.length ≤ b → t.byteAt b = s.byteAt b) ∧ ∀ b, t.sysByteAt b = s.sysByteAt b)
                ∧ (¬ (p.hostLink true = true ∧ p.hasDram a bs.length = true) → exec (.hostMemoryAccess (.write a bs)) s = no))
            ∧ (∀ a n, exec (.hostMemoryAccess (.sysRead a n)) s
                = .next { s with outbox := s.outbox ++ [.host a (memRead s.sys a n)] })
            ∧ (∀ a bs, ∃ t, exec (.hostMemoryAccess (.sysWrite a bs)) s = .next t
                ∧ (∀ k < bs.length, t.sysByteAt (a + k) = bs.getD k 0)
                ∧ (∀ b, b < a ∨ a + bs.length ≤ b → t.sysByteAt b = s.sysByteAt b) ∧ (∀ b, t.byteAt b = s.byteAt b)
                ∧ ∀ c y, t.context c = some y → c ∈ s.cellsIn a bs.length → y.cellDue = true)
            ∧ ∀ r, exec (.hostMemoryAccess (.regRead r)) s = if byPldm r = true ∨ p.hostLink false = true then
                .next { s with outbox := s.outbox ++ [.reg r (s.regWords r)] } else no)
        ∧ (∀ v, (∀ r ∈ [SysReg.pkgLive, .pwrDraw, .pwrStat], exec (.registerWrite r v) s = .next s)
            ∧ (∀ n, ∀ r ∈ [SysReg.xqStat n, .dlkStat n, .dlkLanecnt n], exec (.registerWrite r v) s = .next s)
            ∧ exec (.registerWrite .pkgFreq v) s = exec (.freqChange (v.extractLsb' 0 8)) s
            ∧ exec (.registerWrite .pkgFrz v) s = exec (if bit v 0 then .freeze else .thaw) s
            ∧ (v.extractLsb' 60 2 = (0 : BitVec 2) → exec (.registerWrite .pkgXinv v) s
                = exec (.xinvPage (v.extractLsb' 48 12) (v.extractLsb' 16 32) (v.extractLsb' 0 16)) s)
            ∧ exec (.registerWrite .pkgFsvc v) s = exec ((if bit v 61 then Instr.fsvcFail else .fsvcService)
                (v.extractLsb' 48 12) (v.extractLsb' 16 32) (v.extractLsb' 60 1 ++ v.extractLsb' 0 16)) s
            ∧ (∀ k i, (k, i) ∈ [((1 : BitVec 3), Instr.ctxCreate), (3, .ctxResume), (4, .ctxDestroy), (5, .ctxReleaseGrid)] →
                v.extractLsb' 59 3 = k → exec (.registerWrite .pkgCtxcmd v) s
                  = exec (i (v.extractLsb' 47 12) (v.extractLsb' 0 42) (v.extractLsb' 42 5)) s)
            ∧ (v.extractLsb' 59 3 = (2 : BitVec 3) →
                (v.extractLsb' 0 42 = (0 : BitVec 42) → exec (.registerWrite .pkgCtxcmd v) s
                  = exec (.ctxDrain (v.extractLsb' 47 12) (v.extractLsb' 42 5)) s)
                ∧ (v.extractLsb' 0 42 = (1 : BitVec 42) → exec (.registerWrite .pkgCtxcmd v) s
                  = exec (.ctxDrainForced (v.extractLsb' 47 12) (v.extractLsb' 42 5)) s))
            ∧ (∀ x, x < 2 → bit p.livex x = true → exec (.registerWrite (.xqHead x) v) s
                = if bit v 31 then exec (.xqFreeRecord x) s else .next s)
            ∧ (let n : Nat := v.toNat % 2 ^ 16;
                (if 1500 ≤ n ∧ n ≤ 7000 then goes (.registerWrite .pwrCap v) fun t =>
                    (t.pkg.pwr.cap, t.pkg.pwr.capWait) = if p.freqBusy then (p.pwr.cap, some (v.setWidth 16))
                      else (v.setWidth 16, p.pwr.capWait)
                  else exec (.registerWrite .pwrCap v) s = .next s)
                ∧ (if 1 ≤ n ∧ n ≤ 1000 then goes (.registerWrite .pwrWin v) fun t => t.pkg.pwr.win = v.setWidth 16
                  else exec (.registerWrite .pwrWin v) s = .next s)
                ∧ (if 1 ≤ n ∧ n ≤ 100 then goes (.registerWrite .pwrResp v) fun t => t.pkg.pwr.resp = v.setWidth 16
                  else exec (.registerWrite .pwrResp v) s = .next s))
            ∧ goes (.registerWrite .dlkPkgid v) fun t =>
                t.pkg.pkgid = if v.setWidth 16 = (0 : BitVec 16) then p.pkgid else v.setWidth 16)
        ∧ (∀ u k, SMap.get? u s.coals = some k →
            let due := ∃ o rest, k.opn = o :: rest ∧ o.1 + 256 ≤ s.clk
            let after := fun (c : Coal) (t : State) => SMap.get? u t.coals = some c
            (∀ o rest, k.opn = o :: rest → o.1 + 256 ≤ s.clk → k.closed = [] → k.waiting = [] →
                (s.bufRoom u = true → goes (.coalescerRecordClose u) fun t => after ⟨rest, [], []⟩ t
                  ∧ (t.pkg.xq = (s.enqueue (p.queueOf (bufOf u)) o.2).pkg.xq ∨ (some s.clk, o.2) ∈ t.fbuf (bufOf u)))
                ∧ (s.bufRoom u = false → goes (.coalescerRecordClose u) (after ⟨rest, [o.2], []⟩)))
            ∧ (∀ r, k.opn = [] → k.closed = [] → s.bufRoom u = true → k.waiting = [r] →
                (∀ g restart, s.haltingOn r = some (g, restart) →
                  ∃ t, exec (.coalescerRecordClose u) s = .next t ∧ SameMemory s t ∧ t.grp g = none)
                ∧ (s.haltingOn r = none → r.cause ≠ cNotPresent →
                    goes (.coalescerRecordClose u) fun t => after ⟨[(s.clk, r)], [], []⟩ t ∧ t.groups = s.groups))
            ∧ (¬ due → (k.closed = [] ∨ s.bufRoom u = false) → (∀ r ∈ k.waiting, (s.takeReport u r).2 = false) →
                exec (.coalescerRecordClose u) s = .next s))
        ∧ (∀ b n r rest, s.fbuf b = (some n, r) :: rest → n + 256 ≤ s.clk → goes (.faultBufferRetry b) fun t =>
            (s.queueRoom (p.queueOf b) = true → t.fbuf b = rest ∧ t.pkg.xq = (s.enqueue (p.queueOf b) r).pkg.xq)
            ∧ (s.queueRoom (p.queueOf b) = false → (some s.clk, r) ∈ t.fbuf b ∧ t.pkg.xq = p.xq))
        ∧ (p.halvedAt + 2 ^ 44 ≤ s.clk → goes .counterHalving fun t => t.pkg.halvedAt = s.clk ∧ ∀ c,
            let old := SMap.getD p.counters c Counters.zero
            let new := SMap.getD t.pkg.counters c Counters.zero
            new.errs = old.errs / 2 ∧ new.soft = old.soft / 2 ∧ (∀ l, SMap.getD new.lanes l 0 = SMap.getD old.lanes l 0 / 2)
              ∧ ∀ l, SMap.getD new.subs l 0 = SMap.getD old.subs l 0 / 2)
        ∧ (s.clk < p.halvedAt + 2 ^ 44 → exec .counterHalving s = .next s)
        ∧ (∀ u, p.isRetired u = false → byFirmware u = false →
            let retires := goes (.unitRetire u) fun t => t.pkg.isRetired u = true ∧ t.outbox = s.outbox
              ∧ ∀ n, u = .die n → n < 16 → bit t.pkg.livec n = false
            (s.duty 2 = false → p.atThreshold u = false → exec (.unitRetire u) s = .next s)
            ∧ (s.duty 2 = false → p.atThreshold u = true → retires)
            ∧ (s.duty 2 = true → p.atThreshold u = true → OutMsg.weak u ∉ s.outbox →
                exec (.unitRetire u) s = .next { s with outbox := s.outbox ++ [.weak u] })
            ∧ (s.duty 2 = true → (p.atThreshold u = false ∨ OutMsg.weak u ∈ s.outbox) → retires))
        ∧ (∀ u, p.isRetired u = true → exec (.unitRetire u) s = .next s)
        ∧ (∀ n, p.isRetired (.die n) = true → goes (.unitRetire (.dieBack n)) fun t =>
            t.pkg.isRetired (.die n) = false ∧ t.pkg.livec = p.livec)
        ∧ (∃ t, exec .moduleReset s = .next t ∧ t.mem = [] ∧ t.sys = s.sys ∧ t.groups = [] ∧ t.ctxs = [] ∧ t.grids = []
            ∧ t.memops = [] ∧ t.clk = 0 ∧ t.clkStop = false ∧ t.frozen = false ∧ t.issuing = none ∧ t.boot = s.boot + 1
            ∧ t.pkg.part = p.part ∧ t.pkg.up = false ∧ t.pkg.counters = p.counters
            ∧ (∀ u, t.pkg.isRetired u = p.isRetired u)
            ∧ ∀ d, d < 16 → bit t.pkg.livec d = (bit (Pkg.resetOf p.part).livec d && !p.deadDies.contains d))
        ∧ ∀ n : DWord, ∃ m, (bytesOf 8 n.toNat).IsPrefix m
            ∧ exec (.spdmAttestation n) s = .next { s with outbox := s.outbox ++ [.spdm m (Config.identitySign m)] })

/-- An instruction of fixed latency L that issues in clk t changes, of its wave, only the results on their way (and the queue positions and backing registers of its operands): until t + L every register of the wave reads as before; from t + L on the V lanes of its mask, the W register and the lanes of the predicate it writes read the result and every other register as before, where no later result writes the same register; with NW only predicates are written. Its write-back banks are held in clk t + L - 1 and the pipeline to t + occupancy. The same for G registers of the sequencer. A hold takes its latch for the split at issue, with a count of 2 and its old words, and the words enter the latch with the result: of the lanes that were not active those of the backing register as it then stands, or 0 with NW, unless a later hold's words are there. RESULT_WRITEBACK, in or after the clk in which the first result on its way is due, moves it into the register file, lowers its flag by 1, and changes no read of any register; of a wave's result the core may count one corrected error (a free value, log entry 20); before that clk it does not happen. This and every statement about a result suppose that the results on their way stand in order of their clk, as they always do. -/
def Obligations.FixedResultLands : Prop :=
  (∀ (s : State) (c : ICtx) (h : Hdr) (t : Timing) (srcs : List SrcW) (r : Res) (wv : Wave),
      s.waveAt c.g c.w = some wv → PendSorted wv.pend →
      let u : State := s.fixed c h t srcs r
      let due : Nat := c.clk + t.lat
      u = { s with groups := u.groups, cores := u.cores }
      ∧ (∀ g, g ≠ c.g → u.grp g = s.grp g) ∧ (∀ w, w ≠ c.w → u.waveAt c.g w = s.waveAt c.g w) ∧ u.seqAt c.g = s.seqAt c.g
      ∧ (∃ ps qs sps, u.waveAt c.g c.w = some { wv with pend := ps, qPos := qs, splits := sps } ∧ PendSorted ps
        ∧ ∃ ws, (⟨due, t.cls, ws, hdrFlag h, r.fst, r.ivst⟩ : Pend) ∈ ps)
      ∧ (∀ n k l, n < due → u.vLane c.g c.w n k l = s.vLane c.g c.w n k l)
      ∧ (∀ n k, n < due → u.wReg c.g c.w n k = s.wReg c.g c.w n k ∧ u.pReg c.g c.w n k = s.pReg c.g c.w n k)
      ∧ (∀ n k mask vals l, due ≤ n → h.nw = false → l < 32 → OnlyWrite r.writes (PWrite.isV k) (.v k mask vals) →
        NoneBetween wv.pend due n (PWrite.isV k) →
        u.vLane c.g c.w n k l = if bit mask l then laneOf vals l else s.vLane c.g c.w n k l)
      ∧ (∀ n k x, due ≤ n → h.nw = false → OnlyWrite r.writes (PWrite.isW k) (.w k x) →
        NoneBetween wv.pend due n (PWrite.isW k) → u.wReg c.g c.w n k = x)
      ∧ (∀ n k mask x, due ≤ n → k < 7 → OnlyWrite r.writes (PWrite.isP k) (.p k mask x) →
        NoneBetween wv.pend due n (PWrite.isP k) → u.pReg c.g c.w n k = PVal.merge mask x (s.pReg c.g c.w n k))
      ∧ (∀ n k l, h.nw = true ∨ (∀ x ∈ r.writes, PWrite.isV k x = false) → u.vLane c.g c.w n k l = s.vLane c.g c.w n k l)
      ∧ (∀ n k, h.nw = true ∨ (∀ x ∈ r.writes, PWrite.isW k x = false) → u.wReg c.g c.w n k = s.wReg c.g c.w n k)
      ∧ (∀ n k, (∀ x ∈ r.writes, PWrite.isP k x = false) → u.pReg c.g c.w n k = s.pReg c.g c.w n k)
      ∧ (c.q < (s.core c.core).quarters.length →
        (u.quarter c.core c.q).pipeFree = c.clk + t.occ
        ∧ (∀ k ∈ r.regs, h.nw = false → (due - 1, k % 4, true) ∈ (u.quarter c.core c.q).reserved)
        ∧ ∀ k old, k < 3 → h.cue.toNat = 12 + k → (s.quarter c.core c.q).latches[k]? = some old →
          ∃ new, (u.quarter c.core c.q).latches[k]? = some new
            ∧ new = { old with owner := some (c.g, c.w, c.sp), count := 2, nwHold := h.nw, wasRead := false }))
    ∧ (∀ (s : State) (c : ICtx) (h : Hdr) (t : Timing) (d : Dst) (x : DWord) (q : Seq),
      s.seqAt c.g = some q → PendSorted q.pend →
      let u : State := s.fixedG c h t d x
      let due : Nat := c.clk + t.lat
      u = { s with groups := u.groups } ∧ (∀ g, g ≠ c.g → u.grp g = s.grp g) ∧ (∀ w, u.waveAt c.g w = s.waveAt c.g w)
      ∧ (∃ ps, u.seqAt c.g = some { q with pend := ps } ∧ PendSorted ps
        ∧ ∃ ws, (⟨due, .plain, ws, hdrFlag h, 0, 0⟩ : Pend) ∈ ps)
      ∧ (∀ n k, n < due → u.gReg c.g n k = s.gReg c.g n k)
      ∧ (∀ n k, due ≤ n → h.nw = false → d = .g k → NoneBetween q.pend due n (PWrite.isG k) → u.gReg c.g n k = x)
      ∧ ∀ n k, h.nw = true ∨ d ≠ .g k → u.gReg c.g n k = s.gReg c.g n k)
    ∧ (∀ (s : State) (g w sp : Nat) (wv : Wave) (p : Pend) (ps : List Pend), s.waveAt g w = some wv → wv.pend = p :: ps →
      (p.due ≤ s.clk → ∃ u, exec (.resultWriteback (.split g w sp)) s = .next u ∧ SameWaveReads s u g w s.clk
        ∧ u = { s with groups := u.groups, cores := u.cores, free := s.free + 1, pkg := { s.pkg with counters := u.pkg.counters } }
        ∧ (∀ g', g' ≠ g → u.grp g' = s.grp g')
        ∧ (∃ wv', u.waveAt g w = some wv' ∧ wv'.pend = ps ∧ wv'.fst = wv.fst ||| p.fst
          ∧ wv'.ivst = wv.ivst ||| p.ivst.setWidth 32
          ∧ ∀ k < 12, wv'.flags.getD k 0 = wv.flags.getD k 0 - if p.flag = some k then 1 else 0)
        ∧ (∃ corrected : Bool, ∀ k, SMap.getD u.pkg.counters k Counters.zero =
          let old := SMap.getD s.pkg.counters k Counters.zero
          if k = coreOf g ∧ corrected = true then { old with soft := old.soft + 1 } else old)
        ∧ ∀ k at' lsp mask back vals old, quarterOf w < (s.core (coreOf g)).quarters.length →
          OnlyWrite p.writes (PWrite.isLatch k) (.latch k lsp at' mask back vals) →
          (s.quarter (coreOf g) (quarterOf w)).latches[k]? = some old →
          ∃ new, (u.quarter (coreOf g) (quarterOf w)).latches[k]? = some new
            ∧ (at' < old.heldIn → new = old)
            ∧ (old.heldIn ≤ at' → new = { old with vals := new.vals, resultOf := some (g, w, lsp), heldIn := at' }
              ∧ ∀ l < 32, laneOf new.vals l = if bit mask l then laneOf vals l
                else match back with
                  | some r => u.vHeld g w r l
                  | none => 0))
      ∧ (s.clk < p.due → exec (.resultWriteback (.split g w sp)) s = .next s))
    ∧ ∀ (s : State) (g : Nat) (q : Seq) (p : Pend) (ps : List Pend), s.seqAt g = some q → q.pend = p :: ps →
      (p.due ≤ s.clk → ∃ u, exec (.resultWriteback (.seq g)) s = .next u ∧ SameSeqReads s u g s.clk
        ∧ u = { s with groups := u.groups } ∧ (∀ g', g' ≠ g → u.grp g' = s.grp g')
        ∧ ∃ q', u.seqAt g = some q' ∧ q'.pend = ps
          ∧ ∀ k < 12, q'.flags.getD k 0 = q.flags.getD k 0 - if p.flag = some k then 1 else 0)
      ∧ (s.clk < p.due → exec (.resultWriteback (.seq g)) s = .next s)

/-- ISSUE_SELECT, in a quarter that has not issued in this clk, chooses the oldest promoted wave offered, if its pipeline and banks are free, and only if no wave offered is promoted the oldest whose are; the waves that could have issued lose an opportunity, unless the chosen one is promoted or pins. Every wave offered has a live split whose distance has elapsed. A wave whose pin has ended with a brk waiting for that is held first. A quarter or port whose instruction traps or parks has issued in that clk. SEQUENCER_PORT_ISSUE takes the first sequencer that can issue, from the place after the last that issued and round again. Whatever an agent issues, its pc moves past the word (past 2 bytes for a dictionary reference), its cue raises its flag by 1 beside those that fall by this clk, the other flags and every read of every register from this clk on stay as they are, and nothing changes outside the groups and the quarters; of the other groups only those whose waves lost an opportunity change. -/
def Obligations.AgentsAreChosenAndIssue : Prop :=
  (∀ (s : State) (core quarter : Nat) (c : Cand), s.issuing = none → s.quiesced = false →
      (s.quarter core quarter).lastIssue ≠ some s.clk → s.brkNow core quarter = none → c ∈ s.offers core quarter → c.pipe = true → c.banks = true →
      (c.promoted = true ∧ (∀ x ∈ s.offers core quarter, x.promoted = true → x = c ∨ x.older c = false)
        ∨ (∀ x ∈ s.offers core quarter, x.promoted = false)
          ∧ ∀ x ∈ s.offers core quarter, x.pipe = true → x.banks = true → x = c ∨ x.older c = false) →
      ∃ lost, exec (.issueSelect core quarter) s
          = .next { (s.tookTurns (s.offers core quarter)).withLatch c.g c.w with issuing := some ⟨.split c.g c.w c.sp, none, lost⟩ }
        ∧ (c.promoted = true ∨ c.pins = true → lost = [])
        ∧ (c.promoted = false → c.pins = false → ∀ g w, (g, w) ∈ lost ↔
          ∃ x ∈ s.offers core quarter, x.pipe = true ∧ x.g = g ∧ x.w = w ∧ ¬(g = c.g ∧ w = c.w)))
    ∧ (∀ (s : State) (l : List Cand), SameRegisters s (s.tookTurns l) ∧ s.tookTurns l = { s with groups := (s.tookTurns l).groups }
        ∧ ∀ g w, (∀ x ∈ l, x.g = g → x.w = w → x.ready = false ∨ x.pipe = false ∨ x.banks = false) →
          (s.tookTurns l).waveAt g w = s.waveAt g w)
    ∧ (∀ (s : State) (core quarter g w : Nat) (gr : Group) (wv : Wave), s.issuing = none → s.quiesced = false →
      (s.quarter core quarter).lastIssue ≠ some s.clk → s.brkNow core quarter = some (g, w, gr, wv) → s.waveAt g w = some wv →
      ∃ t, exec (.issueSelect core quarter) s = .next t ∧ SameMemory s t ∧ SameRegisters s t ∧ t.issuing = none
        ∧ (t.waveAt g w).map (fun y => (y.held, y.brkDue)) = some (true, none))
    ∧ (∀ (s : State) (core quarter : Nat), s.issuing.isSome = true ∨ s.quiesced = true
        ∨ (s.quarter core quarter).lastIssue = some s.clk
        ∨ (s.brkNow core quarter = none ∧ ((∀ x ∈ s.offers core quarter, x.pipe = false ∨ x.banks = false)
          ∨ ∃ c ∈ s.offers core quarter, c.promoted = true ∧ (c.pipe = false ∨ c.banks = false)
            ∧ ∀ x ∈ s.offers core quarter, x.promoted = true → x = c ∨ x.older c = false)) →
      exec (.issueSelect core quarter) s = .next s)
    ∧ (∀ (s : State) (core quarter : Nat) (c : Cand), c ∈ s.offers core quarter →
      ∃ gr wv x, (c.g, gr) ∈ s.groups ∧ gr.waves[c.w]? = some wv ∧ wv.splits[c.sp]? = some x ∧ x.live = true
        ∧ wv.live = true ∧ c.ready = true ∧ x.readyAt ≤ s.clk ∧ ∀ t, x.lastIssue = some t → t + 1 ≤ s.clk)
    ∧ (∀ (s : State) (core k : Nat), s.issuing = none → s.quiesced = false → (s.core core).seqClk ≠ some s.clk → k < 64 →
      s.seqCan (s.seqPlace core k) → (∀ j < k, ¬s.seqCan (s.seqPlace core j)) →
      exec (.sequencerPortIssue core) s = .next { s with issuing := some ⟨.seq (s.seqPlace core k), none, []⟩ })
    ∧ (∀ (s : State) (core : Nat), s.issuing.isSome = true ∨ s.quiesced = true ∨ (s.core core).seqClk = some s.clk
        ∨ (∀ k < 64, ¬s.seqCan (s.seqPlace core k)) →
      exec (.sequencerPortIssue core) s = .next s)
    ∧ (∀ (s : State) (c : ICtx) (st : Stop), s.icx = some c → st.issues = true →
      (c.uni = false → c.q < (s.core c.core).quarters.length →
        ((s.stopped c st).quarter c.core c.q).lastIssue = some s.clk)
      ∧ (c.uni = true → ((s.stopped c st).core c.core).seqClk = some s.clk ∧ ((s.stopped c st).core c.core).seqLast = c.g % 64))
    ∧ ∀ (s : State) (c : ICtx) (h : Hdr) (len : Nat), s.icx = some c →
      (∀ wv, s.waveAt c.g c.w = some wv → PendSorted wv.pend) → (∀ q, s.seqAt c.g = some q → PendSorted q.pend) →
      let u : State := s.begun c h len
      u = { s with issuing := none, groups := u.groups, cores := u.cores }
      ∧ (∀ g, g ≠ c.g → (∀ w, (g, w) ∉ c.losers) → u.grp g = s.grp g)
      ∧ (∀ g w, SameWaveReads s u g w s.clk) ∧ (∀ g, SameSeqReads s u g s.clk)
      ∧ u.pcOf c.ag = some (c.pc + if c.entry = true then 2 else len)
      ∧ (c.uni = false → ∃ wv, u.waveAt c.g c.w = some wv ∧ wv.loss = 0 ∧ wv.promoted = false ∧ wv.cur = c.sp
        ∧ (∀ k < 12, wv.flags.getD k 0 = flagNow c.wv.flags c.wv.pend s.clk k + if hdrFlag h = some k then 1 else 0)
        ∧ (wv.splits[c.sp]?).map (fun x => x.lastIssue) = some (some s.clk))
      ∧ (c.uni = true → ∃ q, u.seqAt c.g = some q ∧ q.lastIssue = some s.clk
        ∧ ∀ k < 12, q.flags.getD k 0 = flagNow c.gr.seq.flags c.gr.seq.pend s.clk k + if hdrFlag h = some k then 1 else 0)

/-- A word of each size, and of several families, written out field by field from the encodings of chapter 02, decodes to its instruction with its operands, its header and its distance; a word with reserved bits does not decode. -/
def Obligations.DecodeReadsSpecWords : Prop :=
  decodeTableWord 64 0x0115308030208043 = some (.fmaF32 ⟨0x011, 2, 2, 3, false, 15⟩ 0 (.v 8) (.v 2) (.v 3) (.v 8))
    ∧ decodeTableWord 64 0x00027fffdee05003 = some (.addI32 ⟨0, 1, 0, 7, false, 15⟩ (.v 5) (.v 5) (.imm 0xfffd))
    ∧ decodeTableWord 64 0x00027060040014d3 = some (.split ⟨0, 1, 0, 7, false, 15⟩ 1 0x40 0x60)
    ∧ decodeTableWord 64 0x00027000009f51db = some (.rdst ⟨0, 1, 0, 7, false, 15⟩ (.w 5) 9)
    ∧ decodeTableWord 64 0x00427006400006db = some (.waitImmediate ⟨4, 1, 0, 7, false, 15⟩ 100)
    ∧ decodeTableWord 32 0xc3860a01 = some (.addI32W32 3 (.v 5) (.v 6) (.v 7))
    ∧ decodeTableWord 16 0x11a4 = some (.addI32C16 (.v 3) (.v 9))
    ∧ decodeTableWord 16 0x3096 = some (.dictionaryReference 3 37)
    ∧ decodeTableWord 16 0x0004 = none ∧ decodeTableWord 16 0xb096 = none

/-- For each stream and every well-formed instruction of it, with every operand at every value the encoding admits: it has an encoding, whose bytes, at any offset that suits the word, decode to the instruction and to the length of the word. Every word that decodes is the encoding of what it decodes to. -/
def Obligations.EncodeThenDecode : Prop :=
  (∀ (st : Stream) (i : Instr), i.wf st = true → ∃ x, i.form = some x ∧ x.toInstr = i ∧ encode i = some x.encode
      ∧ decodeInstr st x.encode = some i
      ∧ ∀ (ofs : Nat) (rest : List Byte) (cue : BitVec 4), wordSuits x.encode ofs cue →
        decode st ofs (wordBytes x.encode ++ rest) cue = .ok (x, (wordBytes x.encode).length))
    ∧ ∀ (st : Stream) (e : EncWord) (x : Form), decodeEnc st e = some x → x.encode = e

/-- Where an agent has been chosen and the clock runs, and the rows of the instruction store that serve its group hold its stream's bytes at its pc (or a dictionary entry stands for it), and those bytes decode to a word of the stream, the step is exec of that instruction; a word that cannot be fetched or is none stops the agent. Without an agent that was chosen, or while the clock is stopped, a step is what was held back, or else the head of the agenda: exec of that event; it is held back while a change of step or a freeze holds traffic, and passes without effect where a stopped clock does not let it happen. With neither, a step is what the machine does of itself. -/
def Obligations.StepRunsDecodedInstruction : Prop :=
  ∀ (s : State),
    (∀ (i : Issue) (c : ICtx), s.issuing = some i → s.clkStop = false → s.icx = some c →
      (∀ x, s.chosen c i = .ok x → step s = exec x.toInstr s ∧ x.toInstr.form = some x)
      ∧ (∀ e, s.chosen c i = .error e → step s = .next (s.stopped c e))
      ∧ ∀ (b : Byte) (t bs : List Byte) (x : Form) (n : Nat), i.entry = none →
        (s.core c.core).streamBytes c.gr c.uni (c.gr.streamLen c.uni) c.pc 2 = some (b :: t) →
        (s.core c.core).streamBytes c.gr c.uni (c.gr.streamLen c.uni) c.pc (wordLen b) = some bs →
        decode (if c.uni then .uniform else .lane) c.pc bs ((s.core c.core).cueAt c.gr c.uni c.pc) = .ok (x, n) →
        step s = exec x.toInstr s)
    ∧ ((s.issuing = none ∨ s.clkStop = true) →
      (s.held = false → ∀ (e : Instr) (rest : List Instr), s.ingress = e :: rest → step s = exec e { s with ingress := rest })
      ∧ ((s.held = true ∨ s.ingress = []) →
        (∀ (e : Instr) (rest : List Instr), s.agenda = e :: rest →
          let u := { s with agenda := rest }
          (s.held = true → inbound s e = true → step s = .next { u with ingress := s.ingress ++ [e] })
          ∧ ((s.held = false ∨ inbound s e = false) → s.clkStop = true → whileStopped e = false → step s = .next u)
          ∧ ((s.held = false ∨ inbound s e = false) → (s.clkStop = false ∨ whileStopped e = true) → step s = exec e u))
        ∧ (s.agenda = [] → step s = .next s.auto)))

/-- After reset of either part: pkg.live reads its power-on word, pkg.freq step 8 with no change under way, pkg.xinv, pkg.fsvc and pkg.ctxcmd read 0, the record queues are empty, every port is down with its spare lane free and its threshold 0x0400, and the power registers hold their power-on values; firmware has not created context 0, each host port's completion timeout is 10 ms; no context, grid, group or command exists, no clock has passed, and DRAM and system space are in canonical form and read as what nothing has written (log entry 1: the model's choice). -/
def Obligations.ResetLeaves : Prop :=
  (State.resetOf 0).pkg.liveWord = 0x0007ffff ∧ (State.resetOf 1).pkg.liveWord = 0x00150001
    ∧ State.reset = State.resetOf 0
    ∧ ∀ part, let s : State := State.resetOf part
      s.pkg.freqBusy = false ∧ s.pkg.freqAbort = false ∧ s.pkg.freqBad = false ∧ s.pkg.freqCur = 8 ∧ s.pkg.freqTgt = 8
      ∧ s.pkg.xinv = CmdReg.empty ∧ s.pkg.fsvc = CmdReg.empty ∧ s.pkg.ctxcmd = CmdReg.empty
      ∧ s.pkg.xq = [([], 0), ([], 0)] ∧ (∀ p ∈ s.pkg.ports, p.up = false ∧ p.half = false ∧ p.splane = 0xf ∧ p.spthr = 0x400)
      ∧ s.pkg.ports.length = 36
      ∧ s.pkg.pwr.cap = 6500 ∧ s.pkg.pwr.win = 10 ∧ s.pkg.pwr.resp = 2 ∧ s.pkg.pwr.above = false ∧ s.pkg.pwr.floor = false
      ∧ s.pkg.up = false ∧ s.pkg.hostMs = [10, 10]
      ∧ s.ctxs = [] ∧ s.grids = [] ∧ s.groups = [] ∧ s.memops = [] ∧ s.ingress = [] ∧ s.clk = 0 ∧ s.clkStop = false
      ∧ MemoryCanonical s ∧ ∀ a, s.byteAt a = unlistedByte ∧ s.sysByteAt a = unlistedByte

/-- From every state whose memories are in canonical form (addresses strictly rising, no entry equal to what an unlisted address reads as), a step that answers a next state answers one whose memories are; so equal memories are equal data in every state that a step can reach from such a state. -/
def Obligations.StepKeepsMemoryCanonical : Prop :=
  ∀ (s t : State), MemoryCanonical s → step s = .next t → MemoryCanonical t
end

