-- ==== Sys2Proof/Laws/Maps.lean ====
section
/-!
SUPPORT. What the named operations over maps, lists and memory do: reads after writes, and the canonical form that
every memory operation keeps.
-/

namespace Sys2Proof.Machine

-- Maps ----------------------------------------------------------------------------------------

theorem SMap.get?_set {α : Type} (k j : Nat) (x : α) (m : SMap α) :
    SMap.get? j (SMap.set k x m) = if j = k then some x else SMap.get? j m := by
  induction m with
  | nil =>
    by_cases h : j = k
    · simp [SMap.set, SMap.get?, h]
    · simp [SMap.set, SMap.get?, h, Ne.symm h]
  | cons p t ih =>
    obtain ⟨a, y⟩ := p
    by_cases h1 : k < a
    · by_cases h : j = k
      · subst h; simp [SMap.set, SMap.get?, h1]
      · simp [SMap.set, SMap.get?, h1, h, Ne.symm h]
    · by_cases h2 : k = a
      · subst h2
        by_cases h : j = k
        · subst h; simp [SMap.set, SMap.get?]
        · simp [SMap.set, SMap.get?, h, Ne.symm h]
      · by_cases h : a = j
        · subst h; simp [SMap.set, SMap.get?, h1, h2, Ne.symm h2]
        · simp [SMap.set, SMap.get?, h1, h2, h, ih]

@[simp] theorem SMap.get?_set_same {α : Type} (k : Nat) (x : α) (m : SMap α) :
    SMap.get? k (SMap.set k x m) = some x := by simp [SMap.get?_set]

theorem SMap.get?_set_other {α : Type} {k j : Nat} (h : j ≠ k) (x : α) (m : SMap α) :
    SMap.get? j (SMap.set k x m) = SMap.get? j m := by simp [SMap.get?_set, h]

theorem SMap.getD_set {α : Type} (k j : Nat) (x d : α) (m : SMap α) :
    SMap.getD (SMap.set k x m) j d = if j = k then x else SMap.getD m j d := by
  by_cases h : j = k <;> simp [SMap.getD, SMap.get?_set, h]

theorem SMap.get?_mod {α : Type} (k j : Nat) (f : α → α) (m : SMap α) :
    SMap.get? j (SMap.mod k f m) = if j = k then (SMap.get? k m).map f else SMap.get? j m := by
  unfold SMap.mod
  split
  · rename_i x hx
    by_cases h : j = k <;> simp [SMap.get?_set, h, hx]
  · rename_i hx
    by_cases h : j = k <;> simp [h, hx]

theorem SMap.getD_modD {α : Type} (k j : Nat) (d : α) (f : α → α) (m : SMap α) :
    SMap.getD (SMap.modD k d f m) j d = if j = k then f (SMap.getD m k d) else SMap.getD m j d := by
  simp [SMap.modD, SMap.getD_set]

theorem SMap.wf_cons {α : Type} (a : Nat) (x : α) (m : SMap α) :
    SMap.wf ((a, x) :: m) = true ↔ (∀ p ∈ m, a < p.1) ∧ SMap.wf m = true := by
  induction m generalizing a x with
  | nil => simp [SMap.wf]
  | cons p t ih =>
    obtain ⟨b, y⟩ := p
    have h1 : SMap.wf ((a, x) :: (b, y) :: t) = (decide (a < b) && SMap.wf ((b, y) :: t)) := rfl
    rw [h1, Bool.and_eq_true, decide_eq_true_eq]
    constructor
    · rintro ⟨hab, hw⟩
      refine ⟨?_, hw⟩
      intro p hp
      rcases List.mem_cons.1 hp with rfl | hp
      · exact hab
      · exact lt_trans hab (((ih b y).1 hw).1 p hp)
    · rintro ⟨h, hw⟩
      exact ⟨h (b, y) (by simp), hw⟩

theorem SMap.mem_set {α : Type} {k : Nat} {x : α} {m : SMap α} {p : Nat × α} (h : p ∈ SMap.set k x m) :
    p = (k, x) ∨ p ∈ m := by
  induction m with
  | nil => simpa [SMap.set] using h
  | cons q t ih =>
    obtain ⟨a, y⟩ := q
    unfold SMap.set at h
    split at h
    · rcases List.mem_cons.1 h with h | h
      · exact .inl h
      · exact .inr h
    · split at h
      · rcases List.mem_cons.1 h with h | h
        · exact .inl h
        · exact .inr (List.mem_cons_of_mem _ h)
      · rcases List.mem_cons.1 h with h | h
        · exact .inr (by simp [h])
        · rcases ih h with h | h
          · exact .inl h
          · exact .inr (List.mem_cons_of_mem _ h)

theorem SMap.wf_set {α : Type} (k : Nat) (x : α) (m : SMap α) (h : SMap.wf m = true) :
    SMap.wf (SMap.set k x m) = true := by
  induction m with
  | nil => rfl
  | cons q t ih =>
    obtain ⟨a, y⟩ := q
    obtain ⟨h1, h2⟩ := (SMap.wf_cons a y t).1 h
    unfold SMap.set
    split
    · rename_i hk
      refine (SMap.wf_cons k x _).2 ⟨?_, h⟩
      intro p hp
      rcases List.mem_cons.1 hp with rfl | hp
      · exact hk
      · exact lt_trans hk (h1 p hp)
    · split
      · rename_i hk; subst hk
        exact (SMap.wf_cons k x t).2 ⟨h1, h2⟩
      · rename_i hk hne
        refine (SMap.wf_cons a y _).2 ⟨?_, ih h2⟩
        intro p hp
        rcases SMap.mem_set hp with rfl | hp
        · show a < k
          omega
        · exact h1 p hp

theorem SMap.mem_erase {α : Type} {k : Nat} {m : SMap α} {p : Nat × α} (h : p ∈ SMap.erase k m) : p ∈ m := by
  induction m with
  | nil => simp [SMap.erase] at h
  | cons q t ih =>
    obtain ⟨a, y⟩ := q
    unfold SMap.erase at h
    split at h
    · exact List.mem_cons_of_mem _ (ih h)
    · rcases List.mem_cons.1 h with h | h
      · simp [h]
      · exact List.mem_cons_of_mem _ (ih h)

theorem SMap.wf_erase {α : Type} (k : Nat) (m : SMap α) (h : SMap.wf m = true) : SMap.wf (SMap.erase k m) = true := by
  induction m with
  | nil => rfl
  | cons q t ih =>
    obtain ⟨a, y⟩ := q
    obtain ⟨h1, h2⟩ := (SMap.wf_cons a y t).1 h
    unfold SMap.erase
    split
    · exact ih h2
    · exact (SMap.wf_cons a y _).2 ⟨fun p hp => h1 p (SMap.mem_erase hp), ih h2⟩

theorem SMap.get?_erase {α : Type} (k j : Nat) (m : SMap α) :
    SMap.get? j (SMap.erase k m) = if j = k then none else SMap.get? j m := by
  induction m with
  | nil => simp [SMap.erase, SMap.get?]
  | cons q t ih =>
    obtain ⟨a, y⟩ := q
    by_cases hk : a = k
    · subst hk
      by_cases hj : j = a
      · subst hj; simp [SMap.erase, ih]
      · simp [SMap.erase, SMap.get?, hj, Ne.symm hj, ih]
    · by_cases hj : a = j
      · subst hj; simp [SMap.erase, SMap.get?, hk]
      · simp [SMap.erase, SMap.get?, hk, hj, ih]

-- Memory --------------------------------------------------------------------------------------

theorem memWf_iff (m : List Host.Cell) :
    memWf m = true ↔ SMap.wf m = true ∧ ∀ c ∈ m, c.2 ≠ unlistedByte := by
  simp [memWf, List.all_eq_true, bne_iff_ne]

/-- Writing a byte keeps the canonical form. -/
theorem memWf_setByte (m : List Host.Cell) (a : Nat) (b : Byte) (h : memWf m = true) :
    memWf (memSetByte m a b) = true := by
  rw [memWf_iff] at h ⊢
  unfold memSetByte
  split
  · exact ⟨SMap.wf_erase a m h.1, fun c hc => h.2 c (SMap.mem_erase hc)⟩
  · rename_i hb
    refine ⟨SMap.wf_set a b m h.1, fun c hc => ?_⟩
    rcases SMap.mem_set hc with rfl | hc
    · exact hb
    · exact h.2 c hc

/-- Writing bytes keeps the canonical form. -/
theorem memWf_write (m : List Host.Cell) (a : Nat) (bs : List Byte) (h : memWf m = true) :
    memWf (memWrite m a bs) = true := by
  induction bs generalizing m a with
  | nil => exact h
  | cons b t ih => exact ih _ _ (memWf_setByte m a b h)

/-- A byte after a byte is written. -/
theorem memByte_setByte (m : List Host.Cell) (a k : Nat) (b : Byte) :
    memByte (memSetByte m a b) k = if k = a then b else memByte m k := by
  unfold memSetByte memByte SMap.getD
  split
  · rename_i hb
    rw [SMap.get?_erase]
    by_cases hk : k = a <;> simp [hk, hb]
  · rw [SMap.get?_set]
    by_cases hk : k = a <;> simp [hk]

/-- A byte after bytes are written: a written one, or the old one. -/
theorem memByte_write (m : List Host.Cell) (a k : Nat) (bs : List Byte) :
    memByte (memWrite m a bs) k = if a ≤ k ∧ k < a + bs.length then bs.getD (k - a) 0 else memByte m k := by
  induction bs generalizing m a with
  | nil => rw [memWrite, if_neg (by simp)]
  | cons b t ih =>
    rw [memWrite, ih, memByte_setByte]
    by_cases h1 : k = a
    · subst h1
      simp
    · by_cases h2 : a ≤ k ∧ k < a + (b :: t).length
      · have h3 : a + 1 ≤ k ∧ k < a + 1 + t.length := by simp at h2; omega
        have h4 : k - a = (k - (a + 1)) + 1 := by omega
        rw [if_pos h3, if_pos h2, h4, List.getD_cons_succ]
      · have h3 : ¬ (a + 1 ≤ k ∧ k < a + 1 + t.length) := by simp at h2; omega
        rw [if_neg h3, if_neg h1, if_neg h2]

/-- Reading back what was written. -/
theorem memByte_write_other (m : List Host.Cell) (a k : Nat) (bs : List Byte)
    (hk : k < a ∨ a + bs.length ≤ k) : memByte (memWrite m a bs) k = memByte m k := by
  rw [memByte_write m a k bs, if_neg (by omega)]

-- Register files ------------------------------------------------------------------------------

/-- A register of a file of n after one is changed. -/
theorem setReg_getD {α : Type} (n : Nat) (d : α) (l : List α) (k j : Nat) (x : α) (h : j < n) :
    (setReg n d l k x).getD j d = if j = k then x else l.getD j d := by
  simp [setReg, List.getD_eq_getElem?_getD, h]

/-- The same with a function of the old value. -/
theorem modReg_getD {α : Type} (n : Nat) (d : α) (l : List α) (k j : Nat) (f : α → α) (h : j < n) :
    (modReg n d l k f).getD j d = if j = k then f (l.getD k d) else l.getD j d := setReg_getD n d l k j _ h

theorem setW_getD (l : List DWord) (k j : Nat) (x : DWord) (h : j < 16) :
    (setW l k x).getD j 0 = if j = k then x else l.getD j 0 := setReg_getD 16 0 l k j x h

theorem setG_getD (l : List DWord) (k j : Nat) (x : DWord) (h : j < 64) :
    (setG l k x).getD j 0 = if j = k then x else l.getD j 0 := setReg_getD 64 0 l k j x h

theorem setP_getD (l : List PVal) (k j : Nat) (f : PVal → PVal) (h : j < 7) :
    (setP l k f).getD j ⟨0, 0⟩ = if j = k then f (l.getD k ⟨0, 0⟩) else l.getD j ⟨0, 0⟩ :=
  modReg_getD 7 (⟨0, 0⟩ : PVal) l k j f h

-- Lists ---------------------------------------------------------------------------------------

@[simp] theorem updAt_length {α : Type} (l : List α) (i : Nat) (f : α → α) : (updAt l i f).length = l.length := by
  unfold updAt; split <;> simp

theorem updAt_get? {α : Type} (l : List α) (i j : Nat) (f : α → α) :
    (updAt l i f)[j]? = if j = i then (l[i]?).map f else l[j]? := by
  unfold updAt
  split
  · rename_i x hx
    have hi : i < l.length := by
      rcases Nat.lt_or_ge i l.length with h | h
      · exact h
      · rw [List.getElem?_eq_none h] at hx; cases hx
    rw [List.getElem?_set]
    by_cases h : j = i
    · subst h
      rw [if_pos rfl, if_pos rfl, if_pos hi, hx]; rfl
    · simp [h, Ne.symm h]
  · rename_i hx
    by_cases h : j = i <;> simp [h, hx]

/-- Lane l of lanes given by a function. -/
theorem laneOf_mkLanes (f : Nat → Word) (l : Nat) (h : l < 32) : laneOf (mkLanes f) l = f l := by
  simp [laneOf, mkLanes, lanes32, List.getD, h]

theorem laneOf_mergeLanes (mask : BitVec 32) (new old : Lanes) (l : Nat) (h : l < 32) :
    laneOf (mergeLanes mask new old) l = if bit mask l then laneOf new l else laneOf old l := by
  rw [mergeLanes, laneOf_mkLanes _ _ h]

end Sys2Proof.Machine
end

