-- ==== Sys2Proof/Laws/State.lean ====
section
/-!
SUPPORT. One lemma for each field under each named update of the state, true by definition: no later proof unfolds a
record update. Then what the updated parts read as.
-/

namespace Sys2Proof.Machine

-- modGrp
@[simp] theorem State.modGrp_clk (s : State) (g : Nat) (f : Group → Group) : (s.modGrp g f).clk = s.clk := rfl
@[simp] theorem State.modGrp_clkStop (s : State) (g : Nat) (f : Group → Group) : (s.modGrp g f).clkStop = s.clkStop := rfl
@[simp] theorem State.modGrp_frozen (s : State) (g : Nat) (f : Group → Group) : (s.modGrp g f).frozen = s.frozen := rfl
@[simp] theorem State.modGrp_issuing (s : State) (g : Nat) (f : Group → Group) : (s.modGrp g f).issuing = s.issuing := rfl
@[simp] theorem State.modGrp_agenda (s : State) (g : Nat) (f : Group → Group) : (s.modGrp g f).agenda = s.agenda := rfl
@[simp] theorem State.modGrp_ingress (s : State) (g : Nat) (f : Group → Group) : (s.modGrp g f).ingress = s.ingress := rfl
@[simp] theorem State.modGrp_boot (s : State) (g : Nat) (f : Group → Group) : (s.modGrp g f).boot = s.boot := rfl
@[simp] theorem State.modGrp_free (s : State) (g : Nat) (f : Group → Group) : (s.modGrp g f).free = s.free := rfl
@[simp] theorem State.modGrp_nextId (s : State) (g : Nat) (f : Group → Group) : (s.modGrp g f).nextId = s.nextId := rfl
@[simp] theorem State.modGrp_ages (s : State) (g : Nat) (f : Group → Group) : (s.modGrp g f).ages = s.ages := rfl
@[simp] theorem State.modGrp_pkg (s : State) (g : Nat) (f : Group → Group) : (s.modGrp g f).pkg = s.pkg := rfl
@[simp] theorem State.modGrp_dies (s : State) (g : Nat) (f : Group → Group) : (s.modGrp g f).dies = s.dies := rfl
@[simp] theorem State.modGrp_clusters (s : State) (g : Nat) (f : Group → Group) : (s.modGrp g f).clusters = s.clusters := rfl
@[simp] theorem State.modGrp_cores (s : State) (g : Nat) (f : Group → Group) : (s.modGrp g f).cores = s.cores := rfl
@[simp] theorem State.modGrp_coals (s : State) (g : Nat) (f : Group → Group) : (s.modGrp g f).coals = s.coals := rfl
@[simp] theorem State.modGrp_fbufs (s : State) (g : Nat) (f : Group → Group) : (s.modGrp g f).fbufs = s.fbufs := rfl
@[simp] theorem State.modGrp_ctxs (s : State) (g : Nat) (f : Group → Group) : (s.modGrp g f).ctxs = s.ctxs := rfl
@[simp] theorem State.modGrp_grids (s : State) (g : Nat) (f : Group → Group) : (s.modGrp g f).grids = s.grids := rfl
@[simp] theorem State.modGrp_saves (s : State) (g : Nat) (f : Group → Group) : (s.modGrp g f).saves = s.saves := rfl
@[simp] theorem State.modGrp_mem (s : State) (g : Nat) (f : Group → Group) : (s.modGrp g f).mem = s.mem := rfl
@[simp] theorem State.modGrp_sys (s : State) (g : Nat) (f : Group → Group) : (s.modGrp g f).sys = s.sys := rfl
@[simp] theorem State.modGrp_memops (s : State) (g : Nat) (f : Group → Group) : (s.modGrp g f).memops = s.memops := rfl
@[simp] theorem State.modGrp_walks (s : State) (g : Nat) (f : Group → Group) : (s.modGrp g f).walks = s.walks := rfl
@[simp] theorem State.modGrp_copies (s : State) (g : Nat) (f : Group → Group) : (s.modGrp g f).copies = s.copies := rfl
@[simp] theorem State.modGrp_xops (s : State) (g : Nat) (f : Group → Group) : (s.modGrp g f).xops = s.xops := rfl
@[simp] theorem State.modGrp_reqs (s : State) (g : Nat) (f : Group → Group) : (s.modGrp g f).reqs = s.reqs := rfl
@[simp] theorem State.modGrp_queries (s : State) (g : Nat) (f : Group → Group) : (s.modGrp g f).queries = s.queries := rfl
@[simp] theorem State.modGrp_dma (s : State) (g : Nat) (f : Group → Group) : (s.modGrp g f).dma = s.dma := rfl
@[simp] theorem State.modGrp_ttc (s : State) (g : Nat) (f : Group → Group) : (s.modGrp g f).ttc = s.ttc := rfl
@[simp] theorem State.modGrp_resvs (s : State) (g : Nat) (f : Group → Group) : (s.modGrp g f).resvs = s.resvs := rfl
@[simp] theorem State.modGrp_outbox (s : State) (g : Nat) (f : Group → Group) : (s.modGrp g f).outbox = s.outbox := rfl

-- modCore
@[simp] theorem State.modCore_clk (s : State) (c : Nat) (f : Core → Core) : (s.modCore c f).clk = s.clk := rfl
@[simp] theorem State.modCore_clkStop (s : State) (c : Nat) (f : Core → Core) : (s.modCore c f).clkStop = s.clkStop := rfl
@[simp] theorem State.modCore_frozen (s : State) (c : Nat) (f : Core → Core) : (s.modCore c f).frozen = s.frozen := rfl
@[simp] theorem State.modCore_issuing (s : State) (c : Nat) (f : Core → Core) : (s.modCore c f).issuing = s.issuing := rfl
@[simp] theorem State.modCore_agenda (s : State) (c : Nat) (f : Core → Core) : (s.modCore c f).agenda = s.agenda := rfl
@[simp] theorem State.modCore_ingress (s : State) (c : Nat) (f : Core → Core) : (s.modCore c f).ingress = s.ingress := rfl
@[simp] theorem State.modCore_boot (s : State) (c : Nat) (f : Core → Core) : (s.modCore c f).boot = s.boot := rfl
@[simp] theorem State.modCore_free (s : State) (c : Nat) (f : Core → Core) : (s.modCore c f).free = s.free := rfl
@[simp] theorem State.modCore_nextId (s : State) (c : Nat) (f : Core → Core) : (s.modCore c f).nextId = s.nextId := rfl
@[simp] theorem State.modCore_ages (s : State) (c : Nat) (f : Core → Core) : (s.modCore c f).ages = s.ages := rfl
@[simp] theorem State.modCore_pkg (s : State) (c : Nat) (f : Core → Core) : (s.modCore c f).pkg = s.pkg := rfl
@[simp] theorem State.modCore_dies (s : State) (c : Nat) (f : Core → Core) : (s.modCore c f).dies = s.dies := rfl
@[simp] theorem State.modCore_clusters (s : State) (c : Nat) (f : Core → Core) : (s.modCore c f).clusters = s.clusters := rfl
@[simp] theorem State.modCore_coals (s : State) (c : Nat) (f : Core → Core) : (s.modCore c f).coals = s.coals := rfl
@[simp] theorem State.modCore_fbufs (s : State) (c : Nat) (f : Core → Core) : (s.modCore c f).fbufs = s.fbufs := rfl
@[simp] theorem State.modCore_groups (s : State) (c : Nat) (f : Core → Core) : (s.modCore c f).groups = s.groups := rfl
@[simp] theorem State.modCore_ctxs (s : State) (c : Nat) (f : Core → Core) : (s.modCore c f).ctxs = s.ctxs := rfl
@[simp] theorem State.modCore_grids (s : State) (c : Nat) (f : Core → Core) : (s.modCore c f).grids = s.grids := rfl
@[simp] theorem State.modCore_saves (s : State) (c : Nat) (f : Core → Core) : (s.modCore c f).saves = s.saves := rfl
@[simp] theorem State.modCore_mem (s : State) (c : Nat) (f : Core → Core) : (s.modCore c f).mem = s.mem := rfl
@[simp] theorem State.modCore_sys (s : State) (c : Nat) (f : Core → Core) : (s.modCore c f).sys = s.sys := rfl
@[simp] theorem State.modCore_memops (s : State) (c : Nat) (f : Core → Core) : (s.modCore c f).memops = s.memops := rfl
@[simp] theorem State.modCore_walks (s : State) (c : Nat) (f : Core → Core) : (s.modCore c f).walks = s.walks := rfl
@[simp] theorem State.modCore_copies (s : State) (c : Nat) (f : Core → Core) : (s.modCore c f).copies = s.copies := rfl
@[simp] theorem State.modCore_xops (s : State) (c : Nat) (f : Core → Core) : (s.modCore c f).xops = s.xops := rfl
@[simp] theorem State.modCore_reqs (s : State) (c : Nat) (f : Core → Core) : (s.modCore c f).reqs = s.reqs := rfl
@[simp] theorem State.modCore_queries (s : State) (c : Nat) (f : Core → Core) : (s.modCore c f).queries = s.queries := rfl
@[simp] theorem State.modCore_dma (s : State) (c : Nat) (f : Core → Core) : (s.modCore c f).dma = s.dma := rfl
@[simp] theorem State.modCore_ttc (s : State) (c : Nat) (f : Core → Core) : (s.modCore c f).ttc = s.ttc := rfl
@[simp] theorem State.modCore_resvs (s : State) (c : Nat) (f : Core → Core) : (s.modCore c f).resvs = s.resvs := rfl
@[simp] theorem State.modCore_outbox (s : State) (c : Nat) (f : Core → Core) : (s.modCore c f).outbox = s.outbox := rfl

-- modCluster
@[simp] theorem State.modCluster_clk (s : State) (c : Nat) (f : Cluster → Cluster) : (s.modCluster c f).clk = s.clk := rfl
@[simp] theorem State.modCluster_clkStop (s : State) (c : Nat) (f : Cluster → Cluster) : (s.modCluster c f).clkStop = s.clkStop := rfl
@[simp] theorem State.modCluster_frozen (s : State) (c : Nat) (f : Cluster → Cluster) : (s.modCluster c f).frozen = s.frozen := rfl
@[simp] theorem State.modCluster_issuing (s : State) (c : Nat) (f : Cluster → Cluster) : (s.modCluster c f).issuing = s.issuing := rfl
@[simp] theorem State.modCluster_agenda (s : State) (c : Nat) (f : Cluster → Cluster) : (s.modCluster c f).agenda = s.agenda := rfl
@[simp] theorem State.modCluster_ingress (s : State) (c : Nat) (f : Cluster → Cluster) : (s.modCluster c f).ingress = s.ingress := rfl
@[simp] theorem State.modCluster_boot (s : State) (c : Nat) (f : Cluster → Cluster) : (s.modCluster c f).boot = s.boot := rfl
@[simp] theorem State.modCluster_free (s : State) (c : Nat) (f : Cluster → Cluster) : (s.modCluster c f).free = s.free := rfl
@[simp] theorem State.modCluster_nextId (s : State) (c : Nat) (f : Cluster → Cluster) : (s.modCluster c f).nextId = s.nextId := rfl
@[simp] theorem State.modCluster_ages (s : State) (c : Nat) (f : Cluster → Cluster) : (s.modCluster c f).ages = s.ages := rfl
@[simp] theorem State.modCluster_pkg (s : State) (c : Nat) (f : Cluster → Cluster) : (s.modCluster c f).pkg = s.pkg := rfl
@[simp] theorem State.modCluster_dies (s : State) (c : Nat) (f : Cluster → Cluster) : (s.modCluster c f).dies = s.dies := rfl
@[simp] theorem State.modCluster_cores (s : State) (c : Nat) (f : Cluster → Cluster) : (s.modCluster c f).cores = s.cores := rfl
@[simp] theorem State.modCluster_coals (s : State) (c : Nat) (f : Cluster → Cluster) : (s.modCluster c f).coals = s.coals := rfl
@[simp] theorem State.modCluster_fbufs (s : State) (c : Nat) (f : Cluster → Cluster) : (s.modCluster c f).fbufs = s.fbufs := rfl
@[simp] theorem State.modCluster_groups (s : State) (c : Nat) (f : Cluster → Cluster) : (s.modCluster c f).groups = s.groups := rfl
@[simp] theorem State.modCluster_ctxs (s : State) (c : Nat) (f : Cluster → Cluster) : (s.modCluster c f).ctxs = s.ctxs := rfl
@[simp] theorem State.modCluster_grids (s : State) (c : Nat) (f : Cluster → Cluster) : (s.modCluster c f).grids = s.grids := rfl
@[simp] theorem State.modCluster_saves (s : State) (c : Nat) (f : Cluster → Cluster) : (s.modCluster c f).saves = s.saves := rfl
@[simp] theorem State.modCluster_mem (s : State) (c : Nat) (f : Cluster → Cluster) : (s.modCluster c f).mem = s.mem := rfl
@[simp] theorem State.modCluster_sys (s : State) (c : Nat) (f : Cluster → Cluster) : (s.modCluster c f).sys = s.sys := rfl
@[simp] theorem State.modCluster_memops (s : State) (c : Nat) (f : Cluster → Cluster) : (s.modCluster c f).memops = s.memops := rfl
@[simp] theorem State.modCluster_walks (s : State) (c : Nat) (f : Cluster → Cluster) : (s.modCluster c f).walks = s.walks := rfl
@[simp] theorem State.modCluster_copies (s : State) (c : Nat) (f : Cluster → Cluster) : (s.modCluster c f).copies = s.copies := rfl
@[simp] theorem State.modCluster_xops (s : State) (c : Nat) (f : Cluster → Cluster) : (s.modCluster c f).xops = s.xops := rfl
@[simp] theorem State.modCluster_reqs (s : State) (c : Nat) (f : Cluster → Cluster) : (s.modCluster c f).reqs = s.reqs := rfl
@[simp] theorem State.modCluster_queries (s : State) (c : Nat) (f : Cluster → Cluster) : (s.modCluster c f).queries = s.queries := rfl
@[simp] theorem State.modCluster_dma (s : State) (c : Nat) (f : Cluster → Cluster) : (s.modCluster c f).dma = s.dma := rfl
@[simp] theorem State.modCluster_ttc (s : State) (c : Nat) (f : Cluster → Cluster) : (s.modCluster c f).ttc = s.ttc := rfl
@[simp] theorem State.modCluster_resvs (s : State) (c : Nat) (f : Cluster → Cluster) : (s.modCluster c f).resvs = s.resvs := rfl
@[simp] theorem State.modCluster_outbox (s : State) (c : Nat) (f : Cluster → Cluster) : (s.modCluster c f).outbox = s.outbox := rfl

-- modDie
@[simp] theorem State.modDie_clk (s : State) (d : Nat) (f : Die → Die) : (s.modDie d f).clk = s.clk := rfl
@[simp] theorem State.modDie_clkStop (s : State) (d : Nat) (f : Die → Die) : (s.modDie d f).clkStop = s.clkStop := rfl
@[simp] theorem State.modDie_frozen (s : State) (d : Nat) (f : Die → Die) : (s.modDie d f).frozen = s.frozen := rfl
@[simp] theorem State.modDie_issuing (s : State) (d : Nat) (f : Die → Die) : (s.modDie d f).issuing = s.issuing := rfl
@[simp] theorem State.modDie_agenda (s : State) (d : Nat) (f : Die → Die) : (s.modDie d f).agenda = s.agenda := rfl
@[simp] theorem State.modDie_ingress (s : State) (d : Nat) (f : Die → Die) : (s.modDie d f).ingress = s.ingress := rfl
@[simp] theorem State.modDie_boot (s : State) (d : Nat) (f : Die → Die) : (s.modDie d f).boot = s.boot := rfl
@[simp] theorem State.modDie_free (s : State) (d : Nat) (f : Die → Die) : (s.modDie d f).free = s.free := rfl
@[simp] theorem State.modDie_nextId (s : State) (d : Nat) (f : Die → Die) : (s.modDie d f).nextId = s.nextId := rfl
@[simp] theorem State.modDie_ages (s : State) (d : Nat) (f : Die → Die) : (s.modDie d f).ages = s.ages := rfl
@[simp] theorem State.modDie_pkg (s : State) (d : Nat) (f : Die → Die) : (s.modDie d f).pkg = s.pkg := rfl
@[simp] theorem State.modDie_clusters (s : State) (d : Nat) (f : Die → Die) : (s.modDie d f).clusters = s.clusters := rfl
@[simp] theorem State.modDie_cores (s : State) (d : Nat) (f : Die → Die) : (s.modDie d f).cores = s.cores := rfl
@[simp] theorem State.modDie_coals (s : State) (d : Nat) (f : Die → Die) : (s.modDie d f).coals = s.coals := rfl
@[simp] theorem State.modDie_fbufs (s : State) (d : Nat) (f : Die → Die) : (s.modDie d f).fbufs = s.fbufs := rfl
@[simp] theorem State.modDie_groups (s : State) (d : Nat) (f : Die → Die) : (s.modDie d f).groups = s.groups := rfl
@[simp] theorem State.modDie_ctxs (s : State) (d : Nat) (f : Die → Die) : (s.modDie d f).ctxs = s.ctxs := rfl
@[simp] theorem State.modDie_grids (s : State) (d : Nat) (f : Die → Die) : (s.modDie d f).grids = s.grids := rfl
@[simp] theorem State.modDie_saves (s : State) (d : Nat) (f : Die → Die) : (s.modDie d f).saves = s.saves := rfl
@[simp] theorem State.modDie_mem (s : State) (d : Nat) (f : Die → Die) : (s.modDie d f).mem = s.mem := rfl
@[simp] theorem State.modDie_sys (s : State) (d : Nat) (f : Die → Die) : (s.modDie d f).sys = s.sys := rfl
@[simp] theorem State.modDie_memops (s : State) (d : Nat) (f : Die → Die) : (s.modDie d f).memops = s.memops := rfl
@[simp] theorem State.modDie_walks (s : State) (d : Nat) (f : Die → Die) : (s.modDie d f).walks = s.walks := rfl
@[simp] theorem State.modDie_copies (s : State) (d : Nat) (f : Die → Die) : (s.modDie d f).copies = s.copies := rfl
@[simp] theorem State.modDie_xops (s : State) (d : Nat) (f : Die → Die) : (s.modDie d f).xops = s.xops := rfl
@[simp] theorem State.modDie_reqs (s : State) (d : Nat) (f : Die → Die) : (s.modDie d f).reqs = s.reqs := rfl
@[simp] theorem State.modDie_queries (s : State) (d : Nat) (f : Die → Die) : (s.modDie d f).queries = s.queries := rfl
@[simp] theorem State.modDie_dma (s : State) (d : Nat) (f : Die → Die) : (s.modDie d f).dma = s.dma := rfl
@[simp] theorem State.modDie_ttc (s : State) (d : Nat) (f : Die → Die) : (s.modDie d f).ttc = s.ttc := rfl
@[simp] theorem State.modDie_resvs (s : State) (d : Nat) (f : Die → Die) : (s.modDie d f).resvs = s.resvs := rfl
@[simp] theorem State.modDie_outbox (s : State) (d : Nat) (f : Die → Die) : (s.modDie d f).outbox = s.outbox := rfl

-- modGrid
@[simp] theorem State.modGrid_clk (s : State) (i c : Nat) (f : Grid → Grid) : (s.modGrid i c f).clk = s.clk := rfl
@[simp] theorem State.modGrid_clkStop (s : State) (i c : Nat) (f : Grid → Grid) : (s.modGrid i c f).clkStop = s.clkStop := rfl
@[simp] theorem State.modGrid_frozen (s : State) (i c : Nat) (f : Grid → Grid) : (s.modGrid i c f).frozen = s.frozen := rfl
@[simp] theorem State.modGrid_issuing (s : State) (i c : Nat) (f : Grid → Grid) : (s.modGrid i c f).issuing = s.issuing := rfl
@[simp] theorem State.modGrid_agenda (s : State) (i c : Nat) (f : Grid → Grid) : (s.modGrid i c f).agenda = s.agenda := rfl
@[simp] theorem State.modGrid_ingress (s : State) (i c : Nat) (f : Grid → Grid) : (s.modGrid i c f).ingress = s.ingress := rfl
@[simp] theorem State.modGrid_boot (s : State) (i c : Nat) (f : Grid → Grid) : (s.modGrid i c f).boot = s.boot := rfl
@[simp] theorem State.modGrid_free (s : State) (i c : Nat) (f : Grid → Grid) : (s.modGrid i c f).free = s.free := rfl
@[simp] theorem State.modGrid_nextId (s : State) (i c : Nat) (f : Grid → Grid) : (s.modGrid i c f).nextId = s.nextId := rfl
@[simp] theorem State.modGrid_ages (s : State) (i c : Nat) (f : Grid → Grid) : (s.modGrid i c f).ages = s.ages := rfl
@[simp] theorem State.modGrid_pkg (s : State) (i c : Nat) (f : Grid → Grid) : (s.modGrid i c f).pkg = s.pkg := rfl
@[simp] theorem State.modGrid_dies (s : State) (i c : Nat) (f : Grid → Grid) : (s.modGrid i c f).dies = s.dies := rfl
@[simp] theorem State.modGrid_clusters (s : State) (i c : Nat) (f : Grid → Grid) : (s.modGrid i c f).clusters = s.clusters := rfl
@[simp] theorem State.modGrid_cores (s : State) (i c : Nat) (f : Grid → Grid) : (s.modGrid i c f).cores = s.cores := rfl
@[simp] theorem State.modGrid_coals (s : State) (i c : Nat) (f : Grid → Grid) : (s.modGrid i c f).coals = s.coals := rfl
@[simp] theorem State.modGrid_fbufs (s : State) (i c : Nat) (f : Grid → Grid) : (s.modGrid i c f).fbufs = s.fbufs := rfl
@[simp] theorem State.modGrid_groups (s : State) (i c : Nat) (f : Grid → Grid) : (s.modGrid i c f).groups = s.groups := rfl
@[simp] theorem State.modGrid_ctxs (s : State) (i c : Nat) (f : Grid → Grid) : (s.modGrid i c f).ctxs = s.ctxs := rfl
@[simp] theorem State.modGrid_saves (s : State) (i c : Nat) (f : Grid → Grid) : (s.modGrid i c f).saves = s.saves := rfl
@[simp] theorem State.modGrid_mem (s : State) (i c : Nat) (f : Grid → Grid) : (s.modGrid i c f).mem = s.mem := rfl
@[simp] theorem State.modGrid_sys (s : State) (i c : Nat) (f : Grid → Grid) : (s.modGrid i c f).sys = s.sys := rfl
@[simp] theorem State.modGrid_memops (s : State) (i c : Nat) (f : Grid → Grid) : (s.modGrid i c f).memops = s.memops := rfl
@[simp] theorem State.modGrid_walks (s : State) (i c : Nat) (f : Grid → Grid) : (s.modGrid i c f).walks = s.walks := rfl
@[simp] theorem State.modGrid_copies (s : State) (i c : Nat) (f : Grid → Grid) : (s.modGrid i c f).copies = s.copies := rfl
@[simp] theorem State.modGrid_xops (s : State) (i c : Nat) (f : Grid → Grid) : (s.modGrid i c f).xops = s.xops := rfl
@[simp] theorem State.modGrid_reqs (s : State) (i c : Nat) (f : Grid → Grid) : (s.modGrid i c f).reqs = s.reqs := rfl
@[simp] theorem State.modGrid_queries (s : State) (i c : Nat) (f : Grid → Grid) : (s.modGrid i c f).queries = s.queries := rfl
@[simp] theorem State.modGrid_dma (s : State) (i c : Nat) (f : Grid → Grid) : (s.modGrid i c f).dma = s.dma := rfl
@[simp] theorem State.modGrid_ttc (s : State) (i c : Nat) (f : Grid → Grid) : (s.modGrid i c f).ttc = s.ttc := rfl
@[simp] theorem State.modGrid_resvs (s : State) (i c : Nat) (f : Grid → Grid) : (s.modGrid i c f).resvs = s.resvs := rfl
@[simp] theorem State.modGrid_outbox (s : State) (i c : Nat) (f : Grid → Grid) : (s.modGrid i c f).outbox = s.outbox := rfl

-- modWave
@[simp] theorem State.modWave_clk (s : State) (g w : Nat) (f : Wave → Wave) : (s.modWave g w f).clk = s.clk := rfl
@[simp] theorem State.modWave_clkStop (s : State) (g w : Nat) (f : Wave → Wave) : (s.modWave g w f).clkStop = s.clkStop := rfl
@[simp] theorem State.modWave_frozen (s : State) (g w : Nat) (f : Wave → Wave) : (s.modWave g w f).frozen = s.frozen := rfl
@[simp] theorem State.modWave_issuing (s : State) (g w : Nat) (f : Wave → Wave) : (s.modWave g w f).issuing = s.issuing := rfl
@[simp] theorem State.modWave_agenda (s : State) (g w : Nat) (f : Wave → Wave) : (s.modWave g w f).agenda = s.agenda := rfl
@[simp] theorem State.modWave_ingress (s : State) (g w : Nat) (f : Wave → Wave) : (s.modWave g w f).ingress = s.ingress := rfl
@[simp] theorem State.modWave_boot (s : State) (g w : Nat) (f : Wave → Wave) : (s.modWave g w f).boot = s.boot := rfl
@[simp] theorem State.modWave_free (s : State) (g w : Nat) (f : Wave → Wave) : (s.modWave g w f).free = s.free := rfl
@[simp] theorem State.modWave_nextId (s : State) (g w : Nat) (f : Wave → Wave) : (s.modWave g w f).nextId = s.nextId := rfl
@[simp] theorem State.modWave_ages (s : State) (g w : Nat) (f : Wave → Wave) : (s.modWave g w f).ages = s.ages := rfl
@[simp] theorem State.modWave_pkg (s : State) (g w : Nat) (f : Wave → Wave) : (s.modWave g w f).pkg = s.pkg := rfl
@[simp] theorem State.modWave_dies (s : State) (g w : Nat) (f : Wave → Wave) : (s.modWave g w f).dies = s.dies := rfl
@[simp] theorem State.modWave_clusters (s : State) (g w : Nat) (f : Wave → Wave) : (s.modWave g w f).clusters = s.clusters := rfl
@[simp] theorem State.modWave_cores (s : State) (g w : Nat) (f : Wave → Wave) : (s.modWave g w f).cores = s.cores := rfl
@[simp] theorem State.modWave_coals (s : State) (g w : Nat) (f : Wave → Wave) : (s.modWave g w f).coals = s.coals := rfl
@[simp] theorem State.modWave_fbufs (s : State) (g w : Nat) (f : Wave → Wave) : (s.modWave g w f).fbufs = s.fbufs := rfl
@[simp] theorem State.modWave_ctxs (s : State) (g w : Nat) (f : Wave → Wave) : (s.modWave g w f).ctxs = s.ctxs := rfl
@[simp] theorem State.modWave_grids (s : State) (g w : Nat) (f : Wave → Wave) : (s.modWave g w f).grids = s.grids := rfl
@[simp] theorem State.modWave_saves (s : State) (g w : Nat) (f : Wave → Wave) : (s.modWave g w f).saves = s.saves := rfl
@[simp] theorem State.modWave_mem (s : State) (g w : Nat) (f : Wave → Wave) : (s.modWave g w f).mem = s.mem := rfl
@[simp] theorem State.modWave_sys (s : State) (g w : Nat) (f : Wave → Wave) : (s.modWave g w f).sys = s.sys := rfl
@[simp] theorem State.modWave_memops (s : State) (g w : Nat) (f : Wave → Wave) : (s.modWave g w f).memops = s.memops := rfl
@[simp] theorem State.modWave_walks (s : State) (g w : Nat) (f : Wave → Wave) : (s.modWave g w f).walks = s.walks := rfl
@[simp] theorem State.modWave_copies (s : State) (g w : Nat) (f : Wave → Wave) : (s.modWave g w f).copies = s.copies := rfl
@[simp] theorem State.modWave_xops (s : State) (g w : Nat) (f : Wave → Wave) : (s.modWave g w f).xops = s.xops := rfl
@[simp] theorem State.modWave_reqs (s : State) (g w : Nat) (f : Wave → Wave) : (s.modWave g w f).reqs = s.reqs := rfl
@[simp] theorem State.modWave_queries (s : State) (g w : Nat) (f : Wave → Wave) : (s.modWave g w f).queries = s.queries := rfl
@[simp] theorem State.modWave_dma (s : State) (g w : Nat) (f : Wave → Wave) : (s.modWave g w f).dma = s.dma := rfl
@[simp] theorem State.modWave_ttc (s : State) (g w : Nat) (f : Wave → Wave) : (s.modWave g w f).ttc = s.ttc := rfl
@[simp] theorem State.modWave_resvs (s : State) (g w : Nat) (f : Wave → Wave) : (s.modWave g w f).resvs = s.resvs := rfl
@[simp] theorem State.modWave_outbox (s : State) (g w : Nat) (f : Wave → Wave) : (s.modWave g w f).outbox = s.outbox := rfl

-- modSplit
@[simp] theorem State.modSplit_clk (s : State) (g w sp : Nat) (f : Split → Split) : (s.modSplit g w sp f).clk = s.clk := rfl
@[simp] theorem State.modSplit_clkStop (s : State) (g w sp : Nat) (f : Split → Split) : (s.modSplit g w sp f).clkStop = s.clkStop := rfl
@[simp] theorem State.modSplit_frozen (s : State) (g w sp : Nat) (f : Split → Split) : (s.modSplit g w sp f).frozen = s.frozen := rfl
@[simp] theorem State.modSplit_issuing (s : State) (g w sp : Nat) (f : Split → Split) : (s.modSplit g w sp f).issuing = s.issuing := rfl
@[simp] theorem State.modSplit_agenda (s : State) (g w sp : Nat) (f : Split → Split) : (s.modSplit g w sp f).agenda = s.agenda := rfl
@[simp] theorem State.modSplit_ingress (s : State) (g w sp : Nat) (f : Split → Split) : (s.modSplit g w sp f).ingress = s.ingress := rfl
@[simp] theorem State.modSplit_boot (s : State) (g w sp : Nat) (f : Split → Split) : (s.modSplit g w sp f).boot = s.boot := rfl
@[simp] theorem State.modSplit_free (s : State) (g w sp : Nat) (f : Split → Split) : (s.modSplit g w sp f).free = s.free := rfl
@[simp] theorem State.modSplit_nextId (s : State) (g w sp : Nat) (f : Split → Split) : (s.modSplit g w sp f).nextId = s.nextId := rfl
@[simp] theorem State.modSplit_ages (s : State) (g w sp : Nat) (f : Split → Split) : (s.modSplit g w sp f).ages = s.ages := rfl
@[simp] theorem State.modSplit_pkg (s : State) (g w sp : Nat) (f : Split → Split) : (s.modSplit g w sp f).pkg = s.pkg := rfl
@[simp] theorem State.modSplit_dies (s : State) (g w sp : Nat) (f : Split → Split) : (s.modSplit g w sp f).dies = s.dies := rfl
@[simp] theorem State.modSplit_clusters (s : State) (g w sp : Nat) (f : Split → Split) : (s.modSplit g w sp f).clusters = s.clusters := rfl
@[simp] theorem State.modSplit_cores (s : State) (g w sp : Nat) (f : Split → Split) : (s.modSplit g w sp f).cores = s.cores := rfl
@[simp] theorem State.modSplit_coals (s : State) (g w sp : Nat) (f : Split → Split) : (s.modSplit g w sp f).coals = s.coals := rfl
@[simp] theorem State.modSplit_fbufs (s : State) (g w sp : Nat) (f : Split → Split) : (s.modSplit g w sp f).fbufs = s.fbufs := rfl
@[simp] theorem State.modSplit_ctxs (s : State) (g w sp : Nat) (f : Split → Split) : (s.modSplit g w sp f).ctxs = s.ctxs := rfl
@[simp] theorem State.modSplit_grids (s : State) (g w sp : Nat) (f : Split → Split) : (s.modSplit g w sp f).grids = s.grids := rfl
@[simp] theorem State.modSplit_saves (s : State) (g w sp : Nat) (f : Split → Split) : (s.modSplit g w sp f).saves = s.saves := rfl
@[simp] theorem State.modSplit_mem (s : State) (g w sp : Nat) (f : Split → Split) : (s.modSplit g w sp f).mem = s.mem := rfl
@[simp] theorem State.modSplit_sys (s : State) (g w sp : Nat) (f : Split → Split) : (s.modSplit g w sp f).sys = s.sys := rfl
@[simp] theorem State.modSplit_memops (s : State) (g w sp : Nat) (f : Split → Split) : (s.modSplit g w sp f).memops = s.memops := rfl
@[simp] theorem State.modSplit_walks (s : State) (g w sp : Nat) (f : Split → Split) : (s.modSplit g w sp f).walks = s.walks := rfl
@[simp] theorem State.modSplit_copies (s : State) (g w sp : Nat) (f : Split → Split) : (s.modSplit g w sp f).copies = s.copies := rfl
@[simp] theorem State.modSplit_xops (s : State) (g w sp : Nat) (f : Split → Split) : (s.modSplit g w sp f).xops = s.xops := rfl
@[simp] theorem State.modSplit_reqs (s : State) (g w sp : Nat) (f : Split → Split) : (s.modSplit g w sp f).reqs = s.reqs := rfl
@[simp] theorem State.modSplit_queries (s : State) (g w sp : Nat) (f : Split → Split) : (s.modSplit g w sp f).queries = s.queries := rfl
@[simp] theorem State.modSplit_dma (s : State) (g w sp : Nat) (f : Split → Split) : (s.modSplit g w sp f).dma = s.dma := rfl
@[simp] theorem State.modSplit_ttc (s : State) (g w sp : Nat) (f : Split → Split) : (s.modSplit g w sp f).ttc = s.ttc := rfl
@[simp] theorem State.modSplit_resvs (s : State) (g w sp : Nat) (f : Split → Split) : (s.modSplit g w sp f).resvs = s.resvs := rfl
@[simp] theorem State.modSplit_outbox (s : State) (g w sp : Nat) (f : Split → Split) : (s.modSplit g w sp f).outbox = s.outbox := rfl

-- modSeq
@[simp] theorem State.modSeq_clk (s : State) (g : Nat) (f : Seq → Seq) : (s.modSeq g f).clk = s.clk := rfl
@[simp] theorem State.modSeq_clkStop (s : State) (g : Nat) (f : Seq → Seq) : (s.modSeq g f).clkStop = s.clkStop := rfl
@[simp] theorem State.modSeq_frozen (s : State) (g : Nat) (f : Seq → Seq) : (s.modSeq g f).frozen = s.frozen := rfl
@[simp] theorem State.modSeq_issuing (s : State) (g : Nat) (f : Seq → Seq) : (s.modSeq g f).issuing = s.issuing := rfl
@[simp] theorem State.modSeq_agenda (s : State) (g : Nat) (f : Seq → Seq) : (s.modSeq g f).agenda = s.agenda := rfl
@[simp] theorem State.modSeq_ingress (s : State) (g : Nat) (f : Seq → Seq) : (s.modSeq g f).ingress = s.ingress := rfl
@[simp] theorem State.modSeq_boot (s : State) (g : Nat) (f : Seq → Seq) : (s.modSeq g f).boot = s.boot := rfl
@[simp] theorem State.modSeq_free (s : State) (g : Nat) (f : Seq → Seq) : (s.modSeq g f).free = s.free := rfl
@[simp] theorem State.modSeq_nextId (s : State) (g : Nat) (f : Seq → Seq) : (s.modSeq g f).nextId = s.nextId := rfl
@[simp] theorem State.modSeq_ages (s : State) (g : Nat) (f : Seq → Seq) : (s.modSeq g f).ages = s.ages := rfl
@[simp] theorem State.modSeq_pkg (s : State) (g : Nat) (f : Seq → Seq) : (s.modSeq g f).pkg = s.pkg := rfl
@[simp] theorem State.modSeq_dies (s : State) (g : Nat) (f : Seq → Seq) : (s.modSeq g f).dies = s.dies := rfl
@[simp] theorem State.modSeq_clusters (s : State) (g : Nat) (f : Seq → Seq) : (s.modSeq g f).clusters = s.clusters := rfl
@[simp] theorem State.modSeq_cores (s : State) (g : Nat) (f : Seq → Seq) : (s.modSeq g f).cores = s.cores := rfl
@[simp] theorem State.modSeq_coals (s : State) (g : Nat) (f : Seq → Seq) : (s.modSeq g f).coals = s.coals := rfl
@[simp] theorem State.modSeq_fbufs (s : State) (g : Nat) (f : Seq → Seq) : (s.modSeq g f).fbufs = s.fbufs := rfl
@[simp] theorem State.modSeq_ctxs (s : State) (g : Nat) (f : Seq → Seq) : (s.modSeq g f).ctxs = s.ctxs := rfl
@[simp] theorem State.modSeq_grids (s : State) (g : Nat) (f : Seq → Seq) : (s.modSeq g f).grids = s.grids := rfl
@[simp] theorem State.modSeq_saves (s : State) (g : Nat) (f : Seq → Seq) : (s.modSeq g f).saves = s.saves := rfl
@[simp] theorem State.modSeq_mem (s : State) (g : Nat) (f : Seq → Seq) : (s.modSeq g f).mem = s.mem := rfl
@[simp] theorem State.modSeq_sys (s : State) (g : Nat) (f : Seq → Seq) : (s.modSeq g f).sys = s.sys := rfl
@[simp] theorem State.modSeq_memops (s : State) (g : Nat) (f : Seq → Seq) : (s.modSeq g f).memops = s.memops := rfl
@[simp] theorem State.modSeq_walks (s : State) (g : Nat) (f : Seq → Seq) : (s.modSeq g f).walks = s.walks := rfl
@[simp] theorem State.modSeq_copies (s : State) (g : Nat) (f : Seq → Seq) : (s.modSeq g f).copies = s.copies := rfl
@[simp] theorem State.modSeq_xops (s : State) (g : Nat) (f : Seq → Seq) : (s.modSeq g f).xops = s.xops := rfl
@[simp] theorem State.modSeq_reqs (s : State) (g : Nat) (f : Seq → Seq) : (s.modSeq g f).reqs = s.reqs := rfl
@[simp] theorem State.modSeq_queries (s : State) (g : Nat) (f : Seq → Seq) : (s.modSeq g f).queries = s.queries := rfl
@[simp] theorem State.modSeq_dma (s : State) (g : Nat) (f : Seq → Seq) : (s.modSeq g f).dma = s.dma := rfl
@[simp] theorem State.modSeq_ttc (s : State) (g : Nat) (f : Seq → Seq) : (s.modSeq g f).ttc = s.ttc := rfl
@[simp] theorem State.modSeq_resvs (s : State) (g : Nat) (f : Seq → Seq) : (s.modSeq g f).resvs = s.resvs := rfl
@[simp] theorem State.modSeq_outbox (s : State) (g : Nat) (f : Seq → Seq) : (s.modSeq g f).outbox = s.outbox := rfl

-- modQuarter
@[simp] theorem State.modQuarter_clk (s : State) (c q : Nat) (f : Quarter → Quarter) : (s.modQuarter c q f).clk = s.clk := rfl
@[simp] theorem State.modQuarter_clkStop (s : State) (c q : Nat) (f : Quarter → Quarter) : (s.modQuarter c q f).clkStop = s.clkStop := rfl
@[simp] theorem State.modQuarter_frozen (s : State) (c q : Nat) (f : Quarter → Quarter) : (s.modQuarter c q f).frozen = s.frozen := rfl
@[simp] theorem State.modQuarter_issuing (s : State) (c q : Nat) (f : Quarter → Quarter) : (s.modQuarter c q f).issuing = s.issuing := rfl
@[simp] theorem State.modQuarter_agenda (s : State) (c q : Nat) (f : Quarter → Quarter) : (s.modQuarter c q f).agenda = s.agenda := rfl
@[simp] theorem State.modQuarter_ingress (s : State) (c q : Nat) (f : Quarter → Quarter) : (s.modQuarter c q f).ingress = s.ingress := rfl
@[simp] theorem State.modQuarter_boot (s : State) (c q : Nat) (f : Quarter → Quarter) : (s.modQuarter c q f).boot = s.boot := rfl
@[simp] theorem State.modQuarter_free (s : State) (c q : Nat) (f : Quarter → Quarter) : (s.modQuarter c q f).free = s.free := rfl
@[simp] theorem State.modQuarter_nextId (s : State) (c q : Nat) (f : Quarter → Quarter) : (s.modQuarter c q f).nextId = s.nextId := rfl
@[simp] theorem State.modQuarter_ages (s : State) (c q : Nat) (f : Quarter → Quarter) : (s.modQuarter c q f).ages = s.ages := rfl
@[simp] theorem State.modQuarter_pkg (s : State) (c q : Nat) (f : Quarter → Quarter) : (s.modQuarter c q f).pkg = s.pkg := rfl
@[simp] theorem State.modQuarter_dies (s : State) (c q : Nat) (f : Quarter → Quarter) : (s.modQuarter c q f).dies = s.dies := rfl
@[simp] theorem State.modQuarter_clusters (s : State) (c q : Nat) (f : Quarter → Quarter) : (s.modQuarter c q f).clusters = s.clusters := rfl
@[simp] theorem State.modQuarter_coals (s : State) (c q : Nat) (f : Quarter → Quarter) : (s.modQuarter c q f).coals = s.coals := rfl
@[simp] theorem State.modQuarter_fbufs (s : State) (c q : Nat) (f : Quarter → Quarter) : (s.modQuarter c q f).fbufs = s.fbufs := rfl
@[simp] theorem State.modQuarter_groups (s : State) (c q : Nat) (f : Quarter → Quarter) : (s.modQuarter c q f).groups = s.groups := rfl
@[simp] theorem State.modQuarter_ctxs (s : State) (c q : Nat) (f : Quarter → Quarter) : (s.modQuarter c q f).ctxs = s.ctxs := rfl
@[simp] theorem State.modQuarter_grids (s : State) (c q : Nat) (f : Quarter → Quarter) : (s.modQuarter c q f).grids = s.grids := rfl
@[simp] theorem State.modQuarter_saves (s : State) (c q : Nat) (f : Quarter → Quarter) : (s.modQuarter c q f).saves = s.saves := rfl
@[simp] theorem State.modQuarter_mem (s : State) (c q : Nat) (f : Quarter → Quarter) : (s.modQuarter c q f).mem = s.mem := rfl
@[simp] theorem State.modQuarter_sys (s : State) (c q : Nat) (f : Quarter → Quarter) : (s.modQuarter c q f).sys = s.sys := rfl
@[simp] theorem State.modQuarter_memops (s : State) (c q : Nat) (f : Quarter → Quarter) : (s.modQuarter c q f).memops = s.memops := rfl
@[simp] theorem State.modQuarter_walks (s : State) (c q : Nat) (f : Quarter → Quarter) : (s.modQuarter c q f).walks = s.walks := rfl
@[simp] theorem State.modQuarter_copies (s : State) (c q : Nat) (f : Quarter → Quarter) : (s.modQuarter c q f).copies = s.copies := rfl
@[simp] theorem State.modQuarter_xops (s : State) (c q : Nat) (f : Quarter → Quarter) : (s.modQuarter c q f).xops = s.xops := rfl
@[simp] theorem State.modQuarter_reqs (s : State) (c q : Nat) (f : Quarter → Quarter) : (s.modQuarter c q f).reqs = s.reqs := rfl
@[simp] theorem State.modQuarter_queries (s : State) (c q : Nat) (f : Quarter → Quarter) : (s.modQuarter c q f).queries = s.queries := rfl
@[simp] theorem State.modQuarter_dma (s : State) (c q : Nat) (f : Quarter → Quarter) : (s.modQuarter c q f).dma = s.dma := rfl
@[simp] theorem State.modQuarter_ttc (s : State) (c q : Nat) (f : Quarter → Quarter) : (s.modQuarter c q f).ttc = s.ttc := rfl
@[simp] theorem State.modQuarter_resvs (s : State) (c q : Nat) (f : Quarter → Quarter) : (s.modQuarter c q f).resvs = s.resvs := rfl
@[simp] theorem State.modQuarter_outbox (s : State) (c q : Nat) (f : Quarter → Quarter) : (s.modQuarter c q f).outbox = s.outbox := rfl

-- modPkg
@[simp] theorem State.modPkg_clk (s : State) (f : Pkg → Pkg) : (s.modPkg f).clk = s.clk := rfl
@[simp] theorem State.modPkg_clkStop (s : State) (f : Pkg → Pkg) : (s.modPkg f).clkStop = s.clkStop := rfl
@[simp] theorem State.modPkg_frozen (s : State) (f : Pkg → Pkg) : (s.modPkg f).frozen = s.frozen := rfl
@[simp] theorem State.modPkg_issuing (s : State) (f : Pkg → Pkg) : (s.modPkg f).issuing = s.issuing := rfl
@[simp] theorem State.modPkg_agenda (s : State) (f : Pkg → Pkg) : (s.modPkg f).agenda = s.agenda := rfl
@[simp] theorem State.modPkg_ingress (s : State) (f : Pkg → Pkg) : (s.modPkg f).ingress = s.ingress := rfl
@[simp] theorem State.modPkg_boot (s : State) (f : Pkg → Pkg) : (s.modPkg f).boot = s.boot := rfl
@[simp] theorem State.modPkg_free (s : State) (f : Pkg → Pkg) : (s.modPkg f).free = s.free := rfl
@[simp] theorem State.modPkg_nextId (s : State) (f : Pkg → Pkg) : (s.modPkg f).nextId = s.nextId := rfl
@[simp] theorem State.modPkg_ages (s : State) (f : Pkg → Pkg) : (s.modPkg f).ages = s.ages := rfl
@[simp] theorem State.modPkg_dies (s : State) (f : Pkg → Pkg) : (s.modPkg f).dies = s.dies := rfl
@[simp] theorem State.modPkg_clusters (s : State) (f : Pkg → Pkg) : (s.modPkg f).clusters = s.clusters := rfl
@[simp] theorem State.modPkg_cores (s : State) (f : Pkg → Pkg) : (s.modPkg f).cores = s.cores := rfl
@[simp] theorem State.modPkg_coals (s : State) (f : Pkg → Pkg) : (s.modPkg f).coals = s.coals := rfl
@[simp] theorem State.modPkg_fbufs (s : State) (f : Pkg → Pkg) : (s.modPkg f).fbufs = s.fbufs := rfl
@[simp] theorem State.modPkg_groups (s : State) (f : Pkg → Pkg) : (s.modPkg f).groups = s.groups := rfl
@[simp] theorem State.modPkg_ctxs (s : State) (f : Pkg → Pkg) : (s.modPkg f).ctxs = s.ctxs := rfl
@[simp] theorem State.modPkg_grids (s : State) (f : Pkg → Pkg) : (s.modPkg f).grids = s.grids := rfl
@[simp] theorem State.modPkg_saves (s : State) (f : Pkg → Pkg) : (s.modPkg f).saves = s.saves := rfl
@[simp] theorem State.modPkg_mem (s : State) (f : Pkg → Pkg) : (s.modPkg f).mem = s.mem := rfl
@[simp] theorem State.modPkg_sys (s : State) (f : Pkg → Pkg) : (s.modPkg f).sys = s.sys := rfl
@[simp] theorem State.modPkg_memops (s : State) (f : Pkg → Pkg) : (s.modPkg f).memops = s.memops := rfl
@[simp] theorem State.modPkg_walks (s : State) (f : Pkg → Pkg) : (s.modPkg f).walks = s.walks := rfl
@[simp] theorem State.modPkg_copies (s : State) (f : Pkg → Pkg) : (s.modPkg f).copies = s.copies := rfl
@[simp] theorem State.modPkg_xops (s : State) (f : Pkg → Pkg) : (s.modPkg f).xops = s.xops := rfl
@[simp] theorem State.modPkg_reqs (s : State) (f : Pkg → Pkg) : (s.modPkg f).reqs = s.reqs := rfl
@[simp] theorem State.modPkg_queries (s : State) (f : Pkg → Pkg) : (s.modPkg f).queries = s.queries := rfl
@[simp] theorem State.modPkg_dma (s : State) (f : Pkg → Pkg) : (s.modPkg f).dma = s.dma := rfl
@[simp] theorem State.modPkg_ttc (s : State) (f : Pkg → Pkg) : (s.modPkg f).ttc = s.ttc := rfl
@[simp] theorem State.modPkg_resvs (s : State) (f : Pkg → Pkg) : (s.modPkg f).resvs = s.resvs := rfl
@[simp] theorem State.modPkg_outbox (s : State) (f : Pkg → Pkg) : (s.modPkg f).outbox = s.outbox := rfl

-- newId
@[simp] theorem State.newId_clk (s : State) : (s.newId).clk = s.clk := rfl
@[simp] theorem State.newId_clkStop (s : State) : (s.newId).clkStop = s.clkStop := rfl
@[simp] theorem State.newId_frozen (s : State) : (s.newId).frozen = s.frozen := rfl
@[simp] theorem State.newId_issuing (s : State) : (s.newId).issuing = s.issuing := rfl
@[simp] theorem State.newId_agenda (s : State) : (s.newId).agenda = s.agenda := rfl
@[simp] theorem State.newId_ingress (s : State) : (s.newId).ingress = s.ingress := rfl
@[simp] theorem State.newId_boot (s : State) : (s.newId).boot = s.boot := rfl
@[simp] theorem State.newId_free (s : State) : (s.newId).free = s.free := rfl
@[simp] theorem State.newId_ages (s : State) : (s.newId).ages = s.ages := rfl
@[simp] theorem State.newId_pkg (s : State) : (s.newId).pkg = s.pkg := rfl
@[simp] theorem State.newId_dies (s : State) : (s.newId).dies = s.dies := rfl
@[simp] theorem State.newId_clusters (s : State) : (s.newId).clusters = s.clusters := rfl
@[simp] theorem State.newId_cores (s : State) : (s.newId).cores = s.cores := rfl
@[simp] theorem State.newId_coals (s : State) : (s.newId).coals = s.coals := rfl
@[simp] theorem State.newId_fbufs (s : State) : (s.newId).fbufs = s.fbufs := rfl
@[simp] theorem State.newId_groups (s : State) : (s.newId).groups = s.groups := rfl
@[simp] theorem State.newId_ctxs (s : State) : (s.newId).ctxs = s.ctxs := rfl
@[simp] theorem State.newId_grids (s : State) : (s.newId).grids = s.grids := rfl
@[simp] theorem State.newId_saves (s : State) : (s.newId).saves = s.saves := rfl
@[simp] theorem State.newId_mem (s : State) : (s.newId).mem = s.mem := rfl
@[simp] theorem State.newId_sys (s : State) : (s.newId).sys = s.sys := rfl
@[simp] theorem State.newId_memops (s : State) : (s.newId).memops = s.memops := rfl
@[simp] theorem State.newId_walks (s : State) : (s.newId).walks = s.walks := rfl
@[simp] theorem State.newId_copies (s : State) : (s.newId).copies = s.copies := rfl
@[simp] theorem State.newId_xops (s : State) : (s.newId).xops = s.xops := rfl
@[simp] theorem State.newId_reqs (s : State) : (s.newId).reqs = s.reqs := rfl
@[simp] theorem State.newId_queries (s : State) : (s.newId).queries = s.queries := rfl
@[simp] theorem State.newId_dma (s : State) : (s.newId).dma = s.dma := rfl
@[simp] theorem State.newId_ttc (s : State) : (s.newId).ttc = s.ttc := rfl
@[simp] theorem State.newId_resvs (s : State) : (s.newId).resvs = s.resvs := rfl
@[simp] theorem State.newId_outbox (s : State) : (s.newId).outbox = s.outbox := rfl

-- drawn
@[simp] theorem State.drawn_clk (s : State) : (s.drawn).clk = s.clk := rfl
@[simp] theorem State.drawn_clkStop (s : State) : (s.drawn).clkStop = s.clkStop := rfl
@[simp] theorem State.drawn_frozen (s : State) : (s.drawn).frozen = s.frozen := rfl
@[simp] theorem State.drawn_issuing (s : State) : (s.drawn).issuing = s.issuing := rfl
@[simp] theorem State.drawn_agenda (s : State) : (s.drawn).agenda = s.agenda := rfl
@[simp] theorem State.drawn_ingress (s : State) : (s.drawn).ingress = s.ingress := rfl
@[simp] theorem State.drawn_boot (s : State) : (s.drawn).boot = s.boot := rfl
@[simp] theorem State.drawn_nextId (s : State) : (s.drawn).nextId = s.nextId := rfl
@[simp] theorem State.drawn_ages (s : State) : (s.drawn).ages = s.ages := rfl
@[simp] theorem State.drawn_pkg (s : State) : (s.drawn).pkg = s.pkg := rfl
@[simp] theorem State.drawn_dies (s : State) : (s.drawn).dies = s.dies := rfl
@[simp] theorem State.drawn_clusters (s : State) : (s.drawn).clusters = s.clusters := rfl
@[simp] theorem State.drawn_cores (s : State) : (s.drawn).cores = s.cores := rfl
@[simp] theorem State.drawn_coals (s : State) : (s.drawn).coals = s.coals := rfl
@[simp] theorem State.drawn_fbufs (s : State) : (s.drawn).fbufs = s.fbufs := rfl
@[simp] theorem State.drawn_groups (s : State) : (s.drawn).groups = s.groups := rfl
@[simp] theorem State.drawn_ctxs (s : State) : (s.drawn).ctxs = s.ctxs := rfl
@[simp] theorem State.drawn_grids (s : State) : (s.drawn).grids = s.grids := rfl
@[simp] theorem State.drawn_saves (s : State) : (s.drawn).saves = s.saves := rfl
@[simp] theorem State.drawn_mem (s : State) : (s.drawn).mem = s.mem := rfl
@[simp] theorem State.drawn_sys (s : State) : (s.drawn).sys = s.sys := rfl
@[simp] theorem State.drawn_memops (s : State) : (s.drawn).memops = s.memops := rfl
@[simp] theorem State.drawn_walks (s : State) : (s.drawn).walks = s.walks := rfl
@[simp] theorem State.drawn_copies (s : State) : (s.drawn).copies = s.copies := rfl
@[simp] theorem State.drawn_xops (s : State) : (s.drawn).xops = s.xops := rfl
@[simp] theorem State.drawn_reqs (s : State) : (s.drawn).reqs = s.reqs := rfl
@[simp] theorem State.drawn_queries (s : State) : (s.drawn).queries = s.queries := rfl
@[simp] theorem State.drawn_dma (s : State) : (s.drawn).dma = s.dma := rfl
@[simp] theorem State.drawn_ttc (s : State) : (s.drawn).ttc = s.ttc := rfl
@[simp] theorem State.drawn_resvs (s : State) : (s.drawn).resvs = s.resvs := rfl
@[simp] theorem State.drawn_outbox (s : State) : (s.drawn).outbox = s.outbox := rfl

-- addOp
@[simp] theorem State.addOp_clk (s : State) (o : MemOp) : (s.addOp o).clk = s.clk := rfl
@[simp] theorem State.addOp_clkStop (s : State) (o : MemOp) : (s.addOp o).clkStop = s.clkStop := rfl
@[simp] theorem State.addOp_frozen (s : State) (o : MemOp) : (s.addOp o).frozen = s.frozen := rfl
@[simp] theorem State.addOp_issuing (s : State) (o : MemOp) : (s.addOp o).issuing = s.issuing := rfl
@[simp] theorem State.addOp_agenda (s : State) (o : MemOp) : (s.addOp o).agenda = s.agenda := rfl
@[simp] theorem State.addOp_ingress (s : State) (o : MemOp) : (s.addOp o).ingress = s.ingress := rfl
@[simp] theorem State.addOp_boot (s : State) (o : MemOp) : (s.addOp o).boot = s.boot := rfl
@[simp] theorem State.addOp_free (s : State) (o : MemOp) : (s.addOp o).free = s.free := rfl
@[simp] theorem State.addOp_ages (s : State) (o : MemOp) : (s.addOp o).ages = s.ages := rfl
@[simp] theorem State.addOp_pkg (s : State) (o : MemOp) : (s.addOp o).pkg = s.pkg := rfl
@[simp] theorem State.addOp_dies (s : State) (o : MemOp) : (s.addOp o).dies = s.dies := rfl
@[simp] theorem State.addOp_clusters (s : State) (o : MemOp) : (s.addOp o).clusters = s.clusters := rfl
@[simp] theorem State.addOp_cores (s : State) (o : MemOp) : (s.addOp o).cores = s.cores := rfl
@[simp] theorem State.addOp_coals (s : State) (o : MemOp) : (s.addOp o).coals = s.coals := rfl
@[simp] theorem State.addOp_fbufs (s : State) (o : MemOp) : (s.addOp o).fbufs = s.fbufs := rfl
@[simp] theorem State.addOp_groups (s : State) (o : MemOp) : (s.addOp o).groups = s.groups := rfl
@[simp] theorem State.addOp_ctxs (s : State) (o : MemOp) : (s.addOp o).ctxs = s.ctxs := rfl
@[simp] theorem State.addOp_grids (s : State) (o : MemOp) : (s.addOp o).grids = s.grids := rfl
@[simp] theorem State.addOp_saves (s : State) (o : MemOp) : (s.addOp o).saves = s.saves := rfl
@[simp] theorem State.addOp_mem (s : State) (o : MemOp) : (s.addOp o).mem = s.mem := rfl
@[simp] theorem State.addOp_sys (s : State) (o : MemOp) : (s.addOp o).sys = s.sys := rfl
@[simp] theorem State.addOp_walks (s : State) (o : MemOp) : (s.addOp o).walks = s.walks := rfl
@[simp] theorem State.addOp_copies (s : State) (o : MemOp) : (s.addOp o).copies = s.copies := rfl
@[simp] theorem State.addOp_xops (s : State) (o : MemOp) : (s.addOp o).xops = s.xops := rfl
@[simp] theorem State.addOp_reqs (s : State) (o : MemOp) : (s.addOp o).reqs = s.reqs := rfl
@[simp] theorem State.addOp_queries (s : State) (o : MemOp) : (s.addOp o).queries = s.queries := rfl
@[simp] theorem State.addOp_dma (s : State) (o : MemOp) : (s.addOp o).dma = s.dma := rfl
@[simp] theorem State.addOp_ttc (s : State) (o : MemOp) : (s.addOp o).ttc = s.ttc := rfl
@[simp] theorem State.addOp_resvs (s : State) (o : MemOp) : (s.addOp o).resvs = s.resvs := rfl
@[simp] theorem State.addOp_outbox (s : State) (o : MemOp) : (s.addOp o).outbox = s.outbox := rfl

-- setCtxState
@[simp] theorem State.setCtxState_clk (s : State) (x : Nat) (st : CtxState) : (s.setCtxState x st).clk = s.clk := rfl
@[simp] theorem State.setCtxState_clkStop (s : State) (x : Nat) (st : CtxState) : (s.setCtxState x st).clkStop = s.clkStop := rfl
@[simp] theorem State.setCtxState_frozen (s : State) (x : Nat) (st : CtxState) : (s.setCtxState x st).frozen = s.frozen := rfl
@[simp] theorem State.setCtxState_issuing (s : State) (x : Nat) (st : CtxState) : (s.setCtxState x st).issuing = s.issuing := rfl
@[simp] theorem State.setCtxState_agenda (s : State) (x : Nat) (st : CtxState) : (s.setCtxState x st).agenda = s.agenda := rfl
@[simp] theorem State.setCtxState_ingress (s : State) (x : Nat) (st : CtxState) : (s.setCtxState x st).ingress = s.ingress := rfl
@[simp] theorem State.setCtxState_boot (s : State) (x : Nat) (st : CtxState) : (s.setCtxState x st).boot = s.boot := rfl
@[simp] theorem State.setCtxState_free (s : State) (x : Nat) (st : CtxState) : (s.setCtxState x st).free = s.free := rfl
@[simp] theorem State.setCtxState_nextId (s : State) (x : Nat) (st : CtxState) : (s.setCtxState x st).nextId = s.nextId := rfl
@[simp] theorem State.setCtxState_ages (s : State) (x : Nat) (st : CtxState) : (s.setCtxState x st).ages = s.ages := rfl
@[simp] theorem State.setCtxState_pkg (s : State) (x : Nat) (st : CtxState) : (s.setCtxState x st).pkg = s.pkg := rfl
@[simp] theorem State.setCtxState_dies (s : State) (x : Nat) (st : CtxState) : (s.setCtxState x st).dies = s.dies := rfl
@[simp] theorem State.setCtxState_clusters (s : State) (x : Nat) (st : CtxState) : (s.setCtxState x st).clusters = s.clusters := rfl
@[simp] theorem State.setCtxState_cores (s : State) (x : Nat) (st : CtxState) : (s.setCtxState x st).cores = s.cores := rfl
@[simp] theorem State.setCtxState_coals (s : State) (x : Nat) (st : CtxState) : (s.setCtxState x st).coals = s.coals := rfl
@[simp] theorem State.setCtxState_fbufs (s : State) (x : Nat) (st : CtxState) : (s.setCtxState x st).fbufs = s.fbufs := rfl
@[simp] theorem State.setCtxState_groups (s : State) (x : Nat) (st : CtxState) : (s.setCtxState x st).groups = s.groups := rfl
@[simp] theorem State.setCtxState_grids (s : State) (x : Nat) (st : CtxState) : (s.setCtxState x st).grids = s.grids := rfl
@[simp] theorem State.setCtxState_saves (s : State) (x : Nat) (st : CtxState) : (s.setCtxState x st).saves = s.saves := rfl
@[simp] theorem State.setCtxState_mem (s : State) (x : Nat) (st : CtxState) : (s.setCtxState x st).mem = s.mem := rfl
@[simp] theorem State.setCtxState_sys (s : State) (x : Nat) (st : CtxState) : (s.setCtxState x st).sys = s.sys := rfl
@[simp] theorem State.setCtxState_memops (s : State) (x : Nat) (st : CtxState) : (s.setCtxState x st).memops = s.memops := rfl
@[simp] theorem State.setCtxState_walks (s : State) (x : Nat) (st : CtxState) : (s.setCtxState x st).walks = s.walks := rfl
@[simp] theorem State.setCtxState_copies (s : State) (x : Nat) (st : CtxState) : (s.setCtxState x st).copies = s.copies := rfl
@[simp] theorem State.setCtxState_xops (s : State) (x : Nat) (st : CtxState) : (s.setCtxState x st).xops = s.xops := rfl
@[simp] theorem State.setCtxState_reqs (s : State) (x : Nat) (st : CtxState) : (s.setCtxState x st).reqs = s.reqs := rfl
@[simp] theorem State.setCtxState_queries (s : State) (x : Nat) (st : CtxState) : (s.setCtxState x st).queries = s.queries := rfl
@[simp] theorem State.setCtxState_dma (s : State) (x : Nat) (st : CtxState) : (s.setCtxState x st).dma = s.dma := rfl
@[simp] theorem State.setCtxState_ttc (s : State) (x : Nat) (st : CtxState) : (s.setCtxState x st).ttc = s.ttc := rfl
@[simp] theorem State.setCtxState_resvs (s : State) (x : Nat) (st : CtxState) : (s.setCtxState x st).resvs = s.resvs := rfl
@[simp] theorem State.setCtxState_outbox (s : State) (x : Nat) (st : CtxState) : (s.setCtxState x st).outbox = s.outbox := rfl

-- putX
@[simp] theorem State.putX_clk (s : State) (id : Nat) (f : XOp → XOp) : (s.putX id f).clk = s.clk := rfl
@[simp] theorem State.putX_clkStop (s : State) (id : Nat) (f : XOp → XOp) : (s.putX id f).clkStop = s.clkStop := rfl
@[simp] theorem State.putX_frozen (s : State) (id : Nat) (f : XOp → XOp) : (s.putX id f).frozen = s.frozen := rfl
@[simp] theorem State.putX_issuing (s : State) (id : Nat) (f : XOp → XOp) : (s.putX id f).issuing = s.issuing := rfl
@[simp] theorem State.putX_agenda (s : State) (id : Nat) (f : XOp → XOp) : (s.putX id f).agenda = s.agenda := rfl
@[simp] theorem State.putX_ingress (s : State) (id : Nat) (f : XOp → XOp) : (s.putX id f).ingress = s.ingress := rfl
@[simp] theorem State.putX_boot (s : State) (id : Nat) (f : XOp → XOp) : (s.putX id f).boot = s.boot := rfl
@[simp] theorem State.putX_free (s : State) (id : Nat) (f : XOp → XOp) : (s.putX id f).free = s.free := rfl
@[simp] theorem State.putX_nextId (s : State) (id : Nat) (f : XOp → XOp) : (s.putX id f).nextId = s.nextId := rfl
@[simp] theorem State.putX_ages (s : State) (id : Nat) (f : XOp → XOp) : (s.putX id f).ages = s.ages := rfl
@[simp] theorem State.putX_pkg (s : State) (id : Nat) (f : XOp → XOp) : (s.putX id f).pkg = s.pkg := rfl
@[simp] theorem State.putX_dies (s : State) (id : Nat) (f : XOp → XOp) : (s.putX id f).dies = s.dies := rfl
@[simp] theorem State.putX_clusters (s : State) (id : Nat) (f : XOp → XOp) : (s.putX id f).clusters = s.clusters := rfl
@[simp] theorem State.putX_cores (s : State) (id : Nat) (f : XOp → XOp) : (s.putX id f).cores = s.cores := rfl
@[simp] theorem State.putX_coals (s : State) (id : Nat) (f : XOp → XOp) : (s.putX id f).coals = s.coals := rfl
@[simp] theorem State.putX_fbufs (s : State) (id : Nat) (f : XOp → XOp) : (s.putX id f).fbufs = s.fbufs := rfl
@[simp] theorem State.putX_groups (s : State) (id : Nat) (f : XOp → XOp) : (s.putX id f).groups = s.groups := rfl
@[simp] theorem State.putX_ctxs (s : State) (id : Nat) (f : XOp → XOp) : (s.putX id f).ctxs = s.ctxs := rfl
@[simp] theorem State.putX_grids (s : State) (id : Nat) (f : XOp → XOp) : (s.putX id f).grids = s.grids := rfl
@[simp] theorem State.putX_saves (s : State) (id : Nat) (f : XOp → XOp) : (s.putX id f).saves = s.saves := rfl
@[simp] theorem State.putX_mem (s : State) (id : Nat) (f : XOp → XOp) : (s.putX id f).mem = s.mem := rfl
@[simp] theorem State.putX_sys (s : State) (id : Nat) (f : XOp → XOp) : (s.putX id f).sys = s.sys := rfl
@[simp] theorem State.putX_memops (s : State) (id : Nat) (f : XOp → XOp) : (s.putX id f).memops = s.memops := rfl
@[simp] theorem State.putX_walks (s : State) (id : Nat) (f : XOp → XOp) : (s.putX id f).walks = s.walks := rfl
@[simp] theorem State.putX_copies (s : State) (id : Nat) (f : XOp → XOp) : (s.putX id f).copies = s.copies := rfl
@[simp] theorem State.putX_reqs (s : State) (id : Nat) (f : XOp → XOp) : (s.putX id f).reqs = s.reqs := rfl
@[simp] theorem State.putX_queries (s : State) (id : Nat) (f : XOp → XOp) : (s.putX id f).queries = s.queries := rfl
@[simp] theorem State.putX_dma (s : State) (id : Nat) (f : XOp → XOp) : (s.putX id f).dma = s.dma := rfl
@[simp] theorem State.putX_ttc (s : State) (id : Nat) (f : XOp → XOp) : (s.putX id f).ttc = s.ttc := rfl
@[simp] theorem State.putX_resvs (s : State) (id : Nat) (f : XOp → XOp) : (s.putX id f).resvs = s.resvs := rfl
@[simp] theorem State.putX_outbox (s : State) (id : Nat) (f : XOp → XOp) : (s.putX id f).outbox = s.outbox := rfl

-- setCoal
@[simp] theorem State.setCoal_clk (s : State) (u : Nat) (k : Coal) : (s.setCoal u k).clk = s.clk := rfl
@[simp] theorem State.setCoal_clkStop (s : State) (u : Nat) (k : Coal) : (s.setCoal u k).clkStop = s.clkStop := rfl
@[simp] theorem State.setCoal_frozen (s : State) (u : Nat) (k : Coal) : (s.setCoal u k).frozen = s.frozen := rfl
@[simp] theorem State.setCoal_issuing (s : State) (u : Nat) (k : Coal) : (s.setCoal u k).issuing = s.issuing := rfl
@[simp] theorem State.setCoal_agenda (s : State) (u : Nat) (k : Coal) : (s.setCoal u k).agenda = s.agenda := rfl
@[simp] theorem State.setCoal_ingress (s : State) (u : Nat) (k : Coal) : (s.setCoal u k).ingress = s.ingress := rfl
@[simp] theorem State.setCoal_boot (s : State) (u : Nat) (k : Coal) : (s.setCoal u k).boot = s.boot := rfl
@[simp] theorem State.setCoal_free (s : State) (u : Nat) (k : Coal) : (s.setCoal u k).free = s.free := rfl
@[simp] theorem State.setCoal_nextId (s : State) (u : Nat) (k : Coal) : (s.setCoal u k).nextId = s.nextId := rfl
@[simp] theorem State.setCoal_ages (s : State) (u : Nat) (k : Coal) : (s.setCoal u k).ages = s.ages := rfl
@[simp] theorem State.setCoal_pkg (s : State) (u : Nat) (k : Coal) : (s.setCoal u k).pkg = s.pkg := rfl
@[simp] theorem State.setCoal_dies (s : State) (u : Nat) (k : Coal) : (s.setCoal u k).dies = s.dies := rfl
@[simp] theorem State.setCoal_clusters (s : State) (u : Nat) (k : Coal) : (s.setCoal u k).clusters = s.clusters := rfl
@[simp] theorem State.setCoal_cores (s : State) (u : Nat) (k : Coal) : (s.setCoal u k).cores = s.cores := rfl
@[simp] theorem State.setCoal_fbufs (s : State) (u : Nat) (k : Coal) : (s.setCoal u k).fbufs = s.fbufs := rfl
@[simp] theorem State.setCoal_groups (s : State) (u : Nat) (k : Coal) : (s.setCoal u k).groups = s.groups := rfl
@[simp] theorem State.setCoal_ctxs (s : State) (u : Nat) (k : Coal) : (s.setCoal u k).ctxs = s.ctxs := rfl
@[simp] theorem State.setCoal_grids (s : State) (u : Nat) (k : Coal) : (s.setCoal u k).grids = s.grids := rfl
@[simp] theorem State.setCoal_saves (s : State) (u : Nat) (k : Coal) : (s.setCoal u k).saves = s.saves := rfl
@[simp] theorem State.setCoal_mem (s : State) (u : Nat) (k : Coal) : (s.setCoal u k).mem = s.mem := rfl
@[simp] theorem State.setCoal_sys (s : State) (u : Nat) (k : Coal) : (s.setCoal u k).sys = s.sys := rfl
@[simp] theorem State.setCoal_memops (s : State) (u : Nat) (k : Coal) : (s.setCoal u k).memops = s.memops := rfl
@[simp] theorem State.setCoal_walks (s : State) (u : Nat) (k : Coal) : (s.setCoal u k).walks = s.walks := rfl
@[simp] theorem State.setCoal_copies (s : State) (u : Nat) (k : Coal) : (s.setCoal u k).copies = s.copies := rfl
@[simp] theorem State.setCoal_xops (s : State) (u : Nat) (k : Coal) : (s.setCoal u k).xops = s.xops := rfl
@[simp] theorem State.setCoal_reqs (s : State) (u : Nat) (k : Coal) : (s.setCoal u k).reqs = s.reqs := rfl
@[simp] theorem State.setCoal_queries (s : State) (u : Nat) (k : Coal) : (s.setCoal u k).queries = s.queries := rfl
@[simp] theorem State.setCoal_dma (s : State) (u : Nat) (k : Coal) : (s.setCoal u k).dma = s.dma := rfl
@[simp] theorem State.setCoal_ttc (s : State) (u : Nat) (k : Coal) : (s.setCoal u k).ttc = s.ttc := rfl
@[simp] theorem State.setCoal_resvs (s : State) (u : Nat) (k : Coal) : (s.setCoal u k).resvs = s.resvs := rfl
@[simp] theorem State.setCoal_outbox (s : State) (u : Nat) (k : Coal) : (s.setCoal u k).outbox = s.outbox := rfl

-- What the updated part reads as --------------------------------------------------------------

@[simp] theorem State.modGrp_groups (s : State) (g : Nat) (f : Group → Group) :
    (s.modGrp g f).groups = SMap.mod g f s.groups := rfl
@[simp] theorem State.modCore_cores (s : State) (c : Nat) (f : Core → Core) :
    (s.modCore c f).cores = SMap.modD c Core.empty f s.cores := rfl
@[simp] theorem State.modDie_dies (s : State) (d : Nat) (f : Die → Die) :
    (s.modDie d f).dies = SMap.modD d Die.empty f s.dies := rfl
@[simp] theorem State.modPkg_pkg (s : State) (f : Pkg → Pkg) : (s.modPkg f).pkg = f s.pkg := rfl
@[simp] theorem State.setCoal_coals (s : State) (u : Nat) (k : Coal) : (s.setCoal u k).coals = SMap.set u k s.coals := rfl
@[simp] theorem State.newId_nextId (s : State) : s.newId.nextId = s.nextId + 1 := rfl
@[simp] theorem State.drawn_free (s : State) : s.drawn.free = s.free + 1 := rfl
@[simp] theorem State.addOp_nextId (s : State) (o : MemOp) : (s.addOp o).nextId = s.nextId + 1 := rfl
@[simp] theorem State.addOp_memops (s : State) (o : MemOp) :
    (s.addOp o).memops = s.memops ++ [{ o with id := s.nextId, since := s.clk }] := rfl

end Sys2Proof.Machine
end

