-- ==== Sys2Proof/Laws/Ops.lean ====
section
/-!
SUPPORT. What the shared operations on the state do, one lemma for each: the parts of a group after an update, a
result put on its way, a result written back, and the words of the two streams as the step runs them.
-/

namespace Sys2Proof.Machine

-- Words ---------------------------------------------------------------------------------------

theorem runLo_eq_exec (x : FormLo) (s : State) : runLo x s = exec (Form.lo x).toInstr s := by cases x <;> rfl

theorem runHi_eq_exec (x : FormHi) (s : State) : runHi x s = exec (Form.hi x).toInstr s := by cases x <;> rfl

/-- A word runs as the instruction that it is. -/
theorem runWord_eq_exec (x : Form) (s : State) : runWord x s = exec x.toInstr s := by
  cases x with
  | lo x => exact runLo_eq_exec x s
  | hi x => exact runHi_eq_exec x s

theorem lo_toInstr_form (x : FormLo) : (Form.lo x).toInstr.form = some (.lo x) := by cases x <;> rfl

theorem hi_toInstr_form (x : FormHi) : (Form.hi x).toInstr.form = some (.hi x) := by cases x <;> rfl

/-- The instruction that a word is has that word. -/
theorem toInstr_form (x : Form) : x.toInstr.form = some x := by
  cases x with
  | lo x => exact lo_toInstr_form x
  | hi x => exact hi_toInstr_form x

-- The parts of a group ---------------------------------------------------------------------------

theorem State.grp_modGrp (s : State) (g g' : Nat) (f : Group → Group) :
    (s.modGrp g f).grp g' = if g' = g then (s.grp g).map f else s.grp g' := SMap.get?_mod g g' f s.groups

@[simp] theorem State.grp_modCore (s : State) (c g : Nat) (f : Core → Core) : (s.modCore c f).grp g = s.grp g := rfl
@[simp] theorem State.grp_modQuarter (s : State) (c q g : Nat) (f : Quarter → Quarter) :
    (s.modQuarter c q f).grp g = s.grp g := rfl
@[simp] theorem State.grp_issuing (s : State) (i : Option Issue) (g : Nat) : { s with issuing := i }.grp g = s.grp g := rfl

@[simp] theorem State.waveAt_modCore (s : State) (c g w : Nat) (f : Core → Core) :
    (s.modCore c f).waveAt g w = s.waveAt g w := rfl
@[simp] theorem State.waveAt_modQuarter (s : State) (c q g w : Nat) (f : Quarter → Quarter) :
    (s.modQuarter c q f).waveAt g w = s.waveAt g w := rfl
@[simp] theorem State.waveAt_issuing (s : State) (i : Option Issue) (g w : Nat) :
    { s with issuing := i }.waveAt g w = s.waveAt g w := rfl
@[simp] theorem State.seqAt_modCore (s : State) (c g : Nat) (f : Core → Core) : (s.modCore c f).seqAt g = s.seqAt g := rfl
@[simp] theorem State.seqAt_modQuarter (s : State) (c q g : Nat) (f : Quarter → Quarter) :
    (s.modQuarter c q f).seqAt g = s.seqAt g := rfl
@[simp] theorem State.seqAt_issuing (s : State) (i : Option Issue) (g : Nat) :
    { s with issuing := i }.seqAt g = s.seqAt g := rfl

/-- A change of a group that keeps its waves. -/
theorem State.waveAt_modGrp (s : State) (g g' w : Nat) (f : Group → Group) (h : ∀ gr, (f gr).waves = gr.waves) :
    (s.modGrp g f).waveAt g' w = s.waveAt g' w := by
  unfold State.waveAt
  rw [State.grp_modGrp]
  by_cases hg : g' = g
  · subst hg; cases s.grp g' <;> simp [h]
  · simp [hg]

/-- A change of a group that keeps its sequencer. -/
theorem State.seqAt_modGrp (s : State) (g g' : Nat) (f : Group → Group) (h : ∀ gr, (f gr).seq = gr.seq) :
    (s.modGrp g f).seqAt g' = s.seqAt g' := by
  unfold State.seqAt
  rw [State.grp_modGrp]
  by_cases hg : g' = g
  · subst hg; cases s.grp g' <;> simp [h]
  · simp [hg]

/-- A wave after one wave is changed. -/
theorem State.waveAt_modWave (s : State) (g w g' w' : Nat) (f : Wave → Wave) :
    (s.modWave g w f).waveAt g' w' = if g' = g ∧ w' = w then (s.waveAt g w).map f else s.waveAt g' w' := by
  unfold State.waveAt State.modWave
  rw [State.grp_modGrp]
  by_cases hg : g' = g
  · subst hg
    cases hs : s.grp g' with
    | none => simp
    | some gr => simp only [if_true, Option.map_some, Option.bind_some, updAt_get?, true_and]
  · simp [hg]

@[simp] theorem State.seqAt_modWave (s : State) (g w g' : Nat) (f : Wave → Wave) :
    (s.modWave g w f).seqAt g' = s.seqAt g' := State.seqAt_modGrp s g g' _ fun _ => rfl

@[simp] theorem State.seqAt_modSplit (s : State) (g w sp g' : Nat) (f : Split → Split) :
    (s.modSplit g w sp f).seqAt g' = s.seqAt g' := State.seqAt_modWave s g w g' _

@[simp] theorem State.waveAt_modSeq (s : State) (g g' w : Nat) (f : Seq → Seq) :
    (s.modSeq g f).waveAt g' w = s.waveAt g' w := State.waveAt_modGrp s g g' w _ fun _ => rfl

/-- A sequencer after one is changed. -/
theorem State.seqAt_modSeq (s : State) (g g' : Nat) (f : Seq → Seq) :
    (s.modSeq g f).seqAt g' = if g' = g then (s.seqAt g).map f else s.seqAt g' := by
  unfold State.seqAt State.modSeq
  rw [State.grp_modGrp]
  by_cases hg : g' = g
  · subst hg; cases s.grp g' <;> simp
  · simp [hg]

/-- A quarter after one of its core is changed. -/
theorem State.quarter_modQuarter (s : State) (c q : Nat) (f : Quarter → Quarter) (h : q < (s.core c).quarters.length) :
    (s.modQuarter c q f).quarter c q = f (s.quarter c q) := by
  unfold State.quarter State.modQuarter State.core State.modCore at *
  simp only [SMap.getD_modD, if_true, List.getD_eq_getElem?_getD, updAt_get?]
  rw [List.getElem?_eq_getElem h]
  rfl

-- Results on their way -----------------------------------------------------------------------------

/-- Writes that write no V register r leave what it reads. -/
theorem foldl_onV_none (r : Nat) (ws : List PWrite) (old : Lanes) (h : ∀ x ∈ ws, PWrite.isV r x = false) :
    ws.foldl (PWrite.onV r) old = old := by
  induction ws generalizing old with
  | nil => rfl
  | cons x t ih =>
    have hx : PWrite.onV r old x = old := by
      have := h x (by simp)
      cases x <;> simp_all [PWrite.isV, PWrite.onV]
    rw [List.foldl_cons, hx]
    exact ih _ fun y hy => h y (by simp [hy])

theorem foldl_onW_none (r : Nat) (ws : List PWrite) (old : DWord) (h : ∀ x ∈ ws, PWrite.isW r x = false) :
    ws.foldl (PWrite.onW r) old = old := by
  induction ws generalizing old with
  | nil => rfl
  | cons x t ih =>
    have hx : PWrite.onW r old x = old := by
      have := h x (by simp)
      cases x <;> simp_all [PWrite.isW, PWrite.onW]
    rw [List.foldl_cons, hx]
    exact ih _ fun y hy => h y (by simp [hy])

theorem foldl_onP_none (r : Nat) (ws : List PWrite) (old : PVal) (h : ∀ x ∈ ws, PWrite.isP r x = false) :
    ws.foldl (PWrite.onP r) old = old := by
  induction ws generalizing old with
  | nil => rfl
  | cons x t ih =>
    have hx : PWrite.onP r old x = old := by
      have := h x (by simp)
      cases x <;> simp_all [PWrite.isP, PWrite.onP]
    rw [List.foldl_cons, hx]
    exact ih _ fun y hy => h y (by simp [hy])

theorem foldl_onG_none (r : Nat) (ws : List PWrite) (old : DWord) (h : ∀ x ∈ ws, PWrite.isG r x = false) :
    ws.foldl (PWrite.onG r) old = old := by
  induction ws generalizing old with
  | nil => rfl
  | cons x t ih =>
    have hx : PWrite.onG r old x = old := by
      have := h x (by simp)
      cases x <;> simp_all [PWrite.isG, PWrite.onG]
    rw [List.foldl_cons, hx]
    exact ih _ fun y hy => h y (by simp [hy])

theorem mem_pendInsert (x y : Pend) (ps : List Pend) : y ∈ pendInsert x ps ↔ y = x ∨ y ∈ ps := by
  induction ps with
  | nil => simp [pendInsert]
  | cons p t ih =>
    unfold pendInsert
    split
    · simp
    · simp only [List.mem_cons, ih]; tauto

/-- The results on their way stay in order of their clk. -/
theorem pendInsert_sorted (x : Pend) (ps : List Pend) (h : PendSorted ps) : PendSorted (pendInsert x ps) := by
  induction ps with
  | nil => simp [pendInsert, PendSorted]
  | cons p t ih =>
    obtain ⟨h1, h2⟩ := List.pairwise_cons.1 h
    unfold pendInsert
    split
    · rename_i hx
      refine List.pairwise_cons.2 ⟨fun y hy => ?_, h⟩
      rcases List.mem_cons.1 hy with rfl | hy
      · exact hx.le
      · exact hx.le.trans (h1 y hy)
    · rename_i hx
      refine List.pairwise_cons.2 ⟨fun y hy => ?_, ih h2⟩
      rcases (mem_pendInsert x y t).1 hy with rfl | hy
      · exact not_lt.1 hx
      · exact h1 y hy

/-- Before its clk a result on its way changes no read. -/
theorem dueWrites_pendInsert_early (x : Pend) (ps : List Pend) (n : Nat) (h : n < x.due) :
    dueWrites (pendInsert x ps) n = dueWrites ps n := by
  have hx : decide (x.due ≤ n) = false := by simp [h]
  induction ps with
  | nil => simp [pendInsert, dueWrites, hx]
  | cons p t ih =>
    unfold pendInsert
    split
    · simp [dueWrites, hx]
    · have : dueWrites (p :: pendInsert x t) n = (if p.due ≤ n then p.writes else []) ++ dueWrites (pendInsert x t) n := by
        by_cases hp : p.due ≤ n <;> simp [dueWrites, hp]
      rw [this, ih]
      by_cases hp : p.due ≤ n <;> simp [dueWrites, hp]

/-- From its clk on its writes come after those of the results due no later. -/
theorem dueWrites_pendInsert_late (x : Pend) (ps : List Pend) (n : Nat) (h : x.due ≤ n) (hs : PendSorted ps) :
    ∃ a b, dueWrites ps n = a ++ b ∧ dueWrites (pendInsert x ps) n = a ++ (x.writes ++ b)
      ∧ ∀ y ∈ b, ∃ p ∈ ps, x.due < p.due ∧ p.due ≤ n ∧ y ∈ p.writes := by
  induction ps with
  | nil => exact ⟨[], [], by simp [dueWrites], by simp [pendInsert, dueWrites, h], by simp⟩
  | cons p t ih =>
    obtain ⟨h1, h2⟩ := List.pairwise_cons.1 hs
    unfold pendInsert
    split
    · rename_i hx
      refine ⟨[], dueWrites (p :: t) n, rfl, by simp [dueWrites, h], fun y hy => ?_⟩
      simp only [dueWrites, List.mem_flatMap, List.mem_filter, decide_eq_true_eq] at hy
      obtain ⟨q, ⟨hq, hn⟩, hy⟩ := hy
      refine ⟨q, hq, ?_, hn, hy⟩
      rcases List.mem_cons.1 hq with rfl | hq
      · exact hx
      · exact lt_of_lt_of_le hx (h1 q hq)
    · obtain ⟨a, b, e1, e2, e3⟩ := ih h2
      have split1 : ∀ l, dueWrites (p :: l) n = (if p.due ≤ n then p.writes else []) ++ dueWrites l n := by
        intro l
        by_cases hp : p.due ≤ n <;> simp [dueWrites, hp]
      refine ⟨(if p.due ≤ n then p.writes else []) ++ a, b, ?_, ?_, ?_⟩
      · rw [split1, e1, List.append_assoc]
      · rw [split1, e2]; simp
      · intro y hy
        obtain ⟨q, hq, k⟩ := e3 y hy
        exact ⟨q, List.mem_cons_of_mem _ hq, k⟩

-- Write-back ---------------------------------------------------------------------------------------

/-- What a V register reads as after the writes of a result are committed. -/
theorem commitV (r : Nat) (ws : List PWrite) (wv : Wave) :
    SMap.getD (ws.foldl Wave.commit1 wv).v r zeroLanes = ws.foldl (PWrite.onV r) (SMap.getD wv.v r zeroLanes) := by
  induction ws generalizing wv with
  | nil => rfl
  | cons x t ih =>
    rw [List.foldl_cons, List.foldl_cons, ih]
    cases x with
    | v k mask vals =>
      simp only [Wave.commit1, PWrite.onV, SMap.getD_modD]
      by_cases h : r = k
      · subst h; simp
      · simp [h, Ne.symm h]
    | w k y => rfl
    | p k mask y => rfl
    | g k y => rfl
    | latch k sp vals => rfl

theorem commitW (r : Nat) (hr : r < 16) (ws : List PWrite) (wv : Wave) :
    (ws.foldl Wave.commit1 wv).w.getD r 0 = ws.foldl (PWrite.onW r) (wv.w.getD r 0) := by
  induction ws generalizing wv with
  | nil => rfl
  | cons x t ih =>
    rw [List.foldl_cons, List.foldl_cons, ih]
    cases x with
    | w k y =>
      simp only [Wave.commit1, PWrite.onW, setW_getD _ _ _ _ hr]
      by_cases h : r = k
      · subst h; simp
      · simp [h, Ne.symm h]
    | v k mask vals => rfl
    | p k mask y => rfl
    | g k y => rfl
    | latch k sp vals => rfl

theorem commitP (r : Nat) (hr : r < 7) (ws : List PWrite) (wv : Wave) :
    (ws.foldl Wave.commit1 wv).p.getD r ⟨0, 0⟩ = ws.foldl (PWrite.onP r) (wv.p.getD r ⟨0, 0⟩) := by
  induction ws generalizing wv with
  | nil => rfl
  | cons x t ih =>
    rw [List.foldl_cons, List.foldl_cons, ih]
    cases x with
    | p k mask y =>
      simp only [Wave.commit1, PWrite.onP, setP_getD _ _ _ _ hr]
      by_cases h : r = k
      · subst h; simp
      · simp [h, Ne.symm h]
    | v k mask vals => rfl
    | w k y => rfl
    | g k y => rfl
    | latch k sp vals => rfl

/-- The writes of a result change nothing of a wave but its registers. -/
theorem commit1_rest (ws : List PWrite) (wv : Wave) :
    ws.foldl Wave.commit1 wv
      = { wv with v := (ws.foldl Wave.commit1 wv).v, w := (ws.foldl Wave.commit1 wv).w, p := (ws.foldl Wave.commit1 wv).p } := by
  induction ws generalizing wv with
  | nil => rfl
  | cons x t ih =>
    rw [List.foldl_cons, ih]
    cases x <;> rfl

-- A result put on its way --------------------------------------------------------------------------

/-- Nothing changes outside the groups and the cores. -/
def Inside (s u : State) : Prop := u = { s with groups := u.groups, cores := u.cores }

theorem Inside.refl (s : State) : Inside s s := rfl
theorem Inside.trans {s u v : State} (h1 : Inside s u) (h2 : Inside u v) : Inside s v := by
  unfold Inside at *
  rw [h2, h1]
theorem inside_modGrp (s : State) (g : Nat) (f : Group → Group) : Inside s (s.modGrp g f) := rfl
theorem inside_modCore (s : State) (g : Nat) (f : Core → Core) : Inside s (s.modCore g f) := rfl

theorem foldl_rel {α β : Type} {R : α → α → Prop} (hr : ∀ s, R s s) (ht : ∀ s u v, R s u → R u v → R s v)
    (f : α → β → α) (hf : ∀ s x, R s (f s x)) (l : List β) (s : α) : R s (l.foldl f s) := by
  induction l generalizing s with
  | nil => exact hr s
  | cons x t ih => exact ht _ _ _ (hf s x) (ih _)

/-- What the operands of an instruction may change of the state: queue positions, backing registers and quarters. -/
structure OperandStep (c : ICtx) (s u : State) : Prop where
  inside : Inside s u
  groups : ∀ g, g ≠ c.g → u.grp g = s.grp g
  waves : ∀ w, w ≠ c.w → u.waveAt c.g w = s.waveAt c.g w
  seq : u.seqAt c.g = s.seqAt c.g
  wave : ∀ wv, s.waveAt c.g c.w = some wv → ∃ qs sps, u.waveAt c.g c.w = some { wv with qPos := qs, splits := sps }

theorem OperandStep.refl (c : ICtx) (s : State) : OperandStep c s s :=
  ⟨rfl, fun _ _ => rfl, fun _ _ => rfl, rfl, fun wv h => ⟨wv.qPos, wv.splits, h⟩⟩

theorem OperandStep.trans {c : ICtx} {s u v : State} (h : OperandStep c s u) (k : OperandStep c u v) : OperandStep c s v :=
  ⟨h.inside.trans k.inside, fun g hg => (k.groups g hg).trans (h.groups g hg), fun w hw => (k.waves w hw).trans (h.waves w hw),
    k.seq.trans h.seq, fun wv hw => by
      obtain ⟨q1, s1, e1⟩ := h.wave wv hw
      obtain ⟨q2, s2, e2⟩ := k.wave _ e1
      exact ⟨q2, s2, e2⟩⟩

theorem operandStep_modCore (c : ICtx) (s : State) (k : Nat) (f : Core → Core) : OperandStep c s (s.modCore k f) :=
  ⟨rfl, fun _ _ => rfl, fun _ _ => rfl, rfl, fun wv h => ⟨wv.qPos, wv.splits, h⟩⟩

theorem operandStep_modQuarter (c : ICtx) (s : State) (k q : Nat) (f : Quarter → Quarter) :
    OperandStep c s (s.modQuarter k q f) := operandStep_modCore c s k _

theorem operandStep_modWave (c : ICtx) (s : State) (f : Wave → Wave)
    (hf : ∀ wv, ∃ qs sps, f wv = { wv with qPos := qs, splits := sps }) : OperandStep c s (s.modWave c.g c.w f) :=
  ⟨rfl, fun g hg => by rw [State.modWave, State.grp_modGrp, if_neg hg],
    fun w hw => by rw [State.waveAt_modWave, if_neg (by simp [hw])], State.seqAt_modWave _ _ _ _ _, fun wv h => by
      obtain ⟨qs, sps, e⟩ := hf wv
      exact ⟨qs, sps, by rw [State.waveAt_modWave, if_pos ⟨rfl, rfl⟩, h, Option.map_some, e]⟩⟩

theorem operandStep_trim (c : ICtx) (s : State) (n : Nat) : OperandStep c s (s.modGrp c.g fun gr => gr.trimQueue n) :=
  ⟨rfl, fun g hg => by rw [State.grp_modGrp, if_neg hg], fun w _ => State.waveAt_modGrp _ _ _ _ _ fun _ => rfl,
    State.seqAt_modGrp _ _ _ _ fun _ => rfl,
    fun wv h => ⟨wv.qPos, wv.splits, by rw [State.waveAt_modGrp]; exact h; exact fun _ => rfl⟩⟩

theorem SMap.mod_mod {α : Type} (k : Nat) (f g : α → α) (m : SMap α) :
    SMap.mod k g (SMap.mod k f m) = SMap.mod k (fun x => g (f x)) m := by
  unfold SMap.mod
  cases h : SMap.get? k m with
  | none => simp [h]
  | some x =>
    simp only [SMap.get?_set_same]
    clear h
    induction m with
    | nil => simp [SMap.set]
    | cons p t ih =>
      obtain ⟨a, y⟩ := p
      by_cases h1 : k < a
      · simp [SMap.set, h1]
      · by_cases h2 : k = a
        · simp [SMap.set, h2]
        · simp [SMap.set, h1, h2, ih]

theorem State.modGrp_modGrp (s : State) (g : Nat) (f k : Group → Group) :
    (s.modGrp g f).modGrp g k = s.modGrp g fun x => k (f x) := by
  simp only [State.modGrp, SMap.mod_mod]

theorem operandStep_popped (c : ICtx) (s : State) (srcs : List SrcW) : OperandStep c s (s.popped c srcs) := by
  unfold State.popped
  refine foldl_rel (OperandStep.refl c) (fun _ _ _ => OperandStep.trans) _ (fun s x => ?_) srcs s
  split
  · rename_i n _
    have h := (operandStep_modWave c s (fun wv => { wv with qPos := updAt wv.qPos n (· + 1) })
      (fun wv => ⟨_, wv.splits, rfl⟩)).trans (operandStep_trim c _ n)
    rw [State.modWave, State.modGrp_modGrp] at h
    exact h
  · exact .refl c s

theorem operandStep_latchRead (c : ICtx) (s : State) (srcs : List SrcW) : OperandStep c s (s.latchRead c srcs) := by
  unfold State.latchRead
  refine foldl_rel (OperandStep.refl c) (fun _ _ _ => OperandStep.trans) _ (fun s x => ?_) srcs s
  split
  · split
    · exact operandStep_modQuarter c s _ _ _
    · exact .refl c s
  · exact .refl c s

theorem operandStep_holdLatch (c : ICtx) (s : State) (k : Nat) (nw : Bool) (r : Option Nat) :
    OperandStep c s (s.holdLatch c k nw r) := by
  unfold State.holdLatch
  exact (operandStep_modQuarter c s _ _ _).trans (operandStep_modWave c _ _ fun wv => ⟨wv.qPos, _, rfl⟩)

/-- The result of a lane point is put among the results on their way, and the rest is its operands' doing. -/
theorem fixed_spec (s : State) (c : ICtx) (h : Hdr) (t : Timing) (srcs : List SrcW) (r : Res) :
    ∃ u extra, OperandStep c s u ∧ (∀ x ∈ extra, ∃ k mask ws back, x = .latch k c.sp c.clk mask back ws)
      ∧ s.fixed c h t srcs r = u.modWave c.g c.w fun wv =>
        { wv with pend := pendInsert ⟨c.clk + t.lat, t.cls,
          (r.writes.filter fun w => match w with | .p _ _ _ => true | _ => !h.nw) ++ extra, hdrFlag h, r.fst, r.ivst⟩ wv.pend } := by
  have h1 := ((operandStep_popped c s srcs).trans (operandStep_latchRead c _ srcs)).trans
    (operandStep_modQuarter c _ c.core c.q fun q => q.book c.clk t (c.order srcs) (if h.nw then [] else r.regs))
  unfold State.fixed
  by_cases hc : 12 ≤ h.cue.toNat ∧ h.cue.toNat < 15
  · simp only [hc, and_self, if_true]
    refine ⟨_, _, h1.trans (operandStep_holdLatch c _ _ _ _), ?_, rfl⟩
    intro x hx
    cases hh : r.held with
    | none => simp [hh] at hx
    | some ws => simp only [hh, List.mem_singleton] at hx; exact ⟨_, _, _, _, hx⟩
  · simp only [hc, if_false]
    exact ⟨_, _, h1, by simp, rfl⟩

-- A result written back --------------------------------------------------------------------------

/-- What a wave's registers read as, and its flags, after a result on its way is committed: as before it with the
result's writes done and its flag lower. -/
theorem commit_v (wv : Wave) (p : Pend) (r : Nat) :
    SMap.getD (wv.commit p).v r zeroLanes = p.writes.foldl (PWrite.onV r) (SMap.getD wv.v r zeroLanes) := commitV r p.writes wv
theorem commit_w (wv : Wave) (p : Pend) (r : Nat) (h : r < 16) :
    (wv.commit p).w.getD r 0 = p.writes.foldl (PWrite.onW r) (wv.w.getD r 0) := commitW r h p.writes wv
theorem commit_p (wv : Wave) (p : Pend) (r : Nat) (h : r < 7) :
    (wv.commit p).p.getD r ⟨0, 0⟩ = p.writes.foldl (PWrite.onP r) (wv.p.getD r ⟨0, 0⟩) := commitP r h p.writes wv
theorem commit_pend (wv : Wave) (p : Pend) : (wv.commit p).pend = wv.pend := by
  unfold Wave.commit; rw [commit1_rest p.writes wv]
theorem commit_splits (wv : Wave) (p : Pend) : (wv.commit p).splits = wv.splits := by
  unfold Wave.commit; rw [commit1_rest p.writes wv]

theorem flagDown_getD (fs : List Nat) (k j : Nat) (h : j < 12) :
    (flagDown fs k).getD j 0 = fs.getD j 0 - if k = j then 1 else 0 := by
  unfold flagDown
  rw [modReg_getD 12 0 fs k j _ h]
  by_cases hk : j = k
  · subst hk; simp
  · simp [hk, Ne.symm hk]

theorem commit_flags (wv : Wave) (p : Pend) (j : Nat) (h : j < 12) :
    (wv.commit p).flags.getD j 0 = wv.flags.getD j 0 - if p.flag = some j then 1 else 0 := by
  unfold Wave.commit
  rw [commit1_rest p.writes wv]
  show (match p.flag with | some k => flagDown wv.flags k | none => wv.flags).getD j 0 = _
  cases p.flag with
  | none => simp
  | some k => simp only [flagDown_getD _ _ _ h, Option.some.injEq]

/-- A result of a wave written back changes that wave, and latches. -/
theorem commitWave_spec (s : State) (g w : Nat) (p : Pend) :
    Inside s (s.commitWave g w p) ∧ (∀ g', g' ≠ g → (s.commitWave g w p).grp g' = s.grp g')
      ∧ (∀ g', (s.commitWave g w p).seqAt g' = s.seqAt g')
      ∧ (∀ w', w' ≠ w → (s.commitWave g w p).waveAt g w' = s.waveAt g w')
      ∧ ∀ wv, s.waveAt g w = some wv → ∃ sl, (s.commitWave g w p).waveAt g w = some { wv.commit p with savedLatch := sl } := by
  let R : State → State → Prop := fun s u => Inside s u ∧ (∀ g', g' ≠ g → u.grp g' = s.grp g')
      ∧ (∀ g', u.seqAt g' = s.seqAt g') ∧ (∀ w', w' ≠ w → u.waveAt g w' = s.waveAt g w')
      ∧ ∀ wv, s.waveAt g w = some wv → ∃ sl, u.waveAt g w = some { wv with savedLatch := sl }
  have hrefl : ∀ s, R s s := fun s =>
    ⟨rfl, fun _ _ => rfl, fun _ => rfl, fun _ _ => rfl, fun wv h => ⟨wv.savedLatch, h⟩⟩
  have htr : ∀ s u v, R s u → R u v → R s v := fun s u v h k =>
    ⟨h.1.trans k.1, fun a b => (k.2.1 a b).trans (h.2.1 a b), fun a => (k.2.2.1 a).trans (h.2.2.1 a),
      fun a b => (k.2.2.2.1 a b).trans (h.2.2.2.1 a b), fun wv hw => by
        obtain ⟨sl, e⟩ := h.2.2.2.2 wv hw
        obtain ⟨sl', e'⟩ := k.2.2.2.2 _ e
        exact ⟨sl', e'⟩⟩
  have hstep : R (s.modWave g w fun wv => wv.commit p) (s.commitWave g w p) := by
    unfold State.commitWave
    refine foldl_rel hrefl htr _ (fun s x => ?_) p.writes _
    split
    · refine ⟨rfl, fun g' h => ?_, fun g' => ?_, fun w' h => ?_, fun wv h => ?_⟩
      · rw [State.grp_modQuarter, State.modWave, State.grp_modGrp, if_neg h]
      · rw [State.seqAt_modQuarter, State.seqAt_modWave]
      · rw [State.waveAt_modQuarter, State.waveAt_modWave, if_neg (by simp [h])]
      · exact ⟨_, by rw [State.waveAt_modQuarter, State.waveAt_modWave, if_pos ⟨rfl, rfl⟩, h]; rfl⟩
    · exact hrefl s
  refine ⟨(inside_modGrp _ _ _).trans hstep.1, fun g' h => ?_, fun g' => ?_, fun w' h => ?_, fun wv h => ?_⟩
  · rw [hstep.2.1 g' h, State.modWave, State.grp_modGrp, if_neg h]
  · rw [hstep.2.2.1 g', State.seqAt_modWave]
  · rw [hstep.2.2.2.1 w' h, State.waveAt_modWave, if_neg (by simp [h])]
  · exact hstep.2.2.2.2 _ (by rw [State.waveAt_modWave, if_pos ⟨rfl, rfl⟩, h]; rfl)

theorem dueWrites_cons (p : Pend) (ps : List Pend) (n : Nat) :
    dueWrites (p :: ps) n = (if p.due ≤ n then p.writes else []) ++ dueWrites ps n := by
  by_cases hp : p.due ≤ n <;> simp [dueWrites, hp]

/-- The first result on its way of a wave, once due, is written back: no read of a register changes. -/
theorem sameReads_commitHead (s : State) (g w n : Nat) (wv : Wave) (p : Pend) (ps : List Pend)
    (hw : s.waveAt g w = some wv) (hp : wv.pend = p :: ps) (hd : p.due ≤ n) :
    SameWaveReads s ((s.modWave g w fun wv => { wv with pend := wv.pend.tail }).commitWave g w p) g w n := by
  obtain ⟨_, _, _, _, h⟩ := commitWave_spec (s.modWave g w fun wv => { wv with pend := wv.pend.tail }) g w p
  obtain ⟨sl, e⟩ := h { wv with pend := ps } (by rw [State.waveAt_modWave, if_pos ⟨rfl, rfl⟩, hw]; simp [hp])
  intro k hk
  have hk' : p.due ≤ k := hd.trans hk
  refine ⟨fun r l => ?_, fun r hr => ?_, fun r hr => ?_⟩
  · simp only [State.vLane, e, hw, Wave.vAt, commit_v, commit_pend, hp, dueWrites_cons, if_pos hk', List.foldl_append]
  · simp only [State.wReg, e, hw, Wave.wAt, commit_w _ _ _ hr, commit_pend, hp, dueWrites_cons, if_pos hk', List.foldl_append]
  · by_cases h7 : r = 7
    · simp only [State.pReg, e, hw, Wave.pAt, h7, if_true]
    · simp only [State.pReg, e, hw, Wave.pAt, h7, if_false, commit_p _ _ _ (show r < 7 by omega), commit_pend, hp,
        dueWrites_cons, if_pos hk', List.foldl_append]

end Sys2Proof.Machine
end

