-- ==== Sys2Proof/Laws/PerInstr.lean ====
section
/-!
SUPPORT. What is true of each instruction as syntax, one lemma for each constructor: the word that an instruction
is stands for that instruction and no other.
-/

namespace Sys2Proof.Laws.WordForm

/-- Where an instruction is a word of a stream, the word is that instruction. -/
def Statement (i : Sys2Proof.Instr) : Prop := ∀ x, i.form = some x → x.toInstr = i

/-- From the word itself. -/
theorem of_word {i : Sys2Proof.Instr} {y : Sys2Proof.Form} (h : i.form = some y) (k : y.toInstr = i) : Statement i := by
  intro x hx
  rw [h] at hx
  cases hx
  exact k

/-- An event is no word. -/
theorem of_event {i : Sys2Proof.Instr} (h : i.form = none) : Statement i := by
  intro x hx
  rw [h] at hx
  cases hx

theorem waitExpiry (ag : Sys2Proof.Agent) : Statement (.waitExpiry ag) := of_event rfl
theorem resultWriteback (ag : Sys2Proof.Agent) : Statement (.resultWriteback ag) := of_event rfl
theorem issueSelect (core quarter : Nat) : Statement (.issueSelect core quarter) := of_event rfl
theorem sequencerPortIssue (core : Nat) : Statement (.sequencerPortIssue core) := of_event rfl
theorem loadComplete (id : Nat) (mask : BitVec 32) : Statement (.loadComplete id mask) := of_event rfl
theorem storePerformed (id lane : Nat) : Statement (.storePerformed id lane) := of_event rfl
theorem atomicPerform (id : Nat) : Statement (.atomicPerform id) := of_event rfl
theorem tlbWalkComplete (id : Nat) : Statement (.tlbWalkComplete id) := of_event rfl
theorem replayEntryReplay (core id : Nat) : Statement (.replayEntryReplay core id) := of_event rfl
theorem uncorrectableError (ag : Sys2Proof.Agent) : Statement (.uncorrectableError ag) := of_event rfl
theorem transportFirstSlot (id slot : Nat) : Statement (.transportFirstSlot id slot) := of_event rfl
theorem transportRemoteRequest (req : Sys2Proof.RemoteReq) : Statement (.transportRemoteRequest req) := of_event rfl
theorem rowEngineChunk (id slot : Nat) : Statement (.rowEngineChunk id slot) := of_event rfl
theorem transportReply (id pkg : Nat) (rows : List Sys2Proof.RemoteRow) : Statement (.transportReply id pkg rows) := of_event rfl
theorem transportReplyTimeout (id pkg : Nat) : Statement (.transportReplyTimeout id pkg) := of_event rfl
theorem transportComplete (id : Nat) : Statement (.transportComplete id) := of_event rfl
theorem xstatRecord (g w : Nat) : Statement (.xstatRecord g w) := of_event rfl
theorem queryLoadComplete (id : Nat) : Statement (.queryLoadComplete id) := of_event rfl
theorem querySlotReload (q : Nat) : Statement (.querySlotReload q) := of_event rfl
theorem copyTranslated (id : Nat) : Statement (.copyTranslated id) := of_event rfl
theorem copyComplete (id : Nat) : Statement (.copyComplete id) := of_event rfl
theorem dmaChunk (ch : Nat) : Statement (.dmaChunk ch) := of_event rfl
theorem dmaComplete (ch : Nat) : Statement (.dmaComplete ch) := of_event rfl
theorem hfetchComplete (id : Nat) (mask : BitVec 32) : Statement (.hfetchComplete id mask) := of_event rfl
theorem fibldComplete (id : Nat) (mask : BitVec 32) : Statement (.fibldComplete id mask) := of_event rfl
theorem rowscanReadAhead (g : Nat) : Statement (.rowscanReadAhead g) := of_event rfl
theorem rookQueueStart (g q : Nat) : Statement (.rookQueueStart g q) := of_event rfl
theorem rookQueueStop (g q : Nat) : Statement (.rookQueueStop g q) := of_event rfl
theorem rookEntryPush (g q : Nat) : Statement (.rookEntryPush g q) := of_event rfl
theorem matrixCommandComplete (g : Nat) : Statement (.matrixCommandComplete g) := of_event rfl
theorem mswapTakeEffect (g : Nat) : Statement (.mswapTakeEffect g) := of_event rfl
theorem barrierComplete (g : Nat) : Statement (.barrierComplete g) := of_event rfl
theorem mbarComplete (g k : Nat) : Statement (.mbarComplete g k) := of_event rfl
theorem gridBarrierComplete (grid : Nat) : Statement (.gridBarrierComplete grid) := of_event rfl
theorem joinRelease (g w : Nat) : Statement (.joinRelease g w) := of_event rfl
theorem spawnComplete (id : Nat) : Statement (.spawnComplete id) := of_event rfl
theorem launchAnswer (id : Nat) : Statement (.launchAnswer id) := of_event rfl
theorem launchCellWrite (ctx : Nat) (bytes : List Sys2Proof.Byte) (seq : Option Sys2Proof.DWord) : Statement (.launchCellWrite ctx bytes seq) := of_event rfl
theorem launchCellPoll (ctx : Nat) : Statement (.launchCellPoll ctx) := of_event rfl
theorem dispatchBatch (grid die k : Nat) : Statement (.dispatchBatch grid die k) := of_event rfl
theorem groupPlace (die : Nat) : Statement (.groupPlace die) := of_event rfl
theorem dictionaryBankLoad (core bank : Nat) : Statement (.dictionaryBankLoad core bank) := of_event rfl
theorem instructionRowFill (core row : Nat) : Statement (.instructionRowFill core row) := of_event rfl
theorem dependencePoll (grid : Nat) : Statement (.dependencePoll grid) := of_event rfl
theorem recordCountRead (grid : Nat) : Statement (.recordCountRead grid) := of_event rfl
theorem commitPoint (g : Nat) : Statement (.commitPoint g) := of_event rfl
theorem redundantThirdRun (g : Nat) : Statement (.redundantThirdRun g) := of_event rfl
theorem groupResume (die : Nat) : Statement (.groupResume die) := of_event rfl
theorem earlyCommit (g : Nat) : Statement (.earlyCommit g) := of_event rfl
theorem groupRetire (g : Nat) : Statement (.groupRetire g) := of_event rfl
theorem gridRetire (grid : Nat) : Statement (.gridRetire grid) := of_event rfl
theorem taskRetry (grid index : Nat) : Statement (.taskRetry grid index) := of_event rfl
theorem taskRestart (grid index : Nat) : Statement (.taskRestart grid index) := of_event rfl
theorem timeSliceExpiry (core : Nat) : Statement (.timeSliceExpiry core) := of_event rfl
theorem coalescerRecordClose (unit : Nat) : Statement (.coalescerRecordClose unit) := of_event rfl
theorem faultBufferRetry (unit : Nat) : Statement (.faultBufferRetry unit) := of_event rfl
theorem xqFreeRecord (xdie : Nat) : Statement (.xqFreeRecord xdie) := of_event rfl
theorem freqChange (tgt : BitVec 8) : Statement (.freqChange tgt) := of_event rfl
theorem dieQuiesced (die : Nat) : Statement (.dieQuiesced die) := of_event rfl
theorem pllRelocked : Statement (.pllRelocked) := of_event rfl
theorem handshakeTimeout : Statement (.handshakeTimeout) := of_event rfl
theorem xinvPage (ctx : BitVec 12) (va : BitVec 32) (rsv : BitVec 16) : Statement (.xinvPage ctx va rsv) := of_event rfl
theorem xinvContext (ctx : BitVec 12) (va : BitVec 32) (rsv : BitVec 16) : Statement (.xinvContext ctx va rsv) := of_event rfl
theorem xinvAll (va : BitVec 32) (rsv : BitVec 16) : Statement (.xinvAll va rsv) := of_event rfl
theorem xinvDone : Statement (.xinvDone) := of_event rfl
theorem fsvcService (ctx : BitVec 12) (va : BitVec 32) (rsv : BitVec 17) : Statement (.fsvcService ctx va rsv) := of_event rfl
theorem fsvcFail (ctx : BitVec 12) (va : BitVec 32) (rsv : BitVec 17) : Statement (.fsvcFail ctx va rsv) := of_event rfl
theorem fsvcDone : Statement (.fsvcDone) := of_event rfl
theorem ctxCreate (ctx : BitVec 12) (arg : BitVec 42) (rsv : BitVec 5) : Statement (.ctxCreate ctx arg rsv) := of_event rfl
theorem ctxDrain (ctx : BitVec 12) (rsv : BitVec 5) : Statement (.ctxDrain ctx rsv) := of_event rfl
theorem ctxDrainForced (ctx : BitVec 12) (rsv : BitVec 5) : Statement (.ctxDrainForced ctx rsv) := of_event rfl
theorem ctxResume (ctx : BitVec 12) (arg : BitVec 42) (rsv : BitVec 5) : Statement (.ctxResume ctx arg rsv) := of_event rfl
theorem ctxDestroy (ctx : BitVec 12) (arg : BitVec 42) (rsv : BitVec 5) : Statement (.ctxDestroy ctx arg rsv) := of_event rfl
theorem ctxReleaseGrid (ctx : BitVec 12) (arg : BitVec 42) (rsv : BitVec 5) : Statement (.ctxReleaseGrid ctx arg rsv) := of_event rfl
theorem drainComplete (ctx : Nat) : Statement (.drainComplete ctx) := of_event rfl
theorem drainDeadline (ctx core : Nat) : Statement (.drainDeadline ctx core) := of_event rfl
theorem freeze : Statement (.freeze) := of_event rfl
theorem thaw : Statement (.thaw) := of_event rfl
theorem stateReadout (die : Nat) : Statement (.stateReadout die) := of_event rfl
theorem debugRelease (ag : Sys2Proof.Agent) : Statement (.debugRelease ag) := of_event rfl
theorem counterHalving : Statement (.counterHalving) := of_event rfl
theorem unitRetire (u : Sys2Proof.RetUnit) : Statement (.unitRetire u) := of_event rfl
theorem powerSample (watts : BitVec 16) : Statement (.powerSample watts) := of_event rfl
theorem flitReplay (port : Nat) (ok : Bool) : Statement (.flitReplay port ok) := of_event rfl
theorem portRetrain (port : Nat) : Statement (.portRetrain port) := of_event rfl
theorem portDown (port : Nat) : Statement (.portDown port) := of_event rfl
theorem laneSpare (port lane : Nat) : Statement (.laneSpare port lane) := of_event rfl
theorem laneSpareGo (port lane : Nat) : Statement (.laneSpareGo port lane) := of_event rfl
theorem portHalfWidth (port : Nat) : Statement (.portHalfWidth port) := of_event rfl
theorem laneCountWindow (port : Nat) : Statement (.laneCountWindow port) := of_event rfl
theorem hostLinkDown (xdie : Nat) : Statement (.hostLinkDown xdie) := of_event rfl
theorem hostMemoryAccess (acc : Sys2Proof.HostAcc) : Statement (.hostMemoryAccess acc) := of_event rfl
theorem moduleReset : Statement (.moduleReset) := of_event rfl
theorem registerWrite (reg : Sys2Proof.SysReg) (val : Sys2Proof.DWord) : Statement (.registerWrite reg val) := of_event rfl
theorem hostLinkReturn (xdie : Nat) (cxl : Bool) : Statement (.hostLinkReturn xdie cxl) := of_event rfl
theorem fabricRouteUpdate (pkg : Nat) (up : Bool) (port : Nat) : Statement (.fabricRouteUpdate pkg up port) := of_event rfl
theorem linkTrained (port : Nat) : Statement (.linkTrained port) := of_event rfl
theorem spdmAttestation (nonce : Sys2Proof.DWord) : Statement (.spdmAttestation nonce) := of_event rfl
theorem nop : Statement (.nop) := of_word rfl rfl
theorem dictionaryReference (dist : BitVec 3) (entry : BitVec 10) : Statement (.dictionaryReference dist entry) := of_word rfl rfl
theorem addI32 (h : Sys2Proof.Hdr) (d : Sys2Proof.Dst) (a b : Sys2Proof.Src) : Statement (.addI32 h d a b) := of_word rfl rfl
theorem addI32W32 (dist : BitVec 2) (d : Sys2Proof.Dst) (a b : Sys2Proof.Src) : Statement (.addI32W32 dist d a b) := of_word rfl rfl
theorem addI32C16 (d : Sys2Proof.Dst) (b : Sys2Proof.Src) : Statement (.addI32C16 d b) := of_word rfl rfl
theorem subI32 (h : Sys2Proof.Hdr) (d : Sys2Proof.Dst) (a b : Sys2Proof.Src) : Statement (.subI32 h d a b) := of_word rfl rfl
theorem subI32W32 (dist : BitVec 2) (d : Sys2Proof.Dst) (a b : Sys2Proof.Src) : Statement (.subI32W32 dist d a b) := of_word rfl rfl
theorem subI32C16 (d : Sys2Proof.Dst) (b : Sys2Proof.Src) : Statement (.subI32C16 d b) := of_word rfl rfl
theorem addSatI32 (h : Sys2Proof.Hdr) (d : Sys2Proof.Dst) (a b : Sys2Proof.Src) : Statement (.addSatI32 h d a b) := of_word rfl rfl
theorem addSatI32W32 (dist : BitVec 2) (d : Sys2Proof.Dst) (a b : Sys2Proof.Src) : Statement (.addSatI32W32 dist d a b) := of_word rfl rfl
theorem subSatI32 (h : Sys2Proof.Hdr) (d : Sys2Proof.Dst) (a b : Sys2Proof.Src) : Statement (.subSatI32 h d a b) := of_word rfl rfl
theorem subSatI32W32 (dist : BitVec 2) (d : Sys2Proof.Dst) (a b : Sys2Proof.Src) : Statement (.subSatI32W32 dist d a b) := of_word rfl rfl
theorem addSatN32 (h : Sys2Proof.Hdr) (d : Sys2Proof.Dst) (a b : Sys2Proof.Src) : Statement (.addSatN32 h d a b) := of_word rfl rfl
theorem addSatN32W32 (dist : BitVec 2) (d : Sys2Proof.Dst) (a b : Sys2Proof.Src) : Statement (.addSatN32W32 dist d a b) := of_word rfl rfl
theorem subSatN32 (h : Sys2Proof.Hdr) (d : Sys2Proof.Dst) (a b : Sys2Proof.Src) : Statement (.subSatN32 h d a b) := of_word rfl rfl
theorem subSatN32W32 (dist : BitVec 2) (d : Sys2Proof.Dst) (a b : Sys2Proof.Src) : Statement (.subSatN32W32 dist d a b) := of_word rfl rfl
theorem addI16 (h : Sys2Proof.Hdr) (d : Sys2Proof.Dst) (a b : Sys2Proof.Src) : Statement (.addI16 h d a b) := of_word rfl rfl
theorem addI16W32 (dist : BitVec 2) (d : Sys2Proof.Dst) (a b : Sys2Proof.Src) : Statement (.addI16W32 dist d a b) := of_word rfl rfl
theorem subI16 (h : Sys2Proof.Hdr) (d : Sys2Proof.Dst) (a b : Sys2Proof.Src) : Statement (.subI16 h d a b) := of_word rfl rfl
theorem subI16W32 (dist : BitVec 2) (d : Sys2Proof.Dst) (a b : Sys2Proof.Src) : Statement (.subI16W32 dist d a b) := of_word rfl rfl
theorem mulI32 (h : Sys2Proof.Hdr) (d : Sys2Proof.Dst) (a b : Sys2Proof.Src) : Statement (.mulI32 h d a b) := of_word rfl rfl
theorem mulI32W32 (dist : BitVec 2) (d : Sys2Proof.Dst) (a b : Sys2Proof.Src) : Statement (.mulI32W32 dist d a b) := of_word rfl rfl
theorem mulhiI32 (h : Sys2Proof.Hdr) (d : Sys2Proof.Dst) (a b : Sys2Proof.Src) : Statement (.mulhiI32 h d a b) := of_word rfl rfl
theorem mulhiI32W32 (dist : BitVec 2) (d : Sys2Proof.Dst) (a b : Sys2Proof.Src) : Statement (.mulhiI32W32 dist d a b) := of_word rfl rfl
theorem mulhiN32 (h : Sys2Proof.Hdr) (d : Sys2Proof.Dst) (a b : Sys2Proof.Src) : Statement (.mulhiN32 h d a b) := of_word rfl rfl
theorem mulhiN32W32 (dist : BitVec 2) (d : Sys2Proof.Dst) (a b : Sys2Proof.Src) : Statement (.mulhiN32W32 dist d a b) := of_word rfl rfl
theorem mulSatI32 (h : Sys2Proof.Hdr) (d : Sys2Proof.Dst) (a b : Sys2Proof.Src) : Statement (.mulSatI32 h d a b) := of_word rfl rfl
theorem mulSatI32W32 (dist : BitVec 2) (d : Sys2Proof.Dst) (a b : Sys2Proof.Src) : Statement (.mulSatI32W32 dist d a b) := of_word rfl rfl
theorem mulI16 (h : Sys2Proof.Hdr) (d : Sys2Proof.Dst) (a b : Sys2Proof.Src) : Statement (.mulI16 h d a b) := of_word rfl rfl
theorem mulI16W32 (dist : BitVec 2) (d : Sys2Proof.Dst) (a b : Sys2Proof.Src) : Statement (.mulI16W32 dist d a b) := of_word rfl rfl
theorem andB32 (h : Sys2Proof.Hdr) (d : Sys2Proof.Dst) (a b : Sys2Proof.Src) : Statement (.andB32 h d a b) := of_word rfl rfl
theorem andB32W32 (dist : BitVec 2) (d : Sys2Proof.Dst) (a b : Sys2Proof.Src) : Statement (.andB32W32 dist d a b) := of_word rfl rfl
theorem andB32C16 (d : Sys2Proof.Dst) (b : Sys2Proof.Src) : Statement (.andB32C16 d b) := of_word rfl rfl
theorem orB32 (h : Sys2Proof.Hdr) (d : Sys2Proof.Dst) (a b : Sys2Proof.Src) : Statement (.orB32 h d a b) := of_word rfl rfl
theorem orB32W32 (dist : BitVec 2) (d : Sys2Proof.Dst) (a b : Sys2Proof.Src) : Statement (.orB32W32 dist d a b) := of_word rfl rfl
theorem orB32C16 (d : Sys2Proof.Dst) (b : Sys2Proof.Src) : Statement (.orB32C16 d b) := of_word rfl rfl
theorem xorB32 (h : Sys2Proof.Hdr) (d : Sys2Proof.Dst) (a b : Sys2Proof.Src) : Statement (.xorB32 h d a b) := of_word rfl rfl
theorem xorB32W32 (dist : BitVec 2) (d : Sys2Proof.Dst) (a b : Sys2Proof.Src) : Statement (.xorB32W32 dist d a b) := of_word rfl rfl
theorem xorB32C16 (d : Sys2Proof.Dst) (b : Sys2Proof.Src) : Statement (.xorB32C16 d b) := of_word rfl rfl
theorem andnB32 (h : Sys2Proof.Hdr) (d : Sys2Proof.Dst) (a b : Sys2Proof.Src) : Statement (.andnB32 h d a b) := of_word rfl rfl
theorem andnB32W32 (dist : BitVec 2) (d : Sys2Proof.Dst) (a b : Sys2Proof.Src) : Statement (.andnB32W32 dist d a b) := of_word rfl rfl
theorem ornB32 (h : Sys2Proof.Hdr) (d : Sys2Proof.Dst) (a b : Sys2Proof.Src) : Statement (.ornB32 h d a b) := of_word rfl rfl
theorem ornB32W32 (dist : BitVec 2) (d : Sys2Proof.Dst) (a b : Sys2Proof.Src) : Statement (.ornB32W32 dist d a b) := of_word rfl rfl
theorem xnorB32 (h : Sys2Proof.Hdr) (d : Sys2Proof.Dst) (a b : Sys2Proof.Src) : Statement (.xnorB32 h d a b) := of_word rfl rfl
theorem xnorB32W32 (dist : BitVec 2) (d : Sys2Proof.Dst) (a b : Sys2Proof.Src) : Statement (.xnorB32W32 dist d a b) := of_word rfl rfl
theorem shlB32 (h : Sys2Proof.Hdr) (d : Sys2Proof.Dst) (a b : Sys2Proof.Src) : Statement (.shlB32 h d a b) := of_word rfl rfl
theorem shlB32W32 (dist : BitVec 2) (d : Sys2Proof.Dst) (a b : Sys2Proof.Src) : Statement (.shlB32W32 dist d a b) := of_word rfl rfl
theorem shlB32C16 (d : Sys2Proof.Dst) (b : Sys2Proof.Src) : Statement (.shlB32C16 d b) := of_word rfl rfl
theorem shrN32 (h : Sys2Proof.Hdr) (d : Sys2Proof.Dst) (a b : Sys2Proof.Src) : Statement (.shrN32 h d a b) := of_word rfl rfl
theorem shrN32W32 (dist : BitVec 2) (d : Sys2Proof.Dst) (a b : Sys2Proof.Src) : Statement (.shrN32W32 dist d a b) := of_word rfl rfl
theorem shrN32C16 (d : Sys2Proof.Dst) (b : Sys2Proof.Src) : Statement (.shrN32C16 d b) := of_word rfl rfl
theorem shrI32 (h : Sys2Proof.Hdr) (d : Sys2Proof.Dst) (a b : Sys2Proof.Src) : Statement (.shrI32 h d a b) := of_word rfl rfl
theorem shrI32W32 (dist : BitVec 2) (d : Sys2Proof.Dst) (a b : Sys2Proof.Src) : Statement (.shrI32W32 dist d a b) := of_word rfl rfl
theorem rotlB32 (h : Sys2Proof.Hdr) (d : Sys2Proof.Dst) (a b : Sys2Proof.Src) : Statement (.rotlB32 h d a b) := of_word rfl rfl
theorem rotlB32W32 (dist : BitVec 2) (d : Sys2Proof.Dst) (a b : Sys2Proof.Src) : Statement (.rotlB32W32 dist d a b) := of_word rfl rfl
theorem rotrB32 (h : Sys2Proof.Hdr) (d : Sys2Proof.Dst) (a b : Sys2Proof.Src) : Statement (.rotrB32 h d a b) := of_word rfl rfl
theorem rotrB32W32 (dist : BitVec 2) (d : Sys2Proof.Dst) (a b : Sys2Proof.Src) : Statement (.rotrB32W32 dist d a b) := of_word rfl rfl
theorem minI32 (h : Sys2Proof.Hdr) (d : Sys2Proof.Dst) (a b : Sys2Proof.Src) : Statement (.minI32 h d a b) := of_word rfl rfl
theorem minI32W32 (dist : BitVec 2) (d : Sys2Proof.Dst) (a b : Sys2Proof.Src) : Statement (.minI32W32 dist d a b) := of_word rfl rfl
theorem minI32C16 (d : Sys2Proof.Dst) (b : Sys2Proof.Src) : Statement (.minI32C16 d b) := of_word rfl rfl
theorem maxI32 (h : Sys2Proof.Hdr) (d : Sys2Proof.Dst) (a b : Sys2Proof.Src) : Statement (.maxI32 h d a b) := of_word rfl rfl
theorem maxI32W32 (dist : BitVec 2) (d : Sys2Proof.Dst) (a b : Sys2Proof.Src) : Statement (.maxI32W32 dist d a b) := of_word rfl rfl
theorem maxI32C16 (d : Sys2Proof.Dst) (b : Sys2Proof.Src) : Statement (.maxI32C16 d b) := of_word rfl rfl
theorem minN32 (h : Sys2Proof.Hdr) (d : Sys2Proof.Dst) (a b : Sys2Proof.Src) : Statement (.minN32 h d a b) := of_word rfl rfl
theorem minN32W32 (dist : BitVec 2) (d : Sys2Proof.Dst) (a b : Sys2Proof.Src) : Statement (.minN32W32 dist d a b) := of_word rfl rfl
theorem maxN32 (h : Sys2Proof.Hdr) (d : Sys2Proof.Dst) (a b : Sys2Proof.Src) : Statement (.maxN32 h d a b) := of_word rfl rfl
theorem maxN32W32 (dist : BitVec 2) (d : Sys2Proof.Dst) (a b : Sys2Proof.Src) : Statement (.maxN32W32 dist d a b) := of_word rfl rfl
theorem adifI32 (h : Sys2Proof.Hdr) (d : Sys2Proof.Dst) (a b : Sys2Proof.Src) : Statement (.adifI32 h d a b) := of_word rfl rfl
theorem adifI32W32 (dist : BitVec 2) (d : Sys2Proof.Dst) (a b : Sys2Proof.Src) : Statement (.adifI32W32 dist d a b) := of_word rfl rfl
theorem adifN32 (h : Sys2Proof.Hdr) (d : Sys2Proof.Dst) (a b : Sys2Proof.Src) : Statement (.adifN32 h d a b) := of_word rfl rfl
theorem adifN32W32 (dist : BitVec 2) (d : Sys2Proof.Dst) (a b : Sys2Proof.Src) : Statement (.adifN32W32 dist d a b) := of_word rfl rfl
theorem bfextN32 (h : Sys2Proof.Hdr) (d : Sys2Proof.Dst) (a b : Sys2Proof.Src) : Statement (.bfextN32 h d a b) := of_word rfl rfl
theorem bfextN32W32 (dist : BitVec 2) (d : Sys2Proof.Dst) (a b : Sys2Proof.Src) : Statement (.bfextN32W32 dist d a b) := of_word rfl rfl
theorem bfextI32 (h : Sys2Proof.Hdr) (d : Sys2Proof.Dst) (a b : Sys2Proof.Src) : Statement (.bfextI32 h d a b) := of_word rfl rfl
theorem bfextI32W32 (dist : BitVec 2) (d : Sys2Proof.Dst) (a b : Sys2Proof.Src) : Statement (.bfextI32W32 dist d a b) := of_word rfl rfl
theorem bfinsB32 (h : Sys2Proof.Hdr) (d : Sys2Proof.Dst) (a b c : Sys2Proof.Src) : Statement (.bfinsB32 h d a b c) := of_word rfl rfl
theorem bfinsB32W32 (dist : BitVec 2) (d : Sys2Proof.Dst) (a b : Sys2Proof.Src) : Statement (.bfinsB32W32 dist d a b) := of_word rfl rfl
theorem popcB32 (h : Sys2Proof.Hdr) (d : Sys2Proof.Dst) (a : Sys2Proof.Src) : Statement (.popcB32 h d a) := of_word rfl rfl
theorem popcB32W32 (dist : BitVec 2) (d : Sys2Proof.Dst) (a : Sys2Proof.Src) : Statement (.popcB32W32 dist d a) := of_word rfl rfl
theorem clzB32 (h : Sys2Proof.Hdr) (d : Sys2Proof.Dst) (a : Sys2Proof.Src) : Statement (.clzB32 h d a) := of_word rfl rfl
theorem clzB32W32 (dist : BitVec 2) (d : Sys2Proof.Dst) (a : Sys2Proof.Src) : Statement (.clzB32W32 dist d a) := of_word rfl rfl
theorem brevB32 (h : Sys2Proof.Hdr) (d : Sys2Proof.Dst) (a : Sys2Proof.Src) : Statement (.brevB32 h d a) := of_word rfl rfl
theorem brevB32W32 (dist : BitVec 2) (d : Sys2Proof.Dst) (a : Sys2Proof.Src) : Statement (.brevB32W32 dist d a) := of_word rfl rfl
theorem addI64 (h : Sys2Proof.Hdr) (d : Sys2Proof.Dst) (a b : Sys2Proof.Src) : Statement (.addI64 h d a b) := of_word rfl rfl
theorem addI64W32 (dist : BitVec 2) (d : Sys2Proof.Dst) (a b : Sys2Proof.Src) : Statement (.addI64W32 dist d a b) := of_word rfl rfl
theorem subI64 (h : Sys2Proof.Hdr) (d : Sys2Proof.Dst) (a b : Sys2Proof.Src) : Statement (.subI64 h d a b) := of_word rfl rfl
theorem subI64W32 (dist : BitVec 2) (d : Sys2Proof.Dst) (a b : Sys2Proof.Src) : Statement (.subI64W32 dist d a b) := of_word rfl rfl
theorem addF32 (h : Sys2Proof.Hdr) (rnd : BitVec 2) (d : Sys2Proof.Dst) (a b : Sys2Proof.Src) : Statement (.addF32 h rnd d a b) := of_word rfl rfl
theorem addF32W32 (dist : BitVec 2) (rnd : BitVec 2) (d : Sys2Proof.Dst) (a b : Sys2Proof.Src) : Statement (.addF32W32 dist rnd d a b) := of_word rfl rfl
theorem addF32C16 (d : Sys2Proof.Dst) (b : Sys2Proof.Src) : Statement (.addF32C16 d b) := of_word rfl rfl
theorem subF32 (h : Sys2Proof.Hdr) (rnd : BitVec 2) (d : Sys2Proof.Dst) (a b : Sys2Proof.Src) : Statement (.subF32 h rnd d a b) := of_word rfl rfl
theorem subF32W32 (dist : BitVec 2) (rnd : BitVec 2) (d : Sys2Proof.Dst) (a b : Sys2Proof.Src) : Statement (.subF32W32 dist rnd d a b) := of_word rfl rfl
theorem subF32C16 (d : Sys2Proof.Dst) (b : Sys2Proof.Src) : Statement (.subF32C16 d b) := of_word rfl rfl
theorem mulF32 (h : Sys2Proof.Hdr) (rnd : BitVec 2) (d : Sys2Proof.Dst) (a b : Sys2Proof.Src) : Statement (.mulF32 h rnd d a b) := of_word rfl rfl
theorem mulF32W32 (dist : BitVec 2) (rnd : BitVec 2) (d : Sys2Proof.Dst) (a b : Sys2Proof.Src) : Statement (.mulF32W32 dist rnd d a b) := of_word rfl rfl
theorem mulF32C16 (d : Sys2Proof.Dst) (b : Sys2Proof.Src) : Statement (.mulF32C16 d b) := of_word rfl rfl
theorem addF16 (h : Sys2Proof.Hdr) (rnd : BitVec 2) (d : Sys2Proof.Dst) (a b : Sys2Proof.Src) : Statement (.addF16 h rnd d a b) := of_word rfl rfl
theorem addF16W32 (dist : BitVec 2) (rnd : BitVec 2) (d : Sys2Proof.Dst) (a b : Sys2Proof.Src) : Statement (.addF16W32 dist rnd d a b) := of_word rfl rfl
theorem subF16 (h : Sys2Proof.Hdr) (rnd : BitVec 2) (d : Sys2Proof.Dst) (a b : Sys2Proof.Src) : Statement (.subF16 h rnd d a b) := of_word rfl rfl
theorem subF16W32 (dist : BitVec 2) (rnd : BitVec 2) (d : Sys2Proof.Dst) (a b : Sys2Proof.Src) : Statement (.subF16W32 dist rnd d a b) := of_word rfl rfl
theorem addBf16 (h : Sys2Proof.Hdr) (rnd : BitVec 2) (d : Sys2Proof.Dst) (a b : Sys2Proof.Src) : Statement (.addBf16 h rnd d a b) := of_word rfl rfl
theorem addBf16W32 (dist : BitVec 2) (rnd : BitVec 2) (d : Sys2Proof.Dst) (a b : Sys2Proof.Src) : Statement (.addBf16W32 dist rnd d a b) := of_word rfl rfl
theorem subBf16 (h : Sys2Proof.Hdr) (rnd : BitVec 2) (d : Sys2Proof.Dst) (a b : Sys2Proof.Src) : Statement (.subBf16 h rnd d a b) := of_word rfl rfl
theorem subBf16W32 (dist : BitVec 2) (rnd : BitVec 2) (d : Sys2Proof.Dst) (a b : Sys2Proof.Src) : Statement (.subBf16W32 dist rnd d a b) := of_word rfl rfl
theorem mulF16 (h : Sys2Proof.Hdr) (rnd : BitVec 2) (d : Sys2Proof.Dst) (a b : Sys2Proof.Src) : Statement (.mulF16 h rnd d a b) := of_word rfl rfl
theorem mulF16W32 (dist : BitVec 2) (rnd : BitVec 2) (d : Sys2Proof.Dst) (a b : Sys2Proof.Src) : Statement (.mulF16W32 dist rnd d a b) := of_word rfl rfl
theorem mulBf16 (h : Sys2Proof.Hdr) (rnd : BitVec 2) (d : Sys2Proof.Dst) (a b : Sys2Proof.Src) : Statement (.mulBf16 h rnd d a b) := of_word rfl rfl
theorem mulBf16W32 (dist : BitVec 2) (rnd : BitVec 2) (d : Sys2Proof.Dst) (a b : Sys2Proof.Src) : Statement (.mulBf16W32 dist rnd d a b) := of_word rfl rfl
theorem minF32 (h : Sys2Proof.Hdr) (d : Sys2Proof.Dst) (a b : Sys2Proof.Src) : Statement (.minF32 h d a b) := of_word rfl rfl
theorem minF32W32 (dist : BitVec 2) (d : Sys2Proof.Dst) (a b : Sys2Proof.Src) : Statement (.minF32W32 dist d a b) := of_word rfl rfl
theorem minF32C16 (d : Sys2Proof.Dst) (b : Sys2Proof.Src) : Statement (.minF32C16 d b) := of_word rfl rfl
theorem maxF32 (h : Sys2Proof.Hdr) (d : Sys2Proof.Dst) (a b : Sys2Proof.Src) : Statement (.maxF32 h d a b) := of_word rfl rfl
theorem maxF32W32 (dist : BitVec 2) (d : Sys2Proof.Dst) (a b : Sys2Proof.Src) : Statement (.maxF32W32 dist d a b) := of_word rfl rfl
theorem maxF32C16 (d : Sys2Proof.Dst) (b : Sys2Proof.Src) : Statement (.maxF32C16 d b) := of_word rfl rfl
theorem minF16 (h : Sys2Proof.Hdr) (d : Sys2Proof.Dst) (a b : Sys2Proof.Src) : Statement (.minF16 h d a b) := of_word rfl rfl
theorem minF16W32 (dist : BitVec 2) (d : Sys2Proof.Dst) (a b : Sys2Proof.Src) : Statement (.minF16W32 dist d a b) := of_word rfl rfl
theorem maxF16 (h : Sys2Proof.Hdr) (d : Sys2Proof.Dst) (a b : Sys2Proof.Src) : Statement (.maxF16 h d a b) := of_word rfl rfl
theorem maxF16W32 (dist : BitVec 2) (d : Sys2Proof.Dst) (a b : Sys2Proof.Src) : Statement (.maxF16W32 dist d a b) := of_word rfl rfl
theorem minBf16 (h : Sys2Proof.Hdr) (d : Sys2Proof.Dst) (a b : Sys2Proof.Src) : Statement (.minBf16 h d a b) := of_word rfl rfl
theorem minBf16W32 (dist : BitVec 2) (d : Sys2Proof.Dst) (a b : Sys2Proof.Src) : Statement (.minBf16W32 dist d a b) := of_word rfl rfl
theorem maxBf16 (h : Sys2Proof.Hdr) (d : Sys2Proof.Dst) (a b : Sys2Proof.Src) : Statement (.maxBf16 h d a b) := of_word rfl rfl
theorem maxBf16W32 (dist : BitVec 2) (d : Sys2Proof.Dst) (a b : Sys2Proof.Src) : Statement (.maxBf16W32 dist d a b) := of_word rfl rfl
theorem minF64 (h : Sys2Proof.Hdr) (d : Sys2Proof.Dst) (a b : Sys2Proof.Src) : Statement (.minF64 h d a b) := of_word rfl rfl
theorem minF64W32 (dist : BitVec 2) (d : Sys2Proof.Dst) (a b : Sys2Proof.Src) : Statement (.minF64W32 dist d a b) := of_word rfl rfl
theorem maxF64 (h : Sys2Proof.Hdr) (d : Sys2Proof.Dst) (a b : Sys2Proof.Src) : Statement (.maxF64 h d a b) := of_word rfl rfl
theorem maxF64W32 (dist : BitVec 2) (d : Sys2Proof.Dst) (a b : Sys2Proof.Src) : Statement (.maxF64W32 dist d a b) := of_word rfl rfl
theorem addF64 (h : Sys2Proof.Hdr) (rnd : BitVec 2) (d : Sys2Proof.Dst) (a b : Sys2Proof.Src) : Statement (.addF64 h rnd d a b) := of_word rfl rfl
theorem addF64W32 (dist : BitVec 2) (rnd : BitVec 2) (d : Sys2Proof.Dst) (a b : Sys2Proof.Src) : Statement (.addF64W32 dist rnd d a b) := of_word rfl rfl
theorem subF64 (h : Sys2Proof.Hdr) (rnd : BitVec 2) (d : Sys2Proof.Dst) (a b : Sys2Proof.Src) : Statement (.subF64 h rnd d a b) := of_word rfl rfl
theorem subF64W32 (dist : BitVec 2) (rnd : BitVec 2) (d : Sys2Proof.Dst) (a b : Sys2Proof.Src) : Statement (.subF64W32 dist rnd d a b) := of_word rfl rfl
theorem mulF64 (h : Sys2Proof.Hdr) (rnd : BitVec 2) (d : Sys2Proof.Dst) (a b : Sys2Proof.Src) : Statement (.mulF64 h rnd d a b) := of_word rfl rfl
theorem mulF64W32 (dist : BitVec 2) (rnd : BitVec 2) (d : Sys2Proof.Dst) (a b : Sys2Proof.Src) : Statement (.mulF64W32 dist rnd d a b) := of_word rfl rfl
theorem lxchSelB32 (h : Sys2Proof.Hdr) (d : Sys2Proof.Dst) (a b : Sys2Proof.Src) : Statement (.lxchSelB32 h d a b) := of_word rfl rfl
theorem lxchSelB32W32 (dist : BitVec 2) (d : Sys2Proof.Dst) (a b : Sys2Proof.Src) : Statement (.lxchSelB32W32 dist d a b) := of_word rfl rfl
theorem lxchLoB32 (h : Sys2Proof.Hdr) (d : Sys2Proof.Dst) (a b : Sys2Proof.Src) : Statement (.lxchLoB32 h d a b) := of_word rfl rfl
theorem lxchLoB32W32 (dist : BitVec 2) (d : Sys2Proof.Dst) (a b : Sys2Proof.Src) : Statement (.lxchLoB32W32 dist d a b) := of_word rfl rfl
theorem lxchHiB32 (h : Sys2Proof.Hdr) (d : Sys2Proof.Dst) (a b : Sys2Proof.Src) : Statement (.lxchHiB32 h d a b) := of_word rfl rfl
theorem lxchHiB32W32 (dist : BitVec 2) (d : Sys2Proof.Dst) (a b : Sys2Proof.Src) : Statement (.lxchHiB32W32 dist d a b) := of_word rfl rfl
theorem lxchFlipB32 (h : Sys2Proof.Hdr) (d : Sys2Proof.Dst) (a b : Sys2Proof.Src) : Statement (.lxchFlipB32 h d a b) := of_word rfl rfl
theorem lxchFlipB32W32 (dist : BitVec 2) (d : Sys2Proof.Dst) (a b : Sys2Proof.Src) : Statement (.lxchFlipB32W32 dist d a b) := of_word rfl rfl
theorem movB32 (h : Sys2Proof.Hdr) (d : Sys2Proof.Dst) (b : Sys2Proof.Src) : Statement (.movB32 h d b) := of_word rfl rfl
theorem movB32W32 (dist : BitVec 2) (d : Sys2Proof.Dst) (b : Sys2Proof.Src) : Statement (.movB32W32 dist d b) := of_word rfl rfl
theorem movB32C16 (d : Sys2Proof.Dst) (b : Sys2Proof.Src) : Statement (.movB32C16 d b) := of_word rfl rfl
theorem movXaB32 (h : Sys2Proof.Hdr) (d : Sys2Proof.Dst) (a : Nat) : Statement (.movXaB32 h d a) := of_word rfl rfl
theorem movXaB32W32 (dist : BitVec 2) (d : Sys2Proof.Dst) (a : Nat) : Statement (.movXaB32W32 dist d a) := of_word rfl rfl
theorem movXdB32 (h : Sys2Proof.Hdr) (d : Nat) (b : Sys2Proof.Src) : Statement (.movXdB32 h d b) := of_word rfl rfl
theorem movXdB32W32 (dist : BitVec 2) (d : Nat) (b : Sys2Proof.Src) : Statement (.movXdB32W32 dist d b) := of_word rfl rfl
theorem movXadB32 (h : Sys2Proof.Hdr) (d a : Nat) : Statement (.movXadB32 h d a) := of_word rfl rfl
theorem movXadB32W32 (dist : BitVec 2) (d a : Nat) : Statement (.movXadB32W32 dist d a) := of_word rfl rfl
theorem packB16 (h : Sys2Proof.Hdr) (d : Sys2Proof.Dst) (a b : Sys2Proof.Src) : Statement (.packB16 h d a b) := of_word rfl rfl
theorem packB16W32 (dist : BitVec 2) (d : Sys2Proof.Dst) (a b : Sys2Proof.Src) : Statement (.packB16W32 dist d a b) := of_word rfl rfl
theorem fmaF32 (h : Sys2Proof.Hdr) (rnd : BitVec 2) (d : Sys2Proof.Dst) (a b c : Sys2Proof.Src) : Statement (.fmaF32 h rnd d a b c) := of_word rfl rfl
theorem fnmaF32 (h : Sys2Proof.Hdr) (rnd : BitVec 2) (d : Sys2Proof.Dst) (a b c : Sys2Proof.Src) : Statement (.fnmaF32 h rnd d a b c) := of_word rfl rfl
theorem fmaF64 (h : Sys2Proof.Hdr) (rnd : BitVec 2) (d : Sys2Proof.Dst) (a b c : Sys2Proof.Src) : Statement (.fmaF64 h rnd d a b c) := of_word rfl rfl
theorem fnmaF64 (h : Sys2Proof.Hdr) (rnd : BitVec 2) (d : Sys2Proof.Dst) (a b c : Sys2Proof.Src) : Statement (.fnmaF64 h rnd d a b c) := of_word rfl rfl
theorem fmaF16 (h : Sys2Proof.Hdr) (rnd : BitVec 2) (d : Sys2Proof.Dst) (a b c : Sys2Proof.Src) : Statement (.fmaF16 h rnd d a b c) := of_word rfl rfl
theorem fnmaF16 (h : Sys2Proof.Hdr) (rnd : BitVec 2) (d : Sys2Proof.Dst) (a b c : Sys2Proof.Src) : Statement (.fnmaF16 h rnd d a b c) := of_word rfl rfl
theorem fmaBf16 (h : Sys2Proof.Hdr) (rnd : BitVec 2) (d : Sys2Proof.Dst) (a b c : Sys2Proof.Src) : Statement (.fmaBf16 h rnd d a b c) := of_word rfl rfl
theorem fnmaBf16 (h : Sys2Proof.Hdr) (rnd : BitVec 2) (d : Sys2Proof.Dst) (a b c : Sys2Proof.Src) : Statement (.fnmaBf16 h rnd d a b c) := of_word rfl rfl
theorem madI32 (h : Sys2Proof.Hdr) (d : Sys2Proof.Dst) (a b c : Sys2Proof.Src) : Statement (.madI32 h d a b c) := of_word rfl rfl
theorem madhiI32 (h : Sys2Proof.Hdr) (d : Sys2Proof.Dst) (a b c : Sys2Proof.Src) : Statement (.madhiI32 h d a b c) := of_word rfl rfl
theorem madhiN32 (h : Sys2Proof.Hdr) (d : Sys2Proof.Dst) (a b c : Sys2Proof.Src) : Statement (.madhiN32 h d a b c) := of_word rfl rfl
theorem madSatI32 (h : Sys2Proof.Hdr) (d : Sys2Proof.Dst) (a b c : Sys2Proof.Src) : Statement (.madSatI32 h d a b c) := of_word rfl rfl
theorem dot4I8 (h : Sys2Proof.Hdr) (d : Sys2Proof.Dst) (a b c : Sys2Proof.Src) : Statement (.dot4I8 h d a b c) := of_word rfl rfl
theorem dot4N8 (h : Sys2Proof.Hdr) (d : Sys2Proof.Dst) (a b c : Sys2Proof.Src) : Statement (.dot4N8 h d a b c) := of_word rfl rfl
theorem dot2I16 (h : Sys2Proof.Hdr) (d : Sys2Proof.Dst) (a b c : Sys2Proof.Src) : Statement (.dot2I16 h d a b c) := of_word rfl rfl
theorem rcpF32 (h : Sys2Proof.Hdr) (rnd : BitVec 2) (d : Sys2Proof.Dst) (a : Sys2Proof.Src) : Statement (.rcpF32 h rnd d a) := of_word rfl rfl
theorem rsqrtF32 (h : Sys2Proof.Hdr) (d : Sys2Proof.Dst) (a : Sys2Proof.Src) : Statement (.rsqrtF32 h d a) := of_word rfl rfl
theorem sqrtF32 (h : Sys2Proof.Hdr) (rnd : BitVec 2) (d : Sys2Proof.Dst) (a : Sys2Proof.Src) : Statement (.sqrtF32 h rnd d a) := of_word rfl rfl
theorem exp2F32 (h : Sys2Proof.Hdr) (d : Sys2Proof.Dst) (a : Sys2Proof.Src) : Statement (.exp2F32 h d a) := of_word rfl rfl
theorem log2F32 (h : Sys2Proof.Hdr) (d : Sys2Proof.Dst) (a : Sys2Proof.Src) : Statement (.log2F32 h d a) := of_word rfl rfl
theorem sinF32 (h : Sys2Proof.Hdr) (d : Sys2Proof.Dst) (a : Sys2Proof.Src) : Statement (.sinF32 h d a) := of_word rfl rfl
theorem cosF32 (h : Sys2Proof.Hdr) (d : Sys2Proof.Dst) (a : Sys2Proof.Src) : Statement (.cosF32 h d a) := of_word rfl rfl
theorem rcpF64 (h : Sys2Proof.Hdr) (rnd : BitVec 2) (d : Sys2Proof.Dst) (a : Sys2Proof.Src) : Statement (.rcpF64 h rnd d a) := of_word rfl rfl
theorem rsqrtF64 (h : Sys2Proof.Hdr) (d : Sys2Proof.Dst) (a : Sys2Proof.Src) : Statement (.rsqrtF64 h d a) := of_word rfl rfl
theorem sqrtF64 (h : Sys2Proof.Hdr) (rnd : BitVec 2) (d : Sys2Proof.Dst) (a : Sys2Proof.Src) : Statement (.sqrtF64 h rnd d a) := of_word rfl rfl
theorem cmpEqB32 (h : Sys2Proof.Hdr) (d : Sys2Proof.Dst) (a b : Sys2Proof.Src) : Statement (.cmpEqB32 h d a b) := of_word rfl rfl
theorem cmpNeB32 (h : Sys2Proof.Hdr) (d : Sys2Proof.Dst) (a b : Sys2Proof.Src) : Statement (.cmpNeB32 h d a b) := of_word rfl rfl
theorem cmpLtI32 (h : Sys2Proof.Hdr) (d : Sys2Proof.Dst) (a b : Sys2Proof.Src) : Statement (.cmpLtI32 h d a b) := of_word rfl rfl
theorem cmpLeI32 (h : Sys2Proof.Hdr) (d : Sys2Proof.Dst) (a b : Sys2Proof.Src) : Statement (.cmpLeI32 h d a b) := of_word rfl rfl
theorem cmpLtN32 (h : Sys2Proof.Hdr) (d : Sys2Proof.Dst) (a b : Sys2Proof.Src) : Statement (.cmpLtN32 h d a b) := of_word rfl rfl
theorem cmpLeN32 (h : Sys2Proof.Hdr) (d : Sys2Proof.Dst) (a b : Sys2Proof.Src) : Statement (.cmpLeN32 h d a b) := of_word rfl rfl
theorem tstB32 (h : Sys2Proof.Hdr) (d : Sys2Proof.Dst) (a b : Sys2Proof.Src) : Statement (.tstB32 h d a b) := of_word rfl rfl
theorem cmpEqF32 (h : Sys2Proof.Hdr) (p : BitVec 3) (a b : Sys2Proof.Src) : Statement (.cmpEqF32 h p a b) := of_word rfl rfl
theorem cmpNeF32 (h : Sys2Proof.Hdr) (p : BitVec 3) (a b : Sys2Proof.Src) : Statement (.cmpNeF32 h p a b) := of_word rfl rfl
theorem cmpLtF32 (h : Sys2Proof.Hdr) (p : BitVec 3) (a b : Sys2Proof.Src) : Statement (.cmpLtF32 h p a b) := of_word rfl rfl
theorem cmpLeF32 (h : Sys2Proof.Hdr) (p : BitVec 3) (a b : Sys2Proof.Src) : Statement (.cmpLeF32 h p a b) := of_word rfl rfl
theorem cmpGtF32 (h : Sys2Proof.Hdr) (p : BitVec 3) (a b : Sys2Proof.Src) : Statement (.cmpGtF32 h p a b) := of_word rfl rfl
theorem cmpGeF32 (h : Sys2Proof.Hdr) (p : BitVec 3) (a b : Sys2Proof.Src) : Statement (.cmpGeF32 h p a b) := of_word rfl rfl
theorem cmpUnF32 (h : Sys2Proof.Hdr) (p : BitVec 3) (a b : Sys2Proof.Src) : Statement (.cmpUnF32 h p a b) := of_word rfl rfl
theorem cmpOrdF32 (h : Sys2Proof.Hdr) (p : BitVec 3) (a b : Sys2Proof.Src) : Statement (.cmpOrdF32 h p a b) := of_word rfl rfl
theorem cmpEqF64 (h : Sys2Proof.Hdr) (p : BitVec 3) (a b : Sys2Proof.Src) : Statement (.cmpEqF64 h p a b) := of_word rfl rfl
theorem cmpNeF64 (h : Sys2Proof.Hdr) (p : BitVec 3) (a b : Sys2Proof.Src) : Statement (.cmpNeF64 h p a b) := of_word rfl rfl
theorem cmpLtF64 (h : Sys2Proof.Hdr) (p : BitVec 3) (a b : Sys2Proof.Src) : Statement (.cmpLtF64 h p a b) := of_word rfl rfl
theorem cmpLeF64 (h : Sys2Proof.Hdr) (p : BitVec 3) (a b : Sys2Proof.Src) : Statement (.cmpLeF64 h p a b) := of_word rfl rfl
theorem cmpGtF64 (h : Sys2Proof.Hdr) (p : BitVec 3) (a b : Sys2Proof.Src) : Statement (.cmpGtF64 h p a b) := of_word rfl rfl
theorem cmpGeF64 (h : Sys2Proof.Hdr) (p : BitVec 3) (a b : Sys2Proof.Src) : Statement (.cmpGeF64 h p a b) := of_word rfl rfl
theorem cmpUnF64 (h : Sys2Proof.Hdr) (p : BitVec 3) (a b : Sys2Proof.Src) : Statement (.cmpUnF64 h p a b) := of_word rfl rfl
theorem cmpOrdF64 (h : Sys2Proof.Hdr) (p : BitVec 3) (a b : Sys2Proof.Src) : Statement (.cmpOrdF64 h p a b) := of_word rfl rfl
theorem cvtF32F64 (h : Sys2Proof.Hdr) (rnd : BitVec 2) (d : Sys2Proof.Dst) (a : Sys2Proof.Src) : Statement (.cvtF32F64 h rnd d a) := of_word rfl rfl
theorem cvtF64F32 (h : Sys2Proof.Hdr) (rnd : BitVec 2) (d : Sys2Proof.Dst) (a : Sys2Proof.Src) : Statement (.cvtF64F32 h rnd d a) := of_word rfl rfl
theorem cvtF16F32 (h : Sys2Proof.Hdr) (rnd : BitVec 2) (d : Sys2Proof.Dst) (a b : Sys2Proof.Src) : Statement (.cvtF16F32 h rnd d a b) := of_word rfl rfl
theorem cvtF32F16 (h : Sys2Proof.Hdr) (rnd : BitVec 2) (d : Sys2Proof.Dst) (a : Sys2Proof.Src) (hi : Bool) : Statement (.cvtF32F16 h rnd d a hi) := of_word rfl rfl
theorem cvtBf16F32 (h : Sys2Proof.Hdr) (rnd : BitVec 2) (d : Sys2Proof.Dst) (a b : Sys2Proof.Src) : Statement (.cvtBf16F32 h rnd d a b) := of_word rfl rfl
theorem cvtF32Bf16 (h : Sys2Proof.Hdr) (rnd : BitVec 2) (d : Sys2Proof.Dst) (a : Sys2Proof.Src) (hi : Bool) : Statement (.cvtF32Bf16 h rnd d a hi) := of_word rfl rfl
theorem cvtI32F32 (h : Sys2Proof.Hdr) (rnd : BitVec 2) (d : Sys2Proof.Dst) (a : Sys2Proof.Src) : Statement (.cvtI32F32 h rnd d a) := of_word rfl rfl
theorem cvtF32I32 (h : Sys2Proof.Hdr) (rnd : BitVec 2) (d : Sys2Proof.Dst) (a : Sys2Proof.Src) : Statement (.cvtF32I32 h rnd d a) := of_word rfl rfl
theorem cvtN32F32 (h : Sys2Proof.Hdr) (rnd : BitVec 2) (d : Sys2Proof.Dst) (a : Sys2Proof.Src) : Statement (.cvtN32F32 h rnd d a) := of_word rfl rfl
theorem cvtF32N32 (h : Sys2Proof.Hdr) (rnd : BitVec 2) (d : Sys2Proof.Dst) (a : Sys2Proof.Src) : Statement (.cvtF32N32 h rnd d a) := of_word rfl rfl
theorem cvtI64F64 (h : Sys2Proof.Hdr) (rnd : BitVec 2) (d : Sys2Proof.Dst) (a : Sys2Proof.Src) : Statement (.cvtI64F64 h rnd d a) := of_word rfl rfl
theorem cvtF64I64 (h : Sys2Proof.Hdr) (rnd : BitVec 2) (d : Sys2Proof.Dst) (a : Sys2Proof.Src) : Statement (.cvtF64I64 h rnd d a) := of_word rfl rfl
theorem cvtI32F64 (h : Sys2Proof.Hdr) (rnd : BitVec 2) (d : Sys2Proof.Dst) (a : Sys2Proof.Src) : Statement (.cvtI32F64 h rnd d a) := of_word rfl rfl
theorem cvtF64I32 (h : Sys2Proof.Hdr) (rnd : BitVec 2) (d : Sys2Proof.Dst) (a : Sys2Proof.Src) : Statement (.cvtF64I32 h rnd d a) := of_word rfl rfl
theorem cvtSatI8I32 (h : Sys2Proof.Hdr) (rnd : BitVec 2) (d : Sys2Proof.Dst) (a : Sys2Proof.Src) : Statement (.cvtSatI8I32 h rnd d a) := of_word rfl rfl
theorem cvtSatI16I32 (h : Sys2Proof.Hdr) (rnd : BitVec 2) (d : Sys2Proof.Dst) (a : Sys2Proof.Src) : Statement (.cvtSatI16I32 h rnd d a) := of_word rfl rfl
theorem cvtFfF32 (h : Sys2Proof.Hdr) (rnd : BitVec 2) (d : Sys2Proof.Dst) (a f : Sys2Proof.Src) : Statement (.cvtFfF32 h rnd d a f) := of_word rfl rfl
theorem cvtF32Ff (h : Sys2Proof.Hdr) (rnd : BitVec 2) (d : Sys2Proof.Dst) (a f : Sys2Proof.Src) : Statement (.cvtF32Ff h rnd d a f) := of_word rfl rfl
theorem cvtFfBf16 (h : Sys2Proof.Hdr) (rnd : BitVec 2) (d : Sys2Proof.Dst) (a f : Sys2Proof.Src) : Statement (.cvtFfBf16 h rnd d a f) := of_word rfl rfl
theorem cvtBf16Ff (h : Sys2Proof.Hdr) (rnd : BitVec 2) (d : Sys2Proof.Dst) (a f : Sys2Proof.Src) : Statement (.cvtBf16Ff h rnd d a f) := of_word rfl rfl
theorem packMx (h : Sys2Proof.Hdr) (d : Sys2Proof.Dst) (a f : Sys2Proof.Src) : Statement (.packMx h d a f) := of_word rfl rfl
theorem unpackMx (h : Sys2Proof.Hdr) (rnd : BitVec 2) (d : Sys2Proof.Dst) (a f : Sys2Proof.Src) : Statement (.unpackMx h rnd d a f) := of_word rfl rfl
theorem lvoteAnd (h : Sys2Proof.Hdr) (p : BitVec 3) (q : BitVec 3) : Statement (.lvoteAnd h p q) := of_word rfl rfl
theorem lvoteOr (h : Sys2Proof.Hdr) (p : BitVec 3) (q : BitVec 3) : Statement (.lvoteOr h p q) := of_word rfl rfl
theorem lvoteMask (h : Sys2Proof.Hdr) (d : Sys2Proof.Dst) (q : BitVec 3) : Statement (.lvoteMask h d q) := of_word rfl rfl
theorem vredAddI32 (h : Sys2Proof.Hdr) (d : Sys2Proof.Dst) (a : Sys2Proof.Src) : Statement (.vredAddI32 h d a) := of_word rfl rfl
theorem vredMinI32 (h : Sys2Proof.Hdr) (d : Sys2Proof.Dst) (a : Sys2Proof.Src) : Statement (.vredMinI32 h d a) := of_word rfl rfl
theorem vredMaxI32 (h : Sys2Proof.Hdr) (d : Sys2Proof.Dst) (a : Sys2Proof.Src) : Statement (.vredMaxI32 h d a) := of_word rfl rfl
theorem vredAddF32 (h : Sys2Proof.Hdr) (d : Sys2Proof.Dst) (a : Sys2Proof.Src) : Statement (.vredAddF32 h d a) := of_word rfl rfl
theorem vscanAddI32 (h : Sys2Proof.Hdr) (d : Sys2Proof.Dst) (a : Sys2Proof.Src) : Statement (.vscanAddI32 h d a) := of_word rfl rfl
theorem vfilt (h : Sys2Proof.Hdr) (d : Sys2Proof.Dst) (a b c : Sys2Proof.Src) : Statement (.vfilt h d a b c) := of_word rfl rfl
theorem vpermB32 (h : Sys2Proof.Hdr) (d : Sys2Proof.Dst) (a b : Sys2Proof.Src) : Statement (.vpermB32 h d a b) := of_word rfl rfl
theorem pand (h : Sys2Proof.Hdr) (p q r : BitVec 3) : Statement (.pand h p q r) := of_word rfl rfl
theorem por (h : Sys2Proof.Hdr) (p q r : BitVec 3) : Statement (.por h p q r) := of_word rfl rfl
theorem pnot (h : Sys2Proof.Hdr) (p q : BitVec 3) : Statement (.pnot h p q) := of_word rfl rfl
theorem pmov (h : Sys2Proof.Hdr) (p : BitVec 3) (a : Sys2Proof.Src) : Statement (.pmov h p a) := of_word rfl rfl
theorem selB32 (h : Sys2Proof.Hdr) (d : Sys2Proof.Dst) (a b : Sys2Proof.Src) (q : BitVec 3) : Statement (.selB32 h d a b q) := of_word rfl rfl
theorem pfrom (h : Sys2Proof.Hdr) (p : BitVec 3) (a : Sys2Proof.Src) : Statement (.pfrom h p a) := of_word rfl rfl
theorem pto (h : Sys2Proof.Hdr) (d : Sys2Proof.Dst) (q : BitVec 3) : Statement (.pto h d q) := of_word rfl rfl
theorem addIv32 (h : Sys2Proof.Hdr) (d : Sys2Proof.Dst) (a b : Sys2Proof.Src) : Statement (.addIv32 h d a b) := of_word rfl rfl
theorem subIv32 (h : Sys2Proof.Hdr) (d : Sys2Proof.Dst) (a b : Sys2Proof.Src) : Statement (.subIv32 h d a b) := of_word rfl rfl
theorem mulIv32 (h : Sys2Proof.Hdr) (d : Sys2Proof.Dst) (a b : Sys2Proof.Src) : Statement (.mulIv32 h d a b) := of_word rfl rfl
theorem divIv32 (h : Sys2Proof.Hdr) (d : Sys2Proof.Dst) (a b : Sys2Proof.Src) : Statement (.divIv32 h d a b) := of_word rfl rfl
theorem sqrIv32 (h : Sys2Proof.Hdr) (d : Sys2Proof.Dst) (a : Sys2Proof.Src) : Statement (.sqrIv32 h d a) := of_word rfl rfl
theorem sqrtIv32 (h : Sys2Proof.Hdr) (d : Sys2Proof.Dst) (a : Sys2Proof.Src) : Statement (.sqrtIv32 h d a) := of_word rfl rfl
theorem negIv32 (h : Sys2Proof.Hdr) (d : Sys2Proof.Dst) (a : Sys2Proof.Src) : Statement (.negIv32 h d a) := of_word rfl rfl
theorem fmaIv32 (h : Sys2Proof.Hdr) (d : Sys2Proof.Dst) (a b c : Sys2Proof.Src) : Statement (.fmaIv32 h d a b c) := of_word rfl rfl
theorem addIv64 (h : Sys2Proof.Hdr) (d : Sys2Proof.Dst) (a b : Sys2Proof.Src) : Statement (.addIv64 h d a b) := of_word rfl rfl
theorem subIv64 (h : Sys2Proof.Hdr) (d : Sys2Proof.Dst) (a b : Sys2Proof.Src) : Statement (.subIv64 h d a b) := of_word rfl rfl
theorem mulIv64 (h : Sys2Proof.Hdr) (d : Sys2Proof.Dst) (a b : Sys2Proof.Src) : Statement (.mulIv64 h d a b) := of_word rfl rfl
theorem divIv64 (h : Sys2Proof.Hdr) (d : Sys2Proof.Dst) (a b : Sys2Proof.Src) : Statement (.divIv64 h d a b) := of_word rfl rfl
theorem sqrIv64 (h : Sys2Proof.Hdr) (d : Sys2Proof.Dst) (a : Sys2Proof.Src) : Statement (.sqrIv64 h d a) := of_word rfl rfl
theorem sqrtIv64 (h : Sys2Proof.Hdr) (d : Sys2Proof.Dst) (a : Sys2Proof.Src) : Statement (.sqrtIv64 h d a) := of_word rfl rfl
theorem negIv64 (h : Sys2Proof.Hdr) (d : Sys2Proof.Dst) (a : Sys2Proof.Src) : Statement (.negIv64 h d a) := of_word rfl rfl
theorem fmaIv64 (h : Sys2Proof.Hdr) (d : Sys2Proof.Dst) (a b c : Sys2Proof.Src) : Statement (.fmaIv64 h d a b c) := of_word rfl rfl
theorem hullIv32 (h : Sys2Proof.Hdr) (d : Sys2Proof.Dst) (a b : Sys2Proof.Src) : Statement (.hullIv32 h d a b) := of_word rfl rfl
theorem isectIv32 (h : Sys2Proof.Hdr) (d : Sys2Proof.Dst) (a b : Sys2Proof.Src) : Statement (.isectIv32 h d a b) := of_word rfl rfl
theorem midIv32 (h : Sys2Proof.Hdr) (d : Sys2Proof.Dst) (a : Sys2Proof.Src) : Statement (.midIv32 h d a) := of_word rfl rfl
theorem widIv32 (h : Sys2Proof.Hdr) (d : Sys2Proof.Dst) (a : Sys2Proof.Src) : Statement (.widIv32 h d a) := of_word rfl rfl
theorem cmpLtIv32 (h : Sys2Proof.Hdr) (p : BitVec 3) (a b : Sys2Proof.Src) : Statement (.cmpLtIv32 h p a b) := of_word rfl rfl
theorem cmpLeIv32 (h : Sys2Proof.Hdr) (p : BitVec 3) (a b : Sys2Proof.Src) : Statement (.cmpLeIv32 h p a b) := of_word rfl rfl
theorem cmpEqIv32 (h : Sys2Proof.Hdr) (p : BitVec 3) (a b : Sys2Proof.Src) : Statement (.cmpEqIv32 h p a b) := of_word rfl rfl
theorem bisectIv32 (h : Sys2Proof.Hdr) (d : Sys2Proof.Dst) (a : Sys2Proof.Src) : Statement (.bisectIv32 h d a) := of_word rfl rfl
theorem hullIv64 (h : Sys2Proof.Hdr) (d : Sys2Proof.Dst) (a b : Sys2Proof.Src) : Statement (.hullIv64 h d a b) := of_word rfl rfl
theorem isectIv64 (h : Sys2Proof.Hdr) (d : Sys2Proof.Dst) (a b : Sys2Proof.Src) : Statement (.isectIv64 h d a b) := of_word rfl rfl
theorem midIv64 (h : Sys2Proof.Hdr) (d : Sys2Proof.Dst) (a : Sys2Proof.Src) : Statement (.midIv64 h d a) := of_word rfl rfl
theorem widIv64 (h : Sys2Proof.Hdr) (d : Sys2Proof.Dst) (a : Sys2Proof.Src) : Statement (.widIv64 h d a) := of_word rfl rfl
theorem cmpLtIv64 (h : Sys2Proof.Hdr) (p : BitVec 3) (a b : Sys2Proof.Src) : Statement (.cmpLtIv64 h p a b) := of_word rfl rfl
theorem cmpLeIv64 (h : Sys2Proof.Hdr) (p : BitVec 3) (a b : Sys2Proof.Src) : Statement (.cmpLeIv64 h p a b) := of_word rfl rfl
theorem cmpEqIv64 (h : Sys2Proof.Hdr) (p : BitVec 3) (a b : Sys2Proof.Src) : Statement (.cmpEqIv64 h p a b) := of_word rfl rfl
theorem bisectIv64 (h : Sys2Proof.Hdr) (d : Sys2Proof.Dst) (a : Sys2Proof.Src) : Statement (.bisectIv64 h d a) := of_word rfl rfl
theorem ivSpawn (h : Sys2Proof.Hdr) (d : Sys2Proof.Dst) (a : Sys2Proof.Src) : Statement (.ivSpawn h d a) := of_word rfl rfl
theorem mkivIv32 (h : Sys2Proof.Hdr) (d : Sys2Proof.Dst) (a b : Sys2Proof.Src) : Statement (.mkivIv32 h d a b) := of_word rfl rfl
theorem mkivIv64 (h : Sys2Proof.Hdr) (d : Sys2Proof.Dst) (a b : Sys2Proof.Src) : Statement (.mkivIv64 h d a b) := of_word rfl rfl
theorem ldIv32 (h : Sys2Proof.Hdr) (d : Sys2Proof.Dst) (a : Sys2Proof.Src) (hint : Sys2Proof.Hint) : Statement (.ldIv32 h d a hint) := of_word rfl rfl
theorem ldIv64 (h : Sys2Proof.Hdr) (d : Sys2Proof.Dst) (a : Sys2Proof.Src) (hint : Sys2Proof.Hint) : Statement (.ldIv64 h d a hint) := of_word rfl rfl
theorem stIv32 (h : Sys2Proof.Hdr) (a b : Sys2Proof.Src) (hint : Sys2Proof.Hint) : Statement (.stIv32 h a b hint) := of_word rfl rfl
theorem stIv64 (h : Sys2Proof.Hdr) (a b : Sys2Proof.Src) (hint : Sys2Proof.Hint) : Statement (.stIv64 h a b hint) := of_word rfl rfl
theorem tcfg (h : Sys2Proof.Hdr) (t : BitVec 4) (a b c : Sys2Proof.Src) : Statement (.tcfg h t a b c) := of_word rfl rfl
theorem tload (h : Sys2Proof.Hdr) (t : BitVec 4) (bv : Bool) (a b : Sys2Proof.Src) (bo : BitVec 4) : Statement (.tload h t bv a b bo) := of_word rfl rfl
theorem tstore (h : Sys2Proof.Hdr) (t : BitVec 4) (bv : Bool) (a b : Sys2Proof.Src) (bo : BitVec 4) : Statement (.tstore h t bv a b bo) := of_word rfl rfl
theorem tzero (h : Sys2Proof.Hdr) (t : BitVec 4) : Statement (.tzero h t) := of_word rfl rfl
theorem mwload (h : Sys2Proof.Hdr) (t : BitVec 4) : Statement (.mwload h t) := of_word rfl rfl
theorem mwloadSm (h : Sys2Proof.Hdr) (t : BitVec 4) (b : Sys2Proof.Src) : Statement (.mwloadSm h t b) := of_word rfl rfl
theorem mzero (h : Sys2Proof.Hdr) (acc : BitVec 6) : Statement (.mzero h acc) := of_word rfl rfl
theorem mflags (h : Sys2Proof.Hdr) (d : Sys2Proof.Dst) (clr : Bool) : Statement (.mflags h d clr) := of_word rfl rfl
theorem mmacI8 (h : Sys2Proof.Hdr) (acc : BitVec 6) (t : BitVec 4) (rp cpn cpk : BitVec 2) (z : Bool) (c : Sys2Proof.Src) : Statement (.mmacI8 h acc t rp cpn cpk z c) := of_word rfl rfl
theorem mmacF8 (h : Sys2Proof.Hdr) (acc : BitVec 6) (t : BitVec 4) (rp cpn cpk : BitVec 2) (z : Bool) (c : Sys2Proof.Src) : Statement (.mmacF8 h acc t rp cpn cpk z c) := of_word rfl rfl
theorem mmacF4 (h : Sys2Proof.Hdr) (acc : BitVec 6) (t : BitVec 4) (rp cpn cpk : BitVec 2) (z : Bool) (c : Sys2Proof.Src) : Statement (.mmacF4 h acc t rp cpn cpk z c) := of_word rfl rfl
theorem mmacBf16 (h : Sys2Proof.Hdr) (acc : BitVec 6) (t : BitVec 4) (rp cpn cpk : BitVec 2) (z : Bool) (c : Sys2Proof.Src) : Statement (.mmacBf16 h acc t rp cpn cpk z c) := of_word rfl rfl
theorem mmacF16 (h : Sys2Proof.Hdr) (acc : BitVec 6) (t : BitVec 4) (rp cpn cpk : BitVec 2) (z : Bool) (c : Sys2Proof.Src) : Statement (.mmacF16 h acc t rp cpn cpk z c) := of_word rfl rfl
theorem mmacX3 (h : Sys2Proof.Hdr) (acc : BitVec 6) (t : BitVec 4) (rp cpn cpk : BitVec 2) (z : Bool) (c : Sys2Proof.Src) : Statement (.mmacX3 h acc t rp cpn cpk z c) := of_word rfl rfl
theorem mmacMx (h : Sys2Proof.Hdr) (acc : BitVec 6) (t : BitVec 4) (rp cpn cpk : BitVec 2) (z : Bool) (c : Sys2Proof.Src) : Statement (.mmacMx h acc t rp cpn cpk z c) := of_word rfl rfl
theorem mstore (h : Sys2Proof.Hdr) (t : BitVec 4) (acc : BitVec 6) (rp cp : BitVec 2) : Statement (.mstore h t acc rp cp) := of_word rfl rfl
theorem mload (h : Sys2Proof.Hdr) (acc : BitVec 6) (t : BitVec 4) (rp cp : BitVec 2) : Statement (.mload h acc t rp cp) := of_word rfl rfl
theorem mcvt (h : Sys2Proof.Hdr) (acc src : BitVec 6) (rp cp : BitVec 2) (c : Sys2Proof.Src) : Statement (.mcvt h acc src rp cp c) := of_word rfl rfl
theorem mpset (h : Sys2Proof.Hdr) (cnt col : Bool) (idx : BitVec 2) (a : Sys2Proof.Src) : Statement (.mpset h cnt col idx a) := of_word rfl rfl
theorem marrive (h : Sys2Proof.Hdr) (bo : BitVec 4) (a : Sys2Proof.Src) : Statement (.marrive h bo a) := of_word rfl rfl
theorem mswap (h : Sys2Proof.Hdr) : Statement (.mswap h) := of_word rfl rfl
theorem ldN8 (h : Sys2Proof.Hdr) (d : Sys2Proof.Dst) (a : Sys2Proof.Src) (hint : Sys2Proof.Hint) : Statement (.ldN8 h d a hint) := of_word rfl rfl
theorem ldI8 (h : Sys2Proof.Hdr) (d : Sys2Proof.Dst) (a : Sys2Proof.Src) (hint : Sys2Proof.Hint) : Statement (.ldI8 h d a hint) := of_word rfl rfl
theorem ldN16 (h : Sys2Proof.Hdr) (d : Sys2Proof.Dst) (a : Sys2Proof.Src) (hint : Sys2Proof.Hint) : Statement (.ldN16 h d a hint) := of_word rfl rfl
theorem ldI16 (h : Sys2Proof.Hdr) (d : Sys2Proof.Dst) (a : Sys2Proof.Src) (hint : Sys2Proof.Hint) : Statement (.ldI16 h d a hint) := of_word rfl rfl
theorem ldB32 (h : Sys2Proof.Hdr) (d : Sys2Proof.Dst) (a : Sys2Proof.Src) (hint : Sys2Proof.Hint) : Statement (.ldB32 h d a hint) := of_word rfl rfl
theorem ldB64 (h : Sys2Proof.Hdr) (d : Sys2Proof.Dst) (a : Sys2Proof.Src) (hint : Sys2Proof.Hint) : Statement (.ldB64 h d a hint) := of_word rfl rfl
theorem ldB128 (h : Sys2Proof.Hdr) (d : Sys2Proof.Dst) (a : Sys2Proof.Src) (hint : Sys2Proof.Hint) : Statement (.ldB128 h d a hint) := of_word rfl rfl
theorem stB8 (h : Sys2Proof.Hdr) (a b : Sys2Proof.Src) (hint : Sys2Proof.Hint) : Statement (.stB8 h a b hint) := of_word rfl rfl
theorem stB16 (h : Sys2Proof.Hdr) (a b : Sys2Proof.Src) (hint : Sys2Proof.Hint) : Statement (.stB16 h a b hint) := of_word rfl rfl
theorem stB32 (h : Sys2Proof.Hdr) (a b : Sys2Proof.Src) (hint : Sys2Proof.Hint) : Statement (.stB32 h a b hint) := of_word rfl rfl
theorem stB64 (h : Sys2Proof.Hdr) (a b : Sys2Proof.Src) (hint : Sys2Proof.Hint) : Statement (.stB64 h a b hint) := of_word rfl rfl
theorem stB128 (h : Sys2Proof.Hdr) (a b : Sys2Proof.Src) (hint : Sys2Proof.Hint) : Statement (.stB128 h a b hint) := of_word rfl rfl
theorem ldsB32 (h : Sys2Proof.Hdr) (d : Sys2Proof.Dst) (a : Sys2Proof.Src) : Statement (.ldsB32 h d a) := of_word rfl rfl
theorem ldsB64 (h : Sys2Proof.Hdr) (d : Sys2Proof.Dst) (a : Sys2Proof.Src) : Statement (.ldsB64 h d a) := of_word rfl rfl
theorem stsB32 (h : Sys2Proof.Hdr) (a b : Sys2Proof.Src) : Statement (.stsB32 h a b) := of_word rfl rfl
theorem stsB64 (h : Sys2Proof.Hdr) (a b : Sys2Proof.Src) : Statement (.stsB64 h a b) := of_word rfl rfl
theorem ldlB32 (h : Sys2Proof.Hdr) (d : Sys2Proof.Dst) (a : Sys2Proof.Src) : Statement (.ldlB32 h d a) := of_word rfl rfl
theorem ldlB64 (h : Sys2Proof.Hdr) (d : Sys2Proof.Dst) (a : Sys2Proof.Src) : Statement (.ldlB64 h d a) := of_word rfl rfl
theorem stlB32 (h : Sys2Proof.Hdr) (a b : Sys2Proof.Src) : Statement (.stlB32 h a b) := of_word rfl rfl
theorem stlB64 (h : Sys2Proof.Hdr) (a b : Sys2Proof.Src) : Statement (.stlB64 h a b) := of_word rfl rfl
theorem atomAddI32 (h : Sys2Proof.Hdr) (d : Sys2Proof.Dst) (a b : Sys2Proof.Src) (sc : Sys2Proof.Scope) : Statement (.atomAddI32 h d a b sc) := of_word rfl rfl
theorem atomMinI32 (h : Sys2Proof.Hdr) (d : Sys2Proof.Dst) (a b : Sys2Proof.Src) (sc : Sys2Proof.Scope) : Statement (.atomMinI32 h d a b sc) := of_word rfl rfl
theorem atomMaxI32 (h : Sys2Proof.Hdr) (d : Sys2Proof.Dst) (a b : Sys2Proof.Src) (sc : Sys2Proof.Scope) : Statement (.atomMaxI32 h d a b sc) := of_word rfl rfl
theorem atomAndB32 (h : Sys2Proof.Hdr) (d : Sys2Proof.Dst) (a b : Sys2Proof.Src) (sc : Sys2Proof.Scope) : Statement (.atomAndB32 h d a b sc) := of_word rfl rfl
theorem atomOrB32 (h : Sys2Proof.Hdr) (d : Sys2Proof.Dst) (a b : Sys2Proof.Src) (sc : Sys2Proof.Scope) : Statement (.atomOrB32 h d a b sc) := of_word rfl rfl
theorem atomXorB32 (h : Sys2Proof.Hdr) (d : Sys2Proof.Dst) (a b : Sys2Proof.Src) (sc : Sys2Proof.Scope) : Statement (.atomXorB32 h d a b sc) := of_word rfl rfl
theorem atomExchB32 (h : Sys2Proof.Hdr) (d : Sys2Proof.Dst) (a b : Sys2Proof.Src) (sc : Sys2Proof.Scope) : Statement (.atomExchB32 h d a b sc) := of_word rfl rfl
theorem atomCasB32 (h : Sys2Proof.Hdr) (d : Sys2Proof.Dst) (a b : Sys2Proof.Src) (sc : Sys2Proof.Scope) : Statement (.atomCasB32 h d a b sc) := of_word rfl rfl
theorem atomAddF32 (h : Sys2Proof.Hdr) (d : Sys2Proof.Dst) (a b : Sys2Proof.Src) (sc : Sys2Proof.Scope) : Statement (.atomAddF32 h d a b sc) := of_word rfl rfl
theorem aredAddI32 (h : Sys2Proof.Hdr) (a b : Sys2Proof.Src) (sc : Sys2Proof.Scope) : Statement (.aredAddI32 h a b sc) := of_word rfl rfl
theorem aredAddF32 (h : Sys2Proof.Hdr) (a b : Sys2Proof.Src) (sc : Sys2Proof.Scope) : Statement (.aredAddF32 h a b sc) := of_word rfl rfl
theorem aredMinI32 (h : Sys2Proof.Hdr) (a b : Sys2Proof.Src) (sc : Sys2Proof.Scope) : Statement (.aredMinI32 h a b sc) := of_word rfl rfl
theorem aredMaxI32 (h : Sys2Proof.Hdr) (a b : Sys2Proof.Src) (sc : Sys2Proof.Scope) : Statement (.aredMaxI32 h a b sc) := of_word rfl rfl
theorem aredAndB32 (h : Sys2Proof.Hdr) (a b : Sys2Proof.Src) (sc : Sys2Proof.Scope) : Statement (.aredAndB32 h a b sc) := of_word rfl rfl
theorem aredOrB32 (h : Sys2Proof.Hdr) (a b : Sys2Proof.Src) (sc : Sys2Proof.Scope) : Statement (.aredOrB32 h a b sc) := of_word rfl rfl
theorem aredXorB32 (h : Sys2Proof.Hdr) (a b : Sys2Proof.Src) (sc : Sys2Proof.Scope) : Statement (.aredXorB32 h a b sc) := of_word rfl rfl
theorem aredAddI64 (h : Sys2Proof.Hdr) (a b : Sys2Proof.Src) (sc : Sys2Proof.Scope) : Statement (.aredAddI64 h a b sc) := of_word rfl rfl
theorem ldrB32 (h : Sys2Proof.Hdr) (d : Sys2Proof.Dst) (a : Sys2Proof.Src) (sc : Sys2Proof.Scope) : Statement (.ldrB32 h d a sc) := of_word rfl rfl
theorem stcB32 (h : Sys2Proof.Hdr) (d : Sys2Proof.Dst) (a b : Sys2Proof.Src) (sc : Sys2Proof.Scope) : Statement (.stcB32 h d a b sc) := of_word rfl rfl
theorem fence (h : Sys2Proof.Hdr) (sc : Sys2Proof.Scope) : Statement (.fence h sc) := of_word rfl rfl
theorem prefetch (h : Sys2Proof.Hdr) (a : Sys2Proof.Src) (hint : Sys2Proof.Hint) : Statement (.prefetch h a hint) := of_word rfl rfl
theorem cwback (h : Sys2Proof.Hdr) (a : Sys2Proof.Src) (hint : Sys2Proof.Hint) : Statement (.cwback h a hint) := of_word rfl rfl
theorem cinval (h : Sys2Proof.Hdr) (a : Sys2Proof.Src) (hint : Sys2Proof.Hint) : Statement (.cinval h a hint) := of_word rfl rfl
theorem xgather (h : Sys2Proof.Hdr) (bo cnt : BitVec 4) (a b : Sys2Proof.Src) (slot : BitVec 5) (mw : Bool) : Statement (.xgather h bo cnt a b slot mw) := of_word rfl rfl
theorem xgatherSum (h : Sys2Proof.Hdr) (bo cnt : BitVec 4) (a b : Sys2Proof.Src) (slot : BitVec 5) (mw : Bool) : Statement (.xgatherSum h bo cnt a b slot mw) := of_word rfl rfl
theorem xgatherMax (h : Sys2Proof.Hdr) (bo cnt : BitVec 4) (a b : Sys2Proof.Src) (slot : BitVec 5) (mw : Bool) : Statement (.xgatherMax h bo cnt a b slot mw) := of_word rfl rfl
theorem xgatherMean (h : Sys2Proof.Hdr) (bo cnt : BitVec 4) (a b : Sys2Proof.Src) (slot : BitVec 5) (mw : Bool) : Statement (.xgatherMean h bo cnt a b slot mw) := of_word rfl rfl
theorem xscadd (h : Sys2Proof.Hdr) (bo cnt : BitVec 4) (a b : Sys2Proof.Src) (slot : BitVec 5) (mw : Bool) : Statement (.xscadd h bo cnt a b slot mw) := of_word rfl rfl
theorem xscmax (h : Sys2Proof.Hdr) (bo cnt : BitVec 4) (a b : Sys2Proof.Src) (slot : BitVec 5) (mw : Bool) : Statement (.xscmax h bo cnt a b slot mw) := of_word rfl rfl
theorem xscore (h : Sys2Proof.Hdr) (bo cnt : BitVec 4) (a b : Sys2Proof.Src) (slot : BitVec 5) (mw : Bool) : Statement (.xscore h bo cnt a b slot mw) := of_word rfl rfl
theorem xqload (h : Sys2Proof.Hdr) (d : Sys2Proof.Dst) (a : Sys2Proof.Src) (slot : BitVec 5) : Statement (.xqload h d a slot) := of_word rfl rfl
theorem xqfree (h : Sys2Proof.Hdr) (a : Sys2Proof.Src) : Statement (.xqfree h a) := of_word rfl rfl
theorem xstat (h : Sys2Proof.Hdr) (d : Sys2Proof.Dst) (clr : Bool) : Statement (.xstat h d clr) := of_word rfl rfl
theorem xmask (h : Sys2Proof.Hdr) (p : BitVec 3) (k : BitVec 4) : Statement (.xmask h p k) := of_word rfl rfl
theorem xwait (h : Sys2Proof.Hdr) (k : BitVec 2) : Statement (.xwait h k) := of_word rfl rfl
theorem acopyIn (h : Sys2Proof.Hdr) (tag : BitVec 6) (a b : Sys2Proof.Src) (bo : BitVec 4) (bv : Bool) (ch : BitVec 2) : Statement (.acopyIn h tag a b bo bv ch) := of_word rfl rfl
theorem acopyOut (h : Sys2Proof.Hdr) (tag : BitVec 6) (a b : Sys2Proof.Src) (bo : BitVec 4) (bv : Bool) (ch : BitVec 2) : Statement (.acopyOut h tag a b bo bv ch) := of_word rfl rfl
theorem tagwaitAny (h : Sys2Proof.Hdr) (a : Sys2Proof.Src) : Statement (.tagwaitAny h a) := of_word rfl rfl
theorem tagwaitAll (h : Sys2Proof.Hdr) (a : Sys2Proof.Src) : Statement (.tagwaitAll h a) := of_word rfl rfl
theorem tagffr (h : Sys2Proof.Hdr) (d : Sys2Proof.Dst) (a : Sys2Proof.Src) : Statement (.tagffr h d a) := of_word rfl rfl
theorem tagclr (h : Sys2Proof.Hdr) (a : Sys2Proof.Src) : Statement (.tagclr h a) := of_word rfl rfl
theorem hfetch (h : Sys2Proof.Hdr) (d : Sys2Proof.Dst) (a : Sys2Proof.Src) (slot : BitVec 5) (form : BitVec 2) : Statement (.hfetch h d a slot form) := of_word rfl rfl
theorem hfetchPf (h : Sys2Proof.Hdr) (a : Sys2Proof.Src) (slot : BitVec 5) (form : BitVec 2) : Statement (.hfetchPf h a slot form) := of_word rfl rfl
theorem rowscan (h : Sys2Proof.Hdr) (ht : BitVec 5) (ind : Bool) (a b : Sys2Proof.Src) (hs : BitVec 5) : Statement (.rowscan h ht ind a b hs) := of_word rfl rfl
theorem fibld (h : Sys2Proof.Hdr) (d : Sys2Proof.Dst) (a : Sys2Proof.Src) (slot : BitVec 5) (form : BitVec 2) : Statement (.fibld h d a slot form) := of_word rfl rfl
theorem fibinv (h : Sys2Proof.Hdr) (slot : BitVec 5) (fc : Bool) : Statement (.fibinv h slot fc) := of_word rfl rfl
theorem dmaCopy (h : Sys2Proof.Hdr) (d : Sys2Proof.Dst) (a b c : Sys2Proof.Src) : Statement (.dmaCopy h d a b c) := of_word rfl rfl
theorem dmaFill (h : Sys2Proof.Hdr) (d : Sys2Proof.Dst) (a b c : Sys2Proof.Src) : Statement (.dmaFill h d a b c) := of_word rfl rfl
theorem dmaStat (h : Sys2Proof.Hdr) (d : Sys2Proof.Dst) (a : Sys2Proof.Src) : Statement (.dmaStat h d a) := of_word rfl rfl
theorem mdld (h : Sys2Proof.Hdr) (d : Sys2Proof.Dst) (a : Sys2Proof.Src) (slot : BitVec 5) : Statement (.mdld h d a slot) := of_word rfl rfl
theorem launch (h : Sys2Proof.Hdr) (d : Sys2Proof.Dst) (a : Sys2Proof.Src) : Statement (.launch h d a) := of_word rfl rfl
theorem launchRec (h : Sys2Proof.Hdr) (d : Sys2Proof.Dst) (a : Sys2Proof.Src) : Statement (.launchRec h d a) := of_word rfl rfl
theorem grow (h : Sys2Proof.Hdr) (d : Sys2Proof.Dst) (a : Sys2Proof.Src) : Statement (.grow h d a) := of_word rfl rfl
theorem vpoint (h : Sys2Proof.Hdr) (k : BitVec 10) : Statement (.vpoint h k) := of_word rfl rfl
theorem exit (h : Sys2Proof.Hdr) : Statement (.exit h) := of_word rfl rfl
theorem bar (h : Sys2Proof.Hdr) (s : Bool) : Statement (.bar h s) := of_word rfl rfl
theorem gbar (h : Sys2Proof.Hdr) : Statement (.gbar h) := of_word rfl rfl
theorem mbar (h : Sys2Proof.Hdr) (k : BitVec 4) : Statement (.mbar h k) := of_word rfl rfl
theorem mjoin (h : Sys2Proof.Hdr) (k : BitVec 4) : Statement (.mjoin h k) := of_word rfl rfl
theorem mleave (h : Sys2Proof.Hdr) (k : BitVec 4) : Statement (.mleave h k) := of_word rfl rfl
theorem dqpush (h : Sys2Proof.Hdr) (a : Sys2Proof.Src) : Statement (.dqpush h a) := of_word rfl rfl
theorem dqpop (h : Sys2Proof.Hdr) (d : Sys2Proof.Dst) : Statement (.dqpop h d) := of_word rfl rfl
theorem barinit (h : Sys2Proof.Hdr) (bo : BitVec 4) (a : Sys2Proof.Src) : Statement (.barinit h bo a) := of_word rfl rfl
theorem barwait (h : Sys2Proof.Hdr) (bo : BitVec 4) (a : Sys2Proof.Src) : Statement (.barwait h bo a) := of_word rfl rfl
theorem bararr (h : Sys2Proof.Hdr) (bo : BitVec 4) : Statement (.bararr h bo) := of_word rfl rfl
theorem br (h : Sys2Proof.Hdr) (ofs : BitVec 24) : Statement (.br h ofs) := of_word rfl rfl
theorem brc (h : Sys2Proof.Hdr) (sense : Bool) (c : BitVec 6) (ofs : BitVec 24) : Statement (.brc h sense c ofs) := of_word rfl rfl
theorem brdq (h : Sys2Proof.Hdr) (sense : Bool) (ofs : BitVec 24) : Statement (.brdq h sense ofs) := of_word rfl rfl
theorem brzm (h : Sys2Proof.Hdr) (pm : BitVec 2) (p : BitVec 3) (ofs : BitVec 24) : Statement (.brzm h pm p ofs) := of_word rfl rfl
theorem split (h : Sys2Proof.Hdr) (p : BitVec 3) (t u : BitVec 12) : Statement (.split h p t u) := of_word rfl rfl
theorem join (h : Sys2Proof.Hdr) : Statement (.join h) := of_word rfl rfl
theorem call (h : Sys2Proof.Hdr) (ofs : BitVec 24) : Statement (.call h ofs) := of_word rfl rfl
theorem ret (h : Sys2Proof.Hdr) : Statement (.ret h) := of_word rfl rfl
theorem jmpi (h : Sys2Proof.Hdr) (a : Sys2Proof.Src) : Statement (.jmpi h a) := of_word rfl rfl
theorem calli (h : Sys2Proof.Hdr) (a : Sys2Proof.Src) : Statement (.calli h a) := of_word rfl rfl
theorem emsave (h : Sys2Proof.Hdr) (d : Sys2Proof.Dst) : Statement (.emsave h d) := of_word rfl rfl
theorem emrest (h : Sys2Proof.Hdr) (a : Sys2Proof.Src) : Statement (.emrest h a) := of_word rfl rfl
theorem emand (h : Sys2Proof.Hdr) (pm : BitVec 2) (p : BitVec 3) : Statement (.emand h pm p) := of_word rfl rfl
theorem trap (h : Sys2Proof.Hdr) (k : BitVec 8) : Statement (.trap h k) := of_word rfl rfl
theorem rdst (h : Sys2Proof.Hdr) (d : Sys2Proof.Dst) (num : BitVec 8) : Statement (.rdst h d num) := of_word rfl rfl
theorem wrst (h : Sys2Proof.Hdr) (num : BitVec 8) (b : Sys2Proof.Src) : Statement (.wrst h num b) := of_word rfl rfl
theorem rdlfsr (h : Sys2Proof.Hdr) (d : Sys2Proof.Dst) : Statement (.rdlfsr h d) := of_word rfl rfl
theorem brk (h : Sys2Proof.Hdr) (k : BitVec 8) : Statement (.brk h k) := of_word rfl rfl
theorem rdclk (h : Sys2Proof.Hdr) (d : Sys2Proof.Dst) : Statement (.rdclk h d) := of_word rfl rfl
theorem waitImmediate (h : Sys2Proof.Hdr) (k : BitVec 16) : Statement (.waitImmediate h k) := of_word rfl rfl
theorem waitRegister (h : Sys2Proof.Hdr) (a : Sys2Proof.Src) : Statement (.waitRegister h a) := of_word rfl rfl

end Sys2Proof.Laws.WordForm
end

