-- ==== Sys2Proof/Laws/Shapes.lean ====
section
/-!
SUPPORT. What the shared shapes of the fixed-latency points answer: one lemma for each shape, from the shape an
instruction's meaning has to the statement that it completes.
-/

namespace Sys2Proof.Machine

theorem completes_of_using {use : ICtx → Quarter → Quarter} {i : Instr} {h : Hdr} {len : Nat}
    {body : ICtx → State → Except Stop State} {ok : ICtx → State → Prop} {f : ICtx → State → State}
    (hx : ∀ s, exec i s = issueUsing use h len body s) (hb : ∀ c s, ok c s → body c s = .ok (f c s)) :
    Completes i h len ok f := by
  intro s c hc hk
  rw [hx, issueUsing, hc]
  simp only [hb c _ hk]

theorem completes_of_issue {i : Instr} {h : Hdr} {len : Nat} {body : ICtx → State → Except Stop State}
    {ok : ICtx → State → Prop} {f : ICtx → State → State} (hx : ∀ s, exec i s = issue h len body s)
    (hb : ∀ c s, ok c s → body c s = .ok (f c s)) : Completes i h len ok f := completes_of_using hx hb

theorem trapsUsing_of {use : ICtx → Quarter → Quarter} {i : Instr} {h : Hdr} {len : Nat}
    {body : ICtx → State → Except Stop State} {why : ICtx → State → Prop} {f : ICtx → Stop}
    (hx : ∀ s, exec i s = issueUsing use h len body s) (hb : ∀ c s, why c s → body c s = .error (f c)) :
    TrapsUsing use i h len why f := by
  intro s c hc hk
  rw [hx, issueUsing, hc]
  simp only [hb c _ hk]

theorem traps_of_issue {i : Instr} {h : Hdr} {len : Nat} {body : ICtx → State → Except Stop State}
    {why : ICtx → State → Prop} {f : ICtx → Stop} (hx : ∀ s, exec i s = issue h len body s)
    (hb : ∀ c s, why c s → body c s = .error (f c)) : Traps i h len why f := trapsUsing_of hx hb

/-- An instruction that is no interval point, or that no earlier one holds, is not held. -/
theorem free_of {t : Timing} {held : Bool} (h : t.cls = .interval → held = false) :
    (t.cls == .interval && held) = false := by
  by_cases ht : t.cls = .interval
  · simp [h ht]
  · simp [ht]

theorem runsLaneIf_of {i : Instr} {t : Timing} {h : Hdr} {len : Nat} {ds : List (Dst × Wd)} {srcs : List SrcW}
    {body : ICtx → BitVec 32 → Except Stop Res} {ok : ICtx → BitVec 32 → Prop} {r : ICtx → BitVec 32 → Res}
    (hx : ∀ s, exec i s = laneFixed t h len ds srcs body s) (hb : ∀ c m, ok c m → body c m = .ok (r c m)) :
    RunsLaneIf i t h len ds srcs ok r :=
  completes_of_using hx fun c s ⟨hs, hi, hk⟩ => by
    simp only [Served] at hs
    simp [hs, free_of hi, hb c _ hk]

theorem runsLane_of {i : Instr} {t : Timing} {h : Hdr} {len : Nat} {ds : List (Dst × Wd)} {srcs : List SrcW}
    {body : ICtx → BitVec 32 → Except Stop Res} {r : ICtx → BitVec 32 → Res}
    (hx : ∀ s, exec i s = laneFixed t h len ds srcs body s) (hb : ∀ c m, body c m = .ok (r c m)) :
    RunsLane i t h len ds srcs r :=
  completes_of_using hx fun c s ⟨hs, hi⟩ => by
    simp only [Served] at hs
    simp [hs, free_of hi, hb]

theorem laneTraps_of {i : Instr} {t : Timing} {h : Hdr} {len : Nat} {ds : List (Dst × Wd)} {srcs : List SrcW}
    {body : ICtx → BitVec 32 → Except Stop Res} {why : ICtx → State → Prop} {f : ICtx → Stop}
    (hx : ∀ s, exec i s = laneFixed t h len ds srcs body s) (ht : t.cls ≠ .interval)
    (hb : ∀ c s, why c s → Served ds srcs c ∧ body c (c.active h) = .error (f c)) :
    TrapsUsing (useFixed t ds srcs) i h len why f :=
  trapsUsing_of hx fun c s hw => by
    obtain ⟨hs, he⟩ := hb c s hw
    simp only [Served] at hs
    simp [hs, ht, he]

theorem runsBoth_of {i : Instr} {t : Timing} {h : Hdr} {len : Nat} {d : Dst} {srcs : List SrcW}
    {lane : ICtx → BitVec 32 → Except Stop Res} {uni : ICtx → DWord} {r : ICtx → BitVec 32 → Res} {u : ICtx → DWord}
    (hx : ∀ s, exec i s = bothFixed t h len d srcs lane uni s) (hl : ∀ c m, lane c m = .ok (r c m))
    (hu : ∀ c, uni c = u c) : RunsBoth i t h len d srcs r u :=
  ⟨completes_of_using hx fun c s ⟨h0, hs⟩ => by
      simp only [Served] at hs
      simp [h0, hs, hl],
   completes_of_using hx fun c s h0 => by simp [h0, hu]⟩

theorem intPoint2_of {i : Instr} {t : Timing} {ext : BitVec 16 → DWord} {g f : (n : Nat) → BitVec n → BitVec n → BitVec n}
    {h : Hdr} {len : Nat} {d : Dst} {a b : Src} (hx : ∀ s, exec i s = intBin t ext g h len d a b s)
    (h32 : ∀ x y, g 32 x y = f 32 x y) (h64 : ∀ x y, g 64 x y = f 64 x y) : IntPoint2 i t ext f h len d a b := by
  unfold intBin at hx
  exact runsBoth_of hx (fun _ _ => by simp only [h32]) fun _ => by simp only [h64]

theorem intPoint1_of {i : Instr} {t : Timing} {g f : (n : Nat) → BitVec n → BitVec n}
    {h : Hdr} {len : Nat} {d : Dst} {a : Src} (hx : ∀ s, exec i s = intUn t g h len d a s)
    (h32 : ∀ x, g 32 x = f 32 x) (h64 : ∀ x, g 64 x = f 64 x) : IntPoint1 i t f h len d a := by
  unfold intUn at hx
  exact runsBoth_of hx (fun _ _ => by simp only [h32]) fun _ => by simp only [h64]

theorem intPoint3_of {i : Instr} {t : Timing} {g f : (n : Nat) → BitVec n → BitVec n → BitVec n → BitVec n}
    {h : Hdr} {len : Nat} {d : Dst} {a b e : Src} (hx : ∀ s, exec i s = intTri t g h len d a b e s)
    (h32 : ∀ x y z, g 32 x y z = f 32 x y z) (h64 : ∀ x y z, g 64 x y z = f 64 x y z) :
    IntPoint3 i t f h len d a b e := by
  unfold intTri at hx
  exact runsBoth_of hx (fun _ _ => by simp only [h32]) fun _ => by simp only [h64]

theorem intCompare_of {i : Instr} {g f : (n : Nat) → BitVec n → BitVec n → Bool}
    {h : Hdr} {d : Dst} {a b : Src} (hx : ∀ s, exec i s = cmpInt g h d a b s)
    (h32 : ∀ x y, g 32 x y = f 32 x y) (h64 : ∀ x y, g 64 x y = f 64 x y) : IntCompare i f h d a b := by
  unfold cmpInt at hx
  exact runsBoth_of hx (fun _ _ => by cases d <;> simp only [h32]) fun _ => by simp only [h64]

theorem lanePoint1_of {i : Instr} {t : Timing} {g f : Word → Word × Fl} {h : Hdr} {len : Nat} {d : Dst} {a : Src}
    (hx : ∀ s, exec i s = lane1 t g h len d a s) (hg : ∀ x, g x = f x) : LanePoint1 i t f h len d a := by
  unfold lane1 at hx
  exact runsLane_of hx fun _ _ => by simp only [hg]

theorem lanePoint2_of {i : Instr} {t : Timing} {ext : BitVec 16 → DWord} {g f : Word → Word → Word × Fl} {h : Hdr}
    {len : Nat} {d : Dst} {a b : Src} (hx : ∀ s, exec i s = lane2 t ext g h len d a b s)
    (hg : ∀ x y, g x y = f x y) : LanePoint2 i t ext f h len d a b := by
  unfold lane2 at hx
  exact runsLane_of hx fun _ _ => by simp only [hg]

theorem lanePoint3_of {i : Instr} {t : Timing} {g f : Word → Word → Word → Word × Fl} {h : Hdr} {len : Nat} {d : Dst}
    {a b e : Src} (hx : ∀ s, exec i s = lane3 t g h len d a b e s) (hg : ∀ x y z, g x y z = f x y z) :
    LanePoint3 i t f h len d a b e := by
  unfold lane3 at hx
  exact runsLane_of hx fun _ _ => by simp only [hg]

theorem widePoint1_of {i : Instr} {t : Timing} {g f : DWord → DWord × Fl} {h : Hdr} {len : Nat} {d : Dst} {a : Src}
    (hx : ∀ s, exec i s = lane1x64 t g h len d a s) (hg : ∀ x, g x = f x) : WidePoint1 i t f h len d a := by
  unfold lane1x64 at hx
  exact runsLane_of hx fun _ _ => by simp only [hg]

theorem widePoint2_of {i : Instr} {t : Timing} {g f : DWord → DWord → DWord × Fl} {h : Hdr} {len : Nat} {d : Dst}
    {a b : Src} (hx : ∀ s, exec i s = lane2x64 t g h len d a b s) (hg : ∀ x y, g x y = f x y) :
    WidePoint2 i t f h len d a b := by
  unfold lane2x64 at hx
  exact runsLane_of hx fun _ _ => by simp only [hg]

theorem widePoint3_of {i : Instr} {t : Timing} {g f : DWord → DWord → DWord → DWord × Fl} {h : Hdr} {len : Nat}
    {d : Dst} {a b e : Src} (hx : ∀ s, exec i s = lane3x64 t g h len d a b e s) (hg : ∀ x y z, g x y z = f x y z) :
    WidePoint3 i t f h len d a b e := by
  unfold lane3x64 at hx
  exact runsLane_of hx fun _ _ => by simp only [hg]

theorem narrowPoint_of {i : Instr} {t : Timing} {g f : DWord → Word × Fl} {h : Hdr} {d : Dst} {a : Src}
    (hx : ∀ s, exec i s = lane64to32 t g h 8 d a s) (hg : ∀ x, g x = f x) : NarrowPoint i t f h d a := by
  unfold lane64to32 at hx
  exact runsLane_of hx fun _ _ => by simp only [hg]

theorem widenPoint_of {i : Instr} {t : Timing} {g f : Word → DWord × Fl} {h : Hdr} {d : Dst} {a : Src}
    (hx : ∀ s, exec i s = lane32to64 t g h 8 d a s) (hg : ∀ x, g x = f x) : WidenPoint i t f h d a := by
  unfold lane32to64 at hx
  exact runsLane_of hx fun _ _ => by simp only [hg]

theorem fpCompare32_of {i : Instr} {cc : FCond} {h : Hdr} {p : BitVec 3} {a b : Src}
    (hx : ∀ s, exec i s = cmpFp32 cc h p a b s) : FpCompare32 i cc h p a b := by
  unfold cmpFp32 at hx
  exact runsLane_of hx fun _ _ => rfl

theorem fpCompare64_of {i : Instr} {cc : FCond} {h : Hdr} {p : BitVec 3} {a b : Src}
    (hx : ∀ s, exec i s = cmpFp64 cc h p a b s) : FpCompare64 i cc h p a b := by
  unfold cmpFp64 at hx
  exact runsLane_of hx fun _ _ => rfl

theorem exchange_of {i : Instr} {k j : Nat → Word → Option Nat} {h : Hdr} {len : Nat} {d : Dst} {a b : Src}
    (hx : ∀ s, exec i s = lxch k h len d a b s) (hj : ∀ l y, k l y = j l y) : Exchange i j h len d a b := by
  have hk : k = j := funext fun l => funext fun y => hj l y
  subst hk
  unfold lxch at hx
  exact runsLane_of hx fun _ _ => rfl

end Sys2Proof.Machine
end

