-- ==== Sys2Proof/Tests/Slice0.lean ====
section
/-!
SUPPORT. Tests: terms that WellFormed refuses, words written out from the spec's encodings, a few results
worked out by hand from the spec's tables, and for the hypotheses of every obligation a state that meets them.
-/

open Sys2Proof Sys2Proof.Machine

namespace Sys2Proof.Tests

-- The tests are checked one after another: each needs a thread with a deep stack.
set_option Elab.async false

/-- A header: no wait mask, distance 1, no predicate, a result, no cue. -/
def th : Hdr := ⟨0, 1, 0, 7, false, 15⟩

-- Ill-formed terms: each check of WellFormed.lean refuses its term, and passes the neighbour ------

theorem test_wf_register_range : (Instr.addI32 th (.v 224) (.v 1) (.v 2)).wf .lane = false
    ∧ (Instr.addI32 th (.v 223) (.v 1) (.v 2)).wf .lane = true := by decide
theorem test_wf_pair_alignment : (Instr.addI64 th (.v 3) (.v 4) (.v 6)).wf .lane = false
    ∧ (Instr.addI64 th (.v 2) (.v 4) (.v 6)).wf .lane = true := by decide
theorem test_wf_w_of_128_bits : (Instr.ldB128 th (.w 3) (.v 4) noHint).wf .lane = false
    ∧ (Instr.ldB128 th (.v 4) (.v 4) noHint).wf .lane = true := by decide
theorem test_wf_queue_of_64_bits : (Instr.addI64 th (.v 2) (.q 1) (.v 6)).wf .lane = false
    ∧ (Instr.addI32 th (.v 2) (.q 1) (.v 6)).wf .lane = true := by decide
theorem test_wf_latch_number : (Instr.addI32 th (.v 2) (.l 3) (.v 6)).wf .lane = false
    ∧ (Instr.addI32 th (.v 2) (.l 2) (.v 6)).wf .lane = true := by decide
theorem test_wf_lane_codes_in_uniform : (Instr.addI32 th (.g 2) (.laneId) (.g 6)).wf .uniform = false
    ∧ (Instr.addI32 th (.g 2) .zero (.g 63)).wf .uniform = true := by decide
theorem test_wf_uniform_codes_in_lane : (Instr.addI32 th (.v 2) (.g 1) (.v 6)).wf .lane = false
    ∧ (Instr.addF32 th 0 (.g 2) (.g 1) (.g 6)).wf .uniform = false := by decide
theorem test_wf_immediate_needs_destination : (Instr.addI32 th (.v 2) (.v 3) (.imm 1)).wf .lane = false
    ∧ (Instr.addI32 th (.v 2) (.v 2) (.imm 1)).wf .lane = true := by decide
theorem test_wf_immediate_not_everywhere : (Instr.mulhiI32 th (.v 2) (.v 2) (.imm 1)).wf .lane = false := by decide
theorem test_wf_address_is_a_pair : (Instr.ldB32 th (.v 2) (.v 5) noHint).wf .lane = false
    ∧ (Instr.ldB32 th (.v 2) .zero noHint).wf .lane = false
    ∧ (Instr.ldB32 th (.v 2) (.w 15) noHint).wf .lane = true := by decide
theorem test_wf_scalar_operand : (Instr.tagclr th (.v 5)).wf .lane = false ∧ (Instr.tagclr th (.w 16)).wf .lane = false
    ∧ (Instr.tagclr th (.w 15)).wf .lane = true := by decide
theorem test_wf_scalar_or_zero : (Instr.wrst th 0 (.v 5)).wf .lane = false ∧ (Instr.wrst th 0 .zero).wf .lane = true := by
  decide
theorem test_wf_index_operand : (Instr.xgather th 0 0 (.w 1) (.w 4) 2 true).wf .lane = false
    ∧ (Instr.xgather th 0 0 (.v 1) (.w 4) 2 true).wf .lane = true := by decide
theorem test_wf_fetch_destination : (Instr.hfetch th (.w 1) (.w 2) 0 0).wf .lane = false
    ∧ (Instr.hfetch th (.v 1) (.w 2) 0 3).wf .lane = false
    ∧ (Instr.hfetch th (.v 1) (.w 2) 0 2).wf .lane = true := by decide
theorem test_wf_bisect_destination : (Instr.bisectIv64 th (.v 4) (.v 8)).wf .lane = false
    ∧ (Instr.bisectIv64 th (.v 16) (.v 8)).wf .lane = true := by decide
theorem test_wf_compare_destination : (Instr.cmpEqB32 th (.p 7) (.v 1) (.v 2)).wf .lane = false
    ∧ (Instr.cmpEqB32 th (.p 6) (.v 1) (.v 2)).wf .lane = true := by decide
theorem test_wf_predicate_7_is_no_destination : (Instr.pand th 7 0 1).wf .lane = false
    ∧ (Instr.cmpEqF32 th 7 (.v 1) (.v 2)).wf .lane = false ∧ (Instr.xmask th 7 0).wf .lane = false := by decide
theorem test_wf_predicate_in_uniform : (Instr.addI32 ⟨0, 1, 0, 3, false, 15⟩ (.g 2) (.g 1) (.g 6)).wf .uniform = false
    ∧ (Instr.addI32 ⟨0, 1, 0, 3, false, 15⟩ (.v 2) (.v 1) (.v 6)).wf .lane = true := by decide
theorem test_wf_not_predicable : (Instr.br ⟨0, 1, 0, 3, false, 15⟩ 4).wf .lane = false
    ∧ (Instr.br ⟨0, 1, 1, 7, false, 15⟩ 4).wf .lane = false ∧ (Instr.br th 4).wf .lane = true := by decide
theorem test_wf_no_result_to_drop : (Instr.stB32 ⟨0, 1, 0, 7, true, 15⟩ (.v 2) (.v 5) noHint).wf .lane = false
    ∧ (Instr.ldB32 ⟨0, 1, 0, 7, true, 15⟩ (.v 2) (.v 4) noHint).wf .lane = true := by decide
theorem test_wf_cue_codes : (Instr.addI64 ⟨0, 1, 0, 7, false, 12⟩ (.v 2) (.v 4) (.v 6)).wf .lane = false
    ∧ (Instr.addI32 ⟨0, 1, 0, 7, false, 12⟩ (.v 2) (.v 4) (.v 6)).wf .lane = true
    ∧ (Instr.addI64 ⟨0, 1, 0, 7, false, 11⟩ (.v 2) (.v 4) (.v 6)).wf .lane = true := by decide
theorem test_wf_scope : (Instr.fence th ⟨1, 6⟩).wf .lane = false ∧ (Instr.fence th ⟨0, 5⟩).wf .lane = false
    ∧ (Instr.fence th ⟨1, 5⟩).wf .lane = true ∧ (Instr.ldrB32 th (.v 1) (.v 2) ⟨2, 5⟩).wf .lane = false := by decide
theorem test_wf_maintenance_hint : (Instr.cinval th (.v 2) ⟨1, false, 0⟩).wf .lane = false
    ∧ (Instr.cinval th (.v 2) noHint).wf .lane = true := by decide
theorem test_wf_status_numbers : (Instr.rdst th (.w 1) 0x0b).wf .lane = false ∧ (Instr.rdst th (.w 1) 0x0a).wf .lane = true
    ∧ (Instr.rdst th (.g 1) 0x05).wf .uniform = false ∧ (Instr.rdst th (.g 1) 0x27).wf .uniform = true
    ∧ (Instr.rdst th (.g 1) 0x28).wf .uniform = false ∧ (Instr.wrst th 0x06 (.g 1)).wf .uniform = false
    ∧ (Instr.wrst th 0x02 (.w 1)).wf .lane = false := by decide
theorem test_wf_32_bit_registers : (Instr.addI32W32 1 (.v 128) (.v 1) (.v 2)).wf .lane = false
    ∧ (Instr.addI32W32 1 (.v 127) (.v 1) (.v 2)).wf .lane = true
    ∧ (Instr.addI64W32 1 (.v 3) (.v 4) (.v 6)).wf .lane = false
    ∧ (Instr.movXaB32W32 1 (.v 1) 128).wf .lane = false := by decide
theorem test_wf_compact_registers : (Instr.addI32C16 (.v 32) (.v 1)).wf .lane = false
    ∧ (Instr.addI32C16 (.v 31) (.v 1)).wf .lane = true ∧ (Instr.addF32C16 (.g 1) (.g 2)).wf .uniform = false := by decide
theorem test_wf_stream : (Instr.mswap th).wf .lane = false ∧ (Instr.mswap th).wf .uniform = true
    ∧ (Instr.join th).wf .uniform = false ∧ (Instr.bar th false).wf .uniform = false
    ∧ (Instr.bar th false).wf .lane = true := by decide
theorem test_wf_raw_fields : (Instr.split th 1 0 0x60).wf .lane = false ∧ (Instr.split th 1 2 0).wf .lane = true
    ∧ (Instr.acopyIn th 1 (.w 1) (.w 2) 3 false 0).wf .lane = false
    ∧ (Instr.acopyIn th 1 (.w 1) (.w 2) 3 true 3).wf .lane = false
    ∧ (Instr.tload th 1 false (.g 1) (.g 2) 3).wf .uniform = false
    ∧ (Instr.rowscan th 4 false (.g 1) (.g 2) 3).wf .uniform = false
    ∧ (Instr.rowscan th 4 true (.g 1) (.g 2) 3).wf .uniform = true := by decide
theorem test_wf_an_event_is_no_word : (Instr.issueSelect 0 0).wf .lane = false
    ∧ (Instr.moduleReset).wf .uniform = false := by decide

-- Words written out from the encodings of 02 R31 to R48 ----------------------------------------

/-- xgather V10..V13 by W4, slot 2, MW, barrier 0, count 4, under P1. -/
theorem test_decode_transport : decodeTableWord 64 0x0002114f40a300bb
    = some (.xgather ⟨0, 1, 0, 1, false, 15⟩ 3 0 (.v 10) (.w 4) 2 true) := by decide
/-- mmac.f8 into tile A3 of T2, RP1, CPN0, CPK2. -/
theorem test_decode_matrix : decodeTableWord 64 0x00027eb20240319b
    = some (.mmacF8 ⟨0, 1, 0, 7, false, 15⟩ 3 2 1 0 2 false .zero) := by decide
theorem test_decode_barrier : decodeTableWord 64 0x00027000005204cf
    = some (.barinit ⟨0, 1, 0, 7, false, 15⟩ 2 (.g 5)) := by decide
theorem test_decode_spawn : decodeTableWord 64 0x0003300001e20093
    = some (.ivSpawn ⟨0, 1, 2, 3, false, 15⟩ (.v 32) (.v 30)) := by decide
theorem test_decode_indexed_move : decodeTableWord 32 0x400a09e5 = some (.movXaB32W32 1 (.v 4) 10) := by decide
theorem test_decode_fma : decodeTableWord 64 0x0115308030208043
    = some (.fmaF32 ⟨0x011, 2, 2, 3, false, 15⟩ 0 (.v 8) (.v 2) (.v 3) (.v 8)) := by decide
theorem test_decode_immediate : decodeTableWord 64 0x00027fffdee05003
    = some (.addI32 ⟨0, 1, 0, 7, false, 15⟩ (.v 5) (.v 5) (.imm 0xfffd)) := by decide
theorem test_decode_wait : decodeTableWord 64 0x00427006400006db
    = some (.waitImmediate ⟨4, 1, 0, 7, false, 15⟩ 100) := by decide
theorem test_decode_status : decodeTableWord 64 0x00027000009f51db
    = some (.rdst ⟨0, 1, 0, 7, false, 15⟩ (.w 5) 9) := by decide
theorem test_decode_compact : decodeTableWord 16 0x11a4 = some (.addI32C16 (.v 3) (.v 9)) := by decide
theorem test_decode_32_bits : decodeTableWord 32 0xc3860a01 = some (.addI32W32 3 (.v 5) (.v 6) (.v 7)) := by decide
theorem test_decode_reference : decodeTableWord 16 0x3096 = some (.dictionaryReference 3 37) := by decide
theorem test_encode_split : encode (.split ⟨0, 1, 0, 7, false, 15⟩ 1 0x40 0x60) = some (.w64 0x00027060040014d3 15) := by
  decide

/-- cmp.lt.i32 P3, V1, W2: DST is a raw predicate number. -/
theorem test_decode_compare : decodeTableWord 64 0x0002700f2010325f
    = some (.cmpLtI32 ⟨0, 1, 0, 7, false, 15⟩ (.p 3) (.v 1) (.w 2)) := by decide

/-- sub.f64.ru V4, V6, V8: MOD[2] selects sub, MOD[1:0] the rounding. -/
theorem test_decode_float_rounding : decodeTableWord 64 0x0002700080604633
    = some (.subF64 ⟨0, 1, 0, 7, false, 15⟩ 2 (.v 4) (.v 6) (.v 8)) := by decide

/-- cvt.f32.f64.rd V5, V6 under NW: SRCC is the rounding. -/
theorem test_decode_conversion : decodeTableWord 64 0x000270300060586b
    = some (.cvtF32F64 ⟨0, 1, 0, 7, true, 15⟩ 3 (.v 5) (.v 6)) := by decide

/-- lvote.mask W15, P4: SRCA is a raw predicate number. -/
theorem test_decode_vote : decodeTableWord 64 0x00027000004ff277
    = some (.lvoteMask ⟨0, 1, 0, 7, false, 15⟩ (.w 15) 4) := by decide

/-- add.iv32 V4, V8, W1. -/
theorem test_decode_interval : decodeTableWord 64 0x0002700f10804083
    = some (.addIv32 ⟨0, 1, 0, 7, false, 15⟩ (.v 4) (.v 8) (.w 1)) := by decide

/-- ld.b64 V2, W2 with cache 1 and home-die hint 3: SRCC is {cache, valid, die}. -/
theorem test_decode_load : decodeTableWord 64 0x000273300f2025a3
    = some (.ldB64 ⟨0, 1, 0, 7, false, 15⟩ (.v 2) (.w 2) ⟨1, true, 3⟩) := by decide

/-- st.b32 V4, V9. -/
theorem test_decode_store : decodeTableWord 64 0x00027000904002a7
    = some (.stB32 ⟨0, 1, 0, 7, false, 15⟩ (.v 4) (.v 9) noHint) := by decide

/-- atom.cas.b32 V1, V2, V6 with acquire-release at scope package: SRCC is {order, scope}. -/
theorem test_decode_atomic : decodeTableWord 64 0x000271c0602017af
    = some (.atomCasB32 ⟨0, 1, 0, 7, false, 15⟩ (.v 1) (.v 2) (.v 6) ⟨3, 4⟩) := by decide

/-- fence acquire, scope system. -/
theorem test_decode_fence : decodeTableWord 64 0x000270d0000002b7
    = some (.fence ⟨0, 1, 0, 7, false, 15⟩ ⟨1, 5⟩) := by decide

/-- acopy.in.strm tag 37, W1, W2, B9: DST is the tag, SRCC is {B, BV, CH, 0}. -/
theorem test_decode_copy : decodeTableWord 64 0x000279af2f1250c3
    = some (.acopyIn ⟨0, 1, 0, 7, false, 15⟩ 37 (.w 1) (.w 2) 9 true 1) := by decide

/-- dma.copy in the uniform stream: G1, G2, G3, G4. -/
theorem test_decode_dma : decodeTableWord 64 0x00027040302013c7
    = some (.dmaCopy ⟨0, 1, 0, 7, false, 15⟩ (.g 1) (.g 2) (.g 3) (.g 4)) := by decide

/-- launch G5, G6. -/
theorem test_decode_launch : decodeTableWord 64 0x00027000006050cb
    = some (.launch ⟨0, 1, 0, 7, false, 15⟩ (.g 5) (.g 6)) := by decide

/-- dqpop W3. -/
theorem test_decode_queue : decodeTableWord 64 0x00027000000f33cf
    = some (.dqpop ⟨0, 1, 0, 7, false, 15⟩ (.w 3)) := by decide

/-- A reserved major, a reserved MOD of mul.f32, and a compact 0 with other bits. -/
theorem test_decode_reserved : decodeTableWord 64 0x00027000000000df = none ∧ decodeTableWord 64 0x000270003020141f = none
    ∧ decodeTableWord 16 0x0004 = none := by decide

-- States to meet hypotheses ----------------------------------------------------------------------

/-- A variant with a full window, two waves, 64 bytes of lane-private memory, and both streams of 16 bytes. -/
def tv : Variant := ⟨224, 2, 1, 4096, 64, 0, 0, 16, 0, 16, 0, 0, 0, []⟩
/-- A group of it just placed, on core 0. -/
def tg : Group := startGroup loneGrid 0 0 (List.replicate 32 none) tv ⟨0, 0, 0, [0, 1], [0, 1], 0⟩ 0 0
/-- The state after reset with that group, changed by f, and an agent chosen. -/
def ts (ag : Agent) (f : Group → Group) : State :=
  { State.reset with groups := [(0, f tg)], issuing := some ⟨ag, none, []⟩ }
def me : Agent := .split 0 0 0
def sq : Agent := .seq 0

/-- Wave 0, its split 0, and the sequencer of a group changed by f. -/
def wave (f : Wave → Wave) (g : Group) : Group := { g with waves := updAt g.waves 0 f }
def split0 (f : Split → Split) (g : Group) : Group := wave (fun w => { w with splits := updAt w.splits 0 f }) g
def seqr (f : Seq → Seq) (g : Group) : Group := { g with seq := f g.seq }
/-- W register n, G register n, and V register n with the same word in every lane, set to x. -/
def setW (n : Nat) (x : DWord) : Group → Group := wave fun w => { w with w := w.w.set n x }
def setG (n : Nat) (x : DWord) : Group → Group := seqr fun q => { q with g := q.g.set n x }
def setV (n : Nat) (x : Word) : Group → Group := wave fun w => { w with v := SMap.set n (List.replicate 32 x) w.v }

/-- A state in which the agent's core holds the translation of the first GiB of context 0 to offset 0 of die 0,
readable and writable. -/
def tm (ag : Agent) (f : Group → Group) : State :=
  { ts ag f with cores := [(0, { Core.empty with tlb := [⟨0, 0, 30, 0x20000000000000d8⟩] })] }

/-- A running context whose root table is at 0x10000, and memory in which that table maps the first GiB of VA to
offset 0 of die 0, readable and writable. -/
def tcx : Ctx := ⟨false, false, false, 0, 0, 0x10000, 0, 0, 0, 0, 0, 0, .running, none, 1, 0, false⟩
def tmem : List Host.Cell :=
  [(0x10001, 0x10), (0x10002, 0x01), (0x10007, 0x10), (0x11000, 0xd8), (0x11007, 0x20)]
def tc (ag : Agent) (f : Group → Group) : State := { ts ag f with ctxs := [(0, tcx)], mem := tmem }

/-- The state has an issuing agent, and P holds of it and of the state after the issue of a word of len bytes. -/
def Meets (s : State) (len : Nat) (P : ICtx → State → Prop) : Prop := ∃ c, s.icx = some c ∧ P c (s.begun c th len)

theorem meets {s : State} {len : Nat} {P : ICtx → State → Prop} [∀ c t, Decidable (P c t)]
    (h : (match s.icx with | some c => decide (P c (s.begun c th len)) | none => false) = true) : Meets s len P := by
  cases hc : s.icx with
  | none => simp [hc] at h
  | some c => exact ⟨c, hc, by simpa [hc] using h⟩

-- Hypotheses: points of fixed latency --------------------------------------------------------------

/-- The hypotheses of the integer points, shifts, bit fields, multiply-adds and integer comparisons, in each stream and
word size, with the last register of the window, a W register and an immediate among the operands. -/
theorem meets_IntegerPoints :
    Meets (ts me id) 8 (fun c _ => c.uni = false ∧ Served [(.v 223, .w32)] [(.v 223, .w32), (.imm 0xfffd, .w32)] c)
    ∧ Meets (ts me id) 4 (fun c _ => c.uni = false ∧ Served [(.v 127, .w32)] [(.v 127, .w32), (.v 0, .w32), (.v 127, .w32)] c)
    ∧ Meets (ts me id) 2 (fun c _ => c.uni = false ∧ Served [(.v 31, .w32)] [(.v 31, .w32), (.v 31, .w32)] c)
    ∧ Meets (ts sq id) 8 (fun c _ => c.uni = true) ∧ Meets (ts sq id) 4 (fun c _ => c.uni = true)
    ∧ Meets (ts sq id) 2 fun c _ => c.uni = true := by
  unfold Served
  exact ⟨meets (by decide +kernel), meets (by decide +kernel), meets (by decide +kernel), meets (by decide +kernel),
    meets (by decide +kernel), meets (by decide +kernel)⟩

/-- The hypotheses of the lane points of 32-bit and of 64-bit elements and of those that change the width: arithmetic,
comparisons, roots, conversions, exchanges, votes, reductions and moves, with a queue entry and a latch that serve. -/
theorem meets_LanePoints :
    Meets (ts me id) 8 (fun c t => Served [(.v 5, .w32)] [(.w 15, .w32), (.v 223, .w32)] c ∧ (tInt.cls = .interval → t.ivHolds c = false))
    ∧ Meets (ts me id) 8 (fun c t => Served [(.v 222, .w64)] [(.w 0, .w64), (.v 222, .w64)] c ∧ (tFp64.cls = .interval → t.ivHolds c = false))
    ∧ Meets (ts me id) 8 (fun c t => Served [(.v 5, .w32)] [(.v 222, .w64)] c ∧ (tFp64.cls = .interval → t.ivHolds c = false))
    ∧ Meets (ts me id) 8 (fun c t => Served [(.v 222, .w64)] [(.laneId, .w32)] c ∧ (tFp64.cls = .interval → t.ivHolds c = false))
    ∧ Meets (ts me id) 8 (fun c t => Served [] [] c ∧ (tVote.cls = .interval → t.ivHolds c = false))
    ∧ Meets (ts me (fun g => wave (fun w => { w with splits := updAt w.splits 0 fun x => { x with back := [some 3, none, none] } })
        { g with queues := updAt g.queues 2 fun q => { q with bound := true, cons := 1, entries := [zeroLanes] } })) 8
        (fun c t => Served [(.v 5, .w32)] [(.l 0, .w32), (.q 2, .w32)] c ∧ (tInt.cls = .interval → t.ivHolds c = false))
    ∧ Meets (ts me (wave fun w => { w with xi := 0x7f })) 8
        (fun c _ => Served [(.v (96 + c.wv.xi.toNat), .w32)] [(.v (4 + c.wv.xi.toNat), .w32)] c) := by
  unfold Served
  exact ⟨meets (by decide +kernel), meets (by decide +kernel), meets (by decide +kernel), meets (by decide +kernel),
    meets (by decide +kernel), meets (by decide +kernel), meets (by decide +kernel)⟩

/-- The hypotheses of pmov and pfrom that run, and of their traps, at lane 31 with lane 0 in order. -/
theorem meets_PredicateMovesAndSelection :
    Meets (ts me (setV 6 2)) 8 (fun c t => Served [] [(.v 6, .w32)] c ∧ (tInt.cls = .interval → t.ivHolds c = false)
      ∧ ∀ l, l < 32 → bit (c.active th) l = true → (c.src32 [(.v 6, .w32)] 0 l).toNat % 4 ≠ 3)
    ∧ Meets (ts me (wave fun w => { w with v := [(6, List.replicate 31 0 ++ [3])] })) 8
      (fun c _ => Served [] [(.v 6, .w32)] c ∧ bit (c.active th) 31 = true ∧ (c.src32 [(.v 6, .w32)] 0 31).toNat % 4 = 3
        ∧ ∀ k, k < 31 → bit (c.active th) k = true → (c.src32 [(.v 6, .w32)] 0 k).toNat % 4 ≠ 3)
    ∧ Meets (ts me (setW 2 0x00000001fffffffe)) 8 (fun c t => Served [] [] c ∧ (tInt.cls = .interval → t.ivHolds c = false)
      ∧ ∀ l, l < 32 → bit (c.active th) l = true → (bit (c.scalar (.w 2)) l && bit (c.scalar (.w 2)) (32 + l)) = false)
    ∧ Meets (ts me (setW 2 0x80000000ffffffff)) 8 (fun c _ => bit (c.active th) 31 = true
      ∧ (bit (c.scalar (.w 2)) 31 && bit (c.scalar (.w 2)) (32 + 31)) = true
      ∧ ∀ k, k < 31 → bit (c.active th) k = true → (bit (c.scalar (.w 2)) k && bit (c.scalar (.w 2)) (32 + k)) = false) := by
  unfold Served
  exact ⟨meets (by decide +kernel), meets (by decide +kernel), meets (by decide +kernel), meets (by decide +kernel)⟩

/-- The hypotheses on codes of the comparisons, of minimum and maximum, and of the roots: a quiet and a signalling
NaN, two numbers, a negative number that is not zero. -/
theorem meets_MinMaxTable_and_FloatComparisons :
    (fp32.decode 0x7fc00000).isNan = true ∧ (fp16.decode 0x7d00).isSig = true ∧ (fp64.decode 0x3ff0000000000000).isNan = false
    ∧ (bf16.decode 0x8000).isNan = false ∧ fp32.decode 0x7f800001 = .nan true ∧ fp32.decode 0xffc00000 = .nan false
    ∧ (fp32.decode 0x80000001).isNan = false ∧ (fp32.decode 0x80000001).neg = true
    ∧ (fp32.decode 0x80000001).isZero = false := by decide +kernel

/-- The hypotheses of the free-form conversions: a valid format word, one with a bit above 15 set, and one that R95
refuses; and of the block conversions at the last type and the first number beyond. -/
theorem meets_FreeFormConversions_and_MxBlocks :
    Meets (ts me (setW 3 0x6063)) 8 (fun c t => Served [(.v 5, .w32)] [(.v 6, .w32)] c ∧ (tFf.cls = .interval → t.ivHolds c = false)
      ∧ (c.scalar (.w 3)).toNat < 65536 ∧ FmtW.valid ((c.scalar (.w 3)).setWidth 16) = true)
    ∧ Meets (ts me (setW 3 0x16063)) 8 (fun c _ => Served [(.v 5, .w32)] [(.v 6, .w32)] c
      ∧ ¬((c.scalar (.w 3)).toNat < 65536 ∧ FmtW.valid ((c.scalar (.w 3)).setWidth 16) = true))
    ∧ Meets (ts me (setW 3 0xffff)) 8 (fun c _ => Served [(.v 5, .w32)] [(.v 6, .w32)] c
      ∧ ¬((c.scalar (.w 3)).toNat < 65536 ∧ FmtW.valid ((c.scalar (.w 3)).setWidth 16) = true))
    ∧ Meets (ts me (setW 3 5)) 8 (fun c t => Served [(.v 5, .w32)] [(.v 6, .w32)] c ∧ (tFf.cls = .interval → t.ivHolds c = false)
      ∧ (c.scalar (.w 3)).toNat < 6)
    ∧ Meets (ts me (setW 3 6)) 8 (fun c _ => Served [(.v 5, .w32)] [(.v 6, .w32)] c ∧ 6 ≤ (c.scalar (.w 3)).toNat) := by
  unfold Served
  exact ⟨meets (by decide +kernel), meets (by decide +kernel), meets (by decide +kernel), meets (by decide +kernel),
    meets (by decide +kernel)⟩

/-- The hypotheses of vfilt: K = 32, and K = 0, K = 33 and a reserved bit, which trap. -/
theorem meets_FilterToKSelectsTheBest :
    Meets (ts me (setW 3 0x10120)) 8 (fun c t => Served [(.v 4, .w64)] [(.v 6, .w32), (.v 7, .w32)] c ∧ (tFilt.cls = .interval → t.ivHolds c = false)
      ∧ 1 ≤ (c.scalar (.w 3)).toNat % 64 ∧ (c.scalar (.w 3)).toNat % 64 ≤ 32 ∧ c.scalar (.w 3) &&& 0xffe0fec0 = 0)
    ∧ ∀ x ∈ [(0x0 : DWord), 33, 0x201], Meets (ts me (setW 3 x)) 8 (fun c _ =>
        Served [(.v 4, .w64)] [(.v 6, .w32), (.v 7, .w32)] c
        ∧ ¬(1 ≤ (c.scalar (.w 3)).toNat % 64 ∧ (c.scalar (.w 3)).toNat % 64 ≤ 32 ∧ c.scalar (.w 3) &&& 0xffe0fec0 = 0)) := by
  unfold Served
  refine ⟨meets (by decide +kernel), fun x hx => ?_⟩
  simp only [List.mem_cons, List.not_mem_nil, or_false] at hx
  rcases hx with rfl | rfl | rfl <;> exact meets (by decide +kernel)

/-- The hypotheses of an interval point that runs, and of one that traps: division of [1, 1] by NaI under ITRAP, in
lane 0; and an empty square root of [-1, -1] under ETRAP. -/
theorem meets_IntervalPointsRunOrTrap :
    Meets (ts me (setV 6 0x3f800000)) 8 (fun c t => Served [(.v 4, .iv32)] [(.v 6, .iv32), (.v 8, .iv32)] c
      ∧ ((tIv .i32).cls = .interval → t.ivHolds c = false)
      ∧ ∀ l, l < 32 → bit (c.active th) l = true →
        (bit c.wv.ivst 8 && (ivAdd fp32 (IvTy.read .i32 (c.words extN [(.v 6, .iv32), (.v 8, .iv32)] 0) l)
            (IvTy.read .i32 (c.words extN [(.v 6, .iv32), (.v 8, .iv32)] 1) l)).made
          || bit c.wv.ivst 9 && (ivAdd fp32 (IvTy.read .i32 (c.words extN [(.v 6, .iv32), (.v 8, .iv32)] 0) l)
            (IvTy.read .i32 (c.words extN [(.v 6, .iv32), (.v 8, .iv32)] 1) l)).bad) = false)
    ∧ Meets (ts me (wave fun w => { w with v := [(6, List.replicate 32 0x7fc00000)], ivst := 0x200 })) 8
      (fun c t => Served [(.v 4, .iv32)] [(.v 6, .iv32)] c ∧ ((tIvDiv .i32).cls = .interval → t.ivHolds c = false) ∧ bit (c.active th) 0 = true
        ∧ (bit c.wv.ivst 9 && (ivSqrt fp32 (IvTy.read .i32 (c.words extN [(.v 6, .iv32)] 0) 0)).bad) = true)
    ∧ Meets (ts me (wave fun w => { w with v := [(6, List.replicate 32 0xbf800000), (7, List.replicate 32 0xbf800000)], ivst := 0x100 }))
      8
      (fun c t => Served [(.v 4, .iv32)] [(.v 6, .iv32)] c ∧ ((tIvDiv .i32).cls = .interval → t.ivHolds c = false) ∧ bit (c.active th) 0 = true
        ∧ (bit c.wv.ivst 8 && true && (ivSqrt fp32 (IvTy.read .i32 (c.words extN [(.v 6, .iv32)] 0) 0)).made) = true) := by
  unfold Served
  exact ⟨meets (by decide +kernel), meets (by decide +kernel), meets (by decide +kernel)⟩

/-- The hypotheses of an interval comparison that traps: a NaI operand under ITRAP. -/
theorem meets_IntervalComparisonsAreThreeValued :
    Meets (ts me (wave fun w => { w with v := [(6, List.replicate 32 0x7fc00000)], ivst := 0x200 })) 8
      (fun c t => Served [] [(.v 6, .iv32), (.v 8, .iv32)] c ∧ ((tIv .i32).cls = .interval → t.ivHolds c = false) ∧ bit (c.active th) 0 = true
        ∧ (bit c.wv.ivst 9 && ((IvTy.read .i32 (c.words extN [(.v 6, .iv32), (.v 8, .iv32)] 0) 0).isNai
            || (IvTy.read .i32 (c.words extN [(.v 6, .iv32), (.v 8, .iv32)] 1) 0).isNai)) = true) := by
  unfold Served
  exact meets (by decide +kernel)

-- Hypotheses: accesses of memory -------------------------------------------------------------------

theorem Meets.imp {s : State} {len : Nat} {P Q : ICtx → State → Prop} (h : Meets s len P) (f : ∀ c t, P c t → Q c t) :
    Meets s len Q := by
  obtain ⟨c, hc, hp⟩ := h
  exact ⟨c, hc, f _ _ hp⟩

/-- A first fault at the head of the lanes. -/
theorem first_fault {s : State} {c : ICtx} {u : TUnit} {acc : Acc} {lanes : List Nat} {addr : Nat → DWord}
    {f : DWord → Trans → Option Nat} {ok : Option Nat → Prop} {l : Nat} {va : DWord} {k : Nat}
    (h : ((s.translateLanes u c.gr.ctx acc (lanes.map fun l => (l, addr l))).2.head?.map
      fun x => (laneFault f x, x.1, x.2.1)) = some (some k, l, va)) : s.FirstFault c u acc lanes addr f ok l va k := by
  unfold State.FirstFault
  cases hx : (s.translateLanes u c.gr.ctx acc (lanes.map fun l => (l, addr l))).2 with
  | nil => simp [hx] at h
  | cons x post =>
    simp only [hx, List.head?_cons, Option.map_some, Option.some.injEq, Prod.mk.injEq] at h
    exact ⟨[], x, post, rfl, by simp, h.1, h.2.1, h.2.2⟩

/-- The address operand V6 and V7, and the data operand. -/
def sa : List SrcW := [(.v 6, .w64)]
def sab : List SrcW := [(.v 6, .w64), (.v 8, .w32)]
def siv : List SrcW := [(.v 6, .w64), (.v 8, .iv32)]
/-- An operation of wave 0 in flight at DRAM address 0x100, in its last lane. -/
def op (k : OpKind) (d : Option Dst) : MemOp :=
  ⟨0, me, 0, 4, k, [⟨31, 0x100, .dram 0x100, true, 7⟩], d, none, [], BitVec.allOnes 32, none, false, 0, none, false, [], false⟩
def withOp (o : MemOp) : State := { ts me id with memops := [o] }

/-- The hypotheses of a load: with no active lane; with every lane at address 0 of a page that may be read; misaligned;
not canonical; at a page that may not be read; at a page that is not present. -/
theorem meets_GlobalLoadsIssue :
    Meets (ts me (split0 fun x => { x with em := 0 })) 8 (fun c _ => Served [(.v 5, .w32)] sa c ∧ c.acting th = [])
    ∧ Meets (tm me id) 8 (fun c s => Served [(.v 5, .w32)] sa c ∧ c.acting th ≠ []
      ∧ (s.operandsTaken c sa).MayAccess c 4 (c.acting th) (c.addr sa 0)
      ∧ (s.operandsTaken c sa).Reaches c ((s.operandsTaken c sa).tunit c.core noHint) .rd (c.acting th) (c.addr sa 0) loadFault)
    ∧ Meets (tm me (setV 6 2)) 8 (fun c _ => Served [(.v 5, .w32)] sa c ∧ c.acting th ≠ [] ∧ 0 ∈ c.acting th
      ∧ (c.addr sa 0 0).toNat % 4 ≠ 0 ∧ ∀ k ∈ c.acting th, k < 0 → (c.addr sa 0 k).toNat % 4 = 0)
    ∧ Meets (tm me (setV 7 0x8000)) 8 (fun c _ => Served [(.v 5, .w32)] sa c ∧ c.acting th ≠ [] ∧ 0 ∈ c.acting th
      ∧ canonical (c.addr sa 0 0) = false ∧ (∀ k ∈ c.acting th, (c.addr sa 0 k).toNat % 4 = 0)
      ∧ ∀ k ∈ c.acting th, k < 0 → canonical (c.addr sa 0 k) = true)
    ∧ Meets ({ ts me id with cores := [(0, { Core.empty with tlb := [⟨0, 0, 30, 0x2000000000000098⟩] })] }) 8
      (fun c s => Served [(.v 5, .w32)] sa c ∧ c.acting th ≠ []
        ∧ (s.operandsTaken c sa).MayAccess c 4 (c.acting th) (c.addr sa 0)
        ∧ (s.operandsTaken c sa).FirstFault c ((s.operandsTaken c sa).tunit c.core noHint) .rd (c.acting th)
          (c.addr sa 0) loadFault (fun o => o = none ∨ o = some cNotPresent) 0 0 cProtection)
    ∧ Meets (ts me id) 8 (fun c s => Served [(.v 5, .w32)] sa c ∧ c.acting th ≠ []
        ∧ (s.operandsTaken c sa).MayAccess c 4 (c.acting th) (c.addr sa 0)
        ∧ (∀ x ∈ ((s.operandsTaken c sa).translateLanes ((s.operandsTaken c sa).tunit c.core noHint) c.gr.ctx .rd
            ((c.acting th).map fun l => (l, c.addr sa 0 l))).2, laneFault loadFault x = none ∨ laneFault loadFault x = some cNotPresent)
        ∧ (s.operandsTaken c sa).FirstFault c ((s.operandsTaken c sa).tunit c.core noHint) .rd (c.acting th)
          (c.addr sa 0) loadFault (fun o => o = none) 0 0 cNotPresent) := by
  unfold Served State.MayAccess State.Reaches
  refine ⟨meets (by decide +kernel), meets (by decide +kernel), meets (by decide +kernel), meets (by decide +kernel), ?_, ?_⟩
  · refine (meets (P := fun c s => (c.opStop [(.v 5, .w32)] sa = none ∧ c.acting th ≠ []
        ∧ ((∀ l ∈ c.acting th, (c.addr sa 0 l).toNat % 4 = 0 ∧ canonical (c.addr sa 0 l) = true
          ∧ (s.operandsTaken c sa).pageParked c (c.addr sa 0 l) = false) ∧ (s.operandsTaken c sa).acqPending c.ag = false))
        ∧ (((s.operandsTaken c sa).translateLanes ((s.operandsTaken c sa).tunit c.core noHint) c.gr.ctx .rd
          ((c.acting th).map fun l => (l, c.addr sa 0 l))).2.head?.map fun x => (laneFault loadFault x, x.1, x.2.1))
            = some (some cProtection, 0, 0)) (by decide +kernel)).imp fun c t h => ⟨h.1.1, h.1.2.1, h.1.2.2, first_fault h.2⟩
  · refine (meets (P := fun c s => (c.opStop [(.v 5, .w32)] sa = none ∧ c.acting th ≠ []
        ∧ ((∀ l ∈ c.acting th, (c.addr sa 0 l).toNat % 4 = 0 ∧ canonical (c.addr sa 0 l) = true
          ∧ (s.operandsTaken c sa).pageParked c (c.addr sa 0 l) = false) ∧ (s.operandsTaken c sa).acqPending c.ag = false)
        ∧ (∀ x ∈ ((s.operandsTaken c sa).translateLanes ((s.operandsTaken c sa).tunit c.core noHint) c.gr.ctx .rd
            ((c.acting th).map fun l => (l, c.addr sa 0 l))).2, laneFault loadFault x = none ∨ laneFault loadFault x = some cNotPresent))
        ∧ (((s.operandsTaken c sa).translateLanes ((s.operandsTaken c sa).tunit c.core noHint) c.gr.ctx .rd
          ((c.acting th).map fun l => (l, c.addr sa 0 l))).2.head?.map fun x => (laneFault loadFault x, x.1, x.2.1))
            = some (some cNotPresent, 0, 0)) (by decide +kernel)).imp fun c t h => ⟨h.1.1, h.1.2.1, h.1.2.2.1, h.1.2.2.2, first_fault h.2⟩

/-- System space in the TLB: the first GiB of context 0 at offset 0 of it. -/
def tsys (ag : Agent) (f : Group → Group) : State :=
  { ts ag f with cores := [(0, { Core.empty with tlb := [⟨0, 0, 30, 0x50000000000000d8⟩] })] }
/-- A versioned group, and one whose agent's commit point recorded an answer of the sequencer's or wave's kind. -/
def versioned (g : Group) : Group := { g with cls := 1 }
/-- A versioned group whose split has issued since the commit point. -/
def midTask (g : Group) : Group := split0 (fun x => { x with fresh := false }) (versioned g)

/-- A version of n whole lines from line a on, a byte of each. -/
def lines : Nat → Nat → SMap Byte
  | 0, _ => []
  | n + 1, a => (128 * a, 0) :: lines n (a + 1)
theorem linesOn_lines (n a : Nat) (l : Option Nat) (h : a + n ≤ 2 ^ 31) (hl : ∀ b, l = some b → b < a) :
    linesOn 0 l (lines n a) = n := by
  induction n generalizing a l with
  | zero => rfl
  | succ n ih =>
    have h1 : 128 * a / 2 ^ 38 = 0 := by omega
    have h2 : 128 * a / 128 = a := by omega
    have h3 : l ≠ some a := fun e => absurd (hl a e) (by omega)
    simp only [lines, linesOn, h1, h2, ne_eq, h3, not_false_eq_true, and_self, if_true]
    rw [ih (a + 1) (some a) (by omega) (by intro b hb; cases hb; omega)]
    omega
theorem lines_below (n a k : Nat) (h : k < 128 * a) : SMap.get? k (lines n a) = none := by
  induction n generalizing a with
  | zero => rfl
  | succ n ih =>
    have := ih (a + 1) (by omega)
    rw [lines, SMap.get?, if_neg (by omega)]
    exact this
/-- A redundant group whose version fills the pool of its cluster on die 0, but for line 0. -/
def bloated (g : Group) : Group := { g with cls := 2, version := lines 131072 1 }
theorem bloated_versioned (g : Group) : (bloated g).versioned = true := rfl
theorem bloated_lines (g : Group) : linesOn 0 none (bloated g).version = 131072 := linesOn_lines _ _ _ (by decide) (by simp)
theorem bloated_comes (s : State) (g : Group) (p : Nat) (hm : s.memops = []) : s.comingLines p (bloated g) = [] := by
  simp [State.comingLines, hm, Group.newLines, distinct]
/-- One such group, and one in each of two clusters. -/
theorem bloated_pool (s : State) (g : Group) (hg : s.groups = [(0, bloated g)]) (hm : s.memops = []) :
    s.poolLines 0 0 = 131072 := by
  simp [State.poolLines, hg, bloated_versioned, bloated_comes s _ _ hm, bloated_lines]
theorem bloated_pools (s : State) (g g' : Group) (hg : s.groups = [(0, bloated g), (512, bloated g')]) (hm : s.memops = []) :
    s.poolLines 0 0 = 131072 ∧ s.poolLines 512 0 = 131072 := by
  have h : clusterOf (coreOf 0) = 0 ∧ clusterOf (coreOf 512) = 1 := by decide
  simp [State.poolLines, hg, bloated_versioned, bloated_comes s _ _ hm, bloated_lines, h]
theorem bloated_stalls (s : State) (g : Group) (p n : Nat) (hn : 0 < n ∧ n ≤ 128) (hm : s.memops = [])
    (hp : s.poolLines p 0 = 131072) : s.poolStalls p (bloated g) [(.dram 0, n)] = true := by
  have h0 : ∀ k < 128, SMap.get? k (bloated g).version = none := fun k hk => lines_below _ _ _ (by omega)
  have hr : runLines 0 n = [0] := by
    have : (n < 128 ∧ n / 128 = 0) ∨ n = 128 := by omega
    rcases this with ⟨h, h'⟩ | rfl
    · simp [runLines, h', List.range, List.range.loop, hn.1]; omega
    · rfl
  have hl : (bloated g).newLines [0] = [0] := by
    simp only [Group.newLines, distinct]
    simp
    intro k hk; exact h0 k hk
  simp only [State.poolStalls, bloated_versioned, Bool.true_and, List.flatMap_cons, List.flatMap_nil, List.append_nil, Tgt.lines,
    hr, hl, bloated_comes s _ _ hm]
  exact List.any_eq_true.2 ⟨0, by decide, by simp [hp]⟩

/-- The hypotheses of a store: with no active lane; in flight; of a versioned group to system space; of an interval pair
behind one that is to come; and to a page that is not present, with the replay queue empty. A full pool is that of
bloated_stalls. Its other stops are those of a load. -/
theorem meets_GlobalStores :
    Meets (ts me (split0 fun x => { x with em := 0 })) 8 (fun c _ => Served [] sab c ∧ c.acting th = [])
    ∧ Meets (tm me id) 8 (fun c s => Served [] sab c ∧ c.acting th ≠ []
      ∧ (s.operandsTaken c sab).MayAccess c 4 (c.acting th) (c.addr sab 0)
      ∧ (∀ l ∈ c.acting th, ((s.operandsTaken c sab).translateLanes ((s.operandsTaken c sab).tunit c.core noHint) c.gr.ctx .wr
          ((c.acting th).map fun l => (l, c.addr sab 0 l))).1.pageParked c (c.addr sab 0 l) = false)
      ∧ (s.operandsTaken c sab).Reaches c ((s.operandsTaken c sab).tunit c.core noHint) .wr (c.acting th) (c.addr sab 0) (storeFault 4)
      ∧ (((s.operandsTaken c sab).translateLanes ((s.operandsTaken c sab).tunit c.core noHint) c.gr.ctx .wr
          ((c.acting th).map fun l => (l, c.addr sab 0 l))).1.core c.core).replay.length ≤ 32
      ∧ (∀ x ∈ ((s.operandsTaken c sab).translateLanes ((s.operandsTaken c sab).tunit c.core noHint) c.gr.ctx .wr
          ((c.acting th).map fun l => (l, c.addr sab 0 l))).2, x.2.2 = .ok ⟨.dram 0, false⟩)
      ∧ ((s.operandsTaken c sab).translateLanes ((s.operandsTaken c sab).tunit c.core noHint) c.gr.ctx .wr
          ((c.acting th).map fun l => (l, c.addr sab 0 l))).1.poolStalls c.g c.gr ((lanesOf (c.data sab 1)
            ((s.operandsTaken c sab).translateLanes ((s.operandsTaken c sab).tunit c.core noHint) c.gr.ctx .wr
              ((c.acting th).map fun l => (l, c.addr sab 0 l))).2).map fun x => (x.tgt, 4)) = false)
    ∧ Meets (tsys me versioned) 8 (fun c s => Served [] sab c ∧ c.acting th ≠ []
      ∧ (s.operandsTaken c sab).MayAccess c 4 (c.acting th) (c.addr sab 0)
      ∧ (∀ l ∈ c.acting th, ((s.operandsTaken c sab).translateLanes ((s.operandsTaken c sab).tunit c.core noHint) c.gr.ctx .wr
          ((c.acting th).map fun l => (l, c.addr sab 0 l))).1.pageParked c (c.addr sab 0 l) = false)
      ∧ (s.operandsTaken c sab).Reaches c ((s.operandsTaken c sab).tunit c.core noHint) .wr (c.acting th) (c.addr sab 0) (storeFault 4)
      ∧ (((s.operandsTaken c sab).translateLanes ((s.operandsTaken c sab).tunit c.core noHint) c.gr.ctx .wr
          ((c.acting th).map fun l => (l, c.addr sab 0 l))).1.core c.core).replay.length ≤ 32
      ∧ ((s.operandsTaken c sab).translateLanes ((s.operandsTaken c sab).tunit c.core noHint) c.gr.ctx .wr
          ((c.acting th).map fun l => (l, c.addr sab 0 l))).1.poolStalls c.g c.gr ((lanesOf (c.data sab 1)
            ((s.operandsTaken c sab).translateLanes ((s.operandsTaken c sab).tunit c.core noHint) c.gr.ctx .wr
              ((c.acting th).map fun l => (l, c.addr sab 0 l))).2).map fun x => (x.tgt, 4)) = false
      ∧ c.gr.versioned = true
      ∧ (∃ x ∈ ((s.operandsTaken c sab).translateLanes ((s.operandsTaken c sab).tunit c.core noHint) c.gr.ctx .wr
          ((c.acting th).map fun l => (l, c.addr sab 0 l))).2, x.2.2 = .ok ⟨.sys 0, false⟩)
      ∧ c.before.writesDone c.g = true ∧ c.before.noReplay c.g = true)
    ∧ Meets ({ ts me (wave fun w => { w with ivst := 0x200 }) with memops := [{ op .st none with iv := true }] }) 8 (fun c s => Served [] siv c
      ∧ (s.operandsTaken c siv).ivHolds c = true ∧ ¬ c.before.writesDone c.g = true)
    ∧ Meets (tm me bloated) 8 (fun c s => Served [] sab c ∧ c.acting th ≠ []
      ∧ (s.operandsTaken c sab).MayAccess c 4 (c.acting th) (c.addr sab 0)
      ∧ (∀ x ∈ ((s.operandsTaken c sab).translateLanes ((s.operandsTaken c sab).tunit c.core noHint) c.gr.ctx .wr
          ((c.acting th).map fun l => (l, c.addr sab 0 l))).2, x.2.2 = .ok ⟨.dram 0, false⟩))
    ∧ Meets (ts me id) 8 (fun c s => Served [] sab c ∧ c.acting th ≠ []
      ∧ (s.operandsTaken c sab).MayAccess c 4 (c.acting th) (c.addr sab 0)
      ∧ (∀ x ∈ ((s.operandsTaken c sab).translateLanes ((s.operandsTaken c sab).tunit c.core noHint) c.gr.ctx .wr
          ((c.acting th).map fun l => (l, c.addr sab 0 l))).2, x.2.2 = .error cNotPresent)
      ∧ (((s.operandsTaken c sab).translateLanes ((s.operandsTaken c sab).tunit c.core noHint) c.gr.ctx .wr
          ((c.acting th).map fun l => (l, c.addr sab 0 l))).1.core c.core).replay.length
            + (pagesOf ((c.acting th).map fun l => (l, c.addr sab 0 l))).length ≤ 32) := by
  unfold Served State.MayAccess State.Reaches
  exact ⟨meets (by decide +kernel), meets (by decide +kernel), meets (by decide +kernel), meets (by decide +kernel),
    meets (by decide +kernel), meets (by decide +kernel)⟩

/-- The address operand V6 of a local access, and one with data. -/
def la : List SrcW := [(.v 6, .w32)]
def lab : List SrcW := [(.v 6, .w32), (.v 8, .w32)]
/-- Only lane 0 is in the execution mask, and V6 holds x. -/
def lone (x : Word) : Group → Group := fun g => setV 6 x (split0 (fun z => { z with em := 1 }) g)

/-- The hypotheses of the local and lane-private accesses: with no active lane; at the last word of the scratchpad; at
the last word of the register alias of the window; at the last word of the lane-private area; and their traps: beyond
the scratchpad, not aligned, beyond the window, beyond the alias, beyond the lane-private area. -/
theorem meets_LocalAccessesReachTheirBytes :
    Meets (ts me (split0 fun x => { x with em := 0 })) 8 (fun c _ => Served [(.v 5, .w32)] la c ∧ c.acting th = [])
    ∧ Meets (ts me (lone 4092)) 8 (fun c s => Served [] lab c ∧ c.acting th ≠ [] ∧ Local c th lab 4 true [(0, .spad 4092)]
      ∧ (s.operandsTaken c lab).acqPending c.ag = false)
    ∧ Meets (ts me (lone (0x80000000 + 128 * 223 + 124))) 8 (fun c s => Served [(.v 5, .w32)] la c ∧ c.acting th ≠ []
      ∧ Local c th la 4 false [(0, .aliasAt 223 31)] ∧ (s.operandsTaken c la).acqPending c.ag = false
      ∧ (s.operandsTaken c la).vPending c = false)
    ∧ Meets (ts me (lone 60)) 8 (fun c _ => Served [(.v 5, .w32)] la c ∧ c.acting th ≠ [] ∧ PrivOk c th la 4)
    ∧ (∀ x ∈ [(4094 : Word), 4096, 2, 0x80000002, 0x80008000], Meets (ts me (lone x)) 8 (fun c s => Served [(.v 5, .w32)] la c
        ∧ (s.operandsTaken c la).acqPending c.ag = false ∧ 0 ∈ c.acting th
        ∧ ([] : List (Nat × LocalAddr)).map Prod.fst = (c.acting th).filter (· < 0)
        ∧ BadLocal c 4 false (c.local la 0 0).toNat))
    ∧ Meets (ts me (lone (0x80000000 + 128 * 224))) 8 (fun c s => Served [(.v 5, .w32)] la c
        ∧ (s.operandsTaken c la).acqPending c.ag = false ∧ 0 ∈ c.acting th
        ∧ ([] : List (Nat × LocalAddr)).map Prod.fst = (c.acting th).filter (· < 0)
        ∧ ¬ BadLocal c 4 false (c.local la 0 0).toNat ∧ 2 ^ 31 + 128 * c.gr.rl ≤ (c.local la 0 0).toNat)
    ∧ Meets (ts me (lone 64)) 8 (fun c _ => Served [(.v 5, .w32)] la c ∧ 0 ∈ c.acting th
        ∧ ((c.local la 0 0).toNat % 4 ≠ 0 ∨ c.gr.va.lpriv < (c.local la 0 0).toNat + 4)) := by
  unfold Served Local PrivOk BadLocal
  simp only [List.mem_singleton, forall_eq]
  refine ⟨meets (by decide +kernel), meets (by decide +kernel), meets (by decide +kernel), meets (by decide +kernel), ?_,
    meets (by decide +kernel), meets (by decide +kernel)⟩
  intro x hx
  simp only [List.mem_cons, List.not_mem_nil, or_false] at hx
  rcases hx with rfl | rfl | rfl | rfl | rfl <;> exact meets (by decide +kernel)

-- Hypotheses: atomics, completions, fences -----------------------------------------------------------

/-- The scope byte relaxed at scope die: a wide operation. -/
def wide3 : Scope := ⟨0, 3⟩
/-- The agent has issued nothing since its commit point, so a wide operation demotes nothing. -/
def answered (xs : List DWord) (g : Group) : Group :=
  split0 (fun x => { x with fresh := true }) { g with cls := 1, replayAns := [(some 0, xs)] }

/-- The hypotheses of an atomic: with no active lane; in flight; an ared of a versioned group; a wide one of a
re-execution with its answer; not aligned; one that demotes its group; one behind a write in flight that its release waits
for; and one of the group whose pool is full, as bloated_stalls says. -/
theorem meets_AtomicsIssue :
    Meets (ts me (split0 fun x => { x with em := 0 })) 8 (fun c s => Served [(.v 5, .w32)] sab c ∧ c.acting th = []
      ∧ Ordered c (s.operandsTaken c sab) ⟨3, 5⟩ false false)
    ∧ Meets (tm me id) 8 (fun c s => Served [(.v 5, .w32)] sab c ∧ c.acting th ≠ []
      ∧ Ordered c (s.operandsTaken c sab) ⟨3, 5⟩ true true
      ∧ ((c.gr.versioned && true && decide (3 ≤ (5 : Nat))) = true → c.gr.answerFor (ansKey c.ag) = none)
      ∧ (s.operandsTaken c sab).MayAccess c 4 (c.acting th) (c.addr sab 0)
      ∧ ((s.operandsTaken c sab).Reaches c (coreUnit c.g) .rw (c.acting th) (c.addr sab 0) fun _ t => atomFault t)
      ∧ c.gr.versioned = false)
    ∧ Meets (tm me versioned) 8 (fun c s => Served [] sab c ∧ c.acting th ≠ []
      ∧ Ordered c (s.operandsTaken c sab) ⟨2, 2⟩ false false
      ∧ (s.operandsTaken c sab).MayAccess c 4 (c.acting th) (c.addr sab 0)
      ∧ ((s.operandsTaken c sab).Reaches c (coreUnit c.g) .rw (c.acting th) (c.addr sab 0) fun _ t => atomFault t)
      ∧ c.gr.versioned = true)
    ∧ Meets (tm me (answered [7])) 8 (fun c s => Served [(.v 5, .w32)] sab c ∧ c.acting th ≠ []
      ∧ Ordered c (s.operandsTaken c sab) wide3 true true ∧ (c.gr.versioned && true && decide (3 ≤ wide3.scope.toNat)) = true
      ∧ c.gr.answerFor (ansKey c.ag) = some [7])
    ∧ Meets (tm me (setV 6 2)) 8 (fun c s => Served [(.v 5, .w32)] sab c ∧ c.acting th ≠ []
      ∧ Ordered c (s.operandsTaken c sab) ⟨0, 0⟩ true true ∧ 0 ∈ c.acting th ∧ (c.addr sab 0 0).toNat % 4 ≠ 0)
    ∧ Meets (tm me midTask) 8 (fun c s => Served [(.v 5, .w32)] sab c ∧ c.acting th ≠ []
      ∧ (s.operandsTaken c sab).released c 3 = true ∧ c.demotes true true = true
      ∧ c.before.writesDone c.g = true ∧ c.before.noReplay c.g = true)
    ∧ Meets (withOp (op .st none)) 8 (fun c s => Served [(.v 5, .w32)] sab c ∧ (s.operandsTaken c sab).released c 4 = false
      ∧ c.before.writesDone c.g = false)
    ∧ Meets (tm me bloated) 8 (fun c s => Served [(.v 5, .w32)] sab c ∧ c.acting th ≠ []
      ∧ Ordered c (s.operandsTaken c sab) ⟨0, 0⟩ true true ∧ (c.gr.versioned && true && decide (3 ≤ (0 : Nat))) = false
      ∧ (s.operandsTaken c sab).MayAccess c 4 (c.acting th) (c.addr sab 0)
      ∧ ((s.operandsTaken c sab).Reaches c (coreUnit c.g) .rw (c.acting th) (c.addr sab 0) fun _ t => atomFault t)) := by
  unfold Served State.MayAccess State.Reaches Ordered
  exact ⟨meets (by decide +kernel), meets (by decide +kernel), meets (by decide +kernel), meets (by decide +kernel),
    meets (by decide +kernel), meets (by decide +kernel), meets (by decide +kernel), meets (by decide +kernel)⟩

/-- The hypotheses of LoadsDeliverTheirBytes: a load that bypasses L1, and one whose data is sampled. -/
theorem meets_LoadsDeliverTheirBytes : ∀ k ∈ [OpKind.ld true 3, OpKind.ready 0],
    let o := op k (some (.v 5))
    let s := withOp o
    s.memops.find? (fun o => o.id == 0) = some o ∧ o.ag = .split 0 0 0 ∧ o.dst = some (.v 5) ∧ o.acq = none ∧ o.wide = false
      ∧ o.size ≤ 16 ∧ s.grp 0 = some tg ∧ tg.waves[0]?.isSome = true ∧ tg.version = []
      ∧ o.lanes.Pairwise (fun x y => x.lane < y.lane) ∧ (∀ x ∈ o.lanes, x.lane < 32)
      ∧ (∃ x ∈ o.lanes, bit (0x80000000 : BitVec 32) x.lane = true)
      ∧ (∀ x ∈ o.lanes, bit (0x80000000 : BitVec 32) x.lane = true → earlierClash s.memops o x = false)
      ∧ o.kind = k ∧ HalvesOk o ∧ ∀ x ∈ o.lanes, x.tgt = .dram 0x100 := by unfold HalvesOk; decide +kernel

/-- Lanes in flight that find their bytes: past L1, in L1 or at their home, in system space with the first half read, in
an alias page; for V, W and G destinations and for none. -/
def found : List MemOp :=
  [op (.ld true 3) (some (.v 5)), { op (.ld false 1) (some (.w 3)) with size := 8 },
    { op (.ld true 2) (some (.g 7)) with ag := sq, size := 1, lanes := [⟨31, 0x100, .dram 0x100, false, 0⟩] },
    { op (.ld false 0) none with size := 16, lanes := [⟨31, 0x100, .sys 0x100, true, 0⟩], halves := [(31, 5)] },
    { op (.ld false 0) (some (.v 5)) with lanes := [⟨31, 0x100, .aliasAt 0 0 0 0 8, true, 0⟩] }]
theorem finds_some (s : State) (o : MemOp) (cache : Nat) (x : LaneAcc)
    (h : ∀ a, x.tgt = .sys a → o.size = 16 → ∃ p, o.halves.find? (fun p => p.1 == x.lane) = some p) : ∃ v, s.Finds o cache x v := by
  unfold State.Finds
  cases hx : x.tgt with
  | dram a =>
    by_cases g : s.GoesPast (agPlace o.ag) cache a x.byp
    · exact ⟨_, fun _ => rfl, fun n => absurd g n⟩
    · exact ⟨_, fun n => absurd n g, fun _ => rfl⟩
  | sys a =>
    by_cases g : o.size = 16
    · obtain ⟨p, hp⟩ := h a hx g
      simp only [g, if_true]
      exact ⟨_, p, hp, rfl⟩
    · simp only [g, if_false]
      exact ⟨_, rfl⟩
  | aliasAt d f p ty k => exact ⟨_, rfl⟩
/-- The hypotheses of one lane of a load: what it finds; a line that L1 takes in; and the first half in system space. -/
theorem meets_LoadLanes :
    (∀ o ∈ found, let s := withOp o
      s.memops.find? (fun o => o.id == 0) = some o ∧ o.acq = none ∧ o.wide = false ∧ o.size ≤ 16 ∧ HalvesOk o
        ∧ o.lanes.filter (fun y => bit (0x80000000 : BitVec 32) y.lane) = o.lanes
        ∧ (∀ x ∈ o.lanes, x.lane < 32 ∧ earlierClash s.memops o x = false) ∧ o.lanes.length = 1 ∧ o.kind.isLoad = true
        ∧ (s.waveAt 0 0).isSome = true ∧ (s.seqAt 0).isSome = true)
    ∧ (∀ o ∈ found, ∀ x ∈ o.lanes, ∃ v, (withOp o).Finds o 0 x v)
    ∧ ((∀ c k, ((withOp (op (.ld true 0) none)).l1Set c k).ways.length = 8)
      ∧ ¬ (withOp (op (.ld true 0) none)).GoesPast 0 0 0x100 false)
    ∧ (let o : MemOp := { op (.ld false 0) none with size := 16, lanes := [⟨31, 0x100, .sys 0x100, true, 0⟩] };
      HalvesOk o ∧ ∀ p ∈ o.halves, p.1 ≠ 31) := by
  refine ⟨?_, fun o ho x hx => finds_some _ _ _ _ ?_, ⟨fun c k => rfl, ?_⟩, by unfold HalvesOk; decide +kernel⟩
  · unfold HalvesOk; decide +kernel
  · simp only [found, List.mem_cons, List.not_mem_nil, or_false] at ho
    rcases ho with rfl | rfl | rfl | rfl | rfl <;> simp only [op, List.mem_singleton] at hx <;> subst hx <;>
      first | (intro a h; cases h; done) | (intro a _ _; exact ⟨(31, 5), rfl⟩)
  · rintro (h | h | ⟨gr, h1, k, _, h2⟩)
    · cases h
    · cases h
    · cases (show some tg = some gr from h1)
      cases h2

/-- The hypotheses of StoresWriteTheirBytes, of AtomicLanesUpdateTheirHome and of StoreConditionalFollowsItsReservation,
this one with a reservation that stands and with none: in DRAM, in system space, whole and in halves, and in an alias
page; of a wave and of a sequencer, and wide; for an unversioned group, and a versioned one. -/
theorem meets_StoresAndAtomics : ∀ o ∈ [op .st none, op .cwback none, op (.atom .addI32 true) (some (.v 5)), op .stc (some (.v 5)),
      { op .st none with lanes := [⟨31, 0x100, .sys 0x100, true, 7⟩] },
      { op .st none with lanes := [⟨31, 0x100, .sys 0x100, true, 7⟩], size := 16 },
      { op .st none with lanes := [⟨31, 0x100, .sys 0x100, true, 7⟩], size := 16, halves := [(31, 0)] },
      { op .st none with lanes := [⟨31, 0x100, .aliasAt 0 0 0 0 8, true, 7⟩] },
      { op (.atom .addI32 true) (some (.g 5)) with ag := sq }, { op (.atom .addI32 true) (some (.v 5)) with wide := true },
      { op .stc (some (.v 5)) with wide := true }, { op .ldr (some (.v 5)) with acq := none }],
    let s := withOp o
    s.memops.find? (fun o => o.id == 0) = some o ∧ o.lanes.find? (fun y => y.lane == 31) = o.lanes.head?
      ∧ o.lanes.filter (fun y => bit (0x80000000 : BitVec 32) y.lane) = o.lanes
      ∧ o.lanes.length = 1 ∧ (∀ x ∈ o.lanes, x.lane = 31 ∧ earlierClash s.memops o x = false)
      ∧ (s.grp (agPlace o.ag)).map Group.cls = some 0 ∧ (s.waveAt 0 0).isSome = true ∧ (s.seqAt 0).isSome = true := by decide +kernel
theorem meets_StoresAndAtomics_versioned : ∀ o ∈ [op .st none, op (.atom .addI32 true) (some (.v 5)), op .stc (some (.v 5))],
    let s := { ts me versioned with memops := [o] }
    (s.grp 0).map Group.cls = some 1 ∧ s.memops.find? (fun o => o.id == 0) = some o
      ∧ ∀ x ∈ o.lanes, earlierClash s.memops o x = false := by decide +kernel
theorem meets_StoreConditional_intact :
    let s := { withOp (op .stc (some (.v 5))) with resvs := [⟨0, 0, 0, 31, 2⟩] }
    s.resvs.any (fun r => r.g == 0 && r.w == 0 && r.sp == 0 && r.lane == 31 && r.granule == 0x100 / 128) = true
      ∧ (withOp (op .stc (some (.v 5)))).resvs.any (fun r => r.lane == 31) = false := by decide +kernel

/-- A walk for two lines of context 0 by the service of die 0. -/
def twalk : Walk := ⟨3, 0, 0, 0, [⟨0, me, 0, 0⟩, ⟨0, me, 128, 3⟩]⟩
/-- The hypotheses of FencesAndMaintenance: a fence that may go on, one behind a write, and one that demotes its group;
prefetches at a line's address; cwback and cinval, with lanes and with none; a walk in flight, of a page that is there and
of one that is not; a prefetched line that arrives. -/
theorem meets_FencesAndMaintenance :
    Meets (ts me id) 8 (fun c s => s.released c 5 = true ∧ c.demotes (decide (3 ≤ (5 : Nat))) false = false)
    ∧ Meets (withOp (op .st none)) 8 (fun c s => s.released c 5 = false
      ∧ ∀ o ∈ s.memops, o.holdsRelease c 0 = false)
    ∧ Meets (withOp (op (.ld false 0) none)) 8 (fun c s => ∃ o ∈ s.memops, o.holdsRelease c 0 = true)
    ∧ Meets (ts me midTask) 8 (fun c s => s.released c 3 = true ∧ c.demotes (decide (3 ≤ (3 : Nat))) false = true
      ∧ c.before.writesDone c.g = true ∧ c.before.noReplay c.g = true)
    ∧ Meets (ts me (setV 6 128)) 8 (fun c _ => Served [] sa c)
    ∧ Meets (tm me (setV 6 1)) 8 (fun c s => Served [] sa c ∧ c.acting th ≠ []
      ∧ (s.operandsTaken c sa).MayAccess c 1 (c.acting th) (c.addr sa 0)
      ∧ (s.operandsTaken c sa).Reaches c ((s.operandsTaken c sa).tunit c.core noHint) .none (c.acting th) (c.addr sa 0)
        fun _ _ => none)
    ∧ Meets (ts me (split0 fun x => { x with em := 0 })) 8 (fun c _ => Served [] sa c ∧ c.acting th = [])
    ∧ (let s : State := { tc me id with walks := [twalk] }; s.walks.find? (fun w => w.id == 3) = some twalk
        ∧ (s.leafOf 0 0 0).isOk = true ∧ (s.leafOf 0 0 (2 ^ 40)).isOk = false)
    ∧ (let o := op (.pref 3) none; let s := withOp o; s.memops.find? (fun o => o.id == 0) = some o
        ∧ (∃ x ∈ o.lanes, bit (0x80000000 : BitVec 32) x.lane = true)
        ∧ ∀ x ∈ o.lanes, earlierClash s.memops o x = false) := by
  unfold Served State.MayAccess State.Reaches
  exact ⟨meets (by decide +kernel), meets (by decide +kernel), meets (by decide +kernel), meets (by decide +kernel),
    meets (by decide +kernel), meets (by decide +kernel), meets (by decide +kernel), by decide +kernel, by decide +kernel⟩

-- Hypotheses: index-vector transport -----------------------------------------------------------------

/-- A query slot of the group of tg, held by the row engines or not. -/
def tq (sub : Nat) (held : Bool) : Query := ⟨gridKey 0 0, 0, 4, 0, [0, 0, 0, 0], sub, held⟩
/-- A layout of 8 rows of 4 FP32 elements at VA 0x1000, writable, not sharded. -/
def tl : Layout := ⟨2, 0x12, false, false, true, 0, 0x1000, [4, 8], [4, 16], 0, 0, 0, 0, false, 0, 0, 0, 0, 0⟩
/-- The group holds it in handle slot 2, and barrier object 0 is there. -/
def handled (g : Group) : Group :=
  { g with handles := g.handles.set 2 (some tl), bars := g.bars.set 0 (some ⟨0, 0, 1, false, 0, 4080⟩) }
/-- An operation of wave 0 that gathers rows 1 and 9 in slots 0 and 31. -/
def tx (k : List XSlot) (started recorded : Bool) : XOp :=
  ⟨5, 0, 0, 0, 0, .gather, tl, 1, 0, false, 0, 0, 1, ([], 0), 0, [], k, none, false, started, 0, recorded⟩
def slot1 (c : Option Nat) : XSlot := ⟨0, 1, 1, none, none, c, List.replicate 16 0⟩
def slot9 (p c : Option Nat) : XSlot := ⟨31, 9, 0, p, none, c, []⟩
/-- A load of wave 0 that is to acquire, in flight. -/
def acquiring : MemOp := { op .ldr none with acq := some 4 }
/-- A bag array of one bag at scratchpad byte 16, with query slot 0 and k = 4: its tile is in the first 40 bytes from 64. -/
def scored (g : Group) : Group := setW 5 0x1000000040 (handled { g with spad := [(16, 1), (18, 3)] })

/-- The hypotheses of the transport points: issue with every lane active and with none; a fifth operation; registers
beyond the window; no handle; a handle that the form does not allow; a value with bits above 31; a later check; a score
with a query that is held and one that is to be reloaded; a scatter of a versioned group through a sharded handle; an
acquire to come. -/
theorem meets_TransportPointsIssue :
    Meets (ts me handled) 8 (fun c s => s.outCount c.g c.w < 4 ∧ 223 + 1 ≤ c.gr.rl
      ∧ xchecks s c.gr .gather (c.gr.handle 2) (c.scalar (.w 5)) 1 false 0 = .ok (tl, ⟨0, 1, 0, 0, []⟩) ∧ c.gr.versioned = false
      ∧ c.slots th 223 1 ≠ [])
    ∧ Meets (ts me fun g => split0 (fun x => { x with em := 0 }) (handled g)) 8 (fun c _ => c.slots th 223 1 = [])
    ∧ Meets ({ ts me handled with xops := List.replicate 4 (tx [slot1 none] true false) }) 8 (fun c s => 4 ≤ s.outCount c.g c.w)
    ∧ Meets (ts me handled) 8 (fun c s => s.outCount c.g c.w < 4 ∧ c.gr.rl < 223 + 2)
    ∧ Meets (ts me handled) 8 (fun c s => s.outCount c.g c.w < 4 ∧ 10 + 4 ≤ c.gr.rl ∧ c.gr.handle 31 = none)
    ∧ Meets (ts me fun g => { g with handles := g.handles.set 2 (some { tl with writable := false }) }) 8 (fun c _ =>
      c.gr.handle 2 = some { tl with writable := false } ∧ formAllows .scadd { tl with writable := false } = true
        ∧ scatters .scadd = true)
    ∧ Meets (ts me fun g => setW 5 0x100000000 (handled g)) 8 (fun c _ => c.gr.handle 2 = some tl ∧ formAllows .gather tl = true
      ∧ bagged .gather = false ∧ (c.scalar (.w 5)).toNat / 2 ^ 32 ≠ 0)
    ∧ Meets (ts me fun g => setW 5 8 (handled g)) 8 (fun c s =>
      (match xchecks s c.gr .gather (c.gr.handle 2) (c.scalar (.w 5)) 1 false 0 with
        | .error e => e == tr cSpad | .ok _ => false) = true)
    ∧ (∀ b ∈ [true, false], Meets ({ ts me scored with queries := [(0, tq 0 b)] }) 8 (fun c s =>
      s.outCount c.g c.w < 4 ∧ s.acqPending c.ag = false ∧ 223 + 1 ≤ c.gr.rl
      ∧ xchecks s c.gr .score (c.gr.handle 2) (c.scalar (.w 5)) 1 false 0 = .ok (tl, ⟨1, 4, 0, 0, [0]⟩)
      ∧ (SMap.get? 0 s.queries).map Query.loaded = some b))
    ∧ Meets (ts me fun g => midTask { handled g with handles := g.handles.set 2 (some { tl with shardKind := 1, shardCount := 1 }) }) 8
      (fun c s => s.outCount c.g c.w < 4 ∧ s.acqPending c.ag = false ∧ 223 + 1 ≤ c.gr.rl
        ∧ (match xchecks s c.gr .scadd (c.gr.handle 2) (c.scalar (.w 5)) 1 false 0 with
            | .ok y => y.1.shardKind != 0 | .error _ => false) = true
        ∧ c.gr.versioned = true ∧ scatters .scadd = true ∧ c.before.writesDone c.g = true ∧ c.before.noReplay c.g = true)
    ∧ Meets (withOp acquiring) 8 (fun c s => s.acqPending c.ag = true) := by
  simp only [List.mem_cons, List.not_mem_nil, or_false, forall_eq_or_imp, forall_eq]
  exact ⟨meets (by decide +kernel), meets (by decide +kernel), meets (by decide +kernel), meets (by decide +kernel),
    meets (by decide +kernel), meets (by decide +kernel), meets (by decide +kernel), meets (by decide +kernel),
    ⟨meets (by decide +kernel), meets (by decide +kernel)⟩, meets (by decide +kernel), meets (by decide +kernel)⟩

/-- The hypotheses of xqload (a free slot 1 with 0 taken, none free of the group's four, none of the 256, no active lane,
a range that does not lie in the scratchpad, an acquire to come), xqfree (owned, with lanes and with none, not owned,
256), xstat, xmask and xwait (at their limit and above it), and of the events of query slots. -/
theorem meets_QuerySlotsAndStatus :
    Meets ({ ts me handled with queries := [(0, tq 0 true)] }) 8 (fun c s => c.gr.handle 2 = some tl ∧ formAllows .score tl = true
      ∧ ((c.scalar (.w 5)).extractLsb' 0 32).toNat % 4 = 0
      ∧ ((c.scalar (.w 5)).extractLsb' 0 32).toNat + 4 * tl.rowElems ≤ c.gr.va.spad ∧ c.acting th ≠ []
      ∧ SMap.get? 1 s.queries = none ∧ (∀ j < 1, (SMap.get? j s.queries).isSome = true)
      ∧ (∀ y ∈ s.ownQueries c.gr, y.2.sub ≠ 1) ∧ ∀ j < 1, ∃ y ∈ s.ownQueries c.gr, y.2.sub = j)
    ∧ Meets ({ ts me handled with queries := [(0, tq 0 true), (1, tq 1 true), (2, tq 2 true), (3, tq 3 true)] }) 8 (fun c s =>
      ∀ j < 4, ∃ y ∈ s.ownQueries c.gr, y.2.sub = j)
    ∧ Meets ({ ts me handled with queries := (List.range 256).map fun k => (k, { tq 0 true with index := 1 }) }) 8 (fun c s =>
      c.gr.handle 2 = some tl ∧ c.acting th ≠ [] ∧ ∀ j < 256, (SMap.get? j s.queries).isSome = true)
    ∧ Meets (ts me fun g => split0 (fun x => { x with em := 0 }) (handled g)) 8 (fun c s => s.acqPending c.ag = false
      ∧ c.gr.handle 2 = some tl ∧ formAllows .score tl = true ∧ c.acting th = [])
    ∧ Meets (ts me fun g => setW 5 4084 (handled g)) 8 (fun c _ => c.gr.handle 2 = some tl ∧ formAllows .score tl = true
      ∧ ((c.scalar (.w 5)).extractLsb' 0 32).toNat % 4 = 0
      ∧ c.gr.va.spad < ((c.scalar (.w 5)).extractLsb' 0 32).toNat + 4 * tl.rowElems)
    ∧ Meets ({ ts me (fun g => split0 (fun x => { x with em := 0 }) (setW 5 255 g)) with queries := [(255, tq 0 true)] }) 8 (fun c s =>
      (c.scalar (.w 5)).toNat < 256
      ∧ c.acting th = [] ∧ ((SMap.get? (c.scalar (.w 5)).toNat s.queries).map fun q => q.isOf c.gr) = some true)
    ∧ Meets ({ ts me (setW 5 255) with queries := [(255, tq 0 true)] }) 8 (fun c s => (c.scalar (.w 5)).toNat < 256
      ∧ c.acting th ≠ [] ∧ ((SMap.get? (c.scalar (.w 5)).toNat s.queries).map fun q => q.isOf c.gr) = some true)
    ∧ Meets (ts me (setW 5 256)) 8 (fun c _ => 256 ≤ (c.scalar (.w 5)).toNat)
    ∧ Meets ({ ts me id with queries := [(0, { tq 0 true with index := 1 })] }) 8 (fun c s =>
      ((SMap.get? (c.scalar (.w 5)).toNat s.queries).map fun q => q.isOf c.gr) = some false)
    ∧ Meets (ts me id) 8 (fun c s => s.outCount c.g c.w = 0 ∧ s.outCount c.g c.w ≤ 0)
    ∧ Meets ({ ts me id with xops := [tx [slot1 none] true false] }) 8 (fun c s => 0 < s.outCount c.g c.w
      ∧ s.outCount c.g c.w ≤ 1) := by
  exact ⟨meets (by decide +kernel), meets (by decide +kernel), meets (by decide +kernel), meets (by decide +kernel),
    meets (by decide +kernel), meets (by decide +kernel), meets (by decide +kernel), meets (by decide +kernel),
    meets (by decide +kernel), meets (by decide +kernel), meets (by decide +kernel)⟩
theorem meets_QueryEvents :
    (let s : State := { ts me id with reqs := [⟨7, me, 0, .query 0 (.w 3) false, none, 0xffffffff, false⟩] };
      (s.reqs.find? fun r => r.id == 7).map (fun r => r.kind) = some (.query 0 (.w 3) false) ∧ (s.waveAt 0 0).isSome = true)
    ∧ ∀ p ∈ [(0x20000, none), (0x40000000, some true), (0x1000000000000, some false)],
      let gd : Grid := { loneGrid with lrec := { loneGrid.lrec with area := p.1 } }
      let s : State := { tc me id with queries := [(0, tq 0 false)], grids := [gd] }
      let va := backingVa p.1 tg.kobj.amax tg.slot 0
      SMap.get? 0 s.queries = some (tq 0 false) ∧ s.groups.find? (fun y => (tq 0 false).isOf y.2) = some (0, tg)
      ∧ s.grp 0 = some tg ∧ s.grid tg.grid tg.ctx = some gd ∧ tg.halting = none ∧ tg.slotWait = none ∧ s.reqs = []
      ∧ (match (s.readVa (.transport (s.homeDie tg.ctx va)) tg.ctx none va (4 * 4)).2 with
          | .ok _ => none | .error f => some (f.1 == cNotPresent)) = p.2 := by
  decide +kernel

/-- A slot before its row is routed; a handle of which package 2 holds every row, and a state with that shard table, paired
with package 2, to which there is a route. -/
def slot0 : XSlot := ⟨0, 1, 0, none, none, none, []⟩
def tls : Layout := { tl with shardKind := 1, shardCount := 1, shardVa := 0x20000 }
def tshard (k : List XOp) : State :=
  { tc me id with xops := k, ctxs := [(0, { tcx with pairs := 1, pairVa := 0x21000 })], mem := tmem ++ [(0x20008, 2), (0x21000, 2)],
                  pkg := { State.reset.pkg with routes := [(2, 0)] } }
/-- A request of package p for row 1 of context 0, its base at a. -/
def treq (p a : Nat) (first : Bool) : RemoteReq :=
  ⟨p, 0, 5, .gather, 0x12, 0, BitVec.ofNat 64 a, [4, 8], [4, 16], [⟨3, 0, 1, []⟩], first⟩

/-- The hypotheses of the first slot of an operation: one that resolves; one whose page is not present; one out of range;
one on package 2, asked for and answered; a shard table that is not present. -/
theorem meets_FirstSlots :
    (∀ p ∈ [(tl, true), ({ tl with base := 0x40000000 }, false)], let o := { tx [slot1 none] false false with h := p.1 }
      let s : State := { tc me id with xops := [o] };
      s.xop 5 = some o ∧ s.grp 0 = some tg ∧ o.asked = false ∧ 1 ≠ (slot1 none).j
      ∧ (s.route tg.ctx o.h o.slots).2.toOption = some [slot1 none] ∧ (s.resolveRow tg.ctx .gather o.h 1).2.isOk = p.2)
    ∧ (let s : State := { tc me id with xops := [tx [slot9 none none] false false] };
      (s.route tg.ctx tl [slot9 none none]).2.toOption = some [slot9 none (some cIndex)])
    ∧ (let o := { tx [slot0] false false with h := tls }
      (tshard [o]).xop 5 = some o
      ∧ ((tshard [o]).route tg.ctx tls [slot0]).2.toOption = some [{ slot0 with row := 1, pkg := some 2 }])
    ∧ (∀ cause ∈ [0, cNotPresent, cIndex],
      let o := { tx [{ slot0 with row := 1, pkg := some 2, cause := some cause }] false false with h := tls, asked := true }
      (tshard [o]).xop 5 = some o ∧ (tshard [o]).grp 0 = some tg)
    ∧ (let o := { tx [slot0] false false with h := { tls with shardVa := 0x40000000 } }
      ((tshard [o]).route tg.ctx o.h [slot0]).2.isOk = false) := by decide +kernel
/-- The hypotheses of the rows of this package: read, not present, scattered to four words apart from one another, in an
unversioned and a versioned group, with an older scatter of the wave that waits and with none. -/
theorem meets_Rows :
    (∀ p ∈ [(tl, true), ({ tl with base := 0x40000000 }, false)], ∀ f ∈ [XForm.gather, .scadd],
      let o := { tx [slot1 none] true false with h := p.1, form := f }
      let s : State := { tc me id with xops := [o] };
      s.xop 5 = some o ∧ s.grp 0 = some tg ∧ o.slots.find? (fun x => x.j == 0) = some (slot1 none)
      ∧ (∀ y ∈ o.slots, y.res = none) ∧ s.scatterWaits o (slot1 none) = false ∧ (s.resolveRow tg.ctx f o.h 1).2.isOk = p.2)
    ∧ (let o := { tx [slot1 none] true false with form := .scadd }
      let s : State := { tc me id with xops := [o] };
      (s.resolveRow tg.ctx .scadd tl 1).2.toOption = some ((List.range tl.rowElems).map fun i => [(.dram (0x1040 + 16 * i), 4)])
      ∧ tg.cls = 0 ∧ (versioned tg).cls ≠ 0
      ∧ ({ s with xops := [{ o with id := 4 }, o] } : State).scatterWaits o (slot1 none) = true) := by decide +kernel
/-- The hypotheses of replies, the timeout and remote requests: of package 2; from a package that is paired and one that is
not, for the outcome of a first slot and for a row, of a page that is there and one that is not. -/
theorem meets_Remote :
    (∀ o ∈ [tx [slot9 (some 2) none] true false, { tx [slot9 (some 2) none] false false with asked := true }],
      let s : State := { tc me id with xops := [o], clk := 5 };
      s.xop 5 = some o ∧ (o.started = true ∨ o.asked = true) ∧ s.timedOut o = true ∧ ∃ x ∈ o.slots, x.pkg = some 2 ∧ x.cause = none)
    ∧ (∀ first ∈ [true, false], ((tshard []).pairing 0).2.contains (treq 2 0x1000 first).pkg = true
      ∧ ((tshard []).pairing 0).2.contains (treq 3 0x1000 first).pkg = false
      ∧ (((tshard []).pairing 0).1.resolveRow 0 .gather (remoteLayout (treq 2 0x1000 first)) 1).2.isOk = true
      ∧ (((tshard []).pairing 0).1.resolveRow 0 .gather (remoteLayout (treq 2 0x40000000 first)) 1).2.isOk = false) := by
  decide +kernel
/-- The hypotheses of the end of an operation: resolved, and recorded, of every shape of tile, with a validity mask. -/
theorem meets_TransportOperationsProceed :
    (let o := tx [slot1 (some 0), slot9 none (some cIndex)] true false
      let s : State := { ts me id with xops := [o] };
      s.xops.find? (fun o => o.g == 0 && o.w == 0 && !o.recorded) = some o ∧ o.resolved = true
      ∧ (s.waveAt 0 0).isSome = true ∧ o.slots.Pairwise (fun x y => x.j < y.j)
      ∧ ∀ x ∈ o.slots, x.j < 512 ∧ x.cause.getD 0 < 16)
    ∧ (∀ f ∈ [XForm.gather, .scadd, .sum, .score],
      let o := { tx [slot1 (some 0), slot9 none (some cIndex)] true true with form := f, mw := true, nb := 1, starts := [0], topk := 4 }
      let s : State := { ts me handled with xops := [o] };
      s.xop 5 = some o ∧ o.recorded = true ∧ (s.grp o.g).isSome = true ∧ o.bar < 16
      ∧ o.slots.Pairwise (fun x y => x.j < y.j) ∧ ∀ x ∈ o.slots, x.j < 32 * o.n) := by decide +kernel
theorem meets_PooledRowsFollowTheirTable : 3 < (tx [slot1 (some 0)] true false).h.rowElems := by decide +kernel

-- Hypotheses: copies, fetch units, DMA ---------------------------------------------------------------

/-- W1 holds VA 0x3000, W2 a count of 4096 and offset 0: with a barrier object at 4080 the copy out fits. -/
def copying (va : DWord) (b : DWord) (g : Group) : Group := setW 1 va (setW 2 b g)

/-- The hypotheses of the copies: one that runs, with the largest tag count that admits it; a full tag; no active lane;
32 copies queued; a misaligned VA, a count of 0, a count above 1 MiB; a range beyond the scratchpad, one over a barrier
object; no barrier object; and of the tag instructions, with a pending, a ready and no tag in the mask. -/
theorem meets_CopiesIssueAndTagInstructions :
    Meets (ts me (copying 0x3000 0x0000100000000000)) 8 (fun c s => CopyLimits c (.w 1) (.w 2) ∧ CopyRange true c (.w 2)
      ∧ c.gr.pendTag.getD 63 0 < 15 ∧ s.acqPending c.ag = false ∧ c.acting th ≠ []
      ∧ (s.copies.filter fun o => coreOf (agPlace o.ag) == c.core).length < 32)
    ∧ Meets (ts me fun g => split0 (fun x => { x with em := 0 }) (copying 0x3000 0x0000100000000000 (handled g))) 8 (fun c _ =>
      CopyLimits c (.w 1) (.w 2) ∧ CopyRange false c (.w 2) ∧ c.gr.barReady 0 = true ∧ c.acting th = [])
    ∧ Meets (ts me fun g => { copying 0x3000 0x0000100000000000 g with pendTag := g.pendTag.set 63 15 }) 8 (fun c _ =>
      CopyLimits c (.w 1) (.w 2) ∧ CopyRange true c (.w 2) ∧ 15 ≤ c.gr.pendTag.getD 63 0)
    ∧ Meets ({ ts me (copying 0x3000 0x0000100000000000) with
        copies := List.replicate 32 ⟨1, sq, 0, true, 0, 0, 16, 0, none, none, none⟩ }) 8 (fun c s => c.acting th ≠ []
      ∧ 32 ≤ (s.copies.filter fun o => coreOf (agPlace o.ag) == c.core).length)
    ∧ Meets ({ ts me (copying 0x3000 0x0000100000000000) with memops := [acquiring] }) 8 (fun c s =>
      CopyLimits c (.w 1) (.w 2) ∧ CopyRange true c (.w 2) ∧ s.acqPending c.ag = true)
    ∧ (∀ x ∈ [((0x3008 : DWord), (0x0000001000000000 : DWord)), (0x3000, 0), (0x3000, 0x0010001000000000)],
        Meets (ts me (copying x.1 x.2)) 8 fun c _ => ¬ CopyLimits c (.w 1) (.w 2))
    ∧ Meets (ts me (copying 0x3000 0x0000100000000010)) 8 (fun c _ => CopyLimits c (.w 1) (.w 2) ∧ ¬ CopyRange false c (.w 2))
    ∧ Meets (ts me fun g => copying 0x3000 0x0000100000000000 (handled g)) 8 (fun c _ => CopyLimits c (.w 1) (.w 2)
      ∧ ¬ CopyRange true c (.w 2))
    ∧ Meets (ts me (copying 0x3000 0x0000001000000000)) 8 (fun c _ => CopyLimits c (.w 1) (.w 2) ∧ CopyRange true c (.w 2)
      ∧ c.gr.barReady 15 = false)
    ∧ Meets (ts me fun g => { setW 1 0xffffffffffffffff g with pendTag := g.pendTag.set 63 1 }) 8 (fun c _ =>
      (c.gr.ctb &&& c.scalar (.w 1)) = 0 ∧ ∃ t < 64, bit (c.scalar (.w 1)) t = true ∧ 0 < c.gr.pendTag.getD t 0)
    ∧ Meets (ts me fun g => { setW 1 0x8000000000000000 g with ctb := 0x8000000000000000 }) 8 (fun c _ =>
      (c.gr.ctb &&& c.scalar (.w 1)) ≠ 0 ∧ (¬ ∃ t < 64, bit (c.scalar (.w 1)) t = true ∧ 0 < c.gr.pendTag.getD t 0)
      ∧ c.acting th ≠ [] ∧ (∀ k < 63, k < 64 → bit (c.gr.ctb &&& c.scalar (.w 1)) k = false)
      ∧ bit (c.gr.ctb &&& c.scalar (.w 1)) 63 = true)
    ∧ Meets (ts me id) 8 (fun c _ => ∀ k < 64, k < 64 → bit (c.gr.ctb &&& c.scalar (.w 1)) k = false) := by
  unfold CopyLimits CopyRange
  refine ⟨meets (by decide +kernel), meets (by decide +kernel), meets (by decide +kernel), meets (by decide +kernel),
    meets (by decide +kernel), ?_, meets (by decide +kernel), meets (by decide +kernel), meets (by decide +kernel),
    meets (by decide +kernel), meets (by decide +kernel), meets (by decide +kernel)⟩
  intro x hx
  simp only [List.mem_cons, List.not_mem_nil, or_false] at hx
  rcases hx with rfl | rfl | rfl <;> exact meets (by decide +kernel)

/-- A copy of 32 bytes at VA 0x3000, before and after its translation. -/
def tcopy (inn : Bool) (us : Option (List Tgt)) : CopyOp := ⟨4, me, 0, inn, 3, 0x3000, 32, 64, none, none, us⟩

/-- The hypotheses of CopiesMoveTheirBytes: a copy whose page resolves, one whose page is not present, one whose page
may not be read; and one that is complete, in each direction, to DRAM and to system space, of an unversioned and a
versioned group. -/
theorem meets_CopiesMoveTheirBytes :
    (let s : State := { tc me id with copies := [tcopy true none] };
      s.copies.find? (fun o => o.id == 4 && o.units.isNone) = some (tcopy true none) ∧ s.grp 0 = some tg
      ∧ decidingFault (refusePieces (copyCheck true) (s.xpieces (coreUnit 0) 0 .rd (pieces 0x3000 32)).2) = none
      ∧ tg.pendTag.getD 3 0 < 15)
    ∧ (let s : State := { ts me id with copies := [tcopy true none] };
      decidingFault (refusePieces (copyCheck true) (s.xpieces (coreUnit 0) 0 .rd (pieces 0x3000 32)).2)
        = some (cNotPresent, 0x3000))
    ∧ (let s : State := { tc me id with copies := [tcopy true none], mem := [(0x10001, 0x10), (0x10002, 0x01), (0x10007, 0x10),
          (0x11000, 0x98), (0x11007, 0x20)] };
      decidingFault (refusePieces (copyCheck true) (s.xpieces (coreUnit 0) 0 .rd (pieces 0x3000 32)).2)
        = some (cProtection, 0x3000))
    ∧ ∀ inn ∈ [true, false], let o := tcopy inn (some [.dram 0x3000, .dram 0x3010]);
      let s : State := { tc me id with copies := [o] };
      s.copies.find? (fun o => o.id == 4) = some o ∧ o.units = some [.dram 0x3000, .dram 0x3010] ∧ s.grp 0 = some tg ∧ tg.cls = 0
      ∧ (versioned tg).cls ≠ 0
      ∧ ({ tc me versioned with copies := [o] } : State).poolStalls 0 (versioned tg) [(.dram 0x3000, 16), (.dram 0x3010, 16)] = false
      ∧ (tcopy false (some [.sys 0, .dram 0])).units = some [.sys 0, .dram 0] := by
  decide +kernel

/-- A fibre tensor: the layout with a row-pointer side array at VA 0x2000. -/
def tf : Layout := { tl with sideKind := 3, sideVa := 0x2000, sideBytes := 36, strict := true }
def fibred (a : DWord) (g : Group) : Group := setW 1 a { g with handles := g.handles.set 2 (some tf) }
/-- The state with page tables, and pointer 5 of row 0 above pointer 0 of row 1. -/
def tdown (f : Group → Group) : State := { tc me f with mem := (0x2000, 5) :: tmem }

/-- The hypotheses of hfetch, hfetch.pf and fibld: reached elements, no active lane, a refused handle, a coordinate out
of range, a fault; a fibre, one with its pointers the wrong way under STRICT and without it, a row out of range, no active
lane, a length asked for at a position that is not 0; an acquire to come. -/
theorem meets_FetchUnitsServeTheirLanes :
    Meets (tc me fun g => setW 1 0x0000000700000000 (handled g)) 8 (fun c s => Served [(.v 5, .w32)] [] c
      ∧ fetchRefuses 0 (c.gr.handle 2) = some tl ∧ c.acting th ≠ [] ∧ s.acqPending c.ag = false
      ∧ (c.scalar (.w 1)).toNat / 2 ^ 32 < tl.rows
      ∧ (c.scalar (.w 1)).toNat % 2 ^ 32 % fetchN 0 = 0 ∧ (c.scalar (.w 1)).toNat % 2 ^ 32 < tl.rowElems
      ∧ (s.blockCodes c.g c.gr.ctx tl 7 0 32).2.isOk = true)
    ∧ Meets (ts me fun g => setW 1 0x0000000700000000 (handled g)) 8 (fun c s => fetchRefuses 0 (c.gr.handle 2) = some tl
      ∧ c.acting th ≠ [] ∧ (s.blockCodes c.g c.gr.ctx tl 7 0 32).2.isOk = false)
    ∧ Meets (ts me fun g => split0 (fun x => { x with em := 0 }) (handled g)) 8 (fun c _ =>
      fetchRefuses 0 (c.gr.handle 2) = some tl ∧ c.acting th = [])
    ∧ Meets (ts me handled) 8 (fun c _ => Served [(.v 5, .w32)] [] c ∧ fetchRefuses 0 (c.gr.handle 3) = none
      ∧ fetchRefuses 2 (c.gr.handle 2) = none)
    ∧ (∀ x ∈ [(0x0000000800000000 : DWord), 0x0000000000000004], Meets (ts me fun g => setW 1 x (handled g)) 8 fun c _ =>
      tl.rows ≤ (c.scalar (.w 1)).toNat / 2 ^ 32 ∨ (c.scalar (.w 1)).toNat % 2 ^ 32 % fetchN 0 ≠ 0)
    ∧ Meets (tc me (fibred 0x0000000700000000)) 8 (fun c s => Served [(.v 5, .w32)] [] c ∧ fibRefuses 0 (c.gr.handle 2) = some tf
      ∧ c.acting th ≠ [] ∧ tf.rowOut 7 = false ∧ (s.rowPtrs c.g c.gr.ctx tf 7).2.toOption = some (0, 0)
      ∧ ((s.rowPtrs c.g c.gr.ctx tf 7).1.schedTaken c.g 2 7 |>.fetchElems c.g c.gr.ctx .fennel tf []).2.isOk = true)
    ∧ Meets (tdown (fibred 0)) 8 (fun c s => fibRefuses 0 (c.gr.handle 2) = some tf ∧ tf.rowOut 0 = false
      ∧ (s.rowPtrs c.g c.gr.ctx tf 0).2.toOption = some (5, 0) ∧ tf.strict = true)
    ∧ Meets (tc me (fibred 0x0000000800000000)) 8 (fun c _ => fibRefuses 0 (c.gr.handle 2) = some tf ∧ c.acting th ≠ []
      ∧ tf.rowOut 8 = true)
    ∧ Meets (tdown fun g => { g with handles := g.handles.set 2 (some { tf with strict := false }) }) 8 (fun c s =>
      fibRefuses 0 (c.gr.handle 2) = some { tf with strict := false } ∧ c.acting th ≠ []
      ∧ (s.rowPtrs c.g c.gr.ctx { tf with strict := false } 0).2.toOption = some (5, 0)
      ∧ ((((s.rowPtrs c.g c.gr.ctx { tf with strict := false } 0).1.rowNeg c.g).schedTaken c.g 2 0).fetchElems c.g c.gr.ctx .fennel
          { tf with strict := false } []).2.isOk = true)
    ∧ Meets (tc me fun g => split0 (fun x => { x with em := 0 }) (fibred 1 g)) 8 (fun c _ =>
      fibRefuses 0 (c.gr.handle 2) = some tf ∧ c.acting th = [] ∧ fibRefuses 0 (c.gr.handle 3) = none
      ∧ fibRefuses 2 (c.gr.handle 2) = some tf ∧ (c.scalar (.w 1)).toNat % 2 ^ 32 ≠ 0)
    ∧ Meets ({ tc me (fibred 0) with memops := [acquiring] }) 8 (fun c s => Served [(.v 5, .w32)] [] c
      ∧ fibRefuses 0 (c.gr.handle 2) = some tf ∧ c.acting th ≠ [] ∧ s.acqPending c.ag = true) := by
  unfold Served
  refine ⟨meets (by decide +kernel), meets (by decide +kernel), meets (by decide +kernel), meets (by decide +kernel), ?_,
    meets (by decide +kernel), meets (by decide +kernel), meets (by decide +kernel), meets (by decide +kernel),
    meets (by decide +kernel), meets (by decide +kernel)⟩
  intro x hx
  simp only [List.mem_cons, List.not_mem_nil, or_false] at hx
  rcases hx with rfl | rfl <;> exact meets (by decide +kernel)

/-- The hypotheses of rowscan (65,536 rows, indexed by a list of integers), fibinv, mdld, the completions, and a scan. -/
theorem meets_FetchEngines :
    Meets (ts sq fun g => setG 2 65536 { g with handles := (g.handles.set 2 (some tf)).set 3 (some { tf with etype := 5 }) }) 8
      (fun c _ => 0 < (c.scalar (.g 2)).toNat ∧ (c.scalar (.g 2)).toNat ≤ 65536 ∧ c.gr.handle 3 = some { tf with etype := 5 }
        ∧ tf.sideKind = 3 ∧ ({ tf with etype := 5 } : Layout).etype = 5 ∧ c.gr.handle 2 = some tf)
    ∧ Meets (tc sq fun g => setG 1 3 { g with handles := g.handles.set 2 (some { tf with sideKind := 1 }) }) 8 (fun c s =>
      c.gr.handle 2 = some { tf with sideKind := 1 } ∧ 8 * (c.scalar (.g 1)).toNat + 8 ≤ ({ tf with sideKind := 1 } : Layout).sideBytes
        ∧ (s.cachedVa c.g c.gr.ctx .metadata (0x2000 + 8 * 3) 8).2.isOk = true) := by
  exact ⟨meets (by decide +kernel), meets (by decide +kernel)⟩
theorem meets_FetchEvents :
    (∀ k ∈ [OpKind.ready 1, .ready 2], let o := op k (some (.v 5));
      (withOp o).memops.find? (fun o => o.id == 0) = some o ∧ o.size = 4 ∧ (∃ x ∈ o.lanes, bit (0x80000000 : BitVec 32) x.lane = true)
        ∧ ∀ y ∈ o.lanes, bit (0x80000000 : BitVec 32) y.lane = true → earlierClash (withOp o).memops o y = false)
    ∧ (let s := ts me fun g => { g with scan := [(2, 7, 1, none)] };
      (s.grp 0).map Group.scan = some [(2, 7, 1, none)]) := by decide +kernel

/-- The control word of a DMA command of 4096 bytes on channel ch, or on any. -/
def dctl (ch : Nat) (any : Bool) : DWord := BitVec.ofNat 64 (4096 + ch * 2 ^ 49 + if any then 2 ^ 54 else 0)
def dmaing (d a e : DWord) (g : Group) : Group := setG 1 d (setG 2 a (setG 3 e g))
def tdma (n : Nat) : DmaCmd := ⟨0, 0, 0, 0, n, true, 0x3ff8, 0x0807060504030201, 16, 0, none, none, 0, none⟩

/-- The hypotheses of the DMA commands: on channel 31, on any with channel 0 busier, with no barrier object, with a
reserved bit and with ranges that overlap; of dma.stat: queued, done, older than 256, not given out; of a chunk, which
ends at a 4 KiB boundary, and of a command that is complete. -/
theorem meets_DmaChannelsRunTheirCommands :
    Meets (ts sq (dmaing 0x3000 0x4000 (dctl 31 false))) 8 (fun c s => DmaOk false c s (.g 1) (.g 2) (.g 3)
      ∧ (s.chan 31).q.length < 64 ∧ s.acqPending c.ag = false ∧ c.gr.versioned = false ∧ (dmaCtl (c.scalar (.g 3))).ch = 31
      ∧ (dmaCtl (c.scalar (.g 3))).bv = false)
    ∧ Meets (ts sq fun g => dmaing 0x3000 0x4000 (dctl 31 false) { g with cls := 1, seq := { g.seq with fresh := false } }) 8 (fun c s =>
      DmaOk false c s (.g 1) (.g 2) (.g 3) ∧ (dmaCtl (c.scalar (.g 3))).bv = false ∧ (dmaCtl (c.scalar (.g 3))).anyCh = false
      ∧ (s.chan 31).q.length < 64 ∧ s.acqPending c.ag = false ∧ c.gr.versioned = true
      ∧ c.before.writesDone c.g = true ∧ c.before.noReplay c.g = true)
    ∧ Meets ({ ts sq (dmaing 0x3000 0x4000 (dctl 31 false)) with dma := [(31, ⟨List.replicate 64 (tdma 0), 64, []⟩)] }) 8 (fun c s =>
      DmaOk false c s (.g 1) (.g 2) (.g 3) ∧ 64 ≤ (s.chan 31).q.length)
    ∧ Meets ({ ts sq (dmaing 0x3000 0x4000 (dctl 0 true)) with dma := [(0, ⟨[tdma 0], 1, []⟩)] }) 8 (fun c s =>
      DmaOk true c s (.g 1) (.g 2) (.g 3) ∧ (dmaCtl (c.scalar (.g 3))).anyCh = true ∧ s.pkg.chanLive 1 = true
        ∧ (∀ k < 32, s.pkg.chanLive k = true → (s.chan 1).q.length ≤ (s.chan k).q.length)
        ∧ ∀ k < 1, s.pkg.chanLive k = true → (s.chan 1).q.length < (s.chan k).q.length)
    ∧ Meets (ts sq (dmaing 0x3000 0x4000 (dctl 0 false ||| 0x0180000000000000 &&& ~~~0x0100000000000000))) 8 (fun c s =>
      DmaOk false c s (.g 1) (.g 2) (.g 3) ∧ (dmaCtl (c.scalar (.g 3))).bv = true
        ∧ c.gr.barReady (dmaCtl (c.scalar (.g 3))).bo = false)
    ∧ Meets (ts sq (dmaing 0x3000 0x4000 0x1000000000001000)) 8 (fun c s => ¬ DmaOk false c s (.g 1) (.g 2) (.g 3))
    ∧ Meets (ts sq (dmaing 0x3000 0x3fff (dctl 0 false))) 8 (fun c s => ¬ DmaOk false c s (.g 1) (.g 2) (.g 3))
    ∧ Meets ({ ts sq (setG 1 0x0001000000000000) with dma := [(1, ⟨[tdma 0], 1, []⟩)] }) 8 (fun c s =>
      (c.scalar (.g 1)).toNat / 2 ^ 48 < 32 ∧ 0 < (s.chan 1).next ∧ (s.chan 1).next - 0 ≤ 256
        ∧ (s.chan 1).q.find? (fun m => m.seq == 0) = some (tdma 0))
    ∧ Meets ({ ts sq (setG 1 0x0001000000000000) with dma := [(1, ⟨[], 256, [(0, 0, 16)]⟩)] }) 8 (fun _ s =>
      (s.chan 1).next - 0 ≤ 256 ∧ (s.chan 1).q.find? (fun m => m.seq == 0) = none
        ∧ (s.chan 1).hist.find? (fun z => z.1 == 0) = some (0, 0, 16))
    ∧ Meets ({ ts sq (setG 1 0x0001000000000000) with dma := [(1, ⟨[], 257, []⟩)] }) 8 (fun _ s => 256 < (s.chan 1).next - 0)
    ∧ Meets (ts sq (setG 1 0x0001000000000000)) 8 (fun c s => (s.chan 1).next ≤ (c.scalar (.g 1)).toNat % 2 ^ 32) := by
  unfold DmaOk
  exact ⟨meets (by decide +kernel), meets (by decide +kernel), meets (by decide +kernel), meets (by decide +kernel), meets (by decide +kernel), meets (by decide +kernel),
    meets (by decide +kernel), meets (by decide +kernel), meets (by decide +kernel), meets (by decide +kernel),
    meets (by decide +kernel)⟩
theorem meets_DmaEvents :
    (let s : State := { tc sq id with dma := [(0, ⟨[tdma 0], 1, []⟩)] };
      (s.chan 0).q = [tdma 0] ∧ min (16 - 0) (4096 - (0x3ff8 + 0) % 4096) = 8
      ∧ decidingFault (refusePieces (fun _ => none) []) = none ∧ pieces 0x3ff8 8 = [(0x3ff8, 8)]
      ∧ (s.xpieces (.engine s.pkg.firstDie) 0 .wr (pieces 0x3ff8 8)).2.map (fun p => (p.1, p.2.1, p.2.2.toOption))
        = [(0x3ff8, 8, some ⟨.dram 0x3ff8, false⟩)] ∧ s.grp 1048576 = none)
    ∧ (let s : State := { ts sq id with dma := [(0, ⟨[{ tdma 0 with bytes := 16 }], 1, []⟩)] };
      (s.chan 0).q = [{ tdma 0 with bytes := 16 }] ∧ ({ tdma 0 with bytes := 16 } : DmaCmd).len ≤ 16)
    ∧ (let m := { tdma 0 with g := 0, bar := some 0 }; let s : State := { ts sq handled with dma := [(0, ⟨[m], 1, []⟩)] };
      s.owns m = true ∧ (s.grp m.g).isSome = true ∧ s.owns { m with index := 1 } = false)
    ∧ (let s : State := { ts sq id with dma := [(0, ⟨[tdma 0], 1, []⟩)] };
      decidingFault (dmaPieces true (refusePieces (fun _ => none)
        (s.xpieces (.engine s.pkg.firstDie) 0 .wr (pieces 0x3ff8 8)).2)) = some (cNotPresent, 0x3ff8)) := by decide +kernel

-- Hypotheses: the matrix engine -----------------------------------------------------------------------

/-- The three words of a tile of 64 by 64 elements of type 1, pitch 64, at offset 0, and the tile. -/
def tw : DWord := 0x0040400040000000
def t64 : Tile := ⟨64, 64, 64, 0, 0, 0, 1, 0, 0, 0⟩
def tiled (x : Tile) (g : Group) : Group := { g with tiles := g.tiles.set 2 x }
/-- Plane 0 as the issued commands leave it: 64 by 64 of type 1. -/
def planed (p : PlaneInfo) (g : Group) : Group := tiled t64 { g with isPlanes := [some p, none] }
def mcmd (k : MKind) : MCmd := ⟨k, none, 0, false⟩

/-- The hypotheses of tcfg (the greatest tile, and a tile of no rows), mpset (64 and 65), and of the commands of the queue,
with a full queue, the last accumulator and the first beyond, an unset tile, a tile beyond the scratchpad, and
a barrier object that is there and one that is not. -/
theorem meets_MatrixMovesAndSettings :
    Meets (ts sq fun g => setG 1 tw (setG 2 0x00010000 g)) 8 (fun c _ =>
      (c.gOr0 (.g 1)).toNat = tw.toNat ∧ (c.gOr0 (.g 2)).toNat = 0x00010000 ∧ (c.gOr0 .zero).toNat = 0)
    ∧ TileOk tw.toNat 0x00010000 0 ∧ ¬ TileOk 0x0000400040000000 0x00010000 0
    ∧ Meets (ts sq fun g => setG 1 0x0000400040000000 (setG 2 0x00010000 g)) 8 (fun c _ =>
      (c.gOr0 (.g 1)).toNat = 0x0000400040000000 ∧ (c.gOr0 (.g 2)).toNat = 0x00010000 ∧ (c.gOr0 .zero).toNat = 0)
    ∧ Meets (ts sq (setG 1 64)) 8 (fun c _ => true = false ∨ (c.gOr0 (.g 1)).toNat ≤ 64)
    ∧ Meets (ts sq (setG 1 65)) 8 (fun c _ => 64 < (c.gOr0 (.g 1)).toNat)
    ∧ Meets (ts sq fun g => { g with mq := List.replicate 15 (mcmd .mswap) }) 8 (fun c s => QueueFree c s
      ∧ (0 : Nat) < c.gr.va.acc ∧ c.gr.va.acc ≤ 1)
    ∧ Meets (ts sq fun g => { g with mq := List.replicate 16 (mcmd .mswap) }) 8 (fun c s => ¬ QueueFree c s)
    ∧ Meets ({ ts sq id with memops := [{ acquiring with ag := sq }] }) 8 (fun c s => ¬ QueueFree c s)
    ∧ Meets (ts sq (tiled t64)) 8 (fun c _ => TileFits c 2 true t64 ∧ t64.sp ≠ 1 ∧ c.gr.tile (3 : BitVec 4).toNat = none)
    ∧ Meets (ts sq (tiled { t64 with base := 16 })) 8 (fun c _ => c.gr.tile (2 : BitVec 4).toNat = some { t64 with base := 16 }
      ∧ (c.gr.va.spad < ({ t64 with base := 16 } : Tile).base + ({ t64 with base := 16 } : Tile).extent
        ∨ c.gr.meetsBar 16 ({ t64 with base := 16 } : Tile).extent = true))
    ∧ Meets (ts sq fun g => setG 1 0xffffffff (handled g)) 8 (fun c _ => (c.gOr0 (.g 1)).toNat < 2 ^ 32 ∧ c.gr.barReady 0 = true
      ∧ c.gr.barReady 15 = false) := by
  unfold TileOk TileFits QueueFree
  dsimp only
  refine ⟨meets (by decide +kernel), by and_intros <;> decide, fun h => absurd h.2.2.2.2.1 (by decide), meets (by decide +kernel),
    meets (by decide +kernel), meets (by decide +kernel), meets (by decide +kernel), meets (by decide +kernel), meets (by decide +kernel),
    meets (by decide +kernel), meets (by decide +kernel), meets (by decide +kernel)⟩

/-- The hypotheses of tload (pages there, and not present), of the weight loads with a scale vector, and of a pass with
its checks passed; of their traps at an accumulator beyond the variant's, at an unset tile, at element type 5, at a
reserved descriptor bit, without weights, and at a plane of another family. -/
theorem meets_MatrixPassesAndLoadsQueue :
    Meets (tc sq fun g => setG 1 0x3000 (setG 2 64 (tiled t64 g))) 8 (fun c s => TileFits c 2 true t64
      ∧ (c.gOr0 (.g 1)).toNat % 16 = 0 ∧ (c.gOr0 (.g 2)).toNat % 16 = 0
      ∧ decidingFault (refusePieces (copyCheck true) (s.xpieces (coreUnit c.g) c.gr.ctx .rd
        ((tileRows t64 (c.gOr0 (.g 1)) (c.gOr0 (.g 2))).flatMap fun p => pieces p.2 t64.rowBytes)).2) = none)
    ∧ Meets (ts sq fun g => setG 1 0x3000 (setG 2 64 (tiled t64 g))) 8 (fun c s => TileFits c 2 false t64
      ∧ decidingFault (refusePieces (copyCheck false) (s.xpieces (coreUnit c.g) c.gr.ctx .wr
        ((tileRows t64 (c.gOr0 (.g 1)) (c.gOr0 (.g 2))).flatMap fun p => pieces p.2 t64.rowBytes)).2) = some (cNotPresent, 0x3000))
    ∧ Meets (tsys sq fun g => setG 1 0x3000 (setG 2 64 (tiled t64 { g with cls := 1, seq := { g.seq with fresh := false } }))) 8 (fun c s =>
      TileFits c 2 false t64 ∧ QueueFree c s
      ∧ decidingFault (refusePieces (copyCheck false) (s.xpieces (coreUnit c.g) c.gr.ctx .wr
        ((tileRows t64 (c.gOr0 (.g 1)) (c.gOr0 (.g 2))).flatMap fun p => pieces p.2 t64.rowBytes)).2) = none
      ∧ c.gr.versioned = true ∧ (unitsOf (refusePieces (copyCheck false) (s.xpieces (coreUnit c.g) c.gr.ctx .wr
        ((tileRows t64 (c.gOr0 (.g 1)) (c.gOr0 (.g 2))).flatMap fun p => pieces p.2 t64.rowBytes)).2)).any Tgt.isSys = true
      ∧ c.before.writesDone c.g = true ∧ c.before.noReplay c.g = true)
    ∧ Meets (ts sq fun g => setG 1 3840 (tiled t64 g)) 8 (fun c _ => TileFits c 2 false t64 ∧ t64.etype ≠ 5 ∧ t64.sp = 0
      ∧ (c.gOr0 (.g 1)).toNat < 2 ^ 21 ∧ (c.gOr0 (.g 1)).toNat % 4 = 0 ∧ (c.gOr0 (.g 1)).toNat + 4 * t64.rows ≤ c.gr.va.spad
      ∧ c.gr.tile (3 : BitVec 4).toNat = none)
    ∧ Meets (ts sq (tiled { t64 with etype := 5, cols := 16 })) 8 (fun c _ =>
      c.gr.tile (2 : BitVec 4).toNat = some { t64 with etype := 5, cols := 16 })
    ∧ Meets (ts sq (planed ⟨64, 64, 1, 0⟩)) 8 (fun c _ => (0 : Nat) < c.gr.va.acc ∧ TileFits c 2 false t64 ∧ t64.cols ≤ famK .i8
      ∧ c.gr.isPlanes.getD c.gr.isActive none = some ⟨64, 64, 1, 0⟩ ∧ (64 : Nat) ≤ famK .i8 ∧ famAdmits .i8 1 0
      ∧ (c.gOr0 .zero).toNat / 2 ^ 53 % 2 ^ 10 = 0 ∧ (c.gOr0 .zero).toNat / 2 ^ 24 % 2 ^ 8 = 0
      ∧ (c.gOr0 .zero).toNat / 65536 % 256 = 0 ∧ BitVec.ofNat 16 (c.gOr0 .zero).toNat = 0)
    ∧ Meets (ts sq (planed ⟨64, 64, 1, 0⟩)) 8 (fun c _ => c.gr.va.acc ≤ 1 ∧ c.gr.tile (3 : BitVec 4).toNat = none
      ∧ famK .bf16 < t64.cols ∧ ¬ famAdmits .bf16 1 0)
    ∧ Meets (ts sq fun g => setG 1 0x01000000 (planed ⟨64, 64, 1, 0⟩ g)) 8 (fun c _ => (c.gOr0 (.g 1)).toNat / 2 ^ 24 % 2 ^ 8 ≠ 0)
    ∧ Meets (ts sq (tiled t64)) 8 (fun c _ => c.gr.isPlanes.getD c.gr.isActive none = none) := by
  unfold TileFits famAdmits QueueFree
  dsimp only
  exact ⟨meets (by decide +kernel), meets (by decide +kernel), meets (by decide +kernel), meets (by decide +kernel), meets (by decide +kernel),
    meets (by decide +kernel), meets (by decide +kernel), meets (by decide +kernel), meets (by decide +kernel)⟩

/-- A pass on accumulator 0 with the weights of plane 0, and a tile of one block of MX. -/
def tpass : MKind := .mmac Fam.i8.num 0 t64 1 1 1 false 0 none 0 0 [] none
def tmx : Tile := { t64 with rows := 2, cols := 32, pitch := 32, etype := 0x32 }
/-- The hypotheses of MatrixCommandsTakeEffect: for each kind of command, a queue in which it is the next, also of a
versioned group; a swap before the end of a pass; a pass that ends before an earlier one on its tile, and the earlier one
then. -/
theorem meets_MatrixCommandsTakeEffect :
    (∀ k ∈ [MKind.mzero 0, .mcvt 0 0 1 1 0, .mload 0 t64 1 1, tpass,
        .mwload t64 none 1 [] none, .mwload t64 (some 0) 1 [] none, .mwload tmx none 1 [] none, .tzero t64, .tzero tmx,
        .tload [(0, .dram 0x3000), (16, .dram 0x3010)] (some (0, 32)),
        .tstore [(0, .dram 0x3000), (16, .dram 0x3010)] (some (0, 32)) [], .tstore [(0, .sys 0)] none [], .mstore t64 0 1 1,
        .mstore tmx 0 1 1, .marrive 0 5, .mflags 63 true false, .mflags 63 true true, .mswap],
      ∀ cls ∈ [0, 1],
      let gr := { planed ⟨64, 64, 1, 0⟩ tg with mq := [mcmd k], planes := [some ⟨64, 64, 1, 0, []⟩, none], cls := cls };
      let s : State := { ts sq id with groups := [(0, gr)] }
      s.grp 0 = some gr ∧ gr.nextDone s.clk (s.tileStalls 0 gr) = some (0, mcmd k))
    ∧ ({ tg with mq := [⟨tpass, none, 9, false⟩, mcmd .mswap] } : Group).nextDone 0 (fun _ => false) = some (1, mcmd .mswap)
    ∧ (let gr := { tg with mq := [⟨tpass, none, 9, false⟩, ⟨tpass, none, 5, false⟩] }
      gr.nextDone 5 (fun _ => false) = some (1, ⟨tpass, none, 5, false⟩)
      ∧ ((gr.runAt 1 ⟨tpass, none, 5, false⟩).mq.map MCmd.ran) = [true, false])
    ∧ ({ tg with mq := [⟨tpass, none, 9, true⟩] } : Group).nextDone 9 (fun _ => false) = some (0, ⟨tpass, none, 9, true⟩)
    ∧ isMx t64.etype = false ∧ isMx tmx.etype = true ∧ t64.rowBytes ≤ t64.pitch ∧ tmx.rowBytes ≤ tmx.pitch
    ∧ t64.sp ≠ 1 ∧ tmx.cols % 32 = 0 ∧ tmx.cols ≤ 64 ∧ tg.meetsBar t64.base t64.extent = false
    ∧ tg.meetsBar tmx.base tmx.extent = false
    ∧ ([(0, .dram 0x3000), (16, .dram 0x3010)] : List (Nat × Tgt)).Pairwise (fun u v => u.1 + 16 ≤ v.1) := by decide +kernel

-- Hypotheses: control, barriers, queues --------------------------------------------------------------

/-- The hypotheses of the transfers: a condition that is set and one that is not, a queue entry, no lane of EM selected,
an indirect target at its greatest value and beyond, odd; a stack of 15 and of 16 returns; a lane-private area with
room for one return and with none; a return site in a lane, odd sites, and an empty stack. -/
theorem meets_TransfersOfControl :
    Meets (ts sq (setG 9 1)) 8 (fun c _ => (c.gr.seq.gAt c.clk 9 != 0) ≠ false ∧ (c.gr.seq.gAt c.clk 9 != 0) = true)
    ∧ Meets (ts me fun g => { g with dq := [7] }) 8 (fun c _ => c.uni = false ∧ (c.dqEntry.toOption = some 7) ∧ ((7 : DWord) != 0) ≠ false)
    ∧ Meets (ts me id) 8 (fun c _ => c.gr.dq[c.wv.dqPos - c.gr.dqFreed]? = none ∧ c.gr.seq.live = true)
    ∧ Meets (ts me (seqr fun q => { q with live := false })) 8 (fun c _ => c.gr.dq[c.wv.dqPos - c.gr.dqFreed]? = none
      ∧ c.gr.seq.live = false ∧ c.gr.entryAt c.wv.dqPos = none)
    ∧ Meets (ts me id) 8 (fun c _ => ∀ l < 32, bit c.spl.em l = true → bit ((c.wv.pAt c.clk 0).select 0) l = false)
    ∧ Meets (ts me id) 8 (fun c _ => ∃ l, l < 32 ∧ bit c.spl.em l = true ∧ bit ((c.wv.pAt c.clk 7).select 0) l = true)
    ∧ Meets (ts sq (setG 1 0xfffffffe)) 8 (fun c _ => (c.scalar (.g 1)).toNat < 2 ^ 32 ∧ (c.scalar (.g 1)).toNat % 2 = 0)
    ∧ Meets (ts sq (setG 1 0x100000000)) 8 (fun c _ => ¬ ((c.scalar (.g 1)).toNat < 2 ^ 32 ∧ (c.scalar (.g 1)).toNat % 2 = 0))
    ∧ Meets (ts sq (setG 1 7)) 8 (fun c _ => ¬ ((c.scalar (.g 1)).toNat < 2 ^ 32 ∧ (c.scalar (.g 1)).toNat % 2 = 0))
    ∧ Meets (ts sq (seqr fun q => { q with rstack := List.replicate 15 4 })) 8 (fun c _ => c.uni = true
      ∧ c.gr.seq.rstack.length < 16 ∧ c.gr.seq.rstack = 4 :: List.replicate 14 4)
    ∧ Meets (ts sq (seqr fun q => { q with rstack := List.replicate 16 4 })) 8 (fun c _ => c.uni = true ∧ 16 ≤ c.gr.seq.rstack.length)
    ∧ Meets (ts me (split0 fun x => { x with depth := 15 })) 8 (fun c _ => c.uni = false ∧ c.spl.depth < 4095
      ∧ 4 * (c.spl.depth + 1) ≤ c.gr.va.lpriv)
    ∧ Meets (ts me (split0 fun x => { x with depth := 16 })) 8 (fun c _ => c.uni = false ∧ c.gr.va.lpriv < 4 * (c.spl.depth + 1))
    ∧ Meets (ts me (split0 fun x => { x with depth := 1 })) 8 (fun c _ => c.uni = false ∧ 0 < c.spl.depth ∧ c.spl.ls ≠ 0
      ∧ ∀ l < 32, bit c.spl.ls l = true → c.site l = 0)
    ∧ Meets (ts me fun g => wave (fun w => { w with lpriv := [(32 * 60 + 31, 1)] }) (split0 (fun x => { x with depth := 1 }) g)) 8
      (fun c _ => bit c.spl.ls 31 = true ∧ c.site 31 % 2 = 1 ∧ ∀ k < 31, bit c.spl.ls k = true → c.site k % 2 = 0)
    ∧ Meets (ts me id) 8 (fun c _ => c.uni = false ∧ c.spl.depth = 0)
    ∧ Meets (ts sq id) 8 (fun c _ => c.uni = true ∧ c.gr.seq.rstack = []) := by
  exact ⟨meets (by decide +kernel), meets (by decide +kernel), meets (by decide +kernel), meets (by decide +kernel),
    meets (by decide +kernel), meets (by decide +kernel), meets (by decide +kernel), meets (by decide +kernel),
    meets (by decide +kernel), meets (by decide +kernel), meets (by decide +kernel), meets (by decide +kernel),
    meets (by decide +kernel), meets (by decide +kernel), meets (by decide +kernel), meets (by decide +kernel),
    meets (by decide +kernel)⟩

/-- The hypotheses of DivisionTakesItsPaths: one path, more paths than free splits with room on the stack, and with
none. -/
theorem meets_DivisionTakesItsPaths :
    let wv := startWave loneGrid 0 tv ⟨0, 0, 0, [0, 1], [0, 1], 0⟩ 0
    wv.splits.length = 4 ∧ (wv.splits[0]?).map Split.live = some true
      ∧ ((([⟨8, 1, true⟩, ⟨16, 0, true⟩] : List Path).filter fun p => p.lanes != 0).map fun p => p.pc) = [8]
      ∧ ((List.range 4).filter fun k => (wv.splits[k]?).any fun x => !x.live) = [1, 2, 3]
      ∧ ((List.range 12).map fun k => (⟨2 * k, BitVec.ofNat 32 (2 ^ k), true⟩ : Path)).length - 1 - 3 ≤ 8 - 0
      ∧ ¬ ((List.range 13).map fun k => (⟨2 * k, BitVec.ofNat 32 (2 ^ k), true⟩ : Path)).length - 1 - 3 ≤ 8 - 0 := by
  decide +kernel

/-- Waiter and deferred entries, and a second split that waits at the join at 0. -/
def ent (n : Nat) : StackEnt := .deferred (2 * n) 1 1 0
def second (k : Nat) (f : Split → Split) (g : Group) : Group :=
  wave (fun w => { w with splits := updAt w.splits k fun x => f { x with live := true, ls := 2, em := 2 } }) g

/-- The hypotheses of the joins and exits: a divergent split and return; a waiter that folds back with a deferred entry
below; the only live split; a join with others running, and with one waiting, with room for the stacks and with none;
splits at joins and barriers alone; an exit with an entry, with a second split, and the last. -/
theorem meets_SplitsJoinsAndExits :
    Meets (ts me id) 8 (fun c t => c.uni = false ∧ (t.waveAt c.g c.w).isSome = true)
    ∧ Meets (ts me fun g => wave (fun w => { w with lpriv := [(32 * 60 + 31, 2)] }) (split0 (fun x => { x with depth := 1 }) g)) 8
      (fun c _ => 0 < c.spl.depth ∧ c.spl.ls = BitVec.allOnes 32 ∧ (∀ l < 31, c.site l = 0) ∧ c.site 31 = 2)
    ∧ Meets (ts me (split0 fun x => { x with stack := [.waiter 0 1 1 0, ent 4] })) 8 (fun c _ => c.uni = false ∧ c.pc = 0
      ∧ c.spl.depth = 0 ∧ c.spl.stack = [.waiter 0 1 1 0] ++ [ent 4])
    ∧ Meets (ts me id) 8 (fun c _ => c.spl.stack = [] ∧ c.wv.liveSplits.length ≤ 1)
    ∧ Meets (ts me (second 3 id)) 8 (fun c _ => c.spl.stack = [] ∧ 2 ≤ c.wv.liveSplits.length
      ∧ (c.wv.splits.all fun o => o.blk == .none) = true)
    ∧ Meets (ts me fun g => second 3 (fun x => { x with blk := .join 0, stack := List.replicate 6 (ent 1) })
        (split0 (fun x => { x with stack := List.replicate 2 (ent 2) }) g)) 8 (fun c _ =>
      (c.wv.splits[3]?).map (fun o => (o.live, o.blk, o.depth, o.stack.length + c.spl.stack.length)) = some (true, .join c.pc, c.spl.depth, 8))
    ∧ Meets (ts me fun g => second 3 (fun x => { x with blk := .join 0, stack := List.replicate 7 (ent 1) })
        (split0 (fun x => { x with stack := List.replicate 2 (ent 2) }) g)) 8 (fun c _ =>
      (c.wv.splits[3]?).map (fun o => (o.live, o.blk, o.depth)) = some (true, .join c.pc, c.spl.depth)
        ∧ (c.wv.splits[3]?).any (fun o => 8 < o.stack.length + c.spl.stack.length) = true)
    ∧ Meets (ts me (split0 fun x => { x with stack := [ent 4] })) 8 (fun c _ => c.spl.stack = ent 4 :: [])
    ∧ Meets (ts sq id) 8 (fun c _ => c.uni = true) := by
  exact ⟨meets (by decide +kernel), meets (by decide +kernel), meets (by decide +kernel), meets (by decide +kernel),
    meets (by decide +kernel), meets (by decide +kernel), meets (by decide +kernel), meets (by decide +kernel),
    meets (by decide +kernel)⟩
theorem meets_JoinRelease :
    let s := ts me fun g => second 3 (fun x => { x with blk := .bar none }) (split0 (fun x => { x with blk := .join 4 }) g)
    ((s.waveAt 0 0).map fun w => (w.splits.any Split.atJoin, (w.splits.filter Split.live).map Split.blk))
      = some (true, [.join 4, .bar none]) := by decide +kernel

/-- A barrier object that expects one arrival, at offset 4080 of the scratchpad. -/
def tb : Barrier := ⟨0, 0, 1, false, 0, 4080⟩
def barred (b : Barrier) (g : Group) : Group := { g with bars := g.bars.set 15 (some b) }
/-- barinit's value: expected bytes 0, arrivals 1, offset o. -/
def initWord (o : Nat) : DWord := BitVec.ofNat 64 (2 ^ 24 + o)

/-- The hypotheses of barinit at the last place of the scratchpad, without an object; a reserved bit and a misaligned
offset; a busy object and a place beyond; of barwait and bararr with the phase differing and not, with no object, and
before the release; of bar, mbar, mjoin, gbar, and the decision queue at 15 and 16 entries. -/
theorem meets_BarrierAndQueueInstructions :
    Meets (ts me (setW 1 (initWord 4080))) 8 (fun c s => initZero c (.w 1) ∧ initSets c (.w 1) ∧ initOfs c (.w 1) % 16 = 0
      ∧ (s.barBusy c.g 15 = false ∧ c.gr.bars.getD 15 none = none)
      ∧ initOfs c (.w 1) + 16 ≤ c.gr.va.spad ∧ (∀ j < 16, c.gr.bars.getD j none = none) ∧ s.destRanges c.g = [])
    ∧ Meets (ts me (barred tb)) 8 (fun c s => initZero c (.w 1) ∧ ¬ initSets c (.w 1) ∧ s.barBusy c.g 15 = false
      ∧ c.gr.bars.getD 15 none = some tb ∧ tb.bytes = 0 ∧ tb.arrivals = 0)
    ∧ Meets (ts me (setW 1 0x1200000)) 8 (fun c _ => ¬ initZero c (.w 1))
    ∧ Meets (ts me (setW 1 (initWord 8))) 8 (fun c _ => initSets c (.w 1) ∧ initOfs c (.w 1) % 16 ≠ 0)
    ∧ Meets (ts me (barred { tb with arrivals := 1, expArrivals := 2 })) 8 (fun c _ => initZero c (.w 1) ∧ ¬ initSets c (.w 1)
      ∧ c.gr.bars.getD 15 none = some { tb with arrivals := 1, expArrivals := 2 })
    ∧ Meets (ts me (setW 1 (initWord 4096))) 8 (fun c _ => initZero c (.w 1) ∧ initSets c (.w 1) ∧ initOfs c (.w 1) % 16 = 0
      ∧ ¬ initOfs c (.w 1) + 16 ≤ c.gr.va.spad)
    ∧ Meets (ts me (barred tb)) 8 (fun c s => c.gr.bars.getD 15 none = some tb ∧ tb.phase = bit (c.scalar (.w 1)) 0
      ∧ s.released c 1 = true ∧ c.gr.bars.getD 14 none = none)
    ∧ Meets (ts me fun g => setW 1 1 (barred tb g)) 8 (fun c _ => c.gr.bars.getD 15 none = some tb ∧ tb.phase ≠ bit (c.scalar (.w 1)) 0)
    ∧ Meets ({ ts me (barred tb) with memops := [op (.ld false 0) none] }) 8 (fun c s =>
      c.gr.barReady 15 = true ∧ c.gr.barS = none ∧ s.released c 1 = false)
    ∧ Meets ({ ts me (barred tb) with memops := [op .st none] }) 8 (fun c s => c.gr.barReady 15 = true ∧ s.released c 1 = true)
    ∧ Meets (ts me fun g => { g with barS := some true }) 8 (fun c s => (c.uni = true → true = true)
      ∧ c.gr.barS = some true ∧ s.released c 1 = true ∧ c.gr.barS = some (!false))
    ∧ Meets (ts sq id) 8 (fun c s => c.uni = true ∧ c.gr.barS = none ∧ s.released c 1 = true ∧ c.gr.dq.length < 16)
    ∧ Meets (ts me fun g => { g with msets := g.msets.set 15 1 }) 8 (fun c s => c.uni = false
      ∧ bit (c.gr.msets.getD 15 0) c.w = true ∧ bit (c.gr.msets.getD 14 0) c.w = false ∧ s.released c 1 = true)
    ∧ Meets ({ ts me id with grids := [{ loneGrid with lrec := { loneGrid.lrec with coop := true } }] }) 8 (fun c s =>
      s.coop c.gr = true ∧ s.released c 4 = true ∧ c.demotes true false = false)
    ∧ Meets ({ withOp (op .st none) with grids := [{ loneGrid with lrec := { loneGrid.lrec with coop := true } }] }) 8 (fun c s =>
      s.coop c.gr = true ∧ c.uni = false ∧ s.released c 4 = false)
    ∧ Meets ({ ts me midTask with grids := [{ loneGrid with lrec := { loneGrid.lrec with coop := true } }] }) 8 (fun c s =>
      s.coop c.gr = true ∧ s.released c 4 = true ∧ c.demotes true false = true
        ∧ c.before.writesDone c.g = true ∧ c.before.noReplay c.g = true)
    ∧ Meets ({ ts me id with grids := [loneGrid] }) 8 (fun c s => s.coop c.gr = false)
    ∧ Meets (ts sq fun g => { g with dq := List.replicate 15 0 }) 8 (fun c _ => c.gr.dq.length < 16)
    ∧ Meets (ts sq fun g => { g with dq := List.replicate 16 0 }) 8 (fun c _ => 16 ≤ c.gr.dq.length) := by
  unfold initZero initSets initOfs
  exact ⟨meets (by decide +kernel), meets (by decide +kernel), meets (by decide +kernel), meets (by decide +kernel), meets (by decide +kernel), meets (by decide +kernel), meets (by decide +kernel),
    meets (by decide +kernel), meets (by decide +kernel), meets (by decide +kernel), meets (by decide +kernel),
    meets (by decide +kernel), meets (by decide +kernel), meets (by decide +kernel), meets (by decide +kernel),
    meets (by decide +kernel), meets (by decide +kernel), meets (by decide +kernel), meets (by decide +kernel)⟩

/-- Every split of both waves waits as b says. -/
def allWaiting (b : Blk) (g : Group) : Group :=
  { g with waves := g.waves.map fun w => { w with splits := w.splits.map fun x => { x with blk := b } },
           seq := { g.seq with blk := b } }
/-- An operand queue bound to the program of 3 entries at VA 0x3000, or with a request. -/
def tqueue : Queue := { Queue.blank with bound := true, cons := 1, total := 3, nin := 3, va := 0x3000, inner := 128 }

/-- The hypotheses of BarriersCompleteForTheirParticipants: for each barrier, a state in which every participant waits
and one in which none does; both values of GO; a push whose page is there, is not, and may not be read. -/
theorem meets_BarriersCompleteForTheirParticipants :
    (let s := ts me fun g => allWaiting (.bar none) { g with barS := some true };
      (s.grp 0).map (fun g => (g.barS, g.waves.all fun w => w.splits.all fun x => x.blk == .bar none, g.seq.blk)) = some (some true, true, .bar none))
    ∧ (let s := ts me fun g => allWaiting (.mbar 3 none) { g with mphase := g.mphase.set 3 (some 3) };
      (s.grp 0).map (fun g => (g.mphase.getD 3 none, g.waves.all fun w => w.splits.all fun x => x.blk == .mbar 3 none)) = some (some 3, true))
    ∧ (let s : State := { ts me (allWaiting (.gbar none)) with grids := [{ loneGrid with next := 1 }] };
      (s.gridOf 0).map (fun x => s.absentGroups x) = some false ∧ (s.groups.all fun y => y.2.isOf loneGrid) = true)
    ∧ (let s := ts me fun g => { g with queues := g.queues.set 7 { tqueue with request := some 0x0000000180001003 } };
      ((((s.grp 0).bind fun g => g.queues[7]?).bind Queue.request).map fun x => bit x 31) = some true)
    ∧ (let s := ts me fun g => { g with queues := g.queues.set 7 { tqueue with request := some 0x0000000100001003 } };
      ((((s.grp 0).bind fun g => g.queues[7]?).bind Queue.request).map fun x => bit x 31) = some false)
    ∧ (let s := tc me fun g => { g with queues := g.queues.set 7 tqueue };
      ((s.grp 0).bind fun g => g.queues[7]?) = some tqueue ∧ tqueue.next < tqueue.total ∧ tqueue.stalled = none
        ∧ tqueue.request = none ∧ tqueue.entries.length < 8
        ∧ (s.readVa (coreUnit 0) 0 (s.grp 0) 0x3000 128).2.isOk = true)
    ∧ (let s := ts me fun g => { g with queues := g.queues.set 7 tqueue };
      (match (s.readVa (coreUnit 0) 0 (s.grp 0) 0x3000 128).2 with | .error e => e == (cNotPresent, 0x3000) | .ok _ => false) = true)
    ∧ (let s : State := { tc me fun g => { g with queues := g.queues.set 7 tqueue } with mem := [(0x10001, 0x10), (0x10002, 0x01),
          (0x10007, 0x10), (0x11000, 0x98), (0x11007, 0x20)] };
      (match (s.readVa (coreUnit 0) 0 (s.grp 0) 0x3000 128).2 with | .error e => e == (cProtection, 0x3000) | .ok _ => false) = true) := by
  decide +kernel

-- Hypotheses: launches and grids -----------------------------------------------------------------------

/-- A kernel object at VA 0x4000 (one variant of one wave, RL 1, a uniform stream of 16 bytes at 0x140, its cue array at
0x150, the signature block at 0x158), a launch record at 0x5000 that names it (one group of one item, seed 1, one slot),
and the page tables. -/
def tkernel : List Host.Cell :=
  [(0x4000, 0x4f), (0x4001, 0x4c), (0x4002, 0x4b), (0x4003, 0x31), (0x4004, 1), (0x4006, 1), (0x4028, 0x58), (0x4029, 1),
    (0x4040, 1), (0x4042, 1), (0x4050, 0x40), (0x4051, 1), (0x4058, 0x10), (0x4068, 0x50), (0x4069, 1)]
def trecord : List Host.Cell :=
  [(0x5000, 1), (0x5002, 1), (0x5009, 0x40), (0x5010, 1), (0x5014, 1), (0x5018, 1), (0x501c, 1), (0x5038, 1)]
def tl1 (r : List Host.Cell) : State := { tc sq id with mem := tkernel ++ r ++ tmem, grids := [loneGrid] }
def tbytes (s : State) : List Byte := memRead s.mem 0x5000 128
/-- A launch in flight of the record at va, a growth by n, and counts of two lanes. -/
def launching (va : Nat) : Req := ⟨7, sq, 0, .launch va false (.g 63) false, none, 0, true⟩
def growing (n : Nat) : Req := ⟨7, sq, 0, .grow n (.g 63) false, none, 0, true⟩
def spawning : Req := ⟨7, me, 0, .spawn [(0, 3), (31, 2)] (.v 5) false, none, 0xffffffff, true⟩

/-- The hypotheses of launch, grow and iv.spawn at issue: the release reached and none recorded, at 65,536 groups and
a count of 1,024 in each lane; counts beyond, 0; no lane active; a cooperative grid; a recorded answer; the release
waited for; a demotion. -/
theorem meets_LaunchesAndGrowth :
    Meets ({ ts sq (setG 1 65536) with grids := [loneGrid] }) 8 (fun c s => MayAsk c s ∧ (c.gr.versioned = true → c.gr.answerFor (ansKey c.ag) = none)
      ∧ s.coop c.gr = false ∧ 1 ≤ (c.scalar (.g 1)).toNat ∧ (c.scalar (.g 1)).toNat ≤ 65536)
    ∧ Meets ({ ts me (setV 6 1024) with grids := [loneGrid] }) 8 (fun c s => MayAsk c s ∧ Served [(.v 5, .w32)] [(.v 6, .w32)] c
      ∧ c.acting th ≠ [] ∧ s.coop c.gr = false ∧ ∀ l ∈ c.acting th, (w32 (c.words extN [(.v 6, .w32)] 0) l).toNat ≤ 1024)
    ∧ Meets ({ ts sq (setG 1 65537) with grids := [loneGrid] }) 8 (fun c s => s.coop c.gr = false
      ∧ ¬ (1 ≤ (c.scalar (.g 1)).toNat ∧ (c.scalar (.g 1)).toNat ≤ 65536))
    ∧ Meets ({ ts me (setV 6 1025) with grids := [loneGrid] }) 8 (fun c s => s.coop c.gr = false ∧ 0 ∈ c.acting th
      ∧ 1024 < (w32 (c.words extN [(.v 6, .w32)] 0) 0).toNat)
    ∧ Meets (ts me (split0 fun x => { x with em := 0 })) 8 (fun c s => s.coop c.gr = false ∧ c.acting th = [])
    ∧ Meets ({ ts sq id with grids := [{ loneGrid with lrec := { loneGrid.lrec with coop := true } }] }) 8 (fun c s => s.coop c.gr = true)
    ∧ Meets (ts sq fun g => { seqr (fun q => { q with fresh := true }) g with cls := 1, replayAns := [(none, [9])] }) 8 (fun c s =>
      MayAsk c s ∧ c.gr.versioned = true ∧ c.gr.answerFor (ansKey c.ag) = some [9])
    ∧ Meets ({ ts sq id with memops := [{ op .st none with ag := sq }] }) 8 (fun c s => s.released c 4 = false)
    ∧ Meets ({ ts me (wave fun w => { w with ivst := 0x200 }) with memops := [{ op (.ld false 0) none with iv := true }] }) 8 (fun c s =>
      Served [(.v 5, .w32)] [(.v 6, .w32)] c ∧ s.ivHolds c = true)
    ∧ Meets ({ ts me midTask with grids := [loneGrid] }) 8 (fun c s => Served [(.v 5, .w32)] [(.v 6, .w32)] c ∧ s.ivHolds c = false
      ∧ s.coop c.gr = false ∧ c.acting th ≠ [] ∧ (∀ l ∈ c.acting th, (w32 (c.words extN [(.v 6, .w32)] 0) l).toNat ≤ 1024)
      ∧ s.released c 4 = true ∧ c.demotes true true = true ∧ c.before.writesDone c.g = true ∧ c.before.noReplay c.g = true)
    ∧ Meets (ts sq fun g => { seqr (fun q => { q with fresh := false }) g with cls := 1 }) 8 (fun c s => s.released c 4 = true
      ∧ c.demotes true true = true)
    ∧ (let s := ts sq fun g => { seqr (fun q => { q with fresh := false }) g with cls := 1 };
      s.writesDone 0 = true ∧ s.noReplay 0 = true) := by
  unfold MayAsk Served
  exact ⟨meets (by decide +kernel), meets (by decide +kernel), meets (by decide +kernel), meets (by decide +kernel),
    meets (by decide +kernel), meets (by decide +kernel), meets (by decide +kernel), meets (by decide +kernel),
    meets (by decide +kernel), meets (by decide +kernel), meets (by decide +kernel), by decide +kernel⟩

/-- The hypotheses of the dispatcher's answers: a record that is not aligned, one that cannot be read, one whose page is
not present, one that is read; each row of the table of R301 from a record that loads a kernel to the reasons 2 and 3;
and of growth, within the limit and beyond. -/
theorem meets_LaunchAnswers :
    (let s : State := { tl1 trecord with reqs := [launching 0x5000] };
      (s.reqs.find? fun r => r.id == 7) = some (launching 0x5000) ∧ (0x5000 : Nat) % 64 = 0 ∧ (0x5001 : Nat) % 64 ≠ 0
      ∧ (s.devRead 0 0x5000 128).2.isOk = true
      ∧ (match (s.devRead 0 0x40000000 128).2 with | .error e => e == (cNotPresent, 0x40000000) | .ok _ => false) = true
      ∧ (match (s.devRead 0 0xffff00000000 128).2 with | .error e => e.1 != cNotPresent | .ok _ => false) = true)
    ∧ (let s := tl1 trecord;
      (s.context 0).isSome = true ∧ (s.handleList 0 (tbytes s)).2 = some [] ∧ launchLimits (tbytes s) = true
      ∧ (launchRecord (tbytes s) []).mask &&& s.pkg.livec ≠ 0
      ∧ (s.loadKernel 0 (launchRecord (tbytes s) []).kernel).2.isSome = true ∧ s.grids.length < 1024
      ∧ LaunchBy.launch.wrongRec (launchRecord (tbytes s) []).isRec = false
      ∧ LaunchBy.launchRec.wrongRec (launchRecord (tbytes s) []).isRec = true)
    ∧ (let s := tl1 (trecord.eraseIdx 6);
      launchLimits (tbytes s) = false)
    ∧ (let s := tl1 (trecord.eraseIdx 1);
      launchLimits (tbytes s) = true ∧ (launchRecord (tbytes s) []).mask &&& s.pkg.livec = 0)
    ∧ (let s : State := { tc sq id with mem := trecord ++ tmem };
      (s.loadKernel 0 0x4000).2 = none)
    ∧ (let s := tl1 ((0x5004, 1) :: (0x5028, 1) :: trecord);
      (s.handleList 0 ([0, 0, 0, 0, 1] ++ List.replicate 35 0 ++ [1] ++ List.replicate 87 0)).2 = none)
    ∧ (∀ r ∈ [growing 1, spawning], let s : State := { ts me id with reqs := [r], grids := [{ loneGrid with count := 4, lrec := { loneGrid.lrec with limit := 5 } }] };
      (s.reqs.find? fun r => r.id == 7) = some r ∧ (s.grp (agPlace r.ag)).isSome = true
        ∧ (s.gridOf (gridKey 0 0)).map (fun x => (x.count, x.lrec.limit)) = some (4, 5)) := by decide +kernel

/-- A context whose launch cell is at VA 0x40000000, on a system page; memory in which that page is system offset 0. -/
def tcell : State :=
  { tc sq id with ctxs := [(0, { tcx with cell := 0x40000000, cellDue := true })], sys := [(0x80, 1)], mem := [(0x10001, 0x10), (0x10002, 0x01), (0x10007, 0x10), (0x11000, 0xd8), (0x11007, 0x20), (0x11008, 0xd8), (0x1100f, 0x50)] }
/-- A grid of one group of the kernel of tkernel, waiting at die 0 or with the dispatcher. -/
def tgrid : Grid := { loneGrid with ctx := 0, kobj := ⟨0x4000, 0, [⟨1, 1, 0, 0, 0, 0, 0x140, 16, 0, 0, 0x150, 0, 0, []⟩], []⟩,
                                    mask := 1, count := 1, next := 0, live := 0, usedSlots := [], lrec := { loneGrid.lrec with slots := 1 } }

/-- A continuation of group index 0 from its start, free to place or held. -/
def tcont (hold n : Nat) : Cont := ⟨0, 0, 0, Ckpt.start (List.replicate 32 none), false, n, [], hold, none, []⟩

/-- The hypotheses of GridsAreDispatchedPlacedAndRetired on launch cells and on what is handed out: a cell that is due with a
new SEQ, over CXL and over PCIe; a batch of a continuation; a redundant group that waits on die 0 with two places, and a
handle that does not bind; and a row whose page is not present. -/
theorem meets_LaunchCellsAndBatches :
    (tcell.context 0).map (fun c => (c.cell, c.cellDue, c.lastSeq)) = some (0x40000000, true, none)
    ∧ (tcell.cellAt 0 0x40000000).2.toOption = some 0 ∧ leVal (memRead tcell.sys 0x80 8) = 1
    ∧ (let s : State := { tcell with pkg := { State.reset.pkg with hostCxl := [false, false] } };
      (s.cellAt 0 0x40000000).1.pkg.hostCxl.getD (sysPort 0) false = false
        ∧ tcell.pkg.hostCxl.getD (sysPort 0) false = true ∧ tcx.lastPoll + 65536 ≤ ({ s with clk := 65536 } : State).clk)
    ∧ (let x : Grid := { tgrid with next := 1, live := 1, conts := [tcont 0 0] }
      let s : State := { tc sq id with mem := tkernel ++ tmem, groups := [], issuing := none, grids := [x] };
      s.nextGrid.map (fun y => (y.1.key, y.2)) = some (0, 0) ∧ x.conts.find? Cont.free = some (tcont 0 0) ∧ 1 ≤ s.batchRoom x 0)
    ∧ (let x : Grid := { tgrid with next := 1, live := 1, lrec := { tgrid.lrec with cls := 2, handles := [0x3008] } }
      let s : State := { tc sq id with mem := tkernel ++ tmem, groups := [], issuing := none, grids := [x], dies := [(0, ⟨[(0, 0)], []⟩)] };
      (s.pairOn 0 (wantOf x none [])).map (fun p => (64 * p.1.core + p.1.slot == 64 * p.2.core + p.2.slot, p.1.varNo, p.2.varNo))
        = some (false, 0, 0)
      ∧ ((s.bindHandles 0 x.lrec.handles).2.map fun h => match h with | .ok _ => false | .error f => f == .record) = [true])
    ∧ (let s : State := { ts sq id with ctxs := [(0, tcx)] }; (s.readAll 0 0x4000 [(0x140, 16), (0x150, 1)]).2.isOk = false) := by
  decide +kernel
/-- The others: a grid with work and its batch of one for die 0; a group that waits there with a slot and a place; a row and
a bank to fill; grids held by a dependence and by a record count, due; and a grid of which nothing is left. -/
theorem meets_GridsAreDispatchedPlacedAndRetired :    (let s : State := { tc sq id with mem := tkernel ++ tmem, groups := [], issuing := none, grids := [tgrid] };
      s.nextGrid.map (fun y => (y.1.key, y.2)) = some (0, 0) ∧ (tgrid.batch 1).1 = [0] ∧ 1 ≤ s.batchRoom tgrid 0)
    ∧ (let s : State := { tc sq id with mem := tkernel ++ tmem, groups := [], issuing := none, grids := [{ tgrid with next := 1, live := 1 }], dies := [(0, ⟨[(0, 0)], []⟩)] };
      (s.die 0).waiting = [(0, 0)] ∧ (s.gridOf 0).map (fun x => (x.lrec.slots, x.usedSlots, x.lrec.cls)) = some (1, [], 0)
      ∧ (s.placeOn 0 (wantOf tgrid none [])).map (fun p => (p.core, p.slot, p.varNo)) = some (0, 0, 0)
      ∧ (s.bindHandles 0 tgrid.lrec.handles).2 = [])
    ∧ (let r : IRow := ⟨0, 0x4000, 0, true, 0, 1, false, [], [], none, none⟩;
      let s : State := { tc sq (fun g => { g with kobj := tgrid.kobj, va := tgrid.kobj.variants.getD 0 tv }) with
        mem := tkernel ++ tmem, cores := [(0, { Core.empty with rows := some r :: List.replicate 63 none })] };
      (s.core 0).rows.getD 0 none = some r ∧ (s.kernelOf 0 0 0x4000 0).map (fun y => y.2.uLen) = some 16
      ∧ (s.readAll 0 0x4000 [(0x140, 16), (0x150, 1)]).2.isOk = true)
    ∧ (let b : Bank := ⟨0, 0x4000, 0, false, [], none, none⟩;
      let s : State := { tc sq (fun g => { g with kobj := tgrid.kobj, va := tgrid.kobj.variants.getD 0 tv }) with
        mem := tkernel ++ tmem, cores := [(0, { Core.empty with banks := [some b, none] })] };
      (s.core 0).banks.getD 0 none = some b ∧ (s.kernelOf 0 0 0x4000 0).map (fun y => y.2.dict) = some 0
      ∧ (s.readAll 0 0x4000 [(0, 0), (0, 0)]).2.isOk = true)
    ∧ (let x := { tgrid with heldDep := true, pollDue := true };
      let s : State := { tc sq id with grids := [x] };
      (s.gridOf 0).map Grid.heldDep = some true ∧ s.pollDue x = true)
    ∧ (let x := { tgrid with heldCount := true, pollDue := true };
      let s : State := { tc sq id with grids := [x] };
      (s.gridOf 0).map (fun x => (x.heldDep, x.heldCount)) = some (false, true) ∧ s.pollDue x = true)
    ∧ (let x := { tgrid with next := 1, lrec := { tgrid.lrec with done := true, doneVa := 0x3000 } };
      let s : State := { tc sq id with groups := [], issuing := none, grids := [x] };
      (s.gridOf 0).map (fun x => (x.heldDep, x.heldCount, x.heldHost, x.live, s.absentGroups x)) = some (false, false, false, 0, false) ∧ s.groups = []
      ∧ (s.translate s.devUnit 0 .rw 0x3000).2.isOk = true) := by decide +kernel

-- Hypotheses: system instructions and status registers ------------------------------------------------

/-- The variant of tg with a dictionary of two words, the bank that holds it (a 64-bit word, and a short one), and a
state whose core has a filled bank. -/
def dicted (g : Group) : Group := { g with va := { g.va with dict := 2 } }
def tbank : Bank := ⟨0, 2 ^ 64, 0, true, [(0x3, 15), (0x1, 15)], none, none⟩
def tbanked (b : Option Bank) : State :=
  { ts me dicted with cores := [(0, { Core.empty with banks := [none, b] })] }

/-- The hypotheses of brk (a debug context, and another), of the wave's reads, of wait (no clk, 65,535, 65,536, and with a
latch that pins in a debug context), of the end of a wait, and of a dictionary reference (a word of 64 bits, another, beyond the
count, and no bank). -/
theorem meets_SystemInstructions :
    Meets ({ ts me id with ctxs := [(0, { tcx with dbg := true })] }) 8 (fun c s =>
      (s.context c.gr.ctx).map Ctx.dbg = some true ∧ c.uni = false ∧ (s.quarter c.core c.q).pinsOf c.g c.w = [])
    ∧ Meets ({ ts sq id with ctxs := [(0, tcx)] }) 8 (fun c s => (s.context c.gr.ctx).map Ctx.dbg = some false)
    ∧ Meets (ts me id) 8 (fun c _ => (c.scalar (.w 5)).toNat = 0)
    ∧ Meets (ts me (setW 5 65535)) 8 (fun c _ => (c.scalar (.w 5)).toNat < 65536 ∧ (c.scalar (.w 5)).toNat ≠ 0
      ∧ c.uni = false ∧ c.lt.all (fun l => !l.pins) = true)
    ∧ Meets (ts me (setW 5 65536)) 8 (fun c _ => 65536 ≤ (c.scalar (.w 5)).toNat)
    ∧ Meets ({ ts me id with cores := [(0, { Core.empty with quarters := List.replicate 4 { Quarter.empty with
        latches := [⟨List.replicate 32 0, none, 0, some (0, 0, 0), 2, true, false⟩] } })], ctxs := [(0, { tcx with dbg := true })] }) 8
      (fun c s => c.uni = false ∧ (∃ l ∈ c.lt, l.pins = true ∧ l.owner = some (c.g, c.w, c.sp))
        ∧ (s.context c.gr.ctx).map Ctx.dbg = some true ∧ (s.quarter c.core c.q).pinsOf c.g c.w ≠ [])
    ∧ (let s := ts me (split0 fun x => { x with blk := .wait 1 (some 3) });
      s.blkOf me = some (.wait 1 (some 3)) ∧ s.clk < 1 ∧ 1 ≤ ({ s with clk := 1 } : State).clk)
    ∧ Meets (tbanked (some tbank)) 8 (fun c s => 0 < c.gr.va.dict ∧ c.gr.va.dict ≤ 2
      ∧ ((s.core c.core).banks.find? fun b => match b with
          | some b => b.serves c.gr && (b.filled || b.fault.isSome)
          | none => false) = some (some tbank)
      ∧ tbank.entries[0]? = some (0x3, 15) ∧ tbank.entries[1]? = some (0x1, 15))
    ∧ Meets (tbanked none) 8 (fun c s => 0 < c.gr.va.dict
      ∧ ((s.core c.core).banks.find? fun b => match b with
          | some b => b.serves c.gr && (b.filled || b.fault.isSome)
          | none => false) = none) := by
  exact ⟨meets (by decide +kernel), meets (by decide +kernel), meets (by decide +kernel), meets (by decide +kernel),
    meets (by decide +kernel), meets (by decide +kernel), by decide +kernel, meets (by decide +kernel), meets (by decide +kernel)⟩

/-- A queue that is bound, and a result of a class on its way. -/
def tbound : Queue := { Queue.blank with bound := true }
def owed (k : PClass) : Group → Group := wave fun w => { w with pend := [⟨5, k, [], none, 0, 0⟩] }

/-- The hypotheses of rdst and wrst: the ends of the table for both streams; a value on its way for each register that
collects; a firmware context and another; a queue register; and a value of rook.Qn.ctl with a mask, row and count,
for a queue that is not bound, with no mask, and with GO for a queue that is bound. -/
theorem meets_StatusRegistersReadAndWrite :
    (0 ∈ readable false ∧ 10 ∈ readable false ∧ 11 ∉ readable false ∧ 0 ∉ readable true ∧ 0x27 ∈ readable true ∧ 0x28 ∉ readable true
      ∧ 0x0a ∈ writable false ∧ 0x07 ∉ writable false ∧ 0x27 ∈ writable true ∧ 0x00 ∉ writable true)
    ∧ Meets (ts me id) 8 (fun c s => c.uni = false ∧ (s.me c).pend = [] ∧ (s.mine c).mq = [] ∧ s.xops = [])
    ∧ Meets (ts me (owed .fp)) 8 (fun c s => ∃ p ∈ (s.me c).pend, s.clk < p.due ∧ p.cls = .fp)
    ∧ Meets (ts me (owed .interval)) 8 (fun c s => ∃ p ∈ (s.me c).pend, s.clk < p.due ∧ p.cls = .interval)
    ∧ Meets ({ ts me handled with xops := [tx [slot1 none] true false] }) 8 (fun c s => ∃ o ∈ s.xops, o.g = c.g ∧ o.w = c.w)
    ∧ Meets (ts sq fun g => { g with mq := [mcmd .mswap] }) 8 (fun c s => (s.mine c).mq ≠ [])
    ∧ Meets ({ ts me id with ctxs := [(0, { tcx with fw := true })] }) 8 (fun c s => (s.context c.gr.ctx).map Ctx.fw = some true)
    ∧ Meets ({ ts me id with ctxs := [(0, tcx)] }) 8 (fun c s => (s.context c.gr.ctx).map Ctx.fw = some false)
    ∧ Meets (ts sq (setG 1 0x100801001)) 8 (fun c _ => c.uni = true ∧ c.gr.queues[(0x27 : Nat) % 8]? = some Queue.blank
      ∧ ¬ rookBad c Queue.blank (c.wrstVal (.g 1)) ∧ bit (c.wrstVal (.g 1)) 31 = false)
    ∧ Meets (ts sq (setG 1 0x00001001)) 8 (fun c _ => rookBad c Queue.blank (c.wrstVal (.g 1)))
    ∧ Meets (ts sq fun g => setG 1 0x180001001 { g with queues := g.queues.set 7 tbound }) 8 (fun c _ =>
      c.gr.queues[(0x27 : Nat) % 8]? = some tbound ∧ ¬ rookBad c tbound (c.wrstVal (.g 1)) ∧ bit (c.wrstVal (.g 1)) 31 = true
        ∧ tbound.bound = true) := by
  unfold rookBad
  exact ⟨by decide, meets (by decide +kernel), meets (by decide +kernel), meets (by decide +kernel), meets (by decide +kernel),
    meets (by decide +kernel), meets (by decide +kernel), meets (by decide +kernel), meets (by decide +kernel),
    meets (by decide +kernel), meets (by decide +kernel)⟩

-- Hypotheses: commits and tasks -----------------------------------------------------------------------

/-- Every agent of the group waits at commit point 3; every agent has ended. -/
def arrived (g : Group) : Group :=
  { g with vp := some 3, waves := g.waves.map fun w => { w with splits := updAt w.splits 0 fun x => { x with blk := .vpoint } },
           seq := { g.seq with blk := .vpoint } }
def gone0 (g : Group) : Group := { g with waves := g.waves.map fun w => { w with live := false }, seq := { g.seq with live := false } }
/-- The group's variant has commit point 3 at offset 0 of both streams. -/
def pointed (g : Group) : Group := { g with va := { g.va with points := [⟨3, 0, 0, 8, 8⟩] } }
/-- A grid whose context slots begin at a. -/
def slotted (a : Nat) : Grid := { loneGrid with lrec := { loneGrid.lrec with area := a } }
def tcommit (a : Nat) (f : Group → Group) : State := { tc me (fun g => f (arrived g)) with issuing := none, grids := [slotted a] }
def tmoved : State → State × Option (Nat × Nat) := fun s => s.devWrite 0 (s.saveRuns (slotted 0) (arrived tg) 3)

/-- The hypotheses of vpoint: the point with nothing under way; a flag that stands; a number that is not in the table;
another offset; a group with another number; a divided wave. -/
theorem meets_CommitPoints :
    Meets (ts me pointed) 8 (fun c s => c.gr.va.points.find? (fun y => y.num == 3) = some ⟨3, 0, 0, 8, 8⟩ ∧ 0 = c.pc
      ∧ ¬ (1 < c.wv.liveSplits.length ∨ c.spl.depth ≠ 0) ∧ c.gr.vp = none
      ∧ (∀ n ∈ (s.doneNow c th).flagsOf c.ag, n = 0) ∧ (s.doneNow c th).memops = [] ∧ ∀ y ∈ c.gr.va.points, y.num ≠ 4)
    ∧ Meets (ts me fun g => wave (fun w => { w with flags := w.flags.set 3 1 }) (pointed g)) 8 (fun c s =>
      ∃ n ∈ (s.doneNow c th).flagsOf c.ag, n ≠ 0)
    ∧ Meets (ts me fun g => split0 (fun x => { x with pc := 8 }) (pointed g)) 8 (fun c _ => 0 ≠ c.pc)
    ∧ Meets (ts me fun g => { pointed g with vp := some 4 }) 8 (fun c _ => c.gr.vp = some 4)
    ∧ Meets (ts me fun g => split0 (fun x => { x with depth := 1 }) (pointed g)) 8 (fun c _ => c.spl.depth ≠ 0) := by
  exact ⟨meets (by decide +kernel), meets (by decide +kernel), meets (by decide +kernel), meets (by decide +kernel),
    meets (by decide +kernel)⟩

/-- The hypotheses of a commit: a group that is there with nothing under way, in a context that runs and in one that
drains; a context slot that is not present, and one at a VA that is not canonical; a group that has not arrived; one
that has ended; and the bytes of a version. -/
theorem meets_Commits :
    (let s := tcommit 0 id;
      s.grp 0 = some (arrived tg) ∧ (arrived tg).vp = some 3 ∧ s.gridOf (gridKey 0 0) = some (slotted 0)
      ∧ s.ready Group.atPoint 0 = true ∧ (arrived tg).cls ≠ 2 ∧ (tmoved s).2 = none ∧ s.ctxRuns 0 = true ∧ (arrived tg).twin = none
      ∧ (arrived tg).varNo = 0 ∧ (arrived tg).kobj.variants.length ≤ 1
      ∧ ({ s with ctxs := [(0, { tcx with st := .draining 0 })] } : State).ctxRuns 0 = false)
    ∧ (let s := tcommit 0x40000000 id;
      (s.devWrite 0 (s.saveRuns (slotted 0x40000000) (arrived tg) 3)).2 = some (cNotPresent, 0x40000000))
    ∧ (let s := tcommit 0x1000000000000 id;
      (s.devWrite 0 (s.saveRuns (slotted 0x1000000000000) (arrived tg) 3)).2.map (fun f => f.1 == cNotPresent) = some false)
    ∧ (ts me id).ready Group.atPoint 0 = false ∧ (ts me id).ready Group.ended 0 = false ∧ (ts me gone0).ready Group.ended 0 = true
    ∧ (ts me fun g => { g with cls := 1, version := [(5, 1)] }).groups.map (fun g => (g.2.version, g.2.buf)) = [([(5, 1)], [])] := by
  decide +kernel

/-- A group with a store of a tile to line 0 that is due, as one of two copies or not; such a group whose pool is full, and two
copies so. -/
def storing (k : Option Nat) : Group := { tg with twin := k, mq := [mcmd (.tstore [(0, .dram 0)] none [])] }
def tfull (sigs : List (Nat × SMap DWord)) : State :=
  { ts me id with groups := [(0, bloated { storing none with sigs := sigs })], issuing := none }
def tfulls : State := { ts me id with groups := [(0, bloated (storing (some 512))), (512, bloated (storing (some 0)))], issuing := none }
theorem full_due (s : State) (g : Group) (p : Nat) (hm : s.memops = []) (hp : s.poolLines p 0 = 131072)
    (hq : g.mq = (storing none).mq) (ho : s.oldestVersion p (bloated g) = true) (hh : g.halting = none)
    (hr : (s.core (coreOf p)).replay = []) (hw : s.writesDone p = true) : s.earlyDue p (bloated g) = true := by
  have hs : s.tileStalls p (bloated g) (mcmd (.tstore [(0, .dram 0)] none []), true).1.kind = true :=
    bloated_stalls s g p 16 (by decide) hm hp
  have hf : s.stalledWrite p (bloated g) = true := by
    unfold State.stalledWrite
    rw [bloated_versioned, Bool.true_and, Bool.or_eq_true, show (bloated g).mq = _ from hq]
    exact .inr (List.any_eq_true.2 ⟨(mcmd (.tstore [(0, .dram 0)] none []), true), .head _, by rw [hs]; simp [mcmd]⟩)
  simp [State.earlyDue, hf, ho, hr, hw, show (bloated g).halting = none from hh]
/-- The hypotheses of an early commit: of one group, of a third run behind two others, of two copies; and a group that has no
stalled write, or is not the oldest. -/
theorem meets_EarlyCommit :
    (∀ x, (tfull x).grp 0 = some (bloated { storing none with sigs := x }) ∧ (tfull x).earlyDue 0 (bloated { storing none with sigs := x }) = true)
    ∧ tfulls.grp 0 = some (bloated (storing (some 512))) ∧ tfulls.grp 512 = some (bloated (storing (some 0)))
    ∧ tfulls.earlyDue 0 (bloated (storing (some 512))) = true ∧ tfulls.earlyDue 512 (bloated (storing (some 0))) = true
    ∧ (ts me id).earlyDue 0 tg = false
    ∧ ({ ts me id with groups := [(0, { tg with vopen := 1 }), (1, { tg with cls := 1 })] } : State).oldestVersion 0
      { tg with vopen := 1 } = false :=
  ⟨fun x => ⟨rfl, full_due _ _ _ rfl (bloated_pool _ _ rfl rfl) rfl (by simp [State.oldestVersion, tfull]) rfl rfl rfl⟩, rfl, rfl,
    full_due _ _ _ rfl (bloated_pools _ _ _ rfl rfl).1 rfl rfl rfl rfl rfl, full_due _ _ _ rfl (bloated_pools _ _ _ rfl rfl).2 rfl rfl rfl rfl rfl,
    by decide +kernel⟩

/-- A kernel of two variants of 224 and 112 lane registers; a group of it in variant n, after clk clk, with w waiting on its
die. -/
def tvp : Variant := { tv with points := [⟨3, 0, 0, 8, 8⟩] }
def twov : Grid := { loneGrid with kobj := ⟨2 ^ 64, 0, [tvp, { tvp with rl := 112 }], [[]]⟩ }
def tvs (n : Nat) : Group :=
  { tg with kobj := twov.kobj, varNo := n, va := twov.kobj.variants.getD n tv, fitSince := if n = 0 then none else some 0 }
def tswitch (clk : Nat) (w : List (Nat × Nat)) (gr : Group) : State :=
  { tc me id with issuing := none, clk := clk, groups := [(0, gr)], grids := [twov], dies := [(0, ⟨w, []⟩)] }

/-- The hypotheses of a change of variant: down while a group waits, up after 4,096 clk; and of the commit that makes it. -/
theorem meets_VariantChanges :
    (tswitch 0 [(0, 1)] (tvs 0)).nextVariant 0 (tvs 0) = some 1 ∧ (tswitch 4096 [] (tvs 1)).nextVariant 0 (tvs 1) = some 0
    ∧ ((tswitch 0 [(0, 1)] (tvs 0)).switched 0 1 (tvs 0)).isSome = true ∧ (tswitch 0 [] (tvs 0)).coopOpen = none
    ∧ ((tswitch 4096 [] (tvs 1)).switched 0 0 (tvs 1)).isSome = true
    ∧ (let gr := arrived (tvs 0)
      let s := tswitch 0 [(0, 1)] gr
      let w := s.devWrite 0 (s.saveRuns twov gr 3)
      let u := ({ w.1 with saves := 1 } : State).modGrp 0 fun y => y.newTask (s.ckptOf gr 3)
      let left := u.evict 0 (fun _ => false) false
      s.ready Group.atPoint 0 = true ∧ w.2 = none ∧ s.ctxRuns 0 = true ∧ gr.buf = []
      ∧ ((u.grp 0).map fun y => (u.nextVariant 0 y, (left.spot 0 1 (wantOf twov y.only []) (some 0)).map fun p => p.slot))
        = some (some 1, some 0)) := by decide +kernel

/-- The hypotheses of the commit of two copies, and of a third run that agrees with the first, the second, or neither of
the two before it. -/
theorem meets_CopiesCommit :
    (let g := fun (k : Nat) => { arrived tg with cls := 2, twin := some k, dq := [0] }
      let s : State := { tcommit 0 id with groups := [(0, g 512), (512, g 0)] }
      s.ready Group.atPoint 0 = true ∧ s.ready Group.atPoint 512 = true ∧ s.ctxRuns 0 = true
      ∧ (s.devWrite 0 (s.saveRuns (slotted 0) (g 512) 3)).2 = none)
    ∧ (∀ x ∈ [(7, 8), (8, 7), (8, 9)],
      let z := fun (n : Nat) => [(4, BitVec.ofNat 64 n)]
      let g : Group := { arrived tg with cls := 2, sigs := [(512, z x.1), (1024, z x.2)], sig := z 7 }
      let s : State := { tcommit 0 id with groups := [(0, g)] }
      s.ready Group.atPoint 0 = true ∧ g.twin = none ∧ (s.devWrite 0 (s.saveRuns (slotted 0) g 3)).2 = none
      ∧ SMap.getD g.sig 4 0 = 7 ∧ (x.1 ≠ 7 → SMap.getD g.sig 4 0 ≠ SMap.getD (z x.1) 4 0)) := by decide +kernel

/-- Its grid. -/
def tresumed (hold : Nat) : State :=
  { tc sq id with groups := [], issuing := none, grids := [{ tgrid with next := 1, conts := [tcont hold 0] }],
                  dies := [(0, ⟨if hold = 3 then [(0, 0)] else [], []⟩)] }

/-- The hypotheses of a resume: a continuation that waits at the die and fits, restored at its start; none that does; and of
the events of continuations that are held. -/
theorem meets_Continuations :
    ((tresumed 3).nextCont 0).map (fun y => (y.2.1, y.2.2.1.core, y.2.2.2.isNone, y.1.lrec.coop)) = some (tcont 3 0, 0, true, false)
    ∧ (match (tresumed 3).nextCont 0 with
        | some (x, c, p, _) => (((tresumed 3).headTaken 0).restore x c p).2.isOk
        | none => false) = true
    ∧ ((tresumed 1).nextCont 0).isNone = true
    ∧ (∀ h ∈ [1, 2], (((tresumed h).gridOf 0).map fun x => x.conts.find? fun c => c.index == 0) = some (some (tcont h 0)))
    ∧ (tresumed 1).ctxRuns 0 = true := by decide +kernel

/-- The state with the context's policy. -/
def tpolicy (p : Nat) (f : Group → Group) : State :=
  { ts me f with issuing := none, ctxs := [(0, { tcx with policy := p })], grids := [loneGrid] }
/-- Two copies of a redundant group in two clusters, at their commit point, the second with signature x. -/
def tcopies (x n : Nat) : State :=
  let g := fun (k x : Nat) => { arrived tg with cls := 2, twin := some k, sig := [(4, BitVec.ofNat 64 x)], restarts := n }
  { tc me id with issuing := none, groups := [(0, g 512 7), (512, g 0 x)], grids := [loneGrid] }

/-- The hypotheses of a task's end under each policy, and of an uncorrectable error of a wave and of a sequencer,
versioned with three restarts behind it and with none, and not versioned. -/
theorem meets_TasksEnd :
    (∀ p ∈ [0, 1, 2], (tpolicy p id).grp 0 = some tg ∧ tg.twin = none ∧ ((tpolicy p id).context tg.ctx).map Ctx.policy = some p
      ∧ (tpolicy p id).gridOf (gridKey 0 0) = some loneGrid ∧ loneGrid.conts = [] ∧ tg.retried = false)
    ∧ tg.hasAgent me = true ∧ tg.hasAgent sq = true ∧ tg.hasAgent (.split 0 0 1) = false ∧ tg.versioned = false
    ∧ ({ tg with cls := 1 } : Group).versioned = true ∧ tg.early = false ∧ tg.restarts < 3
    ∧ 3 ≤ ({ tg with restarts := 3 } : Group).restarts := by decide +kernel
/-- A coalescer of core 0 with a closed record, and reports that wait: of an agent parked on page 3, of wave 0 held by brk, of
the sequencer so. -/
def trec : FRec := ⟨cContext, 0, 0, 0, 0, 0, 0, 0, 0, false, 0, false, 0, []⟩
def tuntaken (f : Group → Group) : State :=
  { ts me f with issuing := none, coals := [(0, ⟨[], [trec],
      [{ trec with cause := cNotPresent, va := 0x35678 }, { trec with flags := 0x40, places := [0] }, { trec with flags := 0x40, uni := true }]⟩)] }
/-- The hypotheses on reports: one that is taken, and one that is not. -/
theorem meets_Reports :
    ((ts me id).takeReport 0 (tg.report 0 0x28 0 0 false none 0 [])).2 = true
    ∧ ((tuntaken id).takeReport 0 (tg.report 0 0x28 0 0 false none 0 [])).2 = false
    ∧ ((tuntaken versioned).takeReport 0 ((versioned tg).report 0 cUncorrectable 0 0 false none 0 [])).2 = false
    ∧ (tuntaken id).untaken 0 0 3 = true ∧ (∀ core ∈ [0, 1], (ts me id).untaken core 0 3 = false)
    ∧ (tuntaken id).holdUntaken 0 tg false [0] = true ∧ (tuntaken id).holdUntaken 0 tg true [] = true
    ∧ (ts me id).holdUntaken 0 tg false [0] = false ∧ (ts me id).holdUntaken 0 tg true [] = false
    ∧ (tg.waves.map Wave.place)[0]? = some 0 ∧ tg.halting = none := by decide +kernel

/-- The hypotheses of the comparison of two copies, and of a replay entry that has been serviced, or whose service
failed. -/
theorem meets_CopiesAreCompared :
    (∀ n ∈ [0, 3], ∀ x ∈ [7, 8], (tcopies x n).ready Group.atPoint 0 = true ∧ (tcopies x n).ready Group.atPoint 512 = true
      ∧ (tcopies x n).groups.map (fun g => (g.1, g.2.cls, g.2.twin, (g.2.sig.map Prod.snd).sum.toNat, g.2.restarts))
        = [(0, 2, some 512, 7, n), (512, 2, some 0, x, n)]
      ∧ ((tcopies x n).gridOf 0).map Grid.conts = some []) := by decide +kernel
theorem meets_ReplayEntries :
    (∀ failed ∈ [false, true],
      let r : Replay := ⟨4, me, 0, 0, 0x3000, 4, [⟨1, 0x3004, .dram 0, true, 9⟩, ⟨2, 0x3008, .dram 0, true, 9⟩], none, some failed⟩
      let s : State := { tc me id with issuing := none, cores := [(0, { Core.empty with replay := [r] })] };
      (s.core 0).replay.find? (fun r => r.id == 4) = some r
      ∧ ((s.core 0).replay.takeWhile fun y => y.id != 4).any (fun y => y.ctx == r.ctx && y.page == r.page) = false
      ∧ (s.retranslate 0 r failed).2.map (fun y => match y.2.2 with
          | .ok z => match z.tgt with | .dram a => some a | _ => none
          | .error _ => none) = (if failed then [none, none] else [some 0x3004, some 0x3008])
      ∧ r.lanes ≠ [] ∧ ((s.retranslate 0 r failed).1.grp (agPlace r.ag)).isSome = true
      ∧ ((s.retranslate 0 r failed).1.grp (agPlace r.ag)).map Group.versioned = some false) := by decide +kernel

/-- And an entry of the group whose pool is full: its store has no room. -/
def treplay : Replay := ⟨4, me, 0, 0, 0, 4, [⟨1, 0, .dram 0, true, 9⟩], none, some false⟩
def treplays : State := { tc me bloated with issuing := none, cores := [(0, { Core.empty with replay := [treplay] })] }
theorem meets_ReplayStalls :
    let u := (treplays.retranslate 0 treplay false).1
    trapOf (treplays.retranslate 0 treplay false).2 = none ∧ u.replayStalls 0 0 treplay = true := by
  intro u
  have hl : (lanesOf (fun l => ((treplay.lanes.find? fun x => x.lane == l).map LaneAcc.data).getD 0)
      (u.retranslate 0 treplay false).2).map (fun (x : LaneAcc) => (x.tgt, treplay.size)) = [(.dram 0, 4)] := by decide +kernel
  have hm : u.memops = [] := rfl
  refine ⟨by decide +kernel, ?_⟩
  unfold State.replayStalls
  rw [show u.grp 0 = some (bloated tg) from rfl]
  simp only [show treplay.svc = some false from rfl]
  rw [hl]
  exact bloated_stalls u tg 0 4 (by decide) hm (bloated_pool u tg rfl hm)

-- Hypotheses: translation service, contexts, the package ----------------------------------------------

/-- The state after reset with its package registers changed. -/
def tp (f : Pkg → Pkg) : State := State.reset.modPkg f
/-- A command register with BUSY, of command k for context 0. -/
def tbusy (k : BitVec 3) : CmdReg := ⟨true, false, k, 0, 0⟩
/-- A context descriptor for context 2 at 0x20000: version 1, no flags, root table at 0x10000, deadline 65,536, timeout 1. -/
def tdesc : List Host.Cell := [(0x20000, 1), (0x2000a, 1), (0x20022, 1), (0x20028, 1)]
/-- A state with context 2 in state st, a grid of it that the host holds or not, and f of its groups. -/
def tctx (st : CtxState) (held : Bool) : State :=
  { tp (fun p => { p with up := true }) with
    groups := [(0, { tg with ctx := 2 })], ctxs := [(2, { tcx with st := st, slice := 10, deadline := 5 })],
    grids := [{ loneGrid with ctx := 2, heldHost := held }] }

/-- The hypotheses of pkg.xinv and pkg.fsvc: ready, and BUSY; an invalidation that waits for an access in flight, and one
that waits for none; and waves that wait in the range of a service. -/
theorem meets_TranslationService :
    State.reset.pkg.xinv.busy = false ∧ State.reset.pkg.fsvc.busy = false
    ∧ (tp fun p => { p with xinv := tbusy 2, fsvc := tbusy 0 }).pkg.xinv.busy = true
    ∧ (tp fun p => { p with xinv := tbusy 2, fsvc := tbusy 0 }).pkg.fsvc.busy = true
    ∧ (tp fun p => { p with xinv := tbusy 2 }).covered (xscopeOf (tbusy 2)) = false
    ∧ ((withOp (op .st none)).modPkg fun p => { p with xinv := tbusy 2 }).covered (xscopeOf (tbusy 2)) = true
    ∧ (wave (fun w => { w with parked := some 0x35678 }) tg).waitsIn 3 ≠ none
    ∧ inRange 3 (some 0x35678) = true := by decide +kernel

/-- The hypotheses of the context commands: a package that is up or not, ready or busy; no such context, with a descriptor
that is right and one that is not; a context that runs, is drained or drains, with a group and with none; a grid that the
host holds or not. -/
theorem meets_ContextCommands :
    (tp fun p => { p with up := false }).pkg.up = false ∧ (tctx .running true).pkg.up = true ∧ (tctx .running true).pkg.ctxcmd.busy = false
    ∧ ((tctx .running true).modPkg fun p => { p with ctxcmd := tbusy 2 }).pkg.ctxcmd.busy = true
    ∧ (tctx .running true).context 3 = none ∧ (0x20000 : Nat) % 64 = 0 ∧ (tctx .running true).pkg.dieLive (0x20000 / 2 ^ 38) = true
    ∧ (descriptorOf 2 0 (memRead tdesc 0x20000 64)).isSome = true ∧ descriptorOf 2 0 (memRead [] 0x20000 64) = none
    ∧ (∀ st ∈ [CtxState.running, .drained, .draining 0, .halted], ((tctx st true).context 2).map Ctx.st = some st)
    ∧ ((tctx .running true).grid 0 2).map Grid.heldHost = some true ∧ ((tctx .running false).grid 0 2).map Grid.heldHost = some false
    ∧ (∃ y ∈ (tctx (.draining 0) true).groups, y.2.ctx = 2 ∧ coreOf y.1 = 0)
    ∧ (∀ y ∈ ({ tctx (.draining 0) true with groups := [] } : State).groups, y.2.ctx ≠ 2)
    ∧ (let s := (tctx .halted true).modPkg fun p => { p with ctxcmd := { tbusy 2 with ctx := 2 } };
      s.pkg.ctxcmd.busy = true ∧ s.pkg.ctxcmd.cmd = 2 ∧ s.pkg.ctxcmd.ctx.toNat = 2)
    ∧ (tctx (.draining 0) true).clk < 0 + 5 ∧ 0 + 5 ≤ ({ tctx (.draining 0) true with clk := 5 } : State).clk := by decide +kernel

/-- The hypotheses of a time slice that is over, and of a release by the debugger. -/
theorem meets_TimeSlices :
    (let s : State := { tctx .running true with
        clk := 10, cores := [(0, { Core.empty with slice := some (2, 0, false) })], dies := [(0, ⟨[(gridKey 3 0, 0)], []⟩)] };
      (s.core 0).slice = some (2, 0, false) ∧ (s.context 2).map Ctx.slice = some 10 ∧ 0 + 10 ≤ s.clk
      ∧ (∃ y ∈ s.groups, coreOf y.1 = 0 ∧ y.2.ctx = 2) ∧ ∃ y ∈ (s.die (dieOfCore 0)).waiting, y.1 / 2 ^ 32 ≠ 2)
    ∧ (∀ h ∈ [true, false],
      let s := ts me fun g => wave (fun w => { w with held := h }) (seqr (fun q => { q with held := h }) g);
      (s.waveAt 0 0).map Wave.held = some h ∧ (s.seqAt 0).map Seq.held = some h) := by decide +kernel

/-- The hypotheses of clock changes, of ports, of host links and accesses. -/
theorem meets_ClockAndPorts :
    State.reset.pkg.freqBusy = false ∧ State.reset.askedStep 16 = 16 ∧ State.reset.askedStep 8 = State.reset.pkg.freqCur
    ∧ (tp fun p => { p with freqBusy := true, hs := .quiesce 4 1 }).pkg.hs = .quiesce 4 1
    ∧ bit State.reset.pkg.liveDies 18 = true ∧ bit (1 : BitVec 19) 18 = false ∧ State.reset.issuing = none
    ∧ (0x3ffff : BitVec 19) ||| BitVec.ofNat 19 (2 ^ 18) = State.reset.pkg.liveDies
    ∧ (tp fun p => { p with hs := .relock 4 }).pkg.hs = .relock 4
    ∧ State.reset.pkg.ports[35]? = some Port.empty ∧ State.reset.pkg.portLive 35 = true ∧ Port.empty.up = false
    ∧ Port.empty.splane = 0xf ∧ Port.empty.half = false ∧ Port.empty.retrain = false
    ∧ (∀ q ∈ [{ Port.empty with up := true, fails := 8 }, { Port.empty with splane := 2, up := true }],
      (tp fun p => { p with ports := p.ports.set 35 q }).pkg.ports[35]? = some q ∧ q.up = true ∧ q.retrain = false)
    ∧ bit State.reset.pkg.livex 1 = true ∧ State.reset.pkg.hostUp.length = 2 ∧ State.reset.pkg.hostCxl.length = 2
    ∧ (tp fun p => { p with hostUp := [true, false] }).pkg.hostUp = [true, false]
    ∧ true ∈ (tp fun p => { p with hostUp := [true, false] }).pkg.hostUp ∧ State.reset.clkStop = false
    ∧ State.reset.pkg.xq[1]? = some ([], 0) ∧ State.reset.pkg.hasDram (2 ^ 42 - 8) 8 = true ∧ State.reset.pkg.hasDram (2 ^ 42 - 7) 8 = false
    ∧ (1500 : Nat) ≤ (6500 : DWord).toNat % 2 ^ 16 ∧ (6500 : DWord).toNat % 2 ^ 16 ≤ 7000 := by
  and_intros <;> decide +kernel
/-- Their further hypotheses: a die with nothing in flight and one with an access; a relock, or one that a freeze holds; a
draw above the cap for the whole of RESP, and one below it for the whole of WIN; a lane whose count crosses, and a second one
behind a spare in use; a window of counts that is over; and a link that goes down, at once or while traffic is held. -/
theorem meets_ClockPowerAndPorts :
    State.reset.dieBusy 0 = false ∧ (withOp (op .st none)).dieBusy 0 = true
    ∧ (tp fun p => { p with hs := .relock 4 }).frozen = false ∧ ({ tp (fun p => { p with hs := .relock 4 }) with frozen := true } : State).frozen = true
    ∧ ({ tp (fun p => { p with hs := .relocked }) with frozen := true } : State).pkg.hs = .relocked
    ∧ (tp fun p => { p with hs := .relock 4 }).held = true ∧ State.reset.held = false ∧ State.reset.duty 3 = false
    ∧ (let p := (tp fun p => { p with pwr := { p.pwr with overFor := 19 } }).pkg;
      p.pwr.cap.toNat * [(7000 : BitVec 16)].length < (7000 : BitVec 16).toNat ∧ 4 < p.freqCur ∧ 10 * p.pwr.resp.toNat ≤ p.pwr.overFor + 1
        ∧ ((7000 : BitVec 16) :: p.pwr.samples).take (10 * p.pwr.win.toNat) = [7000])
    ∧ (let p := (tp fun p => { p with freqCur := 4, pwr := { p.pwr with lowFor := 99, ceil := 8 } }).pkg;
      (100 : BitVec 16).toNat * 100 ≤ p.pwr.cap.toNat * 95 * 1 ∧ 10 * p.pwr.win.toNat ≤ p.pwr.lowFor + 1 ∧ p.freqCur < p.pwr.want
        ∧ p.pwr.ceil < 16)
    ∧ ({ State.reset with ctxs := [(0, tcx)] } : State).duty 5 = false ∧ ({ State.reset with ctxs := [(0, { tcx with duty := 32 })] } : State).duty 5 = true
    ∧ (let q := { Port.empty with up := true, lanecnt := List.replicate 9 0x400 };
      (3 : Nat) < 8 ∧ q.splane = 0xf ∧ q.lanecnt.getD 3 0 ≤ q.spthr
        ∧ q.spthr < (q.lanecnt.set 3 (BitVec.ofNat 16 (min 0xffff ((q.lanecnt.getD 3 0).toNat + 1)))).getD 3 0)
    ∧ (let q := { Port.empty with splane := 2, lanecnt := List.replicate 9 0x401 };
      q.splane ≠ 0xf ∧ 3 ≠ q.splane.toNat ∧ q.spthr < q.lanecnt.getD 3 0 ∧ q.half = false)
    ∧ Port.empty.winStart + 2 ^ 24 ≤ ({ State.reset with clk := 2 ^ 24 } : State).clk ∧ State.reset.clk < Port.empty.winStart + 2 ^ 24
    ∧ (let s := tp fun p => { p with up := true };
      s.pkg.hostUp.getD 0 false = true ∧ s.held = false ∧ s.pkg.up = true ∧ ∀ c ∈ s.ctxs, c.1 < 4096)
    ∧ State.reset.pkg.hostMs.length = 2 ∧ State.reset.pkg.hostLink false = true ∧ State.reset.pkg.hostLink true = true := by
  and_intros <;> decide +kernel

/-- The hypotheses of the coalescer, of a fault buffer and of retirement. -/
theorem meets_RecordsAndRetirement :
    (let s : State := { State.reset with clk := 256, coals := [(0, ⟨[(0, trec)], [], []⟩)], fbufs := [(1, [(some 0, trec)])] };
      SMap.get? 0 s.coals = some ⟨[(0, trec)], [], []⟩ ∧ 0 + 256 ≤ s.clk ∧ (s.fbuf (bufOf 0)).length < 64
      ∧ s.fbuf 1 = [(some 0, trec)] ∧ s.queueRoom (s.pkg.queueOf 1) = true ∧ s.bufRoom 0 = true)
    ∧ ({ State.reset with fbufs := [(0, List.replicate 64 (none, trec))] } : State).bufRoom 0 = false
    ∧ (let s : State := { State.reset with coals := [(0, ⟨[], [], [trec]⟩)], groups := [(0, { tg with halting := some (trec, false) })] };
      SMap.get? 0 s.coals = some ⟨[], [], [trec]⟩ ∧ s.haltingOn trec = some (0, false)
      ∧ ({ s with groups := [] } : State).haltingOn trec = none ∧ trec.cause ≠ cNotPresent)
    ∧ 0 + 2 ^ 44 ≤ ({ State.reset with clk := 2 ^ 44 } : State).clk ∧ State.reset.clk < State.reset.pkg.halvedAt + 2 ^ 44
    ∧ ({ State.reset with ctxs := [(0, { tcx with duty := 4 })] } : State).duty 2 = true
    ∧ (tp fun p => { p with deadDies := [3] }).pkg.isRetired (.die 3) = true ∧ byFirmware (.core 3) = false ∧ OutMsg.weak (.core 3) ∉ State.reset.outbox
    ∧ SMap.get? 0 ({ State.reset with coals := [(0, ⟨[], [], []⟩)] } : State).coals = some ⟨[], [], []⟩
    ∧ (tp fun p => { p with xq := [(List.replicate 1024 trec, 0), ([], 0)] }).queueRoom 0 = false
    ∧ State.reset.duty 2 = false ∧ State.reset.pkg.isRetired (.core 3) = false ∧ State.reset.pkg.atThreshold (.core 3) = false
    ∧ (tp fun p => { p with counters := [(3, { Counters.zero with errs := 2 })] }).pkg.atThreshold (.core 3) = true
    ∧ (tp fun p => { p with deadCores := List.range 64 }).pkg.atThreshold (.die 0) = true := by
  and_intros <;> decide +kernel

-- Hypotheses: results, issue, steps, encodings --------------------------------------------------------

/-- The hypotheses of FixedResultLands: a wave and a sequencer with results on their way in order, the first due. -/
def tpend : List Pend := [⟨5, .fp, [.v 3 1 []], some 2, 1, 0⟩, ⟨9, .plain, [.w 1 7], none, 0, 0⟩]
theorem meets_FixedResultLands :
    let s : State := { ts me fun g => seqr (fun q => { q with pend := tpend }) (wave (fun w => { w with pend := tpend }) g) with clk := 5 }
    (s.waveAt 0 0).map Wave.pend = some tpend ∧ (s.seqAt 0).map Seq.pend = some tpend ∧ 5 ≤ s.clk ∧ s.clk < 9
      ∧ (0 : Nat) < (s.core 0).quarters.length
      ∧ NoneBetween tpend 5 8 (PWrite.isW 1) ∧ OnlyWrite [.v 3 1 [], .w 1 7] (PWrite.isW 1) (.w 1 7)
      ∧ OnlyWrite [.v 3 1 [], .w 1 7] (PWrite.isV 3) (.v 3 1 []) ∧ OnlyWrite [.p 2 1 ⟨1, 0⟩] (PWrite.isP 2) (.p 2 1 ⟨1, 0⟩)
      ∧ NoneBetween tpend 5 8 (PWrite.isV 3) ∧ NoneBetween tpend 5 8 (PWrite.isP 2) ∧ NoneBetween tpend 5 8 (PWrite.isG 2)
      ∧ (s.quarter 0 0).latches[2]? = some Latch.empty := by
  unfold NoneBetween OnlyWrite
  decide +kernel
/-- A hold's words on their way, for a latch that holds older words, and for one whose words are of a later clk. -/
theorem meets_LatchLands : ∀ n ∈ [3, 7],
    let p : Pend := ⟨5, .fp, [.latch 2 0 n 1 (some 4) []], none, 0, 0⟩
    let q : Quarter := { Quarter.empty with latches := List.replicate 3 { Latch.empty with heldIn := 5 } }
    let s : State := { ts me (wave fun w => { w with pend := [p] }) with
      clk := 5, cores := [(0, { Core.empty with quarters := List.replicate 4 q })] }
    (s.waveAt 0 0).map Wave.pend = some [p] ∧ quarterOf 0 < (s.core (coreOf 0)).quarters.length
      ∧ OnlyWrite p.writes (PWrite.isLatch 2) (.latch 2 0 n 1 (some 4) [])
      ∧ (s.quarter (coreOf 0) (quarterOf 0)).latches[2]? = some { Latch.empty with heldIn := 5 } := by
  unfold OnlyWrite
  decide +kernel
theorem meets_PendSorted : PendSorted tpend ∧ PendSorted [] := by unfold PendSorted; decide

/-- A state with one group whose lane stream begins with add.i32 V5, V5, 0xfffd, and nothing chosen; and one whose uniform
stream begins with launch G5, G6. -/
def tword : State := { State.reset.withFetchWord 64 0x00027fffdee05003 with issuing := none }
def tuword : State := { State.reset.withFetchWord 64 0x00027000006050cb with issuing := none }
/-- The hypotheses of ISSUE_SELECT: one candidate that is free; none in a quarter that has issued; a candidate that is promoted
and one whose pipeline is busy. -/
theorem meets_AgentsAreChosenAndIssue :
    tword.issuing = none ∧ tword.quiesced = false ∧ tword.brkNow 0 0 = none ∧ (tword.quarter 0 0).lastIssue ≠ some tword.clk
    ∧ tword.offers 0 0 = [⟨0, 0, 0, 0, false, false, true, true, true⟩]
    ∧ ((tword.modGrp 0 (wave fun w => { w with promoted := true })).offers 0 0).map (fun c => (c.promoted, c.pipe, c.banks))
      = [(true, true, true)]
    ∧ (({ tword with cores := tword.cores.map fun k => (k.1, { k.2 with quarters := k.2.quarters.map fun q =>
        { q with pipeFree := 9 } }) } : State).offers 0 0).map (fun c => (c.promoted, c.pipe)) = [(false, false)]
    ∧ tword.offers 0 1 = []
    ∧ (({ tword with groups := tword.groups.map fun g => (g.1, wave (fun w => { w with brkDue := some 3 }) g.2) } : State).brkNow 0 0).map
      (fun x => (x.1, x.2.1)) = some (0, 0)
    ∧ (tp fun p => { p with hs := .quiesce 4 0 }).quiesced = true ∧ (tr cEncoding).issues = true := by and_intros <;> decide +kernel
/-- The hypotheses of SEQUENCER_PORT_ISSUE: a sequencer that can issue at the first place, and none. -/
theorem meets_SequencerPort :
    tuword.issuing = none ∧ tuword.quiesced = false ∧ (tuword.core 0).seqClk ≠ some tuword.clk ∧ tuword.seqPlace 0 0 = 0
    ∧ (tuword.grp 0).map (tuword.seqReady 0) = some true ∧ (State.reset.grp 0).isSome = false := by decide +kernel

/-- The hypotheses of StepRunsDecodedInstruction: the chosen agent's word is in the row that serves it, and decodes; a word
that is none; an agenda; nothing to do. -/
theorem meets_StepRunsDecodedInstruction :
    (let s := State.reset.withFetchWord 64 0x00027fffdee05003;
      s.clkStop = false ∧ s.issuing = some ⟨.split 0 0 0, none, []⟩
      ∧ (match s.icx with
        | some c => (c.uni, c.pc, (s.core c.core).streamBytes c.gr c.uni (c.gr.streamLen c.uni) c.pc 2,
            (s.core c.core).streamBytes c.gr c.uni (c.gr.streamLen c.uni) c.pc 8)
        | none => (true, 0, none, none))
        = (false, 0, some [0x03, 0x50], some [0x03, 0x50, 0xe0, 0xde, 0xff, 0x7f, 0x02, 0x00]))
    ∧ (match decode .lane 0 [0x03, 0x50, 0xe0, 0xde, 0xff, 0x7f, 0x02, 0x00] 15 with
        | .ok (x, n) => x.toInstr == .addI32 th (.v 5) (.v 5) (.imm 0xfffd) && n == 8
        | .error _ => false) = true
    ∧ (match State.reset.withFetchWord 64 0x00027000000000df with
        | s => match s.icx with
          | some c => (s.issuing.map fun i => (s.chosen c i).isOk) == some false
          | none => false) = true
    ∧ State.reset.issuing = none ∧ State.reset.agenda = []
    ∧ ({ State.reset with agenda := [Instr.freeze] } : State).agenda = [.freeze] ∧ State.reset.held = false
    ∧ (tp fun p => { p with hs := .quiesce 4 0 }).held = true ∧ inbound State.reset (.freqChange 4) = true ∧ inbound State.reset .freeze = false
    ∧ whileStopped .freeze = true ∧ whileStopped (.groupRetire 0) = false
    ∧ ({ State.reset with ingress := [.freqChange 4] } : State).ingress = [.freqChange 4] := by decide +kernel

/-- The hypotheses of EncodeThenDecode: a well-formed instruction of each stream, and a place that suits each size of word. -/
theorem meets_EncodeThenDecode :
    (Instr.addI32 th (.v 5) (.v 5) (.imm 0xfffd)).wf .lane = true ∧ (Instr.launch th (.g 5) (.g 6)).wf .uniform = true
    ∧ (decodeEnc .lane (.w64 0x00027fffdee05003 15)).isSome = true ∧ wordSuits (.w16 0) 6 3 ∧ wordSuits (.w32 0) 4 3
    ∧ wordSuits (.w64 0 3) 8 3 := by
  refine ⟨by decide +kernel, by decide +kernel, by decide +kernel, trivial, trivial, by decide, rfl⟩

/-- The hypotheses of StepKeepsMemoryCanonical: the state after reset. -/
theorem meets_StepKeepsMemoryCanonical : MemoryCanonical State.reset ∧ ∃ t, step State.reset = .next t :=
  ⟨by unfold MemoryCanonical; decide, _, rfl⟩

-- Results worked out by hand from the tables ----------------------------------------------------------

/-- Lane 0 of V5 long after wave 0 of a group changed by f issues i. -/
def after (i : Instr) (f : Group → Group) : Option Word :=
  match exec i (ts me f) with
  | .next t => some (t.vLane 0 0 1000 5 0)
  | _ => none

/-- add.i32 wraps: 2 + (-3) is -1 (08 R195, R198). -/
theorem test_add_wraps : after (.addI32 th (.v 5) (.v 5) (.imm 0xfffd)) (setV 5 2) = some 0xffffffff := by decide +kernel
/-- The signed high half of (-2^31) squared, which is 2^62. -/
theorem test_mulhi_signed : after (.mulhiI32 th (.v 5) (.v 6) (.v 6)) (setV 6 0x80000000) = some 0x40000000 := by decide +kernel
/-- The same bits read as 2^31. -/
theorem test_mulhi_unsigned : after (.mulhiN32 th (.v 5) (.v 6) (.v 7)) (fun g => setV 6 0xffffffff (setV 7 2 g)) = some 1 := by decide +kernel
/-- No bit set: 32 leading zeros. -/
theorem test_clz_zero : after (.clzB32 th (.v 5) (.v 6)) id = some 32 := by decide +kernel
/-- 1 + 2^-24 is a tie and goes to even, 1. -/
theorem test_add_f32_tie : after (.addF32 th 0 (.v 5) (.v 6) (.v 7)) (fun g => setV 6 0x3f800000 (setV 7 0x33800000 g))
    = some 0x3f800000 := by decide +kernel
/-- The difference of two infinities is the canonical NaN (04 R86). -/
theorem test_add_f32_invalid : after (.addF32 th 0 (.v 5) (.v 6) (.v 7)) (fun g => setV 6 0x7f800000 (setV 7 0xff800000 g))
    = some 0x7fc00000 := by decide +kernel
/-- The product is not rounded: (1 + 2^-12)^2 - (1 + 2^-11) is 2^-24. -/
theorem test_fma_f32_exact : after (.fmaF32 th 0 (.v 5) (.v 6) (.v 6) (.v 7)) (fun g => setV 6 0x3f800800 (setV 7 0xbf801000 g))
    = some 0x33800000 := by decide +kernel
/-- A lane outside EM keeps its register. -/
theorem test_inactive_lane : after (.addI32 th (.v 5) (.v 5) (.imm 1)) (fun g => split0 (fun x => { x with em := 2 }) (setV 5 9 g))
    = some 9 := by decide +kernel
/-- A trap ends the task: under no context's policy the group leaves its core (16 R361, R362). -/
theorem test_trap_ends_task : (match exec (.trap th 3) (ts me id) with
    | .next t => (t.grp 0).isNone
    | _ => false) = true := by decide +kernel
/-- A load of a page that is not present parks its wave and writes nothing (11 R271; 16 R365). -/
theorem test_load_parks : (match exec (.ldB32 th (.v 5) (.v 6) noHint) (tc me (fun g => setV 7 0 (setV 6 0x40000000 g))) with
    | .next t => ((t.waveAt 0 0).map fun w => w.parked.isSome) == some true && t.memops.isEmpty
    | _ => false) = true := by decide +kernel
/-- Registers of system space after reset, from the power-on columns of R19, R24, R366, R382 and R384. -/
theorem test_register_words : [SysReg.pkgLive, .pkgFreq, .xqStat 0, .xqHead 0, .dlkStat 3, .dlkCtl 0].flatMap State.reset.regWords
    = [0x0007ffff, 0x00080008, 0, 0x7ff, 0x3c000000, 0x400] := by decide +kernel

end Sys2Proof.Tests
end

section
/-!
SUPPORT. What an event leaves unseen by a program, and what the path of fault records and a forced reset leave as it is
(16 R366, R372).
-/

namespace Sys2Proof.Machine

-- What a program sees ---------------------------------------------------------------------------

/-- What a program's memory, registers and time are taken from. -/
def State.programPart (s : State) := (s.mem, s.sys, s.groups, s.clk)

/-- Memory, registers and the clk are as before. -/
def Unseen (s t : State) : Prop := SameMemory s t ∧ SameRegisters s t ∧ t.clk = s.clk

/-- A step answers a next state of which r holds and in which memory, registers and the clk are as before. -/
def GoesUnseen (s : State) (o : Out) (r : State → Prop) : Prop := ∃ t, o = .next t ∧ Unseen s t ∧ r t

theorem sameMemory_of_eq {s t : State} (hm : t.mem = s.mem) (hs : t.sys = s.sys) : SameMemory s t :=
  ⟨fun a => congrArg (memByte · a) hm, fun a => congrArg (memByte · a) hs⟩

theorem sameRegisters_of_groups {s t : State} (h : t.groups = s.groups) : SameRegisters s t := by
  have hgrp : ∀ g, t.grp g = s.grp g := fun g => congrArg (SMap.get? g) h
  simp [SameRegisters, State.waveAt, State.seqAt, hgrp]

theorem unseen_of_programPart {s t : State} (h : t.programPart = s.programPart) : Unseen s t := by
  obtain ⟨hm, hs, hg, hc⟩ : t.mem = s.mem ∧ t.sys = s.sys ∧ t.groups = s.groups ∧ t.clk = s.clk := by
    simpa [State.programPart] using h
  exact ⟨sameMemory_of_eq hm hs, sameRegisters_of_groups hg, hc⟩

theorem goesUnseen_of_eq {s t : State} {o : Out} {r : State → Prop} (ho : o = .next t)
    (hp : t.programPart = s.programPart) (hr : r t) : GoesUnseen s o r := ⟨t, ho, unseen_of_programPart hp, hr⟩

/-- An event that changes registers of the package alone. -/
theorem goesUnseen_modPkg {s : State} {o : Out} {r : State → Prop} {f : Pkg → Pkg} (ho : o = .next (s.modPkg f))
    (hr : r (s.modPkg f)) : GoesUnseen s o r := goesUnseen_of_eq ho rfl hr

-- The path of fault records (16 R366) -----------------------------------------------------------

/-- A state without what fault records pass through: coalescers, buffers and event queues. -/
def State.besideRecords (s : State) : State :=
  { s with coals := [], fbufs := [], pkg := { s.pkg with xq := [] } }

theorem besideRecords_setCoal (s : State) (u : Nat) (k : Coal) : (s.setCoal u k).besideRecords = s.besideRecords := rfl

theorem besideRecords_bufferIn (s : State) (b : Nat) (r : FRec) : (s.bufferIn b r).besideRecords = s.besideRecords := by
  unfold State.bufferIn
  dsimp only
  split <;> rfl

theorem besideRecords_takeReport (s : State) (u : Nat) (r : FRec) :
    (s.takeReport u r).1.besideRecords = s.besideRecords := by
  unfold State.takeReport
  dsimp only
  split
  · rfl
  split
  · rfl
  split
  · split
    · rfl
    · rw [besideRecords_setCoal, besideRecords_bufferIn]
  · rfl

theorem besideRecords_sendTo (s : State) (u : Nat) (r : FRec) : (s.sendTo u r).besideRecords = s.besideRecords := by
  have h := besideRecords_takeReport s u r
  unfold State.sendTo
  split
  next ht => rwa [ht] at h
  next t ht =>
    rw [ht] at h
    exact (besideRecords_setCoal t ..).trans h

theorem programPart_of_besideRecords {s t : State} (h : t.besideRecords = s.besideRecords) :
    t.programPart = s.programPart := show t.besideRecords.programPart = s.besideRecords.programPart by rw [h]

-- Keys of maps ------------------------------------------------------------------------------------

theorem SMap.isSome_get?_iff {α : Type} (k : Nat) (m : SMap α) :
    (SMap.get? k m).isSome = true ↔ k ∈ List.map Prod.fst m := by
  induction m with
  | nil => simp [SMap.get?]
  | cons p t ih =>
    by_cases h : p.1 = k
    · simp [SMap.get?, h]
    · simp [SMap.get?, h, ih, Ne.symm h]

theorem SMap.mem_of_get? {α : Type} {k : Nat} {m : SMap α} {x : α} (h : SMap.get? k m = some x) : (k, x) ∈ m := by
  induction m with
  | nil => simp [SMap.get?] at h
  | cons p t ih =>
    by_cases hk : p.1 = k
    · simp only [SMap.get?, hk, if_true, Option.some.injEq] at h
      simp [← hk, ← h]
    · simp only [SMap.get?, hk, if_false] at h
      exact List.mem_cons_of_mem _ (ih h)

/-- A map whose values are changed in place, each as its key and value say. -/
theorem SMap.get?_map {α β : Type} (f : Nat → α → β) (k : Nat) (m : SMap α) :
    SMap.get? k (List.map (fun p => (p.1, f p.1 p.2)) m) = (SMap.get? k m).map (f k) := by
  induction m with
  | nil => rfl
  | cons p t ih =>
    by_cases h : p.1 = k
    · simp [SMap.get?, h]
    · simpa [SMap.get?, h] using ih

-- Forced resets (16 R372) -------------------------------------------------------------------------

/-- What a forced reset leaves as it is: memory, contexts, and the package but for its event queues. -/
def State.besideReset (s : State) := (s.mem, s.sys, s.ctxs, { s.pkg with xq := [] })

theorem sameMemory_of_besideReset {s t : State} (h : t.besideReset = s.besideReset) : SameMemory s t :=
  sameMemory_of_eq (congrArg (·.1) h) (congrArg (·.2.1) h)

theorem besideReset_sendTo (s : State) (u : Nat) (r : FRec) : (s.sendTo u r).besideReset = s.besideReset :=
  show (s.sendTo u r).besideRecords.besideReset = s.besideRecords.besideReset by rw [besideRecords_sendTo]

theorem besideReset_leave (s : State) (g : Nat) : (s.leave g).besideReset = s.besideReset := by
  unfold State.leave
  split <;> rfl

theorem besideReset_evict (s : State) (g : Nat) (keep : MemOp → Bool) (kr : Bool) :
    (s.evict g keep kr).besideReset = s.besideReset := by
  unfold State.evict
  split
  · rfl
  · exact besideReset_leave (s.discard g keep kr) g

theorem besideReset_resetGroup (s : State) (g : Nat) : (s.resetGroup g).besideReset = s.besideReset := by
  unfold State.resetGroup
  split
  · rfl
  · rw [besideReset_evict]
    split
    · exact besideReset_sendTo ..
    · rfl

theorem besideReset_foldl (gs : List Nat) (s : State) : (gs.foldl State.resetGroup s).besideReset = s.besideReset :=
  foldl_rel (R := fun (s t : State) => t.besideReset = s.besideReset) (fun _ => rfl) (fun _ _ _ h k => k.trans h) _
    besideReset_resetGroup gs s

theorem besideReset_forceReset (s : State) (c : Nat) : (s.forceReset c).besideReset = s.besideReset :=
  (besideReset_sendTo ..).trans (besideReset_foldl _ s)

theorem grp_eq_of_absent {s : State} {g : Nat} (h : s.grp g = none) (g' : Nat) :
    s.grp g' = if g' = g then none else s.grp g' := by
  split
  next hg => rw [hg, h]
  next => rfl

theorem grp_leave (s : State) (g g' : Nat) : (s.leave g).grp g' = if g' = g then none else s.grp g' := by
  unfold State.leave
  split
  next h => exact grp_eq_of_absent h g'
  next => exact SMap.get?_erase g g' s.groups

theorem grp_evict (s : State) (g g' : Nat) (keep : MemOp → Bool) (kr : Bool) :
    (s.evict g keep kr).grp g' = if g' = g then none else s.grp g' := by
  unfold State.evict
  split
  next h => exact grp_eq_of_absent h g'
  next => exact grp_leave (s.discard g keep kr) g g'

theorem grp_sendTo (s : State) (u : Nat) (r : FRec) (g : Nat) : (s.sendTo u r).grp g = s.grp g :=
  show (s.sendTo u r).besideRecords.grp g = s.besideRecords.grp g by rw [besideRecords_sendTo]

theorem grp_resetGroup (s : State) (g g' : Nat) : (s.resetGroup g).grp g' = if g' = g then none else s.grp g' := by
  unfold State.resetGroup
  split
  next h => exact grp_eq_of_absent h g'
  next =>
    rw [grp_evict]
    congr 1
    split
    · exact grp_sendTo ..
    · rfl

theorem grp_foldl_resetGroup (gs : List Nat) (s : State) (g : Nat) :
    (gs.foldl State.resetGroup s).grp g = if g ∈ gs then none else s.grp g := by
  induction gs generalizing s with
  | nil => simp
  | cons a t ih =>
    rw [List.foldl_cons, ih, grp_resetGroup]
    by_cases h1 : g = a <;> by_cases h2 : g ∈ t <;> simp [h1, h2]

/-- A forced reset of a context leaves no group of it. -/
theorem grp_forceReset {s : State} {g : Nat} {gr : Group} (h : s.grp g = some gr) : (s.forceReset gr.ctx).grp g = none := by
  have hmem : g ∈ (s.groups.filter fun x => x.2.ctx == gr.ctx).map (·.1) :=
    List.mem_map.2 ⟨(g, gr), List.mem_filter.2 ⟨SMap.mem_of_get? h, by simp⟩, rfl⟩
  exact (grp_sendTo ..).trans ((grp_foldl_resetGroup _ s g).trans (if_pos hmem))

end Sys2Proof.Machine
end

section
/-!
SUPPORT. What the events of the clock do: the handshake, freeze and thaw (01 R24 to R27; 16 R373), and power (17 R385).
-/

namespace Sys2Proof.Machine

-- The handshake (01 R24 to R27) -----------------------------------------------------------------

theorem execFreqChange_busy {s : State} (k : BitVec 8) (hb : s.pkg.freqBusy = true) : execFreqChange k s = .next s := by
  simp [execFreqChange, hb]

theorem execFreqChange_outside {s : State} {k : BitVec 8} (hb : s.pkg.freqBusy = false) (hk : k < 4 ∨ 16 < k) :
    execFreqChange k s = .next (s.modPkg fun p => { p with freqBad := true }) := by
  unfold execFreqChange
  rw [if_neg (by simp [hb]), if_pos (by simpa using hk)]

theorem execFreqChange_accepts {s : State} {k : BitVec 8} (hb : s.pkg.freqBusy = false) (h4 : 4 ≤ k) (h16 : k ≤ 16) :
    execFreqChange k s
      = .next (s.modPkg fun p => { p.acceptStep (s.askedStep k) with pwr := { p.pwr with want := k } }) := by
  have hk : ¬ (k < 4 ∨ 16 < k) := by bv_omega
  unfold execFreqChange
  rw [if_neg (by simp [hb]), if_neg (by simpa using hk)]

theorem execFreqChange_starts {s : State} {k : BitVec 8} (hb : s.pkg.freqBusy = false) (h4 : 4 ≤ k) (h16 : k ≤ 16)
    (hne : s.askedStep k ≠ s.pkg.freqCur) :
    GoesUnseen s (execFreqChange k s) fun t =>
      t.pkg.freqBusy = true ∧ t.pkg.freqBad = false ∧ t.pkg.freqAbort = false ∧ t.pkg.freqTgt = s.askedStep k
        ∧ t.pkg.freqCur = s.pkg.freqCur ∧ t.pkg.hs = .quiesce (s.askedStep k).toNat 0 ∧ t.pkg.pwr.want = k :=
  goesUnseen_modPkg (execFreqChange_accepts hb h4 h16) (by simp [Pkg.acceptStep, hne])

theorem execFreqChange_sameStep {s : State} {k : BitVec 8} (hb : s.pkg.freqBusy = false) (h4 : 4 ≤ k) (h16 : k ≤ 16)
    (heq : s.askedStep k = s.pkg.freqCur) :
    GoesUnseen s (execFreqChange k s) fun t =>
      t.pkg.freqBusy = false ∧ t.pkg.hs = s.pkg.hs ∧ t.pkg.freqCur = s.pkg.freqCur :=
  goesUnseen_modPkg (execFreqChange_accepts hb h4 h16) (by simp [Pkg.acceptStep, heq, hb])

section Quiescing
variable {s : State} {n : Nat} {got : BitVec 19} (hq : s.pkg.hs = .quiesce n got)
include hq

theorem execDieQuiesced_waits {die : Nat} (h : bit s.pkg.liveDies die = false ∨ bit got die = true
    ∨ s.issuing.isSome = true ∨ s.dieBusy die = true) : execDieQuiesced die s = .next s := by
  have hw : (s.issuing.isSome || !bit s.pkg.liveDies die || bit got die || s.dieBusy die) = true := by
    rcases h with h | h | h | h <;> simp [h]
  simp only [execDieQuiesced, hq, hw, if_true]

theorem execDieQuiesced_reports {die : Nat} (hl : bit s.pkg.liveDies die = true) (hg : bit got die = false)
    (hi : s.issuing = none) (hb : s.dieBusy die = false) :
    GoesUnseen s (execDieQuiesced die s) fun t =>
      if got ||| BitVec.ofNat 19 (2 ^ die) = s.pkg.liveDies then t.pkg.hs = .relock n ∧ t.clkStop = true
      else t.pkg.hs = .quiesce n (got ||| BitVec.ofNat 19 (2 ^ die)) ∧ t.clkStop = s.clkStop := by
  have hw : ¬ (s.issuing.isSome || !bit s.pkg.liveDies die || bit got die || s.dieBusy die) = true := by
    simp [hl, hg, hi, hb]
  simp only [execDieQuiesced, hq, hw]
  by_cases hlast : got ||| BitVec.ofNat 19 (2 ^ die) = s.pkg.liveDies
  · exact goesUnseen_of_eq (if_pos hlast) rfl (by rw [if_pos hlast]; exact ⟨rfl, rfl⟩)
  · exact goesUnseen_of_eq (if_neg hlast) rfl (by rw [if_neg hlast]; exact ⟨rfl, rfl⟩)

/-- The record of the timeout goes to the S-die's coalescer; the registers of the handshake are as abandoned. -/
theorem execHandshakeTimeout_abandons :
    GoesUnseen s (execHandshakeTimeout s) fun t =>
      t.pkg.hs = .idle ∧ t.pkg.freqBusy = false ∧ t.pkg.freqAbort = true ∧ t.pkg.freqCur = s.pkg.freqCur := by
  obtain ⟨r, hr⟩ : ∃ r, execHandshakeTimeout s = .next (s.drawn.abandon.sendTo unitS r) := by
    simp only [execHandshakeTimeout, hq]
    exact ⟨_, rfl⟩
  have h := besideRecords_sendTo s.drawn.abandon unitS r
  refine goesUnseen_of_eq hr ((programPart_of_besideRecords h).trans rfl) ⟨?_, ?_, ?_, ?_⟩
  · exact congrArg (·.pkg.hs) h
  · exact congrArg (·.pkg.freqBusy) h
  · exact congrArg (·.pkg.freqAbort) h
  · exact congrArg (·.pkg.freqCur) h

end Quiescing

theorem freqEnds_cap (p : Pkg) : p.freqEnds.pwr.cap = p.pwr.capWait.getD p.pwr.cap := by
  unfold Pkg.freqEnds
  cases h : p.pwr.capWait <;> simp

/-- The fifth phase follows the relock, but for a freeze that holds it. -/
theorem execPllRelocked_relocks {s : State} {n : Nat} (hq : s.pkg.hs = .relock n) :
    ∃ t, execPllRelocked s = .next t ∧ SameMemory s t ∧ SameRegisters s t ∧ t.pkg.freqCur = BitVec.ofNat 8 n
      ∧ (s.frozen = true → t.pkg.hs = .relocked ∧ t.pkg.freqBusy = s.pkg.freqBusy ∧ t.clk = s.clk ∧ t.clkStop = s.clkStop)
      ∧ (s.frozen = false → t.pkg.hs = .idle ∧ t.pkg.freqBusy = false ∧ t.clk = s.clk + 1 ∧ t.clkStop = false
          ∧ t.pkg.pwr.cap = s.pkg.pwr.capWait.getD s.pkg.pwr.cap) := by
  cases hf : s.frozen with
  | true =>
    refine ⟨(s.modPkg fun p => { p with freqCur := BitVec.ofNat 8 n }).modPkg fun p => { p with hs := .relocked }, ?_,
      sameMemory_of_eq rfl rfl, sameRegisters_of_groups rfl, ?_⟩
    · simp [execPllRelocked, hq, hf]
    · simp
  | false =>
    refine ⟨(s.modPkg fun p => { p with freqCur := BitVec.ofNat 8 n }).resume, ?_, sameMemory_of_eq rfl rfl,
      sameRegisters_of_groups rfl, rfl, ?_⟩
    · simp [execPllRelocked, hq, hf]
    · simp [State.resume, freqEnds_cap]
      simp [Pkg.freqEnds]

-- Freeze, thaw and readout (01 R27; 16 R373) ------------------------------------------------------

theorem execFreeze_stops (s : State) :
    GoesUnseen s (execFreeze s) fun t => t.frozen = true ∧ t.clkStop = true ∧ t.pkg.frz = true
      ∧ ∀ n got, s.pkg.hs = .quiesce n got → t.pkg.hs = .idle ∧ t.pkg.freqBusy = false ∧ t.pkg.freqAbort = true := by
  cases hq : s.pkg.hs with
  | quiesce n got =>
    refine goesUnseen_of_eq (t := s.freeze) rfl ?_ ?_ <;> simp only [State.freeze, hq]
    · rfl
    · simp [State.abandon, Pkg.freqEnds]
  | idle | relock | relocked =>
    refine goesUnseen_of_eq (t := s.freeze) rfl ?_ ?_ <;> simp only [State.freeze, hq]
    · rfl
    · simp

/-- A thaw lets one clk pass, but for a relock that still holds the clock. -/
theorem execThaw_restarts (s : State) :
    ∃ t, execThaw s = .next t ∧ SameMemory s t ∧ SameRegisters s t ∧ t.frozen = false ∧ t.pkg.frz = false
      ∧ (s.frozen = true → (∀ n, s.pkg.hs ≠ .relock n) → t.clk = s.clk + 1 ∧ t.clkStop = false)
      ∧ (s.frozen = true → s.pkg.hs = .relocked → t.pkg.hs = .idle ∧ t.pkg.freqBusy = false)
      ∧ (∀ n, s.frozen = true → s.pkg.hs = .relock n → t.clk = s.clk ∧ t.clkStop = s.clkStop)
      ∧ (s.frozen = false → t.clk = s.clk ∧ t.clkStop = s.clkStop) := by
  refine ⟨s.thaw, rfl, ?_⟩
  cases hf : s.frozen with
  | false =>
    have ht : s.thaw = s.modPkg fun p => { p with frz := false } := by simp [State.thaw, hf]
    rw [ht]
    exact ⟨sameMemory_of_eq rfl rfl, sameRegisters_of_groups rfl, by simp [hf]⟩
  | true =>
    cases hq : s.pkg.hs with
    | relocked =>
      have ht : s.thaw = { s.modPkg fun p => { p with frz := false } with frozen := false }.resume := by
        simp [State.thaw, hf, hq]
      rw [ht]
      exact ⟨sameMemory_of_eq rfl rfl, sameRegisters_of_groups rfl, by simp [State.resume, Pkg.freqEnds]⟩
    | relock n =>
      have ht : s.thaw = { s.modPkg fun p => { p with frz := false } with frozen := false } := by
        simp [State.thaw, hf, hq]
      rw [ht]
      exact ⟨sameMemory_of_eq rfl rfl, sameRegisters_of_groups rfl, by simp⟩
    | idle | quiesce =>
      have ht : s.thaw = { s.modPkg fun p => { p with frz := false } with
          frozen := false, clkStop := false, clk := s.clk + 1 } := by
        simp [State.thaw, hf, hq]
      rw [ht]
      exact ⟨sameMemory_of_eq rfl rfl, sameRegisters_of_groups rfl, by simp⟩

theorem execStateReadout_eq (s : State) (die : Nat) :
    (s.frozen = false → execStateReadout die s = .next s)
      ∧ (s.frozen = true → execStateReadout die s = .next { s with outbox := s.outbox ++ [.readout die s.clk] }) := by
  constructor <;> intro h <;> simp [execStateReadout, h]

-- Power (17 R381, R385) -------------------------------------------------------------------------

theorem stepBetween_mem {lo hi : BitVec 8} (free : DWord) (h : lo < hi) :
    lo < stepBetween free lo hi ∧ stepBetween free lo hi ≤ hi := by
  have hlt : lo.toNat < hi.toNat := h
  have hr : free.toNat / 2 % (hi.toNat - lo.toNat) < hi.toNat - lo.toNat := Nat.mod_lt _ (by omega)
  have hv : (stepBetween free lo hi).toNat = lo.toNat + 1 + free.toNat / 2 % (hi.toNat - lo.toNat) := by
    have hone : (1 : BitVec 8).toNat = 1 := rfl
    have := hi.isLt
    simp only [stepBetween, BitVec.toNat_add, BitVec.toNat_ofNat, hone]
    omega
  constructor
  · show lo.toNat < _
    omega
  · show _ ≤ hi.toNat
    omega

theorem acceptStep_starts {p : Pkg} {t : BitVec 8} (h : t ≠ p.freqCur) :
    (p.acceptStep t).freqBusy = true ∧ (p.acceptStep t).freqTgt = t := by
  simp [Pkg.acceptStep, h]

theorem acceptStep_freqCur (p : Pkg) (t : BitVec 8) : (p.acceptStep t).freqCur = p.freqCur := by
  unfold Pkg.acceptStep
  dsimp only
  split <;> rfl

/-- Enforcing the cap moves steps and counts, and no result of the measurement. -/
theorem enforceCap_keeps (p : Pkg) (hostStep : Bool) (free : DWord) :
    (p.enforceCap hostStep free).pwr.draw = p.pwr.draw ∧ (p.enforceCap hostStep free).pwr.above = p.pwr.above
      ∧ (p.enforceCap hostStep free).pwr.floor = p.pwr.floor ∧ (p.enforceCap hostStep free).pwr.cap = p.pwr.cap
      ∧ (p.enforceCap hostStep free).freqCur = p.freqCur := by
  unfold Pkg.enforceCap
  dsimp only
  split
  · simp [acceptStep_freqCur]
  split
  · split
    · split <;> simp
    · split <;> simp [acceptStep_freqCur]
  · simp

theorem enforceCap_lowers {p : Pkg} (hostStep : Bool) (free : DWord) (ha : p.pwr.above = true) (h4 : 4 < p.freqCur)
    (hr : 10 * p.pwr.resp.toNat ≤ p.pwr.overFor) :
    let q := p.enforceCap hostStep free
    q.freqBusy = true ∧ 4 ≤ q.freqTgt ∧ q.freqTgt < p.freqCur ∧ (hostStep = true → q.pwr.ceil = q.freqTgt) := by
  intro q
  obtain ⟨hlo, hhi⟩ := stepBetween_mem (lo := 3) (hi := p.freqCur - 1) free (by bv_omega)
  obtain ⟨hbusy, htgt⟩ := acceptStep_starts (p := p) (t := stepBetween free 3 (p.freqCur - 1)) (by bv_omega)
  have hq : q = { p.acceptStep (stepBetween free 3 (p.freqCur - 1)) with
      pwr := { p.pwr with
        overFor := 0
        ceil := if hostStep then stepBetween free 3 (p.freqCur - 1) else p.pwr.ceil } } :=
    if_pos (by simp only [ha, decide_eq_true h4, decide_eq_true hr, Bool.or_true, Bool.and_self])
  rw [hq]
  refine ⟨hbusy, ?_, ?_, ?_⟩
  · simp only [htgt]; bv_omega
  · simp only [htgt]; bv_omega
  · intro h
    exact (if_pos h).trans htgt.symm

theorem enforceCap_raises {p : Pkg} (free : DWord) (ha : p.pwr.above = false) (hw : 10 * p.pwr.win.toNat ≤ p.pwr.lowFor)
    (hc : p.freqCur < p.pwr.want) :
    let q := p.enforceCap false free
    q.freqBusy = true ∧ p.freqCur < q.freqTgt ∧ q.freqTgt ≤ p.pwr.want := by
  intro q
  obtain ⟨hlo, hhi⟩ := stepBetween_mem free hc
  obtain ⟨hbusy, htgt⟩ := acceptStep_starts (p := p) (t := stepBetween free p.freqCur p.pwr.want) (by bv_omega)
  have hq : q = { p.acceptStep (stepBetween free p.freqCur p.pwr.want) with pwr := { p.pwr with lowFor := 0 } } := by
    exact (if_neg (by simp [ha])).trans ((if_pos hw).trans (if_pos hc))
  rw [hq]
  exact ⟨hbusy, by simp only [htgt]; exact hlo, by simp only [htgt]; exact hhi⟩

theorem enforceCap_raisesCeiling {p : Pkg} (free : DWord) (ha : p.pwr.above = false)
    (hw : 10 * p.pwr.win.toNat ≤ p.pwr.lowFor) (hc : p.pwr.ceil < 16) :
    p.pwr.ceil < (p.enforceCap true free).pwr.ceil ∧ (p.enforceCap true free).pwr.ceil ≤ 16 := by
  have hq : p.enforceCap true free
      = { p with pwr := { p.pwr with lowFor := 0, ceil := stepBetween free p.pwr.ceil 16 } } := by
    exact (if_neg (by simp [ha])).trans ((if_pos hw).trans (if_pos hc))
  rw [hq]
  exact stepBetween_mem free hc

/-- An average above the cap is not 5 % below it. -/
theorem not_above_of_below {cap len sum : Nat} (h : sum * 100 ≤ cap * 95 * len) : ¬ cap * len < sum := by
  have : cap * 95 * len = 95 * (cap * len) := by ring
  omega

theorem execPowerSample_idle {s : State} (w : BitVec 16) (h : s.duty 3 = true ∨ s.held = true) :
    execPowerSample w s = .next (s.modPkg fun p => { p with pwr := p.pwr.measured p.freqCur w }) := by
  unfold execPowerSample
  exact if_pos (by simpa using h)

theorem execPowerSample_acts {s : State} (w : BitVec 16) (h : ¬ (s.duty 3 = true ∨ s.held = true)) :
    execPowerSample w s = .next ((s.modPkg fun p => { p with pwr := p.pwr.measured p.freqCur w }).modPkg
      fun p => p.enforceCap (s.duty 5) s.freeVal).drawn := by
  unfold execPowerSample
  exact if_neg (by simpa using h)

theorem execPowerSample_measures (s : State) (w : BitVec 16) :
    let p := s.pkg
    let xs := (w :: p.pwr.samples).take (10 * p.pwr.win.toNat)
    let sum := xs.foldl (fun n x => n + x.toNat) 0
    let above := p.pwr.cap.toNat * xs.length < sum
    let below := sum * 100 ≤ p.pwr.cap.toNat * 95 * xs.length
    let idle := s.duty 3 = true ∨ s.held = true
    GoesUnseen s (execPowerSample w s) fun t =>
      t.pkg.pwr.draw = BitVec.ofNat 16 (sum / xs.length) ∧ t.pkg.pwr.above = decide above
      ∧ t.pkg.pwr.floor = (decide above && p.freqCur == 4) ∧ t.pkg.pwr.cap = p.pwr.cap ∧ t.pkg.freqCur = p.freqCur
      ∧ (idle → t.pkg.freqBusy = p.freqBusy ∧ t.pkg.hs = p.hs ∧ t.pkg.freqTgt = p.freqTgt ∧ t.pkg.pwr.ceil = p.pwr.ceil)
      ∧ (¬ idle → above → 4 < p.freqCur → 10 * p.pwr.resp.toNat ≤ p.pwr.overFor + 1 →
          t.pkg.freqBusy = true ∧ 4 ≤ t.pkg.freqTgt ∧ t.pkg.freqTgt < p.freqCur
          ∧ (s.duty 5 = true → t.pkg.pwr.ceil = t.pkg.freqTgt))
      ∧ (¬ idle → below → 10 * p.pwr.win.toNat ≤ p.pwr.lowFor + 1 →
          (s.duty 5 = false → p.freqCur < p.pwr.want →
            t.pkg.freqBusy = true ∧ p.freqCur < t.pkg.freqTgt ∧ t.pkg.freqTgt ≤ p.pwr.want)
          ∧ (s.duty 5 = true → p.pwr.ceil < 16 → p.pwr.ceil < t.pkg.pwr.ceil ∧ t.pkg.pwr.ceil ≤ 16)) := by
  intro p xs sum above below idle
  by_cases hidle : idle
  · exact goesUnseen_modPkg (execPowerSample_idle w hidle)
      ⟨rfl, rfl, rfl, rfl, rfl, fun _ => ⟨rfl, rfl, rfl, rfl⟩, fun h => absurd hidle h, fun h => absurd hidle h⟩
  · let m : Pkg := { p with pwr := p.pwr.measured p.freqCur w }
    obtain ⟨hdraw, habove, hfloor, hcap, hcur⟩ := enforceCap_keeps m (s.duty 5) s.freeVal
    refine goesUnseen_of_eq (execPowerSample_acts w hidle) rfl
      ⟨hdraw, habove, hfloor, hcap, hcur, fun h => absurd h hidle, fun _ ha h4 hr => ?_, fun _ hb hw => ?_⟩
    · have hover : m.pwr.overFor = p.pwr.overFor + 1 := if_pos (decide_eq_true ha)
      exact enforceCap_lowers (p := m) (s.duty 5) s.freeVal (decide_eq_true ha) h4 (hover ▸ hr)
    · have hlow : m.pwr.lowFor = p.pwr.lowFor + 1 := if_pos (decide_eq_true hb)
      have hna : m.pwr.above = false := decide_eq_false (not_above_of_below hb)
      constructor
      · intro h5 hc
        have h := enforceCap_raises (p := m) s.freeVal hna (hlow ▸ hw) hc
        rwa [← h5] at h
      · intro h5 hc
        have h := enforceCap_raisesCeiling (p := m) s.freeVal hna (hlow ▸ hw) hc
        rwa [← h5] at h

end Sys2Proof.Machine
end

section
/-!
SUPPORT. What the events of Daxig Link ports and routes do (17 R383, R384, R386).
-/

namespace Sys2Proof.Machine

-- Ports and routes (17 R383, R384, R386) ----------------------------------------------------------

/-- A step answers a next state in which r holds of port n and no other port has changed, nor what a program sees. -/
def PortGoes (s : State) (n : Nat) (o : Out) (r : Port → Prop) : Prop :=
  GoesUnseen s o fun t => ∃ q, t.pkg.ports[n]? = some q ∧ r q ∧ ∀ m, m ≠ n → t.pkg.ports[m]? = s.pkg.ports[m]?

section Port
variable {s : State} {n : Nat} {q : Port} (hq : s.pkg.ports[n]? = some q)
include hq

theorem ports_set_get {q' : Port} {r : Port → Prop} (hr : r q') :
    ∃ x, (s.pkg.ports.set n q')[n]? = some x ∧ r x ∧ ∀ m, m ≠ n → (s.pkg.ports.set n q')[m]? = s.pkg.ports[m]? := by
  obtain ⟨hn, -⟩ := List.getElem?_eq_some_iff.1 hq
  exact ⟨q', by simp [hn], hr, fun m hm => List.getElem?_set_ne hm.symm⟩

theorem onPort_none {f : Port → Option Port} (hf : f q = none) : s.onPort n f = .next s := by
  simp [State.onPort, State.portAs, hq, hf]

variable (hl : s.pkg.portLive n = true)
include hl

theorem portAs_some {f : Port → Option Port} {q' : Port} (hf : f q = some q') :
    s.portAs n f = some (s.modPkg fun k => { k with ports := k.ports.set n q' }) := by
  simp [State.portAs, hl, hq, hf]

theorem onPort_goes {f : Port → Option Port} {q' : Port} {r : Port → Prop} (hf : f q = some q') (hr : r q') :
    PortGoes s n (s.onPort n f) r :=
  goesUnseen_modPkg (f := fun k => { k with ports := k.ports.set n q' })
    (by simp [State.onPort, portAs_some hq hl hf]) (ports_set_get hq hr)

theorem execFlitReplay_goes (ok : Bool) (hu : q.up = true) :
    PortGoes s n (execFlitReplay n ok s) fun r =>
      r.replays = (if q.replays = 0xffff then q.replays else q.replays + 1) ∧ r.fails = if ok then 0 else q.fails + 1 :=
  onPort_goes hq hl (if_pos hu) ⟨rfl, rfl⟩

theorem execPortRetrain_goes (h8 : 8 ≤ q.fails) (hr : q.retrain = false) :
    PortGoes s n (execPortRetrain n s) fun r => r.retrain = true ∧ r.up = false ∧ r.fails = 0 :=
  onPort_goes hq hl (if_pos (by simp [h8, hr])) ⟨rfl, rfl, rfl⟩

omit hl in
theorem execPortRetrain_waits (h8 : q.fails < 8) : execPortRetrain n s = .next s :=
  onPort_none hq (if_neg (by simp [h8]))

/-- A port that goes down takes its routes with it. -/
theorem execPortDown_eq (h : (q.up || q.retrain) = true) :
    execPortDown n s = .next (s.modPkg fun k => { k with
      ports := k.ports.set n { q with up := false, retrain := false }
      routes := k.routes.filter fun r => r.2 != n }) := by
  unfold execPortDown
  rw [portAs_some hq hl (q' := { q with up := false, retrain := false }) ?_]
  · rfl
  · exact if_pos h

theorem execPortDown_goes (h : (q.up || q.retrain) = true) :
    PortGoes s n (execPortDown n s) (fun r => r.up = false ∧ r.retrain = false)
      ∧ ∃ t, execPortDown n s = .next t ∧ ∀ r, r ∈ t.pkg.routes ↔ r ∈ s.pkg.routes ∧ r.2 ≠ n :=
  ⟨goesUnseen_modPkg (execPortDown_eq hq hl h) (ports_set_get hq ⟨rfl, rfl⟩),
    _, execPortDown_eq hq hl h, fun r => by simp⟩

theorem execLinkTrained_goes (hu : q.up = false) :
    PortGoes s n (execLinkTrained n s) fun r => r.up = true ∧ r.retrain = false ∧ r.fails = 0 :=
  onPort_goes hq hl (if_neg (by simp [hu])) ⟨rfl, rfl, rfl⟩

theorem execLaneSpare_goes (l : Nat) :
    let cnt := q.lanecnt.set l (BitVec.ofNat 16 (min 0xffff ((q.lanecnt.getD l 0).toNat + 1)))
    let moves := l < 8 ∧ q.splane = 0xf ∧ q.lanecnt.getD l 0 ≤ q.spthr ∧ q.spthr < cnt.getD l 0
    (q.up = true → l < 9 → PortGoes s n (execLaneSpare n l s) fun r => r.lanecnt = cnt
        ∧ (¬ moves → r.splane = q.splane ∧ r.spreq = q.spreq)
        ∧ (moves → if s.duty 4 then r.spreq = true ∧ r.splane = 0xf else r.splane = BitVec.ofNat 4 l))
      ∧ (q.up = false ∨ 9 ≤ l → execLaneSpare n l s = .next s) := by
  intro cnt moves
  have hwhen : (decide (l < 8) && q.splane == 0xf && decide (q.errs l ≤ q.spthr) && decide (q.spthr < (q.counted l).errs l))
      = true ↔ moves := by
    simp only [Bool.and_eq_true, decide_eq_true_eq, beq_iff_eq, and_assoc]
    rfl
  refine ⟨fun hu h9 => ?_, fun h => onPort_none hq (if_pos (by simpa using h))⟩
  have hin : ¬ (!q.up || decide (9 ≤ l)) = true := by simp [hu, h9]
  refine onPort_goes hq hl ((if_neg hin).trans rfl) ⟨?_, fun hm => ?_, fun hm => ?_⟩
  · split
    · split <;> rfl
    · rfl
  · rw [if_neg (mt hwhen.1 hm)]
    exact ⟨rfl, rfl⟩
  · obtain ⟨-, hfree, -⟩ := id hm
    rw [if_pos (hwhen.2 hm)]
    cases s.duty 4 with
    | true => exact ⟨rfl, hfree⟩
    | false => exact rfl

theorem execLaneSpareGo_goes (l : Nat) :
    PortGoes s n (execLaneSpareGo n l s) fun r => r.spsel = BitVec.ofNat 4 l
      ∧ (r.splane, r.spreq) = if q.spreq = true ∧ q.splane = 0xf ∧ BitVec.ofNat 4 l < 8 then (BitVec.ofNat 4 l, false)
        else (q.splane, q.spreq) := by
  refine onPort_goes hq hl rfl ?_
  by_cases h : q.spreq = true ∧ q.splane = 0xf ∧ BitVec.ofNat 4 l < 8
  · rw [if_pos h, Port.spare, if_pos (by simpa [and_assoc] using h)]
    exact ⟨rfl, rfl⟩
  · rw [if_neg h, Port.spare, if_neg (by simpa [and_assoc] using h)]
    exact ⟨rfl, rfl⟩

omit hq hl in
theorem secondFails_iff (q : Port) : q.secondFails = true
    ↔ q.splane ≠ 0xf ∧ ∃ l, l < 9 ∧ l ≠ q.splane.toNat ∧ q.spthr < q.lanecnt.getD l 0 := by
  simp [Port.secondFails, Port.errs]

theorem execPortHalfWidth_goes :
    let second := q.splane ≠ 0xf ∧ ∃ l, l < 9 ∧ l ≠ q.splane.toNat ∧ q.spthr < q.lanecnt.getD l 0
    (second → q.half = false → PortGoes s n (execPortHalfWidth n s) fun r => r.half = true ∧ r.lanecnt = q.lanecnt)
      ∧ (¬ second ∨ q.half = true → execPortHalfWidth n s = .next s) := by
  intro second
  refine ⟨fun h hh => onPort_goes hq hl (if_pos (by simp [(secondFails_iff q).2 h, hh])) ⟨rfl, rfl⟩,
    fun h => onPort_none hq (if_neg ?_)⟩
  rcases h with h | h
  · simp [mt (secondFails_iff q).1 h]
  · simp [h]

theorem execLaneCountWindow_goes (h : q.winStart + 2 ^ 24 ≤ s.clk) :
    PortGoes s n (execLaneCountWindow n s) fun r => (∀ c ∈ r.lanecnt, c = 0) ∧ r.winStart = s.clk :=
  onPort_goes hq hl (if_pos h) ⟨fun _ hc => List.eq_of_mem_replicate hc, rfl⟩

omit hl in
theorem execLaneCountWindow_waits (h : s.clk < q.winStart + 2 ^ 24) : execLaneCountWindow n s = .next s :=
  onPort_none hq (if_neg (Nat.not_le.2 h))

omit hl in
theorem execRegisterWrite_dlkCtl {v : DWord} (hv : bit v 31 = false) :
    PortGoes s n (execRegisterWrite (.dlkCtl n) v s) fun r =>
      r.spthr = v.extractLsb' 0 16 ∧ r.spsel = v.extractLsb' 27 4 ∧ r.splane = q.splane := by
  refine goesUnseen_modPkg rfl ⟨{ q with spsel := v.extractLsb' 27 4, spthr := v.extractLsb' 0 16 }, ?_, ⟨rfl, rfl, rfl⟩, ?_⟩
  · simp [updAt_get?, hq, hv]
  · intro m hm
    simp [updAt_get?, hm]

omit hq in
theorem execFabricRouteUpdate_goes (k : Nat) (up : Bool) :
    GoesUnseen s (execFabricRouteUpdate k up n s) fun t =>
      ∀ r, r ∈ t.pkg.routes ↔ (r ∈ s.pkg.routes ∧ r ≠ (k, n)) ∨ (up = true ∧ r = (k, n)) := by
  refine goesUnseen_modPkg (if_neg (by simp [hl])) ?_
  rintro ⟨a, b⟩
  cases up <;> simp [imp_iff_not_or]

end Port

end Sys2Proof.Machine
end

section
/-!
SUPPORT. What the host's events and accesses and the writes of system-space registers do (00 R8; 17 R377 to R388).
-/

namespace Sys2Proof.Machine

-- The loss of a host link (17 R386) ---------------------------------------------------------------

theorem forceDrained_pkg (s : State) (c : Nat) :
    (s.forceDrained c).pkg.ctxcmd = s.pkg.ctxcmd ∧ (s.forceDrained c).pkg.up = s.pkg.up
      ∧ (s.forceDrained c).pkg.hostUp = s.pkg.hostUp :=
  have h := besideReset_forceReset s c
  ⟨congrArg (·.2.2.2.ctxcmd) h, congrArg (·.2.2.2.up) h, congrArg (·.2.2.2.hostUp) h⟩

theorem forceDrained_memory (s : State) (c : Nat) : (s.forceDrained c).mem = s.mem ∧ (s.forceDrained c).sys = s.sys :=
  have h := besideReset_forceReset s c
  ⟨congrArg (·.1) h, congrArg (·.2.1) h⟩

theorem forceDrained_context (s : State) (c c' : Nat) :
    (s.forceDrained c).context c'
      = if c' = c then (s.context c).map fun y => { y with st := .drained } else s.context c' := by
  have h : (s.forceReset c).ctxs = s.ctxs := congrArg (·.2.2.1) (besideReset_forceReset s c)
  show SMap.get? c' (SMap.mod c _ (s.forceReset c).ctxs) = _
  rw [SMap.get?_mod, h]
  rfl

/-- CMD 2 with ARG 1: the forced drain of a context that there is. -/
theorem ctxCommand_forced {s : State} {c : Nat} (hup : s.pkg.up = true) (hb : s.pkg.ctxcmd.busy = false) (hc : c < 4096)
    (hx : (s.context c).isSome = true) :
    s.ctxCommand 2 (BitVec.ofNat 12 c) 1 false = (s.forceDrained c).ctxTook false 2 (BitVec.ofNat 12 c) 1 := by
  obtain ⟨x, hx⟩ := Option.isSome_iff_exists.1 hx
  have hn : (BitVec.ofNat 12 c).toNat = c := by simp; omega
  simp [State.ctxCommand, hup, hb, hn, hx]

/-- The forced drains that firmware writes for contexts one after the other. -/
def State.drainAll (s : State) (cs : List Nat) : State :=
  cs.foldl (fun (s : State) c => s.ctxCommand 2 (BitVec.ofNat 12 c) 1 false) s

theorem drainAll_spec (cs : List Nat) (s : State) (hup : s.pkg.up = true) (hb : s.pkg.ctxcmd.busy = false)
    (hcs : ∀ c ∈ cs, c < 4096 ∧ (s.context c).isSome = true) :
    (s.drainAll cs).mem = s.mem ∧ (s.drainAll cs).sys = s.sys ∧ (s.drainAll cs).pkg.hostUp = s.pkg.hostUp
      ∧ (∀ c, (s.drainAll cs).context c
          = if c ∈ cs then (s.context c).map fun y => { y with st := .drained } else s.context c)
      ∧ ∀ c, cs.getLast? = some c → (s.drainAll cs).pkg.ctxcmd = ⟨false, false, 2, BitVec.ofNat 12 c, 1⟩ := by
  induction cs generalizing s with
  | nil => simp [State.drainAll]
  | cons a t ih =>
    obtain ⟨ha, hxa⟩ := hcs a (by simp)
    let u := (s.forceDrained a).ctxTook false 2 (BitVec.ofNat 12 a) 1
    have hstep : s.drainAll (a :: t) = u.drainAll t :=
      congrArg (fun v : State => v.drainAll t) (ctxCommand_forced hup hb ha hxa)
    obtain ⟨-, hup', hhost⟩ := forceDrained_pkg s a
    obtain ⟨hmem, hsys⟩ := forceDrained_memory s a
    have hctx : ∀ c, u.context c = if c = a then (s.context a).map fun y => { y with st := .drained } else s.context c :=
      forceDrained_context s a
    have hsome : ∀ c ∈ t, c < 4096 ∧ (u.context c).isSome = true := fun c hc => by
      obtain ⟨h1, h2⟩ := hcs c (by simp [hc])
      refine ⟨h1, ?_⟩
      rw [hctx]
      split <;> simp [h2, hxa]
    obtain ⟨im, is, ih', ic, il⟩ := ih u (hup'.trans hup) rfl hsome
    rw [hstep]
    refine ⟨im.trans hmem, is.trans hsys, ih'.trans hhost, fun c => ?_, fun c hc => ?_⟩
    · rw [ic, hctx]
      by_cases h1 : c = a <;> by_cases h2 : c ∈ t <;> simp [h1, h2, Function.comp_def]
    · cases t with
      | nil =>
        obtain rfl : a = c := by simpa using hc
        rfl
      | cons b t => exact il c (by simpa using hc)

/-- The link is down, and no command of a context is under way. -/
def State.linkLost (s : State) (x : Nat) : State :=
  s.modPkg fun p => { p with hostUp := p.hostUp.set x false, ctxcmd := { p.ctxcmd with busy := false } }

section Host
variable {s : State} {x : Nat} (hx : x < 2) (hl : bit s.pkg.livex x = true)
include hx hl

theorem execHostLinkDown_eq (hu : s.pkg.hostUp.getD x false = true) :
    execHostLinkDown x s = .next (if s.held then { s.linkLost x with
        ingress := s.ingress ++ (s.ctxs.map (·.1)).map fun c => .registerWrite .pkgCtxcmd (forcedDrain c) }
      else (s.linkLost x).drainAll (s.ctxs.map (·.1))) := by
  unfold execHostLinkDown
  exact if_neg (by rw [hl, hu]; simp [hx])

theorem execHostLinkDown_drains (hlen : s.pkg.hostUp.length = 2) (hu : s.pkg.hostUp.getD x false = true)
    (hh : s.held = false) (hup : s.pkg.up = true) (hc : ∀ c y, s.context c = some y → c < 4096) :
    ∃ t, execHostLinkDown x s = .next t ∧ SameMemory s t ∧ t.pkg.hostUp.getD x true = false
      ∧ (∀ c y, t.context c = some y → y.st = .drained)
      ∧ ∀ y, s.ctxs.getLast? = some y → t.pkg.ctxcmd = ⟨false, false, 2, BitVec.ofNat 12 y.1, 1⟩ := by
  have hkey : ∀ c, (s.context c).isSome = true ↔ c ∈ s.ctxs.map (·.1) := fun c => SMap.isSome_get?_iff c s.ctxs
  obtain ⟨hm, hs, hhost, hctx, hlast⟩ := drainAll_spec (s.ctxs.map (·.1)) (s.linkLost x) hup rfl fun c hcs =>
    have hsome := (hkey c).2 hcs
    ⟨(Option.isSome_iff_exists.1 hsome).elim fun y hy => hc c y hy, hsome⟩
  have heq := execHostLinkDown_eq hx hl hu
  rw [hh, if_neg Bool.false_ne_true] at heq
  refine ⟨_, heq, sameMemory_of_eq hm hs, ?_, fun c y hy => ?_,
    fun y hy => hlast y.1 (by simp [hy])⟩
  · rw [hhost]
    simp [State.linkLost, hlen, hx]
  · rw [hctx] at hy
    by_cases hin : c ∈ s.ctxs.map (·.1)
    · rw [if_pos hin] at hy
      obtain ⟨z, -, rfl⟩ := Option.map_eq_some_iff.1 hy
      rfl
    · rw [if_neg hin] at hy
      exact absurd ((hkey c).1 (Option.isSome_iff_exists.2 ⟨y, hy⟩)) hin

theorem execHostLinkDown_waits (hlen : s.pkg.hostUp.length = 2) (hu : s.pkg.hostUp.getD x false = true)
    (hh : s.held = true) :
    GoesUnseen s (execHostLinkDown x s) fun t => t.pkg.hostUp.getD x true = false ∧ t.ctxs = s.ctxs
      ∧ t.ingress = s.ingress ++ s.ctxs.map fun c => .registerWrite .pkgCtxcmd (forcedDrain c.1) := by
  have heq := execHostLinkDown_eq hx hl hu
  rw [hh, if_pos rfl] at heq
  refine goesUnseen_of_eq heq rfl ⟨?_, rfl, ?_⟩
  · simp [State.linkLost, hlen, hx]
  · simp [Function.comp_def]

theorem execHostLinkReturn_goes (hlen : s.pkg.hostUp.length = 2) (cxl : Bool) (hd : s.pkg.hostUp.getD x false = false)
    (hcl : s.pkg.hostCxl.length = 2) :
    GoesUnseen s (execHostLinkReturn x cxl s) fun t =>
      t.pkg.hostUp.getD x false = true ∧ t.pkg.hostCxl.getD x false = cxl := by
  have hd' : s.pkg.hostUp.getD x true = false := by simpa [hlen, hx] using hd
  exact goesUnseen_modPkg (if_neg (by rw [hl, hd']; simp [hx])) (by simp [hlen, hcl, hx])

theorem execXqFreeRecord_goes {q : List FRec} {k : Nat} (hq : s.pkg.xq[x]? = some (q, k)) :
    GoesUnseen s (execXqFreeRecord x s) fun t =>
      t.pkg.xq[x]? = some (if q = [] then (q, k) else (q.tail, (k + 1) % 1024)) := by
  refine goesUnseen_of_eq (if_pos (by simp [hx, hl])) rfl ?_
  simp [State.xqFree, updAt_get?, hq]

theorem execHostMemoryAccess_timeout (ms : Nat) (hlen : s.pkg.hostMs.length = 2) :
    GoesUnseen s (execHostMemoryAccess (.timeout x ms) s) fun t =>
      t.pkg.hostMs[x]? = if 1 ≤ ms ∧ ms ≤ 64 then some ms else s.pkg.hostMs[x]? := by
  by_cases h : 1 ≤ ms ∧ ms ≤ 64
  · refine goesUnseen_modPkg (f := fun p => { p with hostMs := p.hostMs.set x ms }) ?_ (by simp [h, hlen, hx])
    exact (if_pos (by simp [hx, hl])).trans (by rw [if_pos h])
  · refine goesUnseen_of_eq (t := s) ?_ rfl (by rw [if_neg h])
    exact (if_pos (by simp [hx, hl])).trans (by rw [if_neg h])

omit hx hl in
theorem eventBytes_held {ofs n k h : Nat} {q : List FRec} {r : FRec} (hk : k < n) (hq : s.pkg.xq[x]? = some (q, h))
    (hr : q[((ofs + k) / 128 + 1024 - h) % 1024]? = some r) :
    (s.eventBytes x ofs n)[k]? = some (r.bytes.getD ((ofs + k) % 128) 0) := by
  have hD : s.pkg.xq.getD x ([], 0) = (q, h) := by rw [List.getD_eq_getElem?_getD, hq]; rfl
  simp only [State.eventBytes, List.getElem?_map, List.getElem?_range hk, Option.map_some, Pkg.eventByte, hD, hr]

theorem execHostMemoryAccess_eventRead {ofs n : Nat} (hu : s.pkg.hostLink false = true) (hn : ofs + n ≤ 1024 * 128) :
    ∃ bs : List Byte, bs.length = n
      ∧ (GoesUnseen s (execHostMemoryAccess (.eventRead x ofs n) s) fun t =>
          t.outbox = s.outbox ++ [.event x ofs bs] ∧ t.pkg = s.pkg)
      ∧ ∀ k, k < n → ∀ q h r, s.pkg.xq[x]? = some (q, h) → q[((ofs + k) / 128 + 1024 - h) % 1024]? = some r →
          bs[k]? = some (r.bytes.getD ((ofs + k) % 128) 0) := by
  refine ⟨s.eventBytes x ofs n, by simp [State.eventBytes], ?_, fun k hk q h r hq hr => eventBytes_held hk hq hr⟩
  exact goesUnseen_of_eq (if_pos (by simp [hx, hl, hu, hn])) rfl ⟨rfl, rfl⟩

end Host

-- Host accesses (17 R377, R380, R382, R388) -------------------------------------------------------

theorem byte_of_write_in (m : List Host.Cell) {a k : Nat} {bs : List Byte} (hk : k < bs.length) :
    memByte (memWrite m a bs) (a + k) = bs.getD k 0 := by
  rw [memByte_write, if_pos (by omega), Nat.add_sub_cancel_left]

theorem execHostMemoryAccess_read (s : State) (a n : Nat) :
    execHostMemoryAccess (.read a n) s = if s.pkg.hostLink true = true ∧ s.pkg.hasDram a n = true then
      .next { s with outbox := s.outbox ++ [.host a (memRead s.mem a n)] } else .next s := by
  simp [execHostMemoryAccess]

theorem execHostMemoryAccess_write (s : State) (a : Nat) (bs : List Byte) :
    (s.pkg.hostLink true = true → s.pkg.hasDram a bs.length = true →
        ∃ t, execHostMemoryAccess (.write a bs) s = .next t ∧ (∀ k < bs.length, t.byteAt (a + k) = bs.getD k 0)
          ∧ (∀ b, b < a ∨ a + bs.length ≤ b → t.byteAt b = s.byteAt b) ∧ ∀ b, t.sysByteAt b = s.sysByteAt b)
      ∧ (¬ (s.pkg.hostLink true = true ∧ s.pkg.hasDram a bs.length = true) →
          execHostMemoryAccess (.write a bs) s = .next s) := by
  refine ⟨fun hu hd => ⟨s.dramWrite a bs, if_pos (by simp [hu, hd]), fun k hk => byte_of_write_in s.mem hk,
    fun b hb => memByte_write_other s.mem a b bs hb, fun _ => rfl⟩, fun h => if_neg (by simpa using h)⟩

theorem execHostMemoryAccess_sysWrite (s : State) (a : Nat) (bs : List Byte) :
    ∃ t, execHostMemoryAccess (.sysWrite a bs) s = .next t ∧ (∀ k < bs.length, t.sysByteAt (a + k) = bs.getD k 0)
      ∧ (∀ b, b < a ∨ a + bs.length ≤ b → t.sysByteAt b = s.sysByteAt b) ∧ (∀ b, t.byteAt b = s.byteAt b)
      ∧ ∀ c y, t.context c = some y → c ∈ s.cellsIn a bs.length → y.cellDue = true := by
  refine ⟨_, rfl, fun k hk => byte_of_write_in s.sys hk, fun b hb => memByte_write_other s.sys a b bs hb, fun _ => rfl,
    fun c y hy hc => ?_⟩
  have hget := SMap.get?_map
    (fun c (y : Ctx) => if (s.cellsIn a bs.length).contains c then { y with cellDue := true } else y) c s.ctxs
  obtain ⟨z, -, rfl⟩ := Option.map_eq_some_iff.1 (hget.symm.trans hy)
  simp [hc]

theorem execHostMemoryAccess_regRead (s : State) (r : SysReg) :
    execHostMemoryAccess (.regRead r) s = if byPldm r = true ∨ s.pkg.hostLink false = true then
      .next { s with outbox := s.outbox ++ [.reg r (s.regWords r)] } else .next s := by
  simp [execHostMemoryAccess]

-- Register writes (00 R8) ---------------------------------------------------------------------------

theorem execRegisterWrite_readOnly (s : State) (v : DWord) (r : SysReg) (h : r ∈ [SysReg.pkgLive, .pwrDraw, .pwrStat]) :
    execRegisterWrite r v s = .next s := by
  simp only [List.mem_cons, List.not_mem_nil, or_false] at h
  obtain rfl | rfl | rfl := h <;> rfl

theorem execRegisterWrite_readOnlyOf (s : State) (v : DWord) (n : Nat) (r : SysReg)
    (h : r ∈ [SysReg.xqStat n, .dlkStat n, .dlkLanecnt n]) : execRegisterWrite r v s = .next s := by
  simp only [List.mem_cons, List.not_mem_nil, or_false] at h
  obtain rfl | rfl | rfl := h <;> rfl

theorem execRegisterWrite_pkgFrz (s : State) (v : DWord) :
    execRegisterWrite .pkgFrz v s = exec (if bit v 0 then .freeze else .thaw) s := by
  unfold execRegisterWrite
  cases bit v 0 <;> rfl

theorem execRegisterWrite_pkgXinv (s : State) {v : DWord} (h : v.extractLsb' 60 2 = (0 : BitVec 2)) :
    execRegisterWrite .pkgXinv v s
      = execXinvPage (v.extractLsb' 48 12) (v.extractLsb' 16 32) (v.extractLsb' 0 16) s := by
  unfold execRegisterWrite
  simp only [h]
  rfl

theorem append_eq_zero_iff {m n : Nat} (a : BitVec m) (b : BitVec n) : a ++ b = 0 ↔ a = 0 ∧ b = 0 := by
  simp [← BitVec.toNat_inj, BitVec.toNat_append, Nat.or_eq_zero_iff, Nat.shiftLeft_eq_zero_iff]

theorem extractLsb'_one_eq_zero_iff {n : Nat} (v : BitVec n) (k : Nat) : v.extractLsb' k 1 = 0 ↔ bit v k = false := by
  rw [← BitVec.toNat_inj, BitVec.extractLsb'_toNat]
  simp [bit, BitVec.getLsbD, Nat.testBit]

/-- The reserved fields of pkg.fsvc, taken together, are zero where each of them is. -/
theorem execRegisterWrite_pkgFsvc (s : State) (v : DWord) :
    execRegisterWrite .pkgFsvc v s = exec ((if bit v 61 then Instr.fsvcFail else .fsvcService)
      (v.extractLsb' 48 12) (v.extractLsb' 16 32) (v.extractLsb' 60 1 ++ v.extractLsb' 0 16)) s := by
  have hrsv : ((v.extractLsb' 60 1 ++ v.extractLsb' 0 16) != 0) = ((v.extractLsb' 0 16) != 0 || bit v 60) := by
    rw [Bool.eq_iff_iff]
    simp only [bne_iff_ne, ne_eq, append_eq_zero_iff, extractLsb'_one_eq_zero_iff, Bool.or_eq_true]
    cases bit v 60 <;> simp
  show Host.Outcome.next _ = _
  rw [← hrsv]
  cases bit v 61 <;> rfl

theorem execRegisterWrite_pkgCtxcmd (s : State) (v : DWord) :
    execRegisterWrite .pkgCtxcmd v s = .next (s.ctxCommand (v.extractLsb' 59 3) (v.extractLsb' 47 12)
      (v.extractLsb' 0 42) (v.extractLsb' 42 5 != 0)) := rfl

theorem execRegisterWrite_pkgCtxcmd_of (s : State) (v : DWord) (k : BitVec 3)
    (i : BitVec 12 → BitVec 42 → BitVec 5 → Instr)
    (h : (k, i) ∈ [((1 : BitVec 3), Instr.ctxCreate), (3, .ctxResume), (4, .ctxDestroy), (5, .ctxReleaseGrid)])
    (hk : v.extractLsb' 59 3 = k) :
    execRegisterWrite .pkgCtxcmd v s = exec (i (v.extractLsb' 47 12) (v.extractLsb' 0 42) (v.extractLsb' 42 5)) s := by
  rw [execRegisterWrite_pkgCtxcmd, hk]
  simp only [List.mem_cons, List.not_mem_nil, or_false, Prod.mk.injEq] at h
  obtain ⟨rfl, rfl⟩ | ⟨rfl, rfl⟩ | ⟨rfl, rfl⟩ | ⟨rfl, rfl⟩ := h <;> rfl

theorem execRegisterWrite_pkgCtxcmd_drain (s : State) {v : DWord} (hk : v.extractLsb' 59 3 = (2 : BitVec 3)) :
    (v.extractLsb' 0 42 = (0 : BitVec 42) →
        execRegisterWrite .pkgCtxcmd v s = execCtxDrain (v.extractLsb' 47 12) (v.extractLsb' 42 5) s)
      ∧ (v.extractLsb' 0 42 = (1 : BitVec 42) →
        execRegisterWrite .pkgCtxcmd v s = execCtxDrainForced (v.extractLsb' 47 12) (v.extractLsb' 42 5) s) := by
  constructor <;> intro ha <;> rw [execRegisterWrite_pkgCtxcmd, hk, ha] <;> rfl

theorem execRegisterWrite_xqHead {s : State} (v : DWord) {x : Nat} (hx : x < 2) (hl : bit s.pkg.livex x = true) :
    execRegisterWrite (.xqHead x) v s = if bit v 31 then execXqFreeRecord x s else .next s := by
  have hfree : execXqFreeRecord x s = .next (s.xqFree x) := if_pos (by simp [hx, hl])
  rw [hfree]
  unfold execRegisterWrite
  cases bit v 31 <;> rfl

/-- A power register takes a value in its range, and is as before with any other. -/
theorem setPower_goes (s : State) (lo hi : Nat) (v : DWord) (f : Power → BitVec 16 → Power) {r : State → Prop}
    (hr : r (s.modPkg fun p => { p with pwr := f p.pwr (v.setWidth 16) })) :
    if lo ≤ v.toNat % 2 ^ 16 ∧ v.toNat % 2 ^ 16 ≤ hi then GoesUnseen s (.next (s.setPower lo hi v f)) r
    else (.next (s.setPower lo hi v f) : Out) = .next s := by
  by_cases h : lo ≤ v.toNat % 2 ^ 16 ∧ v.toNat % 2 ^ 16 ≤ hi
  · have hv : BitVec.ofNat 16 (v.toNat % 2 ^ 16) = v.setWidth 16 := BitVec.eq_of_toNat_eq (by simp)
    have hset : s.setPower lo hi v f = s.modPkg fun p => { p with pwr := f p.pwr (v.setWidth 16) } := by
      rw [← hv]
      exact if_pos h
    rw [if_pos h, hset]
    exact goesUnseen_modPkg rfl hr
  · rw [if_neg h]
    exact congrArg _ (if_neg h)

theorem execRegisterWrite_pwrCap (s : State) (v : DWord) :
    if 1500 ≤ v.toNat % 2 ^ 16 ∧ v.toNat % 2 ^ 16 ≤ 7000 then GoesUnseen s (execRegisterWrite .pwrCap v s) fun t =>
        (t.pkg.pwr.cap, t.pkg.pwr.capWait) = if s.pkg.freqBusy then (s.pkg.pwr.cap, some (v.setWidth 16))
          else (v.setWidth 16, s.pkg.pwr.capWait)
      else execRegisterWrite .pwrCap v s = .next s :=
  setPower_goes s 1500 7000 v (fun w x => if s.pkg.freqBusy then { w with capWait := some x } else { w with cap := x })
    (by cases h : s.pkg.freqBusy <;> simp [h])

theorem execRegisterWrite_dlkPkgid (s : State) (v : DWord) :
    GoesUnseen s (execRegisterWrite .dlkPkgid v s) fun t =>
      t.pkg.pkgid = if v.setWidth 16 = (0 : BitVec 16) then s.pkg.pkgid else v.setWidth 16 := by
  have hv : v.extractLsb' 0 16 = v.setWidth 16 := BitVec.eq_of_toNat_eq (by simp)
  refine goesUnseen_modPkg rfl ?_
  simp only [State.modPkg_pkg, hv]
  split <;> rfl

end Sys2Proof.Machine
end

section
/-!
SUPPORT. What the events of fault records, counters, retirement, reset and attestation do (16 R366, R370; 17 R387, R389).
-/

namespace Sys2Proof.Machine

-- Closing of records (16 R366) ----------------------------------------------------------------------

theorem coal_of_get? {s : State} {u : Nat} {k : Coal} (h : SMap.get? u s.coals = some k) : s.coal u = k := by
  simp [State.coal, SMap.getD, h]

@[simp] theorem coal_setCoal (s : State) (u : Nat) (k : Coal) : (s.setCoal u k).coal u = k :=
  coal_of_get? (SMap.get?_set_same u k s.coals)

/-- A record that enters a buffer reaches the event queue, or waits to be offered again. -/
theorem bufferIn_record (s : State) (b : Nat) (r : FRec) :
    (s.bufferIn b r).pkg.xq = (s.enqueue (s.pkg.queueOf b) r).pkg.xq ∨ (some s.clk, r) ∈ (s.bufferIn b r).fbuf b := by
  unfold State.bufferIn
  dsimp only
  split
  · exact .inl rfl
  · right
    simp [State.fbuf, SMap.getD_set]

theorem takeReport_opens {s : State} {u : Nat} {w : List FRec} (r : FRec) (h : s.coal u = ⟨[], [], w⟩)
    (hroom : s.bufRoom u = true) : s.takeReport u r = (s.setCoal u ⟨[(s.clk, r)], [], w⟩, true) := by
  simp [State.takeReport, h, hroom]

theorem takeWaiting_none {s : State} {u : Nat} {opn : List (Nat × FRec)} {closed : List FRec}
    (h : s.coal u = ⟨opn, closed, []⟩) : s.takeWaiting u = s.setCoal u ⟨opn, closed, []⟩ := by
  simp [State.takeWaiting, h]

/-- The only report that waits is taken, and opens a record. -/
theorem takeWaiting_opens {s : State} {u : Nat} {r : FRec} (h : s.coal u = ⟨[], [], [r]⟩) (hroom : s.bufRoom u = true) :
    s.takeWaiting u = ((s.setCoal u ⟨[], [], []⟩).setCoal u ⟨[(s.clk, r)], [], []⟩).reportTaken r := by
  have htake := takeReport_opens (s := s.setCoal u ⟨[], [], []⟩) r (coal_setCoal s u ⟨[], [], []⟩) hroom
  simp [State.takeWaiting, h, htake]

theorem reportTaken_halting {s : State} {r : FRec} {g : Nat} {restart : Bool}
    (h : s.haltingOn r = some (g, restart)) : s.reportTaken r = s.finishTask g restart := by
  simp [State.reportTaken, h]

theorem reportTaken_other {s : State} {r : FRec} (h : s.haltingOn r = none) (hr : r.cause ≠ cNotPresent) :
    s.reportTaken r = s := by
  simp [State.reportTaken, h, hr]

/-- A task that ends leaves its core, after a change of its grid or of queries, or with its whole context where the policy
halts that. -/
theorem finishTask_cases {s : State} {g : Nat} {gr : Group} (h : s.grp g = some gr) (restart : Bool) :
    (∃ u : State, s.finishTask g restart = u.leave g ∧ u.besideReset = s.besideReset)
      ∨ s.finishTask g restart = (s.forceReset gr.ctx).setCtxState gr.ctx .halted := by
  simp -zeta only [State.finishTask, h]
  extract_lets policy
  split
  · exact .inl ⟨_, rfl, rfl⟩
  split
  · exact .inr rfl
  split
  · exact .inl ⟨_, rfl, rfl⟩
  · exact .inl ⟨_, rfl, rfl⟩

theorem finishTask_absent {s : State} {g : Nat} (h : s.grp g = none) (restart : Bool) : s.finishTask g restart = s := by
  simp only [State.finishTask, h]

theorem grp_finishTask (s : State) (g : Nat) (restart : Bool) : (s.finishTask g restart).grp g = none := by
  cases h : s.grp g with
  | none => rw [finishTask_absent h, h]
  | some gr =>
    obtain ⟨u, hu, -⟩ | hu := finishTask_cases h restart
    · rw [hu, grp_leave, if_pos rfl]
    · rw [hu]
      exact grp_forceReset h

theorem memory_finishTask (s : State) (g : Nat) (restart : Bool) : SameMemory s (s.finishTask g restart) := by
  cases h : s.grp g with
  | none =>
    rw [finishTask_absent h]
    exact sameMemory_of_eq rfl rfl
  | some gr =>
    obtain ⟨u, hu, hb⟩ | hu := finishTask_cases h restart
    · rw [hu]
      exact sameMemory_of_besideReset ((besideReset_leave u g).trans hb)
    · rw [hu]
      exact sameMemory_of_besideReset (s := s) (t := s.forceReset gr.ctx) (besideReset_forceReset s gr.ctx)

section Coalescer
variable {s : State} {u : Nat}

theorem execCoalescerRecordClose_due {o : Nat × FRec} {rest : List (Nat × FRec)}
    (hk : SMap.get? u s.coals = some ⟨o :: rest, [], []⟩) (hdue : o.1 + 256 ≤ s.clk) :
    execCoalescerRecordClose u s = .next (((s.flush u [o.2]).1.setCoal u ⟨rest, (s.flush u [o.2]).2, []⟩).setCoal u
      ⟨rest, (s.flush u [o.2]).2, []⟩) := by
  rw [← takeWaiting_none (coal_setCoal ..)]
  simp [execCoalescerRecordClose, hk, hdue]

theorem execCoalescerRecordClose_closes {o : Nat × FRec} {rest : List (Nat × FRec)}
    (hk : SMap.get? u s.coals = some ⟨o :: rest, [], []⟩) (hdue : o.1 + 256 ≤ s.clk) :
    (s.bufRoom u = true → GoesUnseen s (execCoalescerRecordClose u s) fun t =>
        SMap.get? u t.coals = some ⟨rest, [], []⟩
          ∧ (t.pkg.xq = (s.enqueue (s.pkg.queueOf (bufOf u)) o.2).pkg.xq ∨ (some s.clk, o.2) ∈ t.fbuf (bufOf u)))
      ∧ (s.bufRoom u = false → GoesUnseen s (execCoalescerRecordClose u s) fun t =>
        SMap.get? u t.coals = some ⟨rest, [o.2], []⟩) := by
  have heq := execCoalescerRecordClose_due hk hdue
  constructor <;> intro hroom
  · have hflush : s.flush u [o.2] = (s.bufferIn (bufOf u) o.2, []) := by simp [State.flush, hroom]
    rw [hflush] at heq
    exact goesUnseen_of_eq heq (programPart_of_besideRecords ((besideRecords_setCoal ..).trans
      ((besideRecords_setCoal ..).trans (besideRecords_bufferIn s (bufOf u) o.2))))
      ⟨SMap.get?_set_same .., bufferIn_record s (bufOf u) o.2⟩
  · have hflush : s.flush u [o.2] = (s, [o.2]) := by simp [State.flush, hroom]
    rw [hflush] at heq
    exact goesUnseen_of_eq heq rfl (SMap.get?_set_same ..)

/-- The state in which a report that waited has opened a record. -/
def State.recordOpened (s : State) (u : Nat) (r : FRec) : State :=
  ((s.setCoal u ⟨[], [], [r]⟩).setCoal u ⟨[], [], []⟩).setCoal u ⟨[(s.clk, r)], [], []⟩

theorem execCoalescerRecordClose_takes {r : FRec} (hk : SMap.get? u s.coals = some ⟨[], [], [r]⟩)
    (hroom : s.bufRoom u = true) : execCoalescerRecordClose u s = .next ((s.recordOpened u r).reportTaken r) := by
  have htaken : (s.takeReport u r).2 = true := by rw [takeReport_opens r (coal_of_get? hk) hroom]
  have hwait := takeWaiting_opens (coal_setCoal s u ⟨[], [], [r]⟩) hroom
  simp only [execCoalescerRecordClose, hk]
  rw [if_neg (by simp [htaken])]
  exact congrArg _ hwait

theorem execCoalescerRecordClose_halts {r : FRec} (hk : SMap.get? u s.coals = some ⟨[], [], [r]⟩)
    (hroom : s.bufRoom u = true) {g : Nat} {restart : Bool} (hh : s.haltingOn r = some (g, restart)) :
    ∃ t, execCoalescerRecordClose u s = .next t ∧ SameMemory s t ∧ t.grp g = none := by
  have hfin : (s.recordOpened u r).reportTaken r = (s.recordOpened u r).finishTask g restart := reportTaken_halting hh
  exact ⟨_, (execCoalescerRecordClose_takes hk hroom).trans (congrArg _ hfin),
    memory_finishTask (s.recordOpened u r) g restart, grp_finishTask ..⟩

theorem execCoalescerRecordClose_opens {r : FRec} (hk : SMap.get? u s.coals = some ⟨[], [], [r]⟩)
    (hroom : s.bufRoom u = true) (hh : s.haltingOn r = none) (hr : r.cause ≠ cNotPresent) :
    GoesUnseen s (execCoalescerRecordClose u s) fun t =>
      SMap.get? u t.coals = some ⟨[(s.clk, r)], [], []⟩ ∧ t.groups = s.groups := by
  have hsame : (s.recordOpened u r).reportTaken r = s.recordOpened u r := reportTaken_other hh hr
  exact goesUnseen_of_eq ((execCoalescerRecordClose_takes hk hroom).trans (congrArg _ hsame)) rfl
    ⟨SMap.get?_set_same .., rfl⟩

theorem execCoalescerRecordClose_waits {k : Coal} (hk : SMap.get? u s.coals = some k)
    (hdue : ¬ ∃ o rest, k.opn = o :: rest ∧ o.1 + 256 ≤ s.clk) (hc : k.closed = [] ∨ s.bufRoom u = false)
    (hw : ∀ r ∈ k.waiting, (s.takeReport u r).2 = false) : execCoalescerRecordClose u s = .next s := by
  have hclosed : (s.bufRoom u && !k.closed.isEmpty) = false := by rcases hc with h | h <;> simp [h]
  have hwait : (k.waiting.any fun r => (s.takeReport u r).2) = false := by simpa using hw
  obtain ⟨opn, closed, waiting⟩ := k
  cases opn with
  | nil => simp_all [execCoalescerRecordClose]
  | cons o rest =>
    have ho : ¬ o.1 + 256 ≤ s.clk := fun h => hdue ⟨o, rest, rfl, h⟩
    simp_all [execCoalescerRecordClose]

end Coalescer

theorem execFaultBufferRetry_offers {s : State} {b n : Nat} {r : FRec} {rest : List (Option Nat × FRec)}
    (hb : s.fbuf b = (some n, r) :: rest) (hn : n + 256 ≤ s.clk) :
    GoesUnseen s (execFaultBufferRetry b s) fun t =>
      (s.queueRoom (s.pkg.queueOf b) = true → t.fbuf b = rest ∧ t.pkg.xq = (s.enqueue (s.pkg.queueOf b) r).pkg.xq)
      ∧ (s.queueRoom (s.pkg.queueOf b) = false → (some s.clk, r) ∈ t.fbuf b ∧ t.pkg.xq = s.pkg.xq) := by
  have hdue : dueRecord s.clk [] ((some n, r) :: rest) = some r := by simp [dueRecord, hn]
  cases hroom : s.queueRoom (s.pkg.queueOf b) with
  | true =>
    refine goesUnseen_of_eq (t := { s with fbufs := SMap.set b rest s.fbufs }.enqueue (s.pkg.queueOf b) r) ?_ rfl
      ⟨fun _ => ⟨?_, rfl⟩, fun h => absurd h (by simp)⟩
    · simp [execFaultBufferRetry, hb, hdue, hroom]
    · simp [State.fbuf, State.enqueue, SMap.getD_set]
  | false =>
    refine goesUnseen_of_eq (t := { s with
        fbufs := SMap.set b ((s.fbuf b).map fun y => if y.2 == r then (some s.clk, r) else y) s.fbufs }) ?_ rfl
      ⟨fun h => absurd h (by simp), fun _ => ⟨?_, rfl⟩⟩
    · simp [execFaultBufferRetry, hb, hdue, hroom]
    · show (some s.clk, r) ∈ SMap.getD (SMap.set b _ s.fbufs) b []
      simp [SMap.getD_set, hb]

-- Counters and retired units (16 R370; 01 R19) --------------------------------------------------------

theorem getD_half (l : Nat) (m : SMap Nat) : SMap.getD (List.map (fun x => (x.1, x.2 / 2)) m) l 0 = SMap.getD m l 0 / 2 := by
  have h := SMap.get?_map (fun _ x => x / 2) l m
  unfold SMap.getD
  rw [h]
  cases SMap.get? l m <;> simp

theorem getD_halved (c : Nat) (m : SMap Counters) :
    SMap.getD (List.map (fun x => (x.1, x.2.halved)) m) c Counters.zero = (SMap.getD m c Counters.zero).halved := by
  have h := SMap.get?_map (fun _ (x : Counters) => x.halved) c m
  unfold SMap.getD
  rw [h]
  cases SMap.get? c m <;> rfl

theorem execCounterHalving_halves {s : State} (h : s.pkg.halvedAt + 2 ^ 44 ≤ s.clk) :
    GoesUnseen s (execCounterHalving s) fun t => t.pkg.halvedAt = s.clk ∧ ∀ c,
      let old := SMap.getD s.pkg.counters c Counters.zero
      let new := SMap.getD t.pkg.counters c Counters.zero
      new.errs = old.errs / 2 ∧ new.soft = old.soft / 2 ∧ (∀ l, SMap.getD new.lanes l 0 = SMap.getD old.lanes l 0 / 2)
        ∧ ∀ l, SMap.getD new.subs l 0 = SMap.getD old.subs l 0 / 2 := by
  refine goesUnseen_of_eq (if_pos h) rfl ⟨rfl, fun c => ?_⟩
  simp only [getD_halved]
  exact ⟨rfl, rfl, fun l => getD_half l _, fun l => getD_half l _⟩

theorem mem_insertNat (x y : Nat) (l : List Nat) : y ∈ insertNat x l ↔ y = x ∨ y ∈ l := by
  induction l with
  | nil => simp [insertNat]
  | cons z t ih =>
    unfold insertNat
    split
    · simp
    split
    next h => simp [h]
    next => simp only [List.mem_cons, ih]; tauto

theorem bit_ofNat_pow {w d k : Nat} (hd : d < w) : bit (BitVec.ofNat w (2 ^ k)) d = decide (d = k) := by
  rw [bit, BitVec.getLsbD_ofNat, Nat.testBit_two_pow]
  simp [hd, eq_comm]

theorem isRetired_retire {p : Pkg} {u : RetUnit} (h : byFirmware u = false) : (p.retire u).isRetired u = true := by
  cases u <;> simp_all [Pkg.retire, Pkg.isRetired, mem_insertNat, byFirmware]

/-- A retired C-die is no longer live. -/
theorem livec_retire (p : Pkg) {n : Nat} (hn : n < 16) : bit (p.retire (.die n)).livec n = false := by
  have h : (BitVec.ofNat 16 (2 ^ n)).getLsbD n = true := (bit_ofNat_pow hn).trans (decide_eq_true rfl)
  simp only [Pkg.retire, bit, BitVec.getLsbD_and, BitVec.getLsbD_not, h, Bool.not_true, Bool.and_false]

theorem goesUnseen_retire {s : State} {u : RetUnit} {o : Out} (hf : byFirmware u = false)
    (ho : o = .next { s with pkg := s.pkg.retire u }) :
    GoesUnseen s o fun t => t.pkg.isRetired u = true ∧ t.outbox = s.outbox
      ∧ ∀ n, u = .die n → n < 16 → bit t.pkg.livec n = false :=
  goesUnseen_of_eq ho rfl ⟨isRetired_retire hf, rfl, by rintro n rfl hn; exact livec_retire s.pkg hn⟩

/-- In hardware mode firmware retires a unit at its threshold; host-assisted it reports the crossing once, and what comes
after that is the host's act. -/
theorem execUnitRetire_spec {s : State} {u : RetUnit} (hr : s.pkg.isRetired u = false) (hf : byFirmware u = false) :
    let retires := GoesUnseen s (execUnitRetire u s) fun t => t.pkg.isRetired u = true ∧ t.outbox = s.outbox
      ∧ ∀ n, u = .die n → n < 16 → bit t.pkg.livec n = false
    (s.duty 2 = false → s.pkg.atThreshold u = false → execUnitRetire u s = .next s)
      ∧ (s.duty 2 = false → s.pkg.atThreshold u = true → retires)
      ∧ (s.duty 2 = true → s.pkg.atThreshold u = true → OutMsg.weak u ∉ s.outbox →
          execUnitRetire u s = .next { s with outbox := s.outbox ++ [.weak u] })
      ∧ (s.duty 2 = true → (s.pkg.atThreshold u = false ∨ OutMsg.weak u ∈ s.outbox) → retires) := by
  refine ⟨fun hd ht => ?_, fun hd ht => goesUnseen_retire hf ?_, fun hd ht hm => ?_, fun hd h => goesUnseen_retire hf ?_⟩
  · simp [execUnitRetire, hr, hf, hd, ht]
  · simp [execUnitRetire, hr, hf, hd, ht]
  · simp [execUnitRetire, hr, hf, hd, ht, hm]
  · rcases h with h | h <;> simp [execUnitRetire, hr, hf, hd, h]

theorem execUnitRetire_retired {s : State} {u : RetUnit} (h : s.pkg.isRetired u = true) : execUnitRetire u s = .next s :=
  if_pos h

/-- A die that comes back is live from the next reset only. -/
theorem execUnitRetire_dieBack {s : State} {n : Nat} (h : s.pkg.isRetired (.die n) = true) :
    GoesUnseen s (execUnitRetire (.dieBack n) s) fun t =>
      t.pkg.isRetired (.die n) = false ∧ t.pkg.livec = s.pkg.livec := by
  have hback : s.pkg.isRetired (.dieBack n) = false := by simpa [Pkg.isRetired] using h
  refine goesUnseen_of_eq (t := { s with pkg := s.pkg.retire (.dieBack n) }) ?_ rfl ⟨?_, rfl⟩
  · simp [execUnitRetire, hback, byFirmware]
  · simp [Pkg.retire, Pkg.isRetired]

-- Reset and attestation (17 R387, R389) -----------------------------------------------------------------

theorem bit_foldl_dies (ds : List Nat) (m : BitVec 16) {d : Nat} (hd : d < 16) :
    bit (ds.foldl (fun m d => m ||| BitVec.ofNat 16 (2 ^ d)) m) d = (bit m d || ds.contains d) := by
  induction ds generalizing m with
  | nil => simp
  | cons a t ih =>
    have hor : bit (m ||| BitVec.ofNat 16 (2 ^ a)) d = (bit m d || decide (d = a)) := by
      rw [← bit_ofNat_pow hd]
      exact BitVec.getLsbD_or
    rw [List.foldl_cons, ih, hor, List.contains_cons, Bool.or_assoc]
    rfl

theorem execModuleReset_leaves (s : State) :
    ∃ t, execModuleReset s = .next t ∧ t.mem = [] ∧ t.sys = s.sys ∧ t.groups = [] ∧ t.ctxs = [] ∧ t.grids = []
      ∧ t.memops = [] ∧ t.clk = 0 ∧ t.clkStop = false ∧ t.frozen = false ∧ t.issuing = none ∧ t.boot = s.boot + 1
      ∧ t.pkg.part = s.pkg.part ∧ t.pkg.up = false ∧ t.pkg.counters = s.pkg.counters
      ∧ (∀ u, t.pkg.isRetired u = s.pkg.isRetired u)
      ∧ ∀ d, d < 16 → bit t.pkg.livec d = (bit (Pkg.resetOf s.pkg.part).livec d && !s.pkg.deadDies.contains d) := by
  refine ⟨_, rfl, rfl, rfl, rfl, rfl, rfl, rfl, rfl, rfl, rfl, rfl, rfl, rfl, rfl, rfl, fun u => by cases u <;> rfl,
    fun d hd => ?_⟩
  have hdark := bit_foldl_dies s.pkg.deadDies 0 hd
  have hzero : bit (0 : BitVec 16) d = false := BitVec.getLsbD_zero
  rw [hzero, Bool.false_or] at hdark
  simp only [bit] at hdark
  simp only [bit, BitVec.getLsbD_and, BitVec.getLsbD_not, hd, decide_true, Bool.true_and, hdark]
  rfl

theorem execSpdmAttestation_signs (s : State) (n : DWord) : ∃ m, (bytesOf 8 n.toNat).IsPrefix m
    ∧ execSpdmAttestation n s = .next { s with outbox := s.outbox ++ [.spdm m (Config.identitySign m)] } :=
  ⟨_, ⟨_, rfl⟩, rfl⟩

end Sys2Proof.Machine
end

section
/-!
SUPPORT. The statement about the clock, power, ports, records and the host, assembled from the lemmas of its events. A lemma
speaks of the event's own meaning, which exec runs by definition.
-/

namespace Sys2Proof.Machine

/-- Settles O53: each clause is what the lemma of its event, access or register says, whatever the state. -/
theorem clockPowerPortsRecordsAndHost : Obligations.ClockPowerPortsRecordsAndHost := by
  unfold Obligations.ClockPowerPortsRecordsAndHost
  intro s k p same goes
  refine ⟨execFreqChange_busy k, execFreqChange_outside, execFreqChange_starts, execFreqChange_sameStep,
    fun n got die hq => ⟨execDieQuiesced_waits hq, execDieQuiesced_reports hq, execHandshakeTimeout_abandons hq⟩,
    fun n hq => execPllRelocked_relocks hq, execFreeze_stops s, execThaw_restarts s, execStateReadout_eq s,
    execPowerSample_measures s, fun n q hq hl => ?ports, fun x hx hl hlen => ?host, ?accesses, fun v => ?registers,
    fun u c hc => ?records, fun b n r rest => execFaultBufferRetry_offers, execCounterHalving_halves,
    fun h => if_neg (Nat.not_le.2 h), fun u => execUnitRetire_spec, fun u => execUnitRetire_retired,
    fun n => execUnitRetire_dieBack, execModuleReset_leaves s, execSpdmAttestation_signs s⟩
  case ports =>
    exact ⟨execFlitReplay_goes hq hl, execPortRetrain_goes hq hl, execPortRetrain_waits hq, execPortDown_goes hq hl,
      execLinkTrained_goes hq hl, execLaneSpare_goes hq hl, execLaneSpareGo_goes hq hl, execPortHalfWidth_goes hq hl,
      execLaneCountWindow_goes hq hl, execLaneCountWindow_waits hq, fun v => execRegisterWrite_dlkCtl hq,
      execFabricRouteUpdate_goes hl⟩
  case host =>
    exact ⟨execHostLinkDown_drains hx hl hlen, execHostLinkDown_waits hx hl hlen, execHostLinkReturn_goes hx hl hlen,
      fun q k => execXqFreeRecord_goes hx hl, execHostMemoryAccess_timeout hx hl,
      fun ofs n => execHostMemoryAccess_eventRead hx hl⟩
  case accesses =>
    exact ⟨execHostMemoryAccess_read s, execHostMemoryAccess_write s, fun a n => rfl, execHostMemoryAccess_sysWrite s,
      execHostMemoryAccess_regRead s⟩
  case registers =>
    exact ⟨execRegisterWrite_readOnly s v, execRegisterWrite_readOnlyOf s v, rfl, execRegisterWrite_pkgFrz s v,
      execRegisterWrite_pkgXinv s, execRegisterWrite_pkgFsvc s v, execRegisterWrite_pkgCtxcmd_of s v,
      execRegisterWrite_pkgCtxcmd_drain s, fun x => execRegisterWrite_xqHead v,
      ⟨execRegisterWrite_pwrCap s v, setPower_goes s 1 1000 v _ rfl, setPower_goes s 1 100 v _ rfl⟩,
      execRegisterWrite_dlkPkgid s v⟩
  case records =>
    obtain ⟨opn, closed, waiting⟩ := c
    refine ⟨?_, ?_, execCoalescerRecordClose_waits hc⟩
    · rintro o rest rfl hdue rfl rfl
      exact execCoalescerRecordClose_closes hc hdue
    · rintro r rfl rfl hroom rfl
      exact ⟨fun g restart => execCoalescerRecordClose_halts hc hroom, execCoalescerRecordClose_opens hc hroom⟩

end Sys2Proof.Machine
end

section
/-!
SUPPORT. The state after a module reset: the live word of each part, the ports, and memories that list nothing (01 R19;
17 R384; log entry 1), and the statement assembled from them.
-/

namespace Sys2Proof.Machine

-- The package after reset -----------------------------------------------------------------------

theorem Pkg.liveWord_resetOf_zero : (Pkg.resetOf 0).liveWord = 0x0007ffff := rfl

theorem Pkg.liveWord_resetOf_one : (Pkg.resetOf 1).liveWord = 0x00150001 := rfl

theorem Pkg.eq_empty_of_mem_ports_resetOf {part : BitVec 4} {p : Port} (h : p ∈ (Pkg.resetOf part).ports) :
    p = Port.empty := List.eq_of_mem_replicate h

theorem Pkg.length_ports_resetOf (part : BitVec 4) : (Pkg.resetOf part).ports.length = 36 := List.length_replicate

-- Memories that list nothing --------------------------------------------------------------------

@[simp] theorem memWf_nil : memWf [] = true := rfl

@[simp] theorem memByte_nil (a : Nat) : memByte [] a = unlistedByte := rfl

theorem memoryCanonical_of_nil {s : State} (hm : s.mem = []) (hs : s.sys = []) : MemoryCanonical s := by
  simp [MemoryCanonical, hm, hs]

theorem byteAt_of_nil {s : State} (hm : s.mem = []) (a : Nat) : s.byteAt a = unlistedByte := by
  simp [State.byteAt, hm]

theorem sysByteAt_of_nil {s : State} (hs : s.sys = []) (a : Nat) : s.sysByteAt a = unlistedByte := by
  simp [State.sysByteAt, hs]

/-- Settles O59: the registers and lists are the power-on values that Pkg.resetOf and State.resetOf name for either part;
the live word, the ports and the memories are what their lemmas say. -/
theorem resetLeaves : Obligations.ResetLeaves := by
  unfold Obligations.ResetLeaves
  refine ⟨Pkg.liveWord_resetOf_zero, Pkg.liveWord_resetOf_one, rfl, fun part => ?_⟩
  have hports : ∀ p ∈ (State.resetOf part).pkg.ports, p.up = false ∧ p.half = false ∧ p.splane = 0xf ∧ p.spthr = 0x400 := by
    intro p hp
    obtain rfl : p = Port.empty := Pkg.eq_empty_of_mem_ports_resetOf hp
    exact ⟨rfl, rfl, rfl, rfl⟩
  have hmem : (State.resetOf part).mem = [] := rfl
  have hsys : (State.resetOf part).sys = [] := rfl
  have hbytes := fun a => And.intro (byteAt_of_nil hmem a) (sysByteAt_of_nil hsys a)
  exact ⟨rfl, rfl, rfl, rfl, rfl, rfl, rfl, rfl, rfl, hports, Pkg.length_ports_resetOf part, rfl, rfl, rfl, rfl, rfl,
    rfl, rfl, rfl, rfl, rfl, rfl, rfl, rfl, rfl, memoryCanonical_of_nil hmem hsys, hbytes⟩

end Sys2Proof.Machine
end

section
/-!
SUPPORT. Words of the two streams and their fetch (02 R30 to R51; 14 R336): words written out from the encodings, and the
concrete inputs that refute the two general statements about words as they stand.
-/

namespace Sys2Proof.Machine

/-- Settles O56: the decoder is run on each word, the fields of which stand at fixed bits. -/
theorem decodeReadsSpecWords : Obligations.DecodeReadsSpecWords := by
  unfold Obligations.DecodeReadsSpecWords
  refine ⟨?fma, ?immediate, ?split, ?status, ?wait, ?short, ?compact, ?reference, ?compactZero, ?dictReserved⟩
  all_goals decide

-- Length bits that the decoders of one size do not look at --------------------------------------

/-- The decoder of 16-bit words takes a word whose bits [1:0] are not 0, and whose bit 15 is 0, for a reference (02 R40); so
also one with 0b01 there, with which a 32-bit word begins (02 R31). -/
theorem decodeEnc_w16_one (st : Stream) : decodeEnc st (.w16 1) = some (.lo (.dictionaryReference 0 0)) := rfl

theorem encode_dictionaryReference (t : BitVec 3) (n : BitVec 10) :
    (Form.lo (.dictionaryReference t n)).encode = .w16 ((0#1) ++ t ++ n ++ (2#2) : BitVec 16) := rfl

/-- Refutes O57: its last clause speaks of every EncWord, also of one whose bits [1:0] are not those of its size, and the
encoder writes those bits (02 R31, R40). The 16 bits 0x0001 decode to dictionary reference 0, whose word is 0x0002. -/
theorem not_encodeThenDecode : ¬ Obligations.EncodeThenDecode := by
  unfold Obligations.EncodeThenDecode
  rintro ⟨-, hencode⟩
  have hsame := hencode .lane (.w16 1) (.lo (.dictionaryReference 0 0)) (decodeEnc_w16_one .lane)
  rw [encode_dictionaryReference] at hsame
  exact absurd hsame (by decide)

-- An offset inside a word -----------------------------------------------------------------------

/-- A chosen agent 2 bytes into the word join, which begins its stream: where a transfer into the word leaves it (14 R336).
The two bytes there are 0, a nop by themselves. -/
def insideJoin : State :=
  (State.reset.withFetchWord 64 0x00027000000005d3).modSplit 0 0 0 fun x => { x with pc := 2 }

/-- The group at place g is there in the next state. -/
def groupStays (g : Nat) (o : Out) : Bool :=
  match o with
  | .next t => (t.grp g).isSome
  | _ => false

theorem insideJoin_issuing : insideJoin.issuing = some ⟨.split 0 0 0, none, []⟩ := by decide +kernel

theorem insideJoin_clkStop : insideJoin.clkStop = false := by decide +kernel

/-- What the agent's rows hold at its offset. -/
theorem insideJoin_bytes :
    insideJoin.icx.map (fun c => (insideJoin.core c.core).streamBytes c.gr c.uni (c.gr.streamLen c.uni) c.pc 2)
      = some (some [0, 0]) := by decide +kernel

theorem decode_zeros (st : Stream) (ofs : Nat) (cue : BitVec 4) : decode st ofs [0, 0] cue = .ok (.lo .nop, 2) := rfl

/-- The step takes the illegal-encoding trap, which ends the task (02 R33; 16 R361, R362). -/
theorem step_insideJoin : groupStays 0 (step insideJoin) = false := by decide +kernel

theorem exec_nop_insideJoin : groupStays 0 (exec .nop insideJoin) = true := by decide +kernel

/-- Refutes O58: its third clause asks only that the bytes at the pc decode, and not that a word begins there (14 R336), nor
that the group's dictionary is in a bank (02 R41). Inside join the bytes read as nop, but the step traps. -/
theorem not_stepRunsDecodedInstruction : ¬ Obligations.StepRunsDecodedInstruction := by
  unfold Obligations.StepRunsDecodedInstruction
  intro hruns
  obtain ⟨c, hc, hbytes⟩ := Option.map_eq_some_iff.1 insideJoin_bytes
  obtain ⟨-, -, hfetched⟩ := (hruns insideJoin).1 _ c insideJoin_issuing insideJoin_clkStop hc
  have hstep : step insideJoin = exec .nop insideJoin :=
    hfetched 0 [0] [0, 0] (.lo .nop) 2 rfl hbytes hbytes (decode_zeros _ _ _)
  have hends := step_insideJoin
  rw [hstep, exec_nop_insideJoin] at hends
  exact Bool.noConfusion hends

end Sys2Proof.Machine
end

section
/-!
SUPPORT. The two memories of a state, DRAM and system space (03 R62, R70), and the operations that leave both as they are.
-/

namespace Sys2Proof.Machine

/-- The two memories: DRAM and system space. -/
def State.memories (s : State) : List Host.Cell × List Host.Cell := (s.mem, s.sys)

theorem sameMemory_of_memories {s t : State} (h : t.memories = s.memories) : SameMemory s t :=
  sameMemory_of_eq (congrArg Prod.fst h) (congrArg Prod.snd h)

theorem memories_of_besideRecords {s t : State} (h : t.besideRecords = s.besideRecords) : t.memories = s.memories :=
  show t.besideRecords.memories = s.besideRecords.memories by rw [h]

theorem memories_of_besideReset {s t : State} (h : t.besideReset = s.besideReset) : t.memories = s.memories :=
  Prod.ext (congrArg (·.1) h) (congrArg (·.2.1) h)

theorem memories_of_inside {s t : State} (h : Inside s t) : t.memories = s.memories :=
  (congrArg State.memories h).trans rfl

theorem memories_foldl {α : Type} {f : State → α → State} (hf : ∀ s x, (f s x).memories = s.memories) (l : List α)
    (s : State) : (l.foldl f s).memories = s.memories :=
  foldl_rel (R := fun (s t : State) => t.memories = s.memories) (fun _ => rfl) (fun _ _ _ h k => k.trans h) f hf l s

theorem memories_ite {s t u : State} {p : Prop} [Decidable p] (ht : t.memories = s.memories)
    (hu : u.memories = s.memories) : (if p then t else u).memories = s.memories := by
  split <;> assumption

-- Sys2Proof/Machine/Ops.lean
@[simp] theorem memories_modGrp (s : State) (g : Nat) (f : Group → Group) : (s.modGrp g f).memories = s.memories :=
  rfl

@[simp] theorem memories_modCore (s : State) (c : Nat) (f : Core → Core) : (s.modCore c f).memories = s.memories :=
  rfl

@[simp] theorem memories_modCluster (s : State) (c : Nat) (f : Cluster → Cluster) :
    (s.modCluster c f).memories = s.memories := rfl

@[simp] theorem memories_modDie (s : State) (d : Nat) (f : Die → Die) : (s.modDie d f).memories = s.memories := rfl

@[simp] theorem memories_modGrid (s : State) (i c : Nat) (f : Grid → Grid) :
    (s.modGrid i c f).memories = s.memories := rfl

@[simp] theorem memories_modWave (s : State) (g w : Nat) (f : Wave → Wave) :
    (s.modWave g w f).memories = s.memories := rfl

@[simp] theorem memories_modSplit (s : State) (g w sp : Nat) (f : Split → Split) :
    (s.modSplit g w sp f).memories = s.memories := rfl

@[simp] theorem memories_modSeq (s : State) (g : Nat) (f : Seq → Seq) : (s.modSeq g f).memories = s.memories := rfl

@[simp] theorem memories_modQuarter (s : State) (c q : Nat) (f : Quarter → Quarter) :
    (s.modQuarter c q f).memories = s.memories := rfl

@[simp] theorem memories_newId (s : State) : (s.newId).memories = s.memories := rfl
@[simp] theorem memories_drawn (s : State) : (s.drawn).memories = s.memories := rfl
@[simp] theorem memories_storeRead (s : State) (core : Nat) : (s.storeRead core).memories = s.memories := rfl
@[simp] theorem memories_enqueue (s : State) (x : Nat) (r : FRec) : (s.enqueue x r).memories = s.memories := rfl

@[simp] theorem memories_bufferIn (s : State) (b : Nat) (r : FRec) : (s.bufferIn b r).memories = s.memories :=
  memories_of_besideRecords (besideRecords_bufferIn s b r)

@[simp] theorem memories_flush (s : State) (unit : Nat) (rs : List FRec) :
    (s.flush unit rs).1.memories = s.memories := by
  induction rs generalizing s with
  | nil => rfl
  | cons r t ih =>
    unfold State.flush
    split
    · exact (ih _).trans (memories_bufferIn s (bufOf unit) r)
    · rfl

@[simp] theorem memories_setCoal (s : State) (unit : Nat) (k : Coal) : (s.setCoal unit k).memories = s.memories := rfl

@[simp] theorem memories_takeReport (s : State) (unit : Nat) (r : FRec) :
    (s.takeReport unit r).1.memories = s.memories := memories_of_besideRecords (besideRecords_takeReport s unit r)

@[simp] theorem memories_reportWaits (s : State) (unit : Nat) (r : FRec) :
    (s.reportWaits unit r).memories = s.memories := rfl

@[simp] theorem memories_sendTo (s : State) (unit : Nat) (r : FRec) : (s.sendTo unit r).memories = s.memories :=
  memories_of_besideRecords (besideRecords_sendTo s unit r)

@[simp] theorem memories_send (s : State) (r : FRec) : (s.send r).memories = s.memories := memories_sendTo s r.core r

@[simp] theorem memories_discard (s : State) (g : Nat) (keep : MemOp → Bool) (keepReplay : Bool) :
    (s.discard g keep keepReplay).memories = s.memories := rfl

@[simp] theorem memories_leave (s : State) (g : Nat) : (s.leave g).memories = s.memories :=
  memories_of_besideReset (besideReset_leave s g)

@[simp] theorem memories_evict (s : State) (g : Nat) (keep : MemOp → Bool) (keepReplay : Bool) :
    (s.evict g keep keepReplay).memories = s.memories :=
  memories_of_besideReset (besideReset_evict s g keep keepReplay)

@[simp] theorem memories_toCont (s : State) (gr : Group) (c : Cont) : (s.toCont gr c).memories = s.memories := rfl
@[simp] theorem memories_freeQueries (s : State) (gr : Group) : (s.freeQueries gr).memories = s.memories := rfl
@[simp] theorem memories_dropGroup (s : State) (gr : Group) : (s.dropGroup gr).memories = s.memories := rfl

@[simp] theorem memories_resetGroup (s : State) (g : Nat) : (s.resetGroup g).memories = s.memories :=
  memories_of_besideReset (besideReset_resetGroup s g)

@[simp] theorem memories_recall (s : State) (ctx : Nat) : (s.recall ctx).memories = s.memories := rfl

@[simp] theorem memories_forceReset (s : State) (ctx : Nat) : (s.forceReset ctx).memories = s.memories :=
  memories_of_besideReset (besideReset_forceReset s ctx)

@[simp] theorem memories_setCtxState (s : State) (ctx : Nat) (st : CtxState) :
    (s.setCtxState ctx st).memories = s.memories := rfl

@[simp] theorem memories_finishTask (s : State) (g : Nat) (restart : Bool) :
    (s.finishTask g restart).memories = s.memories := by
  grind [State.finishTask, memories_leave, memories_toCont, memories_dropGroup, memories_forceReset,
    memories_setCtxState]

@[simp] theorem memories_stopTask (s : State) (g : Nat) (r : FRec) (restart : Bool) :
    (s.stopTask g r restart).memories = s.memories := by
  grind [State.memories, State.stopTask, memories_modGrp, memories_takeReport, memories_reportWaits, memories_discard,
    memories_evict, memories_finishTask]

@[simp] theorem memories_endTask (s : State) (g : Nat) (r : FRec) : (s.endTask g r).memories = s.memories := by
  grind [State.endTask, memories_stopTask]

@[simp] theorem memories_turnedAway (s : State) (c : ICtx) : (s.turnedAway c).memories = s.memories := by
  unfold State.turnedAway
  split <;> rfl

@[simp] theorem memories_markStall (s : State) (c : ICtx) : (s.markStall c).memories = s.memories := by
  grind [State.markStall, memories_modSplit, memories_modSeq]

@[simp] theorem memories_dropResvs (s : State) (g w : Nat) : (s.dropResvs g w).memories = s.memories := rfl

@[simp] theorem memories_savePin (s : State) (g w : Nat) : (s.savePin g w).memories = s.memories := by
  grind [State.savePin, memories_modWave, memories_modQuarter]

@[simp] theorem memories_parkAgent (s : State) (c : ICtx) (va lane : Nat) :
    (s.parkAgent c va lane).memories = s.memories := by
  grind [State.memories, State.parkAgent, memories_modGrp, memories_modWave, memories_modSeq, memories_send,
    memories_dropResvs, memories_savePin]

@[simp] theorem memories_unpin (s : State) (c : ICtx) : (s.unpin c).memories = s.memories := by
  grind [State.unpin, memories_modQuarter]

@[simp] theorem memories_slotTaken (s : State) (c : ICtx) : (s.slotTaken c).memories = s.memories := by
  unfold State.slotTaken
  split
  · rfl
  · exact memories_foldl (fun s x => memories_modWave s x.1 x.2 Wave.lost) c.losers s

@[simp] theorem memories_stopped (s : State) (c : ICtx) (st : Stop) : (s.stopped c st).memories = s.memories := by
  cases st <;> grind [State.stopped, memories_slotTaken, memories_endTask, memories_turnedAway, memories_markStall,
    memories_unpin, memories_parkAgent]

@[simp] theorem memories_commitWave (s : State) (g w : Nat) (p : Pend) : (s.commitWave g w p).memories = s.memories :=
  memories_of_inside (commitWave_spec s g w p).1

@[simp] theorem memories_settleWave (s : State) (g w : Nat) : (s.settleWave g w).memories = s.memories := by
  unfold State.settleWave
  split
  · rfl
  · exact memories_foldl (fun s p => memories_commitWave s g w p) _ _

@[simp] theorem memories_settleSeq (s : State) (g : Nat) : (s.settleSeq g).memories = s.memories := by
  grind [State.settleSeq, memories_modSeq]

@[simp] theorem memories_settle (s : State) (ag : Agent) : (s.settle ag).memories = s.memories := by
  cases ag with
  | split g w => exact memories_settleWave s g w
  | seq g => exact memories_settleSeq s g

@[simp] theorem memories_lower (s : State) (ag : Agent) (fl : Option Nat) : (s.lower ag fl).memories = s.memories :=
  by cases fl <;> cases ag <;> rfl

@[simp] theorem memories_begun (s : State) (c : ICtx) (h : Hdr) (len : Nat) :
    (s.begun c h len).memories = s.memories := by
  grind [State.memories, State.begun, memories_modGrp, memories_modWave, memories_modSeq, memories_modQuarter,
    memories_slotTaken, memories_settle]

@[simp] theorem memories_stoppedUsing (s : State) (c : ICtx) (use : ICtx → Quarter → Quarter) (st : Stop) :
    (s.stoppedUsing c use st).memories = s.memories := by
  grind [State.stoppedUsing, memories_modQuarter, memories_stopped]

@[simp] theorem memories_doneNow (s : State) (c : ICtx) (h : Hdr) : (s.doneNow c h).memories = s.memories := by
  grind [State.doneNow, memories_lower]

@[simp] theorem memories_transfer (s : State) (c : ICtx) (pc : Nat) : (s.transfer c pc).memories = s.memories := by
  grind [State.transfer, memories_modSplit, memories_modSeq]

@[simp] theorem memories_block (s : State) (ag : Agent) (b : Blk) : (s.block ag b).memories = s.memories :=
  by cases ag <;> rfl

-- Sys2Proof/Machine/Operands.lean
@[simp] theorem memories_popped (s : State) (c : ICtx) (srcs : List SrcW) : (s.popped c srcs).memories = s.memories :=
  memories_of_inside (operandStep_popped c s srcs).inside

@[simp] theorem memories_latchRead (s : State) (c : ICtx) (srcs : List SrcW) :
    (s.latchRead c srcs).memories = s.memories := memories_of_inside (operandStep_latchRead c s srcs).inside

@[simp] theorem memories_holdLatch (s : State) (c : ICtx) (k : Nat) (nw : Bool) (reg : Option Nat) :
    (s.holdLatch c k nw reg).memories = s.memories := rfl

@[simp] theorem memories_fixed (s : State) (c : ICtx) (h : Hdr) (t : Timing) (srcs : List SrcW) (r : Res) :
    (s.fixed c h t srcs r).memories = s.memories := by
  grind [State.fixed, memories_modWave, memories_modQuarter, memories_popped, memories_latchRead, memories_holdLatch]

@[simp] theorem memories_fixedG (s : State) (c : ICtx) (h : Hdr) (t : Timing) (d : Dst) (x : DWord) :
    (s.fixedG c h t d x).memories = s.memories := rfl

-- Sys2Proof/Machine/Control.lean
@[simp] theorem memories_modMe (s : State) (c : ICtx) (f : Wave → Wave) : (s.modMe c f).memories = s.memories := rfl

@[simp] theorem memories_modMySplit (s : State) (c : ICtx) (f : Split → Split) :
    (s.modMySplit c f).memories = s.memories := rfl

@[simp] theorem memories_splitGone (s : State) (g w sp : Nat) : (s.splitGone g w sp).memories = s.memories := rfl
@[simp] theorem memories_dqConsumed (s : State) (c : ICtx) : (s.dqConsumed c).memories = s.memories := rfl

@[simp] theorem memories_setScalar (s : State) (c : ICtx) (d : Dst) (x : DWord) :
    (s.setScalar c d x).memories = s.memories := by cases d <;> rfl

theorem memories_divided (s : State) (c : ICtx) (paths : List Path) {t : State} (ht : s.divided c paths = .ok t) :
    t.memories = s.memories := by
  grind [State.divided, memories_modMe]

theorem memories_called (s : State) (c : ICtx) (h : Hdr) (tgt : Nat) {t : State} (ht : s.called c h tgt = .ok t) :
    t.memories = s.memories := by
  grind [State.called, memories_modSeq, memories_doneNow, memories_transfer, memories_modMe, memories_modMySplit]

@[simp] theorem memories_waveEnds (s : State) (g w : Nat) : (s.waveEnds g w).memories = s.memories := rfl
@[simp] theorem memories_seqEnds (s : State) (g : Nat) : (s.seqEnds g).memories = s.memories := rfl

-- Sys2Proof/Machine/Translate.lean
@[simp] theorem memories_hitGranules (s : State) (only : Option Nat) (a n : Nat) :
    (s.hitGranules only a n).memories = s.memories := rfl

@[simp] theorem memories_tlbFill (s : State) (u : TUnit) (t : TlbEnt) : (s.tlbFill u t).memories = s.memories :=
  by cases u <;> rfl

-- Sys2Proof/Machine/Access.lean
@[simp] theorem memories_putL1 (s : State) (core set : Nat) (k : L1Set) :
    (s.putL1 core set k).memories = s.memories := rfl

@[simp] theorem memories_l1Read (s : State) (core : Nat) (strm : Bool) (a n : Nat) :
    (s.l1Read core strm a n).1.memories = s.memories := by
  grind [State.l1Read, memories_putL1]

@[simp] theorem memories_l1Update (s : State) (core a : Nat) (bytes : List Byte) :
    (s.l1Update core a bytes).memories = s.memories := by
  grind [State.l1Update, memories_putL1]

@[simp] theorem memories_l1Drop (s : State) (core a : Nat) : (s.l1Drop core a).memories = s.memories := by
  grind [State.l1Drop, memories_putL1]

@[simp] theorem memories_l1DropRun (s : State) (core : Nat) (t : Tgt) (n : Nat) :
    (s.l1DropRun core t n).memories = s.memories := by
  unfold State.l1DropRun
  split
  · refine memories_foldl (fun s k => ?_) _ s
    split
    · exact memories_l1Drop ..
    · rfl
  · rfl

@[simp] theorem memories_l1Empty (s : State) (core : Nat) : (s.l1Empty core).memories = s.memories := rfl

@[simp] theorem memories_acquire (s : State) (core scope : Nat) : (s.acquire core scope).memories = s.memories := by
  unfold State.acquire
  split
  · rfl
  split
  · split
    · rfl
    · exact memories_foldl (fun s k => memories_l1Empty s (clusterOf core * 8 + k)) _ s
  · rfl

@[simp] theorem memories_sample (s : State) (g cache : Nat) (byp : Bool) (t : Tgt) (n : Nat) :
    (s.sample g cache byp t n).1.memories = s.memories := by
  cases t <;> grind [State.sample, memories_l1Drop, memories_l1Read]

@[simp] theorem memories_sign (s : State) (g partialNo va : Nat) (data : List Byte) :
    (s.sign g partialNo va data).memories = s.memories := rfl

-- Sys2Proof/Machine/Mem.lean
@[simp] theorem memories_operandsTaken (s : State) (c : ICtx) (srcs : List SrcW) :
    (s.operandsTaken c srcs).memories = s.memories := by
  grind [State.operandsTaken, memories_modQuarter, memories_popped, memories_latchRead]

@[simp] theorem memories_passWrites (s : State) (c : ICtx) (scope : Nat) :
    (s.passWrites c scope).memories = s.memories := rfl

@[simp] theorem memories_addOp (s : State) (op : MemOp) : (s.addOp op).memories = s.memories := rfl

@[simp] theorem memories_putLane (s : State) (ag : Agent) (d : Dst) (mask : BitVec 32) (lane size : Nat)
    (x : BitVec 128) : (s.putLane ag d mask lane size x).memories = s.memories := by
  unfold State.putLane
  repeat' split
  all_goals rfl

@[simp] theorem memories_opLeft (s : State) (op : MemOp) (left : List LaneAcc) (got : List (Nat × BitVec 128)) :
    (s.opLeft op left got).memories = s.memories := by
  grind [State.memories, State.opLeft, memories_modGrp, memories_lower, memories_acquire]

@[simp] theorem memories_reserve (s : State) (g w sp lane a : Nat) :
    (s.reserve g w sp lane a).memories = s.memories := rfl

@[simp] theorem memories_loadLane (s : State) (op : MemOp) (x : LaneAcc) : (s.loadLane op x).memories = s.memories :=
  by
  grind [State.loadLane, memories_l1Read, memories_l1Drop, memories_sample, memories_putLane, memories_reserve]

@[simp] theorem memories_addReplay (s : State) (c : ICtx) (size page : Nat) (lanes : List LaneAcc) :
    (s.addReplay c size page lanes).memories = s.memories := memories_send ..

@[simp] theorem memories_signLanes (s : State) (c : ICtx) (size : Nat) (ls : List (Nat × DWord))
    (data : Nat → BitVec 128) : (s.signLanes c size ls data).memories = s.memories := by
  unfold State.signLanes
  split
  · exact memories_foldl (fun s p => memories_sign ..) ls s
  · rfl

@[simp] theorem memories_aliasPut (s : State) (c : ICtx) (n lane : Nat) (x : BitVec 128) :
    (s.aliasPut c n lane x).memories = s.memories := by
  grind [State.aliasPut, memories_modMe, memories_putLane]

@[simp] theorem memories_askWalk (s : State) (die ctx va : Nat) (x : Waiter) :
    (s.askWalk die ctx va x).memories = s.memories := by
  grind [State.memories, State.askWalk]

@[simp] theorem memories_fetchLine (s : State) (x : Waiter) (t : Trans) : (s.fetchLine x t).memories = s.memories :=
  rfl

@[simp] theorem memories_prefetchLane (s : State) (u : TUnit) (ctx : Nat) (fw : Bool) (x : Waiter) (va : DWord) :
    (s.prefetchLane u ctx fw x va).memories = s.memories := by
  grind [State.prefetchLane, memories_askWalk, memories_fetchLine]

-- Sys2Proof/Machine/Atomics.lean
@[simp] theorem memories_giveAnswer (s : State) (c : ICtx) (h : Hdr) (d : Option Dst) (lanes : List Nat) (size : Nat)
    (acq : Option Nat) (xs : List DWord) : (s.giveAnswer c h d lanes size acq xs).memories = s.memories := by
  have hlanes (d : Dst) (s : State) : ((lanes.zip xs).foldl (fun (s : State) (p : Nat × DWord) =>
      s.putLane c.ag d (c.active h) p.1 size (p.2.setWidth 128)) s).memories = s.memories :=
    memories_foldl (fun s p => memories_putLane ..) _ s
  cases d <;> cases acq <;> simp [State.giveAnswer, hlanes]

@[simp] theorem memories_buffered (s : State) (c : ICtx) (op : AtomOp) (las : List LaneAcc) :
    (s.buffered c op las).memories = s.memories := rfl

@[simp] theorem memories_passFor (s : State) (c : ICtx) (sc : Scope) : (s.passFor c sc).memories = s.memories := by
  grind [State.passFor, memories_passWrites]

-- Sys2Proof/Machine/System.lean
@[simp] theorem memories_holdWave (s : State) (g w pc n : Nat) (gr : Group) (wv : Wave) :
    (s.holdWave g w pc n gr wv).memories = s.memories := by
  grind [State.holdWave, memories_modWave, memories_send]

theorem memories_writeRook (c : ICtx) (s : State) (num : Nat) (x : DWord) {t : State}
    (ht : writeRook c s num x = .ok t) : t.memories = s.memories := by
  grind [writeRook, memories_modGrp, memories_block]

theorem memories_writeStatus (c : ICtx) (s : State) (num : Nat) (x : DWord) {t : State}
    (ht : writeStatus c s num x = .ok t) : t.memories = s.memories := by
  unfold writeStatus at ht
  split at ht
  · exact memories_writeRook c s num x ht
  · repeat' split at ht
    all_goals cases ht
    all_goals rfl

-- Sys2Proof/Machine/Engine.lean
@[simp] theorem memories_credit (s : State) (g : Nat) (bar : Option Nat) (bytes : Nat) :
    (s.credit g bar bytes).memories = s.memories := by
  unfold State.credit
  split <;> rfl

@[simp] theorem memories_cachedPieces (s : State) (core ctx : Nat) (k : RCache) (ps : List (Tgt × Nat)) :
    (s.cachedPieces core ctx k ps).1.memories = s.memories := by
  induction ps generalizing s with
  | nil => rfl
  | cons p r ih =>
    obtain ⟨t, n⟩ := p
    refine (ih _).trans ?_
    cases t <;> cases k <;> rfl

-- Sys2Proof/Machine/Barriers.lean
@[simp] theorem memories_arrive (s : State) (c : ICtx) (b : Blk) : (s.arrive c b).memories = s.memories := by
  grind [State.arrive, memories_unpin, memories_block]

-- Sys2Proof/Machine/Copy.lean
@[simp] theorem memories_trapAt (s : State) (ag : Agent) (pc cause : Nat) (va : Option Nat) (aux : Nat) :
    (s.trapAt ag pc cause va aux).memories = s.memories := by
  grind [State.trapAt, memories_endTask]

@[simp] theorem memories_backTo (s : State) (ag : Agent) (pc : Nat) (flag : Option Nat) :
    (s.backTo ag pc flag).memories = s.memories := by
  cases ag <;> simp [State.backTo]

@[simp] theorem memories_parkAt (s : State) (ag : Agent) (pc va aux : Nat) (flag : Option Nat) :
    (s.parkAt ag pc va aux flag).memories = s.memories := by
  cases ag <;> grind [State.parkAt, memories_backTo, memories_send, memories_modWave, memories_modSeq,
    memories_dropResvs, memories_savePin]

@[simp] theorem memories_unitsIn (s : State) (g : Nat) (us : List (Nat × Tgt)) :
    (s.unitsIn g us).memories = s.memories := by
  induction us generalizing s with
  | nil => rfl
  | cons u r ih => exact ih _

-- Sys2Proof/Machine/Dma.lean
@[simp] theorem memories_setHead (s : State) (ch : Nat) (m : DmaCmd) : (s.setHead ch m).memories = s.memories := rfl

-- Sys2Proof/Machine/Kernel.lean
@[simp] theorem memories_reportBindings (s : State) (ctx grid : Nat) (bs : List (Except BindFault Layout)) :
    (s.reportBindings ctx grid bs).memories = s.memories := rfl

-- Sys2Proof/Machine/Transport.lean
@[simp] theorem memories_putX (s : State) (id : Nat) (f : XOp → XOp) : (s.putX id f).memories = s.memories := rfl

@[simp] theorem memories_requestTo (s : State) (o : XOp) (gr : Group) (pk : Nat) (first : Bool) (slots : List XSlot) :
    (s.requestTo o gr pk first slots).memories = s.memories := rfl

@[simp] theorem memories_requests (s : State) (o : XOp) (gr : Group) (slots : List XSlot) :
    (s.requests o gr slots).memories = s.memories := memories_foldl (fun _ _ => memories_requestTo ..) _ s

@[simp] theorem memories_firstFails (s : State) (o : XOp) (j cause : Nat) (va : Option Nat) :
    (s.firstFails o j cause va).memories = s.memories := by
  grind [State.memories, State.firstFails, memories_trapAt, memories_parkAt]

@[simp] theorem memories_startX (s : State) (o : XOp) (gr : Group) (slots : List XSlot) :
    (s.startX o gr slots).memories = s.memories := by
  grind [State.startX, memories_block, memories_putX, memories_requests]

@[simp] theorem memories_setFor (s : State) (ag : Agent) (d : Dst) (x : DWord) :
    (s.setFor ag d x).memories = s.memories := by
  unfold State.setFor
  split <;> rfl

@[simp] theorem memories_answered (s : State) (r : Req) (d : Option Dst) (x : DWord) :
    (s.answered r d x).memories = s.memories := by
  cases d <;> simp [State.answered] <;> rfl

-- Sys2Proof/Machine/Place.lean
@[simp] theorem memories_fusedAs (s : State) (cl : Nat) (fuse : Bool) : (s.fusedAs cl fuse).memories = s.memories :=
  by
  unfold State.fusedAs
  split
  · rfl
  · exact memories_foldl (fun s k => memories_l1Empty s (8 * cl + k)) _ _

@[simp] theorem memories_newHere (s : State) (core ctx grid : Nat) :
    (s.newHere core ctx grid).memories = s.memories := rfl

@[simp] theorem memories_enter (s : State) (gr : Group) (p : Spot) (fuse : Bool) :
    (s.enter gr p fuse).memories = s.memories := by
  grind [State.memories, State.enter, memories_modCore, memories_acquire, memories_fusedAs, memories_newHere]

-- Sys2Proof/Machine/Save.lean
@[simp] theorem memories_restoreQueries (s : State) (x : Grid) (c : Cont) :
    (s.restoreQueries x c).memories = s.memories := rfl

@[simp] theorem memories_modCont (s : State) (x : Grid) (index : Nat) (f : Cont → Cont) :
    (s.modCont x index f).memories = s.memories := rfl

@[simp] theorem memories_takeCont (s : State) (x : Grid) (index : Nat) : (s.takeCont x index).memories = s.memories :=
  rfl

@[simp] theorem memories_endCont (s : State) (x : Grid) (c : Cont) (cause : Nat) (va : Option Nat) :
    (s.endCont x c cause va).memories = s.memories := by
  grind [State.memories, State.endCont, memories_modGrid, memories_sendTo, memories_forceReset, memories_setCtxState,
    memories_modCont, memories_takeCont]

@[simp] theorem memories_contFault (s : State) (x : Grid) (c : Cont) (f : Nat × Nat) :
    (s.contFault x c f).memories = s.memories := by
  grind [State.contFault, memories_sendTo, memories_modCont, memories_endCont]

-- Sys2Proof/Machine/Commit.lean
@[simp] theorem memories_blamed (s : State) (b : Option (Nat × List Nat)) : (s.blamed b).memories = s.memories := by
  unfold State.blamed
  split <;> rfl

@[simp] theorem memories_evictAll (s : State) (g : Nat) (gr : Group) : (s.evictAll g gr).memories = s.memories :=
  memories_foldl (fun s k => memories_evict s k _ _) _ s

@[simp] theorem memories_thirdRun (s : State) (g : Nat) (gr : Group) : (s.thirdRun g gr).memories = s.memories := by
  grind [State.thirdRun, memories_toCont, memories_endTask, memories_evictAll]

@[simp] theorem memories_fitTick (s : State) : (s.fitTick).memories = s.memories := rfl
@[simp] theorem memories_headTaken (s : State) (die : Nat) : (s.headTaken die).memories = s.memories := rfl

-- Sys2Proof/Machine/Launch.lean
@[simp] theorem memories_recorded (s : State) (r : Req) (xs : List DWord) : (s.recorded r xs).memories = s.memories :=
  by
  grind [State.recorded, memories_modGrp]

@[simp] theorem memories_spawned (s : State) (ag : Agent) (mask : BitVec 32) (counts : List (Nat × Nat))
    (dst : Option Dst) (xs : List DWord) : (s.spawned ag mask counts dst xs).memories = s.memories := by
  unfold State.spawned
  dsimp only
  split
  · split <;> rfl
  · refine (memories_foldl (fun s p => memories_putLane ..) _ _).trans ?_
    split <;> rfl

@[simp] theorem memories_setRow (s : State) (core row : Nat) (r : IRow) :
    (s.setRow core row r).memories = s.memories := rfl

@[simp] theorem memories_setBank (s : State) (core bank : Nat) (b : Bank) :
    (s.setBank core bank b).memories = s.memories := rfl

@[simp] theorem memories_forgetGrid (s : State) (key : Nat) : (s.forgetGrid key).memories = s.memories := rfl

-- Sys2Proof/Machine/Contexts.lean
@[simp] theorem memories_dropTlbs (s : State) (x : XScope) : (s.dropTlbs x).memories = s.memories := rfl

@[simp] theorem memories_xinv (s : State) (scope : BitVec 3) (ctx : BitVec 12) (va : BitVec 32) (rsv : Bool) :
    (s.xinv scope ctx va rsv).memories = s.memories := by
  grind [State.memories, State.xinv, memories_dropTlbs]

@[simp] theorem memories_serviceGroup (s : State) (g va : Nat) (failed : Bool) :
    (s.serviceGroup g va failed).memories = s.memories := by
  grind [State.serviceGroup, memories_modGrp, memories_endTask]

@[simp] theorem memories_serviceGrid (s : State) (x : Grid) (va : Nat) (failed : Bool) :
    (s.serviceGrid x va failed).memories = s.memories := by
  refine memories_foldl (fun s c => ?_) _ s
  split
  · exact memories_endCont ..
  · rfl

@[simp] theorem memories_serviced (s : State) (ctx va : Nat) (failed : Bool) :
    (s.serviced ctx va failed).memories = s.memories := by
  unfold State.serviced
  refine (memories_foldl (fun s g => memories_serviceGroup ..) _ _).trans ?_
  exact memories_ite rfl (memories_foldl (fun _ _ => memories_serviceGrid ..) _ _)

@[simp] theorem memories_fsvc (s : State) (failed : Bool) (ctx : BitVec 12) (va : BitVec 32) (rsv : Bool) :
    (s.fsvc failed ctx va rsv).memories = s.memories := by
  grind [State.memories, State.fsvc, memories_serviced]

@[simp] theorem memories_ctxBad (s : State) : (s.ctxBad).memories = s.memories := rfl

@[simp] theorem memories_ctxTook (s : State) (busy : Bool) (cmd : BitVec 3) (ctx : BitVec 12) (arg : BitVec 42) :
    (s.ctxTook busy cmd ctx arg).memories = s.memories := rfl

@[simp] theorem memories_forceDrained (s : State) (ctx : Nat) : (s.forceDrained ctx).memories = s.memories := by
  grind [State.forceDrained, memories_forceReset, memories_setCtxState]

@[simp] theorem memories_destroyed (s : State) (ctx : Nat) : (s.destroyed ctx).memories = s.memories := by
  grind [State.memories, State.destroyed, memories_forceReset, memories_dropTlbs]

@[simp] theorem memories_ctxCommand (s : State) (cmd : BitVec 3) (ctx : BitVec 12) (arg : BitVec 42) (rsv : Bool) :
    (s.ctxCommand cmd ctx arg rsv).memories = s.memories := by
  grind [State.memories, State.ctxCommand, memories_modGrid, memories_recall, memories_setCtxState, memories_ctxBad,
    memories_ctxTook, memories_forceDrained, memories_destroyed]

@[simp] theorem memories_drainEnds (s : State) (ctx : Nat) : (s.drainEnds ctx).memories = s.memories := by
  unfold State.drainEnds
  split <;> rfl

-- Sys2Proof/Machine/Fetch.lean
@[simp] theorem memories_rowNeg (s : State) (g : Nat) : (s.rowNeg g).memories = s.memories := rfl

@[simp] theorem memories_schedTaken (s : State) (g slot r : Nat) : (s.schedTaken g slot r).memories = s.memories :=
  rfl

-- Sys2Proof/Machine/Matrix.lean
@[simp] theorem memories_queued (s : State) (c : ICtx) (h : Hdr) (k : MKind) :
    (s.queued c h k).memories = s.memories := rfl

@[simp] theorem memories_signTile (s : State) (g : Nat) (sig : List (Nat × Nat × Nat × Nat)) :
    (s.signTile g sig).memories = s.memories := memories_foldl (fun _ _ => memories_sign ..) sig s

@[simp] theorem memories_matrixDone (s : State) (g n : Nat) (flag : Option Nat) :
    (s.matrixDone g n flag).memories = s.memories := by
  grind [State.matrixDone, memories_modGrp, memories_lower]

-- Sys2Proof/Machine/Issue.lean
@[simp] theorem memories_withLatch (s : State) (g w : Nat) : (s.withLatch g w).memories = s.memories := by
  grind [State.withLatch, memories_modWave, memories_modQuarter]

@[simp] theorem memories_tookTurns (s : State) (l : List Cand) : (s.tookTurns l).memories = s.memories :=
  memories_foldl (fun _ _ => memories_modWave ..) l s

-- Sys2Proof/Machine/Trouble.lean
@[simp] theorem memories_haltWave (s : State) (g w : Nat) (gr : Group) : (s.haltWave g w gr).memories = s.memories :=
  rfl

@[simp] theorem memories_countError (s : State) (core : Nat) : (s.countError core).memories = s.memories := by
  grind [State.memories, State.countError, memories_drawn]

@[simp] theorem memories_reportTaken (s : State) (r : FRec) : (s.reportTaken r).memories = s.memories := by
  grind [State.reportTaken, memories_finishTask, memories_serviced]

@[simp] theorem memories_takeWaiting (s : State) (unit : Nat) : (s.takeWaiting unit).memories = s.memories := by
  refine memories_foldl (fun s r => ?_) _ _
  grind [memories_takeReport, memories_reportTaken, memories_reportWaits]

@[simp] theorem memories_xqFree (s : State) (x : Nat) : (s.xqFree x).memories = s.memories := rfl

-- Sys2Proof/Machine/Package.lean
@[simp] theorem memories_modPkg (s : State) (f : Pkg → Pkg) : (s.modPkg f).memories = s.memories := rfl
@[simp] theorem memories_resume (s : State) : (s.resume).memories = s.memories := rfl
@[simp] theorem memories_abandon (s : State) : (s.abandon).memories = s.memories := rfl

@[simp] theorem memories_freeze (s : State) : (s.freeze).memories = s.memories := by
  unfold State.freeze
  split <;> rfl

@[simp] theorem memories_thaw (s : State) : (s.thaw).memories = s.memories := by
  grind [State.memories, State.thaw, memories_modPkg, memories_resume]

theorem memories_portAs (s : State) (n : Nat) (f : Port → Option Port) {t : State} (ht : s.portAs n f = some t) :
    t.memories = s.memories := by
  unfold State.portAs at ht
  split at ht
  · obtain ⟨q, -, rfl⟩ := Option.map_eq_some_iff.1 ht
    rfl
  · exact absurd ht (by simp)

@[simp] theorem memories_setPower (s : State) (lo hi : Nat) (v : DWord) (f : Power → BitVec 16 → Power) :
    (s.setPower lo hi v f).memories = s.memories := by
  grind [State.setPower, memories_modPkg]

-- Sys2Proof/Machine/Schedule.lean
@[simp] theorem memories_tick (s : State) : (s.tick).memories = s.memories := rfl

end Sys2Proof.Machine
end

section
/-!
SUPPORT. The canonical form of the two memories, and the operations that write one of them or translate an address, which
may set AC and DT of a table entry (03 R73): each keeps the form.
-/

namespace Sys2Proof.Machine

/-- Both memories are in canonical form. -/
def Canonical (m : List Host.Cell × List Host.Cell) : Prop := memWf m.1 = true ∧ memWf m.2 = true

theorem canonical_foldl {α : Type} {f : State → α → State}
    (hf : ∀ s x, Canonical s.memories → Canonical (f s x).memories) (l : List α) {s : State}
    (h : Canonical s.memories) : Canonical (l.foldl f s).memories := List.foldlRecOn l f h fun s hs x _ => hf s x hs

theorem canonical_ite {t u : State} {p : Prop} [Decidable p] (ht : Canonical t.memories) (hu : Canonical u.memories) :
    Canonical (if p then t else u).memories := by
  split <;> assumption

theorem canonical_walkFill {s : State} (h : Canonical s.memories) (u : TUnit) (ctx va : Nat) (fw : Bool) (acc : Acc) :
    Canonical (s.walkFill u ctx va fw acc).1.memories := by
  have hset (u : State) (hu : Canonical u.memories) (a : Nat) (b : Byte) :
      Canonical ({ u with mem := memSetByte u.mem a b }.hitGranules none a 1).memories := ⟨memWf_setByte _ a b hu.1,
        hu.2⟩
  grind [State.walkFill, memories_modDie, memories_tlbFill]

theorem canonical_translate {s : State} (h : Canonical s.memories) (u : TUnit) (ctx : Nat) (acc : Acc) (va : DWord) :
    Canonical (s.translate u ctx acc va).1.memories := by
  grind [State.translate, memories_tlbFill, canonical_walkFill]

theorem canonical_dramWrite {s : State} (h : Canonical s.memories) (a : Nat) (bytes : List Byte) :
    Canonical (s.dramWrite a bytes).memories := ⟨memWf_write _ _ _ h.1, h.2⟩

theorem canonical_sysWrite {s : State} (h : Canonical s.memories) (a : Nat) (bs : List Byte) :
    Canonical { s with sys := memWrite s.sys a bs }.memories := ⟨h.1, memWf_write _ _ _ h.2⟩

theorem canonical_homeWrite {s : State} (h : Canonical s.memories) (g a : Nat) (bytes : List Byte) :
    Canonical (s.homeWrite g a bytes).memories := by
  grind [State.homeWrite, memories_modGrp, memories_hitGranules, canonical_dramWrite]

theorem canonical_agentWrite {s : State} (h : Canonical s.memories) (g a : Nat) (bytes : List Byte) :
    Canonical (s.agentWrite g a bytes).memories := by
  grind [State.agentWrite, memories_l1Update, canonical_homeWrite]

theorem canonical_aliasWrite {s : State} (h : Canonical s.memories) (view : State → Option Group)
    (write : State → Nat → List Byte → State) (die f page ty ofs : Nat) (bytes : List Byte)
    (hw : ∀ s a b, Canonical s.memories → Canonical (write s a b).memories) :
    Canonical (s.aliasWrite view write die f page ty ofs bytes).memories :=
  canonical_foldl (fun s _ hs => hw _ _ _ (hw s _ _ hs)) _ h

theorem canonical_writeTgt {s : State} (h : Canonical s.memories) (g : Nat) (t : Tgt) (bytes : List Byte) :
    Canonical (s.writeTgt g t bytes).memories := by
  cases t with
  | dram a => exact canonical_agentWrite h g a bytes
  | sys a => exact canonical_sysWrite h a bytes
  | aliasAt => exact canonical_aliasWrite h _ _ _ _ _ _ _ _ fun s a b hs => canonical_homeWrite hs g a b

theorem canonical_atomAt {s : State} (h : Canonical s.memories) (g : Nat) (op : AtomOp) (t : Tgt) (b : DWord) :
    Canonical (s.atomAt g op t b).1.memories := by
  grind [State.atomAt, canonical_writeTgt]

theorem canonical_putPieces {s : State} (h : Canonical s.memories) (ps : List (Tgt × Nat)) (bs : List Byte) :
    Canonical (s.putPieces ps bs).memories := by
  induction ps generalizing s bs with
  | nil => exact h
  | cons p r ih =>
    obtain ⟨t, n⟩ := p
    cases t with
    | dram a => exact ih (canonical_dramWrite h ..) _
    | sys a => exact ih (canonical_sysWrite h ..) _
    | aliasAt => exact ih h _

theorem canonical_rowApply {s : State} (h : Canonical s.memories) (isMax isInt : Bool) (ps : List (Tgt × Nat))
    (f : Word) : Canonical (s.rowApply isMax isInt ps f).memories := by
  grind [State.rowApply, canonical_putPieces]

theorem canonical_contribute {s : State} (h : Canonical s.memories) (c : Contrib) :
    Canonical (s.contribute c).memories := by
  cases c with
  | ared op t b =>
    cases t with
    | dram a => exact canonical_dramWrite h ..
    | sys | aliasAt => exact h
  | row => exact canonical_rowApply h ..

theorem canonical_commitVersion {s : State} (h : Canonical s.memories) (g : Nat) :
    Canonical (s.commitVersion g).memories := by
  unfold State.commitVersion
  split
  · exact h
  next gr _ =>
    have hbytes : Canonical (gr.version.foldl (fun s (c : Nat × Byte) =>
        (s.dramWrite c.1 [c.2]).l1Drop (coreOf g) c.1) s).memories :=
      canonical_foldl (fun s c hs => by rw [memories_l1Drop]; exact canonical_dramWrite hs ..) _ h
    have hbuf := canonical_foldl (f := fun (s : State) (c : Nat × Contrib) => s.contribute c.2)
      (fun s c hs => canonical_contribute hs c.2) gr.buf hbytes
    exact canonical_foldl (fun s a hs => by rw [memories_l1Drop]; exact hs) _ hbuf

theorem canonical_demote {s : State} (h : Canonical s.memories) (g cause : Nat) :
    Canonical (s.demote g cause).memories := by
  grind [State.demote, memories_modGrp, memories_evict, canonical_commitVersion]

theorem canonical_translateLanes {s : State} (h : Canonical s.memories) (u : TUnit) (ctx : Nat) (acc : Acc)
    (ls : List (Nat × DWord)) : Canonical (s.translateLanes u ctx acc ls).1.memories := by
  induction ls generalizing s with
  | nil => exact h
  | cons p t ih => exact ih (canonical_translate h ..)

theorem canonical_resolve {s : State} (h : Canonical s.memories) (c : ICtx) (u : TUnit) (acc : Acc) (size : Nat)
    (lanes : List Nat) (addr : Nat → DWord) (f : DWord → Trans → Option Nat) (data : Nat → BitVec 128)
    {r : State × List LaneAcc} (hr : s.resolve c u acc size lanes addr f data = .ok r) : Canonical r.1.memories := by
  grind [State.resolve, canonical_translateLanes]

/-- What an agent that is demoted leaves is made of the state before its issue. -/
theorem canonical_demoted {c : ICtx} (h : Canonical c.before.memories) (cause : Nat) {t : State}
    (ht : c.demoted cause = .ok t) : Canonical t.memories := by
  grind [ICtx.demoted, canonical_demote]

theorem canonical_retranslate {s : State} (h : Canonical s.memories) (core : Nat) (r : Replay) (failed : Bool) :
    Canonical (s.retranslate core r failed).1.memories := by
  grind [State.retranslate, canonical_translateLanes]

theorem canonical_walkServe {s : State} (h : Canonical s.memories) (w : Walk) (x : Waiter) :
    Canonical (s.walkServe w x).memories := by
  grind [State.walkServe, canonical_walkFill, memories_fetchLine]

theorem canonical_ordered (s : State) (c : ICtx) (sc : Scope) (returning always : Bool)
    (hc : Canonical c.before.memories) {t : State} (ht : ICtx.ordered c s sc returning always = some (.ok t)) :
    Canonical t.memories := by
  grind [ICtx.ordered, canonical_demoted]

theorem canonical_atomLane {s : State} (h : Canonical s.memories) (op : MemOp) (aop : AtomOp) (x : LaneAcc) :
    Canonical (s.atomLane op aop x).1.memories := by
  grind [State.atomLane, memories_l1Update, canonical_dramWrite, canonical_atomAt]

theorem canonical_stcLane {s : State} (h : Canonical s.memories) (op : MemOp) (x : LaneAcc) :
    Canonical (s.stcLane op x).1.memories := by
  grind [State.memories, State.stcLane, memories_l1Update, canonical_dramWrite, canonical_agentWrite]

theorem canonical_xpieces {s : State} (h : Canonical s.memories) (u : TUnit) (ctx : Nat) (acc : Acc)
    (ps : List (Nat × Nat)) : Canonical (s.xpieces u ctx acc ps).1.memories := by
  induction ps generalizing s with
  | nil => exact h
  | cons p t ih => exact ih (canonical_translate h ..)

theorem canonical_readVa {s : State} (h : Canonical s.memories) (u : TUnit) (ctx : Nat) (view : Option Group)
    (va n : Nat) : Canonical (s.readVa u ctx view va n).1.memories := by
  grind [State.readVa, canonical_xpieces]

theorem canonical_writePieces {s : State} (h : Canonical s.memories) (g : Nat) (ps : List (Tgt × Nat))
    (bs : List Byte) : Canonical (s.writePieces g ps bs).memories := by
  induction ps generalizing s bs with
  | nil => exact h
  | cons p r ih => exact ih (canonical_writeTgt h ..) _

theorem canonical_elemPieces {s : State} (h : Canonical s.memories) (u : TUnit) (ctx : Nat) (acc : Acc) (l : Layout)
    (idx : Int) : Canonical (s.elemPieces u ctx acc l idx).1.memories := by
  grind [State.elemPieces, canonical_xpieces]

theorem canonical_elemsPieces {s : State} (h : Canonical s.memories) (u : TUnit) (ctx : Nat) (acc : Acc) (l : Layout)
    (is : List Int) : Canonical (s.elemsPieces u ctx acc l is).1.memories := by
  induction is generalizing s with
  | nil => exact h
  | cons i t ih => exact ih (canonical_elemPieces h ..)

theorem canonical_cachedVa {s : State} (h : Canonical s.memories) (g ctx : Nat) (k : RCache) (va n : Nat) :
    Canonical (s.cachedVa g ctx k va n).1.memories := by
  grind [State.cachedVa, canonical_xpieces, memories_cachedPieces]

theorem canonical_cachedElem {s : State} (h : Canonical s.memories) (g ctx : Nat) (k : RCache) (l : Layout)
    (idx : Int) : Canonical (s.cachedElem g ctx k l idx).1.memories := by
  grind [State.cachedElem, canonical_elemPieces, memories_cachedPieces]

theorem canonical_cachedElems {s : State} (h : Canonical s.memories) (g ctx : Nat) (k : RCache) (l : Layout)
    (ok : Nat → Bool) (is : List Int) : Canonical (s.cachedElems g ctx k l ok is).1.memories := by
  induction is generalizing s with
  | nil => exact h
  | cons i t ih => grind [State.cachedElems, canonical_cachedElem]

theorem canonical_unitsOut {s : State} (h : Canonical s.memories) (g partialNo : Nat) (us : List (Nat × Nat × Tgt)) :
    Canonical (s.unitsOut g partialNo us).memories := by
  induction us generalizing s with
  | nil => exact h
  | cons u r ih =>
    refine ih (canonical_writeTgt ?_ ..)
    rwa [memories_sign]

theorem canonical_devRead {s : State} (h : Canonical s.memories) (ctx va n : Nat) :
    Canonical (s.devRead ctx va n).1.memories := by
  grind [State.devRead, canonical_readVa]

theorem canonical_readAll {s : State} (h : Canonical s.memories) (ctx base : Nat) (rs : List (Nat × Nat)) :
    Canonical (s.readAll ctx base rs).1.memories := by
  induction rs generalizing s with
  | nil => exact h
  | cons p t ih =>
    have hread := canonical_devRead h ctx (base + p.1) p.2
    unfold State.readAll
    dsimp only
    split
    · exact hread
    · exact ih hread

theorem canonical_kernelSigned {s : State} (h : Canonical s.memories) (ctx va : Nat) (kh : KHead) :
    Canonical (s.kernelSigned ctx va kh).1.memories := by
  grind [State.kernelSigned, canonical_devRead]

theorem canonical_loadKernel {s : State} (h : Canonical s.memories) (ctx va : Nat) :
    Canonical (s.loadKernel ctx va).1.memories := by
  unfold State.loadKernel
  have hhead := canonical_devRead h ctx va 0x140
  dsimp only
  split
  · exact hhead
  split
  · exact hhead
  split
  · exact hhead
  next kh _ _ =>
    have hmap := canonical_devRead hhead ctx (va + kh.mapOfs) (8 * kh.points)
    split
    · exact hmap
    split
    · exact hmap
    split
    · exact hmap
    split
    · exact canonical_readAll hmap ..
    · have hall := canonical_readAll hmap
      grind [canonical_kernelSigned]

theorem canonical_handleList {s : State} (h : Canonical s.memories) (ctx : Nat) (bs : List Byte) :
    Canonical (s.handleList ctx bs).1.memories := by
  grind [State.handleList, canonical_devRead]

theorem canonical_bindHandle {s : State} (h : Canonical s.memories) (ctx va : Nat) :
    Canonical (s.bindHandle ctx va).1.memories := by
  grind [State.bindHandle, canonical_devRead]

theorem canonical_bindHandles {s : State} (h : Canonical s.memories) (ctx : Nat) (vas : List Nat) :
    Canonical (s.bindHandles ctx vas).1.memories := by
  induction vas generalizing s with
  | nil => exact h
  | cons va t ih => exact ih (canonical_bindHandle h ctx va)

theorem canonical_resolveRow {s : State} (h : Canonical s.memories) (ctx : Nat) (form : XForm) (l : Layout)
    (row : Nat) : Canonical (s.resolveRow ctx form l row).1.memories := by
  grind [State.resolveRow, canonical_elemsPieces]

theorem canonical_pairing {s : State} (h : Canonical s.memories) (ctx : Nat) : Canonical (s.pairing ctx).1.memories :=
  by
  grind [State.pairing, canonical_readVa]

theorem canonical_route {s : State} (h : Canonical s.memories) (ctx : Nat) (l : Layout) (slots : List XSlot) :
    Canonical (s.route ctx l slots).1.memories := by
  grind [State.route, canonical_readVa, canonical_pairing]

theorem canonical_scatterRow {s : State} (h : Canonical s.memories) (o : XOp) (row : Nat)
    (ts : List (List (Tgt × Nat))) (f : List Word) : Canonical (s.scatterRow o row ts f).memories := by
  refine canonical_foldl (fun s p hs => ?_) _ h
  dsimp only
  split
  · split
    · exact hs
    · refine canonical_foldl (fun s a hs => by rwa [memories_l1Drop]) _ (canonical_rowApply ?_ ..)
      exact hs
  · exact hs

theorem canonical_serveRows {s : State} (h : Canonical s.memories) (req : RemoteReq) (l : Layout)
    (asks : List RemoteAsk) : Canonical (s.serveRows req l asks).1.memories := by
  induction asks generalizing s with
  | nil => exact h
  | cons a t ih =>
    refine ih ?_
    have hrow := canonical_resolveRow h req.tag req.form l a.row
    split
    · exact hrow
    split
    · exact hrow
    split
    · exact canonical_foldl (fun s p hs => canonical_rowApply hs ..) _ hrow
    · exact hrow

theorem canonical_devWrite {s : State} (h : Canonical s.memories) (ctx : Nat) (runs : List (Nat × List Byte)) :
    Canonical (s.devWrite ctx runs).1.memories := by
  have hpieces : Canonical (runs.foldl (fun (a : State × List (List XPiece × List Byte)) x =>
      let q := a.1.xpieces s.devUnit ctx .wr (pieces x.1 x.2.length)
      (q.1, a.2 ++ [(refusePieces (fun _ => none) q.2, x.2)])) (s, [])).1.memories :=
    List.foldlRecOn (motive := fun a : State × _ => Canonical a.1.memories) _ _ h fun a ha x _ => canonical_xpieces ha
      ..
  unfold State.devWrite
  dsimp only
  split
  · exact hpieces
  · exact canonical_foldl (fun s x hs => canonical_writePieces hs ..) _ hpieces

theorem canonical_slotIntact {s : State} (h : Canonical s.memories) (x : Grid) (c : Cont) (base : Nat)
    (tiles : List Nat) : Canonical (s.slotIntact x c base tiles).1.memories := by
  have hread := canonical_devRead h x.ctx base 8192
  unfold State.slotIntact
  dsimp only
  split
  · exact hread
  · refine List.foldlRecOn (motive := fun a : State × _ => Canonical a.1.memories) _ _ hread fun a ha t _ => ?_
    grind [canonical_devRead]

theorem canonical_restore {s : State} (h : Canonical s.memories) (x : Grid) (c : Cont) (p : Spot) :
    Canonical (s.restore x c p).1.memories := by
  unfold State.restore
  split
  · exact h
  dsimp only
  split
  · exact h
  split
  · exact h
  next k _ =>
    have hslot := canonical_slotIntact h x c (slotVa x.lrec.area x.kobj.amax c.slot) (savedTiles (x.kobj.live.getD k
      []))
    split
    · exact hslot
    · exact hslot
    · split
      · exact canonical_devRead hslot ..
      · rw [memories_restoreQueries]
        exact canonical_devRead hslot ..

theorem canonical_resumeAt {s : State} (h : Canonical s.memories) (x : Grid) (c : Cont) (p : Spot) (q : Option Spot) :
    Canonical (s.resumeAt x c p q).memories := by
  grind [State.resumeAt, memories_enter, canonical_restore, memories_takeCont, memories_contFault]

theorem canonical_commitPair {s : State} (h : Canonical s.memories) (g : Nat) (gr : Group) :
    Canonical (s.commitPair g gr).memories := by
  grind [State.memories, State.commitPair, memories_modGrp, canonical_commitVersion]

theorem canonical_switchTo {s : State} (h : Canonical s.memories) (x : Grid) (n g : Nat) (gr : Group) :
    Canonical (s.switchTo x n g gr).memories := by
  grind [State.switchTo, memories_evict, memories_toCont, memories_enter, canonical_restore, memories_contFault]

theorem canonical_afterCommit {s : State} (h : Canonical s.memories) (x : Grid) (g : Nat) (third : Bool) :
    Canonical (s.afterCommit x g third).memories := by
  unfold State.afterCommit
  split
  · exact h
  split
  · rwa [memories_evictAll, memories_toCont]
  split
  · refine canonical_foldl (fun s k hs => ?_) _ h
    split
    · exact canonical_switchTo hs ..
    · exact hs
  · exact canonical_foldl (fun s k hs => by rwa [memories_modGrp]) _ h

theorem canonical_launchFrom {s : State} (h : Canonical s.memories) (ctx : Nat) (m : LaunchBy) (bs : List Byte) :
    Canonical (s.launchFrom ctx m bs).1.memories := by
  grind [State.memories, State.launchFrom, canonical_loadKernel, canonical_handleList]

theorem canonical_spawnAsk {s : State} (h : Canonical s.memories) (c : ICtx) (hd : Hdr) (kind : ReqKind)
    (give : State → List DWord → State) (hc : Canonical c.before.memories)
    (hgive : ∀ s xs, (give s xs).memories = s.memories) {t : State} (ht : spawnAsk c hd kind give s = .ok t) :
    Canonical t.memories := by
  unfold spawnAsk at ht
  split at ht
  · cases ht
  split at ht
  · exact canonical_demoted hc 1 ht
  dsimp only at ht
  split at ht <;> cases ht
  · rw [memories_doneNow, hgive]
    exact h
  · exact h

theorem canonical_cellAt {s : State} (h : Canonical s.memories) (ctx va : Nat) :
    Canonical (s.cellAt ctx va).1.memories := by
  grind [State.cellAt, canonical_translate]

theorem canonical_readCell {s : State} (h : Canonical s.memories) (ctx : Nat) (cx : Ctx) :
    Canonical (s.readCell ctx cx).memories := by
  have hcell := canonical_cellAt h ctx cx.cell
  unfold State.readCell
  generalize s.cellAt ctx cx.cell = p at hcell
  obtain ⟨u, f | a⟩ := p
  · refine (congrArg Canonical (memories_sendTo ..)).mpr ?_
    exact hcell
  · refine canonical_ite hcell ?_
    generalize hl : State.launchFrom _ _ _ _ = l
    have hlaunch : Canonical l.1.memories := by
      rw [← hl]
      refine canonical_launchFrom ?_ ..
      exact hcell
    exact ⟨hlaunch.1, memWf_write _ _ _ hlaunch.2⟩

theorem canonical_gridWord {s : State} (h : Canonical s.memories) (x : Grid) (va n : Nat) :
    Canonical (s.gridWord x va n).1.memories := by
  grind [State.gridWord, memories_modGrid, memories_sendTo, canonical_devRead]

theorem canonical_addDone {s : State} (h : Canonical s.memories) (x : Grid) : Canonical (s.addDone x).1.memories := by
  grind [State.addDone, memories_sendTo, canonical_translate, canonical_dramWrite]

theorem canonical_fetchElems {s : State} (h : Canonical s.memories) (g ctx : Nat) (k : RCache) (l : Layout)
    (idx : List Int) : Canonical (s.fetchElems g ctx k l idx).1.memories := by
  have hpieces := canonical_elemsPieces h (coreUnit g) ctx .rd l idx
  unfold State.fetchElems
  dsimp only
  split
  · exact hpieces
  · refine List.foldlRecOn (motive := fun a : State × _ => Canonical a.1.memories) _ _ hpieces fun a ha p _ => ?_
    grind [memories_cachedPieces]

theorem canonical_cachedWords {s : State} (h : Canonical s.memories) (g ctx : Nat) (k : RCache) (vas : List Nat) :
    Canonical (s.cachedWords g ctx k vas).1.memories := by
  induction vas generalizing s with
  | nil => exact h
  | cons va t ih =>
    have hread := canonical_cachedVa h g ctx k va 8
    unfold State.cachedWords
    dsimp only
    split
    · exact hread
    · exact ih hread

theorem canonical_blockPlaces {s : State} (h : Canonical s.memories) (g ctx : Nat) (l : Layout) (r i n : Nat) :
    Canonical (s.blockPlaces g ctx l r i n).1.memories := by
  grind [State.blockPlaces, canonical_cachedWords]

theorem canonical_blockCodes {s : State} (h : Canonical s.memories) (g ctx : Nat) (l : Layout) (r i n : Nat) :
    Canonical (s.blockCodes g ctx l r i n).1.memories := by
  grind [State.blockCodes, canonical_fetchElems, canonical_blockPlaces]

theorem canonical_rowPtr {s : State} (h : Canonical s.memories) (g ctx : Nat) (l : Layout) (k : Nat) :
    Canonical (s.rowPtr g ctx l k).1.memories := by
  grind [State.rowPtr, canonical_cachedVa]

theorem canonical_rowPtrs {s : State} (h : Canonical s.memories) (g ctx : Nat) (l : Layout) (r : Nat) :
    Canonical (s.rowPtrs g ctx l r).1.memories := by
  grind [State.rowPtrs, canonical_rowPtr]

theorem canonical_scanRow {s : State} (h : Canonical s.memories) (g ctx : Nat) (gr : Group) (hs row : Nat)
    (ht : Option Nat) : Canonical (s.scanRow g ctx gr hs row ht).1.memories := by
  unfold State.scanRow
  split
  · exact h
  next l _ =>
    have hrow := canonical_rowPtrs h g ctx l row
    split
    · exact h
    dsimp only
    split
    · exact hrow
    split
    · exact hrow
    split
    · exact hrow
    split
    · exact hrow
    · exact canonical_cachedElems hrow ..

theorem canonical_readMd {s : State} (h : Canonical s.memories) (c : ICtx) (t : Tile)
    {r : State × SMap DWord × Option Layout} (hr : s.readMd c t = .ok r) : Canonical r.1.memories := by
  grind [State.readMd, canonical_cachedWords]

theorem canonical_unitsHome {s : State} (h : Canonical s.memories) (g : Nat) (us : List (Nat × Tgt)) :
    Canonical (s.unitsHome g us).memories := by
  induction us generalizing s with
  | nil => exact h
  | cons u r ih => exact ih (canonical_writeTgt h ..)

theorem canonical_firstOf {s : State} (h : Canonical s.memories) (es : List Instr)
    (hexec : ∀ i s t, Canonical s.memories → exec i s = .next t → Canonical t.memories) {t : State}
    (ht : s.firstOf es = some t) : Canonical t.memories := by
  induction es with
  | nil => cases ht
  | cons e es ih =>
    unfold State.firstOf at ht
    split at ht
    next u hu =>
      split at ht
      · exact ih ht
      · cases ht
        exact hexec e s _ h hu
    · exact ih ht

end Sys2Proof.Machine
end

section
/-!
SUPPORT. What an operation answers keeps the canonical form: first the issue of an instruction around its body, then the
operations that many instructions share.
-/

namespace Sys2Proof.Machine

/-- Whatever state f answers from a state in canonical form is in canonical form. -/
def KeepsForm (f : State → Out) : Prop :=
  ∀ s t, Canonical s.memories → f s = .next t → Canonical t.memories

/-- The body of an instruction keeps the form, as long as the state before the issue has it too, which a demotion
restores. -/
def BodyKeepsForm (body : ICtx → State → Except Stop State) : Prop :=
  ∀ c s t, Canonical c.before.memories → Canonical s.memories → body c s = .ok t → Canonical t.memories

theorem icx_before {s : State} {c : ICtx} (h : s.icx = some c) : c.before = s := by
  unfold State.icx at h
  repeat' split at h
  all_goals cases h
  all_goals rfl

theorem keepsForm_issueUsing {use : ICtx → Quarter → Quarter} {h : Hdr} {len : Nat}
    {body : ICtx → State → Except Stop State} (hb : BodyKeepsForm body) : KeepsForm (issueUsing use h len body) := by
  intro s t hs ht
  unfold issueUsing at ht
  split at ht
  · cases ht
  next c hc =>
  have hbegun : Canonical (s.begun c h len).memories := by rwa [memories_begun]
  split at ht
  · next u hu =>
    cases ht
    exact hb c _ _ (icx_before hc ▸ hs) hbegun hu
  · cases ht
    rwa [memories_stoppedUsing]

theorem keepsForm_issue {h : Hdr} {len : Nat} {body : ICtx → State → Except Stop State} (hb : BodyKeepsForm body) :
    KeepsForm (issue h len body) := keepsForm_issueUsing hb

theorem keepsForm_issueReading {srcs : List SrcW} {h : Hdr} {body : ICtx → State → Except Stop State}
    (hb : BodyKeepsForm body) : KeepsForm (issueReading srcs h body) := keepsForm_issueUsing hb

theorem keepsForm_control {h : Hdr} {body : ICtx → State → Except Stop State} (hb : BodyKeepsForm body) :
    KeepsForm (control h body) := keepsForm_issue fun c s t hc hs ht => by
  grind [BodyKeepsForm, memories_doneNow]

theorem keepsForm_laneFixed {tm : Timing} {h : Hdr} {len : Nat} {ds : List (Dst × Wd)} {srcs : List SrcW}
    {body : ICtx → BitVec 32 → Except Stop Res} : KeepsForm (laneFixed tm h len ds srcs body) :=
  keepsForm_issueUsing fun c s t hc hs ht => by
  grind [memories_fixed]

theorem keepsForm_bothFixed {tm : Timing} {h : Hdr} {len : Nat} {d : Dst} {srcs : List SrcW}
    {lane : ICtx → BitVec 32 → Except Stop Res} {uni : ICtx → DWord} :
    KeepsForm (bothFixed tm h len d srcs lane uni) := keepsForm_issueUsing fun c s t hc hs ht => by
  grind [memories_fixed, memories_fixedG]

theorem keepsForm_movIndexed {h : Hdr} {len : Nat} {dst : Nat → Dst} {src : Nat → Src} :
    KeepsForm (movIndexed h len dst src) := by
  unfold movIndexed
  refine keepsForm_issueUsing fun c s t hc hs ht => ?_
  grind [memories_fixed]

theorem keepsForm_intBin {tm : Timing} {ext : BitVec 16 → DWord} {f : (n : Nat) → BitVec n → BitVec n → BitVec n}
    {h : Hdr} {len : Nat} {d : Dst} {a b : Src} : KeepsForm (intBin tm ext f h len d a b) := by
  unfold intBin
  exact keepsForm_bothFixed

theorem keepsForm_intUn {tm : Timing} {f : (n : Nat) → BitVec n → BitVec n} {h : Hdr} {len : Nat} {d : Dst}
    {a : Src} : KeepsForm (intUn tm f h len d a) := by
  unfold intUn
  exact keepsForm_bothFixed

theorem keepsForm_intTri {tm : Timing} {f : (n : Nat) → BitVec n → BitVec n → BitVec n → BitVec n} {h : Hdr}
    {len : Nat} {d : Dst} {a b e : Src} : KeepsForm (intTri tm f h len d a b e) := by
  unfold intTri
  exact keepsForm_bothFixed

theorem keepsForm_lane2 {tm : Timing} {ext : BitVec 16 → DWord} {f : Word → Word → Word × Fl} {h : Hdr} {len : Nat}
    {d : Dst} {a b : Src} : KeepsForm (lane2 tm ext f h len d a b) := by
  unfold lane2
  exact keepsForm_laneFixed

theorem keepsForm_lane1 {tm : Timing} {f : Word → Word × Fl} {h : Hdr} {len : Nat} {d : Dst} {a : Src} :
    KeepsForm (lane1 tm f h len d a) := by
  unfold lane1
  exact keepsForm_laneFixed

theorem keepsForm_lane3 {tm : Timing} {f : Word → Word → Word → Word × Fl} {h : Hdr} {len : Nat} {d : Dst}
    {a b e : Src} : KeepsForm (lane3 tm f h len d a b e) := by
  unfold lane3
  exact keepsForm_laneFixed

theorem keepsForm_lane2x64 {tm : Timing} {f : DWord → DWord → DWord × Fl} {h : Hdr} {len : Nat} {d : Dst}
    {a b : Src} : KeepsForm (lane2x64 tm f h len d a b) := by
  unfold lane2x64
  exact keepsForm_laneFixed

theorem keepsForm_lane3x64 {tm : Timing} {f : DWord → DWord → DWord → DWord × Fl} {h : Hdr} {len : Nat} {d : Dst}
    {a b e : Src} : KeepsForm (lane3x64 tm f h len d a b e) := by
  unfold lane3x64
  exact keepsForm_laneFixed

theorem keepsForm_lane1x64 {tm : Timing} {f : DWord → DWord × Fl} {h : Hdr} {len : Nat} {d : Dst} {a : Src} :
    KeepsForm (lane1x64 tm f h len d a) := by
  unfold lane1x64
  exact keepsForm_laneFixed

theorem keepsForm_lane64to32 {tm : Timing} {f : DWord → Word × Fl} {h : Hdr} {len : Nat} {d : Dst} {a : Src} :
    KeepsForm (lane64to32 tm f h len d a) := by
  unfold lane64to32
  exact keepsForm_laneFixed

theorem keepsForm_lane32to64 {tm : Timing} {f : Word → DWord × Fl} {h : Hdr} {len : Nat} {d : Dst} {a : Src} :
    KeepsForm (lane32to64 tm f h len d a) := by
  unfold lane32to64
  exact keepsForm_laneFixed

theorem keepsForm_cmpInt {f : (n : Nat) → BitVec n → BitVec n → Bool} {h : Hdr} {d : Dst} {a b : Src} :
    KeepsForm (cmpInt f h d a b) := by
  unfold cmpInt
  exact keepsForm_bothFixed

theorem keepsForm_cmpFp32 {cc : FCond} {h : Hdr} {p : BitVec 3} {a b : Src} : KeepsForm (cmpFp32 cc h p a b) := by
  unfold cmpFp32
  exact keepsForm_laneFixed

theorem keepsForm_cmpFp64 {cc : FCond} {h : Hdr} {p : BitVec 3} {a b : Src} : KeepsForm (cmpFp64 cc h p a b) := by
  unfold cmpFp64
  exact keepsForm_laneFixed

theorem keepsForm_ffCvt {g : FmtW → Word → Word × Fl} {h : Hdr} {d : Dst} {a f : Src} : KeepsForm (ffCvt g h d a f) :=
  by
  unfold ffCvt
  exact keepsForm_laneFixed

theorem keepsForm_ivPoint {ty : IvTy} {tm : Timing} {arith : Bool} {k : Nat} {h : Hdr} {d : Dst}
    {ds : List (Dst × Wd)} {srcs : List SrcW} {f : (Nat → List Lanes) → Nat → IvOut} :
    KeepsForm (ivPoint ty tm arith k h d ds srcs f) := by
  unfold ivPoint
  exact keepsForm_laneFixed

theorem keepsForm_ivCmpP {ty : IvTy} {tm : Timing} {tt ff : Ext → Ext → Ext → Ext → Bool} {h : Hdr} {p : BitVec 3}
    {a b : Src} : KeepsForm (ivCmpP ty tm tt ff h p a b) := by
  unfold ivCmpP
  exact keepsForm_laneFixed

theorem keepsForm_lxch {j : Nat → Word → Option Nat} {h : Hdr} {len : Nat} {d : Dst} {a b : Src} :
    KeepsForm (lxch j h len d a b) := by
  unfold lxch
  exact keepsForm_laneFixed

theorem keepsForm_movB32 {h : Hdr} {len : Nat} {d : Dst} {b : Src} : KeepsForm (movB32 h len d b) := by
  unfold movB32
  exact keepsForm_bothFixed

theorem keepsForm_movXa {h : Hdr} {len : Nat} {d : Dst} {a : Nat} : KeepsForm (movXa h len d a) := by
  unfold movXa
  exact keepsForm_movIndexed

theorem keepsForm_movXd {h : Hdr} {len d : Nat} {b : Src} : KeepsForm (movXd h len d b) := by
  unfold movXd
  exact keepsForm_movIndexed

theorem keepsForm_movXad {h : Hdr} {len d a : Nat} : KeepsForm (movXad h len d a) := by
  unfold movXad
  exact keepsForm_movIndexed

theorem keepsForm_voteP {f : PCode → PCode → PCode} {unit : PCode} {h : Hdr} {p q : BitVec 3} :
    KeepsForm (voteP f unit h p q) := by
  unfold voteP
  exact keepsForm_laneFixed

theorem keepsForm_vred {f : Int → Int → Int} {h : Hdr} {d : Dst} {a : Src} : KeepsForm (vred f h d a) := by
  unfold vred
  exact keepsForm_laneFixed

theorem keepsForm_iv1 {ty : IvTy} {tm : Timing} {arith : Bool} {f : Fmt → Iv → IvOut} {h : Hdr} {d : Dst} {a : Src} :
    KeepsForm (iv1 ty tm arith f h d a) := by
  unfold iv1
  exact keepsForm_ivPoint

theorem keepsForm_iv2 {ty : IvTy} {tm : Timing} {arith : Bool} {f : Fmt → Iv → Iv → IvOut} {h : Hdr} {d : Dst}
    {a b : Src} : KeepsForm (iv2 ty tm arith f h d a b) := by
  unfold iv2
  exact keepsForm_ivPoint

theorem keepsForm_iv3 {ty : IvTy} {tm : Timing} {f : Fmt → Iv → Iv → Iv → IvOut} {h : Hdr} {d : Dst} {a b e : Src} :
    KeepsForm (iv3 ty tm f h d a b e) := by
  unfold iv3
  exact keepsForm_ivPoint

theorem keepsForm_ivNum {ty : IvTy} {tm : Timing} {f : Fmt → Iv → IvOut} {h : Hdr} {d : Dst} {a : Src} :
    KeepsForm (ivNum ty tm f h d a) := by
  unfold ivNum
  exact keepsForm_ivPoint

theorem keepsForm_ivBis {ty : IvTy} {tm : Timing} {h : Hdr} {d : Dst} {a : Src} : KeepsForm (ivBis ty tm h d a) := by
  unfold ivBis
  exact keepsForm_ivPoint

theorem keepsForm_ivMk {ty : IvTy} {tm : Timing} {h : Hdr} {d : Dst} {a b : Src} : KeepsForm (ivMk ty tm h d a b) :=
  by
  unfold ivMk
  exact keepsForm_ivPoint

theorem keepsForm_matrix {h : Hdr} {body : ICtx → State → Except Stop (State × MKind)}
    (hb : ∀ c s r, Canonical s.memories → body c s = .ok r → Canonical r.1.memories) : KeepsForm (matrix h body) :=
  keepsForm_issue fun c s t hc hs ht => by
  grind [memories_queued]

theorem keepsForm_matrixNow {h : Hdr} {body : ICtx → State → Except Stop State} (hb : BodyKeepsForm body) :
    KeepsForm (matrixNow h body) := keepsForm_control fun c s t hc hs ht => by
  grind [BodyKeepsForm]

theorem keepsForm_load {size : Nat} {sext : Bool} {wd : Wd} {h : Hdr} {d : Dst} {a : Src} {hint : Hint} :
    KeepsForm (load size sext wd h d a hint) := keepsForm_issueReading fun c s t hc hs ht => by
  grind [memories_operandsTaken, memories_doneNow, memories_addOp, → canonical_resolve]

theorem keepsForm_ldl {size : Nat} {wd : Wd} {h : Hdr} {d : Dst} {a : Src} : KeepsForm (ldl size wd h d a) :=
  keepsForm_issueReading fun c s t hc hs ht => by
  grind [memories_operandsTaken, memories_doneNow, memories_addOp]

theorem keepsForm_acopy {inn : Bool} {h : Hdr} {tag : BitVec 6} {a b : Src} {bo : BitVec 4} {bv : Bool} :
    KeepsForm (acopy inn h tag a b bo bv) := keepsForm_issue fun c s t hc hs ht => by
  grind [memories_modGrp, memories_credit, memories_doneNow, memories_block, memories_newId, State.memories]

theorem keepsForm_store {size : Nat} {wd : Wd} {h : Hdr} {a b : Src} {hint : Hint} :
    KeepsForm (store size wd h a b hint) := keepsForm_issueReading fun c s t hc hs ht => by
  dsimp only at ht
  repeat' split at ht
  all_goals grind [memories_operandsTaken, memories_doneNow, memories_addOp, memories_signLanes,
    canonical_translateLanes, canonical_demoted, memories_foldl, memories_addReplay]

theorem keepsForm_stl {size : Nat} {wd : Wd} {h : Hdr} {a b : Src} : KeepsForm (stl size wd h a b) :=
  keepsForm_issueReading fun c s t hc hs ht => by
  grind [memories_operandsTaken, memories_doneNow, memories_modMe]

theorem keepsForm_lds {size : Nat} {wd : Wd} {h : Hdr} {d : Dst} {a : Src} : KeepsForm (lds size wd h d a) :=
  keepsForm_issueReading fun c s t hc hs ht => by
  grind [memories_operandsTaken, memories_doneNow, memories_addOp, memories_storeRead]

theorem keepsForm_sts {size : Nat} {wd : Wd} {h : Hdr} {a b : Src} : KeepsForm (sts size wd h a b) :=
  keepsForm_issueReading fun c s t hc hs ht => by
  grind [memories_operandsTaken, memories_doneNow, memories_foldl, memories_aliasPut, memories_modGrp]

theorem keepsForm_atomic {kind : OpKind} {size : Nat} {returning : Bool} {wd : Wd} {d : Option Dst} {a b : Src}
    {h : Hdr} {sc : Scope} : KeepsForm (atomic kind size returning wd d a b h sc) :=
  keepsForm_issueReading fun c s t hc hs ht => by
  repeat' split at ht
  all_goals grind [memories_operandsTaken, memories_doneNow, memories_addOp, memories_passFor, memories_modMe,
    memories_acquire, memories_giveAnswer, memories_signLanes, memories_buffered, → canonical_resolve,
    canonical_ordered]

theorem keepsForm_atom {op : AtomOp} {wd : Wd} {h : Hdr} {d : Dst} {a b : Src} {sc : Scope} :
    KeepsForm (atom op wd h d a b sc) := by
  unfold atom
  exact keepsForm_atomic

theorem keepsForm_ared {op : AtomOp} {wd : Wd} {h : Hdr} {a b : Src} {sc : Scope} : KeepsForm (ared op wd h a b sc) :=
  by
  unfold ared
  exact keepsForm_atomic

theorem keepsForm_dmaIssue {fill : Bool} {h : Hdr} {d : Dst} {a b e : Src} : KeepsForm (dmaIssue fill h d a b e) :=
  keepsForm_issue fun c s t hc hs ht => by
  repeat' split at ht
  all_goals grind [State.memories, memories_setScalar, canonical_demoted]

theorem keepsForm_launchPoint {isRec : Bool} {h : Hdr} {d : Dst} {a : Src} : KeepsForm (launchPoint isRec h d a) :=
  keepsForm_issue fun c s t hc hs ht => by
  grind [State.memories, memories_setScalar, canonical_demoted, memories_passWrites, memories_modGrp, memories_doneNow,
    memories_block, memories_newId]

theorem keepsForm_mmac {f : Fam} {h : Hdr} {acc : BitVec 6} {t : BitVec 4} {rp cpn cpk : BitVec 2} {z : Bool}
    {e : Src} : KeepsForm (mmac f h acc t rp cpn cpk z e) := keepsForm_matrix fun c s t hs ht => by
  repeat' split at ht
  all_goals grind [→ canonical_readMd]

theorem keepsForm_weightLoad {h : Hdr} {t : BitVec 4} {sg : ICtx → Option DWord} : KeepsForm (weightLoad h t sg) :=
  keepsForm_matrix fun c s t hs ht => by
  grind [→ canonical_readMd, memories_modGrp]

theorem keepsForm_tileMove {inn : Bool} {h : Hdr} {t : BitVec 4} {bv : Bool} {a b : Src} {bo : BitVec 4} :
    KeepsForm (tileMove inn h t bv a b bo) := keepsForm_issue fun c s t hc hs ht => by
  grind [canonical_xpieces, canonical_demoted, memories_queued]

theorem keepsForm_tagwait {ready : Group → DWord → Bool} {h : Hdr} {a : Src} : KeepsForm (tagwait ready h a) :=
  keepsForm_issue fun c s t hc hs ht => by
  grind [memories_unpin, memories_doneNow]

theorem keepsForm_waits {h : Hdr} {amount : ICtx → Except Stop Nat} : KeepsForm (waits h amount) :=
  keepsForm_issue fun c s t hc hs ht => by
  grind [memories_doneNow, memories_block]

theorem keepsForm_transport {form : XForm} {h : Hdr} {bo cnt : BitVec 4} {a b : Src} {slot : BitVec 5} {mw : Bool} :
    KeepsForm (transport form h bo cnt a b slot mw) := by
  refine keepsForm_issueReading fun c s t hc hs ht => ?_
  grind [State.memories, memories_operandsTaken, memories_newId, memories_block, canonical_demoted]

theorem keepsForm_completeLanes {ok : OpKind → Bool} {id : Nat} {mask : BitVec 32} :
    KeepsForm fun s => s.completeLanes ok id mask := fun s t hs ht => by
  grind [State.completeLanes, memories_foldl, memories_loadLane, memories_opLeft]

theorem keepsForm_onPort {n : Nat} {f : Port → Option Port} : KeepsForm fun s => s.onPort n f := fun s t hs ht => by
  grind [State.onPort, memories_portAs]

theorem keepsForm_unhold {key index hold : Nat} {f : Cont → Cont} : KeepsForm fun s => s.unhold key index hold f :=
  fun s t hs ht => by
  grind [State.unhold, memories_modCont]

end Sys2Proof.Machine
end

section
/-!
SUPPORT. The instructions of the two streams with a body of their own: each body keeps the canonical form.
-/

namespace Sys2Proof.Machine

theorem keepsForm_execLvoteMask {h : Hdr} {d : Dst} {q : BitVec 3} : KeepsForm (execLvoteMask h d q) := by
  unfold execLvoteMask
  exact keepsForm_laneFixed

theorem keepsForm_execPackMx {h : Hdr} {d : Dst} {a f : Src} : KeepsForm (execPackMx h d a f) := by
  unfold execPackMx
  exact keepsForm_laneFixed

theorem keepsForm_execPand {h : Hdr} {p q r : BitVec 3} : KeepsForm (execPand h p q r) := by
  unfold execPand
  exact keepsForm_laneFixed

theorem keepsForm_execPfrom {h : Hdr} {p : BitVec 3} {a : Src} : KeepsForm (execPfrom h p a) := by
  unfold execPfrom
  exact keepsForm_laneFixed

theorem keepsForm_execPmov {h : Hdr} {p : BitVec 3} {a : Src} : KeepsForm (execPmov h p a) := by
  unfold execPmov
  exact keepsForm_laneFixed

theorem keepsForm_execPnot {h : Hdr} {p q : BitVec 3} : KeepsForm (execPnot h p q) := by
  unfold execPnot
  exact keepsForm_laneFixed

theorem keepsForm_execPor {h : Hdr} {p q r : BitVec 3} : KeepsForm (execPor h p q r) := by
  unfold execPor
  exact keepsForm_laneFixed

theorem keepsForm_execPto {h : Hdr} {d : Dst} {q : BitVec 3} : KeepsForm (execPto h d q) := by
  unfold execPto
  exact keepsForm_laneFixed

theorem keepsForm_execSelB32 {h : Hdr} {d : Dst} {a b : Src} {q : BitVec 3} : KeepsForm (execSelB32 h d a b q) := by
  unfold execSelB32
  exact keepsForm_laneFixed

theorem keepsForm_execUnpackMx {h : Hdr} {rnd : BitVec 2} {d : Dst} {a f : Src} :
    KeepsForm (execUnpackMx h rnd d a f) := by
  unfold execUnpackMx
  exact keepsForm_laneFixed

theorem keepsForm_execVfilt {h : Hdr} {d : Dst} {a b e : Src} : KeepsForm (execVfilt h d a b e) := by
  unfold execVfilt
  exact keepsForm_laneFixed

theorem keepsForm_execVpermB32 {h : Hdr} {d : Dst} {a b : Src} : KeepsForm (execVpermB32 h d a b) := by
  unfold execVpermB32
  exact keepsForm_laneFixed

theorem keepsForm_execVredAddF32 {h : Hdr} {d : Dst} {a : Src} : KeepsForm (execVredAddF32 h d a) := by
  unfold execVredAddF32
  exact keepsForm_laneFixed

theorem keepsForm_execVscanAddI32 {h : Hdr} {d : Dst} {a : Src} : KeepsForm (execVscanAddI32 h d a) := by
  unfold execVscanAddI32
  exact keepsForm_laneFixed

theorem keepsForm_execNop : KeepsForm execNop := keepsForm_issue fun c s t hc hs ht => by
  grind

theorem keepsForm_execBr {h : Hdr} {ofs : BitVec 24} : KeepsForm (execBr h ofs) :=
  keepsForm_control fun c s t hc hs ht => by
  grind [memories_transfer]

theorem keepsForm_execBrc {h : Hdr} {sense : Bool} {g : BitVec 6} {ofs : BitVec 24} :
    KeepsForm (execBrc h sense g ofs) := keepsForm_control fun c s t hc hs ht => by
  grind [memories_transfer]

theorem keepsForm_execBrdq {h : Hdr} {sense : Bool} {ofs : BitVec 24} : KeepsForm (execBrdq h sense ofs) :=
  keepsForm_control fun c s t hc hs ht => by
  grind [memories_transfer, memories_dqConsumed]

theorem keepsForm_execBrzm {h : Hdr} {pm : BitVec 2} {p : BitVec 3} {ofs : BitVec 24} :
    KeepsForm (execBrzm h pm p ofs) := keepsForm_control fun c s t hc hs ht => by
  grind [memories_transfer]

theorem keepsForm_execEmsave {h : Hdr} {d : Dst} : KeepsForm (execEmsave h d) :=
  keepsForm_control fun c s t hc hs ht => by
  grind [memories_setScalar]

theorem keepsForm_execEmrest {h : Hdr} {a : Src} : KeepsForm (execEmrest h a) :=
  keepsForm_control fun c s t hc hs ht => by
  grind [memories_modMySplit]

theorem keepsForm_execEmand {h : Hdr} {pm : BitVec 2} {p : BitVec 3} : KeepsForm (execEmand h pm p) :=
  keepsForm_control fun c s t hc hs ht => by
  grind [memories_modMySplit]

theorem keepsForm_execSplit {h : Hdr} {p : BitVec 3} {t0 u : BitVec 12} : KeepsForm (execSplit h p t0 u) :=
  keepsForm_control fun c s t hc hs ht => by
  grind [memories_unpin, memories_divided]

theorem keepsForm_execJoin {h : Hdr} : KeepsForm (execJoin h) := keepsForm_control fun c s t hc hs ht => by
  grind [memories_unpin, memories_modMe, memories_modMySplit, memories_splitGone]

theorem keepsForm_execCall {h : Hdr} {ofs : BitVec 24} : KeepsForm (execCall h ofs) :=
  keepsForm_issue fun c s t hc hs ht => by
  grind [memories_called]

theorem keepsForm_execJmpi {h : Hdr} {a : Src} : KeepsForm (execJmpi h a) :=
  keepsForm_control fun c s t hc hs ht => by
  grind [memories_transfer]

theorem keepsForm_execCalli {h : Hdr} {a : Src} : KeepsForm (execCalli h a) :=
  keepsForm_issue fun c s t hc hs ht => by
  grind [memories_called]

theorem keepsForm_execRet {h : Hdr} : KeepsForm (execRet h) := keepsForm_control fun c s t hc hs ht => by
  dsimp only at ht
  repeat' split at ht
  all_goals grind [memories_foldl, memories_modSeq, memories_transfer, memories_modMySplit, memories_divided]

theorem keepsForm_execExit {h : Hdr} : KeepsForm (execExit h) := keepsForm_control fun c s t hc hs ht => by
  grind [memories_unpin, memories_modMySplit, memories_splitGone, memories_waveEnds, memories_seqEnds]

theorem keepsForm_execFence {h : Hdr} {sc : Scope} : KeepsForm (execFence h sc) :=
  keepsForm_issue fun c s t hc hs ht => by
  grind [memories_doneNow, memories_acquire, memories_passWrites, canonical_demoted]

theorem keepsForm_execPrefetch {h : Hdr} {a : Src} {hint : Hint} : KeepsForm (execPrefetch h a hint) :=
  keepsForm_issueReading fun c s t hc hs ht => by
  grind [memories_foldl, memories_doneNow, memories_operandsTaken, memories_prefetchLane]

theorem keepsForm_execCwback {h : Hdr} {a : Src} {hint : Hint} : KeepsForm (execCwback h a hint) :=
  keepsForm_issueReading fun c s t hc hs ht => by
  grind [memories_doneNow, memories_operandsTaken, memories_addOp, → canonical_resolve]

theorem keepsForm_execCinval {h : Hdr} {a : Src} {hint : Hint} : KeepsForm (execCinval h a hint) :=
  keepsForm_issueReading fun c s t hc hs ht => by
  grind [memories_foldl, memories_doneNow, memories_l1Drop, memories_operandsTaken, → canonical_resolve]

theorem keepsForm_execTrap {h : Hdr} {n : BitVec 8} : KeepsForm (execTrap h n) :=
  keepsForm_issue fun c s t hc hs ht => by
  grind

theorem keepsForm_execBrk {h : Hdr} {n : BitVec 8} : KeepsForm (execBrk h n) :=
  keepsForm_control fun c s t hc hs ht => by
  grind [memories_modSeq, memories_send, memories_modMe, memories_holdWave]

theorem keepsForm_execRdlfsr {h : Hdr} {d : Dst} : KeepsForm (execRdlfsr h d) :=
  keepsForm_control fun c s t hc hs ht => by
  grind [memories_setScalar]

theorem keepsForm_execRdclk {h : Hdr} {d : Dst} : KeepsForm (execRdclk h d) :=
  keepsForm_control fun c s t hc hs ht => by
  grind [memories_setScalar]

theorem keepsForm_execRdst {h : Hdr} {d : Dst} {num : BitVec 8} : KeepsForm (execRdst h d num) :=
  keepsForm_control fun c s t hc hs ht => by
  grind [memories_storeRead, memories_setScalar]

theorem keepsForm_execWrst {h : Hdr} {num : BitVec 8} {b : Src} : KeepsForm (execWrst h num b) :=
  keepsForm_control fun c s t hc hs ht => by
  grind [memories_writeStatus]

theorem keepsForm_execBarinit {h : Hdr} {bo : BitVec 4} {a : Src} : KeepsForm (execBarinit h bo a) :=
  keepsForm_control fun c s t hc hs ht => by
  grind [memories_modGrp]

theorem keepsForm_execBarwait {h : Hdr} {bo : BitVec 4} {a : Src} : KeepsForm (execBarwait h bo a) :=
  keepsForm_issue fun c s t hc hs ht => by
  grind [memories_unpin, memories_doneNow]

theorem keepsForm_execBararr {h : Hdr} {bo : BitVec 4} : KeepsForm (execBararr h bo) :=
  keepsForm_control fun c s t hc hs ht => by
  grind [memories_modGrp, memories_passWrites]

theorem keepsForm_execBar {h : Hdr} {s0 : Bool} : KeepsForm (execBar h s0) := keepsForm_issue fun c s t hc hs ht => by
  grind [memories_modGrp, memories_passWrites, memories_arrive]

theorem keepsForm_execMjoin {h : Hdr} {k : BitVec 4} : KeepsForm (execMjoin h k) :=
  keepsForm_control fun c s t hc hs ht => by
  grind [memories_modGrp]

theorem keepsForm_execMleave {h : Hdr} {k : BitVec 4} : KeepsForm (execMleave h k) :=
  keepsForm_control fun c s t hc hs ht => by
  grind [memories_modGrp]

theorem keepsForm_execMbar {h : Hdr} {k : BitVec 4} : KeepsForm (execMbar h k) :=
  keepsForm_issue fun c s t hc hs ht => by
  grind [memories_modGrp, memories_passWrites, memories_arrive]

theorem keepsForm_execGbar {h : Hdr} : KeepsForm (execGbar h) := keepsForm_issue fun c s t hc hs ht => by
  grind [memories_passWrites, canonical_demoted, memories_arrive]

theorem keepsForm_execDqpush {h : Hdr} {a : Src} : KeepsForm (execDqpush h a) :=
  keepsForm_control fun c s t hc hs ht => by
  grind [memories_modGrp]

theorem keepsForm_execDqpop {h : Hdr} {d : Dst} : KeepsForm (execDqpop h d) :=
  keepsForm_control fun c s t hc hs ht => by
  grind [memories_dqConsumed, memories_setScalar]

theorem keepsForm_execTagffr {h : Hdr} {d : Dst} {a : Src} : KeepsForm (execTagffr h d a) :=
  keepsForm_issue fun c s t hc hs ht => by
  grind [memories_doneNow, memories_setScalar]

theorem keepsForm_execTagclr {h : Hdr} {a : Src} : KeepsForm (execTagclr h a) :=
  keepsForm_issue fun c s t hc hs ht => by
  grind [memories_foldl, memories_modGrp, memories_doneNow]

theorem keepsForm_execDmaStat {h : Hdr} {d : Dst} {a : Src} : KeepsForm (execDmaStat h d a) :=
  keepsForm_control fun c s t hc hs ht => by
  grind [memories_setScalar]

theorem keepsForm_execXqload {h : Hdr} {d : Dst} {a : Src} {slot : BitVec 5} : KeepsForm (execXqload h d a slot) :=
  keepsForm_issue fun c s t hc hs ht => by
  grind [State.memories, memories_newId, memories_doneNow, memories_block, memories_setScalar]

theorem keepsForm_execXqfree {h : Hdr} {a : Src} : KeepsForm (execXqfree h a) :=
  keepsForm_issue fun c s t hc hs ht => by
  grind [State.memories, memories_doneNow]

theorem keepsForm_execXstat {h : Hdr} {d : Dst} {clr : Bool} : KeepsForm (execXstat h d clr) :=
  keepsForm_issue fun c s t hc hs ht => by
  grind [memories_unpin, memories_doneNow, memories_modMe, memories_setScalar]

theorem keepsForm_execXmask {h : Hdr} {p : BitVec 3} {k : BitVec 4} : KeepsForm (execXmask h p k) :=
  keepsForm_issue fun c s t hc hs ht => by
  grind [memories_unpin, memories_doneNow, memories_modMe]

theorem keepsForm_execXwait {h : Hdr} {k : BitVec 2} : KeepsForm (execXwait h k) :=
  keepsForm_issue fun c s t hc hs ht => by
  grind [memories_unpin, memories_doneNow]

theorem keepsForm_execVpoint {h : Hdr} {k : BitVec 10} : KeepsForm (execVpoint h k) :=
  keepsForm_issue fun c s t hc hs ht => by
  grind [memories_modGrp, memories_unpin, memories_doneNow, memories_block]

theorem keepsForm_execIvSpawn {h : Hdr} {d : Dst} {a : Src} : KeepsForm (execIvSpawn h d a) :=
  keepsForm_issueReading fun c s t hc hs ht => by
  grind [memories_doneNow, memories_operandsTaken, canonical_spawnAsk, memories_spawned]

theorem keepsForm_execGrow {h : Hdr} {d : Dst} {a : Src} : KeepsForm (execGrow h d a) :=
  keepsForm_issue fun c s t hc hs ht => by
  grind [memories_setScalar, canonical_spawnAsk]

theorem keepsForm_execHfetch {h : Hdr} {d : Dst} {a : Src} {slot : BitVec 5} {form : BitVec 2} :
    KeepsForm (execHfetch h d a slot form) := keepsForm_issue fun c s t hc hs ht => by
  grind [memories_doneNow, memories_addOp, canonical_blockCodes]

theorem keepsForm_execHfetchPf {h : Hdr} {a : Src} {slot : BitVec 5} {form : BitVec 2} :
    KeepsForm (execHfetchPf h a slot form) := keepsForm_issue fun c s t hc hs ht => by
  grind [memories_doneNow, canonical_blockCodes]

theorem keepsForm_execFibld {h : Hdr} {d : Dst} {a : Src} {slot : BitVec 5} {form : BitVec 2} :
    KeepsForm (execFibld h d a slot form) := keepsForm_issue fun c s t hc hs ht => by
  repeat' split at ht
  all_goals grind [memories_doneNow, memories_addOp, canonical_fetchElems, canonical_rowPtrs, memories_rowNeg,
    memories_schedTaken]

theorem keepsForm_execRowscan {h : Hdr} {ht : BitVec 5} {ind : Bool} {a b : Src} {hs : BitVec 5} :
    KeepsForm (execRowscan h ht ind a b hs) := keepsForm_issue fun c s t hc hs ht => by
  grind [memories_modGrp, memories_doneNow]

theorem keepsForm_execFibinv {h : Hdr} {slot : BitVec 5} {fc : Bool} : KeepsForm (execFibinv h slot fc) :=
  keepsForm_control fun c s t hc hs ht => by
  grind [memories_modGrp, memories_modCore, memories_modCluster]

theorem keepsForm_execMdld {h : Hdr} {d : Dst} {a : Src} {slot : BitVec 5} : KeepsForm (execMdld h d a slot) :=
  keepsForm_control fun c s t hc hs ht => by
  grind [memories_setScalar, canonical_cachedVa]

theorem keepsForm_execTcfg {h : Hdr} {t0 : BitVec 4} {a b e : Src} : KeepsForm (execTcfg h t0 a b e) :=
  keepsForm_matrixNow fun c s t hc hs ht => by
  grind [memories_modGrp]

theorem keepsForm_execTzero {h : Hdr} {t0 : BitVec 4} : KeepsForm (execTzero h t0) :=
  keepsForm_matrix fun c s t hs ht => by
  grind

theorem keepsForm_execMswap {h : Hdr} : KeepsForm (execMswap h) := keepsForm_matrix fun c s t hs ht => by
  grind [memories_modGrp]

theorem keepsForm_execMpset {h : Hdr} {cnt col : Bool} {idx : BitVec 2} {a : Src} :
    KeepsForm (execMpset h cnt col idx a) := keepsForm_matrixNow fun c s t hc hs ht => by
  grind [memories_modGrp]

theorem keepsForm_execMzero {h : Hdr} {acc : BitVec 6} : KeepsForm (execMzero h acc) :=
  keepsForm_matrix fun c s t hs ht => by
  grind

theorem keepsForm_execMstore {h : Hdr} {t0 : BitVec 4} {acc : BitVec 6} {rp cp : BitVec 2} :
    KeepsForm (execMstore h t0 acc rp cp) := keepsForm_matrix fun c s t hs ht => by
  grind

theorem keepsForm_execMload {h : Hdr} {acc : BitVec 6} {t0 : BitVec 4} {rp cp : BitVec 2} :
    KeepsForm (execMload h acc t0 rp cp) := keepsForm_matrix fun c s t hs ht => by
  grind

theorem keepsForm_execMcvt {h : Hdr} {acc src : BitVec 6} {rp cp : BitVec 2} {e : Src} :
    KeepsForm (execMcvt h acc src rp cp e) := keepsForm_matrix fun c s t hs ht => by
  grind

theorem keepsForm_execMarrive {h : Hdr} {bo : BitVec 4} {a : Src} : KeepsForm (execMarrive h bo a) :=
  keepsForm_matrix fun c s t hs ht => by
  grind

theorem keepsForm_execMflags {h : Hdr} {d : Dst} {clr : Bool} : KeepsForm (execMflags h d clr) :=
  keepsForm_matrix fun c s t hs ht => by
  grind

end Sys2Proof.Machine
end

section
/-!
SUPPORT. The events: each keeps the canonical form.
-/

namespace Sys2Proof.Machine

theorem keepsForm_execDictionaryReference {dist : BitVec 3} {n : BitVec 10} :
    KeepsForm (execDictionaryReference dist n) := fun s t hs ht => by
  grind [execDictionaryReference, State.memories, memories_stopped]

theorem keepsForm_execJoinRelease {g w : Nat} : KeepsForm (execJoinRelease g w) := fun s t hs ht => by
  grind [execJoinRelease, memories_modWave]

theorem keepsForm_execStorePerformed {id lane : Nat} : KeepsForm (execStorePerformed id lane) := fun s t hs ht => by
  grind [execStorePerformed, canonical_writeTgt, memories_opLeft]

theorem keepsForm_execReplayEntryReplay {core id : Nat} : KeepsForm (execReplayEntryReplay core id) :=
  fun s t hs ht => by
  unfold execReplayEntryReplay at ht
  repeat' split at ht
  all_goals grind [memories_modCore, memories_send, memories_endTask, canonical_demote, memories_addOp,
    canonical_retranslate]

theorem keepsForm_execTlbWalkComplete {id : Nat} : KeepsForm (execTlbWalkComplete id) := fun s t hs ht => by
  grind [execTlbWalkComplete, State.memories, canonical_foldl, canonical_walkServe]

theorem keepsForm_execAtomicPerform {id : Nat} : KeepsForm (execAtomicPerform id) := fun s t hs ht => by
  unfold execAtomicPerform at ht
  repeat' split at ht
  all_goals grind [memories_putLane, memories_opLeft, canonical_atomLane, canonical_stcLane]

theorem keepsForm_execWaitExpiry {ag : Agent} : KeepsForm (execWaitExpiry ag) := fun s t hs ht => by
  grind [execWaitExpiry, memories_lower, memories_block]

theorem keepsForm_execBarrierComplete {g : Nat} : KeepsForm (execBarrierComplete g) := fun s t hs ht => by
  grind [execBarrierComplete, memories_modGrp]

theorem keepsForm_execMbarComplete {g k : Nat} : KeepsForm (execMbarComplete g k) := fun s t hs ht => by
  grind [execMbarComplete, memories_modGrp]

theorem keepsForm_execGridBarrierComplete {key : Nat} : KeepsForm (execGridBarrierComplete key) := fun s t hs ht => by
  grind [execGridBarrierComplete, memories_foldl, memories_modGrp, memories_modGrid, memories_acquire]

theorem keepsForm_execCopyTranslated {id : Nat} : KeepsForm (execCopyTranslated id) := fun s t hs ht => by
  unfold execCopyTranslated at ht
  repeat' split at ht
  all_goals grind [State.memories, memories_modGrp, memories_block, canonical_demote, canonical_xpieces,
    memories_trapAt, memories_parkAt]

theorem keepsForm_execCopyComplete {id : Nat} : KeepsForm (execCopyComplete id) := fun s t hs ht => by
  grind [execCopyComplete, State.memories, memories_modGrp, memories_lower, memories_credit, memories_unitsIn,
    canonical_unitsOut]

theorem keepsForm_execDmaChunk {ch : Nat} : KeepsForm (execDmaChunk ch) := fun s t hs ht => by
  grind [execDmaChunk, canonical_foldl, memories_sendTo, memories_l1DropRun, canonical_xpieces, canonical_writePieces,
    memories_setHead]

theorem keepsForm_execDmaComplete {ch : Nat} : KeepsForm (execDmaComplete ch) := fun s t hs ht => by
  grind [execDmaComplete, State.memories, memories_lower, memories_credit]

theorem keepsForm_execTransportFirstSlot {id slot : Nat} : KeepsForm (execTransportFirstSlot id slot) :=
  fun s t hs ht => by
  unfold execTransportFirstSlot at ht
  repeat' split at ht
  all_goals grind [canonical_resolveRow, canonical_route, memories_putX, memories_requestTo, memories_firstFails,
    memories_startX]

theorem keepsForm_execRowEngineChunk {id slot : Nat} : KeepsForm (execRowEngineChunk id slot) := fun s t hs ht => by
  grind [execRowEngineChunk, canonical_resolveRow, memories_putX, canonical_scatterRow]

theorem keepsForm_execTransportReply {id pkg : Nat} {rows : List RemoteRow} :
    KeepsForm (execTransportReply id pkg rows) := fun s t hs ht => by
  grind [execTransportReply, memories_putX]

theorem keepsForm_execTransportReplyTimeout {id pkg : Nat} : KeepsForm (execTransportReplyTimeout id pkg) :=
  fun s t hs ht => by
  grind [execTransportReplyTimeout, memories_putX]

theorem keepsForm_execTransportRemoteRequest {req : RemoteReq} : KeepsForm (execTransportRemoteRequest req) :=
  fun s t hs ht => by
  grind [execTransportRemoteRequest, State.memories, canonical_pairing, canonical_serveRows]

theorem keepsForm_execXstatRecord {g w : Nat} : KeepsForm (execXstatRecord g w) := fun s t hs ht => by
  grind [execXstatRecord, memories_modWave, memories_putX]

theorem keepsForm_execTransportComplete {id : Nat} : KeepsForm (execTransportComplete id) := fun s t hs ht => by
  grind [execTransportComplete, State.memories, memories_foldl, memories_modGrp, memories_lower, memories_credit]

theorem keepsForm_execQueryLoadComplete {id : Nat} : KeepsForm (execQueryLoadComplete id) := fun s t hs ht => by
  grind [execQueryLoadComplete, State.memories, memories_answered]

theorem keepsForm_execQuerySlotReload {q : Nat} : KeepsForm (execQuerySlotReload q) := fun s t hs ht => by
  unfold execQuerySlotReload at ht
  dsimp only at ht
  repeat' split at ht
  all_goals grind [State.memories, memories_modGrp, memories_send, memories_endTask, canonical_readVa]

theorem keepsForm_execRedundantThirdRun {g : Nat} : KeepsForm (execRedundantThirdRun g) := fun s t hs ht => by
  grind [execRedundantThirdRun, memories_thirdRun]

theorem keepsForm_execCommitPoint {g : Nat} : KeepsForm (execCommitPoint g) := fun s t hs ht => by
  unfold execCommitPoint at ht
  repeat' split at ht
  all_goals grind [State.memories, canonical_foldl, memories_modGrp, memories_send, memories_endTask,
    canonical_devWrite, memories_blamed, canonical_commitPair, canonical_afterCommit]

theorem keepsForm_execGroupRetire {g : Nat} : KeepsForm (execGroupRetire g) := fun s t hs ht => by
  grind [execGroupRetire, memories_dropGroup, memories_endTask, memories_blamed, canonical_commitPair,
    memories_evictAll]

theorem keepsForm_execGroupResume {die : Nat} : KeepsForm (execGroupResume die) := fun s t hs ht => by
  grind [execGroupResume, canonical_resumeAt, memories_headTaken]

theorem keepsForm_execLaunchAnswer {id : Nat} : KeepsForm (execLaunchAnswer id) := fun s t hs ht => by
  unfold execLaunchAnswer at ht
  repeat' split at ht
  all_goals grind [State.memories, memories_modSeq, memories_parkAt, canonical_devRead, memories_answered,
    canonical_launchFrom, memories_recorded]

theorem keepsForm_execSpawnComplete {id : Nat} : KeepsForm (execSpawnComplete id) := fun s t hs ht => by
  unfold execSpawnComplete at ht
  repeat' split at ht
  all_goals grind [State.memories, memories_foldl, memories_modGrid, memories_lower, memories_setFor,
    memories_recorded, memories_spawned]

theorem keepsForm_execLaunchCellWrite {ctx : Nat} {bytes : List Byte} {seq : Option DWord} :
    KeepsForm (execLaunchCellWrite ctx bytes seq) := fun s t hs ht => by
  unfold execLaunchCellWrite at ht
  split at ht
  · cases ht
    exact hs
  next cx _ =>
  have hcell := canonical_cellAt hs ctx cx.cell
  cases hr : (s.cellAt ctx cx.cell).2 with
  | error e => grind [canonical_readCell]
  | ok a =>
    have hbytes := canonical_sysWrite hcell a bytes
    simp only [hr] at ht
    cases seq with
    | none =>
      injection ht with ht
      exact ht ▸ canonical_ite (canonical_readCell hbytes ..) hbytes
    | some q =>
      injection ht with ht
      have hseq := canonical_sysWrite hbytes (a + 0x80) (bytesOf 8 q.toNat)
      exact ht ▸ canonical_ite (canonical_readCell hseq ..) hseq

theorem keepsForm_execLaunchCellPoll {ctx : Nat} : KeepsForm (execLaunchCellPoll ctx) := fun s t hs ht => by
  grind [execLaunchCellPoll, canonical_cellAt, canonical_readCell]

theorem keepsForm_execDispatchBatch {grid die k : Nat} : KeepsForm (execDispatchBatch grid die k) :=
  fun s t hs ht => by
  unfold execDispatchBatch at ht
  dsimp only at ht
  repeat' split at ht
  all_goals grind [memories_modDie, memories_modGrid]

theorem keepsForm_execGroupPlace {die : Nat} : KeepsForm (execGroupPlace die) := fun s t hs ht => by
  unfold execGroupPlace at ht
  repeat' split at ht
  all_goals grind [canonical_foldl, memories_modDie, memories_modGrid, canonical_bindHandles, memories_reportBindings,
    memories_enter]

theorem keepsForm_execInstructionRowFill {core row : Nat} : KeepsForm (execInstructionRowFill core row) :=
  fun s t hs ht => by
  grind [execInstructionRowFill, memories_sendTo, canonical_readAll, memories_setRow]

theorem keepsForm_execDictionaryBankLoad {core bank : Nat} : KeepsForm (execDictionaryBankLoad core bank) :=
  fun s t hs ht => by
  grind [execDictionaryBankLoad, memories_sendTo, canonical_readAll, memories_setBank]

theorem keepsForm_execDependencePoll {grid : Nat} : KeepsForm (execDependencePoll grid) := fun s t hs ht => by
  grind [execDependencePoll, memories_modGrid, canonical_gridWord]

theorem keepsForm_execRecordCountRead {grid : Nat} : KeepsForm (execRecordCountRead grid) := fun s t hs ht => by
  grind [execRecordCountRead, memories_modGrid, memories_sendTo, canonical_gridWord]

theorem keepsForm_execGridRetire {grid : Nat} : KeepsForm (execGridRetire grid) := fun s t hs ht => by
  grind [execGridRetire, State.memories, canonical_addDone, memories_forgetGrid]

theorem keepsForm_execXinvPage {ctx : BitVec 12} {va : BitVec 32} {rsv : BitVec 16} :
    KeepsForm (execXinvPage ctx va rsv) := fun s t hs ht => by
  grind [execXinvPage, memories_xinv]

theorem keepsForm_execXinvContext {ctx : BitVec 12} {va : BitVec 32} {rsv : BitVec 16} :
    KeepsForm (execXinvContext ctx va rsv) := fun s t hs ht => by
  grind [execXinvContext, memories_xinv]

theorem keepsForm_execXinvAll {va : BitVec 32} {rsv : BitVec 16} : KeepsForm (execXinvAll va rsv) :=
  fun s t hs ht => by
  grind [execXinvAll, memories_xinv]

theorem keepsForm_execXinvDone : KeepsForm execXinvDone := fun s t hs ht => by
  grind [execXinvDone, State.memories, memories_dropTlbs]

theorem keepsForm_execFsvcService {ctx : BitVec 12} {va : BitVec 32} {rsv : BitVec 17} :
    KeepsForm (execFsvcService ctx va rsv) := fun s t hs ht => by
  grind [execFsvcService, memories_fsvc]

theorem keepsForm_execFsvcFail {ctx : BitVec 12} {va : BitVec 32} {rsv : BitVec 17} :
    KeepsForm (execFsvcFail ctx va rsv) := fun s t hs ht => by
  grind [execFsvcFail, memories_fsvc]

theorem keepsForm_execFsvcDone : KeepsForm execFsvcDone := fun s t hs ht => by
  grind [execFsvcDone, State.memories]

theorem keepsForm_execCtxCreate {ctx : BitVec 12} {arg : BitVec 42} {rsv : BitVec 5} :
    KeepsForm (execCtxCreate ctx arg rsv) := fun s t hs ht => by
  grind [execCtxCreate, memories_ctxCommand]

theorem keepsForm_execCtxDrain {ctx : BitVec 12} {rsv : BitVec 5} : KeepsForm (execCtxDrain ctx rsv) :=
  fun s t hs ht => by
  grind [execCtxDrain, memories_ctxCommand]

theorem keepsForm_execCtxDrainForced {ctx : BitVec 12} {rsv : BitVec 5} : KeepsForm (execCtxDrainForced ctx rsv) :=
  fun s t hs ht => by
  grind [execCtxDrainForced, memories_ctxCommand]

theorem keepsForm_execCtxResume {ctx : BitVec 12} {arg : BitVec 42} {rsv : BitVec 5} :
    KeepsForm (execCtxResume ctx arg rsv) := fun s t hs ht => by
  grind [execCtxResume, memories_ctxCommand]

theorem keepsForm_execCtxDestroy {ctx : BitVec 12} {arg : BitVec 42} {rsv : BitVec 5} :
    KeepsForm (execCtxDestroy ctx arg rsv) := fun s t hs ht => by
  grind [execCtxDestroy, memories_ctxCommand]

theorem keepsForm_execCtxReleaseGrid {ctx : BitVec 12} {arg : BitVec 42} {rsv : BitVec 5} :
    KeepsForm (execCtxReleaseGrid ctx arg rsv) := fun s t hs ht => by
  grind [execCtxReleaseGrid, memories_ctxCommand]

theorem keepsForm_execDrainComplete {ctx : Nat} : KeepsForm (execDrainComplete ctx) := fun s t hs ht => by
  grind [execDrainComplete, memories_setCtxState, memories_drainEnds]

theorem keepsForm_execDrainDeadline {ctx core : Nat} : KeepsForm (execDrainDeadline ctx core) := fun s t hs ht => by
  grind [execDrainDeadline, memories_forceDrained, memories_drainEnds]

theorem keepsForm_execRowscanReadAhead {g : Nat} : KeepsForm (execRowscanReadAhead g) := fun s t hs ht => by
  grind [execRowscanReadAhead, memories_modGrp, canonical_scanRow]

theorem keepsForm_execMatrixCommandComplete {g : Nat} : KeepsForm (execMatrixCommandComplete g) := fun s t hs ht => by
  grind [execMatrixCommandComplete, memories_modGrp, memories_credit, memories_unitsIn, memories_signTile,
    memories_matrixDone, canonical_unitsHome]

theorem keepsForm_execMswapTakeEffect {g : Nat} : KeepsForm (execMswapTakeEffect g) := fun s t hs ht => by
  grind [execMswapTakeEffect, memories_modGrp, memories_matrixDone]

theorem keepsForm_execIssueSelect {core quarter : Nat} : KeepsForm (execIssueSelect core quarter) :=
  fun s t hs ht => by
  grind [execIssueSelect, State.memories, memories_holdWave, memories_withLatch, memories_tookTurns]

theorem keepsForm_execSequencerPortIssue {core : Nat} : KeepsForm (execSequencerPortIssue core) := fun s t hs ht => by
  grind [execSequencerPortIssue, State.memories]

theorem keepsForm_execResultWriteback {ag : Agent} : KeepsForm (execResultWriteback ag) := fun s t hs ht => by
  unfold execResultWriteback at ht
  repeat' split at ht
  all_goals grind [memories_modWave, memories_modSeq, memories_storeRead, memories_commitWave]

theorem keepsForm_execUncorrectableError {ag : Agent} : KeepsForm (execUncorrectableError ag) := fun s t hs ht => by
  grind [execUncorrectableError, memories_send, memories_stopTask, memories_endTask, memories_haltWave,
    memories_countError]

theorem keepsForm_execEarlyCommit {g : Nat} : KeepsForm (execEarlyCommit g) := fun s t hs ht => by
  unfold execEarlyCommit at ht
  repeat' split at ht
  all_goals grind [canonical_foldl, memories_modGrp, memories_endTask, memories_blamed, canonical_commitPair,
    memories_thirdRun]

theorem keepsForm_execCoalescerRecordClose {unit : Nat} : KeepsForm (execCoalescerRecordClose unit) :=
  fun s t hs ht => by
  grind [execCoalescerRecordClose, memories_flush, memories_setCoal, memories_takeReport, memories_takeWaiting]

theorem keepsForm_execFaultBufferRetry {unit : Nat} : KeepsForm (execFaultBufferRetry unit) := fun s t hs ht => by
  grind [execFaultBufferRetry, State.memories, memories_enqueue]

theorem keepsForm_execXqFreeRecord {xdie : Nat} : KeepsForm (execXqFreeRecord xdie) := fun s t hs ht => by
  grind [execXqFreeRecord, memories_xqFree]

theorem keepsForm_execTimeSliceExpiry {core : Nat} : KeepsForm (execTimeSliceExpiry core) := fun s t hs ht => by
  grind [execTimeSliceExpiry, memories_modCore]

theorem keepsForm_execDebugRelease {ag : Agent} : KeepsForm (execDebugRelease ag) := fun s t hs ht => by
  unfold execDebugRelease at ht
  repeat' split at ht
  all_goals grind [memories_modWave, memories_modSeq]

theorem keepsForm_execCounterHalving : KeepsForm execCounterHalving := fun s t hs ht => by
  unfold execCounterHalving at ht
  repeat' split at ht
  all_goals grind [State.memories]

theorem keepsForm_execUnitRetire {u : RetUnit} : KeepsForm (execUnitRetire u) := fun s t hs ht => by
  grind [execUnitRetire, State.memories]

theorem keepsForm_execFreqChange {tgt : BitVec 8} : KeepsForm (execFreqChange tgt) := fun s t hs ht => by
  grind [execFreqChange, memories_modPkg]

theorem keepsForm_execRegisterWrite {reg : SysReg} {val : DWord} : KeepsForm (execRegisterWrite reg val) :=
  fun s t hs ht => by
  cases reg with
  | pkgFreq => exact keepsForm_execFreqChange s t hs ht
  | _ => grind [execRegisterWrite, memories_xinv, memories_fsvc, memories_ctxCommand, memories_xqFree, memories_modPkg,
    memories_freeze, memories_thaw, memories_setPower]

theorem keepsForm_execDieQuiesced {die : Nat} : KeepsForm (execDieQuiesced die) := fun s t hs ht => by
  grind [execDieQuiesced, State.memories, memories_modPkg]

theorem keepsForm_execPllRelocked : KeepsForm execPllRelocked := fun s t hs ht => by
  grind [execPllRelocked, memories_modPkg, memories_resume]

theorem keepsForm_execHandshakeTimeout : KeepsForm execHandshakeTimeout := fun s t hs ht => by
  grind [execHandshakeTimeout, memories_drawn, memories_sendTo, memories_abandon]

theorem keepsForm_execFreeze : KeepsForm execFreeze := fun s t hs ht => by
  grind [execFreeze, memories_freeze]

theorem keepsForm_execThaw : KeepsForm execThaw := fun s t hs ht => by
  grind [execThaw, memories_thaw]

theorem keepsForm_execStateReadout {die : Nat} : KeepsForm (execStateReadout die) := fun s t hs ht => by
  grind [execStateReadout, State.memories]

theorem keepsForm_execPowerSample {watts : BitVec 16} : KeepsForm (execPowerSample watts) := fun s t hs ht => by
  grind [execPowerSample, memories_drawn, memories_modPkg]

theorem keepsForm_execPortDown {port : Nat} : KeepsForm (execPortDown port) := fun s t hs ht => by
  grind [execPortDown, memories_modPkg, memories_portAs]

theorem keepsForm_execFabricRouteUpdate {pkg : Nat} {up : Bool} {port : Nat} :
    KeepsForm (execFabricRouteUpdate pkg up port) := fun s t hs ht => by
  grind [execFabricRouteUpdate, memories_modPkg]

theorem keepsForm_execHostLinkDown {xdie : Nat} : KeepsForm (execHostLinkDown xdie) := fun s t hs ht => by
  grind [execHostLinkDown, State.memories, memories_foldl, memories_ctxCommand, memories_modPkg]

theorem keepsForm_execHostLinkReturn {xdie : Nat} {cxl : Bool} : KeepsForm (execHostLinkReturn xdie cxl) :=
  fun s t hs ht => by
  grind [execHostLinkReturn, memories_modPkg]

theorem keepsForm_execHostMemoryAccess {acc : HostAcc} : KeepsForm (execHostMemoryAccess acc) := fun s t hs ht => by
  cases acc with
  | read | sysRead | regRead | eventRead | timeout => grind [execHostMemoryAccess, State.memories, memories_modPkg]
  | write => grind [execHostMemoryAccess, canonical_dramWrite]
  | sysWrite =>
    cases ht
    exact canonical_sysWrite hs ..

theorem keepsForm_execModuleReset : KeepsForm execModuleReset := fun s t hs ht => by
  cases ht
  exact ⟨memWf_nil, hs.2⟩

theorem keepsForm_execSpdmAttestation {nonce : DWord} : KeepsForm (execSpdmAttestation nonce) := fun s t hs ht => by
  grind [execSpdmAttestation, State.memories]

theorem keepsForm_execRookQueueStart {g n : Nat} : KeepsForm (execRookQueueStart g n) := fun s t hs ht => by
  grind [execRookQueueStart, memories_modGrp]

theorem keepsForm_execRookQueueStop {g n : Nat} : KeepsForm (execRookQueueStop g n) := fun s t hs ht => by
  grind [execRookQueueStop, memories_modGrp]

theorem keepsForm_execRookEntryPush {g n : Nat} : KeepsForm (execRookEntryPush g n) := fun s t hs ht => by
  grind [execRookEntryPush, memories_modGrp, memories_send, memories_endTask, canonical_readVa]

theorem keepsForm_execLoadComplete {id : Nat} {mask : BitVec 32} : KeepsForm (execLoadComplete id mask) :=
  keepsForm_completeLanes

theorem keepsForm_execHfetchComplete {id : Nat} {mask : BitVec 32} : KeepsForm (execHfetchComplete id mask) :=
  keepsForm_completeLanes

theorem keepsForm_execFibldComplete {id : Nat} {mask : BitVec 32} : KeepsForm (execFibldComplete id mask) :=
  keepsForm_completeLanes

end Sys2Proof.Machine
end

section
/-!
O60. Each arm of exec keeps the canonical form, and a step is made of such arms.
-/

namespace Sys2Proof.Machine

theorem keepsForm_exec (i : Instr) : KeepsForm (exec i) := fun s t hs ht => by
  cases i with
  | taskRetry | taskRestart => exact keepsForm_unhold s t hs ht
  | flitReplay | portRetrain | laneSpare | laneSpareGo | portHalfWidth | laneCountWindow | linkTrained =>
    exact keepsForm_onPort s t hs ht
  | addI32 | addI32W32 | addI32C16 | subI32 | subI32W32 | subI32C16 | addSatI32 | addSatI32W32 | subSatI32 |
    subSatI32W32 | addSatN32 | addSatN32W32 | subSatN32 | subSatN32W32 | mulI32 | mulI32W32 | mulhiI32 | mulhiI32W32 |
    mulhiN32 | mulhiN32W32 | mulSatI32 | mulSatI32W32 | andB32 | andB32W32 | andB32C16 | orB32 | orB32W32 | orB32C16 |
    xorB32 | xorB32W32 | xorB32C16 | andnB32 | andnB32W32 | ornB32 | ornB32W32 | xnorB32 | xnorB32W32 | shlB32 |
    shlB32W32 | shlB32C16 | shrN32 | shrN32W32 | shrN32C16 | shrI32 | shrI32W32 | rotlB32 | rotlB32W32 | rotrB32 |
    rotrB32W32 | minI32 | minI32W32 | minI32C16 | maxI32 | maxI32W32 | maxI32C16 | minN32 | minN32W32 | maxN32 |
    maxN32W32 | adifI32 | adifI32W32 | adifN32 | adifN32W32 | bfextN32 | bfextN32W32 | bfextI32 | bfextI32W32 =>
    unfold exec at ht
    exact keepsForm_intBin s t hs ht
  | addI16 | addI16W32 | subI16 | subI16W32 | mulI16 | mulI16W32 | addF32 | addF32W32 | addF32C16 | subF32 | subF32W32
    | subF32C16 | mulF32 | mulF32W32 | mulF32C16 | addF16 | addF16W32 | subF16 | subF16W32 | addBf16 | addBf16W32 |
    subBf16 | subBf16W32 | mulF16 | mulF16W32 | mulBf16 | mulBf16W32 | minF32 | minF32W32 | minF32C16 | maxF32 |
    maxF32W32 | maxF32C16 | minF16 | minF16W32 | maxF16 | maxF16W32 | minBf16 | minBf16W32 | maxBf16 | maxBf16W32 |
    packB16 | packB16W32 | cvtF16F32 | cvtBf16F32 =>
    unfold exec at ht
    exact keepsForm_lane2 s t hs ht
  | bfinsB32 | bfinsB32W32 | madI32 | madhiI32 | madhiN32 | madSatI32 =>
    unfold exec at ht
    exact keepsForm_intTri s t hs ht
  | popcB32 | popcB32W32 | clzB32 | clzB32W32 | brevB32 | brevB32W32 =>
    unfold exec at ht
    exact keepsForm_intUn s t hs ht
  | addI64 | addI64W32 | subI64 | subI64W32 | minF64 | minF64W32 | maxF64 | maxF64W32 | addF64 | addF64W32 | subF64 |
    subF64W32 | mulF64 | mulF64W32 =>
    unfold exec at ht
    exact keepsForm_lane2x64 s t hs ht
  | lxchSelB32 | lxchSelB32W32 | lxchLoB32 | lxchLoB32W32 | lxchHiB32 | lxchHiB32W32 | lxchFlipB32 | lxchFlipB32W32 =>
    unfold exec at ht
    exact keepsForm_lxch s t hs ht
  | movB32 | movB32W32 | movB32C16 =>
    unfold exec at ht
    exact keepsForm_movB32 s t hs ht
  | movXaB32 | movXaB32W32 =>
    unfold exec at ht
    exact keepsForm_movXa s t hs ht
  | movXdB32 | movXdB32W32 =>
    unfold exec at ht
    exact keepsForm_movXd s t hs ht
  | movXadB32 | movXadB32W32 =>
    unfold exec at ht
    exact keepsForm_movXad s t hs ht
  | fmaF32 | fnmaF32 | fmaF16 | fnmaF16 | fmaBf16 | fnmaBf16 | dot4I8 | dot4N8 | dot2I16 =>
    unfold exec at ht
    exact keepsForm_lane3 s t hs ht
  | fmaF64 | fnmaF64 =>
    unfold exec at ht
    exact keepsForm_lane3x64 s t hs ht
  | rcpF32 | rsqrtF32 | sqrtF32 | exp2F32 | log2F32 | sinF32 | cosF32 | cvtF32F16 | cvtF32Bf16 | cvtI32F32 | cvtF32I32
    | cvtN32F32 | cvtF32N32 | cvtSatI8I32 | cvtSatI16I32 =>
    unfold exec at ht
    exact keepsForm_lane1 s t hs ht
  | rcpF64 | rsqrtF64 | sqrtF64 | cvtI64F64 | cvtF64I64 =>
    unfold exec at ht
    exact keepsForm_lane1x64 s t hs ht
  | cmpEqB32 | cmpNeB32 | cmpLtI32 | cmpLeI32 | cmpLtN32 | cmpLeN32 | tstB32 =>
    unfold exec at ht
    exact keepsForm_cmpInt s t hs ht
  | cmpEqF32 | cmpNeF32 | cmpLtF32 | cmpLeF32 | cmpGtF32 | cmpGeF32 | cmpUnF32 | cmpOrdF32 =>
    unfold exec at ht
    exact keepsForm_cmpFp32 s t hs ht
  | cmpEqF64 | cmpNeF64 | cmpLtF64 | cmpLeF64 | cmpGtF64 | cmpGeF64 | cmpUnF64 | cmpOrdF64 =>
    unfold exec at ht
    exact keepsForm_cmpFp64 s t hs ht
  | cvtF32F64 | cvtI32F64 =>
    unfold exec at ht
    exact keepsForm_lane64to32 s t hs ht
  | cvtF64F32 | cvtF64I32 =>
    unfold exec at ht
    exact keepsForm_lane32to64 s t hs ht
  | cvtFfF32 | cvtF32Ff | cvtFfBf16 | cvtBf16Ff =>
    unfold exec at ht
    exact keepsForm_ffCvt s t hs ht
  | lvoteAnd | lvoteOr =>
    unfold exec at ht
    exact keepsForm_voteP s t hs ht
  | vredAddI32 | vredMinI32 | vredMaxI32 =>
    unfold exec at ht
    exact keepsForm_vred s t hs ht
  | addIv32 | subIv32 | mulIv32 | divIv32 | addIv64 | subIv64 | mulIv64 | divIv64 | hullIv32 | isectIv32 | hullIv64 |
    isectIv64 =>
    unfold exec at ht
    exact keepsForm_iv2 s t hs ht
  | sqrIv32 | sqrtIv32 | negIv32 | sqrIv64 | sqrtIv64 | negIv64 =>
    unfold exec at ht
    exact keepsForm_iv1 s t hs ht
  | fmaIv32 | fmaIv64 =>
    unfold exec at ht
    exact keepsForm_iv3 s t hs ht
  | midIv32 | widIv32 | midIv64 | widIv64 =>
    unfold exec at ht
    exact keepsForm_ivNum s t hs ht
  | cmpLtIv32 | cmpLeIv32 | cmpEqIv32 | cmpLtIv64 | cmpLeIv64 | cmpEqIv64 =>
    unfold exec at ht
    exact keepsForm_ivCmpP s t hs ht
  | bisectIv32 | bisectIv64 =>
    unfold exec at ht
    exact keepsForm_ivBis s t hs ht
  | mkivIv32 | mkivIv64 =>
    unfold exec at ht
    exact keepsForm_ivMk s t hs ht
  | ldIv32 | ldIv64 | ldN8 | ldI8 | ldN16 | ldI16 | ldB32 | ldB64 | ldB128 =>
    unfold exec at ht
    exact keepsForm_load s t hs ht
  | stIv32 | stIv64 | stB8 | stB16 | stB32 | stB64 | stB128 =>
    unfold exec at ht
    exact keepsForm_store s t hs ht
  | tload | tstore =>
    unfold exec at ht
    exact keepsForm_tileMove s t hs ht
  | mwload | mwloadSm =>
    unfold exec at ht
    exact keepsForm_weightLoad s t hs ht
  | mmacI8 | mmacF8 | mmacF4 | mmacBf16 | mmacF16 | mmacX3 | mmacMx =>
    unfold exec at ht
    exact keepsForm_mmac s t hs ht
  | ldsB32 | ldsB64 =>
    unfold exec at ht
    exact keepsForm_lds s t hs ht
  | stsB32 | stsB64 =>
    unfold exec at ht
    exact keepsForm_sts s t hs ht
  | ldlB32 | ldlB64 =>
    unfold exec at ht
    exact keepsForm_ldl s t hs ht
  | stlB32 | stlB64 =>
    unfold exec at ht
    exact keepsForm_stl s t hs ht
  | atomAddI32 | atomMinI32 | atomMaxI32 | atomAndB32 | atomOrB32 | atomXorB32 | atomExchB32 | atomCasB32 | atomAddF32
    =>
    unfold exec at ht
    exact keepsForm_atom s t hs ht
  | aredAddI32 | aredAddF32 | aredMinI32 | aredMaxI32 | aredAndB32 | aredOrB32 | aredXorB32 | aredAddI64 =>
    unfold exec at ht
    exact keepsForm_ared s t hs ht
  | ldrB32 | stcB32 =>
    unfold exec at ht
    exact keepsForm_atomic s t hs ht
  | xgather | xgatherSum | xgatherMax | xgatherMean | xscadd | xscmax | xscore =>
    unfold exec at ht
    exact keepsForm_transport s t hs ht
  | acopyIn | acopyOut =>
    unfold exec at ht
    exact keepsForm_acopy s t hs ht
  | tagwaitAny | tagwaitAll =>
    unfold exec at ht
    exact keepsForm_tagwait s t hs ht
  | dmaCopy | dmaFill =>
    unfold exec at ht
    exact keepsForm_dmaIssue s t hs ht
  | launch | launchRec =>
    unfold exec at ht
    exact keepsForm_launchPoint s t hs ht
  | waitImmediate | waitRegister =>
    unfold exec at ht
    exact keepsForm_waits s t hs ht
  | waitExpiry => exact keepsForm_execWaitExpiry s t hs ht
  | resultWriteback => exact keepsForm_execResultWriteback s t hs ht
  | issueSelect => exact keepsForm_execIssueSelect s t hs ht
  | sequencerPortIssue => exact keepsForm_execSequencerPortIssue s t hs ht
  | loadComplete => exact keepsForm_execLoadComplete s t hs ht
  | storePerformed => exact keepsForm_execStorePerformed s t hs ht
  | atomicPerform => exact keepsForm_execAtomicPerform s t hs ht
  | tlbWalkComplete => exact keepsForm_execTlbWalkComplete s t hs ht
  | replayEntryReplay => exact keepsForm_execReplayEntryReplay s t hs ht
  | uncorrectableError => exact keepsForm_execUncorrectableError s t hs ht
  | transportFirstSlot => exact keepsForm_execTransportFirstSlot s t hs ht
  | transportRemoteRequest => exact keepsForm_execTransportRemoteRequest s t hs ht
  | rowEngineChunk => exact keepsForm_execRowEngineChunk s t hs ht
  | transportReply => exact keepsForm_execTransportReply s t hs ht
  | transportReplyTimeout => exact keepsForm_execTransportReplyTimeout s t hs ht
  | transportComplete => exact keepsForm_execTransportComplete s t hs ht
  | xstatRecord => exact keepsForm_execXstatRecord s t hs ht
  | queryLoadComplete => exact keepsForm_execQueryLoadComplete s t hs ht
  | querySlotReload => exact keepsForm_execQuerySlotReload s t hs ht
  | copyTranslated => exact keepsForm_execCopyTranslated s t hs ht
  | copyComplete => exact keepsForm_execCopyComplete s t hs ht
  | dmaChunk => exact keepsForm_execDmaChunk s t hs ht
  | dmaComplete => exact keepsForm_execDmaComplete s t hs ht
  | hfetchComplete => exact keepsForm_execHfetchComplete s t hs ht
  | fibldComplete => exact keepsForm_execFibldComplete s t hs ht
  | rowscanReadAhead => exact keepsForm_execRowscanReadAhead s t hs ht
  | rookQueueStart => exact keepsForm_execRookQueueStart s t hs ht
  | rookQueueStop => exact keepsForm_execRookQueueStop s t hs ht
  | rookEntryPush => exact keepsForm_execRookEntryPush s t hs ht
  | matrixCommandComplete => exact keepsForm_execMatrixCommandComplete s t hs ht
  | mswapTakeEffect => exact keepsForm_execMswapTakeEffect s t hs ht
  | barrierComplete => exact keepsForm_execBarrierComplete s t hs ht
  | mbarComplete => exact keepsForm_execMbarComplete s t hs ht
  | gridBarrierComplete => exact keepsForm_execGridBarrierComplete s t hs ht
  | joinRelease => exact keepsForm_execJoinRelease s t hs ht
  | spawnComplete => exact keepsForm_execSpawnComplete s t hs ht
  | launchAnswer => exact keepsForm_execLaunchAnswer s t hs ht
  | launchCellWrite => exact keepsForm_execLaunchCellWrite s t hs ht
  | launchCellPoll => exact keepsForm_execLaunchCellPoll s t hs ht
  | dispatchBatch => exact keepsForm_execDispatchBatch s t hs ht
  | groupPlace => exact keepsForm_execGroupPlace s t hs ht
  | dictionaryBankLoad => exact keepsForm_execDictionaryBankLoad s t hs ht
  | instructionRowFill => exact keepsForm_execInstructionRowFill s t hs ht
  | dependencePoll => exact keepsForm_execDependencePoll s t hs ht
  | recordCountRead => exact keepsForm_execRecordCountRead s t hs ht
  | commitPoint => exact keepsForm_execCommitPoint s t hs ht
  | redundantThirdRun => exact keepsForm_execRedundantThirdRun s t hs ht
  | groupResume => exact keepsForm_execGroupResume s t hs ht
  | earlyCommit => exact keepsForm_execEarlyCommit s t hs ht
  | groupRetire => exact keepsForm_execGroupRetire s t hs ht
  | gridRetire => exact keepsForm_execGridRetire s t hs ht
  | timeSliceExpiry => exact keepsForm_execTimeSliceExpiry s t hs ht
  | coalescerRecordClose => exact keepsForm_execCoalescerRecordClose s t hs ht
  | faultBufferRetry => exact keepsForm_execFaultBufferRetry s t hs ht
  | xqFreeRecord => exact keepsForm_execXqFreeRecord s t hs ht
  | freqChange => exact keepsForm_execFreqChange s t hs ht
  | dieQuiesced => exact keepsForm_execDieQuiesced s t hs ht
  | pllRelocked => exact keepsForm_execPllRelocked s t hs ht
  | handshakeTimeout => exact keepsForm_execHandshakeTimeout s t hs ht
  | xinvPage => exact keepsForm_execXinvPage s t hs ht
  | xinvContext => exact keepsForm_execXinvContext s t hs ht
  | xinvAll => exact keepsForm_execXinvAll s t hs ht
  | xinvDone => exact keepsForm_execXinvDone s t hs ht
  | fsvcService => exact keepsForm_execFsvcService s t hs ht
  | fsvcFail => exact keepsForm_execFsvcFail s t hs ht
  | fsvcDone => exact keepsForm_execFsvcDone s t hs ht
  | ctxCreate => exact keepsForm_execCtxCreate s t hs ht
  | ctxDrain => exact keepsForm_execCtxDrain s t hs ht
  | ctxDrainForced => exact keepsForm_execCtxDrainForced s t hs ht
  | ctxResume => exact keepsForm_execCtxResume s t hs ht
  | ctxDestroy => exact keepsForm_execCtxDestroy s t hs ht
  | ctxReleaseGrid => exact keepsForm_execCtxReleaseGrid s t hs ht
  | drainComplete => exact keepsForm_execDrainComplete s t hs ht
  | drainDeadline => exact keepsForm_execDrainDeadline s t hs ht
  | freeze => exact keepsForm_execFreeze s t hs ht
  | thaw => exact keepsForm_execThaw s t hs ht
  | stateReadout => exact keepsForm_execStateReadout s t hs ht
  | debugRelease => exact keepsForm_execDebugRelease s t hs ht
  | counterHalving => exact keepsForm_execCounterHalving s t hs ht
  | unitRetire => exact keepsForm_execUnitRetire s t hs ht
  | powerSample => exact keepsForm_execPowerSample s t hs ht
  | portDown => exact keepsForm_execPortDown s t hs ht
  | hostLinkDown => exact keepsForm_execHostLinkDown s t hs ht
  | hostMemoryAccess => exact keepsForm_execHostMemoryAccess s t hs ht
  | moduleReset => exact keepsForm_execModuleReset s t hs ht
  | registerWrite => exact keepsForm_execRegisterWrite s t hs ht
  | hostLinkReturn => exact keepsForm_execHostLinkReturn s t hs ht
  | fabricRouteUpdate => exact keepsForm_execFabricRouteUpdate s t hs ht
  | spdmAttestation => exact keepsForm_execSpdmAttestation s t hs ht
  | nop => exact keepsForm_execNop s t hs ht
  | dictionaryReference => exact keepsForm_execDictionaryReference s t hs ht
  | packMx => exact keepsForm_execPackMx s t hs ht
  | unpackMx => exact keepsForm_execUnpackMx s t hs ht
  | lvoteMask => exact keepsForm_execLvoteMask s t hs ht
  | vredAddF32 => exact keepsForm_execVredAddF32 s t hs ht
  | vscanAddI32 => exact keepsForm_execVscanAddI32 s t hs ht
  | vfilt => exact keepsForm_execVfilt s t hs ht
  | vpermB32 => exact keepsForm_execVpermB32 s t hs ht
  | pand => exact keepsForm_execPand s t hs ht
  | por => exact keepsForm_execPor s t hs ht
  | pnot => exact keepsForm_execPnot s t hs ht
  | pmov => exact keepsForm_execPmov s t hs ht
  | selB32 => exact keepsForm_execSelB32 s t hs ht
  | pfrom => exact keepsForm_execPfrom s t hs ht
  | pto => exact keepsForm_execPto s t hs ht
  | ivSpawn => exact keepsForm_execIvSpawn s t hs ht
  | tcfg => exact keepsForm_execTcfg s t hs ht
  | tzero => exact keepsForm_execTzero s t hs ht
  | mzero => exact keepsForm_execMzero s t hs ht
  | mflags => exact keepsForm_execMflags s t hs ht
  | mstore => exact keepsForm_execMstore s t hs ht
  | mload => exact keepsForm_execMload s t hs ht
  | mcvt => exact keepsForm_execMcvt s t hs ht
  | mpset => exact keepsForm_execMpset s t hs ht
  | marrive => exact keepsForm_execMarrive s t hs ht
  | mswap => exact keepsForm_execMswap s t hs ht
  | fence => exact keepsForm_execFence s t hs ht
  | prefetch => exact keepsForm_execPrefetch s t hs ht
  | cwback => exact keepsForm_execCwback s t hs ht
  | cinval => exact keepsForm_execCinval s t hs ht
  | xqload => exact keepsForm_execXqload s t hs ht
  | xqfree => exact keepsForm_execXqfree s t hs ht
  | xstat => exact keepsForm_execXstat s t hs ht
  | xmask => exact keepsForm_execXmask s t hs ht
  | xwait => exact keepsForm_execXwait s t hs ht
  | tagffr => exact keepsForm_execTagffr s t hs ht
  | tagclr => exact keepsForm_execTagclr s t hs ht
  | hfetch => exact keepsForm_execHfetch s t hs ht
  | hfetchPf => exact keepsForm_execHfetchPf s t hs ht
  | rowscan => exact keepsForm_execRowscan s t hs ht
  | fibld => exact keepsForm_execFibld s t hs ht
  | fibinv => exact keepsForm_execFibinv s t hs ht
  | dmaStat => exact keepsForm_execDmaStat s t hs ht
  | mdld => exact keepsForm_execMdld s t hs ht
  | grow => exact keepsForm_execGrow s t hs ht
  | vpoint => exact keepsForm_execVpoint s t hs ht
  | exit => exact keepsForm_execExit s t hs ht
  | bar => exact keepsForm_execBar s t hs ht
  | gbar => exact keepsForm_execGbar s t hs ht
  | mbar => exact keepsForm_execMbar s t hs ht
  | mjoin => exact keepsForm_execMjoin s t hs ht
  | mleave => exact keepsForm_execMleave s t hs ht
  | dqpush => exact keepsForm_execDqpush s t hs ht
  | dqpop => exact keepsForm_execDqpop s t hs ht
  | barinit => exact keepsForm_execBarinit s t hs ht
  | barwait => exact keepsForm_execBarwait s t hs ht
  | bararr => exact keepsForm_execBararr s t hs ht
  | br => exact keepsForm_execBr s t hs ht
  | brc => exact keepsForm_execBrc s t hs ht
  | brdq => exact keepsForm_execBrdq s t hs ht
  | brzm => exact keepsForm_execBrzm s t hs ht
  | split => exact keepsForm_execSplit s t hs ht
  | join => exact keepsForm_execJoin s t hs ht
  | call => exact keepsForm_execCall s t hs ht
  | ret => exact keepsForm_execRet s t hs ht
  | jmpi => exact keepsForm_execJmpi s t hs ht
  | calli => exact keepsForm_execCalli s t hs ht
  | emsave => exact keepsForm_execEmsave s t hs ht
  | emrest => exact keepsForm_execEmrest s t hs ht
  | emand => exact keepsForm_execEmand s t hs ht
  | trap => exact keepsForm_execTrap s t hs ht
  | rdst => exact keepsForm_execRdst s t hs ht
  | wrst => exact keepsForm_execWrst s t hs ht
  | rdlfsr => exact keepsForm_execRdlfsr s t hs ht
  | brk => exact keepsForm_execBrk s t hs ht
  | rdclk => exact keepsForm_execRdclk s t hs ht

theorem canonical_auto {s : State} (h : Canonical s.memories) : Canonical s.auto.memories := by
  have hown (t : State) (ht : s.firstOf s.ownEvents = some t) : Canonical t.memories :=
    canonical_firstOf h _ keepsForm_exec ht
  have hrelock (t : State) (ht : exec .pllRelocked s = .next t) : Canonical t.memories := keepsForm_exec _ s t h ht
  grind [State.auto, memories_tick]

theorem keepsForm_arrives {e : Instr} : KeepsForm fun s => s.arrives e := fun s t hs ht => by
  have hexec := keepsForm_exec e s t hs
  grind [State.arrives, State.memories]

theorem keepsForm_fromAgenda : KeepsForm State.fromAgenda := fun s t hs ht => by
  unfold State.fromAgenda at ht
  split at ht
  next e rest _ _ => exact keepsForm_exec e { s with ingress := rest } t hs ht
  · cases ht
    exact canonical_auto hs
  next e rest _ _ => exact keepsForm_arrives { s with agenda := rest } t hs ht

theorem keepsForm_issueStep {i : Issue} : KeepsForm fun s => s.issueStep i := fun s t hs ht => by
  have hword (x : Form) (hx : runWord x s = .next t) : Canonical t.memories :=
    keepsForm_exec x.toInstr s t hs (runWord_eq_exec x s ▸ hx)
  grind [State.issueStep, State.memories, memories_stopped]

theorem keepsForm_step : KeepsForm step := fun s t hs ht => by
  have hagenda := keepsForm_fromAgenda s t hs
  have hissue (i : Issue) := keepsForm_issueStep (i := i) s t hs
  grind [step]

/-- Settles O60: both memories keep the form in each arm of exec, and so in the clk of an issue, of an agenda entry and of
the package's own events. -/
theorem stepKeepsMemoryCanonical : Obligations.StepKeepsMemoryCanonical := by
  unfold Obligations.StepKeepsMemoryCanonical
  exact keepsForm_step

end Sys2Proof.Machine
end

section
/-!
SUPPORT. pkg.xinv: what an invalidation drops, and when it is done (03 R75, R76; 17 R378).
-/

namespace Sys2Proof.Machine

/-- A map whose values are changed in place, where the change leaves the default value as it is. -/
theorem SMap.getD_map {α : Type} (f : Nat → α → α) {d : α} (hd : ∀ k, f k d = d) (k : Nat) (m : SMap α) :
    SMap.getD (List.map (fun p => (p.1, f p.1 p.2)) m) k d = f k (SMap.getD m k d) := by
  rw [SMap.getD, SMap.get?_map, SMap.getD]
  cases SMap.get? k m
  · exact (hd k).symm
  · rfl

theorem core_dropTlbs (s : State) (x : XScope) (n : Nat) :
    (s.dropTlbs x).core n = { s.core n with tlb := (s.core n).tlb.filter fun e => !x.leaf e } :=
  SMap.getD_map (fun _ (k : Core) => { k with tlb := k.tlb.filter fun e => !x.leaf e }) (fun _ => rfl) n s.cores

theorem cluster_dropTlbs (s : State) (x : XScope) (n : Nat) :
    (s.dropTlbs x).cluster n = { s.cluster n with tlb := (s.cluster n).tlb.filter fun e => !x.leaf e } :=
  SMap.getD_map (fun _ (k : Cluster) => { k with tlb := k.tlb.filter fun e => !x.leaf e }) (fun _ => rfl) n s.clusters

theorem die_dropTlbs (s : State) (x : XScope) (n : Nat) :
    (s.dropTlbs x).die n = { s.die n with wcache := (s.die n).wcache.filter fun w => !x.entry w } :=
  SMap.getD_map (fun _ (d : Die) => { d with wcache := d.wcache.filter fun w => !x.entry w }) (fun _ => rfl) n s.dies

theorem ttc_dropTlbs (s : State) (x : XScope) : (s.dropTlbs x).ttc = s.ttc.filter fun e => !x.leaf e := rfl

/-- No leaf that x covers is cached after a drop, and no walk entry. -/
theorem dropTlbs_drops (s : State) (x : XScope) :
    (∀ n, ∀ e ∈ ((s.dropTlbs x).core n).tlb, x.leaf e = false)
      ∧ (∀ n, ∀ e ∈ ((s.dropTlbs x).cluster n).tlb, x.leaf e = false)
      ∧ (∀ n, ∀ e ∈ ((s.dropTlbs x).die n).wcache, x.entry e = false) ∧ ∀ e ∈ (s.dropTlbs x).ttc, x.leaf e = false := by
  simp [core_dropTlbs, cluster_dropTlbs, die_dropTlbs, ttc_dropTlbs]

theorem xinv_busy {s : State} (h : s.pkg.xinv.busy = true) (k : BitVec 3) (ctx : BitVec 12) (va : BitVec 32)
    (rsv : Bool) : s.xinv k ctx va rsv = s := by
  simp [State.xinv, h]

theorem xinv_reserved {s : State} (h : s.pkg.xinv.busy = false) (k : BitVec 3) (ctx : BitVec 12) (va : BitVec 32) :
    s.xinv k ctx va true = s.modPkg fun p => { p with xinv := { p.xinv with bad := true } } := by
  simp [State.xinv, h, State.modPkg]

theorem xinv_starts {s : State} (h : s.pkg.xinv.busy = false) {k : BitVec 3} (hk : k.toNat ≤ 2) (ctx : BitVec 12)
    (va : BitVec 32) :
    s.xinv k ctx va false = (s.modPkg fun p => { p with xinv := ⟨true, false, k, ctx, va.setWidth 42⟩ }).dropTlbs
      (xscopeOf ⟨true, false, k, ctx, va.setWidth 42⟩) := by
  simp [State.xinv, h, State.modPkg, Nat.not_lt.2 hk]

theorem xscopeOf_page (ctx : BitVec 12) (va : BitVec 32) :
    xscopeOf ⟨true, false, 0, ctx, va.setWidth 42⟩ = .page ctx.toNat (va.toNat * 65536) := by
  have hva : (va.setWidth 42).toNat = va.toNat := by bv_omega
  simp [xscopeOf, hva]

theorem xscopeOf_context (ctx : BitVec 12) (va : BitVec 42) :
    xscopeOf ⟨true, false, 1, ctx, va⟩ = .context ctx.toNat := rfl

theorem xscopeOf_all (ctx : BitVec 12) (va : BitVec 42) : xscopeOf ⟨true, false, 2, ctx, va⟩ = .all := rfl

/-- A write of pkg.xinv whose scope the register has. -/
theorem xinv_spec (s : State) {k : BitVec 3} (hk : k.toNat ≤ 2) (ctx : BitVec 12) (va : BitVec 32) (r : BitVec 16)
    {x : XScope} (hx : xscopeOf ⟨true, false, k, ctx, va.setWidth 42⟩ = x) {o : Out}
    (ho : o = .next (s.xinv k ctx va (r != 0))) :
    (s.pkg.xinv.busy = true → o = .next s)
      ∧ (s.pkg.xinv.busy = false → r ≠ 0 → o = .next (s.modPkg fun p => { p with xinv := { p.xinv with bad := true } }))
      ∧ (s.pkg.xinv.busy = false → r = 0 → ∃ t, o = .next t ∧ SameMemory s t ∧ SameRegisters s t
          ∧ t.pkg.xinv.busy = true ∧ t.pkg.xinv.bad = false ∧ xscopeOf t.pkg.xinv = x
          ∧ (∀ n, ∀ e ∈ (t.core n).tlb, x.leaf e = false) ∧ (∀ n, ∀ e ∈ (t.cluster n).tlb, x.leaf e = false)
          ∧ (∀ n, ∀ e ∈ (t.die n).wcache, x.entry e = false) ∧ ∀ e ∈ t.ttc, x.leaf e = false) := by
  subst ho hx
  refine ⟨fun hb => by rw [xinv_busy hb], fun hb hr => ?_, fun hb hr => ⟨_, rfl, ?_⟩⟩
  · rw [bne_iff_ne.2 hr, xinv_reserved hb]
  · rw [hr, bne_self_eq_false, xinv_starts hb hk]
    exact ⟨sameMemory_of_eq rfl rfl, sameRegisters_of_groups rfl, rfl, rfl, rfl, dropTlbs_drops _ _⟩

theorem execXinvDone_waits {s : State}
    (h : s.pkg.xinv.busy = false ∨ s.covered (xscopeOf s.pkg.xinv) = true) : execXinvDone s = .next s := by
  obtain h | h := h <;> simp [execXinvDone, h]

theorem execXinvDone_ends {s : State} (hb : s.pkg.xinv.busy = true) (hc : s.covered (xscopeOf s.pkg.xinv) = false) :
    execXinvDone s = .next ((s.modPkg fun p => { p with xinv := { p.xinv with busy := false } }).dropTlbs
      (xscopeOf s.pkg.xinv)) := by
  simp [execXinvDone, hb, hc, State.modPkg]

end Sys2Proof.Machine
end

section
/-!
SUPPORT. pkg.fsvc (16 R364, R366): a service is one of the units' entries, one of the continuations of the grids, and one of
the groups, each of a unit whose reports have been taken.
-/

namespace Sys2Proof.Machine

/-- The service of the continuations that wait. -/
def State.gridsServiced (s : State) (ctx va : Nat) (failed : Bool) : State :=
  if s.untaken unitS ctx va then s
  else (s.grids.filter fun x => x.ctx == ctx).foldl (fun s x => s.serviceGrid x va failed) s

/-- The groups of a context whose core has no report of the range that has not been taken. -/
def State.takenGroups (s : State) (ctx va : Nat) : List Nat :=
  (s.groups.filter fun g => g.2.ctx == ctx && !s.untaken (coreOf g.1) ctx va).map fun g => g.1

theorem serviced_empty (ctx va : Nat) (failed : Bool) : Core.empty.serviced ctx va failed = Core.empty := by
  simp [Core.serviced, Core.empty]

/-- A service of the units changes neither groups nor reports, and serves each core whose reports have been taken; those of
the grids and groups follow it. -/
theorem serviced_eq (s : State) (ctx va : Nat) (failed : Bool) :
    ∃ u : State, u.groups = s.groups ∧ u.coals = s.coals ∧ u.pkg = s.pkg
      ∧ (∀ n, u.core n = if s.untaken n ctx va then s.core n else (s.core n).serviced ctx va failed)
      ∧ s.serviced ctx va failed = ((u.gridsServiced ctx va failed).takenGroups ctx va).foldl
          (fun s g => s.serviceGroup g va failed) (u.gridsServiced ctx va failed) := by
  generalize ht : s.serviced ctx va failed = t
  unfold State.serviced at ht
  extract_lets one u v at ht
  refine ⟨u, rfl, rfl, rfl, fun n => ?_, ht.symm⟩
  have hmap : (fun c : Nat × Core => if s.untaken c.1 ctx va then c else (c.1, c.2.serviced ctx va failed))
      = fun c => (c.1, if s.untaken c.1 ctx va then c.2 else c.2.serviced ctx va failed) := by
    funext c
    split <;> rfl
  show SMap.getD (s.cores.map _) n Core.empty = _
  rw [hmap]
  exact SMap.getD_map (fun k c => if s.untaken k ctx va then c else c.serviced ctx va failed)
    (fun k => by rw [serviced_empty, ite_self]) n s.cores

-- A service that succeeds -------------------------------------------------------------------------

theorem waitsIn_eq_none_iff (gr : Group) (va : Nat) :
    gr.waitsIn va = none ↔ (∀ wv ∈ gr.waves, wv.live = true → inRange va wv.parked = false)
      ∧ (gr.seq.live = true → inRange va gr.seq.parked = false) ∧ (∀ q ∈ gr.queues, inRange va q.stalled = false)
      ∧ inRange va gr.slotWait = false := by
  unfold Group.waitsIn
  split
  · grind
  split
  · grind
  split
  · grind
  · grind

/-- What a service that succeeds leaves of a group: one that waits in the range goes on. -/
def Group.freed (va : Nat) (gr : Group) : Group :=
  if (gr.waitsIn va).isNone || gr.halting.isSome then gr else gr.released va

theorem waitsIn_released (gr : Group) (va : Nat) : (gr.released va).waitsIn va = none := by
  rw [waitsIn_eq_none_iff]
  simp only [Group.released]
  grind [inRange]

theorem waitsIn_freed {gr : Group} (h : gr.halting = none) (va : Nat) : (gr.freed va).waitsIn va = none := by
  unfold Group.freed
  split
  · simp_all
  · exact waitsIn_released gr va

theorem freed_freed (gr : Group) (va : Nat) : (gr.freed va).freed va = gr.freed va := by
  grind [Group.freed, waitsIn_released]

theorem regs_freed (gr : Group) (va : Nat) :
    (∀ w : Nat, ((gr.freed va).waves[w]?).map Wave.regs = (gr.waves[w]?).map Wave.regs)
      ∧ (gr.freed va).seq.regs = gr.seq.regs := by
  unfold Group.freed
  split
  · exact ⟨fun _ => rfl, rfl⟩
  · refine ⟨fun w => ?_, ?_⟩
    · simp only [Group.released, List.getElem?_map, Option.map_map]
      congr 1
      funext wv
      dsimp only [Function.comp]
      split <;> rfl
    · simp only [Group.released]
      split <;> rfl

theorem sameRegisters_of_freed {s t : State} {va : Nat}
    (h : ∀ g, t.grp g = s.grp g ∨ t.grp g = (s.grp g).map (Group.freed va)) : SameRegisters s t := by
  refine ⟨fun g w => ?_, fun g => ?_⟩
  · obtain h | h := h g
    · simp [State.waveAt, h]
    · rw [State.waveAt, State.waveAt, h]
      cases s.grp g with
      | none => rfl
      | some gr => exact (regs_freed gr va).1 w
  · obtain h | h := h g
    · simp [State.seqAt, h]
    · rw [State.seqAt, State.seqAt, h]
      cases s.grp g with
      | none => rfl
      | some gr => exact congrArg some (regs_freed gr va).2

theorem grp_serviceGroup_freed (s : State) (g va g' : Nat) :
    (s.serviceGroup g va false).grp g' = if g' = g then (s.grp g).map (Group.freed va) else s.grp g' := by
  grind [State.serviceGroup, Group.freed, State.grp_modGrp]

theorem grp_foldl_serviceGroup (gs : List Nat) (s : State) (va g : Nat) :
    (gs.foldl (fun s g => s.serviceGroup g va false) s).grp g
      = if g ∈ gs then (s.grp g).map (Group.freed va) else s.grp g := by
  induction gs generalizing s with
  | nil => simp
  | cons a t ih =>
    rw [List.foldl_cons, ih, grp_serviceGroup_freed]
    by_cases h1 : g = a <;> by_cases h2 : g ∈ t <;> simp [h1, h2, Function.comp_def, freed_freed]

/-- What the release of a group leaves as it is. -/
def State.besideGroups (s : State) := (s.coals, s.pkg, s.cores)

theorem besideGroups_serviceGroup (s : State) (g va : Nat) :
    (s.serviceGroup g va false).besideGroups = s.besideGroups := by
  unfold State.serviceGroup
  split
  · rfl
  split
  · rfl
  split <;> rfl

theorem besideGroups_foldl (gs : List Nat) (s : State) (va : Nat) :
    (gs.foldl (fun s g => s.serviceGroup g va false) s).besideGroups = s.besideGroups :=
  foldl_rel (R := fun (s t : State) => t.besideGroups = s.besideGroups) (fun _ => rfl) (fun _ _ _ h k => k.trans h) _
    (fun s g => besideGroups_serviceGroup s g va) gs s

/-- What the release of continuations leaves as it is. -/
def State.besideGrids (s : State) := (s.groups, s.coals, s.pkg, s.cores)

theorem besideGrids_serviceGrid (s : State) (x : Grid) (va : Nat) :
    (s.serviceGrid x va false).besideGrids = s.besideGrids := by
  unfold State.serviceGrid
  refine foldl_rel (R := fun (s t : State) => t.besideGrids = s.besideGrids) (fun _ => rfl)
    (fun _ _ _ h k => k.trans h) _ (fun _ _ => ?_) _ s
  rfl

theorem besideGrids_gridsServiced (s : State) (ctx va : Nat) :
    (s.gridsServiced ctx va false).besideGrids = s.besideGrids := by
  unfold State.gridsServiced
  split
  · rfl
  · exact foldl_rel (R := fun (s t : State) => t.besideGrids = s.besideGrids) (fun _ => rfl)
      (fun _ _ _ h k => k.trans h) _ (fun s x => besideGrids_serviceGrid s x va) _ s

theorem mem_takenGroups {s : State} {g ctx va : Nat} (h : g ∈ s.takenGroups ctx va) :
    s.untaken (coreOf g) ctx va = false := by
  simp only [State.takenGroups, List.mem_map, List.mem_filter] at h
  grind

theorem takenGroups_of_grp {s : State} {g ctx va : Nat} {gr : Group} (h : s.grp g = some gr) (hc : gr.ctx = ctx)
    (hu : s.untaken (coreOf g) ctx va = false) : g ∈ s.takenGroups ctx va :=
  List.mem_map.2 ⟨(g, gr), List.mem_filter.2 ⟨SMap.mem_of_get? h, by simp [hc, hu]⟩, rfl⟩

/-- After a service that succeeds, each group is as before, or goes on where its reports have been taken. -/
theorem serviced_frees (s : State) (ctx va : Nat) :
    let t := s.serviced ctx va false
    t.pkg = s.pkg
      ∧ (∀ n, t.core n = if s.untaken n ctx va then s.core n else (s.core n).serviced ctx va false)
      ∧ ∃ gs : List Nat, (∀ g, t.grp g = if g ∈ gs then (s.grp g).map (Group.freed va) else s.grp g)
        ∧ (∀ g ∈ gs, s.untaken (coreOf g) ctx va = false)
        ∧ ∀ g gr, s.grp g = some gr → gr.ctx = ctx → s.untaken (coreOf g) ctx va = false → g ∈ gs := by
  obtain ⟨u, hgroups, hcoals, hpkg, hcore, heq⟩ := serviced_eq s ctx va false
  have hgrids := besideGrids_gridsServiced u ctx va
  generalize u.gridsServiced ctx va false = v at heq hgrids
  obtain ⟨hgroups', hcoals', hpkg', hcores'⟩ :
      v.groups = u.groups ∧ v.coals = u.coals ∧ v.pkg = u.pkg ∧ v.cores = u.cores := by
    simpa [State.besideGrids] using hgrids
  have hgrp (g : Nat) : v.grp g = s.grp g := congrArg (SMap.get? g) (hgroups'.trans hgroups)
  have huntaken (n : Nat) : v.untaken n ctx va = s.untaken n ctx va := by
    simp [State.untaken, State.coal, hcoals'.trans hcoals]
  have hbeside := besideGroups_foldl (v.takenGroups ctx va) v va
  dsimp only
  rw [heq]
  refine ⟨?_, fun n => ?_, v.takenGroups ctx va, fun g => ?_, fun g hg => ?_, fun g gr hg hc hu => ?_⟩
  · exact (congrArg (·.2.1) hbeside).trans (hpkg'.trans hpkg)
  · rw [← hcore n]
    exact congrArg (SMap.getD · n Core.empty) ((congrArg (·.2.2) hbeside).trans hcores')
  · rw [grp_foldl_serviceGroup, hgrp]
  · rw [← huntaken]
    exact mem_takenGroups hg
  · exact takenGroups_of_grp ((hgrp g).trans hg) hc ((huntaken _).trans hu)

/-- The entries of a replay queue that wait in the range are answered. -/
theorem serviced_replay {k : Core} {ctx va : Nat} {failed : Bool} {r : Replay} (hr : r ∈ k.replay) (hc : r.ctx = ctx)
    (hp : r.page = va) : ∃ r' ∈ (k.serviced ctx va failed).replay, r'.id = r.id ∧ r'.svc ≠ none := by
  refine ⟨_, List.mem_map_of_mem hr, ?_⟩
  split <;> simp_all

/-- A service that succeeds lets what waits in its range go on, but for what waits for its report to be taken. -/
theorem serviced_goesOn (s : State) (ctx va : Nat) :
    let t := s.serviced ctx va false
    SameRegisters s t
      ∧ (∀ g gr, s.grp g = some gr → gr.ctx = ctx → gr.halting = none → s.untaken (coreOf g) ctx va = false →
          (∀ w wv, t.waveAt g w = some wv → wv.live = true → inRange va wv.parked = false)
          ∧ (∀ q, t.seqAt g = some q → q.live = true → inRange va q.parked = false)
          ∧ (t.grp g).all (fun y => !inRange va y.slotWait) = true)
      ∧ (∀ g, s.untaken (coreOf g) ctx va = true → t.grp g = s.grp g)
      ∧ ∀ core, s.untaken core ctx va = false → ∀ r ∈ (s.core core).replay, r.ctx = ctx → r.page = va →
          ∃ r' ∈ (t.core core).replay, r'.id = r.id ∧ r'.svc ≠ none := by
  obtain ⟨-, hcore, gs, hgrp, hgs, hmem⟩ := serviced_frees s ctx va
  dsimp only
  generalize s.serviced ctx va false = t at hcore hgrp ⊢
  refine ⟨sameRegisters_of_freed (va := va) fun g => ?_, fun g gr hg hc hn hu => ?_, fun g hu => ?_,
    fun core hu r hr hc hp => ?_⟩
  · rw [hgrp]
    split
    · exact .inr rfl
    · exact .inl rfl
  · have ht : t.grp g = some (gr.freed va) := by
      rw [hgrp, if_pos (hmem g gr hg hc hu), hg]
      rfl
    obtain ⟨hwaves, hseq, -, hslot⟩ := (waitsIn_eq_none_iff ..).1 (waitsIn_freed hn va)
    refine ⟨fun w wv hw => ?_, fun q hq => ?_, ?_⟩
    · rw [State.waveAt, ht] at hw
      exact hwaves wv (List.mem_of_getElem? hw)
    · rw [State.seqAt, ht] at hq
      cases hq
      exact hseq
    · rw [ht]
      simp [hslot]
  · rw [hgrp, if_neg fun h => ?_]
    exact Bool.false_ne_true ((hgs g h).symm.trans hu)
  · rw [hcore, if_neg (by simpa using hu)]
    exact serviced_replay hr hc hp

end Sys2Proof.Machine
end

section
/-!
SUPPORT. A service that fails (16 R364): each task that waits in the range ends, or is halted until its report is taken.
-/

namespace Sys2Proof.Machine

/-- Each group is as before, has left its core, or is halted. -/
def TasksEnd (s t : State) : Prop :=
  ∀ g, t.grp g = s.grp g ∨ t.grp g = none ∨ ∃ y, t.grp g = some y ∧ y.halting ≠ none

/-- A group has left its core or is halted. -/
def State.ended (s : State) (g : Nat) : Prop := s.grp g = none ∨ ∃ y, s.grp g = some y ∧ y.halting ≠ none

theorem TasksEnd.of_groups {s t : State} (h : t.groups = s.groups) : TasksEnd s t :=
  fun g => .inl (congrArg (SMap.get? g) h)

theorem TasksEnd.trans {s t u : State} (h : TasksEnd s t) (k : TasksEnd t u) : TasksEnd s u := by
  intro g
  have hg := h g
  have kg := k g
  grind

theorem TasksEnd.ended {s t : State} (h : TasksEnd s t) {g : Nat} (hg : s.ended g) : t.ended g := by
  have := h g
  grind [State.ended]

theorem tasksEnd_foldl {α : Type} {f : State → α → State} (hf : ∀ s x, TasksEnd s (f s x)) (l : List α) (s : State) :
    TasksEnd s (l.foldl f s) := foldl_rel (fun _ => .of_groups rfl) (fun _ _ _ h k => h.trans k) f hf l s

theorem tasksEnd_takeReport (s : State) (u : Nat) (r : FRec) : TasksEnd s (s.takeReport u r).1 :=
  .of_groups (show (s.takeReport u r).1.besideRecords.groups = s.besideRecords.groups by rw [besideRecords_takeReport])

theorem tasksEnd_leave (s : State) (g : Nat) : TasksEnd s (s.leave g) := by
  intro g'
  rw [grp_leave]
  grind

theorem tasksEnd_evict (s : State) (g : Nat) (keep : MemOp → Bool) (kr : Bool) : TasksEnd s (s.evict g keep kr) := by
  intro g'
  rw [grp_evict]
  grind

theorem tasksEnd_forceReset (s : State) (ctx : Nat) : TasksEnd s (s.forceReset ctx) := by
  intro g
  rw [State.forceReset, grp_sendTo]
  have hfold := grp_foldl_resetGroup ((s.groups.filter fun x => x.2.ctx == ctx).map (·.1)) s g
  split at hfold
  · exact .inr (.inl hfold)
  · exact .inl hfold

theorem tasksEnd_finishTask (s : State) (g : Nat) (restart : Bool) : TasksEnd s (s.finishTask g restart) := by
  cases h : s.grp g with
  | none => exact .of_groups (congrArg State.groups (finishTask_absent h restart))
  | some gr =>
    simp -zeta only [State.finishTask, h]
    extract_lets policy
    split
    · exact tasksEnd_leave (s.toCont ..) g
    split
    · exact tasksEnd_forceReset s gr.ctx
    split
    · exact tasksEnd_leave (s.toCont ..) g
    · exact tasksEnd_leave (s.dropGroup gr) g

theorem tasksEnd_halt (s : State) (g : Nat) (r : FRec) (restart : Bool) :
    TasksEnd s (s.modGrp g fun gr => gr.halt r restart) := by
  intro g'
  rw [State.grp_modGrp]
  cases h : s.grp g <;> grind [Group.halt]

theorem ended_halt (s : State) (g : Nat) (r : FRec) (restart : Bool) :
    (s.modGrp g fun gr => gr.halt r restart).ended g := by
  unfold State.ended
  rw [State.grp_modGrp]
  cases h : s.grp g <;> simp [Group.halt]

theorem stopTask_ends (s : State) (g : Nat) (r : FRec) (restart : Bool) :
    TasksEnd s (s.stopTask g r restart) ∧ (s.stopTask g r restart).ended g := by
  cases h : s.grp g with
  | none =>
    simp only [State.stopTask, h]
    exact ⟨.of_groups rfl, .inl h⟩
  | some gr =>
    simp -zeta only [State.stopTask, h]
    extract_lets keep u d v
    have hu : TasksEnd s u := by
      unfold u
      split
      · exact tasksEnd_evict s _ _ _
      · exact .of_groups rfl
    have hv : TasksEnd s v := hu.trans (tasksEnd_halt { d with free := u.free + 1, issuing := none } g r restart)
    have hg : v.ended g := ended_halt { d with free := u.free + 1, issuing := none } g r restart
    have htake := tasksEnd_takeReport v r.core r
    split
    next t ht =>
      rw [ht] at htake
      exact ⟨hv.trans (htake.trans (tasksEnd_finishTask t g restart)), .inl (grp_finishTask t g restart)⟩
    next t ht =>
      rw [ht] at htake
      have hwaits : TasksEnd t (t.reportWaits r.core r) := .of_groups rfl
      exact ⟨hv.trans (htake.trans hwaits), hwaits.ended (htake.ended hg)⟩

theorem tasksEnd_endCont (s : State) (x : Grid) (c : Cont) (cause : Nat) (va : Option Nat) :
    TasksEnd s (s.endCont x c cause va) := by
  have hsend (r : FRec) : TasksEnd s (s.sendTo unitS r) := fun g => .inl (grp_sendTo s unitS r g)
  simp -zeta only [State.endCont]
  extract_lets e u policy v w
  have hu : TasksEnd s u := hsend _
  split
  · exact hu.trans (tasksEnd_forceReset u x.ctx)
  split
  · exact hu.trans (.of_groups rfl)
  · exact hu.trans (.of_groups rfl)

theorem tasksEnd_serviceGrid (s : State) (x : Grid) (va : Nat) (failed : Bool) :
    TasksEnd s (s.serviceGrid x va failed) := by
  unfold State.serviceGrid
  refine tasksEnd_foldl (fun s c => ?_) _ s
  dsimp only
  split
  · exact (TasksEnd.of_groups rfl).trans (tasksEnd_endCont _ _ _ _ _)
  · exact .of_groups rfl

theorem tasksEnd_gridsServiced (s : State) (ctx va : Nat) (failed : Bool) :
    TasksEnd s (s.gridsServiced ctx va failed) := by
  unfold State.gridsServiced
  split
  · exact .of_groups rfl
  · exact tasksEnd_foldl (fun s x => tasksEnd_serviceGrid s x va failed) _ s

theorem tasksEnd_serviceGroup (s : State) (g va : Nat) : TasksEnd s (s.serviceGroup g va true) := by
  unfold State.serviceGroup
  split
  · exact .of_groups rfl
  split
  · exact .of_groups rfl
  split
  · exact .of_groups rfl
  · exact (stopTask_ends ..).1

/-- A group that waits in the range ends when it is served. -/
theorem serviceGroup_ends {s : State} {g va : Nat} {gr : Group} (h : s.grp g = some gr) (hw : gr.waitsIn va ≠ none)
    (hn : gr.halting = none) : (s.serviceGroup g va true).ended g := by
  obtain ⟨w, hw⟩ := Option.ne_none_iff_exists'.1 hw
  simp only [State.serviceGroup, h, hw, hn]
  exact (stopTask_ends ..).2

theorem foldl_serviceGroup_ends {g va : Nat} {gr : Group} (hw : gr.waitsIn va ≠ none) (hn : gr.halting = none)
    {gs : List Nat} (hg : g ∈ gs) {s : State} (h : s.grp g = some gr ∨ s.ended g) :
    (gs.foldl (fun s g => s.serviceGroup g va true) s).ended g := by
  have hall (l : List Nat) (u : State) (hu : u.ended g) : (l.foldl (fun s g => s.serviceGroup g va true) u).ended g :=
    (tasksEnd_foldl (fun s g => tasksEnd_serviceGroup s g va) l u).ended hu
  induction gs generalizing s with
  | nil => cases hg
  | cons a t ih =>
    rw [List.foldl_cons]
    have hstep := tasksEnd_serviceGroup s a va
    obtain h | h := h
    · obtain rfl | hg := List.mem_cons.1 hg
      · exact hall t _ (serviceGroup_ends h hw hn)
      · refine ih hg ?_
        obtain hs | hs := hstep g
        · exact .inl (hs.trans h)
        · exact .inr hs
    · exact hall t _ (hstep.ended h)

-- The reports of a failed service are none of those that a service asks for ------------------------

theorem coal_setCoal_of (s : State) (u n : Nat) (k : Coal) :
    (s.setCoal u k).coal n = if n = u then k else s.coal n := SMap.getD_set u n k _ s.coals

theorem waiting_setCoal {s : State} {u : Nat} {k : Coal} (hk : k.waiting = (s.coal u).waiting) (n : Nat) :
    ((s.setCoal u k).coal n).waiting = (s.coal n).waiting := by
  rw [coal_setCoal_of]
  split <;> simp_all

theorem coal_bufferIn (s : State) (b : Nat) (r : FRec) (n : Nat) : (s.bufferIn b r).coal n = s.coal n := by
  unfold State.bufferIn
  dsimp only
  split <;> rfl

theorem waiting_takeReport (s : State) (u : Nat) (r : FRec) (n : Nat) :
    ((s.takeReport u r).1.coal n).waiting = (s.coal n).waiting := by
  unfold State.takeReport
  dsimp only
  split
  · exact waiting_setCoal (by rfl) n
  split
  · rfl
  split
  · split
    · exact waiting_setCoal (by rfl) n
    · rw [waiting_setCoal (by rw [coal_bufferIn]), coal_bufferIn]
  · exact waiting_setCoal (by rfl) n

theorem untaken_sendTo (s : State) (u : Nat) {r : FRec} (hr : r.cause ≠ cNotPresent) (n ctx page : Nat) :
    (s.sendTo u r).untaken n ctx page = s.untaken n ctx page := by
  have htake (t : State) (ht : (s.takeReport u r).1 = t) : t.untaken n ctx page = s.untaken n ctx page := by
    rw [State.untaken, ← ht, waiting_takeReport, State.untaken]
  unfold State.sendTo
  split
  next t ht => exact htake t (congrArg Prod.fst ht)
  next t ht =>
    rw [← htake t (congrArg Prod.fst ht), State.untaken, State.reportWaits, coal_setCoal_of, State.untaken]
    split
    · simp_all
    · rfl

theorem coals_leave (s : State) (g : Nat) : (s.leave g).coals = s.coals := by
  unfold State.leave
  split <;> rfl

theorem coals_evict (s : State) (g : Nat) (keep : MemOp → Bool) (kr : Bool) : (s.evict g keep kr).coals = s.coals := by
  unfold State.evict
  split
  · rfl
  · exact coals_leave (s.discard g keep kr) g

theorem untaken_of_coals {s t : State} (h : t.coals = s.coals) (n ctx page : Nat) :
    t.untaken n ctx page = s.untaken n ctx page := by
  simp only [State.untaken, State.coal, h]

theorem untaken_setCtxState (s : State) (c : Nat) (st : CtxState) (n ctx page : Nat) :
    (s.setCtxState c st).untaken n ctx page = s.untaken n ctx page := rfl

theorem untaken_resetGroup (s : State) (g n ctx page : Nat) :
    (s.resetGroup g).untaken n ctx page = s.untaken n ctx page := by
  unfold State.resetGroup
  split
  · rfl
  next gr _ =>
    rw [untaken_of_coals (coals_evict ..)]
    split
    · exact untaken_sendTo s _ (show cForced ≠ cNotPresent by decide) n ctx page
    · rfl

theorem untaken_forceReset (s : State) (c n ctx page : Nat) :
    (s.forceReset c).untaken n ctx page = s.untaken n ctx page :=
  (untaken_sendTo _ unitS (show cForced ≠ cNotPresent by decide) n ctx page).trans
    (foldl_rel (R := fun (s t : State) => t.untaken n ctx page = s.untaken n ctx page) (fun _ => rfl)
      (fun _ _ _ h k => k.trans h) _ (fun s g => untaken_resetGroup s g n ctx page) _ s)

theorem untaken_endCont (s : State) (x : Grid) (c : Cont) {cause : Nat} (hc : cause ≠ cNotPresent) (va : Option Nat)
    (n ctx page : Nat) : (s.endCont x c cause va).untaken n ctx page = s.untaken n ctx page := by
  simp -zeta only [State.endCont]
  extract_lets e u policy v w
  have hu : u.untaken n ctx page = s.untaken n ctx page := untaken_sendTo s unitS hc n ctx page
  split
  · exact (untaken_setCtxState (u.forceReset x.ctx) ..).trans ((untaken_forceReset ..).trans hu)
  split
  · exact (untaken_of_coals (by rfl) n ctx page).trans hu
  · exact (untaken_of_coals (by rfl) n ctx page).trans hu

theorem untaken_serviceGrid (s : State) (x : Grid) (va : Nat) (failed : Bool) (n ctx page : Nat) :
    (s.serviceGrid x va failed).untaken n ctx page = s.untaken n ctx page := by
  unfold State.serviceGrid
  refine foldl_rel (R := fun (s t : State) => t.untaken n ctx page = s.untaken n ctx page) (fun _ => rfl)
    (fun _ _ _ h k => k.trans h) _ (fun s c => ?_) _ s
  dsimp only
  split
  · exact untaken_endCont _ _ _ (by decide) _ n ctx page
  · rfl

theorem untaken_gridsServiced (s : State) (c va : Nat) (failed : Bool) (n ctx page : Nat) :
    (s.gridsServiced c va failed).untaken n ctx page = s.untaken n ctx page := by
  unfold State.gridsServiced
  split
  · rfl
  · exact foldl_rel (R := fun (s t : State) => t.untaken n ctx page = s.untaken n ctx page) (fun _ => rfl)
      (fun _ _ _ h k => k.trans h) _ (fun s x => untaken_serviceGrid s x va failed n ctx page) _ s

/-- A service that fails ends each task that waits in the range, unless it is halted or a report of it has not been taken. -/
theorem serviced_ends {s : State} {ctx va g : Nat} {gr : Group} (h : s.grp g = some gr) (hc : gr.ctx = ctx)
    (hn : gr.halting = none) (hu : s.untaken (coreOf g) ctx va = false) (hw : gr.waitsIn va ≠ none) :
    (s.serviced ctx va true).ended g := by
  obtain ⟨u, hgroups, hcoals, -, -, heq⟩ := serviced_eq s ctx va true
  have hu' : (u.gridsServiced ctx va true).untaken (coreOf g) ctx va = false := by
    rw [untaken_gridsServiced, untaken_of_coals hcoals, hu]
  rw [heq]
  obtain hg | hg := (TasksEnd.of_groups hgroups).trans (tasksEnd_gridsServiced u ctx va true) g
  · exact foldl_serviceGroup_ends hw hn (takenGroups_of_grp (hg.trans h) hc hu') (.inl (hg.trans h))
  · exact (tasksEnd_foldl (fun s g => tasksEnd_serviceGroup s g va) _ _).ended hg

end Sys2Proof.Machine
end

section
/-!
SUPPORT. What a service leaves of the package's command registers, and the write of pkg.fsvc (16 R364; 17 R379).
-/

namespace Sys2Proof.Machine

theorem fsvc_of_besideReset {s t : State} (h : t.besideReset = s.besideReset) : t.pkg.fsvc = s.pkg.fsvc :=
  congrArg (·.2.2.2.fsvc) h

theorem fsvc_takeReport (s : State) (u : Nat) (r : FRec) : (s.takeReport u r).1.pkg.fsvc = s.pkg.fsvc :=
  show (s.takeReport u r).1.besideRecords.pkg.fsvc = s.besideRecords.pkg.fsvc by rw [besideRecords_takeReport]

theorem fsvc_finishTask (s : State) (g : Nat) (restart : Bool) : (s.finishTask g restart).pkg.fsvc = s.pkg.fsvc := by
  cases h : s.grp g with
  | none => rw [finishTask_absent h]
  | some gr =>
    obtain ⟨u, hu, hb⟩ | hu := finishTask_cases h restart
    · rw [hu]
      exact fsvc_of_besideReset ((besideReset_leave u g).trans hb)
    · rw [hu]
      exact fsvc_of_besideReset (s := s) (t := s.forceReset gr.ctx) (besideReset_forceReset s gr.ctx)

theorem fsvc_stopTask (s : State) (g : Nat) (r : FRec) (restart : Bool) :
    (s.stopTask g r restart).pkg.fsvc = s.pkg.fsvc := by
  cases h : s.grp g with
  | none => simp only [State.stopTask, h]
  | some gr =>
    simp -zeta only [State.stopTask, h]
    extract_lets keep u d v
    have hu : u.pkg.fsvc = s.pkg.fsvc := by
      unfold u
      split
      · exact fsvc_of_besideReset (besideReset_evict ..)
      · rfl
    have htake := (fsvc_takeReport v r.core r).trans hu
    split
    next t ht =>
      rw [ht] at htake
      exact (fsvc_finishTask t g restart).trans htake
    next t ht =>
      rw [ht] at htake
      exact htake

theorem fsvc_endCont (s : State) (x : Grid) (c : Cont) (cause : Nat) (va : Option Nat) :
    (s.endCont x c cause va).pkg.fsvc = s.pkg.fsvc := by
  simp -zeta only [State.endCont]
  extract_lets e u policy v w
  have hu : u.pkg.fsvc = s.pkg.fsvc := fsvc_of_besideReset (besideReset_sendTo ..)
  split
  · exact (fsvc_of_besideReset (besideReset_forceReset u x.ctx)).trans hu
  split
  · exact hu
  · exact hu

theorem fsvc_serviceGrid (s : State) (x : Grid) (va : Nat) (failed : Bool) :
    (s.serviceGrid x va failed).pkg.fsvc = s.pkg.fsvc := by
  unfold State.serviceGrid
  refine foldl_rel (R := fun (s t : State) => t.pkg.fsvc = s.pkg.fsvc) (fun _ => rfl) (fun _ _ _ h k => k.trans h) _
    (fun s c => ?_) _ s
  dsimp only
  split
  · exact fsvc_endCont ..
  · rfl

theorem fsvc_gridsServiced (s : State) (ctx va : Nat) (failed : Bool) :
    (s.gridsServiced ctx va failed).pkg.fsvc = s.pkg.fsvc := by
  unfold State.gridsServiced
  split
  · rfl
  · exact foldl_rel (R := fun (s t : State) => t.pkg.fsvc = s.pkg.fsvc) (fun _ => rfl) (fun _ _ _ h k => k.trans h) _
      (fun s x => fsvc_serviceGrid s x va failed) _ s

theorem fsvc_serviceGroup (s : State) (g va : Nat) (failed : Bool) :
    (s.serviceGroup g va failed).pkg.fsvc = s.pkg.fsvc := by
  unfold State.serviceGroup
  split
  · rfl
  split
  · rfl
  split
  · rfl
  split
  · exact fsvc_stopTask ..
  · rfl

theorem fsvc_serviced (s : State) (ctx va : Nat) (failed : Bool) :
    (s.serviced ctx va failed).pkg.fsvc = s.pkg.fsvc := by
  obtain ⟨u, -, -, hpkg, -, heq⟩ := serviced_eq s ctx va failed
  rw [heq, ← hpkg, ← fsvc_gridsServiced u ctx va failed]
  exact foldl_rel (R := fun (s t : State) => t.pkg.fsvc = s.pkg.fsvc) (fun _ => rfl) (fun _ _ _ h k => k.trans h) _
    (fun s g => fsvc_serviceGroup s g va failed) _ _

theorem fsvc_busy {s : State} (h : s.pkg.fsvc.busy = true) (failed : Bool) (ctx : BitVec 12) (va : BitVec 32)
    (rsv : Bool) : s.fsvc failed ctx va rsv = s := by
  simp [State.fsvc, h]

theorem fsvc_reserved {s : State} (h : s.pkg.fsvc.busy = false) (failed : Bool) (ctx : BitVec 12) (va : BitVec 32) :
    s.fsvc failed ctx va true = s.modPkg fun p => { p with fsvc := { p.fsvc with bad := true } } := by
  simp [State.fsvc, h, State.modPkg]

theorem fsvc_starts {s : State} (h : s.pkg.fsvc.busy = false) (failed : Bool) (ctx : BitVec 12) (va : BitVec 32) :
    s.fsvc failed ctx va false = (s.modPkg fun p =>
      { p with fsvc := ⟨true, false, if failed then 1 else 0, ctx, va.setWidth 42⟩ }).serviced ctx.toNat va.toNat failed := by
  simp [State.fsvc, h, State.modPkg]

/-- The writes of pkg.fsvc that no service comes of. -/
theorem fsvc_refused (s : State) (failed : Bool) (ctx : BitVec 12) (va : BitVec 32) (r : BitVec 17) {o : Out}
    (ho : o = .next (s.fsvc failed ctx va (r != 0))) :
    (s.pkg.fsvc.busy = true → o = .next s)
      ∧ (s.pkg.fsvc.busy = false → r ≠ 0 →
          o = .next (s.modPkg fun p => { p with fsvc := { p.fsvc with bad := true } })) := by
  subst ho
  exact ⟨fun hb => by rw [fsvc_busy hb], fun hb hr => by rw [bne_iff_ne.2 hr, fsvc_reserved hb]⟩

/-- A report that waits is that of a unit that the coalescers list. -/
theorem any_untaken_iff (s : State) (ctx page : Nat) :
    (s.coals.any fun k => s.untaken k.1 ctx page) = true ↔ ∃ u, s.untaken u ctx page = true := by
  rw [List.any_eq_true]
  refine ⟨fun ⟨k, _, hk⟩ => ⟨k.1, hk⟩, fun ⟨u, hu⟩ => ?_⟩
  cases h : SMap.get? u s.coals with
  | none => simp [State.untaken, State.coal, SMap.getD, h] at hu
  | some k => exact ⟨(u, k), SMap.mem_of_get? h, hu⟩

theorem execFsvcDone_waits {s : State}
    (h : s.pkg.fsvc.busy = false ∨ ∃ u, s.untaken u s.pkg.fsvc.ctx.toNat s.pkg.fsvc.arg.toNat = true) :
    execFsvcDone s = .next s := by
  rw [← any_untaken_iff] at h
  obtain h | h := h <;> simp [execFsvcDone, h]

theorem execFsvcDone_ends {s : State} (hb : s.pkg.fsvc.busy = true)
    (h : ∀ u, s.untaken u s.pkg.fsvc.ctx.toNat s.pkg.fsvc.arg.toNat = false) :
    execFsvcDone s = .next (s.modPkg fun p => { p with fsvc := { p.fsvc with busy := false } }) := by
  have hany : (s.coals.any fun k => s.untaken k.1 s.pkg.fsvc.ctx.toNat s.pkg.fsvc.arg.toNat) = false := by
    rw [← Bool.not_eq_true, any_untaken_iff]
    simp [h]
  simp [execFsvcDone, hb, hany, State.modPkg]

end Sys2Proof.Machine
end

section
/-!
SUPPORT. pkg.ctxcmd (16 R371, R372; 17 R379): each command, and what a forced reset and a destruction leave of a context.
-/

namespace Sys2Proof.Machine

-- What a command leaves ---------------------------------------------------------------------------

theorem groupsOf_forceReset (s : State) (c g : Nat) : ((s.forceReset c).grp g).all (fun y => y.ctx != c) = true := by
  rw [State.forceReset, grp_sendTo]
  show ((((s.groups.filter fun x => x.2.ctx == c).map (·.1)).foldl State.resetGroup s).grp g).all _ = true
  rw [grp_foldl_resetGroup]
  split
  · rfl
  next hg =>
    cases h : s.grp g with
    | none => rfl
    | some gr =>
      by_contra hc
      exact hg (List.mem_map.2 ⟨(g, gr), List.mem_filter.2 ⟨SMap.mem_of_get? h, by simpa using hc⟩, rfl⟩)

/-- Each grid is still there, and with it each of its continuations. -/
def ContsGrow (s t : State) : Prop :=
  ∀ key x, s.gridOf key = some x → ∃ y, t.gridOf key = some y ∧ ∀ c ∈ x.conts, ∃ d ∈ y.conts, d.index = c.index

theorem ContsGrow.trans {s t u : State} (h : ContsGrow s t) (k : ContsGrow t u) : ContsGrow s u := by
  intro key x hx
  obtain ⟨y, hy, hxy⟩ := h key x hx
  obtain ⟨z, hz, hyz⟩ := k key y hy
  refine ⟨z, hz, fun c hc => ?_⟩
  obtain ⟨d, hd, hdc⟩ := hxy c hc
  obtain ⟨e, he, hed⟩ := hyz d hd
  exact ⟨e, he, hed.trans hdc⟩

theorem ContsGrow.of_map {s t : State} (f : Grid → Grid) (ht : t.grids = s.grids.map f)
    (hkey : ∀ x, (f x).id = x.id ∧ (f x).ctx = x.ctx) (hconts : ∀ x, ∀ c ∈ x.conts, ∃ d ∈ (f x).conts, d.index = c.index) :
    ContsGrow s t := by
  intro key x hx
  refine ⟨f x, ?_, hconts x⟩
  have hcomp : (fun x : Grid => x.id == key % 2 ^ 32 && x.ctx == key / 2 ^ 32) ∘ f
      = fun x => x.id == key % 2 ^ 32 && x.ctx == key / 2 ^ 32 := by
    funext x
    simp [hkey x]
  rw [State.gridOf, State.grid, ht, List.find?_map, hcomp]
  exact congrArg (Option.map f) hx

theorem ContsGrow.of_grids {s t : State} (h : t.grids = s.grids) : ContsGrow s t :=
  .of_map id (h.trans (List.map_id _).symm) (fun _ => ⟨rfl, rfl⟩) fun _ c hc => ⟨c, hc, rfl⟩

theorem ContsGrow.continues {s t : State} (h : ContsGrow s t) {key i : Nat} (hs : s.continues key i fun _ => True) :
    t.continues key i fun _ => True := by
  obtain ⟨x, c, hx, hc, rfl, -⟩ := hs
  obtain ⟨y, hy, hxy⟩ := h key x hx
  obtain ⟨d, hd, hdc⟩ := hxy c hc
  exact ⟨y, d, hy, hd, hdc, trivial⟩

/-- What a continuation put to a grid makes of that grid. -/
def Grid.withCont (c : Cont) (x : Grid) : Grid :=
  { x with conts := x.conts ++ (if x.conts.any fun y => y.index == c.index then [] else [c]) }

theorem withCont_has (c : Cont) (x : Grid) : ∃ d ∈ (x.withCont c).conts, d.index = c.index := by
  unfold Grid.withCont
  split
  next h =>
    obtain ⟨y, hy, hc⟩ := List.any_eq_true.1 h
    exact ⟨y, by simpa using hy, by simpa using hc⟩
  · exact ⟨c, by simp, rfl⟩

theorem grids_toCont (s : State) (gr : Group) (c : Cont) :
    (s.toCont gr c).grids = s.grids.map fun x => if x.id == gr.grid && x.ctx == gr.ctx then x.withCont c else x := rfl

theorem contsGrow_toCont (s : State) (gr : Group) (c : Cont) : ContsGrow s (s.toCont gr c) := by
  refine .of_map _ (grids_toCont s gr c) (fun x => ?_) fun x d hd => ?_
  · split <;> exact ⟨rfl, rfl⟩
  · split
    · exact ⟨d, List.mem_append_left _ hd, rfl⟩
    · exact ⟨d, hd, rfl⟩

theorem gridOf_gridKey (s : State) {ctx id : Nat} (h : id < 2 ^ 32) : s.gridOf (gridKey ctx id) = s.grid id ctx := by
  have hid : gridKey ctx id % 2 ^ 32 = id := by unfold gridKey; omega
  have hctx : gridKey ctx id / 2 ^ 32 = ctx := by unfold gridKey; omega
  rw [State.gridOf, hid, hctx]

/-- A change of one grid that keeps its name. -/
theorem grid_modGrid (s : State) (i c : Nat) {f : Grid → Grid} (hf : ∀ x, (f x).id = x.id ∧ (f x).ctx = x.ctx) :
    (s.modGrid i c f).grid i c = (s.grid i c).map f := by
  have hcomp : (fun x : Grid => x.id == i && x.ctx == c) ∘ (fun x => if x.id == i && x.ctx == c then f x else x)
      = fun x => x.id == i && x.ctx == c := by
    funext x
    dsimp only [Function.comp]
    split
    · rw [(hf x).1, (hf x).2]
    · rfl
  show (s.grids.map _).find? _ = _
  rw [List.find?_map, hcomp, State.grid]
  cases h : s.grids.find? fun x => x.id == i && x.ctx == c with
  | none => rfl
  | some x => exact congrArg some (if_pos (List.find?_some h))

theorem continues_toCont {s : State} {gr : Group} {x : Grid} (h : gr.grid < 2 ^ 32)
    (hx : s.gridOf (gridKey gr.ctx gr.grid) = some x) (c : Cont) :
    (s.toCont gr c).continues (gridKey gr.ctx gr.grid) c.index fun _ => True := by
  obtain ⟨d, hd, hdc⟩ := withCont_has c x
  refine ⟨x.withCont c, d, ?_, hd, hdc, trivial⟩
  rw [gridOf_gridKey _ h] at hx ⊢
  exact (grid_modGrid s gr.grid gr.ctx (f := Grid.withCont c) fun _ => ⟨rfl, rfl⟩).trans (congrArg (Option.map (Grid.withCont c)) hx)

theorem grids_leave (s : State) (g : Nat) : (s.leave g).grids = s.grids := by
  unfold State.leave
  split <;> rfl

theorem grids_evict (s : State) (g : Nat) (keep : MemOp → Bool) (kr : Bool) : (s.evict g keep kr).grids = s.grids := by
  unfold State.evict
  split
  · rfl
  · exact grids_leave (s.discard g keep kr) g

theorem grids_sendTo (s : State) (u : Nat) (r : FRec) : (s.sendTo u r).grids = s.grids :=
  show (s.sendTo u r).besideRecords.grids = s.besideRecords.grids by rw [besideRecords_sendTo]

/-- A group that is reset continues. -/
theorem resetGroup_eq {s : State} {g : Nat} {gr : Group} (h : s.grp g = some gr) :
    ∃ u : State, u.grids = s.grids ∧ s.resetGroup g = (u.toCont gr (gr.cont 0 [])).evict g (fun op => op.passed.isSome) false := by
  simp only [State.resetGroup, h]
  refine ⟨_, ?_, rfl⟩
  split
  · exact grids_sendTo ..
  · rfl

theorem contsGrow_resetGroup (s : State) (g : Nat) : ContsGrow s (s.resetGroup g) := by
  cases h : s.grp g with
  | none =>
    simp only [State.resetGroup, h]
    exact .of_grids rfl
  | some gr =>
    obtain ⟨u, hu, hr⟩ := resetGroup_eq h
    rw [hr]
    exact (ContsGrow.of_grids hu).trans ((contsGrow_toCont u gr _).trans (.of_grids (grids_evict ..)))

theorem resetGroup_continues {s : State} {g : Nat} {gr : Group} {x : Grid} (h : s.grp g = some gr) (hlt : gr.grid < 2 ^ 32)
    (hx : s.gridOf (gridKey gr.ctx gr.grid) = some x) :
    (s.resetGroup g).continues (gridKey gr.ctx gr.grid) gr.index fun _ => True := by
  obtain ⟨u, hu, hr⟩ := resetGroup_eq h
  obtain ⟨y, hy, -⟩ := ContsGrow.of_grids hu _ x hx
  rw [hr]
  exact (ContsGrow.of_grids (grids_evict ..)).continues (continues_toCont hlt hy (gr.cont 0 []))

theorem contsGrow_foldl (gs : List Nat) (s : State) : ContsGrow s (gs.foldl State.resetGroup s) :=
  foldl_rel (fun _ => .of_grids rfl) (fun _ _ _ h k => h.trans k) _ contsGrow_resetGroup gs s

theorem foldl_resetGroup_continues {g : Nat} {gr : Group} {gs : List Nat} (hg : g ∈ gs) (hlt : gr.grid < 2 ^ 32) {s : State}
    {x : Grid} (h : s.grp g = some gr) (hx : s.gridOf (gridKey gr.ctx gr.grid) = some x) :
    (gs.foldl State.resetGroup s).continues (gridKey gr.ctx gr.grid) gr.index fun _ => True := by
  induction gs generalizing s x with
  | nil => cases hg
  | cons a t ih =>
    rw [List.foldl_cons]
    by_cases ha : g = a
    · subst ha
      exact (contsGrow_foldl t _).continues (resetGroup_continues h hlt hx)
    · obtain ⟨y, hy, -⟩ := contsGrow_resetGroup s a _ x hx
      exact ih (List.mem_of_ne_of_mem ha hg) (by rw [grp_resetGroup, if_neg ha, h]) hy

theorem contsGrow_recall (s : State) (c : Nat) : ContsGrow s (s.recall c) := by
  refine .of_map _ rfl (fun x => ⟨rfl, rfl⟩) fun x k hk => ?_
  dsimp only
  split
  · refine ⟨_, List.mem_map_of_mem hk, ?_⟩
    split <;> rfl
  · exact ⟨k, hk, rfl⟩

/-- A group of a context that is reset by force continues. -/
theorem forceReset_continues {s : State} {g c : Nat} {gr : Group} {x : Grid} (h : s.grp g = some gr) (hc : gr.ctx = c)
    (hlt : gr.grid < 2 ^ 32) (hx : s.gridOf (gridKey c gr.grid) = some x) :
    (s.forceReset c).continues (gridKey c gr.grid) gr.index fun _ => True := by
  subst hc
  have hmem : g ∈ (s.groups.filter fun x => x.2.ctx == gr.ctx).map (·.1) :=
    List.mem_map.2 ⟨(g, gr), List.mem_filter.2 ⟨SMap.mem_of_get? h, by simp⟩, rfl⟩
  have hfold := foldl_resetGroup_continues hmem hlt h hx
  unfold State.forceReset
  dsimp only
  generalize List.foldl State.resetGroup s _ = u at hfold
  refine (ContsGrow.of_grids (grids_sendTo ..)).continues ((contsGrow_recall _ gr.ctx).continues ?_)
  exact (ContsGrow.of_grids (s := u) (by rfl)).continues hfold

-- What a recall and a destruction leave -------------------------------------------------------------

theorem die_recall (s : State) (c n : Nat) :
    (s.recall c).die n = { s.die n with waiting := (s.die n).waiting.filter fun x => x.1 / 2 ^ 32 != c } :=
  SMap.getD_map (fun _ (d : Die) => { d with waiting := d.waiting.filter fun x => x.1 / 2 ^ 32 != c }) (fun _ => rfl) n
    s.dies

theorem waiting_recall (s : State) (c n : Nat) : ∀ y ∈ ((s.recall c).die n).waiting, y.1 / 2 ^ 32 ≠ c := by
  simp [die_recall]

theorem hold_recall (s : State) (c : Nat) : ∀ z ∈ (s.recall c).grids, z.ctx = c → ∀ k ∈ z.conts, k.hold ≠ 3 := by
  intro z hz hc k hk
  obtain ⟨x, -, rfl⟩ := List.mem_map.1 hz
  simp only [show x.ctx = c from hc, if_true] at hk
  obtain ⟨k', -, rfl⟩ := List.mem_map.1 hk
  split
  · exact Nat.zero_ne_add_one 2
  next h => exact h

theorem context_setCtxState (s : State) (c : Nat) (st : CtxState) :
    ((s.setCtxState c st).context c).map Ctx.st = (s.context c).map fun _ => st := by
  show (SMap.get? c (SMap.mod c _ s.ctxs)).map Ctx.st = (SMap.get? c s.ctxs).map _
  rw [SMap.get?_mod, if_pos rfl, Option.map_map]
  rfl

theorem ctxs_recall (s : State) (c : Nat) : (s.recall c).ctxs = s.ctxs := rfl

theorem groupsOf_destroyed (s : State) (c g : Nat) : ((s.destroyed c).grp g).all (fun y => y.ctx != c) = true :=
  groupsOf_forceReset s c g

theorem context_destroyed (s : State) (c : Nat) : (s.destroyed c).context c = none :=
  (SMap.get?_erase c c _).trans (if_pos rfl)

theorem grids_destroyed (s : State) (c : Nat) : ∀ y ∈ (s.destroyed c).grids, y.ctx ≠ c := by
  intro y hy
  simpa using (List.mem_filter.1 hy).2

theorem tlbs_destroyed (s : State) (c : Nat) :
    (∀ n, ∀ e ∈ ((s.destroyed c).core n).tlb, e.ctx ≠ c) ∧ ∀ e ∈ (s.destroyed c).ttc, e.ctx ≠ c := by
  obtain ⟨hcore, -, -, httc⟩ := dropTlbs_drops { s.forceReset c with
    grids := (s.forceReset c).grids.filter fun x => x.ctx != c
    queries := (s.forceReset c).queries.filter fun q => q.2.grid / 2 ^ 32 != c
    walks := (s.forceReset c).walks.filter fun w => w.ctx != c
    ctxs := SMap.erase c (s.forceReset c).ctxs } (.context c)
  simp only [XScope.leaf, beq_eq_false_iff_ne] at hcore httc
  exact ⟨hcore, httc⟩

theorem ctxcmd_of_besideReset {s t : State} (h : t.besideReset = s.besideReset) : t.pkg.ctxcmd = s.pkg.ctxcmd :=
  congrArg (·.2.2.2.ctxcmd) h

-- The commands ------------------------------------------------------------------------------------

theorem st_descriptorOf {tag clk : Nat} {bs : List Byte} {d : Ctx} (h : descriptorOf tag clk bs = some d) :
    d.st = .running := by
  unfold descriptorOf at h
  dsimp only at h
  split at h
  · cases h
    rfl
  · cases h

section Commands
variable {s : State} {ctx : BitVec 12} {arg : BitVec 42}

theorem ctxCommand_down {cmd : BitVec 3} (h : ¬ (s.pkg.up = true ∨ bringsUp cmd ctx = true)) (rsv : Bool) :
    s.ctxCommand cmd ctx arg rsv = s.ctxBad := by
  simp only [not_or, Bool.not_eq_true] at h
  simp [State.ctxCommand, h]

theorem ctxCommand_busy {cmd : BitVec 3} (h : s.pkg.up = true ∨ bringsUp cmd ctx = true)
    (hb : s.pkg.ctxcmd.busy = true) (rsv : Bool) : s.ctxCommand cmd ctx arg rsv = s := by
  have hup : (!s.pkg.up && !bringsUp cmd ctx) = false := by obtain h | h := h <;> simp [h]
  simp [State.ctxCommand, hup, hb]

theorem ctxCommand_reserved {cmd : BitVec 3} (h : s.pkg.up = true ∨ bringsUp cmd ctx = true)
    (hb : s.pkg.ctxcmd.busy = false) : s.ctxCommand cmd ctx arg true = s.ctxBad := by
  have hup : (!s.pkg.up && !bringsUp cmd ctx) = false := by obtain h | h := h <;> simp [h]
  simp [State.ctxCommand, hup, hb]

/-- The writes of pkg.ctxcmd that no command comes of. -/
theorem ctxCommand_refused {cmd : BitVec 3} {may : Prop} (hmay : may ↔ s.pkg.up = true ∨ bringsUp cmd ctx = true)
    (r : BitVec 5) {o : Out} (ho : o = .next (s.ctxCommand cmd ctx arg (r != 0))) :
    (¬ may → o = .next s.ctxBad) ∧ (may → s.pkg.ctxcmd.busy = true → o = .next s)
      ∧ (may → s.pkg.ctxcmd.busy = false → r ≠ 0 → o = .next s.ctxBad) := by
  subst ho
  rw [hmay]
  refine ⟨fun h => by rw [ctxCommand_down h], fun h hb => by rw [ctxCommand_busy h hb], fun h hb hr => ?_⟩
  rw [bne_iff_ne.2 hr, ctxCommand_reserved h hb]

theorem ctxCommand_create_eq (h : s.pkg.up = true ∨ bringsUp 1 ctx = true) (hb : s.pkg.ctxcmd.busy = false)
    (hx : s.context ctx.toNat = none) :
    s.ctxCommand 1 ctx arg false
      = if arg.toNat % 64 ≠ 0 ∨ s.pkg.dieLive (arg.toNat / 2 ^ 38) = false then s.ctxBad
        else (descriptorOf ctx.toNat s.clk (memRead s.mem arg.toNat 64)).elim s.ctxBad fun d =>
          { s with ctxs := SMap.set ctx.toNat d s.ctxs, pkg := { s.pkg with up := true } }.ctxTook false 1 ctx arg := by
  have hup : (!s.pkg.up && !bringsUp 1 ctx) = false := by
    obtain h | h := h
    · rw [h]
      rfl
    · rw [h, Bool.not_true, Bool.and_false]
  simp only [State.ctxCommand, hup, hb, hx, Bool.false_eq_true, if_false, show (1 : BitVec 3).toNat = 1 from rfl,
    bne_iff_ne, Bool.or_eq_true, Bool.not_eq_true']
  cases descriptorOf ctx.toNat s.clk (memRead s.mem arg.toNat 64) <;> rfl

theorem ctxCommand_create (h : s.pkg.up = true ∨ bringsUp 1 ctx = true) (hb : s.pkg.ctxcmd.busy = false) {d : Ctx}
    (hx : s.context ctx.toNat = none) (ha : arg.toNat % 64 = 0) (hl : s.pkg.dieLive (arg.toNat / 2 ^ 38) = true)
    (hd : descriptorOf ctx.toNat s.clk (memRead s.mem arg.toNat 64) = some d) :
    s.ctxCommand 1 ctx arg false
      = { s with ctxs := SMap.set ctx.toNat d s.ctxs, pkg := { s.pkg with up := true } }.ctxTook false 1 ctx arg := by
  rw [ctxCommand_create_eq h hb hx, hl, hd, if_neg (by simp [ha])]
  rfl

theorem ctxCommand_create_bad (h : s.pkg.up = true ∨ bringsUp 1 ctx = true) (hb : s.pkg.ctxcmd.busy = false)
    (hx : s.context ctx.toNat ≠ none ∨ arg.toNat % 64 ≠ 0 ∨ s.pkg.dieLive (arg.toNat / 2 ^ 38) = false
      ∨ descriptorOf ctx.toNat s.clk (memRead s.mem arg.toNat 64) = none) :
    s.ctxCommand 1 ctx arg false = s.ctxBad := by
  cases hc : s.context ctx.toNat with
  | some y => simp [State.ctxCommand, hc, hb]
  | none =>
    rw [ctxCommand_create_eq h hb hc]
    obtain hx | hx | hx | hx := hx
    · exact absurd hc hx
    · rw [if_pos (.inl hx)]
    · rw [if_pos (.inr hx)]
    · rw [hx, Option.elim_none, ite_self]

theorem ctxCommand_absent {cmd : BitVec 3} (hcmd : cmd ≠ 1) (hup : s.pkg.up = true) (hb : s.pkg.ctxcmd.busy = false)
    (hx : s.context ctx.toNat = none) : s.ctxCommand cmd ctx arg false = s.ctxBad := by
  have h1 : cmd.toNat ≠ 1 := fun h => hcmd (BitVec.eq_of_toNat_eq h)
  simp [State.ctxCommand, hup, hb, hx, h1]

variable {x : Ctx} (hup : s.pkg.up = true) (hb : s.pkg.ctxcmd.busy = false) (hx : s.context ctx.toNat = some x)
include hup hb hx

theorem ctxCommand_drain :
    s.ctxCommand 2 ctx 0 false
      = ((s.recall ctx.toNat).setCtxState ctx.toNat (.draining s.clk)).ctxTook true 2 ctx 0 := by
  simp [State.ctxCommand, hup, hb, hx]

theorem ctxCommand_drainForced :
    s.ctxCommand 2 ctx 1 false = (s.forceDrained ctx.toNat).ctxTook false 2 ctx 1 := by
  simp [State.ctxCommand, hup, hb, hx]

theorem ctxCommand_resume (h : x.st = .drained ∨ x.st = .halted) :
    s.ctxCommand 3 ctx 0 false = (s.setCtxState ctx.toNat .running).ctxTook false 3 ctx 0 := by
  simp [State.ctxCommand, hup, hb, hx, h]

theorem ctxCommand_resume_bad (h : ¬ (arg = 0 ∧ (x.st = .drained ∨ x.st = .halted))) :
    s.ctxCommand 3 ctx arg false = s.ctxBad := by
  simp only [State.ctxCommand, hup, hb, hx, show (3 : BitVec 3).toNat = 3 from rfl]
  exact if_neg h

theorem ctxCommand_destroy :
    s.ctxCommand 4 ctx 0 false = (s.destroyed ctx.toNat).ctxTook false 4 ctx 0 := by
  simp [State.ctxCommand, hup, hb, hx]

theorem ctxCommand_releaseGrid {y : Grid} (hy : s.grid arg.toNat ctx.toNat = some y) :
    s.ctxCommand 5 ctx arg false
      = if y.heldHost then (s.modGrid y.id ctx.toNat fun z => { z with heldHost := false }).ctxTook false 5 ctx arg
        else s.ctxBad := by
  simp [State.ctxCommand, hup, hb, hx, hy]

-- What each command leaves -------------------------------------------------------------------------

theorem ctxDrain_leaves : let t := s.ctxCommand 2 ctx 0 false
    (t.pkg.ctxcmd = ⟨true, false, 2, ctx, 0⟩ ∧ SameMemory s t) ∧ SameRegisters s t
      ∧ (t.context ctx.toNat).map Ctx.st = some (.draining s.clk)
      ∧ (∀ n, ∀ y ∈ (t.die n).waiting, y.1 / 2 ^ 32 ≠ ctx.toNat)
      ∧ ∀ z ∈ t.grids, z.ctx = ctx.toNat → ∀ k ∈ z.conts, k.hold ≠ 3 := by
  have hst := context_setCtxState (s.recall ctx.toNat) ctx.toNat (.draining s.clk)
  rw [show (s.recall ctx.toNat).context ctx.toNat = some x from hx] at hst
  have hwaiting := waiting_recall s ctx.toNat
  have hhold := hold_recall s ctx.toNat
  have hmem := sameMemory_of_memories (memories_recall s ctx.toNat)
  have hregs : SameRegisters s (s.recall ctx.toNat) := sameRegisters_of_groups rfl
  rw [ctxCommand_drain hup hb hx]
  generalize s.recall ctx.toNat = u at *
  exact ⟨⟨rfl, hmem⟩, hregs, hst, hwaiting, hhold⟩

theorem ctxDrainForced_leaves : let t := s.ctxCommand 2 ctx 1 false
    (t.pkg.ctxcmd = ⟨false, false, 2, ctx, 1⟩ ∧ SameMemory s t) ∧ (t.context ctx.toNat).map Ctx.st = some .drained
      ∧ (∀ g, (t.grp g).all (fun y => y.ctx != ctx.toNat) = true)
      ∧ ∀ g gr z, s.grp g = some gr → gr.ctx = ctx.toNat → gr.grid < 2 ^ 32 →
          s.gridOf (gridKey ctx.toNat gr.grid) = some z →
          t.continues (gridKey ctx.toNat gr.grid) gr.index fun _ => True := by
  have hst := forceDrained_context s ctx.toNat ctx.toNat
  rw [if_pos rfl, hx] at hst
  have hgroups := groupsOf_forceReset s ctx.toNat
  have hconts (g : Nat) (gr : Group) (z : Grid) (hg : s.grp g = some gr) (hc : gr.ctx = ctx.toNat)
      (hlt : gr.grid < 2 ^ 32) (hz : s.gridOf (gridKey ctx.toNat gr.grid) = some z) :=
    forceReset_continues hg hc hlt hz
  have hmem := sameMemory_of_memories (memories_forceReset s ctx.toNat)
  rw [ctxCommand_drainForced hup hb hx]
  unfold State.forceDrained at hst ⊢
  generalize s.forceReset ctx.toNat = u at *
  exact ⟨⟨rfl, hmem⟩, congrArg (Option.map Ctx.st) hst, hgroups, hconts⟩

theorem ctxResume_leaves (h : x.st = .drained ∨ x.st = .halted) : let t := s.ctxCommand 3 ctx 0 false
    (t.pkg.ctxcmd = ⟨false, false, 3, ctx, 0⟩ ∧ SameMemory s t) ∧ (t.context ctx.toNat).map Ctx.st = some .running
      ∧ SameRegisters s t := by
  have hst := context_setCtxState s ctx.toNat .running
  rw [hx] at hst
  rw [ctxCommand_resume hup hb hx h]
  exact ⟨⟨rfl, sameMemory_of_eq rfl rfl⟩, hst, sameRegisters_of_groups rfl⟩

theorem ctxDestroy_leaves : let t := s.ctxCommand 4 ctx 0 false
    (t.pkg.ctxcmd = ⟨false, false, 4, ctx, 0⟩ ∧ SameMemory s t) ∧ t.context ctx.toNat = none
      ∧ (∀ y ∈ t.grids, y.ctx ≠ ctx.toNat) ∧ (∀ g, (t.grp g).all (fun y => y.ctx != ctx.toNat) = true)
      ∧ (∀ n, ∀ e ∈ (t.core n).tlb, e.ctx ≠ ctx.toNat) ∧ ∀ e ∈ t.ttc, e.ctx ≠ ctx.toNat := by
  have hmem := sameMemory_of_memories (memories_destroyed s ctx.toNat)
  have hctx := context_destroyed s ctx.toNat
  have hgrids := grids_destroyed s ctx.toNat
  have hgroups := groupsOf_destroyed s ctx.toNat
  have htlbs := tlbs_destroyed s ctx.toNat
  rw [ctxCommand_destroy hup hb hx]
  generalize s.destroyed ctx.toNat = u at *
  exact ⟨⟨rfl, hmem⟩, hctx, hgrids, hgroups, htlbs⟩

theorem ctxReleaseGrid_leaves {y : Grid} (hy : s.grid arg.toNat ctx.toNat = some y) (hh : y.heldHost = true) :
    let t := s.ctxCommand 5 ctx arg false
    (t.pkg.ctxcmd = ⟨false, false, 5, ctx, arg⟩ ∧ SameMemory s t)
      ∧ (t.grid arg.toNat ctx.toNat).map Grid.heldHost = some false ∧ SameRegisters s t := by
  have hfound := List.find?_some (p := fun x : Grid => x.id == arg.toNat && x.ctx == ctx.toNat) hy
  have hid : y.id = arg.toNat := beq_iff_eq.1 (Bool.and_eq_true_iff.1 hfound).1
  have hgrid := grid_modGrid s arg.toNat ctx.toNat (f := fun z => { z with heldHost := false }) fun _ => ⟨rfl, rfl⟩
  rw [hy] at hgrid
  rw [ctxCommand_releaseGrid hup hb hx hy, if_pos hh, hid]
  exact ⟨⟨rfl, sameMemory_of_eq rfl rfl⟩, congrArg (Option.map Grid.heldHost) hgrid, sameRegisters_of_groups rfl⟩

end Commands

end Sys2Proof.Machine
end

section
/-!
SUPPORT. The ends of drains, of time slices and of debug stops (15 R359; 16 R371, R372, R374).
-/

namespace Sys2Proof.Machine

theorem drainEnds_eq (s : State) (c : Nat) : s.drainEnds c
    = if s.drainBusy c then s.modPkg fun p => { p with ctxcmd := { p.ctxcmd with busy := false } } else s := rfl

theorem drainBusy_iff (s : State) (c : Nat) :
    s.drainBusy c = true ↔ s.pkg.ctxcmd.busy = true ∧ s.pkg.ctxcmd.cmd = 2 ∧ s.pkg.ctxcmd.ctx.toNat = c := by
  simp [State.drainBusy, and_assoc]

/-- The end of a drain clears BUSY of the command that asked for it, and nothing else. -/
theorem drainEnds_spec (s : State) (c : Nat) :
    (s.drainEnds c).ctxs = s.ctxs ∧ (s.drainEnds c).groups = s.groups ∧ (s.drainEnds c).memories = s.memories
      ∧ (s.pkg.ctxcmd.cmd = 2 → s.pkg.ctxcmd.ctx.toNat = c → (s.drainEnds c).pkg.ctxcmd.busy = false) := by
  have hiff := drainBusy_iff s c
  rw [drainEnds_eq]
  split
  · exact ⟨rfl, rfl, rfl, fun _ _ => rfl⟩
  next h =>
    refine ⟨rfl, rfl, rfl, fun hcmd hctx => ?_⟩
    rw [hiff] at h
    simpa [hcmd, hctx] using h

theorem any_onCore_iff (s : State) (core c : Nat) :
    ((s.onCore core).any fun g => g.2.ctx == c) = true ↔ ∃ y ∈ s.groups, coreOf y.1 = core ∧ y.2.ctx = c := by
  simp only [State.onCore, List.any_eq_true, List.mem_filter, beq_iff_eq, and_assoc]

section Drain
variable {s : State} {c : Nat} {x : Ctx} (hx : s.context c = some x)
include hx

theorem execDrainComplete_waits {n : Nat} (hst : x.st = .draining n) (h : ∃ y ∈ s.groups, y.2.ctx = c) :
    execDrainComplete c s = .next s := by
  simp [execDrainComplete, hx, hst, h]

theorem execDrainComplete_ends {n : Nat} (hst : x.st = .draining n) (h : ∀ y ∈ s.groups, y.2.ctx ≠ c) :
    execDrainComplete c s = .next ((s.setCtxState c .drained).drainEnds c) := by
  have hany : (s.groups.any fun g => g.2.ctx == c) = false := by simpa using h
  simp [execDrainComplete, hx, hst, hany]

theorem execDrainComplete_halted (hst : x.st = .halted) :
    execDrainComplete c s = if s.drainBusy c then .next (s.drainEnds c) else .next s := by
  simp [execDrainComplete, hx, hst]

theorem execDrainDeadline_eq {n : Nat} (core : Nat) (hst : x.st = .draining n) : execDrainDeadline c core s
    = if (∃ y ∈ s.groups, coreOf y.1 = core ∧ y.2.ctx = c) ∧ n + x.deadline ≤ s.clk then
        .next ((s.forceDrained c).drainEnds c)
      else .next s := by
  simp only [execDrainDeadline, hx, hst, Bool.and_eq_true, any_onCore_iff, decide_eq_true_eq]

theorem execDrainDeadline_waits {n core : Nat} (hst : x.st = .draining n)
    (h : s.clk < n + x.deadline ∨ ∀ y ∈ s.groups, y.2.ctx = c → coreOf y.1 ≠ core) :
    execDrainDeadline c core s = .next s := by
  rw [execDrainDeadline_eq hx core hst]
  refine if_neg fun ⟨⟨y, hy, hcore, hc⟩, hclk⟩ => ?_
  obtain h | h := h
  · omega
  · exact h y hy hc hcore

theorem execDrainDeadline_forces {n core : Nat} (hst : x.st = .draining n) (hclk : n + x.deadline ≤ s.clk)
    (h : ∃ y ∈ s.groups, y.2.ctx = c ∧ coreOf y.1 = core) :
    execDrainDeadline c core s = .next ((s.forceDrained c).drainEnds c) := by
  obtain ⟨y, hy, hc, hcore⟩ := h
  rw [execDrainDeadline_eq hx core hst]
  exact if_pos ⟨⟨y, hy, hcore, hc⟩, hclk⟩

/-- A drain that is complete leaves its context drained. -/
theorem drainEnds_leaves : let t := (s.setCtxState c .drained).drainEnds c
    SameMemory s t ∧ SameRegisters s t ∧ (t.context c).map Ctx.st = some .drained
      ∧ (s.pkg.ctxcmd.cmd = 2 → s.pkg.ctxcmd.ctx.toNat = c → t.pkg.ctxcmd.busy = false) := by
  obtain ⟨hctxs, hgroups, hmem, hbusy⟩ := drainEnds_spec (s.setCtxState c .drained) c
  refine ⟨sameMemory_of_memories hmem, sameRegisters_of_groups hgroups, ?_, hbusy⟩
  rw [State.context, hctxs]
  exact (context_setCtxState s c .drained).trans (congrArg (Option.map fun _ => CtxState.drained) hx)

/-- A drain that its deadline forces leaves no group of its context. -/
theorem forceDrained_leaves : let t := (s.forceDrained c).drainEnds c
    SameMemory s t ∧ (t.context c).map Ctx.st = some .drained ∧ ∀ g, (t.grp g).all (fun y => y.ctx != c) = true := by
  obtain ⟨hctxs, hgroups, hmem, -⟩ := drainEnds_spec (s.forceDrained c) c
  refine ⟨sameMemory_of_memories (hmem.trans (memories_forceDrained s c)), ?_, fun g => ?_⟩
  · have hst := forceDrained_context s c c
    rw [if_pos rfl, hx] at hst
    rw [State.context, hctxs]
    exact congrArg (Option.map Ctx.st) hst
  · rw [State.grp, hgroups]
    exact groupsOf_forceReset s c g

end Drain

theorem core_modCore_same (s : State) (c : Nat) (f : Core → Core) : (s.modCore c f).core c = f (s.core c) :=
  (SMap.getD_modD c c Core.empty f s.cores).trans (if_pos rfl)

section Slice
variable {s : State} {core c n : Nat} {x : Ctx} (hslice : (s.core core).slice = some (c, n, false))
  (hx : s.context c = some x)
include hslice hx

/-- The slice of a core is over where its context has a length, it has passed, and other contexts' groups wait. -/
theorem execTimeSliceExpiry_eq : execTimeSliceExpiry core s
    = if x.slice ≠ 0 ∧ n + x.slice ≤ s.clk ∧ (∃ y ∈ s.groups, coreOf y.1 = core ∧ y.2.ctx = c)
          ∧ ∃ y ∈ (s.die (dieOfCore core)).waiting, y.1 / 2 ^ 32 ≠ c then
        .next (s.modCore core fun k => { k with slice := some (c, n, true) })
      else .next s := by
  have hany : ((s.die (dieOfCore core)).waiting.any fun y => y.1 / 2 ^ 32 != c) = true
      ↔ ∃ y ∈ (s.die (dieOfCore core)).waiting, y.1 / 2 ^ 32 ≠ c := by
    simp only [List.any_eq_true, bne_iff_ne]
  simp only [execTimeSliceExpiry, hslice, hx, Bool.and_eq_true, bne_iff_ne, any_onCore_iff, decide_eq_true_eq, hany,
    and_assoc]

end Slice

-- A wave or sequencer that stands at a brk ---------------------------------------------------------

theorem sameRegisters_modWave (s : State) (g w : Nat) {f : Wave → Wave} (hf : ∀ wv, (f wv).regs = wv.regs) :
    SameRegisters s (s.modWave g w f) := by
  refine ⟨fun g' w' => ?_, fun g' => by rw [State.seqAt_modWave]⟩
  rw [State.waveAt_modWave]
  split
  next h =>
    rw [h.1, h.2, Option.map_map]
    congr 1
    funext wv
    exact hf wv
  · rfl

theorem sameRegisters_modSeq (s : State) (g : Nat) {f : Seq → Seq} (hf : ∀ q, (f q).regs = q.regs) :
    SameRegisters s (s.modSeq g f) := by
  refine ⟨fun g' w => by rw [State.waveAt_modSeq], fun g' => ?_⟩
  rw [State.seqAt_modSeq]
  split
  next h =>
    rw [h, Option.map_map]
    congr 1
    funext q
    exact hf q
  · rfl

section Brk
variable {s : State} {g : Nat} {gr : Group} (h : s.grp g = some gr)
include h

theorem execDebugRelease_wave {w : Nat} {wv : Wave} (hw : gr.waves[w]? = some wv) (sp : Nat) :
    let waits := s.holdUntaken (coreOf g) gr false [wv.place]
    let o := execDebugRelease (.split g w sp) s
    ((wv.held = false ∨ waits = true) → o = .next s)
      ∧ (wv.held = true → waits = false → ∃ t, o = .next t ∧ SameMemory s t ∧ SameRegisters s t
          ∧ (t.waveAt g w).map Wave.held = some false) := by
  have hwave : s.waveAt g w = some wv := by simp [State.waveAt, h, hw]
  have heq : execDebugRelease (.split g w sp) s
      = if wv.held && !s.holdUntaken (coreOf g) gr false [wv.place] then
          .next (s.modWave g w fun y => { y with held := false })
        else .next s := by
    simp only [execDebugRelease, h, hw]
  refine ⟨fun hno => heq.trans (if_neg ?_), fun hh hu => ⟨_, heq.trans (if_pos (by simp [hh, hu])),
    sameMemory_of_eq rfl rfl, sameRegisters_modWave s g w fun _ => rfl, ?_⟩⟩
  · obtain hno | hno := hno <;> simp [hno]
  · rw [State.waveAt_modWave, if_pos ⟨rfl, rfl⟩, hwave]
    rfl

theorem execDebugRelease_seq :
    let waits := s.holdUntaken (coreOf g) gr true []
    let o := execDebugRelease (.seq g) s
    ((gr.seq.held = false ∨ waits = true) → o = .next s)
      ∧ (gr.seq.held = true → waits = false → ∃ t, o = .next t ∧ SameMemory s t ∧ SameRegisters s t
          ∧ (t.seqAt g).map Seq.held = some false) := by
  have heq : execDebugRelease (.seq g) s
      = if gr.seq.held && !s.holdUntaken (coreOf g) gr true [] then
          .next (s.modSeq g fun y => { y with held := false })
        else .next s := by
    simp only [execDebugRelease, h]
  refine ⟨fun hno => heq.trans (if_neg ?_), fun hh hu => ⟨_, heq.trans (if_pos (by simp [hh, hu])),
    sameMemory_of_eq rfl rfl, sameRegisters_modSeq s g fun _ => rfl, ?_⟩⟩
  · obtain hno | hno := hno <;> simp [hno]
  · rw [State.seqAt_modSeq, if_pos rfl, State.seqAt, h]
    rfl

end Brk

end Sys2Proof.Machine
end

section
/-!
O52. Each clause is what the lemmas of its command or event say, whatever the state.
-/

namespace Sys2Proof.Machine

/-- Settles O52: a command register that is BUSY or whose word has a reserved bit answers by the first branches of its
write; the other clauses are what a drop of cached entries, a service, a forced reset and the ends of drains, slices and
debug stops leave. -/
theorem translationServiceAndContextCommands : Obligations.TranslationServiceAndContextCommands := by
  unfold Obligations.TranslationServiceAndContextCommands
  refine ⟨fun s ctx va r i k c hi => ?_, fun s => ⟨execXinvDone_waits, fun hb hc => ?_⟩, fun s ctx va r i failed hi => ?_,
    fun s => ⟨execFsvcDone_waits, fun hb hu => execFsvcDone_ends hb hu⟩, fun s ctx arg r => ?_, fun s c x n hx hst => ?_,
    fun s c x hx hst => ?_, fun s core c n x hs hx => ?_, fun s g w gr wv hg hw sp => ?_, fun s g gr hg => ?_⟩
  · simp only [List.mem_cons, List.not_mem_nil, or_false, Prod.mk.injEq] at hi
    obtain ⟨rfl, rfl, rfl⟩ | ⟨rfl, rfl, rfl⟩ | ⟨rfl, rfl, rfl⟩ := hi
    · exact xinv_spec s (k := 0) (by decide) c va r (xscopeOf_page c va) rfl
    · exact xinv_spec s (k := 1) (by decide) c va r (xscopeOf_context c _) rfl
    · exact xinv_spec s (k := 2) (by decide) 0 va r (xscopeOf_all 0 _) rfl
  · obtain ⟨hcore, -, -, httc⟩ := dropTlbs_drops (s.modPkg fun p => { p with xinv := { p.xinv with busy := false } })
      (xscopeOf s.pkg.xinv)
    exact ⟨_, execXinvDone_ends hb hc, rfl, sameMemory_of_eq rfl rfl, hcore, httc⟩
  · have hrefused := fsvc_refused s failed ctx va r rfl
    simp only [List.mem_cons, List.not_mem_nil, or_false, Prod.mk.injEq] at hi
    obtain ⟨rfl, rfl⟩ | ⟨rfl, rfl⟩ := hi
    · refine ⟨hrefused.1, hrefused.2, fun hb hr => ?_⟩
      subst hr
      exact ⟨_, congrArg Host.Outcome.next (fsvc_starts hb false ctx va), sameMemory_of_memories (memories_serviced ..),
        congrArg CmdReg.busy (fsvc_serviced ..), congrArg CmdReg.bad (fsvc_serviced ..),
        fun _ => serviced_goesOn _ ctx.toNat va.toNat, Bool.noConfusion⟩
    · refine ⟨hrefused.1, hrefused.2, fun hb hr => ?_⟩
      subst hr
      exact ⟨_, congrArg Host.Outcome.next (fsvc_starts hb true ctx va), sameMemory_of_memories (memories_serviced ..),
        congrArg CmdReg.busy (fsvc_serviced ..), congrArg CmdReg.bad (fsvc_serviced ..), Bool.noConfusion,
        fun _ g gr hg hc hn hu hw => serviced_ends hg hc hn hu hw⟩
  · intro c bad ready starts first took st
    have hstarts : starts ↔ bringsUp 1 ctx = true := by simp [starts, bringsUp]
    have hcreate : ready ∨ first → (s.pkg.up = true ∨ bringsUp 1 ctx = true) ∧ s.pkg.ctxcmd.busy = false ∧ r = 0 := by
      rintro (⟨hup, hb, hr⟩ | ⟨hs, hb, hr⟩)
      · exact ⟨.inl hup, hb, hr⟩
      · exact ⟨.inr (hstarts.1 hs), hb, hr⟩
    refine ⟨fun i hi => ?_, fun d hready hx ha hl hd => ?_, fun hready hx => ?_, fun x ⟨hup, hb, hr⟩ hx => ?_,
      fun x ⟨hup, hb, hr⟩ hx => ?_, fun x ⟨hup, hb, hr⟩ hx ha hst => ?_, fun x ⟨hup, hb, hr⟩ hx hst => ?_,
      fun x ⟨hup, hb, hr⟩ hx ha => ?_, fun x y ⟨hup, hb, hr⟩ hx hy => ?_, fun i hi ⟨hup, hb, hr⟩ hx => ?_⟩
    · have hother {cmd : BitVec 3} (hcmd : cmd ≠ 1) (hi : i ≠ .ctxCreate ctx arg r) :
          s.pkg.up = true ∨ (i = .ctxCreate ctx arg r ∧ starts) ↔ s.pkg.up = true ∨ bringsUp cmd ctx = true := by
        simp only [hi, false_and, bringsUp, beq_eq_false_iff_ne.2 hcmd, Bool.false_and, Bool.false_eq_true]
      simp only [List.mem_cons, List.not_mem_nil, or_false] at hi
      obtain rfl | hi := hi
      · exact ctxCommand_refused (or_congr_right ((and_iff_right rfl).trans hstarts)) r rfl
      obtain rfl | rfl | rfl | rfl | rfl := hi
      all_goals exact ctxCommand_refused (hother (by decide) Instr.noConfusion) r rfl
    · obtain ⟨hmay, hb, rfl⟩ := hcreate hready
      exact ⟨_, congrArg Host.Outcome.next (ctxCommand_create hmay hb hx ha hl hd), ⟨rfl, sameMemory_of_eq rfl rfl⟩,
        SMap.get?_set_same .., st_descriptorOf hd, rfl, sameRegisters_of_groups rfl⟩
    · obtain ⟨hmay, hb, rfl⟩ := hcreate hready
      exact congrArg Host.Outcome.next (ctxCommand_create_bad hmay hb hx)
    · subst hr
      exact ⟨_, rfl, ctxDrain_leaves hup hb hx⟩
    · subst hr
      exact ⟨_, rfl, ctxDrainForced_leaves hup hb hx⟩
    · subst hr ha
      exact ⟨_, rfl, ctxResume_leaves hup hb hx hst⟩
    · subst hr
      exact congrArg Host.Outcome.next (ctxCommand_resume_bad hup hb hx hst)
    · subst hr ha
      exact ⟨_, rfl, ctxDestroy_leaves hup hb hx⟩
    · subst hr
      refine ⟨fun hh => ⟨_, rfl, ctxReleaseGrid_leaves hup hb hx hy hh⟩, fun hh => congrArg Host.Outcome.next ?_⟩
      exact (ctxCommand_releaseGrid hup hb hx hy).trans (if_neg (by simp [hh]))
    · subst hr
      simp only [List.mem_cons, List.not_mem_nil, or_false] at hi
      obtain rfl | rfl | rfl | rfl | rfl := hi
      all_goals exact congrArg Host.Outcome.next (ctxCommand_absent (by decide) hup hb hx)
  · exact ⟨execDrainComplete_waits hx hst, fun h => ⟨_, execDrainComplete_ends hx hst h, drainEnds_leaves hx⟩,
      fun core => ⟨execDrainDeadline_waits hx hst, fun hclk h =>
        ⟨_, execDrainDeadline_forces hx hst hclk h, forceDrained_leaves hx⟩⟩⟩
  · dsimp only
    rw [← drainBusy_iff]
    have hend := execDrainComplete_halted hx hst
    refine ⟨fun h => hend.trans (if_neg h), fun h => ?_⟩
    rw [show exec (.drainComplete c) s = execDrainComplete c s from rfl, hend, if_pos h, drainEnds_eq, if_pos h]
  · have hexp := execTimeSliceExpiry_eq hs hx
    refine ⟨fun h => hexp.trans (if_neg h), fun h => ⟨_, hexp.trans (if_pos h), ?_, sameMemory_of_eq rfl rfl,
      sameRegisters_of_groups rfl⟩⟩
    rw [core_modCore_same]
  · exact execDebugRelease_wave hg hw sp
  · exact execDebugRelease_seq hg

end Sys2Proof.Machine
end

section
/-!
SUPPORT. The extended real number that an exact value stands for (04 R88, R89). The comparison of two exact values, which
brings both significands to one exponent, is the order of their numbers; the rounding lemmas speak of the numbers.
-/

namespace Sys2Proof.Machine

/-- The number or infinity that a value stands for; a NaN, which stands for none, is given 0. -/
noncomputable def Ext.toEReal : Ext → EReal
  | .fin neg m e => (((if neg then -1 else 1) * (m * 2 ^ e) : ℝ) : EReal)
  | .inf neg => if neg then ⊥ else ⊤
  | .nan _ => 0

theorem Ext.toEReal_fin (neg : Bool) (m : Nat) (e : Int) :
    (Ext.fin neg m e).toEReal = if neg then -((m * 2 ^ e : ℝ) : EReal) else ((m * 2 ^ e : ℝ) : EReal) := by
  cases neg <;> simp [toEReal, -EReal.coe_mul]

theorem Ext.toEReal_negate (a : Ext) : a.negate.toEReal = -a.toEReal := by
  cases a with
  | fin neg m e => cases neg <;> simp [negate, toEReal, -EReal.coe_mul]
  | inf neg => cases neg <;> simp [negate, toEReal]
  | nan s => simp [negate, toEReal]

@[simp] theorem Ext.isNan_negate (a : Ext) : a.negate.isNan = a.isNan := by cases a <;> rfl

theorem scaled_mul_zpow (neg : Bool) (m : Nat) {e e0 : Int} (h : e0 ≤ e) :
    (scaled neg m e e0 : ℝ) * 2 ^ e0 = (if neg then -1 else 1) * (m * 2 ^ e) := by
  have hpow : (2 : ℝ) ^ (e - e0).toNat * 2 ^ e0 = 2 ^ e := by
    rw [← zpow_natCast, ← zpow_add₀ two_ne_zero]
    congr 1
    omega
  cases neg <;> simp [scaled, mul_assoc, hpow]

theorem Ext.le_fin_iff (na : Bool) (ma : Nat) (ea : Int) (nb : Bool) (mb : Nat) (eb : Int) :
    (Ext.fin na ma ea).le (.fin nb mb eb) = true ↔ (Ext.fin na ma ea).toEReal ≤ (Ext.fin nb mb eb).toEReal := by
  have hpos : (0 : ℝ) < 2 ^ min ea eb := by positivity
  rw [toEReal, toEReal, EReal.coe_le_coe_iff, ← scaled_mul_zpow na ma (min_le_left ea eb),
    ← scaled_mul_zpow nb mb (min_le_right ea eb), mul_le_mul_iff_left₀ hpos, Int.cast_le]
  simp [le, cmp, compare_gt_iff_gt]

theorem Ext.le_iff {a b : Ext} (ha : a.isNan = false) (hb : b.isNan = false) :
    a.le b = true ↔ a.toEReal ≤ b.toEReal := by
  match a, b with
  | .fin na ma ea, .fin nb mb eb => exact le_fin_iff ..
  | .inf na, .inf nb => cases na <;> cases nb <;> simp [le, cmp, toEReal]
  | .inf na, .fin .. => cases na <;> simp [le, cmp, toEReal, -EReal.coe_mul]
  | .fin .., .inf nb => cases nb <;> simp [le, cmp, toEReal, -EReal.coe_mul]
  | .nan _, _ => cases ha
  | _, .nan _ => cases hb

end Sys2Proof.Machine
end

section
/-!
SUPPORT. The codes of a format without their sign bit (04 R86): their magnitudes rise strictly with the code up to that of
infinity, and every code that is no NaN is such a code with a sign.
-/

namespace Sys2Proof.Machine

/-- The magnitude of a finite code, in multiples of the least subnormal number. -/
def Fmt.level (f : Fmt) (c : Nat) : Nat :=
  if c / 2 ^ f.mb = 0 then c else (2 ^ f.mb + c % 2 ^ f.mb) * 2 ^ (c / 2 ^ f.mb - 1)

theorem Fmt.level_binade (f : Fmt) {k r : Nat} (hr : r ≤ 2 ^ (f.mb + 1)) (hk : k = 0 ∨ 2 ^ f.mb ≤ r) :
    f.level (k * 2 ^ f.mb + r) = r * 2 ^ k := by
  have hpos : 0 < 2 ^ f.mb := by positivity
  rw [pow_succ, mul_two] at hr
  obtain hlow | ⟨s, rfl⟩ := lt_or_ge r (2 ^ f.mb) |>.imp_right Nat.exists_eq_add_of_le
  · obtain rfl : k = 0 := hk.resolve_right hlow.not_ge
    simp [level, hlow]
  · obtain hs | rfl := (Nat.le_of_add_le_add_left hr).lt_or_eq
    · rw [level, ← add_assoc, ← Nat.succ_mul, Nat.mul_comm, Nat.mul_add_div hpos]
      simp [Nat.div_eq_of_lt hs, Nat.mod_eq_of_lt hs]
    · rw [level, ← add_assoc, ← Nat.succ_mul, ← Nat.succ_mul]
      simp [Nat.mul_div_cancel _ hpos, pow_succ]
      ring

theorem Fmt.exists_binade (f : Fmt) (c : Nat) :
    ∃ k r, c = k * 2 ^ f.mb + r ∧ r < 2 ^ (f.mb + 1) ∧ (k = 0 ∨ 2 ^ f.mb ≤ r) := by
  have hmod : c % 2 ^ f.mb < 2 ^ f.mb := Nat.mod_lt _ (by positivity)
  have hdiv := Nat.div_add_mod' c (2 ^ f.mb)
  cases h : c / 2 ^ f.mb with
  | zero =>
    rw [h, Nat.zero_mul, Nat.zero_add] at hdiv
    exact ⟨0, c, by simp, by rw [pow_succ]; omega, .inl rfl⟩
  | succ k =>
    rw [h, Nat.succ_mul] at hdiv
    exact ⟨k, 2 ^ f.mb + c % 2 ^ f.mb, by omega, by rw [pow_succ]; omega, .inr (by omega)⟩

theorem Fmt.level_strictMono (f : Fmt) : StrictMono f.level := by
  refine strictMono_nat_of_lt_succ fun c => ?_
  obtain ⟨k, r, rfl, hr, hk⟩ := f.exists_binade c
  rw [add_assoc, f.level_binade hr.le hk, f.level_binade hr (hk.imp_right Nat.le_succ_of_le)]
  exact Nat.mul_lt_mul_of_pos_right r.lt_succ_self (by positivity)

/-- The number or infinity of a code up to that of infinity, in the format's unit. -/
noncomputable def Fmt.magnitude (f : Fmt) (c : Nat) : EReal :=
  if c < f.infCode then ((f.level c * 2 ^ (f.emin - f.mb) : ℝ) : EReal) else ⊤

theorem Fmt.magnitude_zero (f : Fmt) (hf : 0 < f.infCode) : f.magnitude 0 = 0 := by simp [magnitude, hf, level]

theorem Fmt.magnitude_nonneg (f : Fmt) (c : Nat) : 0 ≤ f.magnitude c := by
  rw [magnitude]
  split
  · exact EReal.coe_nonneg.2 (by positivity)
  · exact le_top

theorem Fmt.magnitude_mono (f : Fmt) : Monotone f.magnitude := by
  intro c d h
  by_cases hd : d < f.infCode
  · rw [magnitude, magnitude, if_pos hd, if_pos (h.trans_lt hd), EReal.coe_le_coe_iff]
    gcongr
    exact f.level_strictMono.monotone h
  · simp [magnitude, hd]

theorem Fmt.infCode_add (f : Fmt) : f.infCode + 2 ^ f.mb = 2 ^ (f.eb + f.mb) := by
  rw [infCode, ← Nat.succ_mul, Nat.succ_eq_add_one, Nat.sub_add_cancel Nat.one_le_two_pow, pow_add]

theorem Fmt.lt_of_le_infCode (f : Fmt) {c : Nat} (hc : c ≤ f.infCode) : c < 2 ^ (f.eb + f.mb) :=
  hc.trans_lt (f.infCode_add ▸ Nat.lt_add_of_pos_right (by positivity))

theorem Fmt.decode_signBit (f : Fmt) {c : Nat} (hc : c < 2 ^ (f.eb + f.mb)) :
    f.decode (f.signBit true + c) = (f.decode c).negate := by
  have hsign : (2 ^ (f.eb + f.mb) + c) / 2 ^ (f.eb + f.mb) = 1 := by
    rw [Nat.add_div_left _ (by positivity), Nat.div_eq_of_lt hc]
  have hexp : (2 ^ (f.eb + f.mb) + c) / 2 ^ f.mb % 2 ^ f.eb = c / 2 ^ f.mb % 2 ^ f.eb := by
    rw [pow_add, Nat.mul_comm, Nat.mul_add_div (by positivity), Nat.add_mod_left]
  have hman : (2 ^ (f.eb + f.mb) + c) % 2 ^ f.mb = c % 2 ^ f.mb := by rw [pow_add, Nat.mul_add_mod_self_right]
  simp only [decode, signBit, if_true, hsign, hexp, hman, Nat.div_eq_of_lt hc]
  split_ifs <;> rfl

/-- The fields of a code without a sign bit; the all-ones exponent starts at the code of infinity. -/
theorem Fmt.decode_eq (f : Fmt) {c : Nat} (hc : c < 2 ^ (f.eb + f.mb)) :
    f.decode c =
      if f.infCode ≤ c then if c = f.infCode then .inf false else .nan (c % 2 ^ f.mb < 2 ^ (f.mb - 1))
      else if c / 2 ^ f.mb = 0 then .fin false c (f.emin - f.mb)
      else .fin false (2 ^ f.mb + c % 2 ^ f.mb) (((c / 2 ^ f.mb - 1 : Nat) : Int) + (f.emin - f.mb)) := by
  have hpos : 0 < 2 ^ f.mb := by positivity
  have hexp : c / 2 ^ f.mb < 2 ^ f.eb := Nat.div_lt_of_lt_mul (by rwa [← pow_add, Nat.add_comm])
  have htop : c / 2 ^ f.mb = 2 ^ f.eb - 1 ↔ f.infCode ≤ c := by
    rw [infCode, ← Nat.le_div_iff_mul_le hpos]
    omega
  have hinf : f.infCode ≤ c → (c % 2 ^ f.mb = 0 ↔ c = f.infCode) := fun h => by
    have hdiv := Nat.div_add_mod' c (2 ^ f.mb)
    rw [htop.2 h] at hdiv
    rw [infCode]
    omega
  simp only [decode, Nat.div_eq_of_lt hc, Nat.mod_eq_of_lt hexp, htop]
  split_ifs with hall h0 h1 h1 hsub
  · rfl
  · exact absurd ((hinf hall).1 h0) h1
  · exact absurd ((hinf hall).2 h1) h0
  · rfl
  · rw [Nat.mod_eq_of_lt ((Nat.div_eq_zero_iff_lt hpos).1 hsub)]
    rfl
  · have hbias : ((c / 2 ^ f.mb : Nat) : Int) - f.bias - f.mb = ((c / 2 ^ f.mb - 1 : Nat) : Int) + (f.emin - f.mb) := by
      obtain ⟨n, hn⟩ := Nat.exists_eq_succ_of_ne_zero hsub
      rw [emin, hn]
      omega
    rw [hbias]
    rfl

theorem Fmt.isNan_decode (f : Fmt) {c : Nat} (hc : c < 2 ^ (f.eb + f.mb)) :
    (f.decode c).isNan = false ↔ c ≤ f.infCode := by
  rw [f.decode_eq hc]
  split_ifs <;> simp [Ext.isNan] <;> omega

theorem Fmt.toEReal_decode (f : Fmt) {c : Nat} (hc : c ≤ f.infCode) : (f.decode c).toEReal = f.magnitude c := by
  have hlt := f.lt_of_le_infCode hc
  obtain rfl | hfin := hc.eq_or_lt
  · simp [f.decode_eq hlt, magnitude, Ext.toEReal]
  · rw [f.decode_eq hlt, if_neg hfin.not_ge, magnitude, if_pos hfin, level]
    split_ifs with hsub
    · simp [Ext.toEReal]
    · simp only [Ext.toEReal, Bool.false_eq_true, if_false, one_mul, Nat.cast_mul, mul_assoc,
        zpow_add₀ (two_ne_zero' ℝ), zpow_natCast, Nat.cast_pow, Nat.cast_ofNat]

end Sys2Proof.Machine
end

section
/-!
SUPPORT. Rounding in a direction (04 R88, R105). A rounding toward zero gives the greatest code whose magnitude is at most the
value's, one away from zero the least code whose magnitude is at least the value's, overflow included (08 R207).
-/

namespace Sys2Proof.Machine

/-- The direction that rounds a value of this sign toward zero. -/
def inwardRm (neg : Bool) : Rm := if neg then rmU else rmD

/-- The direction that rounds a value of this sign away from zero. -/
def outwardRm (neg : Bool) : Rm := if neg then rmD else rmU

@[simp] theorem roundsUp_inwardRm (neg odd : Bool) (half : Ordering) : roundsUp (inwardRm neg) neg odd half = false := by
  cases neg <;> rfl

@[simp] theorem roundsUp_outwardRm (neg odd : Bool) (half : Ordering) : roundsUp (outwardRm neg) neg odd half = true := by
  cases neg <;> rfl

@[simp] theorem Fmt.overflow_inwardRm (f : Fmt) (neg : Bool) :
    f.overflow (inwardRm neg) neg = f.signBit neg + (f.infCode - 1) := by cases neg <;> rfl

@[simp] theorem Fmt.overflow_outwardRm (f : Fmt) (neg : Bool) :
    f.overflow (outwardRm neg) neg = f.signBit neg + f.infCode := by cases neg <;> rfl

theorem mul_zpow_of_le (m : Nat) {e q : Int} (h : q ≤ e) :
    (m : ℝ) * 2 ^ (e - q) = ((m * 2 ^ (e - q).toNat : Nat) : ℝ) := by
  rw [Nat.cast_mul, Nat.cast_pow, ← zpow_natCast, Int.toNat_of_nonneg (by omega), Nat.cast_ofNat]

theorem mul_zpow_of_ge (m : Nat) {e q : Int} (h : e ≤ q) :
    (m : ℝ) * 2 ^ (e - q) = (m : ℝ) / ((2 ^ (q - e).toNat : Nat) : ℝ) := by
  rw [Nat.cast_pow, ← zpow_natCast, Int.toNat_of_nonneg (by omega), Nat.cast_ofNat, div_eq_mul_inv, ← zpow_neg, neg_sub]

theorem roundMult_inward (neg : Bool) (m : Nat) (e q : Int) :
    (roundMult (inwardRm neg) neg m e q).1 = ⌊(m * 2 ^ (e - q) : ℝ)⌋₊ := by
  simp only [roundMult, roundsUp_inwardRm, Bool.false_eq_true, if_false]
  split_ifs with hle
  · rw [mul_zpow_of_le m hle, Nat.floor_natCast]
  all_goals rw [mul_zpow_of_ge m (not_le.1 hle).le, Nat.floor_div_eq_div]

theorem ceil_div_of_mod_ne_zero {m n : Nat} (h : m % n ≠ 0) (hn : 0 < n) : ⌈(m / n : ℝ)⌉₊ = m / n + 1 := by
  have hpos : (0 : ℝ) < n := Nat.cast_pos.2 hn
  have hdiv := Nat.div_add_mod' m n
  have hmod := Nat.mod_lt m hn
  rw [Nat.ceil_eq_iff (Nat.add_one_ne_zero _), Nat.add_sub_cancel, lt_div_iff₀ hpos, div_le_iff₀ hpos]
  norm_cast
  rw [Nat.add_one_mul]
  omega

theorem roundMult_outward (neg : Bool) (m : Nat) (e q : Int) :
    (roundMult (outwardRm neg) neg m e q).1 = ⌈(m * 2 ^ (e - q) : ℝ)⌉₊ := by
  simp only [roundMult, roundsUp_outwardRm, if_true]
  split_ifs with hle hexact
  · rw [mul_zpow_of_le m hle, Nat.ceil_natCast]
  · rw [mul_zpow_of_ge m (not_le.1 hle).le, ← Nat.cast_div (Nat.dvd_of_mod_eq_zero hexact) (by positivity),
      Nat.ceil_natCast]
  · rw [mul_zpow_of_ge m (not_le.1 hle).le, ceil_div_of_mod_ne_zero hexact (by positivity)]

section Level

variable {f : Fmt} {k : Nat} {v : ℝ} (hv : 0 ≤ v) (hlt : v < 2 ^ (f.mb + 1)) (hk : k = 0 ∨ 2 ^ f.mb ≤ v)

include hlt hk

include hv in
theorem Fmt.level_floor : (f.level (k * 2 ^ f.mb + ⌊v⌋₊) : ℝ) = ⌊v⌋₊ * 2 ^ k := by
  have hfloor : ⌊v⌋₊ < 2 ^ (f.mb + 1) := (Nat.floor_lt hv).2 (by exact_mod_cast hlt)
  rw [f.level_binade hfloor.le (hk.imp_right fun h => Nat.le_floor (by exact_mod_cast h))]
  push_cast
  rfl

include hv in
theorem Fmt.level_floor_succ : (f.level (k * 2 ^ f.mb + ⌊v⌋₊ + 1) : ℝ) = (⌊v⌋₊ + 1) * 2 ^ k := by
  have hfloor : ⌊v⌋₊ < 2 ^ (f.mb + 1) := (Nat.floor_lt hv).2 (by exact_mod_cast hlt)
  rw [add_assoc, f.level_binade hfloor (hk.imp_right fun h => Nat.le_succ_of_le (Nat.le_floor (by exact_mod_cast h)))]
  push_cast
  rfl

theorem Fmt.level_ceil : (f.level (k * 2 ^ f.mb + ⌈v⌉₊) : ℝ) = ⌈v⌉₊ * 2 ^ k := by
  have hceil : ⌈v⌉₊ ≤ 2 ^ (f.mb + 1) := Nat.ceil_le.2 (by exact_mod_cast hlt.le)
  rw [f.level_binade hceil (hk.imp_right fun h => by exact_mod_cast h.trans (Nat.le_ceil v))]
  push_cast
  rfl

include hv in
theorem Fmt.level_le_iff (d : Nat) : (f.level d : ℝ) ≤ v * 2 ^ k ↔ d ≤ k * 2 ^ f.mb + ⌊v⌋₊ := by
  constructor
  · contrapose!
    intro hd
    calc v * 2 ^ k < (⌊v⌋₊ + 1) * 2 ^ k := by gcongr; exact Nat.lt_floor_add_one v
      _ = f.level (k * 2 ^ f.mb + ⌊v⌋₊ + 1) := (level_floor_succ hv hlt hk).symm
      _ ≤ f.level d := by exact_mod_cast f.level_strictMono.monotone hd
  · intro hd
    calc (f.level d : ℝ) ≤ f.level (k * 2 ^ f.mb + ⌊v⌋₊) := by exact_mod_cast f.level_strictMono.monotone hd
      _ = ⌊v⌋₊ * 2 ^ k := level_floor hv hlt hk
      _ ≤ v * 2 ^ k := by gcongr; exact Nat.floor_le hv

include hv in
theorem Fmt.le_level_iff (d : Nat) : v * 2 ^ k ≤ f.level d ↔ k * 2 ^ f.mb + ⌈v⌉₊ ≤ d := by
  have hpos : (0 : ℝ) < 2 ^ k := by positivity
  constructor
  · intro hd
    by_contra! hlow
    have hfloor : (f.level d : ℝ) ≤ ⌊v⌋₊ * 2 ^ k := by
      rw [← level_floor hv hlt hk]
      have := Nat.ceil_le_floor_add_one v
      exact_mod_cast f.level_strictMono.monotone (by omega)
    have hint : ⌈v⌉₊ ≤ ⌊v⌋₊ := Nat.ceil_le.2 (le_of_mul_le_mul_right (hd.trans hfloor) hpos)
    have hceil : (f.level (k * 2 ^ f.mb + ⌈v⌉₊) : ℝ) ≤ f.level d :=
      calc (f.level (k * 2 ^ f.mb + ⌈v⌉₊) : ℝ) = ⌈v⌉₊ * 2 ^ k := level_ceil hlt hk
        _ ≤ v * 2 ^ k := by gcongr; exact (Nat.cast_le.2 hint).trans (Nat.floor_le hv)
        _ ≤ f.level d := hd
    exact hlow.not_ge (f.level_strictMono.le_iff_le.1 (by exact_mod_cast hceil))
  · intro hd
    calc v * 2 ^ k ≤ ⌈v⌉₊ * 2 ^ k := by gcongr; exact Nat.le_ceil v
      _ = f.level (k * 2 ^ f.mb + ⌈v⌉₊) := (level_ceil hlt hk).symm
      _ ≤ f.level d := by exact_mod_cast f.level_strictMono.monotone hd

end Level

/-- The exponent of the last place that rounding to the format keeps of m x 2^e. -/
def Fmt.lastPlace (f : Fmt) (m : Nat) (e : Int) : Int := max (log2Of m e) f.emin - f.mb

/-- How many binades the last place lies above that of the subnormal numbers. -/
def Fmt.binade (f : Fmt) (m : Nat) (e : Int) : Nat := (f.lastPlace m e - (f.emin - f.mb)).toNat

theorem Fmt.encode_fin (f : Fmt) (rm : Rm) (neg : Bool) {m : Nat} (hm : m ≠ 0) (e : Int) :
    (f.encode rm (.fin neg m e)).1 =
      let code := f.binade m e * 2 ^ f.mb + (roundMult rm neg m e (f.lastPlace m e)).1
      if f.infCode ≤ code then f.overflow rm neg else f.signBit neg + code := by
  simp only [encode, if_neg hm, binade, lastPlace]
  rw [apply_ite Prod.fst]
  rfl

theorem Fmt.lastPlace_eq (f : Fmt) (m : Nat) (e : Int) : f.lastPlace m e = f.binade m e + (f.emin - f.mb) := by
  rw [binade, lastPlace]
  omega

theorem zpow_log2Of_le {m : Nat} (hm : m ≠ 0) (e : Int) : (2 : ℝ) ^ log2Of m e ≤ m * 2 ^ e := by
  rw [log2Of, zpow_add₀ two_ne_zero, zpow_natCast]
  gcongr
  exact_mod_cast Nat.log2_self_le hm

theorem lt_zpow_log2Of_succ (m : Nat) (e : Int) : (m * 2 ^ e : ℝ) < 2 ^ (log2Of m e + 1) := by
  rw [log2Of, add_right_comm, zpow_add₀ two_ne_zero]
  gcongr
  exact_mod_cast Nat.lt_log2_self

section Rounded

variable {f : Fmt} {m : Nat} (hm : m ≠ 0) (e : Int)

theorem Fmt.rounded_lt : (m * 2 ^ (e - f.lastPlace m e) : ℝ) < 2 ^ (f.mb + 1) := by
  have hlog : log2Of m (e - f.lastPlace m e) + 1 ≤ (f.mb + 1 : Nat) := by
    simp only [log2Of, lastPlace]
    omega
  calc (m * 2 ^ (e - f.lastPlace m e) : ℝ) < 2 ^ (log2Of m (e - f.lastPlace m e) + 1) := lt_zpow_log2Of_succ ..
    _ ≤ 2 ^ ((f.mb + 1 : Nat) : Int) := zpow_le_zpow_right₀ one_le_two hlog
    _ = 2 ^ (f.mb + 1) := zpow_natCast ..

include hm in
theorem Fmt.le_rounded : f.binade m e = 0 ∨ (2 ^ f.mb : ℝ) ≤ m * 2 ^ (e - f.lastPlace m e) := by
  refine or_iff_not_imp_left.2 fun hk => ?_
  have hlog : (f.mb : Int) = log2Of m (e - f.lastPlace m e) := by
    simp only [binade, lastPlace, log2Of] at hk ⊢
    omega
  rw [← zpow_natCast, hlog]
  exact zpow_log2Of_le hm _

theorem Fmt.rounded_mul_unit :
    (m * 2 ^ (e - f.lastPlace m e) * 2 ^ f.binade m e * 2 ^ (f.emin - f.mb) : ℝ) = m * 2 ^ e := by
  rw [mul_assoc, mul_assoc, ← zpow_natCast, ← zpow_add₀ two_ne_zero, ← zpow_add₀ two_ne_zero, ← f.lastPlace_eq,
    sub_add_cancel]

end Rounded

theorem Fmt.magnitude_le_iff (f : Fmt) (v : ℝ) (d : Nat) :
    f.magnitude d ≤ ((v * 2 ^ (f.emin - f.mb) : ℝ) : EReal) ↔ d < f.infCode ∧ (f.level d : ℝ) ≤ v := by
  have hpos : (0 : ℝ) < 2 ^ (f.emin - f.mb) := by positivity
  rw [magnitude]
  split_ifs with h
  · rw [EReal.coe_le_coe_iff, mul_le_mul_iff_left₀ hpos, and_iff_right h]
  · simp [h, -EReal.coe_mul]

theorem Fmt.le_magnitude_iff (f : Fmt) (v : ℝ) (d : Nat) :
    ((v * 2 ^ (f.emin - f.mb) : ℝ) : EReal) ≤ f.magnitude d ↔ f.infCode ≤ d ∨ v ≤ f.level d := by
  have hpos : (0 : ℝ) < 2 ^ (f.emin - f.mb) := by positivity
  rw [magnitude]
  split_ifs with h
  · rw [EReal.coe_le_coe_iff, mul_le_mul_iff_left₀ hpos, or_iff_right h.not_ge]
  · simp [not_lt.1 h]

/-- Rounding toward zero: the codes of magnitude at most the value's are those up to the result's. -/
theorem Fmt.exists_encode_inward (f : Fmt) (hf : 0 < f.infCode) (neg : Bool) (m : Nat) (e : Int) :
    ∃ c ≤ f.infCode, (f.encode (inwardRm neg) (.fin neg m e)).1 = f.signBit neg + c
      ∧ ∀ d, f.magnitude d ≤ ((m * 2 ^ e : ℝ) : EReal) ↔ d ≤ c := by
  by_cases hm : m = 0
  · refine ⟨0, Nat.zero_le _, by simp [encode, hm], fun d => ?_⟩
    have hlevel := level_le_iff (f := f) (k := 0) le_rfl (by positivity) (.inl rfl) d
    have hmag := f.magnitude_le_iff 0 d
    simp only [zero_mul, Nat.floor_zero, Nat.add_zero] at hlevel hmag
    rw [hm, Nat.cast_zero, zero_mul, hmag, hlevel]
    omega
  · set c := f.binade m e * 2 ^ f.mb + ⌊(m * 2 ^ (e - f.lastPlace m e) : ℝ)⌋₊ with hc
    refine ⟨min c (f.infCode - 1), by omega, ?_, fun d => ?_⟩
    · rw [f.encode_fin _ _ hm, roundMult_inward, ← hc, overflow_inwardRm]
      dsimp only
      split_ifs <;> congr <;> omega
    · rw [← f.rounded_mul_unit e, f.magnitude_le_iff,
        level_le_iff (by positivity) (f.rounded_lt e) (f.le_rounded hm e), ← hc]
      omega

/-- Rounding away from zero: the codes of magnitude at least the value's are those from the result's. -/
theorem Fmt.exists_encode_outward (f : Fmt) (neg : Bool) (m : Nat) (e : Int) :
    ∃ c ≤ f.infCode, (f.encode (outwardRm neg) (.fin neg m e)).1 = f.signBit neg + c
      ∧ ∀ d, ((m * 2 ^ e : ℝ) : EReal) ≤ f.magnitude d ↔ c ≤ d := by
  by_cases hm : m = 0
  · exact ⟨0, Nat.zero_le _, by simp [encode, hm], fun d => by simpa [hm] using f.magnitude_nonneg d⟩
  · set c := f.binade m e * 2 ^ f.mb + ⌈(m * 2 ^ (e - f.lastPlace m e) : ℝ)⌉₊ with hc
    refine ⟨min c f.infCode, by omega, ?_, fun d => ?_⟩
    · rw [f.encode_fin _ _ hm, roundMult_outward, ← hc, overflow_outwardRm]
      dsimp only
      split_ifs <;> congr <;> omega
    · rw [← f.rounded_mul_unit e, f.le_magnitude_iff,
        le_level_iff (by positivity) (f.rounded_lt e) (f.le_rounded hm e), ← hc]
      omega

end Sys2Proof.Machine
end

section
/-!
O19. Both ends of the enclosure, as the greatest number of the format at most the value and the least at least the value.
-/

namespace Sys2Proof.Machine

/-- The numbers and infinities that the codes of a format stand for. -/
def Fmt.values (f : Fmt) : Set EReal := {v | ∃ y < 2 ^ f.bits, (f.decode y).isNan = false ∧ (f.decode y).toEReal = v}

theorem Fmt.two_pow_bits (f : Fmt) : 2 ^ f.bits = 2 ^ (f.eb + f.mb) + 2 ^ (f.eb + f.mb) := by
  rw [bits, add_assoc, add_comm, pow_succ, mul_two]

theorem Fmt.exists_signBit_add (f : Fmt) {y : Nat} (hy : y < 2 ^ f.bits) :
    ∃ neg : Bool, ∃ c < 2 ^ (f.eb + f.mb), y = f.signBit neg + c := by
  rw [f.two_pow_bits] at hy
  obtain h | h := lt_or_ge y (2 ^ (f.eb + f.mb))
  · exact ⟨false, y, h, (Nat.zero_add y).symm⟩
  · exact ⟨true, y - 2 ^ (f.eb + f.mb), by omega, (Nat.add_sub_cancel' h).symm⟩

theorem Fmt.isNan_decode_signBit_add (f : Fmt) (neg : Bool) {c : Nat} (hc : c < 2 ^ (f.eb + f.mb)) :
    (f.decode (f.signBit neg + c)).isNan = false ↔ c ≤ f.infCode := by
  cases neg with
  | false => rw [signBit, if_neg Bool.false_ne_true, Nat.zero_add, f.isNan_decode hc]
  | true => rw [f.decode_signBit hc, Ext.isNan_negate, f.isNan_decode hc]

theorem Fmt.toEReal_decode_signBit_add (f : Fmt) (neg : Bool) {c : Nat} (hc : c ≤ f.infCode) :
    (f.decode (f.signBit neg + c)).toEReal = if neg then -f.magnitude c else f.magnitude c := by
  cases neg with
  | false => rw [signBit, if_neg Bool.false_ne_true, Nat.zero_add, f.toEReal_decode hc, if_neg Bool.false_ne_true]
  | true => rw [f.decode_signBit (f.lt_of_le_infCode hc), Ext.toEReal_negate, f.toEReal_decode hc, if_pos rfl]

theorem Fmt.mem_values_iff (f : Fmt) (v : EReal) :
    v ∈ f.values ↔ ∃ neg : Bool, ∃ c ≤ f.infCode, v = if neg then -f.magnitude c else f.magnitude c := by
  constructor
  · rintro ⟨y, hy, hnan, rfl⟩
    obtain ⟨neg, c, hc, rfl⟩ := f.exists_signBit_add hy
    have hc := (f.isNan_decode_signBit_add neg hc).1 hnan
    exact ⟨neg, c, hc, f.toEReal_decode_signBit_add neg hc⟩
  · rintro ⟨neg, c, hc, rfl⟩
    have hlt := f.lt_of_le_infCode hc
    refine ⟨f.signBit neg + c, ?_, (f.isNan_decode_signBit_add neg hlt).2 hc, f.toEReal_decode_signBit_add neg hc⟩
    rw [f.two_pow_bits, signBit]
    split_ifs <;> omega

theorem Fmt.neg_mem_values (f : Fmt) {v : EReal} (hv : v ∈ f.values) : -v ∈ f.values := by
  obtain ⟨neg, c, hc, rfl⟩ := (f.mem_values_iff v).1 hv
  exact (f.mem_values_iff _).2 ⟨!neg, c, hc, by cases neg <;> simp⟩

theorem Fmt.isLeast_neg (f : Fmt) {a b : EReal} (h : IsGreatest {v ∈ f.values | v ≤ a} b) :
    IsLeast {v ∈ f.values | -a ≤ v} (-b) :=
  ⟨⟨f.neg_mem_values h.1.1, EReal.neg_le_neg_iff.2 h.1.2⟩,
    fun _ hv => EReal.neg_le.1 (h.2 ⟨f.neg_mem_values hv.1, EReal.neg_le.1 hv.2⟩)⟩

theorem Fmt.isGreatest_neg (f : Fmt) {a b : EReal} (h : IsLeast {v ∈ f.values | a ≤ v} b) :
    IsGreatest {v ∈ f.values | v ≤ -a} (-b) :=
  ⟨⟨f.neg_mem_values h.1.1, EReal.neg_le_neg_iff.2 h.1.2⟩,
    fun _ hv => EReal.le_neg_of_le_neg (h.2 ⟨f.neg_mem_values hv.1, EReal.le_neg_of_le_neg hv.2⟩)⟩

theorem Fmt.isGreatest_magnitude (f : Fmt) {a : EReal} {c : Nat} (hc : c ≤ f.infCode)
    (h : ∀ d, f.magnitude d ≤ a ↔ d ≤ c) : IsGreatest {v ∈ f.values | v ≤ a} (f.magnitude c) := by
  refine ⟨⟨(f.mem_values_iff _).2 ⟨false, c, hc, rfl⟩, (h c).2 le_rfl⟩, ?_⟩
  rintro v ⟨hv, hle⟩
  obtain ⟨neg, d, -, rfl⟩ := (f.mem_values_iff v).1 hv
  cases neg with
  | false => exact f.magnitude_mono ((h d).1 hle)
  | true => exact (EReal.neg_le_zero.2 (f.magnitude_nonneg d)).trans (f.magnitude_nonneg c)

theorem Fmt.isLeast_magnitude (f : Fmt) (hf : 0 < f.infCode) {a : EReal} (ha : 0 ≤ a) {c : Nat} (hc : c ≤ f.infCode)
    (h : ∀ d, a ≤ f.magnitude d ↔ c ≤ d) : IsLeast {v ∈ f.values | a ≤ v} (f.magnitude c) := by
  refine ⟨⟨(f.mem_values_iff _).2 ⟨false, c, hc, rfl⟩, (h c).2 le_rfl⟩, ?_⟩
  rintro v ⟨hv, hle⟩
  obtain ⟨neg, d, -, rfl⟩ := (f.mem_values_iff v).1 hv
  cases neg with
  | false => exact f.magnitude_mono ((h d).1 hle)
  | true =>
    have hneg : -f.magnitude d ≤ 0 := EReal.neg_le_zero.2 (f.magnitude_nonneg d)
    have hc0 : c ≤ 0 := (h 0).1 (hle.trans (hneg.trans (f.magnitude_nonneg 0)))
    calc f.magnitude c ≤ f.magnitude 0 := f.magnitude_mono hc0
      _ = 0 := f.magnitude_zero hf
      _ ≤ a := ha
      _ ≤ -f.magnitude d := hle

theorem Fmt.decode_encode_inward (f : Fmt) (hf : 0 < f.infCode) (neg : Bool) (m : Nat) (e : Int) :
    (f.decode (f.encode (inwardRm neg) (.fin neg m e)).1).isNan = false
      ∧ ∃ b, (f.decode (f.encode (inwardRm neg) (.fin neg m e)).1).toEReal = (if neg then -b else b)
        ∧ IsGreatest {v ∈ f.values | v ≤ ((m * 2 ^ e : ℝ) : EReal)} b := by
  obtain ⟨c, hc, hcode, hle⟩ := f.exists_encode_inward hf neg m e
  rw [hcode]
  exact ⟨(f.isNan_decode_signBit_add neg (f.lt_of_le_infCode hc)).2 hc, f.magnitude c,
    f.toEReal_decode_signBit_add neg hc, f.isGreatest_magnitude hc hle⟩

theorem Fmt.decode_encode_outward (f : Fmt) (hf : 0 < f.infCode) (neg : Bool) (m : Nat) (e : Int) :
    (f.decode (f.encode (outwardRm neg) (.fin neg m e)).1).isNan = false
      ∧ ∃ b, (f.decode (f.encode (outwardRm neg) (.fin neg m e)).1).toEReal = (if neg then -b else b)
        ∧ IsLeast {v ∈ f.values | ((m * 2 ^ e : ℝ) : EReal) ≤ v} b := by
  obtain ⟨c, hc, hcode, hle⟩ := f.exists_encode_outward neg m e
  rw [hcode]
  exact ⟨(f.isNan_decode_signBit_add neg (f.lt_of_le_infCode hc)).2 hc, f.magnitude c,
    f.toEReal_decode_signBit_add neg hc, f.isLeast_magnitude hf (EReal.coe_nonneg.2 (by positivity)) hc hle⟩

theorem Fmt.encode_rmD_isGreatest (f : Fmt) (hf : 0 < f.infCode) (neg : Bool) (m : Nat) (e : Int) :
    (f.decode (f.encode rmD (.fin neg m e)).1).isNan = false
      ∧ IsGreatest {v ∈ f.values | v ≤ (Ext.fin neg m e).toEReal}
        (f.decode (f.encode rmD (.fin neg m e)).1).toEReal := by
  rw [Ext.toEReal_fin]
  cases neg with
  | false =>
    obtain ⟨hnan, b, hb, hgreatest⟩ := f.decode_encode_inward hf false m e
    exact ⟨hnan, hb ▸ hgreatest⟩
  | true =>
    obtain ⟨hnan, b, hb, hleast⟩ := f.decode_encode_outward hf true m e
    exact ⟨hnan, hb ▸ f.isGreatest_neg hleast⟩

theorem Fmt.encode_rmU_isLeast (f : Fmt) (hf : 0 < f.infCode) (neg : Bool) (m : Nat) (e : Int) :
    (f.decode (f.encode rmU (.fin neg m e)).1).isNan = false
      ∧ IsLeast {v ∈ f.values | (Ext.fin neg m e).toEReal ≤ v}
        (f.decode (f.encode rmU (.fin neg m e)).1).toEReal := by
  rw [Ext.toEReal_fin]
  cases neg with
  | false =>
    obtain ⟨hnan, b, hb, hleast⟩ := f.decode_encode_outward hf false m e
    exact ⟨hnan, hb ▸ hleast⟩
  | true =>
    obtain ⟨hnan, b, hb, hgreatest⟩ := f.decode_encode_inward hf true m e
    exact ⟨hnan, hb ▸ f.isLeast_neg hgreatest⟩

theorem infCode_pos_of_mem {f : Fmt} (hf : f ∈ [fp16, bf16, fp32, fp64]) : 0 < f.infCode := by
  have hall : ∀ f ∈ [fp16, bf16, fp32, fp64], 0 < f.infCode := by decide
  exact hall f hf

/-- Settles O19: the order of exact values is that of the numbers they stand for, and among those of the format's codes the
one rounded down is the greatest at most x and the one rounded up the least at least x. -/
theorem outwardRoundingEnclosesTightly : Obligations.OutwardRoundingEnclosesTightly := by
  unfold Obligations.OutwardRoundingEnclosesTightly
  intro f hf neg m e x lo hi
  obtain ⟨hlo, ⟨-, hlox⟩, hgreatest⟩ := f.encode_rmD_isGreatest (infCode_pos_of_mem hf) neg m e
  obtain ⟨hhi, ⟨-, hxhi⟩, hleast⟩ := f.encode_rmU_isLeast (infCode_pos_of_mem hf) neg m e
  have hx : x.isNan = false := rfl
  refine ⟨hlo, hhi, (Ext.le_iff hlo hx).2 hlox, (Ext.le_iff hx hhi).2 hxhi,
    fun y hy hnan hle => ?_, fun y hy hnan hle => ?_⟩
  · exact (Ext.le_iff hnan hlo).2 (hgreatest ⟨⟨y, hy, hnan, rfl⟩, (Ext.le_iff hnan hx).1 hle⟩)
  · exact (Ext.le_iff hhi hnan).2 (hleast ⟨⟨y, hy, hnan, rfl⟩, (Ext.le_iff hx hnan).1 hle⟩)

end Sys2Proof.Machine
end

section
/-!
SUPPORT. Rows of words folded element by element (05 R128, R130).
-/

namespace Sys2Proof.Machine

theorem length_foldl_zipWith {f : Word → Word → Word} {e : Nat} {rows : List (List Word)}
    (hrows : ∀ r ∈ rows, r.length = e) {a : List Word} (ha : a.length = e) :
    (rows.foldl (fun a r => List.zipWith f a r) a).length = e :=
  List.foldlRecOn (motive := fun a : List Word => a.length = e) rows _ ha fun a ha r hr => by simp [ha, hrows r hr]

theorem getD_zipWith (f : Word → Word → Word) {a r : List Word} {i : Nat} (ha : i < a.length) (hr : i < r.length) :
    (List.zipWith f a r).getD i 0 = f (a.getD i 0) (r.getD i 0) := by
  simp [List.getD_eq_getElem?_getD, ha, hr]

theorem getD_foldl_zipWith {f : Word → Word → Word} {e i : Nat} (hi : i < e) {rows : List (List Word)}
    (hrows : ∀ r ∈ rows, r.length = e) {a : List Word} (ha : a.length = e) :
    (rows.foldl (fun a r => List.zipWith f a r) a).getD i 0 = (rows.map fun r => r.getD i 0).foldl f (a.getD i 0) := by
  induction rows generalizing a with
  | nil => rfl
  | cons r t ih =>
    have hr : r.length = e := hrows r (by simp)
    rw [List.foldl_cons, ih (fun x hx => hrows x (by simp [hx])) (by simp [ha, hr]),
      getD_zipWith f (ha ▸ hi) (hr ▸ hi)]
    rfl

theorem length_foldRows {f : Word → Word → Word} {e : Nat} {rows : List (List Word)} (hne : rows ≠ [])
    (hrows : ∀ r ∈ rows, r.length = e) : (foldRows f rows).length = e := by
  cases rows with
  | nil => exact absurd rfl hne
  | cons r t => exact length_foldl_zipWith (fun x hx => hrows x (by simp [hx])) (hrows r (by simp))

theorem getD_foldRows_cons {f : Word → Word → Word} {e i : Nat} (hi : i < e) {r : List Word} {t : List (List Word)}
    (hrows : ∀ x ∈ r :: t, x.length = e) :
    (foldRows f (r :: t)).getD i 0 = (t.map fun x => x.getD i 0).foldl f (r.getD i 0) :=
  getD_foldl_zipWith hi (fun x hx => hrows x (by simp [hx])) (hrows r (by simp))

theorem foldRows_append {f : Word → Word → Word} {rows : List (List Word)} (hne : rows ≠ []) (r : List Word) :
    foldRows f (rows ++ [r]) = List.zipWith f (foldRows f rows) r := by
  cases rows with
  | nil => exact absurd rfl hne
  | cons x t => simp [foldRows]

@[simp] theorem Layout.length_rowWords (h : Layout) (bs : List Byte) : (h.rowWords bs).length = h.rowElems := by
  simp [Layout.rowWords]

/-- The rows of a bag's valid slots. -/
def XOp.bagRows (o : XOp) (b : Nat) : List (List Word) := (o.bag b).map fun x => o.h.rowWords x.bytes

theorem XOp.length_of_mem_bagRows {o : XOp} {b : Nat} : ∀ r ∈ o.bagRows b, r.length = o.h.rowElems := by
  simp [XOp.bagRows]

theorem XOp.pooled_sum {o : XOp} (hf : o.form = .sum) (b : Nat) : o.pooled b =
    if (o.bagRows b).isEmpty then List.replicate o.h.rowElems 0 else foldRows f32Add (o.bagRows b) := by
  simp [XOp.pooled, XOp.bagRows, hf]

theorem XOp.pooled_mean {o : XOp} (hf : o.form = .mean) (b : Nat) : o.pooled b =
    if (o.bagRows b).isEmpty then List.replicate o.h.rowElems 0
    else (foldRows f32Add (o.bagRows b)).map fun s =>
      f32Div s (BitVec.ofNat 32 (fpOfInt fp32 rmN (o.bagRows b).length).1) := by
  simp [XOp.pooled, XOp.bagRows, hf]

theorem XOp.pooled_max {o : XOp} (hf : o.form = .max) (b : Nat) : o.pooled b =
    (o.bagRows b).foldl (fun a r => List.zipWith (rowUpdate true false) a r) (List.replicate o.h.rowElems negInf32) := by
  simp [XOp.pooled, XOp.bagRows, hf]

theorem rowUpdate_max_float (m f : Word) : rowUpdate true false m f =
    if (fp32.decode m.toNat).isNan || (fp32.decode f.toNat).isNan then BitVec.ofNat 32 fp32.nanCode
    else BitVec.ofNat 32 (fpMinMax fp32 true m.toNat f.toNat).1 := apply_ite (BitVec.ofNat 32) _ _ _

/-- Settles O33: element i of a folded list of rows is the fold of the rows' elements i. -/
theorem pooledRowsFollowTheirTable : Obligations.PooledRowsFollowTheirTable := by
  unfold Obligations.PooledRowsFollowTheirTable
  intro o b i hi rows sum
  have hlen := o.length_of_mem_bagRows (b := b)
  have hrows : rows = (o.bagRows b).map fun r => r.getD i 0 := by simp [rows, XOp.bagRows]
  have hzero : (List.replicate o.h.rowElems (0 : Word)).getD i 0 = 0 := by simp [hi]
  refine ⟨fun hf => ?_, fun hf => ?_, fun hf => ?_⟩
  · rw [XOp.pooled_sum hf]
    cases hb : o.bagRows b with
    | nil =>
      have hsum : sum = 0 := by simp only [sum, hrows, hb, List.map_nil]
      rw [hsum]
      exact hzero
    | cons r t =>
      have hsum : sum = (t.map fun x => x.getD i 0).foldl f32Add (r.getD i 0) := by
        simp only [sum, hrows, hb, List.map_cons]
      rw [hsum]
      exact getD_foldRows_cons hi (hb ▸ hlen)
  · rw [XOp.pooled_mean hf]
    cases hb : o.bagRows b with
    | nil => simp [hrows, hb]
    | cons r t =>
      have hsum : sum = (foldRows f32Add (r :: t)).getD i 0 := by
        rw [getD_foldRows_cons hi (hb ▸ hlen)]
        simp only [sum, hrows, hb, List.map_cons]
      have hl : i < (foldRows f32Add (r :: t)).length := by rwa [length_foldRows (by simp) (hb ▸ hlen)]
      simp [hsum, hrows, hb, List.getD_eq_getElem?_getD, hl]
  · rw [XOp.pooled_max hf, getD_foldl_zipWith hi hlen (by simp), ← hrows]
    simp [hi, negInf32, funext₂ rowUpdate_max_float]

end Sys2Proof.Machine
end

section
/-!
O30. The transport points at issue (05 R111, R114, R122, R123, R127): one lemma for every form.
-/

namespace Sys2Proof.Machine

theorem demotesFirst_of_using {use : ICtx → Quarter → Quarter} {i : Instr} {h : Hdr} {cause : Nat}
    {body : ICtx → State → Except Stop State} {ok : ICtx → State → Prop} (hx : ∀ s, exec i s = issueUsing use h 8 body s)
    (hb : ∀ c s, ok c s → body c s = c.demoted cause) : DemotesFirst use i h cause ok := by
  refine ⟨fun s c hc hk hw hr => ?_, trapsUsing_of hx fun c s hk => ?_⟩
  · rw [hx, issueUsing, hc]
    simp only [hb c _ hk, ICtx.demoted, hw, hr, Bool.and_self, if_true]
  · rw [hb c s hk.1, ICtx.demoted, if_neg (by simpa using hk.2)]

section Checks
variable {s : State} {gr : Group} {form : XForm} {w : DWord} {n : Nat} {mw : Bool} {bar : Nat} {hd : Layout}

theorem xchecks_none : xchecks s gr form none w n mw bar = .error (tr cHandle) := rfl

theorem xchecks_unfit (h : formAllows form hd = false ∨ (scatters form = true ∧ hd.writable = false)) :
    xchecks s gr form (some hd) w n mw bar = .error (tr cHandle) := by
  unfold xchecks
  exact if_pos (by rcases h with h | h <;> simp [h])

theorem xchecks_reserved (hf : formAllows form hd = true) (hs : scatters form = true → hd.writable = true)
    (hb : bagged form = false) (hw : w.toNat / 2 ^ 32 ≠ 0) :
    xchecks s gr form (some hd) w n mw bar = .error (tr cValue) := by
  have hhi : (w.extractLsb' 32 32).toNat ≠ 0 := by
    rw [BitVec.extractLsb'_toNat, Nat.shiftRight_eq_div_pow]
    omega
  have hfits : ¬ (!formAllows form hd || (scatters form && !hd.writable)) = true := by
    cases hsc : scatters form <;> simp_all
  unfold xchecks
  exact (if_neg hfits).trans (if_pos (by simpa [hb] using hhi))

end Checks

/-- Past two checks that pass. -/
theorem ite_ite_of_neg {α : Type} {p q : Prop} [Decidable p] [Decidable q] {x y z w : α} (hp : ¬ p) (hq : ¬ q) (h : z = w) :
    (if p then x else if q then y else z) = w := by rw [if_neg hp, if_neg hq, h]

theorem transportPoint_of {i : Instr} {form : XForm} {h : Hdr} {bo cnt : BitVec 4} {k : Nat} {b : Src} {slot : BitVec 5}
    {mw : Bool} (hx : ∀ s, exec i s = transport form h bo cnt (.v k) b slot mw s) :
    TransportPoint i form h bo cnt k b slot mw := by
  have hgoes {c : ICtx} {s : State} (h : s.outCount c.g c.w < 4 ∧ s.acqPending c.ag = false) :
      ¬ (decide (4 ≤ s.outCount c.g c.w) || s.acqPending c.ag) = true := by simp [h.1, h.2]
  unfold transport issueReading at hx
  dsimp only at hx
  refine ⟨fun hd bags => completes_of_using hx ?_, trapsUsing_of hx ?_, trapsUsing_of hx ?_,
    fun hd => trapsUsing_of hx ?_, fun hd => trapsUsing_of hx ?_, fun e => trapsUsing_of hx ?_,
    fun hd bags hform => trapsUsing_of hx ?_, fun hd bags => demotesFirst_of_using hx ?_, trapsUsing_of hx ?_⟩
  · rintro c s ⟨⟨hgo, hrl⟩, hok, hquery, hver⟩
    have hloaded : ¬ (form == .score && !((SMap.get? bags.query s.queries).any Query.loaded)) = true := by
      by_cases hf : form = .score
      · obtain ⟨q, hq, hl⟩ := hquery hf
        simp [hq, hl]
      · simp [hf]
    refine ite_ite_of_neg (hgoes hgo) (Nat.not_lt.2 hrl) ?_
    beta_reduce at hok
    rw [hok]
    refine ite_ite_of_neg hloaded (by simpa [and_assoc] using hver) (congrArg Except.ok ?_)
    exact if_congr List.isEmpty_iff rfl rfl
  · rintro c s ⟨hgo, hrl⟩
    exact (if_neg (hgoes hgo)).trans (if_pos hrl)
  · rintro c s ⟨⟨hgo, hrl⟩, hnone⟩
    refine ite_ite_of_neg (hgoes hgo) (Nat.not_lt.2 hrl) ?_
    rw [hnone, xchecks_none]
  · rintro c s ⟨⟨hgo, hrl⟩, hhd, hunfit⟩
    refine ite_ite_of_neg (hgoes hgo) (Nat.not_lt.2 hrl) ?_
    rw [hhd, xchecks_unfit hunfit]
  · rintro c s ⟨⟨hgo, hrl⟩, hhd, hfit, hwr, hbag, hres⟩
    refine ite_ite_of_neg (hgoes hgo) (Nat.not_lt.2 hrl) ?_
    rw [hhd, xchecks_reserved hfit hwr hbag hres]
  · rintro c s ⟨⟨hgo, hrl⟩, herr⟩
    refine ite_ite_of_neg (hgoes hgo) (Nat.not_lt.2 hrl) ?_
    beta_reduce at herr
    rw [herr]
  · rintro c s ⟨⟨hgo, hrl⟩, hok, hquery⟩
    have hwaits : (form == .score && !((SMap.get? bags.query s.queries).any Query.loaded)) = true := by
      cases hq : SMap.get? bags.query s.queries <;> simp_all
    refine ite_ite_of_neg (hgoes hgo) (Nat.not_lt.2 hrl) ?_
    beta_reduce at hok
    rw [hok]
    exact if_pos hwaits
  · rintro c s ⟨⟨hgo, hrl⟩, hok, hver, hsc, hshard⟩
    have hnoscore : ¬ (form == .score && !((SMap.get? bags.query s.queries).any Query.loaded)) = true := by
      cases form <;> simp_all [scatters]
    refine ite_ite_of_neg (hgoes hgo) (Nat.not_lt.2 hrl) ?_
    beta_reduce at hok
    rw [hok]
    exact (if_neg hnoscore).trans (if_pos (by simp [hver, hsc, hshard]))
  · intro c s hno
    exact if_pos (by simpa [Classical.or_iff_not_imp_left] using hno)

/-- Settles O30: each of the seven points runs the transport of its form. -/
theorem transportPointsIssue : Obligations.TransportPointsIssue := by
  unfold Obligations.TransportPointsIssue
  intro h bo cnt k b slot mw
  exact ⟨transportPoint_of fun _ => rfl, transportPoint_of fun _ => rfl, transportPoint_of fun _ => rfl,
    transportPoint_of fun _ => rfl, transportPoint_of fun _ => rfl, transportPoint_of fun _ => rfl,
    transportPoint_of fun _ => rfl⟩

end Sys2Proof.Machine
end

section
/-!
SUPPORT. What address translation, reads and updates of homes leave as it is: everything but the memories, the reservations
and the translation caches (03 R71 to R73; 05 R115).
-/

namespace Sys2Proof.Machine

/-- A state without its memories, reservations, L1 lines and translation caches. -/
def State.besideMemory (s : State) : State :=
  { s with dies := [], clusters := [], cores := [], mem := [], sys := [], ttc := [], resvs := [] }

theorem groups_of_besideMemory {s t : State} (h : t.besideMemory = s.besideMemory) : t.groups = s.groups :=
  show t.besideMemory.groups = s.besideMemory.groups by rw [h]

theorem grp_of_besideMemory {s t : State} (h : t.besideMemory = s.besideMemory) (g : Nat) : t.grp g = s.grp g :=
  congrArg (SMap.get? g) (groups_of_besideMemory h)

theorem xops_of_besideMemory {s t : State} (h : t.besideMemory = s.besideMemory) : t.xops = s.xops :=
  show t.besideMemory.xops = s.besideMemory.xops by rw [h]

theorem outbox_of_besideMemory {s t : State} (h : t.besideMemory = s.besideMemory) : t.outbox = s.outbox :=
  show t.besideMemory.outbox = s.besideMemory.outbox by rw [h]

theorem queries_of_besideMemory {s t : State} (h : t.besideMemory = s.besideMemory) : t.queries = s.queries :=
  show t.besideMemory.queries = s.besideMemory.queries by rw [h]

theorem besideMemory_foldl {α : Type} {f : State → α → State} (hf : ∀ s x, (f s x).besideMemory = s.besideMemory)
    (l : List α) (s : State) : (l.foldl f s).besideMemory = s.besideMemory :=
  foldl_rel (R := fun (s t : State) => t.besideMemory = s.besideMemory) (fun _ => rfl) (fun _ _ _ h k => k.trans h) f hf l s

theorem besideMemory_ite {s t u : State} {p : Prop} [Decidable p] (ht : t.besideMemory = s.besideMemory)
    (hu : u.besideMemory = s.besideMemory) : (if p then t else u).besideMemory = s.besideMemory := by
  split <;> assumption

theorem besideMemory_tlbFill (s : State) (u : TUnit) (t : TlbEnt) : (s.tlbFill u t).besideMemory = s.besideMemory := by
  cases u <;> rfl

theorem besideMemory_walkFill (s : State) (u : TUnit) (ctx va : Nat) (fw : Bool) (acc : Acc) :
    (s.walkFill u ctx va fw acc).1.besideMemory = s.besideMemory := by
  have hset (u : State) (a : Nat) (b : Byte) :
      ({ u with mem := memSetByte u.mem a b }.hitGranules none a 1).besideMemory = u.besideMemory := rfl
  have hdie (u : State) (d : Nat) (f : Die → Die) : (u.modDie d f).besideMemory = u.besideMemory := rfl
  grind [State.walkFill, besideMemory_tlbFill]

theorem besideMemory_translate (s : State) (u : TUnit) (ctx : Nat) (acc : Acc) (va : DWord) :
    (s.translate u ctx acc va).1.besideMemory = s.besideMemory := by
  grind [State.translate, besideMemory_walkFill, besideMemory_tlbFill]

theorem besideMemory_xpieces (s : State) (u : TUnit) (ctx : Nat) (acc : Acc) (ps : List (Nat × Nat)) :
    (s.xpieces u ctx acc ps).1.besideMemory = s.besideMemory := by
  induction ps generalizing s with
  | nil => rfl
  | cons p t ih => exact (ih _).trans (besideMemory_translate ..)

theorem besideMemory_readVa (s : State) (u : TUnit) (ctx : Nat) (view : Option Group) (va n : Nat) :
    (s.readVa u ctx view va n).1.besideMemory = s.besideMemory := by
  unfold State.readVa
  dsimp only
  split <;> exact besideMemory_xpieces ..

theorem besideMemory_elemsPieces (s : State) (u : TUnit) (ctx : Nat) (acc : Acc) (h : Layout) (is : List Int) :
    (s.elemsPieces u ctx acc h is).1.besideMemory = s.besideMemory := by
  induction is generalizing s with
  | nil => rfl
  | cons i t ih => exact (ih _).trans (besideMemory_xpieces ..)

theorem besideMemory_resolveRow (s : State) (ctx : Nat) (form : XForm) (h : Layout) (row : Nat) :
    (s.resolveRow ctx form h row).1.besideMemory = s.besideMemory := by
  unfold State.resolveRow
  dsimp only
  generalize lowestFault _ = f
  cases f <;> exact besideMemory_elemsPieces ..

theorem besideMemory_pairing (s : State) (ctx : Nat) : (s.pairing ctx).1.besideMemory = s.besideMemory := by
  unfold State.pairing
  split
  · rfl
  · exact besideMemory_readVa ..

theorem besideMemory_route (s : State) (ctx : Nat) (h : Layout) (slots : List XSlot) :
    (s.route ctx h slots).1.besideMemory = s.besideMemory := by
  unfold State.route
  split
  · rfl
  · dsimp only
    split
    · exact besideMemory_readVa ..
    · exact (besideMemory_pairing ..).trans (besideMemory_readVa ..)

theorem besideMemory_putPieces (s : State) (ps : List (Tgt × Nat)) (bs : List Byte) :
    (s.putPieces ps bs).besideMemory = s.besideMemory := by
  induction ps generalizing s bs with
  | nil => rfl
  | cons p t ih =>
    obtain ⟨tgt, n⟩ := p
    refine (ih _ _).trans ?_
    cases tgt <;> rfl

theorem besideMemory_rowApply (s : State) (isMax isInt : Bool) (ps : List (Tgt × Nat)) (f : Word) :
    (s.rowApply isMax isInt ps f).besideMemory = s.besideMemory := besideMemory_putPieces ..

theorem besideMemory_l1Drop (s : State) (core a : Nat) : (s.l1Drop core a).besideMemory = s.besideMemory := by
  unfold State.l1Drop
  dsimp only
  split <;> rfl

theorem besideMemory_serveRows (s : State) (req : RemoteReq) (h : Layout) (asks : List RemoteAsk) :
    (s.serveRows req h asks).1.besideMemory = s.besideMemory := by
  induction asks generalizing s with
  | nil => rfl
  | cons a t ih =>
    have hrow := besideMemory_resolveRow s req.tag req.form h a.row
    unfold State.serveRows
    refine (ih _).trans ?_
    split
    · exact hrow
    · split
      · exact hrow
      · split
        · exact (besideMemory_foldl (fun _ _ => besideMemory_rowApply ..) _ _).trans hrow
        · exact hrow

theorem length_serveRows (s : State) (req : RemoteReq) (h : Layout) (asks : List RemoteAsk) :
    (s.serveRows req h asks).2.length = asks.length := by
  induction asks generalizing s with
  | nil => rfl
  | cons a t ih => exact congrArg (· + 1) (ih _)

-- What an agent waits for, and the registers ------------------------------------------------------

theorem SameMemory.trans {s t u : State} (h : SameMemory s t) (k : SameMemory t u) : SameMemory s u :=
  ⟨fun a => (k.1 a).trans (h.1 a), fun a => (k.2 a).trans (h.2 a)⟩

theorem SameRegisters.trans {s t u : State} (h : SameRegisters s t) (k : SameRegisters t u) : SameRegisters s u :=
  ⟨fun g w => (k.1 g w).trans (h.1 g w), fun g => (k.2 g).trans (h.2 g)⟩

theorem sameRegisters_block (s : State) (ag : Agent) (b : Blk) : SameRegisters s (s.block ag b) := by
  cases ag with
  | split g w sp => exact sameRegisters_modWave s g w fun _ => rfl
  | seq g => exact sameRegisters_modSeq s g fun _ => rfl

theorem sameRegisters_lower (s : State) (ag : Agent) (fl : Option Nat) : SameRegisters s (s.lower ag fl) := by
  cases fl with
  | none => exact sameRegisters_of_groups rfl
  | some k =>
    cases ag with
    | split g w sp => exact sameRegisters_modWave s g w fun _ => rfl
    | seq g => exact sameRegisters_modSeq s g fun _ => rfl

theorem eq_of_waitOf_block {s : State} {ag : Agent} {b b' : Blk} (h : (s.block ag b).waitOf ag = some b') : b' = b := by
  cases ag with
  | split g w sp =>
    simp only [State.block, State.modSplit, State.waitOf, State.waveAt_modWave, and_self, if_true,
      Option.bind_map, Option.bind_eq_some_iff, Function.comp_apply, updAt_get?, Option.map_eq_some_iff] at h
    obtain ⟨wv, -, x, ⟨y, -, rfl⟩, rfl⟩ := h
    rfl
  | seq g =>
    simp only [State.block, State.waitOf, State.seqAt_modSeq, if_true, Option.map_map, Option.map_eq_some_iff] at h
    obtain ⟨q, -, rfl⟩ := h
    rfl

theorem waitOf_lower (s : State) (ag ag' : Agent) (fl : Option Nat) : (s.lower ag fl).waitOf ag' = s.waitOf ag' := by
  cases fl with
  | none => rfl
  | some k =>
    cases ag with
    | split g w sp =>
      cases ag' with
      | split g' w' sp' =>
        simp only [State.lower, State.waitOf, State.waveAt_modWave]
        split
        next h => rw [h.1, h.2]; cases s.waveAt g w <;> rfl
        · rfl
      | seq g' => simp only [State.lower, State.waitOf, State.seqAt_modWave]
    | seq g =>
      cases ag' with
      | split g' w' sp' => simp only [State.lower, State.waitOf, State.waveAt_modSeq]
      | seq g' =>
        simp only [State.lower, State.waitOf, State.seqAt_modSeq]
        split
        next h => rw [h]; cases s.seqAt g <;> rfl
        · rfl

end Sys2Proof.Machine
end

section
/-!
O31. Query slots and the status instructions (05 R126, R132 to R134).
-/

namespace Sys2Proof.Machine

-- Claiming and releasing a slot -------------------------------------------------------------------

theorem find?_range_eq_some {n k : Nat} {p : Nat → Bool} (hk : k < n) (hp : p k = true) (hlow : ∀ j < k, p j = false) :
    (List.range n).find? p = some k :=
  List.find?_range_eq_some.2 ⟨hp, List.mem_range.2 hk, by simpa using hlow⟩

theorem query_find? {s : State} {q : Nat} (hq : q < 256) (hfree : SMap.get? q s.queries = none)
    (hbelow : ∀ j < q, (SMap.get? j s.queries).isSome = true) :
    (List.range 256).find? (fun k => (SMap.get? k s.queries).isNone) = some q :=
  find?_range_eq_some hq (by simp [hfree]) fun j hj => by simpa using hbelow j hj

theorem sub_find? {own : List (Nat × Query)} {sub : Nat} (hs : sub < 4) (hnew : ∀ y ∈ own, y.2.sub ≠ sub)
    (hbelow : ∀ j < sub, ∃ y ∈ own, y.2.sub = j) :
    (List.range 4).find? (fun k => !(own.any fun q => q.2.sub == k)) = some sub :=
  find?_range_eq_some hs (by simpa using hnew) fun j hj => by simpa using hbelow j hj

theorem queryRange_bad_iff {gr : Group} {o n : Nat} :
    (o % 4 != 0 || !gr.spadHas o n) = true ↔ o % 4 ≠ 0 ∨ gr.va.spad < o + n := by simp [Group.spadHas]

section Xqload
variable (h : Hdr) (d : Dst) (a : Src) (slot : BitVec 5) (hd : Layout)

/-- The scratchpad offset of a query's values. -/
def queryOfs (a : Src) (c : ICtx) : Nat := ((c.scalar a).extractLsb' 0 32).toNat

/-- The checks of an xqload pass. -/
def QueryFits (c : ICtx) : Prop :=
  c.gr.handle slot.toNat = some hd ∧ formAllows .score hd = true ∧ queryOfs a c % 4 = 0
    ∧ queryOfs a c + 4 * hd.rowElems ≤ c.gr.va.spad

theorem QueryFits.range {a : Src} {slot : BitVec 5} {hd : Layout} {c : ICtx} (h : QueryFits a slot hd c) :
    ¬ (queryOfs a c % 4 != 0 || !c.gr.spadHas (queryOfs a c) (4 * hd.rowElems)) = true := by
  obtain ⟨-, -, hofs, hspad⟩ := h
  rw [queryRange_bad_iff]
  omega

theorem xqload_claims (q sub : Nat) : Completes (.xqload h d a slot) h 8
    (fun c s => s.acqPending c.ag = false ∧ QueryFits a slot hd c ∧ c.acting h ≠ []
      ∧ q < 256 ∧ SMap.get? q s.queries = none ∧ (∀ j < q, (SMap.get? j s.queries).isSome = true)
      ∧ sub < 4 ∧ (∀ y ∈ s.ownQueries c.gr, y.2.sub ≠ sub) ∧ ∀ j < sub, ∃ y ∈ s.ownQueries c.gr, y.2.sub = j)
    fun c s =>
      let vals := (List.range hd.rowElems).map fun i =>
        BitVec.ofNat 32 (leVal (c.gr.spadBytes (queryOfs a c + 4 * i) 4))
      let x : Query := ⟨gridKey c.gr.ctx c.gr.grid, c.gr.index, hd.rowElems, queryNorm vals, vals, sub, false⟩
      let r : Req := ⟨s.nextId, c.ag, c.pc, .query q d h.nw, hdrFlag h, c.active h, false⟩
      { s.newId with queries := SMap.set q x s.queries, reqs := s.reqs ++ [r] }.block c.ag (.req s.nextId) := by
  have hx (s : State) : exec (.xqload h d a slot) s = execXqload h d a slot s := rfl
  unfold execXqload at hx
  refine completes_of_issue hx ?_
  rintro c s ⟨hacq, hfits, hact, hq, hfree, hbelow, hs, hnew, hlow⟩
  refine (if_neg (by simp [hacq])).trans ?_
  rw [hfits.1]
  refine ite_ite_of_neg (by simp [hfits.2.1]) hfits.range ?_
  refine (if_neg (by simpa using hact)).trans ?_
  dsimp only
  rw [query_find? hq hfree hbelow, sub_find? hs hnew hlow]
  rfl

theorem xqload_full : Completes (.xqload h d a slot) h 8
    (fun c s => s.acqPending c.ag = false ∧ QueryFits a slot hd c ∧ c.acting h ≠ []
      ∧ ((∀ j < 256, (SMap.get? j s.queries).isSome = true) ∨ ∀ j < 4, ∃ y ∈ s.ownQueries c.gr, y.2.sub = j))
    fun c s => (if h.nw then s else s.setScalar c d (BitVec.allOnes 64)).doneNow c h := by
  have hx (s : State) : exec (.xqload h d a slot) s = execXqload h d a slot s := rfl
  unfold execXqload at hx
  refine completes_of_issue hx ?_
  rintro c s ⟨hacq, hfits, hact, hfull⟩
  refine (if_neg (by simp [hacq])).trans ?_
  rw [hfits.1]
  refine ite_ite_of_neg (by simp [hfits.2.1]) hfits.range ?_
  refine (if_neg (by simpa using hact)).trans ?_
  dsimp only
  rcases hfull with hfull | hfull
  · have hnone : (List.range 256).find? (fun k => (SMap.get? k s.queries).isNone) = none := by
      simpa [List.find?_eq_none, Option.isSome_iff_ne_none] using hfull
    rw [hnone]
  · have hnone : (List.range 4).find? (fun k => !((s.ownQueries c.gr).any fun q => q.2.sub == k)) = none := by
      simpa [List.find?_eq_none] using hfull
    rw [hnone]
    cases (List.range 256).find? _ <;> rfl

theorem xqload_noLane : Completes (.xqload h d a slot) h 8
    (fun c s => s.acqPending c.ag = false ∧ QueryFits a slot hd c ∧ c.acting h = []) fun c s => s.doneNow c h := by
  have hx (s : State) : exec (.xqload h d a slot) s = execXqload h d a slot s := rfl
  unfold execXqload at hx
  refine completes_of_issue hx ?_
  rintro c s ⟨hacq, hfits, hact⟩
  refine (if_neg (by simp [hacq])).trans ?_
  rw [hfits.1]
  refine ite_ite_of_neg (by simp [hfits.2.1]) hfits.range ?_
  exact if_pos (by simp [hact])

theorem xqload_holds : Traps (.xqload h d a slot) h 8 (fun c s => s.acqPending c.ag = true) fun _ => .hold := by
  have hx (s : State) : exec (.xqload h d a slot) s = execXqload h d a slot s := rfl
  unfold execXqload at hx
  exact traps_of_issue hx fun _ _ hacq => if_pos hacq

theorem xqload_badHandle : Traps (.xqload h d a slot) h 8 (fun c s => s.acqPending c.ag = false
    ∧ ∀ hd, c.gr.handle slot.toNat = some hd → formAllows .score hd = false) fun _ => tr cHandle := by
  have hx (s : State) : exec (.xqload h d a slot) s = execXqload h d a slot s := rfl
  unfold execXqload at hx
  refine traps_of_issue hx ?_
  rintro c s ⟨hacq, hbad⟩
  refine (if_neg (by simp [hacq])).trans ?_
  cases hhd : c.gr.handle slot.toNat with
  | none => rfl
  | some hd => exact if_pos (by simp [hbad hd hhd])

theorem xqload_badRange : Traps (.xqload h d a slot) h 8 (fun c s => s.acqPending c.ag = false
    ∧ c.gr.handle slot.toNat = some hd ∧ formAllows .score hd = true
    ∧ (queryOfs a c % 4 ≠ 0 ∨ c.gr.va.spad < queryOfs a c + 4 * hd.rowElems)) fun _ => tr cSpad := by
  have hx (s : State) : exec (.xqload h d a slot) s = execXqload h d a slot s := rfl
  unfold execXqload at hx
  refine traps_of_issue hx ?_
  rintro c s ⟨hacq, hhd, hfit, hbad⟩
  refine (if_neg (by simp [hacq])).trans ?_
  rw [hhd]
  refine (if_neg (by simp [hfit])).trans (if_pos (queryRange_bad_iff.2 hbad))

end Xqload

/-- The operand names a query slot of the group. -/
def OwnsQuery (a : Src) (c : ICtx) (s : State) : Prop :=
  (c.scalar a).toNat < 256 ∧ ∃ q, SMap.get? (c.scalar a).toNat s.queries = some q ∧ q.isOf c.gr = true

theorem ownsQuery_iff (a : Src) (c : ICtx) (s : State) : OwnsQuery a c s ↔
    (decide ((c.scalar a).toNat < 256) && (SMap.get? (c.scalar a).toNat s.queries).any fun q => q.isOf c.gr) = true := by
  simp [OwnsQuery, Option.any_eq_true]

theorem xqfree_releases (h : Hdr) (a : Src) : Completes (.xqfree h a) h 8 (fun c s => OwnsQuery a c s ∧ c.acting h ≠ [])
    fun c s => { s with queries := SMap.erase (c.scalar a).toNat s.queries }.doneNow c h := by
  have hx (s : State) : exec (.xqfree h a) s = execXqfree h a s := rfl
  unfold execXqfree at hx
  refine completes_of_issue hx ?_
  rintro c s ⟨howns, hact⟩
  refine (if_pos ((ownsQuery_iff a c s).1 howns)).trans ?_
  rw [if_neg (by simpa using hact)]

theorem xqfree_noLane (h : Hdr) (a : Src) : Completes (.xqfree h a) h 8 (fun c s => OwnsQuery a c s ∧ c.acting h = [])
    fun c s => s.doneNow c h := by
  have hx (s : State) : exec (.xqfree h a) s = execXqfree h a s := rfl
  unfold execXqfree at hx
  refine completes_of_issue hx ?_
  rintro c s ⟨howns, hact⟩
  refine (if_pos ((ownsQuery_iff a c s).1 howns)).trans ?_
  rw [if_pos (by simp [hact])]

theorem xqfree_traps (h : Hdr) (a : Src) : Traps (.xqfree h a) h 8 (fun c s => ¬ OwnsQuery a c s) fun _ => tr cQuery := by
  have hx (s : State) : exec (.xqfree h a) s = execXqfree h a s := rfl
  unfold execXqfree at hx
  exact traps_of_issue hx fun c s hno => if_neg (mt (ownsQuery_iff a c s).2 hno)

-- Status instructions -----------------------------------------------------------------------------

theorem xstat_reads (h : Hdr) (d : Dst) (clr : Bool) : Completes (.xstat h d clr) h 8 (fun c s => s.outCount c.g c.w = 0)
    fun c s =>
      let s := s.unpin c
      let s := if h.nw || (c.acting h).isEmpty then s else s.setScalar c d (s.xstatWord c.g c.w c.wv)
      (if clr then s.modMe c fun wv => { wv with xstat := wv.xstat &&& ~~~0x80000000 } else s).doneNow c h := by
  have hx (s : State) : exec (.xstat h d clr) s = execXstat h d clr s := rfl
  unfold execXstat at hx
  exact completes_of_issue hx fun c s hout => if_neg (by simp [hout])

theorem xmask_moves (h : Hdr) (p : BitVec 3) (k : BitVec 4) :
    Completes (.xmask h p k) h 8 (fun c s => s.outCount c.g c.w = 0) fun c s =>
      let m : PVal := ⟨c.wv.vmask.extractLsb' (32 * k.toNat) 32, 0⟩
      ((s.unpin c).modMe c fun wv => { wv with p := setP wv.p p.toNat (PVal.merge (c.active h) m) }).doneNow c h := by
  have hx (s : State) : exec (.xmask h p k) s = execXmask h p k s := rfl
  unfold execXmask at hx
  exact completes_of_issue hx fun c s hout => if_neg (by simp [hout])

theorem xwait_goesOn (h : Hdr) (n : BitVec 2) : Completes (.xwait h n) h 8 (fun c s => s.outCount c.g c.w ≤ n.toNat)
    fun c s => (s.unpin c).doneNow c h := by
  have hx (s : State) : exec (.xwait h n) s = execXwait h n s := rfl
  unfold execXwait at hx
  exact completes_of_issue hx fun _ _ hout => if_neg (Nat.not_lt.2 hout)

theorem xstat_waits (h : Hdr) (d : Dst) (clr : Bool) :
    Traps (.xstat h d clr) h 8 (fun c s => 0 < s.outCount c.g c.w) fun _ => .await := by
  have hx (s : State) : exec (.xstat h d clr) s = execXstat h d clr s := rfl
  unfold execXstat at hx
  exact traps_of_issue hx fun _ _ hout => if_pos hout

theorem xmask_waits (h : Hdr) (p : BitVec 3) (k : BitVec 4) :
    Traps (.xmask h p k) h 8 (fun c s => 0 < s.outCount c.g c.w) fun _ => .await := by
  have hx (s : State) : exec (.xmask h p k) s = execXmask h p k s := rfl
  unfold execXmask at hx
  exact traps_of_issue hx fun _ _ hout => if_pos hout

theorem xwait_waits (h : Hdr) (n : BitVec 2) :
    Traps (.xwait h n) h 8 (fun c s => n.toNat < s.outCount c.g c.w) fun _ => .await := by
  have hx (s : State) : exec (.xwait h n) s = execXwait h n s := rfl
  unfold execXwait at hx
  exact traps_of_issue hx fun _ _ hout => if_pos hout

-- A query's values reach the row engines -------------------------------------------------------------

section Answered
variable (s : State) (r : Req) (d : Option Dst) (x : DWord)

theorem waitOf_answered {b : Blk} (h : (s.answered r d x).waitOf r.ag = some b) : b = .none := by
  unfold State.answered at h
  rw [waitOf_lower] at h
  exact eq_of_waitOf_block h

theorem queries_answered : (s.answered r d x).queries = s.queries := by
  have hlower (u : State) (ag : Agent) (fl : Option Nat) : (u.lower ag fl).queries = u.queries := by
    cases fl <;> cases ag <;> rfl
  have hblock (u : State) (ag : Agent) (b : Blk) : (u.block ag b).queries = u.queries := by cases ag <;> rfl
  have hset (u : State) (ag : Agent) (e : Dst) : (u.setFor ag e x).queries = u.queries := by
    unfold State.setFor
    split <;> rfl
  unfold State.answered
  rw [hlower, hblock]
  cases d with
  | none => rfl
  | some e => exact hset _ _ _

theorem sameRegisters_answered : SameRegisters
    (match d with
      | some e => State.setFor { s with reqs := s.reqs.filter fun y => y.id != r.id } r.ag e x
      | none => { s with reqs := s.reqs.filter fun y => y.id != r.id })
    (s.answered r d x) := by
  unfold State.answered
  exact (sameRegisters_block ..).trans (sameRegisters_lower ..)

end Answered

theorem wHeld_of_sameRegisters {s t : State} (h : SameRegisters s t) (g w j : Nat) : t.wHeld g w j = s.wHeld g w j := by
  have hw := h.1 g w
  unfold State.wHeld
  cases hs : s.waveAt g w <;> cases ht : t.waveAt g w <;> simp_all [Wave.regs]

theorem gHeld_of_sameRegisters {s t : State} (h : SameRegisters s t) (g j : Nat) : t.gHeld g j = s.gHeld g j := by
  have hq := h.2 g
  unfold State.gHeld
  cases hs : s.seqAt g <;> cases ht : t.seqAt g <;> simp_all [Seq.regs]

theorem wHeld_setFor {s : State} {g w sp j : Nat} (hj : j < 16) (hw : (s.waveAt g w).isSome = true) (x : DWord) :
    (s.setFor (.split g w sp) (.w j) x).wHeld g w j = x := by
  obtain ⟨wv, hwv⟩ := Option.isSome_iff_exists.1 hw
  simp only [State.setFor, State.wHeld, State.waveAt_modWave, and_self, if_true, hwv, Option.map_some,
    setW_getD _ _ _ _ hj]

theorem gHeld_setFor {s : State} {g j : Nat} (hj : j < 64) (hq : (s.seqAt g).isSome = true) (x : DWord) :
    (s.setFor (.seq g) (.g j) x).gHeld g j = x := by
  obtain ⟨q, hq⟩ := Option.isSome_iff_exists.1 hq
  simp only [State.setFor, State.gHeld, State.seqAt_modSeq, if_true, hq, Option.map_some, setG_getD _ _ _ _ hj]

section Loads
variable {s : State} {id q : Nat} {r : Req} {e : Dst} {nw : Bool} (hr : s.reqs.find? (fun r => r.id == id) = some r)
  (hk : r.kind = .query q e nw)
include hr hk

/-- The state in which query slot q is loaded. -/
def State.queryLoaded (s : State) (q : Nat) : State :=
  { s with queries := SMap.mod q (fun x => { x with loaded := true }) s.queries }

theorem execQueryLoadComplete_eq : exec (.queryLoadComplete id) s
    = .next ((s.queryLoaded q).answered r (if nw then none else some e) (BitVec.ofNat 64 q)) := by
  show execQueryLoadComplete id s = _
  unfold execQueryLoadComplete
  rw [hr]
  dsimp only
  rw [hk]
  rfl

theorem execQueryLoadComplete_answers : ∃ t, exec (.queryLoadComplete id) s = .next t ∧ SameMemory s t
    ∧ SMap.get? q t.queries = (SMap.get? q s.queries).map (fun x => { x with loaded := true })
    ∧ (∀ g w sp j, r.ag = .split g w sp → e = .w j → j < 16 → nw = false → (s.waveAt g w).isSome = true →
        t.wHeld g w j = BitVec.ofNat 64 q)
    ∧ (∀ g j, r.ag = .seq g → e = .g j → j < 64 → nw = false → (s.seqAt g).isSome = true →
        t.gHeld g j = BitVec.ofNat 64 q)
    ∧ (nw = true → SameRegisters s t)
    ∧ ∀ b, t.waitOf r.ag = some b → b = .none := by
  refine ⟨_, execQueryLoadComplete_eq hr hk, ?_, ?_, ?_, ?_, ?_, fun b => waitOf_answered _ _ _ _⟩
  · exact sameMemory_of_memories (memories_answered (s.queryLoaded q) ..)
  · rw [queries_answered, State.queryLoaded, SMap.get?_mod, if_pos rfl]
  · rintro g w sp j hag rfl hj rfl hw
    rw [wHeld_of_sameRegisters (sameRegisters_answered ..), hag]
    exact wHeld_setFor (sp := sp) hj hw _
  · rintro g j hag rfl hj rfl hq
    rw [gHeld_of_sameRegisters (sameRegisters_answered ..), hag]
    exact gHeld_setFor hj hq _
  · rintro rfl
    exact sameRegisters_answered (s.queryLoaded q) r none _

end Loads

-- A slot is read again from its backing -----------------------------------------------------------------

/-- A query slot with the values in the bytes of its backing. -/
def Query.reloaded (x : Query) (bs : List Byte) : Query :=
  { x with vals := (List.range x.e).map fun i => BitVec.ofNat 32 (leVal ((bs.drop (4 * i)).take 4)), loaded := true }

theorem queries_send (s : State) (r : FRec) : (s.send r).queries = s.queries :=
  show (s.send r).besideRecords.queries = s.besideRecords.queries by rw [State.send, besideRecords_sendTo]

theorem grp_send (s : State) (r : FRec) (g : Nat) : (s.send r).grp g = s.grp g := grp_sendTo s r.core r g

section Reload
variable {s t : State} {q g : Nat} {x : Query} {gr : Group} {gd : Grid} {r : Except (Nat × Nat) (List Byte)}
  (hq : SMap.get? q s.queries = some x) (hown : s.groups.find? (fun y => x.isOf y.2) = some (g, gr))
  (hgd : s.grid gr.grid gr.ctx = some gd) (hl : x.loaded = false) (hh : gr.halting = none) (hw : gr.slotWait = none)
  (hreq : ∀ r ∈ s.reqs, ∀ e nw, r.kind ≠ .query q e nw)
include hq hown hgd hl hh hw hreq

theorem execQuerySlotReload_reads
    (hread : s.readVa (s.xunit gr.ctx (backingVa gd.lrec.area gr.kobj.amax gr.slot x.sub)) gr.ctx none
      (backingVa gd.lrec.area gr.kobj.amax gr.slot x.sub) (4 * x.e) = (t, r)) :
    (∀ bs, r = .ok bs → exec (.querySlotReload q) s = .next { t with queries := SMap.set q (x.reloaded bs) t.queries })
    ∧ (∀ fva, r = .error (cNotPresent, fva) → exec (.querySlotReload q) s
      = .next ((t.modGrp g fun y => { y with slotWait := some fva }).send
        (gr.report g cNotPresent 0x01 0 false (some fva) 0 [])))
    ∧ ∀ f fva, f ≠ cNotPresent → r = .error (f, fva) →
      exec (.querySlotReload q) s = .next (t.endTask g (gr.report g f 0 0 false (some fva) 0 [])) := by
  have hnone : ¬ (false || s.reqs.any fun r => match r.kind with | .query k _ _ => k == q | _ => false) = true := by
    rw [Bool.false_or, List.any_eq_true]
    rintro ⟨r, hr, hk⟩
    cases hkind : r.kind with
    | query k e nw =>
      rw [hkind] at hk
      exact hreq r hr e nw (eq_of_beq hk ▸ hkind)
    | _ => simp [hkind] at hk
  have hx : exec (.querySlotReload q) s = execQuerySlotReload q s := rfl
  simp only [execQuerySlotReload, hq, hown, hgd, hl, hh, hw, hread, Option.isSome_none, Bool.or_self] at hx
  replace hx := hx.trans (if_neg hnone)
  refine ⟨?_, ?_, ?_⟩
  · rintro bs rfl
    exact hx
  · rintro fva rfl
    exact hx
  · rintro f fva hf rfl
    rw [hx]
    exact if_neg hf

end Reload

/-- Settles O31: the cases of each instruction, and what the two events of a query slot do. -/
theorem querySlotsAndStatus : Obligations.QuerySlotsAndStatus := by
  unfold Obligations.QuerySlotsAndStatus
  intro h d a slot p k n clr ofs fits owns
  refine ⟨fun hd => xqload_claims h d a slot hd, fun hd => xqload_full h d a slot hd,
    fun hd => xqload_noLane h d a slot hd, xqload_holds h d a slot, xqload_badHandle h d a slot,
    fun hd => xqload_badRange h d a slot hd, xqfree_releases h a, xqfree_noLane h a, xqfree_traps h a,
    xstat_reads h d clr, xmask_moves h p k, xwait_goesOn h n, ?_, xwait_waits h n,
    fun s id r q e nw hr hk => execQueryLoadComplete_answers hr hk, ?_⟩
  · intro i hi
    rcases List.mem_pair.1 hi with rfl | rfl
    · exact xstat_waits h d clr
    · exact xmask_waits h p k
  · intro s q x g gr gd t r hq hown hgrp hgd hl hh hw hreq va hread
    obtain ⟨hvalues, habsent, hfault⟩ := execQuerySlotReload_reads hq hown hgd hl hh hw hreq hread
    have hbeside : t.besideMemory = s.besideMemory :=
      show ((t, r) : State × _).1.besideMemory = _ by rw [← hread]; exact besideMemory_readVa ..
    refine ⟨fun bs hbs => ⟨_, hvalues bs hbs, SMap.get?_set_same ..⟩,
      fun fva hfva => ⟨_, habsent fva hfva, ?_, ?_⟩, hfault⟩
    · rw [queries_send, State.modGrp_queries, queries_of_besideMemory hbeside]
    · rw [grp_send, State.grp_modGrp, if_pos rfl, grp_of_besideMemory hbeside, hgrp]
      rfl

end Sys2Proof.Machine
end

section
/-!
SUPPORT. A transport operation on its way: how it is found and changed, its first slot, the replies of other packages and
the requests they make (05 R113, R114, R116, R123).
-/

namespace Sys2Proof.Machine

-- Operations in flight --------------------------------------------------------------------------

theorem State.xop_id {s : State} {id : Nat} {o : XOp} (h : s.xop id = some o) : o.id = id := by
  simpa using List.find?_some h

theorem State.xop_congr {s t : State} (h : t.xops = s.xops) (id : Nat) : t.xop id = s.xop id := by
  rw [State.xop, State.xop, h]

theorem State.xop_putX {s : State} {id : Nat} {f : XOp → XOp} {o : XOp} (hf : ∀ o, (f o).id = o.id)
    (ho : s.xop id = some o) : (s.putX id f).xop id = some (f o) := by
  have hid (o : XOp) : (if o.id == id then f o else o).id = o.id := by split <;> simp [hf]
  have hsame : ((fun x : XOp => x.id == id) ∘ fun o => if o.id == id then f o else o) = fun o => o.id == id :=
    funext fun o => by simp only [Function.comp_apply, hid]
  unfold State.xop State.putX at *
  rw [List.find?_map, hsame, ho, Option.map_some, if_pos (List.find?_some ho)]

theorem State.mem_putX {s : State} {id : Nat} {f : XOp → XOp} {z : XOp} (hz : z ∈ (s.putX id f).xops) (hid : z.id = id) : ∃ o ∈ s.xops, z = f o := by
  obtain ⟨o, ho, rfl⟩ := List.mem_map.1 hz
  by_cases h : o.id = id
  · exact ⟨o, ho, if_pos (by simp [h])⟩
  · rw [if_neg (by simpa using h)] at hid
    exact absurd hid h

@[simp] theorem State.xops_block (s : State) (ag : Agent) (b : Blk) : (s.block ag b).xops = s.xops := by cases ag <;> rfl

@[simp] theorem State.xops_requests (s : State) (o : XOp) (gr : Group) (slots : List XSlot) :
    (s.requests o gr slots).xops = s.xops :=
  List.foldlRecOn (motive := fun t : State => t.xops = s.xops) _ _ rfl fun _ h _ _ => h

/-- The operation with its slots as routed, on its way. -/
theorem State.xop_startX {s : State} {o : XOp} (ho : s.xop o.id = some o) (gr : Group) (slots : List XSlot) :
    ∃ z, (s.startX o gr slots).xop o.id = some z ∧ z.started = true ∧ z.slots = slots := by
  refine ⟨{ o with slots := slots, started := true }, ?_, rfl, rfl⟩
  unfold State.startX
  rw [State.xop_congr ((State.xops_block ..).trans (State.xops_requests ..))]
  exact State.xop_putX (fun _ => rfl) ho

theorem State.waitOf_startX {s : State} {o : XOp} {gr : Group} {slots : List XSlot} {b : Blk}
    (h : (s.startX o gr slots).waitOf o.ag = some b) : b = .none := eq_of_waitOf_block h

-- The first slot ----------------------------------------------------------------------------------

section FirstSlot
variable {s t : State} {id : Nat} {o : XOp} {gr : Group} {x0 : XSlot} {rest0 : List XSlot}
  (ho : s.xop id = some o) (hg : s.grp o.g = some gr) (hst : o.started = false) (hsl : o.slots = x0 :: rest0)
include ho

theorem firstSlot_other {j : Nat} (hsl : o.slots = x0 :: rest0) (hj : j ≠ x0.j) :
    exec (.transportFirstSlot id j) s = .next s := by
  have hexec : exec (.transportFirstSlot id j) s = execTransportFirstSlot id j s := rfl
  have hno : (o.started || x0.j != j) = true := by simp [Ne.symm hj]
  cases hg : s.grp o.g with
  | none => simpa only [execTransportFirstSlot, ho, hsl, hg] using hexec
  | some gr => simpa only [execTransportFirstSlot, ho, hsl, hg, hno, if_true] using hexec

include hg hst hsl

section Routed
variable (ha : o.asked = false)
include ha

theorem firstSlot_tableFault {cause va : Nat} (hr : s.route gr.ctx o.h o.slots = (t, .error (cause, va))) :
    exec (.transportFirstSlot id x0.j) s = .next (t.firstFails o x0.j cause (some va)) := by
  have hexec : exec (.transportFirstSlot id x0.j) s = execTransportFirstSlot id x0.j s := rfl
  rw [hsl] at hr
  simpa only [execTransportFirstSlot, ho, hsl, hg, hst, ha, bne_self_eq_false, Bool.or_self, Bool.false_eq_true,
    if_false, hr] using hexec

variable {x : XSlot} {rest : List XSlot} (hr : s.route gr.ctx o.h o.slots = (t, .ok (x :: rest)))
include hr

theorem firstSlot_refused {cause : Nat} (hc : x.cause = some cause) :
    exec (.transportFirstSlot id x0.j) s = .next (t.firstFails o x.j cause none) := by
  have hexec : exec (.transportFirstSlot id x0.j) s = execTransportFirstSlot id x0.j s := rfl
  rw [hsl] at hr
  simpa only [execTransportFirstSlot, ho, hsl, hg, hst, ha, bne_self_eq_false, Bool.or_self, Bool.false_eq_true,
    if_false, hr, hc] using hexec

theorem firstSlot_away {pk : Nat} (hc : x.cause = none) (hp : x.pkg = some pk) :
    exec (.transportFirstSlot id x0.j) s
      = .next ((t.putX id fun o => { o with slots := x :: rest, asked := true }).requestTo o gr pk true [x]) := by
  have hexec : exec (.transportFirstSlot id x0.j) s = execTransportFirstSlot id x0.j s := rfl
  rw [hsl] at hr
  simpa only [execTransportFirstSlot, ho, hsl, hg, hst, ha, bne_self_eq_false, Bool.or_self, Bool.false_eq_true,
    if_false, hr, hc, hp] using hexec

theorem firstSlot_rowFault {u : State} {cause va : Nat} (hc : x.cause = none) (hp : x.pkg = none)
    (hq : t.resolveRow gr.ctx o.form o.h x.row = (u, .error (cause, va))) :
    exec (.transportFirstSlot id x0.j) s = .next (u.firstFails o x.j cause (some va)) := by
  have hexec : exec (.transportFirstSlot id x0.j) s = execTransportFirstSlot id x0.j s := rfl
  rw [hsl] at hr
  simpa only [execTransportFirstSlot, ho, hsl, hg, hst, ha, bne_self_eq_false, Bool.or_self, Bool.false_eq_true,
    if_false, hr, hc, hp, hq] using hexec

theorem firstSlot_here {u : State} {ts : List (List (Tgt × Nat))} (hc : x.cause = none) (hp : x.pkg = none)
    (hq : t.resolveRow gr.ctx o.form o.h x.row = (u, .ok ts)) :
    exec (.transportFirstSlot id x0.j) s = .next (u.startX o gr ({ x with res := some ts } :: rest)) := by
  have hexec : exec (.transportFirstSlot id x0.j) s = execTransportFirstSlot id x0.j s := rfl
  rw [hsl] at hr
  simpa only [execTransportFirstSlot, ho, hsl, hg, hst, ha, bne_self_eq_false, Bool.or_self, Bool.false_eq_true,
    if_false, hr, hc, hp, hq] using hexec

end Routed

theorem firstSlot_answered {cause : Nat} (ha : o.asked = true) (hc : x0.cause = some cause) :
    exec (.transportFirstSlot id x0.j) s = .next (if cause = 0
      then s.startX o gr ({ x0 with cause := none, bytes := [] } :: rest0)
      else s.firstFails o x0.j cause (if cause = cNotPresent then some (o.h.elemAt (o.h.index x0.row 0)).1 else none)) := by
  have hexec : exec (.transportFirstSlot id x0.j) s = execTransportFirstSlot id x0.j s := rfl
  rw [hexec, apply_ite Host.Outcome.next]
  simp only [execTransportFirstSlot, ho, hsl, hg, hst, ha, bne_self_eq_false, hc, Bool.or_self,
    Bool.false_eq_true, if_false, if_true]

end FirstSlot

end Sys2Proof.Machine
end

section
/-!
SUPPORT. Replies of other packages, the timeout, the requests of other packages, and the record in XSTAT (05 R113, R114, R116,
R126).
-/

namespace Sys2Proof.Machine

-- Replies -------------------------------------------------------------------------------------------

section Reply
variable {s : State} {id pkg : Nat} {o : XOp} (ho : s.xop id = some o)

/-- The row that the slot which tags a row of a reply names. -/
def XOp.taggedRow (o : XOp) (pkg : Nat) (r : RemoteRow) : Option Nat :=
  (o.slots.find? fun q => q.j == r.slot && q.pkg == some pkg).map XSlot.row

/-- A slot after a reply of a package. -/
def XOp.slotReplied (o : XOp) (pkg : Nat) (rows : List RemoteRow) (x : XSlot) : XSlot :=
  if o.waitsFor pkg x then
    match rows.find? fun r => o.taggedRow pkg r == some x.row with
    | some r => { x with cause := some r.cause, bytes := r.bytes.take o.h.rowBytes }
    | none => x
  else x

theorem XOp.slotReplied_keeps (o : XOp) (pkg : Nat) (rows : List RemoteRow) (x : XSlot) :
    (o.slotReplied pkg rows x).j = x.j ∧ (o.slotReplied pkg rows x).idx = x.idx
      ∧ (o.slotReplied pkg rows x).row = x.row := by
  unfold XOp.slotReplied
  split
  · split <;> exact ⟨rfl, rfl, rfl⟩
  · exact ⟨rfl, rfl, rfl⟩

theorem XOp.slotReplied_of_not_waitsFor {o : XOp} {x : XSlot} (h : o.waitsFor pkg x = false) (rows : List RemoteRow) :
    o.slotReplied pkg rows x = x := by simp [XOp.slotReplied, h]

theorem XOp.slotReplied_of_row {o : XOp} {x : XSlot} {rows : List RemoteRow} {r : RemoteRow} (h : o.waitsFor pkg x = true)
    (hr : rows.find? (fun r => o.taggedRow pkg r == some x.row) = some r) :
    o.slotReplied pkg rows x = { x with cause := some r.cause, bytes := r.bytes.take o.h.rowBytes } := by
  simp [XOp.slotReplied, h, hr]

/-- A slot after the timeout of a package. -/
def XSlot.unanswered (pkg : Nat) (x : XSlot) : XSlot :=
  if x.pkg = some pkg ∧ x.cause = none then { x with cause := some cNoReply } else x

include ho

theorem execTransportReply_eq {rows : List RemoteRow} (hw : o.started = true ∨ o.asked = true)
    (hc : ∀ r ∈ rows, r.cause ≤ 9) : ∃ t, exec (.transportReply id pkg rows) s = .next t ∧ SameMemory s t
      ∧ SameRegisters s t ∧ t.xop id = some { o with slots := o.slots.map (o.slotReplied pkg rows) } := by
  have hgo : ¬ (!(o.started || o.asked) || rows.any fun r => decide (9 < r.cause)) = true := by
    simpa [Bool.or_eq_true_iff.2 hw] using hc
  have hexec : exec (.transportReply id pkg rows) s = execTransportReply id pkg rows s := rfl
  simp only [execTransportReply, ho] at hexec
  refine ⟨_, hexec.trans (if_neg hgo), sameMemory_of_memories rfl, sameRegisters_of_groups rfl, ?_⟩
  exact State.xop_putX (fun _ => rfl) ho

theorem execTransportReplyTimeout_eq (hst : o.started = true) (ht : s.timedOut o = true)
    (hx : ∃ x ∈ o.slots, x.pkg = some pkg ∧ x.cause = none) :
    ∃ t, exec (.transportReplyTimeout id pkg) s = .next t ∧ SameMemory s t ∧ SameRegisters s t
      ∧ t.xop id = some { o with slots := o.slots.map (XSlot.unanswered pkg) } := by
  have hwaits (x : XSlot) : o.waitsFor pkg x = true ↔ x.pkg = some pkg ∧ x.cause = none := by
    simp [XOp.waitsFor, hst]
  have hgo : ¬ (!(o.started || o.asked) || !s.timedOut o || !o.slots.any (o.waitsFor pkg)) = true := by
    simpa [hst, ht, hwaits] using hx
  have hexec : exec (.transportReplyTimeout id pkg) s = execTransportReplyTimeout id pkg s := rfl
  simp only [execTransportReplyTimeout, ho] at hexec
  refine ⟨_, hexec.trans (if_neg hgo), sameMemory_of_memories rfl, sameRegisters_of_groups rfl, ?_⟩
  refine (State.xop_putX ?_ ho).trans ?_
  · exact fun _ => rfl
  · simp only [hwaits]
    rfl

end Reply

-- Requests of other packages ------------------------------------------------------------------------

theorem rowsOf_singleton (x : XSlot) : rowsOf [x] = [(x.row, [x])] := by simp [rowsOf, distinct]

section Serve
variable {s u : State} {req : RemoteReq} {h : Layout} {a : RemoteAsk}

theorem serveRows_fault {cause va : Nat} (hr : s.resolveRow req.tag req.form h a.row = (u, .error (cause, va))) :
    s.serveRows req h [a] = (u, [⟨a.slot, a.bag, cause, []⟩]) := by
  simp only [State.serveRows, hr]

variable {ts : List (List (Tgt × Nat))} (hr : s.resolveRow req.tag req.form h a.row = (u, .ok ts))
include hr

theorem serveRows_first (hf : req.first = true) : s.serveRows req h [a] = (u, [⟨a.slot, a.bag, 0, []⟩]) := by
  simp only [State.serveRows, hr, hf, if_true]

theorem serveRows_read (hf : req.first = false) (hs : scatters req.form = false) :
    s.serveRows req h [a] = (u, [⟨a.slot, a.bag, 0, u.rowRead none h a.row ts⟩]) := by
  simp only [State.serveRows, hr, hf, hs, Bool.false_eq_true, if_false]

end Serve

section Request
variable {s : State} {req : RemoteReq} {u : State} {rows : List RemoteRow}

/-- The state with the answer to a request on its way out. -/
def State.answersRequest (s : State) (req : RemoteReq) (rows : List RemoteRow) : State :=
  { s with outbox := s.outbox ++ [.remote req.pkg req.reqId rows] }

theorem execTransportRemoteRequest_unpaired (hp : (s.pairing req.tag).2.contains req.pkg = false) :
    exec (.transportRemoteRequest req) s = .next ((s.pairing req.tag).1.answersRequest req
      (req.rows.map fun a => ⟨a.slot, a.bag, cShard, []⟩)) := by
  show execTransportRemoteRequest req s = _
  simp only [execTransportRemoteRequest, hp, Bool.false_eq_true, if_false]
  rfl

theorem execTransportRemoteRequest_paired (hp : (s.pairing req.tag).2.contains req.pkg = true)
    (hs : (s.pairing req.tag).1.serveRows req (remoteLayout req) req.rows = (u, rows)) :
    exec (.transportRemoteRequest req) s = .next (u.answersRequest req rows) := by
  show execTransportRemoteRequest req s = _
  simp only [execTransportRemoteRequest, hp, if_true, hs]
  rfl

/-- A request is answered with a row for each that it asks for, and one of a package that is not paired with shard missing. -/
theorem execTransportRemoteRequest_answers (s : State) (req : RemoteReq) :
    ∃ u rows, exec (.transportRemoteRequest req) s = .next (u.answersRequest req rows) ∧ rows.length = req.rows.length
      ∧ u.outbox = s.outbox
      ∧ ((s.pairing req.tag).2.contains req.pkg = false → u = (s.pairing req.tag).1 ∧ ∀ r ∈ rows, r.cause = cShard)
      ∧ ((s.pairing req.tag).2.contains req.pkg = true →
        (s.pairing req.tag).1.serveRows req (remoteLayout req) req.rows = (u, rows)) := by
  have hpair := outbox_of_besideMemory (besideMemory_pairing s req.tag)
  cases hp : (s.pairing req.tag).2.contains req.pkg with
  | false =>
    exact ⟨_, _, execTransportRemoteRequest_unpaired hp, by simp, hpair, fun _ => ⟨rfl, by simp⟩, by simp⟩
  | true =>
    refine ⟨_, _, execTransportRemoteRequest_paired hp rfl, length_serveRows .., ?_, by simp, fun _ => rfl⟩
    exact (outbox_of_besideMemory (besideMemory_serveRows ..)).trans hpair

end Request

-- XSTAT -----------------------------------------------------------------------------------------------

theorem bit_foldl_valid (xs : List XSlot) (m : BitVec 512) {j : Nat} (hj : j < 512) :
    bit (xs.foldl (fun m x => if x.valid then m ||| BitVec.ofNat 512 (2 ^ x.j) else m) m) j
      = (bit m j || xs.any fun x => x.j == j && x.valid) := by
  induction xs generalizing m with
  | nil => simp
  | cons x t ih =>
    rw [List.foldl_cons, ih]
    cases hv : x.valid with
    | true =>
      have hbit : bit (m ||| BitVec.ofNat 512 (2 ^ x.j)) j = (bit m j || x.j == j) := by
        have hpow := bit_ofNat_pow (k := x.j) hj
        unfold bit at *
        rw [BitVec.getLsbD_or, hpow, beq_eq_decide]
        simp only [eq_comm]
      rw [if_pos rfl, hbit]
      simp [hv, Bool.or_assoc]
    | false => simp [hv]

theorem XOp.bit_vmask (o : XOp) {j : Nat} (hj : j < 512) : bit o.vmask j = o.slots.any fun x => x.j == j && x.valid := by
  refine (bit_foldl_valid o.slots 0 hj).trans ?_
  simp [bit]

/-- The part of XSTAT that the first bad slot gives. -/
def badWord (b : Option XSlot) : DWord :=
  match b with
  | some x => BitVec.ofNat 64 (0x80000000 + (x.cause.getD 0) * 2 ^ 24 + x.j)
  | none => 0

theorem XOp.status_eq (o : XOp) (old : DWord) : o.status old
    = BitVec.ofNat 64 ((o.slots.filter XSlot.valid).length * 2 ^ 32) ||| (old &&& 0x80000000)
      ||| badWord (o.slots.find? fun x => !x.valid) := rfl

theorem badWord_lt {b : Option XSlot} (h : ∀ x, b = some x → x.cause.getD 0 < 16 ∧ x.j < 512) :
    (badWord b).toNat < 2 ^ 32 := by
  cases b with
  | none => decide
  | some x =>
    have := h x rfl
    simp only [badWord, BitVec.toNat_ofNat]
    omega

section Status
variable (n : Nat) (old w : DWord)

theorem getLsbD_status {i : Nat} (hi : i < 64) :
    (BitVec.ofNat 64 (n * 2 ^ 32) ||| (old &&& 0x80000000) ||| w).getLsbD i
      = (decide (32 ≤ i) && n.testBit (i - 32) || old.getLsbD i && decide (i = 31) || w.getLsbD i) := by
  have hbit : (0x80000000 : DWord).getLsbD i = decide (i = 31) := bit_ofNat_pow (k := 31) hi
  rw [BitVec.getLsbD_or, BitVec.getLsbD_or, BitVec.getLsbD_and, hbit, BitVec.getLsbD_ofNat, Nat.testBit_mul_two_pow]
  simp [hi]

theorem count_status (hw : w.toNat < 2 ^ 32) :
    (BitVec.ofNat 64 (n * 2 ^ 32) ||| (old &&& 0x80000000) ||| w).extractLsb' 32 10 = BitVec.ofNat 10 n := by
  refine BitVec.eq_of_getLsbD_eq fun i hi => ?_
  have hz : w.getLsbD (32 + i) = false :=
    Nat.testBit_lt_two_pow (hw.trans_le (Nat.pow_le_pow_right (by decide) (by omega)))
  have hi31 : 32 + i ≠ 31 := by omega
  rw [BitVec.getLsbD_extractLsb', getLsbD_status _ _ _ (by omega), hz, BitVec.getLsbD_ofNat]
  simp [hi31]

theorem low_status {k len : Nat} (hk : k + len ≤ 31) :
    (BitVec.ofNat 64 (n * 2 ^ 32) ||| (old &&& 0x80000000) ||| w).extractLsb' k len = w.extractLsb' k len := by
  refine BitVec.eq_of_getLsbD_eq fun i hi => ?_
  have h32 : ¬ 32 ≤ k + i := by omega
  have h31 : k + i ≠ 31 := by omega
  rw [BitVec.getLsbD_extractLsb', BitVec.getLsbD_extractLsb', getLsbD_status _ _ _ (by omega)]
  simp [h32, h31]

theorem error_status :
    bit (BitVec.ofNat 64 (n * 2 ^ 32) ||| (old &&& 0x80000000) ||| w) 31 = (bit old 31 || bit w 31) := by
  unfold bit
  rw [getLsbD_status _ _ _ (by decide)]
  simp

end Status

section BadWord
variable {x : XSlot} (hc : x.cause.getD 0 < 16) (hj : x.j < 512)
include hc hj

theorem toNat_badWord : (badWord (some x)).toNat = 2 ^ 31 + x.cause.getD 0 * 2 ^ 24 + x.j := by
  simp only [badWord, BitVec.toNat_ofNat]
  omega

theorem cause_badWord : (badWord (some x)).extractLsb' 24 4 = BitVec.ofNat 4 (x.cause.getD 0) := by
  apply BitVec.eq_of_toNat_eq
  rw [BitVec.extractLsb'_toNat, toNat_badWord hc hj, BitVec.toNat_ofNat, Nat.shiftRight_eq_div_pow]
  omega

theorem slot_badWord : (badWord (some x)).extractLsb' 0 9 = BitVec.ofNat 9 x.j := by
  apply BitVec.eq_of_toNat_eq
  rw [BitVec.extractLsb'_toNat, toNat_badWord hc hj, BitVec.toNat_ofNat, Nat.shiftRight_eq_div_pow]
  omega

theorem error_badWord : bit (badWord (some x)) 31 = true := by
  rw [bit, BitVec.getLsbD, toNat_badWord hc hj, Nat.testBit_eq_decide_div_mod_eq]
  simp only [decide_eq_true_eq]
  omega

end BadWord

/-- The oldest operation of a wave whose slots have their outcomes is recorded. -/
theorem execXstatRecord_records {s : State} {g w : Nat} {o : XOp}
    (ho : s.xops.find? (fun o => o.g == g && o.w == w && !o.recorded) = some o) (hr : o.resolved = true) :
    exec (.xstatRecord g w) s = .next ((s.modWave g w fun wv => { wv with xstat := o.status wv.xstat, vmask := o.vmask }).putX
      o.id fun o => { o with recorded := true }) := by
  have hexec : exec (.xstatRecord g w) s = execXstatRecord g w s := rfl
  simpa only [execXstatRecord, ho, hr, if_true] using hexec

/-- What XSTAT holds of an operation: its count, its error bit, and the cause and number of its first bad slot. -/
theorem XOp.status_fields {o : XOp} (hs : ∀ x ∈ o.slots, x.j < 512 ∧ x.cause.getD 0 < 16) (old : DWord) :
    (o.status old).extractLsb' 32 10 = BitVec.ofNat 10 (o.slots.filter XSlot.valid).length
      ∧ bit (o.status old) 31 = (bit old 31 || o.slots.any fun x => !x.valid)
      ∧ (∀ x, o.slots.find? (fun x => !x.valid) = some x →
          (o.status old).extractLsb' 24 4 = BitVec.ofNat 4 (x.cause.getD 0)
            ∧ (o.status old).extractLsb' 0 9 = BitVec.ofNat 9 x.j)
      ∧ ((∀ x ∈ o.slots, x.valid = true) → (o.status old).extractLsb' 24 4 = 0 ∧ (o.status old).extractLsb' 0 9 = 0) := by
  have hbad (x : XSlot) (hx : o.slots.find? (fun x => !x.valid) = some x) : x.cause.getD 0 < 16 ∧ x.j < 512 :=
    (hs x (List.mem_of_find?_eq_some hx)).symm
  rw [o.status_eq]
  refine ⟨count_status _ _ _ (badWord_lt hbad), ?_, fun x hx => ?_, fun hall => ?_⟩
  · rw [error_status]
    congr 1
    cases hx : o.slots.find? fun x => !x.valid with
    | none =>
      rw [List.find?_eq_none] at hx
      simpa [badWord, bit] using hx
    | some x =>
      rw [error_badWord (hbad x hx).1 (hbad x hx).2, eq_comm, List.any_eq_true]
      exact ⟨x, List.mem_of_find?_eq_some hx, List.find?_some (p := fun x : XSlot => !x.valid) hx⟩
  · rw [low_status _ _ _ (by decide), low_status _ _ _ (by decide), hx]
    exact ⟨cause_badWord (hbad x hx).1 (hbad x hx).2, slot_badWord (hbad x hx).1 (hbad x hx).2⟩
  · have hnone : o.slots.find? (fun x => !x.valid) = none := by simpa [List.find?_eq_none] using hall
    rw [low_status _ _ _ (by decide), low_status _ _ _ (by decide), hnone]
    exact ⟨rfl, rfl⟩

end Sys2Proof.Machine
end

section
/-!
SUPPORT. What the row engines do for a row: its outcome, its bytes, and the updates of a scatter (05 R114, R125 to R129).
-/

namespace Sys2Proof.Machine

-- Contributions ---------------------------------------------------------------------------------------

/-- The row of the source tile that a slot of a scatter gives. -/
def Group.sourceRow (gr : Group) (o : XOp) (x : XSlot) : List Word := (List.range o.h.rowElems).map (gr.sourceWord o x)

@[simp] theorem Group.length_sourceRow (gr : Group) (o : XOp) (x : XSlot) : (gr.sourceRow o x).length = o.h.rowElems := by
  simp [Group.sourceRow]

theorem Group.contribution_eq (gr : Group) (o : XOp) (xs : List XSlot) :
    gr.contribution o xs = foldRows (foldWord o.form (o.h.etype == 5)) (xs.map (gr.sourceRow o)) := rfl

theorem Group.length_of_mem_sourceRows {gr : Group} {o : XOp} {xs : List XSlot} :
    ∀ r ∈ xs.map (gr.sourceRow o), r.length = o.h.rowElems := by simp

theorem Group.getD_sourceRow (gr : Group) (o : XOp) (x : XSlot) {i : Nat} (hi : i < o.h.rowElems) :
    (gr.sourceRow o x).getD i 0 = gr.sourceWord o x i := by
  simp [Group.sourceRow, List.getD_eq_getElem?_getD, hi]

theorem Group.length_contribution (gr : Group) (o : XOp) {xs : List XSlot} (h : xs ≠ []) :
    (gr.contribution o xs).length = o.h.rowElems :=
  length_foldRows (by simpa using h) Group.length_of_mem_sourceRows

theorem Group.getD_contribution_singleton (gr : Group) (o : XOp) (x : XSlot) {i : Nat} (hi : i < o.h.rowElems) :
    (gr.contribution o [x]).getD i 0 = gr.sourceWord o x i := gr.getD_sourceRow o x hi

theorem Group.getD_contribution_append (gr : Group) (o : XOp) {xs : List XSlot} (x : XSlot) (hne : xs ≠ []) {i : Nat}
    (hi : i < o.h.rowElems) : (gr.contribution o (xs ++ [x])).getD i 0
      = foldWord o.form (o.h.etype == 5) ((gr.contribution o xs).getD i 0) (gr.sourceWord o x i) := by
  have hlen := gr.length_contribution o hne
  rw [Group.contribution_eq] at hlen
  rw [Group.contribution_eq, List.map_append, List.map_cons, List.map_nil, foldRows_append (by simpa using hne),
    getD_zipWith _ (by rw [hlen]; exact hi) (by rw [Group.length_sourceRow]; exact hi), Group.getD_sourceRow _ _ _ hi]
  rfl

theorem scatterRule_rowUpdate (isMax isInt : Bool) (m f : Word) : ScatterRule isMax isInt m f (rowUpdate isMax isInt m f) := by
  cases isMax <;> cases isInt
  · rfl
  · rfl
  · simpa [ScatterRule] using rowUpdate_max_float m f
  · simp [ScatterRule, rowUpdate, BitVec.slt]

-- Bytes -------------------------------------------------------------------------------------------------

@[simp] theorem length_bytesOf (n v : Nat) : (bytesOf n v).length = n := by simp [bytesOf]

theorem getD_bytesOf {n k : Nat} (hk : k < n) (v : Nat) : (bytesOf n v).getD k 0 = byteOf v k := by
  simp [bytesOf, byteOf, List.getD_eq_getElem?_getD, hk]

-- The update of one element -------------------------------------------------------------------------------

/-- One element's targets and folded word in a row that a scatter updates. -/
abbrev ScatterItem := Int × List (Tgt × Nat) × Word

/-- The update of one element of a row by a scatter (R129, R137). -/
def State.scatterElem (o : XOp) (s : State) (p : ScatterItem) : State :=
  let isMax := o.form == .scmax
  let isInt := o.h.etype == 5
  let s := s.sign o.g 136 (o.h.elemAt p.1).1 (bytesOf 4 p.2.2.toNat)
  match s.grp o.g with
  | some gr =>
    if gr.versioned then
      s.modGrp o.g fun gr => { gr with buf := bufInsert (o.id, .row isMax isInt p.2.1 p.2.2) gr.buf }
    else
      let s := s.rowApply isMax isInt p.2.1 p.2.2
      (Contrib.row isMax isInt p.2.1 p.2.2).places.foldl (fun (s : State) a => s.l1Drop (coreOf o.g) a) s
  | none => s

/-- Element i of a row that a scatter updates. -/
def XOp.item (o : XOp) (row : Nat) (ts : List (List (Tgt × Nat))) (f : List Word) (i : Nat) : ScatterItem :=
  (o.h.index row i, ts.getD i [], f.getD i 0)

theorem State.scatterRow_eq (s : State) (o : XOp) (row : Nat) {ts : List (List (Tgt × Nat))} {f : List Word}
    (ht : ts.length = o.h.rowElems) (hf : f.length = o.h.rowElems) :
    s.scatterRow o row ts f = ((List.range o.h.rowElems).map (o.item row ts f)).foldl (State.scatterElem o) s := by
  have hitems : (o.h.rowIndices row).zip (ts.zip f) = (List.range o.h.rowElems).map (o.item row ts f) := by
    refine List.ext_getElem (by simp [Layout.rowIndices, ht, hf]) fun i hi hj => ?_
    have hie : i < o.h.rowElems := by simpa using hj
    simp [Layout.rowIndices, XOp.item, List.getD_eq_getElem?_getD, ht, hf, hie]
  rw [← hitems]
  rfl

/-- A signature's partial grows, and no more of a group. -/
theorem State.grp_sign (s : State) (g partialNo va : Nat) (data : List Byte) {gr : Group} (h : s.grp g = some gr) :
    ∃ sig, (s.sign g partialNo va data).grp g = some { gr with sig := sig } := by
  unfold State.sign
  rw [State.grp_modGrp, if_pos rfl, h]
  by_cases hc : (gr.cls == 2) = true
  · exact ⟨_, by rw [Option.map_some, if_pos hc]⟩
  · exact ⟨gr.sig, by rw [Option.map_some, if_neg hc]⟩

theorem mem_bufInsert (x y : Nat × Contrib) (l : List (Nat × Contrib)) : y ∈ bufInsert x l ↔ y = x ∨ y ∈ l := by
  induction l with
  | nil => simp [bufInsert]
  | cons z t ih =>
    unfold bufInsert
    split
    · simp
    · simp only [List.mem_cons, ih]
      tauto

section Versioned
variable {s : State} {o : XOp} {gr : Group} (hg : s.grp o.g = some gr) (hv : gr.cls ≠ 0)
include hg hv

/-- In a versioned group the contribution is held. -/
theorem State.scatterElem_versioned (p : ScatterItem) : (s.scatterElem o p).memories = s.memories
    ∧ (s.scatterElem o p).xops = s.xops
    ∧ ∃ gr', (s.scatterElem o p).grp o.g = some gr' ∧ gr'.cls = gr.cls ∧ gr'.version = gr.version
      ∧ gr'.buf = bufInsert (o.id, .row (o.form == .scmax) (o.h.etype == 5) p.2.1 p.2.2) gr.buf := by
  obtain ⟨sig, hsig⟩ := s.grp_sign o.g 136 (o.h.elemAt p.1).1 (bytesOf 4 p.2.2.toNat) hg
  have hver : ({ gr with sig := sig } : Group).versioned = true := by simpa [Group.versioned] using hv
  have helem : s.scatterElem o p = (s.sign o.g 136 (o.h.elemAt p.1).1 (bytesOf 4 p.2.2.toNat)).modGrp o.g fun gr =>
      { gr with buf := bufInsert (o.id, .row (o.form == .scmax) (o.h.etype == 5) p.2.1 p.2.2) gr.buf } := by
    simp only [State.scatterElem, hsig, hver, if_true]
  have hgrp : (s.scatterElem o p).grp o.g = some { gr with
      sig := sig
      buf := bufInsert (o.id, .row (o.form == .scmax) (o.h.etype == 5) p.2.1 p.2.2) gr.buf } := by
    rw [helem, State.grp_modGrp, if_pos rfl, hsig]
    rfl
  exact ⟨helem ▸ rfl, helem ▸ rfl, _, hgrp, rfl, rfl, rfl⟩

theorem State.scatterFold_versioned (l : List ScatterItem) : (l.foldl (State.scatterElem o) s).memories = s.memories
    ∧ (l.foldl (State.scatterElem o) s).xops = s.xops
    ∧ ∃ gr', (l.foldl (State.scatterElem o) s).grp o.g = some gr' ∧ gr'.version = gr.version
      ∧ (∀ y ∈ gr.buf, y ∈ gr'.buf)
      ∧ ∀ p ∈ l, (o.id, Contrib.row (o.form == .scmax) (o.h.etype == 5) p.2.1 p.2.2) ∈ gr'.buf := by
  induction l generalizing s gr with
  | nil => exact ⟨rfl, rfl, gr, hg, rfl, fun _ h => h, by simp⟩
  | cons p t ih =>
    obtain ⟨hmem, hx, gr1, hg1, hc1, hv1, hb1⟩ := State.scatterElem_versioned hg hv p
    obtain ⟨hmem', hx', gr', hg', hv', hb', hall⟩ := ih hg1 (hc1 ▸ hv)
    refine ⟨hmem'.trans hmem, hx'.trans hx, gr', hg', hv'.trans hv1, fun y hy => hb' y ?_, fun q hq => ?_⟩
    · rw [hb1, mem_bufInsert]
      exact .inr hy
    · rcases List.mem_cons.1 hq with rfl | hq
      · refine hb' _ ?_
        rw [hb1, mem_bufInsert]
        exact .inl rfl
      · exact hall q hq

end Versioned

/-- The word at an address of DRAM. -/
def State.wordAt (s : State) (a : Nat) : Word := BitVec.ofNat 32 (leVal ((List.range 4).map fun k => s.byteAt (a + k)))

theorem State.wordAt_congr {s t : State} {a : Nat} (h : ∀ k < 4, t.byteAt (a + k) = s.byteAt (a + k)) :
    t.wordAt a = s.wordAt a := by
  unfold State.wordAt
  rw [List.map_congr_left fun k hk => h k (List.mem_range.1 hk)]

theorem State.byteAt_rowApply (s : State) (isMax isInt : Bool) (a p : Nat) (f : Word) :
    (s.rowApply isMax isInt [(.dram a, 4)] f).byteAt p
      = if a ≤ p ∧ p < a + 4 then byteOf (rowUpdate isMax isInt (s.wordAt a) f).toNat (p - a) else s.byteAt p := by
  have hword : s.readPieces none [(.dram a, 4)] = (List.range 4).map fun k => s.byteAt (a + k) := List.append_nil _
  have hbytes (v : Nat) : (bytesOf 4 v).take 4 = bytesOf 4 v := List.take_of_length_le (by simp)
  have hwrite : (s.rowApply isMax isInt [(.dram a, 4)] f).byteAt p
      = memByte (memWrite s.mem a (bytesOf 4 (rowUpdate isMax isInt (s.wordAt a) f).toNat)) p := by
    unfold State.rowApply
    rw [hword, State.putPieces, hbytes]
    rfl
  rw [hwrite, memByte_write, length_bytesOf]
  split
  · exact getD_bytesOf (by omega) _
  · rfl

theorem State.sysByteAt_rowApply (s : State) (isMax isInt : Bool) (a p : Nat) (f : Word) :
    (s.rowApply isMax isInt [(.dram a, 4)] f).sysByteAt p = s.sysByteAt p := rfl

section Unversioned
variable {o : XOp} {a : Nat → Nat} {row : Nat} {ts : List (List (Tgt × Nat))} {f : List Word}

/-- An unversioned group's place, as its row is updated. -/
def State.PlainGroup (s : State) (g : Nat) : Prop := ∃ gr, s.grp g = some gr ∧ gr.cls = 0

/-- In an unversioned group the element's word at its home is updated. -/
theorem State.scatterElem_plain {s : State} (hg : s.PlainGroup o.g) {p : ScatterItem} {a : Nat} (hp : p.2.1 = [(.dram a, 4)]) :
    (s.scatterElem o p).PlainGroup o.g ∧ (s.scatterElem o p).xops = s.xops
      ∧ (s.scatterElem o p).memories = (s.rowApply (o.form == .scmax) (o.h.etype == 5) [(.dram a, 4)] p.2.2).memories := by
  obtain ⟨gr, hg, hc⟩ := hg
  obtain ⟨sig, hsig⟩ := s.grp_sign o.g 136 (o.h.elemAt p.1).1 (bytesOf 4 p.2.2.toNat) hg
  have hver : ({ gr with sig := sig } : Group).versioned = false := by simpa [Group.versioned] using hc
  have helem : s.scatterElem o p = (((s.sign o.g 136 (o.h.elemAt p.1).1 (bytesOf 4 p.2.2.toNat)).rowApply
      (o.form == .scmax) (o.h.etype == 5) [(.dram a, 4)] p.2.2)).l1Drop (coreOf o.g) a := by
    simp only [State.scatterElem, hsig, hver, hp]
    rfl
  have hbeside := (besideMemory_l1Drop ((s.sign o.g 136 (o.h.elemAt p.1).1 (bytesOf 4 p.2.2.toNat)).rowApply
    (o.form == .scmax) (o.h.etype == 5) [(.dram a, 4)] p.2.2) (coreOf o.g) a).trans (besideMemory_rowApply ..)
  rw [helem]
  exact ⟨⟨_, (grp_of_besideMemory hbeside o.g).trans hsig, hc⟩, (xops_of_besideMemory hbeside :), memories_l1Drop ..⟩

theorem State.byteAt_of_memories {s t : State} (h : t.memories = s.memories) (p : Nat) : t.byteAt p = s.byteAt p :=
  (sameMemory_of_memories h).1 p

theorem State.sysByteAt_of_memories {s t : State} (h : t.memories = s.memories) (p : Nat) : t.sysByteAt p = s.sysByteAt p :=
  (sameMemory_of_memories h).2 p

theorem State.scatterFold_plain (hts : ∀ i, i < o.h.rowElems → ts.getD i [] = [(.dram (a i), 4)]) {l : List Nat}
    (hl : ∀ i ∈ l, i < o.h.rowElems) (hd : l.Pairwise fun i j => a i + 4 ≤ a j ∨ a j + 4 ≤ a i) {s : State}
    (hg : s.PlainGroup o.g) :
    let t := (l.map (o.item row ts f)).foldl (State.scatterElem o) s
    t.xops = s.xops
      ∧ (∀ i ∈ l, ∀ k < 4, t.byteAt (a i + k)
          = byteOf (rowUpdate (o.form == .scmax) (o.h.etype == 5) (s.wordAt (a i)) (f.getD i 0)).toNat k)
      ∧ (∀ p, (∀ i ∈ l, p < a i ∨ a i + 4 ≤ p) → t.byteAt p = s.byteAt p)
      ∧ ∀ p, t.sysByteAt p = s.sysByteAt p := by
  induction l generalizing s with
  | nil => exact ⟨rfl, by simp, fun _ _ => rfl, fun _ => rfl⟩
  | cons i l ih =>
    intro t
    obtain ⟨hg1, hx1, hm1⟩ := State.scatterElem_plain (p := o.item row ts f i) hg (hts i (hl i (by simp)))
    obtain ⟨hi, hl'⟩ := List.pairwise_cons.1 hd
    obtain ⟨hx, hnew, hkept, hsys⟩ := ih (fun j hj => hl j (by simp [hj])) hl' hg1
    have hone (p : Nat) : (s.scatterElem o (o.item row ts f i)).byteAt p = if a i ≤ p ∧ p < a i + 4 then
        byteOf (rowUpdate (o.form == .scmax) (o.h.etype == 5) (s.wordAt (a i)) (f.getD i 0)).toNat (p - a i)
        else s.byteAt p := (State.byteAt_of_memories hm1 p).trans (State.byteAt_rowApply ..)
    refine ⟨hx.trans hx1, fun j hj k hk => ?_, fun p hp => ?_, fun p => (hsys p).trans ?_⟩
    · rcases List.mem_cons.1 hj with rfl | hj
      · refine (hkept _ fun j' hj' => ?_).trans ?_
        · have := hi j' hj'
          omega
        · rw [hone, if_pos (by omega), Nat.add_sub_cancel_left]
      · refine (hnew j hj k hk).trans ?_
        rw [State.wordAt_congr (s := s) fun k hk => ?_]
        rw [hone, if_neg]
        have := hi j hj
        omega
    · refine (hkept p fun j hj => hp j (by simp [hj])).trans ?_
      rw [hone, if_neg]
      have := hp i (by simp)
      omega
    · exact (State.sysByteAt_of_memories hm1 p).trans (State.sysByteAt_rowApply ..)

end Unversioned

-- ROW_ENGINE_CHUNK ------------------------------------------------------------------------------------------

section Chunk
variable {s t : State} {id slot : Nat} {o : XOp} {gr : Group} {x : XSlot}

/-- The outcome and the bytes of a row reach every slot that names it. -/
def XOp.rowDone (o : XOp) (idx cause : Nat) (bs : List Byte) : XOp :=
  { o with
    slots := o.slots.map fun y => if y.idx == idx then { y with cause := some cause, bytes := bs, res := none } else y }

def State.rowDone (s : State) (id idx cause : Nat) (bs : List Byte) : State :=
  s.putX id fun o => o.rowDone idx cause bs

theorem State.rowDone_gets (s : State) {id idx cause : Nat} {bs : List Byte} :
    ∀ z ∈ (s.rowDone id idx cause bs).xops, z.id = id →
      ∀ y ∈ z.slots, y.idx = idx → y.cause = some cause ∧ y.bytes = bs := by
  intro z hz hid y hy hidx
  obtain ⟨o, -, rfl⟩ := State.mem_putX (f := fun o => o.rowDone idx cause bs) hz hid
  obtain ⟨x, -, rfl⟩ := List.mem_map.1 hy
  by_cases hx : x.idx == idx
  · simp [hx]
  · rw [if_neg hx] at hidx
    exact absurd (beq_iff_eq.2 hidx) hx

variable (ho : s.xop id = some o) (hg : s.grp o.g = some gr) (hst : o.started = true)
  (hx : o.slots.find? (fun x => x.j == slot) = some x) (hc : x.cause = none) (hp : x.pkg = none)
  (hres : ∀ y ∈ o.slots, y.idx = x.idx → y.res = none)
include ho hg hst hx hc hp hres

theorem execRowEngineChunk_fault {cause va : Nat} (hr : s.resolveRow gr.ctx o.form o.h x.row = (t, .error (cause, va)))
    (hw : scatters o.form = true → s.scatterWaits o x = false) :
    exec (.rowEngineChunk id slot) s = .next (t.rowDone id x.idx cause []) := by
  have hnone : (o.slots.filter fun y => y.idx == x.idx).findSome? (fun y => y.res) = none := by
    simpa [List.findSome?_eq_none_iff] using hres
  have hgo : ¬ (scatters o.form && s.scatterWaits o x) = true := by simpa using hw
  have hexec : exec (.rowEngineChunk id slot) s = execRowEngineChunk id slot s := rfl
  simp only [execRowEngineChunk, ho, hg, hx, hst, hc, hp, hnone, hr, Option.isSome_none, Bool.or_self, Bool.not_true,
    Bool.false_eq_true, if_false] at hexec
  exact hexec.trans (if_neg hgo)

theorem execRowEngineChunk_reads {ts : List (List (Tgt × Nat))} (hr : s.resolveRow gr.ctx o.form o.h x.row = (t, .ok ts))
    (hs : scatters o.form = false) :
    exec (.rowEngineChunk id slot) s = .next (t.rowDone id x.idx 0 (t.rowRead (some gr) o.h x.row ts)) := by
  have hnone : (o.slots.filter fun y => y.idx == x.idx).findSome? (fun y => y.res) = none := by
    simpa [List.findSome?_eq_none_iff] using hres
  have hexec : exec (.rowEngineChunk id slot) s = execRowEngineChunk id slot s := rfl
  simp only [execRowEngineChunk, ho, hg, hx, hst, hc, hp, hnone, hr, hs, Option.isSome_none, Bool.or_self, Bool.not_true,
    Bool.false_and, Bool.false_eq_true, if_false] at hexec
  exact hexec

theorem execRowEngineChunk_scatters {ts : List (List (Tgt × Nat))} (hr : s.resolveRow gr.ctx o.form o.h x.row = (t, .ok ts))
    (hs : scatters o.form = true) (hw : s.scatterWaits o x = false) :
    exec (.rowEngineChunk id slot) s = .next ((t.scatterRow o x.row ts
      (gr.contribution o (o.slots.filter fun y => y.idx == x.idx))).rowDone id x.idx 0 []) := by
  have hnone : (o.slots.filter fun y => y.idx == x.idx).findSome? (fun y => y.res) = none := by
    simpa [List.findSome?_eq_none_iff] using hres
  have hexec : exec (.rowEngineChunk id slot) s = execRowEngineChunk id slot s := rfl
  simp only [execRowEngineChunk, ho, hg, hx, hst, hc, hp, hnone, hr, hs, hw, Option.isSome_none, Bool.or_self,
    Bool.not_true, Bool.and_false, Bool.false_eq_true, if_false, if_true] at hexec
  exact hexec

end Chunk

end Sys2Proof.Machine
end

section
/-!
SUPPORT. The completion of a transport operation: what its writes leave in scratchpad, and the credit of its barrier object
(05 R121, R125, R126, R130, R131, R135; 13 R315).
-/

namespace Sys2Proof.Machine

-- Writes of scratchpad ------------------------------------------------------------------------------------

/-- A byte after a byte of a run is put in scratchpad. -/
theorem getD_putByte (m : SMap Byte) (k p : Nat) (b : Byte) :
    SMap.getD (if b = 0 then SMap.erase k m else SMap.set k b m) p 0 = if p = k then b else SMap.getD m p 0 := by
  unfold SMap.getD
  split
  next hb =>
    rw [SMap.get?_erase]
    by_cases h : p = k <;> simp [h, hb]
  next =>
    rw [SMap.get?_set]
    by_cases h : p = k <;> simp [h]

theorem getD_setSpad (gr : Group) (o p : Nat) (bs : List Byte) : SMap.getD (gr.setSpad o bs).spad p 0
    = if o ≤ p ∧ p < o + bs.length then bs.getD (p - o) 0 else SMap.getD gr.spad p 0 := by
  have hrun (n : Nat) : SMap.getD ((List.range n).foldl (fun (m : SMap Byte) (k : Nat) =>
      if bs.getD k 0 = 0 then SMap.erase (o + k) m else SMap.set (o + k) (bs.getD k 0) m) gr.spad) p 0
      = if o ≤ p ∧ p < o + n then bs.getD (p - o) 0 else SMap.getD gr.spad p 0 := by
    induction n with
    | zero => simp
    | succ n ih =>
      rw [List.range_succ, List.foldl_append, List.foldl_cons, List.foldl_nil, getD_putByte, ih]
      by_cases h : p = o + n
      · rw [if_pos h, if_pos (by omega), h, Nat.add_sub_cancel_left]
      · rw [if_neg h]
        exact if_congr (by omega) rfl rfl
  exact hrun bs.length

/-- A run of bytes covers a place. -/
def Covers (w : Nat × List Byte) (p : Nat) : Prop := w.1 ≤ p ∧ p < w.1 + w.2.length

/-- The runs of bytes put in scratchpad, in order. -/
def Group.putAll (gr : Group) (ws : List (Nat × List Byte)) : Group := ws.foldl (fun gr w => gr.setSpad w.1 w.2) gr

/-- A place where every run that covers it has the same byte, and some run does or the byte stands there. -/
theorem getD_putAll {ws : List (Nat × List Byte)} {p : Nat} {b : Byte}
    (hall : ∀ w ∈ ws, Covers w p → w.2.getD (p - w.1) 0 = b) {gr : Group}
    (hsome : (∃ w ∈ ws, Covers w p) ∨ SMap.getD gr.spad p 0 = b) : SMap.getD (gr.putAll ws).spad p 0 = b := by
  induction ws generalizing gr with
  | nil => exact hsome.resolve_left (by simp)
  | cons w ws ih =>
    refine ih (fun v hv => hall v (by simp [hv])) ?_
    rw [getD_setSpad]
    by_cases hw : Covers w p
    · exact .inr ((if_pos hw).trans (hall w (by simp) hw))
    · rw [if_neg (show ¬ (w.1 ≤ p ∧ p < w.1 + w.2.length) from hw)]
      refine hsome.imp_left ?_
      rintro ⟨v, hv, hcov⟩
      rcases List.mem_cons.1 hv with rfl | hv
      · exact absurd hcov hw
      · exact ⟨v, hv, hcov⟩

theorem getD_putAll_of_not_covered {ws : List (Nat × List Byte)} {p : Nat} (h : ∀ w ∈ ws, ¬ Covers w p) (gr : Group) :
    SMap.getD (gr.putAll ws).spad p 0 = SMap.getD gr.spad p 0 :=
  getD_putAll (fun w hw hc => absurd hc (h w hw)) (.inr rfl)

@[simp] theorem bars_putAll (gr : Group) (ws : List (Nat × List Byte)) : (gr.putAll ws).bars = gr.bars :=
  List.foldlRecOn (motive := fun x : Group => x.bars = gr.bars) ws _ rfl fun _ h _ _ => h

-- Barrier objects -------------------------------------------------------------------------------------------

theorem getD_credit (gr : Group) (k bytes : Nat) {j : Nat} (hj : j < 16) : (gr.credit k bytes 0).bars.getD j none
    = if j = k then (gr.bars.getD k none).map fun b => reached b bytes 0 else gr.bars.getD j none :=
  modReg_getD 16 none gr.bars k j _ hj

-- Bytes of rows ---------------------------------------------------------------------------------------------

/-- Two blocks of m bytes that hold the same place are one. -/
theorem eq_of_block {m a b p : Nat} (ha : a * m ≤ p ∧ p < a * m + m) (hb : b * m ≤ p ∧ p < b * m + m) : a = b := by
  have hdiv {c : Nat} (h : c * m ≤ p ∧ p < c * m + m) : p / m = c :=
    Nat.div_eq_of_lt_le h.1 (by rw [Nat.succ_mul]; exact h.2)
  rw [← hdiv ha, hdiv hb]

theorem length_flatMap_block {α : Type} {f : α → List Byte} {m : Nat} (hf : ∀ x, (f x).length = m) (l : List α) :
    (l.flatMap f).length = m * l.length := by
  induction l with
  | nil => simp
  | cons x t ih => rw [List.flatMap_cons, List.length_append, hf, ih, List.length_cons, Nat.mul_succ, Nat.add_comm]

theorem getD_flatMap_block {α : Type} {f : α → List Byte} {m : Nat} (hf : ∀ x, (f x).length = m) {k : Nat} (hk : k < m)
    (d : α) {l : List α} {i : Nat} (hi : i < l.length) :
    (l.flatMap f).getD (m * i + k) 0 = (f (l.getD i d)).getD k 0 := by
  induction l generalizing i with
  | nil => simp at hi
  | cons x t ih =>
    rw [List.flatMap_cons]
    cases i with
    | zero => rw [Nat.mul_zero, Nat.zero_add, List.getD_append _ _ _ _ (by rw [hf]; exact hk)]; rfl
    | succ i =>
      have hofs : m * (i + 1) + k = m + (m * i + k) := by rw [Nat.mul_succ]; omega
      rw [hofs, List.getD_append_right _ _ _ _ (by rw [hf]; omega), hf, Nat.add_sub_cancel_left]
      exact ih (by simpa using hi)

/-- Bytes cut or filled up with zeros to a length. -/
theorem getD_padded (bs : List Byte) {n k : Nat} (hk : k < n) :
    ((bs ++ List.replicate n 0).take n).getD k 0 = bs.getD k 0 := by
  rw [List.getD_eq_getElem?_getD, List.getElem?_take_of_lt hk, ← List.getD_eq_getElem?_getD]
  rcases Nat.lt_or_ge k bs.length with h | h
  · rw [List.getD_append _ _ _ _ h]
  · have hz : k - bs.length < n := by omega
    rw [List.getD_append_right _ _ _ _ h, List.getD_replicate _ hz, List.getD_eq_default _ _ h]

theorem length_padded (bs : List Byte) (n : Nat) : ((bs ++ List.replicate n 0).take n).length = n := by simp

-- TRANSPORT_COMPLETE ------------------------------------------------------------------------------------------

/-- The bytes of the validity mask that an operation writes behind its tile. -/
def XOp.maskLen (o : XOp) : Nat := if o.mw then 64 else 0

/-- What an operation writes: its tile, then its mask. -/
def XOp.writes (o : XOp) : List (Nat × List Byte) :=
  o.tileWrites ++ (if o.mw then [(o.tile + o.size, bytesOf 64 o.vmask.toNat)] else [])

theorem xops_lower (s : State) (ag : Agent) (fl : Option Nat) : (s.lower ag fl).xops = s.xops := by
  cases fl <;> cases ag <;> rfl

theorem grp_lower_split {s : State} {g w sp : Nat} {gr : Group} (h : s.grp g = some gr) (fl : Option Nat) :
    ∃ ws, (s.lower (.split g w sp) fl).grp g = some { gr with waves := ws } := by
  cases fl with
  | none => exact ⟨gr.waves, h⟩
  | some k => exact ⟨_, by rw [State.lower, State.modWave, State.grp_modGrp, if_pos rfl, h]; rfl⟩

/-- An operation's tile and mask are written, the operation is no more, and its barrier object is credited. -/
def State.tileDone (s : State) (o : XOp) (id : Nat) : State :=
  let u := s.modGrp o.g fun gr => gr.putAll o.writes
  { u with xops := u.xops.filter fun x => x.id != id }.credit o.g (some o.bar) (o.size + o.maskLen)

theorem State.grp_tileDone {s : State} {o : XOp} {gr : Group} (hg : s.grp o.g = some gr) (id : Nat) :
    (s.tileDone o id).grp o.g = some ((gr.putAll o.writes).credit o.bar (o.size + o.maskLen) 0) := by
  have hu : (s.modGrp o.g fun gr => gr.putAll o.writes).grp o.g = some (gr.putAll o.writes) := by
    rw [State.grp_modGrp, if_pos rfl, hg]
    rfl
  rw [State.tileDone, State.credit, State.grp_modGrp, if_pos rfl]
  exact congrArg (Option.map fun gr : Group => gr.credit o.bar (o.size + o.maskLen) 0) hu

theorem execTransportComplete_eq {s : State} {id : Nat} {o : XOp} (ho : s.xop id = some o) (hr : o.recorded = true) :
    exec (.transportComplete id) s = .next ((s.tileDone o id).lower (.split o.g o.w o.sp) o.flag) := by
  have hexec : exec (.transportComplete id) s = execTransportComplete id s := rfl
  simp only [execTransportComplete, ho, hr, Bool.not_true, Bool.false_eq_true, if_false] at hexec
  exact hexec

theorem execTransportComplete_completes {s : State} {id : Nat} {o : XOp} (ho : s.xop id = some o)
    (hr : o.recorded = true) :
    ∃ t, exec (.transportComplete id) s = .next t ∧ SameMemory s t ∧ (∀ z ∈ t.xops, z.id ≠ id)
      ∧ ∀ gr, s.grp o.g = some gr → ∃ gr', t.grp o.g = some gr' ∧ gr'.spad = (gr.putAll o.writes).spad
        ∧ gr'.bars = (gr.credit o.bar (o.size + o.maskLen) 0).bars := by
  refine ⟨_, execTransportComplete_eq ho hr, ?_, ?_, fun gr hg => ?_⟩
  · refine sameMemory_of_memories ?_
    rw [memories_lower, State.tileDone, memories_credit]
    rfl
  · rw [xops_lower]
    intro z hz
    simpa using (List.mem_filter.1 hz).2
  · obtain ⟨ws, hws⟩ := grp_lower_split (w := o.w) (sp := o.sp) (State.grp_tileDone hg id) o.flag
    refine ⟨_, hws, rfl, ?_⟩
    simp only [Group.credit, bars_putAll]

-- Where the writes lie --------------------------------------------------------------------------------------------

section Tile
variable {o : XOp}

/-- What a slot's row is worth to the tile of a gather. -/
def XSlot.tileRow (x : XSlot) (pitch : Nat) : List Byte :=
  ((if x.cause = some 0 then x.bytes else []) ++ List.replicate pitch 0).take pitch

theorem XOp.tileWrites_gather (hf : o.form = .gather) :
    o.tileWrites = o.slots.map fun x => (o.tile + x.j * o.h.pitch, x.tileRow o.h.pitch) := by
  simp only [XOp.tileWrites, hf, XSlot.tileRow]

theorem XOp.tileWrites_scatter (hf : scatters o.form = true) : o.tileWrites = [] := by
  cases h : o.form <;> simp_all [XOp.tileWrites, scatters]

/-- The bytes of a pooled row. -/
def XOp.pooledBytes (o : XOp) (b : Nat) : List Byte := (o.pooled b).flatMap fun w => bytesOf 4 w.toNat

theorem XOp.tileWrites_pooled (hf : o.form = .sum ∨ o.form = .max ∨ o.form = .mean) :
    o.tileWrites = (List.range o.nb).map fun b => (o.tile + 4 * o.h.rowElems * b, o.pooledBytes b) := by
  rcases hf with hf | hf | hf <;> simp only [XOp.tileWrites, hf] <;> rfl

/-- The pair that fills a bag's tile behind its candidates. -/
def XOp.worst (o : XOp) : Word × Nat := (if o.metric = 1 then posInf32 else negInf32, 0xffffffff)

/-- The bytes of a bag's ranked pairs. -/
def XOp.rankedBytes (o : XOp) (b : Nat) : List Byte :=
  (List.range o.topk).flatMap fun i => pairBytes ((o.ranked b).1.getD i o.worst)

theorem XOp.tileWrites_score (hf : o.form = .score) : o.tileWrites = (List.range o.nb).flatMap fun b =>
    [(o.tile + 8 * o.topk * b, o.rankedBytes b), (o.tile + 8 * o.topk * o.nb + 2 * b, bytesOf 2 (o.ranked b).2)] := by
  simp only [XOp.tileWrites, hf]
  rfl

theorem XOp.length_pooled (hf : o.form = .sum ∨ o.form = .max ∨ o.form = .mean) (b : Nat) :
    (o.pooled b).length = o.h.rowElems := by
  have hlen := o.length_of_mem_bagRows (b := b)
  rcases hf with hf | hf | hf
  · rw [XOp.pooled_sum hf]
    split
    · simp
    next hne => exact length_foldRows (by simpa using hne) hlen
  · rw [XOp.pooled_max hf]
    exact length_foldl_zipWith hlen (by simp)
  · rw [XOp.pooled_mean hf]
    split
    · simp
    next hne => rw [List.length_map, length_foldRows (by simpa using hne) hlen]

theorem XOp.length_pooledBytes (hf : o.form = .sum ∨ o.form = .max ∨ o.form = .mean) (b : Nat) :
    (o.pooledBytes b).length = 4 * o.h.rowElems := by
  rw [XOp.pooledBytes, length_flatMap_block (m := 4) (fun _ => length_bytesOf ..), XOp.length_pooled hf]

@[simp] theorem length_pairBytes (p : Word × Nat) : (pairBytes p).length = 8 := by simp [pairBytes]

theorem XOp.length_rankedBytes (o : XOp) (b : Nat) : (o.rankedBytes b).length = 8 * o.topk := by
  rw [XOp.rankedBytes, length_flatMap_block (fun _ => length_pairBytes _), List.length_range]

theorem mul_add_le_mul {m a n : Nat} (h : a < n) : m * a + m ≤ m * n :=
  (Nat.mul_succ m a).symm.le.trans (Nat.mul_le_mul_left m h)

/-- The writes of a tile lie in it. -/
theorem XOp.tileWrites_within (hj : ∀ x ∈ o.slots, x.j < 32 * o.n) :
    ∀ w ∈ o.tileWrites, o.tile ≤ w.1 ∧ w.1 + w.2.length ≤ o.tile + o.size := by
  have hpool (hf : o.form = .sum ∨ o.form = .max ∨ o.form = .mean) (hs : o.size = 4 * o.h.rowElems * o.nb) :
      ∀ w ∈ o.tileWrites, o.tile ≤ w.1 ∧ w.1 + w.2.length ≤ o.tile + o.size := by
    rw [XOp.tileWrites_pooled hf, hs]
    intro w hw
    obtain ⟨b, hb, rfl⟩ := List.mem_map.1 hw
    have := mul_add_le_mul (m := 4 * o.h.rowElems) (List.mem_range.1 hb)
    simp only [XOp.length_pooledBytes hf]
    omega
  intro w hw
  cases hf : o.form with
  | gather =>
    have hs : o.size = 32 * o.n * o.h.pitch := by rw [XOp.size, hf]; rfl
    rw [XOp.tileWrites_gather hf] at hw
    obtain ⟨x, hx, rfl⟩ := List.mem_map.1 hw
    have := mul_add_le_mul (m := o.h.pitch) (hj x hx)
    simp only [XSlot.tileRow, length_padded, hs, Nat.mul_comm _ o.h.pitch]
    omega
  | sum => exact hpool (.inl hf) (by rw [XOp.size, hf]; rfl) w hw
  | max => exact hpool (.inr (.inl hf)) (by rw [XOp.size, hf]; rfl) w hw
  | mean => exact hpool (.inr (.inr hf)) (by rw [XOp.size, hf]; rfl) w hw
  | scadd => rw [XOp.tileWrites_scatter (by rw [hf]; rfl)] at hw; simp at hw
  | scmax => rw [XOp.tileWrites_scatter (by rw [hf]; rfl)] at hw; simp at hw
  | score =>
    have hs : o.size = (8 * o.topk * o.nb + 2 * o.nb + 7) / 8 * 8 := by rw [XOp.size, hf]; rfl
    rw [XOp.tileWrites_score hf] at hw
    obtain ⟨b, hb, hw⟩ := List.mem_flatMap.1 hw
    have hbn := List.mem_range.1 hb
    have := mul_add_le_mul (m := 8 * o.topk) hbn
    rcases List.mem_pair.1 hw with rfl | rfl
    · simp only [XOp.length_rankedBytes, hs]
      omega
    · simp only [length_bytesOf, hs]
      omega

end Tile

end Sys2Proof.Machine
end

section
/-!
SUPPORT. The bytes of a completed transport operation's tile and mask (05 R121, R125, R126, R130, R131).
-/

namespace Sys2Proof.Machine
variable {o : XOp}

theorem bit_byteOf {n : Nat} (v : BitVec n) {k j : Nat} (hj : j < 8) : bit (byteOf v.toNat k) j = bit v (8 * k + j) := by
  have h256 : (256 : Nat) ^ k = 2 ^ (8 * k) := by rw [Nat.pow_mul]
  rw [bit, bit, byteOf, BitVec.getLsbD_ofNat, h256, Nat.testBit_div_two_pow, decide_eq_true hj, Bool.true_and,
    BitVec.testBit_toNat, Nat.add_comm]

/-- Slots in rising order are told apart by their numbers. -/
theorem XOp.slot_eq_of_j (hp : o.slots.Pairwise fun x y => x.j < y.j) {x y : XSlot} (hx : x ∈ o.slots)
    (hy : y ∈ o.slots) (h : x.j = y.j) : x = y :=
  List.inj_on_of_nodup_map (List.pairwise_map.2 (hp.imp Nat.ne_of_lt)) hx hy h

/-- The writes of an operation are its tile's and its mask. -/
theorem XOp.mem_writes {w : Nat × List Byte} :
    w ∈ o.writes ↔ w ∈ o.tileWrites ∨ (o.mw = true ∧ w = (o.tile + o.size, bytesOf 64 o.vmask.toNat)) := by
  rw [XOp.writes, List.mem_append]
  cases o.mw <;> simp

theorem XOp.getD_outside (hj : ∀ x ∈ o.slots, x.j < 32 * o.n) (gr : Group) {p : Nat}
    (hp : p < o.tile ∨ o.tile + o.size + o.maskLen ≤ p) :
    SMap.getD (gr.putAll o.writes).spad p 0 = SMap.getD gr.spad p 0 := by
  refine getD_putAll_of_not_covered (fun w hw hc => ?_) gr
  obtain ⟨hlo, hhi⟩ := hc
  rcases XOp.mem_writes.1 hw with hw | ⟨hm, rfl⟩
  · have hin := XOp.tileWrites_within hj w hw
    omega
  · have hml : o.maskLen = 64 := if_pos hm
    simp only [length_bytesOf] at hlo hhi
    omega

/-- A place of the tile that none of its writes covers keeps its byte. -/
theorem XOp.getD_tile_of_not_covered (gr : Group) {k : Nat} (hk : k < o.size)
    (h : ∀ w ∈ o.tileWrites, ¬ Covers w (o.tile + k)) :
    SMap.getD (gr.putAll o.writes).spad (o.tile + k) 0 = SMap.getD gr.spad (o.tile + k) 0 := by
  refine getD_putAll_of_not_covered (fun w hw hc => ?_) gr
  rcases XOp.mem_writes.1 hw with hw | ⟨-, rfl⟩
  · exact h w hw hc
  · exact absurd hc.1 (by simp only; omega)

/-- A place of the tile that one of its writes alone covers has that write's byte. -/
theorem XOp.getD_tileWrite (hj : ∀ x ∈ o.slots, x.j < 32 * o.n) (gr : Group) {w : Nat × List Byte}
    (hw : w ∈ o.tileWrites) {k : Nat} (hk : k < w.2.length)
    (hone : ∀ v ∈ o.tileWrites, Covers v (w.1 + k) → v = w) :
    SMap.getD (gr.putAll o.writes).spad (w.1 + k) 0 = w.2.getD k 0 := by
  refine getD_putAll (fun v hv hc => ?_) (.inl ⟨w, XOp.mem_writes.2 (.inl hw), by omega, by omega⟩)
  rcases XOp.mem_writes.1 hv with hv | ⟨-, rfl⟩
  · rw [hone v hv hc, Nat.add_sub_cancel_left]
  · have hin := XOp.tileWrites_within hj w hw
    exact absurd hc.1 (by simp only; omega)

/-- A byte of the validity mask behind the tile. -/
theorem XOp.getD_mask (hj : ∀ x ∈ o.slots, x.j < 32 * o.n) (gr : Group) (hm : o.mw = true) {k : Nat} (hk : k < 64) :
    SMap.getD (gr.putAll o.writes).spad (o.tile + (o.size + k)) 0 = byteOf o.vmask.toNat k := by
  have hmask : (o.tile + o.size, bytesOf 64 o.vmask.toNat) ∈ o.writes := XOp.mem_writes.2 (.inr ⟨hm, rfl⟩)
  have hcov : Covers (o.tile + o.size, bytesOf 64 o.vmask.toNat) (o.tile + (o.size + k)) := by
    simp only [Covers, length_bytesOf]
    omega
  refine getD_putAll (fun v hv hc => ?_) (.inl ⟨_, hmask, hcov⟩)
  rcases XOp.mem_writes.1 hv with hv | ⟨-, rfl⟩
  · obtain ⟨-, hhi⟩ := hc
    have hin := XOp.tileWrites_within hj v hv
    omega
  · rw [← Nat.add_assoc, Nat.add_sub_cancel_left]
    exact getD_bytesOf hk _

theorem XOp.bit_mask (hj : ∀ x ∈ o.slots, x.j < 32 * o.n) (gr : Group) (hm : o.mw = true) {k j : Nat} (hk : k < 64)
    (h8 : j < 8) : bit (SMap.getD (gr.putAll o.writes).spad (o.tile + (o.size + k)) 0) j
      = o.slots.any fun x => x.j == 8 * k + j && x.valid := by
  rw [XOp.getD_mask hj gr hm hk, bit_byteOf _ h8, XOp.bit_vmask o (by omega)]

theorem XOp.getD_scatter (hf : scatters o.form = true) (gr : Group) {k : Nat} (hk : k < o.size) :
    SMap.getD (gr.putAll o.writes).spad (o.tile + k) 0 = SMap.getD gr.spad (o.tile + k) 0 := by
  refine XOp.getD_tile_of_not_covered gr hk ?_
  rw [XOp.tileWrites_scatter hf]
  simp

-- A gather's rows -------------------------------------------------------------------------------------------------

theorem XSlot.getD_tileRow (x : XSlot) {pitch k : Nat} (hk : k < pitch) :
    (x.tileRow pitch).getD k 0 = if x.valid then x.bytes.getD k 0 else 0 := by
  rw [XSlot.tileRow, getD_padded _ hk, XSlot.valid, beq_eq_decide]
  by_cases h : x.cause = some 0 <;> simp [h]

theorem XOp.getD_gather (hf : o.form = .gather) (hp : o.slots.Pairwise fun x y => x.j < y.j)
    (hj : ∀ x ∈ o.slots, x.j < 32 * o.n) (gr : Group) {x : XSlot} (hx : x ∈ o.slots) {k : Nat} (hk : k < o.h.pitch) :
    SMap.getD (gr.putAll o.writes).spad (o.tile + (x.j * o.h.pitch + k)) 0
      = if x.valid then x.bytes.getD k 0 else 0 := by
  have hw : (o.tile + x.j * o.h.pitch, x.tileRow o.h.pitch) ∈ o.tileWrites := by
    rw [XOp.tileWrites_gather hf]
    exact List.mem_map_of_mem hx
  have hlen (y : XSlot) : (y.tileRow o.h.pitch).length = o.h.pitch := length_padded _ _
  have hkw : k < (x.tileRow o.h.pitch).length := by rw [hlen]; exact hk
  rw [← Nat.add_assoc, XOp.getD_tileWrite hj gr hw hkw ?_, x.getD_tileRow hk]
  intro v hv hc
  rw [XOp.tileWrites_gather hf] at hv
  obtain ⟨y, hy, rfl⟩ := List.mem_map.1 hv
  simp only [Covers, hlen] at hc
  have hyx : y.j = x.j := eq_of_block (m := o.h.pitch) (p := x.j * o.h.pitch + k) (by omega) (by omega)
  rw [XOp.slot_eq_of_j hp hy hx hyx]

theorem XOp.getD_gather_rest (hf : o.form = .gather) (gr : Group) {k : Nat} (hk : k < o.size)
    (h : ∀ x ∈ o.slots, k < x.j * o.h.pitch ∨ x.j * o.h.pitch + o.h.pitch ≤ k) :
    SMap.getD (gr.putAll o.writes).spad (o.tile + k) 0 = SMap.getD gr.spad (o.tile + k) 0 := by
  refine XOp.getD_tile_of_not_covered gr hk ?_
  rw [XOp.tileWrites_gather hf]
  intro w hw hc
  obtain ⟨x, hx, rfl⟩ := List.mem_map.1 hw
  have hlen : (x.tileRow o.h.pitch).length = o.h.pitch := length_padded _ _
  simp only [Covers, hlen] at hc
  have := h x hx
  omega

-- Pooled rows -----------------------------------------------------------------------------------------------------

theorem XOp.getD_pooledBytes (hf : o.form = .sum ∨ o.form = .max ∨ o.form = .mean) (b : Nat) {i k : Nat}
    (hi : i < o.h.rowElems) (hk : k < 4) :
    (o.pooledBytes b).getD (4 * i + k) 0 = byteOf ((o.pooled b).getD i 0).toNat k := by
  rw [XOp.pooledBytes, getD_flatMap_block (fun _ => length_bytesOf ..) hk 0 (by rw [XOp.length_pooled hf]; exact hi)]
  exact getD_bytesOf hk _

theorem XOp.getD_pooledTile (hf : o.form = .sum ∨ o.form = .max ∨ o.form = .mean) (hj : ∀ x ∈ o.slots, x.j < 32 * o.n)
    (gr : Group) {b i k : Nat} (hb : b < o.nb) (hi : i < o.h.rowElems) (hk : k < 4) :
    SMap.getD (gr.putAll o.writes).spad (o.tile + (4 * (o.h.rowElems * b + i) + k)) 0
      = byteOf ((o.pooled b).getD i 0).toNat k := by
  have hw : (o.tile + 4 * o.h.rowElems * b, o.pooledBytes b) ∈ o.tileWrites := by
    rw [XOp.tileWrites_pooled hf]
    exact List.mem_map_of_mem (List.mem_range.2 hb)
  have hat : o.tile + (4 * (o.h.rowElems * b + i) + k) = o.tile + 4 * o.h.rowElems * b + (4 * i + k) := by
    rw [Nat.mul_add, ← Nat.mul_assoc]
    omega
  have hkw : 4 * i + k < (o.pooledBytes b).length := by rw [XOp.length_pooledBytes hf]; omega
  rw [hat, XOp.getD_tileWrite hj gr hw hkw ?_, XOp.getD_pooledBytes hf b hi hk]
  intro v hv hc
  rw [XOp.tileWrites_pooled hf] at hv
  obtain ⟨c, -, rfl⟩ := List.mem_map.1 hv
  simp only [Covers, XOp.length_pooledBytes hf] at hc
  have hcb : c = b := eq_of_block (m := 4 * o.h.rowElems) (p := 4 * o.h.rowElems * b + (4 * i + k))
    (by rw [Nat.mul_comm c]; omega) (by rw [Nat.mul_comm b]; omega)
  rw [hcb]

-- Ranked pairs and counts -----------------------------------------------------------------------------------------

theorem getD_pairBytes_left (p : Word × Nat) {k : Nat} (hk : k < 4) : (pairBytes p).getD k 0 = byteOf p.1.toNat k := by
  rw [pairBytes, List.getD_append _ _ _ _ (by simpa using hk), getD_bytesOf hk]

theorem getD_pairBytes_right (p : Word × Nat) {k : Nat} (hk : k < 4) : (pairBytes p).getD (4 + k) 0 = byteOf p.2 k := by
  rw [pairBytes, List.getD_append_right _ _ _ _ (by simp), length_bytesOf, Nat.add_sub_cancel_left, getD_bytesOf hk]

theorem XOp.getD_rankedBytes (o : XOp) (b : Nat) {i k : Nat} (hi : i < o.topk) (hk : k < 8) :
    (o.rankedBytes b).getD (8 * i + k) 0 = (pairBytes ((o.ranked b).1.getD i o.worst)).getD k 0 := by
  rw [XOp.rankedBytes, getD_flatMap_block (fun _ => length_pairBytes _) hk 0 (by simpa using hi)]
  simp [List.getD_eq_getElem?_getD, hi]

theorem XOp.mem_tileWrites_score (hf : o.form = .score) {w : Nat × List Byte} : w ∈ o.tileWrites ↔ ∃ b < o.nb,
    w = (o.tile + 8 * o.topk * b, o.rankedBytes b)
      ∨ w = (o.tile + 8 * o.topk * o.nb + 2 * b, bytesOf 2 (o.ranked b).2) := by
  simp [XOp.tileWrites_score hf, List.mem_flatMap]

theorem XOp.getD_pairTile (hf : o.form = .score) (hj : ∀ x ∈ o.slots, x.j < 32 * o.n) (gr : Group) {b i k : Nat}
    (hb : b < o.nb) (hi : i < o.topk) (hk : k < 8) :
    SMap.getD (gr.putAll o.writes).spad (o.tile + (8 * (o.topk * b + i) + k)) 0
      = (pairBytes ((o.ranked b).1.getD i o.worst)).getD k 0 := by
  have hw := (XOp.mem_tileWrites_score hf).2 ⟨b, hb, .inl rfl⟩
  have hat : o.tile + (8 * (o.topk * b + i) + k) = o.tile + 8 * o.topk * b + (8 * i + k) := by
    rw [Nat.mul_add, ← Nat.mul_assoc]
    omega
  have hkw : 8 * i + k < (o.rankedBytes b).length := by rw [XOp.length_rankedBytes]; omega
  rw [hat, XOp.getD_tileWrite hj gr hw hkw ?_, XOp.getD_rankedBytes o b hi hk]
  intro v hv hc
  have hend := mul_add_le_mul (m := 8 * o.topk) hb
  obtain ⟨c, -, rfl | rfl⟩ := (XOp.mem_tileWrites_score hf).1 hv
  · simp only [Covers, XOp.length_rankedBytes] at hc
    have hcb : c = b := eq_of_block (m := 8 * o.topk) (p := 8 * o.topk * b + (8 * i + k))
      (by rw [Nat.mul_comm c]; omega) (by rw [Nat.mul_comm b]; omega)
    rw [hcb]
  · simp only [Covers] at hc
    omega

theorem XOp.getD_countTile (hf : o.form = .score) (hj : ∀ x ∈ o.slots, x.j < 32 * o.n) (gr : Group) {b k : Nat}
    (hb : b < o.nb) (hk : k < 2) :
    SMap.getD (gr.putAll o.writes).spad (o.tile + (8 * o.topk * o.nb + 2 * b + k)) 0 = byteOf (o.ranked b).2 k := by
  have hw := (XOp.mem_tileWrites_score hf).2 ⟨b, hb, .inr rfl⟩
  have hat : o.tile + (8 * o.topk * o.nb + 2 * b + k) = o.tile + 8 * o.topk * o.nb + 2 * b + k := by omega
  rw [hat, XOp.getD_tileWrite hj gr hw (by simpa using hk) ?_]
  · exact getD_bytesOf hk _
  intro v hv hc
  obtain ⟨c, hcn, rfl | rfl⟩ := (XOp.mem_tileWrites_score hf).1 hv
  · have hend := mul_add_le_mul (m := 8 * o.topk) hcn
    simp only [Covers, XOp.length_rankedBytes] at hc
    omega
  · simp only [Covers, length_bytesOf] at hc
    have hcb : c = b := by omega
    rw [hcb]

end Sys2Proof.Machine
end

section
/-!
O32. The steps of a transport operation on its way (05 R113, R114, R116, R123, R125, R126, R135).
-/

namespace Sys2Proof.Machine

section Resolved
variable {s t : State} {ctx : Nat} {form : XForm} {h : Layout} {row : Nat} {slots : List XSlot}

theorem besideMemory_of_resolveRow {r : Except (Nat × Nat) (List (List (Tgt × Nat)))}
    (hr : s.resolveRow ctx form h row = (t, r)) : t.besideMemory = s.besideMemory := by
  have hb := besideMemory_resolveRow s ctx form h row
  rwa [hr] at hb

theorem besideMemory_of_route {r : Except (Nat × Nat) (List XSlot)} (hr : s.route ctx h slots = (t, r)) :
    t.besideMemory = s.besideMemory := by
  have hb := besideMemory_route s ctx h slots
  rwa [hr] at hb

end Resolved

-- The first slot --------------------------------------------------------------------------------------------

/-- An operation's request for its first slot goes to the package that owns the slot's row. -/
def State.askOwner (s : State) (id : Nat) (o : XOp) (gr : Group) (pk : Nat) (x : XSlot) (rest : List XSlot) : State :=
  (s.putX id fun o => { o with slots := x :: rest, asked := true }).requestTo o gr pk true [x]

section FirstSlotEffects
variable {u : State} {id : Nat} {o : XOp} (ho : u.xop id = some o) (gr : Group)
include ho

/-- An operation that starts frees its wave, and goes on with its slots as routed. -/
theorem State.startX_starts (slots : List XSlot) :
    (∀ b, (u.startX o gr slots).waitOf (.split o.g o.w o.sp) = some b → b = .none)
      ∧ SameMemory u (u.startX o gr slots)
      ∧ ∃ z, (u.startX o gr slots).xop id = some z ∧ z.started = true ∧ z.slots = slots := by
  obtain rfl := State.xop_id ho
  refine ⟨fun b hb => State.waitOf_startX hb, sameMemory_of_memories (memories_startX ..), State.xop_startX ho gr slots⟩

/-- The owner of a first slot on another package is asked for the outcome of its row. -/
theorem State.askOwner_asks (x : XSlot) (rest : List XSlot) (pk : Nat) :
    ∃ z req, SameMemory u (u.askOwner id o gr pk x rest) ∧ SameRegisters u (u.askOwner id o gr pk x rest)
      ∧ (u.askOwner id o gr pk x rest).outbox = u.outbox ++ [.request pk id req]
      ∧ req.first = true ∧ req.rows = [⟨x.j, o.bagOf x.j, x.row, []⟩]
      ∧ (u.askOwner id o gr pk x rest).xop id = some z ∧ z.asked = true ∧ z.slots = x :: rest := by
  obtain rfl := State.xop_id ho
  refine ⟨{ o with slots := x :: rest, asked := true }, _, sameMemory_of_memories rfl, sameRegisters_of_groups rfl, rfl, rfl,
    ?_, ?_, rfl, rfl⟩
  · rw [rowsOf_singleton]
    rfl
  · exact State.xop_putX (fun _ => rfl) ho

end FirstSlotEffects

-- The rows of this package ----------------------------------------------------------------------------------

section Scatter
variable {s t : State} {id slot : Nat} {o : XOp} {gr : Group} {x : XSlot}
  (ho : s.xop id = some o) (hg : s.grp o.g = some gr) (hst : o.started = true)
  (hx : o.slots.find? (fun x => x.j == slot) = some x) (hc : x.cause = none) (hp : x.pkg = none)
  (hres : ∀ y ∈ o.slots, y.idx = x.idx → y.res = none)

theorem length_contribution_of_find (gr : Group) (hx : o.slots.find? (fun x => x.j == slot) = some x) :
    (gr.contribution o (o.slots.filter fun y => y.idx == x.idx)).length = o.h.rowElems := by
  have hmem : x ∈ o.slots.filter fun y => y.idx == x.idx :=
    List.mem_filter.2 ⟨List.mem_of_find?_eq_some hx, beq_self_eq_true _⟩
  exact gr.length_contribution o (List.ne_nil_of_mem hmem)

include ho hg hst hx hc hp hres

/-- A row of a scatter of a versioned group is held in its version. -/
theorem execRowEngineChunk_holds {ts : List (List (Tgt × Nat))}
    (hr : s.resolveRow gr.ctx o.form o.h x.row = (t, .ok ts)) (hs : scatters o.form = true)
    (hw : s.scatterWaits o x = false) (ht : ts.length = o.h.rowElems) (hv : gr.cls ≠ 0) :
    ∃ (u : State) (gr' : Group), exec (.rowEngineChunk id slot) s = .next (u.rowDone id x.idx 0 []) ∧ SameMemory t u
      ∧ u.grp o.g = some gr' ∧ gr'.version = gr.version ∧ (∀ y ∈ gr.buf, y ∈ gr'.buf)
      ∧ ∀ i < o.h.rowElems, (o.id, Contrib.row (o.form == .scmax) (o.h.etype == 5) (ts.getD i [])
        ((gr.contribution o (o.slots.filter fun y => y.idx == x.idx)).getD i 0)) ∈ gr'.buf := by
  have hgt : t.grp o.g = some gr := (grp_of_besideMemory (besideMemory_of_resolveRow hr) o.g).trans hg
  have hexec := execRowEngineChunk_scatters ho hg hst hx hc hp hres hr hs hw
  rw [State.scatterRow_eq t o x.row ht (length_contribution_of_find gr hx)] at hexec
  obtain ⟨hmem, -, gr', hg', hver, hbuf, hnew⟩ := State.scatterFold_versioned hgt hv ((List.range o.h.rowElems).map
    (o.item x.row ts (gr.contribution o (o.slots.filter fun y => y.idx == x.idx))))
  exact ⟨_, gr', hexec, sameMemory_of_memories hmem, hg', hver, hbuf,
    fun i hi => hnew _ (List.mem_map_of_mem (List.mem_range.2 hi))⟩

/-- A row of a scatter of an unversioned group has its words updated at their homes. -/
theorem execRowEngineChunk_updates {a : Nat → Nat}
    (hr : s.resolveRow gr.ctx o.form o.h x.row = (t, .ok ((List.range o.h.rowElems).map fun i => [(.dram (a i), 4)])))
    (hs : scatters o.form = true) (hw : s.scatterWaits o x = false) (hv : gr.cls = 0)
    (hd : ∀ i j, i < o.h.rowElems → j < o.h.rowElems → i ≠ j → a i + 4 ≤ a j ∨ a j + 4 ≤ a i) :
    ∃ u : State, exec (.rowEngineChunk id slot) s = .next (u.rowDone id x.idx 0 [])
      ∧ (∀ i < o.h.rowElems, ∀ k < 4, u.byteAt (a i + k) = byteOf (rowUpdate (o.form == .scmax) (o.h.etype == 5)
        (t.wordAt (a i)) ((gr.contribution o (o.slots.filter fun y => y.idx == x.idx)).getD i 0)).toNat k)
      ∧ (∀ p, (∀ i < o.h.rowElems, p < a i ∨ a i + 4 ≤ p) → u.byteAt p = t.byteAt p)
      ∧ ∀ p, u.sysByteAt p = t.sysByteAt p := by
  have hgt : t.PlainGroup o.g := ⟨gr, (grp_of_besideMemory (besideMemory_of_resolveRow hr) o.g).trans hg, hv⟩
  have hexec := execRowEngineChunk_scatters ho hg hst hx hc hp hres hr hs hw
  rw [State.scatterRow_eq t o x.row (by simp) (length_contribution_of_find gr hx)] at hexec
  have hpieces (i : Nat) (hi : i < o.h.rowElems) :
      ((List.range o.h.rowElems).map fun i => [(Tgt.dram (a i), 4)]).getD i [] = [(.dram (a i), 4)] := by
    simp [List.getD_eq_getElem?_getD, hi]
  have hapart : (List.range o.h.rowElems).Pairwise fun i j => a i + 4 ≤ a j ∨ a j + 4 ≤ a i :=
    List.pairwise_lt_range.imp_of_mem fun hi hj hij =>
      hd _ _ (List.mem_range.1 hi) (List.mem_range.1 hj) (Nat.ne_of_lt hij)
  obtain ⟨-, hnew, hkept, hsys⟩ := State.scatterFold_plain (row := x.row)
    (f := gr.contribution o (o.slots.filter fun y => y.idx == x.idx)) hpieces (fun _ => List.mem_range.1) hapart hgt
  exact ⟨_, hexec, fun i hi => hnew i (List.mem_range.2 hi),
    fun p hp => hkept p fun i hi => hp i (List.mem_range.1 hi), hsys⟩

end Scatter

-- Replies -----------------------------------------------------------------------------------------------------

theorem XOp.waitsFor_of_place {o : XOp} {pkg n : Nat} {x : XSlot} (hx : o.slots[n]? = some x)
    (hn : o.started = true ∨ n = 0) (hp : x.pkg = some pkg) (hc : x.cause = none) : o.waitsFor pkg x = true := by
  rcases hn with hst | rfl
  · simp [XOp.waitsFor, hp, hc, hst]
  · rw [← List.head?_eq_getElem?] at hx
    simp [XOp.waitsFor, hp, hc, hx]

theorem XOp.not_waitsFor {o : XOp} {pkg : Nat} {x : XSlot} (h : x.pkg ≠ some pkg ∨ x.cause ≠ none) :
    o.waitsFor pkg x = false := by
  rcases h with h | h
  · simp [XOp.waitsFor, h]
  · simp [XOp.waitsFor, h]

theorem execTransportReply_answers {s : State} {id pkg : Nat} {rows : List RemoteRow} {o : XOp} (ho : s.xop id = some o)
    (hw : o.started = true ∨ o.asked = true) (hc : ∀ r ∈ rows, r.cause ≤ 9) :
    ∃ t z, exec (.transportReply id pkg rows) s = .next t ∧ SameMemory s t ∧ SameRegisters s t
      ∧ t.xop id = some z ∧ z.slots.length = o.slots.length
      ∧ ∀ (n : Nat) x, o.slots[n]? = some x → ∃ y, z.slots[n]? = some y ∧ y.j = x.j ∧ y.idx = x.idx ∧ y.row = x.row
        ∧ ((x.pkg ≠ some pkg ∨ x.cause ≠ none) → y = x)
        ∧ ∀ r, (o.started = true ∨ n = 0) → x.pkg = some pkg → x.cause = none
            → rows.find? (fun r => o.taggedRow pkg r == some x.row) = some r →
            y.cause = some r.cause ∧ y.bytes = r.bytes.take o.h.rowBytes := by
  obtain ⟨t, hexec, hmem, hreg, hz⟩ := execTransportReply_eq (pkg := pkg) ho hw hc
  refine ⟨t, _, hexec, hmem, hreg, hz, by simp, fun n x hx => ?_⟩
  obtain ⟨hj, hidx, hrow⟩ := o.slotReplied_keeps pkg rows x
  refine ⟨o.slotReplied pkg rows x, by rw [List.getElem?_map, hx]; rfl, hj, hidx, hrow,
    fun h => ?_, fun r hn hp hc hr => ?_⟩
  · exact XOp.slotReplied_of_not_waitsFor (XOp.not_waitsFor h) rows
  · rw [XOp.slotReplied_of_row (XOp.waitsFor_of_place hx hn hp hc) hr]
    exact ⟨rfl, rfl⟩

-- XSTAT ---------------------------------------------------------------------------------------------------------

theorem execXstatRecord_status {s : State} {g w : Nat} {o : XOp} {wv : Wave}
    (ho : s.xops.find? (fun o => o.g == g && o.w == w && !o.recorded) = some o) (hr : o.resolved = true)
    (hw : s.waveAt g w = some wv) :
    ∃ t, exec (.xstatRecord g w) s = .next t
      ∧ t.waveAt g w = some { wv with xstat := o.status wv.xstat, vmask := o.vmask } := by
  refine ⟨_, execXstatRecord_records ho hr, ?_⟩
  refine (State.waveAt_modWave s g w g w _).trans ?_
  rw [if_pos ⟨rfl, rfl⟩, hw]
  rfl

-- The completed tile ---------------------------------------------------------------------------------------------

theorem State.spadAt_of_grp {s : State} {g : Nat} {gr : Group} (h : s.grp g = some gr) (p : Nat) :
    s.spadAt g p = SMap.getD gr.spad p 0 := by
  rw [State.spadAt, h]

/-- The completed operation's barrier object is credited, and no other is. -/
theorem Group.bars_credited (gr : Group) (k n : Nat) {gr' : Group} (h : gr'.bars = (gr.credit k n 0).bars) :
    (k < 16 → gr'.bars.getD k none = (gr.bars.getD k none).map fun b => reached b n 0)
      ∧ ∀ j < 16, j ≠ k → gr'.bars.getD j none = gr.bars.getD j none := by
  rw [h]
  refine ⟨fun hk => ?_, fun j hj hne => ?_⟩
  · rw [getD_credit gr k n hk, if_pos rfl]
  · rw [getD_credit gr k n hj, if_neg hne]

-- The obligation --------------------------------------------------------------------------------------------------

/-- Settles O32: each step is the state its case of the model answers; a row's bytes reach its slots, a scatter's words their
homes one element at a time, and a completed tile holds at each place what the one write that covers it puts there. -/
theorem transportOperationsProceed : Obligations.TransportOperationsProceed := by
  refine ⟨?_, ?_, ?_, ?_, ?_, ?_, ?_, ?_, ?_, ?_⟩
  · intro s id o gr t r ho hg hst ha hroute x0 rest0 hsl
    have hot : t.xop id = some o := (State.xop_congr (xops_of_besideMemory (besideMemory_of_route hroute)) id).trans ho
    refine ⟨?_, ?_, ?_, ?_⟩
    · rintro x rest rfl hc hp
      refine ⟨fun u ts hq => ?_, fun u cause va hq => firstSlot_rowFault ho hg hst hsl ha hroute hc hp hq⟩
      have hou : u.xop id = some o := (State.xop_congr (xops_of_besideMemory (besideMemory_of_resolveRow hq)) id).trans hot
      exact ⟨_, firstSlot_here ho hg hst hsl ha hroute hc hp hq, State.startX_starts hou gr _⟩
    · rintro x rest cause rfl hc
      exact firstSlot_refused ho hg hst hsl ha hroute hc
    · rintro x rest pk rfl hc hp
      obtain ⟨z, req, hmem, hreg, hout, hfirst, hrows, hz, hasked, hslots⟩ := State.askOwner_asks hot gr x rest pk
      have hregs := sameRegisters_of_groups (groups_of_besideMemory (besideMemory_of_route hroute))
      exact ⟨_, z, req, firstSlot_away ho hg hst hsl ha hroute hc hp, hmem, hregs.trans hreg, hout, hfirst, hrows, hz,
        hasked, hslots⟩
    · rintro cause va rfl
      exact firstSlot_tableFault ho hg hst hsl ha hroute
  · intro s id o gr x0 rest cause ho hg hst ha hsl hc
    have hexec := firstSlot_answered ho hg hst hsl ha hc
    refine ⟨?_, fun hne => hexec.trans (by rw [if_neg hne])⟩
    rintro rfl
    obtain ⟨hwait, hmem, z, hz, hstarted, hslots⟩ :=
      State.startX_starts ho gr ({ x0 with cause := none, bytes := [] } :: rest)
    exact ⟨_, z, hexec.trans (by rw [if_pos rfl]), hmem, hwait, hz, hstarted, hslots⟩
  · intro s id o j x0 rest ho hsl hj
    exact firstSlot_other ho hsl hj
  · intro s id slot o gr x t r ho hg hst hx hc hp hres hr gets f isMax isInt
    refine ⟨?_, ?_, ?_, ?_⟩
    · rintro cause va rfl hw
      exact ⟨_, execRowEngineChunk_fault ho hg hst hx hc hp hres hr hw, sameMemory_of_memories rfl, t.rowDone_gets⟩
    · rintro ts rfl hs
      exact ⟨_, execRowEngineChunk_reads ho hg hst hx hc hp hres hr hs, sameMemory_of_memories rfl, t.rowDone_gets⟩
    · rintro ts rfl hs hw ht hv
      obtain ⟨u, gr', hexec, hmem, hg', hver, hbuf, hnew⟩ :=
        execRowEngineChunk_holds ho hg hst hx hc hp hres hr hs hw ht hv
      exact ⟨_, gr', hexec, hmem, u.rowDone_gets, hg', hver, hbuf, hnew⟩
    · rintro a rfl hs hw hv hd
      obtain ⟨u, hexec, hnew, hkept, hsys⟩ := execRowEngineChunk_updates ho hg hst hx hc hp hres hr hs hw hv hd
      exact ⟨_, hexec, u.rowDone_gets, fun i hi => ⟨_, scatterRule_rowUpdate _ _ _ _, hnew i hi⟩, hkept, hsys⟩
  · intro gr o x ys i hi
    exact ⟨gr.getD_contribution_singleton o x hi, fun hne => gr.getD_contribution_append o x hne hi⟩
  · intro s id pkg rows o ho hw hc
    exact execTransportReply_answers ho hw hc
  · intro s id pkg o ho hst ht hx
    obtain ⟨t, hexec, hmem, hreg, hz⟩ := execTransportReplyTimeout_eq ho hst ht hx
    exact ⟨t, _, hexec, hmem, hreg, hz, rfl⟩
  · intro s req
    obtain ⟨u, rows, hexec, hlen, hout, hno, hyes⟩ := execTransportRemoteRequest_answers s req
    refine ⟨_, rows, hexec, hlen, congrArg (· ++ _) hout, fun hp => ?_, fun a v r hreq hp hq => ?_⟩
    · obtain ⟨rfl, hcause⟩ := hno hp
      exact ⟨sameMemory_of_memories rfl, hcause⟩
    · have hserve := hyes hp
      rw [hreq] at hserve
      refine ⟨?_, ?_, ?_⟩
      · rintro cause va rfl
        obtain ⟨rfl, rfl⟩ := Prod.mk.inj ((serveRows_fault hq).symm.trans hserve)
        exact ⟨sameMemory_of_memories rfl, rfl⟩
      · rintro ts rfl hf
        obtain ⟨rfl, rfl⟩ := Prod.mk.inj ((serveRows_first hq hf).symm.trans hserve)
        exact ⟨sameMemory_of_memories rfl, rfl⟩
      · rintro ts rfl hf hs
        obtain ⟨rfl, rfl⟩ := Prod.mk.inj ((serveRows_read hq hf hs).symm.trans hserve)
        exact ⟨sameMemory_of_memories rfl, rfl⟩
  · intro s g w o ho hr hw hp hs
    obtain ⟨wv, hwv⟩ := Option.isSome_iff_exists.1 hw
    obtain ⟨t, hexec, hwv'⟩ := execXstatRecord_status ho hr hwv
    exact ⟨t, wv, _, hexec, hwv, hwv', fun j hj => o.bit_vmask hj, XOp.status_fields hs wv.xstat⟩
  · intro s id o ho hr size mask at'
    obtain ⟨t, hexec, hmem, hgone, hgrp⟩ := execTransportComplete_completes ho hr
    refine ⟨t, hexec, hmem, hgone, fun gr hg hp hj => ?_⟩
    obtain ⟨gr', hg', hspad, hbars⟩ := hgrp gr hg
    have hsAt (p : Nat) : s.spadAt o.g p = SMap.getD gr.spad p 0 := State.spadAt_of_grp hg p
    have htAt (p : Nat) : t.spadAt o.g p = SMap.getD (gr.putAll o.writes).spad p 0 := by
      rw [State.spadAt_of_grp hg', hspad]
    simp only [at', hsAt, htAt]
    refine ⟨⟨gr', hg', gr.bars_credited _ _ hbars⟩, ?_, ?_, ?_, ?_, ?_, ?_⟩
    · intro p hpo
      exact XOp.getD_outside hj gr hpo
    · intro hm k hk j h8
      exact XOp.bit_mask hj gr hm hk h8
    · intro hf k hk
      exact XOp.getD_scatter hf gr hk
    · intro hf
      exact ⟨fun x hx k hk => XOp.getD_gather hf hp hj gr hx hk, fun k hk h => XOp.getD_gather_rest hf gr hk h⟩
    · intro hf b hb i hi k hk
      exact XOp.getD_pooledTile hf hj gr hb hi hk
    · intro hf b hb
      refine ⟨fun i hi k hk => ⟨?_, ?_⟩, fun k hk => XOp.getD_countTile hf hj gr hb hk⟩
      · rw [XOp.getD_pairTile hf hj gr hb hi (by omega), getD_pairBytes_left _ hk]
        rfl
      · rw [Nat.add_assoc, XOp.getD_pairTile hf hj gr hb hi (by omega), getD_pairBytes_right _ hk]
        rfl

end Sys2Proof.Machine
end

section
/-!
SUPPORT. What the issue of an instruction leaves of a group: everything but its agents and the mark that it has run (15 R349
to R353).
-/

namespace Sys2Proof.Machine

/-- A group without its waves, its sequencer and the mark that it has run. -/
def Group.besideAgents (gr : Group) : Group := { gr with waves := [], seq := Seq.blank, ran := false }

/-- What does not depend on a group's agents is the same of groups that differ in them only. -/
theorem Group.congr_besideAgents {α : Type} {x y : Group} (h : x.besideAgents = y.besideAgents) (f : Group → α)
    (hf : ∀ gr : Group, f gr.besideAgents = f gr) : f x = f y := by
  rw [← hf x, h, hf y]

/-- Every group is as before but for its agents and that mark. -/
def SameBesideAgents (s t : State) : Prop := ∀ g, (t.grp g).map Group.besideAgents = (s.grp g).map Group.besideAgents

theorem SameBesideAgents.refl (s : State) : SameBesideAgents s s := fun _ => rfl

theorem SameBesideAgents.trans {s t u : State} (h : SameBesideAgents s t) (k : SameBesideAgents t u) :
    SameBesideAgents s u := fun g => (k g).trans (h g)

theorem SameBesideAgents.of_groups {s t : State} (h : t.groups = s.groups) : SameBesideAgents s t := fun g => by
  rw [State.grp, State.grp, h]

/-- The group at a place, after a step that keeps all but its agents. -/
theorem SameBesideAgents.grp {s t : State} (h : SameBesideAgents s t) {g : Nat} {gr : Group} (hg : s.grp g = some gr) :
    ∃ gr', t.grp g = some gr' ∧ gr'.besideAgents = gr.besideAgents := by
  have hmap := h g
  rw [hg] at hmap
  exact Option.map_eq_some_iff.1 hmap

theorem SameBesideAgents.foldl {α : Type} {f : State → α → State} (hf : ∀ s x, SameBesideAgents s (f s x)) (l : List α)
    (s : State) : SameBesideAgents s (l.foldl f s) :=
  foldl_rel SameBesideAgents.refl (fun _ _ _ => SameBesideAgents.trans) f hf l s

theorem sameBesideAgents_modGrp (s : State) (g : Nat) {f : Group → Group}
    (hf : ∀ gr, (f gr).besideAgents = gr.besideAgents) : SameBesideAgents s (s.modGrp g f) := fun g' => by
  rw [State.grp_modGrp]
  split
  next h =>
    rw [h, Option.map_map]
    exact congrArg (Option.map · (s.grp g)) (funext hf)
  · rfl

theorem sameBesideAgents_modWave (s : State) (g w : Nat) (f : Wave → Wave) : SameBesideAgents s (s.modWave g w f) :=
  sameBesideAgents_modGrp s g fun _ => rfl

theorem sameBesideAgents_modSeq (s : State) (g : Nat) (f : Seq → Seq) : SameBesideAgents s (s.modSeq g f) :=
  sameBesideAgents_modGrp s g fun _ => rfl

theorem sameBesideAgents_block (s : State) (ag : Agent) (b : Blk) : SameBesideAgents s (s.block ag b) := by
  cases ag with
  | split g w sp => exact sameBesideAgents_modWave _ _ _ _
  | seq g => exact sameBesideAgents_modSeq _ _ _

theorem sameBesideAgents_lower (s : State) (ag : Agent) (fl : Option Nat) : SameBesideAgents s (s.lower ag fl) := by
  cases fl with
  | none => exact .refl s
  | some k =>
    cases ag with
    | split g w sp => exact sameBesideAgents_modWave _ _ _ _
    | seq g => exact sameBesideAgents_modSeq _ _ _

theorem sameBesideAgents_commitWave (s : State) (g w : Nat) (p : Pend) : SameBesideAgents s (s.commitWave g w p) := by
  refine (sameBesideAgents_modWave s g w _).trans (SameBesideAgents.foldl (fun s x => ?_) _ _)
  split
  · exact sameBesideAgents_modWave _ _ _ _
  · exact .refl s

theorem sameBesideAgents_settle (s : State) (ag : Agent) : SameBesideAgents s (s.settle ag) := by
  cases ag with
  | split g w sp =>
    show SameBesideAgents s (s.settleWave g w)
    unfold State.settleWave
    split
    · exact .refl s
    · exact (sameBesideAgents_modWave s g w _).trans
        (SameBesideAgents.foldl (fun s p => sameBesideAgents_commitWave s g w p) _ _)
  | seq g =>
    show SameBesideAgents s (s.settleSeq g)
    unfold State.settleSeq
    split
    · exact .refl s
    · exact sameBesideAgents_modSeq _ _ _

theorem sameBesideAgents_slotTaken (s : State) (c : ICtx) : SameBesideAgents s (s.slotTaken c) := by
  unfold State.slotTaken
  split
  · exact .of_groups rfl
  · exact SameBesideAgents.foldl (fun s x => sameBesideAgents_modWave s x.1 x.2 _) c.losers s

theorem sameBesideAgents_begun (s : State) (c : ICtx) (h : Hdr) (len : Nat) : SameBesideAgents s (s.begun c h len) := by
  have hmark (t : State) : SameBesideAgents t (t.modGrp c.g fun gr => { gr with ran := true }) :=
    sameBesideAgents_modGrp t c.g fun _ => rfl
  have hran := (sameBesideAgents_settle { s with issuing := none } c.ag).trans
    ((hmark _).trans (sameBesideAgents_slotTaken _ c))
  unfold State.begun
  dsimp only
  split
  · exact hran.trans (sameBesideAgents_modSeq _ _ _)
  · have hquarter (t : State) (q : Nat) (f : Quarter → Quarter) : SameBesideAgents t (t.modQuarter c.core q f) :=
      .of_groups rfl
    exact (hran.trans (hquarter _ _ _)).trans (sameBesideAgents_modWave _ _ _ _)

/-- The issuing agent's group. -/
theorem grp_of_icx {s : State} {c : ICtx} (h : s.icx = some c) : s.grp c.g = some c.gr := by
  unfold State.icx at h
  repeat' split at h
  all_goals cases h
  all_goals assumption

end Sys2Proof.Machine
end

section
/-!
O34. acopy.in and acopy.out at issue, and the tag instructions (06 R138 to R144, R147).
-/

namespace Sys2Proof.Machine

-- The operands of a copy ---------------------------------------------------------------------------

theorem toNat_extractLsb'_eq (x : DWord) (i n : Nat) : (x.extractLsb' i n).toNat = x.toNat / 2 ^ i % 2 ^ n := by
  rw [BitVec.extractLsb'_toNat, Nat.shiftRight_eq_div_pow]

section CopyOperands
variable {c : ICtx} {inn : Bool} {a b : Src} {bar : Option Nat}

theorem toNat_extract_copyOfs (c : ICtx) (b : Src) : ((c.scalar b).extractLsb' 0 32).toNat = copyOfs c b := by
  rw [copyOfs, toNat_extractLsb'_eq, Nat.pow_zero, Nat.div_one]

theorem toNat_extract_copyCount (c : ICtx) (b : Src) : ((c.scalar b).extractLsb' 32 32).toNat = copyCount c b := by
  have hlt := (c.scalar b).isLt
  rw [copyCount, toNat_extractLsb'_eq, Nat.mod_eq_of_lt (by omega)]

theorem copyLimits_broken_iff : ((c.scalar a).toNat % 16 != 0 || copyOfs c b % 16 != 0 || copyCount c b % 16 != 0
    || copyCount c b < 16 || 1048576 < copyCount c b) = true ↔ ¬ CopyLimits c a b := by
  simp only [CopyLimits, copyVa, Bool.or_eq_true, bne_iff_ne, decide_eq_true_eq]
  omega

theorem copyRange_broken_iff : (!(if inn then c.gr.spadFree (copyOfs c b) (copyCount c b)
    else c.gr.spadHas (copyOfs c b) (copyCount c b))) = true ↔ ¬ CopyRange inn c b := by
  cases inn <;> simp [CopyRange, Group.spadFree, Group.spadHas, Classical.or_iff_not_imp_left]

theorem copyStop_of_not_limits (h : ¬ CopyLimits c a b) :
    copyStop c.gr inn (c.scalar a) (copyOfs c b) (copyCount c b) bar = some (tr cValue) :=
  if_pos (copyLimits_broken_iff.2 h)

theorem copyStop_of_not_range (h : CopyLimits c a b) (hr : ¬ CopyRange inn c b) :
    copyStop c.gr inn (c.scalar a) (copyOfs c b) (copyCount c b) bar = some (tr cSpad) :=
  (if_neg (mt copyLimits_broken_iff.1 (not_not.2 h))).trans (if_pos (copyRange_broken_iff.2 hr))

theorem copyStop_of_range (h : CopyLimits c a b) (hr : CopyRange inn c b) (bo : BitVec 4) (bv : Bool) :
    copyStop c.gr inn (c.scalar a) (copyOfs c b) (copyCount c b) (if bv then some bo.toNat else none)
      = if bv = true → c.gr.barReady bo.toNat = true then none else some (tr cBarrier) := by
  unfold copyStop
  refine ite_ite_of_neg (mt copyLimits_broken_iff.1 (not_not.2 h)) (mt copyRange_broken_iff.1 (not_not.2 hr)) ?_
  cases bv <;> simp

end CopyOperands

theorem copyPoint_of {i : Instr} {inn : Bool} {h : Hdr} {tag : BitVec 6} {a b : Src} {bo : BitVec 4} {bv : Bool}
    (hx : ∀ s, exec i s = acopy inn h tag a b bo bv s) : CopyPoint i inn h tag a b bo bv := by
  unfold acopy at hx
  simp only [toNat_extract_copyOfs, toNat_extract_copyCount] at hx
  refine ⟨completes_of_issue hx ?_, completes_of_issue hx ?_, traps_of_issue hx ?_, traps_of_issue hx ?_,
    traps_of_issue hx ?_, traps_of_issue hx ?_⟩
  · rintro c s ⟨⟨hlim, hrange, hbar⟩, hpend, hacq, hact, hroom⟩
    rw [copyStop_of_range hlim hrange, if_pos hbar]
    exact (if_neg (by simpa [hacq] using hpend)).trans ((if_neg (by simpa using hact)).trans (if_neg (by simpa using hroom)))
  · rintro c s ⟨⟨hlim, hrange, hbar⟩, hpend, hacq, hact⟩
    rw [copyStop_of_range hlim hrange, if_pos hbar]
    exact (if_neg (by simpa [hacq] using hpend)).trans (if_pos (by simpa using hact))
  · rintro c s ⟨⟨hlim, hrange, hbar⟩, hwait⟩
    rw [copyStop_of_range hlim hrange, if_pos hbar]
    dsimp only
    by_cases hfirst : 15 ≤ c.gr.pendTag.getD tag.toNat 0 ∨ s.acqPending c.ag = true
    · exact if_pos (by simpa using hfirst)
    · obtain ⟨hact, hfull⟩ := (or_assoc.2 hwait).resolve_left hfirst
      exact (if_neg (by simpa using hfirst)).trans ((if_neg (by simpa using hact)).trans (if_pos hfull))
  · intro c s hlim
    rw [copyStop_of_not_limits hlim]
  · rintro c s ⟨hlim, hrange⟩
    rw [copyStop_of_not_range hlim hrange]
  · rintro c s ⟨hlim, hrange, hbar⟩
    rw [copyStop_of_range hlim hrange, if_neg hbar]

-- The tags of a group ------------------------------------------------------------------------------

theorem anyPending_iff {gr : Group} {m : DWord} :
    gr.anyPending m = true ↔ ∃ t < 64, bit m t = true ∧ 0 < gr.pendTag.getD t 0 := by
  simp [Group.anyPending]

@[simp] theorem bit_and {n : Nat} (x y : BitVec n) (k : Nat) : bit (x &&& y) k = (bit x k && bit y k) := by simp [bit]

theorem bit_andNot_ofNat_pow (x : DWord) {k : Nat} (t : Nat) (hk : k < 64) :
    bit (x &&& ~~~(BitVec.ofNat 64 (2 ^ t))) k = (bit x k && k != t) := by
  have hnot (y : DWord) : bit (~~~y) k = !bit y k := by simp [bit, hk]
  rw [bit_and, hnot, bit_ofNat_pow hk]
  rfl

theorem bit_or_ofNat_pow (x : DWord) {k : Nat} (t : Nat) (hk : k < 64) :
    bit (x ||| BitVec.ofNat 64 (2 ^ t)) k = (bit x k || k == t) := by
  have hor (y : DWord) : bit (x ||| y) k = (bit x k || bit y k) := by simp [bit]
  rw [hor, bit_ofNat_pow hk]
  rfl

theorem pendTag_tagIssued (gr : Group) (t : Nat) {k : Nat} (hk : k < 64) :
    (gr.tagIssued t).pendTag.getD k 0 = if k = t then gr.pendTag.getD t 0 + 1 else gr.pendTag.getD k 0 :=
  setReg_getD 64 0 gr.pendTag t k _ hk

theorem pendTag_tagDone (gr : Group) (t : Nat) {k : Nat} (hk : k < 64) :
    (gr.tagDone t).pendTag.getD k 0 = if k = t then gr.pendTag.getD t 0 - 1 else gr.pendTag.getD k 0 :=
  setReg_getD 64 0 gr.pendTag t k _ hk

theorem bit_ctb_tagDone (gr : Group) (t : Nat) {k : Nat} (hk : k < 64) :
    bit (gr.tagDone t).ctb k = (bit gr.ctb k || (k == t && gr.pendTag.getD t 0 ≤ 1)) := by
  unfold Group.tagDone
  dsimp only
  split
  next hlast =>
    rw [bit_or_ofNat_pow _ _ hk, decide_eq_true (by omega), Bool.and_true]
  next hmore =>
    rw [decide_eq_false (by omega), Bool.and_false, Bool.or_false]

/-- tagclr at tag t: a ready tag of the mask becomes idle (R147). -/
def clearTag (m : DWord) (gr : Group) (t : Nat) : Group :=
  if bit m t && gr.pendTag.getD t 0 == 0 then { gr with ctb := gr.ctb &&& ~~~(BitVec.ofNat 64 (2 ^ t)) } else gr

theorem pendTag_clearTag (m : DWord) (gr : Group) (t : Nat) : (clearTag m gr t).pendTag = gr.pendTag := by
  unfold clearTag
  split <;> rfl

theorem bit_ctb_clearTag (m : DWord) (gr : Group) (t : Nat) {k : Nat} (hk : k < 64) :
    bit (clearTag m gr t).ctb k = (bit gr.ctb k && !(k == t && bit m t && gr.pendTag.getD t 0 == 0)) := by
  unfold clearTag
  split
  next hidle =>
    rw [bit_andNot_ofNat_pow _ _ hk, Bool.and_assoc, hidle, Bool.and_true]
    rfl
  next hkeep =>
    rw [Bool.and_assoc, Bool.eq_false_iff.2 hkeep, Bool.and_false, Bool.not_false, Bool.and_true]

theorem pendTag_foldl_clearTag (m : DWord) (gr : Group) (l : List Nat) :
    (l.foldl (clearTag m) gr).pendTag = gr.pendTag := by
  induction l generalizing gr with
  | nil => rfl
  | cons t l ih => rw [List.foldl_cons, ih, pendTag_clearTag]

theorem bit_ctb_foldl_clearTag (m : DWord) (gr : Group) (l : List Nat) {k : Nat} (hk : k < 64) :
    bit (l.foldl (clearTag m) gr).ctb k = (bit gr.ctb k && !(l.contains k && bit m k && gr.pendTag.getD k 0 == 0)) := by
  induction l generalizing gr with
  | nil => simp
  | cons t l ih =>
    rw [List.foldl_cons, ih, bit_ctb_clearTag _ _ _ hk, pendTag_clearTag, List.contains_cons]
    by_cases hkt : k = t
    · subst hkt
      cases bit m k <;> cases gr.pendTag.getD k 0 == 0 <;> simp
    · have hne : (k == t) = false := by simpa using hkt
      rw [hne, Bool.false_and, Bool.false_and, Bool.not_false, Bool.and_true, Bool.false_or]

/-- The lowest tag of a mask, or 64. -/
theorem lowestBit_eq {m : DWord} {t : Nat} (hlow : ∀ k < t, k < 64 → bit m k = false)
    (ht : (t < 64 ∧ bit m t = true) ∨ t = 64) : ((List.range 64).find? (bit m)).getD 64 = t := by
  rcases ht with ⟨hlt, hset⟩ | rfl
  · rw [find?_range_eq_some hlt hset fun k hk => hlow k hk (by omega), Option.getD_some]
  · have hnone : (List.range 64).find? (bit m) = none := by
      simpa using fun k hk => hlow k hk hk
    rw [hnone, Option.getD_none]

-- The tag instructions -----------------------------------------------------------------------------

theorem grp_begun {s : State} {c : ICtx} (hc : s.icx = some c) (h : Hdr) (len : Nat) :
    ∃ gr, (s.begun c h len).grp c.g = some gr ∧ gr.besideAgents = c.gr.besideAgents :=
  (sameBesideAgents_begun s c h len).grp (grp_of_icx hc)

theorem tagclr_completes (h : Hdr) (a : Src) : Completes (.tagclr h a) h 8 (fun c _ => c.acting h ≠ []) fun c s =>
    (s.modGrp c.g fun gr => (List.range 64).foldl (clearTag (c.scalar a)) gr).doneNow c h := by
  have hx (s : State) : exec (.tagclr h a) s = execTagclr h a s := rfl
  unfold execTagclr at hx
  refine completes_of_issue hx fun c s hact => ?_
  dsimp only
  rw [if_neg (by simpa using hact)]
  rfl

/-- tagclr of an agent that acts. -/
theorem tagclr_clears {s : State} {c : ICtx} {h : Hdr} {a : Src} (hc : s.icx = some c) (hact : c.acting h ≠ []) :
    ∃ t gr, exec (.tagclr h a) s = .next t ∧ t.grp c.g = some gr ∧ gr.pendTag = c.gr.pendTag
      ∧ ∀ k < 64, bit gr.ctb k = (bit c.gr.ctb k && !(bit (c.scalar a) k && c.gr.pendTag.getD k 0 == 0)) := by
  let u := (s.begun c h 8).modGrp c.g fun gr => (List.range 64).foldl (clearTag (c.scalar a)) gr
  have hx : exec (.tagclr h a) s = .next (u.doneNow c h) := tagclr_completes h a s c hc hact
  obtain ⟨gr, hgr, hbeg⟩ := grp_begun hc h 8
  have hu : u.grp c.g = some ((List.range 64).foldl (clearTag (c.scalar a)) gr) := by
    simp [u, State.grp_modGrp, hgr]
  obtain ⟨gr', hgr', hsame⟩ := (sameBesideAgents_lower u c.ag (hdrFlag h)).grp hu
  have hpend := Group.congr_besideAgents hbeg Group.pendTag fun _ => rfl
  have hctb := Group.congr_besideAgents hbeg Group.ctb fun _ => rfl
  have hpend' := Group.congr_besideAgents hsame Group.pendTag fun _ => rfl
  have hctb' := Group.congr_besideAgents hsame Group.ctb fun _ => rfl
  refine ⟨_, gr', hx, hgr', hpend'.trans ((pendTag_foldl_clearTag ..).trans hpend), fun k hk => ?_⟩
  have hin : (List.range 64).contains k = true := by simpa using hk
  rw [hctb', bit_ctb_foldl_clearTag _ _ _ hk, hin, Bool.true_and, hctb, hpend]

/-- Settles O34: each branch of the checks of a copy and of a tag instruction is one clause, and tagclr clears tag by tag. -/
theorem copiesIssueAndTagInstructions : Obligations.CopiesIssueAndTagInstructions := by
  unfold Obligations.CopiesIssueAndTagInstructions
  intro h tag a b bo bv ch d
  have hany (s : State) : exec (.tagwaitAny h a) s = execTagwaitAny h a s := rfl
  have hall (s : State) : exec (.tagwaitAll h a) s = execTagwaitAll h a s := rfl
  have hffr (s : State) : exec (.tagffr h d a) s = execTagffr h d a s := rfl
  have hclr (s : State) : exec (.tagclr h a) s = execTagclr h a s := rfl
  unfold execTagwaitAny tagwait at hany
  unfold execTagwaitAll tagwait at hall
  unfold execTagffr at hffr
  unfold execTagclr at hclr
  refine ⟨copyPoint_of fun _ => rfl, copyPoint_of fun _ => rfl,
    ⟨completes_of_issue hany ?_, completes_of_issue hall ?_, traps_of_issue hany ?_, traps_of_issue hall ?_⟩,
    fun t => completes_of_issue hffr ?_, completes_of_issue hffr ?_, completes_of_issue hclr ?_,
    fun s c hc hact => tagclr_clears hc hact, fun gr t k ht hk => ⟨pendTag_tagIssued gr t hk,
      bit_andNot_ofNat_pow gr.ctb t hk, pendTag_tagDone gr t hk, bit_ctb_tagDone gr t hk⟩⟩
  · intro c s hgo
    simp only [← anyPending_iff] at hgo
    exact if_pos (by simpa using hgo)
  · intro c s hgo
    simp only [← anyPending_iff] at hgo
    exact if_pos (by simpa using hgo)
  · rintro c s ⟨hnone, hsome⟩
    simp only [← anyPending_iff] at hsome
    exact if_neg (by simp [hnone, hsome])
  · intro c s hsome
    simp only [← anyPending_iff] at hsome
    exact if_neg (by simp [hsome])
  · rintro c s ⟨hact, hnw, hlow, ht⟩
    dsimp only
    rw [if_neg (by simpa [hnw] using hact), lowestBit_eq hlow ht]
  · intro c s hidle
    dsimp only
    rw [if_pos (by rcases hidle with hidle | hidle <;> simp [hidle])]
  · intro c s hact
    dsimp only
    rw [if_pos (by simpa using hact)]

end Sys2Proof.Machine
end

section
/-!
O35. The end of a copy's translation, and of the copy (06 R139, R143, R144).
-/

namespace Sys2Proof.Machine

-- The end of its translation -----------------------------------------------------------------------

theorem copies_of_besideMemory {s t : State} (h : t.besideMemory = s.besideMemory) : t.copies = s.copies :=
  show t.besideMemory.copies = s.besideMemory.copies by rw [h]

theorem copies_block (s : State) (ag : Agent) (b : Blk) : (s.block ag b).copies = s.copies := by cases ag <;> rfl

theorem copies_lower (s : State) (ag : Agent) (fl : Option Nat) : (s.lower ag fl).copies = s.copies := by
  cases fl <;> cases ag <;> rfl

theorem copies_credit (s : State) (g : Nat) (bar : Option Nat) (n : Nat) : (s.credit g bar n).copies = s.copies := by
  cases bar <;> rfl

/-- Copy id takes the targets of its units. -/
def CopyOp.withUnits (id : Nat) (us : List Tgt) (o : CopyOp) : CopyOp :=
  if o.id == id then { o with units := some us } else o

/-- A copy is queued: its tag is issued, it has its units, and its agent goes on (R139, R143). -/
def State.copyQueued (s : State) (op : CopyOp) (id : Nat) (us : List Tgt) : State :=
  { s.modGrp (agPlace op.ag) fun gr => gr.tagIssued op.tag with copies := s.copies.map (CopyOp.withUnits id us) }.block
    op.ag .none

theorem grp_copyQueued {s : State} {op : CopyOp} {gr : Group} (hgr : s.grp (agPlace op.ag) = some gr) (id : Nat)
    (us : List Tgt) : ∃ gr', (s.copyQueued op id us).grp (agPlace op.ag) = some gr'
      ∧ gr'.pendTag = (gr.tagIssued op.tag).pendTag ∧ gr'.ctb = (gr.tagIssued op.tag).ctb := by
  have hgrp : (s.modGrp (agPlace op.ag) fun gr => gr.tagIssued op.tag).grp (agPlace op.ag)
      = some (gr.tagIssued op.tag) := by
    rw [State.grp_modGrp, if_pos rfl, hgr]
    rfl
  let u : State := { s.modGrp (agPlace op.ag) fun gr => gr.tagIssued op.tag with
    copies := s.copies.map (CopyOp.withUnits id us) }
  obtain ⟨gr', hgr', hsame⟩ := (sameBesideAgents_block u op.ag .none).grp hgrp
  exact ⟨gr', hgr', Group.congr_besideAgents hsame Group.pendTag fun _ => rfl,
    Group.congr_besideAgents hsame Group.ctb fun _ => rfl⟩

theorem mem_copies_copyQueued {s : State} {op : CopyOp} {id : Nat} (hmem : op ∈ s.copies) (hid : op.id = id)
    (us : List Tgt) : { op with units := some us } ∈ (s.copyQueued op id us).copies := by
  rw [State.copyQueued, copies_block]
  exact List.mem_map.2 ⟨op, hmem, if_pos (beq_iff_eq.2 hid)⟩

section Translated
variable {s t : State} {id : Nat} {op : CopyOp} {gr : Group} {ps : List XPiece}
  (hop : s.copies.find? (fun o => o.id == id && o.units.isNone) = some op) (hgr : s.grp (agPlace op.ag) = some gr)
  (hps : s.xpieces (coreUnit (agPlace op.ag)) gr.ctx (if op.inn then .rd else .wr) (pieces op.va op.count) = (t, ps))
include hop hgr hps

theorem copyTranslated_parks {va : Nat} (hf : decidingFault (refusePieces (copyCheck op.inn) ps) = some (cNotPresent, va)) :
    exec (.copyTranslated id) s
      = .next ({ t with copies := t.copies.filter fun o => o.id != id }.parkAt op.ag op.pc va 0 op.flag) := by
  show execCopyTranslated id s = _
  simp only [execCopyTranslated, hop, hgr, hps, hf, if_true]

theorem copyTranslated_traps {cause va : Nat} (hc : cause ≠ cNotPresent)
    (hf : decidingFault (refusePieces (copyCheck op.inn) ps) = some (cause, va)) : exec (.copyTranslated id) s
      = .next ({ t with copies := t.copies.filter fun o => o.id != id }.trapAt op.ag op.pc cause (some va) 0) := by
  show execCopyTranslated id s = _
  simp only [execCopyTranslated, hop, hgr, hps, hf, if_neg hc]

theorem copyTranslated_queues (hf : decidingFault (refusePieces (copyCheck op.inn) ps) = none)
    (hpend : gr.pendTag.getD op.tag 0 < 15)
    (hhome : op.inn = true ∨ gr.cls = 0 ∨ ∀ x ∈ unitsOf (refusePieces (copyCheck op.inn) ps), x.isSys = false) :
    ∃ u gr', exec (.copyTranslated id) s = .next u ∧ u.grp (agPlace op.ag) = some gr'
      ∧ gr'.pendTag = (gr.tagIssued op.tag).pendTag ∧ gr'.ctb = (gr.tagIssued op.tag).ctb
      ∧ (∃ o ∈ u.copies, o.id = id ∧ o.units = some (unitsOf (refusePieces (copyCheck op.inn) ps)))
      ∧ ∀ b, u.waitOf op.ag = some b → b = .none := by
  have hbeside : t.besideMemory = s.besideMemory :=
    (congrArg (fun r => r.1.besideMemory) hps).symm.trans (besideMemory_xpieces ..)
  have hstays : (gr.versioned && !op.inn && (unitsOf (refusePieces (copyCheck op.inn) ps)).any Tgt.isSys) = false := by
    rcases hhome with h | h | h
    · simp [h]
    · simp [Group.versioned, h]
    · rw [List.any_eq_false.2 fun x hx => by simp [h x hx], Bool.and_false]
  have hgr' : t.grp (agPlace op.ag) = some gr := (grp_of_besideMemory hbeside _).trans hgr
  have hid : op.id = id := by
    have hfound := List.find?_some hop
    simp only [Bool.and_eq_true, beq_iff_eq] at hfound
    exact hfound.1
  have hmem : op ∈ t.copies := (copies_of_besideMemory hbeside).symm ▸ List.mem_of_find?_eq_some hop
  have hx : exec (.copyTranslated id) s
      = .next (t.copyQueued op id (unitsOf (refusePieces (copyCheck op.inn) ps))) := by
    show execCopyTranslated id s = _
    simp only [execCopyTranslated, hop, hgr, hps, hf, if_neg (Nat.not_le.2 hpend), hstays, Bool.false_and,
      Bool.false_eq_true, if_false]
    rfl
  obtain ⟨gr', hqueued, htag, hctb⟩ := grp_copyQueued hgr' id (unitsOf (refusePieces (copyCheck op.inn) ps))
  exact ⟨_, gr', hx, hqueued, htag, hctb, ⟨_, mem_copies_copyQueued hmem hid _, hid, rfl⟩,
    fun b hb => eq_of_waitOf_block hb⟩

end Translated

end Sys2Proof.Machine
end

section
/-!
O35. The bytes of a complete copy (06 R139, R144): what its units read, and where the last of those that meet stands.
-/

namespace Sys2Proof.Machine

-- A copy's end -------------------------------------------------------------------------------------

/-- A group without its scratchpad bytes, version and signature. -/
def Group.besideBytes (gr : Group) : Group := { gr with spad := [], version := [], sig := [] }

theorem Group.congr_besideBytes {α : Type} {x y : Group} (h : x.besideBytes = y.besideBytes) (f : Group → α)
    (hf : ∀ gr : Group, f gr.besideBytes = f gr) : f x = f y := by
  rw [← hf x, h, hf y]

/-- What follows the bytes of a copy: it leaves the queue, its tag falls, its object is credited and its flag falls (R144). -/
def State.copyEnds (s : State) (op : CopyOp) (id : Nat) : State :=
  (({ s with copies := s.copies.filter fun o => o.id != id }.modGrp (agPlace op.ag) fun gr => gr.tagDone op.tag).credit
    (agPlace op.ag) op.bar op.count).lower op.ag op.flag

@[simp] theorem memories_copyEnds (s : State) (op : CopyOp) (id : Nat) : (s.copyEnds op id).memories = s.memories := by
  rw [State.copyEnds, memories_lower, memories_credit]
  rfl

theorem copies_copyEnds {s : State} {op o : CopyOp} {id : Nat} (h : o ∈ (s.copyEnds op id).copies) : o.id ≠ id := by
  rw [State.copyEnds, copies_lower, copies_credit] at h
  simpa using (List.mem_filter.1 h).2

theorem grp_credit {s : State} {g : Nat} {gr : Group} (hg : s.grp g = some gr) (bar : Option Nat) (n : Nat) :
    ∃ bs, (s.credit g bar n).grp g = some { gr with bars := bs }
      ∧ ∀ j < 16, bs.getD j none = (gr.bars.getD j none).map fun b => if bar = some j then reached b n 0 else b := by
  cases bar with
  | none => exact ⟨gr.bars, hg, fun j hj => by simp⟩
  | some k =>
    refine ⟨(gr.credit k n 0).bars, ?_, fun j hj => ?_⟩
    · show (s.modGrp g fun gr => gr.credit k n 0).grp g = _
      rw [State.grp_modGrp, if_pos rfl, hg]
      rfl
    · rw [getD_credit gr k n hj]
      by_cases h : j = k
      · simp [h]
      · simp [h, Ne.symm h]

/-- The group after a copy's end. -/
theorem grp_copyEnds {s : State} {op : CopyOp} {gr gr1 : Group} (id : Nat) (hg : s.grp (agPlace op.ag) = some gr1)
    (hsame : gr1.besideBytes = gr.besideBytes) : ∃ gr', (s.copyEnds op id).grp (agPlace op.ag) = some gr'
      ∧ gr'.pendTag = (gr.tagDone op.tag).pendTag ∧ gr'.ctb = (gr.tagDone op.tag).ctb
      ∧ (∀ j < 16, gr'.bars.getD j none = (gr.bars.getD j none).map fun b =>
          if op.bar = some j then reached b op.count 0 else b)
      ∧ gr'.spad = gr1.spad ∧ gr'.version = gr1.version := by
  have htag : ({ s with copies := s.copies.filter fun o => o.id != id }.modGrp (agPlace op.ag) fun gr =>
      gr.tagDone op.tag).grp (agPlace op.ag) = some (gr1.tagDone op.tag) := by
    rw [State.grp_modGrp, if_pos rfl]
    show (s.grp _).map _ = _
    rw [hg]
    rfl
  obtain ⟨bs, hcred, hbars⟩ := grp_credit htag op.bar op.count
  obtain ⟨gr', hgr', hsame'⟩ := (sameBesideAgents_lower _ op.ag op.flag).grp hcred
  have hpend := Group.congr_besideBytes hsame (fun x => (x.tagDone op.tag).pendTag) fun _ => rfl
  have hctb := Group.congr_besideBytes hsame (fun x => (x.tagDone op.tag).ctb) fun _ => rfl
  have hbar := Group.congr_besideBytes hsame Group.bars fun _ => rfl
  refine ⟨gr', hgr', (Group.congr_besideAgents hsame' Group.pendTag fun _ => rfl).trans hpend,
    (Group.congr_besideAgents hsame' Group.ctb fun _ => rfl).trans hctb, fun j hj => ?_,
    Group.congr_besideAgents hsame' Group.spad fun _ => rfl, Group.congr_besideAgents hsame' Group.version fun _ => rfl⟩
  rw [show gr'.bars = bs from Group.congr_besideAgents hsame' Group.bars fun _ => rfl, hbars j hj]
  show (gr1.bars.getD j none).map _ = _
  rw [hbar]

-- Units --------------------------------------------------------------------------------------------

theorem length_memRead (m : List Host.Cell) (a n : Nat) : (memRead m a n).length = n := by
  induction n generalizing a with
  | zero => rfl
  | succ n ih => rw [memRead, List.length_cons, ih]

theorem length_readTgt (s : State) (view : Option Group) (x : Tgt) (n : Nat) : (s.readTgt view x n).length = n := by
  cases x with
  | dram a => simp [State.readTgt, State.viewBytes]
  | sys a => exact length_memRead ..
  | aliasAt d f p ty o =>
    simp only [State.readTgt, State.aliasRead, List.length_take, List.length_drop]
    rw [length_flatMap_block (m := 2) fun c => length_bytesOf 2 c]
    simp
    omega

theorem readTgt_modGrp_setSpad (s : State) (g : Nat) (f : Group → Group) (gr : Group) (o : Nat) (bs : List Byte) (x : Tgt)
    (n : Nat) : (s.modGrp g f).readTgt (some (gr.setSpad o bs)) x n = s.readTgt (some gr) x n := by
  cases x <;> rfl

theorem getElem?_map_range {α : Type} {f : Nat → α} {n k : Nat} {y : α} :
    ((List.range n).map f)[k]? = some y ↔ k < n ∧ f k = y := by
  rw [List.getElem?_map, Option.map_eq_some_iff]
  constructor
  · rintro ⟨i, hi, hy⟩
    obtain ⟨hlt, rfl⟩ := List.getElem?_eq_some_iff.1 hi
    exact ⟨by simpa using hlt, by simpa using hy⟩
  · rintro ⟨hlt, hy⟩
    exact ⟨k, List.getElem?_range hlt, hy⟩

/-- The units of a copy with their scratchpad offsets. -/
theorem mem_zip_offsets {us : List Tgt} {f : Nat → Nat} {p : Nat × Tgt} :
    p ∈ ((List.range us.length).map f).zip us ↔ ∃ k, us[k]? = some p.2 ∧ p.1 = f k := by
  rw [List.mem_iff_getElem?]
  refine exists_congr fun k => ?_
  rw [List.getElem?_zip_eq_some, getElem?_map_range]
  exact ⟨fun ⟨⟨_, hofs⟩, hunit⟩ => ⟨hunit, hofs.symm⟩,
    fun ⟨hunit, hofs⟩ => ⟨⟨(List.getElem?_eq_some_iff.1 hunit).1, hofs.symm⟩, hunit⟩⟩

-- acopy.in -------------------------------------------------------------------------------------------

/-- The runs of bytes that the units of acopy.in put in scratchpad. -/
def State.unitRuns (s : State) (gr : Group) (us : List (Nat × Tgt)) : List (Nat × List Byte) :=
  us.map fun p => (p.1, s.readTgt (some gr) p.2 16)

theorem grp_unitsIn {s : State} {g : Nat} {gr : Group} (hg : s.grp g = some gr) (us : List (Nat × Tgt)) :
    (s.unitsIn g us).grp g = some (gr.putAll (s.unitRuns gr us)) := by
  induction us generalizing s gr with
  | nil => exact hg
  | cons p us ih =>
    obtain ⟨o, x⟩ := p
    have hstep : (s.modGrp g fun gr => gr.setSpad o (s.readTgt (s.grp g) x 16)).grp g
        = some (gr.setSpad o (s.readTgt (some gr) x 16)) := by
      rw [State.grp_modGrp, if_pos rfl, hg]
      rfl
    refine (ih hstep).trans ?_
    simp only [State.unitRuns, readTgt_modGrp_setSpad, List.map_cons]
    rfl

theorem besideBytes_putAll (gr : Group) (ws : List (Nat × List Byte)) : (gr.putAll ws).besideBytes = gr.besideBytes :=
  List.foldlRecOn (motive := fun x : Group => x.besideBytes = gr.besideBytes) ws _ rfl fun _ h _ _ => h

section UnitRuns
variable {s : State} {gr : Group} {us : List Tgt} {ofs : Nat}

theorem mem_unitRuns {w : Nat × List Byte}
    (hw : w ∈ s.unitRuns gr (((List.range us.length).map fun k => ofs + 16 * k).zip us)) :
    ∃ k x, us[k]? = some x ∧ w = (ofs + 16 * k, s.readTgt (some gr) x 16) := by
  obtain ⟨p, hp, rfl⟩ := List.mem_map.1 hw
  obtain ⟨k, hunit, hofs⟩ := mem_zip_offsets.1 hp
  exact ⟨k, p.2, hunit, by rw [hofs]⟩

theorem unit_of_covers {k p : Nat} {x : Tgt} (h : Covers (ofs + 16 * k, s.readTgt (some gr) x 16) p) :
    ofs + 16 * k ≤ p ∧ p < ofs + 16 * k + 16 := by
  simpa [Covers, length_readTgt] using h

/-- Each byte of a unit stands in scratchpad at the unit's offset. -/
theorem spad_unitRuns {k j : Nat} {x : Tgt} (hx : us[k]? = some x) (hj : j < 16) :
    SMap.getD (gr.putAll (s.unitRuns gr (((List.range us.length).map fun k => ofs + 16 * k).zip us))).spad
      (ofs + 16 * k + j) 0 = (s.readTgt (some gr) x 16).getD j 0 := by
  refine getD_putAll (fun w hw hcov => ?_) (.inl ⟨(ofs + 16 * k, s.readTgt (some gr) x 16), ?_, ?_⟩)
  · obtain ⟨i, y, hy, rfl⟩ := mem_unitRuns hw
    have hin := unit_of_covers hcov
    obtain rfl : i = k := by omega
    obtain rfl : y = x := Option.some.inj (hy.symm.trans hx)
    rw [Nat.add_sub_cancel_left]
  · exact List.mem_map.2 ⟨(ofs + 16 * k, x), mem_zip_offsets.2 ⟨k, hx, rfl⟩, rfl⟩
  · simp [Covers, length_readTgt, hj]

theorem spad_unitRuns_elsewhere {o : Nat} (ho : o < ofs ∨ ofs + 16 * us.length ≤ o) :
    SMap.getD (gr.putAll (s.unitRuns gr (((List.range us.length).map fun k => ofs + 16 * k).zip us))).spad o 0
      = SMap.getD gr.spad o 0 := by
  refine getD_putAll_of_not_covered (fun w hw hcov => ?_) gr
  obtain ⟨k, x, hx, rfl⟩ := mem_unitRuns hw
  have hin := unit_of_covers hcov
  have hlt := (List.getElem?_eq_some_iff.1 hx).1
  omega

end UnitRuns

-- acopy.out ------------------------------------------------------------------------------------------

/-- One unit of acopy.out, an offset, a VA and a target: it enters the signature and is written (R144; 16 R369). -/
def State.unitOut (g : Nat) (s : State) (p : Nat × Nat × Tgt) : State :=
  let bs := match s.grp g with | some gr => gr.spadBytes p.1 16 | none => []
  (s.sign g 136 p.2.1 bs).writeTgt g p.2.2 bs

theorem unitsOut_eq_foldl (s : State) (g : Nat) (l : List (Nat × Nat × Tgt)) :
    s.unitsOut g 136 l = l.foldl (State.unitOut g) s := by
  induction l generalizing s with
  | nil => rfl
  | cons p l ih => exact ih _

/-- A byte after a unit at address a, if the unit has one there, is written from the scratchpad of a group. -/
def unitByte (gr : Group) (o : Nat) (a : Option Nat) (b : Nat) (old : Byte) : Byte :=
  match a with
  | some a => if a ≤ b ∧ b < a + 16 then gr.spadByte (o + (b - a)) else old
  | none => old

/-! Units that meet no byte b leave it, and a unit not met by a later one has its bytes where they are seen: for any
bytes V that each unit writes at its address A, where P holds of every state on the way. -/
section Units
variable {g : Nat} {gr : Group} {P : State → Prop} {V : State → Nat → Byte} {A : Tgt → Option Nat} {us : List Tgt}
  (hstep : ∀ s p, P s → p.2.2 ∈ us → P (s.unitOut g p)
    ∧ ∀ b, V (s.unitOut g p) b = unitByte gr p.1 (A p.2.2) b (V s b))
include hstep

theorem unitsOut_keeps {l : List (Nat × Nat × Tgt)} (hl : ∀ p ∈ l, p.2.2 ∈ us) {s : State} (hP : P s) :
    P (l.foldl (State.unitOut g) s) := by
  induction l generalizing s with
  | nil => exact hP
  | cons p l ih => exact ih (fun q hq => hl q (by simp [hq])) (hstep s p hP (hl p (by simp))).1

theorem unitsOut_untouched {l : List (Nat × Nat × Tgt)} (hl : ∀ p ∈ l, p.2.2 ∈ us) {s : State} (hP : P s) {b : Nat}
    (hb : ∀ p ∈ l, ∀ a, A p.2.2 = some a → b < a ∨ a + 16 ≤ b) : V (l.foldl (State.unitOut g) s) b = V s b := by
  induction l generalizing s with
  | nil => rfl
  | cons p l ih =>
    obtain ⟨hP', hV⟩ := hstep s p hP (hl p (by simp))
    refine (ih (fun q hq => hl q (by simp [hq])) hP' fun q hq => hb q (by simp [hq])).trans ((hV b).trans ?_)
    unfold unitByte
    split
    next a ha =>
      have hout := hb p (by simp) a ha
      exact if_neg (by omega)
    · rfl

theorem unitsOut_last {pre post : List (Nat × Nat × Tgt)} {p : Nat × Nat × Tgt}
    (hl : ∀ q ∈ pre ++ p :: post, q.2.2 ∈ us) {s : State} (hP : P s) {a j : Nat} (ha : A p.2.2 = some a) (hj : j < 16)
    (hlater : ∀ q ∈ post, ∀ b, A q.2.2 = some b → a + 16 ≤ b ∨ b + 16 ≤ a) :
    V ((pre ++ p :: post).foldl (State.unitOut g) s) (a + j) = gr.spadByte (p.1 + j) := by
  have hpre := unitsOut_keeps hstep (l := pre) (fun q hq => hl q (by simp [hq])) hP
  obtain ⟨hP', hV⟩ := hstep _ p hpre (hl p (by simp))
  rw [List.foldl_append, List.foldl_cons, unitsOut_untouched hstep (fun q hq => hl q (by simp [hq])) hP'
    fun q hq b hb => by have := hlater q hq b hb; omega]
  rw [hV, ha]
  exact (if_pos (by omega)).trans (by rw [Nat.add_sub_cancel_left])

end Units

/-- The address of a target in DRAM, and in system space. -/
def Tgt.dramAt : Tgt → Option Nat
  | .dram a => some a
  | _ => none
def Tgt.sysAt : Tgt → Option Nat
  | .sys a => some a
  | _ => none

theorem length_spadBytes (gr : Group) (o n : Nat) : (gr.spadBytes o n).length = n := by simp [Group.spadBytes]

theorem getD_spadBytes (gr : Group) (o : Nat) {n k : Nat} (hk : k < n) :
    (gr.spadBytes o n).getD k 0 = gr.spadByte (o + k) := by
  simp [Group.spadBytes, List.getD_eq_getElem?_getD, hk]

/-- Bytes of a memory after a unit is written there. -/
theorem memByte_writeUnit (m : List Host.Cell) (gr : Group) (o a b : Nat) :
    memByte (memWrite m a (gr.spadBytes o 16)) b = unitByte gr o (some a) b (memByte m b) := by
  rw [memByte_write, length_spadBytes]
  exact ite_congr rfl (fun hin => getD_spadBytes gr o (by omega)) fun _ => rfl

theorem besideMemory_l1Update (s : State) (core a : Nat) (bytes : List Byte) :
    (s.l1Update core a bytes).besideMemory = s.besideMemory := by
  unfold State.l1Update
  dsimp only
  split <;> rfl

section Unit
variable {s : State} {g : Nat} {gr : Group} (hg : s.grp g = some gr)
include hg

theorem unitOut_eq (p : Nat × Nat × Tgt) : s.unitOut g p
    = (s.sign g 136 p.2.1 (gr.spadBytes p.1 16)).writeTgt g p.2.2 (gr.spadBytes p.1 16) := by
  unfold State.unitOut
  rw [hg]

theorem agentWrite_of_unversioned (hv : gr.cls = 0) (a : Nat) (bs : List Byte) :
    s.agentWrite g a bs = (s.dramWrite a bs).l1Update (coreOf g) a bs := by
  have hplain : gr.versioned = false := by simp [Group.versioned, hv]
  simp [State.agentWrite, State.homeWrite, hg, hplain]

/-- A unit of a group without a version is written at its home. -/
theorem unitOut_home (hv : gr.cls = 0) {p : Nat × Nat × Tgt} (hp : (∃ a, p.2.2 = .dram a) ∨ ∃ a, p.2.2 = .sys a) :
    (∃ sig, (s.unitOut g p).grp g = some { gr with sig := sig })
      ∧ (∀ b, (s.unitOut g p).byteAt b = unitByte gr p.1 p.2.2.dramAt b (s.byteAt b))
      ∧ ∀ b, (s.unitOut g p).sysByteAt b = unitByte gr p.1 p.2.2.sysAt b (s.sysByteAt b) := by
  obtain ⟨o, va, x⟩ := p
  obtain ⟨sig, hsig⟩ := s.grp_sign g 136 va (gr.spadBytes o 16) hg
  rw [unitOut_eq hg]
  generalize ht : s.sign g 136 va (gr.spadBytes o 16) = t at hsig ⊢
  have hmem : t.memories = s.memories := ht ▸ memories_sign ..
  rcases hp with ⟨a, rfl⟩ | ⟨a, rfl⟩
  · have hw : t.writeTgt g (.dram a) (gr.spadBytes o 16)
        = (t.dramWrite a (gr.spadBytes o 16)).l1Update (coreOf g) a (gr.spadBytes o 16) :=
      agentWrite_of_unversioned hsig hv a _
    dsimp only
    rw [hw]
    refine ⟨⟨sig, ?_⟩, fun b => ?_, fun b => ?_⟩
    · rw [grp_of_besideMemory (besideMemory_l1Update ..)]
      exact hsig
    · rw [State.byteAt_of_memories (memories_l1Update ..)]
      exact (memByte_writeUnit t.mem gr o a b).trans (congrArg _ (State.byteAt_of_memories hmem b))
    · rw [State.sysByteAt_of_memories (memories_l1Update ..)]
      exact State.sysByteAt_of_memories hmem b
  · exact ⟨⟨sig, hsig⟩, fun b => State.byteAt_of_memories hmem b, fun b =>
      (memByte_writeUnit t.sys gr o a b).trans (congrArg _ (State.sysByteAt_of_memories hmem b))⟩

end Unit

/-- A run of bytes enters a group's version. -/
def Group.enterVersion (gr : Group) (a : Nat) (bs : List Byte) : Group :=
  { gr with version := (List.range bs.length).foldl (fun v k => SMap.set (a + k) (bs.getD k 0) v) gr.version }

theorem getD_enterVersion (gr : Group) (a b : Nat) (bs : List Byte) (d : Byte) :
    SMap.getD (gr.enterVersion a bs).version b d
      = if a ≤ b ∧ b < a + bs.length then bs.getD (b - a) 0 else SMap.getD gr.version b d := by
  have hrun (n : Nat) : SMap.getD ((List.range n).foldl (fun v k => SMap.set (a + k) (bs.getD k 0) v) gr.version) b d
      = if a ≤ b ∧ b < a + n then bs.getD (b - a) 0 else SMap.getD gr.version b d := by
    induction n with
    | zero => simp
    | succ n ih =>
      rw [List.range_succ, List.foldl_append, List.foldl_cons, List.foldl_nil, SMap.getD_set, ih]
      by_cases h : b = a + n
      · rw [if_pos h, if_pos (by omega), h, Nat.add_sub_cancel_left]
      · rw [if_neg h]
        exact if_congr (by omega) rfl rfl
  exact hrun bs.length

/-- A unit of a versioned group enters its version. -/
theorem unitOut_version {s : State} {g : Nat} {gr : Group} (hg : s.grp g = some gr) (hv : gr.cls ≠ 0)
    {p : Nat × Nat × Tgt} (hp : ∃ a, p.2.2 = .dram a) : (s.unitOut g p).memories = s.memories
      ∧ ∃ sig version, (s.unitOut g p).grp g = some { gr with sig := sig, version := version }
        ∧ ∀ b, (s.unitOut g p).viewByte ((s.unitOut g p).grp g) b
            = unitByte gr p.1 p.2.2.dramAt b (s.viewByte (s.grp g) b) := by
  obtain ⟨o, va, x⟩ := p
  obtain ⟨a, rfl⟩ : ∃ a, x = .dram a := hp
  obtain ⟨sig, hsig⟩ := s.grp_sign g 136 va (gr.spadBytes o 16) hg
  rw [unitOut_eq hg]
  generalize ht : s.sign g 136 va (gr.spadBytes o 16) = t at hsig ⊢
  have hmem : t.memories = s.memories := ht ▸ memories_sign ..
  have hver : ({ gr with sig := sig } : Group).versioned = true := by simpa [Group.versioned] using hv
  have hw : t.writeTgt g (.dram a) (gr.spadBytes o 16)
      = (t.modGrp g fun gr' => gr'.enterVersion a (gr.spadBytes o 16)).hitGranules (some g) a (gr.spadBytes o 16).length := by
    simp only [State.writeTgt, State.agentWrite, State.homeWrite, hsig, hver, if_true]
    rfl
  have hgrp : (t.writeTgt g (.dram a) (gr.spadBytes o 16)).grp g
      = some (({ gr with sig := sig } : Group).enterVersion a (gr.spadBytes o 16)) := by
    rw [hw]
    show (t.modGrp g fun gr' => gr'.enterVersion a (gr.spadBytes o 16)).grp g = _
    rw [State.grp_modGrp, if_pos rfl, hsig]
    rfl
  have hmem' : (t.writeTgt g (.dram a) (gr.spadBytes o 16)).memories = s.memories := by
    rw [hw]
    exact hmem
  refine ⟨hmem', sig, _, hgrp, fun b => ?_⟩
  rw [hgrp, hg]
  show SMap.getD _ b (memByte _ b) = unitByte gr o (some a) b (SMap.getD gr.version b (memByte s.mem b))
  rw [show (t.writeTgt g (.dram a) (gr.spadBytes o 16)).mem = s.mem from congrArg Prod.fst hmem', getD_enterVersion,
    length_spadBytes]
  exact ite_congr rfl (fun hin => getD_spadBytes gr o (by omega)) fun _ => rfl

end Sys2Proof.Machine
end

section
/-!
O35. COPY_COMPLETE (06 R144).
-/

namespace Sys2Proof.Machine

/-- The units of acopy.out: offset, VA and target. -/
def CopyOp.outUnits (op : CopyOp) (us : List Tgt) : List (Nat × Nat × Tgt) :=
  ((List.range us.length).map fun k => op.ofs + 16 * k).zip (((List.range us.length).map fun k => op.va + 16 * k).zip us)

theorem getElem?_outUnits {op : CopyOp} {us : List Tgt} {k : Nat} {p : Nat × Nat × Tgt} :
    (op.outUnits us)[k]? = some p ↔ us[k]? = some p.2.2 ∧ p.1 = op.ofs + 16 * k ∧ p.2.1 = op.va + 16 * k := by
  rw [CopyOp.outUnits, List.getElem?_zip_eq_some, List.getElem?_zip_eq_some, getElem?_map_range, getElem?_map_range]
  constructor
  · rintro ⟨⟨-, hofs⟩, ⟨-, hva⟩, hunit⟩
    exact ⟨hunit, hofs.symm, hva.symm⟩
  · rintro ⟨hunit, hofs, hva⟩
    have hlt := (List.getElem?_eq_some_iff.1 hunit).1
    exact ⟨⟨hlt, hofs.symm⟩, ⟨hlt, hva.symm⟩, hunit⟩

theorem target_of_mem_outUnits {op : CopyOp} {us : List Tgt} {p : Nat × Nat × Tgt} (h : p ∈ op.outUnits us) :
    p.2.2 ∈ us := by
  obtain ⟨k, hk⟩ := List.mem_iff_getElem?.1 h
  exact List.mem_of_getElem? (getElem?_outUnits.1 hk).1

/-- A unit that no later one meets has the scratchpad bytes at its offset. -/
theorem unitsOut_at {g : Nat} {gr : Group} {P : State → Prop} {V : State → Nat → Byte} {A : Tgt → Option Nat}
    {us : List Tgt} (hstep : ∀ s p, P s → p.2.2 ∈ us → P (s.unitOut g p)
      ∧ ∀ b, V (s.unitOut g p) b = unitByte gr p.1 (A p.2.2) b (V s b))
    {op : CopyOp} {s : State} (hP : P s) {k a j : Nat} {x : Tgt} (hx : us[k]? = some x) (ha : A x = some a) (hj : j < 16)
    (hlater : ∀ (k' : Nat) y, k < k' → us[k']? = some y → ∀ b, A y = some b → a + 16 ≤ b ∨ b + 16 ≤ a) :
    V (s.unitsOut g 136 (op.outUnits us)) (a + j) = gr.spadByte (op.ofs + 16 * k + j) := by
  have hk : (op.outUnits us)[k]? = some (op.ofs + 16 * k, op.va + 16 * k, x) := getElem?_outUnits.2 ⟨hx, rfl, rfl⟩
  obtain ⟨hlt, hget⟩ := List.getElem?_eq_some_iff.1 hk
  have hsplit : op.outUnits us = (op.outUnits us).take k ++ (op.ofs + 16 * k, op.va + 16 * k, x)
      :: (op.outUnits us).drop (k + 1) := by
    rw [← hget, ← List.drop_eq_getElem_cons hlt, List.take_append_drop]
  rw [unitsOut_eq_foldl, hsplit]
  refine unitsOut_last hstep (fun q hq => target_of_mem_outUnits (op := op) (hsplit.symm ▸ hq)) hP ha hj fun q hq => ?_
  obtain ⟨i, hi⟩ := List.mem_iff_getElem?.1 hq
  rw [List.getElem?_drop] at hi
  exact hlater (k + 1 + i) q.2.2 (by omega) (getElem?_outUnits.1 hi).1

theorem dramAt_eq_some {x : Tgt} {a : Nat} : x.dramAt = some a ↔ x = .dram a := by cases x <;> simp [Tgt.dramAt]
theorem sysAt_eq_some {x : Tgt} {a : Nat} : x.sysAt = some a ↔ x = .sys a := by cases x <;> simp [Tgt.sysAt]

section Complete
variable {s : State} {id : Nat} {op : CopyOp} {us : List Tgt} {gr : Group}
  (hop : s.copies.find? (fun o => o.id == id) = some op) (hus : op.units = some us)
  (hgr : s.grp (agPlace op.ag) = some gr)

section
include hop hus hgr

theorem copyComplete_in (hin : op.inn = true) : exec (.copyComplete id) s
    = .next ((s.unitsIn (agPlace op.ag) (((List.range us.length).map fun k => op.ofs + 16 * k).zip us)).copyEnds op id) := by
  show execCopyComplete id s = _
  simp only [execCopyComplete, hop, hus, hgr, hin, Bool.not_true, Bool.false_and, Bool.false_eq_true, if_false, if_true]
  rfl

theorem copyComplete_out (hout : op.inn = false)
    (hpool : s.poolStalls (agPlace op.ag) gr (us.map fun t => (t, 16)) = false) :
    exec (.copyComplete id) s = .next ((s.unitsOut (agPlace op.ag) 136 (op.outUnits us)).copyEnds op id) := by
  show execCopyComplete id s = _
  simp only [execCopyComplete, hop, hus, hgr, hout, hpool, Bool.and_false, Bool.false_eq_true, if_false]
  rfl

end

/-- The states on the way of an acopy.out of a group without a version. -/
def Signs (g : Nat) (gr : Group) (t : State) : Prop := ∃ sig, t.grp g = some { gr with sig := sig }

theorem signs_step {g : Nat} (hv : gr.cls = 0) (t : State) (p : Nat × Nat × Tgt) (h : Signs g gr t)
    (hp : (∃ a, p.2.2 = .dram a) ∨ ∃ a, p.2.2 = .sys a) : Signs g gr (t.unitOut g p)
      ∧ (∀ b, (t.unitOut g p).byteAt b = unitByte gr p.1 p.2.2.dramAt b (t.byteAt b))
      ∧ ∀ b, (t.unitOut g p).sysByteAt b = unitByte gr p.1 p.2.2.sysAt b (t.sysByteAt b) := by
  obtain ⟨sig, hsig⟩ := h
  exact unitOut_home hsig hv hp

/-- The states on the way of an acopy.out of a versioned group. -/
def Versions (g : Nat) (gr : Group) (s t : State) : Prop :=
  t.memories = s.memories ∧ ∃ sig version, t.grp g = some { gr with sig := sig, version := version }

theorem versions_step {g : Nat} (hv : gr.cls ≠ 0) (t : State) (p : Nat × Nat × Tgt) (h : Versions g gr s t)
    (hp : ∃ a, p.2.2 = .dram a) : Versions g gr s (t.unitOut g p)
      ∧ ∀ b, (t.unitOut g p).viewByte ((t.unitOut g p).grp g) b
          = unitByte gr p.1 p.2.2.dramAt b (t.viewByte (t.grp g) b) := by
  obtain ⟨hmem, sig, version, hgrp⟩ := h
  obtain ⟨hmem', sig', version', hgrp', hview⟩ := unitOut_version hgrp hv hp
  exact ⟨⟨hmem'.trans hmem, sig', version', hgrp'⟩, hview⟩

end Complete

/-- Settles O35: translation decides between three answers; the units of acopy.in are disjoint runs of scratchpad, and of
those of acopy.out that meet the last is seen. -/
theorem copiesMoveTheirBytes : Obligations.CopiesMoveTheirBytes := by
  refine ⟨fun s id op gr t ps hop hgr hps => ⟨fun hf hpend hhome => copyTranslated_queues hop hgr hps hf hpend hhome,
    fun va hf => copyTranslated_parks hop hgr hps hf, fun cause va hc hf => copyTranslated_traps hop hgr hps hc hf⟩, ?_⟩
  intro s id op us gr hop hus hgr g ends lastOn plain
  refine ⟨fun hin => ?_, fun hout hv hplain => ?_, fun hout hv hdram hpool => ?_⟩
  · obtain ⟨gr', hgr', hpend, hctb, hbars, hspad, -⟩ := grp_copyEnds (gr := gr) id
      (grp_unitsIn hgr (((List.range us.length).map fun k => op.ofs + 16 * k).zip us)) (besideBytes_putAll ..)
    refine ⟨_, copyComplete_in hop hus hgr hin,
      sameMemory_of_memories ((memories_copyEnds ..).trans (memories_unitsIn ..)),
      ⟨fun o => copies_copyEnds, gr', hgr', hpend, hctb, hbars⟩, fun k x hx j hj => ?_, fun o ho => ?_⟩
    · rw [State.spadAt_of_grp hgr', hspad, spad_unitRuns hx hj]
    · rw [State.spadAt_of_grp hgr', hspad, spad_unitRuns_elsewhere ho, State.spadAt_of_grp hgr]
  · have hpool : s.poolStalls g gr (us.map fun t => (t, 16)) = false := by
      simp [State.poolStalls, Group.versioned, hv]
    have hstart : Signs g gr s := ⟨gr.sig, hgr⟩
    have hdramStep := fun t p (h : Signs g gr t) hp => (signs_step hv t p h (hplain p.2.2 hp)).imp_right And.left
    have hsysStep := fun t p (h : Signs g gr t) hp => (signs_step hv t p h (hplain p.2.2 hp)).imp_right And.right
    have hall (p : Nat × Nat × Tgt) (hp : p ∈ op.outUnits us) : p.2.2 ∈ us := target_of_mem_outUnits hp
    obtain ⟨sig, hsig⟩ : Signs g gr (s.unitsOut g 136 (op.outUnits us)) :=
      unitsOut_eq_foldl s g _ ▸ unitsOut_keeps hdramStep hall hstart
    obtain ⟨gr', hgr', hpend, hctb, hbars, hspad, -⟩ := grp_copyEnds (gr := gr) (op := op) id hsig rfl
    have hmem := memories_copyEnds (s.unitsOut g 136 (op.outUnits us)) op id
    refine ⟨_, copyComplete_out hop hus hgr hout hpool, ⟨fun o => copies_copyEnds, gr', hgr', hpend, hctb, hbars⟩,
      fun k a hlast j hj => ?_, fun k a hlast j hj => ?_, fun b hb => ?_, fun b hb => ?_, fun o => ?_⟩
    · rw [State.byteAt_of_memories hmem]
      refine unitsOut_at hdramStep hstart hlast.1 rfl hj fun k' y hk hy b hb => ?_
      obtain rfl := dramAt_eq_some.1 hb
      exact hlast.2 k' _ hk hy
    · rw [State.sysByteAt_of_memories hmem]
      refine unitsOut_at hsysStep hstart hlast.1 rfl hj fun k' y hk hy b hb => ?_
      obtain rfl := sysAt_eq_some.1 hb
      exact hlast.2 k' _ hk hy
    · rw [State.byteAt_of_memories hmem, unitsOut_eq_foldl]
      exact unitsOut_untouched hdramStep hall hstart fun p hp a ha =>
        hb a (dramAt_eq_some.1 ha ▸ target_of_mem_outUnits hp)
    · rw [State.sysByteAt_of_memories hmem, unitsOut_eq_foldl]
      exact unitsOut_untouched hsysStep hall hstart fun p hp a ha =>
        hb a (sysAt_eq_some.1 ha ▸ target_of_mem_outUnits hp)
    · rw [State.spadAt_of_grp hgr', hspad, State.spadAt_of_grp hgr]
  · have hstart : Versions g gr s s := ⟨rfl, gr.sig, gr.version, hgr⟩
    have hstep := fun t p (h : Versions g gr s t) hp => versions_step hv t p h (hdram p.2.2 hp)
    have hall (p : Nat × Nat × Tgt) (hp : p ∈ op.outUnits us) : p.2.2 ∈ us := target_of_mem_outUnits hp
    obtain ⟨hmem, sig, version, hsig⟩ : Versions g gr s (s.unitsOut g 136 (op.outUnits us)) :=
      unitsOut_eq_foldl s g _ ▸ unitsOut_keeps (V := fun t b => t.viewByte (t.grp g) b) hstep hall hstart
    obtain ⟨gr', hgr', hpend, hctb, hbars, -, hversion⟩ := grp_copyEnds (gr := gr) (op := op) id hsig rfl
    have hview (b : Nat) : ((s.unitsOut g 136 (op.outUnits us)).copyEnds op id).viewByte (some gr') b
        = (s.unitsOut g 136 (op.outUnits us)).viewByte ((s.unitsOut g 136 (op.outUnits us)).grp g) b := by
      rw [hsig]
      show SMap.getD gr'.version b (State.byteAt _ b) = SMap.getD version b (State.byteAt _ b)
      rw [hversion, State.byteAt_of_memories (memories_copyEnds ..)]
    refine ⟨_, gr', copyComplete_out hop hus hgr hout hpool, sameMemory_of_memories ((memories_copyEnds ..).trans hmem),
      ⟨fun o => copies_copyEnds, gr', hgr', hpend, hctb, hbars⟩, hgr', fun k a hlast j hj => ?_, fun b hb => ?_⟩
    · rw [hview]
      refine unitsOut_at (V := fun t b => t.viewByte (t.grp g) b) hstep hstart hlast.1 rfl hj
        fun k' y hk hy b hb => ?_
      obtain rfl := dramAt_eq_some.1 hb
      exact hlast.2 k' _ hk hy
    · rw [hview, unitsOut_eq_foldl, ← hgr]
      exact unitsOut_untouched (V := fun t b => t.viewByte (t.grp g) b) hstep hall hstart fun p hp a ha =>
        hb a (dramAt_eq_some.1 ha ▸ target_of_mem_outUnits hp)

end Sys2Proof.Machine
end

section
/-!
O36. hfetch, fibld, rowscan, fibinv and mdld at issue (06 R153 to R163).
-/

namespace Sys2Proof.Machine

-- The fetch unit -----------------------------------------------------------------------------------

theorem fetchRange_iff {hd : Layout} {n r i : Nat} :
    fetchRange hd n r i = true ↔ hd.rows ≤ r ∨ i % n ≠ 0 ∨ hd.rowElems ≤ i := by
  simp [fetchRange, or_assoc]

theorem fetchRange_eq_false {hd : Layout} {n r i : Nat} (hr : r < hd.rows) (hi : i % n = 0) (he : i < hd.rowElems) :
    fetchRange hd n r i = false :=
  Bool.eq_false_iff.2 fun h => by rcases fetchRange_iff.1 h with h | h | h <;> omega

-- The Fennel cache and the metadata cache ------------------------------------------------------------

/-- A line of a context that holds bytes of some runs. -/
def CLine.meets (ctx line : Nat) (runs : List (Tgt × Nat)) (x : CLine) : Bool :=
  x.ctx == ctx && runs.any fun t => match t.1 with
    | .dram p => x.addr < p + t.2 && p < x.addr + line
    | _ => false

theorem linesWithout_eq (ctx line : Nat) (runs : List (Tgt × Nat)) (l : List CLine) :
    linesWithout ctx line runs l = l.filter fun x => !x.meets ctx line runs := by
  unfold linesWithout
  refine congrArg (List.filter · l) (funext fun x => ?_)
  rw [CLine.meets, Bool.not_and, List.not_any_eq_all_not]
  refine congrArg (x.ctx != ctx || ·) (congrArg (List.all runs) (funext fun t => ?_))
  cases t.1 <;> rfl

-- What the caches leave as it is ---------------------------------------------------------------------

theorem besideMemory_cachedPieces (s : State) (core ctx : Nat) (k : RCache) (ps : List (Tgt × Nat)) :
    (s.cachedPieces core ctx k ps).1.besideMemory = s.besideMemory := by
  induction ps generalizing s with
  | nil => rfl
  | cons p ps ih =>
    obtain ⟨x, n⟩ := p
    refine (ih _).trans ?_
    cases x <;> cases k <;> rfl

theorem besideMemory_cachedVa (s : State) (g ctx : Nat) (k : RCache) (va n : Nat) :
    (s.cachedVa g ctx k va n).1.besideMemory = s.besideMemory := by
  unfold State.cachedVa
  dsimp only
  split
  · exact besideMemory_xpieces ..
  · exact (besideMemory_cachedPieces ..).trans (besideMemory_xpieces ..)

theorem besideMemory_rowPtrs (s : State) (g ctx : Nat) (h : Layout) (r : Nat) :
    (s.rowPtrs g ctx h r).1.besideMemory = s.besideMemory := by
  have hptr (t : State) (k : Nat) : (t.rowPtr g ctx h k).1.besideMemory = t.besideMemory := besideMemory_cachedVa ..
  unfold State.rowPtrs
  dsimp only
  split
  · exact hptr s r
  · exact (hptr _ (r + 1)).trans (hptr s r)

theorem besideMemory_cachedElem (s : State) (g ctx : Nat) (k : RCache) (h : Layout) (i : Int) :
    (s.cachedElem g ctx k h i).1.besideMemory = s.besideMemory := by
  have helem : (s.elemPieces (coreUnit g) ctx .rd h i).1.besideMemory = s.besideMemory := besideMemory_xpieces ..
  unfold State.cachedElem
  dsimp only
  split
  · exact helem
  · exact (besideMemory_cachedPieces ..).trans helem

theorem besideMemory_cachedElems (s : State) (g ctx : Nat) (k : RCache) (h : Layout) (ok : Nat → Bool) (is : List Int) :
    (s.cachedElems g ctx k h ok is).1.besideMemory = s.besideMemory := by
  induction is generalizing s with
  | nil => rfl
  | cons i is ih =>
    have hone := besideMemory_cachedElem s g ctx k h i
    unfold State.cachedElems
    dsimp only
    split
    · exact hone
    · split
      · exact (ih _).trans hone
      · exact hone

theorem besideMemory_scanRow (s : State) (g ctx : Nat) (gr : Group) (hs row : Nat) (ht : Option Nat) :
    (s.scanRow g ctx gr hs row ht).1.besideMemory = s.besideMemory := by
  unfold State.scanRow
  split
  · rfl
  next h _ =>
    have hptrs := besideMemory_rowPtrs s g ctx h row
    dsimp only
    split
    · rfl
    split
    · exact hptrs
    split
    · exact hptrs
    split
    · exact hptrs
    split
    · exact hptrs
    · exact (besideMemory_cachedElems ..).trans hptrs

theorem sameRegisters_modGrp (s : State) (g : Nat) {f : Group → Group} (hw : ∀ gr, (f gr).waves = gr.waves)
    (hq : ∀ gr, (f gr).seq = gr.seq) : SameRegisters s (s.modGrp g f) :=
  ⟨fun g' w => by rw [State.waveAt_modGrp s g g' w f hw], fun g' => by rw [State.seqAt_modGrp s g g' f hq]⟩

/-- A group whose schedule takes rows and whose scans are then those given. -/
def Group.scanned (gr : Group) (rows : List (Nat × Nat)) (scan : List (Nat × Nat × Nat × Option Nat)) : Group :=
  { gr.schedule rows with scan := scan }

/-- The oldest scan goes on by a row or ends, and no register differs. -/
theorem rowscanReadAhead_advances {s : State} {g : Nat} {gr : Group} {x : Nat × Nat × Nat × Option Nat}
    {rest : List (Nat × Nat × Nat × Option Nat)} (hg : s.grp g = some gr) (hscan : gr.scan = x :: rest) :
    ∃ t gr', exec (.rowscanReadAhead g) s = .next t ∧ SameRegisters s t ∧ t.grp g = some gr'
      ∧ (gr'.scan = rest ∨ gr'.scan = (x.1, x.2.1 + 1, x.2.2.1 - 1, x.2.2.2) :: rest) := by
  obtain ⟨hs, row, n, ht⟩ := x
  have hbeside := besideMemory_scanRow s g gr.ctx gr hs row ht
  have hx : exec (.rowscanReadAhead g) s = execRowscanReadAhead g s := rfl
  simp only [execRowscanReadAhead, hg, hscan] at hx
  generalize s.scanRow g gr.ctx gr hs row ht = r at hx hbeside
  refine ⟨_, gr.scanned r.2.1 (if !r.2.2 || n ≤ 1 then rest else (hs, row + 1, n - 1, ht) :: rest), hx,
    (sameRegisters_of_groups (groups_of_besideMemory hbeside)).trans
      (sameRegisters_modGrp _ _ (fun _ => rfl) fun _ => rfl), ?_, ?_⟩
  · rw [State.grp_modGrp, if_pos rfl, grp_of_besideMemory hbeside, hg]
    rfl
  · rw [Group.scanned]
    split
    · exact .inl rfl
    · exact .inr rfl

end Sys2Proof.Machine
end

section
/-!
O36. HFETCH_COMPLETE and FIBLD_COMPLETE: the lanes of a fetched block or fibre are written (06 R157, R159).
-/

namespace Sys2Proof.Machine

-- One lane -------------------------------------------------------------------------------------------

/-- A word of one lane of V register n. -/
def Wave.setLane (n lane : Nat) (y : Word) (wv : Wave) : Wave :=
  { wv with v := SMap.modD n zeroLanes (fun old => mkLanes fun l => if l = lane then y else laneOf old l) wv.v }

theorem putLane_word (s : State) (g w sp n : Nat) (mask : BitVec 32) (lane : Nat) (x : BitVec 128) :
    s.putLane (.split g w sp) (.v n) mask lane 4 x = s.modWave g w (Wave.setLane n lane (x.extractLsb' 0 32)) := rfl

theorem isSome_waveAt_setLane {s : State} {g w : Nat} (hw : (s.waveAt g w).isSome = true) (n lane : Nat) (y : Word) :
    ((s.modWave g w (Wave.setLane n lane y)).waveAt g w).isSome = true := by
  rw [State.waveAt_modWave, if_pos ⟨rfl, rfl⟩, Option.isSome_map, hw]

theorem vHeld_of_waveAt {s : State} {g w : Nat} {wv : Wave} (h : s.waveAt g w = some wv) (r l : Nat) :
    s.vHeld g w r l = laneOf (SMap.getD wv.v r zeroLanes) l := by
  rw [State.vHeld, h]

theorem vHeld_setLane {s : State} {g w : Nat} (hw : (s.waveAt g w).isSome = true) (n lane : Nat) (y : Word) (r : Nat)
    {l : Nat} (hl : l < 32) : (s.modWave g w (Wave.setLane n lane y)).vHeld g w r l
      = if r = n ∧ l = lane then y else s.vHeld g w r l := by
  obtain ⟨wv, hwv⟩ := Option.isSome_iff_exists.1 hw
  have hset : (s.modWave g w (Wave.setLane n lane y)).waveAt g w = some (wv.setLane n lane y) := by
    rw [State.waveAt_modWave, if_pos ⟨rfl, rfl⟩, hwv]
    rfl
  rw [vHeld_of_waveAt hset, vHeld_of_waveAt hwv, Wave.setLane, SMap.getD_modD]
  by_cases hr : r = n
  · rw [if_pos hr, laneOf_mkLanes _ _ hl]
    exact if_congr (by simp [hr]) rfl (by rw [hr])
  · rw [if_neg hr, if_neg fun h => hr h.1]

theorem vHeld_of_sameRegisters {s t : State} (h : SameRegisters s t) (g w r l : Nat) :
    t.vHeld g w r l = s.vHeld g w r l := by
  have hv : (t.waveAt g w).map Wave.v = (s.waveAt g w).map Wave.v := by
    have hregs := congrArg (Option.map Prod.fst) (h.1 g w)
    rwa [Option.map_map, Option.map_map] at hregs
  have hheld (u : State) : u.vHeld g w r l = match (u.waveAt g w).map Wave.v with
      | some v => laneOf (SMap.getD v r zeroLanes) l
      | none => 0 := by
    rw [State.vHeld]
    cases u.waveAt g w <;> rfl
  rw [hheld t, hheld s, hv]

-- The lanes of an access -----------------------------------------------------------------------------

section Lanes
variable {op : MemOp} {g w sp n unit : Nat} (hk : op.kind = .ready unit) (hag : op.ag = .split g w sp)
  (hdst : op.dst = some (.v n)) (hsize : op.size = 4)
include hk hag hdst hsize

theorem loadLane_word (s : State) (x : LaneAcc) :
    s.loadLane op x = s.modWave g w (Wave.setLane n x.lane (x.data.extractLsb' 0 32)) := by
  rw [← putLane_word s g w sp n op.mask]
  unfold State.loadLane
  simp only [hk, hag, hdst, hsize]

theorem vHeld_lanes_other {s : State} (hw : (s.waveAt g w).isSome = true) (xs : List LaneAcc) {r l : Nat} (hl : l < 32)
    (hother : r ≠ n ∨ ∀ x ∈ xs, x.lane ≠ l) :
    (xs.foldl (fun s x => s.loadLane op x) s).vHeld g w r l = s.vHeld g w r l := by
  induction xs generalizing s with
  | nil => rfl
  | cons x xs ih =>
    rw [List.foldl_cons, loadLane_word hk hag hdst hsize,
      ih (isSome_waveAt_setLane hw ..) (hother.imp_right fun h y hy => h y (by simp [hy])), vHeld_setLane hw _ _ _ _ hl]
    refine if_neg fun h => ?_
    rcases hother with hr | hne
    · exact hr h.1
    · exact hne x (by simp) h.2.symm

theorem vHeld_lanes {s : State} (hw : (s.waveAt g w).isSome = true) {xs : List LaneAcc}
    (hrising : xs.Pairwise fun x y => x.lane < y.lane) (hlane : ∀ x ∈ xs, x.lane < 32) {x : LaneAcc} (hx : x ∈ xs) :
    (xs.foldl (fun s x => s.loadLane op x) s).vHeld g w n x.lane = x.data.extractLsb' 0 32 := by
  induction xs generalizing s with
  | nil => simp at hx
  | cons y xs ih =>
    have hw' := isSome_waveAt_setLane hw n y.lane (y.data.extractLsb' 0 32)
    obtain ⟨habove, hrest⟩ := List.pairwise_cons.1 hrising
    rw [List.foldl_cons, loadLane_word hk hag hdst hsize]
    rcases List.mem_cons.1 hx with rfl | hx
    · have hl := hlane x (by simp)
      rw [vHeld_lanes_other hk hag hdst hsize hw' xs hl (.inr fun y hy => (habove y hy).ne'),
        vHeld_setLane hw _ _ _ _ hl, if_pos ⟨rfl, rfl⟩]
    · exact ih hw' hrest (fun z hz => hlane z (by simp [hz])) hx

end Lanes

-- Completion -----------------------------------------------------------------------------------------

theorem sameRegisters_opLeft (s : State) {op : MemOp} (hacq : op.acq = none) (hwide : op.wide = false)
    (left : List LaneAcc) (got : List (Nat × BitVec 128)) : SameRegisters s (s.opLeft op left got) := by
  unfold State.opLeft
  split
  · simp only [hacq, hwide, Bool.false_eq_true, if_false]
    exact (sameRegisters_of_groups rfl).trans (sameRegisters_lower ..)
  · exact sameRegisters_of_groups rfl

section Complete
variable {s : State} {ok : OpKind → Bool} {id : Nat} {mask : BitVec 32} {op : MemOp}
  (hop : s.memops.find? (fun o => o.id == id) = some op) (hk : ok op.kind = true)
  (hsome : ∃ x ∈ op.lanes, bit mask x.lane = true)
  (hclash : ∀ y ∈ op.lanes, bit mask y.lane = true → earlierClash s.memops op y = false)
  (hacq : op.acq = none) (hwide : op.wide = false)
include hop hk hsome hclash hacq hwide

/-- The lanes of a mask are performed in turn, and what follows leaves memory and registers. -/
theorem completeLanes_performs : ∃ t, s.completeLanes ok id mask = .next t
    ∧ t.memories = s.memories
    ∧ SameRegisters (((op.lanes.filter fun x => bit mask x.lane).filter fun x => !op.firstHalf x).foldl
        (fun s x => s.loadLane op x) s) t := by
  obtain ⟨x, hx, hbit⟩ := hsome
  have hnow : (op.lanes.filter fun x => bit mask x.lane).isEmpty = false :=
    List.isEmpty_eq_false_iff.2 (List.ne_nil_of_mem (List.mem_filter.2 ⟨hx, hbit⟩))
  have hfree : ((op.lanes.filter fun x => bit mask x.lane).any fun x => earlierClash s.memops op x) = false :=
    List.any_eq_false.2 fun y hy => by
      obtain ⟨hy, hb⟩ := List.mem_filter.1 hy
      simp [hclash y hy hb]
  have hgo : ¬ (!ok op.kind || (op.lanes.filter fun x => bit mask x.lane).isEmpty
      || (op.lanes.filter fun x => bit mask x.lane).any fun x => earlierClash s.memops op x) = true := by
    simp only [hk, hnow, hfree]
    decide
  unfold State.completeLanes
  rw [hop]
  refine ⟨_, if_neg hgo, (memories_opLeft ..).trans (memories_foldl (fun s x => memories_loadLane ..) _ _), ?_⟩
  refine sameRegisters_opLeft _ ?_ ?_ _ _
  · exact hacq
  · exact hwide

/-- Without a destination nothing is written. -/
theorem completeLanes_unwritten {unit : Nat} (hready : op.kind = .ready unit) (hdst : op.dst = none) :
    ∃ t, s.completeLanes ok id mask = .next t ∧ SameMemory s t ∧ SameRegisters s t := by
  obtain ⟨t, hx, hmem, hregs⟩ := completeLanes_performs hop hk hsome hclash hacq hwide
  have hload (u : State) (x : LaneAcc) : u.loadLane op x = u := by
    unfold State.loadLane
    simp only [hready, hdst]
  rw [List.foldl_fixed' fun x => hload s x] at hregs
  exact ⟨t, hx, sameMemory_of_memories hmem, hregs⟩

/-- Each lane of the mask has its word, and no other word of a V register of the wave differs. -/
theorem completeLanes_written {unit g w sp n : Nat} (hready : op.kind = .ready unit) (hag : op.ag = .split g w sp)
    (hdst : op.dst = some (.v n)) (hsize : op.size = 4) (hw : (s.waveAt g w).isSome = true)
    (hrising : op.lanes.Pairwise fun x y => x.lane < y.lane) (hlane : ∀ x ∈ op.lanes, x.lane < 32) :
    ∃ t, s.completeLanes ok id mask = .next t ∧ SameMemory s t
      ∧ (∀ x ∈ op.lanes, bit mask x.lane = true → t.vHeld g w n x.lane = x.data.extractLsb' 0 32)
      ∧ ∀ r l, l < 32 → (r ≠ n ∨ bit mask l = false ∨ ∀ x ∈ op.lanes, x.lane ≠ l) →
          t.vHeld g w r l = s.vHeld g w r l := by
  obtain ⟨t, hx, hmem, hregs⟩ := completeLanes_performs hop hk hsome hclash hacq hwide
  have hwhole (xs : List LaneAcc) : (xs.filter fun x => !op.firstHalf x) = xs :=
    List.filter_eq_self.2 fun x _ => by simp [MemOp.firstHalf, hsize]
  rw [hwhole] at hregs
  refine ⟨t, hx, sameMemory_of_memories hmem, fun x hx hb => ?_, fun r l hl hother => ?_⟩
  · rw [vHeld_of_sameRegisters hregs]
    exact vHeld_lanes hready hag hdst hsize hw (hrising.filter _) (fun y hy => hlane y (List.mem_filter.1 hy).1)
      (List.mem_filter.2 ⟨hx, hb⟩)
  · rw [vHeld_of_sameRegisters hregs]
    refine vHeld_lanes_other hready hag hdst hsize hw _ hl (hother.imp_right fun h x hx heq => ?_)
    obtain ⟨hin, hb⟩ := List.mem_filter.1 hx
    rcases h with h | h
    · rw [heq, h] at hb
      exact absurd hb (by decide)
    · exact h x hin heq

end Complete

end Sys2Proof.Machine
end

section
/-!
O36. The obligation (06 R153 to R163).
-/

namespace Sys2Proof.Machine

/-- Settles O36: each branch of hfetch, fibld, rowscan, fibinv and mdld is one clause; a completion writes its lanes in turn,
and a row scanned leaves every register. -/
theorem fetchUnitsServeTheirLanes : Obligations.FetchUnitsServeTheirLanes := by
  unfold Obligations.FetchUnitsServeTheirLanes
  intro h d a b slot ht form ind fc
  have hfetch (s : State) : exec (.hfetch h d a slot form) s = execHfetch h d a slot form s := rfl
  have hwarm (s : State) : exec (.hfetchPf h a slot form) s = execHfetchPf h a slot form s := rfl
  have hfib (s : State) : exec (.fibld h d a slot form) s = execFibld h d a slot form s := rfl
  have hscan (s : State) : exec (.rowscan h ht ind a b slot) s = execRowscan h ht ind a b slot s := rfl
  have hinv (s : State) : exec (.fibinv h slot fc) s = execFibinv h slot fc s := rfl
  have hmd (s : State) : exec (.mdld h d a slot) s = execMdld h d a slot s := rfl
  unfold execHfetch at hfetch
  unfold execHfetchPf at hwarm
  unfold execFibld at hfib
  unfold execRowscan at hscan
  unfold execFibinv control at hinv
  unfold execMdld control at hmd
  refine ⟨fun hd t codes => completes_of_issue hfetch ?_, fun hd => completes_of_issue hfetch ?_, traps_of_issue hfetch ?_,
    fun hd => traps_of_issue hfetch ?_, fun hd t e => traps_of_issue hfetch ?_, fun hd => completes_of_issue hwarm ?_,
    fun hd t u lo hi codes => completes_of_issue hfib ?_, fun hd t lo hi => traps_of_issue hfib ?_,
    fun hd => traps_of_issue hfib ?_, fun hd => completes_of_issue hfib ?_, traps_of_issue hfib ?_,
    fun hd => traps_of_issue hfib ?_, fun hd => traps_of_issue hfetch ?_, fun hd => traps_of_issue hfib ?_,
    fun hs => completes_of_issue hscan ?_, fun hd => completes_of_issue hinv ?_,
    fun hd t bs => completes_of_issue hmd ?_, ?_, ?_, ?_⟩
  · rintro c s ⟨(hserved : c.opStop _ _ = none), hok, hact, hacq, hr, hi, he, hcodes⟩
    simp only [hserved, hok, List.isEmpty_eq_false_iff.2 hact, hacq, fetchRange_eq_false hr hi he, hcodes,
      Bool.false_eq_true, if_false]
    rfl
  · rintro c s ⟨(hserved : c.opStop _ _ = none), hok, hidle⟩
    simp only [hserved, hok, hidle, List.isEmpty_nil, if_true]
  · rintro c s ⟨(hserved : c.opStop _ _ = none), hbad⟩
    simp only [hserved, hbad]
  · rintro c s ⟨(hserved : c.opStop _ _ = none), hok, hact, hacq, hout⟩
    simp only [hserved, hok, List.isEmpty_eq_false_iff.2 hact, hacq, fetchRange_iff.2 hout, Bool.false_eq_true, if_false,
      if_true]
  · rintro c s ⟨(hserved : c.opStop _ _ = none), hok, hact, hacq, hr, hi, he, hcodes⟩
    simp only [hserved, hok, List.isEmpty_eq_false_iff.2 hact, hacq, fetchRange_eq_false hr hi he, hcodes,
      Bool.false_eq_true, if_false]
  · intro c s hok
    simp only [hok, Bool.or_eq_true, List.isEmpty_iff, fetchRange_iff, ← apply_ite]
  · rintro c s ⟨(hserved : c.opStop _ _ = none), hok, hval, hact, hacq, hrow, hptrs, hneg, helems⟩
    simp only [hserved, hok, if_neg hval, List.isEmpty_eq_false_iff.2 hact, hacq, hrow, hptrs, Bool.and_eq_true,
      decide_eq_true_eq, if_neg hneg, helems, Bool.false_eq_true, if_false]
    rfl
  · rintro c s ⟨(hserved : c.opStop _ _ = none), hok, hval, hact, hacq, hrow, hptrs, hneg, hstrict⟩
    simp only [hserved, hok, if_neg hval, List.isEmpty_eq_false_iff.2 hact, hacq, hrow, hptrs, decide_eq_true hneg, hstrict,
      Bool.and_self, Bool.false_eq_true, if_false, if_true]
  · rintro c s ⟨(hserved : c.opStop _ _ = none), hok, hval, hact, hacq, hrow⟩
    simp only [hserved, hok, if_neg hval, List.isEmpty_eq_false_iff.2 hact, hacq, hrow, Bool.false_eq_true, if_false,
      if_true]
  · rintro c s ⟨(hserved : c.opStop _ _ = none), hok, hval, hidle⟩
    simp only [hserved, hok, if_neg hval, hidle, List.isEmpty_nil, if_true]
  · rintro c s ⟨(hserved : c.opStop _ _ = none), hbad⟩
    simp only [hserved, hbad]
  · rintro c s ⟨(hserved : c.opStop _ _ = none), hok, hval⟩
    simp only [hserved, hok, if_pos hval]
  · rintro c s ⟨(hserved : c.opStop _ _ = none), hok, hact, hacq⟩
    simp only [hserved, hok, List.isEmpty_eq_false_iff.2 hact, hacq, Bool.false_eq_true, if_false, if_true]
  · rintro c s ⟨(hserved : c.opStop _ _ = none), hok, hval, hact, hacq⟩
    simp only [hserved, hok, if_neg hval, List.isEmpty_eq_false_iff.2 hact, hacq, Bool.false_eq_true, if_false, if_true]
  · rintro c s ⟨hpos, hle, hslot, hside, hind⟩
    have hhandles : (!((hs.sideKind == 3 && (!ind || hs.etype == 5 || hs.etype == 6)) && (!ind
        || match c.gr.handle ht.toNat with | some x => x.sideKind == 3 | none => false))) = false := by
      cases ind with
      | false => simp [hside]
      | true =>
        obtain ⟨htype, x, hx, hxside⟩ := hind rfl
        rcases htype with htype | htype <;> simp [hside, hx, hxside, htype]
    dsimp only
    rw [if_neg (Nat.not_lt.2 hle), hslot]
    exact (if_neg (Bool.eq_false_iff.1 hhandles)).trans (if_neg hpos.ne')
  · intro c s hslot
    simp only [hslot, linesWithout_eq]
    rfl
  · rintro c s ⟨hslot, hside, hacq, hin, hread⟩
    have hkind : (hd.sideKind != 1 && hd.sideKind != 2) = false := by rcases hside with h | h <;> simp [h]
    simp only [hslot, hkind, hacq, if_neg (Nat.not_lt.2 hin), hread, Bool.false_eq_true, if_false]
  · intro s id mask op x unit hop hk hdst hacq hwide hx hb hclash
    refine ⟨fun hunit => ?_, fun hunit => ?_⟩
    · exact completeLanes_unwritten (ok := fun k => match k with | .ready f => f == 1 | _ => false) hop
        (by simp [hk, hunit]) ⟨x, hx, hb⟩ hclash hacq hwide hk hdst
    · exact completeLanes_unwritten (ok := fun k => match k with | .ready f => f == 2 | _ => false) hop
        (by simp [hk, hunit]) ⟨x, hx, hb⟩ hclash hacq hwide hk hdst
  · intro s id mask op g w sp n hop hag hdst hsize hacq hwide hw hrising hlane hsome hclash i hi
    rcases hi with ⟨rfl, hk⟩ | ⟨rfl, hk⟩
    · exact completeLanes_written (ok := fun k => match k with | .ready f => f == 1 | _ => false) hop
        (by simp [hk]) hsome hclash hacq hwide hk hag hdst hsize hw hrising hlane
    · exact completeLanes_written (ok := fun k => match k with | .ready f => f == 2 | _ => false) hop
        (by simp [hk]) hsome hclash hacq hwide hk hag hdst hsize hw hrising hlane
  · intro s g gr x rest hg hgscan
    exact rowscanReadAhead_advances hg hgscan

end Sys2Proof.Machine
end

section
/-!
O37. dma.copy, dma.fill and dma.stat at issue (06 R148, R149, R151, R152).
-/

namespace Sys2Proof.Machine

-- The control word -----------------------------------------------------------------------------------

theorem extractLsb'_bne_zero (x : DWord) (i n : Nat) :
    (x.extractLsb' i n != 0) = decide (x.toNat / 2 ^ i % 2 ^ n ≠ 0) := by
  rw [Bool.eq_iff_iff, bne_iff_ne, decide_eq_true_eq, ne_eq, ne_eq, ← BitVec.toNat_inj, toNat_extractLsb'_eq]
  rfl

theorem dmaCtl_len (x : DWord) : (x.extractLsb' 0 40).toNat = (dmaCtl x).len := by
  rw [toNat_extractLsb'_eq, Nat.pow_zero, Nat.div_one]
  rfl

theorem dmaCtl_ch (x : DWord) : (x.extractLsb' 49 5).toNat = (dmaCtl x).ch := toNat_extractLsb'_eq x 49 5
theorem dmaCtl_bo (x : DWord) : (x.extractLsb' 56 4).toNat = (dmaCtl x).bo := toNat_extractLsb'_eq x 56 4
theorem dmaCtl_anyCh (x : DWord) : bit x 54 = (dmaCtl x).anyCh := rfl
theorem dmaCtl_bv (x : DWord) : bit x 55 = (dmaCtl x).bv := rfl

theorem rangesMeet_iff {a b n : Nat} : rangesMeet a b n = true ↔ ¬ (a + n ≤ b ∨ b + n ≤ a) := by
  simp only [rangesMeet, Bool.and_eq_true, decide_eq_true_eq]
  omega

/-- The first checks of R149, as the model makes them. -/
theorem dmaBroken_iff {fill : Bool} {c : ICtx} {s : State} {a b e : Src} :
    (((c.scalar e).extractLsb' 60 4) != 0 || ((c.scalar e).extractLsb' 40 9) != 0
      || ((dmaCtl (c.scalar e)).anyCh && (dmaCtl (c.scalar e)).ch != 0)
      || (!(dmaCtl (c.scalar e)).bv && (dmaCtl (c.scalar e)).bo != 0) || (dmaCtl (c.scalar e)).len = 0
      || (!(dmaCtl (c.scalar e)).anyCh && !s.pkg.chanLive (dmaCtl (c.scalar e)).ch)
      || (!fill && rangesMeet (c.scalar a).toNat (c.scalar b).toNat (dmaCtl (c.scalar e)).len)
      || (fill && ((c.scalar a).toNat % 8 != 0 || (dmaCtl (c.scalar e)).len % 8 != 0))) = true
      ↔ ¬ DmaOk fill c s a b e := by
  have hhigh : (c.scalar e).toNat / 2 ^ 60 % 2 ^ 4 = (c.scalar e).toNat / 2 ^ 60 := Nat.mod_eq_of_lt (by
    have hlt := (c.scalar e).isLt
    omega)
  unfold DmaOk
  dsimp only
  rw [extractLsb'_bne_zero, extractLsb'_bne_zero, hhigh]
  generalize (c.scalar e).toNat / 2 ^ 60 = high
  generalize (c.scalar e).toNat / 2 ^ 40 % 2 ^ 9 = low
  simp only [Bool.or_eq_true, Bool.and_eq_true, rangesMeet_iff, bne_iff_ne, decide_eq_true_eq, Bool.not_eq_true',
    ← Bool.not_eq_true]
  split <;> tauto

-- The channel ----------------------------------------------------------------------------------------

/-- The better of two channels, as ANYCH chooses (R149). -/
def State.chooseChan (s : State) (best : Option Nat) (ch : Nat) : Option Nat :=
  if s.pkg.chanLive ch then
    match best with
    | some b => if (s.chan ch).q.length < (s.chan b).q.length then some ch else best
    | none => some ch
  else best

theorem anyChan_eq (s : State) : s.anyChan = (List.range 32).foldl s.chooseChan none := rfl

section AnyChan
variable {s : State} {n : Nat} (hlive : s.pkg.chanLive n = true)
  (hleast : ∀ k, s.pkg.chanLive k = true → (s.chan n).q.length ≤ (s.chan k).q.length)
  (hlowest : ∀ k < n, s.pkg.chanLive k = true → (s.chan n).q.length < (s.chan k).q.length)
include hlive hleast hlowest

/-- Among the channels below m the best is n, where n is one of them, and else a live one below n. -/
theorem foldl_chooseChan (m : Nat) : (n < m → (List.range m).foldl s.chooseChan none = some n)
    ∧ (m ≤ n → ∀ b, (List.range m).foldl s.chooseChan none = some b → b < n ∧ s.pkg.chanLive b = true) := by
  induction m with
  | zero => exact ⟨fun h => absurd h (Nat.not_lt_zero n), fun _ b hb => by simp at hb⟩
  | succ m ih =>
    obtain ⟨hfound, hbelow⟩ := ih
    rw [List.range_succ, List.foldl_append, List.foldl_cons, List.foldl_nil]
    generalize (List.range m).foldl s.chooseChan none = best at hfound hbelow ⊢
    rcases Nat.lt_trichotomy n m with hlt | rfl | hgt
    · refine ⟨fun _ => ?_, fun hle => absurd hlt (by omega)⟩
      rw [hfound hlt]
      unfold State.chooseChan
      split
      next hm => exact if_neg (Nat.not_lt.2 (hleast m hm))
      · rfl
    · refine ⟨fun _ => ?_, fun hle => absurd hle (by omega)⟩
      unfold State.chooseChan
      rw [if_pos hlive]
      cases best with
      | none => rfl
      | some b =>
        obtain ⟨hb, hblive⟩ := hbelow (Nat.le_refl n) b rfl
        exact if_pos (hlowest b hb hblive)
    · refine ⟨fun h => absurd h (by omega), fun _ b hb => ?_⟩
      unfold State.chooseChan at hb
      split at hb
      next hm =>
        cases best with
        | none => exact Option.some.inj hb ▸ ⟨hgt, hm⟩
        | some b' =>
          dsimp only at hb
          split at hb
          · exact Option.some.inj hb ▸ ⟨hgt, hm⟩
          · exact hbelow (by omega) b hb
      · exact hbelow (by omega) b hb

theorem anyChan_eq_some : s.anyChan = some n := by
  have hn : n < 32 := by
    simp only [Pkg.chanLive, Bool.and_eq_true, decide_eq_true_eq] at hlive
    exact hlive.1
  rw [anyChan_eq]
  exact (foldl_chooseChan hlive hleast hlowest 32).1 hn

end AnyChan

theorem dmaPoint_of {i : Instr} {fill : Bool} {h : Hdr} {d : Dst} {a b e : Src}
    (hx : ∀ s, exec i s = dmaIssue fill h d a b e s) : DmaPoint i fill h d a b e := by
  unfold dmaIssue at hx
  simp only [dmaCtl_len, dmaCtl_ch, dmaCtl_bo, dmaCtl_anyCh, dmaCtl_bv] at hx
  have hfine {c : ICtx} {s : State} (hok : DmaOk fill c s a b e) := mt dmaBroken_iff.1 (not_not.2 hok)
  have hbarrier {c : ICtx} (hbar : (dmaCtl (c.scalar e)).bv = true → c.gr.barReady (dmaCtl (c.scalar e)).bo = true) :
      ¬ ((dmaCtl (c.scalar e)).bv && !c.gr.barReady (dmaCtl (c.scalar e)).bo) = true := by
    simpa using hbar
  refine ⟨fun n => completes_of_issue hx ?_, fun n => ⟨demotesFirst_of_using hx ?_, traps_of_issue hx ?_⟩,
    traps_of_issue hx ?_, traps_of_issue hx ?_⟩
  · rintro c s ⟨hok, hbar, hchan, hroom, hacq, hver⟩
    have hn : (if (dmaCtl (c.scalar e)).anyCh then s.anyChan else some (dmaCtl (c.scalar e)).ch) = some n := by
      split at hchan
      next hany => rw [if_pos hany, anyChan_eq_some hchan.1 hchan.2.1 hchan.2.2]
      next hany => rw [if_neg hany, hchan]
    refine ite_ite_of_neg (hfine hok) (hbarrier hbar) ?_
    rw [hn]
    exact ite_ite_of_neg (by simpa [hacq] using hroom) (by simp [hver]) rfl
  · rintro c s ⟨⟨hok, hbar, hany, rfl⟩, hroom, hacq, hver⟩
    refine ite_ite_of_neg (hfine hok) (hbarrier hbar) ?_
    rw [hany]
    exact (if_neg (by simpa [hacq] using hroom)).trans (if_pos hver)
  · rintro c s ⟨⟨hok, hbar, hany, rfl⟩, hwait⟩
    refine ite_ite_of_neg (hfine hok) (hbarrier hbar) ?_
    rw [hany]
    exact if_pos (by simpa using hwait)
  · intro c s hbad
    exact if_pos (dmaBroken_iff.2 hbad)
  · rintro c s ⟨hok, hbv, hbar⟩
    exact (if_neg (hfine hok)).trans (if_pos (by simp [hbv, hbar]))

-- dma.stat -------------------------------------------------------------------------------------------

section Stat
variable {x : DWord}

theorem stat_chan (h : x.toNat / 2 ^ 48 < 32) : (x.extractLsb' 48 5).toNat = x.toNat / 2 ^ 48 := by
  rw [toNat_extractLsb'_eq]
  exact Nat.mod_eq_of_lt h

theorem stat_high_iff : (x.extractLsb' 53 11 != 0) = true ↔ 32 ≤ x.toNat / 2 ^ 48 := by
  have hlt := x.isLt
  rw [extractLsb'_bne_zero, decide_eq_true_eq]
  omega

theorem stat_mid_iff : (x.extractLsb' 32 16 != 0) = true ↔ x.toNat / 2 ^ 32 % 2 ^ 16 ≠ 0 := by
  rw [extractLsb'_bne_zero, decide_eq_true_eq]

end Stat

/-- The command a ticket names is the last one with its number. -/
theorem ticketSeq_eq {next n t : Nat} (hn : n < next) (hmod : n % 2 ^ 32 = t % 2 ^ 32) (hlast : next ≤ n + 2 ^ 32) :
    ticketSeq next (t % 2 ^ 32) = some n := by
  rw [ticketSeq, if_pos (by omega)]
  exact congrArg some (by omega)

theorem stat_passes {x : DWord} {s : State} (hch : x.toNat / 2 ^ 48 < 32) (hmid : x.toNat / 2 ^ 32 % 2 ^ 16 = 0)
    (hlive : s.pkg.chanLive (x.toNat / 2 ^ 48) = true) :
    ((x.extractLsb' 53 11) != 0 || (x.extractLsb' 32 16) != 0 || !s.pkg.chanLive (x.toNat / 2 ^ 48)) = false := by
  have hhigh : (x.extractLsb' 53 11 != 0) = false := Bool.eq_false_iff.2 (mt stat_high_iff.1 (Nat.not_le.2 hch))
  have hlow : (x.extractLsb' 32 16 != 0) = false := Bool.eq_false_iff.2 (mt stat_mid_iff.1 (not_not.2 hmid))
  rw [hhigh, hlow, hlive]
  rfl

theorem stat_refused {x : DWord} {s : State} (hbad : 32 ≤ x.toNat / 2 ^ 48 ∨ x.toNat / 2 ^ 32 % 2 ^ 16 ≠ 0
      ∨ s.pkg.chanLive (x.toNat / 2 ^ 48) = false) :
    ((x.extractLsb' 53 11) != 0 || (x.extractLsb' 32 16) != 0 || !s.pkg.chanLive (x.extractLsb' 48 5).toNat) = true := by
  rcases hbad with h | h | h
  · rw [stat_high_iff.2 h, Bool.true_or, Bool.true_or]
  · rw [stat_mid_iff.2 h, Bool.or_true, Bool.true_or]
  · rcases Nat.lt_or_ge (x.toNat / 2 ^ 48) 32 with hch | hch
    · rw [stat_chan hch, h, Bool.not_false, Bool.or_true]
    · rw [stat_high_iff.2 hch, Bool.true_or, Bool.true_or]

theorem ticketSeq_eq_none {next t : Nat} (h : next ≤ t) : ticketSeq next t = none := if_neg (Nat.not_lt.2 h)

theorem dmaStatus_running (bytes : Nat) : dmaStatus false 0 bytes = BitVec.ofNat 64 (bytes % 2 ^ 40) := by
  simp [dmaStatus]

theorem dmaStatus_done (cause bytes : Nat) : dmaStatus true cause bytes
    = BitVec.ofNat 64 (2 ^ 63 + (if cause ≠ 0 then 2 ^ 62 + cause * 2 ^ 56 else 0) + bytes % 2 ^ 40) := by
  simp [dmaStatus]

end Sys2Proof.Machine
end

section
/-!
O37. DMA_CHUNK and DMA_COMPLETE (06 R150, R151).
-/

namespace Sys2Proof.Machine

-- Channels -------------------------------------------------------------------------------------------

theorem chan_of_dma {s t : State} (h : t.dma = s.dma) (ch : Nat) : t.chan ch = s.chan ch := by
  rw [State.chan, State.chan, h]

theorem dma_of_besideMemory {s t : State} (h : t.besideMemory = s.besideMemory) : t.dma = s.dma :=
  show t.besideMemory.dma = s.besideMemory.dma by rw [h]

theorem dma_sendTo (s : State) (unit : Nat) (r : FRec) : (s.sendTo unit r).dma = s.dma :=
  show (s.sendTo unit r).besideRecords.dma = s.besideRecords.dma by rw [besideRecords_sendTo]

theorem groups_sendTo (s : State) (unit : Nat) (r : FRec) : (s.sendTo unit r).groups = s.groups :=
  show (s.sendTo unit r).besideRecords.groups = s.besideRecords.groups by rw [besideRecords_sendTo]

theorem q_setHead {s : State} {ch : Nat} {m : DmaCmd} {rest : List DmaCmd} (hq : (s.chan ch).q = m :: rest) (m' : DmaCmd) :
    ((s.setHead ch m').chan ch).q = m' :: rest := by
  rw [State.setHead, State.chan, SMap.getD_set, if_pos rfl, hq]
  rfl

-- Faults ---------------------------------------------------------------------------------------------

/-- A piece without a fault decides nothing. -/
theorem decidingFault_append_ok (ps : List XPiece) (va n : Nat) (t : Trans) :
    decidingFault (ps ++ [(va, n, .ok t)]) = decidingFault ps := by
  have hlow (qs : List XPiece) : lowestFault (qs ++ [(va, n, .ok t)]) = lowestFault qs := by
    unfold lowestFault
    rw [List.foldl_append]
    rfl
  unfold decidingFault
  rw [List.filter_append, hlow]
  simp

theorem dmaPieces_dram (va n p : Nat) (byp : Bool) :
    dmaPieces true (refusePieces (fun _ => none) [(va, n, .ok ⟨.dram p, byp⟩)]) = [(va, n, .ok ⟨.dram p, byp⟩)] := by
  simp [dmaPieces, refusePieces, aliasMisuse]

-- A chunk --------------------------------------------------------------------------------------------

theorem besideMemory_l1DropRun (s : State) (core : Nat) (t : Tgt) (n : Nat) :
    (s.l1DropRun core t n).besideMemory = s.besideMemory := by
  unfold State.l1DropRun
  split
  · refine besideMemory_foldl (fun s k => ?_) _ s
    split
    · exact besideMemory_l1Drop ..
    · rfl
  · rfl

theorem writePieces_orphan {s : State} {p n : Nat} {bs : List Byte} (hg : s.grp 1048576 = none) (hbs : bs.length = n) :
    s.writePieces (agPlace orphan) [(.dram p, n)] bs = s.dramWrite p bs := by
  have horphan : s.grp (agPlace orphan) = none := hg
  simp only [State.writePieces, State.writeTgt, State.agentWrite, State.homeWrite, horphan,
    List.take_of_length_le (Nat.le_of_eq hbs)]

/-- The lines of a chunk leave the L1 of the core of a command's group, where it is still there (12 R294). -/
def State.chunkDrops (s : State) (m : DmaCmd) (ts : List (Tgt × Nat)) : State :=
  if s.owns m then ts.foldl (fun (s : State) p => s.l1DropRun (coreOf m.g) p.1 p.2) s else s

theorem besideMemory_chunkDrops (s : State) (m : DmaCmd) (ts : List (Tgt × Nat)) :
    (s.chunkDrops m ts).besideMemory = s.besideMemory :=
  besideMemory_ite (besideMemory_foldl (fun _ _ => besideMemory_l1DropRun ..) _ _) rfl

theorem memories_chunkDrops (s : State) (m : DmaCmd) (ts : List (Tgt × Nat)) :
    (s.chunkDrops m ts).memories = s.memories := by
  unfold State.chunkDrops
  split
  · exact memories_foldl (fun _ _ => memories_l1DropRun ..) _ _
  · rfl

section Chunk
variable {s t u : State} {ch n : Nat} {m : DmaCmd} {rest : List DmaCmd} {ps : List XPiece}
  (hq : (s.chan ch).q = m :: rest) (hcause : m.cause = 0) (hwait : m.waiting = none) (hmore : m.bytes < m.len)
  (hn : n = min (m.len - m.bytes) (4096 - (m.dst + m.bytes) % 4096))
  (hread : (if m.fill then (s, []) else s.xpieces (.engine s.pkg.firstDie) m.ctx .rd
    (pieces (m.src.toNat + m.bytes) n)) = (t, ps))

section
include hcause hwait hmore

theorem dma_runs : (m.cause != 0 || m.waiting.isSome || m.len ≤ m.bytes) = false := by
  simp [hcause, hwait, hmore]

end

include hread in
theorem besideMemory_of_chunkRead : t.besideMemory = s.besideMemory := by
  split at hread
  · cases hread
    rfl
  · exact (congrArg (fun r => r.1.besideMemory) hread).symm.trans (besideMemory_xpieces ..)

include hq hcause hwait hmore hn hread

/-- A chunk whose pages resolve to one run of DRAM. -/
theorem dmaChunk_writes {p : Nat} {byp : Bool} {src : List Byte}
    (hfault : decidingFault (refusePieces (fun _ => none) ps) = none)
    (hwrite : t.xpieces (.engine s.pkg.firstDie) m.ctx .wr (pieces (m.dst + m.bytes) n)
      = (u, [(m.dst + m.bytes, n, .ok ⟨.dram p, byp⟩)]))
    (horphan : s.grp 1048576 = none)
    (hsrc : src = (if m.fill then (List.range n).map fun k => BitVec.ofNat 8 (m.src.toNat / 256 ^ ((m.bytes + k) % 8))
      else u.readPieces none (targets (refusePieces (fun _ => none) ps)))) (hlen : src.length = n) :
    ∃ v, exec (.dmaChunk ch) s = .next v ∧ (v.chan ch).q = { m with bytes := m.bytes + n } :: rest
      ∧ (∀ k < n, v.byteAt (p + k) = src.getD k 0)
      ∧ (∀ x, x < p ∨ p + n ≤ x → v.byteAt x = u.byteAt x) ∧ ∀ x, v.sysByteAt x = u.sysByteAt x := by
  have hbeside : u.besideMemory = s.besideMemory :=
    (congrArg (fun r => r.1.besideMemory) hwrite).symm.trans
      ((besideMemory_xpieces ..).trans (besideMemory_of_chunkRead hread))
  have hu : u.grp 1048576 = none := (grp_of_besideMemory hbeside _).trans horphan
  have hx : exec (.dmaChunk ch) s = .next (((u.dramWrite p src).chunkDrops m
      (targets [(m.dst + m.bytes, n, .ok ⟨.dram p, byp⟩)])).setHead ch { m with bytes := m.bytes + n }) := by
    show execDmaChunk ch s = _
    simp only [execDmaChunk, hq, dma_runs hcause hwait hmore, ← hn, hread, hwrite, dmaPieces_dram, decidingFault_append_ok,
      hfault, ← hsrc, Bool.false_eq_true, if_false]
    rw [show targets [((m.dst + m.bytes, n, .ok ⟨.dram p, byp⟩) : XPiece)] = [(.dram p, n)] from rfl,
      writePieces_orphan hu hlen]
    rfl
  have hmem := memories_chunkDrops (u.dramWrite p src) m (targets [(m.dst + m.bytes, n, .ok ⟨.dram p, byp⟩)])
  have hdma := dma_of_besideMemory
    ((besideMemory_chunkDrops (u.dramWrite p src) m (targets [(m.dst + m.bytes, n, .ok ⟨.dram p, byp⟩)])).trans
      (show (u.dramWrite p src).besideMemory = s.besideMemory from hbeside))
  generalize (u.dramWrite p src).chunkDrops m (targets [(m.dst + m.bytes, n, .ok ⟨.dram p, byp⟩)]) = w at hx hmem hdma
  have hbyte (x : Nat) : w.byteAt x = memByte (memWrite u.mem p src) x := State.byteAt_of_memories hmem x
  refine ⟨_, hx, q_setHead ((congrArg DmaChan.q (chan_of_dma hdma ch)).trans hq) _, fun k hk => ?_, fun x hout => ?_,
    fun x => State.sysByteAt_of_memories hmem x⟩
  · show w.byteAt (p + k) = _
    rw [hbyte, memByte_write, if_pos (by omega), Nat.add_sub_cancel_left]
  · show w.byteAt x = _
    rw [hbyte, memByte_write_other _ _ _ _ (by omega)]
    rfl

/-- A chunk that meets a fault writes nothing: its command waits for the page, or is to end. -/
theorem dmaChunk_faults {qs : List XPiece} {cause va : Nat}
    (hwrite : t.xpieces (.engine s.pkg.firstDie) m.ctx .wr (pieces (m.dst + m.bytes) n) = (u, qs))
    (hfault : decidingFault (refusePieces (fun _ => none) ps ++ dmaPieces true (refusePieces (fun _ => none) qs))
      = some (cause, va)) :
    ∃ v, exec (.dmaChunk ch) s = .next v ∧ SameMemory u v ∧ SameRegisters s v
      ∧ (v.chan ch).q = (if cause = cNotPresent then { m with waiting := some va } else { m with cause := cause }) :: rest := by
  have hbeside : u.besideMemory = s.besideMemory :=
    (congrArg (fun r => r.1.besideMemory) hwrite).symm.trans
      ((besideMemory_xpieces ..).trans (besideMemory_of_chunkRead hread))
  have hregs : SameRegisters s u := sameRegisters_of_groups (groups_of_besideMemory hbeside)
  have huq : (u.chan ch).q = m :: rest := (congrArg DmaChan.q (chan_of_dma (dma_of_besideMemory hbeside) ch)).trans hq
  have hx : exec (.dmaChunk ch) s = execDmaChunk ch s := rfl
  simp only [execDmaChunk, hq, dma_runs hcause hwait hmore, ← hn, hread, hwrite, hfault, Bool.false_eq_true,
    if_false] at hx
  by_cases hc : cause = cNotPresent
  · rw [if_pos hc] at hx ⊢
    refine ⟨_, hx, sameMemory_of_memories (memories_sendTo ..), hregs.trans (sameRegisters_of_groups (groups_sendTo ..)), ?_⟩
    rw [chan_of_dma (dma_sendTo ..)]
    exact q_setHead huq _
  · rw [if_neg hc] at hx ⊢
    exact ⟨_, hx, sameMemory_of_memories rfl, hregs.trans (sameRegisters_of_groups rfl), q_setHead huq _⟩

end Chunk

-- The end of a command -------------------------------------------------------------------------------

theorem sameRegisters_credit (s : State) (g : Nat) (bar : Option Nat) (n : Nat) : SameRegisters s (s.credit g bar n) := by
  cases bar with
  | none => exact sameRegisters_of_groups rfl
  | some k => exact sameRegisters_modGrp s g (fun _ => rfl) fun _ => rfl

theorem dma_credit (s : State) (g : Nat) (bar : Option Nat) (n : Nat) : (s.credit g bar n).dma = s.dma := by
  cases bar <;> rfl

theorem dma_lower (s : State) (ag : Agent) (fl : Option Nat) : (s.lower ag fl).dma = s.dma := by
  cases fl <;> cases ag <;> rfl

/-- The first command leaves its channel and is kept in the history of 256. -/
def State.dmaEnded (s : State) (ch : Nat) (m : DmaCmd) (rest : List DmaCmd) : State :=
  let hist := (s.chan ch).hist ++ [(m.seq, m.cause, m.bytes)]
  { s with dma := SMap.set ch { s.chan ch with q := rest, hist := hist.drop (hist.length - 256) } s.dma }

theorem chan_dmaEnded (s : State) (ch : Nat) (m : DmaCmd) (rest : List DmaCmd) : ((s.dmaEnded ch m rest).chan ch).q = rest
    ∧ (m.seq, m.cause, m.bytes) ∈ ((s.dmaEnded ch m rest).chan ch).hist := by
  rw [State.dmaEnded, State.chan, SMap.getD_set, if_pos rfl]
  refine ⟨rfl, ?_⟩
  dsimp only
  rw [List.drop_append_of_le_length (by simp)]
  simp

/-- The first command of a channel ends. -/
theorem dmaComplete_ends {s : State} {ch : Nat} {m : DmaCmd} {rest : List DmaCmd} (hq : (s.chan ch).q = m :: rest)
    (hend : m.cause ≠ 0 ∨ m.len ≤ m.bytes) :
    ∃ t, exec (.dmaComplete ch) s = .next t ∧ SameMemory s t ∧ SameRegisters s t ∧ (t.chan ch).q = rest
      ∧ (m.seq, m.cause, m.bytes) ∈ (t.chan ch).hist
      ∧ (s.owns m = false → t.groups = s.groups)
      ∧ (s.owns m = true → ∀ gr, s.grp m.g = some gr → ∃ gr', t.grp m.g = some gr' ∧ ∀ j < 16,
          gr'.bars.getD j none = (gr.bars.getD j none).map fun b => if m.bar = some j then reached b m.len 0 else b) := by
  have hx : exec (.dmaComplete ch) s = .next (if s.owns m then
      ((s.dmaEnded ch m rest).credit m.g m.bar m.len).lower (.seq m.g) m.flag else s.dmaEnded ch m rest) := by
    show execDmaComplete ch s = _
    simp only [execDmaComplete, hq]
    exact if_neg (by omega)
  obtain ⟨hrest, hhist⟩ := chan_dmaEnded s ch m rest
  have hregs : SameRegisters s (s.dmaEnded ch m rest) := sameRegisters_of_groups rfl
  cases howns : s.owns m with
  | false =>
    rw [howns] at hx
    exact ⟨_, hx, sameMemory_of_memories rfl, hregs, hrest, hhist, fun _ => rfl, fun h => absurd h (by decide)⟩
  | true =>
    rw [howns, if_pos rfl] at hx
    have hchan := chan_of_dma ((dma_lower ((s.dmaEnded ch m rest).credit m.g m.bar m.len) (.seq m.g) m.flag).trans
      (dma_credit ..)) ch
    refine ⟨_, hx, sameMemory_of_memories ((memories_lower ..).trans (memories_credit (s.dmaEnded ch m rest) ..)),
      (hregs.trans (sameRegisters_credit ..)).trans (sameRegisters_lower ..), (congrArg DmaChan.q hchan).trans hrest,
      (congrArg DmaChan.hist hchan).symm ▸ hhist, fun h => absurd h (by decide), fun _ gr hgr => ?_⟩
    obtain ⟨bs, hcred, hbars⟩ := grp_credit (s := s.dmaEnded ch m rest) hgr m.bar m.len
    obtain ⟨gr', hgr', hsame⟩ := (sameBesideAgents_lower _ (.seq m.g) m.flag).grp hcred
    refine ⟨gr', hgr', fun j hj => ?_⟩
    rw [show gr'.bars = bs from Group.congr_besideAgents hsame Group.bars fun _ => rfl, hbars j hj]

/-- Settles O37: each check of R149 and of dma.stat is one clause, ANYCH's choice is a least element, and a chunk writes one run
of DRAM or, at a fault, nothing. -/
theorem dmaChannelsRunTheirCommands : Obligations.DmaChannelsRunTheirCommands := by
  unfold Obligations.DmaChannelsRunTheirCommands
  intro h d a b e
  have hstat (s : State) : exec (.dmaStat h d a) s = execDmaStat h d a s := rfl
  unfold execDmaStat control at hstat
  refine ⟨dmaPoint_of fun _ => rfl, dmaPoint_of fun _ => rfl,
    ⟨fun n => completes_of_issue hstat ?_, fun n m => completes_of_issue hstat ?_,
      fun n cause bytes => completes_of_issue hstat ?_, traps_of_issue hstat ?_⟩,
    fun s ch m rest t ps u p byp n src hq hcause hwait hmore hn hread hfault hwrite horphan hsrc hlen =>
      dmaChunk_writes hq hcause hwait hmore hn hread hfault hwrite horphan hsrc hlen,
    fun s ch m rest t ps u qs n cause va hq hcause hwait hmore hn hread hwrite hfault =>
      dmaChunk_faults hq hcause hwait hmore hn hread hwrite hfault,
    fun s ch m rest hq hend => dmaComplete_ends hq hend⟩
  · rintro c s ⟨⟨hch, hmid, hlive, hlt, hnum, hlast⟩, hold⟩
    simp only [stat_passes hch hmid hlive, stat_chan hch, ticketSeq_eq hlt hnum hlast, if_pos hold, Bool.false_eq_true,
      if_false]
  · rintro c s ⟨⟨hch, hmid, hlive, hlt, hnum, hlast⟩, hkept, hrunning⟩
    simp only [stat_passes hch hmid hlive, stat_chan hch, ticketSeq_eq hlt hnum hlast, if_neg (Nat.not_lt.2 hkept),
      hrunning, dmaStatus_running, Bool.false_eq_true, if_false]
  · rintro c s ⟨⟨hch, hmid, hlive, hlt, hnum, hlast⟩, hkept, hgone, hended⟩
    simp only [stat_passes hch hmid hlive, stat_chan hch, ticketSeq_eq hlt hnum hlast, if_neg (Nat.not_lt.2 hkept),
      hgone, hended, dmaStatus_done, Bool.false_eq_true, if_false]
  · intro c s hbad
    by_cases hrefused : 32 ≤ (c.scalar a).toNat / 2 ^ 48 ∨ (c.scalar a).toNat / 2 ^ 32 % 2 ^ 16 ≠ 0
        ∨ s.pkg.chanLive ((c.scalar a).toNat / 2 ^ 48) = false
    · simp only [stat_refused hrefused, if_true]
    · obtain ⟨hch, hmid, hlive⟩ : (c.scalar a).toNat / 2 ^ 48 < 32 ∧ (c.scalar a).toNat / 2 ^ 32 % 2 ^ 16 = 0
          ∧ s.pkg.chanLive ((c.scalar a).toNat / 2 ^ 48) = true := by
        simpa only [not_or, not_le, ne_eq, not_not, Bool.not_eq_false] using hrefused
      have hfuture : (s.chan ((c.scalar a).toNat / 2 ^ 48)).next ≤ (c.scalar a).toNat % 2 ^ 32 := by
        rcases hbad with h | h | h | h
        · exact absurd h (Nat.not_le.2 hch)
        · exact absurd hmid h
        · exact absurd hlive (by rw [h]; decide)
        · exact h
      simp only [stat_passes hch hmid hlive, stat_chan hch, ticketSeq_eq_none hfuture, Bool.false_eq_true, if_false]

end Sys2Proof.Machine
end

section
/-!
O16. The register moves (07 R178, R191).
-/

namespace Sys2Proof.Machine

theorem runsBoth_of_movB32 {i : Instr} {h : Hdr} {len : Nat} {d : Dst} {b : Src}
    (hx : ∀ s, exec i s = movB32 h len d b s) :
    RunsBoth i tInt h len d [(b, .w32)] (fun c m => res32 m d fun l => c.src32 [(b, .w32)] 0 l) fun c => c.gval extN b := by
  unfold movB32 at hx
  exact runsBoth_of hx (fun _ _ => rfl) fun _ => rfl

theorem Served.opStop_eq {ds : List (Dst × Wd)} {srcs : List SrcW} {c : ICtx} (h : Served ds srcs c) :
    c.opStop ds srcs = none := h

theorem indexedMove_of {i : Instr} {h : Hdr} {len : Nat} {dst : Nat → Dst} {src : Nat → Src}
    (hx : ∀ s, exec i s = movIndexed h len dst src s) : IndexedMove i h len dst src := by
  unfold movIndexed at hx
  exact completes_of_using hx fun c s hserved => by simp only [hserved.opStop_eq]

theorem lanePoint2_of_packB16 {i : Instr} {h : Hdr} {len : Nat} {d : Dst} {a b : Src}
    (hx : ∀ s, exec i s
      = lane2 tInt extN (fun x y => noFl (y.extractLsb' 0 16 ++ x.extractLsb' 0 16)) h len d a b s) :
    LanePoint2 i tInt extN (fun x y => (y.extractLsb' 0 16 ++ x.extractLsb' 0 16, 0)) h len d a b :=
  lanePoint2_of hx fun _ _ => rfl

/-- Settles O16: each word runs the move of its form; XI is read at issue, so the names are those of the state that issues. -/
theorem registerMovesAndIndexedNames : Obligations.RegisterMovesAndIndexedNames := by
  unfold Obligations.RegisterMovesAndIndexedNames
  intro h dist d a b k j
  exact ⟨runsBoth_of_movB32 fun _ => rfl, runsBoth_of_movB32 fun _ => rfl, runsBoth_of_movB32 fun _ => rfl,
    indexedMove_of fun _ => rfl, indexedMove_of fun _ => rfl, indexedMove_of fun _ => rfl,
    indexedMove_of fun _ => rfl, indexedMove_of fun _ => rfl, indexedMove_of fun _ => rfl,
    lanePoint2_of_packB16 fun _ => rfl, lanePoint2_of_packB16 fun _ => rfl⟩

end Sys2Proof.Machine
end

section
/-!
SUPPORT. Local addresses (07 R179; 11 R261): what the check of one lane's address answers, and what the check of a list of
lanes does.
-/

namespace Sys2Proof.Machine

theorem bit_31_eq (x : Word) : bit x 31 = decide (2 ^ 31 ≤ x.toNat) := BitVec.msb_eq_decide x

theorem extractLsb'_ne_zero_iff (x : Word) (i n : Nat) : x.extractLsb' i n ≠ 0 ↔ x.toNat / 2 ^ i % 2 ^ n ≠ 0 := by
  rw [ne_eq, ← BitVec.toNat_inj, BitVec.extractLsb'_toNat, Nat.shiftRight_eq_div_pow]
  rfl

section LocalAddr
variable {gr : Group} {uni : Bool} {size lane : Nat} {st : Bool} {x : Word}

theorem localAddr_low (hx : x.toNat < 2 ^ 31) : localAddr gr uni size lane st x
    = if x.toNat % size ≠ 0 ∨ gr.va.spad < x.toNat + size ∨ (st = true ∧ gr.meetsBar x.toNat size = true)
      then .error (.trap cSpad none lane) else .ok (.spad x.toNat) := by
  have hbit : ¬ bit x 31 = true := by rw [bit_31_eq, decide_eq_true_iff]; omega
  exact (if_neg hbit).trans (if_congr (by simp [or_assoc]) rfl rfl)

theorem localAddr_high (hx : 2 ^ 31 ≤ x.toNat) : localAddr gr uni size lane st x
    = if uni = true ∨ size ≠ 4 ∨ 2 ^ 31 + 2 ^ 15 ≤ x.toNat ∨ x.toNat % 4 ≠ 0 then .error (.trap cSpad none lane)
      else if gr.rl ≤ x.toNat / 128 % 256 then .error (.trap cBounds none lane)
      else .ok (.aliasAt (x.toNat / 128 % 256) (x.toNat / 4 % 32)) := by
  have hbit : bit x 31 = true := by rw [bit_31_eq, decide_eq_true_iff]; exact hx
  have hbeyond : x.extractLsb' 15 16 ≠ 0 ↔ 2 ^ 31 + 2 ^ 15 ≤ x.toNat := by rw [extractLsb'_ne_zero_iff]; omega
  have hodd : x.extractLsb' 0 2 ≠ 0 ↔ x.toNat % 4 ≠ 0 := by rw [extractLsb'_ne_zero_iff]; omega
  simp only [localAddr, if_pos hbit, BitVec.extractLsb'_toNat, Nat.shiftRight_eq_div_pow]
  exact if_congr (by simp only [Bool.or_eq_true, bne_iff_ne, hbeyond, hodd, or_assoc]) rfl rfl

end LocalAddr

section Lanes
variable {f : Nat → Except Stop LocalAddr} {xs : List (Nat × LocalAddr)}

/-- Lanes that all keep the rules give their places. -/
theorem localAddrs_ok (hok : ∀ p ∈ xs, f p.1 = .ok p.2) : localAddrs f (xs.map Prod.fst) = .ok xs := by
  induction xs with
  | nil => rfl
  | cons p xs ih =>
    obtain ⟨hp, hxs⟩ := List.forall_mem_cons.1 hok
    simp only [List.map_cons, localAddrs, hp, ih hxs]

/-- The stop of the first lane that breaks the rules is that of all. -/
theorem localAddrs_error (hok : ∀ p ∈ xs, f p.1 = .ok p.2) {l : Nat} {e : Stop} (he : f l = .error e) (ls : List Nat) :
    localAddrs f (xs.map Prod.fst ++ l :: ls) = .error e := by
  induction xs with
  | nil => simp only [List.map_nil, List.nil_append, localAddrs, he]
  | cons p xs ih =>
    obtain ⟨hp, hxs⟩ := List.forall_mem_cons.1 hok
    simp only [List.map_cons, List.cons_append, localAddrs, hp, ih hxs]

end Lanes

/-- The acting lanes rise. -/
theorem acting_pairwise_lt (c : ICtx) (h : Hdr) : (c.acting h).Pairwise (· < ·) := by
  unfold ICtx.acting
  split
  · exact List.pairwise_singleton _ _
  · exact List.pairwise_lt_range.filter _

/-- A rising list, cut at one of its members. -/
theorem exists_eq_filter_lt_append {ls : List Nat} (hls : ls.Pairwise (· < ·)) {l : Nat} (hl : l ∈ ls) :
    ∃ post, ls = ls.filter (· < l) ++ l :: post := by
  obtain ⟨pre, post, rfl⟩ := List.append_of_mem hl
  obtain ⟨-, hpost, hpre⟩ := List.pairwise_append.1 hls
  have hbelow : pre.filter (· < l) = pre :=
    List.filter_eq_self.2 fun k hk => decide_eq_true (hpre k hk l List.mem_cons_self)
  have habove : (l :: post).filter (· < l) = [] := by
    refine List.filter_eq_nil_iff.2 fun k hk => ?_
    rcases List.mem_cons.1 hk with rfl | hk
    · simp
    · simpa using ((List.pairwise_cons.1 hpost).1 k hk).le
  exact ⟨post, by rw [List.filter_append, hbelow, habove, List.append_nil]⟩

section Access
variable {c : ICtx} {h : Hdr} {srcs : List SrcW} {size : Nat} {st : Bool} {xs : List (Nat × LocalAddr)} {l : Nat}

theorem localAddr_of_badLocal {x : Word} (hbad : BadLocal c size st x.toNat) :
    localAddr c.gr c.uni size l st x = .error (.trap cSpad none l) := by
  rcases hbad with ⟨hlow, hbad⟩ | ⟨hhigh, hbad⟩
  · rw [localAddr_low hlow, if_pos hbad]
  · rw [localAddr_high hhigh, if_pos hbad]

theorem localAddr_beyond_window {x : Word} (hgood : ¬ BadLocal c size st x.toNat)
    (hrl : 2 ^ 31 + 128 * c.gr.rl ≤ x.toNat) : localAddr c.gr c.uni size l st x = .error (.trap cBounds none l) := by
  have hhigh : 2 ^ 31 ≤ x.toNat := by omega
  have hin : ¬ (c.uni = true ∨ size ≠ 4 ∨ 2 ^ 31 + 2 ^ 15 ≤ x.toNat ∨ x.toNat % 4 ≠ 0) := fun h =>
    hgood (.inr ⟨hhigh, h⟩)
  rw [localAddr_high hhigh, if_neg hin, if_pos (by omega)]

/-- An address within the rules is where Local says that it lies. -/
theorem Local.localAddr_eq (hlocal : Local c h srcs size st xs) :
    ∀ p ∈ xs, localAddr c.gr c.uni size p.1 st (c.local srcs 0 p.1) = .ok p.2 := by
  rintro ⟨lane, place⟩ hp
  have hat := hlocal.2 _ hp
  cases place with
  | spad o =>
    obtain ⟨hx, hlow, halign, hin, hbar⟩ := hat
    dsimp only at hx ⊢
    subst hx
    refine (localAddr_low hlow).trans (if_neg ?_)
    rintro (hbad | hbad | ⟨hst, hbad⟩)
    · exact hbad halign
    · exact absurd hin (Nat.not_le.2 hbad)
    · exact Bool.false_ne_true ((hbar hst).symm.trans hbad)
  | aliasAt n k =>
    obtain ⟨huni, hsize, hrl, hn, hk, hx⟩ := hat
    dsimp only at hx ⊢
    have hreg : (c.local srcs 0 lane).toNat / 128 % 256 = n := by omega
    have hlane : (c.local srcs 0 lane).toNat / 4 % 32 = k := by omega
    have hin : ¬ (c.uni = true ∨ size ≠ 4 ∨ 2 ^ 31 + 2 ^ 15 ≤ (c.local srcs 0 lane).toNat
        ∨ (c.local srcs 0 lane).toNat % 4 ≠ 0) := by
      rintro (hbad | hbad | hbad | hbad)
      · exact Bool.false_ne_true (huni.symm.trans hbad)
      · exact hbad hsize
      · omega
      · omega
    rw [localAddr_high (by omega), if_neg hin, hreg, hlane, if_neg (Nat.not_le.2 hrl)]

theorem localAddrs_of_local (hlocal : Local c h srcs size st xs) :
    localAddrs (fun l => localAddr c.gr c.uni size l st (c.local srcs 0 l)) (c.acting h) = .ok xs :=
  hlocal.1 ▸ localAddrs_ok hlocal.localAddr_eq

theorem localWaits_of_localGoes {s : State} (hgoes : LocalGoes c s xs) : localWaits s c xs = false := by
  cases hacq : s.acqPending c.ag with
  | false => simp [localWaits, hacq]
  | true =>
    refine Bool.and_eq_false_imp.2 fun _ => List.any_eq_false.2 fun p hp => ?_
    obtain ⟨n, k, hat⟩ := hgoes hacq p hp
    simp [hat, LocalAddr.isAlias]

/-- The first acting lane that breaks the rules stops the access. -/
theorem localAddrs_acting_error (hl : l ∈ c.acting h) (hxs : xs.map Prod.fst = (c.acting h).filter (· < l))
    (hok : ∀ p ∈ xs, localAddr c.gr c.uni size p.1 st (c.local srcs 0 p.1) = .ok p.2) {e : Stop}
    (he : localAddr c.gr c.uni size l st (c.local srcs 0 l) = .error e) :
    localAddrs (fun l => localAddr c.gr c.uni size l st (c.local srcs 0 l)) (c.acting h) = .error e := by
  obtain ⟨post, hcut⟩ := exists_eq_filter_lt_append (acting_pairwise_lt c h) hl
  rw [hcut, ← hxs]
  exact localAddrs_error (f := fun l => localAddr c.gr c.uni size l st (c.local srcs 0 l)) hok he post

end Access

/-- An access whose body stops as its local addresses do takes their traps. -/
theorem localTraps_of {i : Instr} {h : Hdr} {ds : List (Dst × Wd)} {srcs : List SrcW} {size : Nat} {st : Bool}
    {body : ICtx → State → Except Stop State} (hx : ∀ s, exec i s = issueReading srcs h body s)
    (hb : ∀ c s e, Served ds srcs c → c.acting h ≠ []
      → localAddrs (fun l => localAddr c.gr c.uni size l st (c.local srcs 0 l)) (c.acting h) = .error e
      → body c s = .error e) : LocalTraps i h ds srcs size st := by
  intro l xs
  constructor <;> refine trapsUsing_of hx ?_
  · rintro c s ⟨⟨hserved, hl, hxs, hok⟩, hbad⟩
    exact hb c s _ hserved (List.ne_nil_of_mem hl) (localAddrs_acting_error hl hxs hok (localAddr_of_badLocal hbad))
  · rintro c s ⟨⟨hserved, hl, hxs, hok⟩, hgood, hrl⟩
    exact hb c s _ hserved (List.ne_nil_of_mem hl) (localAddrs_acting_error hl hxs hok (localAddr_beyond_window hgood hrl))

end Sys2Proof.Machine
end

section
/-!
O23. lds and sts (07 R179; 11 R261, R271).
-/

namespace Sys2Proof.Machine

theorem vPending_gate {s : State} {c : ICtx} {xs : List (Nat × LocalAddr)}
    (hv : (∃ p ∈ xs, ∃ n k, p.2 = .aliasAt n k) → s.vPending c = false) :
    ((xs.any fun p => p.2.isAlias) && s.vPending c) = false := by
  refine Bool.and_eq_false_imp.2 fun hany => hv ?_
  obtain ⟨p, hp, halias⟩ := List.any_eq_true.1 hany
  cases hat : p.2 with
  | aliasAt n k => exact ⟨p, hp, n, k, hat⟩
  | spad o => simp [hat, LocalAddr.isAlias] at halias

theorem ldsPoint_of {i : Instr} {size : Nat} {wd : Wd} {h : Hdr} {d : Dst} {a : Src}
    (hx : ∀ s, exec i s = lds size wd h d a s) : LdsPoint i size wd h d a := by
  unfold lds at hx
  dsimp only at hx
  refine ⟨completes_of_using hx ?_, fun xs => completes_of_using hx ?_, localTraps_of hx ?_⟩
  · rintro c s ⟨hserved, hnone⟩
    simp only [hserved.opStop_eq, hnone, List.isEmpty_nil, if_true]
  · rintro c s ⟨hserved, hsome, hlocal, hgoes, hv⟩
    rw [hserved.opStop_eq]
    refine (if_neg (List.isEmpty_iff.not.2 hsome)).trans ?_
    rw [localAddrs_of_local hlocal]
    exact ite_ite_of_neg (ne_true_of_eq_false (localWaits_of_localGoes hgoes)) (ne_true_of_eq_false (vPending_gate hv)) rfl
  · intro c s e hserved hsome herr
    simp only [hserved.opStop_eq, List.isEmpty_iff, hsome, if_false, herr]

theorem stsPoint_of {i : Instr} {size : Nat} {wd : Wd} {h : Hdr} {a b : Src}
    (hx : ∀ s, exec i s = sts size wd h a b s) : StsPoint i size wd h a b := by
  unfold sts at hx
  dsimp only at hx
  refine ⟨completes_of_using hx ?_, fun xs => completes_of_using hx ?_, localTraps_of hx ?_⟩
  · rintro c s ⟨hserved, hnone⟩
    simp only [hserved.opStop_eq, hnone, List.isEmpty_nil, if_true]
  · rintro c s ⟨hserved, hsome, hlocal, hgoes⟩
    rw [hserved.opStop_eq]
    refine (if_neg (List.isEmpty_iff.not.2 hsome)).trans ?_
    rw [localAddrs_of_local hlocal]
    exact (if_neg (ne_true_of_eq_false (localWaits_of_localGoes hgoes))).trans rfl
  · intro c s e hserved hsome herr
    simp only [hserved.opStop_eq, List.isEmpty_iff, hsome, if_false, herr]

end Sys2Proof.Machine
end

section
/-!
O23. ldl and stl (11 R262, R271), and the obligation.
-/

namespace Sys2Proof.Machine

section PrivStop
variable {p size : Nat} {ofs : Nat → Word}

/-- An offset that breaks R262, as the model tests it. -/
theorem privBad_iff {l : Nat} : ((ofs l).toNat % size != 0 || decide (p < (ofs l).toNat + size)) = true
    ↔ ¬ ((ofs l).toNat % size = 0 ∧ (ofs l).toNat + size ≤ p) := by
  rw [Bool.or_eq_true, bne_iff_ne, decide_eq_true_iff]
  omega

theorem privStop_eq_none {lanes : List Nat}
    (hok : ∀ l ∈ lanes, (ofs l).toNat % size = 0 ∧ (ofs l).toNat + size ≤ p) :
    privStop p size lanes ofs = none := by
  rw [privStop, Option.map_eq_none_iff, List.find?_eq_none]
  exact fun l hl hbad => privBad_iff.1 hbad (hok l hl)

/-- Of rising lanes the lowest that breaks R262 stops the access. -/
theorem privStop_eq_some {lanes : List Nat} (hlanes : lanes.Pairwise (· < ·)) {l : Nat} (hl : l ∈ lanes)
    (hbad : ¬ ((ofs l).toNat % size = 0 ∧ (ofs l).toNat + size ≤ p))
    (hok : ∀ k ∈ lanes, k < l → (ofs k).toNat % size = 0 ∧ (ofs k).toNat + size ≤ p) :
    privStop p size lanes ofs = some (.trap cSpad none l) := by
  obtain ⟨post, hcut⟩ := exists_eq_filter_lt_append hlanes hl
  have hfind : (lanes.find? fun l => (ofs l).toNat % size != 0 || decide (p < (ofs l).toNat + size)) = some l := by
    refine List.find?_eq_some_iff_append.2 ⟨privBad_iff.2 hbad, _, post, hcut, fun k hk => ?_⟩
    obtain ⟨hk, hlt⟩ := List.mem_filter.1 hk
    rw [Bool.not_eq_true']
    exact Bool.eq_false_iff.2 fun hkbad => privBad_iff.1 hkbad (hok k hk (of_decide_eq_true hlt))
  rw [privStop, hfind, Option.map_some]

end PrivStop

/-- An access whose body stops as its lane-private offsets do takes their traps. -/
theorem privTraps_of {i : Instr} {h : Hdr} {ds : List (Dst × Wd)} {srcs : List SrcW} {size : Nat}
    {body : ICtx → State → Except Stop State} (hx : ∀ s, exec i s = issueReading srcs h body s)
    (hb : ∀ c s e, Served ds srcs c → c.acting h ≠ []
      → privStop c.gr.va.lpriv size (c.acting h) (c.local srcs 0) = some e → body c s = .error e) :
    PrivTraps i h ds srcs size := by
  refine fun l => trapsUsing_of hx ?_
  rintro c s ⟨hserved, hl, hbad, hok⟩
  exact hb c s _ hserved (List.ne_nil_of_mem hl) (privStop_eq_some (acting_pairwise_lt c h) hl (by omega) hok)

theorem ldlPoint_of {i : Instr} {size : Nat} {wd : Wd} {h : Hdr} {d : Dst} {a : Src}
    (hx : ∀ s, exec i s = ldl size wd h d a s) : LdlPoint i size wd h d a := by
  unfold ldl at hx
  refine ⟨completes_of_using hx ?_, completes_of_using hx ?_, privTraps_of hx ?_⟩
  · rintro c s ⟨hserved, hnone⟩
    simp only [hserved.opStop_eq, hnone, List.isEmpty_nil, if_true]
  · rintro c s ⟨hserved, hsome, hok⟩
    simp only [hserved.opStop_eq, List.isEmpty_iff, hsome, if_false, privStop_eq_none hok]
  · intro c s e hserved hsome herr
    simp only [hserved.opStop_eq, List.isEmpty_iff, hsome, if_false, herr]

theorem stlPoint_of {i : Instr} {size : Nat} {wd : Wd} {h : Hdr} {a b : Src}
    (hx : ∀ s, exec i s = stl size wd h a b s) : StlPoint i size wd h a b := by
  unfold stl at hx
  refine ⟨completes_of_using hx ?_, completes_of_using hx ?_, privTraps_of hx ?_⟩
  · rintro c s ⟨hserved, hnone⟩
    simp only [hserved.opStop_eq, hnone, List.isEmpty_nil, if_true]
  · rintro c s ⟨hserved, hsome, hok⟩
    simp only [hserved.opStop_eq, List.isEmpty_iff, hsome, if_false, privStop_eq_none hok]
  · intro c s e hserved hsome herr
    simp only [hserved.opStop_eq, List.isEmpty_iff, hsome, if_false, herr]

/-- Settles O23: the check of the acting lanes answers their places, or the stop of the lowest lane that breaks its rule. -/
theorem localAccessesReachTheirBytes : Obligations.LocalAccessesReachTheirBytes := by
  unfold Obligations.LocalAccessesReachTheirBytes
  intro h d a b
  exact ⟨ldsPoint_of fun _ => rfl, ldsPoint_of fun _ => rfl, stsPoint_of fun _ => rfl, stsPoint_of fun _ => rfl,
    ldlPoint_of fun _ => rfl, ldlPoint_of fun _ => rfl, stlPoint_of fun _ => rfl, stlPoint_of fun _ => rfl⟩

end Sys2Proof.Machine
end

section
/-!
SUPPORT. Masks and lanes (00 R4): what a mask given by a condition holds, which lanes a mask lists, and that both depend on
lanes 0 to 31 only.
-/

namespace Sys2Proof.Machine

theorem bit_foldl_mask (f : Nat → Bool) (ls : List Nat) (m : BitVec 32) {l : Nat} (hl : l < 32) :
    bit (ls.foldl (fun m l => if f l then m ||| BitVec.ofNat 32 (2 ^ l) else m) m) l
      = (bit m l || (ls.contains l && f l)) := by
  induction ls generalizing m with
  | nil => simp
  | cons k ks ih =>
    have hor : bit (m ||| BitVec.ofNat 32 (2 ^ k)) l = (bit m l || decide (l = k)) := by
      rw [← bit_ofNat_pow hl]
      exact BitVec.getLsbD_or
    have hstep : bit (if f k then m ||| BitVec.ofNat 32 (2 ^ k) else m) l = (bit m l || (decide (l = k) && f k)) := by
      cases f k with
      | false => simp
      | true => rw [if_pos rfl, hor, Bool.and_true]
    rw [List.foldl_cons, ih, hstep, List.contains_cons, beq_eq_decide]
    obtain rfl | hne := eq_or_ne l k
    · cases f l <;> simp
    · simp [hne]

theorem bit_mkMask (f : Nat → Bool) {l : Nat} (hl : l < 32) : bit (mkMask f) l = f l := by
  have hmem : lanes32.contains l = true := by simpa [lanes32] using hl
  rw [mkMask, bit_foldl_mask f _ _ hl, hmem]
  simp [bit]

theorem eq_mkMask {m : BitVec 32} {f : Nat → Bool} (h : ∀ l, l < 32 → bit m l = f l) : m = mkMask f :=
  BitVec.eq_of_getLsbD_eq fun l hl => (h l hl).trans (bit_mkMask f hl).symm

theorem bit_not (x : BitVec 32) {l : Nat} (hl : l < 32) : bit (~~~x) l = !bit x l := by simp [bit, hl]

theorem mkMask_and (f g : Nat → Bool) : mkMask f &&& mkMask g = mkMask fun l => f l && g l :=
  eq_mkMask fun l hl => by rw [bit_and, bit_mkMask f hl, bit_mkMask g hl]

theorem mkMask_and_not (f g : Nat → Bool) : mkMask f &&& ~~~mkMask g = mkMask fun l => f l && !g l :=
  eq_mkMask fun l hl => by rw [bit_and, bit_not _ hl, bit_mkMask f hl, bit_mkMask g hl]

theorem mkLanes_congr {f g : Nat → Word} (h : ∀ l, l < 32 → f l = g l) : mkLanes f = mkLanes g :=
  List.map_congr_left fun l hl => h l (List.mem_range.1 hl)

theorem mem_maskLanes {m : BitVec 32} {l : Nat} : l ∈ maskLanes m ↔ l < 32 ∧ bit m l = true := by
  simp [maskLanes, lanes32]

theorem maskLanes_pairwise_lt (m : BitVec 32) : (maskLanes m).Pairwise (· < ·) := List.pairwise_lt_range.filter _

theorem find?_maskLanes_eq_none {m : BitVec 32} {p : Nat → Bool} :
    (maskLanes m).find? p = none ↔ ∀ l, l < 32 → bit m l = true → p l = false := by
  simp [List.find?_eq_none, mem_maskLanes]

/-- Of the lanes of a mask that meet a condition the lowest is found. -/
theorem find?_maskLanes_eq_some {m : BitVec 32} {p : Nat → Bool} {l : Nat} (hl : l < 32) (hm : bit m l = true)
    (hp : p l = true) (hbelow : ∀ k, k < l → bit m k = true → p k = false) : (maskLanes m).find? p = some l := by
  obtain ⟨post, heq⟩ := exists_eq_filter_lt_append (maskLanes_pairwise_lt m) (mem_maskLanes.2 ⟨hl, hm⟩)
  rw [heq, List.find?_append, List.find?_eq_none.2 fun k hk => ?_, List.find?_cons_of_pos hp, Option.none_or]
  obtain ⟨hk, hlt⟩ := List.mem_filter.1 hk
  simp [hbelow k (by simpa using hlt) (mem_maskLanes.1 hk).2]

end Sys2Proof.Machine
end

section
/-!
SUPPORT. The integer functions of 08 R199 at any width: the nearest end of a range, the upper half of a product, the orders,
and the counts of bits.
-/

namespace Sys2Proof.Machine

variable {n : Nat}

theorem satI_eq (n : Nat) (x : Int) : satI n x = BitVec.ofInt n (clampI n x) := by
  have hpos : (0 : Int) < 2 ^ (n - 1) := by positivity
  rw [satI, clampI]
  push_cast
  generalize (2 : Int) ^ (n - 1) = p at *
  congr 1
  split_ifs <;> omega

theorem fAddSatI_eq (x y : BitVec n) : fAddSatI n x y = BitVec.ofInt n (clampI n (x.toInt + y.toInt)) := satI_eq n _
theorem fSubSatI_eq (x y : BitVec n) : fSubSatI n x y = BitVec.ofInt n (clampI n (x.toInt - y.toInt)) := satI_eq n _
theorem fMulSatI_eq (x y : BitVec n) : fMulSatI n x y = BitVec.ofInt n (clampI n (x.toInt * y.toInt)) := satI_eq n _

theorem fAddSatN_eq (x y : BitVec n) : fAddSatN n x y = BitVec.ofNat n (min (x.toNat + y.toNat) (2 ^ n - 1)) := by
  have hpos : 0 < 2 ^ n := by positivity
  rw [fAddSatN, satN, ← BitVec.ofInt_natCast]
  congr 1
  omega

theorem fSubSatN_eq (x y : BitVec n) : fSubSatN n x y = BitVec.ofNat n (x.toNat - y.toNat) := by
  have hx := x.isLt
  rw [fSubSatN, satN, ← BitVec.ofInt_natCast]
  congr 1
  omega

/-- The upper half of a number of twice the width. -/
theorem extractLsb'_ofInt_upper (n : Nat) (z : Int) :
    (BitVec.ofInt (2 * n) z).extractLsb' n n = BitVec.ofInt n (z / (2 ^ n : Nat)) := by
  have hpos : (0 : Int) < (2 ^ n : Nat) := by positivity
  have hsq : ((2 ^ (2 * n) : Nat) : Int) = (2 ^ n : Nat) * (2 ^ n : Nat) := by rw [two_mul, pow_add]; push_cast; rfl
  have hnonneg : 0 ≤ z % (2 ^ (2 * n) : Nat) := Int.emod_nonneg _ (by positivity)
  have hsplit : z % (2 ^ (2 * n) : Nat) / (2 ^ n : Nat) = z / (2 ^ n : Nat) - (2 ^ n : Nat) * (z / (2 ^ (2 * n) : Nat)) := by
    rw [Int.emod_def, hsq, mul_assoc, Int.sub_mul_ediv_left _ _ hpos.ne']
  apply BitVec.eq_of_toNat_eq
  rw [BitVec.extractLsb'_toNat, BitVec.toNat_ofInt, BitVec.toNat_ofInt, Nat.shiftRight_eq_div_pow]
  apply Int.natCast_inj.1
  rw [Int.natCast_mod, Int.natCast_div, Int.toNat_of_nonneg hnonneg, hsplit,
    Int.toNat_of_nonneg (Int.emod_nonneg _ hpos.ne'), Int.sub_mul_emod_self_left]

theorem fMulhiI_eq (x y : BitVec n) :
    fMulhiI n x y = (x.signExtend (2 * n) * y.signExtend (2 * n)).extractLsb' n n := by
  rw [BitVec.signExtend, BitVec.signExtend, ← BitVec.ofInt_mul, extractLsb'_ofInt_upper, fMulhiI]

theorem fMulhiN_eq (x y : BitVec n) :
    fMulhiN n x y = (x.setWidth (2 * n) * y.setWidth (2 * n)).extractLsb' n n := by
  have hle : 2 ^ n ≤ 2 ^ (2 * n) := Nat.pow_le_pow_right two_pos (by omega)
  have hprod : x.toNat * y.toNat < 2 ^ (2 * n) := by
    rw [two_mul, pow_add]
    exact Nat.mul_lt_mul'' x.isLt y.isLt
  apply BitVec.eq_of_toNat_eq
  rw [fMulhiN, BitVec.extractLsb'_toNat, BitVec.toNat_mul, BitVec.toNat_setWidth, BitVec.toNat_setWidth,
    Nat.mod_eq_of_lt (x.isLt.trans_le hle), Nat.mod_eq_of_lt (y.isLt.trans_le hle), Nat.mod_eq_of_lt hprod,
    BitVec.toNat_ofNat, Nat.shiftRight_eq_div_pow]

theorem ite_lt_eq_ite_le {α β : Type} [LinearOrder β] {a b : β} {u v : α} (h : a = b → u = v) :
    (if a < b then u else v) = if a ≤ b then u else v := by
  obtain hlt | rfl | hgt := lt_trichotomy a b
  · simp [hlt, hlt.le]
  · simp [h rfl]
  · simp [hgt.not_gt, hgt.not_ge]

theorem fMinI_eq (x y : BitVec n) : fMinI n x y = if x.toInt ≤ y.toInt then x else y := by
  simp only [fMinI, BitVec.slt, decide_eq_true_eq]
  exact ite_lt_eq_ite_le BitVec.eq_of_toInt_eq

theorem fMaxI_eq (x y : BitVec n) : fMaxI n x y = if x.toInt ≤ y.toInt then y else x := by
  simp only [fMaxI, BitVec.slt, decide_eq_true_eq]
  exact ite_lt_eq_ite_le fun h => (BitVec.eq_of_toInt_eq h).symm

theorem fMinN_eq (x y : BitVec n) : fMinN n x y = if x.toNat ≤ y.toNat then x else y := by
  simp only [fMinN, BitVec.ult, decide_eq_true_eq]
  exact ite_lt_eq_ite_le BitVec.eq_of_toNat_eq

theorem fMaxN_eq (x y : BitVec n) : fMaxN n x y = if x.toNat ≤ y.toNat then y else x := by
  simp only [fMaxN, BitVec.ult, decide_eq_true_eq]
  exact ite_lt_eq_ite_le fun h => (BitVec.eq_of_toNat_eq h).symm

theorem fAdifI_eq (x y : BitVec n) :
    fAdifI n x y = BitVec.ofInt n (max (x.toInt - y.toInt) (y.toInt - x.toInt)) := by
  rw [fAdifI, ← BitVec.ofInt_natCast]
  congr 1
  omega

theorem fAdifN_eq (x y : BitVec n) :
    fAdifN n x y = BitVec.ofNat n (max x.toNat y.toNat - min x.toNat y.toNat) := by
  rw [fAdifN]
  congr 1
  omega

theorem foldl_count {α : Type} (p : α → Bool) (ls : List α) (c : Nat) :
    ls.foldl (fun c l => if p l then c + 1 else c) c = c + (ls.filter p).length := by
  induction ls generalizing c with
  | nil => rfl
  | cons a t ih => cases h : p a <;> simp [ih, h, Nat.add_assoc, Nat.add_comm 1]

theorem fPopc_eq (x : BitVec n) : fPopc n x = BitVec.ofNat n ((List.range n).filter fun k => x.getLsbD k).length := by
  rw [fPopc, countBits, foldl_count, Nat.zero_add]
  rfl

theorem length_takeWhile_range {p : Nat → Bool} {m n : Nat} (hmn : m ≤ n) (hp : ∀ k, k < m → p k = true)
    (hm : m < n → p m = false) : ((List.range n).takeWhile p).length = m := by
  obtain ⟨d, rfl⟩ := Nat.exists_eq_add_of_le hmn
  rw [List.range_add, List.takeWhile_append_of_pos fun k hk => hp k (List.mem_range.1 hk), List.length_append,
    List.length_range]
  cases d with
  | zero => rfl
  | succ d => simp [List.range_succ_eq_map, hm]

theorem fClz_eq (x : BitVec n) :
    fClz n x = BitVec.ofNat n ((List.range n).takeWhile fun k => !x.getLsbD (n - 1 - k)).length := by
  rw [fClz]
  congr 1
  split_ifs with h0
  · exact (length_takeWhile_range le_rfl (by simp [h0]) (by simp)).symm
  · have hne : x.toNat ≠ 0 := fun h => h0 (BitVec.eq_of_toNat_eq (by simpa using h))
    have hlog : x.toNat.log2 < n := (Nat.log2_lt hne).2 x.isLt
    refine (length_takeWhile_range (by omega) (fun k hk => ?_) fun _ => ?_).symm
    · rw [BitVec.getLsbD, Nat.testBit_lt_two_pow ((Nat.log2_lt hne).1 (by omega))]
      rfl
    · rw [show n - 1 - (n - 1 - x.toNat.log2) = x.toNat.log2 by omega, BitVec.getLsbD, Nat.testBit_log2 hne]
      rfl

end Sys2Proof.Machine
end

section
/-!
O1. The integer points (08 R199).
-/

namespace Sys2Proof.Machine

section Shapes

variable {i : Instr} {t : Timing} {ext : BitVec 16 → DWord} {h : Hdr} {len : Nat} {d : Dst} {a b e : Src}

theorem intPoint1_of_all {g f : (n : Nat) → BitVec n → BitVec n} (hx : ∀ s, exec i s = intUn t g h len d a s)
    (hg : ∀ {n} (x : BitVec n), g n x = f n x) : IntPoint1 i t f h len d a := intPoint1_of hx hg hg

theorem intPoint2_of_all {g f : (n : Nat) → BitVec n → BitVec n → BitVec n}
    (hx : ∀ s, exec i s = intBin t ext g h len d a b s) (hg : ∀ {n} (x y : BitVec n), g n x y = f n x y) :
    IntPoint2 i t ext f h len d a b := intPoint2_of hx hg hg

theorem intPoint3_of_all {g f : (n : Nat) → BitVec n → BitVec n → BitVec n → BitVec n}
    (hx : ∀ s, exec i s = intTri t g h len d a b e s) (hg : ∀ {n} (x y z : BitVec n), g n x y z = f n x y z) :
    IntPoint3 i t f h len d a b e := intPoint3_of hx hg hg

theorem lanePoint2_of_halvesI (op : BitVec 16 → BitVec 16 → BitVec 16)
    (hx : ∀ s, exec i s = lane2 t ext (fun x y => noFl (halvesI op x y)) h len d a b s) :
    LanePoint2 i t ext (fun x y =>
      (op (x.extractLsb' 16 16) (y.extractLsb' 16 16) ++ op (x.extractLsb' 0 16) (y.extractLsb' 0 16), 0)) h len d a b :=
  lanePoint2_of hx fun _ _ => rfl

end Shapes

/-- Settles O1: each word is the two-source or one-source shape of its function, which is that of the table at every width. -/
theorem integerPointsComputeTheirTable : Obligations.IntegerPointsComputeTheirTable := by
  unfold Obligations.IntegerPointsComputeTheirTable
  intro h dist d a b
  exact ⟨intPoint2_of_all (fun _ => rfl) fun _ _ => rfl, intPoint2_of_all (fun _ => rfl) fun _ _ => rfl,
    intPoint2_of_all (fun _ => rfl) fun _ _ => rfl, intPoint2_of_all (fun _ => rfl) fun _ _ => rfl,
    intPoint2_of_all (fun _ => rfl) fAddSatI_eq, intPoint2_of_all (fun _ => rfl) fAddSatI_eq,
    intPoint2_of_all (fun _ => rfl) fSubSatI_eq, intPoint2_of_all (fun _ => rfl) fSubSatI_eq,
    intPoint2_of_all (fun _ => rfl) fAddSatN_eq, intPoint2_of_all (fun _ => rfl) fAddSatN_eq,
    intPoint2_of_all (fun _ => rfl) fSubSatN_eq, intPoint2_of_all (fun _ => rfl) fSubSatN_eq,
    lanePoint2_of_halvesI BitVec.add fun _ => rfl, lanePoint2_of_halvesI BitVec.add fun _ => rfl,
    lanePoint2_of_halvesI BitVec.sub fun _ => rfl, lanePoint2_of_halvesI BitVec.sub fun _ => rfl,
    intPoint2_of_all (fun _ => rfl) fun _ _ => rfl, intPoint2_of_all (fun _ => rfl) fun _ _ => rfl,
    intPoint2_of_all (fun _ => rfl) fMulhiI_eq, intPoint2_of_all (fun _ => rfl) fMulhiI_eq,
    intPoint2_of_all (fun _ => rfl) fMulhiN_eq, intPoint2_of_all (fun _ => rfl) fMulhiN_eq,
    intPoint2_of_all (fun _ => rfl) fMulSatI_eq, intPoint2_of_all (fun _ => rfl) fMulSatI_eq,
    lanePoint2_of_halvesI BitVec.mul fun _ => rfl, lanePoint2_of_halvesI BitVec.mul fun _ => rfl,
    intPoint2_of_all (fun _ => rfl) fun _ _ => rfl, intPoint2_of_all (fun _ => rfl) fun _ _ => rfl,
    intPoint2_of_all (fun _ => rfl) fun _ _ => rfl, intPoint2_of_all (fun _ => rfl) fun _ _ => rfl,
    intPoint2_of_all (fun _ => rfl) fun _ _ => rfl, intPoint2_of_all (fun _ => rfl) fun _ _ => rfl,
    intPoint2_of_all (fun _ => rfl) fun _ _ => rfl, intPoint2_of_all (fun _ => rfl) fun _ _ => rfl,
    intPoint2_of_all (fun _ => rfl) fun _ _ => rfl, intPoint2_of_all (fun _ => rfl) fun _ _ => rfl,
    intPoint2_of_all (fun _ => rfl) fun _ _ => rfl, intPoint2_of_all (fun _ => rfl) fun _ _ => rfl,
    intPoint2_of_all (fun _ => rfl) fMinI_eq, intPoint2_of_all (fun _ => rfl) fMinI_eq,
    intPoint2_of_all (fun _ => rfl) fMaxI_eq, intPoint2_of_all (fun _ => rfl) fMaxI_eq,
    intPoint2_of_all (fun _ => rfl) fMinN_eq, intPoint2_of_all (fun _ => rfl) fMinN_eq,
    intPoint2_of_all (fun _ => rfl) fMaxN_eq, intPoint2_of_all (fun _ => rfl) fMaxN_eq,
    intPoint2_of_all (fun _ => rfl) fAdifI_eq, intPoint2_of_all (fun _ => rfl) fAdifI_eq,
    intPoint2_of_all (fun _ => rfl) fAdifN_eq, intPoint2_of_all (fun _ => rfl) fAdifN_eq,
    intPoint1_of_all (fun _ => rfl) fPopc_eq, intPoint1_of_all (fun _ => rfl) fPopc_eq,
    intPoint1_of_all (fun _ => rfl) fClz_eq, intPoint1_of_all (fun _ => rfl) fClz_eq,
    intPoint1_of_all (fun _ => rfl) fun _ => rfl, intPoint1_of_all (fun _ => rfl) fun _ => rfl,
    widePoint2_of (g := fun x y => noFl (x + y)) (fun _ => rfl) fun _ _ => rfl,
    widePoint2_of (g := fun x y => noFl (x + y)) (fun _ => rfl) fun _ _ => rfl,
    widePoint2_of (g := fun x y => noFl (x - y)) (fun _ => rfl) fun _ _ => rfl,
    widePoint2_of (g := fun x y => noFl (x - y)) (fun _ => rfl) fun _ _ => rfl,
    intPoint2_of_all (fun _ => rfl) fun _ _ => rfl, intPoint2_of_all (fun _ => rfl) fun _ _ => rfl,
    intPoint2_of_all (fun _ => rfl) fun _ _ => rfl, intPoint2_of_all (fun _ => rfl) fun _ _ => rfl,
    intPoint2_of_all (fun _ => rfl) fun _ _ => rfl, intPoint2_of_all (fun _ => rfl) fMinI_eq,
    intPoint2_of_all (fun _ => rfl) fMaxI_eq⟩

end Sys2Proof.Machine
end

section
/-!
SUPPORT. Shifts, rotations, bit fields and sums of products (08 R200 to R202) at any width.
-/

namespace Sys2Proof.Machine

variable {n : Nat}

theorem fShl_eq (x y : BitVec n) : fShl n x y = x <<< (y.toNat % 256) := by
  rw [fShl, amount]
  split_ifs with h
  · exact (BitVec.shiftLeft_eq_zero h).symm
  · rfl

theorem fShrN_eq (x y : BitVec n) : fShrN n x y = x >>> (y.toNat % 256) := by
  rw [fShrN, amount]
  split_ifs with h
  · exact (BitVec.ushiftRight_eq_zero h).symm
  · rfl

theorem amount_mod (hn : n ∣ 256) (y : BitVec n) : amount y % n = y.toNat % n := Nat.mod_mod_of_dvd _ hn

theorem fRotl_eq (hn : n ∣ 256) (x y : BitVec n) :
    fRotl n x y = (x <<< (y.toNat % n)) ||| (x >>> (n - y.toNat % n)) := by
  rw [fRotl, BitVec.rotateLeft_def, Nat.mod_mod, amount_mod hn]

theorem fRotr_eq (hn : n ∣ 256) (x y : BitVec n) :
    fRotr n x y = (x >>> (y.toNat % n)) ||| (x <<< (n - y.toNat % n)) := by
  rw [fRotr, BitVec.rotateRight_def, Nat.mod_mod, amount_mod hn]

/-- A shift up and back down by the rest of the width keeps the low k bits, sign-extended. -/
theorem sshiftRight_shiftLeft_eq_signExtend (x : BitVec n) {k : Nat} (hk : k ≠ 0) (hkn : k ≤ n) :
    (x <<< (n - k)).sshiftRight (n - k) = (x.setWidth k).signExtend n := by
  apply BitVec.eq_of_getLsbD_eq
  intro i hi
  rw [BitVec.getLsbD_sshiftRight, BitVec.getLsbD_signExtend, if_congr (by omega : n - k + i < n ↔ i < k) rfl rfl]
  split_ifs with hik
  · simp [hi, hik, show n - k + i < n by omega]
  · have hup : (x <<< (n - k)).msb = x.getLsbD (k - 1) := by
      rw [BitVec.msb_eq_getLsbD_last, BitVec.getLsbD_shiftLeft, show n - 1 - (n - k) = k - 1 by omega,
        decide_eq_true (by omega : n - 1 < n), decide_eq_false (by omega : ¬ n - 1 < n - k)]
      rfl
    have hlow : (x.setWidth k).msb = x.getLsbD (k - 1) := by
      rw [BitVec.msb_eq_getLsbD_last, BitVec.getLsbD_setWidth, decide_eq_true (by omega : k - 1 < k), Bool.true_and]
    simp [hup, hlow, hi, hi.not_ge]

theorem fBfextI_eq (x y : BitVec n) :
    fBfextI n x y = BitVec.ofInt n ((x.toInt / 2 ^ posOf n y).bmod (2 ^ lenOf n y)) := by
  rw [fBfextI, fieldLen, fieldPos, ← lenOf, ← posOf]
  split_ifs with h0
  · simp [h0]
  · have hlen : lenOf n y ≤ n := min_le_right _ _
    dsimp only
    rw [sshiftRight_shiftLeft_eq_signExtend _ h0 hlen, BitVec.signExtend]
    congr 1
    have hdvd : 2 ^ lenOf n y ∣ 2 ^ n := pow_dvd_pow 2 hlen
    have hpow : x.toInt / 2 ^ posOf n y = x.toInt / (2 ^ posOf n y : Nat) := by push_cast; rfl
    rw [BitVec.toInt_setWidth, hpow, ← Int.shiftRight_eq_div_pow, ← BitVec.toInt_sshiftRight, BitVec.toInt_eq_toNat_bmod,
      Int.bmod_bmod_of_dvd hdvd]

theorem fBfins_eq (x y z : BitVec n) :
    fBfins n x y z = (z &&& ~~~maskOf n y) ||| ((x <<< posOf n y) &&& maskOf n y) := by
  rw [maskOf, Nat.shiftLeft_eq]
  rfl

theorem fMadhiI_eq (x y z : BitVec n) :
    fMadhiI n x y z = (x.signExtend (2 * n) * y.signExtend (2 * n)).extractLsb' n n + z := by rw [fMadhiI, fMulhiI_eq]

theorem fMadhiN_eq (x y z : BitVec n) :
    fMadhiN n x y z = (x.setWidth (2 * n) * y.setWidth (2 * n)).extractLsb' n n + z := by rw [fMadhiN, fMulhiN_eq]

theorem fMadSat_eq (x y z : BitVec n) : fMadSat n x y z = BitVec.ofInt n (clampI n (x.toInt * y.toInt + z.toInt)) :=
  satI_eq n _

theorem dotI_8_eq (x y z : Word) : dotI 8 x y z
    = z + BitVec.ofInt 32 (dot4 fun k => (x.extractLsb' (8 * k) 8).toInt * (y.extractLsb' (8 * k) 8).toInt) := by
  have hparts : List.range (32 / 8) = [0, 1, 2, 3] := rfl
  simp only [dotI, dot4, hparts, List.foldl, zero_add]

theorem dotN_8_eq (x y z : Word) : dotN 8 x y z
    = z + BitVec.ofInt 32 (dot4 fun k => (x.extractLsb' (8 * k) 8).toNat * (y.extractLsb' (8 * k) 8).toNat) := by
  have hparts : List.range (32 / 8) = [0, 1, 2, 3] := rfl
  simp only [dotN, dot4, hparts, List.foldl, zero_add, ← Nat.cast_mul, ← Nat.cast_add, BitVec.ofInt_natCast]

theorem dotI_16_eq (x y z : Word) : dotI 16 x y z
    = z + BitVec.ofInt 32 ((x.extractLsb' 0 16).toInt * (y.extractLsb' 0 16).toInt
        + (x.extractLsb' 16 16).toInt * (y.extractLsb' 16 16).toInt) := by
  have hparts : List.range (32 / 16) = [0, 1] := rfl
  simp only [dotI, hparts, List.foldl, zero_add, mul_zero, mul_one]

end Sys2Proof.Machine
end

section
/-!
O2. Shifts, rotations, bit fields and three-source points (08 R200 to R202).
-/

namespace Sys2Proof.Machine

/-- Settles O2: each word is the shape of its function, which is that of the rules; the widths of the streams divide the 256
values of a rotation's amount. -/
theorem shiftsBitFieldsAndThreeSourcePoints : Obligations.ShiftsBitFieldsAndThreeSourcePoints := by
  unfold Obligations.ShiftsBitFieldsAndThreeSourcePoints
  intro h dist d a b c
  exact ⟨intPoint2_of_all (fun _ => rfl) fShl_eq, intPoint2_of_all (fun _ => rfl) fShl_eq,
    intPoint2_of_all (fun _ => rfl) fShrN_eq, intPoint2_of_all (fun _ => rfl) fShrN_eq,
    intPoint2_of_all (fun _ => rfl) fun _ _ => rfl, intPoint2_of_all (fun _ => rfl) fun _ _ => rfl,
    intPoint2_of (fun _ => rfl) (fRotl_eq (by decide)) (fRotl_eq (by decide)),
    intPoint2_of (fun _ => rfl) (fRotl_eq (by decide)) (fRotl_eq (by decide)),
    intPoint2_of (fun _ => rfl) (fRotr_eq (by decide)) (fRotr_eq (by decide)),
    intPoint2_of (fun _ => rfl) (fRotr_eq (by decide)) (fRotr_eq (by decide)), intPoint2_of_all (fun _ => rfl) fShl_eq,
    intPoint2_of_all (fun _ => rfl) fShrN_eq, intPoint2_of_all (fun _ => rfl) fun _ _ => rfl,
    intPoint2_of_all (fun _ => rfl) fun _ _ => rfl, intPoint2_of_all (fun _ => rfl) fBfextI_eq,
    intPoint2_of_all (fun _ => rfl) fBfextI_eq, intPoint3_of_all (fun _ => rfl) fBfins_eq,
    intPoint3_of_all (fun _ => rfl) fBfins_eq, intPoint3_of_all (fun _ => rfl) fun _ _ _ => rfl,
    intPoint3_of_all (fun _ => rfl) fMadhiI_eq, intPoint3_of_all (fun _ => rfl) fMadhiN_eq,
    intPoint3_of_all (fun _ => rfl) fMadSat_eq,
    lanePoint3_of (g := fun x y z => noFl (dotI 8 x y z)) (fun _ => rfl) fun x y z => congrArg noFl (dotI_8_eq x y z),
    lanePoint3_of (g := fun x y z => noFl (dotN 8 x y z)) (fun _ => rfl) fun x y z => congrArg noFl (dotN_8_eq x y z),
    lanePoint3_of (g := fun x y z => noFl (dotI 16 x y z)) (fun _ => rfl) fun x y z => congrArg noFl (dotI_16_eq x y z)⟩

end Sys2Proof.Machine
end

section
/-!
O3. Integer comparisons (08 R203).
-/

namespace Sys2Proof.Machine

theorem intCompare_of_all {i : Instr} {g f : (n : Nat) → BitVec n → BitVec n → Bool} {h : Hdr} {d : Dst} {a b : Src}
    (hx : ∀ s, exec i s = cmpInt g h d a b s) (hg : ∀ {n} (x y : BitVec n), g n x y = f n x y) : IntCompare i f h d a b :=
  intCompare_of hx hg hg

theorem bne_eq_decide {α : Type} [DecidableEq α] (x y : α) : (x != y) = decide (x ≠ y) := by
  rw [bne, beq_eq_decide, decide_not]

/-- Settles O3: each word is the comparing shape of its condition. -/
theorem integerComparisonsDecide : Obligations.IntegerComparisonsDecide := by
  unfold Obligations.IntegerComparisonsDecide
  intro h d a b
  exact ⟨intCompare_of_all (g := fun _ x y => x == y) (fun _ => rfl) beq_eq_decide,
    intCompare_of_all (g := fun _ x y => x != y) (fun _ => rfl) bne_eq_decide,
    intCompare_of_all (g := fun _ x y => x.slt y) (fun _ => rfl) fun _ _ => rfl,
    intCompare_of_all (g := fun _ x y => x.sle y) (fun _ => rfl) fun _ _ => rfl,
    intCompare_of_all (g := fun _ x y => x.ult y) (fun _ => rfl) fun _ _ => rfl,
    intCompare_of_all (g := fun _ x y => x.ule y) (fun _ => rfl) fun _ _ => rfl,
    intCompare_of_all (g := fun _ x y => (x &&& y) != 0) (fun _ => rfl) fun x y => bne_eq_decide (x &&& y) 0⟩

end Sys2Proof.Machine
end

section
/-!
O4, O8. The comparisons of floating-point values, and minimum and maximum (08 R204, R208): the order of exact values, and the
flag of a signalling NaN.
-/

namespace Sys2Proof.Machine

theorem Ext.cmp_swap (x y : Ext) : (x.cmp y).swap = y.cmp x := by
  match x, y with
  | .inf a, .inf b => cases a <;> cases b <;> rfl
  | .inf a, .fin .. => cases a <;> rfl
  | .inf a, .nan _ => cases a <;> rfl
  | .fin .., .inf b => cases b <;> rfl
  | .nan _, .inf b => cases b <;> rfl
  | .fin na ma ea, .fin nb mb eb =>
    rw [cmp, cmp, min_comm eb ea]
    exact (Std.OrientedCmp.eq_swap (cmp := compare)).symm
  | .fin .., .nan _ => rfl
  | .nan _, .fin .. => rfl
  | .nan _, .nan _ => rfl

theorem Ext.isSig_of_number {x : Ext} (hx : x.isNan = false) : x.isSig = false := by
  cases x with
  | nan s => cases hx
  | inf n => rfl
  | fin n m e => rfl

theorem sigFlag_pair (x y : Ext) : sigFlag [x, y] = if x.isSig = true ∨ y.isSig = true then flNV else 0 := by simp [sigFlag]

section Codes

variable {f : Fmt} {x y : Nat}

theorem fpCmp_of_nan (hnan : (f.decode x).isNan = true ∨ (f.decode y).isNan = true) (cc : FCond) :
    fpCmp f cc x y = (match cc with | .un => .t | .ord => .f | _ => .u,
      if (f.decode x).isSig = true ∨ (f.decode y).isSig = true ∨ cc = .lt ∨ cc = .le ∨ cc = .gt ∨ cc = .ge then flNV
      else 0) := by
  have hor : ((f.decode x).isNan || (f.decode y).isNan) = true := by simpa using hnan
  have hraised : sigFlag [f.decode x, f.decode y] ||| flNV = flNV := by rw [sigFlag_pair]; split_ifs <;> rfl
  cases cc <;> simp [fpCmp, hor, PCode.ofBool, hraised] <;> simp [sigFlag_pair]

theorem fpCmp_of_numbers (hx : (f.decode x).isNan = false) (hy : (f.decode y).isNan = false) (cc : FCond) :
    fpCmp f cc x y = (.ofBool (match cc with
      | .eq => (f.decode x).cmp (f.decode y) == .eq
      | .ne => (f.decode x).cmp (f.decode y) != .eq
      | .lt => (f.decode x).cmp (f.decode y) == .lt
      | .le => (f.decode x).cmp (f.decode y) != .gt
      | .gt => (f.decode y).cmp (f.decode x) == .lt
      | .ge => (f.decode y).cmp (f.decode x) != .gt
      | .un => false
      | .ord => true), 0) := by
  have hsig : sigFlag [f.decode x, f.decode y] = 0 := by
    simp [sigFlag_pair, Ext.isSig_of_number hx, Ext.isSig_of_number hy]
  rw [← Ext.cmp_swap (f.decode x) (f.decode y)]
  cases cc <;> simp [fpCmp, hx, hy, hsig] <;> cases (f.decode x).cmp (f.decode y) <;> rfl

theorem Ext.cmp_zeros (e e' : Int) : Ext.cmp (.fin true 0 e) (.fin false 0 e') = .eq := by simp [cmp, scaled]

theorem fpMinMax_flags (isMax : Bool) :
    (fpMinMax f isMax x y).2 = if (f.decode x).isSig = true ∨ (f.decode y).isSig = true then flNV else 0 := by
  rw [← sigFlag_pair, fpMinMax]
  dsimp only
  split_ifs <;> rfl

theorem fpMinMax_of_numbers (hx : (f.decode x).isNan = false) (hy : (f.decode y).isNan = false) (isMax : Bool) :
    (fpMinMax f isMax x y).1 =
      let less : Bool := (f.decode x).cmp (f.decode y) == .lt
        || ((f.decode x).cmp (f.decode y) == .eq && (f.decode x).neg && !(f.decode y).neg)
      if isMax then (if less then y else x) else (if less then x else y) := by
  simp only [fpMinMax, hx, hy, Bool.false_and, Bool.false_eq_true, if_false]
  cases (f.decode x).cmp (f.decode y) <;> cases (f.decode x).neg <;> cases (f.decode y).neg <;> cases isMax <;> rfl

end Codes

/-- Settles O4: each word is the comparing shape of its format; a NaN operand and two numbers are the two cases of the table. -/
theorem floatComparisonsDecideOrNot : Obligations.FloatComparisonsDecideOrNot := by
  unfold Obligations.FloatComparisonsDecideOrNot
  refine ⟨fun h p a b => ?_, fun f x y cc => ⟨fun hnan => ?_, fun ⟨hx, hy⟩ => ?_⟩, Ext.cmp_zeros⟩
  · exact ⟨fpCompare32_of fun _ => rfl, fpCompare32_of fun _ => rfl, fpCompare32_of fun _ => rfl,
      fpCompare32_of fun _ => rfl, fpCompare32_of fun _ => rfl, fpCompare32_of fun _ => rfl,
      fpCompare32_of fun _ => rfl, fpCompare32_of fun _ => rfl, fpCompare64_of fun _ => rfl,
      fpCompare64_of fun _ => rfl, fpCompare64_of fun _ => rfl, fpCompare64_of fun _ => rfl,
      fpCompare64_of fun _ => rfl, fpCompare64_of fun _ => rfl, fpCompare64_of fun _ => rfl,
      fpCompare64_of fun _ => rfl⟩
  · rw [fpCmp_of_nan hnan]
    exact ⟨by cases cc <;> rfl, rfl⟩
  · rw [fpCmp_of_numbers hx hy]
    exact ⟨rfl, by cases cc <;> rfl⟩

/-- Settles O8: the flag is that of a signalling operand, and the code that of the operand which the cases of R208 name. -/
theorem minMaxTable : Obligations.MinMaxTable := by
  unfold Obligations.MinMaxTable
  intro f isMax x y
  refine ⟨fpMinMax_flags isMax, ?_⟩
  cases hx : (f.decode x).isNan <;> cases hy : (f.decode y).isNan
  case false.false => simpa using fpMinMax_of_numbers hx hy isMax
  all_goals simp [fpMinMax, hx, hy]

end Sys2Proof.Machine
end

section
/-!
O5, O6. Predicate logic, moves and selection (08 R205, R206).
-/

namespace Sys2Proof.Machine

theorem code_pred_seven (c : ICtx) {l : Nat} (hl : l < 32) : (c.pred 7).code l = .t := by
  have hbit : bit (BitVec.allOnes 32) l = true := BitVec.getLsbD_allOnes.trans (decide_eq_true hl)
  have h7 : c.pred 7 = ⟨BitVec.allOnes 32, 0⟩ := rfl
  rw [h7, PVal.code]
  exact if_pos hbit

theorem PCode.and_eq (x y : PCode) :
    x.and y = (match x, y with | .f, _ => .f | .t, y => y | .u, .f => .f | .u, _ => .u) := by
  cases x <;> cases y <;> rfl

theorem PCode.or_eq (x y : PCode) :
    x.or y = (match x, y with | .t, _ => .t | .f, y => y | .u, .t => .t | .u, _ => .u) := by
  cases x <;> cases y <;> rfl

theorem pand_runs (h : Hdr) (p q r : BitVec 3) : RunsLane (.pand h p q r) tInt h 8 [] [] fun c m =>
    Res.pred m p.toNat (PVal.of fun l => match (c.pred q).code l, (c.pred r).code l with
      | .f, _ => .f | .t, y => y | .u, .f => .f | .u, _ => .u) 0 0 := by
  have hx : ∀ s, exec (.pand h p q r) s = execPand h p q r s := fun _ => rfl
  unfold execPand at hx
  exact runsLane_of hx fun c m => by simp only [PCode.and_eq]

theorem por_runs (h : Hdr) (p q r : BitVec 3) : RunsLane (.por h p q r) tInt h 8 [] [] fun c m =>
    Res.pred m p.toNat (PVal.of fun l => match (c.pred q).code l, (c.pred r).code l with
      | .t, _ => .t | .f, y => y | .u, .t => .t | .u, _ => .u) 0 0 := by
  have hx : ∀ s, exec (.por h p q r) s = execPor h p q r s := fun _ => rfl
  unfold execPor at hx
  exact runsLane_of hx fun c m => by simp only [PCode.or_eq]

theorem pnot_runs (h : Hdr) (p q : BitVec 3) : RunsLane (.pnot h p q) tInt h 8 [] [] fun c m =>
    Res.pred m p.toNat (PVal.of fun l => match (c.pred q).code l with | .f => .t | .t => .f | .u => .u) 0 0 := by
  have hx : ∀ s, exec (.pnot h p q) s = execPnot h p q s := fun _ => rfl
  unfold execPnot at hx
  exact runsLane_of hx fun c m => rfl

/-- Settles O5: each word runs its table of codes; P7 is not a register of the wave, and reads as all true. -/
theorem predicateLogicIsThreeValued : Obligations.PredicateLogicIsThreeValued := by
  unfold Obligations.PredicateLogicIsThreeValued
  exact ⟨fun h p q r => ⟨pand_runs h p q r, por_runs h p q r, pnot_runs h p q⟩, fun c l => code_pred_seven c⟩

theorem PVal.code_eq_t {p : PVal} {l : Nat} : p.code l = .t ↔ bit p.t l = true := by
  rw [PVal.code]
  cases bit p.t l <;> cases bit p.u l <;> simp

/-- The two low bits of a word as a number. -/
theorem toNat_mod_four (x : Word) : x.toNat % 4 = (bit x 0).toNat + 2 * (bit x 1).toNat := by
  have h0 : (bit x 0).toNat = x.toNat / 2 ^ 0 % 2 := Nat.toNat_testBit ..
  have h1 : (bit x 1).toNat = x.toNat / 2 ^ 1 % 2 := Nat.toNat_testBit ..
  omega

theorem pmov_trues (x : Word) : (bit x 0 && !bit x 1) = decide (x.toNat % 4 = 1) := by
  rw [toNat_mod_four]; cases bit x 0 <;> cases bit x 1 <;> rfl

theorem pmov_undecided (x : Word) : (bit x 1 && !bit x 0) = decide (x.toNat % 4 = 2) := by
  rw [toNat_mod_four]; cases bit x 0 <;> cases bit x 1 <;> rfl

theorem selB32_runs (h : Hdr) (d : Dst) (a b : Src) (q : BitVec 3) :
    RunsLane (.selB32 h d a b q) tInt h 8 [(d, .w32)] [(a, .w32), (b, .w32)] fun c m => res32 m d fun l =>
      if (c.pred q).code l = .t then c.src32 [(a, .w32), (b, .w32)] 0 l else c.src32 [(a, .w32), (b, .w32)] 1 l := by
  have hx : ∀ s, exec (.selB32 h d a b q) s = execSelB32 h d a b q s := fun _ => rfl
  unfold execSelB32 at hx
  exact runsLane_of hx fun c m => by simp only [PVal.code_eq_t]; rfl

section Pmov

variable (h : Hdr) (p : BitVec 3) (a : Src)

theorem exec_pmov (s : State) : exec (.pmov h p a) s = laneFixed tInt h 8 [] [(a, .w32)] (fun c m =>
    match (maskLanes m).find? fun l => (c.src32 [(a, .w32)] 0 l).toNat % 4 == 3 with
    | some l => .error (.trap cValue none l)
    | none => .ok (Res.pred m p.toNat ⟨mkMask fun l => (c.src32 [(a, .w32)] 0 l).toNat % 4 = 1,
        mkMask fun l => (c.src32 [(a, .w32)] 0 l).toNat % 4 = 2⟩ 0 0)) s := by
  simp only [← pmov_trues, ← pmov_undecided]
  rfl

theorem pmov_runs : RunsLaneIf (.pmov h p a) tInt h 8 [] [(a, .w32)]
    (fun c m => ∀ l, l < 32 → bit m l = true → (c.src32 [(a, .w32)] 0 l).toNat % 4 ≠ 3)
    fun c m => Res.pred m p.toNat ⟨mkMask fun l => (c.src32 [(a, .w32)] 0 l).toNat % 4 = 1,
      mkMask fun l => (c.src32 [(a, .w32)] 0 l).toNat % 4 = 2⟩ 0 0 :=
  runsLaneIf_of (exec_pmov h p a) fun c m hok => by
    rw [find?_maskLanes_eq_none.2 fun l hl hm => beq_false_of_ne (hok l hl hm)]

theorem pmov_traps {l : Nat} (hl : l < 32) : TrapsUsing (useFixed tInt [] [(a, .w32)]) (.pmov h p a) h 8
    (fun c _ => Served [] [(a, .w32)] c ∧ bit (c.active h) l = true ∧ (c.src32 [(a, .w32)] 0 l).toNat % 4 = 3
      ∧ ∀ k, k < l → bit (c.active h) k = true → (c.src32 [(a, .w32)] 0 k).toNat % 4 ≠ 3)
    fun _ => .trap cValue none l :=
  laneTraps_of (exec_pmov h p a) (by decide) fun c _ ⟨hserved, hact, hbad, hbelow⟩ => ⟨hserved, by
    rw [find?_maskLanes_eq_some (p := fun l => (c.src32 [(a, .w32)] 0 l).toNat % 4 == 3) hl hact (beq_of_eq hbad)
      fun k hk hm => beq_false_of_ne (hbelow k hk hm)]⟩

end Pmov

section Pfrom

variable (h : Hdr) (p : BitVec 3) (a : Src)

/-- The lanes that pfrom refuses are those whose two bits of the scalar are set. -/
theorem find?_mkMask_and (x : DWord) (m : BitVec 32) :
    (maskLanes m).find? (fun l => bit (mkMask (bit x) &&& mkMask fun l => bit x (32 + l)) l)
      = (maskLanes m).find? fun l => bit x l && bit x (32 + l) :=
  List.find?_congr fun l hl => by rw [mkMask_and, bit_mkMask _ (mem_maskLanes.1 hl).1]

theorem pfrom_runs : RunsLaneIf (.pfrom h p a) tInt h 8 [] []
    (fun c m => ∀ l, l < 32 → bit m l = true → (bit (c.scalar a) l && bit (c.scalar a) (32 + l)) = false)
    fun c m => Res.pred m p.toNat ⟨mkMask fun l => bit (c.scalar a) l && !bit (c.scalar a) (32 + l),
      mkMask fun l => bit (c.scalar a) (32 + l) && !bit (c.scalar a) l⟩ 0 0 := by
  have hx : ∀ s, exec (.pfrom h p a) s = execPfrom h p a s := fun _ => rfl
  simp only [execPfrom, find?_mkMask_and, mkMask_and_not] at hx
  exact runsLaneIf_of hx fun c m hok => by rw [find?_maskLanes_eq_none.2 hok]

theorem pfrom_traps {l : Nat} (hl : l < 32) : TrapsUsing (useFixed tInt [] []) (.pfrom h p a) h 8
    (fun c _ => bit (c.active h) l = true ∧ (bit (c.scalar a) l && bit (c.scalar a) (32 + l)) = true
      ∧ ∀ k, k < l → bit (c.active h) k = true → (bit (c.scalar a) k && bit (c.scalar a) (32 + k)) = false)
    fun _ => .trap cValue none l := by
  have hx : ∀ s, exec (.pfrom h p a) s = execPfrom h p a s := fun _ => rfl
  simp only [execPfrom, find?_mkMask_and, mkMask_and_not] at hx
  exact laneTraps_of hx (by decide) fun c _ ⟨hact, hbad, hbelow⟩ =>
    ⟨rfl, by rw [find?_maskLanes_eq_some hl hact hbad hbelow]⟩

end Pfrom

theorem pto_runs (h : Hdr) (q : BitVec 3) (n : Nat) : RunsLane (.pto h (.w n) q) tInt h 8 [] [] fun c m =>
    ⟨if m = 0 then [] else [.w n ((c.pred q).u ++ (c.pred q).t)], [], none, 0, 0⟩ := by
  have hx : ∀ s, exec (.pto h (.w n) q) s = execPto h (.w n) q s := fun _ => rfl
  unfold execPto at hx
  exact runsLane_of hx fun _ _ => rfl

/-- Settles O6: the check of the active lanes finds the first that is in error, or none. -/
theorem predicateMovesAndSelection : Obligations.PredicateMovesAndSelection := by
  unfold Obligations.PredicateMovesAndSelection
  intro h p q d a b
  exact ⟨selB32_runs h d a b q, pmov_runs h p a, fun l hl => pmov_traps h p a hl, pfrom_runs h p a,
    fun l hl => pfrom_traps h p a hl, fun n => pto_runs h q n⟩

end Sys2Proof.Machine
end

section
/-!
O7. Floating-point arithmetic (08 R207, R208).
-/

namespace Sys2Proof.Machine

/-- Settles O7: each word is the shape of its function, under its own rounding. -/
theorem floatArithmeticRoundsOnce : Obligations.FloatArithmeticRoundsOnce := by
  unfold Obligations.FloatArithmeticRoundsOnce
  intro h dist rnd d a b c
  exact ⟨lanePoint2_of (fun _ => rfl) fun _ _ => rfl, lanePoint2_of (fun _ => rfl) fun _ _ => rfl,
    lanePoint2_of (fun _ => rfl) fun _ _ => rfl, lanePoint2_of (fun _ => rfl) fun _ _ => rfl,
    lanePoint2_of (fun _ => rfl) fun _ _ => rfl, lanePoint2_of (fun _ => rfl) fun _ _ => rfl,
    lanePoint2_of (fun _ => rfl) fun _ _ => rfl, lanePoint2_of (fun _ => rfl) fun _ _ => rfl,
    lanePoint2_of (fun _ => rfl) fun _ _ => rfl, lanePoint2_of (fun _ => rfl) fun _ _ => rfl,
    lanePoint2_of (fun _ => rfl) fun _ _ => rfl, lanePoint2_of (fun _ => rfl) fun _ _ => rfl,
    lanePoint2_of (fun _ => rfl) fun _ _ => rfl, lanePoint2_of (fun _ => rfl) fun _ _ => rfl,
    lanePoint2_of (fun _ => rfl) fun _ _ => rfl, lanePoint2_of (fun _ => rfl) fun _ _ => rfl,
    lanePoint2_of (fun _ => rfl) fun _ _ => rfl, lanePoint2_of (fun _ => rfl) fun _ _ => rfl,
    widePoint2_of (fun _ => rfl) fun _ _ => rfl, widePoint2_of (fun _ => rfl) fun _ _ => rfl,
    widePoint2_of (fun _ => rfl) fun _ _ => rfl, widePoint2_of (fun _ => rfl) fun _ _ => rfl,
    widePoint2_of (fun _ => rfl) fun _ _ => rfl, widePoint2_of (fun _ => rfl) fun _ _ => rfl,
    lanePoint3_of (fun _ => rfl) fun _ _ _ => rfl, lanePoint3_of (fun _ => rfl) fun _ _ _ => rfl,
    widePoint3_of (fun _ => rfl) fun _ _ _ => rfl, widePoint3_of (fun _ => rfl) fun _ _ _ => rfl,
    lanePoint3_of (fun _ => rfl) fun _ _ _ => rfl, lanePoint3_of (fun _ => rfl) fun _ _ _ => rfl,
    lanePoint3_of (fun _ => rfl) fun _ _ _ => rfl, lanePoint3_of (fun _ => rfl) fun _ _ _ => rfl,
    lanePoint2_of (fun _ => rfl) fun _ _ => rfl, lanePoint2_of (fun _ => rfl) fun _ _ => rfl,
    lanePoint2_of (fun _ => rfl) fun _ _ => rfl, lanePoint2_of (fun _ => rfl) fun _ _ => rfl,
    lanePoint2_of (fun _ => rfl) fun _ _ => rfl, lanePoint2_of (fun _ => rfl) fun _ _ => rfl,
    lanePoint2_of (fun _ => rfl) fun _ _ => rfl, lanePoint2_of (fun _ => rfl) fun _ _ => rfl,
    lanePoint2_of (fun _ => rfl) fun _ _ => rfl, lanePoint2_of (fun _ => rfl) fun _ _ => rfl,
    lanePoint2_of (fun _ => rfl) fun _ _ => rfl, lanePoint2_of (fun _ => rfl) fun _ _ => rfl,
    lanePoint2_of (fun _ => rfl) fun _ _ => rfl, lanePoint2_of (fun _ => rfl) fun _ _ => rfl,
    lanePoint2_of (fun _ => rfl) fun _ _ => rfl, widePoint2_of (fun _ => rfl) fun _ _ => rfl,
    widePoint2_of (fun _ => rfl) fun _ _ => rfl, widePoint2_of (fun _ => rfl) fun _ _ => rfl,
    widePoint2_of (fun _ => rfl) fun _ _ => rfl, lanePoint2_of (fun _ => rfl) fun _ _ => rfl,
    lanePoint2_of (fun _ => rfl) fun _ _ => rfl⟩

end Sys2Proof.Machine
end

section
/-!
O9. The roots and elementary functions (08 R209, R210): the rows of the table with a NaN, a negative number, a zero or an
infinity, each from the exact value of its code.
-/

namespace Sys2Proof.Machine

theorem fp32_decode_zero : fp32.decode 0 = .fin false 0 (-149) := by decide
theorem fp32_decode_negZero : fp32.decode 0x80000000 = .fin true 0 (-149) := by decide
theorem fp32_decode_one : fp32.decode 0x3f800000 = .fin false (2 ^ 23) (-23) := by decide
theorem fp32_decode_inf : fp32.decode 0x7f800000 = .inf false := by decide
theorem fp32_decode_negInf : fp32.decode 0xff800000 = .inf true := by decide

/-- The NaN rows. -/
theorem elementary_of_nan {x : Nat} {s : Bool} (hx : fp32.decode x = .nan s) (rm : Rm) :
    fpRcp fp32 rm x = (fp32.nanCode, if s then flNV else 0) ∧ fpSqrt fp32 rm x = (fp32.nanCode, if s then flNV else 0)
      ∧ fpRsqrt fp32 .rsqrt32 x = (fp32.nanCode, if s then flNV else 0) ∧ fpExp2 x = (fp32.nanCode, if s then flNV else 0)
      ∧ fpLog2 x = (fp32.nanCode, if s then flNV else 0) ∧ fpSin x = (fp32.nanCode, if s then flNV else 0)
      ∧ fpCos x = (fp32.nanCode, if s then flNV else 0) := by
  simp [fpRcp, fpSqrt, fpRsqrt, fpExp2, fpLog2, fpSin, fpCos, hx]

/-- The rows of a negative number other than zero. -/
theorem roots_of_negative {x : Nat} (hnum : (fp32.decode x).isNan = false) (hneg : (fp32.decode x).neg = true)
    (hzero : (fp32.decode x).isZero = false) (rm : Rm) :
    fpSqrt fp32 rm x = (fp32.nanCode, flNV) ∧ fpRsqrt fp32 .rsqrt32 x = (fp32.nanCode, flNV)
      ∧ fpLog2 x = (fp32.nanCode, flNV) := by
  cases hx : fp32.decode x with
  | nan s => simp [hx, Ext.isNan] at hnum
  | inf n =>
    obtain rfl : n = true := by simpa [hx, Ext.neg] using hneg
    simp [fpSqrt, fpRsqrt, fpLog2, hx]
  | fin n m e =>
    obtain rfl : n = true := by simpa [hx, Ext.neg] using hneg
    have hm : m ≠ 0 := by simpa [hx, Ext.isZero] using hzero
    simp [fpSqrt, fpRsqrt, fpLog2, hx, hm]

theorem fpRcp_specials (rm : Rm) : fpRcp fp32 rm 0 = (0x7f800000, flDZ) ∧ fpRcp fp32 rm 0x80000000 = (0xff800000, flDZ)
    ∧ fpRcp fp32 rm 0x7f800000 = (0, 0) ∧ fpRcp fp32 rm 0xff800000 = (0x80000000, 0) := by
  rw [fpRcp, fpRcp, fpRcp, fpRcp, fp32_decode_zero, fp32_decode_negZero, fp32_decode_inf, fp32_decode_negInf]
  exact ⟨rfl, rfl, rfl, rfl⟩

theorem fpSqrt_specials (rm : Rm) : fpSqrt fp32 rm 0x80000000 = (0x80000000, 0)
    ∧ fpSqrt fp32 rm 0x7f800000 = (0x7f800000, 0) := by
  rw [fpSqrt, fpSqrt, fp32_decode_negZero, fp32_decode_inf]
  exact ⟨rfl, rfl⟩

theorem fpRsqrt_specials : fpRsqrt fp32 .rsqrt32 0 = (0x7f800000, flDZ)
    ∧ fpRsqrt fp32 .rsqrt32 0x80000000 = (0xff800000, flDZ) ∧ fpRsqrt fp32 .rsqrt32 0x7f800000 = (0, 0) := by
  rw [fpRsqrt, fpRsqrt, fpRsqrt, fp32_decode_zero, fp32_decode_negZero, fp32_decode_inf]
  decide

theorem fpExp2_specials : fpExp2 0xff800000 = (0, 0) ∧ fpExp2 0x7f800000 = (0x7f800000, 0) := by
  rw [fpExp2, fpExp2, fp32_decode_inf, fp32_decode_negInf]
  decide

theorem fpLog2_specials : fpLog2 0 = (0xff800000, flDZ) ∧ fpLog2 0x80000000 = (0xff800000, flDZ)
    ∧ fpLog2 0x7f800000 = (0x7f800000, 0) := by
  rw [fpLog2, fpLog2, fpLog2, fp32_decode_zero, fp32_decode_negZero, fp32_decode_inf]
  decide

/-- The logarithm of a power of two is the exact exponent. -/
theorem fpLog2_of_isPow2 {a m : Nat} {e : Int} (ha : fp32.decode a = .fin false m e) (hm : m ≠ 0) (hpow : isPow2 m = true) :
    fpLog2 a = fp32.encode rmN (Ext.ofInt (log2Of m e) 0) := by
  simp only [fpLog2, ha, hm, hpow, if_true, if_false, Bool.false_eq_true]

theorem fpLog2_one : fpLog2 0x3f800000 = (0, 0) :=
  (fpLog2_of_isPow2 fp32_decode_one (by decide) (by decide)).trans (by decide)

theorem fpSin_specials : fpSin 0x7f800000 = (fp32.nanCode, flNV) ∧ fpSin 0xff800000 = (fp32.nanCode, flNV)
    ∧ fpSin 0 = (0, 0) ∧ fpSin 0x80000000 = (0x80000000, 0) := by
  rw [fpSin, fpSin, fpSin, fpSin, fp32_decode_zero, fp32_decode_negZero, fp32_decode_inf, fp32_decode_negInf]
  decide

theorem fpCos_specials : fpCos 0x7f800000 = (fp32.nanCode, flNV) ∧ fpCos 0xff800000 = (fp32.nanCode, flNV)
    ∧ fpCos 0 = (0x3f800000, 0) ∧ fpCos 0x80000000 = (0x3f800000, 0) := by
  rw [fpCos, fpCos, fpCos, fpCos, fp32_decode_zero, fp32_decode_negZero, fp32_decode_inf, fp32_decode_negInf]
  decide

/-- Settles O9: each word is the shape of its function, and each row of the table is a row of the lemmas above. -/
theorem rootsAndElementaryFunctionsRun : Obligations.RootsAndElementaryFunctionsRun := by
  unfold Obligations.RootsAndElementaryFunctionsRun
  obtain ⟨hrsqrt0, hrsqrtNeg0, hrsqrtInf⟩ := fpRsqrt_specials
  obtain ⟨hexpNegInf, hexpInf⟩ := fpExp2_specials
  obtain ⟨hlog0, hlogNeg0, hlogInf⟩ := fpLog2_specials
  obtain ⟨hsinInf, hsinNegInf, hsin0, hsinNeg0⟩ := fpSin_specials
  obtain ⟨hcosInf, hcosNegInf, hcos0, hcosNeg0⟩ := fpCos_specials
  refine ⟨fun h rnd d a => ?_, fun x s rm hx => elementary_of_nan hx rm, fun rm => ?_,
    fun x rm hnum hneg hzero => roots_of_negative hnum hneg hzero rm, hrsqrt0, hrsqrtNeg0, hrsqrtInf, hexpNegInf, hexpInf,
    hlog0, hlogNeg0, hlogInf, hsinInf, hsinNegInf, hcosInf, hcosNegInf, hsin0, hsinNeg0, hcos0, hcosNeg0, fpLog2_one⟩
  · exact ⟨lanePoint1_of (fun _ => rfl) fun _ => rfl, lanePoint1_of (fun _ => rfl) fun _ => rfl,
      lanePoint1_of (fun _ => rfl) fun _ => rfl, lanePoint1_of (fun _ => rfl) fun _ => rfl,
      lanePoint1_of (fun _ => rfl) fun _ => rfl, lanePoint1_of (fun _ => rfl) fun _ => rfl,
      lanePoint1_of (fun _ => rfl) fun _ => rfl, widePoint1_of (fun _ => rfl) fun _ => rfl,
      widePoint1_of (fun _ => rfl) fun _ => rfl, widePoint1_of (fun _ => rfl) fun _ => rfl⟩
  · obtain ⟨hrcp0, hrcpNeg0, hrcpInf, hrcpNegInf⟩ := fpRcp_specials rm
    exact ⟨hrcp0, hrcpNeg0, hrcpInf, hrcpNegInf, fpSqrt_specials rm⟩

end Sys2Proof.Machine
end

section
/-!
O10. Conversions (08 R211).
-/

namespace Sys2Proof.Machine

theorem lanePoint1_of_half {i : Instr} {h : Hdr} {d : Dst} {a : Src} (f : Fmt) (rnd : BitVec 2) (hi : Bool)
    (hx : ∀ s, exec i s = lane1 tFp
      (fun x => onFn 32 (fpCvt f fp32 rnd) (if hi then x.extractLsb' 16 16 else x.extractLsb' 0 16)) h 8 d a s) :
    LanePoint1 i tFp (fun x => onFn 32 (fpCvt f fp32 rnd) (if hi then x.extractLsb' 16 16 else x.extractLsb' 0 16)) h 8 d a :=
  lanePoint1_of hx fun _ => rfl

/-- Settles O10: each word is the shape of its conversion. -/
theorem conversionsRun : Obligations.ConversionsRun := by
  unfold Obligations.ConversionsRun
  intro h rnd d a b hi
  exact ⟨narrowPoint_of (fun _ => rfl) fun _ => rfl, widenPoint_of (fun _ => rfl) fun _ => rfl,
    lanePoint2_of (fun _ => rfl) fun _ _ => rfl, lanePoint1_of_half fp16 rnd hi fun _ => rfl,
    lanePoint2_of (fun _ => rfl) fun _ _ => rfl, lanePoint1_of_half bf16 rnd hi fun _ => rfl,
    lanePoint1_of (fun _ => rfl) fun _ => rfl, lanePoint1_of (fun _ => rfl) fun _ => rfl,
    lanePoint1_of (fun _ => rfl) fun _ => rfl, lanePoint1_of (fun _ => rfl) fun _ => rfl,
    widePoint1_of (fun _ => rfl) fun _ => rfl, widePoint1_of (fun _ => rfl) fun _ => rfl,
    narrowPoint_of (fun _ => rfl) fun _ => rfl, widenPoint_of (fun _ => rfl) fun _ => rfl,
    lanePoint1_of (g := fun x => noFl ((satI 8 x.toInt).signExtend 32)) (fun _ => rfl) fun _ => rfl,
    lanePoint1_of (g := fun x => noFl ((satI 16 x.toInt).signExtend 32)) (fun _ => rfl) fun _ => rfl⟩

end Sys2Proof.Machine
end

section
/-!
O11, O12. Conversions under a format word and of MX blocks (08 R212, R213): the check of the scalar operand, whatever the lane
activity.
-/

namespace Sys2Proof.Machine

theorem fmtOf_of_valid {x : DWord} (hx : x.toNat < 65536 ∧ FmtW.valid (x.setWidth 16) = true) :
    fmtOf x = .ok (x.setWidth 16) := by
  simp [fmtOf, hx]

theorem fmtOf_of_invalid {x : DWord} (hx : ¬(x.toNat < 65536 ∧ FmtW.valid (x.setWidth 16) = true)) :
    fmtOf x = .error (tr cValue) := by
  simp only [fmtOf, Bool.and_eq_true, decide_eq_true_eq, if_neg hx]

section FreeForm

variable {i : Instr} {h : Hdr} {d : Dst} {a f : Src}

theorem freeFormat_of (g : FmtW → Word → Word × Fl) (hx : ∀ s, exec i s = ffCvt g h d a f s) :
    FreeFormat i g h d a f := by
  unfold ffCvt at hx
  exact runsLaneIf_of hx fun c m hok => by simp only [fmtOf_of_valid hok]

theorem freeFormat_traps (g : FmtW → Word → Word × Fl) (hx : ∀ s, exec i s = ffCvt g h d a f s) :
    TrapsUsing (useFixed tFf [(d, .w32)] [(a, .w32)]) i h 8 (fun c _ => Served [(d, .w32)] [(a, .w32)] c
      ∧ ¬((c.scalar f).toNat < 65536 ∧ FmtW.valid ((c.scalar f).setWidth 16) = true)) fun _ => tr cValue := by
  unfold ffCvt at hx
  exact laneTraps_of hx (by decide) fun c _ ⟨hserved, hbad⟩ => ⟨hserved, by simp only [fmtOf_of_invalid hbad]⟩

end FreeForm

/-- The four conversions of an element under a format word: FP32 and a pair of BF16, to a code and from one. -/
def codeOfF32 (rnd : Rm) (fw : FmtW) (x : Word) : Word × Fl :=
  (BitVec.ofNat 32 (fw.encode (fp32.decode x.toNat) rnd).1,
    (fw.encode (fp32.decode x.toNat) rnd).2 ||| sigFlag [fp32.decode x.toNat])
def f32OfCode (rnd : Rm) (fw : FmtW) (x : Word) : Word × Fl :=
  (BitVec.ofNat 32 (fp32.encode rnd (fw.decode (x.toNat % 2 ^ fw.w))).1, 0)
def codesOfBf16 (rnd : Rm) (fw : FmtW) (x : Word) : Word × Fl :=
  (BitVec.ofNat 32 ((fw.encode (bf16.decode (x.toNat % 65536)) rnd).1
      + 256 * (fw.encode (bf16.decode (x.toNat / 65536)) rnd).1),
    (fw.encode (bf16.decode (x.toNat % 65536)) rnd).2 ||| (fw.encode (bf16.decode (x.toNat / 65536)) rnd).2
      ||| sigFlag [bf16.decode (x.toNat % 65536), bf16.decode (x.toNat / 65536)])
def bf16OfCodes (rnd : Rm) (fw : FmtW) (x : Word) : Word × Fl :=
  (BitVec.ofNat 32 ((bf16.encode rnd (fw.decode (x.toNat % 2 ^ fw.w))).1
    + 65536 * (bf16.encode rnd (fw.decode (x.toNat / 256 % 2 ^ fw.w))).1), 0)

/-- Settles O11: each word runs the free-form shape of its codes, and the shape refuses a format word that is not valid. -/
theorem freeFormConversions : Obligations.FreeFormConversions := by
  unfold Obligations.FreeFormConversions
  intro h rnd d a f
  refine ⟨⟨freeFormat_of (codeOfF32 rnd) fun _ => rfl, freeFormat_of (f32OfCode rnd) fun _ => rfl,
    freeFormat_of (codesOfBf16 rnd) fun _ => rfl, freeFormat_of (bf16OfCodes rnd) fun _ => rfl⟩, ?_⟩
  rintro i (rfl | rfl | rfl | rfl)
  · exact freeFormat_traps (codeOfF32 rnd) fun _ => rfl
  · exact freeFormat_traps (f32OfCode rnd) fun _ => rfl
  · exact freeFormat_traps (codesOfBf16 rnd) fun _ => rfl
  · exact freeFormat_traps (bf16OfCodes rnd) fun _ => rfl

/-- A block conversion whose type is checked whatever the lane activity runs where the type is at most 5, and traps beyond. -/
theorem mxPoint_of {i : Instr} {h : Hdr} {d : Dst} {a f : Src} (r : Nat → ICtx → BitVec 32 → Res)
    (hx : ∀ s, exec i s = laneFixed tFf h 8 [(d, .w32)] [(a, .w32)] (fun c m =>
      match mxTypeOf (c.scalar f) with | .error e => .error e | .ok ty => .ok (r ty c m)) s) :
    RunsLaneIf i tFf h 8 [(d, .w32)] [(a, .w32)] (fun c _ => (c.scalar f).toNat < 6) (fun c => r (c.scalar f).toNat c)
    ∧ TrapsUsing (useFixed tFf [(d, .w32)] [(a, .w32)]) i h 8
        (fun c _ => Served [(d, .w32)] [(a, .w32)] c ∧ 6 ≤ (c.scalar f).toNat) fun _ => tr cValue := by
  refine ⟨runsLaneIf_of hx fun c m hlow => ?_, laneTraps_of hx (by decide) fun c _ ⟨hserved, hhigh⟩ => ⟨hserved, ?_⟩⟩
  · simp only [mxTypeOf, if_pos hlow]
  · simp only [mxTypeOf, if_neg hhigh.not_gt]

/-- The results of the two block conversions under an MX type (08 R213). -/
def packMxRes (d : Dst) (a : Src) (ty : Nat) (c : ICtx) (m : BitVec 32) : Res :=
  let blk := mxBlock ty ((maskLanes m).map fun l => fp32.decode (c.src32 [(a, .w32)] 0 l).toNat)
  let mine := fun l => ((((maskLanes m).zip blk.2).find? fun y => y.1 == l).map fun y => y.2).getD (0, 0)
  res32F m d fun l => (BitVec.ofNat 32 (256 * blk.1 + (mine l).1), (mine l).2)
def unpackMxRes (rnd : Rm) (d : Dst) (a : Src) (ty : Nat) (c : ICtx) (m : BitVec 32) : Res :=
  res32F m d fun l =>
    let v := (c.src32 [(a, .w32)] 0 l).toNat
    let r := fp32.encode rnd (mxValue (v / 256 % 256) (v % 2 ^ mxBits ty) ty)
    (BitVec.ofNat 32 r.1, r.2)

/-- Settles O12: both words are block conversions of their result. -/
theorem mxBlocksPackAndUnpack : Obligations.MxBlocksPackAndUnpack := by
  unfold Obligations.MxBlocksPackAndUnpack
  intro h rnd d a f
  obtain ⟨hpack, hpackTraps⟩ := mxPoint_of (i := .packMx h d a f) (packMxRes d a) fun _ => rfl
  obtain ⟨hunpack, hunpackTraps⟩ := mxPoint_of (i := .unpackMx h rnd d a f) (unpackMxRes rnd d a) fun _ => rfl
  refine ⟨hpack, hunpack, ?_⟩
  rintro i (rfl | rfl)
  · exact hpackTraps
  · exact hunpackTraps

end Sys2Proof.Machine
end

section
/-!
O13. Lane exchanges and the permutation (08 R214, R215).
-/

namespace Sys2Proof.Machine

theorem lowest_eq_some {m : BitVec 32} {t : Nat} :
    lowest m = some t ↔ t < 32 ∧ bit m t = true ∧ ∀ k, k < t → bit m k = false := by
  rw [lowest, lanes32, List.find?_range_eq_some]
  simp [and_left_comm]

theorem lowest_eq_none {m : BitVec 32} : lowest m = none ↔ ∀ l, l < 32 → bit m l = false := by
  simp [lowest, lanes32]

/-- The lowest lane of a mask stays the lowest of those that meet a condition just where it meets it. -/
theorem lowest_mkMask_beq (m : BitVec 32) (g : Nat → Bool) :
    (lowest (mkMask fun l => bit m l && g l) == lowest m) = (match lowest m with | some t => g t | none => true) := by
  cases hlow : lowest m with
  | none =>
    have hnone : lowest (mkMask fun l => bit m l && g l) = none :=
      lowest_eq_none.2 fun l hl => by rw [bit_mkMask _ hl, lowest_eq_none.1 hlow l hl, Bool.false_and]
    rw [hnone]
    rfl
  | some t =>
    obtain ⟨ht, hbit, hbelow⟩ := lowest_eq_some.1 hlow
    cases hg : g t with
    | true =>
      have hsome : lowest (mkMask fun l => bit m l && g l) = some t := lowest_eq_some.2
        ⟨ht, by rw [bit_mkMask _ ht, hbit, hg, Bool.and_self], fun k hk => by
          rw [bit_mkMask _ (hk.trans ht), hbelow k hk, Bool.false_and]⟩
      simp [hsome, hg]
    | false =>
      have hother : lowest (mkMask fun l => bit m l && g l) ≠ some t := fun hsome => by
        obtain ⟨-, hbit', -⟩ := lowest_eq_some.1 hsome
        rw [bit_mkMask _ ht, hg, Bool.and_false] at hbit'
        cases hbit'
      simp [hother, hg]

/-- The last of a list that meets a condition, found by running through it. -/
theorem foldl_last {α : Type} (p : α → Bool) (ls : List α) (o : Option α) :
    ls.foldl (fun o l => if p l then some l else o) o = (ls.filter p).getLast?.or o := by
  induction ls generalizing o with
  | nil => rfl
  | cons a t ih =>
    rw [List.foldl_cons, ih]
    cases hp : p a with
    | false => simp [hp]
    | true =>
      rw [List.filter_cons_of_pos hp, List.getLast?_cons]
      cases (t.filter p).getLast? <;> rfl

theorem filter_maskLanes (m : BitVec 32) (p : Nat → Bool) :
    (maskLanes m).filter p = (List.range 32).filter fun l => bit m l && p l := by
  rw [maskLanes, List.filter_filter]
  simp only [Bool.and_comm, lanes32]

theorem vpermB32_runs (h : Hdr) (d : Dst) (a b : Src) :
    RunsLane (.vpermB32 h d a b) tPerm h 8 [(d, .w32)] [(a, .w32), (b, .w32)] fun c m =>
      let from_ := fun t => ((List.range 32).filter fun l =>
        bit m l && (c.src32 [(a, .w32), (b, .w32)] 1 l).toNat % 32 == t).getLast?
      let r := res32 (mkMask fun t => bit m t && (from_ t).isSome) d fun t => match from_ t with
        | some l => c.src32 [(a, .w32), (b, .w32)] 0 l
        | none => 0
      match d, lowest m with
      | .w _, some t => if (from_ t).isSome then r else { r with writes := [] }
      | _, _ => r := by
  have hx : ∀ s, exec (.vpermB32 h d a b) s = execVpermB32 h d a b s := fun _ => rfl
  unfold execVpermB32 at hx
  refine runsLane_of hx fun c m => ?_
  simp only [foldl_last, filter_maskLanes, Option.or_none]
  cases d with
  | w n =>
    simp only [lowest_mkMask_beq]
    cases lowest m <;> rfl
  | _ => rfl

/-- Settles O13: each exchange is the shape of its mode; of the lanes that name a target the last is the highest. -/
theorem laneExchangesAndPermutation : Obligations.LaneExchangesAndPermutation := by
  unfold Obligations.LaneExchangesAndPermutation
  intro h dist d a b
  exact ⟨exchange_of (k := fun _ y => some (y.toNat % 32)) (fun _ => rfl) fun _ _ => rfl,
    exchange_of (k := fun _ y => some (y.toNat % 32)) (fun _ => rfl) fun _ _ => rfl,
    exchange_of (k := fun l y => if y.toNat ≤ l then some (l - y.toNat) else none) (fun _ => rfl) fun _ _ => rfl,
    exchange_of (k := fun l y => if y.toNat ≤ l then some (l - y.toNat) else none) (fun _ => rfl) fun _ _ => rfl,
    exchange_of (k := fun l y => if l + y.toNat < 32 then some (l + y.toNat) else none) (fun _ => rfl) fun _ _ =>
      if_congr Nat.lt_succ_iff rfl rfl,
    exchange_of (k := fun l y => if l + y.toNat < 32 then some (l + y.toNat) else none) (fun _ => rfl) fun _ _ =>
      if_congr Nat.lt_succ_iff rfl rfl,
    exchange_of (k := fun l y => some (l ^^^ (y.toNat % 32))) (fun _ => rfl) fun _ _ => rfl,
    exchange_of (k := fun l y => some (l ^^^ (y.toNat % 32))) (fun _ => rfl) fun _ _ => rfl,
    vpermB32_runs h d a b⟩

end Sys2Proof.Machine
end

section
/-!
O14. Votes, reductions and the scan (08 R216, R217).
-/

namespace Sys2Proof.Machine

section Vote

variable {i : Instr} {h : Hdr} {p q : BitVec 3}

theorem vote_of {f : PCode → PCode → PCode} {unit : PCode} (hx : ∀ s, exec i s = voteP f unit h p q s) :
    Vote i f unit h p q := by
  unfold voteP at hx
  exact runsLane_of hx fun _ _ => rfl

theorem lvoteMask_scalar_runs (h : Hdr) (n : Nat) (q : BitVec 3) :
    RunsLane (.lvoteMask h (.w n) q) tVote h 8 [(.w n, .w32)] [] fun c m =>
      ⟨if m = 0 then [] else [.w n ((((c.pred q).u &&& m) ++ ((c.pred q).t &&& m) : BitVec 64))], [], none, 0, 0⟩ := by
  have hx : ∀ s, exec (.lvoteMask h (.w n) q) s = execLvoteMask h (.w n) q s := fun _ => rfl
  unfold execLvoteMask at hx
  exact runsLane_of hx fun _ _ => rfl

theorem lvoteMask_vector_runs (h : Hdr) (n : Nat) (q : BitVec 3) :
    RunsLane (.lvoteMask h (.v n) q) tVote h 8 [(.v n, .w32)] [] fun c m => res32 m (.v n) fun _ => (c.pred q).t &&& m := by
  have hx : ∀ s, exec (.lvoteMask h (.v n) q) s = execLvoteMask h (.v n) q s := fun _ => rfl
  unfold execLvoteMask at hx
  exact runsLane_of hx fun _ _ => rfl

end Vote

section Reduction

variable {i : Instr} {h : Hdr} {d : Dst} {a : Src}

theorem reduction_of (f : Int → Int → Int) (hx : ∀ s, exec i s = vred f h d a s) : Reduction i f h d a := by
  unfold vred at hx
  exact runsLane_of hx fun _ _ => rfl

/-- The sum of signed values, taken from the first of them on, is modulo 2^32 the sum of the words. -/
theorem ofInt_sum (ls : List Word) : BitVec.ofInt 32 (match ls.map BitVec.toInt with | [] => 0 | v :: t => t.foldl (· + ·) v)
    = ls.foldl (fun x y => x + y) 0 := by
  have hfold (t : List Word) (z : Int) : BitVec.ofInt 32 ((t.map BitVec.toInt).foldl (· + ·) z)
      = t.foldl (fun x y => x + y) (BitVec.ofInt 32 z) := by
    induction t generalizing z with
    | nil => rfl
    | cons v t ih => rw [List.map_cons, List.foldl_cons, ih, BitVec.ofInt_add, BitVec.ofInt_toInt, List.foldl_cons]
  cases ls with
  | nil => rfl
  | cons v t =>
    rw [List.foldl_cons]
    refine (hfold t v.toInt).trans ?_
    rw [BitVec.ofInt_toInt]
    simp

theorem vredAddI32_runs (h : Hdr) (d : Dst) (a : Src) : RunsLane (.vredAddI32 h d a) tVote h 8 [(d, .w32)] [(a, .w32)]
    fun c m => res32 m d fun _ => ((maskLanes m).map fun l => c.src32 [(a, .w32)] 0 l).foldl (fun x y => x + y) 0 := by
  have hx : ∀ s, exec (.vredAddI32 h d a) s = vred (· + ·) h d a s := fun _ => rfl
  unfold vred at hx
  refine runsLane_of hx fun c m => ?_
  rw [← ofInt_sum, List.map_map]
  rfl

theorem filter_le_range {l n : Nat} (hl : l < n) : (List.range n).filter (· ≤ l) = List.range (l + 1) := by
  obtain ⟨k, rfl⟩ := Nat.exists_eq_add_of_le hl
  rw [List.range_add, List.filter_append, List.filter_eq_self.2 fun j hj => ?_, List.filter_eq_nil_iff.2 fun j hj => ?_,
    List.append_nil]
  · simp only [List.mem_map] at hj
    obtain ⟨x, -, rfl⟩ := hj
    simp; omega
  · simpa [Nat.lt_succ_iff] using hj

theorem vscanAddI32_runs (h : Hdr) (d : Dst) (a : Src) : RunsLane (.vscanAddI32 h d a) tVote h 8 [(d, .w32)] [(a, .w32)]
    fun c m => res32 m d fun l =>
      (((List.range (l + 1)).filter fun j => bit m j).map fun j => c.src32 [(a, .w32)] 0 j).foldl (fun x y => x + y) 0 := by
  have hx : ∀ s, exec (.vscanAddI32 h d a) s = execVscanAddI32 h d a s := fun _ => rfl
  unfold execVscanAddI32 at hx
  refine runsLane_of hx fun c m => ?_
  have hlanes {l : Nat} (hl : l < 32) : (maskLanes m).filter (· ≤ l) = (List.range (l + 1)).filter fun j => bit m j := by
    rw [maskLanes, lanes32, List.filter_filter, ← filter_le_range hl, List.filter_filter]
    simp only [Bool.and_comm]
  simp only [res32]
  rw [mkLanes_congr fun l hl => ?_]
  simp only [hlanes hl, List.foldl_map]
  rfl

end Reduction

section Tree

/-- Combining neighbours of a list given by its numbers. -/
theorem combPairs_range (n : Nat) (f : Nat → Option Coded) :
    combPairs ((List.range (2 * n)).map f) = (List.range n).map fun i => comb (f (2 * i)) (f (2 * i + 1)) := by
  induction n generalizing f with
  | zero => rfl
  | succ n ih =>
    have hsplit : (List.range (2 * (n + 1))).map f = f 0 :: f 1 :: (List.range (2 * n)).map fun i => f (i + 2) := by
      rw [show 2 * (n + 1) = 2 * n + 1 + 1 by omega, List.range_succ_eq_map, List.range_succ_eq_map]
      simp [Function.comp_def]
    rw [hsplit, combPairs, ih, List.range_succ_eq_map]
    simp [Function.comp_def, Nat.mul_add]

/-- Where the list holds the elements at the multiples of s, that is the level of step s of the tree (08 R217). -/
theorem combPairs_level (n s : Nat) (x : Nat → Option Coded) :
    combPairs ((List.range (2 * n)).map fun i => x (i * s)) = (List.range n).map fun i => treeLevel x s (i * (2 * s)) := by
  rw [combPairs_range]
  refine List.map_congr_left fun i _ => ?_
  rw [treeLevel, if_pos (Nat.mul_mod_left ..)]
  congr 2 <;> ring

/-- The five levels over 32 leaves leave the root (08 R217). -/
theorem combPairs_root (leaf : Nat → Option Coded) :
    combPairs (combPairs (combPairs (combPairs (combPairs ((List.range 32).map leaf)))))
      = [[1, 2, 4, 8, 16].foldl treeLevel leaf 0] := by
  have h1 : combPairs ((List.range 32).map leaf) = (List.range 16).map fun i => treeLevel leaf 1 (i * 2) := by
    simpa only [mul_one] using combPairs_level 16 1 leaf
  have h2 (x) : combPairs ((List.range 16).map fun i => x (i * 2)) = (List.range 8).map fun i => treeLevel x 2 (i * 4) :=
    combPairs_level 8 2 x
  have h4 (x) : combPairs ((List.range 8).map fun i => x (i * 4)) = (List.range 4).map fun i => treeLevel x 4 (i * 8) :=
    combPairs_level 4 4 x
  have h8 (x) : combPairs ((List.range 4).map fun i => x (i * 8)) = (List.range 2).map fun i => treeLevel x 8 (i * 16) :=
    combPairs_level 2 8 x
  have h16 (x) : combPairs ((List.range 2).map fun i => x (i * 16)) = (List.range 1).map fun i => treeLevel x 16 (i * 32) :=
    combPairs_level 1 16 x
  rw [h1, h2, h4, h8, h16]
  rfl

theorem vredAddF32_runs (h : Hdr) (d : Dst) (a : Src) : RunsLane (.vredAddF32 h d a) tRedF h 8 [(d, .w32)] [(a, .w32)]
    fun c m => res32F m d fun _ =>
      let leaf := fun l => if l < 32 ∧ bit m l = true then some ((c.src32 [(a, .w32)] 0 l).toNat, (0 : Fl)) else none
      let r := ([1, 2, 4, 8, 16].foldl treeLevel leaf 0).getD (0, 0)
      (BitVec.ofNat 32 r.1, r.2) := by
  have hx : ∀ s, exec (.vredAddF32 h d a) s = execVredAddF32 h d a s := fun _ => rfl
  unfold execVredAddF32 at hx
  refine runsLane_of hx fun c m => ?_
  have hleaves : (lanes32.map fun l => if bit m l then some ((w32 (c.words extN [(a, .w32)] 0) l).toNat, (0 : Fl)) else none)
      = (List.range 32).map fun l =>
          if l < 32 ∧ bit m l = true then some ((c.src32 [(a, .w32)] 0 l).toNat, (0 : Fl)) else none :=
    List.map_congr_left fun l hl => if_congr (by simp [List.mem_range.1 hl]) rfl rfl
  simp only [hleaves, combPairs_root]
  rfl

end Tree

/-- Settles O14: each word is the shape of its fold; the tree over the list of lanes is the levels over their numbers. -/
theorem votesReductionsAndScan : Obligations.VotesReductionsAndScan := by
  unfold Obligations.VotesReductionsAndScan
  intro h p q d a
  exact ⟨vote_of fun _ => rfl, vote_of fun _ => rfl, fun n => lvoteMask_scalar_runs h n q,
    fun n => lvoteMask_vector_runs h n q, vredAddI32_runs h d a, reduction_of min fun _ => rfl, reduction_of max fun _ => rfl,
    vredAddF32_runs h d a, vscanAddI32_runs h d a⟩

end Sys2Proof.Machine
end

section
/-!
O15. Filtering to k (08 R218).
-/

namespace Sys2Proof.Machine

/-- What vfilt asks of Wc (08 R218). -/
def FiltOk (wc : DWord) : Prop := 1 ≤ wc.toNat % 64 ∧ wc.toNat % 64 ≤ 32 ∧ wc &&& 0xffe0fec0 = 0

theorem filtBad_iff {wc : DWord} : (wc.toNat % 64 = 0 ∨ 32 < wc.toNat % 64 ∨ (wc &&& 0xffe0fec0) ≠ 0) ↔ ¬ FiltOk wc := by
  rw [FiltOk, not_and_or, not_and_or, not_le, not_le, Nat.lt_one_iff]

/-- Settles O15: K and the reserved bits are checked before the lanes are ranked. -/
theorem filterToKSelectsTheBest : Obligations.FilterToKSelectsTheBest := by
  unfold Obligations.FilterToKSelectsTheBest
  intro h d a b n
  have hx : ∀ s, exec (.vfilt h d a b (.w n)) s = execVfilt h d a b (.w n) s := fun _ => rfl
  unfold execVfilt at hx
  refine ⟨runsLaneIf_of hx fun c m hok => ?_, laneTraps_of hx (by decide) fun c _ ⟨hserved, hbad⟩ => ⟨hserved, ?_⟩⟩
  · exact if_neg fun hbad => filtBad_iff.1 hbad hok
  · exact if_pos (filtBad_iff.2 hbad)

end Sys2Proof.Machine
end

section
/-!
O17. The interval points of value (09 R222, R224 to R231).
-/

namespace Sys2Proof.Machine

/-- A lane point of an interval type that takes the interval trap at the first active lane which meets a condition runs
where no active lane meets it (09 R222). -/
theorem runsOrIvTraps_of {i : Instr} {t : Timing} {h : Hdr} {ds : List (Dst × Wd)} {srcs : List SrcW}
    {bad : ICtx → Nat → Bool} {r : ICtx → BitVec 32 → Res}
    (hx : ∀ s, exec i s = laneFixed t h 8 ds srcs (fun c m => match (maskLanes m).find? (bad c) with
      | some l => .error (.trap cInterval none l)
      | none => .ok (r c m)) s) : RunsOrIvTraps i t h ds srcs bad r := by
  refine ⟨runsLaneIf_of hx fun c m hok => by rw [find?_maskLanes_eq_none.2 hok], fun l hl => trapsUsing_of hx ?_⟩
  rintro c s ⟨hserved, hfree, hact, hbad, hbelow⟩
  rw [Served] at hserved
  simp only [hserved, free_of hfree, find?_maskLanes_eq_some hl hact hbad hbelow, Bool.false_eq_true, if_false]

theorem ivPoint_of {i : Instr} {ty : IvTy} {t : Timing} {arith : Bool} {k : Nat} {h : Hdr} {d : Dst} {ds : List (Dst × Wd)}
    {srcs : List SrcW} {f : (Nat → List Lanes) → Nat → IvOut} (hx : ∀ s, exec i s = ivPoint ty t arith k h d ds srcs f s) :
    IvPoint i ty t arith k h d ds srcs f := runsOrIvTraps_of hx

/-- Settles O17: each word is the interval point of its function. -/
theorem intervalPointsRunOrTrap : Obligations.IntervalPointsRunOrTrap := by
  unfold Obligations.IntervalPointsRunOrTrap
  intro h d a b c
  iterate 27 refine ⟨ivPoint_of fun _ => rfl, ?_⟩
  exact ivPoint_of fun _ => rfl

end Sys2Proof.Machine
end

section
/-!
O18. The interval comparisons (09 R230).
-/

namespace Sys2Proof.Machine

/-- Two bounds are equal where each is at most the other. -/
theorem Ext.cmp_beq_eq (x y : Ext) : (x.cmp y == .eq) = (x.le y && y.le x) := by
  rw [Ext.le, Ext.le, ← Ext.cmp_swap x y]
  cases x.cmp y <;> rfl

theorem cmpEqT_eq : cmpEqT = fun al ah bl bh =>
    al.le ah && ah.le al && ah.le bl && bl.le ah && bl.le bh && bh.le bl := by
  funext al ah bl bh
  simp only [cmpEqT, Ext.cmp_beq_eq, Bool.and_assoc]

section Compare

variable (tt ff : Ext → Ext → Ext → Ext → Bool)

/-- The table of R230. -/
def ivCompared (x y : Iv) : PCode :=
  if x.isNai || y.isNai then .u
  else match x, y with
    | .iv al ah, .iv bl bh => if tt al ah bl bh then .t else if ff al ah bl bh then .f else .u
    | _, _ => .f

theorem ivCmp_eq (x y : Iv) : ivCmp tt ff x y = (ivCompared tt ff x y,
    (if x.isNai || y.isNai then ivNAI else 0) ||| (if ivCompared tt ff x y = .u then ivUND else 0), x.isNai || y.isNai) := by
  match x, y with
  | .nai, _ | .empty, .nai | .iv .., .nai => rfl
  | .empty, .empty | .empty, .iv .. | .iv .., .empty => simp [ivCmp, ivCompared, Iv.isNai]
  | .iv al ah, .iv bl bh =>
    cases ht : tt al ah bl bh <;> cases hf : ff al ah bl bh <;> simp [ivCmp, ivCompared, Iv.isNai, ht, hf]

variable {tt ff}

theorem ivCompare_of {i : Instr} {ty : IvTy} {t : Timing} {h : Hdr} {p : BitVec 3} {a b : Src}
    (hx : ∀ s, exec i s = ivCmpP ty t tt ff h p a b s) : IvCompare i ty t tt ff h p a b := by
  simp only [ivCmpP, ivCmp_eq] at hx
  exact runsOrIvTraps_of hx

end Compare

/-- Settles O18: each word decides by the table for its two conditions on the bounds. -/
theorem intervalComparisonsAreThreeValued : Obligations.IntervalComparisonsAreThreeValued := by
  unfold Obligations.IntervalComparisonsAreThreeValued
  rw [← cmpEqT_eq]
  intro h p a b
  iterate 5 refine ⟨ivCompare_of fun _ => rfl, ?_⟩
  exact ivCompare_of fun _ => rfl

end Sys2Proof.Machine
end

section
/-!
SUPPORT. Where an agent stands (its pc, and the first clk in which a transfer lets it issue), the operations that leave it
there, and the issue of an instruction that lets its agent go on with the next word (15 R349).
-/

namespace Sys2Proof.Machine

/-- Where a split of a wave stands, and an agent. -/
def Wave.standing (wv : Wave) (sp : Nat) : Option (Nat × Nat) := (wv.splits[sp]?).map fun x => (x.pc, x.readyAt)
def State.standing (s : State) : Agent → Option (Nat × Nat)
  | .split g w sp => (s.waveAt g w).bind fun wv => wv.standing sp
  | .seq g => (s.seqAt g).map fun q => (q.pc, q.readyAt)

theorem pcOf_eq_standing (s : State) (ag : Agent) : s.pcOf ag = (s.standing ag).map Prod.fst := by
  cases ag with
  | split g w sp => simp [State.pcOf, State.standing, Wave.standing, Option.map_bind, Function.comp_def]
  | seq g => simp [State.pcOf, State.standing, Function.comp_def]

theorem readyOf_eq_standing (s : State) (ag : Agent) : s.readyOf ag = (s.standing ag).map Prod.snd := by
  cases ag with
  | split g w sp => simp [State.readyOf, State.standing, Wave.standing, Option.map_bind, Function.comp_def]
  | seq g => simp [State.readyOf, State.standing, Function.comp_def]

/-- Every agent stands where it stood. -/
def SameStanding (s t : State) : Prop := ∀ ag, t.standing ag = s.standing ag

theorem SameStanding.refl (s : State) : SameStanding s s := fun _ => rfl

theorem SameStanding.trans {s t u : State} (h : SameStanding s t) (k : SameStanding t u) : SameStanding s u :=
  fun ag => (k ag).trans (h ag)

theorem SameStanding.of_groups {s t : State} (h : t.groups = s.groups) : SameStanding s t := by
  have hgrp (g : Nat) : t.grp g = s.grp g := congrArg (SMap.get? g) h
  rintro (⟨g, w, sp⟩ | g) <;> simp [State.standing, State.waveAt, State.seqAt, hgrp]

theorem SameStanding.foldl {α : Type} {f : State → α → State} (hf : ∀ s x, SameStanding s (f s x)) (l : List α) (s : State) :
    SameStanding s (l.foldl f s) :=
  foldl_rel SameStanding.refl (fun _ _ _ => SameStanding.trans) f hf l s

theorem sameStanding_modGrp (s : State) (g : Nat) {f : Group → Group}
    (hw : ∀ (gr : Group) (w sp : Nat), (((f gr).waves[w]?).bind (Wave.standing · sp)) = (gr.waves[w]?).bind (Wave.standing · sp))
    (hq : ∀ gr, ((f gr).seq.pc, (f gr).seq.readyAt) = (gr.seq.pc, gr.seq.readyAt)) : SameStanding s (s.modGrp g f) := by
  rintro (⟨g', w, sp⟩ | g')
  · simp only [State.standing, State.waveAt, State.grp_modGrp]
    split
    next h => subst h; cases s.grp g' <;> simp [hw]
    · rfl
  · simp only [State.standing, State.seqAt, State.grp_modGrp]
    split
    next h => subst h; cases s.grp g' <;> simp [hq]
    · rfl

theorem sameStanding_modWave (s : State) (g w : Nat) {f : Wave → Wave} (hf : ∀ wv sp, (f wv).standing sp = wv.standing sp) :
    SameStanding s (s.modWave g w f) := by
  refine sameStanding_modGrp s g (fun gr w' sp => ?_) fun _ => rfl
  simp only [updAt_get?]
  split
  next h => subst h; cases gr.waves[w']? <;> simp [hf]
  · rfl

theorem sameStanding_modSplit (s : State) (g w sp : Nat) {f : Split → Split}
    (hf : ∀ x, ((f x).pc, (f x).readyAt) = (x.pc, x.readyAt)) : SameStanding s (s.modSplit g w sp f) := by
  refine sameStanding_modWave s g w fun wv k => ?_
  simp only [Wave.standing, updAt_get?]
  split
  next h => subst h; cases wv.splits[k]? <;> simp_all
  · rfl

theorem sameStanding_modSeq (s : State) (g : Nat) {f : Seq → Seq}
    (hf : ∀ q, ((f q).pc, (f q).readyAt) = (q.pc, q.readyAt)) : SameStanding s (s.modSeq g f) :=
  sameStanding_modGrp s g (fun _ _ _ => rfl) fun gr => hf gr.seq

theorem sameStanding_block (s : State) (ag : Agent) (b : Blk) : SameStanding s (s.block ag b) := by
  cases ag with
  | split g w sp => exact sameStanding_modSplit s g w sp fun _ => rfl
  | seq g => exact sameStanding_modSeq s g fun _ => rfl

theorem sameStanding_lower (s : State) (ag : Agent) (fl : Option Nat) : SameStanding s (s.lower ag fl) := by
  cases fl with
  | none => exact .refl s
  | some k =>
    cases ag with
    | split g w sp => exact sameStanding_modWave s g w fun _ _ => rfl
    | seq g => exact sameStanding_modSeq s g fun _ => rfl

theorem sameStanding_setScalar (s : State) (c : ICtx) (d : Dst) (x : DWord) : SameStanding s (s.setScalar c d x) := by
  cases d with
  | w n => exact sameStanding_modWave s c.g c.w fun _ _ => rfl
  | g n => exact sameStanding_modSeq s c.g fun _ => rfl
  | _ => exact .refl s

theorem sameStanding_settle (s : State) (ag : Agent) : SameStanding s (s.settle ag) := by
  have hcommit (s : State) (g w : Nat) (p : Pend) : SameStanding s (s.commitWave g w p) := by
    refine (sameStanding_modWave s g w fun wv sp => by rw [Wave.standing, commit_splits]; rfl).trans
      (SameStanding.foldl (fun s x => ?_) p.writes _)
    split
    · exact sameStanding_modWave s g w fun _ _ => rfl
    · exact .refl s
  have hdue (q : Seq) (ps : List Pend) :
      ((ps.foldl Seq.commit q).pc, (ps.foldl Seq.commit q).readyAt) = (q.pc, q.readyAt) := by
    have hwrites (ws : List PWrite) (q : Seq) :
        let q' := ws.foldl (fun q w => match w with | .g r x => { q with g := setG q.g r x } | _ => q) q
        (q'.pc, q'.readyAt) = (q.pc, q.readyAt) :=
      foldl_rel (R := fun x y : Seq => (y.pc, y.readyAt) = (x.pc, x.readyAt)) (fun _ => rfl)
        (fun _ _ _ h k => k.trans h) _ (fun q w => by cases w <;> rfl) ws q
    exact foldl_rel (R := fun x y : Seq => (y.pc, y.readyAt) = (x.pc, x.readyAt)) (fun _ => rfl)
      (fun _ _ _ h k => k.trans h) _ (fun q p => hwrites p.writes q) ps q
  cases ag with
  | split g w sp =>
    show SameStanding s (s.settleWave g w)
    unfold State.settleWave
    split
    · exact .refl s
    · refine SameStanding.trans ?_ (SameStanding.foldl (fun s p => hcommit s g w p) _ _)
      exact sameStanding_modWave s g w fun _ _ => rfl
  | seq g =>
    show SameStanding s (s.settleSeq g)
    unfold State.settleSeq
    split
    · exact .refl s
    · exact sameStanding_modSeq s g fun q => hdue _ _

theorem sameStanding_slotTaken (s : State) (c : ICtx) : SameStanding s (s.slotTaken c) := by
  unfold State.slotTaken
  split
  · exact .of_groups rfl
  · refine (SameStanding.foldl (fun s x => sameStanding_modWave s x.1 x.2 fun wv sp => ?_) c.losers s).trans (.of_groups rfl)
    unfold Wave.lost
    split <;> rfl

/-- The agent that issues: a split of a wave, or a sequencer. -/
theorem agent_of_icx {s : State} {c : ICtx} (h : s.icx = some c) :
    (c.uni = false ∧ c.ag = .split c.g c.w c.sp ∧ s.waveAt c.g c.w = some c.wv ∧ c.wv.splits[c.sp]? = some c.spl)
      ∨ (c.uni = true ∧ c.ag = .seq c.g) := by
  unfold State.icx at h
  repeat' split at h
  all_goals cases h
  · exact .inl ⟨rfl, by assumption, by simp [State.waveAt, *], by assumption⟩
  · exact .inr ⟨rfl, by assumption⟩

theorem standing_of_icx {s : State} {c : ICtx} (h : s.icx = some c) : ∃ n, s.standing c.ag = some (c.pc, n) := by
  obtain ⟨huni, hag, hwave, hsplit⟩ | ⟨huni, hag⟩ := agent_of_icx h
  · exact ⟨c.spl.readyAt, by simp [hag, State.standing, hwave, Wave.standing, hsplit, ICtx.pc, huni]⟩
  · exact ⟨c.gr.seq.readyAt, by simp [hag, State.standing, State.seqAt, grp_of_icx h, ICtx.pc, huni]⟩

/-- The state of an issue before the agent itself is moved on: its results settled, the clk's issue taken. -/
def State.granted (s : State) (c : ICtx) : State :=
  (({ s with issuing := none }.settle c.ag).modGrp c.g fun gr => { gr with ran := true }).slotTaken c

theorem sameStanding_granted (s : State) (c : ICtx) : SameStanding s (s.granted c) := by
  have hran (t : State) : SameStanding t (t.modGrp c.g fun gr => { gr with ran := true }) :=
    sameStanding_modGrp t c.g (fun _ _ _ => rfl) fun _ => rfl
  exact (SameStanding.of_groups (t := { s with issuing := none }) rfl).trans
    ((sameStanding_settle _ c.ag).trans ((hran _).trans (sameStanding_slotTaken _ c)))

/-- The agent's own part of an issue moves its pc past the word and nothing else of where it stands (15 R349). -/
theorem begun_split {s : State} {c : ICtx} (huni : c.uni = false) (h : Hdr) (len : Nat) : ∃ f : Wave → Wave,
    s.begun c h len = ((s.granted c).modQuarter c.core c.q fun q => q.countDown c.g c.w c.sp).modWave c.g c.w f
      ∧ ∀ wv, (f wv).standing c.sp = (wv.standing c.sp).map fun x => (x.1 + (if c.entry then 2 else len), x.2) :=
  ⟨_, if_neg (by simp [huni]), fun wv => by simp [Wave.standing, updAt_get?, Function.comp_def]⟩

theorem begun_seq {s : State} {c : ICtx} (huni : c.uni = true) (h : Hdr) (len : Nat) : ∃ f : Seq → Seq,
    s.begun c h len = (s.granted c).modSeq c.g f
      ∧ ∀ q, ((f q).pc, (f q).readyAt) = (q.pc + (if c.entry then 2 else len), q.readyAt) :=
  ⟨_, if_pos huni, fun _ => rfl⟩

theorem standing_begun {s : State} {c : ICtx} (hc : s.icx = some c) (h : Hdr) (len : Nat) :
    (s.begun c h len).standing c.ag = (s.standing c.ag).map fun x => (x.1 + (if c.entry then 2 else len), x.2) := by
  rw [← sameStanding_granted s c c.ag]
  obtain ⟨huni, hag, -⟩ | ⟨huni, hag⟩ := agent_of_icx hc
  · obtain ⟨f, heq, hf⟩ := begun_split (s := s) huni h len
    rw [heq, hag]
    simp only [State.standing, State.waveAt_modWave, and_self, if_true, State.waveAt_modQuarter]
    cases (s.granted c).waveAt c.g c.w <;> simp [hf]
  · obtain ⟨f, heq, hf⟩ := begun_seq (s := s) huni h len
    rw [heq, hag]
    simp only [State.standing, State.seqAt_modSeq, if_true]
    cases (s.granted c).seqAt c.g <;> simp [← hf]

/-- An instruction whose own effect leaves every agent where it stands, and memory, lets its agent go on with the next
word. -/
theorem fallsThrough_of {use : ICtx → Quarter → Quarter} {i : Instr} {h : Hdr} {len : Nat}
    {body : ICtx → State → Except Stop State} {ok : ICtx → State → Prop} {more : ICtx → State → State → Prop}
    (f : ICtx → State → State) (hx : ∀ s, exec i s = issueUsing use h len body s)
    (hb : ∀ c s, ok c s → body c s = .ok (f c s)) (hstand : ∀ c s, ok c s → SameStanding s (f c s))
    (hmem : ∀ c s, ok c s → SameMemory s (f c s))
    (hmore : ∀ c s, ok c s → (s.grp c.g).isSome = true → (s.standing c.ag).isSome = true → more c s (f c s)) :
    FallsThrough i h len ok more := by
  intro s c hc hok
  obtain ⟨n, hn⟩ := standing_of_icx hc
  obtain ⟨gr, hgr, -⟩ := grp_begun hc h len
  have hbegun : (s.begun c h len).standing c.ag = some (c.next len, n) := by rw [standing_begun hc, hn]; rfl
  refine ⟨_, completes_of_using hx hb s c hc hok, ?_, ?_, ?_, hmore c _ hok (by rw [hgr]; rfl) (by rw [hbegun]; rfl)⟩
  · rw [pcOf_eq_standing, hstand c _ hok, hbegun]
    rfl
  · rw [readyOf_eq_standing, readyOf_eq_standing, hstand c _ hok, hbegun, hn]
    rfl
  · exact (sameMemory_of_memories (memories_begun s c h len)).trans (hmem c _ hok)

/-- An agent that is there waits for what it is told to. -/
theorem waitOf_block {s : State} {ag : Agent} (hag : (s.standing ag).isSome = true) (b : Blk) :
    (s.block ag b).waitOf ag = some b := by
  cases ag with
  | split g w sp =>
    simp only [State.standing, Wave.standing, Option.isSome_bind, Option.isSome_map] at hag
    simp only [State.block, State.modSplit, State.waitOf, State.waveAt_modWave, and_self, if_true]
    cases hw : s.waveAt g w with
    | none => simp [hw] at hag
    | some wv =>
      simp only [hw, Option.any_some] at hag
      obtain ⟨x, hx⟩ := Option.isSome_iff_exists.1 hag
      simp [updAt_get?, hx]
  | seq g =>
    simp only [State.standing, Option.isSome_map] at hag
    obtain ⟨q, hq⟩ := Option.isSome_iff_exists.1 hag
    simp [State.block, State.waitOf, State.seqAt_modSeq, hq]

end Sys2Proof.Machine
end

section
/-!
O46. launch, launch.rec, grow and iv.spawn at issue (13 R304, R305; 09 R233, R234).
-/

namespace Sys2Proof.Machine

-- What an instruction of variable latency takes with its operands ------------------------------------

/-- What is in flight: accesses, requests, the number of the next of them, and the replay queues. -/
def State.inFlight (s : State) := (s.memops, s.reqs, s.nextId, fun k => (s.core k).replay)

theorem inFlight_modQuarter (s : State) (k q : Nat) (f : Quarter → Quarter) :
    (s.modQuarter k q f).inFlight = s.inFlight := by
  have hreplay (n : Nat) : ((s.modQuarter k q f).core n).replay = (s.core n).replay := by
    simp only [State.modQuarter, State.modCore, State.core, SMap.getD_modD]
    split
    next h => rw [h]
    · rfl
  simp only [State.inFlight, hreplay]
  rfl

/-- Operands that are read and taken leave accesses, requests, registers and pcs as they are. -/
theorem operandsTaken_keeps (s : State) (c : ICtx) (srcs : List SrcW) :
    (s.operandsTaken c srcs).inFlight = s.inFlight ∧ SameRegisters s (s.operandsTaken c srcs)
      ∧ SameStanding s (s.operandsTaken c srcs) := by
  let R : State → State → Prop := fun s t => t.inFlight = s.inFlight ∧ SameRegisters s t ∧ SameStanding s t
  have hrefl (s : State) : R s s := ⟨rfl, sameRegisters_of_groups rfl, .refl s⟩
  have htrans (s t u : State) (h : R s t) (k : R t u) : R s u :=
    ⟨k.1.trans h.1, h.2.1.trans k.2.1, h.2.2.trans k.2.2⟩
  have hquarter (s : State) (f : Quarter → Quarter) : R s (s.modQuarter c.core c.q f) :=
    ⟨inFlight_modQuarter .., sameRegisters_of_groups rfl, .of_groups rfl⟩
  have hpop (s : State) (n : Nat) : R s (s.modGrp c.g fun gr =>
      { gr with waves := updAt gr.waves c.w fun wv => { wv with qPos := updAt wv.qPos n (· + 1) } }.trimQueue n) := by
    have htrim (t : State) : R t (t.modGrp c.g fun gr => gr.trimQueue n) :=
      ⟨rfl, sameRegisters_modGrp t c.g (fun _ => rfl) fun _ => rfl,
        sameStanding_modGrp t c.g (fun _ _ _ => rfl) fun _ => rfl⟩
    have hpos : R s (s.modWave c.g c.w fun wv => { wv with qPos := updAt wv.qPos n (· + 1) }) :=
      ⟨rfl, sameRegisters_modWave s c.g c.w fun _ => rfl, sameStanding_modWave s c.g c.w fun _ _ => rfl⟩
    have h := htrans _ _ _ hpos (htrim _)
    rwa [State.modWave, State.modGrp_modGrp] at h
  have hread : R s ((s.popped c srcs).latchRead c srcs) := by
    refine htrans _ _ _ (foldl_rel hrefl htrans _ (fun s x => ?_) srcs s) (foldl_rel hrefl htrans _ (fun s x => ?_) srcs _)
    · split
      · exact hpop ..
      · exact hrefl s
    · split
      · split
        · exact hquarter ..
        · exact hrefl s
      · exact hrefl s
  unfold State.operandsTaken
  split
  · exact hrefl s
  · dsimp only
    split
    · exact hread
    · exact htrans _ _ _ hread (hquarter ..)

theorem inFlight_eq {s t : State} (h : t.inFlight = s.inFlight) : t.memops = s.memops ∧ t.reqs = s.reqs
    ∧ t.nextId = s.nextId ∧ ∀ k, (t.core k).replay = (s.core k).replay := by
  simpa only [State.inFlight, Prod.mk.injEq, funext_iff] using h

theorem released_of_inFlight {s t : State} (h : t.inFlight = s.inFlight) (c : ICtx) (scope : Nat) :
    t.released c scope = s.released c scope := by
  obtain ⟨hops, -, -, hreplay⟩ := inFlight_eq h
  rw [State.released, State.released, State.noReplay, State.noReplay, hops, hreplay]

-- The request to the dispatcher ----------------------------------------------------------------------

/-- The agent's writes are handed on, and a request of it goes to the dispatcher. -/
def State.asking (s : State) (c : ICtx) (h : Hdr) (kind : ReqKind) (mask : BitVec 32) : State :=
  { (s.passWrites c 4).newId with reqs := s.reqs ++ [⟨s.nextId, c.ag, c.pc, kind, hdrFlag h, mask, c.gr.versioned⟩] }

theorem sameStanding_asking (s : State) (c : ICtx) (h : Hdr) (kind : ReqKind) (mask : BitVec 32) :
    SameStanding s (s.asking c h kind mask) := .of_groups rfl

theorem recorded_none {c : ICtx} (hno : NoAnswer c) :
    (if c.gr.versioned then c.gr.answerFor (ansKey c.ag) else none) = none := by
  by_cases hv : c.gr.versioned = true
  · rw [if_pos hv, hno hv]
  · exact if_neg hv

theorem not_demotes_of_mayAsk {c : ICtx} {s : State} (hmay : MayAsk c s) : ¬ c.demotes true true = true := by
  rw [hmay.2]; exact Bool.false_ne_true

theorem released_of_mayAsk {c : ICtx} {s : State} (hmay : MayAsk c s) : ¬ (!s.released c 4) = true := by
  rw [hmay.1]; decide

theorem reqs_lower (s : State) (ag : Agent) (fl : Option Nat) : (s.lower ag fl).reqs = s.reqs := by
  cases fl <;> cases ag <;> rfl

theorem reqs_block (s : State) (ag : Agent) (b : Blk) : (s.block ag b).reqs = s.reqs := by cases ag <;> rfl

/-- The agent's writes are handed on, and the recorded answer that it is given stands no longer (11 R281). -/
def State.answering (s : State) (c : ICtx) : State :=
  (s.passWrites c 4).modGrp c.g fun gr => gr.dropAnswer (ansKey c.ag)

theorem sameStanding_answering (s : State) (c : ICtx) : SameStanding s (s.answering c) := by
  have hdrop (t : State) : SameStanding t (t.modGrp c.g fun gr => gr.dropAnswer (ansKey c.ag)) :=
    sameStanding_modGrp t c.g (fun _ _ _ => rfl) fun _ => rfl
  exact (SameStanding.of_groups (t := s.passWrites c 4) rfl).trans (hdrop _)

theorem seqAt_answering (s : State) (c : ICtx) (g : Nat) : (s.answering c).seqAt g = s.seqAt g :=
  State.seqAt_modGrp (s.passWrites c 4) c.g g (fun gr => gr.dropAnswer (ansKey c.ag)) fun _ => rfl

-- launch and launch.rec ---------------------------------------------------------------------------

section Launch

variable {i : Instr} {isRec : Bool} {h : Hdr} {d : Dst} {a : Src} (hx : ∀ s, exec i s = launchPoint isRec h d a s)
include hx

/-- A launch asks the dispatcher, and the sequencer waits for the answer. -/
theorem launch_asks : FallsThrough i h 8 (fun c s => True ∧ MayAsk c s ∧ NoAnswer c) fun c s t =>
    SameRegisters s t ∧ (true = true → t.waitOf c.ag = some (.req s.nextId)) ∧ t.reqs = s.reqs
      ++ [⟨s.nextId, c.ag, c.pc, .launch (c.scalar a).toNat isRec d h.nw, hdrFlag h, 0, c.gr.versioned⟩] := by
  unfold launchPoint at hx
  refine fallsThrough_of (fun c s =>
    (s.asking c h (.launch (c.scalar a).toNat isRec d h.nw) 0).block c.ag (.req s.nextId)) hx ?_
    (fun c s _ => (sameStanding_asking s c h _ _).trans (sameStanding_block _ _ _))
    (fun c s _ => sameMemory_of_memories (memories_block ..)) ?_
  · rintro c s ⟨-, hmay, hno⟩
    refine (if_neg (released_of_mayAsk hmay)).trans ((if_neg (not_demotes_of_mayAsk hmay)).trans ?_)
    simp only [recorded_none hno]
    rfl
  · intro c s _ _ hag
    exact ⟨(sameRegisters_of_groups rfl).trans (sameRegisters_block ..),
      fun _ => waitOf_block (by rwa [sameStanding_asking s]) _, reqs_block ..⟩

/-- A launch of which the answer was recorded is given it (11 R281). -/
theorem launch_answered {x : DWord} {rest : List DWord} {r : Nat} (hd : d = .g r) (hr : r < 64) (hnw : h.nw = false) :
    FallsThrough i h 8
      (fun c s => MayAsk c s ∧ c.gr.versioned = true ∧ c.gr.answerFor (ansKey c.ag) = some (x :: rest))
      fun c s t => t.gHeld c.g r = x ∧ t.reqs = s.reqs := by
  unfold launchPoint at hx
  subst hd
  refine fallsThrough_of (fun c s => ((s.answering c).setScalar c (.g r) x).doneNow c h) hx ?_
    (fun c s _ => (sameStanding_answering s c).trans ((sameStanding_setScalar _ _ _ _).trans (sameStanding_lower _ _ _)))
    (fun c s _ => sameMemory_of_memories ((memories_lower ..).trans (memories_setScalar ..))) ?_
  · rintro c s ⟨hmay, hv, hans⟩
    refine (if_neg (released_of_mayAsk hmay)).trans ((if_neg (not_demotes_of_mayAsk hmay)).trans ?_)
    simp only [hv, hans, if_true, hnw, Bool.false_eq_true, if_false]
    rfl
  · intro c s _ hgr _
    refine ⟨?_, reqs_lower ..⟩
    rw [State.doneNow, gHeld_of_sameRegisters (sameRegisters_lower ..)]
    exact gHeld_setFor hr (by rwa [seqAt_answering, State.seqAt, Option.isSome_map]) x

theorem launch_holds : Traps i h 8 (fun c s => s.released c 4 = false) fun _ => .hold := by
  unfold launchPoint at hx
  exact traps_of_issue hx fun c s hrel => if_pos (by simp [hrel])

theorem launch_demotes :
    DemotesFirst (fun _ q => q) i h 1 fun c s => s.released c 4 = true ∧ c.demotes true true = true := by
  unfold launchPoint at hx
  exact demotesFirst_of_using hx fun c s ⟨hrel, hdem⟩ => (if_neg (by simp [hrel])).trans (if_pos hdem)

end Launch

-- What grow and iv.spawn share ----------------------------------------------------------------------

section SpawnAsk

variable {c : ICtx} {h : Hdr} {kind : ReqKind} {give : State → List DWord → State} {s : State}

theorem spawnAsk_asks (hmay : MayAsk c s) (hno : NoAnswer c) :
    spawnAsk c h kind give s = .ok (s.asking c h kind (c.active h)) := by
  unfold spawnAsk
  refine (if_neg (released_of_mayAsk hmay)).trans ((if_neg (not_demotes_of_mayAsk hmay)).trans ?_)
  simp only [recorded_none hno]
  rfl

theorem spawnAsk_holds (hrel : s.released c 4 = false) : spawnAsk c h kind give s = .error .hold := if_pos (by simp [hrel])

theorem spawnAsk_demotes (hrel : s.released c 4 = true) (hdem : c.demotes true true = true) :
    spawnAsk c h kind give s = c.demoted 1 := (if_neg (by simp [hrel])).trans (if_pos hdem)

end SpawnAsk

-- grow --------------------------------------------------------------------------------------------

section Grow

variable {h : Hdr} {d : Dst} {a : Src}

/-- The count of a grow is one that R305 allows. -/
def GrowRange (a : Src) (c : ICtx) : Prop := 1 ≤ (c.scalar a).toNat ∧ (c.scalar a).toNat ≤ 65536

theorem growRange_broken_iff {c : ICtx} :
    ((c.scalar a).toNat < 1 || 65536 < (c.scalar a).toNat : Bool) = true ↔ ¬ GrowRange a c := by
  simp [GrowRange]; omega

/-- Past the checks of the grid and the count, grow is the shared part. -/
theorem grow_body {c : ICtx} {s : State} {give : State → List DWord → State} (hcoop : s.coop c.gr = false)
    (hrange : GrowRange a c) :
    (if s.coop c.gr then .error (tr cGrid)
      else if (c.scalar a).toNat < 1 || 65536 < (c.scalar a).toNat then .error (tr cValue)
      else spawnAsk c h (.grow (c.scalar a).toNat d h.nw) give s)
    = spawnAsk c h (.grow (c.scalar a).toNat d h.nw) give s :=
  (if_neg (by simp [hcoop])).trans (if_neg (mt growRange_broken_iff.1 (not_not_intro hrange)))

theorem exec_grow (s : State) : exec (.grow h d a) s = execGrow h d a s := rfl

theorem grow_asks : FallsThrough (.grow h d a) h 8
    (fun c s => (s.coop c.gr = false ∧ GrowRange a c) ∧ MayAsk c s ∧ NoAnswer c) fun c s t =>
      SameRegisters s t ∧ (false = true → t.waitOf c.ag = some (.req s.nextId)) ∧ t.reqs = s.reqs
        ++ [⟨s.nextId, c.ag, c.pc, .grow (c.scalar a).toNat d h.nw, hdrFlag h, c.active h, c.gr.versioned⟩] := by
  have hx := exec_grow (h := h) (d := d) (a := a)
  unfold execGrow at hx
  refine fallsThrough_of (fun c s => s.asking c h (.grow (c.scalar a).toNat d h.nw) (c.active h)) hx ?_
    (fun _ _ _ => .of_groups rfl) (fun _ _ _ => sameMemory_of_eq rfl rfl)
    fun _ _ _ _ _ => ⟨sameRegisters_of_groups rfl, nofun, rfl⟩
  rintro c s ⟨⟨hcoop, hrange⟩, hmay, hno⟩
  exact (grow_body hcoop hrange).trans (spawnAsk_asks hmay hno)

theorem grow_holds : Traps (.grow h d a) h 8
    (fun c s => s.coop c.gr = false ∧ GrowRange a c ∧ s.released c 4 = false) fun _ => .hold := by
  have hx := exec_grow (h := h) (d := d) (a := a)
  unfold execGrow at hx
  exact traps_of_issue hx fun c s ⟨hcoop, hrange, hrel⟩ => (grow_body hcoop hrange).trans (spawnAsk_holds hrel)

theorem grow_demotes : DemotesFirst (fun _ q => q) (.grow h d a) h 1
    fun c s => s.coop c.gr = false ∧ GrowRange a c ∧ s.released c 4 = true ∧ c.demotes true true = true := by
  have hx := exec_grow (h := h) (d := d) (a := a)
  unfold execGrow at hx
  exact demotesFirst_of_using hx fun c s ⟨hcoop, hrange, hrel, hdem⟩ =>
    (grow_body hcoop hrange).trans (spawnAsk_demotes hrel hdem)

theorem grow_cooperative : Traps (.grow h d a) h 8 (fun c s => s.coop c.gr = true) fun _ => tr cGrid := by
  have hx := exec_grow (h := h) (d := d) (a := a)
  unfold execGrow at hx
  exact traps_of_issue hx fun c s hcoop => if_pos hcoop

theorem grow_badCount : Traps (.grow h d a) h 8 (fun c s => s.coop c.gr = false ∧ ¬ GrowRange a c) fun _ => tr cValue := by
  have hx := exec_grow (h := h) (d := d) (a := a)
  unfold execGrow at hx
  exact traps_of_issue hx fun c s ⟨hcoop, hbad⟩ => (if_neg (by simp [hcoop])).trans (if_pos (growRange_broken_iff.2 hbad))

end Grow

-- iv.spawn ------------------------------------------------------------------------------------------

section Spawn

variable {h : Hdr} {d : Dst} {a : Src}

/-- The count of a lane of iv.spawn. -/
def spawnCount (a : Src) (c : ICtx) (l : Nat) : Nat := (w32 (c.words extN [(a, .w32)] 0) l).toNat

/-- The operands of iv.spawn serve, no interval instruction holds it, and the grid is not cooperative. -/
def SpawnPasses (d : Dst) (a : Src) (c : ICtx) (s : State) : Prop :=
  Served [(d, .w32)] [(a, .w32)] c ∧ s.ivHolds c = false ∧ s.coop c.gr = false

/-- A lane acts, and no acting lane asks for more than 1,024. -/
def SpawnSmall (h : Hdr) (a : Src) (c : ICtx) : Prop := c.acting h ≠ [] ∧ ∀ l ∈ c.acting h, spawnCount a c l ≤ 1024

/-- The lanes of iv.spawn with their counts. -/
def spawnCounts (h : Hdr) (a : Src) (c : ICtx) : List (Nat × Nat) := (c.acting h).map fun l => (l, spawnCount a c l)

/-- What iv.spawn does past its checks with a recorded answer. -/
def spawnGive (h : Hdr) (d : Dst) (a : Src) (c : ICtx) (s : State) (xs : List DWord) : State :=
  s.spawned c.ag (c.active h) (spawnCounts h a c) (if h.nw then none else some d) xs

/-- The part of iv.spawn past the checks of its operands and its grid. -/
def spawnBody (h : Hdr) (d : Dst) (a : Src) (c : ICtx) (s : State) : Except Stop State :=
  if (c.acting h).isEmpty then .ok (s.doneNow c h)
  else match (spawnCounts h a c).find? fun p => 1024 < p.2 with
    | some p => .error (.trap cValue none p.1)
    | none => spawnAsk c h (.spawn (spawnCounts h a c) d h.nw) (spawnGive h d a c) s

/-- iv.spawn at issue. -/
def spawnPoint (h : Hdr) (d : Dst) (a : Src) (c : ICtx) (s : State) : Except Stop State :=
  match c.opStop [(d, .w32)] [(a, .w32)] with
  | some st => .error st
  | none =>
    if s.ivHolds c then .error .hold
    else if s.coop c.gr then .error (tr cGrid)
    else spawnBody h d a c (s.operandsTaken c [(a, .w32)])

theorem exec_ivSpawn (s : State) : exec (.ivSpawn h d a) s = issueReading [(a, .w32)] h (spawnPoint h d a) s := rfl

theorem spawn_passes {c : ICtx} {s : State} (hp : SpawnPasses d a c s) :
    spawnPoint h d a c s = spawnBody h d a c (s.operandsTaken c [(a, .w32)]) := by
  obtain ⟨hserved, hfree, hcoop⟩ := hp
  rw [Served] at hserved
  simp only [spawnPoint, hserved, hfree, hcoop, Bool.false_eq_true, if_false]

theorem spawnBody_small {c : ICtx} {s : State} (hsmall : SpawnSmall h a c) :
    spawnBody h d a c s = spawnAsk c h (.spawn (spawnCounts h a c) d h.nw) (spawnGive h d a c) s := by
  obtain ⟨hact, hle⟩ := hsmall
  have hnone : (spawnCounts h a c).find? (fun p => 1024 < p.2) = none := by
    simpa [List.find?_eq_none, spawnCounts] using hle
  refine (if_neg (by simpa using hact)).trans ?_
  rw [hnone]

theorem spawnBody_large {c : ICtx} {s : State} {l : Nat} (hl : l ∈ c.acting h) (hbad : 1024 < spawnCount a c l)
    (hbelow : ∀ k ∈ c.acting h, k < l → spawnCount a c k ≤ 1024) :
    spawnBody h d a c s = .error (.trap cValue none l) := by
  obtain ⟨post, heq⟩ := exists_eq_filter_lt_append (acting_pairwise_lt c h) hl
  have hfind : (c.acting h).find? (fun l => 1024 < spawnCount a c l) = some l := by
    rw [heq, List.find?_append, List.find?_eq_none.2 fun k hk => ?_, List.find?_cons_of_pos (by simpa using hbad),
      Option.none_or]
    obtain ⟨hk, hlt⟩ := List.mem_filter.1 hk
    simpa using hbelow k hk (by simpa using hlt)
  have hpair : (spawnCounts h a c).find? (fun p => 1024 < p.2) = some (l, spawnCount a c l) := by
    rw [spawnCounts, List.find?_map]
    exact congrArg (Option.map _) hfind
  refine (if_neg (by simpa using List.ne_nil_of_mem hl)).trans ?_
  rw [hpair]

theorem mayAsk_operandsTaken {c : ICtx} {s : State} (srcs : List SrcW) (hmay : MayAsk c s) :
    MayAsk c (s.operandsTaken c srcs) :=
  ⟨(released_of_inFlight (operandsTaken_keeps s c srcs).1 c 4).trans hmay.1, hmay.2⟩

theorem ivSpawn_asks : FallsThrough (.ivSpawn h d a) h 8
    (fun c s => (SpawnPasses d a c s ∧ SpawnSmall h a c) ∧ MayAsk c s ∧ NoAnswer c) fun c s t =>
      SameRegisters s t ∧ (false = true → t.waitOf c.ag = some (.req s.nextId)) ∧ t.reqs = s.reqs
        ++ [⟨s.nextId, c.ag, c.pc, .spawn (spawnCounts h a c) d h.nw, hdrFlag h, c.active h, c.gr.versioned⟩] := by
  refine fallsThrough_of
    (fun c s => (s.operandsTaken c [(a, .w32)]).asking c h (.spawn (spawnCounts h a c) d h.nw) (c.active h))
    exec_ivSpawn ?_ (fun c s _ => (operandsTaken_keeps s c _).2.2.trans (sameStanding_asking _ c h _ _))
    (fun c s _ => sameMemory_of_memories (memories_operandsTaken s c [(a, .w32)])) fun c s _ _ _ => ?_
  · rintro c s ⟨⟨hp, hsmall⟩, hmay, hno⟩
    exact (spawn_passes hp).trans ((spawnBody_small hsmall).trans (spawnAsk_asks (mayAsk_operandsTaken _ hmay) hno))
  · obtain ⟨hflight, hregs, -⟩ := operandsTaken_keeps s c [(a, .w32)]
    obtain ⟨-, hreqs, hid, -⟩ := inFlight_eq hflight
    refine ⟨hregs.trans (sameRegisters_of_groups rfl), nofun, ?_⟩
    rw [State.asking, hreqs, hid]

theorem ivSpawn_noLane : FallsThrough (.ivSpawn h d a) h 8 (fun c s => SpawnPasses d a c s ∧ c.acting h = []) keepRegs := by
  refine fallsThrough_of (fun c s => (s.operandsTaken c [(a, .w32)]).doneNow c h) exec_ivSpawn ?_
    (fun c s _ => (operandsTaken_keeps s c _).2.2.trans (sameStanding_lower _ _ _))
    (fun c s _ => sameMemory_of_memories ((memories_lower ..).trans (memories_operandsTaken ..)))
    fun c s _ _ _ => (operandsTaken_keeps s c _).2.1.trans (sameRegisters_lower ..)
  rintro c s ⟨hp, hact⟩
  exact (spawn_passes hp).trans (if_pos (by simp [hact]))

theorem ivSpawn_holds : TrapsUsing (useReads [(a, .w32)]) (.ivSpawn h d a) h 8
    (fun c s => SpawnPasses d a c s ∧ SpawnSmall h a c ∧ s.released c 4 = false) fun _ => .hold :=
  trapsUsing_of exec_ivSpawn fun c s ⟨hp, hsmall, hrel⟩ => (spawn_passes hp).trans ((spawnBody_small hsmall).trans
    (spawnAsk_holds ((released_of_inFlight (operandsTaken_keeps s c _).1 c 4).trans hrel)))

theorem ivSpawn_demotes : DemotesFirst (useReads [(a, .w32)]) (.ivSpawn h d a) h 1 fun c s =>
    SpawnPasses d a c s ∧ SpawnSmall h a c ∧ s.released c 4 = true ∧ c.demotes true true = true :=
  demotesFirst_of_using exec_ivSpawn fun c s ⟨hp, hsmall, hrel, hdem⟩ => (spawn_passes hp).trans
    ((spawnBody_small hsmall).trans
      (spawnAsk_demotes ((released_of_inFlight (operandsTaken_keeps s c _).1 c 4).trans hrel) hdem))

theorem ivSpawn_heldByInterval : TrapsUsing (useReads [(a, .w32)]) (.ivSpawn h d a) h 8
    (fun c s => Served [(d, .w32)] [(a, .w32)] c ∧ s.ivHolds c = true) fun _ => .hold := by
  refine trapsUsing_of exec_ivSpawn fun c s ⟨hserved, hheld⟩ => ?_
  rw [Served] at hserved
  simp only [spawnPoint, hserved, hheld, if_true]

theorem ivSpawn_cooperative : TrapsUsing (useReads [(a, .w32)]) (.ivSpawn h d a) h 8
    (fun c s => Served [(d, .w32)] [(a, .w32)] c ∧ s.ivHolds c = false ∧ s.coop c.gr = true) fun _ => tr cGrid := by
  refine trapsUsing_of exec_ivSpawn fun c s ⟨hserved, hfree, hcoop⟩ => ?_
  rw [Served] at hserved
  simp only [spawnPoint, hserved, hfree, hcoop, Bool.false_eq_true, if_false, if_true]

theorem ivSpawn_badCount (l : Nat) : TrapsUsing (useReads [(a, .w32)]) (.ivSpawn h d a) h 8
    (fun c s => SpawnPasses d a c s ∧ l ∈ c.acting h ∧ 1024 < spawnCount a c l
      ∧ ∀ k ∈ c.acting h, k < l → spawnCount a c k ≤ 1024) fun _ => .trap cValue none l :=
  trapsUsing_of exec_ivSpawn fun _ _ ⟨hp, hl, hbad, hbelow⟩ =>
    (spawn_passes hp).trans (spawnBody_large hl hbad hbelow)

end Spawn

end Sys2Proof.Machine
end

section
/-!
O46. LAUNCH_ANSWER, and what a launch does with its record (13 R301, R304).
-/

namespace Sys2Proof.Machine

-- An answer ------------------------------------------------------------------------------------------

theorem inside_setFor (s : State) (ag : Agent) (d : Dst) (x : DWord) : Inside s (s.setFor ag d x) := by
  unfold State.setFor
  split <;> rfl

theorem inside_block (s : State) (ag : Agent) (b : Blk) : Inside s (s.block ag b) := by cases ag <;> rfl

theorem inside_lower (s : State) (ag : Agent) (fl : Option Nat) : Inside s (s.lower ag fl) := by
  cases fl <;> cases ag <;> rfl

theorem inside_recorded (s : State) (r : Req) (xs : List DWord) : Inside s (s.recorded r xs) := by
  unfold State.recorded
  split <;> rfl

/-- The state in which a request is no longer open. -/
def State.closed (s : State) (id : Nat) : State := { s with reqs := s.reqs.filter fun y => y.id != id }

theorem mem_closed {s : State} {id : Nat} {y : Req} (hy : y ∈ (s.closed id).reqs) : y.id ≠ id := by
  simpa using (List.mem_filter.1 hy).2

/-- An answer closes its request, and but for groups and cores nothing else differs. -/
theorem inside_answered (s : State) (r : Req) (d : Option Dst) (x : DWord) : Inside (s.closed r.id) (s.answered r d x) := by
  unfold State.answered
  refine Inside.trans ?_ ((inside_block ..).trans (inside_lower ..))
  cases d with
  | none => exact .refl _
  | some e => exact inside_setFor (s.closed r.id) r.ag e x

theorem reqs_of_inside {s t : State} (h : Inside s t) : t.reqs = s.reqs := by rw [h]
theorem grids_of_inside {s t : State} (h : Inside s t) : t.grids = s.grids := by rw [h]

theorem seqAt_recorded (s : State) (r : Req) (xs : List DWord) (g : Nat) : (s.recorded r xs).seqAt g = s.seqAt g := by
  unfold State.recorded
  split
  · exact State.seqAt_modGrp _ _ _ _ fun _ => rfl
  · rfl

theorem waveAt_recorded (s : State) (r : Req) (xs : List DWord) (g w : Nat) :
    (s.recorded r xs).waveAt g w = s.waveAt g w := by
  unfold State.recorded
  split
  · exact State.waveAt_modGrp _ _ _ _ _ fun _ => rfl
  · rfl

/-- A launch is answered with an identifier and a code (13 R304). -/
def State.launchAnswered (s : State) (r : Req) (e : Dst) (nw : Bool) (grid code : Nat) : State :=
  let x : DWord := BitVec.ofNat 64 (grid * 2 ^ 32 + code)
  (s.recorded r [x]).answered r (if nw then none else some e) x

/-- What the answer of a launch leaves: its sequencer goes on, with the identifier and the code in its register. -/
def LaunchGets (r : Req) (g : Nat) (e : Dst) (nw : Bool) (u t : State) (grid code : Nat) : Prop :=
  SameMemory u t ∧ (∀ b, t.waitOf r.ag = some b → b = .none) ∧ (∀ y ∈ t.reqs, y.id ≠ r.id) ∧ t.grids = u.grids
    ∧ ∀ k, e = .g k → k < 64 → nw = false → (u.seqAt g).isSome = true →
        t.gHeld g k = BitVec.ofNat 64 (grid * 2 ^ 32 + code)

theorem launchAnswered_gets (s : State) {r : Req} {g : Nat} (hag : r.ag = .seq g) (e : Dst) (nw : Bool) (grid code : Nat) :
    LaunchGets r g e nw s (s.launchAnswered r e nw grid code) grid code := by
  have hin := inside_answered (s.recorded r [BitVec.ofNat 64 (grid * 2 ^ 32 + code)]) r (if nw then none else some e)
    (BitVec.ofNat 64 (grid * 2 ^ 32 + code))
  refine ⟨sameMemory_of_memories ((memories_answered ..).trans (memories_recorded ..)), fun b => waitOf_answered _ _ _ _,
    fun y hy => ?_, (grids_of_inside hin).trans (grids_of_inside (s := s) (inside_recorded ..) :), ?_⟩
  · rw [State.launchAnswered, reqs_of_inside hin] at hy
    exact mem_closed hy
  · rintro k rfl hk rfl hq
    refine (gHeld_of_sameRegisters (sameRegisters_answered ..) g k).trans ?_
    rw [hag]
    exact gHeld_setFor hk (by rwa [← seqAt_recorded s r [BitVec.ofNat 64 (grid * 2 ^ 32 + code)]] at hq) _

-- The sequencer parks at its launch -------------------------------------------------------------------

theorem reqs_send (s : State) (r : FRec) : (s.send r).reqs = s.reqs :=
  show (s.send r).besideRecords.reqs = s.besideRecords.reqs by rw [State.send, besideRecords_sendTo]

theorem seqAt_send (s : State) (r : FRec) (g : Nat) : (s.send r).seqAt g = s.seqAt g := by
  rw [State.seqAt, grp_send, State.seqAt]

/-- A sequencer that parks at an instruction stands there, parked on the page. -/
theorem parkAt_seq {s : State} {g : Nat} (hg : (s.grp g).isSome = true) (pc va aux : Nat) (fl : Option Nat) :
    (s.parkAt (.seq g) pc va aux fl).reqs = s.reqs
      ∧ ∃ q, (s.parkAt (.seq g) pc va aux fl).seqAt g = some q ∧ q.pc = pc ∧ q.parked = some va := by
  obtain ⟨gr, hgr⟩ := Option.isSome_iff_exists.1 hg
  have hback : ∃ q, (s.backTo (.seq g) pc fl).seqAt g = some q ∧ q.pc = pc := by
    have hlow : ∃ q, ((s.block (.seq g) .none).lower (.seq g) fl).seqAt g = some q := by
      have hq : s.seqAt g = some gr.seq := by rw [State.seqAt, hgr]; rfl
      cases fl <;> simp [State.block, State.lower, State.seqAt_modSeq, hq]
    obtain ⟨q, hq⟩ := hlow
    exact ⟨{ q with pc := pc }, by simp [State.backTo, State.seqAt_modSeq, hq], rfl⟩
  have hreqs : (s.backTo (.seq g) pc fl).reqs = s.reqs := by cases fl <;> rfl
  obtain ⟨q, hq, hpc⟩ := hback
  unfold State.parkAt
  dsimp only
  split
  · exact ⟨(reqs_send ..).trans hreqs, { q with parked := some va, parkAux := aux },
      by rw [State.seqAt_modSeq, if_pos rfl, seqAt_send, hq]; rfl, hpc, rfl⟩
  · exact ⟨hreqs, { q with parked := some va, parkAux := aux }, by rw [State.seqAt_modSeq, if_pos rfl, hq]; rfl, hpc, rfl⟩

-- LAUNCH_ANSWER -----------------------------------------------------------------------------------------

section LaunchAnswer

variable {s u : State} {id va g : Nat} {r : Req} {isRec : Bool} {e : Dst} {nw : Bool} {gr : Group}
  (hr : s.reqs.find? (fun r => r.id == id) = some r) (hk : r.kind = .launch va isRec e nw) (hag : r.ag = .seq g)
  (hg : s.grp g = some gr)
include hr hk hag hg

theorem launchAnswer_misaligned (hva : va % 64 ≠ 0) :
    exec (.launchAnswer id) s = .next (s.launchAnswered r e nw 0 1) := by
  have hx : exec (.launchAnswer id) s = execLaunchAnswer id s := rfl
  simp only [execLaunchAnswer, hr, hk, hag, agPlace, hg] at hx
  exact hx.trans (if_pos (by simpa using hva))

theorem launchAnswer_unreadable {f : Nat × Nat} (hva : va % 64 = 0) (hread : s.devRead gr.ctx va 128 = (u, .error f))
    (hf : f.1 ≠ cNotPresent) : exec (.launchAnswer id) s = .next (u.launchAnswered r e nw 0 1) := by
  have hx : exec (.launchAnswer id) s = execLaunchAnswer id s := rfl
  simp only [execLaunchAnswer, hr, hk, hag, agPlace, hg, hread, if_neg hf] at hx
  exact hx.trans (if_neg (by simpa using hva))

theorem launchAnswer_parks {f : Nat} (hva : va % 64 = 0) (hread : s.devRead gr.ctx va 128 = (u, .error (cNotPresent, f))) :
    exec (.launchAnswer id) s = .next (if r.direct then
      ((u.closed id).parkAt r.ag r.pc f 0 r.flag).modSeq g fun q => { q with fresh := true }
      else (u.closed id).parkAt r.ag r.pc f 0 r.flag) := by
  have hx : exec (.launchAnswer id) s = execLaunchAnswer id s := rfl
  simp only [execLaunchAnswer, hr, hk, hag, agPlace, hg, hread, if_true] at hx
  rw [hag]
  exact hx.trans (if_neg (by simpa using hva))

theorem launchAnswer_launches {bs : List Byte} (hva : va % 64 = 0) (hread : s.devRead gr.ctx va 128 = (u, .ok bs)) :
    let l := u.launchFrom gr.ctx (if isRec then .launchRec else .launch) bs
    exec (.launchAnswer id) s = .next (l.1.launchAnswered r e nw l.2.1 l.2.2) := by
  have hx : exec (.launchAnswer id) s = execLaunchAnswer id s := rfl
  simp only [execLaunchAnswer, hr, hk, hag, agPlace, hg, hread] at hx
  exact hx.trans (if_neg (by simpa using hva))

end LaunchAnswer

-- What a launch does with its record -------------------------------------------------------------------

/-- The grid that a launch makes. -/
def launchGrid (s : State) (ctx : Nat) (cx : Ctx) (bs : List Byte) (hs : List Nat) (ko : KObj) : Grid :=
  newGrid cx.nextGrid ctx (launchRecord bs hs) ko ((launchRecord bs hs).mask &&& s.pkg.livec) (bit cx.duty 0) s.clk

section LaunchFrom

variable {s u : State} {ctx : Nat} {m : LaunchBy} {bs : List Byte} {cx : Ctx}

theorem launchFrom_noHandles (hcx : s.context ctx = some cx) (hh : s.handleList ctx bs = (u, none)) :
    s.launchFrom ctx m bs = (u, 0, 1) := by simp only [State.launchFrom, hh, hcx]

variable {hs : List Nat} (hcx : s.context ctx = some cx) (hh : s.handleList ctx bs = (u, some hs))
include hcx hh

theorem launchFrom_limits (hbad : ¬ launchLimits bs = true) : s.launchFrom ctx m bs = (u, 0, 2) := by
  simp only [State.launchFrom, hh, hcx, hbad, Bool.not_false, if_true]

variable (hlim : launchLimits bs = true)
include hlim

theorem launchFrom_noDie (hmask : (launchRecord bs hs).mask &&& s.pkg.livec = 0) : s.launchFrom ctx m bs = (u, 0, 3) := by
  simp only [State.launchFrom, hh, hcx, hlim, hmask, Bool.not_true, Bool.false_eq_true, if_false, if_true]

variable (hmask : (launchRecord bs hs).mask &&& s.pkg.livec ≠ 0) {v : State}
include hmask

theorem launchFrom_noKernel (hv : u.loadKernel ctx (launchRecord bs hs).kernel = (v, none)) :
    s.launchFrom ctx m bs = (v, 0, 4) := by
  simp only [State.launchFrom, hh, hcx, hlim, hv, Bool.not_true, Bool.false_eq_true, if_false, if_neg hmask]

variable {ko : KObj} (hv : u.loadKernel ctx (launchRecord bs hs).kernel = (v, some ko))
include hv

/-- Once the kernel is loaded, the checks of REC, of the cooperative grid and of the place for one more grid follow. -/
theorem launchFrom_kernel : s.launchFrom ctx m bs
    = if m.wrongRec (launchRecord bs hs).isRec then (v, 0, 5)
      else if (launchRecord bs hs).coop && v.coopRefused (launchGrid s ctx cx bs hs ko) then (v, 0, 6)
      else if 1024 ≤ v.grids.length then (v, 0, 7)
      else ({ v with
        grids := v.grids ++ [launchGrid s ctx cx bs hs ko]
        ctxs := SMap.mod ctx (fun c => { c with nextGrid := c.nextGrid + 1 }) v.ctxs }, cx.nextGrid, 0) := by
  simp only [State.launchFrom, hh, hcx, hlim, hv, Bool.not_true, Bool.false_eq_true, if_false, if_neg hmask]
  rfl

theorem launchFrom_wrongRec (hrec : m.wrongRec (launchRecord bs hs).isRec = true) : s.launchFrom ctx m bs = (v, 0, 5) :=
  (launchFrom_kernel hcx hh hlim hmask hv).trans (if_pos hrec)

variable (hrec : m.wrongRec (launchRecord bs hs).isRec = false)
include hrec

theorem launchFrom_coopRefused (hcoop : (launchRecord bs hs).coop = true)
    (href : v.coopRefused (launchGrid s ctx cx bs hs ko) = true) : s.launchFrom ctx m bs = (v, 0, 6) :=
  (launchFrom_kernel hcx hh hlim hmask hv).trans ((if_neg (by simp [hrec])).trans (if_pos (by simp [hcoop, href])))

variable (hcoop : (launchRecord bs hs).coop = true → v.coopRefused (launchGrid s ctx cx bs hs ko) = false)
include hcoop

theorem launchFrom_full (hfull : 1024 ≤ v.grids.length) : s.launchFrom ctx m bs = (v, 0, 7) :=
  (launchFrom_kernel hcx hh hlim hmask hv).trans
    ((if_neg (by simp [hrec])).trans ((if_neg (by simpa using hcoop)).trans (if_pos hfull)))

theorem launchFrom_launches (hroom : v.grids.length < 1024) : s.launchFrom ctx m bs
    = ({ v with
          grids := v.grids ++ [launchGrid s ctx cx bs hs ko]
          ctxs := SMap.mod ctx (fun c => { c with nextGrid := c.nextGrid + 1 }) v.ctxs }, cx.nextGrid, 0) :=
  (launchFrom_kernel hcx hh hlim hmask hv).trans
    ((if_neg (by simp [hrec])).trans ((if_neg (by simpa using hcoop)).trans (if_neg (Nat.not_le.2 hroom))))

end LaunchFrom

end Sys2Proof.Machine
end

section
/-!
O46. SPAWN_COMPLETE (13 R305; 09 R233, R234).
-/

namespace Sys2Proof.Machine

-- The dispatcher's part --------------------------------------------------------------------------------

/-- The answer of a growth by n of a grid: whether it is refused, and the first new index. -/
def Grid.growAnswer (x : Grid) (n : Nat) : List DWord :=
  [if x.lrec.limit < x.count + n then 1 else 0, BitVec.ofNat 64 x.count]

/-- A growth of a grid by n is answered: the group count rises where the limit allows it. -/
def State.growthTold (s : State) (id : Nat) (r : Req) (x : Grid) (n : Nat) : State :=
  (if x.lrec.limit < x.count + n then s.closed id
    else (s.closed id).modGrid x.id x.ctx fun y => { y with count := y.count + n }).recorded r (x.growAnswer n)

theorem refused_growAnswer (x : Grid) (n : Nat) :
    ((x.growAnswer n).getD 0 0 != 0) = decide (x.lrec.limit < x.count + n) := by
  unfold Grid.growAnswer
  split <;> simp_all

theorem growWord_growAnswer (x : Grid) (n : Nat) : growWord (x.growAnswer n)
    = if x.lrec.limit < x.count + n then BitVec.allOnes 64 else BitVec.ofNat 64 x.count := by
  rw [growWord, refused_growAnswer]
  exact if_congr decide_eq_true_iff rfl rfl

section Told

variable (s : State) (id : Nat) (r : Req) (x : Grid) (n : Nat)

theorem memories_growthTold : (s.growthTold id r x n).memories = s.memories := by
  unfold State.growthTold
  rw [memories_recorded]
  split <;> rfl

theorem reqs_growthTold : (s.growthTold id r x n).reqs = (s.closed id).reqs := by
  unfold State.growthTold
  rw [reqs_of_inside (inside_recorded ..)]
  split <;> rfl

theorem seqAt_growthTold (g : Nat) : (s.growthTold id r x n).seqAt g = s.seqAt g := by
  unfold State.growthTold
  rw [seqAt_recorded]
  split <;> rfl

theorem waveAt_growthTold (g w : Nat) : (s.growthTold id r x n).waveAt g w = s.waveAt g w := by
  unfold State.growthTold
  rw [waveAt_recorded]
  split <;> rfl

theorem gridOf_of_grids {s t : State} (h : t.grids = s.grids) (key : Nat) : t.gridOf key = s.gridOf key := by
  rw [State.gridOf, State.gridOf, State.grid, State.grid, h]

variable {s x} in
/-- The group count rises by n within the limit, and stays beyond it. -/
theorem count_growthTold {key : Nat} (hx : s.gridOf key = some x) :
    ((s.growthTold id r x n).gridOf key).map Grid.count
      = some (if x.lrec.limit < x.count + n then x.count else x.count + n) := by
  have hkey := List.find?_some (p := fun y : Grid => y.id == key % 2 ^ 32 && y.ctx == key / 2 ^ 32) hx
  obtain ⟨hid, hctx⟩ : x.id = key % 2 ^ 32 ∧ x.ctx = key / 2 ^ 32 := by simpa using hkey
  unfold State.growthTold
  rw [gridOf_of_grids (grids_of_inside (inside_recorded ..))]
  split
  · rw [show (s.closed id).gridOf key = s.gridOf key from rfl, hx]
    rfl
  · rw [State.gridOf, ← hid, ← hctx,
      grid_modGrid (f := fun y => { y with count := y.count + n }) _ _ _ fun _ => ⟨rfl, rfl⟩, hid, hctx]
    rw [show (s.closed id).grid (key % 2 ^ 32) (key / 2 ^ 32) = some x from hx]
    rfl

end Told

-- The lanes of a spawn ---------------------------------------------------------------------------------

theorem inside_putLane (s : State) (ag : Agent) (d : Dst) (mask : BitVec 32) (lane size : Nat) (x : BitVec 128) :
    Inside s (s.putLane ag d mask lane size x) := by
  unfold State.putLane
  split
  · rfl
  · split <;> rfl
  · rfl
  · rfl

theorem ivst_modWave (s : State) (g w : Nat) {f : Wave → Wave} (hf : ∀ wv, (f wv).ivst = wv.ivst) (g' w' : Nat) :
    ((s.modWave g w f).waveAt g' w').map Wave.ivst = (s.waveAt g' w').map Wave.ivst := by
  rw [State.waveAt_modWave]
  split
  next h => rw [h.1, h.2]; cases s.waveAt g w <;> simp [hf]
  · rfl

theorem ivst_putLane (s : State) (ag : Agent) (d : Dst) (mask : BitVec 32) (lane size : Nat) (x : BitVec 128) (g w : Nat) :
    ((s.putLane ag d mask lane size x).waveAt g w).map Wave.ivst = (s.waveAt g w).map Wave.ivst := by
  unfold State.putLane
  split
  · refine ivst_modWave _ _ _ (fun wv => ?_) g w
    refine foldl_rel (R := fun x y : Wave => y.ivst = x.ivst) (fun _ => rfl) (fun _ _ _ h k => k.trans h) _
      (fun _ _ => ?_) _ wv
    rfl
  · split
    · refine ivst_modWave _ _ _ (fun _ => ?_) g w
      rfl
    · rfl
  · rw [State.waveAt_modSeq]
  · rfl

theorem ivst_lower (s : State) (ag : Agent) (fl : Option Nat) (g w : Nat) :
    ((s.lower ag fl).waveAt g w).map Wave.ivst = (s.waveAt g w).map Wave.ivst := by
  cases fl with
  | none => rfl
  | some k =>
    cases ag with
    | split g' w' sp =>
      refine ivst_modWave _ _ _ (fun _ => ?_) g w
      rfl
    | seq g' => simp [State.lower]

/-- The refusal of a spawn is seen in the status of its wave (09 R234). -/
def State.spawnRefused (s : State) (ag : Agent) : State :=
  match ag with
  | .split g w _ => s.modWave g w fun wv => { wv with ivst := wv.ivst ||| 0x20 }
  | .seq _ => s

/-- The value that a lane of a spawn is given: all ones, or its first index. -/
def spawnWord (refused : Bool) (k : Nat) : BitVec 128 := if refused then 0xffffffff else BitVec.ofNat 128 (k % 2 ^ 32)

theorem spawned_eq (s : State) (ag : Agent) (mask : BitVec 32) (counts : List (Nat × Nat)) (dst : Option Dst)
    (xs : List DWord) : s.spawned ag mask counts dst xs
      = let u := if xs.getD 0 0 != 0 then s.spawnRefused ag else s
        match dst with
        | none => u
        | some d => (spawnLanes (xs.getD 1 0).toNat counts).foldl
            (fun (t : State) p => t.putLane ag d mask p.1 4 (spawnWord (xs.getD 0 0 != 0) p.2)) u := by
  unfold State.spawned
  cases hx : (xs.getD 0 0 != 0) <;> cases ag <;> rfl

theorem inside_spawned (s : State) (ag : Agent) (mask : BitVec 32) (counts : List (Nat × Nat)) (dst : Option Dst)
    (xs : List DWord) : Inside s (s.spawned ag mask counts dst xs) := by
  have hu : Inside s (if xs.getD 0 0 != 0 then s.spawnRefused ag else s) := by
    split
    · cases ag <;> rfl
    · rfl
  rw [spawned_eq]
  cases dst with
  | none => exact hu
  | some d => exact hu.trans (foldl_rel Inside.refl (fun _ _ _ => Inside.trans) _ (fun _ _ => inside_putLane ..) _ _)

theorem ivst_spawned (s : State) (g w sp : Nat) (mask : BitVec 32) (counts : List (Nat × Nat)) (dst : Option Dst)
    (xs : List DWord) : ((s.spawned (.split g w sp) mask counts dst xs).waveAt g w).map Wave.ivst
      = (s.waveAt g w).map fun wv => if xs.getD 0 0 != 0 then wv.ivst ||| 0x20 else wv.ivst := by
  have hu : ((if xs.getD 0 0 != 0 then s.spawnRefused (.split g w sp) else s).waveAt g w).map Wave.ivst
      = (s.waveAt g w).map fun wv => if xs.getD 0 0 != 0 then wv.ivst ||| 0x20 else wv.ivst := by
    cases xs.getD 0 0 != 0 with
    | false => rfl
    | true =>
      simp only [if_true, State.spawnRefused, State.waveAt_modWave, and_self, Option.map_map]
      rfl
  rw [spawned_eq, ← hu]
  cases dst with
  | none => rfl
  | some d =>
    exact foldl_rel (R := fun s t : State => (t.waveAt g w).map Wave.ivst = (s.waveAt g w).map Wave.ivst) (fun _ => rfl)
      (fun _ _ _ h k => k.trans h) _ (fun _ _ => ivst_putLane ..) _ _

theorem map_fst_spawnLanes (base : Nat) (counts : List (Nat × Nat)) :
    (spawnLanes base counts).map Prod.fst = counts.map Prod.fst := by
  induction counts generalizing base with
  | nil => rfl
  | cons p t ih => simp [spawnLanes, ih]

theorem spawnLanes_append (base : Nat) (pre post : List (Nat × Nat)) :
    spawnLanes base (pre ++ post) = spawnLanes base pre ++ spawnLanes (base + (pre.map Prod.snd).sum) post := by
  induction pre generalizing base with
  | nil => rfl
  | cons p t ih => simp [spawnLanes, ih, Nat.add_assoc]

section Lanes

variable {s : State} {g w n : Nat} (f : Nat → Word)

/-- Words are written in the lanes of a V register, one after the other. -/
def State.setLanes (s : State) (g w n : Nat) (f : Nat → Word) (ps : List (Nat × Nat)) : State :=
  ps.foldl (fun s p => s.modWave g w (Wave.setLane n p.1 (f p.2))) s

theorem isSome_waveAt_setLanes (hw : (s.waveAt g w).isSome = true) (ps : List (Nat × Nat)) :
    ((s.setLanes g w n f ps).waveAt g w).isSome = true := by
  induction ps generalizing s with
  | nil => exact hw
  | cons p t ih => exact ih (isSome_waveAt_setLane hw ..)

theorem vHeld_setLanes_other (hw : (s.waveAt g w).isSome = true) {l : Nat} (hl : l < 32) {ps : List (Nat × Nat)}
    (hother : ∀ p ∈ ps, p.1 ≠ l) (r : Nat) : (s.setLanes g w n f ps).vHeld g w r l = s.vHeld g w r l := by
  induction ps generalizing s with
  | nil => rfl
  | cons p t ih =>
    refine (ih (isSome_waveAt_setLane hw ..) fun q hq => hother q (by simp [hq])).trans ?_
    rw [vHeld_setLane hw _ _ _ _ hl]
    exact if_neg fun h => hother p (by simp) h.2.symm

theorem vHeld_setLanes (hw : (s.waveAt g w).isSome = true) {l k : Nat} (hl : l < 32) (pre : List (Nat × Nat))
    {post : List (Nat × Nat)} (hpost : ∀ p ∈ post, p.1 ≠ l) :
    (s.setLanes g w n f (pre ++ (l, k) :: post)).vHeld g w n l = f k := by
  have hpre := isSome_waveAt_setLanes (n := n) f hw pre
  rw [State.setLanes, List.foldl_append, List.foldl_cons]
  exact (vHeld_setLanes_other f (isSome_waveAt_setLane hpre ..) hl hpost n).trans
    ((vHeld_setLane hpre _ _ _ _ hl).trans (if_pos ⟨rfl, rfl⟩))

end Lanes

theorem extract_spawnWord (refused : Bool) (k : Nat) :
    (spawnWord refused k).extractLsb' 0 32 = if refused then 0xffffffff else BitVec.ofNat 32 k := by
  cases refused with
  | true => rfl
  | false =>
    apply BitVec.eq_of_toNat_eq
    simp [spawnWord]

/-- The first index of a lane of a spawn is the base and the counts of the lanes below it (09 R233). -/
theorem vHeld_spawned {s : State} {g w n l m : Nat} (sp : Nat) (hw : (s.waveAt g w).isSome = true) (mask : BitVec 32)
    {pre post : List (Nat × Nat)} (hrising : (pre ++ (l, m) :: post).Pairwise fun y z => y.1 < z.1) (hl : l < 32)
    (xs : List DWord) : (s.spawned (.split g w sp) mask (pre ++ (l, m) :: post) (some (.v n)) xs).vHeld g w n l
      = if xs.getD 0 0 != 0 then 0xffffffff
        else BitVec.ofNat 32 ((xs.getD 1 0).toNat + (pre.map Prod.snd).sum) := by
  obtain ⟨-, htail, -⟩ := List.pairwise_append.1 hrising
  have hpost (b : Nat) : ∀ p ∈ spawnLanes b post, p.1 ≠ l := by
    intro p hp
    have hmem : p.1 ∈ post.map Prod.fst := map_fst_spawnLanes b post ▸ List.mem_map_of_mem hp
    obtain ⟨q, hq, heq⟩ := List.mem_map.1 hmem
    have hlt := (List.pairwise_cons.1 htail).1 q hq
    dsimp only at hlt
    omega
  have hu : ((if xs.getD 0 0 != 0 then s.spawnRefused (.split g w sp) else s).waveAt g w).isSome = true := by
    split
    · simpa [State.spawnRefused, State.waveAt_modWave] using hw
    · exact hw
  rw [spawned_eq, spawnLanes_append, spawnLanes, ← extract_spawnWord]
  simp only [putLane_word]
  exact vHeld_setLanes (fun k => (spawnWord (xs.getD 0 0 != 0) k).extractLsb' 0 32) hu hl _ (hpost _)

-- SPAWN_COMPLETE ---------------------------------------------------------------------------------------

section SpawnComplete

variable {s : State} {id : Nat} {r : Req} {gr : Group} {x : Grid}
  (hr : s.reqs.find? (fun r => r.id == id) = some r) (hg : s.grp (agPlace r.ag) = some gr)
  (hx : s.gridOf (gridKey gr.ctx gr.grid) = some x)
include hr hg hx

theorem spawnComplete_grow {n : Nat} {e : Dst} {nw : Bool} (hk : r.kind = .grow n e nw) :
    let u := s.growthTold id r x n
    exec (.spawnComplete id) s
      = .next ((if nw then u else u.setFor r.ag e (growWord (x.growAnswer n))).lower r.ag r.flag) := by
  show execSpawnComplete id s = _
  simp only [execSpawnComplete, hr, hg, Option.bind_some, hx, hk]
  rfl

theorem spawnComplete_spawn {counts : List (Nat × Nat)} {e : Dst} {nw : Bool} (hk : r.kind = .spawn counts e nw) :
    let n := (counts.map Prod.snd).sum
    exec (.spawnComplete id) s = .next (((s.growthTold id r x n).spawned r.ag r.mask counts (if nw then none else some e)
      (x.growAnswer n)).lower r.ag r.flag) := by
  have hsum : (counts.map Prod.snd).sum = counts.foldl (fun m p => m + p.2) 0 := by
    rw [List.sum_eq_foldl, List.foldl_map]
  show execSpawnComplete id s = _
  simp only [execSpawnComplete, hr, hg, Option.bind_some, hx, hk, hsum]
  rfl

end SpawnComplete

/-- What the growth of a grid by n leaves, seen past the groups: memory, one request fewer, and the group count. -/
def GrowthDone (s : State) (id key : Nat) (x : Grid) (n : Nat) (t : State) : Prop :=
  SameMemory s t ∧ (∀ y ∈ t.reqs, y.id ≠ id)
    ∧ (t.gridOf key).map Grid.count = some (if x.lrec.limit < x.count + n then x.count else x.count + n)

theorem growthDone_of_inside {s : State} {key : Nat} {x : Grid} (hx : s.gridOf key = some x) (id : Nat) (r : Req) (n : Nat)
    {t : State} (hin : Inside (s.growthTold id r x n) t) : GrowthDone s id key x n t :=
  ⟨sameMemory_of_memories ((memories_of_inside hin).trans (memories_growthTold ..)),
    fun y hy => by rw [reqs_of_inside hin, reqs_growthTold] at hy; exact mem_closed hy,
    by rw [gridOf_of_grids (grids_of_inside hin), count_growthTold id r n hx]⟩

end Sys2Proof.Machine
end

section
/-!
O46. What a growth leaves behind, and the obligation.
-/

namespace Sys2Proof.Machine

section GrowthLeaves

variable {s : State} {r : Req} {x : Grid}

/-- The sequencer is given the first new index, or all ones (13 R305). -/
theorem gHeld_grow {g k : Nat} (hag : r.ag = .seq g) (hq : (s.seqAt g).isSome = true) (hk : k < 64) (id n : Nat) :
    ((((s.growthTold id r x n).setFor r.ag (.g k) (growWord (x.growAnswer n))).lower r.ag r.flag).gHeld g k)
      = if x.lrec.limit < x.count + n then BitVec.allOnes 64 else BitVec.ofNat 64 x.count := by
  rw [gHeld_of_sameRegisters (sameRegisters_lower ..), hag, gHeld_setFor hk (by rwa [seqAt_growthTold]),
    growWord_growAnswer]

theorem first_growAnswer (hx : x.count < 2 ^ 64) (n : Nat) : ((x.growAnswer n).getD 1 0).toNat = x.count :=
  Nat.mod_eq_of_lt hx

theorem if_refused_growAnswer {α : Type} (x : Grid) (n : Nat) (y z : α) :
    (if (x.growAnswer n).getD 0 0 != 0 then y else z) = if x.lrec.limit < x.count + n then y else z := by
  rw [refused_growAnswer]
  exact if_congr decide_eq_true_iff rfl rfl

/-- A lane of a spawn is given its first index, or all ones (09 R233). -/
theorem vHeld_spawn {g w sp k l m : Nat} (hag : r.ag = .split g w sp) (hw : (s.waveAt g w).isSome = true)
    {pre post : List (Nat × Nat)} (hrising : (pre ++ (l, m) :: post).Pairwise fun y z => y.1 < z.1) (hl : l < 32)
    (hx : x.count < 2 ^ 64) (id n : Nat) :
    (((s.growthTold id r x n).spawned r.ag r.mask (pre ++ (l, m) :: post) (some (.v k)) (x.growAnswer n)).lower
        r.ag r.flag).vHeld g w k l
      = if x.lrec.limit < x.count + n then 0xffffffff else BitVec.ofNat 32 (x.count + (pre.map Prod.snd).sum) := by
  rw [vHeld_of_sameRegisters (sameRegisters_lower ..), hag, vHeld_spawned sp (by rwa [waveAt_growthTold]) _ hrising hl,
    if_refused_growAnswer, first_growAnswer hx]

/-- A spawn that is refused sets SPAWNF (09 R234). -/
theorem ivst_spawn {g w sp : Nat} (hag : r.ag = .split g w sp) (counts : List (Nat × Nat)) (dst : Option Dst) (id n : Nat) :
    (((s.growthTold id r x n).spawned r.ag r.mask counts dst (x.growAnswer n)).lower r.ag r.flag |>.waveAt g w).map Wave.ivst
      = (s.waveAt g w).map fun wv => if x.lrec.limit < x.count + n then wv.ivst ||| 0x20 else wv.ivst := by
  rw [ivst_lower, hag, ivst_spawned, waveAt_growthTold]
  simp only [if_refused_growAnswer]

theorem inside_setUnless (s : State) (nw : Bool) (ag : Agent) (e : Dst) (w : DWord) :
    Inside s (if nw then s else s.setFor ag e w) := by
  split
  · rfl
  · exact inside_setFor ..

end GrowthLeaves

/-- What the dispatcher parks a launch at leaves: no open request, and its sequencer at the launch, parked on the page. -/
theorem launchParked {u : State} {g : Nat} (hg : (u.grp g).isSome = true) (id pc f : Nat) (fl : Option Nat) (direct : Bool) :
    let p := (u.closed id).parkAt (.seq g) pc f 0 fl
    let t := if direct then p.modSeq g fun q => { q with fresh := true } else p
    t.pcOf (.seq g) = some pc ∧ (∀ y ∈ t.reqs, y.id ≠ id) ∧ (t.seqAt g).map Seq.parked = some (some f) := by
  obtain ⟨hreqs, q, hq, hpc, hparked⟩ := parkAt_seq (s := u.closed id) hg pc f 0 fl
  have hclosed : ∀ y ∈ ((u.closed id).parkAt (.seq g) pc f 0 fl).reqs, y.id ≠ id := by
    intro y hy
    rw [hreqs] at hy
    exact mem_closed hy
  cases direct with
  | false => exact ⟨by simp [State.pcOf, hq, hpc], hclosed, by simp [hq, hparked]⟩
  | true =>
    exact ⟨by simp [State.pcOf, State.seqAt_modSeq, hq, hpc], hclosed, by simp [State.seqAt_modSeq, hq, hparked]⟩

/-- Settles O46, clause by clause: the four instructions at issue, then LAUNCH_ANSWER, the record of a launch and
SPAWN_COMPLETE, each by the equation of its case. -/
theorem launchesAndGrowth : Obligations.LaunchesAndGrowth := by
  unfold Obligations.LaunchesAndGrowth
  intro h d a
  refine ⟨launch_asks fun _ => rfl, launch_asks fun _ => rfl, grow_asks, ivSpawn_asks, ivSpawn_noLane, ?answered, ?unanswered,
    grow_holds, grow_demotes, ivSpawn_holds, ivSpawn_demotes, grow_cooperative, grow_badCount, ivSpawn_heldByInterval,
    ivSpawn_cooperative, ivSpawn_badCount, ?answer, ?record, ?noHandles, ?growth⟩
  case answered =>
    intro i hi x rest r hd hr hnw
    obtain rfl | rfl := List.mem_pair.1 hi
    · exact launch_answered (isRec := false) (fun _ => rfl) hd hr hnw
    · exact launch_answered (isRec := true) (fun _ => rfl) hd hr hnw
  case unanswered =>
    intro i hi
    obtain rfl | rfl := List.mem_pair.1 hi
    · exact ⟨launch_holds (isRec := false) (d := d) (a := a) fun _ => rfl,
        launch_demotes (isRec := false) (d := d) (a := a) fun _ => rfl⟩
    · exact ⟨launch_holds (isRec := true) (d := d) (a := a) fun _ => rfl,
        launch_demotes (isRec := true) (d := d) (a := a) fun _ => rfl⟩
  case answer =>
    intro s id r va isRec e nw g gr hr hk hag hg
    obtain rfl : r.id = id := by simpa using List.find?_some hr
    refine ⟨fun hva => ?_, fun u f hva hread hf => ?_, fun u f hva hread hu => ?_, fun u bs hva hread => ?_⟩
    · exact ⟨_, launchAnswer_misaligned hr hk hag hg hva, launchAnswered_gets _ hag ..⟩
    · exact ⟨_, launchAnswer_unreadable hr hk hag hg hva hread hf, launchAnswered_gets _ hag ..⟩
    · refine ⟨_, launchAnswer_parks hr hk hag hg hva hread, ?_⟩
      rw [hag]
      exact launchParked hu ..
    · exact ⟨_, launchAnswer_launches hr hk hag hg hva hread, launchAnswered_gets _ hag ..⟩
  case record =>
    intro s ctx m bs cx u hs hcx hh
    refine ⟨launchFrom_limits hcx hh, fun hlim hno => launchFrom_noDie hcx hh hlim (by_contra fun hmask => hno ⟨hlim, hmask⟩),
      fun ⟨hlim, hmask⟩ v hv => launchFrom_noKernel hcx hh hlim hmask hv, fun ⟨hlim, hmask⟩ v ko hv => ?_⟩
    refine ⟨launchFrom_wrongRec hcx hh hlim hmask hv, launchFrom_coopRefused hcx hh hlim hmask hv, fun hrec hcoop => ?_⟩
    refine ⟨launchFrom_full hcx hh hlim hmask hv hrec hcoop, fun hroom => ?_⟩
    rw [launchFrom_launches hcx hh hlim hmask hv hrec hcoop hroom]
    refine ⟨rfl, rfl, sameMemory_of_eq rfl rfl, fun hv => ?_⟩
    rw [State.context] at hv
    simp [State.context, SMap.get?_mod, hv]
  case noHandles => exact fun s ctx m bs cx u => launchFrom_noHandles
  case growth =>
    intro s id r gr x hr hg hx
    refine ⟨fun n e nw hk => ?_, fun counts e nw hk hrising => ?_⟩
    · refine ⟨_, ⟨spawnComplete_grow hr hg hx hk,
        growthDone_of_inside hx id r n ((inside_setUnless ..).trans (inside_lower ..))⟩, ?_⟩
      rintro g k hag rfl hlt rfl
      rw [hag, agPlace] at hg
      exact gHeld_grow hag (by simp [State.seqAt, hg]) hlt id n
    · refine ⟨_, ⟨spawnComplete_spawn hr hg hx hk,
        growthDone_of_inside hx id r _ ((inside_spawned ..).trans (inside_lower ..))⟩, fun g w sp hag hw => ⟨?_, ?_⟩⟩
      · rintro k pre l m post rfl rfl rfl hl hcount
        exact vHeld_spawn hag hw hrising hl hcount id _
      · exact ivst_spawn hag counts _ id _

end Sys2Proof.Machine
end

section
/-!
SUPPORT. The matrix points at issue (10 R242): the command that enters the queue, and what stops or holds a point.
-/

namespace Sys2Proof.Machine

theorem matrixHeld_eq_false_iff {c : ICtx} {s : State} : s.matrixHeld c = false ↔ QueueFree c s := by
  simp [State.matrixHeld, QueueFree]

theorem matrixHeld_of_not_queueFree {c : ICtx} {s : State} (h : ¬ QueueFree c s) : s.matrixHeld c = true :=
  Bool.eq_true_of_not_eq_false (mt matrixHeld_eq_false_iff.1 h)

/-- What the engine of a group holds: its queue, accumulators, scratchpad, planes, flags, tiles and predicates
(R237, R242). -/
def Group.engine (gr : Group) :=
  (gr.mq, gr.acc, gr.spad, gr.planes, gr.active, gr.mfl, gr.tiles, gr.rp, gr.cp)

theorem grp_queued {s : State} {c : ICtx} {gr : Group} (hg : s.grp c.g = some gr) (h : Hdr) (k : MKind) :
    ∃ due mt, (s.queued c h k).grp c.g = some { gr with mq := gr.mq ++ [⟨k, hdrFlag h, due, false⟩], mt := mt } := by
  rw [State.queued, State.grp_modGrp, if_pos rfl, hg]
  exact ⟨_, _, rfl⟩

section Matrix
variable {i : Instr} {h : Hdr} {body : ICtx → State → Except Stop (State × MKind)}
  (hx : ∀ s, exec i s = matrix h body s)
include hx

/-- A command enters the queue of a group that its checks have changed by f. -/
theorem matrix_enters {s u : State} {c : ICtx} {k : MKind} (f : Group → Group) (hc : s.icx = some c)
    (hfree : QueueFree c (s.begun c h 8)) (hb : body c (s.begun c h 8) = .ok (u, k))
    (hu : u.grp c.g = ((s.begun c h 8).grp c.g).map f) :
    ∃ t gr due mt, exec i s = .next t ∧ gr.besideAgents = c.gr.besideAgents
      ∧ t.grp c.g = some { f gr with mq := (f gr).mq ++ [⟨k, hdrFlag h, due, false⟩], mt := mt } := by
  obtain ⟨gr, hgr, hbeg⟩ := grp_begun hc h 8
  rw [hgr] at hu
  obtain ⟨due, mt, hq⟩ := grp_queued hu h k
  refine ⟨_, gr, due, mt, ?_, hbeg, hq⟩
  rw [hx, matrix, issue, issueUsing, hc]
  simp only [matrixHeld_eq_false_iff.2 hfree, Bool.false_eq_true, if_false, hb]

theorem holds_of_matrix : Traps i h 8 (fun c s => ¬ QueueFree c s) fun _ => .hold :=
  traps_of_issue hx fun _ _ hfull => if_pos (matrixHeld_of_not_queueFree hfull)

theorem traps_of_matrix {why : ICtx → State → Prop} {f : ICtx → Stop}
    (hb : ∀ c s, why c s → QueueFree c s ∧ body c s = .error (f c)) : Traps i h 8 why f :=
  traps_of_issue hx fun c s hw => by
    obtain ⟨hfree, he⟩ := hb c s hw
    simp only [matrixHeld_eq_false_iff.2 hfree, Bool.false_eq_true, if_false, he]

/-- A point whose body answers a command in a state where the engine's parts of the group are as they were. -/
theorem queues_of_matrix {ok : ICtx → State → Prop} {k : ICtx → MKind} (f : ICtx → Group → Group)
    (hf : ∀ c gr, (f c gr).engine = gr.engine)
    (hb : ∀ c s, ok c s → ∃ u, body c s = .ok (u, k c) ∧ u.grp c.g = (s.grp c.g).map (f c)) : Queues i h ok k := by
  refine ⟨fun s c hc hok hfree => ?_, holds_of_matrix hx⟩
  obtain ⟨u, hu, hgrp⟩ := hb c _ hok
  obtain ⟨t, gr, due, mt, hexec, hbeg, ht⟩ := matrix_enters hx (f c) hc hfree hu hgrp
  have hengine : (f c gr).engine = c.gr.engine :=
    (hf c gr).trans (Group.congr_besideAgents hbeg Group.engine fun _ => rfl)
  simp only [Group.engine, Prod.mk.injEq] at hengine
  obtain ⟨hmq, hrest⟩ := hengine
  exact ⟨t, _, due, hexec, ht, congrArg (· ++ _) hmq, hrest⟩

/-- A point whose body leaves the state as it is. -/
theorem queues_of_matrix_same {ok : ICtx → State → Prop} {k : ICtx → MKind}
    (hb : ∀ c s, ok c s → body c s = .ok (s, k c)) : Queues i h ok k :=
  queues_of_matrix hx (fun _ gr => gr) (fun _ _ => rfl) fun c s hok => ⟨s, hb c s hok, Option.map_id'.symm ▸ rfl⟩

end Matrix

theorem issue_of_matrixNow {i : Instr} {h : Hdr} {body : ICtx → State → Except Stop State}
    (hx : ∀ s, exec i s = matrixNow h body s) (s : State) : exec i s = issue h 8 (fun c s =>
      match if s.matrixHeld c then Except.error .hold else body c s with
      | .ok s => .ok (s.doneNow c h)
      | .error e => .error e) s := (hx s).trans rfl

section MatrixNow
variable {i : Instr} {h : Hdr} {body : ICtx → State → Except Stop State} (hx : ∀ s, exec i s = matrixNow h body s)
include hx

theorem ctl_of_matrixNow {ok : ICtx → State → Prop} {f : ICtx → State → State}
    (hb : ∀ c s, ok c s → QueueFree c s ∧ body c s = .ok (f c s)) : Ctl i h ok f :=
  completes_of_issue (issue_of_matrixNow hx) fun c s hok => by
    obtain ⟨hfree, he⟩ := hb c s hok
    simp only [matrixHeld_eq_false_iff.2 hfree, Bool.false_eq_true, if_false, he]

theorem traps_of_matrixNow {why : ICtx → State → Prop} {f : ICtx → Stop}
    (hb : ∀ c s, why c s → QueueFree c s ∧ body c s = .error (f c)) : Traps i h 8 why f :=
  traps_of_issue (issue_of_matrixNow hx) fun c s hw => by
    obtain ⟨hfree, he⟩ := hb c s hw
    simp only [matrixHeld_eq_false_iff.2 hfree, Bool.false_eq_true, if_false, he]

theorem holds_of_matrixNow : Traps i h 8 (fun c s => ¬ QueueFree c s) fun _ => .hold :=
  traps_of_issue (issue_of_matrixNow hx) fun c s hfull => by simp only [matrixHeld_of_not_queueFree hfull, if_true]

end MatrixNow

end Sys2Proof.Machine
end

section
namespace Sys2Proof.Machine

-- The words of a tile ------------------------------------------------------------------------------

theorem ofNat_toNat_eq_extract (x : DWord) : x.extractLsb' 0 16 = BitVec.ofNat 16 x.toNat := by
  apply BitVec.eq_of_toNat_eq
  simp [BitVec.extractLsb'_toNat]

theorem bit_eq_decide (x : DWord) (k : Nat) : bit x k = decide (x.toNat / 2 ^ k % 2 = 1) := by
  rw [bit, BitVec.getLsbD, Nat.testBit_eq_decide_div_mod_eq]

/-- The fields of the three words as tcfg takes them apart. -/
theorem wordsTile_eq (a b e : DWord) : wordsTile a.toNat b.toNat e.toNat =
    { rows := (a.extractLsb' 48 8).toNat, cols := (a.extractLsb' 40 8).toNat, pitch := (a.extractLsb' 24 16).toNat,
      base := (a.extractLsb' 0 21).toNat, sh := (b.extractLsb' 27 5).toNat, sp := (b.extractLsb' 25 2).toNat,
      etype := (b.extractLsb' 16 8).toNat, fmtw := b.extractLsb' 0 16, colorg := (e.extractLsb' 32 32).toNat,
      roworg := (e.extractLsb' 0 32).toNat } := by
  have he := e.isLt
  simp only [wordsTile, toNat_extractLsb'_eq, ofNat_toNat_eq_extract, Tile.mk.injEq, Nat.pow_zero, Nat.div_one]
  refine ⟨rfl, rfl, rfl, trivial, rfl, rfl, rfl, trivial, ?_, trivial⟩
  omega

theorem tileType_iff (et : Nat) : tileType et = true ↔ et ∈ [0x01, 0x02, 0x05, 0x10, 0x11, 0x12, 0x20] ∨ isMx et = true := by
  simp [tileType, or_assoc]

theorem isMx_iff (et : Nat) : isMx et = true ↔ 0x30 ≤ et ∧ et ≤ 0x35 := by simp [isMx]


/-- The checks of R244 as tcfg makes them, of a tile and the bits of its words that are to be 0. -/
def Tile.refused (t : Tile) (a b : DWord) : Bool :=
  (a.extractLsb' 56 8) != 0 || (a.extractLsb' 21 3) != 0 || (b.extractLsb' 32 32) != 0 || bit b 24
    || t.rows = 0 || 64 < t.rows || t.cols = 0 || 64 < t.cols || t.pitch % 16 != 0 || t.base % 16 != 0
    || !tileType t.etype
    || (if t.etype = 0x20 then !FmtW.valid t.fmtw else t.fmtw != 0)
    || t.pitch < t.rowBytes
    || (isMx t.etype && t.cols != 32 && t.cols != 64)
    || t.sp = 3 || (t.sp != 0 && (isMx t.etype || t.etype = 5))
    || (t.sp = 1 && (t.cols % 4 != 0 || t.colorg % 4 != 0))
    || (t.sp = 0 && (t.sh != 0 || t.colorg != 0 || t.roworg != 0))

theorem tileOf_eq_ite (a b e : DWord) : tileOf a b e = if (wordsTile a.toNat b.toNat e.toNat).refused a b then none
    else some (wordsTile a.toNat b.toNat e.toNat) := by
  rw [wordsTile_eq]
  rfl

theorem refused_eq_false_iff (a b e : DWord) :
    (wordsTile a.toNat b.toNat e.toNat).refused a b = false ↔ TileOk a.toNat b.toNat e.toNat := by
  have hhead : a.extractLsb' 56 8 = 0 ↔ a.toNat / 2 ^ 56 = 0 := by
    have := a.isLt
    rw [← BitVec.toNat_inj, toNat_extractLsb'_eq, Nat.mod_eq_of_lt (by omega)]; rfl
  have hgap : a.extractLsb' 21 3 = 0 ↔ a.toNat / 2 ^ 21 % 8 = 0 := by
    rw [← BitVec.toNat_inj, toNat_extractLsb'_eq]; rfl
  have hhigh : b.extractLsb' 32 32 = 0 ↔ b.toNat / 2 ^ 32 = 0 := by
    have := b.isLt
    rw [← BitVec.toNat_inj, toNat_extractLsb'_eq, Nat.mod_eq_of_lt (by omega)]; rfl
  have hbit : bit b 24 = false ↔ b.toNat / 2 ^ 24 % 2 = 0 := by
    rw [bit_eq_decide, decide_eq_false_iff_not]; omega
  unfold Tile.refused TileOk
  generalize wordsTile a.toNat b.toNat e.toNat = t
  have hbytes : t.rowBytes = tileRb t.sp t.cols (tileBits t.etype t.fmtw) := rfl
  simp only [Bool.or_eq_false_iff, and_assoc, bne_eq_false_iff_eq, hhead, hgap, hhigh, hbit, hbytes, ← isMx_iff,
    ← tileType_iff]
  refine and_congr_right' <| and_congr_right' <| and_congr_right' <| and_congr_right' <| and_congr (by simp; omega) <|
    and_congr (by simp) <| and_congr (by simp; omega) <| and_congr (by simp) <| and_congr_right' <| and_congr_right' <|
    and_congr (by simp) <| and_congr ?_ <| and_congr (by simp) <| and_congr ?_ <| and_congr (by simp) <| and_congr ?_ <|
    and_congr ?_ ?_
  · split <;> simp
  · cases isMx t.etype <;> simp [imp_iff_not_or]
  · by_cases h : t.sp = 0 <;> simp [h]
  · by_cases h : t.sp = 1 <;> simp [h]
  · by_cases h : t.sp = 0 <;> simp [h, and_assoc]


-- The checks that moves share ----------------------------------------------------------------------

theorem extract_eq_zero_iff (x : DWord) (i n : Nat) : x.extractLsb' i n = 0 ↔ x.toNat / 2 ^ i % 2 ^ n = 0 := by
  rw [← BitVec.toNat_inj, toNat_extractLsb'_eq]
  simp

theorem extract_high_eq_zero_iff (x : DWord) : x.extractLsb' 32 32 = 0 ↔ x.toNat < 2 ^ 32 := by
  have hlt := x.isLt
  rw [extract_eq_zero_iff]
  omega

theorem spadFree_iff {gr : Group} {o n : Nat} :
    gr.spadFree o n = true ↔ o + n ≤ gr.va.spad ∧ gr.meetsBar o n = false := by
  simp [Group.spadFree, Group.spadHas]

theorem spadHas_iff {gr : Group} {o n : Nat} : gr.spadHas o n = true ↔ o + n ≤ gr.va.spad := by simp [Group.spadHas]

/-- A tile's range as a transfer into or out of the scratchpad checks it (R245, R254). -/
theorem range_of_tileFits {c : ICtx} {t : BitVec 4} {write : Bool} {x : Tile} (h : TileFits c t write x) :
    (if write then c.gr.spadFree x.base x.extent else c.gr.spadHas x.base x.extent) = true := by
  obtain ⟨-, hspad, hbar⟩ := h
  cases write with
  | true => exact spadFree_iff.2 ⟨hspad, hbar rfl⟩
  | false => exact spadHas_iff.2 hspad

theorem accTile_of_tileFits {c : ICtx} {acc : BitVec 6} {t : BitVec 4} {write : Bool} {x : Tile}
    (hacc : acc.toNat < c.gr.va.acc) (hx : TileFits c t write x) (hsp : x.sp ≠ 1) : c.accTile acc t write = .ok x := by
  unfold ICtx.accTile
  rw [if_neg (Nat.not_le.2 hacc), hx.1]
  exact ite_ite_of_neg hsp (by rw [range_of_tileFits hx]; decide) rfl

end Sys2Proof.Machine
end

section
/-!
O38. tcfg and mpset, and the moves that enter the matrix queue (10 R240 to R246, R249, R250, R254, R256, R257).
-/

namespace Sys2Proof.Machine

section Settings
variable {h : Hdr} {a : Src}

theorem tcfg_sets {t : BitVec 4} {b e : Src} : Ctl (.tcfg h t a b e) h
    (fun c s => QueueFree c s ∧ TileOk (c.gOr0 a).toNat (c.gOr0 b).toNat (c.gOr0 e).toNat)
    fun c s => s.modGrp c.g fun gr => { gr with
      tiles := setReg 16 Tile.blank gr.tiles t.toNat (wordsTile (c.gOr0 a).toNat (c.gOr0 b).toNat (c.gOr0 e).toNat) } := by
  have hx (s : State) : exec (.tcfg h t a b e) s = execTcfg h t a b e s := rfl
  unfold execTcfg at hx
  refine ctl_of_matrixNow hx fun c s ⟨hfree, hok⟩ => ⟨hfree, ?_⟩
  simp only [tileOf_eq_ite, refused_eq_false_iff _ _ _ |>.2 hok, Bool.false_eq_true, if_false]

theorem tcfg_refuses {t : BitVec 4} {b e : Src} : Traps (.tcfg h t a b e) h 8
    (fun c s => QueueFree c s ∧ ¬ TileOk (c.gOr0 a).toNat (c.gOr0 b).toNat (c.gOr0 e).toNat) fun _ => tr cValue := by
  have hx (s : State) : exec (.tcfg h t a b e) s = execTcfg h t a b e s := rfl
  unfold execTcfg at hx
  refine traps_of_matrixNow hx fun c s ⟨hfree, hbad⟩ => ⟨hfree, ?_⟩
  simp only [tileOf_eq_ite, Bool.eq_true_of_not_eq_false (mt (refused_eq_false_iff _ _ _).1 hbad), if_true]

theorem mpset_sets {cnt col : Bool} {p : BitVec 2} : Ctl (.mpset h cnt col p a) h
    (fun c s => QueueFree c s ∧ (cnt = false ∨ (c.gOr0 a).toNat ≤ 64)) fun c s =>
      let v : DWord := if cnt then BitVec.ofNat 64 (2 ^ (c.gOr0 a).toNat - 1) else c.gOr0 a
      s.modGrp c.g fun gr => if col then { gr with cp := setReg 4 0 gr.cp p.toNat v }
        else { gr with rp := setReg 4 0 gr.rp p.toNat v } := by
  have hx (s : State) : exec (.mpset h cnt col p a) s = execMpset h cnt col p a s := rfl
  unfold execMpset at hx
  exact ctl_of_matrixNow hx fun c s ⟨hfree, hok⟩ => ⟨hfree, if_neg (by rcases hok with hok | hok <;> simp [hok])⟩

theorem mpset_refuses {col : Bool} {p : BitVec 2} : Traps (.mpset h true col p a) h 8
    (fun c s => QueueFree c s ∧ 64 < (c.gOr0 a).toNat) fun _ => tr cValue := by
  have hx (s : State) : exec (.mpset h true col p a) s = execMpset h true col p a s := rfl
  unfold execMpset at hx
  exact traps_of_matrixNow hx fun c s ⟨hfree, hmany⟩ => ⟨hfree, if_pos (by simpa using hmany)⟩

end Settings

section Moves
variable {h : Hdr}

/-- The commands that issue after a swap see the planes exchanged (R249). -/
def Group.swapIssued (gr : Group) : Group := { gr with isActive := 1 - gr.isActive }

theorem exec_mswap (s : State) : exec (.mswap h) s
    = matrix h (fun c s => .ok (s.modGrp c.g Group.swapIssued, .mswap)) s := rfl

theorem mswap_queues : Queues (.mswap h) h (fun _ _ => True) (fun _ => .mswap) :=
  queues_of_matrix exec_mswap (fun _ => Group.swapIssued) (fun _ _ => rfl) fun _ _ _ =>
    ⟨_, rfl, (State.grp_modGrp ..).trans (if_pos rfl)⟩

theorem mswap_exchanges {s : State} {c : ICtx} (hc : s.icx = some c) (hfree : QueueFree c (s.begun c h 8)) :
    ∃ u gr, exec (.mswap h) s = .next u ∧ u.grp c.g = some gr ∧ gr.isActive = 1 - c.gr.isActive := by
  obtain ⟨u, gr, due, mt, hexec, hbeg, hu⟩ := matrix_enters exec_mswap Group.swapIssued hc hfree rfl
    ((State.grp_modGrp ..).trans (if_pos rfl))
  exact ⟨u, _, hexec, hu, congrArg (1 - ·) (Group.congr_besideAgents hbeg Group.isActive fun _ => rfl)⟩

theorem mcvt_checks_iff {c : ICtx} {acc src : BitVec 6} {e : Src} :
    (decide (c.gr.va.acc ≤ acc.toNat) || decide (c.gr.va.acc ≤ src.toNat) || (c.gOr0 e).extractLsb' 32 32 != 0) = true
      ↔ c.gr.va.acc ≤ acc.toNat ∨ c.gr.va.acc ≤ src.toNat ∨ 2 ^ 32 ≤ (c.gOr0 e).toNat := by
  simp only [Bool.or_eq_true, decide_eq_true_eq, bne_iff_ne, ne_eq, extract_high_eq_zero_iff, Nat.not_lt, or_assoc]

theorem mcvt_queues {acc src : BitVec 6} {rp cp : BitVec 2} {e : Src} : Queues (.mcvt h acc src rp cp e) h
    (fun c _ => acc.toNat < c.gr.va.acc ∧ src.toNat < c.gr.va.acc ∧ (c.gOr0 e).toNat < 2 ^ 32)
    fun c => .mcvt acc.toNat src.toNat (c.gr.rp.getD rp.toNat 0) (c.gr.cp.getD cp.toNat 0)
      (BitVec.ofNat 32 (c.gOr0 e).toNat) := by
  have hx (s : State) : exec (.mcvt h acc src rp cp e) s = execMcvt h acc src rp cp e s := rfl
  unfold execMcvt at hx
  exact queues_of_matrix_same hx fun c s ⟨hacc, hsrc, he⟩ => if_neg (mt mcvt_checks_iff.1 (by omega))

theorem mcvt_refuses {acc src : BitVec 6} {rp cp : BitVec 2} {e : Src} : Traps (.mcvt h acc src rp cp e) h 8
    (fun c s => QueueFree c s ∧ (c.gr.va.acc ≤ acc.toNat ∨ c.gr.va.acc ≤ src.toNat ∨ 2 ^ 32 ≤ (c.gOr0 e).toNat))
    fun _ => tr cValue := by
  have hx (s : State) : exec (.mcvt h acc src rp cp e) s = execMcvt h acc src rp cp e s := rfl
  unfold execMcvt at hx
  exact traps_of_matrix hx fun c s ⟨hfree, hbad⟩ => ⟨hfree, if_pos (mcvt_checks_iff.2 hbad)⟩

theorem marrive_count_iff {c : ICtx} {a : Src} :
    ((c.gOr0 a).extractLsb' 32 32 != 0) = true ↔ 2 ^ 32 ≤ (c.gOr0 a).toNat := by
  rw [bne_iff_ne, ne_eq, extract_high_eq_zero_iff, Nat.not_lt]

end Moves

/-- Settles O38: each check of a matrix point at issue, and the command that enters the queue where all pass. -/
theorem matrixMovesAndSettings : Obligations.MatrixMovesAndSettings := by
  unfold Obligations.MatrixMovesAndSettings
  intro h t a b e acc src rp cp bo cnt col clr A B E row column
  have htcfg (s : State) : exec (.tcfg h t a b e) s = execTcfg h t a b e s := rfl
  have hmpset (s : State) : exec (.mpset h cnt col rp a) s = execMpset h cnt col rp a s := rfl
  have hmflags (n : Nat) (s : State) : exec (.mflags h (.g n) clr) s = execMflags h (.g n) clr s := rfl
  have hmzero (s : State) : exec (.mzero h acc) s = execMzero h acc s := rfl
  have htzero (s : State) : exec (.tzero h t) s = execTzero h t s := rfl
  have hmstore (s : State) : exec (.mstore h t acc rp cp) s = execMstore h t acc rp cp s := rfl
  have hmload (s : State) : exec (.mload h acc t rp cp) s = execMload h acc t rp cp s := rfl
  have hmarrive (s : State) : exec (.marrive h bo a) s = execMarrive h bo a s := rfl
  unfold execTcfg at htcfg
  unfold execMpset at hmpset
  unfold execMflags at hmflags
  unfold execMzero at hmzero
  unfold execTzero at htzero
  unfold execMstore at hmstore
  unfold execMload at hmload
  unfold execMarrive at hmarrive
  refine ⟨tcfg_sets, tcfg_refuses, holds_of_matrixNow htcfg, mpset_sets, mpset_refuses,
    holds_of_matrixNow hmpset, mswap_queues, fun s c => mswap_exchanges,
    queues_of_matrix_same hmzero ?mzero, fun x => queues_of_matrix_same htzero ?tzero,
    fun x => queues_of_matrix_same hmstore ?mstore, fun x => queues_of_matrix_same hmload ?mload, mcvt_queues,
    queues_of_matrix_same hmarrive ?marrive,
    fun n => queues_of_matrix_same (hmflags n) fun _ _ _ => rfl,
    traps_of_matrix hmzero ?mzeroTraps, traps_of_matrix htzero ?unset, fun x => traps_of_matrix htzero ?range, mcvt_refuses,
    traps_of_matrix hmarrive ?count, traps_of_matrix hmarrive ?object⟩
  case mzero => exact fun c s hacc => if_neg (Nat.not_le.2 hacc)
  case tzero =>
    intro c s hfits
    simp only [hfits.1]
    exact if_pos (range_of_tileFits hfits)
  case mstore =>
    rintro c s ⟨hacc, hfits, hsp⟩
    simp only [accTile_of_tileFits hacc hfits hsp]
    rfl
  case mload =>
    rintro c s ⟨hacc, hfits, hsp⟩
    simp only [accTile_of_tileFits hacc hfits hsp]
    rfl
  case marrive =>
    rintro c s ⟨hcount, hready⟩
    exact ite_ite_of_neg (mt marrive_count_iff.1 (Nat.not_le.2 hcount)) (by simp [hready]) rfl
  case mzeroTraps => exact fun c s ⟨hfree, hacc⟩ => ⟨hfree, if_pos hacc⟩
  case unset =>
    rintro c s ⟨hfree, hunset⟩
    exact ⟨hfree, by simp only [hunset]⟩
  case range =>
    rintro c s ⟨hfree, hset, hbad⟩
    refine ⟨hfree, ?_⟩
    simp only [hset]
    refine if_neg fun hspad => ?_
    obtain ⟨hin, hclear⟩ := spadFree_iff.1 hspad
    rcases hbad with hbad | hbad
    · omega
    · simp [hclear] at hbad
  case count => exact fun c s ⟨hfree, hcount⟩ => ⟨hfree, if_pos (marrive_count_iff.2 hcount)⟩
  case object =>
    rintro c s ⟨hfree, hcount, hready⟩
    exact ⟨hfree, (if_neg (mt marrive_count_iff.1 (Nat.not_le.2 hcount))).trans (if_pos (by simp [hready]))⟩

end Sys2Proof.Machine
end

section
/-!
O39. tload, tstore, mwload and the multiply-accumulates at issue (10 R238, R242, R245, R247, R251, R253).
-/

namespace Sys2Proof.Machine

-- tload and tstore -----------------------------------------------------------------------------------

theorem tileMove_of {i : Instr} {inn : Bool} {h : Hdr} {t : BitVec 4} {bv : Bool} {a b : Src} {bo : BitVec 4}
    (hx : ∀ s, exec i s = tileMove inn h t bv a b bo s) : TileMove i inn h t bv a b bo := by
  unfold tileMove at hx
  intro x u ps ok qs kind
  have hbody : ∃ body, (∀ s, exec i s = issue h 8 body s) ∧ ∀ c s, ok c s → QueueFree c s → body c s =
      match decidingFault qs with
      | some f => .error (faultStop f 0)
      | none => if c.gr.versioned && !inn && (unitsOf qs).any Tgt.isSys then c.demoted 3
          else .ok (u.queued c h (kind c)) := by
    refine ⟨_, hx, fun c s hok hfree => ?_⟩
    obtain ⟨hfits, ha, hb, hbar, hps⟩ := hok
    have halign : ¬ ((c.gOr0 a).toNat % 16 != 0 || (c.gOr0 b).toNat % 16 != 0) = true := by simp [ha, hb]
    have hrange := range_of_tileFits hfits
    have hobj : ¬ (bv && !c.gr.barReady bo.toNat) = true := by cases bv <;> simp [hbar]
    simp only [matrixHeld_eq_false_iff.2 hfree, Bool.false_eq_true, if_false, hfits.1, if_neg halign, hrange,
      Bool.not_true, if_neg hobj, hps]
    rfl
  obtain ⟨body, hx, hbody⟩ := hbody
  refine ⟨fun s c hc hok hfree hgo hhome => ?_, fun f => traps_of_issue hx ?_, demotesFirst_of_using hx ?_⟩
  · obtain ⟨gr, hgr, hbeg⟩ := grp_begun hc h 8
    have ⟨_, _, _, _, hps⟩ := hok
    have hu : u.grp c.g = some gr := (grp_of_besideMemory
      ((congrArg (fun r => r.1.besideMemory) hps).symm.trans (besideMemory_xpieces ..)) _).trans hgr
    obtain ⟨due, mt, hq⟩ := grp_queued hu h (kind c)
    refine ⟨_, _, due, ?_, hq, congrArg (· ++ _) (Group.congr_besideAgents hbeg Group.mq fun _ => rfl)⟩
    have hstays : ¬ (c.gr.versioned && !inn && (unitsOf qs).any Tgt.isSys) = true := by
      rcases hhome with h | h | h <;> simp [h]
    rw [hx, issue, issueUsing, hc]
    simp only [hbody c _ hok hfree, hgo, if_neg hstays]
  · rintro c s ⟨hok, hfree, hf⟩
    rw [hbody c s hok hfree]
    simp only [hf, faultStop]
  · rintro c s ⟨hok, hfree, hgo, hout, hver, hsys⟩
    rw [hbody c s hok hfree]
    simp only [hgo, hver, hout, hsys, Bool.not_false, Bool.and_self, if_true]

-- Weights --------------------------------------------------------------------------------------------

theorem besideMemory_cachedWords (s : State) (g ctx : Nat) (k : RCache) (vas : List Nat) :
    (s.cachedWords g ctx k vas).1.besideMemory = s.besideMemory := by
  induction vas generalizing s with
  | nil => rfl
  | cons va vas ih =>
    have hone := besideMemory_cachedVa s g ctx k va 8
    unfold State.cachedWords
    dsimp only
    split
    · exact hone
    · exact (ih _).trans hone

theorem grp_readMd {s u : State} {c : ICtx} {x : Tile} {md : SMap DWord} {side : Option Layout}
    (h : s.readMd c x = .ok (u, md, side)) (g : Nat) : u.grp g = s.grp g := by
  unfold State.readMd at h
  dsimp only at h
  repeat' split at h
  all_goals cases h
  · rfl
  · exact grp_of_besideMemory (besideMemory_cachedWords ..) g

/-- The commands that issue after a weight load see its plane loaded (R253). -/
def Group.loadIssued (gr : Group) (plane : Nat) (x : Tile) : Group :=
  { gr with isPlanes := setReg 2 none gr.isPlanes plane (some ⟨x.rows, x.cols, x.etype, x.fmtw⟩) }

theorem weightLoad_of {i : Instr} {h : Hdr} {t : BitVec 4} {sg : ICtx → Option DWord}
    (hx : ∀ s, exec i s = weightLoad h t sg s) : WeightLoad i h t sg := by
  unfold weightLoad at hx
  refine ⟨fun x u md side => queues_of_matrix hx (fun c gr => gr.loadIssued (1 - c.gr.isActive) x) (fun _ _ => rfl) ?loads,
    traps_of_matrix hx ?unset, fun x => traps_of_matrix hx ?i32⟩
  case loads =>
    rintro c s ⟨hfits, htype, hmd, hsg⟩
    refine ⟨u.modGrp c.g fun gr => gr.loadIssued (1 - c.gr.isActive) x, ?_, ?_⟩
    · have hspad : c.gr.spadHas x.base x.extent = true := range_of_tileFits hfits
      cases hv : sg c with
      | none => simp [hfits.1, htype, hmd, hspad, Group.loadIssued]
      | some v =>
        obtain ⟨hlow, halign, hin⟩ := hsg v hv
        have hvec : c.gr.spadHas v.toNat (4 * x.rows) = true := spadHas_iff.2 hin
        simpa [hfits.1, htype, hmd, hspad, halign, hvec, Group.loadIssued] using hlow
    · rw [State.grp_modGrp, if_pos rfl, grp_readMd hmd]
  case unset =>
    rintro c s ⟨hfree, hunset⟩
    exact ⟨hfree, by simp only [hunset]⟩
  case i32 =>
    rintro c s ⟨hfree, hset, htype⟩
    exact ⟨hfree, by simp [hset, htype]⟩

-- Passes ---------------------------------------------------------------------------------------------

theorem kMax_eq (f : Fam) : f.kMax = famK f := by cases f <;> rfl

theorem admits_iff (f : Fam) (et : Nat) (fmtw : BitVec 16) : f.admits et fmtw = true ↔ famAdmits f et fmtw := by
  cases f <;> simp [Fam.admits, famAdmits, isMx]

theorem format_refused_iff {f : Fam} {k et st : Nat} {fmtw sw : BitVec 16} :
    (decide (f.kMax < k) || !f.admits et fmtw || !f.admits st sw) = true
      ↔ famK f < k ∨ ¬ famAdmits f et fmtw ∨ ¬ famAdmits f st sw := by
  simp only [kMax_eq, ← admits_iff, Bool.or_eq_true, decide_eq_true_eq, Bool.not_eq_true', Bool.not_eq_true, or_assoc]

/-- The descriptor of a pass as R251 checks it. -/
def PassDescriptor (x : DWord) : Prop :=
  x.toNat / 2 ^ 53 % 2 ^ 10 = 0 ∧ x.toNat / 2 ^ 24 % 2 ^ 8 = 0 ∧ x.toNat / 2 ^ 32 % 2 ^ 21 % 4 = 0
    ∧ (x.toNat / 65536 % 256 = 0 ∨ tileType (x.toNat / 65536 % 256) = true)
    ∧ (if x.toNat / 65536 % 256 = 0x20 then FmtW.valid (BitVec.ofNat 16 x.toNat) = true else BitVec.ofNat 16 x.toNat = 0)

theorem descriptor_refused_iff {x : DWord} {cols k : Nat} : ((x.extractLsb' 53 10) != 0 || (x.extractLsb' 24 8) != 0
    || (x.extractLsb' 32 21).toNat % 4 != 0
    || ((x.extractLsb' 16 8).toNat != 0 && !tileType (x.extractLsb' 16 8).toNat)
    || (if (x.extractLsb' 16 8).toNat = 0x20 then !FmtW.valid (x.extractLsb' 0 16) else x.extractLsb' 0 16 != 0)
    || decide (k < cols)) = false ↔ PassDescriptor x ∧ cols ≤ k := by
  simp only [Bool.or_eq_false_iff, and_assoc, bne_eq_false_iff_eq, extract_eq_zero_iff, toNat_extractLsb'_eq,
    ofNat_toNat_eq_extract, decide_eq_false_iff_not, Nat.not_lt, PassDescriptor]
  refine and_congr_right' <| and_congr_right' <| and_congr_right' <| and_congr ?_ <| and_congr_left' ?_
  · by_cases h : x.toNat / 65536 % 256 = 0 <;> simp [h]
  · split <;> simp_all

theorem passPoint_of {i : Instr} {f : Fam} {h : Hdr} {acc : BitVec 6} {t : BitVec 4} {rp cpn cpk : BitVec 2} {z : Bool}
    {e : Src} (hx : ∀ s, exec i s = mmac f h acc t rp cpn cpk z e s) : PassPoint i f h acc t rp cpn cpk z e := by
  unfold mmac at hx
  unfold PassPoint
  intro set sfw svec sm desc st sw plane
  have hset (c : ICtx) : ((c.gOr0 e).extractLsb' 16 8).toNat = set c := toNat_extractLsb'_eq ..
  have hsvec (c : ICtx) : ((c.gOr0 e).extractLsb' 32 21).toNat = svec c := toNat_extractLsb'_eq ..
  have hsfw (c : ICtx) : (c.gOr0 e).extractLsb' 0 16 = sfw c := ofNat_toNat_eq_extract _
  have hgood {c : ICtx} {x : Tile} (hdesc : desc c) (hcols : x.cols ≤ famK f) := Bool.eq_false_iff.1
    (descriptor_refused_iff.2 ⟨hdesc, (kMax_eq f).symm ▸ hcols⟩)
  simp only [hset, hsvec, hsfw] at hgood
  refine ⟨fun x p u md side => queues_of_matrix hx (fun _ gr => gr) (fun _ _ => rfl) ?enters, traps_of_matrix hx ?acc,
    traps_of_matrix hx ?unset, fun x => traps_of_matrix hx ?descriptor, fun x => traps_of_matrix hx ?unloaded,
    fun x p => traps_of_matrix hx ?family⟩
  case enters =>
    rintro c s ⟨hacc, hfits, hdesc, hcols, hplane, hk, hw, ha, hmd, hvec⟩
    refine ⟨u, (if_neg (Nat.not_le.2 hacc)).trans ?_, ?_⟩
    · simp only [hfits.1, if_neg (hgood hdesc hcols), show c.gr.isPlanes.getD c.gr.isActive none = some p from hplane, hmd,
        hset, hsvec, hsfw]
      have hspad : c.gr.spadHas x.base x.extent = true := range_of_tileFits hfits
      refine ite_ite_of_neg (mt format_refused_iff.1 ?_) ?_ rfl
      · rintro (h | h | h)
        · exact absurd hk (Nat.not_le.2 h)
        · exact h hw
        · exact h ha
      · simpa [hspad, spadHas_iff] using hvec
    · rw [grp_readMd hmd, Option.map_id']
  case acc => exact fun c s ⟨hfree, hacc⟩ => ⟨hfree, if_pos hacc⟩
  case unset =>
    rintro c s ⟨hfree, hacc, hunset⟩
    refine ⟨hfree, (if_neg (Nat.not_le.2 hacc)).trans ?_⟩
    simp only [hunset]
  case descriptor =>
    rintro c s ⟨hfree, hacc, htile, hbad⟩
    refine ⟨hfree, (if_neg (Nat.not_le.2 hacc)).trans ?_⟩
    simp only [htile]
    refine if_pos (Bool.eq_true_of_not_eq_false fun hno => ?_)
    obtain ⟨hdesc, hcols⟩ := descriptor_refused_iff.1 hno
    rw [kMax_eq] at hcols
    exact hbad.elim (fun hno => hno hdesc) (Nat.not_lt.2 hcols)
  case unloaded =>
    rintro c s ⟨hfree, hacc, htile, hdesc, hcols, hplane⟩
    refine ⟨hfree, (if_neg (Nat.not_le.2 hacc)).trans ?_⟩
    simp only [htile, if_neg (hgood hdesc hcols), show c.gr.isPlanes.getD c.gr.isActive none = none from hplane,
      hset, hsvec, hsfw]
  case family =>
    rintro c s ⟨hfree, hacc, htile, hdesc, hcols, hplane, hbad⟩
    refine ⟨hfree, (if_neg (Nat.not_le.2 hacc)).trans ?_⟩
    simp only [htile, if_neg (hgood hdesc hcols), show c.gr.isPlanes.getD c.gr.isActive none = some p from hplane,
      hset, hsvec, hsfw]
    exact if_pos (format_refused_iff.2 hbad)

/-- Settles O39: the two shapes of transfers and weight loads, and the seven families of passes by one lemma. -/
theorem matrixPassesAndLoadsQueue : Obligations.MatrixPassesAndLoadsQueue := by
  unfold Obligations.MatrixPassesAndLoadsQueue
  intro h t a b e bo bv z acc rp cpn cpk
  exact ⟨tileMove_of fun _ => rfl, tileMove_of fun _ => rfl, weightLoad_of fun _ => rfl, weightLoad_of fun _ => rfl,
    passPoint_of fun _ => rfl, passPoint_of fun _ => rfl, passPoint_of fun _ => rfl, passPoint_of fun _ => rfl,
    passPoint_of fun _ => rfl, passPoint_of fun _ => rfl, passPoint_of fun _ => rfl⟩

end Sys2Proof.Machine
end

section
/-!
SUPPORT. A walk over places: each step writes some places, no place twice, and raises some flags.
-/

namespace Sys2Proof.Machine

section Walk
variable {σ κ ν β : Type} [DecidableEq κ] {V : σ → κ → ν} {D : κ → Prop} {G : κ → ν}

/-- What is read (V) at the places of l is then what G says, and elsewhere what it was. D bounds the places looked at. -/
def Visits (V : σ → κ → ν) (D : κ → Prop) (G : κ → ν) (l : List κ) (x y : σ) : Prop :=
  ∀ q, D q → V y q = if q ∈ l then G q else V x q

theorem Visits.refl (x : σ) : Visits V D G [] x x := fun _ _ => rfl

theorem Visits.congr {G' : κ → ν} {l : List κ} {x y : σ} (h : Visits V D G l x y) (hG : ∀ q ∈ l, G q = G' q) :
    Visits V D G' l x y := fun q hq => by
  rw [h q hq]
  by_cases hl : q ∈ l <;> simp [hl, hG]

theorem Visits.trans {l l' : List κ} {x y z : σ} (h : Visits V D G l x y) (h' : Visits V D G l' y z) :
    Visits V D G (l ++ l') x z := fun q hq => by
  rw [h' q hq, h q hq]
  by_cases hl : q ∈ l <;> simp [hl]

/-- A walk in which each step visits its own places (cells), knows P of where it stands, and finds its own places as they
were before the walk. Flags b are raised where E says. -/
theorem visits_foldl {step : σ → β → σ} {cells : β → List κ} {P : σ → Prop} {R : σ → Nat → Prop} {E : β → Nat → Prop}
    {l : List β} (hl : (l.flatMap cells).Nodup) {x : σ} (hP : P x)
    (hstep : ∀ y p, p ∈ l → P y → (∀ q ∈ cells p, D q → V y q = V x q) → P (step y p) ∧ Visits V D G (cells p) y (step y p)
      ∧ ∀ b, R (step y p) b ↔ R y b ∨ E p b) :
    P (l.foldl step x) ∧ Visits V D G (l.flatMap cells) x (l.foldl step x)
      ∧ ∀ b, R (l.foldl step x) b ↔ R x b ∨ ∃ p ∈ l, E p b := by
  induction l generalizing x with
  | nil => exact ⟨hP, .refl x, fun b => by simp⟩
  | cons p l ih =>
    rw [List.flatMap_cons, List.nodup_append'] at hl
    obtain ⟨-, hrest, hdisjoint⟩ := hl
    obtain ⟨hP', hvisit, hflag⟩ := hstep x p (by simp) hP fun _ _ _ => rfl
    obtain ⟨hPl, hvisits, hflags⟩ := ih hrest hP' fun y r hr hy hsame => hstep y r (by simp [hr]) hy fun q hq hD => by
      have hnot : q ∉ cells p := fun hp => hdisjoint hp (List.mem_flatMap.2 ⟨r, hr, hq⟩)
      rw [hsame q hq hD, hvisit q hD, if_neg hnot]
    exact ⟨hPl, hvisit.trans hvisits, fun b => by simp [hflags, hflag, or_assoc]⟩

end Walk

theorem foldl_product {σ α β : Type} (f : σ → α × β → σ) (as : List α) (bs : List β) (x : σ) :
    as.foldl (fun y a => bs.foldl (fun y b => f y (a, b)) y) x = (as ×ˢ bs).foldl f x := by
  induction as generalizing x with
  | nil => rfl
  | cons a as ih =>
    rw [List.foldl_cons, ih, List.product_cons, List.foldl_append, List.foldl_map]

@[simp] theorem bit_or {n : Nat} (x y : BitVec n) (k : Nat) : bit (x ||| y) k = (bit x k || bit y k) := by simp [bit]

theorem bit_foldl_or {α : Type} {n : Nat} (f : α → BitVec n) (l : List α) (m : BitVec n) (k : Nat) :
    bit (l.foldl (fun b x => b ||| f x) m) k = true ↔ bit m k = true ∨ ∃ x ∈ l, bit (f x) k = true := by
  induction l generalizing m with
  | nil => simp
  | cons x l ih => simp [ih, or_assoc]

end Sys2Proof.Machine
end

section
/-!
SUPPORT. The queue of matrix commands: which command ends next, and what its end leaves (10 R242, R258).
-/

namespace Sys2Proof.Machine

-- The next command -----------------------------------------------------------------------------------

theorem mqFree_concat (q : List MCmd) (c : MCmd) : mqFree (q ++ [c]) = mqFree q
    ++ [(c, (mqFree q).all fun a => !a.1.kind.before c.kind && (!a.1.kind.samePass c.kind || a.2))] := by
  simp [mqFree, List.foldl_append]

theorem map_fst_mqFree (q : List MCmd) : (mqFree q).map Prod.fst = q := by
  induction q using List.reverseRecOn with
  | nil => rfl
  | append_singleton q c ih => simp [mqFree_concat, ih]

theorem length_mqFree (q : List MCmd) : (mqFree q).length = q.length := by
  rw [← List.length_map (f := Prod.fst), map_fst_mqFree]

/-- No earlier command keeps one that is free. -/
theorem before_of_mqFree {q : List MCmd} {n : Nat} {c : MCmd} (h : (mqFree q)[n]? = some (c, true)) {j : Nat} {x : MCmd}
    (hj : j < n) (hx : q[j]? = some x) : x.kind.before c.kind = false := by
  induction q using List.reverseRecOn with
  | nil => simp at hx
  | append_singleton q d ih =>
    have hn : n ≤ q.length := by
      have := (List.getElem?_eq_some_iff.1 h).1
      rw [length_mqFree, List.length_append, List.length_singleton] at this
      omega
    rw [List.getElem?_append_left (by omega)] at hx
    rw [mqFree_concat] at h
    rcases Nat.lt_or_eq_of_le hn with hlt | rfl
    · rw [List.getElem?_append_left (by rwa [length_mqFree])] at h
      exact ih h hx
    · rw [← length_mqFree q, List.getElem?_concat_length, Option.some.injEq, Prod.mk.injEq] at h
      obtain ⟨rfl, hall⟩ := h
      obtain ⟨y, hy, rfl⟩ := List.mem_map.1 ((map_fst_mqFree q).symm ▸ List.mem_of_getElem? hx)
      have hfree := List.all_eq_true.1 hall y hy
      simp only [Bool.and_eq_true, Bool.not_eq_true'] at hfree
      exact hfree.1

/-- What holds of the command that ends next (R242, R258; 12 R298). -/
theorem of_nextDone {gr : Group} {clk n : Nat} {stalls : MKind → Bool} {c : MCmd}
    (h : gr.nextDone clk stalls = some (n, c)) : gr.mq[n]? = some c ∧ c.due ≤ clk ∧ stalls c.kind = false
      ∧ ∀ j x, j < n → gr.mq[j]? = some x → x.kind.before c.kind = false := by
  unfold Group.nextDone at h
  dsimp only at h
  split at h
  · cases h
  next i hi =>
    obtain ⟨d, hd, heq⟩ := Option.map_eq_some_iff.1 h
    cases heq
    obtain ⟨hlt, hat, -⟩ := List.findIdx?_eq_some_iff_getElem.1 hi
    have hfst : ((mqFree gr.mq)[n]).1 = c := by
      have hmap : ((mqFree gr.mq).map Prod.fst)[n]? = some c := (map_fst_mqFree gr.mq).symm ▸ hd
      rw [List.getElem?_map, List.getElem?_eq_getElem hlt] at hmap
      exact Option.some.inj hmap
    simp only [Bool.and_eq_true, decide_eq_true_eq, Bool.not_eq_true', hfst] at hat
    obtain ⟨⟨hfree, hdue⟩, hroom⟩ := hat
    have hget : (mqFree gr.mq)[n]? = some (c, true) := by
      rw [List.getElem?_eq_getElem hlt, ← hfst, ← hfree]
    exact ⟨hd, hdue, hroom, fun j x => before_of_mqFree hget⟩

end Sys2Proof.Machine
end

section
namespace Sys2Proof.Machine

-- What commands leave of their group -------------------------------------------------------------------

/-- A group without what matrix commands other than mflags write. -/
def Group.besideEngine (gr : Group) : Group :=
  { gr with acc := [], spad := [], planes := [], active := 0, mfl := 0, spst := 0 }

theorem Group.congr_besideEngine {α : Type} {x y : Group} (h : x.besideEngine = y.besideEngine) (f : Group → α)
    (hf : ∀ gr : Group, f gr.besideEngine = f gr) : f x = f y := by
  rw [← hf x, h, hf y]

theorem besideEngine_foldl {α : Type} {f : Group → α → Group} (hf : ∀ gr x, (f gr x).besideEngine = gr.besideEngine)
    (l : List α) (gr : Group) : (l.foldl f gr).besideEngine = gr.besideEngine :=
  foldl_rel (R := fun x y : Group => y.besideEngine = x.besideEngine) (fun _ => rfl) (fun _ _ _ h k => k.trans h) f hf l gr

theorem besideEngine_accWrite (gr : Group) (a m n : Nat) (v : Ext) :
    (gr.accWrite a m n v).besideEngine = gr.besideEngine := rfl
theorem besideEngine_raise (gr : Group) (m sp : BitVec 32) : (gr.raise m sp).besideEngine = gr.besideEngine := rfl

/-- The activations of a row that meet weights of plane p. -/
def Group.passInputs (gr : Group) (t : Tile) (cpk : DWord) (p : Plane) (sm : Option Nat) (set : Nat) (sfw : BitVec 16)
    (md : SMap DWord) (side : Option Layout) (m : Nat) : List Latched :=
  (gr.actRow t ((sel cpk).filter (· < t.cols)) sm set sfw md side m).filter fun x => x.k < p.k

/-- The exact sum of the products of row inputs xs with column n of plane p (R252). -/
def Plane.sumOf (p : Plane) (fam : Nat) (xs : List Latched) (n : Nat) : Ext :=
  (xs.flatMap fun x => products (fam == 5) x.v (inputOf p.etype (SMap.getD p.weights (64 * x.k + n) (.fin false 0 0)))).foldl
    (fun (a : Ext) v => (a.add rmN v).1) (.fin false 0 0)

/-- An element of a pass: its old value, or +0 under Z, plus the sum (R252). -/
def passValue (z : Bool) (old : Word) (sum : Ext) : Ext :=
  ((if z then .fin false 0 0 else fp32.decode old.toNat).add rmN sum).1

/-- Column n of row m of a pass on accumulator a. -/
def Group.passCell (fam a : Nat) (z : Bool) (p : Plane) (xs : List Latched) (m : Nat) (gr : Group) (n : Nat) : Group :=
  gr.accWrite a m n (passValue z (gr.accAt a m n) (p.sumOf fam xs n))

/-- Row m of a pass, whose inputs are xs. -/
def Group.passRow (fam a : Nat) (z : Bool) (p : Plane) (ns : List Nat) (xs : List Latched) (m : Nat) (gr : Group) : Group :=
  ns.foldl (Group.passCell fam a z p xs m)
    (gr.raise (xs.foldl (fun b x => b ||| x.mf) 0) (xs.foldl (fun b x => b ||| x.st) 0))

theorem pass_of_plane {gr : Group} {plane : Nat} {p : Plane} (hp : gr.planes.getD plane none = some p) (fam a : Nat)
    (t : Tile) (rp cpn cpk : DWord) (z : Bool) (sm : Option Nat) (set : Nat) (sfw : BitVec 16) (md : SMap DWord)
    (side : Option Layout) : gr.pass fam a t rp cpn cpk z plane sm set sfw md side
      = if ((sel cpn).filter (· < p.n)).isEmpty then gr else ((sel rp).filter (· < t.rows)).foldl (fun gr m =>
          gr.passRow fam a z p ((sel cpn).filter (· < p.n)) (gr.passInputs t cpk p sm set sfw md side m) m) gr := by
  unfold Group.pass
  rw [hp]
  rfl

theorem pass_of_no_plane {gr : Group} {plane : Nat} (hp : gr.planes.getD plane none = none) (fam a : Nat)
    (t : Tile) (rp cpn cpk : DWord) (z : Bool) (sm : Option Nat) (set : Nat) (sfw : BitVec 16) (md : SMap DWord)
    (side : Option Layout) : gr.pass fam a t rp cpn cpk z plane sm set sfw md side = gr := by
  unfold Group.pass
  rw [hp]

theorem besideEngine_pass (gr : Group) (fam a : Nat) (t : Tile) (rp cpn cpk : DWord) (z : Bool) (plane : Nat)
    (sm : Option Nat) (set : Nat) (sfw : BitVec 16) (md : SMap DWord) (side : Option Layout) :
    (gr.pass fam a t rp cpn cpk z plane sm set sfw md side).besideEngine = gr.besideEngine := by
  cases hp : gr.planes.getD plane none with
  | none => rw [pass_of_no_plane hp]
  | some p =>
    rw [pass_of_plane hp]
    split
    · rfl
    · refine besideEngine_foldl (fun y m => ?_) _ gr
      exact (besideEngine_foldl (fun z n => besideEngine_accWrite ..) _ _).trans (besideEngine_raise ..)

/-- Element (m, n) of mstore into a tile that is not of MX (R255). -/
def Group.storeCell (t : Tile) (a m : Nat) (gr : Group) (n : Nat) : Group :=
  (gr.setTileCode t m n (storeCode t (gr.accAt a m n)).1).raise
    (if (storeCode t (gr.accAt a m n)).2 then mflCVT else 0) 0

/-- The values of block b of row m as mstore re-encodes it: columns ns from accumulator a (R255). -/
def Group.blockVals (gr : Group) (t : Tile) (a m : Nat) (ns : List Nat) (b : Nat) : List Ext :=
  (List.range 32).map fun i =>
    if ns.contains (32 * b + i) then fp32.decode (gr.accAt a m (32 * b + i)).toNat else gr.tileStored t m (32 * b + i)

/-- Block b of row m takes the codes cs under scale byte x. -/
def Group.putBlock (gr : Group) (t : Tile) (m b : Nat) (x : Nat) (cs : List (Nat × Fl)) : Group :=
  ((List.range 32).foldl (fun (gr : Group) i => gr.setTileCode t m (32 * b + i) (cs.getD i (0, 0)).1) gr).setSpad
    (t.scaleAt m (32 * b)) [BitVec.ofNat 8 x]

/-- A block of MX in which no NaN stands has lost a value. -/
def blockLoses (r : Nat × List (Nat × Fl)) : Bool := r.1 != 0xff && r.2.any fun c => (c.2 &&& (flOF ||| flNV)) != 0

/-- Block b of row m of mstore into a tile of MX (R255). -/
def Group.storeBlock (t : Tile) (a m : Nat) (ns : List Nat) (gr : Group) (b : Nat) : Group :=
  let r := mxBlock (t.etype - 0x30) (gr.blockVals t a m ns b)
  (gr.putBlock t m b r.1 r.2).raise (if blockLoses r then mflCVT else 0) 0

theorem storeRow_plain {t : Tile} (ht : isMx t.etype = false) (gr : Group) (a m : Nat) (ns : List Nat) :
    gr.storeRow t a m ns = ns.foldl (Group.storeCell t a m) gr := by
  unfold Group.storeRow
  rw [ht]
  rfl

theorem storeRow_mx {t : Tile} (ht : isMx t.etype = true) (gr : Group) (a m : Nat) (ns : List Nat) :
    gr.storeRow t a m ns
      = ([0, 1].filter fun b => ns.any fun n => n / 32 == b).foldl (Group.storeBlock t a m ns) gr := by
  unfold Group.storeRow
  rw [ht, if_pos rfl, List.foldl_filter]
  refine congrArg (fun f => List.foldl f gr [0, 1]) (funext fun gr => funext fun b => ?_)
  cases ns.any fun n => n / 32 == b <;> rfl

/-- A group without what mstore writes. -/
def Group.besideSpad (gr : Group) : Group := { gr with spad := [], mfl := 0, spst := 0 }

theorem Group.congr_besideSpad {α : Type} {x y : Group} (h : x.besideSpad = y.besideSpad) (f : Group → α)
    (hf : ∀ gr : Group, f gr.besideSpad = f gr) : f x = f y := by
  rw [← hf x, h, hf y]

theorem besideSpad_foldl {α : Type} {f : Group → α → Group} (hf : ∀ gr x, (f gr x).besideSpad = gr.besideSpad)
    (l : List α) (gr : Group) : (l.foldl f gr).besideSpad = gr.besideSpad :=
  foldl_rel (R := fun x y : Group => y.besideSpad = x.besideSpad) (fun _ => rfl) (fun _ _ _ h k => k.trans h) f hf l gr

theorem besideSpad_setSpad (gr : Group) (o : Nat) (bs : List Byte) : (gr.setSpad o bs).besideSpad = gr.besideSpad := rfl
theorem besideSpad_raise (gr : Group) (m sp : BitVec 32) : (gr.raise m sp).besideSpad = gr.besideSpad := rfl

theorem besideSpad_storeCell (t : Tile) (a m : Nat) (gr : Group) (n : Nat) :
    (gr.storeCell t a m n).besideSpad = gr.besideSpad :=
  (besideSpad_raise ..).trans (besideSpad_setSpad ..)

theorem besideSpad_putBlock (gr : Group) (t : Tile) (m b x : Nat) (cs : List (Nat × Fl)) :
    (gr.putBlock t m b x cs).besideSpad = gr.besideSpad :=
  (besideSpad_setSpad ..).trans (besideSpad_foldl (fun _ _ => besideSpad_setSpad ..) _ gr)

theorem besideSpad_storeBlock (t : Tile) (a m : Nat) (ns : List Nat) (gr : Group) (b : Nat) :
    (gr.storeBlock t a m ns b).besideSpad = gr.besideSpad :=
  (besideSpad_raise ..).trans (besideSpad_putBlock ..)

theorem besideSpad_storeRow (gr : Group) (t : Tile) (a m : Nat) (ns : List Nat) :
    (gr.storeRow t a m ns).besideSpad = gr.besideSpad := by
  cases ht : isMx t.etype with
  | false =>
    rw [storeRow_plain ht]
    exact besideSpad_foldl (besideSpad_storeCell t a m) _ gr
  | true =>
    rw [storeRow_mx ht]
    exact besideSpad_foldl (besideSpad_storeBlock t a m ns) _ gr

theorem besideEngine_storeRow (gr : Group) (t : Tile) (a m : Nat) (ns : List Nat) :
    (gr.storeRow t a m ns).besideEngine = gr.besideEngine :=
  Group.congr_besideSpad (besideSpad_storeRow gr t a m ns) Group.besideEngine fun _ => rfl

def MKind.isFlags : MKind → Bool
  | .mflags _ _ _ => true
  | _ => false

theorem besideEngine_runMatrix (gr : Group) {k : MKind} (hk : k.isFlags = false) :
    (gr.runMatrix k).besideEngine = gr.besideEngine := by
  cases k with
  | mflags d clr nw => cases hk
  | tzero t =>
    have hrows := besideEngine_foldl (f := fun (gr : Group) m =>
      gr.setSpad (t.base + m * t.pitch) (List.replicate t.rowBytes 0)) (fun y m => rfl) (List.range t.rows) gr
    unfold Group.runMatrix
    dsimp only
    split <;> exact hrows
  | mmac fam a t rp cpn cpk z plane sm set sfw md side => exact besideEngine_pass ..
  | mstore t a rp cp => exact besideEngine_foldl (fun y m => besideEngine_storeRow ..) _ gr
  | mload a t rp cp =>
    exact besideEngine_foldl (fun y m => besideEngine_foldl (fun z n => besideEngine_accWrite ..) _ y) _ gr
  | mcvt a src rp cp f =>
    exact besideEngine_foldl (fun y m => besideEngine_foldl (fun z n => besideEngine_accWrite ..) _ y) _ gr
  | mwload t sg plane md side => rfl
  | mzero a => rfl
  | mswap => rfl
  | tload us bar => rfl
  | tstore us bar sig => rfl
  | marrive b k => rfl

theorem mq_runMatrix (gr : Group) (k : MKind) : (gr.runMatrix k).mq = gr.mq := by
  cases hk : k.isFlags with
  | false => exact Group.congr_besideEngine (besideEngine_runMatrix gr hk) Group.mq fun _ => rfl
  | true =>
    cases k with
    | mflags d clr nw => cases clr <;> cases nw <;> rfl
    | _ => cases hk

-- A command at its place in the queue --------------------------------------------------------------------

/-- An earlier pass of the queue that is to have its effect before pass c has its own (R252). -/
def MCmd.owed (c x : MCmd) : Bool := !x.ran && x.kind.samePass c.kind

/-- The passes before place n that are owed to command c. -/
def Group.owed (gr : Group) (n : Nat) (c : MCmd) : List MCmd := (gr.mq.take n).filter c.owed

/-- The queue when the passes owed have run. -/
def Group.owedRan (gr : Group) (n : Nat) (c : MCmd) : List MCmd :=
  ((gr.mq.take n).map fun x => if c.owed x then { x with ran := true } else x) ++ gr.mq.drop n

/-- The group when the passes owed have run. -/
def Group.beforeRun (gr : Group) (n : Nat) (c : MCmd) : Group :=
  { (gr.owed n c).foldl (fun gr x => gr.runMatrix x.kind) gr with mq := gr.owedRan n c }

theorem isPass_of_owed {c x : MCmd} (h : c.owed x = true) : x.kind.isPass = true ∧ c.kind.isPass = true := by
  simp only [MCmd.owed, MKind.samePass, Bool.and_eq_true] at h
  exact h.2.1

theorem isFlags_of_isPass {k : MKind} (h : k.isPass = true) : k.isFlags = false := by
  cases k with
  | mflags d clr nw => cases h
  | _ => rfl

theorem runAt_eq (gr : Group) (n : Nat) (c : MCmd) : gr.runAt n c
    = if c.ran && c.kind.isPass then gr.beforeRun n c else (gr.beforeRun n c).runMatrix c.kind := by
  have hmq : ((gr.owed n c).foldl (fun gr x => gr.runMatrix x.kind) gr).mq = gr.mq :=
    foldl_rel (R := fun x y : Group => y.mq = x.mq) (fun _ => rfl) (fun _ _ _ h k => k.trans h) _
      (fun y (x : MCmd) => mq_runMatrix y x.kind) _ gr
  have hqueue : gr.beforeRun n c = { (gr.owed n c).foldl (fun gr x => gr.runMatrix x.kind) gr with
      mq := (((gr.owed n c).foldl (fun gr x => gr.runMatrix x.kind) gr).mq.take n).map (fun x =>
        if c.owed x then { x with ran := true } else x)
          ++ ((gr.owed n c).foldl (fun gr x => gr.runMatrix x.kind) gr).mq.drop n } := by
    rw [hmq]
    rfl
  rw [hqueue]
  rfl

theorem beforeRun_of_none_owed {gr : Group} {n : Nat} {c : MCmd} (h : ∀ x ∈ gr.mq.take n, c.owed x = false) :
    gr.beforeRun n c = gr := by
  have howed : gr.owed n c = [] := List.filter_eq_nil_iff.2 fun x hx => by simp [h x hx]
  have hqueue : gr.owedRan n c = gr.mq := by
    rw [Group.owedRan, List.map_congr_left (g := id) fun x hx => by simp [h x hx], List.map_id, List.take_append_drop]
  rw [Group.beforeRun, howed, hqueue]
  rfl

theorem runAt_of_not_pass (gr : Group) (n : Nat) {c : MCmd} (hc : c.kind.isPass = false) :
    gr.runAt n c = gr.runMatrix c.kind := by
  have hnone (x : MCmd) : c.owed x = false := Bool.eq_false_iff.2 fun h => by simp [(isPass_of_owed h).2] at hc
  rw [runAt_eq, hc, Bool.and_false, if_neg (by decide), beforeRun_of_none_owed fun x _ => hnone x]

theorem besideEngine_beforeRun (gr : Group) (n : Nat) (c : MCmd) :
    (gr.beforeRun n c).besideEngine = { gr with mq := gr.owedRan n c }.besideEngine := by
  have hfold : ((gr.owed n c).foldl (fun gr x => gr.runMatrix x.kind) gr).besideEngine = gr.besideEngine :=
    List.foldlRecOn (motive := fun x : Group => x.besideEngine = gr.besideEngine) (gr.owed n c) _ rfl fun y hy x hx =>
      (besideEngine_runMatrix y (isFlags_of_isPass (isPass_of_owed (List.mem_filter.1 hx).2).1)).trans hy
  exact congrArg (fun x : Group => { x with mq := gr.owedRan n c }) hfold

theorem besideEngine_runAt (gr : Group) (n : Nat) {c : MCmd} (hc : c.kind.isFlags = false) :
    (gr.runAt n c).besideEngine = { gr with mq := gr.owedRan n c }.besideEngine := by
  rw [runAt_eq]
  split
  · exact besideEngine_beforeRun gr n c
  · exact (besideEngine_runMatrix _ hc).trans (besideEngine_beforeRun gr n c)

theorem mq_runAt (gr : Group) (n : Nat) (c : MCmd) : (gr.runAt n c).mq = gr.owedRan n c := by
  rw [runAt_eq]
  split
  · rfl
  · exact mq_runMatrix _ _

/-- What does not change of a command in the queue. -/
def MCmd.key (c : MCmd) : MKind × Option Nat × Nat := (c.kind, c.flag, c.due)

theorem map_key_owedRan (gr : Group) (n : Nat) (c : MCmd) :
    ((gr.owedRan n c).eraseIdx n).map MCmd.key = (gr.mq.eraseIdx n).map MCmd.key := by
  have hkey : (gr.owedRan n c).map MCmd.key = gr.mq.map MCmd.key := by
    rw [Group.owedRan, List.map_append, List.map_map, List.map_congr_left (g := MCmd.key) fun x _ => ?_, ← List.map_append,
      List.take_append_drop]
    dsimp only [Function.comp]
    split <;> rfl
  rw [← List.eraseIdx_map, ← List.eraseIdx_map, hkey]

end Sys2Proof.Machine
end

section
namespace Sys2Proof.Machine

-- The end of a command ---------------------------------------------------------------------------------

/-- A group without its agents and its queue. -/
def Group.besideQueue (gr : Group) : Group := { gr.besideAgents with mq := [] }

theorem Group.congr_besideQueue {α : Type} {x y : Group} (h : x.besideQueue = y.besideQueue) (f : Group → α)
    (hf : ∀ gr : Group, f gr.besideQueue = f gr) : f x = f y := by
  rw [← hf x, h, hf y]

theorem sameRegisters_matrixDone (s : State) (g n : Nat) (fl : Option Nat) : SameRegisters s (s.matrixDone g n fl) :=
  (sameRegisters_modGrp (f := fun gr => { gr with mq := gr.mq.eraseIdx n }) s g (fun _ => rfl) fun _ => rfl).trans
    (sameRegisters_lower _ _ _)

theorem grp_matrixDone {s : State} {g : Nat} {gr : Group} (hg : s.grp g = some gr) (n : Nat) (fl : Option Nat) :
    ∃ gr', (s.matrixDone g n fl).grp g = some gr' ∧ gr'.mq = gr.mq.eraseIdx n ∧ gr'.besideQueue = gr.besideQueue := by
  have hmod : (s.modGrp g fun gr => { gr with mq := gr.mq.eraseIdx n }).grp g
      = some { gr with mq := gr.mq.eraseIdx n } := by
    rw [State.grp_modGrp, if_pos rfl, hg]
    rfl
  obtain ⟨gr', hgr', hsame⟩ := (sameBesideAgents_lower _ (.seq g) fl).grp hmod
  exact ⟨gr', hgr', Group.congr_besideAgents hsame Group.mq fun _ => rfl,
    congrArg (fun x : Group => { x with mq := [] }) hsame⟩

/-- A command that acts on its group alone. -/
def MKind.inGroup : MKind → Bool
  | .tload _ _ => false
  | .tstore _ _ _ => false
  | .marrive _ _ => false
  | .mswap => false
  | _ => true

/-- MATRIX_COMMAND_COMPLETE ends command n: it leaves the queue, the others stay in order, and P holds. -/
def CommandEnds (s : State) (g n : Nat) (gr : Group) (P : State → Group → Prop) : Prop :=
  ∃ t gr', exec (.matrixCommandComplete g) s = .next t ∧ t.grp g = some gr'
    ∧ gr'.mq.map MCmd.key = (gr.mq.eraseIdx n).map MCmd.key ∧ P t gr'

/-- The same, with no byte of memory and no register changed. -/
def QuietEnds (s : State) (g n : Nat) (gr : Group) (P : State → Group → Prop) : Prop :=
  CommandEnds s g n gr fun t gr' => SameMemory s t ∧ SameRegisters s t ∧ P t gr'

section Next
variable {s : State} {g n : Nat} {gr : Group} {c : MCmd} (hg : s.grp g = some gr)
  (hnext : gr.nextDone s.clk (s.tileStalls g gr) = some (n, c))
include hg hnext

theorem matrixCommandComplete_inGroup (hc : c.kind.inGroup = true) : exec (.matrixCommandComplete g) s
    = .next ((s.modGrp g fun gr => gr.runAt n c).matrixDone g n c.flag) := by
  show execMatrixCommandComplete g s = _
  unfold execMatrixCommandComplete
  simp only [hg, hnext]
  cases hk : c.kind with
  | tload us bar => simp [hk, MKind.inGroup] at hc
  | tstore us bar sig => simp [hk, MKind.inGroup] at hc
  | marrive b k => simp [hk, MKind.inGroup] at hc
  | mswap => simp [hk, MKind.inGroup] at hc
  | _ => rfl

/-- The group after a command that acts on it alone. -/
theorem commandEnds_inGroup (hc : c.kind.inGroup = true) {P : State → Group → Prop}
    (hP : ∀ t gr', t.grp g = some gr' → gr'.besideQueue = (gr.runAt n c).besideQueue → gr'.mq = (gr.owedRan n c).eraseIdx n
      → t.memories = s.memories → SameRegisters (s.modGrp g fun gr => gr.runAt n c) t → P t gr') :
    CommandEnds s g n gr P := by
  have hrun : (s.modGrp g fun gr => gr.runAt n c).grp g = some (gr.runAt n c) := by
    rw [State.grp_modGrp, if_pos rfl, hg]
    rfl
  obtain ⟨gr', hgr', hmq, hsame⟩ := grp_matrixDone hrun n c.flag
  rw [mq_runAt] at hmq
  exact ⟨_, gr', matrixCommandComplete_inGroup hg hnext hc, hgr', hmq ▸ map_key_owedRan gr n c,
    hP _ gr' hgr' hsame hmq (memories_matrixDone ..) (sameRegisters_matrixDone ..)⟩

theorem quietEnds_runAt (hc : c.kind.inGroup = true) (hf : c.kind.isFlags = false) {P : State → Group → Prop}
    (hP : ∀ t gr', t.grp g = some gr' → gr'.besideQueue = (gr.runAt n c).besideQueue → gr'.mq = (gr.owedRan n c).eraseIdx n
      → P t gr') : QuietEnds s g n gr P :=
  commandEnds_inGroup hg hnext hc fun t gr' ht hsame hmq hmem hregs => ⟨sameMemory_of_memories hmem,
    (sameRegisters_modGrp s g (fun y => Group.congr_besideEngine (besideEngine_runAt y n hf) Group.waves fun _ => rfl)
      fun y => Group.congr_besideEngine (besideEngine_runAt y n hf) Group.seq fun _ => rfl).trans hregs,
    hP t gr' ht hsame hmq⟩

/-- A command that is no pass does what runMatrix says of it. -/
theorem quietEnds_runMatrix (hc : c.kind.inGroup = true) (hf : c.kind.isFlags = false) (hp : c.kind.isPass = false)
    {P : State → Group → Prop}
    (hP : ∀ t gr', t.grp g = some gr' → gr'.besideQueue = (gr.runMatrix c.kind).besideQueue → P t gr') :
    QuietEnds s g n gr P :=
  quietEnds_runAt hg hnext hc hf fun t gr' ht hsame _ => hP t gr' ht (runAt_of_not_pass gr n hp ▸ hsame)

end Next

end Sys2Proof.Machine
end

section
/-!
O40. The commands that write accumulators: mzero, mload, mcvt and the passes (10 R252, R254, R256).
-/

namespace Sys2Proof.Machine

-- Accumulators -----------------------------------------------------------------------------------------

/-- A group without its accumulators, mfl, SPST and queue. -/
def Group.besideAcc (gr : Group) : Group := { gr with acc := [], mfl := 0, spst := 0, mq := [] }

theorem Group.congr_besideAcc {α : Type} {x y : Group} (h : x.besideAcc = y.besideAcc) (f : Group → α)
    (hf : ∀ gr : Group, f gr.besideAcc = f gr) : f x = f y := by
  rw [← hf x, h, hf y]

theorem State.accOf_of_grp {s : State} {g : Nat} {gr : Group} (h : s.grp g = some gr) (a m n : Nat) :
    s.accOf g a m n = gr.accAt a m n := by
  rw [State.accOf, h]

theorem accAt_of_besideQueue {x y : Group} (h : x.besideQueue = y.besideQueue) (a m n : Nat) :
    x.accAt a m n = y.accAt a m n := Group.congr_besideQueue h (fun gr => gr.accAt a m n) fun _ => rfl

theorem getD_putWord (m : SMap Word) (k p : Nat) (x : Word) :
    SMap.getD (if x = 0 then SMap.erase k m else SMap.set k x m) p 0 = if p = k then x else SMap.getD m p 0 := by
  unfold SMap.getD
  split
  next hx =>
    rw [SMap.get?_erase]
    by_cases h : p = k <;> simp [h, hx]
  next =>
    rw [SMap.get?_set]
    by_cases h : p = k <;> simp [h]

/-- The elements of an accumulator tile. -/
def InTile (q : Nat × Nat) : Prop := q.1 < 64 ∧ q.2 < 64

theorem accAt_setAcc (gr : Group) (a : Nat) {p : Nat × Nat} (hp : InTile p) (x : Word) (a' : Nat) {q : Nat × Nat}
    (hq : InTile q) : (gr.setAcc a p.1 p.2 x).accAt a' q.1 q.2 = if a' = a ∧ q = p then x else gr.accAt a' q.1 q.2 := by
  obtain ⟨hp1, hp2⟩ := hp
  obtain ⟨hq1, hq2⟩ := hq
  refine (getD_putWord gr.acc _ _ x).trans (if_congr ?_ rfl rfl)
  rw [Prod.ext_iff]
  omega

/-- The word of an element. -/
def Group.accCell (a : Nat) (gr : Group) (q : Nat × Nat) : Word := gr.accAt a q.1 q.2

/-- A value in an accumulator element. -/
def accWord (v : Ext) : Word := BitVec.ofNat 32 (fp32.encode rmN v).1

/-- The bits of mfl that a value written to an accumulator raises (R256): OVF and NAN. -/
def AccFlag (v : Ext) (b : Nat) : Prop := b = 0 ∧ overflows v ∨ b = 1 ∧ v.isNan = true

/-- Only accumulator a, mfl and SPST differ. -/
def OnlyAcc (a : Nat) (x y : Group) : Prop :=
  y.besideAcc = x.besideAcc ∧ ∀ a' q, InTile q → a' ≠ a → y.accCell a' q = x.accCell a' q

theorem OnlyAcc.refl (a : Nat) (x : Group) : OnlyAcc a x x := ⟨rfl, fun _ _ _ _ => rfl⟩

theorem OnlyAcc.trans {a : Nat} {x y z : Group} (h : OnlyAcc a x y) (k : OnlyAcc a y z) : OnlyAcc a x z :=
  ⟨k.1.trans h.1, fun a' q hq hne => (k.2 a' q hq hne).trans (h.2 a' q hq hne)⟩

theorem bit_ite (p : Prop) [Decidable p] (m : BitVec 32) (b : Nat) :
    bit (if p then m else 0) b = true ↔ p ∧ bit m b = true := by
  split <;> simp [*, bit]

theorem bit_flag {b k : Nat} (hk : k < 32) : bit (BitVec.ofNat 32 (2 ^ k)) b = true ↔ b = k := by
  rw [bit, BitVec.getLsbD_ofNat, Nat.testBit_two_pow, Bool.and_eq_true, decide_eq_true_eq, decide_eq_true_eq]
  omega

theorem bit_mflOVF (b : Nat) : bit mflOVF b = true ↔ b = 0 := bit_flag (k := 0) (by decide)
theorem bit_mflNAN (b : Nat) : bit mflNAN b = true ↔ b = 1 := bit_flag (k := 1) (by decide)
theorem bit_mflQSAT (b : Nat) : bit mflQSAT b = true ↔ b = 2 := bit_flag (k := 2) (by decide)
theorem bit_mflCVT (b : Nat) : bit mflCVT b = true ↔ b = 3 := bit_flag (k := 3) (by decide)
theorem bit_mflSIGMA (b : Nat) : bit mflSIGMA b = true ↔ b = 4 := bit_flag (k := 4) (by decide)

theorem mflAfter_of {old new : BitVec 32} {E : Nat → Prop} {ovf nan qsat cvt sigma : Prop}
    (h : ∀ b, bit new b = true ↔ bit old b = true ∨ E b) (h0 : E 0 ↔ ovf) (h1 : E 1 ↔ nan) (h2 : E 2 ↔ qsat)
    (h3 : E 3 ↔ cvt) (h4 : E 4 ↔ sigma) (h5 : ∀ b, 5 ≤ b → ¬ E b) : MflAfter old new ovf nan qsat cvt sigma :=
  ⟨(h 0).trans (or_congr_right h0), (h 1).trans (or_congr_right h1), (h 2).trans (or_congr_right h2),
    (h 3).trans (or_congr_right h3), (h 4).trans (or_congr_right h4),
    fun b hb => Bool.eq_iff_iff.2 ((h b).trans (or_iff_left (h5 b hb)))⟩

-- One element --------------------------------------------------------------------------------------------

theorem accWrite_visits (gr : Group) (a : Nat) {p : Nat × Nat} (hp : InTile p) (v : Ext) :
    OnlyAcc a gr (gr.accWrite a p.1 p.2 v)
      ∧ Visits (Group.accCell a) InTile (fun _ => accWord v) [p] gr (gr.accWrite a p.1 p.2 v)
      ∧ ∀ b, bit (gr.accWrite a p.1 p.2 v).mfl b = true ↔ bit gr.mfl b = true ∨ AccFlag v b := by
  have hat (a' : Nat) {q : Nat × Nat} (hq : InTile q) : (gr.accWrite a p.1 p.2 v).accCell a' q
      = if a' = a ∧ q = p then accWord v else gr.accCell a' q := accAt_setAcc gr a hp _ a' hq
  refine ⟨⟨rfl, fun a' q hq hne => (hat a' hq).trans (if_neg fun h => hne h.1)⟩, fun q hq => ?_, fun b => ?_⟩
  · rw [hat a hq]
    simp
  · have hmfl : (gr.accWrite a p.1 p.2 v).mfl = gr.mfl ||| ((if v.isNan then mflNAN else 0)
      ||| (if ((fp32.encode rmN v).2 &&& flOF) != 0 then mflOVF else 0)) := rfl
    rw [hmfl, bit_or, bit_or, Bool.or_eq_true, Bool.or_eq_true, bit_ite, bit_ite, bit_mflNAN, bit_mflOVF, bne_iff_ne]
    simp only [AccFlag, overflows, and_comm, or_comm]

/-- A walk over the elements of rows ms and columns ns of accumulator a, in which each takes the value v says. -/
theorem accWrite_walk {gr : Group} {a : Nat} {ms ns : List Nat} (hms : ms.Nodup) (hns : ns.Nodup)
    (hm : ∀ m ∈ ms, m < 64) (hn : ∀ n ∈ ns, n < 64) {f : Group → Nat → Nat → Ext} {v : Nat → Nat → Ext}
    (hf : ∀ y m n, OnlyAcc a gr y → y.accAt a m n = gr.accAt a m n → InTile (m, n) → f y m n = v m n) {y : Group}
    (hy : y = ms.foldl (fun y m => ns.foldl (fun y n => y.accWrite a m n (f y m n)) y) gr) :
    OnlyAcc a gr y
      ∧ (∀ m n, InTile (m, n) → y.accAt a m n = if m ∈ ms ∧ n ∈ ns then accWord (v m n) else gr.accAt a m n)
      ∧ ∀ b, bit y.mfl b = true ↔ bit gr.mfl b = true ∨ ∃ m n, (m ∈ ms ∧ n ∈ ns) ∧ AccFlag (v m n) b := by
  rw [foldl_product (fun (y : Group) (p : Nat × Nat) => y.accWrite a p.1 p.2 (f y p.1 p.2))] at hy
  have hcells : ((ms ×ˢ ns).flatMap fun p => [p]) = ms ×ˢ ns := List.flatMap_singleton' _
  obtain ⟨honly, hvisits, hflags⟩ := visits_foldl (V := Group.accCell a) (D := InTile) (P := OnlyAcc a gr)
    (G := fun p => accWord (v p.1 p.2)) (R := fun (y : Group) b => bit y.mfl b = true)
    (E := fun p b => AccFlag (v p.1 p.2) b) (cells := fun p => [p])
    (step := fun (y : Group) (p : Nat × Nat) => y.accWrite a p.1 p.2 (f y p.1 p.2)) (l := ms ×ˢ ns)
    (hcells.symm ▸ hms.product hns) (OnlyAcc.refl a gr) fun y p hp hP hsame => by
      obtain ⟨m, n⟩ := p
      obtain ⟨hmm, hnn⟩ := List.mem_product.1 hp
      have hin : InTile (m, n) := ⟨hm m hmm, hn n hnn⟩
      obtain ⟨h1, h2, h3⟩ := accWrite_visits y a hin (f y m n)
      have hv : f y m n = v m n := hf y m n hP (hsame (m, n) (by simp) hin) hin
      exact ⟨hP.trans h1, h2.congr fun q hq => by rw [List.mem_singleton.1 hq, hv], hv ▸ h3⟩
  rw [← hy, hcells] at hvisits
  rw [← hy] at honly hflags
  refine ⟨honly, fun m n hin => (hvisits (m, n) hin).trans ?_, fun b => ?_⟩
  · simp only [List.mem_product]
    rfl
  · rw [hflags b, Prod.exists]
    simp only [List.mem_product]

theorem get?_filter_keys {α : Type} (p : Nat → Bool) (k : Nat) (m : SMap α) :
    SMap.get? k (m.filter fun x => p x.1) = if p k then SMap.get? k m else none := by
  induction m with
  | nil => simp [SMap.get?]
  | cons x m ih =>
    obtain ⟨j, y⟩ := x
    by_cases hj : j = k
    · subst hj
      cases hp : p j <;> simp [hp, ih, SMap.get?]
    · cases hp : p j <;> simp [hp, ih, SMap.get?, hj]

-- mzero, mload and mcvt ------------------------------------------------------------------------------------

theorem mem_sel {p : DWord} {k : Nat} : k ∈ sel p ↔ bit p k = true ∧ k < 64 := by
  simp [sel, and_comm]

theorem nodup_sel (p : DWord) : (sel p).Nodup := List.nodup_range.filter _

/-- Accumulator a of the group at place g takes v where ok holds, and no other element changes. -/
def AccOnly (s : State) (g a : Nat) (ok : Nat → Nat → Prop) (v : Nat → Nat → Word) (t : State) : Prop :=
  (∀ m k, m < 64 → k < 64 → ok m k → t.accOf g a m k = v m k)
    ∧ ∀ a' m k, m < 64 → k < 64 → (a' ≠ a ∨ ¬ ok m k) → t.accOf g a' m k = s.accOf g a' m k

/-- P holds of an element of which ok does. -/
def Met (ok : Nat → Nat → Prop) (P : Nat → Nat → Prop) : Prop := ∃ m k, m < 64 ∧ k < 64 ∧ ok m k ∧ P m k

/-- mfl after values v have been written where ok holds. -/
theorem mflAfter_accFlags {old new : BitVec 32} {ms ns : List Nat} {v : Nat → Nat → Ext} {ok : Nat → Nat → Prop}
    (hok : ∀ m k, m ∈ ms ∧ k ∈ ns ↔ m < 64 ∧ k < 64 ∧ ok m k)
    (h : ∀ b, bit new b = true ↔ bit old b = true ∨ ∃ m k, (m ∈ ms ∧ k ∈ ns) ∧ AccFlag (v m k) b) :
    MflAfter old new (Met ok fun m k => overflows (v m k)) (Met ok fun m k => (v m k).isNan = true) False False False := by
  simp only [hok, and_assoc] at h
  refine mflAfter_of h ?_ ?_ ?_ ?_ ?_ fun b hb => ?_
  all_goals simp only [AccFlag, Met]
  · simp
  · simp
  · simp
  · simp
  · simp
  · rintro ⟨m, k, -, -, -, ⟨rfl, -⟩ | ⟨rfl, -⟩⟩ <;> omega

/-- The elements of a tile in the rows and columns that two predicates select. -/
def Picks (rp cp : DWord) (x : Tile) (m k : Nat) : Prop :=
  bit rp m = true ∧ m < x.rows ∧ bit cp k = true ∧ k < x.cols

section Moves
variable {s : State} {g n : Nat} {gr : Group} {c : MCmd} (hg : s.grp g = some gr)
  (hnext : gr.nextDone s.clk (s.tileStalls g gr) = some (n, c))
include hg

theorem accOnly_of {t : State} {gr' y : Group} {a : Nat} {ok : Nat → Nat → Prop} {v : Nat → Nat → Word}
    (ht : t.grp g = some gr') (hsame : gr'.besideQueue = y.besideQueue) (honly : OnlyAcc a gr y)
    (hat : ∀ m k, InTile (m, k) → (ok m k → y.accAt a m k = v m k) ∧ (¬ ok m k → y.accAt a m k = gr.accAt a m k)) :
    AccOnly s g a ok v t := by
  refine ⟨fun m k hm hk hok => ?_, fun a' m k hm hk hno => ?_⟩
  · rw [State.accOf_of_grp ht, accAt_of_besideQueue hsame]
    exact (hat m k ⟨hm, hk⟩).1 hok
  · rw [State.accOf_of_grp ht, accAt_of_besideQueue hsame, State.accOf_of_grp hg]
    by_cases ha : a' = a
    · exact ha ▸ (hat m k ⟨hm, hk⟩).2 (hno.resolve_left fun hne => hne ha)
    · exact honly.2 a' (m, k) ⟨hm, hk⟩ ha

/-- The group after a walk over the elements of an accumulator. -/
theorem accWalk_effect {t : State} {gr' y : Group} {a : Nat} {ms ns : List Nat} {ok : Nat → Nat → Prop}
    {v : Nat → Nat → Ext} (ht : t.grp g = some gr') (hsame : gr'.besideQueue = y.besideQueue)
    (hok : ∀ m k, m ∈ ms ∧ k ∈ ns ↔ m < 64 ∧ k < 64 ∧ ok m k)
    (hwalk : OnlyAcc a gr y
      ∧ (∀ m n, InTile (m, n) → y.accAt a m n = if m ∈ ms ∧ n ∈ ns then accWord (v m n) else gr.accAt a m n)
      ∧ ∀ b, bit y.mfl b = true ↔ bit gr.mfl b = true ∨ ∃ m n, (m ∈ ms ∧ n ∈ ns) ∧ AccFlag (v m n) b) :
    AccOnly s g a ok (fun m k => accWord (v m k)) t
      ∧ MflAfter gr.mfl gr'.mfl (Met ok fun m k => overflows (v m k)) (Met ok fun m k => (v m k).isNan = true)
          False False False := by
  obtain ⟨honly, hat, hflags⟩ := hwalk
  rw [Group.congr_besideQueue hsame Group.mfl fun _ => rfl]
  refine ⟨accOnly_of hg ht hsame honly fun m k hin => ⟨fun h => ?_, fun h => ?_⟩, mflAfter_accFlags hok hflags⟩
  · rw [hat m k hin, if_pos ((hok m k).2 ⟨hin.1, hin.2, h⟩)]
  · rw [hat m k hin, if_neg fun hmem => h ((hok m k).1 hmem).2.2]

include hnext

theorem mzero_effect {a : Nat} (hc : c.kind = .mzero a) : QuietEnds s g n gr fun t gr' =>
    gr'.mfl = gr.mfl ∧ AccOnly s g a (fun _ _ => True) (fun _ _ => 0) t := by
  refine quietEnds_runMatrix hg hnext (by rw [hc]; rfl) (by rw [hc]; rfl) (by rw [hc]; rfl) fun t gr' ht hsame => ?_
  rw [hc] at hsame
  have hat (a' : Nat) {m k : Nat} (hin : InTile (m, k)) : (gr.runMatrix (.mzero a)).accAt a' m k
      = if a' = a then 0 else gr.accAt a' m k := by
    obtain ⟨hm, hk⟩ := hin
    have htile : (4096 * a' + 64 * m + k) / 4096 = a' := by omega
    refine (congrArg (Option.getD · 0) (get?_filter_keys (fun i => i / 4096 != a) _ gr.acc)).trans ?_
    rw [htile]
    by_cases h : a' = a
    · simp [h]
    · simp [h, Group.accAt, SMap.getD]
  refine ⟨Group.congr_besideQueue hsame Group.mfl fun _ => rfl, accOnly_of hg ht hsame ⟨rfl, fun a' q hq hne => ?_⟩ ?_⟩
  · exact (hat a' hq).trans (if_neg hne)
  · exact fun m k hin => ⟨fun _ => (hat a hin).trans (if_pos rfl), fun h => absurd trivial h⟩

theorem mload_effect {a : Nat} {x : Tile} {rp cp : DWord} (hc : c.kind = .mload a x rp cp) :
    QuietEnds s g n gr fun t gr' =>
      AccOnly s g a (Picks rp cp x) (fun m k => accWord (gr.tileStored x m k)) t
        ∧ MflAfter gr.mfl gr'.mfl (Met (Picks rp cp x) fun m k => overflows (gr.tileStored x m k))
            (Met (Picks rp cp x) fun m k => (gr.tileStored x m k).isNan = true) False False False := by
  refine quietEnds_runMatrix hg hnext (by rw [hc]; rfl) (by rw [hc]; rfl) (by rw [hc]; rfl) fun t gr' ht hsame => ?_
  rw [hc] at hsame
  refine accWalk_effect hg ht hsame (ms := (sel rp).filter (· < x.rows)) (ns := (sel cp).filter (· < x.cols))
    (fun m k => ?_) (accWrite_walk ((nodup_sel rp).filter _) ((nodup_sel cp).filter _) (fun m hm => ?_) (fun k hk => ?_)
      (f := fun y m k => y.tileStored x m k) (fun y m k hy _ _ => ?_) rfl)
  · simp only [List.mem_filter, mem_sel, decide_eq_true_eq, Picks]
    tauto
  · exact (mem_sel.1 (List.mem_filter.1 hm).1).2
  · exact (mem_sel.1 (List.mem_filter.1 hk).1).2
  · exact Group.congr_besideAcc hy.1 (fun gr => gr.tileStored x m k) fun _ => rfl

theorem mcvt_effect {a src : Nat} {rp cp : DWord} {f : Word} (hc : c.kind = .mcvt a src rp cp f) :
    QuietEnds s g n gr fun t gr' =>
      AccOnly s g a (fun m k => bit rp m = true ∧ bit cp k = true)
          (fun m k => accWord ((fp32.decode (gr.accAt src m k).toNat).mul (fp32.decode f.toNat)).1) t
        ∧ MflAfter gr.mfl gr'.mfl
            (Met (fun m k => bit rp m = true ∧ bit cp k = true) fun m k =>
              overflows ((fp32.decode (gr.accAt src m k).toNat).mul (fp32.decode f.toNat)).1)
            (Met (fun m k => bit rp m = true ∧ bit cp k = true) fun m k =>
              ((fp32.decode (gr.accAt src m k).toNat).mul (fp32.decode f.toNat)).1.isNan = true) False False False := by
  refine quietEnds_runMatrix hg hnext (by rw [hc]; rfl) (by rw [hc]; rfl) (by rw [hc]; rfl) fun t gr' ht hsame => ?_
  rw [hc] at hsame
  refine accWalk_effect hg ht hsame (ms := sel rp) (ns := sel cp) (fun m k => ?_) (accWrite_walk (nodup_sel rp)
    (nodup_sel cp) (fun m hm => (mem_sel.1 hm).2) (fun k hk => (mem_sel.1 hk).2)
    (f := fun y m k => ((fp32.decode (y.accAt src m k).toNat).mul (fp32.decode f.toNat)).1) (fun y m k hy hat hin => ?_) rfl)
  · simp only [mem_sel]
    tauto
  · have hsrc : y.accAt src m k = gr.accAt src m k := by
      by_cases h : src = a
      · rw [h, hat]
      · exact hy.2 src (m, k) hin h
    simp only [hsrc]

end Moves

end Sys2Proof.Machine
end

section
/-!
O40. The passes (10 R242, R252, R256): their elements, the earlier passes on their tile, and mfl.
-/

namespace Sys2Proof.Machine

-- The inputs of a row ------------------------------------------------------------------------------------

/-- The bits of mfl that an activation of a row may raise: QSAT, and SIGMA where its factor is refused (R252, R256). -/
def InputFlags (gr : Group) (sm : Option Nat) (y : Latched) : Prop :=
  (∀ b, bit y.mf b = true → b = 2 ∨ b = 4) ∧ (bit y.mf 4 = true ↔ ∃ o, sm = some o ∧ (gr.sigma o y.k).2 = true)

theorem inputFlags_recoded {gr : Group} {sm : Option Nat} {y : Latched} (h : InputFlags gr sm y) (q : Bool) (v : Ext) :
    InputFlags gr sm { y with v := v, mf := y.mf ||| (if q then mflQSAT else 0) } := by
  obtain ⟨hbits, hsigma⟩ := h
  refine ⟨fun b hb => ?_, Iff.trans ?_ hsigma⟩
  · rw [bit_or, Bool.or_eq_true, bit_ite, bit_mflQSAT] at hb
    exact hb.elim (hbits b) fun h => .inl h.2
  · rw [bit_or, Bool.or_eq_true, bit_ite, bit_mflQSAT]
    simp

theorem inputFlags_actRow {gr : Group} {x : Tile} {ks : List Nat} {sm : Option Nat} {set : Nat} {sfw : BitVec 16}
    {md : SMap DWord} {side : Option Layout} {m : Nat} {y : Latched} (hy : y ∈ gr.actRow x ks sm set sfw md side m) :
    InputFlags gr sm y := by
  unfold Group.actRow at hy
  extract_lets st sw raw at hy
  have hraw (z : Latched) (hz : z ∈ raw) : InputFlags gr sm z := by
    obtain ⟨k, -, rfl⟩ := List.mem_map.1 hz
    cases sm with
    | none => exact ⟨fun b hb => by simp [bit] at hb, by simp [bit]⟩
    | some o =>
      refine ⟨fun b hb => .inr ?_, ?_⟩
      · rw [bit_ite, bit_mflSIGMA] at hb
        exact hb.2
      · rw [bit_ite, bit_mflSIGMA]
        simp
  split at hy
  · exact hraw y hy
  split at hy
  · obtain ⟨b, -, hb⟩ := List.mem_flatMap.1 hy
    obtain ⟨z, hz, rfl⟩ := List.mem_map.1 hb
    exact inputFlags_recoded (hraw z (List.mem_filter.1 hz).1) _ _
  · obtain ⟨z, hz, rfl⟩ := List.mem_map.1 hy
    exact inputFlags_recoded (hraw z hz) _ _

-- One pass -------------------------------------------------------------------------------------------------

theorem passInputs_of_besideAcc {x y : Group} (h : x.besideAcc = y.besideAcc) (t : Tile) (cpk : DWord) (p : Plane)
    (sm : Option Nat) (set : Nat) (sfw : BitVec 16) (md : SMap DWord) (side : Option Layout) (m : Nat) :
    x.passInputs t cpk p sm set sfw md side m = y.passInputs t cpk p sm set sfw md side m :=
  Group.congr_besideAcc h (fun gr => gr.passInputs t cpk p sm set sfw md side m) fun _ => rfl

section Row
variable {fam a : Nat} {z : Bool} {p : Plane} {ns : List Nat} (hns : ns.Nodup) (hn : ∀ n ∈ ns, n < 64)
include hns hn

/-- A row of a pass on accumulator a, whose inputs are xs and whose values are v. -/
theorem passRow_visits {xs : List Latched} {m : Nat} (hm : m < 64) {gr : Group} {v : Nat → Nat → Ext}
    (hv : ∀ n ∈ ns, passValue z (gr.accAt a m n) (p.sumOf fam xs n) = v m n) :
    OnlyAcc a gr (gr.passRow fam a z p ns xs m)
      ∧ Visits (Group.accCell a) InTile (fun q => accWord (v q.1 q.2)) (ns.map fun n => (m, n)) gr
          (gr.passRow fam a z p ns xs m)
      ∧ ∀ b, bit (gr.passRow fam a z p ns xs m).mfl b = true ↔ bit gr.mfl b = true
          ∨ ((∃ x ∈ xs, bit x.mf b = true) ∨ ∃ n ∈ ns, AccFlag (v m n) b) := by
  have hcells : (ns.flatMap fun n => [(m, n)]) = ns.map fun n => (m, n) := (List.map_eq_flatMap ..).symm
  have hraised : OnlyAcc a gr (gr.raise (xs.foldl (fun b x => b ||| x.mf) 0) (xs.foldl (fun b x => b ||| x.st) 0)) :=
    ⟨rfl, fun _ _ _ _ => rfl⟩
  obtain ⟨honly, hvisits, hflags⟩ := visits_foldl (V := Group.accCell a) (D := InTile) (P := OnlyAcc a gr)
    (G := fun q => accWord (v q.1 q.2)) (R := fun (y : Group) b => bit y.mfl b = true) (E := fun n b => AccFlag (v m n) b)
    (cells := fun n => [(m, n)]) (step := Group.passCell fam a z p xs m)
    (hcells ▸ hns.map fun _ _ h => (Prod.mk.inj h).2) hraised fun y n hnn hP hsame => by
      have hin : InTile (m, n) := ⟨hm, hn n hnn⟩
      have hold : y.accAt a m n = gr.accAt a m n := hsame (m, n) (by simp) hin
      obtain ⟨h1, h2, h3⟩ := accWrite_visits y a hin (passValue z (y.accAt a m n) (p.sumOf fam xs n))
      have hval : passValue z (y.accAt a m n) (p.sumOf fam xs n) = v m n := hold ▸ hv n hnn
      exact ⟨hP.trans h1, h2.congr fun q hq => by rw [List.mem_singleton.1 hq, hval], hval ▸ h3⟩
  rw [hcells] at hvisits
  refine ⟨honly, hvisits, fun b => (hflags b).trans ?_⟩
  show bit (gr.mfl ||| _) b = true ∨ _ ↔ _
  rw [bit_or, Bool.or_eq_true, bit_foldl_or, or_assoc]
  simp [bit]

end Row

section Pass
variable {gr : Group} {plane : Nat} {p : Plane} (fam a : Nat) (t : Tile) (rp cpn cpk : DWord) (z : Bool) (sm : Option Nat)
  (set : Nat) (sfw : BitVec 16) (md : SMap DWord) (side : Option Layout)

/-- The value that a pass writes to element (m, n) (R252). -/
def Group.passed (gr : Group) (p : Plane) (m n : Nat) : Ext :=
  passValue z (gr.accAt a m n) (p.sumOf fam (gr.passInputs t cpk p sm set sfw md side m) n)

/-- The elements that a pass writes (R252). -/
def PassPicks (p : Plane) (m n : Nat) : Prop := bit rp m = true ∧ m < t.rows ∧ bit cpn n = true ∧ n < p.n

theorem pass_walk (hp : gr.planes.getD plane none = some p) {y : Group}
    (hy : y = gr.pass fam a t rp cpn cpk z plane sm set sfw md side) :
    OnlyAcc a gr y
      ∧ (∀ m n, InTile (m, n) → (PassPicks t rp cpn p m n → y.accAt a m n
            = accWord (gr.passed fam a t cpk z sm set sfw md side p m n))
          ∧ (¬ PassPicks t rp cpn p m n → y.accAt a m n = gr.accAt a m n))
      ∧ ∀ b, bit y.mfl b = true ↔ bit gr.mfl b = true ∨ ∃ m n, InTile (m, n) ∧ PassPicks t rp cpn p m n
          ∧ ((∃ x ∈ gr.passInputs t cpk p sm set sfw md side m, bit x.mf b = true)
            ∨ AccFlag (gr.passed fam a t cpk z sm set sfw md side p m n) b) := by
  let ns := (sel cpn).filter (· < p.n)
  let ms := (sel rp).filter (· < t.rows)
  have hpicks (m n : Nat) : m ∈ ms ∧ n ∈ ns ↔ InTile (m, n) ∧ PassPicks t rp cpn p m n := by
    simp only [ms, ns, List.mem_filter, mem_sel, decide_eq_true_eq, InTile, PassPicks]
    tauto
  have hns : ns.Nodup := (nodup_sel cpn).filter _
  have hn (n : Nat) (h : n ∈ ns) : n < 64 := (mem_sel.1 (List.mem_filter.1 h).1).2
  rw [pass_of_plane hp] at hy
  by_cases hempty : ns = []
  · have hno (m n : Nat) (h : InTile (m, n) ∧ PassPicks t rp cpn p m n) : False := by
      simpa [hempty] using ((hpicks m n).2 h).2
    rw [if_pos (List.isEmpty_iff.2 hempty)] at hy
    rw [hy]
    refine ⟨.refl a gr, fun m n hin => ⟨fun h => absurd ⟨hin, h⟩ (hno m n), fun _ => rfl⟩, fun b => ?_⟩
    refine (or_iff_left ?_).symm
    rintro ⟨m, n, hin, hpick, -⟩
    exact hno m n ⟨hin, hpick⟩
  rw [if_neg (mt List.isEmpty_iff.1 hempty)] at hy
  have hcells : (ms.flatMap fun m => ns.map fun n => (m, n)) = ms ×ˢ ns := rfl
  obtain ⟨honly, hvisits, hflags⟩ := visits_foldl (V := Group.accCell a) (D := InTile) (P := OnlyAcc a gr)
    (G := fun q => accWord (gr.passed fam a t cpk z sm set sfw md side p q.1 q.2))
    (R := fun (y : Group) b => bit y.mfl b = true)
    (E := fun m b => (∃ x ∈ gr.passInputs t cpk p sm set sfw md side m, bit x.mf b = true)
      ∨ ∃ n ∈ ns, AccFlag (gr.passed fam a t cpk z sm set sfw md side p m n) b)
    (cells := fun m => ns.map fun n => (m, n))
    (step := fun gr m => gr.passRow fam a z p ns (gr.passInputs t cpk p sm set sfw md side m) m)
    (hcells ▸ ((nodup_sel rp).filter _).product hns) (OnlyAcc.refl a gr) fun y m hmm hP hsame => by
      have hm : m < 64 := (mem_sel.1 (List.mem_filter.1 hmm).1).2
      have hxs := passInputs_of_besideAcc hP.1 t cpk p sm set sfw md side m
      obtain ⟨h1, h2, h3⟩ := passRow_visits hns hn (fam := fam) (z := z) (p := p) hm (gr := y)
        (xs := gr.passInputs t cpk p sm set sfw md side m) (v := gr.passed fam a t cpk z sm set sfw md side p)
        fun n hnn => by
          have hold : y.accAt a m n = gr.accAt a m n := hsame (m, n) (List.mem_map_of_mem hnn) ⟨hm, hn n hnn⟩
          rw [hold]
          rfl
      rw [hxs]
      exact ⟨hP.trans h1, h2, h3⟩
  rw [← hy] at honly hvisits hflags
  rw [hcells] at hvisits
  have hmem (m n : Nat) : (m, n) ∈ ms ×ˢ ns ↔ InTile (m, n) ∧ PassPicks t rp cpn p m n :=
    List.mem_product.trans (hpicks m n)
  refine ⟨honly, fun m n hin => ⟨fun h => (hvisits (m, n) hin).trans (if_pos ((hmem m n).2 ⟨hin, h⟩)),
    fun h => (hvisits (m, n) hin).trans (if_neg fun k => h ((hmem m n).1 k).2)⟩,
    fun b => (hflags b).trans (or_congr_right ?_)⟩
  obtain ⟨n0, hn0⟩ := List.exists_mem_of_ne_nil ns hempty
  constructor
  · rintro ⟨m, hm, hx | ⟨n, hnn, hflag⟩⟩
    · obtain ⟨hin, hpick⟩ := (hpicks m n0).1 ⟨hm, hn0⟩
      exact ⟨m, n0, hin, hpick, .inl hx⟩
    · obtain ⟨hin, hpick⟩ := (hpicks m n).1 ⟨hm, hnn⟩
      exact ⟨m, n, hin, hpick, .inr hflag⟩
  · rintro ⟨m, n, hin, hpick, hflag⟩
    obtain ⟨hm, hnn⟩ := (hpicks m n).2 ⟨hin, hpick⟩
    exact ⟨m, hm, hflag.imp_right fun h => ⟨n, hnn, h⟩⟩

end Pass

-- Passes one after another -----------------------------------------------------------------------------------

theorem passElem_mmac {gr : Group} {plane : Nat} {p : Plane} (hp : gr.planes.getD plane none = some p) (fam a : Nat)
    (t : Tile) (rp cpn cpk : DWord) (z : Bool) (sm : Option Nat) (set : Nat) (sfw : BitVec 16) (md : SMap DWord)
    (side : Option Layout) (m n : Nat) (old : Word) :
    gr.passElem (.mmac fam a t rp cpn cpk z plane sm set sfw md side) m n old
      = if bit rp m && m < t.rows && bit cpn n && n < p.n then
          accWord (passValue z old (p.sumOf fam (gr.passInputs t cpk p sm set sfw md side m) n)) else old := by
  simp only [Group.passElem, hp]
  rfl

theorem passElem_of_besideAcc {x y : Group} (h : x.besideAcc = y.besideAcc) (k : MKind) (m n : Nat) (old : Word) :
    x.passElem k m n old = y.passElem k m n old :=
  Group.congr_besideAcc h (fun gr => gr.passElem k m n old) fun _ => rfl

/-- A pass changes the elements of its own accumulator as passElem says. -/
theorem accAt_runMatrix_pass (gr : Group) {k : MKind} (hk : k.isPass = true) :
    (gr.runMatrix k).besideAcc = gr.besideAcc ∧ ∀ a m n, InTile (m, n) → (gr.runMatrix k).accAt a m n
      = if (a, true) ∈ k.accs then gr.passElem k m n (gr.accAt a m n) else gr.accAt a m n := by
  cases k with
  | mmac fam a t rp cpn cpk z plane sm set sfw md side =>
    have hacc (a' : Nat) : (a', true) ∈ (MKind.mmac fam a t rp cpn cpk z plane sm set sfw md side).accs ↔ a' = a := by
      simp [MKind.accs]
    simp only [hacc]
    show (gr.pass fam a t rp cpn cpk z plane sm set sfw md side).besideAcc = _ ∧ ∀ a' m n, _ →
      (gr.pass fam a t rp cpn cpk z plane sm set sfw md side).accAt a' m n = _
    cases hp : gr.planes.getD plane none with
    | none =>
      rw [pass_of_no_plane hp]
      have hkeep (m n : Nat) (old : Word) :
          gr.passElem (.mmac fam a t rp cpn cpk z plane sm set sfw md side) m n old = old := by
        simp only [Group.passElem, hp]
      exact ⟨rfl, fun a' m n _ => by rw [hkeep, ite_self]⟩
    | some p =>
      obtain ⟨honly, hat, -⟩ := pass_walk fam a t rp cpn cpk z sm set sfw md side hp rfl
      refine ⟨honly.1, fun a' m n hin => ?_⟩
      by_cases ha : a' = a
      · rw [if_pos ha, ha, passElem_mmac hp]
        by_cases hpick : PassPicks t rp cpn p m n
        · rw [(hat m n hin).1 hpick, if_pos (by simpa [PassPicks, and_assoc] using hpick)]
          rfl
        · rw [(hat m n hin).2 hpick, if_neg (by simpa [PassPicks, and_assoc] using hpick)]
      · rw [if_neg ha]
        exact honly.2 a' (m, n) hin ha
  | _ => cases hk

theorem accs_of_samePass {k k' : MKind} (h : k.samePass k' = true) (a : Nat) :
    (a, true) ∈ k.accs ↔ (a, true) ∈ k'.accs := by
  simp only [MKind.samePass, Bool.and_eq_true] at h
  obtain ⟨⟨hk, hk'⟩, hclash⟩ := h
  cases k with
  | mmac fam a₁ =>
    cases k' with
    | mmac fam' a' =>
      have hacc : a₁ = a' := by simpa [usesClash, MKind.accs] using hclash
      simp [MKind.accs, hacc]
    | _ => cases hk'
  | _ => cases hk

theorem accAt_foldl_passes {c : MKind} {l : List MCmd} (hl : ∀ x ∈ l, x.kind.samePass c = true) {gr y : Group}
    (hy : y.besideAcc = gr.besideAcc) : (l.foldl (fun gr x => gr.runMatrix x.kind) y).besideAcc = gr.besideAcc
      ∧ ∀ a m n, InTile (m, n) → (l.foldl (fun gr x => gr.runMatrix x.kind) y).accAt a m n
        = if (a, true) ∈ c.accs then l.foldl (fun w x => gr.passElem x.kind m n w) (y.accAt a m n) else y.accAt a m n := by
  induction l generalizing y with
  | nil => exact ⟨hy, fun a m n _ => by simp⟩
  | cons x l ih =>
    have hx := hl x (by simp)
    have hpass : x.kind.isPass = true := by
      simp only [MKind.samePass, Bool.and_eq_true] at hx
      exact hx.1.1
    obtain ⟨hbeside, hat⟩ := accAt_runMatrix_pass y hpass
    obtain ⟨hbeside', hat'⟩ := ih (fun w hw => hl w (by simp [hw])) (hbeside.trans hy)
    refine ⟨hbeside', fun a m n hin => ?_⟩
    rw [List.foldl_cons, hat' a m n hin, hat a m n hin, passElem_of_besideAcc hy]
    by_cases ha : (a, true) ∈ c.accs
    · simp only [accs_of_samePass hx a, ha, if_true, List.foldl_cons]
    · simp only [accs_of_samePass hx a, ha, if_false]

theorem ran_of_owed (c x : MCmd) : (if c.owed x then { x with ran := true } else x).ran
    = (x.ran || x.kind.samePass c.kind) := by
  obtain ⟨k, flag, due, ran⟩ := x
  cases ran <;> cases h : k.samePass c.kind <;> simp [MCmd.owed, h]

section Effect
variable {s : State} {g n : Nat} {gr : Group} {c : MCmd} (hg : s.grp g = some gr)
  (hnext : gr.nextDone s.clk (s.tileStalls g gr) = some (n, c))

theorem samePass_self {k : MKind} (hk : k.isPass = true) : k.samePass k = true := by
  cases k with
  | mmac => simp [MKind.samePass, MKind.isPass, usesClash, MKind.accs]
  | _ => cases hk

/-- The accumulators when a pass and those owed to it have run. -/
theorem accAt_runAt_pass (gr : Group) (n : Nat) {c : MCmd} (hc : c.kind.isPass = true) (a : Nat) {m k : Nat}
    (hin : InTile (m, k)) : (gr.runAt n c).accAt a m k = if (a, true) ∈ c.kind.accs then
      (gr.owed n c ++ if c.ran then [] else [c]).foldl (fun w x => gr.passElem x.kind m k w) (gr.accAt a m k)
      else gr.accAt a m k := by
  have howed (x : MCmd) (hx : x ∈ gr.owed n c) : x.kind.samePass c.kind = true := by
    have h := (List.mem_filter.1 hx).2
    simp only [MCmd.owed, Bool.and_eq_true] at h
    exact h.2
  have hall (x : MCmd) (hx : x ∈ gr.owed n c ++ if c.ran then [] else [c]) : x.kind.samePass c.kind = true := by
    rcases List.mem_append.1 hx with h | h
    · exact howed x h
    · cases hran : c.ran <;> simp [hran] at h
      rw [h]
      exact samePass_self hc
  rw [← (accAt_foldl_passes hall (gr := gr) (y := gr) rfl).2 a m k hin, runAt_eq, hc, Bool.and_true, List.foldl_append]
  cases hran : c.ran with
  | true => rfl
  | false =>
    have hbefore : (gr.beforeRun n c).besideAcc = ((gr.owed n c).foldl (fun gr x => gr.runMatrix x.kind) gr).besideAcc := rfl
    rw [if_neg (by decide), (accAt_runMatrix_pass _ hc).2 a m k hin, passElem_of_besideAcc hbefore]
    exact ((accAt_runMatrix_pass _ hc).2 a m k hin).symm

include hg hnext

theorem pass_takesEffect (hc : c.kind.isPass = true) : QuietEnds s g n gr fun t gr' =>
    (∀ a, (a, true) ∈ c.kind.accs → ∀ m k, m < 64 → k < 64 → t.accOf g a m k
        = (gr.owed n c ++ if c.ran then [] else [c]).foldl (fun w x => gr.passElem x.kind m k w) (s.accOf g a m k))
      ∧ (∀ a m k, (a, true) ∉ c.kind.accs → m < 64 → k < 64 → t.accOf g a m k = s.accOf g a m k)
      ∧ ∀ j x, j < n → gr.mq[j]? = some x →
          (gr'.mq[j]?).map MCmd.ran = some (x.ran || x.kind.samePass c.kind) := by
  have hgroup : c.kind.inGroup = true := by
    cases hk : c.kind with
    | mmac => rfl
    | _ => simp [hk, MKind.isPass] at hc
  refine quietEnds_runAt hg hnext hgroup (isFlags_of_isPass hc) fun t gr' ht hsame hmq => ⟨fun a ha m k hm hk => ?_,
    fun a m k ha hm hk => ?_, fun j x hj hx => ?_⟩
  · rw [State.accOf_of_grp ht, accAt_of_besideQueue hsame, accAt_runAt_pass gr n hc a ⟨hm, hk⟩, if_pos ha,
      State.accOf_of_grp hg]
  · rw [State.accOf_of_grp ht, accAt_of_besideQueue hsame, accAt_runAt_pass gr n hc a ⟨hm, hk⟩, if_neg ha,
      State.accOf_of_grp hg]
  · have hlt := (List.getElem?_eq_some_iff.1 hx).1
    rw [hmq, List.getElem?_eraseIdx_of_lt hj, Group.owedRan, List.getElem?_append_left (by simp; omega), List.getElem?_map,
      List.getElem?_take_of_lt hj, hx]
    exact congrArg some (ran_of_owed c x)

omit hg hnext in
theorem none_owed_of_ran
    (hran : ∀ j y, j < n → gr.mq[j]? = some y → y.kind.samePass c.kind = true → y.ran = true) (y : MCmd)
    (hy : y ∈ gr.mq.take n) : c.owed y = false := by
  obtain ⟨j, hj⟩ := List.mem_iff_getElem?.1 hy
  obtain ⟨hlt, hget⟩ := by simpa [List.getElem?_take] using hj
  refine Bool.eq_false_iff.2 fun h => ?_
  simp only [MCmd.owed, Bool.and_eq_true, Bool.not_eq_true'] at h
  exact absurd (hran j y hlt hget h.2) (by simp [h.1])

/-- mfl after a pass to which none is owed (R256). -/
theorem pass_flags {fam a : Nat} {x : Tile} {rp cpn cpk : DWord} {z : Bool} {plane : Nat} {sm : Option Nat} {set : Nat}
    {sfw : BitVec 16} {md : SMap DWord} {side : Option Layout} {p : Plane}
    (hc : c.kind = .mmac fam a x rp cpn cpk z plane sm set sfw md side) (hp : gr.planes.getD plane none = some p)
    (hran : c.ran = false)
    (howed : ∀ j y, j < n → gr.mq[j]? = some y → y.kind.samePass c.kind = true → y.ran = true) :
    QuietEnds s g n gr fun _ gr' => MflAfter gr.mfl gr'.mfl
      (Met (PassPicks x rp cpn p) fun m k => overflows (gr.passed fam a x cpk z sm set sfw md side p m k))
      (Met (PassPicks x rp cpn p) fun m k => (gr.passed fam a x cpk z sm set sfw md side p m k).isNan = true)
      (Met (PassPicks x rp cpn p) fun m _ => ∃ y ∈ gr.passInputs x cpk p sm set sfw md side m, bit y.mf 2 = true) False
      (Met (PassPicks x rp cpn p) fun m _ => sm.isSome = true
        ∧ ∃ y ∈ gr.passInputs x cpk p sm set sfw md side m, (gr.sigma (sm.getD 0) y.k).2 = true) := by
  have hrun : gr.runAt n c = gr.pass fam a x rp cpn cpk z plane sm set sfw md side := by
    rw [runAt_eq, hran, Bool.false_and, if_neg (by decide), beforeRun_of_none_owed (none_owed_of_ran howed), hc]
    rfl
  refine quietEnds_runAt hg hnext (by rw [hc]; rfl) (by rw [hc]; rfl) fun t gr' ht hsame _ => ?_
  rw [hrun] at hsame
  obtain ⟨-, -, hflags⟩ := pass_walk fam a x rp cpn cpk z sm set sfw md side hp rfl
  rw [Group.congr_besideQueue hsame Group.mfl fun _ => rfl]
  have hinput (m : Nat) (y : Latched) (hy : y ∈ gr.passInputs x cpk p sm set sfw md side m) : InputFlags gr sm y :=
    inputFlags_actRow (List.mem_filter.1 hy).1
  have hno {b m : Nat} (hb : b ≠ 2 ∧ b ≠ 4) : ¬ ∃ y ∈ gr.passInputs x cpk p sm set sfw md side m, bit y.mf b = true :=
    fun ⟨y, hy, hbit⟩ => ((hinput m y hy).1 b hbit).elim hb.1 hb.2
  have hmet (b : Nat) {P : Nat → Nat → Prop}
      (h : ∀ m k, ((∃ y ∈ gr.passInputs x cpk p sm set sfw md side m, bit y.mf b = true)
        ∨ AccFlag (gr.passed fam a x cpk z sm set sfw md side p m k) b) ↔ P m k) :
      (∃ m k, InTile (m, k) ∧ PassPicks x rp cpn p m k
        ∧ ((∃ y ∈ gr.passInputs x cpk p sm set sfw md side m, bit y.mf b = true)
          ∨ AccFlag (gr.passed fam a x cpk z sm set sfw md side p m k) b)) ↔ Met (PassPicks x rp cpn p) P :=
    exists_congr fun m => exists_congr fun k => and_assoc.trans (and_congr_right' (and_congr_right'
      (and_congr_right' (h m k))))
  refine mflAfter_of hflags (hmet 0 fun m k => ?_) (hmet 1 fun m k => ?_) (hmet 2 fun m k => ?_) ?_
    (hmet 4 fun m k => ?_) ?_
  · simp [hno, AccFlag]
  · simp [hno, AccFlag]
  · simp [AccFlag]
  · rw [iff_false]
    rintro ⟨m, k, -, -, h | h⟩
    · exact hno (by decide) h
    · simp [AccFlag] at h
  · have hsigma (y : Latched) (hy : y ∈ gr.passInputs x cpk p sm set sfw md side m) : bit y.mf 4 = true
        ↔ sm.isSome = true ∧ (gr.sigma (sm.getD 0) y.k).2 = true := by
      rw [(hinput m y hy).2]
      cases sm <;> simp
    constructor
    · rintro (⟨y, hy, hbit⟩ | h)
      · obtain ⟨hsm, hbad⟩ := (hsigma y hy).1 hbit
        exact ⟨hsm, y, hy, hbad⟩
      · simp [AccFlag] at h
    · rintro ⟨hsm, y, hy, hbad⟩
      exact .inl ⟨y, hy, (hsigma y hy).2 ⟨hsm, hbad⟩⟩
  · rintro b hb ⟨m, k, -, -, h | h⟩
    · exact hno (by omega) h
    · rcases h with ⟨rfl, -⟩ | ⟨rfl, -⟩ <;> omega

end Effect

end Sys2Proof.Machine
end

section
/-!
O40. tzero, the transfers, marrive, mflags and mswap (10 R245, R246, R249, R256, R257).
-/

namespace Sys2Proof.Machine

-- tzero --------------------------------------------------------------------------------------------------

/-- The runs of bytes that tzero writes (R246): the rows, and the scale bytes of a tile of MX. -/
def Tile.zeroRuns (t : Tile) : List (Nat × List Byte) :=
  ((List.range t.rows).map fun m => (t.base + m * t.pitch, List.replicate t.rowBytes 0))
    ++ if isMx t.etype then [(t.base + t.rows * t.pitch, List.replicate (t.rows * t.cols / 32) 0x7f)] else []

theorem runMatrix_tzero (gr : Group) (t : Tile) : gr.runMatrix (.tzero t) = gr.putAll t.zeroRuns := by
  rw [Group.putAll, Tile.zeroRuns, List.foldl_append, List.foldl_map]
  show (if isMx t.etype then _ else _) = _
  split <;> rfl

/-- A row of a tile ends at or before the next. -/
theorem row_end_le {t : Tile} (hpitch : t.rowBytes ≤ t.pitch) {m k : Nat} (hm : m < k) :
    m * t.pitch + t.rowBytes ≤ k * t.pitch :=
  calc m * t.pitch + t.rowBytes ≤ m * t.pitch + t.pitch := Nat.add_le_add_left hpitch _
    _ = (m + 1) * t.pitch := (Nat.succ_mul ..).symm
    _ ≤ k * t.pitch := Nat.mul_le_mul_right _ hm

/-- The scale bytes of a tile. -/
def Tile.scales (t : Tile) : Nat := if isMx t.etype then t.rows * t.cols / 32 else 0

theorem mem_zeroRuns {t : Tile} {w : Nat × List Byte} : w ∈ t.zeroRuns
    ↔ (∃ m < t.rows, w = (t.base + m * t.pitch, List.replicate t.rowBytes 0))
      ∨ isMx t.etype = true ∧ w = (t.base + t.rows * t.pitch, List.replicate t.scales 0x7f) := by
  rw [Tile.zeroRuns, List.mem_append, List.mem_map]
  refine or_congr ?_ ?_
  · simp [eq_comm]
  · cases h : isMx t.etype <;> simp [Tile.scales, h]

theorem getD_replicate {α : Type} (n k : Nat) (x d : α) : (List.replicate n x).getD k d = if k < n then x else d := by
  rw [List.getD_eq_getElem?_getD, List.getElem?_replicate]
  split <;> rfl

section Zero
variable {t : Tile} (hpitch : t.rowBytes ≤ t.pitch) (gr : Group)
include hpitch

theorem spad_tzero_row {m k : Nat} (hm : m < t.rows) (hk : k < t.rowBytes) :
    SMap.getD (gr.runMatrix (.tzero t)).spad (t.base + m * t.pitch + k) 0 = 0 := by
  have hend := row_end_le hpitch hm
  rw [runMatrix_tzero]
  refine getD_putAll (fun w hw hcov => ?_) (.inl ⟨_, mem_zeroRuns.2 (.inl ⟨m, hm, rfl⟩), ?_⟩)
  · rcases mem_zeroRuns.1 hw with ⟨m', -, rfl⟩ | ⟨-, rfl⟩
    · rw [getD_replicate, ite_self]
    · simp only [Covers, List.length_replicate] at hcov
      omega
  · simp [Covers, hk]

theorem spad_tzero_scale {k : Nat} (hk : k < t.scales) :
    SMap.getD (gr.runMatrix (.tzero t)).spad (t.base + t.rows * t.pitch + k) 0 = 0x7f := by
  have hmx : isMx t.etype = true := by
    by_contra h
    simp [Tile.scales, h] at hk
  rw [runMatrix_tzero]
  refine getD_putAll (fun w hw hcov => ?_) (.inl ⟨_, mem_zeroRuns.2 (.inr ⟨hmx, rfl⟩), ?_⟩)
  · rcases mem_zeroRuns.1 hw with ⟨m, hm, rfl⟩ | ⟨-, rfl⟩
    · have hend := row_end_le hpitch hm
      simp only [Covers, List.length_replicate] at hcov
      omega
    · rw [getD_replicate, Nat.add_sub_cancel_left, if_pos hk]
  · simp [Covers, hk]

omit hpitch in
theorem spad_tzero_elsewhere {o : Nat}
    (hrows : ∀ m, m < t.rows → o < t.base + m * t.pitch ∨ t.base + m * t.pitch + t.rowBytes ≤ o)
    (hscales : o < t.base + t.rows * t.pitch ∨ t.base + t.rows * t.pitch + t.scales ≤ o) :
    SMap.getD (gr.runMatrix (.tzero t)).spad o 0 = SMap.getD gr.spad o 0 := by
  rw [runMatrix_tzero]
  refine getD_putAll_of_not_covered (fun w hw hcov => ?_) gr
  rcases mem_zeroRuns.1 hw with ⟨m, hm, rfl⟩ | ⟨-, rfl⟩
  · have hout := hrows m hm
    simp only [Covers, List.length_replicate] at hcov
    omega
  · simp only [Covers, List.length_replicate] at hcov
    omega

end Zero

theorem spadAt_of_besideQueue {s : State} {g : Nat} {x y : Group} (hg : s.grp g = some x)
    (h : x.besideQueue = y.besideQueue) (o : Nat) : s.spadAt g o = SMap.getD y.spad o 0 := by
  rw [State.spadAt_of_grp hg, Group.congr_besideQueue h Group.spad fun _ => rfl]

-- The end of a command that credits an object -------------------------------------------------------------


/-- The end of a command whose bytes are in place in state u: its object is credited, it leaves the queue (R245, R257). -/
theorem credited_ends {s u : State} {g n : Nat} {c : MCmd} {gr gr1 : Group} {bar : Option Nat} {k : Nat}
    (hu : u.grp g = some gr1)
    (hmq : gr1.mq = gr.mq) (hbars : gr1.bars = gr.bars)
    (hx : exec (.matrixCommandComplete g) s = .next ((u.credit g bar k).matrixDone g n c.flag))
    {P : State → Group → Prop} (hP : ∀ t gr', t.grp g = some gr' → BarsAfter gr.bars gr'.bars bar k
      → gr'.spad = gr1.spad → gr'.version = gr1.version → t.memories = u.memories → SameRegisters u t → P t gr') :
    CommandEnds s g n gr P := by
  obtain ⟨bs, hcred, hbs⟩ := grp_credit hu bar k
  obtain ⟨gr', hgr', hq, hsame⟩ := grp_matrixDone hcred n c.flag
  refine ⟨_, gr', hx, hgr', by rw [hq, hmq], hP _ gr' hgr' (fun j hj => ?_)
    (Group.congr_besideQueue hsame Group.spad fun _ => rfl) (Group.congr_besideQueue hsame Group.version fun _ => rfl)
    ((memories_matrixDone ..).trans (memories_credit ..))
    ((sameRegisters_credit ..).trans (sameRegisters_matrixDone ..))⟩
  rw [Group.congr_besideQueue hsame Group.bars fun _ => rfl, ← hbars]
  exact hbs j hj

-- The commands of a group ----------------------------------------------------------------------------------

section Group
variable {s : State} {g n : Nat} {gr : Group} {c : MCmd} (hg : s.grp g = some gr)
  (hnext : gr.nextDone s.clk (s.tileStalls g gr) = some (n, c))
include hg hnext

theorem tzero_takesEffect {x : Tile} (hc : c.kind = .tzero x) (hpitch : x.rowBytes ≤ x.pitch) :
    QuietEnds s g n gr fun t _ => (∀ m k, m < x.rows → k < x.rowBytes → t.spadAt g (x.base + m * x.pitch + k) = 0)
      ∧ (∀ k, k < x.scales → t.spadAt g (x.base + x.rows * x.pitch + k) = 0x7f)
      ∧ ∀ o, (∀ m, m < x.rows → o < x.base + m * x.pitch ∨ x.base + m * x.pitch + x.rowBytes ≤ o) →
          (o < x.base + x.rows * x.pitch ∨ x.base + x.rows * x.pitch + x.scales ≤ o) → t.spadAt g o = s.spadAt g o := by
  refine quietEnds_runMatrix hg hnext (by rw [hc]; rfl) (by rw [hc]; rfl) (by rw [hc]; rfl) fun t gr' ht hsame => ?_
  rw [hc] at hsame
  simp only [spadAt_of_besideQueue ht hsame, State.spadAt_of_grp hg]
  exact ⟨fun m k hm hk => spad_tzero_row hpitch gr hm hk, fun k hk => spad_tzero_scale hpitch gr hk,
    fun o hrows hscales => spad_tzero_elsewhere gr hrows hscales⟩

/-- mflags gives the sequencer's register mfl, unless it writes none, and .clr clears mfl (R256). -/
theorem mflags_takesEffect {d : Nat} {clr : Bool} (hc : c.kind = .mflags d clr false) (hd : d < 64) :
    CommandEnds s g n gr fun t gr' => SameMemory s t ∧ t.gHeld g d = gr.mfl.setWidth 64
      ∧ (∀ r < 64, r ≠ d → t.gHeld g r = s.gHeld g r) ∧ gr'.mfl = if clr then 0 else gr.mfl := by
  have hrun (y : Group) : y.runAt n c = y.runMatrix (.mflags d clr false) := hc ▸ runAt_of_not_pass y n (by rw [hc]; rfl)
  refine commandEnds_inGroup hg hnext (by rw [hc]; rfl) fun t gr' ht hsame _ hmem hregs => ?_
  have hheld (r : Nat) (hr : r < 64) : t.gHeld g r = if r = d then gr.mfl.setWidth 64 else s.gHeld g r := by
    rw [gHeld_of_sameRegisters hregs, State.gHeld, State.gHeld, State.seqAt, State.seqAt, State.grp_modGrp, if_pos rfl, hg]
    simp only [Option.map_some, hrun]
    cases clr <;> exact setG_getD gr.seq.g d r _ hr
  refine ⟨sameMemory_of_memories hmem, (hheld d hd).trans (if_pos rfl), fun r hr hne => (hheld r hr).trans (if_neg hne), ?_⟩
  rw [Group.congr_besideQueue hsame Group.mfl fun _ => rfl, hrun]
  cases clr <;> rfl

theorem mflags_unwritten_takesEffect {d : Nat} {clr : Bool} (hc : c.kind = .mflags d clr true) :
    QuietEnds s g n gr fun _ gr' => gr'.mfl = if clr then 0 else gr.mfl := by
  have hrun (y : Group) : y.runAt n c = y.runMatrix (.mflags d clr true) := hc ▸ runAt_of_not_pass y n (by rw [hc]; rfl)
  refine commandEnds_inGroup hg hnext (by rw [hc]; rfl) fun t gr' ht hsame _ hmem hregs =>
    ⟨sameMemory_of_memories hmem, (sameRegisters_modGrp s g (fun y => ?_) fun y => ?_).trans hregs, ?_⟩
  · rw [hrun]
    cases clr <;> rfl
  · rw [hrun]
    cases clr <;> rfl
  · have hmfl : gr'.mfl = (gr.runAt n c).mfl := Group.congr_besideQueue hsame Group.mfl fun _ => rfl
    refine hmfl.trans ?_
    rw [hrun]
    cases clr <;> rfl

theorem mswap_takesEffect (hc : c.kind = .mswap) : ∃ t, exec (.mswapTakeEffect g) s = .next t ∧ SameMemory s t
    ∧ SameRegisters s t ∧ (t.grp g).map Group.mq = some (gr.mq.eraseIdx n)
    ∧ (t.grp g).map Group.active = some (1 - gr.active) := by
  have hx : exec (.mswapTakeEffect g) s
      = .next ((s.modGrp g fun gr => gr.runMatrix .mswap).matrixDone g n c.flag) := by
    show execMswapTakeEffect g s = _
    unfold execMswapTakeEffect
    simp only [hg, hnext, hc]
  have hrun : (s.modGrp g fun gr => gr.runMatrix .mswap).grp g = some (gr.runMatrix .mswap) := by
    rw [State.grp_modGrp, if_pos rfl, hg]
    rfl
  obtain ⟨gr', hgr', hmq, hsame⟩ := grp_matrixDone hrun n c.flag
  refine ⟨_, hx, sameMemory_of_memories (memories_matrixDone ..), (sameRegisters_modGrp
    (f := fun gr => gr.runMatrix .mswap) s g (fun _ => rfl) fun _ => rfl).trans (sameRegisters_matrixDone ..), ?_, ?_⟩
  · rw [hgr', Option.map_some, hmq]
    rfl
  · rw [hgr', Option.map_some, Group.congr_besideQueue hsame Group.active fun _ => rfl]
    rfl

theorem marrive_takesEffect {b k : Nat} (hc : c.kind = .marrive b k) :
    QuietEnds s g n gr fun _ gr' => BarsAfter gr.bars gr'.bars (some b) k := by
  have hx : exec (.matrixCommandComplete g) s = .next ((s.credit g (some b) k).matrixDone g n c.flag) := by
    show execMatrixCommandComplete g s = _
    unfold execMatrixCommandComplete
    simp only [hg, hnext, hc]
  exact credited_ends hg rfl rfl hx fun t gr' _ hbars _ _ hmem hregs =>
    ⟨sameMemory_of_memories hmem, hregs, hbars⟩

end Group

theorem sameRegisters_unitsIn (s : State) (g : Nat) (us : List (Nat × Tgt)) : SameRegisters s (s.unitsIn g us) := by
  induction us generalizing s with
  | nil => exact sameRegisters_of_groups rfl
  | cons u us ih =>
    exact (sameRegisters_modGrp (f := fun gr => gr.setSpad u.1 (s.readTgt (s.grp g) u.2 16)) s g (fun _ => rfl)
      fun _ => rfl).trans (ih _)

section Tload
variable {s : State} {gr : Group} {us : List (Nat × Tgt)}

theorem mem_unitRuns_iff {w : Nat × List Byte} :
    w ∈ s.unitRuns gr us ↔ ∃ u ∈ us, w = (u.1, s.readTgt (some gr) u.2 16) := by
  simp [State.unitRuns, eq_comm]

theorem covers_unit_iff {u : Nat × Tgt} {o : Nat} :
    Covers (u.1, s.readTgt (some gr) u.2 16) o ↔ u.1 ≤ o ∧ o < u.1 + 16 := by
  simp [Covers, length_readTgt]

/-- Each byte of a unit stands in scratchpad at the unit's offset, for units that do not meet. -/
theorem spad_unitRuns_at (hus : us.Pairwise fun u v => u.1 + 16 ≤ v.1) {u : Nat × Tgt} (hu : u ∈ us) {k : Nat}
    (hk : k < 16) : SMap.getD (gr.putAll (s.unitRuns gr us)).spad (u.1 + k) 0
      = (s.readTgt (some gr) u.2 16).getD k 0 := by
  have hapart (v : Nat × Tgt) (hv : v ∈ us) (hne : v ≠ u) : v.1 + 16 ≤ u.1 ∨ u.1 + 16 ≤ v.1 :=
    List.Pairwise.forall_of_forall_of_flip (R := fun v u => v ≠ u → v.1 + 16 ≤ u.1 ∨ u.1 + 16 ≤ v.1)
      (fun _ _ h => absurd rfl h) (hus.imp fun h _ => .inl h) (hus.imp fun h _ => .inr h) hv hu hne
  refine getD_putAll (fun w hw hcov => ?_) (.inl ⟨_, mem_unitRuns_iff.2 ⟨u, hu, rfl⟩, covers_unit_iff.2 (by omega)⟩)
  obtain ⟨v, hv, rfl⟩ := mem_unitRuns_iff.1 hw
  have hin := covers_unit_iff.1 hcov
  obtain rfl : v = u := by
    by_contra hne
    have := hapart v hv hne
    omega
  rw [Nat.add_sub_cancel_left]

theorem spad_unitRuns_outside {o : Nat} (ho : ∀ u ∈ us, o < u.1 ∨ u.1 + 16 ≤ o) :
    SMap.getD (gr.putAll (s.unitRuns gr us)).spad o 0 = SMap.getD gr.spad o 0 := by
  refine getD_putAll_of_not_covered (fun w hw hcov => ?_) gr
  obtain ⟨u, hu, rfl⟩ := mem_unitRuns_iff.1 hw
  have hin := covers_unit_iff.1 hcov
  have hout := ho u hu
  omega

end Tload

theorem tload_takesEffect {s : State} {g n : Nat} {gr : Group} {c : MCmd} (hg : s.grp g = some gr)
    (hnext : gr.nextDone s.clk (s.tileStalls g gr) = some (n, c)) {us : List (Nat × Tgt)} {bar : Option (Nat × Nat)}
    (hc : c.kind = .tload us bar) (hus : us.Pairwise fun u v => u.1 + 16 ≤ v.1) : QuietEnds s g n gr fun t gr' =>
      BarsAfter gr.bars gr'.bars (bar.map (·.1)) ((bar.map (·.2)).getD 0)
        ∧ (∀ u ∈ us, ∀ k < 16, t.spadAt g (u.1 + k) = (s.readTgt (some gr) u.2 16).getD k 0)
        ∧ ∀ o, (∀ u ∈ us, o < u.1 ∨ u.1 + 16 ≤ o) → t.spadAt g o = s.spadAt g o := by
  have hx : exec (.matrixCommandComplete g) s = .next (((s.unitsIn g us).credit g (bar.map (·.1))
      ((bar.map (·.2)).getD 0)).matrixDone g n c.flag) := by
    show execMatrixCommandComplete g s = _
    unfold execMatrixCommandComplete
    simp only [hg, hnext, hc]
  have hbeside : (gr.putAll (s.unitRuns gr us)).besideBytes = gr.besideBytes := besideBytes_putAll ..
  refine credited_ends (grp_unitsIn hg us) (Group.congr_besideBytes hbeside Group.mq fun _ => rfl)
    (Group.congr_besideBytes hbeside Group.bars fun _ => rfl) hx fun t gr' ht hbars hspad _ hmem hregs =>
    ⟨sameMemory_of_memories (hmem.trans (memories_unitsIn ..)), (sameRegisters_unitsIn s g us).trans hregs, hbars,
      fun u hu k hk => ?_, fun o ho => ?_⟩
  · rw [State.spadAt_of_grp ht, hspad, spad_unitRuns_at hus hu hk]
  · rw [State.spadAt_of_grp ht, hspad, spad_unitRuns_outside ho, State.spadAt_of_grp hg]

end Sys2Proof.Machine
end

section
/-!
O40. tstore (10 R245; 16 R369; 12 R296): its units at their homes, or in the version of its group.
-/

namespace Sys2Proof.Machine

-- Units written one after another ----------------------------------------------------------------------

section Runs
variable {α : Type} {f : State → α → State} {gr : Group} {P : State → Prop} {V : State → Nat → Byte} {A : α → Option Nat}
  {O : α → Nat} {us : List α}
  (hstep : ∀ s p, P s → p ∈ us → P (f s p) ∧ ∀ b, V (f s p) b = unitByte gr (O p) (A p) b (V s b))
include hstep

/-- Units that meet no byte b leave it. -/
theorem units_untouched {l : List α} (hl : ∀ p ∈ l, p ∈ us) {s : State} (hP : P s) {b : Nat}
    (hb : ∀ p ∈ l, ∀ a, A p = some a → b < a ∨ a + 16 ≤ b) : P (l.foldl f s) ∧ V (l.foldl f s) b = V s b := by
  induction l generalizing s with
  | nil => exact ⟨hP, rfl⟩
  | cons p l ih =>
    obtain ⟨hP', hV⟩ := hstep s p hP (hl p (by simp))
    obtain ⟨hPl, hVl⟩ := ih (fun q hq => hl q (by simp [hq])) hP' fun q hq => hb q (by simp [hq])
    refine ⟨hPl, hVl.trans ((hV b).trans ?_)⟩
    unfold unitByte
    split
    next a ha =>
      have hout := hb p (by simp) a ha
      exact if_neg (by omega)
    · rfl

theorem units_keep {l : List α} (hl : ∀ p ∈ l, p ∈ us) {s : State} (hP : P s) : P (l.foldl f s) :=
  List.foldlRecOn (motive := P) l _ hP fun t ht p hp => (hstep t p ht (hl p hp)).1

/-- A unit that no later one meets has its bytes where they are seen. -/
theorem units_last {s : State} (hP : P s) {k a j : Nat} {p : α} (hp : us[k]? = some p) (ha : A p = some a) (hj : j < 16)
    (hlater : ∀ (k' : Nat) q, k < k' → us[k']? = some q → ∀ b, A q = some b → a + 16 ≤ b ∨ b + 16 ≤ a) :
    V (us.foldl f s) (a + j) = gr.spadByte (O p + j) := by
  obtain ⟨hlt, hget⟩ := List.getElem?_eq_some_iff.1 hp
  have hsplit : us = us.take k ++ p :: us.drop (k + 1) := by
    rw [← hget, ← List.drop_eq_getElem_cons hlt, List.take_append_drop]
  have hpre := units_keep hstep (l := us.take k) (fun q hq => List.mem_of_mem_take hq) hP
  obtain ⟨hP', hV⟩ := hstep _ p hpre (List.mem_of_getElem? hp)
  have hpost := units_untouched hstep (l := us.drop (k + 1)) (fun q hq => List.mem_of_mem_drop hq) hP' (b := a + j)
    fun q hq b hb => by
      obtain ⟨i, hi⟩ := List.mem_iff_getElem?.1 hq
      rw [List.getElem?_drop] at hi
      have := hlater (k + 1 + i) q (by omega) hi b hb
      omega
  have hrun : us.foldl f s = (us.drop (k + 1)).foldl f (f ((us.take k).foldl f s) p) := by
    conv_lhs => rw [hsplit]
    rw [List.foldl_append, List.foldl_cons]
  rw [hrun, hpost.2, hV, ha]
  exact (if_pos (by omega)).trans (by rw [Nat.add_sub_cancel_left])

end Runs

/-- One unit of tstore: an offset and a target. -/
def State.unitHome (g : Nat) (s : State) (p : Nat × Tgt) : State :=
  s.writeTgt g p.2 (match s.grp g with | some gr => gr.spadBytes p.1 16 | none => [])

theorem unitsHome_eq_foldl (s : State) (g : Nat) (l : List (Nat × Tgt)) :
    s.unitsHome g l = l.foldl (State.unitHome g) s := by
  induction l generalizing s with
  | nil => rfl
  | cons p l ih => exact ih _

theorem unitHome_eq {s : State} {g : Nat} {gr : Group} (hg : s.grp g = some gr) (p : Nat × Tgt) :
    s.unitHome g p = s.writeTgt g p.2 (gr.spadBytes p.1 16) := by
  unfold State.unitHome
  rw [hg]

theorem writeTgt_dram_versioned {s : State} {g : Nat} {gr : Group} (hg : s.grp g = some gr) (hv : gr.versioned = true)
    (a : Nat) (bs : List Byte) : s.writeTgt g (.dram a) bs
      = (s.modGrp g fun gr' => gr'.enterVersion a bs).hitGranules (some g) a bs.length := by
  simp only [State.writeTgt, State.agentWrite, State.homeWrite, hg, hv, if_true]
  rfl

theorem unitHome_signs {g : Nat} {gr : Group} (hv : gr.cls = 0) {t : State} (h : Signs g gr t) {p : Nat × Tgt}
    (hp : (∃ a, p.2 = .dram a) ∨ ∃ a, p.2 = .sys a) : Signs g gr (t.unitHome g p)
      ∧ (∀ b, (t.unitHome g p).byteAt b = unitByte gr p.1 p.2.dramAt b (t.byteAt b))
      ∧ ∀ b, (t.unitHome g p).sysByteAt b = unitByte gr p.1 p.2.sysAt b (t.sysByteAt b) := by
  obtain ⟨sig, hsig⟩ := h
  obtain ⟨o, x⟩ := p
  have hunit : t.unitHome g (o, x) = t.writeTgt g x (gr.spadBytes o 16) := unitHome_eq hsig _
  rw [hunit]
  rcases hp with ⟨a, rfl : x = .dram a⟩ | ⟨a, rfl : x = .sys a⟩
  · have hw : t.writeTgt g (.dram a) (gr.spadBytes o 16)
        = (t.dramWrite a (gr.spadBytes o 16)).l1Update (coreOf g) a (gr.spadBytes o 16) :=
      agentWrite_of_unversioned hsig hv a _
    rw [hw]
    refine ⟨⟨sig, (grp_of_besideMemory (besideMemory_l1Update ..) g).trans hsig⟩, fun b => ?_, fun b => ?_⟩
    · rw [State.byteAt_of_memories (memories_l1Update ..)]
      exact memByte_writeUnit t.mem gr o a b
    · exact State.sysByteAt_of_memories (memories_l1Update ..) b
  · exact ⟨⟨sig, hsig⟩, fun b => rfl, fun b => memByte_writeUnit t.sys gr o a b⟩

theorem unitHome_versions {g : Nat} {gr : Group} {s : State} (hv : gr.cls ≠ 0) {t : State} (h : Versions g gr s t)
    {p : Nat × Tgt} (hp : ∃ a, p.2 = .dram a) : Versions g gr s (t.unitHome g p)
      ∧ ∀ b, (t.unitHome g p).viewByte ((t.unitHome g p).grp g) b
          = unitByte gr p.1 p.2.dramAt b (t.viewByte (t.grp g) b) := by
  obtain ⟨hmem, sig, version, hgrp⟩ := h
  obtain ⟨o, x⟩ := p
  obtain ⟨a, rfl⟩ : ∃ a, x = .dram a := hp
  have hunit : t.unitHome g (o, .dram a) = (t.modGrp g fun gr' => gr'.enterVersion a (gr.spadBytes o 16)).hitGranules
      (some g) a (gr.spadBytes o 16).length :=
    (unitHome_eq hgrp _).trans (writeTgt_dram_versioned hgrp (by simpa [Group.versioned] using hv) a _)
  have hgrp' : (t.unitHome g (o, .dram a)).grp g
      = some (Group.enterVersion { gr with sig := sig, version := version } a (gr.spadBytes o 16)) := by
    rw [hunit]
    show (t.modGrp g fun gr' => gr'.enterVersion a (gr.spadBytes o 16)).grp g = _
    rw [State.grp_modGrp, if_pos rfl, hgrp]
    rfl
  have hmem' : (t.unitHome g (o, .dram a)).memories = t.memories := by
    rw [hunit]
    rfl
  refine ⟨⟨hmem'.trans hmem, sig, _, hgrp'⟩, fun b => ?_⟩
  rw [hgrp', hgrp]
  show SMap.getD _ b (memByte _ b) = unitByte gr o (some a) b (SMap.getD version b (memByte t.mem b))
  rw [show (t.unitHome g (o, .dram a)).mem = t.mem from congrArg Prod.fst hmem', getD_enterVersion, length_spadBytes]
  exact ite_congr rfl (fun hin => getD_spadBytes gr o (by omega)) fun _ => rfl

theorem signs_signTile {s : State} {g : Nat} {gr : Group} (hg : s.grp g = some gr) (sig : List (Nat × Nat × Nat × Nat)) :
    Signs g gr (s.signTile g sig) := by
  refine List.foldlRecOn (motive := Signs g gr) sig _ ⟨gr.sig, hg⟩ fun t ⟨x, ht⟩ w _ => ?_
  obtain ⟨y, hy⟩ := t.grp_sign g w.1 w.2.1
    (match t.grp g with | some gr => gr.spadBytes w.2.2.1 w.2.2.2 | none => []) ht
  exact ⟨y, hy⟩


-- tstore -------------------------------------------------------------------------------------------------

/-- Unit k lies at offset o and target x, and no later unit of its memory meets it. -/
def LastUnit (us : List (Nat × Tgt)) (k o : Nat) (x : Tgt) : Prop :=
  us[k]? = some (o, x) ∧ ∀ (k' : Nat) y, k < k' → us[k']? = some y →
    match x, y.2 with
    | .dram a, .dram b => a + 16 ≤ b ∨ b + 16 ≤ a
    | .sys a, .sys b => a + 16 ≤ b ∨ b + 16 ≤ a
    | _, _ => True

theorem LastUnit.dram_apart {us : List (Nat × Tgt)} {k o a : Nat} (h : LastUnit us k o (.dram a)) (k' : Nat) (q : Nat × Tgt)
    (hk : k < k') (hq : us[k']? = some q) (b : Nat) (hb : q.2.dramAt = some b) : a + 16 ≤ b ∨ b + 16 ≤ a := by
  have hlater := h.2 k' q hk hq
  rw [dramAt_eq_some.1 hb] at hlater
  exact hlater

theorem LastUnit.sys_apart {us : List (Nat × Tgt)} {k o a : Nat} (h : LastUnit us k o (.sys a)) (k' : Nat) (q : Nat × Tgt)
    (hk : k < k') (hq : us[k']? = some q) (b : Nat) (hb : q.2.sysAt = some b) : a + 16 ≤ b ∨ b + 16 ≤ a := by
  have hlater := h.2 k' q hk hq
  rw [sysAt_eq_some.1 hb] at hlater
  exact hlater

section Tstore
variable {s : State} {g n : Nat} {gr : Group} {c : MCmd} (hg : s.grp g = some gr)
  (hnext : gr.nextDone s.clk (s.tileStalls g gr) = some (n, c)) {us : List (Nat × Tgt)} {bar : Option (Nat × Nat)}
  {sig : List (Nat × Nat × Nat × Nat)} (hc : c.kind = .tstore us bar sig)
include hg hnext hc

theorem matrixCommandComplete_tstore : exec (.matrixCommandComplete g) s
    = .next ((((us.foldl (State.unitHome g) (s.signTile g sig)).credit g (bar.map (·.1))
      ((bar.map (·.2)).getD 0))).matrixDone g n c.flag) := by
  rw [← unitsHome_eq_foldl]
  show execMatrixCommandComplete g s = _
  unfold execMatrixCommandComplete
  simp only [hg, hnext, hc]

theorem tstore_home (hv : gr.cls = 0) (hplain : ∀ u ∈ us, (∃ a, u.2 = .dram a) ∨ ∃ a, u.2 = .sys a) :
    CommandEnds s g n gr fun t gr' => BarsAfter gr.bars gr'.bars (bar.map (·.1)) ((bar.map (·.2)).getD 0)
      ∧ (∀ (k o a : Nat), LastUnit us k o (.dram a) → ∀ j < 16, t.byteAt (a + j) = gr.spadByte (o + j))
      ∧ (∀ (k o a : Nat), LastUnit us k o (.sys a) → ∀ j < 16, t.sysByteAt (a + j) = gr.spadByte (o + j))
      ∧ (∀ b, (∀ u ∈ us, ∀ a, u.2 = .dram a → b < a ∨ a + 16 ≤ b) → t.byteAt b = s.byteAt b)
      ∧ ∀ b, (∀ u ∈ us, ∀ a, u.2 = .sys a → b < a ∨ a + 16 ≤ b) → t.sysByteAt b = s.sysByteAt b := by
  have hstart := signs_signTile hg sig
  have hdram := fun t p (h : Signs g gr t) (hp : p ∈ us) => (unitHome_signs hv h (hplain p hp)).imp_right And.left
  have hsys := fun t p (h : Signs g gr t) (hp : p ∈ us) => (unitHome_signs hv h (hplain p hp)).imp_right And.right
  obtain ⟨sig', hend⟩ := units_keep hdram (fun _ h => h) hstart
  refine credited_ends hend rfl rfl (matrixCommandComplete_tstore hg hnext hc) fun t gr' _ hbars _ _ hmem _ =>
    ⟨hbars, fun k o a hlast j hj => ?_, fun k o a hlast j hj => ?_, fun b hb => ?_, fun b hb => ?_⟩
  · rw [State.byteAt_of_memories hmem]
    exact units_last hdram hstart hlast.1 rfl hj hlast.dram_apart
  · rw [State.sysByteAt_of_memories hmem]
    exact units_last hsys hstart hlast.1 rfl hj hlast.sys_apart
  · rw [State.byteAt_of_memories hmem, (units_untouched hdram (fun _ h => h) hstart fun p hp a ha =>
      hb p hp a (dramAt_eq_some.1 ha)).2]
    exact State.byteAt_of_memories (memories_signTile ..) b
  · rw [State.sysByteAt_of_memories hmem, (units_untouched hsys (fun _ h => h) hstart fun p hp a ha =>
      hb p hp a (sysAt_eq_some.1 ha)).2]
    exact State.sysByteAt_of_memories (memories_signTile ..) b

theorem tstore_version (hv : gr.cls ≠ 0) (hall : ∀ u ∈ us, ∃ a, u.2 = .dram a) : CommandEnds s g n gr fun t gr' =>
    BarsAfter gr.bars gr'.bars (bar.map (·.1)) ((bar.map (·.2)).getD 0) ∧ SameMemory s t
      ∧ (∀ (k o a : Nat), LastUnit us k o (.dram a) → ∀ j < 16, t.viewByte (some gr') (a + j) = gr.spadByte (o + j))
      ∧ ∀ b, (∀ u ∈ us, ∀ a, u.2 = .dram a → b < a ∨ a + 16 ≤ b) →
          t.viewByte (some gr') b = s.viewByte (some gr) b := by
  obtain ⟨sig', hsig⟩ := signs_signTile hg sig
  have hstart : Versions g gr s (s.signTile g sig) := ⟨memories_signTile .., sig', gr.version, hsig⟩
  have hstep := fun t p (h : Versions g gr s t) (hp : p ∈ us) => unitHome_versions hv h (hall p hp)
  obtain ⟨hmem', sig'', version, hend⟩ := units_keep (V := fun t b => t.viewByte (t.grp g) b) hstep (fun _ h => h) hstart
  let u := us.foldl (State.unitHome g) (s.signTile g sig)
  have hview {t : State} {gr' : Group} (hmem : t.memories = u.memories) (hversion : gr'.version = version) (b : Nat) :
      t.viewByte (some gr') b = u.viewByte (u.grp g) b := by
    rw [show u.grp g = _ from hend]
    show SMap.getD gr'.version b (t.byteAt b) = SMap.getD version b (u.byteAt b)
    rw [hversion, State.byteAt_of_memories hmem]
  refine credited_ends hend rfl rfl (matrixCommandComplete_tstore hg hnext hc) fun t gr' _ hbars _ hversion hmem _ =>
    ⟨hbars, sameMemory_of_memories (hmem.trans hmem'), fun k o a hlast j hj => ?_, fun b hb => ?_⟩
  · rw [hview hmem hversion]
    exact units_last (V := fun t b => t.viewByte (t.grp g) b) hstep hstart hlast.1 rfl hj hlast.dram_apart
  · rw [hview hmem hversion, (units_untouched (V := fun t b => t.viewByte (t.grp g) b) hstep (fun _ h => h) hstart
      fun p hp a ha => hb p hp a (dramAt_eq_some.1 ha)).2, hsig]
    show SMap.getD gr.version b (State.byteAt _ b) = SMap.getD gr.version b (State.byteAt _ b)
    rw [State.byteAt_of_memories (memories_signTile ..)]

end Tstore

end Sys2Proof.Machine
end

section
/-!
O40. mwload and mwload.sm (10 R247, R248; 04 R106): the weights as latched, and the bits they raise.
-/

namespace Sys2Proof.Machine

-- Blocks of 32 -------------------------------------------------------------------------------------------

theorem flatMap_range_map {α : Type} (f : Nat → Nat → α) {w : Nat} (hw : 0 < w) (q : Nat) :
    ((List.range q).flatMap fun b => (List.range w).map (f b)) = (List.range (w * q)).map fun n => f (n / w) (n % w) := by
  induction q with
  | zero => rfl
  | succ q ih =>
    rw [List.range_succ, List.flatMap_append, ih, List.flatMap_singleton, Nat.mul_succ, List.range_add, List.map_append,
      List.map_map]
    refine congrArg _ (List.map_congr_left fun i hi => ?_)
    have hlt := List.mem_range.1 hi
    simp [Nat.mul_add_div hw, Nat.div_eq_of_lt hlt, Nat.mod_eq_of_lt hlt]

theorem eq_map_getD {α : Type} (l : List α) (d : α) {n : Nat} (hn : l.length = n) :
    l = (List.range n).map fun i => l.getD i d := by
  refine List.ext_getElem (by simpa using hn) fun i h _ => ?_
  simp [List.getD_eq_getElem?_getD, h]

theorem take_drop_map_range {α : Type} (f : Nat → α) {n i w : Nat} (h : i + w ≤ n) :
    (((List.range n).map f).drop i).take w = (List.range w).map fun k => f (i + k) := by
  refine List.ext_getElem (by simp; omega) fun k _ _ => ?_
  simp

theorem length_mxBlock (ty : Nat) (vs : List Ext) : (mxBlock ty vs).2.length = vs.length := by
  unfold mxBlock
  split <;> simp

theorem length_recodeMx (ty : Nat) (vs : List Ext) : (recodeMx ty vs).length = vs.length := by
  rw [recodeMx, List.length_map, length_mxBlock]

-- A row of weights ---------------------------------------------------------------------------------------

/-- The weight (k, j) that is latched, and whether its encoding saturated (R247). -/
def Group.weight (gr : Group) (x : Tile) (sg : Option Nat) (md : SMap DWord) (side : Option Layout) (k j : Nat) :
    Ext × Bool :=
  match sg with
  | none => ((gr.tileLogical x md side k j).1, false)
  | some o => gr.smoothed x md side o k j

/-- The bits of mfl that weight (k, j) raises (R256): QSAT, and SIGMA where the factor of its row is refused. -/
def Group.weightFlags (gr : Group) (x : Tile) (sg : Option Nat) (md : SMap DWord) (side : Option Layout) (k j : Nat) :
    BitVec 32 :=
  match sg with
  | none => 0
  | some o => (if (gr.sigma o k).2 then mflSIGMA else 0) ||| (if (gr.smoothed x md side o k j).2 then mflQSAT else 0)

/-- The products of a row with its factor, encoded again. -/
theorem smoothed_row (gr : Group) {x : Tile} (md : SMap DWord) (side : Option Layout) (o k : Nat)
    (hmx : isMx x.etype = true → x.cols % 32 = 0) : (if isMx x.etype then
      (List.range (x.cols / 32)).flatMap fun b => recodeMx (x.etype - 0x30)
        (((((List.range x.cols).map fun n => gr.tileLogical x md side k n).map fun y => (y.1.mul (gr.sigma o k).1).1).drop
          (32 * b)).take 32)
      else (((List.range x.cols).map fun n => gr.tileLogical x md side k n).map fun y => (y.1.mul (gr.sigma o k).1).1).map
        (recode x.etype x.fmtw))
      = (List.range x.cols).map fun n => gr.smoothed x md side o k n := by
  simp only [List.map_map]
  by_cases h : isMx x.etype = true
  · have hcols : 32 * (x.cols / 32) = x.cols := Nat.mul_div_cancel' (Nat.dvd_of_mod_eq_zero (hmx h))
    rw [if_pos h]
    trans (List.range (x.cols / 32)).flatMap fun b => (List.range 32).map fun i => (recodeMx (x.etype - 0x30)
      ((List.range 32).map fun i => ((gr.tileLogical x md side k (32 * b + i)).1.mul (gr.sigma o k).1).1)).getD i
        (.fin false 0 0, false)
    · refine List.flatMap_congr fun b hb => ?_
      have hlt := List.mem_range.1 hb
      rw [take_drop_map_range _ (by omega)]
      exact eq_map_getD _ _ (by rw [length_recodeMx, List.length_map, List.length_range])
    · rw [flatMap_range_map _ (by decide), hcols]
      refine List.map_congr_left fun n _ => ?_
      simp only [Group.smoothed, h, if_true]
  · rw [if_neg h]
    refine List.map_congr_left fun n _ => ?_
    simp only [Group.smoothed, h]
    rfl

theorem weightRow_eq (gr : Group) {x : Tile} (sg : Option Nat) (md : SMap DWord) (side : Option Layout) (k : Nat)
    (hmx : isMx x.etype = true → x.cols % 32 = 0) : gr.weightRow x sg md side k = (List.range x.cols).map fun n =>
      ⟨k, n, (gr.weight x sg md side k n).1, gr.weightFlags x sg md side k n, (gr.tileLogical x md side k n).2⟩ := by
  have hself : List.range x.cols = (List.range x.cols).map id := (List.map_id _).symm
  cases sg with
  | none =>
    simp only [Group.weightRow]
    conv_lhs => rw [hself, List.map_map, List.zip_map', List.map_map]
    rfl
  | some o =>
    simp only [Group.weightRow, smoothed_row gr md side o k hmx]
    conv_lhs => rw [List.zip_map']
    conv_lhs => arg 2; arg 2; rw [hself]
    rw [List.zip_map', List.map_map]
    rfl

-- The latched plane --------------------------------------------------------------------------------------

/-- A latched value as it reads: +0 for a zero without sign. -/
def latchedValue (v : Ext) : Ext := if v.isZero && !v.neg then .fin false 0 0 else v

/-- One weight enters a plane's map; +0 takes no entry. -/
def latch (m : SMap Ext) (x : Latched) : SMap Ext :=
  if x.v.isZero && !x.v.neg then m else SMap.set (64 * x.k + x.n) x.v m

/-- What a place reads when weights have been latched into an empty plane, all those of the place being v. -/
theorem getD_foldl_latch {ws : List Latched} {q : Nat} {v : Ext} (hall : ∀ x ∈ ws, 64 * x.k + x.n = q → x.v = v) :
    SMap.getD (ws.foldl latch []) q (.fin false 0 0)
      = if ∃ x ∈ ws, 64 * x.k + x.n = q then latchedValue v else .fin false 0 0 := by
  induction ws using List.reverseRecOn with
  | nil => simp [SMap.getD, SMap.get?]
  | append_singleton ws x ih =>
    have hprev := ih fun y hy => hall y (by simp [hy])
    rw [List.foldl_append, List.foldl_cons, List.foldl_nil, latch]
    by_cases hq : 64 * x.k + x.n = q
    · have hx : x.v = v := hall x (by simp) hq
      have hex : ∃ y ∈ ws ++ [x], 64 * y.k + y.n = q := ⟨x, by simp, hq⟩
      rw [if_pos hex]
      by_cases hz : (x.v.isZero && !x.v.neg) = true
      · have hzero : latchedValue v = .fin false 0 0 := if_pos (hx ▸ hz)
        rw [if_pos hz, hprev, hzero, ite_self]
      · rw [if_neg hz, SMap.getD_set, if_pos hq.symm, hx]
        exact (if_neg (hx ▸ hz)).symm
    · have hsame : SMap.getD (if x.v.isZero && !x.v.neg then ws.foldl latch [] else SMap.set (64 * x.k + x.n) x.v
          (ws.foldl latch [])) q (.fin false 0 0) = SMap.getD (ws.foldl latch []) q (.fin false 0 0) := by
        split
        · rfl
        · rw [SMap.getD_set, if_neg (Ne.symm hq)]
      rw [hsame, hprev]
      refine if_congr ?_ rfl rfl
      simp [hq]

/-- P holds of a weight of the tile. -/
def Tile.Within (x : Tile) (P : Nat → Nat → Prop) : Prop := ∃ k j, k < x.rows ∧ j < x.cols ∧ P k j

section Latch
variable (gr : Group) {x : Tile} (sg : Option Nat) (plane : Nat) (md : SMap DWord) (side : Option Layout)

/-- The weights of a tile as latched. -/
def Group.latched (gr : Group) (x : Tile) (sg : Option Nat) (md : SMap DWord) (side : Option Layout) : List Latched :=
  (List.range x.rows).flatMap fun k => gr.weightRow x sg md side k

theorem latchPlane_eq : gr.latchPlane x sg plane md side =
    { gr.raise ((gr.latched x sg md side).foldl (fun m y => m ||| y.mf) 0)
        ((gr.latched x sg md side).foldl (fun m y => m ||| y.st) 0) with
      planes := setReg 2 none gr.planes plane
        (some ⟨x.rows, x.cols, x.etype, x.fmtw, (gr.latched x sg md side).foldl latch []⟩) } := rfl

variable (hmx : isMx x.etype = true → x.cols % 32 = 0)
include hmx

theorem mem_latched {y : Latched} : y ∈ gr.latched x sg md side ↔ ∃ k j, k < x.rows ∧ j < x.cols
    ∧ y = ⟨k, j, (gr.weight x sg md side k j).1, gr.weightFlags x sg md side k j, (gr.tileLogical x md side k j).2⟩ := by
  simp only [Group.latched, weightRow_eq gr sg md side _ hmx, List.mem_flatMap, List.mem_map, List.mem_range]
  constructor
  · rintro ⟨k, hk, j, hj, rfl⟩
    exact ⟨k, j, hk, hj, rfl⟩
  · rintro ⟨k, j, hk, hj, rfl⟩
    exact ⟨k, hk, j, hj, rfl⟩

theorem weights_latched (hcols : x.cols ≤ 64) {k j : Nat} (hk : k < x.rows) (hj : j < x.cols) :
    SMap.getD ((gr.latched x sg md side).foldl latch []) (64 * k + j) (.fin false 0 0)
      = latchedValue (gr.weight x sg md side k j).1 := by
  rw [getD_foldl_latch (v := (gr.weight x sg md side k j).1) fun y hy hat => ?_]
  · exact if_pos ⟨_, (mem_latched gr sg md side hmx).2 ⟨k, j, hk, hj, rfl⟩, rfl⟩
  · obtain ⟨k', j', -, hj', rfl⟩ := (mem_latched gr sg md side hmx).1 hy
    obtain ⟨rfl, rfl⟩ : k' = k ∧ j' = j := by
      dsimp only at hat
      omega
    rfl

theorem bit_mfl_latchPlane (b : Nat) : bit (gr.latchPlane x sg plane md side).mfl b = true
    ↔ bit gr.mfl b = true ∨ x.Within fun k j => bit (gr.weightFlags x sg md side k j) b = true := by
  rw [latchPlane_eq]
  show bit (gr.mfl ||| _) b = true ↔ _
  rw [bit_or, Bool.or_eq_true, bit_foldl_or]
  refine or_congr_right ((or_iff_right (by simp [bit])).trans ?_)
  constructor
  · rintro ⟨y, hy, hbit⟩
    obtain ⟨k, j, hk, hj, rfl⟩ := (mem_latched gr sg md side hmx).1 hy
    exact ⟨k, j, hk, hj, hbit⟩
  · rintro ⟨k, j, hk, hj, hbit⟩
    exact ⟨_, (mem_latched gr sg md side hmx).2 ⟨k, j, hk, hj, rfl⟩, hbit⟩

theorem bit_spst_latchPlane (b : Nat) : bit (gr.latchPlane x sg plane md side).spst b = true
    ↔ bit gr.spst b = true ∨ x.Within fun k j => bit (gr.tileLogical x md side k j).2 b = true := by
  rw [latchPlane_eq]
  show bit (gr.spst ||| _) b = true ↔ _
  rw [bit_or, Bool.or_eq_true, bit_foldl_or]
  refine or_congr_right ((or_iff_right (by simp [bit])).trans ?_)
  constructor
  · rintro ⟨y, hy, hbit⟩
    obtain ⟨k, j, hk, hj, rfl⟩ := (mem_latched gr sg md side hmx).1 hy
    exact ⟨k, j, hk, hj, hbit⟩
  · rintro ⟨k, j, hk, hj, hbit⟩
    exact ⟨_, (mem_latched gr sg md side hmx).2 ⟨k, j, hk, hj, rfl⟩, hbit⟩

omit hmx

theorem bit_weightFlags (x : Tile) (k j b : Nat) : bit (gr.weightFlags x sg md side k j) b = true
    ↔ (b = 4 ∧ ∃ o, sg = some o ∧ (gr.sigma o k).2 = true) ∨ (b = 2 ∧ (gr.weight x sg md side k j).2 = true) := by
  cases sg with
  | none => simp [Group.weightFlags, Group.weight, bit]
  | some o =>
    simp only [Group.weightFlags, Group.weight, bit_or, Bool.or_eq_true, bit_ite, bit_mflSIGMA, bit_mflQSAT,
      Option.some.injEq, exists_eq_left', and_comm]

end Latch

section Effect
variable {s : State} {g n : Nat} {gr : Group} {c : MCmd} (hg : s.grp g = some gr)
  (hnext : gr.nextDone s.clk (s.tileStalls g gr) = some (n, c))
include hg hnext

theorem mwload_takesEffect {x : Tile} {sg : Option Nat} {plane : Nat} {md : SMap DWord} {side : Option Layout}
    (hc : c.kind = .mwload x sg plane md side) (hplane : plane < 2) (hcols : x.cols ≤ 64)
    (hmx : isMx x.etype = true → x.cols % 32 = 0) : QuietEnds s g n gr fun _ gr' =>
      (∃ p, gr'.planes.getD plane none = some p ∧ p.k = x.rows ∧ p.n = x.cols ∧ p.etype = x.etype ∧ p.fmtw = x.fmtw
        ∧ ∀ k j, k < x.rows → j < x.cols → SMap.getD p.weights (64 * k + j) (.fin false 0 0)
            = latchedValue (gr.weight x sg md side k j).1)
        ∧ (∀ q, q < 2 → q ≠ plane → gr'.planes.getD q none = gr.planes.getD q none)
        ∧ MflAfter gr.mfl gr'.mfl False False (x.Within fun k j => (gr.weight x sg md side k j).2 = true) False
            (x.Within fun k _ => ∃ o, sg = some o ∧ (gr.sigma o k).2 = true)
        ∧ ∀ b, bit gr'.spst b = true ↔ bit gr.spst b = true
            ∨ x.Within fun k j => bit (gr.tileLogical x md side k j).2 b = true := by
  refine quietEnds_runMatrix hg hnext (by rw [hc]; rfl) (by rw [hc]; rfl) (by rw [hc]; rfl) fun t gr' ht hsame => ?_
  rw [hc] at hsame
  have hplanes : gr'.planes = _ := Group.congr_besideQueue hsame Group.planes fun _ => rfl
  have hmfl : gr'.mfl = (gr.latchPlane x sg plane md side).mfl := Group.congr_besideQueue hsame Group.mfl fun _ => rfl
  have hspst : gr'.spst = (gr.latchPlane x sg plane md side).spst := Group.congr_besideQueue hsame Group.spst fun _ => rfl
  have hat (q : Nat) (hq : q < 2) : gr'.planes.getD q none = if q = plane then some ⟨x.rows, x.cols, x.etype, x.fmtw,
      (gr.latched x sg md side).foldl latch []⟩ else gr.planes.getD q none := by
    rw [hplanes]
    exact setReg_getD 2 none gr.planes plane q _ hq
  refine ⟨⟨_, (hat plane hplane).trans (if_pos rfl), rfl, rfl, rfl, rfl, fun k j =>
    weights_latched gr sg md side hmx hcols⟩, fun q hq hne => (hat q hq).trans (if_neg hne), ?_, fun b => ?_⟩
  · rw [hmfl]
    refine mflAfter_of (bit_mfl_latchPlane gr sg plane md side hmx) ?_ ?_ ?_ ?_ ?_ fun b hb => ?_
    all_goals simp only [bit_weightFlags, Tile.Within]
    · simp
    · simp
    · simp
    · simp
    · simp
    · rintro ⟨k, j, -, -, ⟨rfl, -⟩ | ⟨rfl, -⟩⟩ <;> omega
  · rw [hspst]
    exact bit_spst_latchPlane gr sg plane md side hmx b

end Effect

end Sys2Proof.Machine
end

section
/-!
SUPPORT. Codes packed in the bytes of a row (03 R80; 10 R241).
-/

namespace Sys2Proof.Machine

theorem leVal_lt (bs : List Byte) : leVal bs < 256 ^ bs.length := by
  induction bs with
  | nil => exact Nat.one_pos
  | cons b bs ih =>
    have hb := b.isLt
    rw [leVal, List.length_cons, Nat.pow_succ]
    omega

theorem leVal_bytesOf (n x : Nat) : leVal (bytesOf n x) = x % 256 ^ n := by
  induction n generalizing x with
  | zero => exact (Nat.mod_one x).symm
  | succ n ih =>
    have hcons : bytesOf (n + 1) x = BitVec.ofNat 8 x :: bytesOf n (x / 256) := by
      simp [bytesOf, List.range_succ_eq_map, Function.comp_def, Nat.pow_succ', Nat.div_div_eq_div_mul]
    rw [hcons, leVal, ih, Nat.pow_succ', Nat.mod_mul, BitVec.toNat_ofNat]

theorem length_setCode (w i code : Nat) (bs : List Byte) : (setCode w i code bs).length = bs.length := length_bytesOf ..

/-- The value of a row in which w bits at p are replaced by a code. -/
def putBits (x p w code : Nat) : Nat := x - x / 2 ^ p % 2 ^ w * 2 ^ p + code % 2 ^ w * 2 ^ p

/-- A value in three parts: its bits above, at and below the place of a code. -/
theorem eq_parts (x p w : Nat) : x = (x / 2 ^ (p + w) * 2 ^ w + x / 2 ^ p % 2 ^ w) * 2 ^ p + x % 2 ^ p := by
  rw [Nat.pow_add, ← Nat.div_div_eq_div_mul, Nat.mul_comm _ (2 ^ w), Nat.div_add_mod, Nat.mul_comm, Nat.div_add_mod]

theorem putBits_eq (x p w code : Nat) :
    putBits x p w code = (x / 2 ^ (p + w) * 2 ^ w + code % 2 ^ w) * 2 ^ p + x % 2 ^ p := by
  have hx := eq_parts x p w
  rw [Nat.add_mul] at hx ⊢
  unfold putBits
  omega

theorem putBits_mod (x p w code : Nat) : putBits x p w code % 2 ^ p = x % 2 ^ p := by
  rw [putBits_eq, Nat.mul_add_mod_self_right, Nat.mod_mod]

theorem putBits_div (x p w code : Nat) : putBits x p w code / 2 ^ p = x / 2 ^ (p + w) * 2 ^ w + code % 2 ^ w := by
  rw [putBits_eq, Nat.mul_comm, Nat.mul_add_div (Nat.two_pow_pos p), Nat.div_eq_of_lt (Nat.mod_lt _ (Nat.two_pow_pos p)),
    Nat.add_zero]

theorem putBits_div_end (x p w code : Nat) : putBits x p w code / 2 ^ (p + w) = x / 2 ^ (p + w) := by
  rw [Nat.pow_add, ← Nat.div_div_eq_div_mul, putBits_div, Nat.mul_comm, Nat.mul_add_div (Nat.two_pow_pos w),
    Nat.div_eq_of_lt (Nat.mod_lt _ (Nat.two_pow_pos w)), Nat.add_zero, Nat.pow_add]

theorem putBits_lt {x p w code n : Nat} (hx : x < 2 ^ n) (hp : p + w ≤ n) : putBits x p w code < 2 ^ n := by
  obtain ⟨d, rfl⟩ := Nat.exists_eq_add_of_le hp
  rw [Nat.pow_add, Nat.mul_comm, ← Nat.div_lt_iff_lt_mul (Nat.two_pow_pos _)] at hx ⊢
  rwa [putBits_div_end]

/-- Code i of a value of packed codes of w bits. -/
theorem code_putBits (x w i j code : Nat) : putBits x (w * i) w code / 2 ^ (w * j) % 2 ^ w
    = if j = i then code % 2 ^ w else x / 2 ^ (w * j) % 2 ^ w := by
  rcases Nat.lt_trichotomy j i with h | rfl | h
  · have hbelow (y : Nat) : y / 2 ^ (w * j) % 2 ^ w = y % 2 ^ (w * i) % 2 ^ (w * j + w) / 2 ^ (w * j) := by
      have hle : w * j + w ≤ w * i := Nat.mul_succ w j ▸ Nat.mul_le_mul_left w h
      rw [Nat.mod_mod_of_dvd _ (Nat.pow_dvd_pow 2 hle), Nat.pow_add, Nat.mod_mul_right_div_self]
    rw [if_neg (Nat.ne_of_lt h), hbelow, putBits_mod, ← hbelow]
  · rw [if_pos rfl, putBits_div, Nat.mul_add_mod_self_right, Nat.mod_mod]
  · have habove (y : Nat) : y / 2 ^ (w * j) = y / 2 ^ (w * i + w) / 2 ^ (w * j - (w * i + w)) := by
      have hle : w * i + w ≤ w * j := Nat.mul_succ w i ▸ Nat.mul_le_mul_left w h
      rw [Nat.div_div_eq_div_mul, ← Nat.pow_add, Nat.add_sub_cancel' hle]
    rw [if_neg (Nat.ne_of_gt h), habove, putBits_div_end, ← habove]

theorem codeAt_setCode {w i : Nat} {bs : List Byte} (hi : w * i + w ≤ 8 * bs.length) (code j : Nat) :
    codeAt w j (setCode w i code bs) = if j = i then code % 2 ^ w else codeAt w j bs := by
  have hpow : 256 ^ bs.length = 2 ^ (8 * bs.length) := (Nat.pow_mul 2 8 bs.length).symm
  have hval : leVal (setCode w i code bs) = putBits (leVal bs) (w * i) w code := by
    refine (leVal_bytesOf ..).trans (Nat.mod_eq_of_lt ?_)
    rw [hpow]
    exact putBits_lt (hpow ▸ leVal_lt bs) hi
  rw [codeAt, hval, code_putBits]
  rfl

-- The codes of a tile -----------------------------------------------------------------------------------------

theorem Tile.code_le_row {t : Tile} (hsp : t.sp ≠ 1) {i : Nat} (hi : i < t.cols) :
    tileBits t.etype t.fmtw * i + tileBits t.etype t.fmtw ≤ 8 * t.rowBytes := by
  have hle : tileBits t.etype t.fmtw * i + tileBits t.etype t.fmtw ≤ t.cols * tileBits t.etype t.fmtw := by
    rw [← Nat.mul_succ, Nat.mul_comm]
    exact Nat.mul_le_mul_right _ hi
  rw [Tile.rowBytes, if_neg hsp]
  omega

/-- Outside the initialised objects a scratchpad byte is the byte that was written. -/
theorem spadByte_of_clear {gr : Group} {o n p : Nat} (h : gr.meetsBar o n = false) (hp : o ≤ p ∧ p < o + n) :
    gr.spadByte p = SMap.getD gr.spad p 0 := by
  have hnone : gr.barAt p = none := by
    refine List.findSome?_eq_none_iff.2 fun b hb => ?_
    have hmeets := List.any_eq_false.1 h b hb
    cases b with
    | none => rfl
    | some b =>
      simp only [Bool.and_eq_true, decide_eq_true_eq] at hmeets
      exact if_neg (by omega)
  unfold Group.spadByte
  rw [hnone]

theorem spadByte_congr {x y : Group} (h : y.besideSpad = x.besideSpad) {o : Nat}
    (ho : SMap.getD y.spad o 0 = SMap.getD x.spad o 0) : y.spadByte o = x.spadByte o := by
  have hbar : y.barAt o = x.barAt o := Group.congr_besideSpad h (fun gr => gr.barAt o) fun _ => rfl
  unfold Group.spadByte
  rw [hbar, ho]

theorem spadBytes_congr {x y : Group} (h : y.besideSpad = x.besideSpad) {o n : Nat}
    (ho : ∀ p, o ≤ p → p < o + n → SMap.getD y.spad p 0 = SMap.getD x.spad p 0) : y.spadBytes o n = x.spadBytes o n :=
  List.map_congr_left fun k hk => spadByte_congr h (ho _ (by omega) (by have := List.mem_range.1 hk; omega))

/-- A run of bytes written where no initialised object lies reads as it was written. -/
theorem spadBytes_setSpad {gr : Group} {o n p : Nat} (h : gr.meetsBar o n = false) {bs : List Byte} (hp : o ≤ p)
    (hend : p + bs.length ≤ o + n) : (gr.setSpad p bs).spadBytes p bs.length = bs := by
  refine List.ext_getElem (length_spadBytes ..) fun k hk hk' => ?_
  have hclear : (gr.setSpad p bs).meetsBar o n = false := h
  rw [← List.getD_eq_getElem _ 0 hk, getD_spadBytes _ _ hk', spadByte_of_clear hclear (by omega), getD_setSpad,
    if_pos (by omega), Nat.add_sub_cancel_left, List.getD_eq_getElem]

section Codes
variable {gr : Group} {t : Tile} (hclear : gr.meetsBar t.base t.extent = false) (hpitch : t.rowBytes ≤ t.pitch)
  (hsp : t.sp ≠ 1)

theorem getD_setTileCode (gr : Group) (t : Tile) (m i code o : Nat)
    (ho : o < t.base + m * t.pitch ∨ t.base + m * t.pitch + t.rowBytes ≤ o) :
    SMap.getD (gr.setTileCode t m i code).spad o 0 = SMap.getD gr.spad o 0 := by
  rw [Group.setTileCode, getD_setSpad, length_setCode, length_spadBytes, if_neg (by omega)]

include hclear hpitch hsp

/-- The codes of a tile after code i of row m is written. -/
theorem tileCode_setTileCode {m i : Nat} (hm : m < t.rows) (hi : i < t.cols) (code m' i' : Nat) :
    (gr.setTileCode t m i code).tileCode t m' i' = if (m', i') = (m, i) then code % 2 ^ tileBits t.etype t.fmtw
      else gr.tileCode t m' i' := by
  have hrow := row_end_le hpitch hm
  by_cases hmm : m' = m
  · subst hmm
    have hlen := length_spadBytes gr (t.base + m' * t.pitch) t.rowBytes
    have hbytes := spadBytes_setSpad hclear (p := t.base + m' * t.pitch)
      (bs := setCode (tileBits t.etype t.fmtw) i code (gr.spadBytes (t.base + m' * t.pitch) t.rowBytes)) (by omega)
      (by rw [length_setCode, hlen, Tile.extent]; omega)
    rw [length_setCode, hlen] at hbytes
    rw [Group.tileCode, Group.setTileCode, hbytes, codeAt_setCode (by rw [hlen]; exact Tile.code_le_row hsp hi)]
    simp [Group.tileCode]
  · rw [if_neg fun h => hmm (congrArg Prod.fst h)]
    refine congrArg (codeAt _ i') (spadBytes_congr (besideSpad_setSpad gr _ _) fun p hlo hhi =>
      getD_setTileCode gr t m i code p ?_)
    rcases Nat.lt_or_gt_of_ne hmm with h | h
    · have hbefore := row_end_le hpitch h
      omega
    · have hafter := row_end_le hpitch h
      omega

end Codes

end Sys2Proof.Machine
end

section
/-!
SUPPORT. mstore: the codes and scale bytes it writes (10 R255).
-/

namespace Sys2Proof.Machine

/-- What a walk of mstore keeps: the group beside its scratchpad and flags, and the bytes at O. -/
def KeepsBytes (O : Nat → Prop) (x y : Group) : Prop :=
  y.besideSpad = x.besideSpad ∧ ∀ o, O o → SMap.getD y.spad o 0 = SMap.getD x.spad o 0

theorem KeepsBytes.refl (O : Nat → Prop) (x : Group) : KeepsBytes O x x := ⟨rfl, fun _ _ => rfl⟩

theorem KeepsBytes.trans {O : Nat → Prop} {x y z : Group} (h : KeepsBytes O x y) (k : KeepsBytes O y z) :
    KeepsBytes O x z :=
  ⟨k.1.trans h.1, fun o ho => (k.2 o ho).trans (h.2 o ho)⟩

theorem KeepsBytes.raise {O : Nat → Prop} {x y : Group} (h : KeepsBytes O x y) (m sp : BitVec 32) :
    KeepsBytes O x (y.raise m sp) := h

theorem KeepsBytes.meetsBar {O : Nat → Prop} {x y : Group} (h : KeepsBytes O x y) {o n : Nat}
    (hclear : x.meetsBar o n = false) : y.meetsBar o n = false :=
  (Group.congr_besideSpad h.1 (fun gr => gr.meetsBar o n) fun _ => rfl).trans hclear

theorem KeepsBytes.accAt {O : Nat → Prop} {x y : Group} (h : KeepsBytes O x y) (a m n : Nat) :
    y.accAt a m n = x.accAt a m n :=
  Group.congr_besideSpad h.1 (fun gr => gr.accAt a m n) fun _ => rfl

theorem storeCode_fst (t : Tile) (w : Word) : (storeCode t w).1 = mstoreCode t.etype t.fmtw w := by
  unfold storeCode mstoreCode encodeAs
  split
  · rfl
  · next h12 =>
    split
    · next h11 => simp [h11]
    · next h11 =>
      split
      all_goals simp_all

-- A tile that is not of MX ---------------------------------------------------------------------------------

/-- A code of a tile. -/
def Group.codeCell (t : Tile) (gr : Group) (q : Nat × Nat) : Nat := gr.tileCode t q.1 q.2

theorem Visits.raise_codes {t : Tile} {D : Nat × Nat → Prop} {G : Nat × Nat → Nat} {l : List (Nat × Nat)} {x y : Group}
    (h : Visits (Group.codeCell t) D G l x y) (m sp : BitVec 32) : Visits (Group.codeCell t) D G l x (y.raise m sp) := h

/-- Places outside the bytes of rows ms. -/
def Tile.Outside (t : Tile) (ms : List Nat) (o : Nat) : Prop :=
  ∀ m ∈ ms, o < t.base + m * t.pitch ∨ t.base + m * t.pitch + t.rowBytes ≤ o

theorem mfl_setTileCode (gr : Group) (t : Tile) (m i code : Nat) : (gr.setTileCode t m i code).mfl = gr.mfl := rfl

section Walk
variable {gr : Group} {t : Tile} (hclear : gr.meetsBar t.base t.extent = false) (hpitch : t.rowBytes ≤ t.pitch)
  (hsp : t.sp ≠ 1)
include hclear hpitch hsp

theorem setTileCode_visits {m i : Nat} (hm : m < t.rows) (hi : i < t.cols) (code : Nat) :
    KeepsBytes (t.Outside [m]) gr (gr.setTileCode t m i code)
      ∧ Visits (Group.codeCell t) (fun _ => True) (fun _ => code % 2 ^ tileBits t.etype t.fmtw) [(m, i)] gr
          (gr.setTileCode t m i code) :=
  ⟨⟨besideSpad_setSpad .., fun o ho => getD_setTileCode gr t m i code o (ho m (by simp))⟩, fun q _ =>
    (tileCode_setTileCode hclear hpitch hsp hm hi code q.1 q.2).trans (by simp [Group.codeCell])⟩

theorem storeRows_plain (hplain : isMx t.etype = false) (a : Nat) {ms ns : List Nat} (hms : ms.Nodup) (hns : ns.Nodup)
    (hm : ∀ m ∈ ms, m < t.rows) (hn : ∀ n ∈ ns, n < t.cols) {y : Group}
    (hy : y = ms.foldl (fun gr m => gr.storeRow t a m ns) gr) : KeepsBytes (t.Outside ms) gr y
      ∧ (∀ m n, y.tileCode t m n = if m ∈ ms ∧ n ∈ ns
          then mstoreCode t.etype t.fmtw (gr.accAt a m n) % 2 ^ tileBits t.etype t.fmtw else gr.tileCode t m n)
      ∧ ∀ b, bit y.mfl b = true ↔ bit gr.mfl b = true
          ∨ ∃ m n, (m ∈ ms ∧ n ∈ ns) ∧ b = 3 ∧ (storeCode t (gr.accAt a m n)).2 = true := by
  simp only [storeRow_plain hplain] at hy
  rw [foldl_product (fun (y : Group) (p : Nat × Nat) => Group.storeCell t a p.1 y p.2)] at hy
  have hcells : ((ms ×ˢ ns).flatMap fun p => [p]) = ms ×ˢ ns := List.flatMap_singleton' _
  obtain ⟨hkeeps, hvisits, hflags⟩ := visits_foldl (V := Group.codeCell t) (D := fun _ => True)
    (P := KeepsBytes (t.Outside ms) gr) (R := fun (y : Group) b => bit y.mfl b = true) (cells := fun p => [p])
    (G := fun p => mstoreCode t.etype t.fmtw (gr.accAt a p.1 p.2) % 2 ^ tileBits t.etype t.fmtw)
    (E := fun p b => b = 3 ∧ (storeCode t (gr.accAt a p.1 p.2)).2 = true)
    (step := fun (y : Group) (p : Nat × Nat) => Group.storeCell t a p.1 y p.2) (l := ms ×ˢ ns)
    (hcells.symm ▸ hms.product hns) (.refl _ gr) fun y p hp hP _ => by
      obtain ⟨m, n⟩ := p
      obtain ⟨hmm, hnn⟩ := List.mem_product.1 hp
      obtain ⟨hstep, hvisit⟩ := setTileCode_visits (hP.meetsBar hclear) hpitch hsp (hm m hmm) (hn n hnn)
        (storeCode t (gr.accAt a m n)).1
      have heq : Group.storeCell t a m y n = (y.setTileCode t m n (storeCode t (gr.accAt a m n)).1).raise
          (if (storeCode t (gr.accAt a m n)).2 then mflCVT else 0) 0 := by rw [Group.storeCell, hP.accAt]
      rw [heq]
      refine ⟨hP.trans (KeepsBytes.raise ⟨hstep.1, fun o ho => hstep.2 o fun m' hm' => ?_⟩ _ _),
        (hvisit.congr fun q hq => ?_).raise_codes _ _, fun b => ?_⟩
      · exact ho m' (List.mem_singleton.1 hm' ▸ hmm)
      · rw [List.mem_singleton.1 hq, storeCode_fst]
      · rw [Group.raise, bit_or, Bool.or_eq_true, bit_ite, bit_mflCVT, mfl_setTileCode, and_comm]
  rw [← hy, hcells] at hvisits
  rw [← hy] at hkeeps hflags
  refine ⟨hkeeps, fun m n => (hvisits (m, n) trivial).trans ?_, fun b => ?_⟩
  · simp only [List.mem_product]
    rfl
  · rw [hflags b, Prod.exists]
    simp only [List.mem_product]

end Walk

end Sys2Proof.Machine
end

section
namespace Sys2Proof.Machine

-- A tile of MX -------------------------------------------------------------------------------------------------

/-- A block of a tile of MX: its codes and its scale byte. -/
def Group.blockCell (t : Tile) (gr : Group) (q : Nat × Nat) : List Nat × Byte :=
  ((List.range 32).map fun i => gr.tileCode t q.1 (32 * q.2 + i), SMap.getD gr.spad (t.scaleAt q.1 (32 * q.2)) 0)

theorem Visits.raise_blocks {t : Tile} {D : Nat × Nat → Prop} {G : Nat × Nat → List Nat × Byte} {l : List (Nat × Nat)}
    {x y : Group} (h : Visits (Group.blockCell t) D G l x y) (m sp : BitVec 32) :
    Visits (Group.blockCell t) D G l x (y.raise m sp) := h

theorem blockCell_eq {t : Tile} {gr : Group} {q : Nat × Nat} {f : Nat → Nat} {x : Byte}
    (hcodes : ∀ i < 32, gr.tileCode t q.1 (32 * q.2 + i) = f i)
    (hscale : SMap.getD gr.spad (t.scaleAt q.1 (32 * q.2)) 0 = x) :
    gr.blockCell t q = ((List.range 32).map f, x) :=
  congrArg₂ Prod.mk (List.map_congr_left fun i hi => hcodes i (List.mem_range.1 hi)) hscale

/-- A block within the tile. -/
def Tile.HasBlock (t : Tile) (q : Nat × Nat) : Prop := q.1 < t.rows ∧ 32 * q.2 < t.cols

theorem rows_le_scaleAt (t : Tile) (m i : Nat) : t.base + t.rows * t.pitch ≤ t.scaleAt m i := by
  unfold Tile.scaleAt
  omega

theorem scaleAt_block (t : Tile) (m b : Nat) {i : Nat} (hi : i < 32) :
    t.scaleAt m (32 * b + i) = t.scaleAt m (32 * b) := by
  unfold Tile.scaleAt
  omega

/-- Blocks have scale bytes of their own. -/
theorem scaleAt_eq_iff {t : Tile} (hcols : t.cols % 32 = 0) {p q : Nat × Nat} (hp : t.HasBlock p) (hq : t.HasBlock q) :
    t.scaleAt p.1 (32 * p.2) = t.scaleAt q.1 (32 * q.2) ↔ p = q := by
  obtain ⟨m, b⟩ := p
  obtain ⟨m', b'⟩ := q
  obtain ⟨-, hb⟩ := hp
  obtain ⟨-, hb'⟩ := hq
  dsimp only at hb hb' ⊢
  refine ⟨fun h => ?_, fun h => by rw [Prod.mk.inj h |>.1, Prod.mk.inj h |>.2]⟩
  have hsum : b + t.cols / 32 * m = b' + t.cols / 32 * m' := by
    unfold Tile.scaleAt at h
    rw [Nat.mul_comm m, Nat.mul_comm m'] at h
    omega
  have hlt : b < t.cols / 32 := by omega
  have hlt' : b' < t.cols / 32 := by omega
  have hm : m = m' := by
    have hdiv := congrArg (· / (t.cols / 32)) hsum
    simpa only [Nat.add_mul_div_left _ _ (Nat.zero_lt_of_lt hlt), Nat.div_eq_of_lt hlt, Nat.div_eq_of_lt hlt',
      Nat.zero_add] using hdiv
  subst hm
  exact congrArg _ (Nat.add_right_cancel hsum)

/-- The codes of a tile see its rows alone. -/
theorem tileCode_setSpad_after {t : Tile} (hpitch : t.rowBytes ≤ t.pitch) (gr : Group) {o : Nat} (bs : List Byte)
    (ho : t.base + t.rows * t.pitch ≤ o) {m : Nat} (hm : m < t.rows) (i : Nat) :
    (gr.setSpad o bs).tileCode t m i = gr.tileCode t m i := by
  have hrow := row_end_le hpitch hm
  refine congrArg (codeAt _ i) (spadBytes_congr (besideSpad_setSpad gr _ _) fun p _ hp => ?_)
  rw [getD_setSpad, if_neg (by omega)]

/-- What mstore stores for block p of the tile: its scale and its codes with their flags (R255). -/
def Group.mxStored (gr : Group) (t : Tile) (a : Nat) (ns : List Nat) (p : Nat × Nat) : Nat × List (Nat × Fl) :=
  mxBlock (t.etype - 0x30) (gr.blockVals t a p.1 ns p.2)

/-- A block that holds what is stored. -/
def Tile.storedCell (t : Tile) (r : Nat × List (Nat × Fl)) : List Nat × Byte :=
  ((List.range 32).map fun i => (r.2.getD i (0, 0)).1 % 2 ^ tileBits t.etype t.fmtw, BitVec.ofNat 8 r.1)

theorem mfl_setSpad (gr : Group) (o : Nat) (bs : List Byte) : (gr.setSpad o bs).mfl = gr.mfl := rfl

theorem mfl_putBlock (gr : Group) (t : Tile) (m b x : Nat) (cs : List (Nat × Fl)) :
    (gr.putBlock t m b x cs).mfl = gr.mfl := by
  rw [Group.putBlock, mfl_setSpad]
  exact List.foldlRecOn (motive := fun y : Group => y.mfl = gr.mfl) (List.range 32) _ rfl fun _ h _ _ => h

section Walk
variable {gr : Group} {t : Tile} (hclear : gr.meetsBar t.base t.extent = false) (hpitch : t.rowBytes ≤ t.pitch)
  (hsp : t.sp ≠ 1)
include hclear hpitch hsp

/-- The codes of a block are written. -/
theorem setCodes_visits (hcols : t.cols % 32 = 0) {q : Nat × Nat} (hq : t.HasBlock q) (cs : Nat → Nat) {y : Group}
    (hy : y = (List.range 32).foldl (fun (gr : Group) i => gr.setTileCode t q.1 (32 * q.2 + i) (cs i)) gr) :
    KeepsBytes (t.Outside [q.1]) gr y ∧ ∀ m i, y.tileCode t m i = if m = q.1 ∧ i / 32 = q.2
      then cs (i % 32) % 2 ^ tileBits t.etype t.fmtw else gr.tileCode t m i := by
  obtain ⟨m, b⟩ := q
  obtain ⟨hm, hb⟩ := hq
  dsimp only at hm hb hy ⊢
  have hcells : ((List.range 32).flatMap fun i => [(m, 32 * b + i)]) = (List.range 32).map fun i => (m, 32 * b + i) :=
    List.map_eq_flatMap.symm
  have hnodup : ((List.range 32).map fun i => (m, 32 * b + i)).Nodup :=
    List.nodup_range.map fun i j h => Nat.add_left_cancel (Prod.mk.inj h).2
  obtain ⟨hkeeps, hvisits, -⟩ := visits_foldl (V := Group.codeCell t) (D := fun _ => True)
    (P := KeepsBytes (t.Outside [m]) gr) (R := fun _ _ => False) (cells := fun i => [(m, 32 * b + i)])
    (G := fun p => cs (p.2 % 32) % 2 ^ tileBits t.etype t.fmtw) (E := fun _ _ => False)
    (step := fun (gr : Group) i => gr.setTileCode t m (32 * b + i) (cs i)) (l := List.range 32)
    (hcells.symm ▸ hnodup) (.refl _ gr) fun y i hi hP _ => by
      have hlt := List.mem_range.1 hi
      obtain ⟨hstep, hvisit⟩ := setTileCode_visits (hP.meetsBar hclear) hpitch hsp hm (i := 32 * b + i) (by omega) (cs i)
      refine ⟨hP.trans hstep, hvisit.congr fun p hp => ?_, by simp⟩
      rw [List.mem_singleton.1 hp, show (32 * b + i) % 32 = i by omega]
  rw [← hy] at hkeeps
  rw [← hy, hcells] at hvisits
  refine ⟨hkeeps, fun m' i => (hvisits (m', i) trivial).trans ?_⟩
  have hmem : (m', i) ∈ (List.range 32).map (fun i => (m, 32 * b + i)) ↔ m' = m ∧ i / 32 = b := by
    simp only [List.mem_map, List.mem_range, Prod.mk.injEq]
    constructor
    · rintro ⟨j, hj, rfl, rfl⟩
      exact ⟨rfl, by omega⟩
    · rintro ⟨rfl, rfl⟩
      exact ⟨i % 32, by omega, rfl, by omega⟩
  simp only [hmem]
  rfl

/-- A block takes its codes and its scale byte, and the others keep theirs. -/
theorem putBlock_visits (hcols : t.cols % 32 = 0) {p : Nat × Nat} (hp : t.HasBlock p) (x : Nat)
    (cs : List (Nat × Fl)) :
    KeepsBytes (fun o => t.Outside [p.1] o ∧ o ≠ t.scaleAt p.1 (32 * p.2)) gr (gr.putBlock t p.1 p.2 x cs)
      ∧ Visits (Group.blockCell t) t.HasBlock (fun _ => ((List.range 32).map fun i =>
          (cs.getD i (0, 0)).1 % 2 ^ tileBits t.etype t.fmtw, BitVec.ofNat 8 x)) [p] gr (gr.putBlock t p.1 p.2 x cs) := by
  obtain ⟨hkeeps, hcodes⟩ := setCodes_visits hclear hpitch hsp hcols hp (fun i => (cs.getD i (0, 0)).1) rfl
  have hscale (y : Group) (o : Nat) : SMap.getD (y.setSpad (t.scaleAt p.1 (32 * p.2)) [BitVec.ofNat 8 x]).spad o 0
      = if o = t.scaleAt p.1 (32 * p.2) then BitVec.ofNat 8 x else SMap.getD y.spad o 0 := by
    rw [getD_setSpad, List.length_singleton]
    by_cases h : o = t.scaleAt p.1 (32 * p.2)
    · rw [if_pos (by omega), if_pos h, h, Nat.sub_self]
      rfl
    · rw [if_neg (by omega), if_neg h]
  refine ⟨⟨besideSpad_putBlock .., fun o ho => ?_⟩, fun q hq => ?_⟩
  · exact (hscale _ o).trans ((if_neg ho.2).trans (hkeeps.2 o ho.1))
  · have hcode (i : Nat) := (tileCode_setSpad_after hpitch _ [BitVec.ofNat 8 x] (rows_le_scaleAt t p.1 (32 * p.2)) hq.1
      (32 * q.2 + i)).trans (hcodes q.1 (32 * q.2 + i))
    have hbyte := hscale ((List.range 32).foldl (fun (gr : Group) i =>
      gr.setTileCode t p.1 (32 * p.2 + i) (cs.getD i (0, 0)).1) gr) (t.scaleAt q.1 (32 * q.2))
    by_cases hqp : q = p
    · subst hqp
      rw [if_pos (List.mem_singleton_self q)]
      refine blockCell_eq (fun i hi => (hcode i).trans ?_) (hbyte.trans (if_pos rfl))
      rw [if_pos (by omega), show (32 * q.2 + i) % 32 = i by omega]
    · have hblock (i : Nat) (hi : i < 32) : ¬ (q.1 = p.1 ∧ (32 * q.2 + i) / 32 = p.2) := fun h =>
        hqp (Prod.ext h.1 (by omega))
      have hother : t.scaleAt q.1 (32 * q.2) ≠ t.scaleAt p.1 (32 * p.2) := fun h => hqp ((scaleAt_eq_iff hcols hq hp).1 h)
      have hkept : t.Outside [p.1] (t.scaleAt q.1 (32 * q.2)) := fun m hm => by
        have hrow := row_end_le hpitch hp.1
        have hafter := rows_le_scaleAt t q.1 (32 * q.2)
        rw [List.mem_singleton.1 hm]
        omega
      rw [if_neg (fun h => hqp (List.mem_singleton.1 h))]
      exact blockCell_eq (fun i hi => (hcode i).trans (if_neg (hblock i hi)))
        (hbyte.trans ((if_neg hother).trans (hkeeps.2 _ hkept)))

omit hclear hpitch hsp in
/-- The values of a block whose codes, scale byte and accumulator elements are as they were. -/
theorem blockVals_congr (hmx : isMx t.etype = true) {O : Nat → Prop} {y : Group} (hy : KeepsBytes O gr y) (a : Nat)
    (ns : List Nat) {q : Nat × Nat} (hq : y.blockCell t q = gr.blockCell t q) :
    y.blockVals t a q.1 ns q.2 = gr.blockVals t a q.1 ns q.2 := by
  obtain ⟨hcodes, hscale⟩ := Prod.mk.inj hq
  refine List.map_congr_left fun i hi => ?_
  have hcode := (List.map_inj_left.1 hcodes) i hi
  have hbyte : y.spadByte (t.scaleAt q.1 (32 * q.2 + i)) = gr.spadByte (t.scaleAt q.1 (32 * q.2 + i)) := by
    rw [scaleAt_block t q.1 q.2 (List.mem_range.1 hi)]
    exact spadByte_congr hy.1 hscale
  rw [hy.accAt]
  refine congrArg _ ?_
  simp only [Group.tileStored, hmx, if_true, hcode, hbyte]

omit hclear hpitch hsp in
theorem mxBlock_storeBlock (hmx : isMx t.etype = true) {O : Nat → Prop} {y : Group} (hy : KeepsBytes O gr y) (a : Nat)
    (ns : List Nat) {p : Nat × Nat} (hp : y.blockCell t p = gr.blockCell t p) :
    y.storeBlock t a p.1 ns p.2 = (y.putBlock t p.1 p.2 (gr.mxStored t a ns p).1 (gr.mxStored t a ns p).2).raise
      (if blockLoses (gr.mxStored t a ns p) then mflCVT else 0) 0 := by
  rw [Group.storeBlock, blockVals_congr hmx hy a ns hp]
  rfl

theorem storeBlock_visits (hmx : isMx t.etype = true) (hcols : t.cols % 32 = 0) (a : Nat) (ns : List Nat)
    {p : Nat × Nat} (hp : t.HasBlock p) {O : Nat → Prop} {y : Group} (hy : KeepsBytes O gr y)
    (hsame : y.blockCell t p = gr.blockCell t p) :
    KeepsBytes (fun o => t.Outside [p.1] o ∧ o ≠ t.scaleAt p.1 (32 * p.2)) y (y.storeBlock t a p.1 ns p.2)
      ∧ Visits (Group.blockCell t) t.HasBlock (fun _ => t.storedCell (gr.mxStored t a ns p)) [p] y
          (y.storeBlock t a p.1 ns p.2)
      ∧ ∀ b, bit (y.storeBlock t a p.1 ns p.2).mfl b = true ↔ bit y.mfl b = true
          ∨ b = 3 ∧ blockLoses (gr.mxStored t a ns p) = true := by
  obtain ⟨hkeeps, hvisit⟩ := putBlock_visits (hy.meetsBar hclear) hpitch hsp hcols hp
    (gr.mxStored t a ns p).1 (gr.mxStored t a ns p).2
  have hmfl := mfl_putBlock y t p.1 p.2 (gr.mxStored t a ns p).1 (gr.mxStored t a ns p).2
  rw [mxBlock_storeBlock hmx hy a ns hsame]
  generalize y.putBlock t p.1 p.2 (gr.mxStored t a ns p).1 (gr.mxStored t a ns p).2 = z at hkeeps hvisit hmfl
  refine ⟨hkeeps.raise _ _, hvisit.raise_blocks _ _, fun b => ?_⟩
  rw [Group.raise, bit_or, Bool.or_eq_true, bit_ite, bit_mflCVT, hmfl, and_comm]

theorem storeRows_mx (hmx : isMx t.etype = true) (hcols : t.cols % 32 = 0) (a : Nat) {ms ns bs : List Nat}
    (hbs : bs = [0, 1].filter fun b => ns.any fun n => n / 32 == b) (hms : ms.Nodup) (hm : ∀ m ∈ ms, m < t.rows)
    (hn : ∀ n ∈ ns, n < t.cols) {y : Group} (hy : y = ms.foldl (fun gr m => gr.storeRow t a m ns) gr) :
    (∀ o, t.Outside ms o → (∀ p ∈ ms ×ˢ bs, o ≠ t.scaleAt p.1 (32 * p.2)) → SMap.getD y.spad o 0 = SMap.getD gr.spad o 0)
      ∧ Visits (Group.blockCell t) t.HasBlock (fun q => t.storedCell (gr.mxStored t a ns q)) (ms ×ˢ bs) gr y
      ∧ ∀ b, bit y.mfl b = true ↔ bit gr.mfl b = true
          ∨ ∃ p ∈ ms ×ˢ bs, b = 3 ∧ blockLoses (gr.mxStored t a ns p) = true := by
  simp only [storeRow_mx hmx, ← hbs] at hy
  rw [foldl_product (fun (y : Group) (p : Nat × Nat) => Group.storeBlock t a p.1 ns y p.2)] at hy
  have hcells : ((ms ×ˢ bs).flatMap fun p => [p]) = ms ×ˢ bs := List.flatMap_singleton' _
  have hnodup : (ms ×ˢ bs).Nodup := hms.product (hbs ▸ List.Nodup.filter _ (by decide))
  have hblock {p : Nat × Nat} (hp : p ∈ ms ×ˢ bs) : t.HasBlock p := by
    obtain ⟨hpm, hpb⟩ := List.mem_product.1 hp
    rw [hbs, List.mem_filter, List.any_eq_true] at hpb
    obtain ⟨-, k, hk, hkb⟩ := hpb
    have hcol := hn k hk
    rw [beq_iff_eq] at hkb
    exact ⟨hm _ hpm, by omega⟩
  obtain ⟨hkeeps, hvisits, hflags⟩ := visits_foldl (V := Group.blockCell t) (D := t.HasBlock)
    (P := KeepsBytes (fun o => t.Outside ms o ∧ ∀ p ∈ ms ×ˢ bs, o ≠ t.scaleAt p.1 (32 * p.2)) gr)
    (R := fun (y : Group) b => bit y.mfl b = true) (cells := fun p => [p])
    (G := fun p => t.storedCell (gr.mxStored t a ns p))
    (E := fun p b => b = 3 ∧ blockLoses (gr.mxStored t a ns p) = true)
    (step := fun (y : Group) (p : Nat × Nat) => Group.storeBlock t a p.1 ns y p.2) (l := ms ×ˢ bs)
    (hcells.symm ▸ hnodup) (.refl _ gr) fun y p hp hP hsame => by
      obtain ⟨hstep, hvisit, hflag⟩ := storeBlock_visits hclear hpitch hsp hmx hcols a ns (hblock hp) hP
        (hsame p (List.mem_singleton_self p) (hblock hp))
      refine ⟨hP.trans ⟨hstep.1, fun o ho => hstep.2 o ⟨fun m hpm => ?_, ho.2 p hp⟩⟩, ?_, hflag⟩
      · exact ho.1 m (List.mem_singleton.1 hpm ▸ (List.mem_product.1 hp).1)
      · exact hvisit.congr fun q hq => by rw [List.mem_singleton.1 hq]
  rw [← hy, hcells] at hvisits
  rw [← hy] at hkeeps hflags
  exact ⟨fun o hout hscale => hkeeps.2 o ⟨hout, hscale⟩, hvisits, hflags⟩

end Walk

end Sys2Proof.Machine
end

section
namespace Sys2Proof.Machine

-- The end of mstore ------------------------------------------------------------------------------------------------

/-- mstore writes of row m. -/
def StoresRow (rp : DWord) (x : Tile) (m : Nat) : Prop := bit rp m = true ∧ m < x.rows ∧ m < 64

/-- mstore writes element (m, k). -/
def Stores (rp cp : DWord) (x : Tile) (m k : Nat) : Prop := StoresRow rp x m ∧ bit cp k = true ∧ k < x.cols ∧ k < 64

/-- Offsets outside the bytes of the rows it writes. -/
def OutsideRows (rp : DWord) (x : Tile) (o : Nat) : Prop :=
  ∀ m, StoresRow rp x m → o < x.base + m * x.pitch ∨ x.base + m * x.pitch + x.rowBytes ≤ o

/-- It writes an element of block b of row m. -/
def StoresBlock (rp cp : DWord) (x : Tile) (m b : Nat) : Prop := ∃ i, i < 32 ∧ Stores rp cp x m (32 * b + i)

section Lists
variable (rp cp : DWord) (x : Tile)

/-- The rows of mstore. -/
def storeRows : List Nat := (sel rp).filter (· < x.rows)
/-- The columns of mstore. -/
def storeCols : List Nat := (sel cp).filter (· < x.cols)
/-- The blocks of a row that mstore re-encodes. -/
def storeBlocks : List Nat := [0, 1].filter fun b => (storeCols cp x).any fun n => n / 32 == b

theorem mem_storeRows {m : Nat} : m ∈ storeRows rp x ↔ StoresRow rp x m := by
  simp only [storeRows, List.mem_filter, mem_sel, decide_eq_true_eq, StoresRow]
  tauto

theorem mem_storeCols {k : Nat} : k ∈ storeCols cp x ↔ bit cp k = true ∧ k < x.cols ∧ k < 64 := by
  simp only [storeCols, List.mem_filter, mem_sel, decide_eq_true_eq]
  tauto

theorem nodup_storeRows : (storeRows rp x).Nodup := (nodup_sel rp).filter _
theorem nodup_storeCols : (storeCols cp x).Nodup := (nodup_sel cp).filter _

theorem stores_iff {m k : Nat} : Stores rp cp x m k ↔ m ∈ storeRows rp x ∧ k ∈ storeCols cp x := by
  rw [mem_storeRows, mem_storeCols]
  rfl

theorem mem_storeBlocks {b : Nat} : b ∈ storeBlocks cp x ↔ ∃ i < 32, 32 * b + i ∈ storeCols cp x := by
  simp only [storeBlocks, List.mem_filter, List.any_eq_true, beq_iff_eq]
  constructor
  · rintro ⟨-, k, hk, rfl⟩
    exact ⟨k % 32, by omega, by rwa [Nat.div_add_mod]⟩
  · rintro ⟨i, hi, hk⟩
    have hlt := ((mem_storeCols cp x).1 hk).2.2
    refine ⟨?_, _, hk, by omega⟩
    have hb : b = 0 ∨ b = 1 := by omega
    simpa using hb

theorem storesBlock_iff {m b : Nat} : StoresBlock rp cp x m b ↔ (m, b) ∈ storeRows rp x ×ˢ storeBlocks cp x := by
  rw [List.mem_product, mem_storeBlocks]
  simp only [StoresBlock, stores_iff]
  constructor
  · rintro ⟨i, hi, hm, hk⟩
    exact ⟨hm, i, hi, hk⟩
  · rintro ⟨hm, i, hi, hk⟩
    exact ⟨i, hi, hm, hk⟩

theorem outsideRows_iff {o : Nat} : OutsideRows rp x o ↔ x.Outside (storeRows rp x) o :=
  forall_congr' fun _ => by rw [mem_storeRows]

/-- The values a block is stored from are those of the statement. -/
theorem mxStored_eq (gr : Group) (a : Nat) {m b : Nat} (hb : b ∈ storeBlocks cp x) :
    gr.mxStored x a (storeCols cp x) (m, b) = mxBlock (x.etype - 0x30) (gr.mxRow x a cp m b) := by
  have hlt : b = 0 ∨ b = 1 := by simpa using (List.mem_filter.1 hb).1
  refine congrArg (mxBlock _) (List.map_congr_left fun i hi => ?_)
  have hi32 := List.mem_range.1 hi
  have hiff : (storeCols cp x).contains (32 * b + i) = true
      ↔ (bit cp (32 * b + i) && decide (32 * b + i < x.cols)) = true := by
    have hlt64 : 32 * b + i < 64 := by omega
    simp only [List.contains_iff_mem, mem_storeCols, Bool.and_eq_true, decide_eq_true_eq, hlt64, and_true]
  simp only [hiff]

end Lists

section Effect
variable {s : State} {g n : Nat} {gr : Group} {c : MCmd} (hg : s.grp g = some gr)
  (hnext : gr.nextDone s.clk (s.tileStalls g gr) = some (n, c)) {a : Nat} {x : Tile} {rp cp : DWord}

theorem runMatrix_mstore (gr : Group) (a : Nat) (x : Tile) (rp cp : DWord) : gr.runMatrix (.mstore x a rp cp)
    = (storeRows rp x).foldl (fun gr m => gr.storeRow x a m (storeCols cp x)) gr := rfl

theorem storeRows_lt {m : Nat} (hm : m ∈ storeRows rp x) : m < x.rows := ((mem_storeRows rp x).1 hm).2.1
theorem storeCols_lt {k : Nat} (hk : k ∈ storeCols cp x) : k < x.cols := ((mem_storeCols cp x).1 hk).2.1

/-- What mstore leaves of a tile that is not of MX (R255). -/
def MstorePlain (s : State) (g : Nat) (gr : Group) (x : Tile) (a : Nat) (rp cp : DWord) (t : State) (gr' : Group) : Prop :=
  (∀ m k, Stores rp cp x m k →
      gr'.tileCode x m k = mstoreCode x.etype x.fmtw (gr.accAt a m k) % 2 ^ tileBits x.etype x.fmtw)
    ∧ (∀ m k, m < x.rows → k < x.cols → ¬ Stores rp cp x m k → gr'.tileCode x m k = gr.tileCode x m k)
    ∧ (∀ o, OutsideRows rp x o → t.spadAt g o = s.spadAt g o)
    ∧ MflAfter gr.mfl gr'.mfl False False False
        (∃ m k, Stores rp cp x m k ∧ (storeCode x (gr.accAt a m k)).2 = true) False

/-- What it leaves of a tile of MX (R255). -/
def MstoreMx (s : State) (g : Nat) (gr : Group) (x : Tile) (a : Nat) (rp cp : DWord) (t : State) (gr' : Group) : Prop :=
  (∀ m b, StoresBlock rp cp x m b → (∀ i < 32, gr'.tileCode x m (32 * b + i)
        = ((mxBlock (x.etype - 0x30) (gr.mxRow x a cp m b)).2.getD i (0, 0)).1 % 2 ^ tileBits x.etype x.fmtw)
      ∧ t.spadAt g (x.scaleAt m (32 * b)) = BitVec.ofNat 8 (mxBlock (x.etype - 0x30) (gr.mxRow x a cp m b)).1)
    ∧ (∀ m b, m < x.rows → 32 * b < x.cols → ¬ StoresBlock rp cp x m b →
        (∀ i < 32, gr'.tileCode x m (32 * b + i) = gr.tileCode x m (32 * b + i))
        ∧ t.spadAt g (x.scaleAt m (32 * b)) = s.spadAt g (x.scaleAt m (32 * b)))
    ∧ (∀ o, OutsideRows rp x o → (∀ m b, StoresBlock rp cp x m b → o ≠ x.scaleAt m (32 * b)) →
        t.spadAt g o = s.spadAt g o)
    ∧ MflAfter gr.mfl gr'.mfl False False False
        (∃ m b, StoresBlock rp cp x m b ∧ (mxBlock (x.etype - 0x30) (gr.mxRow x a cp m b)).1 ≠ 0xff
          ∧ ∃ y ∈ (mxBlock (x.etype - 0x30) (gr.mxRow x a cp m b)).2, y.2 &&& (flOF ||| flNV) ≠ 0) False

section Tiles
variable {t : State} {gr' : Group} (ht : t.grp g = some gr')
  (hsame : gr'.besideQueue = (gr.runMatrix (.mstore x a rp cp)).besideQueue) (hpitch : x.rowBytes ≤ x.pitch)
  (hsp : x.sp ≠ 1) (hclear : gr.meetsBar x.base x.extent = false)
include hg ht hsame hpitch hsp hclear

theorem mstore_plain (hplain : isMx x.etype = false) : MstorePlain s g gr x a rp cp t gr' := by
  obtain ⟨hkeeps, hcodes, hflags⟩ := storeRows_plain hclear hpitch hsp hplain a (nodup_storeRows rp x)
    (nodup_storeCols cp x) (fun _ => storeRows_lt) (fun _ => storeCols_lt) (runMatrix_mstore gr a x rp cp)
  have hcode (m k : Nat) := (Group.congr_besideQueue hsame (fun gr => gr.tileCode x m k) fun _ => rfl).trans (hcodes m k)
  have hmfl := Group.congr_besideQueue hsame Group.mfl fun _ => rfl
  refine ⟨fun m k hst => ?_, fun m k _ _ hst => ?_, fun o ho => ?_, ?_⟩
  · exact (hcode m k).trans (if_pos ((stores_iff rp cp x).1 hst))
  · exact (hcode m k).trans (if_neg (mt (stores_iff rp cp x).2 hst))
  · rw [spadAt_of_besideQueue ht hsame, State.spadAt_of_grp hg]
    exact hkeeps.2 o ((outsideRows_iff rp x).1 ho)
  · rw [hmfl]
    refine mflAfter_of hflags ?_ ?_ ?_ ?_ ?_ fun b hb => ?_
    · simp
    · simp
    · simp
    · simp only [true_and]
      exact exists₂_congr fun m k => and_congr_left' (stores_iff rp cp x).symm
    · simp
    · rintro ⟨m, k, -, rfl, -⟩
      omega

theorem mstore_mx (hmx : isMx x.etype = true) (hcols : x.cols % 32 = 0) : MstoreMx s g gr x a rp cp t gr' := by
  obtain ⟨hbytes, hvisits, hflags⟩ := storeRows_mx hclear hpitch hsp hmx hcols a (bs := storeBlocks cp x) rfl
    (nodup_storeRows rp x) (fun _ => storeRows_lt) (fun _ => storeCols_lt) (runMatrix_mstore gr a x rp cp)
  have hspad (o : Nat) : t.spadAt g o = SMap.getD (gr.runMatrix (.mstore x a rp cp)).spad o 0 :=
    spadAt_of_besideQueue ht hsame o
  have hcode (m k : Nat) : gr'.tileCode x m k = (gr.runMatrix (.mstore x a rp cp)).tileCode x m k :=
    Group.congr_besideQueue hsame (fun gr => gr.tileCode x m k) fun _ => rfl
  have hmfl := Group.congr_besideQueue hsame Group.mfl fun _ => rfl
  have hstored {m b : Nat} (hst : StoresBlock rp cp x m b) := mxStored_eq cp x gr a (m := m)
    (List.mem_product.1 ((storesBlock_iff rp cp x).1 hst)).2
  refine ⟨fun m b hst => ?_, fun m b hm hb hst => ?_, fun o ho hscale => ?_, ?_⟩
  · have hblock : x.HasBlock (m, b) := by
      obtain ⟨i, hi, ⟨-, hm, -⟩, -, hk, -⟩ := hst
      exact ⟨hm, by dsimp only; omega⟩
    obtain ⟨hcodes, hbyte⟩ := Prod.mk.inj ((hvisits (m, b) hblock).trans (if_pos ((storesBlock_iff rp cp x).1 hst)))
    rw [hstored hst] at hcodes hbyte
    exact ⟨fun i hi => (hcode ..).trans (List.map_inj_left.1 hcodes i (List.mem_range.2 hi)), (hspad _).trans hbyte⟩
  · obtain ⟨hcodes, hbyte⟩ := Prod.mk.inj ((hvisits (m, b) ⟨hm, hb⟩).trans (if_neg (mt (storesBlock_iff rp cp x).2 hst)))
    rw [State.spadAt_of_grp hg]
    exact ⟨fun i hi => (hcode ..).trans (List.map_inj_left.1 hcodes i (List.mem_range.2 hi)), (hspad _).trans hbyte⟩
  · rw [hspad, State.spadAt_of_grp hg]
    exact hbytes o ((outsideRows_iff rp x).1 ho) fun p hp => hscale p.1 p.2 ((storesBlock_iff rp cp x).2 hp)
  · rw [hmfl]
    refine mflAfter_of hflags ?_ ?_ ?_ ?_ ?_ fun b hb => ?_
    · simp
    · simp
    · simp
    · simp only [true_and]
      refine Prod.exists.trans (exists₂_congr fun m b => ?_)
      rw [← storesBlock_iff]
      refine and_congr_right fun hst => ?_
      rw [hstored hst]
      simp [blockLoses]
    · simp
    · rintro ⟨p, -, rfl, -⟩
      omega

end Tiles

include hg hnext

theorem mstore_takesEffect (hc : c.kind = .mstore x a rp cp) (hpitch : x.rowBytes ≤ x.pitch) (hsp : x.sp ≠ 1) :
    QuietEnds s g n gr fun t gr' => (∀ a' m k, m < 64 → k < 64 → t.accOf g a' m k = s.accOf g a' m k)
      ∧ (isMx x.etype = false → gr.meetsBar x.base x.extent = false → MstorePlain s g gr x a rp cp t gr')
      ∧ (isMx x.etype = true → gr.meetsBar x.base x.extent = false → x.cols % 32 = 0 → x.cols ≤ 64 →
          MstoreMx s g gr x a rp cp t gr') := by
  refine quietEnds_runMatrix hg hnext (by rw [hc]; rfl) (by rw [hc]; rfl) (by rw [hc]; rfl) fun t gr' ht hsame => ?_
  rw [hc] at hsame
  refine ⟨fun a' m k _ _ => ?_, fun hplain hclear => mstore_plain hg ht hsame hpitch hsp hclear hplain,
    fun hmx hclear hcols _ => mstore_mx hg ht hsame hpitch hsp hclear hmx hcols⟩
  have hkept : (gr.runMatrix (.mstore x a rp cp)).besideSpad = gr.besideSpad :=
    besideSpad_foldl (fun gr m => besideSpad_storeRow gr x a m _) _ gr
  rw [State.accOf_of_grp ht, State.accOf_of_grp hg, accAt_of_besideQueue hsame]
  exact Group.congr_besideSpad hkept (fun gr => gr.accAt a' m k) fun _ => rfl

end Effect

end Sys2Proof.Machine
end

section
namespace Sys2Proof.Machine

/-- Settles O40: each command by the lemma about its end. -/
theorem matrixCommandsTakeEffect : Obligations.MatrixCommandsTakeEffect := by
  unfold Obligations.MatrixCommandsTakeEffect
  intro s g n gr c hg hnext key ends quiet accOnly met
  obtain ⟨hat, hdue, -, hbefore⟩ := of_nextDone hnext
  refine ⟨hat, hdue, hbefore, ?mzero, ?mcvt, ?mload, ?pass, ?passFlags, ?mwload, ?tzero, ?tload, ?tstore, ?mstore,
    ?marrive, ?mflags, ?mflagsUnwritten, ?mswap⟩
  case mzero => exact fun a hc => mzero_effect hg hnext hc
  case mcvt => exact fun a src rp cp f hc => mcvt_effect hg hnext hc
  case mload => exact fun a x rp cp hc => mload_effect hg hnext hc
  case pass => exact fun hc => pass_takesEffect hg hnext hc
  case passFlags =>
    exact fun fam a x rp cpn cpk z plane sm set sfw md side p hc hp hran howed => pass_flags hg hnext hc hp hran howed
  case mwload =>
    intro x sg plane md side hc hplane hcols hmx
    have heffect := mwload_takesEffect hg hnext hc hplane hcols hmx
    cases sg with
    | none => exact heffect
    | some o => exact heffect
  case tzero => exact fun x hc hpitch => tzero_takesEffect hg hnext hc hpitch
  case tload => exact fun us bar hc hus => tload_takesEffect hg hnext hc hus
  case tstore =>
    exact fun us bar sig hc => ⟨fun hv hplain => tstore_home hg hnext hc hv hplain,
      fun hv hall => tstore_version hg hnext hc hv hall⟩
  case mstore => exact fun x a rp cp hc hpitch hsp => mstore_takesEffect hg hnext hc hpitch hsp
  case marrive => exact fun b k hc => marrive_takesEffect hg hnext hc
  case mflags => exact fun d clr hc hd => mflags_takesEffect hg hnext hc hd
  case mflagsUnwritten => exact fun d clr hc => mflags_unwritten_takesEffect hg hnext hc
  case mswap => exact fun hc => mswap_takesEffect hg hnext hc

end Sys2Proof.Machine
end
